-- ==== Sys2Proof/Word.lean ====
section
/-! DEFINITION. The words of the Mihild: bytes, 32-bit registers, 64-bit pairs, register and route fields, lane masks (R4, R5, R19). -/
namespace Sys2Proof

/-- A byte of memory (R5). -/
abbrev Byte := BitVec 8
/-- A 32-bit register or instruction word (R18, R95). -/
abbrev Word := BitVec 32
/-- A 64-bit value: an even/odd register pair, a PC, an address (R14, R19). -/
abbrev DWord := BitVec 64
/-- A register number, v0 to v63 (R18). -/
abbrev Reg := Fin 64
/-- A route field, ROUTE0 to ROUTE3 (R97). -/
abbrev Route := Fin 4
/-- A set of lanes: bit i names lane i (R25, R26). -/
abbrev LaneMask := BitVec 64

/-- The register k places above a register. -/
def Reg.plus (r : Reg) (k : Nat) : Reg := r + Fin.ofNat 64 k

/-- The 64-bit value of a low and a high word (R19). -/
def joinWords (lo hi : Word) : DWord := hi ++ lo
/-- Bits [31:0] of a 64-bit value (R19). -/
def loWord (x : DWord) : Word := x.setWidth 32
/-- Bits [63:32] of a 64-bit value (R19). -/
def hiWord (x : DWord) : Word := (x >>> 32).setWidth 32

/-- Is lane i in the set? -/
def LaneMask.has (m : LaneMask) (i : Nat) : Bool := m.getLsbD i

/-- The lanes of a set below a width, in ascending index (R219). -/
def lanesOf (m : LaneMask) (width : Nat) : List Nat := (List.range width).filter fun i => m.getLsbD i

/-- The set of every lane of a width (R25). -/
def fullMask (width : Nat) : LaneMask := BitVec.ofNat 64 (2 ^ width - 1)

/-- The set of the lanes a list names. -/
def maskOf (ls : List Nat) : LaneMask := ls.foldl (fun m i => m ||| (1#64 <<< i)) 0

/-- The bytes of a number, lowest address first (R5). -/
def bytesOfNat : Nat → Nat → List Byte
  | 0, _ => []
  | n + 1, v => BitVec.ofNat 8 v :: bytesOfNat n (v / 256)

/-- The number whose bytes are listed, lowest address first (R5). -/
def natOfBytes : List Byte → Nat
  | [] => 0
  | b :: bs => b.toNat + 256 * natOfBytes bs

/-- The low word of a list of four or more bytes. -/
def wordOfBytes (bs : List Byte) : Word := BitVec.ofNat 32 (natOfBytes (bs.take 4))
/-- The 64-bit value of a list of eight or more bytes. -/
def dwordOfBytes (bs : List Byte) : DWord := BitVec.ofNat 64 (natOfBytes (bs.take 8))

/-- n bytes of a list from an offset, as a number (R5). -/
def fieldAt (bs : List Byte) (off n : Nat) : Nat := natOfBytes ((bs.drop off).take n)

end Sys2Proof
end

