-- ==== Sys2Proof/Syntax.lean ====
section
/-! DEFINITION. The instructions and steps of the Mihild: one constructor of Instr for each row of spec/opcode_table.json, the 306 encoded instructions (R95 to R114) first and the 113 steps without a word (spec/95_what_each_step_holds.md) after them. -/
namespace Sys2Proof

/-- A completion token, tk0 to tk7 (R38). -/
abbrev Token := Fin 8
/-- A step domain, 0 to 15 (R112). -/
abbrev Domain := Fin 16

/-- The formats a cvt names (R104). -/
inductive Fmt where
  | fp32 | fp64 | fp16 | bf16 | e4m3 | e5m2 | s32 | u32 | s8
  deriving DecidableEq, Repr

/-- The forms of ld and ld.raw (R107). -/
inductive LoadForm where
  | s8 | u8 | s16 | u16 | w32 | w64 | w128
  deriving DecidableEq, Repr

/-- The forms of st and st.raw (R107). -/
inductive StoreForm where
  | b8 | b16 | w32 | w64 | w128
  deriving DecidableEq, Repr

/-- The sizes of cp.async (R109). -/
inductive CopySize where
  | b4 | b8 | b16 | b32 | b64
  deriving DecidableEq, Repr

/-- The condition codes of g.cmp (R113). -/
inductive Cond where
  | eq | ne | lt | le | gt | ge | ltu | leu | gtu | geu
  deriving DecidableEq, Repr

/-- The scopes, narrowest first (R113, R319). -/
inductive Scope where
  | group | team | cluster | die | device | domain | system
  deriving DecidableEq, Repr

/-- The gate functions of lop3 (R183). -/
inductive Lop3Fn where
  | xor3 | maj | mux | and3 | or3 | andor | orand | xorand | andxor | orxor
  deriving DecidableEq, Repr

/-- The patterns of a route entry (R36, R37). -/
inductive RouteKind where
  | ident | rot | bcast | bfly | mirror
  deriving DecidableEq, Repr

/-- The operations of the atomics (R108, R227). -/
inductive AtomOp where
  | add | and | or | xor | min | max | minu | maxu
  | exch | cas | add64 | exch64 | cas64
  | fadd | fmin | fmax | dadd | hadd2 | badd2
  deriving DecidableEq, Repr

/-- Which porter of a core (R434). -/
inductive Role where
  | loader | storer
  deriving DecidableEq, Repr

/-- The header fields of a flit that the receiver acts on (R447, R448): the port it came in by, its link numbers, its end-to-end numbers, and which payload lines failed their check value (R400). -/
structure FlitHdr where
  port : Nat
  lseq : Nat
  lack : Nat
  hops : Nat
  dest : Nat
  src : Nat
  tag : Nat
  eseq : Nat
  badLines : Nat
  deriving DecidableEq, Repr

/-- What a part of a remote read asks for (R453, R454): a decoded or raw load of a form, an amax word, the bytes of a copy, the checks of a copy's source, of a store or of an atomic alone, the checks of a bucket, or an arrival at it (R247). -/
inductive RdKind where
  | load (f : LoadForm) | raw (f : LoadForm) | amax | bytes (n : Nat) | readCheck (n : Nat) | storeCheck (f : StoreForm) | storeRawCheck (f : StoreForm) | writeCheck (n : Nat) | bucketCheck | bucket
  deriving DecidableEq, Repr

/-- One lane's share of a remote read request (R454). -/
structure RdPart where
  lane : Nat
  la : Nat
  kind : RdKind
  deriving DecidableEq, Repr

/-- One lane's share of a remote write (R453): the bytes as stored, or the register words of an encoding store. -/
structure WrPart where
  la : Nat
  encode : Option StoreForm
  words : List Word
  bytes : List Byte
  deriving DecidableEq, Repr

/-- A remote read request: the identifier it is translated under, whether a handler issues it (R359), the lanes that share it (R453, R454), and the participant's own staged writes to the device, oldest first (R342). -/
structure RdReq where
  asid : Nat
  hnd : Bool := false
  parts : List RdPart
  own : List WrPart := []
  deriving DecidableEq, Repr

/-- A posted remote write (R453), with whether a handler issues it (R359) and whether the target passed its checks of R218 at its issue (R351). -/
structure WrReq where
  asid : Nat
  hnd : Bool := false
  checked : Bool := false
  parts : List WrPart
  deriving DecidableEq, Repr

/-- One lane's share of a remote atomic (R229, R454). -/
structure AtomPart where
  lane : Nat
  la : Nat
  args : List Word
  deriving DecidableEq, Repr

/-- A remote atomic request (R454), with whether a handler issues it (R359). -/
structure AtomReqMsg where
  asid : Nat
  hnd : Bool := false
  op : AtomOp
  parts : List AtomPart
  deriving DecidableEq, Repr

/-- A request answered by a failure: the cause code of R354, the lanes that raise it, and an address (R454). A load's lanes may differ (R224): more holds the other causes with their lanes and addresses, vals the registers of the lanes that have their data; held is set where the target held the request for a recompute, so that BAD_BLOCK is deferred (R352). -/
structure FailMsg where
  code : Nat
  lanes : LaneMask
  addr : DWord
  held : Bool := false
  more : List (Nat × LaneMask × DWord) := []
  vals : List (Nat × List Word) := []
  deriving DecidableEq, Repr

/-- Where the root of a graph lies (R46): the device, the identifier under which its address is translated, and the local address of its completion record. -/
structure RootAddr where
  device : Nat
  asid : Nat
  la : Nat
  deriving DecidableEq, Repr

/-- An invocation on its way to the executing device (R153 to R155): the new claim, the fields of its record, the address at which the target claim resolved, and the weight it carries with its root. -/
structure InvokeMsg where
  asid : Nat
  claim : DWord
  lifetime : Nat
  launch : Nat
  retAddr : DWord
  retLen : Nat
  target : DWord
  args : List Byte
  weight : Nat
  root : Option RootAddr
  deriving DecidableEq, Repr

/-- A message to a claim (R458): an invocation, weight, or a status request that awaits or only tests. -/
inductive ClaimBody where
  | invoke (m : InvokeMsg)
  | weight (amount : Nat) (root : RootAddr)
  | status (await : Bool) (device tag : Nat)
  deriving DecidableEq, Repr

/-- A message to a claim, with the claim (R458). -/
structure ClaimMsgData where
  claim : DWord
  body : ClaimBody
  deriving DecidableEq, Repr

/-- What CLAIMRES carries: the device that a forwarded invocation has been sent on to (R473), the start of an invoked launch, its resolution or its break reaching the home, the home's answer to a status request, and the end of a result's life reaching its device (R155 to R159, R458). -/
inductive ClaimResData where
  | sent (claim : DWord) (device : Nat)
  | started (claim : DWord) (device : Nat)
  | expired (claim : DWord) (la : Nat)
  | resolved (claim : DWord) (device la lifetime : Nat)
  | broken (claim : DWord) (cause : Nat) (depth : Nat)
  | answer (tag : Nat) (word : Word)
  deriving DecidableEq, Repr

/-- What SIGNAL carries (R46, R159, R160): weight returned to a root, a request to borrow, the grant, weight for a launch of this device, and the acknowledgement of a signal. -/
inductive SignalData where
  | giveBack (root : RootAddr) (amount : Nat)
  | borrow (root : RootAddr) (device tag : Nat)
  | grant (tag : Nat) (ok : Bool)
  | toLaunch (claim : DWord) (amount : Nat) (root : RootAddr)
  | ack (launch : Nat)
  deriving DecidableEq, Repr

/-- What COLL carries (R311 to R317, R461): a participant's post and its source, a settled gate, a partial result on its way up, the result on its way down, a participant's own verdict, a withdrawal. -/
inductive CollData where
  | post (collid : DWord) (device number : Nat) (fields : List Byte)
  | gate (collid : DWord) (device number : Nat) (cause : Nat) (claim : DWord)
  | up (collid : DWord) (level index : Nat) (flags : Nat) (data : List Byte)
  | down (collid : DWord) (flags : Nat) (data : List Byte)
  | verdict (collid : DWord) (device : Nat) (code : Nat)
  | withdraw (collid : DWord)
  deriving DecidableEq, Repr

/-- The header of an authenticated HCP request: session and request number (R464). -/
structure HcpHdr where
  session : Nat
  seq : Nat
  deriving DecidableEq, Repr

/-- A chunk of an image, a firmware or a table carried by HCP (R53, R467). -/
structure Chunk where
  offset : Nat
  data : List Byte
  last : Bool
  deriving DecidableEq, Repr

/-- What an HCP READ asks for (R467). -/
inductive ReadWhat where
  | epochs
  | tile (asid la : Nat)
  | context (pa len : Nat)
  | telemetry
  deriving DecidableEq, Repr

/-- What an HCP RESUME writes before the return (R363). -/
structure ResumeData where
  launch : Nat
  team : Nat
  group : Nat
  trappcs : List (Nat × DWord)
  saveden : Option LaneMask
  regs : List (Nat × Nat × Word)
  deriving DecidableEq, Repr

/-- An HCP session as the management controller installs it (R465, R469, R480). -/
structure SessionData where
  host : Nat
  evAddr : Nat
  evPort : Nat
  key : Nat
  deriving DecidableEq, Repr

/-- The instructions of the Mihild and its other steps, one constructor per row of spec/opcode_table.json. -/
inductive Instr where
  /-- R178. Lane integer add: each active lane writes a + b modulo 2^32. -/
  | add (d a : Reg) (r : Route) (b : Reg) (s : Route)
  /-- R178. Lane integer subtract a − b. -/
  | sub (d a : Reg) (r : Route) (b : Reg) (s : Route)
  /-- R178. Lane multiply, low 32 bits of a × b. -/
  | mul (d a : Reg) (r : Route) (b : Reg) (s : Route)
  /-- R178. Lane multiply, high 32 bits of the signed product. -/
  | mulh (d a : Reg) (r : Route) (b : Reg) (s : Route)
  /-- R178. Lane multiply, high 32 bits of the unsigned product. -/
  | mulhu (d a : Reg) (r : Route) (b : Reg) (s : Route)
  /-- R178. Lane multiply-add a × b + c into vd. -/
  | mad (d a : Reg) (r : Route) (b : Reg) (s : Route)
  /-- R178. Lane bitwise AND. -/
  | and (d a : Reg) (r : Route) (b : Reg) (s : Route)
  /-- R178. Lane bitwise OR. -/
  | or (d a : Reg) (r : Route) (b : Reg) (s : Route)
  /-- R178. Lane bitwise XOR. -/
  | xor (d a : Reg) (r : Route) (b : Reg) (s : Route)
  /-- R178. Lane shift left by b mod 32. -/
  | shl (d a : Reg) (r : Route) (b : Reg) (s : Route)
  /-- R178. Lane logical shift right by b mod 32. -/
  | shr (d a : Reg) (r : Route) (b : Reg) (s : Route)
  /-- R178. Lane arithmetic shift right by b mod 32. -/
  | sar (d a : Reg) (r : Route) (b : Reg) (s : Route)
  /-- R178. Lane rotate left by b mod 32. -/
  | rot (d a : Reg) (r : Route) (b : Reg) (s : Route)
  /-- R178. Lane signed minimum. -/
  | min (d a : Reg) (r : Route) (b : Reg) (s : Route)
  /-- R178. Lane signed maximum. -/
  | max (d a : Reg) (r : Route) (b : Reg) (s : Route)
  /-- R178. Lane unsigned minimum. -/
  | minu (d a : Reg) (r : Route) (b : Reg) (s : Route)
  /-- R178. Lane unsigned maximum. -/
  | maxu (d a : Reg) (r : Route) (b : Reg) (s : Route)
  /-- R178. Lane integer absolute value. -/
  | abs (d a : Reg) (r : Route)
  /-- R178. Lane select a when prior vd is nonzero, else b. -/
  | sel (d a : Reg) (r : Route) (b : Reg) (s : Route)
  /-- R178. Lane count of leading zero bits. -/
  | clz (d a : Reg) (r : Route)
  /-- R178. Lane population count. -/
  | popc (d a : Reg) (r : Route)
  /-- R178. Lane bit reversal. -/
  | brev (d a : Reg) (r : Route)
  /-- R180. Lane signed bit-field extract with descriptor b. -/
  | bfx (d a : Reg) (r : Route) (b : Reg) (s : Route)
  /-- R180. Lane unsigned bit-field extract. -/
  | bfxu (d a : Reg) (r : Route) (b : Reg) (s : Route)
  /-- R180. Lane bit-field insert of a into prior vd. -/
  | bfi (d a : Reg) (r : Route) (b : Reg) (s : Route)
  /-- R179. Lane add writing the sum and carry out into a pair. -/
  | addc (d a : Reg) (r : Route) (b : Reg) (s : Route)
  /-- R179. Lane subtract writing the difference and borrow into a pair. -/
  | subb (d a : Reg) (r : Route) (b : Reg) (s : Route)
  /-- R178. Lane signed saturating add. -/
  | addS (d a : Reg) (r : Route) (b : Reg) (s : Route)
  /-- R178. Lane unsigned saturating add. -/
  | addUs (d a : Reg) (r : Route) (b : Reg) (s : Route)
  /-- R178. Lane signed saturating subtract. -/
  | subS (d a : Reg) (r : Route) (b : Reg) (s : Route)
  /-- R178. Lane unsigned saturating subtract. -/
  | subUs (d a : Reg) (r : Route) (b : Reg) (s : Route)
  /-- R181. Lane compare equal, writing 1 or 0. -/
  | cmpEq (d a : Reg) (r : Route) (b : Reg) (s : Route)
  /-- R181. Lane compare not equal. -/
  | cmpNe (d a : Reg) (r : Route) (b : Reg) (s : Route)
  /-- R181. Lane signed compare less than. -/
  | cmpLt (d a : Reg) (r : Route) (b : Reg) (s : Route)
  /-- R181. Lane signed compare less or equal. -/
  | cmpLe (d a : Reg) (r : Route) (b : Reg) (s : Route)
  /-- R181. Lane signed compare greater than. -/
  | cmpGt (d a : Reg) (r : Route) (b : Reg) (s : Route)
  /-- R181. Lane signed compare greater or equal. -/
  | cmpGe (d a : Reg) (r : Route) (b : Reg) (s : Route)
  /-- R181. Lane unsigned compare less than. -/
  | cmpLtu (d a : Reg) (r : Route) (b : Reg) (s : Route)
  /-- R181. Lane unsigned compare less or equal. -/
  | cmpLeu (d a : Reg) (r : Route) (b : Reg) (s : Route)
  /-- R181. Lane unsigned compare greater than. -/
  | cmpGtu (d a : Reg) (r : Route) (b : Reg) (s : Route)
  /-- R181. Lane unsigned compare greater or equal. -/
  | cmpGeu (d a : Reg) (r : Route) (b : Reg) (s : Route)
  /-- R184. Forms a mask of active lanes with a nonzero and writes it to every active lane. -/
  | ballot (d a : Reg) (r : Route)
  /-- R185. Writes 1 when every active lane holds a nonzero value. -/
  | voteAll (d a : Reg) (r : Route)
  /-- R185. Writes 1 when any active lane holds a nonzero value. -/
  | voteAny (d a : Reg) (r : Route)
  /-- R185. Writes 1 when every active lane holds the same value. -/
  | voteUni (d a : Reg) (r : Route)
  /-- R186. Each lane reads the SA register of lane b mod W. -/
  | perm (d a b : Reg) (s : Route)
  /-- R187. Copies a, read through its route, into vd. -/
  | mov (d a : Reg) (r : Route)
  /-- R189. Each active lane calls its own 64-bit target and writes its link pair, with the budget check. -/
  | callv (d a : Reg) (r : Route)
  /-- R190. Each active lane jumps to the 64-bit address in its own pair. -/
  | retv (a : Reg)
  /-- R32. The lane enters the waiting state at its PC with the mask read from its own register. -/
  | rejoin (a : Reg)
  /-- R192. Each active lane exits. -/
  | exitl
  /-- R194. FP32 add rounded once. -/
  | fadd (d a : Reg) (r : Route) (b : Reg) (s : Route)
  /-- R194. FP32 subtract. -/
  | fsub (d a : Reg) (r : Route) (b : Reg) (s : Route)
  /-- R194. FP32 multiply. -/
  | fmul (d a : Reg) (r : Route) (b : Reg) (s : Route)
  /-- R194. FP32 fused multiply-add with one rounding. -/
  | ffma (d a : Reg) (r : Route) (b : Reg) (s : Route)
  /-- R194. FP32 minimumNumber. -/
  | fmin (d a : Reg) (r : Route) (b : Reg) (s : Route)
  /-- R194. FP32 maximumNumber. -/
  | fmax (d a : Reg) (r : Route) (b : Reg) (s : Route)
  /-- R198. Writes the one-hot class of an FP32 value. -/
  | fcls (d a : Reg) (r : Route)
  /-- R195. FP32 divide rounded once. -/
  | fdiv (d a : Reg) (r : Route) (b : Reg) (s : Route)
  /-- R195. FP32 square root. -/
  | fsqrt (d a : Reg) (r : Route)
  /-- R195. FP32 reciprocal. -/
  | frcp (d a : Reg) (r : Route)
  /-- R195. FP32 reciprocal square root. -/
  | frsq (d a : Reg) (r : Route)
  /-- R195. FP32 base-2 exponential. -/
  | fex2 (d a : Reg) (r : Route)
  /-- R195. FP32 base-2 logarithm. -/
  | flg2 (d a : Reg) (r : Route)
  /-- R196. Copies a with the sign of b, as bits. -/
  | fsgnCpy (d a : Reg) (r : Route) (b : Reg) (s : Route)
  /-- R196. Inverts the sign bit of a. -/
  | fsgnNeg (d a : Reg) (r : Route)
  /-- R196. Sets the sign to a's sign XOR b's sign. -/
  | fsgnXor (d a : Reg) (r : Route) (b : Reg) (s : Route)
  /-- R196. Clears the sign bit of a. -/
  | fsgnAbs (d a : Reg) (r : Route)
  /-- R197. Rounds FP32 to integral, nearest-even. -/
  | frndRn (d a : Reg) (r : Route)
  /-- R197. Rounds FP32 to integral toward zero. -/
  | frndRz (d a : Reg) (r : Route)
  /-- R197. Rounds FP32 to integral toward −∞. -/
  | frndRm (d a : Reg) (r : Route)
  /-- R197. Rounds FP32 to integral toward +∞. -/
  | frndRp (d a : Reg) (r : Route)
  /-- R199. FP32 quiet compare equal. -/
  | fcmpEq (d a : Reg) (r : Route) (b : Reg) (s : Route)
  /-- R199. FP32 quiet compare not equal. -/
  | fcmpNe (d a : Reg) (r : Route) (b : Reg) (s : Route)
  /-- R199. FP32 signalling compare less than. -/
  | fcmpLt (d a : Reg) (r : Route) (b : Reg) (s : Route)
  /-- R199. FP32 signalling compare less or equal. -/
  | fcmpLe (d a : Reg) (r : Route) (b : Reg) (s : Route)
  /-- R199. FP32 signalling compare greater than. -/
  | fcmpGt (d a : Reg) (r : Route) (b : Reg) (s : Route)
  /-- R199. FP32 signalling compare greater or equal. -/
  | fcmpGe (d a : Reg) (r : Route) (b : Reg) (s : Route)
  /-- R199. FP32 unordered test. -/
  | fcmpUn (d a : Reg) (r : Route) (b : Reg) (s : Route)
  /-- R199. FP32 ordered test. -/
  | fcmpOrd (d a : Reg) (r : Route) (b : Reg) (s : Route)
  /-- R200. FP64 add on register pairs. -/
  | dadd (d a : Reg) (r : Route) (b : Reg) (s : Route)
  /-- R200. FP64 subtract. -/
  | dsub (d a : Reg) (r : Route) (b : Reg) (s : Route)
  /-- R200. FP64 multiply. -/
  | dmul (d a : Reg) (r : Route) (b : Reg) (s : Route)
  /-- R200. FP64 fused multiply-add. -/
  | dfma (d a : Reg) (r : Route) (b : Reg) (s : Route)
  /-- R200. FP64 minimumNumber. -/
  | dmin (d a : Reg) (r : Route) (b : Reg) (s : Route)
  /-- R200. FP64 maximumNumber. -/
  | dmax (d a : Reg) (r : Route) (b : Reg) (s : Route)
  /-- R200. FP64 divide. -/
  | ddiv (d a : Reg) (r : Route) (b : Reg) (s : Route)
  /-- R200. FP64 square root. -/
  | dsqrt (d a : Reg) (r : Route)
  /-- R200. FP64 round to integral, nearest-even. -/
  | drndRn (d a : Reg) (r : Route)
  /-- R200. FP64 round to integral toward zero. -/
  | drndRz (d a : Reg) (r : Route)
  /-- R200. FP64 round to integral toward −∞. -/
  | drndRm (d a : Reg) (r : Route)
  /-- R200. FP64 round to integral toward +∞. -/
  | drndRp (d a : Reg) (r : Route)
  /-- R199. FP64 quiet compare equal. -/
  | dcmpEq (d a : Reg) (r : Route) (b : Reg) (s : Route)
  /-- R199. FP64 quiet compare not equal. -/
  | dcmpNe (d a : Reg) (r : Route) (b : Reg) (s : Route)
  /-- R199. FP64 signalling compare less than. -/
  | dcmpLt (d a : Reg) (r : Route) (b : Reg) (s : Route)
  /-- R199. FP64 signalling compare less or equal. -/
  | dcmpLe (d a : Reg) (r : Route) (b : Reg) (s : Route)
  /-- R199. FP64 signalling compare greater than. -/
  | dcmpGt (d a : Reg) (r : Route) (b : Reg) (s : Route)
  /-- R199. FP64 signalling compare greater or equal. -/
  | dcmpGe (d a : Reg) (r : Route) (b : Reg) (s : Route)
  /-- R199. FP64 unordered test. -/
  | dcmpUn (d a : Reg) (r : Route) (b : Reg) (s : Route)
  /-- R199. FP64 ordered test. -/
  | dcmpOrd (d a : Reg) (r : Route) (b : Reg) (s : Route)
  /-- R201. Packed FP16 add of two halves. -/
  | hadd2 (d a : Reg) (r : Route) (b : Reg) (s : Route)
  /-- R201. Packed FP16 multiply. -/
  | hmul2 (d a : Reg) (r : Route) (b : Reg) (s : Route)
  /-- R201. Packed FP16 fused multiply-add. -/
  | hfma2 (d a : Reg) (r : Route) (b : Reg) (s : Route)
  /-- R201. Packed FP16 maximumNumber. -/
  | hmax2 (d a : Reg) (r : Route) (b : Reg) (s : Route)
  /-- R201. Packed BF16 add. -/
  | badd2 (d a : Reg) (r : Route) (b : Reg) (s : Route)
  /-- R201. Packed BF16 multiply. -/
  | bmul2 (d a : Reg) (r : Route) (b : Reg) (s : Route)
  /-- R201. Packed BF16 fused multiply-add. -/
  | bfma2 (d a : Reg) (r : Route) (b : Reg) (s : Route)
  /-- R201. Packed BF16 maximumNumber. -/
  | bmax2 (d a : Reg) (r : Route) (b : Reg) (s : Route)
  /-- R202. Converts one value between the formats named in SB under FPRM, default overflow form. -/
  | cvt (d a : Reg) (r : Route) (t u : Fmt)
  /-- R202. Conversion under FPRM with the saturating overflow form. -/
  | cvtSat (d a : Reg) (r : Route) (t u : Fmt)
  /-- R202. Conversion rounding to nearest-even. -/
  | cvtRn (d a : Reg) (r : Route) (t u : Fmt)
  /-- R202. Conversion rounding toward zero. -/
  | cvtRz (d a : Reg) (r : Route) (t u : Fmt)
  /-- R202. Conversion rounding toward −∞. -/
  | cvtRm (d a : Reg) (r : Route) (t u : Fmt)
  /-- R202. Conversion rounding toward +∞. -/
  | cvtRp (d a : Reg) (r : Route) (t u : Fmt)
  /-- R204. Packs two FP32 values into FP16 halves. -/
  | pkF16 (d a : Reg) (r : Route) (b : Reg) (s : Route)
  /-- R204. Packs two FP32 values into BF16 halves. -/
  | pkBf16 (d a : Reg) (r : Route) (b : Reg) (s : Route)
  /-- R204. Packs two FP32 values into E4M3 bytes, default form. -/
  | pkE4m3 (d a : Reg) (r : Route) (b : Reg) (s : Route)
  /-- R204. Packs two FP32 values into E5M2 bytes, default form. -/
  | pkE5m2 (d a : Reg) (r : Route) (b : Reg) (s : Route)
  /-- R204. Packs into E4M3 with saturation. -/
  | pkE4m3Sat (d a : Reg) (r : Route) (b : Reg) (s : Route)
  /-- R204. Packs into E5M2 with saturation. -/
  | pkE5m2Sat (d a : Reg) (r : Route) (b : Reg) (s : Route)
  /-- R204. Packs two INT32 values into INT8 bytes modulo 2^8. -/
  | pkI8 (d a : Reg) (r : Route) (b : Reg) (s : Route)
  /-- R204. Packs two INT32 values into saturated INT8 bytes. -/
  | pkI8S (d a : Reg) (r : Route) (b : Reg) (s : Route)
  /-- R206. Builds a BQ4 block of TYPE 0 across 32 lanes. -/
  | pkBq4T0 (d a : Reg) (r : Route)
  /-- R206. Builds a BQ4 block of TYPE 1 across 32 lanes. -/
  | pkBq4T1 (d a : Reg) (r : Route)
  /-- R206. Builds a BQ4 block of TYPE 2 across 32 lanes. -/
  | pkBq4T2 (d a : Reg) (r : Route)
  /-- R206. Builds a BQ4 block of TYPE 3 across 32 lanes. -/
  | pkBq4T3 (d a : Reg) (r : Route)
  /-- R205. Widens two FP16 halves to FP32 in a pair. -/
  | unpkF16 (d a : Reg) (r : Route)
  /-- R205. Widens two BF16 halves to FP32 in a pair. -/
  | unpkBf16 (d a : Reg) (r : Route)
  /-- R205. Widens four E4M3 bytes to FP32 in a quad. -/
  | unpkE4m3 (d a : Reg) (r : Route)
  /-- R205. Widens four E5M2 bytes to FP32 in a quad. -/
  | unpkE5m2 (d a : Reg) (r : Route)
  /-- R205. Sign-extends four INT8 bytes into a quad. -/
  | unpkI8 (d a : Reg) (r : Route)
  /-- R207. Decodes element k of a BQ4 block held across lanes into FP32. -/
  | unpkBq4 (d a : Reg)
  /-- R208. Writes a stream quad with key (a, b) and position 0. -/
  | rngKey (d a : Reg) (r : Route) (b : Reg) (s : Route)
  /-- R209. Draws one 32-bit word of the lane's stream and advances it. -/
  | rngDraw (d a : Reg)
  /-- R209. Draws an FP32 value in [0,1) and advances the stream. -/
  | rngDrawF32 (d a : Reg)
  /-- R209. Draws an FP64 value in [0,1) from two words. -/
  | rngDrawF64 (d a : Reg)
  /-- R208. Moves a stream's position by a 64-bit amount. -/
  | rngSkip (d a : Reg) (r : Route) (b : Reg) (s : Route)
  /-- R211. Writes the aged read of an AE64 element at the domain's datum. -/
  | aget (d a : Reg) (r : Route) (b : Reg) (s : Route)
  /-- R212. Decays an aged element to the datum, adds x with one rounding, restamps. -/
  | aadd (d a : Reg) (r : Route) (b : Reg) (s : Route)
  /-- R213. Merges two aged elements at the newer stamp with one rounding. -/
  | amerge (d a : Reg) (r : Route) (b : Reg) (s : Route)
  /-- R214. Writes an aged element with value a, the current datum and selector. -/
  | aset (d a : Reg) (r : Route) (b : Reg) (s : Route)
  /-- R182. Lane add of a sign-extended immediate. -/
  | addImm (d a : Reg) (i : BitVec 13)
  /-- R182. Lane AND with an immediate. -/
  | andImm (d a : Reg) (i : BitVec 13)
  /-- R182. Lane OR with an immediate. -/
  | orImm (d a : Reg) (i : BitVec 13)
  /-- R182. Lane XOR with an immediate. -/
  | xorImm (d a : Reg) (i : BitVec 13)
  /-- R182. Lane shift left by an immediate amount. -/
  | shlImm (d a : Reg) (n : BitVec 5)
  /-- R182. Lane logical shift right by an immediate amount. -/
  | shrImm (d a : Reg) (n : BitVec 5)
  /-- R182. Lane arithmetic shift right by an immediate amount. -/
  | sarImm (d a : Reg) (n : BitVec 5)
  /-- R182. Lane rotate left by an immediate amount. -/
  | rotImm (d a : Reg) (n : BitVec 5)
  /-- R182. Lane move of a sign-extended immediate. -/
  | movImm (d : Reg) (i : BitVec 13)
  /-- R183. Combines a, b and prior vd bit by bit with the selected gate function after inversions. -/
  | lop3 (d a b : Reg) (f : Lop3Fn) (m : BitVec 3)
  /-- R183. As lop3, writing the complement of the function. -/
  | lop3Not (d a b : Reg) (f : Lop3Fn) (m : BitVec 3)
  /-- R188. Lane branch taken by each active lane whose own vc is nonzero. -/
  | brcNz (c : Reg) (f : BitVec 19)
  /-- R188. Lane branch taken by each active lane whose own vc is zero. -/
  | brcZ (c : Reg) (f : BitVec 19)
  /-- R221. Loads the form's width from EA in each active lane, decoding under the page FMT. -/
  | ld (d a : Reg) (k : LoadForm) (f : BitVec 9)
  /-- R220. Loads N raw bytes in each active lane whatever the page format. -/
  | ldRaw (d a : Reg) (k : LoadForm) (f : BitVec 9)
  /-- R223. Stores the form's width to EA in each active lane, encoding under the page FMT. -/
  | st (d a : Reg) (k : StoreForm) (f : BitVec 9)
  /-- R220. Stores N raw bytes in each active lane. -/
  | stRaw (d a : Reg) (k : StoreForm) (f : BitVec 9)
  /-- R226. Brings the line holding EA toward its home L2, with no effect on values. -/
  | prefetchL2 (a : Reg) (f : BitVec 9)
  /-- R226. Brings the line holding EA into the issuing core's L1. -/
  | prefetchL1 (a : Reg) (f : BitVec 9)
  /-- R227. Ordered atomic 32-bit add returning the prior value. -/
  | atomOAdd (d a : Reg) (f : BitVec 9)
  /-- R227. Ordered atomic AND. -/
  | atomOAnd (d a : Reg) (f : BitVec 9)
  /-- R227. Ordered atomic OR. -/
  | atomOOr (d a : Reg) (f : BitVec 9)
  /-- R227. Ordered atomic XOR. -/
  | atomOXor (d a : Reg) (f : BitVec 9)
  /-- R227. Ordered atomic signed minimum. -/
  | atomOMin (d a : Reg) (f : BitVec 9)
  /-- R227. Ordered atomic signed maximum. -/
  | atomOMax (d a : Reg) (f : BitVec 9)
  /-- R227. Ordered atomic unsigned minimum. -/
  | atomOMinu (d a : Reg) (f : BitVec 9)
  /-- R227. Ordered atomic unsigned maximum. -/
  | atomOMaxu (d a : Reg) (f : BitVec 9)
  /-- R227. Unordered atomic 32-bit add. -/
  | atomUAdd (d a : Reg) (f : BitVec 9)
  /-- R227. Unordered atomic AND. -/
  | atomUAnd (d a : Reg) (f : BitVec 9)
  /-- R227. Unordered atomic OR. -/
  | atomUOr (d a : Reg) (f : BitVec 9)
  /-- R227. Unordered atomic XOR. -/
  | atomUXor (d a : Reg) (f : BitVec 9)
  /-- R227. Unordered atomic signed minimum. -/
  | atomUMin (d a : Reg) (f : BitVec 9)
  /-- R227. Unordered atomic signed maximum. -/
  | atomUMax (d a : Reg) (f : BitVec 9)
  /-- R227. Unordered atomic unsigned minimum. -/
  | atomUMinu (d a : Reg) (f : BitVec 9)
  /-- R227. Unordered atomic unsigned maximum. -/
  | atomUMaxu (d a : Reg) (f : BitVec 9)
  /-- R227. Ordered atomic 32-bit exchange. -/
  | atomOExch (d a : Reg) (f : BitVec 9)
  /-- R227. Ordered atomic 32-bit compare-and-swap. -/
  | atomOCas (d a : Reg) (f : BitVec 9)
  /-- R227. Ordered atomic 64-bit add. -/
  | atomOAdd64 (d a : Reg) (f : BitVec 9)
  /-- R227. Ordered atomic 64-bit exchange. -/
  | atomOExch64 (d a : Reg) (f : BitVec 9)
  /-- R227. Ordered atomic 64-bit compare-and-swap. -/
  | atomOCas64 (d a : Reg) (f : BitVec 9)
  /-- R227. Unordered atomic 32-bit exchange. -/
  | atomUExch (d a : Reg) (f : BitVec 9)
  /-- R227. Unordered atomic 32-bit compare-and-swap. -/
  | atomUCas (d a : Reg) (f : BitVec 9)
  /-- R227. Unordered atomic 64-bit add. -/
  | atomUAdd64 (d a : Reg) (f : BitVec 9)
  /-- R227. Unordered atomic 64-bit exchange. -/
  | atomUExch64 (d a : Reg) (f : BitVec 9)
  /-- R227. Unordered atomic 64-bit compare-and-swap. -/
  | atomUCas64 (d a : Reg) (f : BitVec 9)
  /-- R227. Ordered atomic FP32 add, nearest-even. -/
  | fatomOFadd (d a : Reg) (f : BitVec 9)
  /-- R227. Ordered atomic FP32 minimumNumber. -/
  | fatomOFmin (d a : Reg) (f : BitVec 9)
  /-- R227. Ordered atomic FP32 maximumNumber. -/
  | fatomOFmax (d a : Reg) (f : BitVec 9)
  /-- R227. Ordered atomic FP64 add. -/
  | fatomODadd (d a : Reg) (f : BitVec 9)
  /-- R227. Ordered atomic packed FP16 add. -/
  | fatomOHadd2 (d a : Reg) (f : BitVec 9)
  /-- R227. Ordered atomic packed BF16 add. -/
  | fatomOBadd2 (d a : Reg) (f : BitVec 9)
  /-- R227. Unordered atomic FP32 add. -/
  | fatomUFadd (d a : Reg) (f : BitVec 9)
  /-- R227. Unordered atomic FP32 minimumNumber. -/
  | fatomUFmin (d a : Reg) (f : BitVec 9)
  /-- R227. Unordered atomic FP32 maximumNumber. -/
  | fatomUFmax (d a : Reg) (f : BitVec 9)
  /-- R227. Unordered atomic FP64 add. -/
  | fatomUDadd (d a : Reg) (f : BitVec 9)
  /-- R227. Unordered atomic packed FP16 add. -/
  | fatomUHadd2 (d a : Reg) (f : BitVec 9)
  /-- R227. Unordered atomic packed BF16 add. -/
  | fatomUBadd2 (d a : Reg) (f : BitVec 9)
  /-- R231. Each active lane starts a copy of s bytes from EA into scratchpad in the open batch. -/
  | cpAsyncIn (d a : Reg) (s : CopySize) (f : BitVec 9)
  /-- R231. Each active lane starts a copy of s bytes from scratchpad to EA in the open batch. -/
  | cpAsyncOut (d a : Reg) (s : CopySize) (f : BitVec 9)
  /-- R234. Each active lane starts a gather of the rows selected by its mask, sharing the token. -/
  | cpRows (d a : Reg) (k : Token)
  /-- R236. Each active lane starts an ordered multicast of one source to the selected destinations. -/
  | cpMcastO (d a : Reg) (k : Token)
  /-- R236. Each active lane starts an unordered multicast. -/
  | cpMcastU (d a : Reg) (k : Token)
  /-- R240. Takes n slots from a circular buffer end, waiting for FREE or FILLED. -/
  | cbufGet (d a : Reg) (n : BitVec 9)
  /-- R240. Returns n slots to a circular buffer end as a release. -/
  | cbufPut (d a : Reg) (n : BitVec 9)
  /-- R244. Reserves and pushes one entry per active lane into the lane's queue, committed by rounds. -/
  | qpushO (d a : Reg)
  /-- R244. Pushes entries committed as one run on arrival. -/
  | qpushU (d a : Reg)
  /-- R245. Pops committed entries by round, binding the queue to the team. -/
  | qpop (d a : Reg)
  /-- R247. Each active lane arrives at a bucket, completing a generation and posting its collective. -/
  | bucketArrive (d a : Reg)
  /-- R249. Tags, retags or untags a scratchpad word as a barrier object. -/
  | barTag (d a : Reg) (f : BitVec 9)
  /-- R253. Registers or clears the recipe record of a tile and adjusts source pin counts. -/
  | rcpReg (d a : Reg)
  /-- R254. Marks a tile with a record DROPPED and discards its data. -/
  | rcpDrop (a : Reg)
  /-- R255. Raises a tile's pin count. -/
  | rcpPin (a : Reg)
  /-- R255. Lowers a tile's pin count. -/
  | rcpUnpin (a : Reg)
  /-- R257. Writes a tile's state word without starting a recompute. -/
  | tileState (d a : Reg)
  /-- R271. Binds or releases a bench handle and loads B into its standby plane. -/
  | mmLdw (a : Reg) (k : Token)
  /-- R272. Exchanges the active and standby planes of a handle. -/
  | mmSwapw (a : Reg) (k : Token)
  /-- R274. Posts a matrix pass whose output tiles accumulate into working banks. -/
  | mmRun (a : Reg) (k : Token)
  /-- R279. Exchanges working and visible banks of a slot range. -/
  | mmSwapacc (a : Reg) (k : Token)
  /-- R280. Copies visible banks out, converted to FMTX. -/
  | mmAccrd (a : Reg) (k : Token)
  /-- R280. Writes visible banks from memory, widened to FP32. -/
  | mmAccwr (a : Reg) (k : Token)
  /-- R282. Applies an optimizer step from visible banks to weights and aged moments. -/
  | mmDrain (a : Reg) (k : Token)
  /-- R287. Swaps pruned and kept sparse positions by shadow magnitude. -/
  | mmRegrow (a : Reg) (k : Token)
  /-- R285. Reads an amax word indivisibly at its home L2 into vd. -/
  | mmAmax (d a : Reg)
  /-- R293. Assembles each environment's contact block, right-hand side and bounds. -/
  | bsAsm (a : Reg) (k : Token)
  /-- R294. Factorises each item with partial pivoting and logs pivots. -/
  | bsLu (a : Reg) (k : Token)
  /-- R295. Factorises each symmetric item as L D L^T. -/
  | bsLdl (a : Reg) (k : Token)
  /-- R296. Solves with in-place factors in the selected MODE. -/
  | bsTrsv (a : Reg) (k : Token)
  /-- R298. Solves bounded systems by projected Gauss–Seidel. -/
  | bsPgs (a : Reg) (k : Token)
  /-- R297. Solves the transposed system along logged pivots, optionally refactorising. -/
  | bsBack (a : Reg) (k : Token)
  /-- R299. Waits until no team command names an item and returns its ISTAT. -/
  | bsStat (d a : Reg)
  /-- R301. Stably sorts keys and values in place. -/
  | srtKeys (a : Reg) (k : Token)
  /-- R302. Sweeps boxes along an axis and pushes overlapping pairs to a queue. -/
  | srtPairs (a : Reg) (k : Token)
  /-- R304. Builds a bounding-box hierarchy over leaf boxes. -/
  | trvBuild (a : Reg) (k : Token)
  /-- R305. Pops pairs, traverses hierarchies and writes contact records. -/
  | trvQuery (a : Reg) (k : Token)
  /-- R308. Arrival of a group at a team-wide lane regroup by key. -/
  | phaseRegroup (a : Reg) (k : Token)
  /-- R310. Arrival of a group at a team-wide restore along the stored map. -/
  | phaseRestore (a : Reg) (k : Token)
  /-- R311. Posts this device's part of a fabric collective. -/
  | collPost (a : Reg) (k : Token)
  /-- R131. Uniform no-operation. -/
  | gNop
  /-- R129. Uniform move from the lowest active lane to all active lanes. -/
  | gMov (d a : Reg)
  /-- R129. Uniform add. -/
  | gAdd (d a b : Reg)
  /-- R129. Uniform subtract. -/
  | gSub (d a b : Reg)
  /-- R129. Uniform multiply, low half. -/
  | gMul (d a b : Reg)
  /-- R129. Uniform signed multiply, high half. -/
  | gMulh (d a b : Reg)
  /-- R129. Uniform unsigned multiply, high half. -/
  | gMulhU (d a b : Reg)
  /-- R129. Uniform AND. -/
  | gAnd (d a b : Reg)
  /-- R129. Uniform OR. -/
  | gOr (d a b : Reg)
  /-- R129. Uniform XOR. -/
  | gXor (d a b : Reg)
  /-- R129. Uniform shift left. -/
  | gShl (d a b : Reg)
  /-- R129. Uniform logical shift right. -/
  | gShr (d a b : Reg)
  /-- R129. Uniform arithmetic shift right. -/
  | gSar (d a b : Reg)
  /-- R129. Uniform compare under the condition code, writing 1 or 0. -/
  | gCmp (d a b : Reg) (c : Cond)
  /-- R129. Uniform select on the prior vd. -/
  | gSel (d a b : Reg)
  /-- R129. Uniform signed minimum. -/
  | gMin (d a b : Reg)
  /-- R129. Uniform unsigned minimum. -/
  | gMinU (d a b : Reg)
  /-- R129. Uniform signed maximum. -/
  | gMax (d a b : Reg)
  /-- R129. Uniform unsigned maximum. -/
  | gMaxU (d a b : Reg)
  /-- R132. Moves active lanes to the 64-bit address in a pair. -/
  | gRet (a : Reg)
  /-- R135. Restarts the group's ready age. -/
  | gYield
  /-- R136. Exits every lane of the group after the exit wait. -/
  | gExit
  /-- R138. Sets ENMASK, or the running mask in a handler. -/
  | gLanes (a : Reg)
  /-- R137. Writes 1 into the lowest active lane and 0 into the others. -/
  | gElect (d : Reg)
  /-- R361. Returns from the trap handler, restoring PCs from TRAPPC and ENMASK. -/
  | gEret
  /-- R145. Writes RETIRED before the packet into a pair. -/
  | gClockO (d : Reg)
  /-- R145. Writes TIMEBASE at issue into a pair. -/
  | gClockU (d : Reg)
  /-- R148. Checks a launch record, splits weight and takes a pending-launch entry, waiting if full. -/
  | gLaunch (d a : Reg)
  /-- R148. As g.launch but gives FULL at once when the store is full. -/
  | gTrylaunch (d a : Reg)
  /-- R150. Checks a patch and queues a replay of a graph object. -/
  | gReplay (d a b : Reg)
  /-- R154. Allocates a claim and sends an invocation to a device. -/
  | gInvoke (d a : Reg)
  /-- R154. Allocates a claim and sends an invocation addressed to a target claim. -/
  | gInvokeh (d a b : Reg)
  /-- R157. Waits until a claim is not PENDING and writes its status. -/
  | gAwait (d a : Reg)
  /-- R157. As g.await, trapping CLAIM_BROKEN on a broken or stale claim. -/
  | gAwaitT (d a : Reg)
  /-- R157. Writes a claim's status word without waiting. -/
  | gHstat (d a : Reg)
  /-- R159. Moves an amount of team weight to the root or a claim's launch. -/
  | gWsplit (a b : Reg)
  /-- R160. Borrows 2^32 weight from the root, waiting for the grant. -/
  | gWgive
  /-- R161. Arrives at a barrier and waits for the phase to change. -/
  | gBar (a : Reg)
  /-- R161. Arrives at a barrier and records the phase. -/
  | gBarrive (a : Reg)
  /-- R161. Waits until the recorded barrier phase has changed. -/
  | gBarwait (a : Reg)
  /-- R165. Waits until a token is not BUSY. -/
  | gWait (k : Token)
  /-- R166. Closes the open copy batch and writes its number. -/
  | gSeal (d : Reg)
  /-- R167. Waits until a sealed batch and all earlier ones are complete. -/
  | gBwait (a : Reg)
  /-- R325. Release fence at the named scope. -/
  | gFenceRel (c : Scope)
  /-- R325. Acquire fence at the named scope. -/
  | gFenceAcq (c : Scope)
  /-- R325. Full fence at the named scope. -/
  | gFenceFull (c : Scope)
  /-- R169. Advances a step domain's datum atomically, checking the sweep margin. -/
  | gStepadv (a : Reg) (n : Domain)
  /-- R171. Writes a domain's datum into a pair. -/
  | gStepget (d : Reg) (n : Domain)
  /-- R172. Starts a sweep of a step domain unless one is running. -/
  | gSweep (n : Domain)
  /-- R172. Waits until no sweep of a domain runs and writes the last sweep's status. -/
  | gSweepwait (d : Reg) (n : Domain)
  /-- R132. Uniform unconditional branch. -/
  | gJmp (f : BitVec 19)
  /-- R132. Uniform branch when va is nonzero. -/
  | gBrNz (a : Reg) (f : BitVec 19)
  /-- R132. Uniform branch when va is zero. -/
  | gBrZ (a : Reg) (f : BitVec 19)
  /-- R132. Uniform call writing the link pair. -/
  | gCall (a : Reg) (f : BitVec 19)
  /-- R134. Decrements the count and branches while it is nonzero. -/
  | gLoop (a : Reg) (f : BitVec 19)
  /-- R130. Uniform load of a sign-extended immediate. -/
  | gLi (d : Reg) (i : BitVec 13)
  /-- R130. Uniform shift by 13 and insert of an immediate. -/
  | gLui (d a : Reg) (i : BitVec 13)
  /-- R130. Uniform add of an immediate. -/
  | gAddImm (d a : Reg) (i : BitVec 13)
  /-- R130. Uniform AND with an immediate. -/
  | gAndImm (d a : Reg) (i : BitVec 13)
  /-- R130. Uniform OR with an immediate. -/
  | gOrImm (d a : Reg) (i : BitVec 13)
  /-- R130. Uniform XOR with an immediate. -/
  | gXorImm (d a : Reg) (i : BitVec 13)
  /-- R139. Reads a CSR, capturing a snapshot on a low-half read. -/
  | gCsrr (d : Reg) (c : BitVec 13)
  /-- R139. Writes a CSR's writable fields. -/
  | gCsrw (a : Reg) (c : BitVec 13)
  /-- R139. Sets writable CSR bits. -/
  | gCsrs (a : Reg) (c : BitVec 13)
  /-- R139. Clears writable CSR bits. -/
  | gCsrc (a : Reg) (c : BitVec 13)
  /-- R142. Takes the SOFTWARE trap after completing. -/
  | gTrap (n : BitVec 13)
  /-- R144. Writes one feature bit. -/
  | gFeat (d : Reg) (n : BitVec 13)
  /-- R174. Sets route entry 1–3 to a pattern and parameter. -/
  | gSetroute (e : BitVec 2) (k : RouteKind) (p : BitVec 6)
  /-- R29. Each arithmetic cycle a core ranks chosen pairs and issues at most one datapath packet and one uniform instruction. -/
  | issueCycle (core : Nat)
  /-- R34. A group's idle count reaches 2^20 and it traps REJOIN_STALL. -/
  | rejoinStall (g : Nat)
  /-- R93. A scoreboarded result arrives and its register write completes. -/
  | scoreboardedResult (g id : Nat)
  /-- R136. A group's exit wait ends and the group ends or takes a deferred trap. -/
  | exitWaitEnd (g : Nat)
  /-- R224. A load, atomic or amax read held for a recompute completes once the tile is VALID. -/
  | heldAccessResume (g id : Nat)
  /-- R225. A store waiting on a DROPPED or BUILDING tile applies over rebuilt data or is discarded. -/
  | heldStoreApply (core : Nat)
  /-- R232. An asynchronous copy completes and the batch counters advance. -/
  | copyComplete (id : Nat)
  /-- R235. A row gather finishes, writing COUNT and updating its token. -/
  | rowGatherComplete (id : Nat)
  /-- R237. A multicast finishes, writing OKMASK and updating its token. -/
  | multicastComplete (id : Nat)
  /-- R240. A waiting cbuf.get is served in arrival order once enough slots are counted. -/
  | cbufGetGrant (g : Nat)
  /-- R243. A waiting push reserves its entries once room frees in every named queue. -/
  | queuePushReserve (g : Nat)
  /-- R245. A waiting pop receives its entries once they are committed. -/
  | queuePopDeliver (g : Nat)
  /-- R428. A free bench takes its next dealt item or steals the last queued item of the busiest bench. -/
  | benchTakeItem (cluster bench : Nat)
  /-- R430. A Block Solver Unit takes the next item from the die's pool. -/
  | solverTakeItem (cluster : Nat)
  /-- R431. An idle Sort Unit takes the next unstarted range or merge. -/
  | sortTakeRange (die unit : Nat)
  /-- R260. An engine command completes, writing its header and setting its token DONE or FAULT. -/
  | engineCommandComplete (cmd : Nat)
  /-- R286. A drain or sweep waiting for the other in its domain starts once that one completes. -/
  | drainSweepOrder (n : Domain)
  /-- R396. A sweep finishes its walk, setting Bn on OK or ending with DECAY_RANGE. -/
  | sweepComplete (n : Domain)
  /-- R432. After the last group arrives the compactor moves lanes and resumes the team's groups. -/
  | phaseCompactorRun (team : Nat)
  /-- R312. A collective starts once every participant has posted the same COLLID. -/
  | collStart (collid : DWord)
  /-- R316. A post's gate claim stops being PENDING and the post takes part or breaks the collective. -/
  | collGate (cmd : Nat)
  /-- R317. A post not started within TIMEOUT ns withdraws and every participant ends with TIMEOUT. -/
  | collTimeout (cmd : Nat)
  /-- R391. A miss waiting for a full recompute class starts its build once an entry frees. -/
  | recomputeEntryWaitEnd (tile : Nat)
  /-- R389. A recompute launch completes without fault and its tile becomes VALID. -/
  | recomputeComplete (launch : Nat)
  /-- R392. A depth-9 miss, cycle, fault or kill ends every build of a chain and returns tiles to DROPPED. -/
  | recipeChainEnd (tile : Nat)
  /-- R389. A dirty line of a tile with a record is evicted from L2 and the tile becomes DROPPED. -/
  | tileEvictDrop (tile : Nat)
  /-- R402. The patrol reader verifies HBM4 lines and drops failing tiles with records. -/
  | patrolScrub (line : Nat)
  /-- R344. The Ticket Unit applies the next segment in round order. -/
  | ticketSegmentApply (launch : Nat)
  /-- R412. The Admission Controller decides a presented launch and records its reservation. -/
  | admissionDecision (launch : Nat)
  /-- R416. An eligible gang is placed on cores and its groups bound or restored. -/
  | gangPlace (gang : Nat)
  /-- R418. A resident gang at a blocking point is swapped out with its context saved. -/
  | gangSwapOut (gang : Nat)
  /-- R415. A reservation's deadline passes before its launch completes. -/
  | reservationDeadline (launch : Nat)
  /-- R50. A launch's charge reaches WORKBOUND and it is killed with OVERRUN. -/
  | overrun (launch : Nat)
  /-- R365. A kill stops every group of the launch and discards or completes its effects. -/
  | launchKill (launch : Nat)
  /-- R426. A launch's teams have ended and its counts drained, and its completion is posted. -/
  | launchComplete (launch : Nat)
  /-- R423. A queued graph replay starts, applying its patch and starting ready nodes. -/
  | replayStart (replay : Nat)
  /-- R423. No node of a replay runs or can start, and the replay completes. -/
  | replayComplete (replay : Nat)
  /-- R156. LIFETIME after resolution a claim slot becomes FREE and the block is released. -/
  | claimExpire (slot : Nat)
  /-- R340. QDONE reaches a change's epoch and its dependent action proceeds. -/
  | changeDependentAction
  /-- R453. A remote read request arrives and is checked and served at the target. -/
  | rdreq (h : FlitHdr) (m : RdReq)
  /-- R453. A remote read response arrives and delivers data to the waiting group. -/
  | rdrsp (h : FlitHdr) (vals : List (Nat × List Word)) (bytes : List Byte)
  /-- R453. A posted remote write arrives and is applied at the target. -/
  | wr (h : FlitHdr) (m : WrReq)
  /-- R453. A write acknowledgement arrives and the outstanding store count falls. -/
  | wrack (h : FlitHdr)
  /-- R454. A remote atomic request arrives and is performed at the home L2. -/
  | atomreq (h : FlitHdr) (m : AtomReqMsg)
  /-- R454. A remote atomic response delivers the prior value. -/
  | atomrsp (h : FlitHdr) (vals : List (Nat × List Word))
  /-- R454. A failure response arrives and the issuing group traps with its cause. -/
  | failrsp (h : FlitHdr) (m : FailMsg)
  /-- R155. An invocation arrives and the executing device starts the templated launch. -/
  | invoke (h : FlitHdr) (m : InvokeMsg)
  /-- R458. A message to a claim reaches its home and is queued, forwarded or answered by slot state. -/
  | claimmsg (h : FlitHdr) (m : ClaimMsgData)
  /-- R458. A claim resolution or break reaches the home and queued messages are forwarded or ended. -/
  | claimres (h : FlitHdr) (m : ClaimResData)
  /-- R46. A weight signal arrives at a root and HELD or DEBT changes, possibly ending the graph. -/
  | signal (h : FlitHdr) (m : SignalData)
  /-- R461. A collective flit arrives and its combination is performed up or down the tree. -/
  | coll (h : FlitHdr) (m : CollData)
  /-- R448. An idle flit arrives carrying link acknowledgements. -/
  | idle (port lseq lack : Nat)
  /-- R448. A NACK arrives and the sender resends from the named flit. -/
  | nack (port lseq : Nat)
  /-- R450. A management flit arrives on VC 3. -/
  | mgmt (h : FlitHdr) (bytes : List Byte)
  /-- R449. A link passes no flit for 10 µs or fails 16 replays, and its replay buffer is resent elsewhere. -/
  | linkDown (port : Nat)
  /-- R455. A remote request unanswered for 200 ms ends the issuing launch with DEVICE_LOST. -/
  | requestTimeout (tag : Nat)
  /-- R329. A RoCEv2 RDMA WRITE from a host stores and releases at SYSTEM scope. -/
  | rdmaWrite (rkey la : Nat) (data : List Byte)
  /-- R463. A RoCEv2 RDMA WRITE with immediate arrives. -/
  | rdmaWriteWithImmediate (rkey la : Nat) (data : List Byte) (imm : Word)
  /-- R329. A RoCEv2 RDMA READ acquires at SYSTEM scope and returns data. -/
  | rdmaRead (rkey la len : Nat)
  /-- R463. An unsupported RoCEv2 operation is answered with a NAK. -/
  | roceInvalidRequest (op : Nat)
  /-- R467. HCP request returning the serial number and identity certificates. -/
  | identify (h : HcpHdr)
  /-- R472. HCP request returning a dual-signed attestation report for a nonce. -/
  | attest (h : HcpHdr) (nonce : List Byte)
  /-- R470. HCP request staging a firmware image for verification at next boot. -/
  | fwload (h : HcpHdr) (c : Chunk)
  /-- R123. HCP request loading a kernel image chunk; the last chunk gives the load reply. -/
  | imageload (h : HcpHdr) (asid base : Nat) (c : Chunk)
  /-- R467. HCP request freeing an image's handles unless in use. -/
  | imageunload (h : HcpHdr) (handle : Word)
  /-- R405. HCP request checking a launch record and taking a pending-launch entry. -/
  | launch (h : HcpHdr) (die asid : Nat) (record : List Byte)
  /-- R363. HCP request killing a launch or ending a park. -/
  | kill (h : HcpHdr) (launch : Nat)
  /-- R363. HCP request resuming a parked group as g.eret does. -/
  | resume (h : HcpHdr) (r : ResumeData)
  /-- R386. HCP request mapping a range with an attribute word. -/
  | map (h : HcpHdr) (asid la len pa size : Nat) (attr : Word)
  /-- R340. HCP request unmapping a range under the epoch rule. -/
  | unmap (h : HcpHdr) (asid la len : Nat)
  /-- R340. HCP request changing page attributes under the epoch rule. -/
  | change (h : HcpHdr) (asid la len : Nat) (attr : Word)
  /-- R341. HCP request freeing a range through the quarantine queue. -/
  | free (h : HcpHdr) (asid la len : Nat)
  /-- R340. HCP request migrating a page with a forwarding entry. -/
  | migrate (h : HcpHdr) (asid la pa : Nat)
  /-- R389. HCP request dropping a tile with a record. -/
  | drop (h : HcpHdr) (asid la : Nat)
  /-- R355. HCP request binding an address space to an identifier and setting TRAPVEC. -/
  | asid (h : HcpHdr) (asid : Nat) (trapvec : DWord)
  /-- R53. HCP request carrying decay-table chunks; the last chunk switches DECAYTAB. -/
  | decaytab (h : HcpHdr) (base : Nat) (c : Chunk)
  /-- R169. HCP request marking step domains as spanning devices. -/
  | span (h : HcpHdr) (domains : BitVec 16)
  /-- R369. HCP request assigning context memory. -/
  | ctxmem (h : HcpHdr) (pa len : Nat)
  /-- R467. HCP request returning QEPOCH, QDONE, table entries, records or telemetry. -/
  | read (h : HcpHdr) (what : ReadWhat)
  /-- R452. HCP request writing route table entries. -/
  | route (h : HcpHdr) (entries : List (Nat × List Nat)) (announce : Option Nat)
  /-- R473. HCP request declaring a device lost and containing its claims, collectives and launches. -/
  | lose (h : HcpHdr) (device : Nat)
  /-- R474. HCP request giving this device a number and incarnation. -/
  | assume (h : HcpHdr) (device incarnation : Nat)
  /-- R463. HCP request creating or removing a RoCEv2 memory region. -/
  | rkey (h : HcpHdr) (create : Bool) (rkey asid la len : Nat)
  /-- R469. A host acknowledges an event by its count. -/
  | hcpEventAck (session count : Nat)
  /-- R469. Unacknowledged events are resent every 10 ms. -/
  | hcpEventResend (session : Nat)
  /-- R480. Sideband request holding or releasing the device reset. -/
  | hold (hold : Bool)
  /-- R480. Sideband request returning boot state, versions and link state. -/
  | state
  /-- R480. Sideband request setting the Ethernet port's IPv6 address. -/
  | setip (addr plen gateway : Nat)
  /-- R480. Sideband request installing or removing an HCP session. -/
  | session (index : Nat) (install : Bool) (d : SessionData)
  /-- R480. Sideband request returning ECC counts, temperatures and power. -/
  | telemetry (page : Nat)
  /-- R480. Sideband request returning the oldest sideband event and releasing SBALRTN when none remains. -/
  | event
  /-- R480. Sideband request returning what HCP IDENTIFY returns. -/
  | sbIdentify
  /-- R478. The I3C controller assigns the sideband port a dynamic address by SETDASA or ENTDAA. -/
  | dynamicAddressAssign (addr : Nat)
  /-- R478. The SBRSTN input goes low or high, holding or releasing the whole device in reset. -/
  | sbrstn (high : Bool)
  /-- R52. Power-on reset sets TIMEBASE and the device state to their reset values. -/
  | powerOnReset
  /-- R470. The boot ROM verifies the firmware image with both signatures before running it. -/
  | bootVerify
  /-- R438. A write to the porter GO register posts a row copy command. -/
  | go (core : Nat) (role : Role)
  /-- R440. A porter load of CBGET performs cbuf.get and returns the slot index. -/
  | cbget (core : Nat) (role : Role)
  /-- R440. A porter load of CBPUT performs cbuf.put and returns the new count. -/
  | cbput (core : Nat) (role : Role)
  /-- R439. A write of 1 to FAULT[31] clears a porter command fault. -/
  | faultClear (core : Nat) (role : Role)
  /-- R437. A write to another command window register sets its RW field or has no effect. -/
  | porterWindowWrite (core : Nat) (role : Role)
  /-- R438. A porter command ends, counting DONE and performing its completion put. -/
  | porterCommandComplete (core : Nat) (role : Role)
  /-- R443. A porter executes ecall and halts. -/
  | porterEcall (core : Nat) (role : Role)
  /-- R443. A porter exception enters mtvec or kills the gang's launch. -/
  | porterException (core : Nat) (role : Role)
  /-- R435. A porter executes one RV32IMAC instruction: a load, store, AMO, LR/SC, fence or CSR access to its stores, window or scratchpad. -/
  | porterInstruction (core : Nat) (role : Role)
  /-- R448. A flit arrives whose CRC fails; the receiver discards it and sends a NACK naming the LSEQ it expects. -/
  | flitCrcFailure (port : Nat)
  /-- R450. A flit of an unlisted TYPE, or on the wrong VC, arrives and is dropped and counted for telemetry. -/
  | unknownFlitType (port lseq lack : Nat)
  /-- R467. An authenticated HCP request of a type not listed arrives and is answered BAD_REQUEST. -/
  | hcpUnlistedType (h : HcpHdr) (type : Nat)
  /-- R465. A frame whose source, SESSION, MAC, MAGIC, VERSION or LEN does not match arrives and is discarded silently. -/
  | hcpFrameDiscard (frame : List Byte)
  /-- R479. A sideband private write with a wrong CHK or LEN, or with an OP not in the table, is answered BAD_REQUEST without being executed. -/
  | sidebandBadRequest (request : List Byte)
  /-- R463. A RoCEv2 congestion notification packet arrives and the device lowers the rate of its own requests by the DCQCN reaction-point algorithm. -/
  | congestionNotificationPacket
  /-- R462. An IEEE 802.1Qbb priority flow control frame for the RoCEv2 priority arrives and pauses or resumes transmission on that priority. -/
  | priorityFlowControl (pause : Bool)
  /-- R480. The Ethernet link comes up after auto-negotiation and link training, or goes down, changing the link state that STATE reports. -/
  | ethernetLink (up : Bool)
  deriving DecidableEq, Repr

end Sys2Proof
end

