-- ==== Sys2Proof/WellFormed.lean ====
section
/-! DEFINITION. Which instructions are well formed: every register field keeps the shape of R98 that does not depend on the group's width, every operand lies in the range its row of R102 to R114 gives, and the word is not the all-zero word (R100). -/
namespace Sys2Proof

/-- Shape p of R98. -/
def Reg.isPair (r : Reg) : Bool := r.val % 2 == 0
/-- Shape q of R98. -/
def Reg.isQuad (r : Reg) : Bool := r.val % 4 == 0

/-- Is the format one of S32, U32 and S8 (R104)? -/
def Fmt.isInt : Fmt → Bool
  | .s32 | .u32 | .s8 => true
  | .fp32 | .fp64 | .fp16 | .bf16 | .e4m3 | .e5m2 => false

/-- The operands of a cvt: the formats differ and are not both integers, and an FP64 end is a pair (R103, R104). -/
def cvtOk (d a : Reg) (t u : Fmt) : Bool :=
  t != u && !(t.isInt && u.isInt) && (t != .fp64 || d.isPair) && (u != .fp64 || a.isPair)

/-- The register shape of a load form (R107). -/
def LoadForm.regOk (f : LoadForm) (d : Reg) : Bool :=
  match f with
  | .w64 => d.isPair
  | .w128 => d.isQuad
  | .s8 | .u8 | .s16 | .u16 | .w32 => true

/-- The register shape of a store form (R107). -/
def StoreForm.regOk (f : StoreForm) (d : Reg) : Bool :=
  match f with
  | .w64 => d.isPair
  | .w128 => d.isQuad
  | .b8 | .b16 | .w32 => true

/-- Does register d lie outside the quad a (R209)? -/
def outsideQuad (d a : Reg) : Bool := d.val / 4 != a.val / 4

/-- Is the instruction well formed? The shape w of R98, the allocation (R41) and the operand checks that read a register are the machine's. -/
def Instr.wellFormed : Instr → Bool
  | .add d a r b s => !(d == 0 && a == 0 && r == 0 && b == 0 && s == 0)
  | .sub _ _ _ _ _ => true
  | .mul _ _ _ _ _ => true
  | .mulh _ _ _ _ _ => true
  | .mulhu _ _ _ _ _ => true
  | .mad _ _ _ _ _ => true
  | .and _ _ _ _ _ => true
  | .or _ _ _ _ _ => true
  | .xor _ _ _ _ _ => true
  | .shl _ _ _ _ _ => true
  | .shr _ _ _ _ _ => true
  | .sar _ _ _ _ _ => true
  | .rot _ _ _ _ _ => true
  | .min _ _ _ _ _ => true
  | .max _ _ _ _ _ => true
  | .minu _ _ _ _ _ => true
  | .maxu _ _ _ _ _ => true
  | .abs _ _ _ => true
  | .sel _ _ _ _ _ => true
  | .clz _ _ _ => true
  | .popc _ _ _ => true
  | .brev _ _ _ => true
  | .bfx _ _ _ _ _ => true
  | .bfxu _ _ _ _ _ => true
  | .bfi _ _ _ _ _ => true
  | .addc d _ _ _ _ => d.isPair
  | .subb d _ _ _ _ => d.isPair
  | .addS _ _ _ _ _ => true
  | .addUs _ _ _ _ _ => true
  | .subS _ _ _ _ _ => true
  | .subUs _ _ _ _ _ => true
  | .cmpEq _ _ _ _ _ => true
  | .cmpNe _ _ _ _ _ => true
  | .cmpLt _ _ _ _ _ => true
  | .cmpLe _ _ _ _ _ => true
  | .cmpGt _ _ _ _ _ => true
  | .cmpGe _ _ _ _ _ => true
  | .cmpLtu _ _ _ _ _ => true
  | .cmpLeu _ _ _ _ _ => true
  | .cmpGtu _ _ _ _ _ => true
  | .cmpGeu _ _ _ _ _ => true
  | .ballot _ _ _ => true
  | .voteAll _ _ _ => true
  | .voteAny _ _ _ => true
  | .voteUni _ _ _ => true
  | .perm _ _ _ _ => true
  | .mov _ _ _ => true
  | .callv d a _ => d.isPair && a.isPair
  | .retv a => a.isPair
  | .rejoin _ => true
  | .exitl => true
  | .fadd _ _ _ _ _ => true
  | .fsub _ _ _ _ _ => true
  | .fmul _ _ _ _ _ => true
  | .ffma _ _ _ _ _ => true
  | .fmin _ _ _ _ _ => true
  | .fmax _ _ _ _ _ => true
  | .fcls _ _ _ => true
  | .fdiv _ _ _ _ _ => true
  | .fsqrt _ _ _ => true
  | .frcp _ _ _ => true
  | .frsq _ _ _ => true
  | .fex2 _ _ _ => true
  | .flg2 _ _ _ => true
  | .fsgnCpy _ _ _ _ _ => true
  | .fsgnNeg _ _ _ => true
  | .fsgnXor _ _ _ _ _ => true
  | .fsgnAbs _ _ _ => true
  | .frndRn _ _ _ => true
  | .frndRz _ _ _ => true
  | .frndRm _ _ _ => true
  | .frndRp _ _ _ => true
  | .fcmpEq _ _ _ _ _ => true
  | .fcmpNe _ _ _ _ _ => true
  | .fcmpLt _ _ _ _ _ => true
  | .fcmpLe _ _ _ _ _ => true
  | .fcmpGt _ _ _ _ _ => true
  | .fcmpGe _ _ _ _ _ => true
  | .fcmpUn _ _ _ _ _ => true
  | .fcmpOrd _ _ _ _ _ => true
  | .dadd d a _ b _ => d.isPair && a.isPair && b.isPair
  | .dsub d a _ b _ => d.isPair && a.isPair && b.isPair
  | .dmul d a _ b _ => d.isPair && a.isPair && b.isPair
  | .dfma d a _ b _ => d.isPair && a.isPair && b.isPair
  | .dmin d a _ b _ => d.isPair && a.isPair && b.isPair
  | .dmax d a _ b _ => d.isPair && a.isPair && b.isPair
  | .ddiv d a _ b _ => d.isPair && a.isPair && b.isPair
  | .dsqrt d a _ => d.isPair && a.isPair
  | .drndRn d a _ => d.isPair && a.isPair
  | .drndRz d a _ => d.isPair && a.isPair
  | .drndRm d a _ => d.isPair && a.isPair
  | .drndRp d a _ => d.isPair && a.isPair
  | .dcmpEq _ a _ b _ => a.isPair && b.isPair
  | .dcmpNe _ a _ b _ => a.isPair && b.isPair
  | .dcmpLt _ a _ b _ => a.isPair && b.isPair
  | .dcmpLe _ a _ b _ => a.isPair && b.isPair
  | .dcmpGt _ a _ b _ => a.isPair && b.isPair
  | .dcmpGe _ a _ b _ => a.isPair && b.isPair
  | .dcmpUn _ a _ b _ => a.isPair && b.isPair
  | .dcmpOrd _ a _ b _ => a.isPair && b.isPair
  | .hadd2 _ _ _ _ _ => true
  | .hmul2 _ _ _ _ _ => true
  | .hfma2 _ _ _ _ _ => true
  | .hmax2 _ _ _ _ _ => true
  | .badd2 _ _ _ _ _ => true
  | .bmul2 _ _ _ _ _ => true
  | .bfma2 _ _ _ _ _ => true
  | .bmax2 _ _ _ _ _ => true
  | .cvt d a _ t u => cvtOk d a t u
  | .cvtSat d a _ t u => cvtOk d a t u
  | .cvtRn d a _ t u => cvtOk d a t u
  | .cvtRz d a _ t u => cvtOk d a t u
  | .cvtRm d a _ t u => cvtOk d a t u
  | .cvtRp d a _ t u => cvtOk d a t u
  | .pkF16 _ _ _ _ _ => true
  | .pkBf16 _ _ _ _ _ => true
  | .pkE4m3 _ _ _ _ _ => true
  | .pkE5m2 _ _ _ _ _ => true
  | .pkE4m3Sat _ _ _ _ _ => true
  | .pkE5m2Sat _ _ _ _ _ => true
  | .pkI8 _ _ _ _ _ => true
  | .pkI8S _ _ _ _ _ => true
  | .pkBq4T0 _ _ _ => true
  | .pkBq4T1 _ _ _ => true
  | .pkBq4T2 _ _ _ => true
  | .pkBq4T3 _ _ _ => true
  | .unpkF16 d _ _ => d.isPair
  | .unpkBf16 d _ _ => d.isPair
  | .unpkE4m3 d _ _ => d.isQuad
  | .unpkE5m2 d _ _ => d.isQuad
  | .unpkI8 d _ _ => d.isQuad
  | .unpkBq4 _ _ => true
  | .rngKey d _ _ _ _ => d.isQuad
  | .rngDraw d a => a.isQuad && outsideQuad d a
  | .rngDrawF32 d a => a.isQuad && outsideQuad d a
  | .rngDrawF64 d a => d.isPair && a.isQuad && outsideQuad d a
  | .rngSkip d _ _ _ _ => d.isQuad
  | .aget _ a _ _ _ => a.isPair
  | .aadd d _ _ _ _ => d.isPair
  | .amerge d a _ _ _ => d.isPair && a.isPair
  | .aset d _ _ _ _ => d.isPair
  | .addImm _ _ _ => true
  | .andImm _ _ _ => true
  | .orImm _ _ _ => true
  | .xorImm _ _ _ => true
  | .shlImm _ _ _ => true
  | .shrImm _ _ _ => true
  | .sarImm _ _ _ => true
  | .rotImm _ _ _ => true
  | .movImm _ _ => true
  | .lop3 _ _ _ _ _ => true
  | .lop3Not _ _ _ _ _ => true
  | .brcNz _ _ => true
  | .brcZ _ _ => true
  | .ld d a k _ => k.regOk d && a.isPair
  | .ldRaw d a k _ => k.regOk d && a.isPair
  | .st d a k _ => k.regOk d && a.isPair
  | .stRaw d a k _ => k.regOk d && a.isPair
  | .prefetchL2 a _ => a.isPair
  | .prefetchL1 a _ => a.isPair
  | .atomOAdd _ a _ => a.isPair
  | .atomOAnd _ a _ => a.isPair
  | .atomOOr _ a _ => a.isPair
  | .atomOXor _ a _ => a.isPair
  | .atomOMin _ a _ => a.isPair
  | .atomOMax _ a _ => a.isPair
  | .atomOMinu _ a _ => a.isPair
  | .atomOMaxu _ a _ => a.isPair
  | .atomUAdd _ a _ => a.isPair
  | .atomUAnd _ a _ => a.isPair
  | .atomUOr _ a _ => a.isPair
  | .atomUXor _ a _ => a.isPair
  | .atomUMin _ a _ => a.isPair
  | .atomUMax _ a _ => a.isPair
  | .atomUMinu _ a _ => a.isPair
  | .atomUMaxu _ a _ => a.isPair
  | .atomOExch _ a _ => a.isPair
  | .atomOCas d a _ => d.isPair && a.isPair
  | .atomOAdd64 d a _ => d.isPair && a.isPair
  | .atomOExch64 d a _ => d.isPair && a.isPair
  | .atomOCas64 d a _ => d.isQuad && a.isPair
  | .atomUExch _ a _ => a.isPair
  | .atomUCas d a _ => d.isPair && a.isPair
  | .atomUAdd64 d a _ => d.isPair && a.isPair
  | .atomUExch64 d a _ => d.isPair && a.isPair
  | .atomUCas64 d a _ => d.isQuad && a.isPair
  | .fatomOFadd _ a _ => a.isPair
  | .fatomOFmin _ a _ => a.isPair
  | .fatomOFmax _ a _ => a.isPair
  | .fatomODadd d a _ => d.isPair && a.isPair
  | .fatomOHadd2 _ a _ => a.isPair
  | .fatomOBadd2 _ a _ => a.isPair
  | .fatomUFadd _ a _ => a.isPair
  | .fatomUFmin _ a _ => a.isPair
  | .fatomUFmax _ a _ => a.isPair
  | .fatomUDadd d a _ => d.isPair && a.isPair
  | .fatomUHadd2 _ a _ => a.isPair
  | .fatomUBadd2 _ a _ => a.isPair
  | .cpAsyncIn _ a _ _ => a.isPair
  | .cpAsyncOut _ a _ _ => a.isPair
  | .cpRows _ a _ => a.isPair
  | .cpMcastO _ a _ => a.isPair
  | .cpMcastU _ a _ => a.isPair
  | .cbufGet _ a n => a.isPair && (1 ≤ n.toNat && n.toNat ≤ 255)
  | .cbufPut _ a n => a.isPair && (1 ≤ n.toNat && n.toNat ≤ 255)
  | .qpushO _ a => a.isPair
  | .qpushU _ a => a.isPair
  | .qpop _ a => a.isPair
  | .bucketArrive _ a => a.isPair
  | .barTag _ a _ => a.isPair
  | .rcpReg _ a => a.isPair
  | .rcpDrop a => a.isPair
  | .rcpPin a => a.isPair
  | .rcpUnpin a => a.isPair
  | .tileState _ a => a.isPair
  | .mmLdw a _ => a.isPair
  | .mmSwapw a _ => a.isPair
  | .mmRun a _ => a.isPair
  | .mmSwapacc a _ => a.isPair
  | .mmAccrd a _ => a.isPair
  | .mmAccwr a _ => a.isPair
  | .mmDrain a _ => a.isPair
  | .mmRegrow a _ => a.isPair
  | .mmAmax _ a => a.isPair
  | .bsAsm a _ => a.isPair
  | .bsLu a _ => a.isPair
  | .bsLdl a _ => a.isPair
  | .bsTrsv a _ => a.isPair
  | .bsPgs a _ => a.isPair
  | .bsBack a _ => a.isPair
  | .bsStat _ a => a.isPair
  | .srtKeys a _ => a.isPair
  | .srtPairs a _ => a.isPair
  | .trvBuild a _ => a.isPair
  | .trvQuery a _ => a.isPair
  | .phaseRegroup a _ => a.isPair
  | .phaseRestore a _ => a.isPair
  | .collPost a _ => a.isPair
  | .gNop => true
  | .gMov _ _ => true
  | .gAdd _ _ _ => true
  | .gSub _ _ _ => true
  | .gMul _ _ _ => true
  | .gMulh _ _ _ => true
  | .gMulhU _ _ _ => true
  | .gAnd _ _ _ => true
  | .gOr _ _ _ => true
  | .gXor _ _ _ => true
  | .gShl _ _ _ => true
  | .gShr _ _ _ => true
  | .gSar _ _ _ => true
  | .gCmp _ _ _ _ => true
  | .gSel _ _ _ => true
  | .gMin _ _ _ => true
  | .gMinU _ _ _ => true
  | .gMax _ _ _ => true
  | .gMaxU _ _ _ => true
  | .gRet a => a.isPair
  | .gYield => true
  | .gExit => true
  | .gLanes _ => true
  | .gElect _ => true
  | .gEret => true
  | .gClockO d => d.isPair
  | .gClockU d => d.isPair
  | .gLaunch _ a => a.isPair
  | .gTrylaunch _ a => a.isPair
  | .gReplay _ a b => a.isPair && b.isPair
  | .gInvoke d a => d.isPair && a.isPair
  | .gInvokeh d a b => d.isPair && a.isPair && b.isPair
  | .gAwait _ a => a.isPair
  | .gAwaitT _ a => a.isPair
  | .gHstat _ a => a.isPair
  | .gWsplit a b => a.isPair && b.isPair
  | .gWgive => true
  | .gBar _ => true
  | .gBarrive _ => true
  | .gBarwait _ => true
  | .gWait _ => true
  | .gSeal _ => true
  | .gBwait _ => true
  | .gFenceRel _ => true
  | .gFenceAcq _ => true
  | .gFenceFull _ => true
  | .gStepadv _ _ => true
  | .gStepget d _ => d.isPair
  | .gSweep _ => true
  | .gSweepwait _ _ => true
  | .gJmp _ => true
  | .gBrNz _ _ => true
  | .gBrZ _ _ => true
  | .gCall a _ => a.isPair
  | .gLoop _ _ => true
  | .gLi _ _ => true
  | .gLui _ _ _ => true
  | .gAddImm _ _ _ => true
  | .gAndImm _ _ _ => true
  | .gOrImm _ _ _ => true
  | .gXorImm _ _ _ => true
  | .gCsrr _ _ => true
  | .gCsrw _ _ => true
  | .gCsrs _ _ => true
  | .gCsrc _ _ => true
  | .gTrap _ => true
  | .gFeat _ _ => true
  | .gSetroute e _ _ => e != 0
  | .issueCycle core => decide (core < 192)
  | .rejoinStall _ => true
  | .scoreboardedResult _ _ => true
  | .exitWaitEnd _ => true
  | .heldAccessResume _ _ => true
  | .heldStoreApply core => decide (core < 192)
  | .copyComplete _ => true
  | .rowGatherComplete _ => true
  | .multicastComplete _ => true
  | .cbufGetGrant _ => true
  | .queuePushReserve _ => true
  | .queuePopDeliver _ => true
  | .benchTakeItem cluster bench => decide (cluster < 48) && decide (bench < 16)
  | .solverTakeItem cluster => decide (cluster < 48)
  | .sortTakeRange die unit => decide (die < 2) && decide (unit < 6)
  | .engineCommandComplete _ => true
  | .drainSweepOrder _ => true
  | .sweepComplete _ => true
  | .phaseCompactorRun _ => true
  | .collStart _ => true
  | .collGate _ => true
  | .collTimeout _ => true
  | .recomputeEntryWaitEnd _ => true
  | .recomputeComplete _ => true
  | .recipeChainEnd _ => true
  | .tileEvictDrop _ => true
  | .patrolScrub _ => true
  | .ticketSegmentApply _ => true
  | .admissionDecision _ => true
  | .gangPlace _ => true
  | .gangSwapOut _ => true
  | .reservationDeadline _ => true
  | .overrun _ => true
  | .launchKill _ => true
  | .launchComplete _ => true
  | .replayStart _ => true
  | .replayComplete _ => true
  | .claimExpire _ => true
  | .changeDependentAction => true
  | .rdreq h _ => decide (h.port < 18)
  | .rdrsp h _ _ => decide (h.port < 18)
  | .wr h _ => decide (h.port < 18)
  | .wrack h => decide (h.port < 18)
  | .atomreq h _ => decide (h.port < 18)
  | .atomrsp h _ => decide (h.port < 18)
  | .failrsp h _ => decide (h.port < 18)
  | .invoke h _ => decide (h.port < 18)
  | .claimmsg h _ => decide (h.port < 18)
  | .claimres h _ => decide (h.port < 18)
  | .signal h _ => decide (h.port < 18)
  | .coll h _ => decide (h.port < 18)
  | .idle port _ _ => decide (port < 18)
  | .nack port _ => decide (port < 18)
  | .mgmt h _ => decide (h.port < 18)
  | .linkDown port => decide (port < 18)
  | .requestTimeout _ => true
  | .rdmaWrite _ _ _ => true
  | .rdmaWriteWithImmediate _ _ _ _ => true
  | .rdmaRead _ _ _ => true
  | .roceInvalidRequest _ => true
  | .identify _ => true
  | .attest _ _ => true
  | .fwload _ _ => true
  | .imageload _ _ _ _ => true
  | .imageunload _ _ => true
  | .launch _ _ _ _ => true
  | .kill _ _ => true
  | .resume _ _ => true
  | .map _ _ _ _ _ _ _ => true
  | .unmap _ _ _ _ => true
  | .change _ _ _ _ _ => true
  | .free _ _ _ _ => true
  | .migrate _ _ _ _ => true
  | .drop _ _ _ => true
  | .asid _ _ _ => true
  | .decaytab _ _ _ => true
  | .span _ _ => true
  | .ctxmem _ _ _ => true
  | .read _ _ => true
  | .route _ _ _ => true
  | .lose _ _ => true
  | .assume _ _ _ => true
  | .rkey _ _ _ _ _ _ => true
  | .hcpEventAck _ _ => true
  | .hcpEventResend _ => true
  | .hold _ => true
  | .state => true
  | .setip _ _ _ => true
  | .session _ _ _ => true
  | .telemetry _ => true
  | .event => true
  | .sbIdentify => true
  | .dynamicAddressAssign _ => true
  | .sbrstn _ => true
  | .powerOnReset => true
  | .bootVerify => true
  | .go core _ => decide (core < 192)
  | .cbget core _ => decide (core < 192)
  | .cbput core _ => decide (core < 192)
  | .faultClear core _ => decide (core < 192)
  | .porterWindowWrite core _ => decide (core < 192)
  | .porterCommandComplete core _ => decide (core < 192)
  | .porterEcall core _ => decide (core < 192)
  | .porterException core _ => decide (core < 192)
  | .porterInstruction core _ => decide (core < 192)
  | .flitCrcFailure port => decide (port < 18)
  | .unknownFlitType port _ _ => decide (port < 18)
  | .hcpUnlistedType _ _ => true
  | .hcpFrameDiscard _ => true
  | .sidebandBadRequest _ => true
  | .congestionNotificationPacket => true
  | .priorityFlowControl _ => true
  | .ethernetLink _ => true

end Sys2Proof
end

