-- ==== Sys2Proof/Decode.lean ====
section
/-! DEFINITION. The decoder of instruction words, in the order of R100 and by the layouts and maps of R95 to R114, and after it the encoder of the words of an instruction, from the same tables (R128, R175, R215). -/
namespace Sys2Proof

/-- Why a word is no instruction (R100). -/
inductive Reject where
  /-- The all-zero word (step 2). -/
  | zeroWord
  /-- A class and opcode that the maps leave unassigned (step 3). -/
  | opcode
  /-- An opcode of an extension window (steps 3 and 4). -/
  | extension
  /-- An unassigned sub-code or a nonzero field that must be zero (step 5). -/
  | field
  /-- A register field that breaks its shape, or an operand outside its range (step 5). -/
  | shape
  deriving DecidableEq, Repr

/-- The format of a code (R104). -/
def Fmt.ofCode : Nat → Option Fmt
  | 0 => some .fp32
  | 1 => some .fp64
  | 2 => some .fp16
  | 3 => some .bf16
  | 4 => some .e4m3
  | 5 => some .e5m2
  | 6 => some .s32
  | 7 => some .u32
  | 8 => some .s8
  | _ => none

/-- The code of a format (R104). -/
def Fmt.code : Fmt → Nat
  | .fp32 => 0
  | .fp64 => 1
  | .fp16 => 2
  | .bf16 => 3
  | .e4m3 => 4
  | .e5m2 => 5
  | .s32 => 6
  | .u32 => 7
  | .s8 => 8

/-- The load form of a code (R107). -/
def LoadForm.ofCode : Nat → Option LoadForm
  | 0 => some .s8
  | 1 => some .u8
  | 2 => some .s16
  | 3 => some .u16
  | 4 => some .w32
  | 5 => some .w64
  | 6 => some .w128
  | _ => none

/-- The code of a load form (R107). -/
def LoadForm.code : LoadForm → Nat
  | .s8 => 0
  | .u8 => 1
  | .s16 => 2
  | .u16 => 3
  | .w32 => 4
  | .w64 => 5
  | .w128 => 6

/-- The store form of a code (R107). -/
def StoreForm.ofCode : Nat → Option StoreForm
  | 0 => some .b8
  | 2 => some .b16
  | 4 => some .w32
  | 5 => some .w64
  | 6 => some .w128
  | _ => none

/-- The code of a store form (R107). -/
def StoreForm.code : StoreForm → Nat
  | .b8 => 0
  | .b16 => 2
  | .w32 => 4
  | .w64 => 5
  | .w128 => 6

/-- The copy size of a code (R109). -/
def CopySize.ofCode : Nat → Option CopySize
  | 0 => some .b4
  | 1 => some .b8
  | 2 => some .b16
  | 3 => some .b32
  | 4 => some .b64
  | _ => none

/-- The code of a copy size (R109). -/
def CopySize.code : CopySize → Nat
  | .b4 => 0
  | .b8 => 1
  | .b16 => 2
  | .b32 => 3
  | .b64 => 4

/-- The condition of a code (R113). -/
def Cond.ofCode : Nat → Option Cond
  | 0 => some .eq
  | 1 => some .ne
  | 2 => some .lt
  | 3 => some .le
  | 4 => some .gt
  | 5 => some .ge
  | 6 => some .ltu
  | 7 => some .leu
  | 8 => some .gtu
  | 9 => some .geu
  | _ => none

/-- The code of a condition (R113). -/
def Cond.code : Cond → Nat
  | .eq => 0
  | .ne => 1
  | .lt => 2
  | .le => 3
  | .gt => 4
  | .ge => 5
  | .ltu => 6
  | .leu => 7
  | .gtu => 8
  | .geu => 9

/-- The scope of a code (R113). -/
def Scope.ofCode : Nat → Option Scope
  | 0 => some .group
  | 1 => some .team
  | 2 => some .cluster
  | 3 => some .die
  | 4 => some .device
  | 5 => some .domain
  | 6 => some .system
  | _ => none

/-- The code of a scope (R113). -/
def Scope.code : Scope → Nat
  | .group => 0
  | .team => 1
  | .cluster => 2
  | .die => 3
  | .device => 4
  | .domain => 5
  | .system => 6

/-- The gate function of a code (R183). -/
def Lop3Fn.ofCode : Nat → Option Lop3Fn
  | 0 => some .xor3
  | 1 => some .maj
  | 2 => some .mux
  | 3 => some .and3
  | 4 => some .or3
  | 5 => some .andor
  | 6 => some .orand
  | 7 => some .xorand
  | 8 => some .andxor
  | 9 => some .orxor
  | _ => none

/-- The code of a gate function (R183). -/
def Lop3Fn.code : Lop3Fn → Nat
  | .xor3 => 0
  | .maj => 1
  | .mux => 2
  | .and3 => 3
  | .or3 => 4
  | .andor => 5
  | .orand => 6
  | .xorand => 7
  | .andxor => 8
  | .orxor => 9

/-- The pattern of a code (R36). -/
def RouteKind.ofCode : Nat → Option RouteKind
  | 0 => some .ident
  | 1 => some .rot
  | 2 => some .bcast
  | 3 => some .bfly
  | 4 => some .mirror
  | _ => none

/-- The code of a pattern (R36). -/
def RouteKind.code : RouteKind → Nat
  | .ident => 0
  | .rot => 1
  | .bcast => 2
  | .bfly => 3
  | .mirror => 4

/-- The fields of class LA: lane arithmetic, exchange, control (R96). -/
structure LAFields where
  op : Nat
  d : Reg
  a : Reg
  r : Route
  b : Reg
  s : Route
  deriving DecidableEq, Repr

/-- The fields of class LM: memory, copies, queues, recipes, engine commands (R96). -/
structure LMFields where
  op : Nat
  d : Reg
  a : Reg
  k : Fin 8
  f : BitVec 9
  deriving DecidableEq, Repr

/-- The fields of class LI: lane immediates and branches (R96). -/
structure LIFields where
  op : Nat
  d : Reg
  a : Reg
  i : BitVec 13
  f : BitVec 19
  deriving DecidableEq, Repr

/-- The fields of class UA: uniform arithmetic, control and system (R96). -/
structure UAFields where
  op : Nat
  d : Reg
  a : Reg
  b : Reg
  s : Fin 16
  deriving DecidableEq, Repr

/-- The fields of class UB: uniform branches (R96). -/
structure UBFields where
  op : Nat
  a : Reg
  f : BitVec 19
  deriving DecidableEq, Repr

/-- The fields of class UI: uniform immediates (R96). -/
structure UIFields where
  op : Nat
  d : Reg
  a : Reg
  i : BitVec 13
  deriving DecidableEq, Repr

/-- The fields of a word of class LA (R96). -/
def fieldsLA (w : Nat) : LAFields :=
  { op := w / 4194304 % 512, d := Fin.ofNat 64 (w / 65536), a := Fin.ofNat 64 (w / 1024), r := Fin.ofNat 4 (w / 256), b := Fin.ofNat 64 (w / 4), s := Fin.ofNat 4 w }

/-- The fields of a word of class LM (R96). -/
def fieldsLM (w : Nat) : LMFields :=
  { op := w / 16777216 % 32, d := Fin.ofNat 64 (w / 262144), a := Fin.ofNat 64 (w / 4096), k := Fin.ofNat 8 (w / 512), f := BitVec.ofNat 9 w }

/-- The fields of a word of class LI (R96). -/
def fieldsLI (w : Nat) : LIFields :=
  { op := w / 33554432 % 16, d := Fin.ofNat 64 (w / 524288), a := Fin.ofNat 64 (w / 8192), i := BitVec.ofNat 13 w, f := BitVec.ofNat 19 w }

/-- The fields of a word of class UA (R96). -/
def fieldsUA (w : Nat) : UAFields :=
  { op := w / 4194304 % 512, d := Fin.ofNat 64 (w / 65536), a := Fin.ofNat 64 (w / 1024), b := Fin.ofNat 64 (w / 16), s := Fin.ofNat 16 w }

/-- The fields of a word of class UB (R96). -/
def fieldsUB (w : Nat) : UBFields :=
  { op := w / 33554432 % 16, a := Fin.ofNat 64 (w / 524288), f := BitVec.ofNat 19 w }

/-- The fields of a word of class UI (R96). -/
def fieldsUI (w : Nat) : UIFields :=
  { op := w / 33554432 % 16, d := Fin.ofNat 64 (w / 524288), a := Fin.ofNat 64 (w / 8192), i := BitVec.ofNat 13 w }

/-- An instruction whose field checks hold (R100 step 5). -/
def whenOk (c : Bool) (i : Instr) : Except Reject Instr := if c then .ok i else .error .field

/-- An instruction built from a sub-code that must be assigned (R100 step 5). -/
def withCode {α : Type} (c : Option α) (k : α → Except Reject Instr) : Except Reject Instr :=
  match c with
  | some x => k x
  | none => .error .field

/-- The instruction of a word of class LA (R102 to R104). -/
def decodeLA (f : LAFields) : Except Reject Instr :=
  match f.op with
  | 0 => .ok (.add f.d f.a f.r f.b f.s)
  | 1 => .ok (.sub f.d f.a f.r f.b f.s)
  | 2 => .ok (.mul f.d f.a f.r f.b f.s)
  | 3 => .ok (.mulh f.d f.a f.r f.b f.s)
  | 4 => .ok (.mulhu f.d f.a f.r f.b f.s)
  | 5 => .ok (.mad f.d f.a f.r f.b f.s)
  | 6 => .ok (.and f.d f.a f.r f.b f.s)
  | 7 => .ok (.or f.d f.a f.r f.b f.s)
  | 8 => .ok (.xor f.d f.a f.r f.b f.s)
  | 9 => .ok (.shl f.d f.a f.r f.b f.s)
  | 10 => .ok (.shr f.d f.a f.r f.b f.s)
  | 11 => .ok (.sar f.d f.a f.r f.b f.s)
  | 12 => .ok (.rot f.d f.a f.r f.b f.s)
  | 13 => .ok (.min f.d f.a f.r f.b f.s)
  | 14 => .ok (.max f.d f.a f.r f.b f.s)
  | 15 => .ok (.minu f.d f.a f.r f.b f.s)
  | 16 => .ok (.maxu f.d f.a f.r f.b f.s)
  | 17 => whenOk (f.b.val == 0 && f.s.val == 0) (.abs f.d f.a f.r)
  | 18 => .ok (.sel f.d f.a f.r f.b f.s)
  | 19 => whenOk (f.b.val == 0 && f.s.val == 0) (.clz f.d f.a f.r)
  | 20 => whenOk (f.b.val == 0 && f.s.val == 0) (.popc f.d f.a f.r)
  | 21 => whenOk (f.b.val == 0 && f.s.val == 0) (.brev f.d f.a f.r)
  | 22 => .ok (.bfx f.d f.a f.r f.b f.s)
  | 23 => .ok (.bfxu f.d f.a f.r f.b f.s)
  | 24 => .ok (.bfi f.d f.a f.r f.b f.s)
  | 25 => .ok (.addc f.d f.a f.r f.b f.s)
  | 26 => .ok (.subb f.d f.a f.r f.b f.s)
  | 27 => .ok (.addS f.d f.a f.r f.b f.s)
  | 28 => .ok (.addUs f.d f.a f.r f.b f.s)
  | 29 => .ok (.subS f.d f.a f.r f.b f.s)
  | 30 => .ok (.subUs f.d f.a f.r f.b f.s)
  | 32 => .ok (.cmpEq f.d f.a f.r f.b f.s)
  | 33 => .ok (.cmpNe f.d f.a f.r f.b f.s)
  | 34 => .ok (.cmpLt f.d f.a f.r f.b f.s)
  | 35 => .ok (.cmpLe f.d f.a f.r f.b f.s)
  | 36 => .ok (.cmpGt f.d f.a f.r f.b f.s)
  | 37 => .ok (.cmpGe f.d f.a f.r f.b f.s)
  | 38 => .ok (.cmpLtu f.d f.a f.r f.b f.s)
  | 39 => .ok (.cmpLeu f.d f.a f.r f.b f.s)
  | 40 => .ok (.cmpGtu f.d f.a f.r f.b f.s)
  | 41 => .ok (.cmpGeu f.d f.a f.r f.b f.s)
  | 48 => whenOk (f.b.val == 0 && f.s.val == 0) (.ballot f.d f.a f.r)
  | 49 => whenOk (f.b.val == 0 && f.s.val == 0) (.voteAll f.d f.a f.r)
  | 50 => whenOk (f.b.val == 0 && f.s.val == 0) (.voteAny f.d f.a f.r)
  | 51 => whenOk (f.b.val == 0 && f.s.val == 0) (.voteUni f.d f.a f.r)
  | 52 => whenOk (f.r.val == 0) (.perm f.d f.a f.b f.s)
  | 53 => whenOk (f.b.val == 0 && f.s.val == 0) (.mov f.d f.a f.r)
  | 54 => whenOk (f.b.val == 0 && f.s.val == 0) (.callv f.d f.a f.r)
  | 55 => whenOk (f.d.val == 0 && f.r.val == 0 && f.b.val == 0 && f.s.val == 0) (.retv f.a)
  | 56 => whenOk (f.d.val == 0 && f.r.val == 0 && f.b.val == 0 && f.s.val == 0) (.rejoin f.a)
  | 57 => whenOk (f.d.val == 0 && f.a.val == 0 && f.r.val == 0 && f.b.val == 0 && f.s.val == 0) (.exitl)
  | 64 => .ok (.fadd f.d f.a f.r f.b f.s)
  | 65 => .ok (.fsub f.d f.a f.r f.b f.s)
  | 66 => .ok (.fmul f.d f.a f.r f.b f.s)
  | 67 => .ok (.ffma f.d f.a f.r f.b f.s)
  | 68 => .ok (.fmin f.d f.a f.r f.b f.s)
  | 69 => .ok (.fmax f.d f.a f.r f.b f.s)
  | 70 => whenOk (f.b.val == 0 && f.s.val == 0) (.fcls f.d f.a f.r)
  | 71 => .ok (.fdiv f.d f.a f.r f.b f.s)
  | 72 => whenOk (f.b.val == 0 && f.s.val == 0) (.fsqrt f.d f.a f.r)
  | 73 => whenOk (f.b.val == 0 && f.s.val == 0) (.frcp f.d f.a f.r)
  | 74 => whenOk (f.b.val == 0 && f.s.val == 0) (.frsq f.d f.a f.r)
  | 75 => whenOk (f.b.val == 0 && f.s.val == 0) (.fex2 f.d f.a f.r)
  | 76 => whenOk (f.b.val == 0 && f.s.val == 0) (.flg2 f.d f.a f.r)
  | 77 => .ok (.fsgnCpy f.d f.a f.r f.b f.s)
  | 78 => whenOk (f.b.val == 0 && f.s.val == 0) (.fsgnNeg f.d f.a f.r)
  | 79 => .ok (.fsgnXor f.d f.a f.r f.b f.s)
  | 80 => whenOk (f.b.val == 0 && f.s.val == 0) (.fsgnAbs f.d f.a f.r)
  | 81 => whenOk (f.b.val == 0 && f.s.val == 0) (.frndRn f.d f.a f.r)
  | 82 => whenOk (f.b.val == 0 && f.s.val == 0) (.frndRz f.d f.a f.r)
  | 83 => whenOk (f.b.val == 0 && f.s.val == 0) (.frndRm f.d f.a f.r)
  | 84 => whenOk (f.b.val == 0 && f.s.val == 0) (.frndRp f.d f.a f.r)
  | 88 => .ok (.fcmpEq f.d f.a f.r f.b f.s)
  | 89 => .ok (.fcmpNe f.d f.a f.r f.b f.s)
  | 90 => .ok (.fcmpLt f.d f.a f.r f.b f.s)
  | 91 => .ok (.fcmpLe f.d f.a f.r f.b f.s)
  | 92 => .ok (.fcmpGt f.d f.a f.r f.b f.s)
  | 93 => .ok (.fcmpGe f.d f.a f.r f.b f.s)
  | 94 => .ok (.fcmpUn f.d f.a f.r f.b f.s)
  | 95 => .ok (.fcmpOrd f.d f.a f.r f.b f.s)
  | 96 => .ok (.dadd f.d f.a f.r f.b f.s)
  | 97 => .ok (.dsub f.d f.a f.r f.b f.s)
  | 98 => .ok (.dmul f.d f.a f.r f.b f.s)
  | 99 => .ok (.dfma f.d f.a f.r f.b f.s)
  | 100 => .ok (.dmin f.d f.a f.r f.b f.s)
  | 101 => .ok (.dmax f.d f.a f.r f.b f.s)
  | 102 => .ok (.ddiv f.d f.a f.r f.b f.s)
  | 103 => whenOk (f.b.val == 0 && f.s.val == 0) (.dsqrt f.d f.a f.r)
  | 104 => whenOk (f.b.val == 0 && f.s.val == 0) (.drndRn f.d f.a f.r)
  | 105 => whenOk (f.b.val == 0 && f.s.val == 0) (.drndRz f.d f.a f.r)
  | 106 => whenOk (f.b.val == 0 && f.s.val == 0) (.drndRm f.d f.a f.r)
  | 107 => whenOk (f.b.val == 0 && f.s.val == 0) (.drndRp f.d f.a f.r)
  | 112 => .ok (.dcmpEq f.d f.a f.r f.b f.s)
  | 113 => .ok (.dcmpNe f.d f.a f.r f.b f.s)
  | 114 => .ok (.dcmpLt f.d f.a f.r f.b f.s)
  | 115 => .ok (.dcmpLe f.d f.a f.r f.b f.s)
  | 116 => .ok (.dcmpGt f.d f.a f.r f.b f.s)
  | 117 => .ok (.dcmpGe f.d f.a f.r f.b f.s)
  | 118 => .ok (.dcmpUn f.d f.a f.r f.b f.s)
  | 119 => .ok (.dcmpOrd f.d f.a f.r f.b f.s)
  | 128 => .ok (.hadd2 f.d f.a f.r f.b f.s)
  | 129 => .ok (.hmul2 f.d f.a f.r f.b f.s)
  | 130 => .ok (.hfma2 f.d f.a f.r f.b f.s)
  | 131 => .ok (.hmax2 f.d f.a f.r f.b f.s)
  | 132 => .ok (.badd2 f.d f.a f.r f.b f.s)
  | 133 => .ok (.bmul2 f.d f.a f.r f.b f.s)
  | 134 => .ok (.bfma2 f.d f.a f.r f.b f.s)
  | 135 => .ok (.bmax2 f.d f.a f.r f.b f.s)
  | 144 => withCode (Fmt.ofCode ((f.b.val * 4 + f.s.val) / 16)) fun t => withCode (Fmt.ofCode ((f.b.val * 4 + f.s.val) % 16)) fun u => .ok (.cvt f.d f.a f.r t u)
  | 145 => withCode (Fmt.ofCode ((f.b.val * 4 + f.s.val) / 16)) fun t => withCode (Fmt.ofCode ((f.b.val * 4 + f.s.val) % 16)) fun u => .ok (.cvtSat f.d f.a f.r t u)
  | 146 => withCode (Fmt.ofCode ((f.b.val * 4 + f.s.val) / 16)) fun t => withCode (Fmt.ofCode ((f.b.val * 4 + f.s.val) % 16)) fun u => .ok (.cvtRn f.d f.a f.r t u)
  | 147 => withCode (Fmt.ofCode ((f.b.val * 4 + f.s.val) / 16)) fun t => withCode (Fmt.ofCode ((f.b.val * 4 + f.s.val) % 16)) fun u => .ok (.cvtRz f.d f.a f.r t u)
  | 148 => withCode (Fmt.ofCode ((f.b.val * 4 + f.s.val) / 16)) fun t => withCode (Fmt.ofCode ((f.b.val * 4 + f.s.val) % 16)) fun u => .ok (.cvtRm f.d f.a f.r t u)
  | 149 => withCode (Fmt.ofCode ((f.b.val * 4 + f.s.val) / 16)) fun t => withCode (Fmt.ofCode ((f.b.val * 4 + f.s.val) % 16)) fun u => .ok (.cvtRp f.d f.a f.r t u)
  | 160 => .ok (.pkF16 f.d f.a f.r f.b f.s)
  | 161 => .ok (.pkBf16 f.d f.a f.r f.b f.s)
  | 162 => .ok (.pkE4m3 f.d f.a f.r f.b f.s)
  | 163 => .ok (.pkE5m2 f.d f.a f.r f.b f.s)
  | 164 => .ok (.pkE4m3Sat f.d f.a f.r f.b f.s)
  | 165 => .ok (.pkE5m2Sat f.d f.a f.r f.b f.s)
  | 166 => .ok (.pkI8 f.d f.a f.r f.b f.s)
  | 167 => .ok (.pkI8S f.d f.a f.r f.b f.s)
  | 168 => whenOk (f.b.val == 0 && f.s.val == 0) (.pkBq4T0 f.d f.a f.r)
  | 169 => whenOk (f.b.val == 0 && f.s.val == 0) (.pkBq4T1 f.d f.a f.r)
  | 170 => whenOk (f.b.val == 0 && f.s.val == 0) (.pkBq4T2 f.d f.a f.r)
  | 171 => whenOk (f.b.val == 0 && f.s.val == 0) (.pkBq4T3 f.d f.a f.r)
  | 176 => whenOk (f.b.val == 0 && f.s.val == 0) (.unpkF16 f.d f.a f.r)
  | 177 => whenOk (f.b.val == 0 && f.s.val == 0) (.unpkBf16 f.d f.a f.r)
  | 178 => whenOk (f.b.val == 0 && f.s.val == 0) (.unpkE4m3 f.d f.a f.r)
  | 179 => whenOk (f.b.val == 0 && f.s.val == 0) (.unpkE5m2 f.d f.a f.r)
  | 180 => whenOk (f.b.val == 0 && f.s.val == 0) (.unpkI8 f.d f.a f.r)
  | 181 => whenOk (f.r.val == 0 && f.b.val == 0 && f.s.val == 0) (.unpkBq4 f.d f.a)
  | 192 => .ok (.rngKey f.d f.a f.r f.b f.s)
  | 193 => whenOk (f.r.val == 0 && f.b.val == 0 && f.s.val == 0) (.rngDraw f.d f.a)
  | 194 => whenOk (f.r.val == 0 && f.b.val == 0 && f.s.val == 0) (.rngDrawF32 f.d f.a)
  | 195 => whenOk (f.r.val == 0 && f.b.val == 0 && f.s.val == 0) (.rngDrawF64 f.d f.a)
  | 196 => .ok (.rngSkip f.d f.a f.r f.b f.s)
  | 200 => .ok (.aget f.d f.a f.r f.b f.s)
  | 201 => .ok (.aadd f.d f.a f.r f.b f.s)
  | 202 => .ok (.amerge f.d f.a f.r f.b f.s)
  | 203 => .ok (.aset f.d f.a f.r f.b f.s)
  | n => if 224 ≤ n then .error .extension else .error .opcode

/-- The instruction of a word of class LM (R106 to R110). -/
def decodeLM (f : LMFields) : Except Reject Instr :=
  match f.op with
  | 0 => withCode (LoadForm.ofCode f.k.val) fun kx => .ok (.ld f.d f.a kx f.f)
  | 1 => withCode (LoadForm.ofCode f.k.val) fun kx => .ok (.ldRaw f.d f.a kx f.f)
  | 2 => withCode (StoreForm.ofCode f.k.val) fun kx => .ok (.st f.d f.a kx f.f)
  | 3 => withCode (StoreForm.ofCode f.k.val) fun kx => .ok (.stRaw f.d f.a kx f.f)
  | 4 =>
      if f.d.val == 0 && f.k.val == 0 then .ok (.prefetchL2 f.a f.f)
      else if f.d.val == 0 && f.k.val == 1 then .ok (.prefetchL1 f.a f.f)
      else .error .field
  | 5 =>
      if f.k.val == 0 then .ok (.atomOAdd f.d f.a f.f)
      else if f.k.val == 1 then .ok (.atomOAnd f.d f.a f.f)
      else if f.k.val == 2 then .ok (.atomOOr f.d f.a f.f)
      else if f.k.val == 3 then .ok (.atomOXor f.d f.a f.f)
      else if f.k.val == 4 then .ok (.atomOMin f.d f.a f.f)
      else if f.k.val == 5 then .ok (.atomOMax f.d f.a f.f)
      else if f.k.val == 6 then .ok (.atomOMinu f.d f.a f.f)
      else if f.k.val == 7 then .ok (.atomOMaxu f.d f.a f.f)
      else .error .field
  | 6 =>
      if f.k.val == 0 then .ok (.atomUAdd f.d f.a f.f)
      else if f.k.val == 1 then .ok (.atomUAnd f.d f.a f.f)
      else if f.k.val == 2 then .ok (.atomUOr f.d f.a f.f)
      else if f.k.val == 3 then .ok (.atomUXor f.d f.a f.f)
      else if f.k.val == 4 then .ok (.atomUMin f.d f.a f.f)
      else if f.k.val == 5 then .ok (.atomUMax f.d f.a f.f)
      else if f.k.val == 6 then .ok (.atomUMinu f.d f.a f.f)
      else if f.k.val == 7 then .ok (.atomUMaxu f.d f.a f.f)
      else .error .field
  | 7 =>
      if f.k.val == 0 then .ok (.atomOExch f.d f.a f.f)
      else if f.k.val == 1 then .ok (.atomOCas f.d f.a f.f)
      else if f.k.val == 2 then .ok (.atomOAdd64 f.d f.a f.f)
      else if f.k.val == 3 then .ok (.atomOExch64 f.d f.a f.f)
      else if f.k.val == 4 then .ok (.atomOCas64 f.d f.a f.f)
      else .error .field
  | 8 =>
      if f.k.val == 0 then .ok (.atomUExch f.d f.a f.f)
      else if f.k.val == 1 then .ok (.atomUCas f.d f.a f.f)
      else if f.k.val == 2 then .ok (.atomUAdd64 f.d f.a f.f)
      else if f.k.val == 3 then .ok (.atomUExch64 f.d f.a f.f)
      else if f.k.val == 4 then .ok (.atomUCas64 f.d f.a f.f)
      else .error .field
  | 9 =>
      if f.k.val == 0 then .ok (.fatomOFadd f.d f.a f.f)
      else if f.k.val == 1 then .ok (.fatomOFmin f.d f.a f.f)
      else if f.k.val == 2 then .ok (.fatomOFmax f.d f.a f.f)
      else if f.k.val == 3 then .ok (.fatomODadd f.d f.a f.f)
      else if f.k.val == 4 then .ok (.fatomOHadd2 f.d f.a f.f)
      else if f.k.val == 5 then .ok (.fatomOBadd2 f.d f.a f.f)
      else .error .field
  | 10 =>
      if f.k.val == 0 then .ok (.fatomUFadd f.d f.a f.f)
      else if f.k.val == 1 then .ok (.fatomUFmin f.d f.a f.f)
      else if f.k.val == 2 then .ok (.fatomUFmax f.d f.a f.f)
      else if f.k.val == 3 then .ok (.fatomUDadd f.d f.a f.f)
      else if f.k.val == 4 then .ok (.fatomUHadd2 f.d f.a f.f)
      else if f.k.val == 5 then .ok (.fatomUBadd2 f.d f.a f.f)
      else .error .field
  | 11 => withCode (CopySize.ofCode f.k.val) fun sx => .ok (.cpAsyncIn f.d f.a sx f.f)
  | 12 => withCode (CopySize.ofCode f.k.val) fun sx => .ok (.cpAsyncOut f.d f.a sx f.f)
  | 13 => whenOk (f.f.toNat == 0) (.cpRows f.d f.a f.k)
  | 14 => whenOk (f.f.toNat == 0) (.cpMcastO f.d f.a f.k)
  | 15 => whenOk (f.f.toNat == 0) (.cpMcastU f.d f.a f.k)
  | 16 => whenOk (f.k.val == 0) (.cbufGet f.d f.a f.f)
  | 17 => whenOk (f.k.val == 0) (.cbufPut f.d f.a f.f)
  | 18 => whenOk (f.k.val == 0 && f.f.toNat == 0) (.qpushO f.d f.a)
  | 19 => whenOk (f.k.val == 0 && f.f.toNat == 0) (.qpushU f.d f.a)
  | 20 => whenOk (f.k.val == 0 && f.f.toNat == 0) (.qpop f.d f.a)
  | 21 => whenOk (f.k.val == 0 && f.f.toNat == 0) (.bucketArrive f.d f.a)
  | 22 => whenOk (f.k.val == 0) (.barTag f.d f.a f.f)
  | 23 =>
      if f.k.val == 0 && f.f.toNat == 0 then .ok (.rcpReg f.d f.a)
      else if f.d.val == 0 && f.k.val == 1 && f.f.toNat == 0 then .ok (.rcpDrop f.a)
      else if f.d.val == 0 && f.k.val == 2 && f.f.toNat == 0 then .ok (.rcpPin f.a)
      else if f.d.val == 0 && f.k.val == 3 && f.f.toNat == 0 then .ok (.rcpUnpin f.a)
      else if f.k.val == 4 && f.f.toNat == 0 then .ok (.tileState f.d f.a)
      else .error .field
  | 24 =>
      if f.d.val == 0 && f.f.toNat == 0 then .ok (.mmLdw f.a f.k)
      else if f.d.val == 0 && f.f.toNat == 16 then .ok (.mmSwapw f.a f.k)
      else if f.d.val == 0 && f.f.toNat == 32 then .ok (.mmRun f.a f.k)
      else if f.d.val == 0 && f.f.toNat == 48 then .ok (.mmSwapacc f.a f.k)
      else if f.d.val == 0 && f.f.toNat == 64 then .ok (.mmAccrd f.a f.k)
      else if f.d.val == 0 && f.f.toNat == 80 then .ok (.mmAccwr f.a f.k)
      else if f.d.val == 0 && f.f.toNat == 96 then .ok (.mmDrain f.a f.k)
      else if f.d.val == 0 && f.f.toNat == 112 then .ok (.mmRegrow f.a f.k)
      else if f.k.val == 0 && f.f.toNat == 128 then .ok (.mmAmax f.d f.a)
      else .error .field
  | 25 =>
      if f.d.val == 0 && f.f.toNat == 0 then .ok (.bsAsm f.a f.k)
      else if f.d.val == 0 && f.f.toNat == 16 then .ok (.bsLu f.a f.k)
      else if f.d.val == 0 && f.f.toNat == 32 then .ok (.bsLdl f.a f.k)
      else if f.d.val == 0 && f.f.toNat == 48 then .ok (.bsTrsv f.a f.k)
      else if f.d.val == 0 && f.f.toNat == 64 then .ok (.bsPgs f.a f.k)
      else if f.d.val == 0 && f.f.toNat == 80 then .ok (.bsBack f.a f.k)
      else if f.k.val == 0 && f.f.toNat == 96 then .ok (.bsStat f.d f.a)
      else .error .field
  | 26 =>
      if f.d.val == 0 && f.f.toNat == 0 then .ok (.srtKeys f.a f.k)
      else if f.d.val == 0 && f.f.toNat == 16 then .ok (.srtPairs f.a f.k)
      else if f.d.val == 0 && f.f.toNat == 32 then .ok (.trvBuild f.a f.k)
      else if f.d.val == 0 && f.f.toNat == 48 then .ok (.trvQuery f.a f.k)
      else .error .field
  | 27 =>
      if f.d.val == 0 && f.f.toNat == 0 then .ok (.phaseRegroup f.a f.k)
      else if f.d.val == 0 && f.f.toNat == 16 then .ok (.phaseRestore f.a f.k)
      else .error .field
  | 28 => whenOk (f.d.val == 0 && f.f.toNat == 0) (.collPost f.a f.k)
  | n => if 29 ≤ n then .error .extension else .error .opcode

/-- The instruction of a word of class LI (R105, R183). -/
def decodeLI (f : LIFields) : Except Reject Instr :=
  match f.op with
  | 0 => .ok (.addImm f.d f.a f.i)
  | 1 => .ok (.andImm f.d f.a f.i)
  | 2 => .ok (.orImm f.d f.a f.i)
  | 3 => .ok (.xorImm f.d f.a f.i)
  | 4 =>
      if f.i.toNat / 32 == 0 then .ok (.shlImm f.d f.a (BitVec.ofNat 5 (f.i.toNat % 32)))
      else if f.i.toNat / 32 == 64 then .ok (.shrImm f.d f.a (BitVec.ofNat 5 (f.i.toNat % 32)))
      else if f.i.toNat / 32 == 128 then .ok (.sarImm f.d f.a (BitVec.ofNat 5 (f.i.toNat % 32)))
      else if f.i.toNat / 32 == 192 then .ok (.rotImm f.d f.a (BitVec.ofNat 5 (f.i.toNat % 32)))
      else .error .field
  | 5 => whenOk (f.a.val == 0) (.movImm f.d f.i)
  | 6 => withCode (Lop3Fn.ofCode (f.i.toNat / 8 % 16)) fun fx => .ok (.lop3 f.d f.a (Fin.ofNat 64 (f.i.toNat / 128)) fx (BitVec.ofNat 3 (f.i.toNat % 8)))
  | 7 => withCode (Lop3Fn.ofCode (f.i.toNat / 8 % 16)) fun fx => .ok (.lop3Not f.d f.a (Fin.ofNat 64 (f.i.toNat / 128)) fx (BitVec.ofNat 3 (f.i.toNat % 8)))
  | 8 => .ok (.brcNz f.d f.f)
  | 9 => .ok (.brcZ f.d f.f)
  | _ => .error .opcode

/-- The instruction of a word of class UA (R111 to R113). -/
noncomputable def decodeUA (f : UAFields) : Except Reject Instr :=
  match f.op with
  | 0 => whenOk (f.d.val == 0 && f.a.val == 0 && f.b.val == 0 && f.s.val == 0) (.gNop)
  | 1 => whenOk (f.b.val == 0 && f.s.val == 0) (.gMov f.d f.a)
  | 2 => whenOk (f.s.val == 0) (.gAdd f.d f.a f.b)
  | 3 => whenOk (f.s.val == 0) (.gSub f.d f.a f.b)
  | 4 => whenOk (f.s.val == 0) (.gMul f.d f.a f.b)
  | 5 =>
      if f.s.val == 0 then .ok (.gMulh f.d f.a f.b)
      else if f.s.val == 1 then .ok (.gMulhU f.d f.a f.b)
      else .error .field
  | 6 => whenOk (f.s.val == 0) (.gAnd f.d f.a f.b)
  | 7 => whenOk (f.s.val == 0) (.gOr f.d f.a f.b)
  | 8 => whenOk (f.s.val == 0) (.gXor f.d f.a f.b)
  | 9 => whenOk (f.s.val == 0) (.gShl f.d f.a f.b)
  | 10 => whenOk (f.s.val == 0) (.gShr f.d f.a f.b)
  | 11 => whenOk (f.s.val == 0) (.gSar f.d f.a f.b)
  | 12 => withCode (Cond.ofCode f.s.val) fun cx => .ok (.gCmp f.d f.a f.b cx)
  | 13 => whenOk (f.s.val == 0) (.gSel f.d f.a f.b)
  | 14 =>
      if f.s.val == 0 then .ok (.gMin f.d f.a f.b)
      else if f.s.val == 1 then .ok (.gMinU f.d f.a f.b)
      else .error .field
  | 15 =>
      if f.s.val == 0 then .ok (.gMax f.d f.a f.b)
      else if f.s.val == 1 then .ok (.gMaxU f.d f.a f.b)
      else .error .field
  | 16 => whenOk (f.d.val == 0 && f.b.val == 0 && f.s.val == 0) (.gRet f.a)
  | 17 => whenOk (f.d.val == 0 && f.a.val == 0 && f.b.val == 0 && f.s.val == 0) (.gYield)
  | 18 => whenOk (f.d.val == 0 && f.a.val == 0 && f.b.val == 0 && f.s.val == 0) (.gExit)
  | 19 => whenOk (f.d.val == 0 && f.b.val == 0 && f.s.val == 0) (.gLanes f.a)
  | 20 => whenOk (f.a.val == 0 && f.b.val == 0 && f.s.val == 0) (.gElect f.d)
  | 21 => whenOk (f.d.val == 0 && f.a.val == 0 && f.b.val == 0 && f.s.val == 0) (.gEret)
  | 22 =>
      if f.a.val == 0 && f.b.val == 0 && f.s.val == 0 then .ok (.gClockO f.d)
      else if f.a.val == 0 && f.b.val == 0 && f.s.val == 1 then .ok (.gClockU f.d)
      else .error .field
  | 32 => whenOk (f.b.val == 0 && f.s.val == 0) (.gLaunch f.d f.a)
  | 33 => whenOk (f.b.val == 0 && f.s.val == 0) (.gTrylaunch f.d f.a)
  | 34 => whenOk (f.s.val == 0) (.gReplay f.d f.a f.b)
  | 35 => whenOk (f.b.val == 0 && f.s.val == 0) (.gInvoke f.d f.a)
  | 36 => whenOk (f.s.val == 0) (.gInvokeh f.d f.a f.b)
  | 37 =>
      if f.b.val == 0 && f.s.val == 0 then .ok (.gAwait f.d f.a)
      else if f.b.val == 0 && f.s.val == 1 then .ok (.gAwaitT f.d f.a)
      else .error .field
  | 38 => whenOk (f.b.val == 0 && f.s.val == 0) (.gHstat f.d f.a)
  | 39 => whenOk (f.d.val == 0 && f.s.val == 0) (.gWsplit f.a f.b)
  | 40 => whenOk (f.d.val == 0 && f.a.val == 0 && f.b.val == 0 && f.s.val == 0) (.gWgive)
  | 48 => whenOk (f.d.val == 0 && f.b.val == 0 && f.s.val == 0) (.gBar f.a)
  | 49 => whenOk (f.d.val == 0 && f.b.val == 0 && f.s.val == 0) (.gBarrive f.a)
  | 50 => whenOk (f.d.val == 0 && f.b.val == 0 && f.s.val == 0) (.gBarwait f.a)
  | 51 => whenOk (f.d.val == 0 && f.a.val == 0 && f.b.val == 0 && f.s.val / 8 == 0) (.gWait (Fin.ofNat 8 (f.s.val % 8)))
  | 52 => whenOk (f.a.val == 0 && f.b.val == 0 && f.s.val == 0) (.gSeal f.d)
  | 53 => whenOk (f.d.val == 0 && f.b.val == 0 && f.s.val == 0) (.gBwait f.a)
  | 54 => withCode (Scope.ofCode f.s.val) fun cx => whenOk (f.d.val == 0 && f.a.val == 0 && f.b.val == 0) (.gFenceRel cx)
  | 55 => withCode (Scope.ofCode f.s.val) fun cx => whenOk (f.d.val == 0 && f.a.val == 0 && f.b.val == 0) (.gFenceAcq cx)
  | 56 => withCode (Scope.ofCode f.s.val) fun cx => whenOk (f.d.val == 0 && f.a.val == 0 && f.b.val == 0) (.gFenceFull cx)
  | 64 => whenOk (f.d.val == 0 && f.b.val == 0) (.gStepadv f.a f.s)
  | 65 => whenOk (f.a.val == 0 && f.b.val == 0) (.gStepget f.d f.s)
  | 66 => whenOk (f.d.val == 0 && f.a.val == 0 && f.b.val == 0) (.gSweep f.s)
  | 67 => whenOk (f.a.val == 0 && f.b.val == 0) (.gSweepwait f.d f.s)
  | n => if 224 ≤ n then .error .extension else .error .opcode

/-- The instruction of a word of class UB (R114). -/
noncomputable def decodeUB (f : UBFields) : Except Reject Instr :=
  match f.op with
  | 0 => whenOk (f.a.val == 0) (.gJmp f.f)
  | 1 => .ok (.gBrNz f.a f.f)
  | 2 => .ok (.gBrZ f.a f.f)
  | 3 => .ok (.gCall f.a f.f)
  | 4 => .ok (.gLoop f.a f.f)
  | _ => .error .opcode

/-- The instruction of a word of class UI (R114). -/
noncomputable def decodeUI (f : UIFields) : Except Reject Instr :=
  match f.op with
  | 0 => whenOk (f.a.val == 0) (.gLi f.d f.i)
  | 1 => .ok (.gLui f.d f.a f.i)
  | 2 => .ok (.gAddImm f.d f.a f.i)
  | 3 => .ok (.gAndImm f.d f.a f.i)
  | 4 => .ok (.gOrImm f.d f.a f.i)
  | 5 => .ok (.gXorImm f.d f.a f.i)
  | 6 => whenOk (f.a.val == 0) (.gCsrr f.d f.i)
  | 7 => whenOk (f.d.val == 0) (.gCsrw f.a f.i)
  | 8 => whenOk (f.d.val == 0) (.gCsrs f.a f.i)
  | 9 => whenOk (f.d.val == 0) (.gCsrc f.a f.i)
  | 10 => whenOk (f.d.val == 0 && f.a.val == 0) (.gTrap f.i)
  | 11 => whenOk (f.a.val == 0) (.gFeat f.d f.i)
  | 12 => withCode (RouteKind.ofCode (f.i.toNat / 256 % 8)) fun kx => whenOk (f.d.val == 0 && f.a.val == 0 && f.i.toNat / 64 % 4 == 0) (.gSetroute (BitVec.ofNat 2 (f.i.toNat / 2048)) kx (BitVec.ofNat 6 (f.i.toNat % 64)))
  | _ => .error .opcode

/-- The instruction of a word by its class (R95, R96). -/
noncomputable def decodeClass (w : Nat) : Except Reject Instr :=
  match w / 536870912 % 8 with
  | 0 | 1 => decodeLA (fieldsLA w)
  | 2 => decodeLM (fieldsLM w)
  | 3 => decodeLI (fieldsLI w)
  | 4 | 5 => decodeUA (fieldsUA w)
  | 6 => decodeUB (fieldsUB w)
  | _ => decodeUI (fieldsUI w)

/-- Decoding of a word: steps 2, 3 and 5 of R100. Steps 1, 4 and 6 need the control word, FEAT1 and the group's allocation, and are the machine's. -/
noncomputable def decodeNat (w : Nat) : Except Reject Instr :=
  if w = 0 then .error .zeroWord
  else match decodeClass w with
    | .error e => .error e
    | .ok i => if i.wellFormed then .ok i else .error .shape

/-- Decoding of a 32-bit word (R100). -/
noncomputable def decodeWord (w : Word) : Except Reject Instr := decodeNat w.toNat

/-- The instruction the decoder reads from an instruction whose bits are w, numbered as the opcode table numbers them; every instruction is one 32-bit word (R95). -/
noncomputable def decodeTableWord (nbits w : Nat) : Option Instr :=
  if 32 < nbits then none
  else match decodeNat (w % 4294967296) with
    | .ok i => some i
    | .error _ => none

/-- A word of class LA (R175). -/
def wordLA (op : Nat) (d a : Reg) (r : Route) (b : Reg) (s : Route) : Nat :=
  op * 4194304 + d.val * 65536 + a.val * 1024 + r.val * 256 + b.val * 4 + s.val
/-- A word of class LM (R215). -/
def wordLM (op : Nat) (d a : Reg) (k : Nat) (f : Nat) : Nat :=
  1073741824 + op * 16777216 + d.val * 262144 + a.val * 4096 + k * 512 + f
/-- A word of class LI (R175). -/
def wordLI (op : Nat) (d a : Reg) (i : Nat) : Nat :=
  1610612736 + op * 33554432 + d.val * 524288 + a.val * 8192 + i
/-- A branch word of class LI (R175). -/
def wordLIBranch (op : Nat) (d : Reg) (f : Nat) : Nat :=
  1610612736 + op * 33554432 + d.val * 524288 + f
/-- A word of class UA (R128). -/
def wordUA (op : Nat) (d a b : Reg) (s : Nat) : Nat :=
  2147483648 + op * 4194304 + d.val * 65536 + a.val * 1024 + b.val * 16 + s
/-- A word of class UB (R128). -/
def wordUB (op : Nat) (a : Reg) (f : Nat) : Nat :=
  3221225472 + op * 33554432 + a.val * 524288 + f
/-- A word of class UI (R128). -/
def wordUI (op : Nat) (d a : Reg) (i : Nat) : Nat :=
  3758096384 + op * 33554432 + d.val * 524288 + a.val * 8192 + i

/-- A word of a cvt: the format byte stands in place of SB (R104). -/
def wordCvt (op : Nat) (d a : Reg) (r : Route) (t u : Fmt) : Nat :=
  op * 4194304 + d.val * 65536 + a.val * 1024 + r.val * 256 + t.code * 16 + u.code

/-- The number of an encoded instruction's word; 0 for a step that has no word. -/
def encodeNat : Instr → Nat
  | .add d a r b s => wordLA 0 d a r b s
  | .sub d a r b s => wordLA 1 d a r b s
  | .mul d a r b s => wordLA 2 d a r b s
  | .mulh d a r b s => wordLA 3 d a r b s
  | .mulhu d a r b s => wordLA 4 d a r b s
  | .mad d a r b s => wordLA 5 d a r b s
  | .and d a r b s => wordLA 6 d a r b s
  | .or d a r b s => wordLA 7 d a r b s
  | .xor d a r b s => wordLA 8 d a r b s
  | .shl d a r b s => wordLA 9 d a r b s
  | .shr d a r b s => wordLA 10 d a r b s
  | .sar d a r b s => wordLA 11 d a r b s
  | .rot d a r b s => wordLA 12 d a r b s
  | .min d a r b s => wordLA 13 d a r b s
  | .max d a r b s => wordLA 14 d a r b s
  | .minu d a r b s => wordLA 15 d a r b s
  | .maxu d a r b s => wordLA 16 d a r b s
  | .abs d a r => wordLA 17 d a r 0 0
  | .sel d a r b s => wordLA 18 d a r b s
  | .clz d a r => wordLA 19 d a r 0 0
  | .popc d a r => wordLA 20 d a r 0 0
  | .brev d a r => wordLA 21 d a r 0 0
  | .bfx d a r b s => wordLA 22 d a r b s
  | .bfxu d a r b s => wordLA 23 d a r b s
  | .bfi d a r b s => wordLA 24 d a r b s
  | .addc d a r b s => wordLA 25 d a r b s
  | .subb d a r b s => wordLA 26 d a r b s
  | .addS d a r b s => wordLA 27 d a r b s
  | .addUs d a r b s => wordLA 28 d a r b s
  | .subS d a r b s => wordLA 29 d a r b s
  | .subUs d a r b s => wordLA 30 d a r b s
  | .cmpEq d a r b s => wordLA 32 d a r b s
  | .cmpNe d a r b s => wordLA 33 d a r b s
  | .cmpLt d a r b s => wordLA 34 d a r b s
  | .cmpLe d a r b s => wordLA 35 d a r b s
  | .cmpGt d a r b s => wordLA 36 d a r b s
  | .cmpGe d a r b s => wordLA 37 d a r b s
  | .cmpLtu d a r b s => wordLA 38 d a r b s
  | .cmpLeu d a r b s => wordLA 39 d a r b s
  | .cmpGtu d a r b s => wordLA 40 d a r b s
  | .cmpGeu d a r b s => wordLA 41 d a r b s
  | .ballot d a r => wordLA 48 d a r 0 0
  | .voteAll d a r => wordLA 49 d a r 0 0
  | .voteAny d a r => wordLA 50 d a r 0 0
  | .voteUni d a r => wordLA 51 d a r 0 0
  | .perm d a b s => wordLA 52 d a 0 b s
  | .mov d a r => wordLA 53 d a r 0 0
  | .callv d a r => wordLA 54 d a r 0 0
  | .retv a => wordLA 55 0 a 0 0 0
  | .rejoin a => wordLA 56 0 a 0 0 0
  | .exitl => wordLA 57 0 0 0 0 0
  | .fadd d a r b s => wordLA 64 d a r b s
  | .fsub d a r b s => wordLA 65 d a r b s
  | .fmul d a r b s => wordLA 66 d a r b s
  | .ffma d a r b s => wordLA 67 d a r b s
  | .fmin d a r b s => wordLA 68 d a r b s
  | .fmax d a r b s => wordLA 69 d a r b s
  | .fcls d a r => wordLA 70 d a r 0 0
  | .fdiv d a r b s => wordLA 71 d a r b s
  | .fsqrt d a r => wordLA 72 d a r 0 0
  | .frcp d a r => wordLA 73 d a r 0 0
  | .frsq d a r => wordLA 74 d a r 0 0
  | .fex2 d a r => wordLA 75 d a r 0 0
  | .flg2 d a r => wordLA 76 d a r 0 0
  | .fsgnCpy d a r b s => wordLA 77 d a r b s
  | .fsgnNeg d a r => wordLA 78 d a r 0 0
  | .fsgnXor d a r b s => wordLA 79 d a r b s
  | .fsgnAbs d a r => wordLA 80 d a r 0 0
  | .frndRn d a r => wordLA 81 d a r 0 0
  | .frndRz d a r => wordLA 82 d a r 0 0
  | .frndRm d a r => wordLA 83 d a r 0 0
  | .frndRp d a r => wordLA 84 d a r 0 0
  | .fcmpEq d a r b s => wordLA 88 d a r b s
  | .fcmpNe d a r b s => wordLA 89 d a r b s
  | .fcmpLt d a r b s => wordLA 90 d a r b s
  | .fcmpLe d a r b s => wordLA 91 d a r b s
  | .fcmpGt d a r b s => wordLA 92 d a r b s
  | .fcmpGe d a r b s => wordLA 93 d a r b s
  | .fcmpUn d a r b s => wordLA 94 d a r b s
  | .fcmpOrd d a r b s => wordLA 95 d a r b s
  | .dadd d a r b s => wordLA 96 d a r b s
  | .dsub d a r b s => wordLA 97 d a r b s
  | .dmul d a r b s => wordLA 98 d a r b s
  | .dfma d a r b s => wordLA 99 d a r b s
  | .dmin d a r b s => wordLA 100 d a r b s
  | .dmax d a r b s => wordLA 101 d a r b s
  | .ddiv d a r b s => wordLA 102 d a r b s
  | .dsqrt d a r => wordLA 103 d a r 0 0
  | .drndRn d a r => wordLA 104 d a r 0 0
  | .drndRz d a r => wordLA 105 d a r 0 0
  | .drndRm d a r => wordLA 106 d a r 0 0
  | .drndRp d a r => wordLA 107 d a r 0 0
  | .dcmpEq d a r b s => wordLA 112 d a r b s
  | .dcmpNe d a r b s => wordLA 113 d a r b s
  | .dcmpLt d a r b s => wordLA 114 d a r b s
  | .dcmpLe d a r b s => wordLA 115 d a r b s
  | .dcmpGt d a r b s => wordLA 116 d a r b s
  | .dcmpGe d a r b s => wordLA 117 d a r b s
  | .dcmpUn d a r b s => wordLA 118 d a r b s
  | .dcmpOrd d a r b s => wordLA 119 d a r b s
  | .hadd2 d a r b s => wordLA 128 d a r b s
  | .hmul2 d a r b s => wordLA 129 d a r b s
  | .hfma2 d a r b s => wordLA 130 d a r b s
  | .hmax2 d a r b s => wordLA 131 d a r b s
  | .badd2 d a r b s => wordLA 132 d a r b s
  | .bmul2 d a r b s => wordLA 133 d a r b s
  | .bfma2 d a r b s => wordLA 134 d a r b s
  | .bmax2 d a r b s => wordLA 135 d a r b s
  | .cvt d a r t u => wordCvt 144 d a r t u
  | .cvtSat d a r t u => wordCvt 145 d a r t u
  | .cvtRn d a r t u => wordCvt 146 d a r t u
  | .cvtRz d a r t u => wordCvt 147 d a r t u
  | .cvtRm d a r t u => wordCvt 148 d a r t u
  | .cvtRp d a r t u => wordCvt 149 d a r t u
  | .pkF16 d a r b s => wordLA 160 d a r b s
  | .pkBf16 d a r b s => wordLA 161 d a r b s
  | .pkE4m3 d a r b s => wordLA 162 d a r b s
  | .pkE5m2 d a r b s => wordLA 163 d a r b s
  | .pkE4m3Sat d a r b s => wordLA 164 d a r b s
  | .pkE5m2Sat d a r b s => wordLA 165 d a r b s
  | .pkI8 d a r b s => wordLA 166 d a r b s
  | .pkI8S d a r b s => wordLA 167 d a r b s
  | .pkBq4T0 d a r => wordLA 168 d a r 0 0
  | .pkBq4T1 d a r => wordLA 169 d a r 0 0
  | .pkBq4T2 d a r => wordLA 170 d a r 0 0
  | .pkBq4T3 d a r => wordLA 171 d a r 0 0
  | .unpkF16 d a r => wordLA 176 d a r 0 0
  | .unpkBf16 d a r => wordLA 177 d a r 0 0
  | .unpkE4m3 d a r => wordLA 178 d a r 0 0
  | .unpkE5m2 d a r => wordLA 179 d a r 0 0
  | .unpkI8 d a r => wordLA 180 d a r 0 0
  | .unpkBq4 d a => wordLA 181 d a 0 0 0
  | .rngKey d a r b s => wordLA 192 d a r b s
  | .rngDraw d a => wordLA 193 d a 0 0 0
  | .rngDrawF32 d a => wordLA 194 d a 0 0 0
  | .rngDrawF64 d a => wordLA 195 d a 0 0 0
  | .rngSkip d a r b s => wordLA 196 d a r b s
  | .aget d a r b s => wordLA 200 d a r b s
  | .aadd d a r b s => wordLA 201 d a r b s
  | .amerge d a r b s => wordLA 202 d a r b s
  | .aset d a r b s => wordLA 203 d a r b s
  | .addImm d a i => wordLI 0 d a i.toNat
  | .andImm d a i => wordLI 1 d a i.toNat
  | .orImm d a i => wordLI 2 d a i.toNat
  | .xorImm d a i => wordLI 3 d a i.toNat
  | .shlImm d a n => wordLI 4 d a (n.toNat)
  | .shrImm d a n => wordLI 4 d a (2048 + n.toNat)
  | .sarImm d a n => wordLI 4 d a (4096 + n.toNat)
  | .rotImm d a n => wordLI 4 d a (6144 + n.toNat)
  | .movImm d i => wordLI 5 d 0 i.toNat
  | .lop3 d a b f m => wordLI 6 d a (b.val * 128 + f.code * 8 + m.toNat)
  | .lop3Not d a b f m => wordLI 7 d a (b.val * 128 + f.code * 8 + m.toNat)
  | .brcNz c f => wordLIBranch 8 c f.toNat
  | .brcZ c f => wordLIBranch 9 c f.toNat
  | .ld d a k f => wordLM 0 d a k.code f.toNat
  | .ldRaw d a k f => wordLM 1 d a k.code f.toNat
  | .st d a k f => wordLM 2 d a k.code f.toNat
  | .stRaw d a k f => wordLM 3 d a k.code f.toNat
  | .prefetchL2 a f => wordLM 4 0 a 0 f.toNat
  | .prefetchL1 a f => wordLM 4 0 a 1 f.toNat
  | .atomOAdd d a f => wordLM 5 d a 0 f.toNat
  | .atomOAnd d a f => wordLM 5 d a 1 f.toNat
  | .atomOOr d a f => wordLM 5 d a 2 f.toNat
  | .atomOXor d a f => wordLM 5 d a 3 f.toNat
  | .atomOMin d a f => wordLM 5 d a 4 f.toNat
  | .atomOMax d a f => wordLM 5 d a 5 f.toNat
  | .atomOMinu d a f => wordLM 5 d a 6 f.toNat
  | .atomOMaxu d a f => wordLM 5 d a 7 f.toNat
  | .atomUAdd d a f => wordLM 6 d a 0 f.toNat
  | .atomUAnd d a f => wordLM 6 d a 1 f.toNat
  | .atomUOr d a f => wordLM 6 d a 2 f.toNat
  | .atomUXor d a f => wordLM 6 d a 3 f.toNat
  | .atomUMin d a f => wordLM 6 d a 4 f.toNat
  | .atomUMax d a f => wordLM 6 d a 5 f.toNat
  | .atomUMinu d a f => wordLM 6 d a 6 f.toNat
  | .atomUMaxu d a f => wordLM 6 d a 7 f.toNat
  | .atomOExch d a f => wordLM 7 d a 0 f.toNat
  | .atomOCas d a f => wordLM 7 d a 1 f.toNat
  | .atomOAdd64 d a f => wordLM 7 d a 2 f.toNat
  | .atomOExch64 d a f => wordLM 7 d a 3 f.toNat
  | .atomOCas64 d a f => wordLM 7 d a 4 f.toNat
  | .atomUExch d a f => wordLM 8 d a 0 f.toNat
  | .atomUCas d a f => wordLM 8 d a 1 f.toNat
  | .atomUAdd64 d a f => wordLM 8 d a 2 f.toNat
  | .atomUExch64 d a f => wordLM 8 d a 3 f.toNat
  | .atomUCas64 d a f => wordLM 8 d a 4 f.toNat
  | .fatomOFadd d a f => wordLM 9 d a 0 f.toNat
  | .fatomOFmin d a f => wordLM 9 d a 1 f.toNat
  | .fatomOFmax d a f => wordLM 9 d a 2 f.toNat
  | .fatomODadd d a f => wordLM 9 d a 3 f.toNat
  | .fatomOHadd2 d a f => wordLM 9 d a 4 f.toNat
  | .fatomOBadd2 d a f => wordLM 9 d a 5 f.toNat
  | .fatomUFadd d a f => wordLM 10 d a 0 f.toNat
  | .fatomUFmin d a f => wordLM 10 d a 1 f.toNat
  | .fatomUFmax d a f => wordLM 10 d a 2 f.toNat
  | .fatomUDadd d a f => wordLM 10 d a 3 f.toNat
  | .fatomUHadd2 d a f => wordLM 10 d a 4 f.toNat
  | .fatomUBadd2 d a f => wordLM 10 d a 5 f.toNat
  | .cpAsyncIn d a s f => wordLM 11 d a s.code f.toNat
  | .cpAsyncOut d a s f => wordLM 12 d a s.code f.toNat
  | .cpRows d a k => wordLM 13 d a k.val 0
  | .cpMcastO d a k => wordLM 14 d a k.val 0
  | .cpMcastU d a k => wordLM 15 d a k.val 0
  | .cbufGet d a n => wordLM 16 d a 0 n.toNat
  | .cbufPut d a n => wordLM 17 d a 0 n.toNat
  | .qpushO d a => wordLM 18 d a 0 0
  | .qpushU d a => wordLM 19 d a 0 0
  | .qpop d a => wordLM 20 d a 0 0
  | .bucketArrive d a => wordLM 21 d a 0 0
  | .barTag d a f => wordLM 22 d a 0 f.toNat
  | .rcpReg d a => wordLM 23 d a 0 0
  | .rcpDrop a => wordLM 23 0 a 1 0
  | .rcpPin a => wordLM 23 0 a 2 0
  | .rcpUnpin a => wordLM 23 0 a 3 0
  | .tileState d a => wordLM 23 d a 4 0
  | .mmLdw a k => wordLM 24 0 a k.val 0
  | .mmSwapw a k => wordLM 24 0 a k.val 16
  | .mmRun a k => wordLM 24 0 a k.val 32
  | .mmSwapacc a k => wordLM 24 0 a k.val 48
  | .mmAccrd a k => wordLM 24 0 a k.val 64
  | .mmAccwr a k => wordLM 24 0 a k.val 80
  | .mmDrain a k => wordLM 24 0 a k.val 96
  | .mmRegrow a k => wordLM 24 0 a k.val 112
  | .mmAmax d a => wordLM 24 d a 0 128
  | .bsAsm a k => wordLM 25 0 a k.val 0
  | .bsLu a k => wordLM 25 0 a k.val 16
  | .bsLdl a k => wordLM 25 0 a k.val 32
  | .bsTrsv a k => wordLM 25 0 a k.val 48
  | .bsPgs a k => wordLM 25 0 a k.val 64
  | .bsBack a k => wordLM 25 0 a k.val 80
  | .bsStat d a => wordLM 25 d a 0 96
  | .srtKeys a k => wordLM 26 0 a k.val 0
  | .srtPairs a k => wordLM 26 0 a k.val 16
  | .trvBuild a k => wordLM 26 0 a k.val 32
  | .trvQuery a k => wordLM 26 0 a k.val 48
  | .phaseRegroup a k => wordLM 27 0 a k.val 0
  | .phaseRestore a k => wordLM 27 0 a k.val 16
  | .collPost a k => wordLM 28 0 a k.val 0
  | .gNop => wordUA 0 0 0 0 0
  | .gMov d a => wordUA 1 d a 0 0
  | .gAdd d a b => wordUA 2 d a b 0
  | .gSub d a b => wordUA 3 d a b 0
  | .gMul d a b => wordUA 4 d a b 0
  | .gMulh d a b => wordUA 5 d a b 0
  | .gMulhU d a b => wordUA 5 d a b 1
  | .gAnd d a b => wordUA 6 d a b 0
  | .gOr d a b => wordUA 7 d a b 0
  | .gXor d a b => wordUA 8 d a b 0
  | .gShl d a b => wordUA 9 d a b 0
  | .gShr d a b => wordUA 10 d a b 0
  | .gSar d a b => wordUA 11 d a b 0
  | .gCmp d a b c => wordUA 12 d a b c.code
  | .gSel d a b => wordUA 13 d a b 0
  | .gMin d a b => wordUA 14 d a b 0
  | .gMinU d a b => wordUA 14 d a b 1
  | .gMax d a b => wordUA 15 d a b 0
  | .gMaxU d a b => wordUA 15 d a b 1
  | .gRet a => wordUA 16 0 a 0 0
  | .gYield => wordUA 17 0 0 0 0
  | .gExit => wordUA 18 0 0 0 0
  | .gLanes a => wordUA 19 0 a 0 0
  | .gElect d => wordUA 20 d 0 0 0
  | .gEret => wordUA 21 0 0 0 0
  | .gClockO d => wordUA 22 d 0 0 0
  | .gClockU d => wordUA 22 d 0 0 1
  | .gLaunch d a => wordUA 32 d a 0 0
  | .gTrylaunch d a => wordUA 33 d a 0 0
  | .gReplay d a b => wordUA 34 d a b 0
  | .gInvoke d a => wordUA 35 d a 0 0
  | .gInvokeh d a b => wordUA 36 d a b 0
  | .gAwait d a => wordUA 37 d a 0 0
  | .gAwaitT d a => wordUA 37 d a 0 1
  | .gHstat d a => wordUA 38 d a 0 0
  | .gWsplit a b => wordUA 39 0 a b 0
  | .gWgive => wordUA 40 0 0 0 0
  | .gBar a => wordUA 48 0 a 0 0
  | .gBarrive a => wordUA 49 0 a 0 0
  | .gBarwait a => wordUA 50 0 a 0 0
  | .gWait k => wordUA 51 0 0 0 (k.val)
  | .gSeal d => wordUA 52 d 0 0 0
  | .gBwait a => wordUA 53 0 a 0 0
  | .gFenceRel c => wordUA 54 0 0 0 c.code
  | .gFenceAcq c => wordUA 55 0 0 0 c.code
  | .gFenceFull c => wordUA 56 0 0 0 c.code
  | .gStepadv a n => wordUA 64 0 a 0 n.val
  | .gStepget d n => wordUA 65 d 0 0 n.val
  | .gSweep n => wordUA 66 0 0 0 n.val
  | .gSweepwait d n => wordUA 67 d 0 0 n.val
  | .gJmp f => wordUB 0 0 f.toNat
  | .gBrNz a f => wordUB 1 a f.toNat
  | .gBrZ a f => wordUB 2 a f.toNat
  | .gCall a f => wordUB 3 a f.toNat
  | .gLoop a f => wordUB 4 a f.toNat
  | .gLi d i => wordUI 0 d 0 i.toNat
  | .gLui d a i => wordUI 1 d a i.toNat
  | .gAddImm d a i => wordUI 2 d a i.toNat
  | .gAndImm d a i => wordUI 3 d a i.toNat
  | .gOrImm d a i => wordUI 4 d a i.toNat
  | .gXorImm d a i => wordUI 5 d a i.toNat
  | .gCsrr d c => wordUI 6 d 0 c.toNat
  | .gCsrw a c => wordUI 7 0 a c.toNat
  | .gCsrs a c => wordUI 8 0 a c.toNat
  | .gCsrc a c => wordUI 9 0 a c.toNat
  | .gTrap n => wordUI 10 0 0 n.toNat
  | .gFeat d n => wordUI 11 d 0 n.toNat
  | .gSetroute e k p => wordUI 12 0 0 (e.toNat * 2048 + k.code * 256 + p.toNat)
  | .issueCycle _ => 0
  | .rejoinStall _ => 0
  | .scoreboardedResult _ _ => 0
  | .exitWaitEnd _ => 0
  | .heldAccessResume _ _ => 0
  | .heldStoreApply _ => 0
  | .copyComplete _ => 0
  | .rowGatherComplete _ => 0
  | .multicastComplete _ => 0
  | .cbufGetGrant _ => 0
  | .queuePushReserve _ => 0
  | .queuePopDeliver _ => 0
  | .benchTakeItem _ _ => 0
  | .solverTakeItem _ => 0
  | .sortTakeRange _ _ => 0
  | .engineCommandComplete _ => 0
  | .drainSweepOrder _ => 0
  | .sweepComplete _ => 0
  | .phaseCompactorRun _ => 0
  | .collStart _ => 0
  | .collGate _ => 0
  | .collTimeout _ => 0
  | .recomputeEntryWaitEnd _ => 0
  | .recomputeComplete _ => 0
  | .recipeChainEnd _ => 0
  | .tileEvictDrop _ => 0
  | .patrolScrub _ => 0
  | .ticketSegmentApply _ => 0
  | .admissionDecision _ => 0
  | .gangPlace _ => 0
  | .gangSwapOut _ => 0
  | .reservationDeadline _ => 0
  | .overrun _ => 0
  | .launchKill _ => 0
  | .launchComplete _ => 0
  | .replayStart _ => 0
  | .replayComplete _ => 0
  | .claimExpire _ => 0
  | .changeDependentAction => 0
  | .rdreq _ _ => 0
  | .rdrsp _ _ _ => 0
  | .wr _ _ => 0
  | .wrack _ => 0
  | .atomreq _ _ => 0
  | .atomrsp _ _ => 0
  | .failrsp _ _ => 0
  | .invoke _ _ => 0
  | .claimmsg _ _ => 0
  | .claimres _ _ => 0
  | .signal _ _ => 0
  | .coll _ _ => 0
  | .idle _ _ _ => 0
  | .nack _ _ => 0
  | .mgmt _ _ => 0
  | .linkDown _ => 0
  | .requestTimeout _ => 0
  | .rdmaWrite _ _ _ => 0
  | .rdmaWriteWithImmediate _ _ _ _ => 0
  | .rdmaRead _ _ _ => 0
  | .roceInvalidRequest _ => 0
  | .identify _ => 0
  | .attest _ _ => 0
  | .fwload _ _ => 0
  | .imageload _ _ _ _ => 0
  | .imageunload _ _ => 0
  | .launch _ _ _ _ => 0
  | .kill _ _ => 0
  | .resume _ _ => 0
  | .map _ _ _ _ _ _ _ => 0
  | .unmap _ _ _ _ => 0
  | .change _ _ _ _ _ => 0
  | .free _ _ _ _ => 0
  | .migrate _ _ _ _ => 0
  | .drop _ _ _ => 0
  | .asid _ _ _ => 0
  | .decaytab _ _ _ => 0
  | .span _ _ => 0
  | .ctxmem _ _ _ => 0
  | .read _ _ => 0
  | .route _ _ _ => 0
  | .lose _ _ => 0
  | .assume _ _ _ => 0
  | .rkey _ _ _ _ _ _ => 0
  | .hcpEventAck _ _ => 0
  | .hcpEventResend _ => 0
  | .hold _ => 0
  | .state => 0
  | .setip _ _ _ => 0
  | .session _ _ _ => 0
  | .telemetry _ => 0
  | .event => 0
  | .sbIdentify => 0
  | .dynamicAddressAssign _ => 0
  | .sbrstn _ => 0
  | .powerOnReset => 0
  | .bootVerify => 0
  | .go _ _ => 0
  | .cbget _ _ => 0
  | .cbput _ _ => 0
  | .faultClear _ _ => 0
  | .porterWindowWrite _ _ => 0
  | .porterCommandComplete _ _ => 0
  | .porterEcall _ _ => 0
  | .porterException _ _ => 0
  | .porterInstruction _ _ => 0
  | .flitCrcFailure _ => 0
  | .unknownFlitType _ _ _ => 0
  | .hcpUnlistedType _ _ => 0
  | .hcpFrameDiscard _ => 0
  | .sidebandBadRequest _ => 0
  | .congestionNotificationPacket => 0
  | .priorityFlowControl _ => 0
  | .ethernetLink _ => 0

/-- Is the constructor one of the 306 instructions that have a word? -/
def Instr.hasWord (i : Instr) : Bool := encodeNat i != 0

/-- The words of an instruction: one word, or none for a step of the machine that has no word (R95). -/
def encode (i : Instr) : List Word := if i.hasWord then [BitVec.ofNat 32 (encodeNat i)] else []

end Sys2Proof
end

