-- ==== Sys2Proof/Config.lean ====
section
/-! DEFINITION. What the part fixes (R2, R13, R17, R115) and the free values of the model: constants with no body, of which nothing can be proved but their type (log entry 1 says which is applied where). -/
namespace Sys2Proof.Config

/-- Cores of the device (R2). -/
def cores : Nat := 192
/-- Clusters of the device (R2). -/
def clusters : Nat := 48
/-- Resident group slots of a core (R17). -/
def slotsPerCore : Nat := 64
/-- Bytes of a core's register file (R17). -/
def regFileBytes : Nat := 524288
/-- Bytes of a core's scratchpad and L1 array (R375). -/
def arrayBytes : Nat := 1048576
/-- Bytes of HBM4: 384 GiB (R382, R383). -/
def hbmBytes : Nat := 412316860416
/-- First byte of the top 2 GiB that the device reserves (R383). -/
def reservedBase : Nat := 410169376768
/-- First byte of the Claim Resolution Table in the reserved area: the place is the model's choice (DESIGN CHOICE, log entry 9). -/
def claimTableBase : Nat := 410169376768
/-- Claim slots (R2, R456). -/
def claimSlots : Nat := 4194304
/-- Messages a home queues on its claims (R459). -/
def claimQueueCap : Nat := 1048576
/-- Ordinary entries of a die's pending-launch store (R408). -/
def launchEntries : Nat := 3840
/-- Invocations that wait for an entry (R408). -/
def invocationQueueCap : Nat := 65536
/-- Ranges the quarantine queue holds (R341). -/
def quarantineCap : Nat := 65536
/-- Bytes of a die's Ticket Unit staging region (R342). -/
def stagingBytes : Nat := 8388608
/-- Reservation-table entries of a core (R261). -/
def tableEntries : Nat := 64
/-- Events kept for a session (R469). -/
def eventCap : Nat := 4096
/-- FEAT0 to FEAT3 (R115). -/
def feat (n : Nat) : Word := if n = 0 then 0x1FFF#32 else 0#32
/-- Arithmetic cycles at which the idle count traps (R34). -/
def idleLimit : Nat := 1048576
/-- Flits a device holds early for one source and channel (R451). -/
def earlyFlitCap : Nat := 4096
/-- Nanoseconds after which an unanswered request ends its launch (R455). -/
def requestTimeoutNs : Nat := 200000000

/-- Free value: which of several enabled steps the machine takes next, from the model's own tick. (DESIGN CHOICE: log entry 1.) -/
opaque pickAgent : Nat → Nat
/-- Free value: a choice among k things that the spec leaves to the run, from the tick and a count within the step. (DESIGN CHOICE: log entry 1.) -/
opaque pick : Nat → Nat → Nat
/-- Free value: an arbitrary word, from the tick and a count within the step. (DESIGN CHOICE: log entry 1.) -/
opaque freeWord : Nat → Nat → Word
/-- Free value: the SHA-384 digest of both public keys that was fused at manufacture (R470). (DESIGN CHOICE: log entry 37.) -/
opaque fusedDigest : List Byte
/-- Free value: the Ed25519 and the ML-DSA-65 public key in a firmware image's header (R470): the header's layout is outside the spec. (DESIGN CHOICE: log entry 37.) -/
opaque firmwareKeys : List Byte → List Byte × List Byte
/-- Free value: the header and the body of a firmware image, which both signatures cover (R470). (DESIGN CHOICE: log entry 37.) -/
opaque firmwareText : List Byte → List Byte
/-- Free value: the Ed25519 and the ML-DSA-65 signature of a firmware image (R470). (DESIGN CHOICE: log entry 37.) -/
opaque firmwareSignatures : List Byte → List Byte × List Byte
/-- Free value: does pure Ed25519 verify a signature of a text under a public key (R470)? (DESIGN CHOICE: log entry 37.) -/
opaque ed25519Verify : List Byte → List Byte → List Byte → Bool
/-- Free value: does ML-DSA-65 verify a signature of a text under a public key and a context string (R470)? (DESIGN CHOICE: log entry 37.) -/
opaque mlDsaVerify : List Byte → List Byte → List Byte → List Byte → Bool
/-- Free value: the security version in a firmware image's header (R470): the header's layout is outside the spec. (DESIGN CHOICE: log entry 37.) -/
opaque firmwareVersion : List Byte → Nat
/-- Free value: the serial number of the part (R467, R472). (DESIGN CHOICE: log entry 37.) -/
opaque serial : List Byte
/-- Free value: both identity certificates (R471). (DESIGN CHOICE: log entry 37.) -/
opaque certificates : List Byte
/-- Free value: the 256-bit device secret in the fuses (R471). (DESIGN CHOICE: log entry 37.) -/
opaque deviceSecret : BitVec 256
/-- Free value: the Ed25519 private key derived from a device secret (R471). (DESIGN CHOICE: log entry 37.) -/
opaque ed25519Key : BitVec 256 → List Byte
/-- Free value: the ML-DSA-65 private key derived from a device secret (R471). (DESIGN CHOICE: log entry 37.) -/
opaque mlDsaKey : BitVec 256 → List Byte
/-- Free value: the Ed25519 signature of a text under a private key (R472). (DESIGN CHOICE: log entry 37.) -/
opaque ed25519Sign : List Byte → List Byte → List Byte
/-- Free value: the ML-DSA-65 signature of a text under a private key (R472). (DESIGN CHOICE: log entry 37.) -/
opaque mlDsaSign : List Byte → List Byte → List Byte
/-- Free value: the fixed hash of source and destination that picks a port (R452). -/
opaque routeHash : Nat → Nat → Nat
/-- Free value: die temperatures and package power as the device measures them at a cycle (R480). -/
opaque measured : Nat → List Byte
/-- Free value: the firmware the part was made with, staged in its boot store at the first power-on (DESIGN CHOICE, log entry 6). -/
opaque factoryFirmware : List Byte
/-- Free value: the compressed image of a group's registers in a context record: the device's own format (R369). -/
opaque regImage : List (List Word) → List Byte
/-- Free value: the bytes of a team record in context memory, in the device's own format: from TEAMID, WEIGHT, the window, its tagged words, and the planes of the bound handles (R370). -/
opaque teamImage : Nat → Nat → List Byte → List Nat → List (Nat × Nat × Bool × Nat × Nat × List (List (Option (Nat × Nat)))) → List Byte
/-- Free value: the bytes of a gang record in context memory, in the device's own format: from the gang's shape (its number, gang size, pair span), its accumulator banks (R370), and its porters: rank of the core, role, registers and fields in turn, data store (R444). -/
opaque gangImage : Nat → Nat → Bool → List (Nat × Nat × List Word × Nat) → List (Nat × Nat × List Nat × List Byte) → List Byte
/-- Free value: is the part ordered as the module MH1-ML, and not as the package MH1-PK (R472)? -/
opaque isModule : Bool
/-- The ordering code (R472). -/
def orderingCode : Nat := if isModule then 1 else 0
/-- Free value: the firmware of the management controller of a module (R472). -/
opaque managementFirmware : List Byte
/-- Free value: the security version of that firmware (R472). -/
opaque managementVersion : Nat
/-- Free value: are the stores that issue in the step of a tick performed later, by HELD_STORE_APPLY (R320, R322, R328)? (DESIGN CHOICE: log entry 109.) -/
opaque lateStores : Nat → Bool
/-- Free value: is the RoCEv2 packet that leaves at a tick marked for congestion (R463)? (DESIGN CHOICE: log entry 65.) -/
opaque ecnMark : Nat → Bool
/-- Free value: the memory error that comes at a tick, if one does: its kind and the numbers that say where (R402, R403). (DESIGN CHOICE: log entry 104.) -/
opaque upset : Nat → Option (Nat × Nat × Nat)

end Sys2Proof.Config
end

