-- ==== Sys2Proof/Machine/State.lean ====
section
/-! DEFINITION. The state of the machine as plain data, the reasons it can stop, and the state after reset. INVENTORY.md lists every piece with its rule. -/
namespace Sys2Proof.Machine

/-- Why the machine stops with a fault. -/
inductive Fault where
  /-- Raised by the fetch of Agents.runSlot alone: the page of the program counter leads to a physical address beyond the HBM4 of R382 and R383, which the spec says does not exist. No request of the host makes such a page (DEDUCED, log entry 10). Safe: no state follows. -/
  | noSuchMemory
  deriving DecidableEq, Repr

/-- Why a step has no meaning in a state. -/
inductive Refusal where
  /-- Raised by Dispatch.exec for an instruction that the model gives no meaning yet. Safe. -/
  | notModelled (mnemonic : String)
  /-- Raised by every encoded instruction that is asked for while no packet is being issued: no group has selected it (R26, R28). Safe: the machine never does this. -/
  | noIssuingGroup
  /-- Raised by a step of the machine whose own condition does not hold in the state, so that the machine does not take it there. Safe. -/
  | notEnabled
  deriving DecidableEq, Repr

/-- The trap causes of R354. -/
inductive Cause where
  | illegal | misalignedPc | pcRange | extEmu | budget | stallShort | fpExc | software | tokenBusy | batchRange
  | rejoinStall | addrRange | misalignedData | windowRange | pageFault | formatMismatch | writeShared | pinnedWrite
  | barrierClobber | check | badBlock | decayRange | badBarrier | barrierOrder | badDescriptor | cbufRange
  | queueRange | queueOwner | badBucket | recipePage | badRecipe | recipeBusy | recipeMiss | recipeDepth | pinRange
  | phaseSplit | weightLow | weightOverflow | stepSpanning | stepSweepDue | badInvoke | claimFull | claimBroken
  | doubleTrap | overrun | killed | deviceLost | claimStale
  deriving DecidableEq, Repr

/-- The code of a cause (R354). -/
def Cause.code : Cause → Nat
  | .illegal => 1 | .misalignedPc => 2 | .pcRange => 3 | .extEmu => 4 | .budget => 5 | .stallShort => 6 | .fpExc => 7
  | .software => 8 | .tokenBusy => 9 | .batchRange => 10 | .rejoinStall => 11 | .addrRange => 12 | .misalignedData => 13
  | .windowRange => 14 | .pageFault => 15 | .formatMismatch => 16 | .writeShared => 17 | .pinnedWrite => 18
  | .barrierClobber => 19 | .check => 20 | .badBlock => 21 | .decayRange => 22 | .badBarrier => 23 | .barrierOrder => 24
  | .badDescriptor => 25 | .cbufRange => 26 | .queueRange => 27 | .queueOwner => 28 | .badBucket => 29
  | .recipePage => 30 | .badRecipe => 31 | .recipeBusy => 32 | .recipeMiss => 33 | .recipeDepth => 34 | .pinRange => 35
  | .phaseSplit => 36 | .weightLow => 37 | .weightOverflow => 38 | .stepSpanning => 39 | .stepSweepDue => 40
  | .badInvoke => 41 | .claimFull => 42 | .claimBroken => 43 | .doubleTrap => 64 | .overrun => 65 | .killed => 66
  | .deviceLost => 67 | .claimStale => 68

/-- Where a trap goes (R354): the handler, a park, the emulation entry. -/
inductive Entry where
  | handler | park | emulation
  deriving DecidableEq, Repr

/-- The entry of a cause (R354). -/
def Cause.entry : Cause → Entry
  | .pageFault | .check | .recipeMiss | .recipeDepth => .park
  | .extEmu => .emulation
  | .illegal | .misalignedPc | .pcRange | .budget | .stallShort | .fpExc | .software | .tokenBusy | .batchRange
  | .rejoinStall | .addrRange | .misalignedData | .windowRange | .formatMismatch | .writeShared | .pinnedWrite
  | .barrierClobber | .badBlock | .decayRange | .badBarrier | .barrierOrder | .badDescriptor | .cbufRange
  | .queueRange | .queueOwner | .badBucket | .recipePage | .badRecipe | .recipeBusy | .pinRange | .phaseSplit
  | .weightLow | .weightOverflow | .stepSpanning | .stepSweepDue | .badInvoke | .claimFull | .claimBroken
  | .doubleTrap | .overrun | .killed | .deviceLost | .claimStale => .handler

/-- The engine status codes of R263. -/
inductive EngStatus where
  | ok | addrRange | windowRange | pageFault | formatMismatch | writeShared | pinnedWrite | barrierClobber | check
  | recipeMiss | recipeDepth | badBlock | badSparse | decayRange | benchBusy | noBench | planeMismatch | overflow
  | badMap | deviceLost | brokenInput | timeout | mismatch | stepSweepDue | notSpanning
  deriving DecidableEq, Repr

/-- The code of an engine status (R263). -/
def EngStatus.code : EngStatus → Nat
  | .ok => 0 | .addrRange => 1 | .windowRange => 2 | .pageFault => 3 | .formatMismatch => 4 | .writeShared => 5
  | .pinnedWrite => 6 | .barrierClobber => 7 | .check => 8 | .recipeMiss => 9 | .recipeDepth => 10 | .badBlock => 11
  | .badSparse => 12 | .decayRange => 13 | .benchBusy => 14 | .noBench => 15 | .planeMismatch => 16 | .overflow => 17
  | .badMap => 18 | .deviceLost => 19 | .brokenInput => 20 | .timeout => 21 | .mismatch => 22 | .stepSweepDue => 23
  | .notSpanning => 24

/-- A place in memory: a byte offset of a team's scratchpad window, or a physical address of HBM4 (R217, R383). -/
inductive Loc where
  | win (team off : Nat)
  | phys (pa : Nat)
  deriving DecidableEq, Repr

/-- A queue, by its descriptor (R242): its place and its tile. -/
structure QueueRef where
  loc : Loc
  tile : Option Nat
  deriving DecidableEq, Repr

/-- The messages of the fabric, by the flit types of R450 that carry one. -/
inductive FlitMsg where
  | rdreq (m : RdReq)
  | rdrsp (vals : List (Nat × List Word)) (bytes : List Byte)
  | wr (m : WrReq)
  | wrack
  | atomreq (m : AtomReqMsg)
  | atomrsp (vals : List (Nat × List Word))
  | failrsp (m : FailMsg)
  | invoke (m : InvokeMsg)
  | claimmsg (m : ClaimMsgData)
  | claimres (m : ClaimResData)
  | signal (m : SignalData)
  | coll (m : CollData)
  | mgmt (bytes : List Byte)
  deriving DecidableEq, Repr

/-! ## Groups -/

/-- A lane's place in its life: exited, live, or waiting at a rejoin with the mask it read there (R26, R32, R35). -/
inductive LaneState where
  | exited
  | live
  | waiting (mask : DWord)
  deriving DecidableEq, Repr

/-- A lane (R18). -/
structure Lane where
  regs : Vector Word 64
  pc : DWord
  trappc : DWord
  fpen : BitVec 6
  fpflags : BitVec 6
  st : LaneState
  deriving DecidableEq, Repr

/-- A route-table entry (R36). -/
structure RouteEntry where
  kind : RouteKind
  param : Nat
  deriving DecidableEq, Repr

/-- A token's state (R38). -/
inductive TokenState where
  | idle | busy | done | fault
  deriving DecidableEq, Repr

/-- A token: its state, the operations still to complete on it, and whether one of them ended badly (R38, R234, R260). -/
structure TokenRec where
  st : TokenState
  left : Nat
  bad : Bool
  deriving DecidableEq, Repr

/-- The rounding modes of FPRM (R25, R58). -/
inductive Rounding where
  | nearestEven | towardZero | down | up
  deriving DecidableEq, Repr

/-- A fixed-latency write not yet visible everywhere (R91, R94): the value the register held before it, the cycle in which it was issued, the cycle from which it is read, and the instruction that wrote it. -/
structure HistWrite where
  lane : Nat
  reg : Reg
  old : Word
  issued : Nat
  visible : Nat
  writer : DWord
  deriving DecidableEq, Repr

/-- What a pending scoreboarded write waits for (R93, R219, R224). -/
inductive SbKind where
  /-- Its value is known and arrives at its due cycle. -/
  | ready
  /-- A load, atomic or amax read held for tiles (R224): the word, the lanes with their EA, and what each does. -/
  | held (word : Word)
  /-- An answer from another device (R453) under a request tag. -/
  | remote (tags : List Nat) (word : Word)
  /-- bs.stat: until no command of the team names the item (R299). -/
  | stat
  /-- The effect of a release of a certified kernel, which waits until the segment it closed has been applied (R327, R344). -/
  | later
  /-- A bucket on another device, a weight grant and other answers named by the instruction. -/
  | answer (tag : Nat)
  deriving DecidableEq, Repr

/-- One lane of a held or remote access (R224, R453): its EA, the place and page attributes its check found, its registers before the access, and whether it has been performed. -/
structure HeldLane where
  lane : Nat
  ea : DWord
  loc : Loc
  attr : Word
  tile : Option Nat
  args : List Word
  done : Bool
  deriving DecidableEq, Repr

/-- What a held access is (R224). -/
inductive HeldOp where
  | load (f : LoadForm) | raw (f : LoadForm) | atom (op : AtomOp) | amax | stat | nothing
  deriving DecidableEq, Repr

/-- A scoreboarded write that has not completed (R93): the lanes and registers it will write, the values it has, the cycle they arrive, its lanes here and those of other devices still to be asked, and for an atomic the EA of each lane. -/
structure SbEntry where
  id : Nat
  pc : DWord
  lanes : LaneMask
  regs : List Reg
  vals : List (Nat × Reg × Word)
  due : Nat
  kind : SbKind
  op : HeldOp
  rows : List HeldLane
  asks : List (Nat × AtomPart) := []
  asked : List (Nat × DWord) := []
  epoch : Nat
  deriving DecidableEq, Repr

/-- One instruction of a packet (R28): its address, its word, its active lanes, and its place: half 0, half 1 or the uniform pipe (2). -/
structure Slot where
  pc : DWord
  word : Word
  lanes : LaneMask
  place : Nat
  deriving DecidableEq, Repr

/-- A deferred cause waiting for its stopping point (R352): the cause with its TRAPADDR and TRAPINST, the lanes it names, the registers whose read takes it, and what it belongs to. -/
inductive DeferKind where
  | access | store | batch (n : Option Nat)
  deriving DecidableEq, Repr

/-- A deferred trap (R224, R225, R233), with the number of the access that has it: failures of one access met at different times are one (R224). -/
structure Deferred where
  kind : DeferKind
  access : Nat := 0
  cause : Cause
  addr : DWord
  word : Word
  lanes : LaneMask
  regs : List Reg
  deriving DecidableEq, Repr

/-- A trap an instruction of the packet raises (R350, R353): the cause, the lanes it names, TRAPADDR, TRAPINST, DEFER, the restart address of its active lanes, the place of its slot, and the deferred cause that it is when it is one (R352). -/
structure TrapRec where
  place : Nat
  cause : Cause
  lanes : LaneMask
  addr : DWord
  word : Word
  defer : Bool
  active : LaneMask
  restart : DWord
  taken : Option Deferred := none
  deriving DecidableEq, Repr

/-- The packet being issued (R28): the core and group, the instruction that acts now, those that follow it, the first trap raised, the stall count and YIELD of R90 and R92, RETIRED before the packet (R145), and whether it uses the halves (R29). -/
structure Packet where
  core : Nat
  gid : Nat
  cur : Slot
  rest : List Slot
  trap : Option TrapRec
  stall : Nat
  yield : Bool
  retired0 : Nat
  lane : Bool
  deriving DecidableEq, Repr

/-- What an instruction waits for before it ends; the wait of a queue instruction holds the epoch with which its ring accesses are tagged (R506), the wait for a tile that of the access that met it (R339) (R42, R165 to R168, R240 and the other statements that name a wait). -/
inductive WaitKind where
  | barrier (addr : Word) (phase : Nat)
  | queuePop (tag : Nat)
  | queuePush (tag : Nat)
  | tile (k : Nat) (tag : Nat)
  | stores
  | remoteCheck (tags : List Nat)
  | claim (claim : DWord) (trapping : Bool) (tag : Option Nat)
  | launchStore (die : Nat) (record : List Byte)
  | token (t : Token)
  | batch (n : Nat)
  | sealLimit
  | fence (scope : Scope) (store : Bool)
  | cbuf (ea : DWord) (lanes : List Nat)
  | phase (block : DWord)
  | grant (tag : Nat)
  | sweep (n : Domain)
  | table
  | exit
  | staging
  deriving DecidableEq, Repr

/-- A waiting instruction of a group. -/
structure Wait where
  kind : WaitKind
  slot : Slot
  since : Nat
  deriving DecidableEq, Repr

/-- The counts of a group on one queue (R244, R245): qpush.o and qpop instructions that named it. -/
structure QCount where
  queue : QueueRef
  pushes : Nat
  pops : Nat
  deriving DecidableEq, Repr

/-- The answer to a remote request of a group (R453, R454). -/
inductive Answer where
  | fail (m : FailMsg)
  | data (vals : List (Nat × List Word)) (bytes : List Byte)
  | word (w : Word)
  deriving DecidableEq, Repr

/-- The CSR snapshot of a group (R23). -/
structure Snapshot where
  csr : Nat
  vals : List (Nat × DWord)
  deriving DecidableEq, Repr

/-- A group (R13, R18, R25). pending is a trap of its last packet that is taken once the other instructions of the packet have ended their waits (R353). stalls is the scoreboard's verdict on its next packet (R93), as the step finds it before a core issues: the entries it waits for. -/
structure Group where
  team : Nat
  index : Nat
  core : Nat
  slot : Nat
  width : Nat
  alloc : Nat
  lanes : List Lane
  enmask : LaneMask
  saveden : LaneMask
  routes : List RouteEntry
  tokens : Vector TokenRec 8
  bdone : Nat
  bsealed : Nat
  fprm : Rounding
  fpftz : Bool
  schk : Bool
  retired : Nat
  hnd : Bool
  defer : Bool
  code : Nat
  trapmask : LaneMask
  trapaddr : DWord
  trapinst : Word
  snap : Option Snapshot
  pending : Option TrapRec
  arrival : Option (Word × Nat)
  idle : Nat
  readyAt : Nat
  readySince : Nat
  stalls : List Nat
  hist : List HistWrite
  sb : List SbEntry
  waits : List Wait
  deferred : List Deferred
  answers : List (Nat × Answer)
  parked : Option Nat
  emptyWait : Bool
  qcounts : List QCount
  segment : Nat
  ticket : Option Nat
  ended : Bool
  deriving DecidableEq, Repr

/-! ## Teams, gangs, launches -/

/-- A weight plane of a bench (R270, R271): its format and depth, and the values by position as they are read from memory: the code of each element, with the header of its block for BQ4. -/
structure Plane where
  fmt : Nat
  sparse : Bool
  k : Nat
  n : Nat
  elems : List (List (Option (Nat × Nat)))
  deriving DecidableEq, Repr

/-- A bench handle (R270): the bench it is bound to, and its two planes. -/
structure BenchHandle where
  bound : Bool
  bench : Nat
  active : Option Plane
  standby : Option Plane
  deriving DecidableEq, Repr

/-- A queue a team has bound (R245), with the next entry of its sequence that no pop of the team has claimed. -/
structure Binding where
  queue : QueueRef
  next : Nat
  deriving DecidableEq, Repr

/-- A pop of a group on a queue that has not been delivered (R245): its round, its lanes, and the first entry it has claimed. -/
structure PopClaim where
  queue : QueueRef
  round : Nat
  group : Nat
  lanes : List Nat
  first : Option Nat
  deriving DecidableEq, Repr

/-- A team (R13, R18, R370): map is where the window holds the map of its last regroup and the address of that command's block, while it is regrouped (R308), arrived the groups at the Phase Compactor, each with the address and the bytes of its block (R259, R307), and base where the window begins in its core's array, while the team is resident (R375, R376). -/
structure Team where
  gang : Nat
  teamId : Nat
  rank : Nat
  weight : Nat
  btag : Nat
  queues : List Binding
  pops : List PopClaim
  pushed : List (QueueRef × Nat)
  window : List Host.Cell
  tags : List Nat
  handles : List BenchHandle
  map : Option (Nat × DWord)
  arrived : List (Nat × DWord × List Byte)
  groups : List Nat
  cores : List Nat
  ended : Bool
  base : Nat := 0
  deriving DecidableEq, Repr

/-- Where a gang is (R43, R416). -/
inductive GangPlaceState where
  | unplaced
  | resident
  | swapped
  | ended
  deriving DecidableEq, Repr

/-- A gang (R15, R369, R370): its teams, its cores, when it became resident, and where its records were written (address and bytes), those of its groups first. -/
structure Gang where
  launch : Nat
  k : Nat
  teams : List Nat
  cores : List Nat
  st : GangPlaceState
  since : Nat
  records : List (Nat × Nat)
  deriving DecidableEq, Repr

/-- A launch record (R404). -/
structure LaunchRec where
  kernel : Nat
  bounded : Bool
  prio : Nat
  graph : Bool
  teams : Nat
  deadline : Nat
  workbound : Nat
  tmax : Nat
  params : Nat
  compl : Nat
  tag : Nat
  deriving DecidableEq, Repr

/-- A kernel of a loaded image (R122, R124, R370). -/
structure Kernel where
  image : Nat
  width : Nat
  regs : Nat
  groups : Nat
  pair : Bool
  gang : Nat
  ordered : Bool
  recipe : Bool
  scratch : Nat
  params : Nat
  entry : DWord
  pload : Option Nat
  pstore : Option Nat
  alloc : Nat
  accumulator : Bool
  callees : List (DWord × Nat)
  deriving DecidableEq, Repr

/-- Where a launch came from (R404 to R408, R391). -/
inductive Origin where
  | host
  | device (team : Nat)
  | node (replay index : Nat)
  | invoked (claim : DWord) (block : Nat) (retAddr : DWord) (retLen : Nat) (lifetime : Nat)
  | recompute (tile : Nat) (charged : Option Nat)
  deriving DecidableEq, Repr

/-- Where a launch is in its life (R408 to R416, R425). -/
inductive LaunchState where
  | queued
  | admitted
  | refused
  | killed
  | complete
  deriving DecidableEq, Repr

/-- A launch (R45, R404, R424): nextGang is the number of its gangs placed so far, weight what it was given for its teams together (R417), extra what came to its first team before that was bound (R159), pairs its reservation once accepted (R412), after the group and the number of the release that its teams start behind (R327, R344). -/
structure Launch where
  record : LaunchRec
  kern : Kernel
  asid : Nat
  die : Nat
  origin : Origin
  st : LaunchState
  entry : Option Nat
  order : Nat
  tadmit : Nat
  charge : Nat
  weight : Nat
  root : Option RootAddr
  nextGang : Nat
  teamsEnded : Nat
  cause : Option Cause
  depth : Nat
  pairs : Option (List Nat)
  extra : Nat
  after : Option (Nat × Nat) := none
  deriving DecidableEq, Repr

/-! ## Memory -/

/-- A mapped page (R384, R385). -/
structure Page where
  asid : Nat
  la : Nat
  size : Nat
  pa : Nat
  attr : Word
  deriving DecidableEq, Repr

/-- A tile's state (R388). -/
inductive TileState where
  | valid | dropped | building
  deriving DecidableEq, Repr

/-- An entry of the Recipe Table (R388): the record of R252 if it has one, the state word's fields, the launch of the build in progress, a build that waits for an entry (its depth, the launch charged, the die), and the cause with which its chain is to end. -/
structure Tile where
  record : Option (List Byte)
  pins : Nat
  bdepth : Nat
  st : TileState
  builds : Nat
  build : Option Nat
  wants : List (Nat × Option Nat × Nat)
  ending : Option Cause
  deriving DecidableEq, Repr

/-- A store that waits in a core's store queue (R225, R322): its number in issue order and that of its instruction's first lane, its lane, its issuer, its place and bytes, the tile it met if it met one, the epoch of its translation (R339), and whether with it the lanes of its instruction have written the whole of a line (R400). -/
structure PendingStore where
  id : Nat
  inst : Nat := 0
  lane : Nat := 0
  core : Nat
  gid : Nat
  launch : Nat
  ea : DWord
  loc : Loc
  priv : Bool
  word : Word
  tile : Option Nat
  bytes : List Byte
  epoch : Nat
  fills : Bool := false
  deriving DecidableEq, Repr

/-- The memories and their tables. checks lists the lines whose stored check value differs from that of their bytes, each with the XOR of the two (R382, R399, R400); badWords the scratchpad words with an uncorrectable error, by team and word; l1bad the dirty PRIVATE lines of an L1 with one, by core and line (R403). -/
structure Memory where
  hbm : List Host.Cell
  checks : List (Nat × BitVec 16)
  badWords : List (Nat × Nat)
  l1bad : List (Nat × Nat)
  pages : List Page
  l1dirty : List (Nat × List Host.Cell)
  storeQ : List PendingStore
  tiles : List (Nat × Tile)
  deriving DecidableEq, Repr

/-! ## Device state -/

/-- A sweep (R172, R286, R396): its start datum, whether it has begun its walk, the 64 KiB pieces of pages that are left to walk, by address space and local address, the next element of the first of them, and the epoch under which it reads the decay table (R340). -/
structure Sweep where
  start : Nat
  walking : Bool
  pieces : List (Nat × Nat)
  at_ : Nat
  epoch : Nat
  deriving DecidableEq, Repr

/-- An address-space identifier (R355, R384). -/
structure Asid where
  id : Nat
  trapvec : DWord
  deriving DecidableEq, Repr

/-- A change whose dependent action waits (R340); a loaded image keeps the bytes that it replaced, by physical address, and a switch of the decay table keeps the entries of the old one, none for an entry on a failing line. -/
inductive ChangeKind where
  | unmap (asid la len : Nat) | attrs (asid la len : Nat) | migrate (asid la : Nat) (old new : Nat) | image (old : List (Nat × List Byte)) | decay (old : List (Option Word))
  deriving DecidableEq, Repr

/-- A change in progress: its epoch, its kind, the pages of the range as they stood before it, and the HCP reply that waits on it, by session and request number (R340, R466). -/
structure Change where
  epoch : Nat
  kind : ChangeKind
  old : List Page
  reply : Option (Nat × Nat × List Byte)
  deriving DecidableEq, Repr

/-- A table or image being received in chunks (R53, R467). -/
structure Staging where
  asid : Nat
  base : Nat
  data : List Byte
  deriving DecidableEq, Repr

/-- Device-scope state (R52, R53, R169, R339 to R341): quarantine holds each freed range with its epoch, as its frames and their sizes. -/
structure Device where
  datum : Vector DWord 16
  sweepBase : Vector DWord 16
  spanning : BitVec 16
  sweeps : List (Nat × Sweep)
  sweepBad : BitVec 16
  decayBase : Nat
  decayStage : Option Staging
  qepoch : Nat
  qdone : Nat
  changes : List Change
  quarantine : List (Nat × List (Nat × Nat))
  asids : List Asid
  deriving DecidableEq, Repr

/-! ## Engines -/

/-- The engine commands that take a reservation-table entry (R258). -/
inductive EngineKind where
  | mmLdw | mmSwapw | mmRun | mmSwapacc | mmAccrd | mmAccwr | mmDrain | mmRegrow
  | bsAsm | bsLu | bsLdl | bsTrsv | bsPgs | bsBack
  | srtKeys | srtPairs | trvBuild | trvQuery
  | phaseRegroup | phaseRestore | collPost
  deriving DecidableEq, Repr

/-- How an item of a command ended (R276, R288). -/
structure ItemResult where
  item : Nat
  code : EngStatus
  faddr : DWord
  flags : BitVec 6
  detail : Nat
  deriving DecidableEq, Repr

/-- The gate of a collective's post (R316): open, waiting for its claim (with the tag of a status request to the claim's home), or broken with a cause code. -/
inductive GateState where
  | ready
  | waiting (tag : Option Nat)
  | broken (cause : Nat)
  deriving DecidableEq, Repr

/-- A posted command (R260, R261, R265): who posted it, its block as it stood at issue, its token, its items not yet taken, the results of those done, the cycle before which it does not complete, whether it has begun, the datums it read then (R282), what it has still to push and what it has popped (R303), its gate, the tile it waits for, the tile whose build has failed, the device and request whose arrival at a bucket posted it (R318), the lane that posted it (R320), and the core whose accumulator store it acts on, or the saved store of its swapped gang (R265, R370). -/
structure Cmd where
  kind : EngineKind
  gid : Nat
  team : Nat
  launch : Nat
  core : Nat
  token : Option Token
  blockEa : DWord
  block : List Byte
  asid : Nat
  cert : Bool
  order : Nat
  posted : Nat
  items : List Nat
  results : List ItemResult
  dueAt : Nat
  started : Bool
  datums : List (Nat × Nat)
  outbuf : List Word
  inbuf : List Word
  gate : GateState
  tile : Option Nat
  tileFail : Option (Nat × EngStatus)
  epoch : Nat
  asker : Option (Nat × Nat) := none
  lane : Option Nat := none
  bank : Nat := core
  deriving DecidableEq, Repr

/-- An accumulator bank (R18, R277, R380). -/
structure AccBank where
  elems : Vector Word 1024
  flags : BitVec 6
  deriving DecidableEq, Repr

/-- A cluster's benches (R428): the deal pointer, each bench's share of dealt items, and the cycle at which each becomes free. -/
structure Cluster where
  dealPtr : Nat
  shares : List (Nat × List (Nat × Nat))
  busy : List (Nat × Nat)
  deriving DecidableEq, Repr

/-- What a copy is (R231 to R238, R438). -/
inductive CopyKind where
  | batch (n : Option Nat)
  | rows (mask : Word)
  | mcast (ordered : Bool) (mask : Word)
  | porter (core : Nat) (role : Role)
  deriving DecidableEq, Repr

/-- A copy, gather or multicast in flight (R231 to R238): who issued it, its kind and token, its source and destinations, its size, pitches and descriptor, how far it has come (0 issued, 1 other devices asked, 2 its writes to other devices sent), the tags it awaits with the answers that have come, how it failed, the tile it waits for, when it was issued, and for a multicast the tiles whose builds have failed and the destinations written here (R237). -/
structure Copy where
  kind : CopyKind
  gid : Nat
  team : Nat
  launch : Nat
  asid : Nat
  lane : Nat
  order : Nat
  token : Option Token
  word : Word
  src : DWord
  dsts : List DWord
  len : Nat
  spitch : Nat
  dpitch : Nat
  desc : DWord
  phase : Nat
  awaiting : List Nat
  answers : List (Nat × Answer)
  failed : Option (Cause × DWord)
  tile : Option Nat
  epoch : Nat
  posted : Nat := 0
  lost : List Nat := []
  ok : List Nat := []
  deriving DecidableEq, Repr

/-- Entries of a push round that is not complete (R244). -/
structure HeldPush where
  team : Nat
  group : Nat
  queue : QueueRef
  round : Nat
  vals : List Word
  epoch : Nat
  deriving DecidableEq, Repr

/-- A participant's post of a collective as this device knows it (R311, R312, R316): its fields, and its gate once settled: 0 open, or the cause that broke it, with the claim. -/
structure CollPost where
  device : Nat
  number : Nat
  fields : List Byte
  gate : Option Nat
  claim : DWord
  deriving DecidableEq, Repr

/-- A collective outstanding on this device (R312 to R317, R461): the command that posted it here, the posts known, whether data moves, the status that ends it early, the checks of a DATUM by participant, the partial results by level and index, the result with its flags, and the gates settled whose posts have not come (device, number of the post, cause, claim). -/
structure Collective where
  cmd : Option Nat
  posts : List CollPost
  started : Bool
  bad : Option Nat
  verdicts : List (Nat × Nat)
  parts : List (Nat × Nat × Nat × List Byte)
  result : Option (Nat × List Byte)
  gates : List (Nat × Nat × Nat × DWord)
  deriving DecidableEq, Repr

/-- What a staged access of a certified kernel does (R342). -/
inductive StagedOp where
  | write (st : PendingStore)
  | remote (device : Nat) (m : WrReq)
  | atom (sb : Nat)
  | send (device : Nat) (target : Option DWord) (m : InvokeMsg)
  deriving DecidableEq, Repr

/-- A staged access: its number in group order, the participant, its segment, the batch (none while open) or token whose wait is to give a copy's write its segment, the die whose staging region holds it, and the access (R342, R343). -/
structure Staged where
  order : Nat
  die : Nat := 0
  launch : Nat
  gid : Nat
  participant : Nat
  segment : Nat
  closed : Bool
  awaits : Option (Option Nat × Option Token)
  op : StagedOp
  deriving DecidableEq, Repr

/-- The effect of a release of a certified kernel once what it releases is performed (R327, R337, R344): an arrival at a barrier, the puts of a cbuf.put (lane, window, descriptor, producer end), the arrivals of a bucket.arrive (here; then those of other devices by device and local address). -/
inductive LateAct where
  | arrive (team off : Nat)
  | put (d : Reg) (n : Nat) (ends : List (Nat × Nat × Nat × Bool))
  | bucket (d : Reg) (here : List (Nat × Loc × Word × Option Nat)) (far : List (Nat × Nat × Nat))
  deriving DecidableEq, Repr

/-- A release that waits for the staged accesses of a group that precede it: the group, the scoreboard entry of its results, the number before which they were staged, the epoch of its checks (R339), and its effect. -/
structure Late where
  gid : Nat
  entry : Nat
  before : Nat
  epoch : Nat
  act : LateAct
  deriving DecidableEq, Repr

/-- A certified grid's place in round order (R344): the next segment is segment round of the participant at the given offset. -/
structure Rounds where
  participants : Nat
  round : Nat
  offset : Nat
  deriving DecidableEq, Repr

/-- The engines and the units beside them; badAcc lists the accumulator elements with an uncorrectable error, by bank and element (R403). -/
structure Engines where
  acc : List (Nat × AccBank)
  badAcc : List (Nat × Nat)
  accUsers : List (Nat × Nat)
  cmds : List (Nat × Cmd)
  clusters : List (Nat × Cluster)
  solvers : List (Nat × Nat)
  sorters : List (Nat × Nat)
  copies : List (Nat × Copy)
  pushes : List HeldPush
  colls : List (DWord × Collective)
  withdrawn : List DWord
  staged : List Staged
  lates : List Late
  rounds : List (Nat × Rounds)
  cbufq : List (DWord × Nat × Nat)
  deriving DecidableEq, Repr

/-! ## Scheduling -/

/-- A reservation of the calendar (R411). -/
structure Reservation where
  launch : Nat
  pairs : List Nat
  start : Nat
  stop : Nat
  deriving DecidableEq, Repr

/-- A graph replay accepted (R150, R422, R423): nodes are those started (index, launch), doneOk, failed (index, KIND, CAUSE) and never their ends, table the node entries as read at its start, after the group and the number of the release that it starts behind (R327, R344). -/
structure Replay where
  asid : Nat
  die : Nat
  graph : Nat
  buffer : Option Nat
  order : Nat
  started : Bool
  nodes : List (Nat × Nat)
  doneOk : List Nat
  failed : List (Nat × Nat × Nat)
  never : List Nat
  weight : Nat
  root : Option RootAddr
  team : Nat
  nnode : Nat
  table : List Byte
  after : Option (Nat × Nat) := none
  deriving DecidableEq, Repr

/-- A loaded image (R121, R407, R120). -/
structure Image where
  asid : Nat
  base : Nat
  textLen : Nat
  pload : List Byte
  pstore : List Byte
  handles : List Nat
  deriving DecidableEq, Repr

/-- Scheduling state. -/
structure Sched where
  resv : List Reservation
  invq : List InvokeMsg
  replays : List (Nat × Replay)
  ctxmem : List (Nat × Nat)
  images : List (Nat × Image)
  kernels : List (Nat × Kernel)
  nextHandle : Nat
  imageStage : Option Staging
  nextId : Nat
  nextOrder : Nat
  parks : Nat
  deriving DecidableEq, Repr

/-! ## Fabric -/

/-- A claim slot's state (R456). -/
inductive ClaimState where
  | free | pending | resolved | broken
  deriving DecidableEq, Repr

/-- A slot of the Claim Resolution Table (R456), with the messages queued on it in order (R458), the device that its invocation was sent to, and whether its launch has started there (R159, R473). -/
structure ClaimSlot where
  st : ClaimState
  gen : Nat
  locDev : Nat
  cause : Nat
  loc : Nat
  expiry : Nat
  execDev : Nat
  started : Bool
  queue : List ClaimBody
  deriving DecidableEq, Repr

/-- Who waits for the answer to a remote request (R453, R455); posted counts the collectives, posted by an answered arrival at a bucket there, that have not ended (R318). -/
inductive ReqOwner where
  | group (gid : Nat)
  | copy (id : Nat)
  | store (launch : Nat)
  | signal (launch : Nat)
  | grant (gid : Nat) (root : RootAddr)
  | bucket (gid acks : Nat)
  | posted (left : Nat)
  | command (id : Nat)
  | none
  deriving DecidableEq, Repr

/-- An outstanding remote request (R455). -/
structure Req where
  device : Nat
  sentAt : Nat
  launch : Nat
  owner : ReqOwner
  deriving DecidableEq, Repr

/-- A link (R448, R449): the next number it sends, the unacknowledged flits it may resend, the number it expects, how many replays of the oldest of them have failed in a row, whether it is up, the TIMEBASE at which a flit last passed its CRC, and how many of the oldest flits have been resent. -/
structure Link where
  nextSeq : Nat
  replay : List (FlitHdr × FlitMsg)
  expect : Nat
  replays : Nat
  up : Bool
  heard : Nat := 0
  resent : Nat := 0
  deriving DecidableEq, Repr

/-- The receive order of one source and channel: the next number to deliver, and the flits held early (R451); of VC 3, whose flits are delivered on arrival, those beyond that number that have been delivered (R449). -/
structure EndSeq where
  src : Nat
  vc : Nat
  expect : Nat
  early : List (FlitHdr × FlitMsg)
  deriving DecidableEq, Repr

/-- Fabric state. -/
structure Fabric where
  devNum : Nat
  incarnation : Nat
  claims : List (Nat × ClaimSlot)
  queued : Nat
  reqs : List (Nat × Req)
  nextTag : Nat
  routes : List (Nat × List Nat)
  lost : List Nat
  links : List (Nat × Link)
  ends : List EndSeq
  sendSeq : List (Nat × Nat × Nat)
  held : List (FlitHdr × FlitMsg)
  deriving DecidableEq, Repr

/-! ## What leaves the device -/

/-- A packet issued in this cycle (R29, R49): its core and group, whether it used the halves and the uniform pipe, and its launch. -/
structure IssuedPacket where
  core : Nat
  gid : Nat
  halves : Bool
  uniform : Bool
  launch : Nat
  deriving DecidableEq, Repr

/-- What the device sends to the outside. -/
inductive Out where
  /-- A flit to a device by a port (R447, R452), with its link number. -/
  | flit (h : FlitHdr) (msg : FlitMsg)
  /-- A NACK naming the number expected (R448). -/
  | nack (port lseq : Nat)
  /-- An idle flit of a link, which acknowledges what has come (R448). -/
  | idle (port lseq lack : Nat)
  /-- An HCP reply: session, request number, type, status and payload (R464, R468). -/
  | reply (session seq : Nat) (type status : Nat) (payload : List Byte)
  /-- An HCP event: session, count, type and payload (R469). -/
  | event (session count type : Nat) (payload : List Byte)
  /-- A sideband reply (R479). -/
  | sideband (status : Nat) (payload : List Byte)
  /-- A RoCEv2 acknowledgement, data, or refusal (R329, R463). -/
  | roceAck | roceData (data : List Byte) | roceAccessError | roceInvalid
  /-- An immediate value delivered to the host-facing queue (R463). -/
  | roceImm (imm : Word)
  /-- A congestion notification packet on a queue pair (R463). -/
  | cnp (qp : Nat)
  deriving DecidableEq, Repr

/-- What comes to the device's ports as it stands on them: a flit at a Caravan port (R447); a UDP datagram by its source address and destination port (R464); an operation of a RoCEv2 queue pair, and whether it was marked for congestion on its way (R463); a private write and a private read of the sideband (R479). -/
inductive Frame where
  | flit (port : Nat) (bytes : List Byte)
  | udp (source port : Nat) (bytes : List Byte)
  | roce (qp : Nat) (marked : Bool) (op : Instr)
  | sidebandWrite (bytes : List Byte)
  | sidebandRead
  deriving DecidableEq, Repr

/-- What has left the device's ports: a flit; a UDP datagram to a host address, and for an event to its port; a RoCEv2 packet and its ECN mark (R463); a sideband reply; the refusal of a sideband write or read (R479). -/
inductive Sent where
  | flit (port : Nat) (bytes : List Byte)
  | udp (dest : Nat) (port : Option Nat) (bytes : List Byte)
  | roce (marked : Bool) (o : Out)
  | sideband (bytes : List Byte)
  | sidebandNack
  deriving DecidableEq, Repr

/-! ## Host port and system -/

/-- An HCP session (R465, R466, R469): replies holds the last 256 by request number, each as TYPE, STATUS in two bytes, and payload; lastSeq is the number below which no request is taken. -/
structure Session where
  data : SessionData
  replies : List (Nat × List Byte)
  lastSeq : Nat
  evNext : Nat
  events : List (Nat × List Byte)
  lastResend : Nat
  deriving DecidableEq, Repr

/-- A RoCEv2 memory region (R463). -/
structure Region where
  rkey : Nat
  asid : Nat
  la : Nat
  len : Nat
  deriving DecidableEq, Repr

/-- The boot states of R480. -/
inductive BootState where
  | held | verifying | running | failed
  deriving DecidableEq, Repr

/-- Boot state (R470, R471, R477, R480); keys holds the private halves of the two key pairs, once the first boot has derived them. -/
structure Boot where
  st : BootState
  hold : Bool
  resetLow : Bool
  verified : Bool
  staged : Option (List Byte)
  stage : Option Staging
  firmware : List Byte
  version : Nat
  minVersion : Nat
  keys : Option (List Byte × List Byte) := none
  deriving DecidableEq, Repr

/-- Telemetry counts (R402, R450, R480). -/
structure Telemetry where
  corrected : Nat
  uncorrectable : Nat
  badFlits : Nat
  deriving DecidableEq, Repr

/-- The host port, the sideband and the boot logic; roceHeld is what waits while the RoCEv2 priority is paused (R462), qps the queue pairs in use (R463), sbReq the sideband request in progress and sbReply the reply that waits to be read (R479). -/
structure HostPort where
  sessions : List (Nat × Session)
  regions : List Region
  rateHalvings : Nat
  paused : Bool
  roceHeld : List Out
  ethUp : Bool
  ip : Option (Nat × Nat × Nat)
  boot : Boot
  tele : Telemetry
  sbAddr : Nat
  sbEvents : List (List Byte)
  qps : List Nat := []
  sbReq : Option (List Byte) := none
  sbReply : Option (List Byte) := none
  deriving DecidableEq, Repr

/-! ## Porters -/

/-- A porter's posted command (R437, R438): its fields at the GO, the next row, and the copy that moves that row. -/
structure PorterCmd where
  src : DWord
  dst : DWord
  rowb : Nat
  nrow : Nat
  spitch : Nat
  dpitch : Nat
  cbend : Word
  cbn : Nat
  row : Nat
  copy : Option Nat
  deriving DecidableEq, Repr

/-- Whether a porter runs (R442 to R444). -/
inductive PorterMode where
  | halted | running | stopped
  deriving DecidableEq, Repr

/-- A porter (R434 to R444): its gang, the rank of its core among the gang's cores, and that core; win holds the RW fields of the command window, cbWait says that a CBGET waits, resv is the reservation of an LR (the window's team, none for the data store; the offset; the porter cycle), readyAt the arithmetic cycle before which no instruction begins (R441), and mcycle the difference of the CSR to the count of porter cycles while the porter runs, the CSR itself while it is stopped. -/
structure Porter where
  gang : Nat
  rank : Nat
  role : Role
  core : Nat
  mode : PorterMode
  x : Vector Word 32
  pc : Word
  mstatus : Word
  mtvec : Word
  mepc : Word
  mcause : Word
  mtval : Word
  mscratch : Word
  mcycle : Nat
  minstret : Nat
  inHandler : Bool
  imem : List Byte
  dmem : List Host.Cell
  win : List (Nat × Word)
  posted : Nat
  done : Nat
  flt : Bool
  fcode : Nat
  faddr : DWord
  queue : List PorterCmd
  resv : Option (Option Nat × Nat × Nat)
  cbWait : Bool
  readyAt : Nat
  deriving DecidableEq, Repr

/-! ## The machine -/

/-- The state of the machine. The model's own fields are tick (what free values are applied to), lateStores (whether the stores that issue now are performed later: a free value that each step draws for the next), packet (the packet being issued), issued (the packets issued in this cycle), loop (flits accepted from a link in order, or addressed to the device itself, not yet acted on), inbox (what has arrived from outside and is not yet acted on), outbox (what is to leave), wire (what has come to the ports and is not yet taken in) and sent (what has left them). -/
structure State where
  cycle : Nat
  tick : Nat
  lateStores : Bool
  packet : Option Packet
  groups : List (Nat × Group)
  teams : List (Nat × Team)
  gangs : List (Nat × Gang)
  launches : List (Nat × Launch)
  mem : Memory
  dev : Device
  eng : Engines
  sched : Sched
  fab : Fabric
  host : HostPort
  porters : List (Nat × Porter)
  issued : List IssuedPacket
  loop : List (FlitHdr × FlitMsg)
  inbox : List Instr
  outbox : List Out
  wire : List Frame
  sent : List Sent
  deriving DecidableEq, Repr

/-- The machine right after power-on reset (R52 and the log entries that INVENTORY.md names for the values the spec does not give). (DESIGN CHOICE: log entries 2, 3, 6, 8, 109.) -/
def State.reset : State where
  cycle := 0
  tick := 0
  lateStores := false
  packet := none
  groups := []
  teams := []
  gangs := []
  launches := []
  mem := { hbm := [], checks := [], badWords := [], l1bad := [], pages := [], l1dirty := [], storeQ := [], tiles := [] }
  dev := { datum := Vector.replicate 16 0, sweepBase := Vector.replicate 16 0, spanning := 0, sweeps := [], sweepBad := 0, decayBase := 0, decayStage := none, qepoch := 0, qdone := 0, changes := [], quarantine := [], asids := [] }
  eng := { acc := [], badAcc := [], accUsers := [], cmds := [], clusters := [], solvers := [], sorters := [], copies := [], pushes := [], colls := [], withdrawn := [], staged := [], lates := [], rounds := [], cbufq := [] }
  sched := { resv := [], invq := [], replays := [], ctxmem := [], images := [], kernels := [], nextHandle := 1, imageStage := none, nextId := 1, nextOrder := 0, parks := 0 }
  fab := { devNum := 0, incarnation := 0, claims := [], queued := 0, reqs := [], nextTag := 0, routes := [], lost := [], links := [], ends := [], sendSeq := [], held := [] }
  host := { sessions := [], regions := [], rateHalvings := 0, paused := false, roceHeld := [], ethUp := false, ip := none, boot := { st := .verifying, hold := false, resetLow := false, verified := false, staged := none, stage := none, firmware := [], version := 0, minVersion := 0 }, tele := { corrected := 0, uncorrectable := 0, badFlits := 0 }, sbAddr := 0x2C, sbEvents := [] }
  porters := []
  issued := []
  loop := []
  inbox := []
  outbox := []
  wire := []
  sent := []

end Sys2Proof.Machine
end

