-- ==== Sys2Proof/Machine/Float.lean ====
section
/-! DEFINITION. Number formats and exact arithmetic (R54 to R86): values are exact dyadic numbers, every operation computes exactly and rounds once, and the flags come from comparing the delivered result with the exact one. -/
namespace Sys2Proof.Machine

/-- The parameters of a floating-point format (R56): exponent bits, fraction bits, bias, whether it lacks infinities (R57), whether its NaNs have a quiet bit (R57). -/
structure FFmt where
  ebits : Nat
  tbits : Nat
  bias : Nat
  noInf : Bool
  quietBit : Bool
  deriving DecidableEq, Repr

def FFmt.fp64 : FFmt := { ebits := 11, tbits := 52, bias := 1023, noInf := false, quietBit := true }
def FFmt.fp32 : FFmt := { ebits := 8, tbits := 23, bias := 127, noInf := false, quietBit := true }
def FFmt.fp16 : FFmt := { ebits := 5, tbits := 10, bias := 15, noInf := false, quietBit := true }
def FFmt.bf16 : FFmt := { ebits := 8, tbits := 7, bias := 127, noInf := false, quietBit := true }
def FFmt.e5m2 : FFmt := { ebits := 5, tbits := 2, bias := 15, noInf := false, quietBit := false }
def FFmt.e4m3 : FFmt := { ebits := 4, tbits := 3, bias := 7, noInf := true, quietBit := false }

/-- Width of a format in bits. -/
def FFmt.width (f : FFmt) : Nat := 1 + f.ebits + f.tbits
/-- The all-ones exponent. -/
def FFmt.emax (f : FFmt) : Nat := 2 ^ f.ebits - 1
/-- Exponent of the smallest normal number. -/
def FFmt.emin (f : FFmt) : Int := 1 - (f.bias : Int)
/-- Exponent of the smallest subnormal number. -/
def FFmt.qmin (f : FFmt) : Int := f.emin - (f.tbits : Int)
/-- Bits of the largest finite magnitude (R56, R57). -/
def FFmt.maxBits (f : FFmt) : Nat := if f.noInf then f.emax * 2 ^ f.tbits + (2 ^ f.tbits - 2) else f.emax * 2 ^ f.tbits - 1
/-- Bits of +infinity, in the formats that have it. -/
def FFmt.infBits (f : FFmt) : Nat := f.emax * 2 ^ f.tbits
/-- Bits of the canonical NaN (R62). -/
def FFmt.nanBits (f : FFmt) : Nat := if f.noInf then f.emax * 2 ^ f.tbits + (2 ^ f.tbits - 1) else f.emax * 2 ^ f.tbits + 2 ^ (f.tbits - 1)
/-- The sign bit. -/
def FFmt.signBit (f : FFmt) : Nat := 2 ^ (f.ebits + f.tbits)

/-- A value: a NaN, an infinity, or a signed dyadic number m * 2^e. -/
inductive FVal where
  | nan (signalling : Bool)
  | inf (neg : Bool)
  | fin (neg : Bool) (m : Nat) (e : Int)
  deriving DecidableEq, Repr

/-- The sticky flags by their bits in FPFLAGS (R24). -/
abbrev Flags := BitVec 6
def Flags.nv : Flags := 1
def Flags.dz : Flags := 2
def Flags.ofl : Flags := 4
def Flags.uf : Flags := 8
def Flags.nx : Flags := 16
def Flags.af : Flags := 32

/-- A result: its bits in the format, and the flags raised. -/
structure FRes where
  bits : Nat
  flags : Flags
  deriving DecidableEq, Repr

/-- The value of a format's bits (R56, R57). -/
def FFmt.value (f : FFmt) (b : Nat) : FVal :=
  let neg := b / f.signBit % 2 == 1
  let e := b / 2 ^ f.tbits % 2 ^ f.ebits
  let t := b % 2 ^ f.tbits
  if e == f.emax && (if f.noInf then t == 2 ^ f.tbits - 1 else true) then
    if t == 0 then .inf neg else .nan (f.quietBit && t / 2 ^ (f.tbits - 1) % 2 == 0)
  else if e == 0 then .fin neg t f.qmin
  else .fin neg (2 ^ f.tbits + t) ((e : Int) - f.bias - f.tbits)

/-- Is the value a NaN? -/
def FVal.isNan : FVal → Bool
  | .nan _ => true
  | .inf _ => false
  | .fin _ _ _ => false
/-- Is the value a signalling NaN? -/
def FVal.isSnan : FVal → Bool
  | .nan s => s
  | .inf _ => false
  | .fin _ _ _ => false
/-- Is the value an infinity? -/
def FVal.isInf : FVal → Bool
  | .inf _ => true
  | .nan _ => false
  | .fin _ _ _ => false
/-- Is the value a zero? -/
def FVal.isZero : FVal → Bool
  | .fin _ m _ => m == 0
  | .nan _ => false
  | .inf _ => false
/-- The sign of a value; a NaN counts as positive. -/
def FVal.neg : FVal → Bool
  | .fin n _ _ => n
  | .inf n => n
  | .nan _ => false
/-- The value with its sign turned. -/
def FVal.negate : FVal → FVal
  | .fin n m e => .fin (!n) m e
  | .inf n => .inf (!n)
  | .nan s => .nan s
/-- The magnitude of a value. -/
def FVal.abs : FVal → FVal
  | .fin _ m e => .fin false m e
  | .inf _ => .inf false
  | .nan s => .nan s

/-- Number of bits of a natural number. -/
def bitLen (n : Nat) : Nat := if n = 0 then 0 else n.log2 + 1

/-- m * 2^(e - q) rounded to an integer: the truncated integer, and whether the discarded part was zero, below, at or above one half (0, 1, 2, 3). The value is a little above m * 2^e when sticky. -/
def shiftRound (m : Nat) (e q : Int) (sticky : Bool) : Nat × Nat :=
  if q ≤ e then (m * 2 ^ (e - q).toNat, if sticky then 1 else 0)
  else
    let k := (q - e).toNat
    let n := m / 2 ^ k
    let r := m % 2 ^ k
    let half := 2 ^ (k - 1)
    (n, if r == 0 then (if sticky then 1 else 0) else if r < half then 1 else if r == half then (if sticky then 3 else 2) else 3)

/-- Does the mode step away from zero, given the sign, the parity of the truncated integer and the discarded part (R58)? -/
def roundsAway (mode : Rounding) (neg odd : Bool) (part : Nat) : Bool :=
  match mode with
  | .nearestEven => part == 3 || (part == 2 && odd)
  | .towardZero => false
  | .down => neg && part != 0
  | .up => !neg && part != 0

/-- An integer rounding of m * 2^(e - q) under a mode, and whether it was inexact. -/
def roundTo (mode : Rounding) (neg : Bool) (m : Nat) (e q : Int) (sticky : Bool) : Nat × Bool :=
  let (n, part) := shiftRound m e q sticky
  (if roundsAway mode neg (n % 2 == 1) part then n + 1 else n, part != 0)

/-- How a result that overflows and the inputs and results below the normal range are treated: the saturating form of R66 and the flushing of R61. -/
structure RMode where
  mode : Rounding
  ftz : Bool
  sat : Bool
  deriving DecidableEq, Repr

/-- Nearest-even, keeping subnormals: the mode of the engines (R59, R61). -/
def RMode.engine : RMode := { mode := .nearestEven, ftz := false, sat := false }

/-- Bits with a sign. -/
def FFmt.withSign (f : FFmt) (neg : Bool) (b : Nat) : Nat := if neg then f.signBit + b else b

/-- A signed zero. -/
def FFmt.zero (f : FFmt) (neg : Bool) : FRes := { bits := f.withSign neg 0, flags := 0 }

/-- The canonical NaN (R62), with NV when the operation is invalid. -/
def FFmt.nan (f : FFmt) (invalid : Bool) : FRes := { bits := f.nanBits, flags := if invalid then Flags.nv else 0 }

/-- What an overflow delivers (R58, R66): infinity or the largest finite number by the mode; the canonical NaN in place of infinity in E4M3; the largest finite number in a saturating form. -/
def FFmt.overflow (f : FFmt) (r : RMode) (neg : Bool) : FRes :=
  let toInf := match r.mode with
    | .nearestEven => true
    | .towardZero => false
    | .down => neg
    | .up => !neg
  let bits := if r.sat || !toInf then f.withSign neg f.maxBits
    else if f.noInf then f.nanBits else f.withSign neg f.infBits
  { bits := bits, flags := Flags.ofl ||| Flags.nx }

/-- Bits of n * 2^q, a number of the format with n below 2^(t+1) + 1. -/
def FFmt.encode (f : FFmt) (n : Nat) (q : Int) : Nat :=
  let (n, q) := if n ≥ 2 ^ (f.tbits + 1) then (n / 2, q + 1) else (n, q)
  if n < 2 ^ f.tbits then n
  else (q + f.tbits + f.bias).toNat * 2 ^ f.tbits + (n - 2 ^ f.tbits)

/-- RNfmt of the nonzero finite value (-1)^neg * m * 2^e, or a little more in magnitude when sticky (R58, R60, R61, R81). -/
def FFmt.roundFin (f : FFmt) (r : RMode) (neg : Bool) (m : Nat) (e : Int) (sticky : Bool) : FRes :=
  let top : Int := e + (bitLen m : Int) - 1
  let q1 := top - f.tbits
  let q := max q1 f.qmin
  let (n, inexact) := roundTo r.mode neg m e q sticky
  let (n1, _) := roundTo r.mode neg m e q1 sticky
  -- tiny: the rounding with an unbounded exponent lies below the smallest normal number
  let tiny := q1 < f.qmin && (if n1 ≥ 2 ^ (f.tbits + 1) then q1 + 1 else q1) < f.qmin
  let b := f.encode n q
  if b > f.maxBits then f.overflow r neg
  else if n == 0 then
    if inexact then { bits := f.withSign neg 0, flags := Flags.uf ||| Flags.nx } else f.zero neg
  else if r.ftz && n < 2 ^ f.tbits then { bits := f.withSign neg 0, flags := Flags.uf ||| Flags.nx }
  else { bits := f.withSign neg b, flags := (if inexact then Flags.nx else 0) ||| (if tiny && inexact then Flags.uf else 0) }

/-- RNfmt of a value; an invalid operation comes as the NaN with NV. -/
def FFmt.round (f : FFmt) (r : RMode) (v : FVal) : FRes :=
  match v with
  | .nan s => f.nan s
  | .inf neg =>
      if f.noInf then (if r.sat then { bits := f.withSign neg f.maxBits, flags := Flags.nx } else f.nan true)
      else if r.sat && !f.quietBit then { bits := f.withSign neg f.maxBits, flags := Flags.nx }
      else { bits := f.withSign neg f.infBits, flags := 0 }
  | .fin neg 0 _ => f.zero neg
  | .fin neg m e => f.roundFin r neg m e false

/-- The input of a lane operation: flushed to zero of its sign when FTZ is set and it is subnormal (R61). -/
def FFmt.input (f : FFmt) (ftz : Bool) (b : Nat) : FVal :=
  match f.value b with
  | .fin neg m e => if ftz && m < 2 ^ f.tbits then .fin neg 0 e else .fin neg m e
  | .nan s => .nan s
  | .inf n => .inf n

/-! ## Exact products and sums -/

/-- An exact product; a product of zero and infinity is none: invalid (R81). -/
def FVal.mul (a b : FVal) : Option FVal :=
  match a, b with
  | .nan s, .nan t => some (.nan (s || t))
  | .nan s, .inf _ => some (.nan s)
  | .nan s, .fin _ _ _ => some (.nan s)
  | .inf _, .nan t => some (.nan t)
  | .fin _ _ _, .nan t => some (.nan t)
  | .inf n, .inf k => some (.inf (n != k))
  | .inf n, .fin k m _ => if m == 0 then none else some (.inf (n != k))
  | .fin n m _, .inf k => if m == 0 then none else some (.inf (n != k))
  | .fin n m e, .fin k l g => some (.fin (n != k) (m * l) (e + g))

/-- A term of an exact sum: a value, or an invalid product. -/
abbrev Term := Option FVal

/-- What an exact sum comes to: invalid (NaN and NV), a quiet NaN, an infinity, or an exact number n * 2^e with the sign a zero takes. -/
inductive SumVal where
  | invalid
  | quietNan
  | inf (neg : Bool)
  | num (n : Int) (e : Int) (allNegZero : Bool)
  deriving DecidableEq, Repr

/-- A signed exact number added to another. -/
def addDyadic (a : Int × Int) (b : Int × Int) : Int × Int :=
  if a.2 ≤ b.2 then (a.1 + b.1 * 2 ^ (b.2 - a.2).toNat, a.2)
  else (a.1 * 2 ^ (a.2 - b.2).toNat + b.1, b.2)

/-- The exact sum of terms (R79, R86). -/
def exactSum (ts : List Term) : SumVal :=
  let isInv : Term → Bool := fun t => match t with
    | none => true
    | some v => v.isSnan
  let hasInf (k : Bool) : Bool := ts.any fun t => t == some (FVal.inf k)
  if ts.any isInv then .invalid
  else if hasInf true && hasInf false then .invalid
  else if ts.any (fun t => match t with | some v => v.isNan | none => false) then .quietNan
  else if hasInf true then .inf true
  else if hasInf false then .inf false
  else
    let acc := ts.foldl (fun (acc : Int × Int) t => match t with
      | some (.fin n m e) => addDyadic acc ((if n then -(m : Int) else (m : Int)), e)
      | _ => acc) (0, 0)
    .num acc.1 acc.2 (!ts.isEmpty && ts.all fun t => match t with
      | some (.fin true 0 _) => true
      | _ => false)

/-- RNfmt of an exact sum (R58, R79). -/
def FFmt.roundSum (f : FFmt) (r : RMode) (v : SumVal) : FRes :=
  match v with
  | .invalid => f.nan true
  | .quietNan => f.nan false
  | .inf n => f.round r (.inf n)
  | .num n e allNegZero =>
      if n == 0 then f.zero allNegZero
      else f.roundFin r (decide (n < 0)) n.natAbs e false

/-- The sum of two values as IEEE 754-2019 adds them: the sign of an exact zero follows the mode (R58). -/
def FFmt.add (f : FFmt) (r : RMode) (a b : Term) : FRes :=
  match exactSum [a, b] with
  | .num n e allNeg =>
      if n == 0 then
        let bothPosZero := (match a with | some (.fin false 0 _) => true | _ => false) && (match b with | some (.fin false 0 _) => true | _ => false)
        f.zero (allNeg || (r.mode == .down && !bothPosZero))
      else f.roundFin r (decide (n < 0)) n.natAbs e false
  | .invalid => f.nan true
  | .quietNan => f.nan false
  | .inf n => f.round r (.inf n)

/-- The product of two values, rounded once. -/
def FFmt.mul (f : FFmt) (r : RMode) (a b : FVal) : FRes :=
  match a.mul b with
  | none => f.nan true
  | some v => f.round r v

/-- a * b + c with one rounding (R63). -/
def FFmt.fma (f : FFmt) (r : RMode) (a b c : FVal) : FRes := f.add r (a.mul b) (some c)

/-- A quotient of nonzero finite magnitudes, truncated to enough bits with its sticky part. -/
def FFmt.quot (f : FFmt) (r : RMode) (neg : Bool) (m : Nat) (e : Int) (l : Nat) (g : Int) : FRes :=
  let k := f.tbits + 4 + bitLen l
  let q := m * 2 ^ k / l
  f.roundFin r neg q (e - g - k) (q * l != m * 2 ^ k)

/-- a / b (R195). -/
def FFmt.div (f : FFmt) (r : RMode) (a b : FVal) : FRes :=
  match a, b with
  | .nan s, .nan t => f.nan (s || t)
  | .nan s, .inf _ => f.nan s
  | .nan s, .fin _ _ _ => f.nan s
  | .inf _, .nan t => f.nan t
  | .fin _ _ _, .nan t => f.nan t
  | .inf _, .inf _ => f.nan true
  | .inf n, .fin k _ _ => f.round r (.inf (n != k))
  | .fin n _ _, .inf k => f.zero (n != k)
  | .fin n m e, .fin k l g =>
      if l == 0 then (if m == 0 then f.nan true else { bits := f.withSign (n != k) f.infBits, flags := Flags.dz })
      else if m == 0 then f.zero (n != k)
      else f.quot r (n != k) m e l g

/-- Newton's iteration for the integer square root, downwards from an estimate not below it. -/
def isqrtFrom : Nat → Nat → Nat → Nat
  | 0, _, x => x
  | fuel + 1, n, x => if x == 0 then 0 else
      let y := (x + n / x) / 2
      if y < x then isqrtFrom fuel n y else x

/-- The integer square root. -/
def isqrt (n : Nat) : Nat := if n = 0 then 0 else isqrtFrom (n.log2 + 8) n (2 ^ (n.log2 / 2 + 1))

/-- The square root of a value (R195). -/
def FFmt.sqrt (f : FFmt) (r : RMode) (a : FVal) : FRes :=
  match a with
  | .nan s => f.nan s
  | .inf true => f.nan true
  | .inf false => f.round r (.inf false)
  | .fin n 0 _ => f.zero n
  | .fin true _ _ => f.nan true
  | .fin false m e =>
      let k := 2 * (f.tbits + 4)
      let k := if (e - k) % 2 == 0 then k else k + 1
      let big := m * 2 ^ k
      let s := isqrt big
      f.roundFin r false s ((e - k) / 2) (s * s != big)

/-- 1 / √a (R195). -/
def FFmt.rsqrt (f : FFmt) (r : RMode) (a : FVal) : FRes :=
  match a with
  | .nan s => f.nan s
  | .inf true => f.nan true
  | .inf false => f.zero false
  | .fin n 0 _ => { bits := f.withSign n f.infBits, flags := 0 }
  | .fin true _ _ => f.nan true
  | .fin false m e =>
      -- 1/√(m·2^e) = √(2^(2k)/m) · 2^(-(k + e/2)), with e even
      let (m, e) := if e % 2 == 0 then (m, e) else (2 * m, e - 1)
      let k := f.tbits + 4 + bitLen m
      let s := isqrt (2 ^ (2 * k) / m)
      f.roundFin r false s (-(k : Int) - e / 2) (s * s * m != 2 ^ (2 * k))

/-- Fixed-point precision, in bits, of the exponential and the logarithm. -/
def funBits : Nat := 256

/-- 2^x for the fraction x whose k bits are f, from the least significant bit up: y ← √(y · 2^bit), in fixed point. -/
def exp2Frac : Nat → Nat → Nat → Nat
  | 0, _, y => y
  | k + 1, f, y => exp2Frac k (f / 2) (isqrt ((if f % 2 == 1 then 2 * y else y) * 2 ^ funBits))

/-- 2^a (R195): integral powers are exact, all others irrational. -/
def FFmt.exp2 (f : FFmt) (r : RMode) (a : FVal) : FRes :=
  match a with
  | .nan s => f.nan s
  | .inf true => f.zero false
  | .inf false => f.round r (.inf false)
  | .fin _ 0 _ => f.round r (.fin false 1 0)
  | .fin n m e =>
      if e + (bitLen m : Int) > 12 then f.roundFin r false 1 (if n then -5000 else 5000) true
      else if e ≥ 0 then
        let i : Int := (m * 2 ^ e.toNat : Nat)
        f.roundFin r false 1 (if n then -i else i) false
      else
        let k := (-e).toNat
        let v : Int := if n then -(m : Int) else (m : Int)
        let i := v / (2 ^ k : Nat)
        let fr := (v % (2 ^ k : Nat)).toNat
        if fr == 0 then f.roundFin r false 1 i false
        else f.roundFin r false (exp2Frac k fr (2 ^ funBits)) (i - funBits) true

/-- Bits of the binary logarithm of a fixed-point x in [1, 2), most significant first, by repeated squaring. -/
def log2Frac : Nat → Nat → Nat → Nat
  | 0, _, acc => acc
  | k + 1, x, acc =>
      let y := x * x / 2 ^ funBits
      if y ≥ 2 ^ (funBits + 1) then log2Frac k (y / 2) (2 * acc + 1) else log2Frac k y (2 * acc)

/-- log₂ a (R195): exact for powers of two, irrational otherwise. -/
def FFmt.log2 (f : FFmt) (r : RMode) (a : FVal) : FRes :=
  match a with
  | .nan s => f.nan s
  | .inf true => f.nan true
  | .inf false => f.round r (.inf false)
  | .fin _ 0 _ => { bits := f.withSign true f.infBits, flags := Flags.dz }
  | .fin true _ _ => f.nan true
  | .fin false m e =>
      let top : Int := e + (bitLen m : Int) - 1
      if m == 2 ^ (bitLen m - 1) then
        (if top == 0 then f.zero false else f.roundFin r (decide (top < 0)) top.natAbs 0 false)
      else
        let x := m * 2 ^ funBits / 2 ^ (bitLen m - 1)
        let v : Int := top * (2 ^ 112 : Nat) + (log2Frac 112 x 0 : Nat)
        if v < 0 then f.roundFin r true (v.natAbs - 1) (-112) true
        else f.roundFin r false v.natAbs (-112) true

/-! ## Comparisons -/

/-- The order of two numbers, as an integer below, at or above zero; none with a NaN (R199). -/
def FVal.cmp (a b : FVal) : Option Int :=
  let num : FVal → Int × Int × Int := fun v => match v with
    | .inf n => ((if n then -1 else 1), 0, 0)
    | .fin n m e => (0, (if n then -(m : Int) else (m : Int)), e)
    | .nan _ => (0, 0, 0)
  if a.isNan || b.isNan then none
  else
    let (i, n, e) := num a
    let (j, k, g) := num b
    if i != j then some (if i < j then -1 else 1)
    else some ((addDyadic (n, e) (-k, g)).1)

/-- minimumNumber or maximumNumber (R64): the bits of one operand. -/
def FFmt.minMax (f : FFmt) (ftz wantMax : Bool) (x y : Nat) : FRes :=
  let a := f.input ftz x
  let b := f.input ftz y
  let nv : Flags := if a.isSnan || b.isSnan then Flags.nv else 0
  let keep (v : FVal) (bits : Nat) : Nat := if v.isZero then f.withSign v.neg 0 else bits
  match a.cmp b with
  | none =>
      if a.isNan && b.isNan then { bits := f.nanBits, flags := nv }
      else { bits := if a.isNan then keep b y else keep a x, flags := nv }
  | some c =>
      let aLess := if c == 0 then a.neg && !b.neg else decide (c < 0)
      let takeA := if wantMax then !aLess else (aLess || (c == 0 && a.neg == b.neg))
      { bits := if takeA then keep a x else keep b y, flags := nv }

/-- The comparisons of fcmp and dcmp (R199). -/
inductive FCond where
  | eq | ne | lt | le | gt | ge | un | ord
  deriving DecidableEq, Repr

/-- Is the comparison signalling (R199)? -/
def FCond.signalling : FCond → Bool
  | .lt | .le | .gt | .ge => true
  | .eq | .ne | .un | .ord => false

/-- A comparison: 1 or 0, and its flags (R199). -/
def FCond.test (c : FCond) (a b : FVal) : Bool × Flags :=
  let anyNan := a.isNan || b.isNan
  let nv : Flags := if (anyNan && c.signalling) || a.isSnan || b.isSnan then Flags.nv else 0
  let o := (a.cmp b).getD 0
  (match c with
    | .eq => !anyNan && o == 0
    | .ne => anyNan || o != 0
    | .lt => !anyNan && decide (o < 0)
    | .le => !anyNan && decide (o ≤ 0)
    | .gt => !anyNan && decide (0 < o)
    | .ge => !anyNan && decide (0 ≤ o)
    | .un => anyNan
    | .ord => !anyNan, nv)

/-! ## Conversions -/

/-- A conversion between floating-point formats (R66). -/
def FFmt.convert (src dst : FFmt) (r : RMode) (ftzIn : Bool) (b : Nat) : FRes := dst.round r (src.input ftzIn b)

/-- A conversion to an integer range (R67): the integer and its flags. -/
def toInteger (mode : Rounding) (lo hi : Int) (v : FVal) : Int × Flags :=
  match v with
  | .nan _ => (0, Flags.nv)
  | .inf n => ((if n then lo else hi), Flags.nv)
  | .fin n m e =>
      let (k, inexact) := roundTo mode n m e 0 false
      let i : Int := if n then -(k : Int) else (k : Int)
      if i < lo then (lo, Flags.nv) else if i > hi then (hi, Flags.nv)
      else (i, if inexact then Flags.nx else 0)

/-- A conversion from an integer (R67). -/
def FFmt.ofInt (f : FFmt) (r : RMode) (i : Int) : FRes := f.round r (.fin (decide (i < 0)) i.natAbs 0)

/-- Rounding to an integral value (R197): no NX, the sign kept. -/
def FFmt.toIntegral (f : FFmt) (mode : Rounding) (ftz : Bool) (b : Nat) : FRes :=
  match f.input ftz b with
  | .nan s => f.nan s
  | .inf n => { bits := f.withSign n f.infBits, flags := 0 }
  | .fin n m e =>
      if m == 0 then f.zero n
      else
        let (k, _) := roundTo mode n m e 0 false
        if k == 0 then f.zero n
        else { bits := (f.round RMode.engine (.fin n k 0)).bits, flags := 0 }

/-- The class word of fcls (R198). -/
def fclsWord (f : FFmt) (b : Nat) : Nat :=
  match f.value b with
  | .nan s => if s then 256 else 512
  | .inf n => if n then 1 else 128
  | .fin n m _ => if m == 0 then (if n then 8 else 16) else if m < 2 ^ f.tbits then (if n then 4 else 32) else (if n then 2 else 64)

/-! ## The BQ4 family -/

/-- A code's value times eight under a type (R70). -/
def bq4Code8 (type code : Nat) : Int :=
  let mag : Nat → Int := fun c => match type, c with
    | _, 0 => 0
    | 1, 1 => 4 | 1, 2 => 8 | 1, 3 => 12 | 1, 4 => 16 | 1, 5 => 24 | 1, 6 => 32 | 1, 7 => 48
    | 2, c => (2 ^ (c - 1) : Nat)
    | 3, 1 => 8 | 3, 2 => 16 | 3, 3 => 24 | 3, 4 => 32 | 3, 5 => 48 | 3, 6 => 64 | 3, 7 => 96
    | _, c => 8 * (c : Nat)
  if type == 0 then (if code < 8 then 8 * (code : Int) else 8 * ((code : Int) - 16))
  else if code < 8 then mag code else -(mag (code - 8))

/-- The header's type (R68). -/
def bq4Type (header : Nat) : Nat := header / 256 % 4
/-- The header's signed scale (R68). -/
def bq4Scale (header : Nat) : Int := if header % 256 < 128 then (header % 256 : Nat) else (header % 256 : Nat) - 256
/-- Is the header malformed (R71)? -/
def bq4Malformed (header : Nat) : Bool := header / 1024 % 64 != 0

/-- The exact value of a code under a header (R70, R71). -/
def bq4Value (header code : Nat) : FVal :=
  if header % 256 == 128 then .fin false 0 0
  else
    let v := bq4Code8 (bq4Type header) code
    let neg := if bq4Type header == 0 then decide (v < 0) else code ≥ 8
    .fin neg v.natAbs (bq4Scale header - 3)

/-- The largest code magnitude of a sign under a type, times eight (R72). -/
def bq4Max8 (type : Nat) (neg : Bool) : Nat :=
  match type with
  | 0 => if neg then 64 else 56
  | 1 => 48
  | 2 => 64
  | _ => 96

/-- Is v / 2^s in range (R72)? -/
def bq4InRange (type : Nat) (s : Int) (v : FVal) : Bool :=
  match v with
  | .fin n m e => decide ((addDyadic ((bq4Max8 type n : Nat), s - 3) (-(m : Int), e)).1 ≥ 0)
  | .nan _ => true
  | .inf _ => true

/-- The smallest scale of a list of candidates that keeps every value in range (R72). -/
def bq4Scan (type : Nat) (vs : List FVal) : Nat → Int → Option Int
  | 0, _ => none
  | fuel + 1, s => if vs.all (bq4InRange type s) then some s else bq4Scan type vs fuel (s + 1)

/-- The code whose value is nearest the scaled value in the mode's sense (R72), and whether it differs from it. Codes are compared through eight times their value. -/
def bq4Round (type : Nat) (mode : Rounding) (s : Int) (v : FVal) : Nat × Bool :=
  match v with
  | .fin n m e =>
      let x : Int × Int := ((if n then -(m : Int) else (m : Int)), e)
      let diff (c : Nat) : Int × Int := addDyadic (bq4Code8 type c, s - 3) (-x.1, x.2)
      let codes := (List.range 16).filter fun c => c != 8 || type == 0
      let below := codes.filter fun c => decide ((diff c).1 ≤ 0)
      let above := codes.filter fun c => decide ((diff c).1 ≥ 0)
      let best (l : List Nat) (up : Bool) : Option Nat := l.foldl (fun acc c => match acc with
        | none => some c
        | some b => if up then (if bq4Code8 type c < bq4Code8 type b then some c else some b)
            else (if bq4Code8 type c > bq4Code8 type b then some c else some b)) none
      let lo := (best below false).getD ((best above true).getD 0)
      let hi := (best above true).getD lo
      let exact := (diff lo).1 == 0
      let c := if exact then lo else match mode with
        | .down => lo
        | .up => hi
        | .towardZero => if n then hi else lo
        | .nearestEven =>
            let dl := diff lo
            let dh := diff hi
            let t := (addDyadic (-dl.1, dl.2) (-dh.1, dh.2)).1
            if t < 0 then lo else if t > 0 then hi else if lo % 2 == 0 then lo else hi
      (if bq4Code8 type c == 0 then 0 else c, (diff c).1 != 0)
  | .nan _ => (0, false)
  | .inf _ => (0, false)

/-- A BQ4 block (R69, R72): its header, its 32 codes, the elements' own flags, and the flags of the whole block. -/
structure Bq4Block where
  header : Nat
  codes : List Nat
  flags : List Flags
  blockFlags : Flags
  deriving DecidableEq, Repr

/-- The conversion of 32 values into a block (R72). -/
def bq4Pack (type : Nat) (mode : Rounding) (vs : List FVal) : Bq4Block :=
  let special (v : FVal) : Bool := v.isNan || v.isInf
  if vs.all FVal.isZero then { header := 128 + 256 * type, codes := vs.map fun _ => 0, flags := vs.map fun _ => 0, blockFlags := 0 }
  else
    let found := bq4Scan type vs 255 (-127)
    let s := found.getD 127
    let one (v : FVal) : Nat × Flags :=
      if special v then (0, Flags.nv)
      else if bq4InRange type s v then
        let (c, inexact) := bq4Round type mode s v
        (c, if inexact then Flags.nx else 0)
      else
        ((if type == 0 then (if v.neg then 8 else 7) else (if v.neg then 15 else 7)), Flags.nx)
    let cs := vs.map one
    { header := 256 * type + (s % 256).toNat, codes := cs.map Prod.fst, flags := cs.map Prod.snd, blockFlags := if found.isSome then 0 else Flags.ofl }

/-! ## Aged values -/

/-- The table entry as it is used: none when it is not valid; -0 as +0 (R75). -/
def decayEntry (w : Word) : Option FVal :=
  match FFmt.fp32.value w.toNat with
  | .fin n m e => if m == 0 then some (.fin false 0 0) else if n then none
      else if (addDyadic (1, 0) (-(m : Int), e)).1 ≥ 0 then some (.fin false m e) else none
  | .nan _ => none
  | .inf _ => none

/-- The loop of F_DECAY (R74) over the 24 bits of the age, lowest first. -/
def decayLoop : Nat → Nat → FVal → FVal → FVal
  | 0, _, _, f => f
  | k + 1, d, p, f =>
      let rn (a b : FVal) : FVal := FFmt.fp32.value (FFmt.fp32.mul RMode.engine a b).bits
      decayLoop k (d / 2) (rn p p) (if d % 2 == 1 then rn f p else f)

/-- F_DECAY (R74). (DEDUCED: log entry 72.) -/
def fDecay (lam : FVal) (d : Nat) : FVal := decayLoop 24 d lam (.fin false 1 0)

/-- The age of a stamp under a datum (R76): the low 24 bits of the datum less the stamp. -/
def ageOf (datum : DWord) (stamp : Nat) : Nat := (datum.toNat % 2 ^ 24 + 2 ^ 24 - stamp % 2 ^ 24) % 2 ^ 24

/-! ## Random streams -/

/-- The rounds of Philox4x32-10 (R84). -/
def philoxRounds : Nat → Nat → Nat → Nat → Nat → Nat → Nat → Nat × Nat × Nat × Nat
  | 0, c0, c1, c2, c3, _, _ => (c0, c1, c2, c3)
  | n + 1, c0, c1, c2, c3, k0, k1 =>
      let p := 0xD2511F53 * c0
      let q := 0xCD9E8D57 * c2
      philoxRounds n ((q / 2 ^ 32) ^^^ c1 ^^^ k0) (q % 2 ^ 32) ((p / 2 ^ 32) ^^^ c3 ^^^ k1) (p % 2 ^ 32)
        ((k0 + 0x9E3779B9) % 2 ^ 32) ((k1 + 0xBB67AE85) % 2 ^ 32)

/-- Word w of the stream with key (k0, k1) (R84). -/
def streamWord (k0 k1 : Word) (w : Nat) : Word :=
  let b := w % 2 ^ 64 / 4
  let (x0, x1, x2, x3) := philoxRounds 10 (b % 2 ^ 32) (b / 2 ^ 32) 0 0 k0.toNat k1.toNat
  BitVec.ofNat 32 (match w % 4 with
    | 0 => x0
    | 1 => x1
    | 2 => x2
    | _ => x3)

/-! ## Check values -/

/-- One byte into CRC-16/CCITT (R399). -/
def crc16Byte (crc : BitVec 16) (b : Byte) : BitVec 16 :=
  (List.range 8).foldl (fun c _ => if c.getLsbD 15 then (c <<< 1) ^^^ 0x1021#16 else c <<< 1) (crc ^^^ ((b.setWidth 16) <<< 8))

/-- CRC-16/CCITT of bytes in ascending order (R399, R293, R479). -/
def crc16 (bs : List Byte) : BitVec 16 := bs.foldl crc16Byte 0xFFFF#16

end Sys2Proof.Machine
end

