-- ==== Sys2Proof/Machine/Ops.lean ====
section
/-! DEFINITION. The named operations over the state: keyed lists, memory cells, lanes and registers with the visibility rules of R91 and R93, program counters (R14, R88), taking a trap and returning from one (R350 to R363), and the messages to the host. -/
namespace Sys2Proof.Machine

/-! ## Keyed lists -/

/-- The entry of a key. -/
def lookup {α : Type} : List (Nat × α) → Nat → Option α
  | [], _ => none
  | (j, x) :: r, k => if j = k then some x else lookup r k

/-- A keyed list with the entry of a key replaced, or added at the end. -/
def put {α : Type} : List (Nat × α) → Nat → α → List (Nat × α)
  | [], k, x => [(k, x)]
  | (j, y) :: r, k, x => if j = k then (k, x) :: r else (j, y) :: put r k x

/-- A keyed list without a key. -/
def del {α : Type} (l : List (Nat × α)) (k : Nat) : List (Nat × α) := l.filter fun e => e.1 != k

/-! ## Memory cells -/

/-- What a list of cells holds at an address, if it lists it. -/
def cellFind : List Host.Cell → Nat → Option Byte
  | [], _ => none
  | (b, v) :: r, a => if a < b then none else if a = b then some v else cellFind r a

/-- The byte at an address: an unlisted address reads 0 (log entry 2 for HBM4, R376 for a window). -/
def cellGet (l : List Host.Cell) (a : Nat) : Byte := (cellFind l a).getD 0

/-- A list of cells with a byte listed at an address, kept in rising order. -/
def cellSet : List Host.Cell → Nat → Byte → List Host.Cell
  | [], a, v => [(a, v)]
  | (b, w) :: r, a, v => if a < b then (a, v) :: (b, w) :: r else if a = b then (a, v) :: r else (b, w) :: cellSet r a v

/-- A list of cells without an address. -/
def cellDrop : List Host.Cell → Nat → List Host.Cell
  | [], _ => []
  | (b, w) :: r, a => if a < b then (b, w) :: r else if a = b then r else (b, w) :: cellDrop r a

/-- A write of one byte: writing what an unlisted address reads removes the cell. -/
def cellPut (l : List Host.Cell) (a : Nat) (v : Byte) : List Host.Cell := if v = 0 then cellDrop l a else cellSet l a v

/-- The bytes from an address. -/
def cellsRead (l : List Host.Cell) (a : Nat) : Nat → List Byte
  | 0 => []
  | n + 1 => cellGet l a :: cellsRead l (a + 1) n

/-- A write of bytes from an address. -/
def cellsWrite (l : List Host.Cell) (a : Nat) : List Byte → List Host.Cell
  | [] => l
  | b :: bs => cellsWrite (cellPut l a b) (a + 1) bs

/-- The cells outside a range of addresses. -/
def cellsClear (l : List Host.Cell) (a n : Nat) : List Host.Cell := l.filter fun c => c.1 < a || a + n ≤ c.1

/-- The canonical form of cells: addresses strictly rising, and no cell that equals what an unlisted address reads. -/
def cellsWf : List Host.Cell → Bool
  | [] => true
  | [c] => c.2 != 0
  | c :: d :: r => c.2 != 0 && decide (c.1 < d.1) && cellsWf (d :: r)

/-- The canonical form of the memory: the cells of HBM4 (windows have it beside their team). -/
def Memory.wf (m : Memory) : Bool := cellsWf m.hbm

/-! ## Time, owners -/

/-- TIMEBASE in nanoseconds: the 1 GHz count beside the 4 GHz arithmetic clock (R2, R52). -/
def State.timebase (s : State) : Nat := s.cycle / 4 % 2 ^ 64

def State.group? (s : State) (g : Nat) : Option Group := lookup s.groups g
def State.team? (s : State) (t : Nat) : Option Team := lookup s.teams t
def State.gang? (s : State) (k : Nat) : Option Gang := lookup s.gangs k
def State.launch? (s : State) (l : Nat) : Option Launch := lookup s.launches l

def State.setGroup (s : State) (k : Nat) (g : Group) : State := { s with groups := put s.groups k g }
def State.setTeam (s : State) (k : Nat) (t : Team) : State := { s with teams := put s.teams k t }
def State.setGang (s : State) (k : Nat) (g : Gang) : State := { s with gangs := put s.gangs k g }
def State.setLaunch (s : State) (k : Nat) (l : Launch) : State := { s with launches := put s.launches k l }

/-- A group changed, if it exists. -/
def State.modGroup (s : State) (k : Nat) (f : Group → Group) : State :=
  match s.group? k with
  | some g => s.setGroup k (f g)
  | none => s
/-- A team changed, if it exists. -/
def State.modTeam (s : State) (k : Nat) (f : Team → Team) : State :=
  match s.team? k with
  | some t => s.setTeam k (f t)
  | none => s
/-- A gang changed, if it exists. -/
def State.modGang (s : State) (k : Nat) (f : Gang → Gang) : State :=
  match s.gang? k with
  | some t => s.setGang k (f t)
  | none => s
/-- A launch changed, if it exists. -/
def State.modLaunch (s : State) (k : Nat) (f : Launch → Launch) : State :=
  match s.launch? k with
  | some t => s.setLaunch k (f t)
  | none => s

/-- The team of a group. -/
def State.teamOf (s : State) (g : Group) : Option Team := s.team? g.team
/-- The gang of a group. -/
def State.gangOf (s : State) (g : Group) : Option Gang := (s.teamOf g).bind fun t => s.gang? t.gang
/-- The number of the launch of a group. -/
def State.launchIdOf (s : State) (g : Group) : Nat := ((s.gangOf g).map (·.launch)).getD 0
/-- The launch of a group. -/
def State.launchOf (s : State) (g : Group) : Option Launch := s.launch? (s.launchIdOf g)
/-- The number of the launch of a team. -/
def State.launchIdOfTeam (s : State) (t : Team) : Nat := ((s.gang? t.gang).map (·.launch)).getD 0
/-- Is the group's kernel certified (R124)? -/
def State.certified (s : State) (g : Group) : Bool := ((s.launchOf g).map (·.kern.ordered)).getD false
/-- The address-space identifier of a group. -/
def State.asidOf (s : State) (g : Group) : Nat := ((s.launchOf g).map (·.asid)).getD 0
/-- TRAPVEC of an identifier (R355); 0 when it is not set. -/
def State.trapvec (s : State) (asid : Nat) : DWord := ((s.dev.asids.find? (·.id == asid)).map (·.trapvec)).getD 0

/-! ## Lanes -/

/-- A lane of zeros, exited: what reading a lane beyond the width gives. -/
def Lane.blank : Lane := { regs := Vector.replicate 64 0, pc := 0, trappc := 0, fpen := 0, fpflags := 0, st := .exited }

def Group.lane (g : Group) (i : Nat) : Lane := g.lanes.getD i Lane.blank
def Group.modLane (g : Group) (i : Nat) (f : Lane → Lane) : Group := { g with lanes := g.lanes.modify i f }
/-- The lanes of a set, changed. -/
def Group.modLanes (g : Group) (m : LaneMask) (f : Lane → Lane) : Group :=
  { g with lanes := g.lanes.mapIdx fun i l => if m.getLsbD i then f l else l }

/-- Has the lane not exited (R26)? -/
def Lane.live (l : Lane) : Bool := match l.st with
  | .exited => false
  | .live => true
  | .waiting _ => true
/-- Does the lane wait at a rejoin (R32)? -/
def Lane.waits (l : Lane) : Bool := match l.st with
  | .waiting _ => true
  | .live => false
  | .exited => false

/-- The set of lanes that satisfy a test. -/
def Group.lanesWhere (g : Group) (f : Nat → Lane → Bool) : LaneMask :=
  maskOf ((List.range g.width).filter fun i => f i (g.lane i))
/-- The live lanes (R26). -/
def Group.liveMask (g : Group) : LaneMask := g.lanesWhere fun _ l => l.live
/-- The candidate lanes (R26). -/
def Group.candidates (g : Group) : LaneMask := g.lanesWhere fun i l => l.st == .live && g.enmask.getLsbD i
/-- The active lanes of an instruction at an address (R26). -/
def Group.activeAt (g : Group) (pc : DWord) : LaneMask := g.lanesWhere fun i l => l.st == .live && g.enmask.getLsbD i && l.pc == pc
/-- The lanes of a set, ascending. -/
def Group.list (g : Group) (m : LaneMask) : List Nat := lanesOf m g.width

/-! ## Registers -/

/-- The value a read sees of a register whose newest value is v: pending fixed-latency writes are undone, newest first, until one that is visible (R91). -/
def seenThrough : List HistWrite → Nat → Reg → Nat → Word → Word
  | [], _, _, _, v => v
  | h :: t, lane, reg, now, v =>
      if h.lane = lane ∧ h.reg = reg then (if h.visible ≤ now then v else seenThrough t lane reg now h.old)
      else seenThrough t lane reg now v

/-- The writes, newest first, that a read of a cycle must still know: those not visible yet, and those that supersede an earlier one of their register that is not (R91, R93). -/
def unsettled (now : Nat) : List HistWrite → List HistWrite
  | [] => []
  | h :: t =>
      let r := unsettled now t
      if h.visible ≤ now ∧ r.all (fun x => x.lane != h.lane || x.reg != h.reg) then r else h :: r

/-- A source read of a register in a lane, in a cycle (R30, R91). -/
def Group.read (g : Group) (now : Nat) (lane : Nat) (r : Reg) : Word :=
  seenThrough g.hist lane r now ((g.lane lane).regs.get r)
/-- A source read of a pair (R19). -/
def Group.readPair (g : Group) (now : Nat) (lane : Nat) (r : Reg) : DWord :=
  joinWords (g.read now lane r) (g.read now lane (r.plus 1))

/-- A fixed-latency write of one register of one lane, issued now (R91). -/
def Group.writeFixed (g : Group) (now lat : Nat) (pc : DWord) (lane : Nat) (r : Reg) (v : Word) : Group :=
  { g with
    lanes := g.lanes.modify lane fun l => { l with regs := l.regs.set r v }
    hist := { lane := lane, reg := r, old := (g.lane lane).regs.get r, issued := now, visible := now + lat, writer := pc } :: g.hist }

/-- Fixed-latency writes in order. -/
def Group.writesFixed (g : Group) (now lat : Nat) (pc : DWord) : List (Nat × Reg × Word) → Group
  | [] => g
  | (lane, r, v) :: t => (g.writeFixed now lat pc lane r v).writesFixed now lat pc t

/-- A register written at once: the arrival of a scoreboarded result. Older pending writes of the register no longer show (R93). -/
def Group.commit (g : Group) (lane : Nat) (r : Reg) (v : Word) : Group :=
  { g with
    lanes := g.lanes.modify lane fun l => { l with regs := l.regs.set r v }
    hist := g.hist.filter fun h => !(h.lane == lane && h.reg == r) }

/-- Arrivals in order. -/
def Group.commits (g : Group) : List (Nat × Reg × Word) → Group
  | [] => g
  | (lane, r, v) :: t => (g.commit lane r v).commits t

/-- The writes of a 64-bit value into a pair (R19). -/
def pairWrites (lane : Nat) (r : Reg) (v : DWord) : List (Nat × Reg × Word) := [(lane, r, loWord v), (lane, r.plus 1, hiWord v)]

/-- The source lane of a route entry (R37). -/
def RouteEntry.source (e : RouteEntry) (width i : Nat) : Nat :=
  match e.kind with
  | .ident => i
  | .rot => (i + e.param) % width
  | .bcast => e.param
  | .bfly => i ^^^ (2 ^ e.param)
  | .mirror => i ^^^ (2 ^ e.param - 1)

/-- The source lane of a lane through a route field: entry 0 is fixed to identity (R36, R97). -/
def Group.sourceLane (g : Group) (r : Route) (i : Nat) : Nat :=
  if r.val = 0 then i else ((g.routes.getD (r.val - 1) { kind := .ident, param := 0 }).source g.width i)

/-! ## Program counters -/

/-- The sequential successor (R88). -/
def succPc (pc : DWord) : DWord := if pc.toNat % 32 = 28 then pc + 8 else pc + 4

/-- What R14 finds wrong with a new PC. -/
def pcFault (pc : DWord) : Option Cause :=
  let top := pc.toNat / 2 ^ 56
  if top != 0 && top != 255 then some .pcRange
  else if pc.toNat % 4 != 0 || pc.toNat % 32 < 4 then some .misalignedPc
  else none

/-- The lanes of a set moved to an address. -/
def Group.moveTo (g : Group) (m : LaneMask) (pc : DWord) : Group := g.modLanes m fun l => { l with pc := pc }

/-- A branch target (R99). -/
def branchTarget (pc : DWord) (off : BitVec 19) : DWord := pc + (off.signExtend 64) * 4

/-! ## Messages to the host -/

/-- An event to every session: the newest 4,096 are kept (R469). When the store is full the oldest is discarded and an OVERFLOW event follows. -/
def Session.post (n : Nat) (ss : Session) (type : Nat) (payload : List Byte) : Session × List Out :=
  let keep (evs : List (Nat × List Byte)) : List (Nat × List Byte) × Nat :=
    if evs.length ≥ Config.eventCap then (evs.drop (evs.length - (Config.eventCap - 1)), evs.length - (Config.eventCap - 1)) else (evs, 0)
  let (evs, lost) := keep ss.events
  let c := ss.evNext
  let ev := BitVec.ofNat 8 type :: payload
  if lost = 0 then
    ({ ss with events := evs ++ [(c, ev)], evNext := c + 1 }, [.event n c type payload])
  else
    let (evs, more) := keep (evs ++ [(c, ev)])
    let o := bytesOfNat 4 (lost + more)
    ({ ss with events := evs ++ [(c + 1, 0x47#8 :: o)], evNext := c + 2 }, [.event n c type payload, .event n (c + 1) 0x47 o])

/-- An event to each session in turn. -/
def postAll : List (Nat × Session) → Nat → List Byte → List (Nat × Session) × List Out
  | [], _, _ => ([], [])
  | (n, ss) :: r, type, payload =>
      let (ss', o) := ss.post n type payload
      let (r', o') := postAll r type payload
      ((n, ss') :: r', o ++ o')

/-- An HCP event (R469). ECC, CHECK and LINKDOWN wait on the sideband as well (R480). (DESIGN CHOICE: log entry 30.) -/
def State.hostEvent (s : State) (type : Nat) (payload : List Byte) : State :=
  let (ss, o) := postAll s.host.sessions type payload
  let sb := if type = 0x43 || type = 0x44 || type = 0x45 then s.host.sbEvents ++ [BitVec.ofNat 8 type :: payload] else s.host.sbEvents
  { s with host := { s.host with sessions := ss, sbEvents := sb }, outbox := s.outbox ++ o }

/-- RoCEv2 packets sent to a host; while the priority is paused they wait (R462). (DEDUCED: log entry 65.) -/
def State.roce (s : State) (o : List Out) : State :=
  if s.host.paused then { s with host := { s.host with roceHeld := s.host.roceHeld ++ o } } else { s with outbox := s.outbox ++ o }

/-! ## Traps -/

/-- A kill asked for: the first cause stands (R50, R360, R363). LAUNCH_KILL carries it out. -/
def State.requestKill (s : State) (l : Nat) (c : Cause) : State :=
  s.modLaunch l fun x => if x.cause.isSome || x.st == .complete || x.st == .killed then x else { x with cause := some c }

/-- The tile a launch rebuilds, if it is a recompute launch (R391). -/
def Origin.tile? : Origin → Option Nat
  | .recompute t _ => some t
  | .host => none
  | .device _ => none
  | .node _ _ => none
  | .invoked _ _ _ _ _ => none
/-- Does the group belong to a recompute launch (R391)? -/
def State.isRecompute (s : State) (g : Group) : Bool := ((s.launchOf g).bind (·.origin.tile?)).isSome

/-- The trap state a trap leaves (R355 to R357): cause, mask, address, word, the restart address of each live lane, the saved mask; waiting lanes leave waiting; a deferred cause that is taken is pending no longer (R352). (DEDUCED: log entry 34.) -/
def Group.saveTrap (g : Group) (r : TrapRec) : Group :=
  { g with
    code := r.cause.code
    defer := r.defer
    trapmask := r.lanes
    trapaddr := r.addr
    trapinst := r.word
    saveden := g.enmask
    deferred := g.deferred.filter fun x => r.taken != some x
    lanes := g.lanes.mapIdx fun i l => if l.live then
        { l with trappc := if r.active.getLsbD i then r.restart else l.pc
                 st := .live }
      else l }

/-- The group enters a handler: a converged group at the entry (R357). -/
def Group.enterHandler (g : Group) (entry : DWord) : Group :=
  let g := { g with hnd := true, enmask := g.liveMask }
  g.modLanes g.liveMask fun l => { l with pc := entry }

/-- The entry of a cause under a TRAPVEC (R354, R357, R364); none parks (R362). -/
def entryOf (c : Cause) (trapvec : DWord) : Option DWord :=
  match c.entry with
  | .park => none
  | .handler => if trapvec = 0 then none else some trapvec
  | .emulation => if trapvec = 0 then none else some (trapvec - BitVec.ofNat 64 (trapvec.toNat % 32) + 36)

/-- DOUBLE_TRAP (R360): the group stops, its grid is aborted, and the host is told both causes. -/
def State.doubleTrap (s : State) (gid : Nat) (first second : Nat) (lanes : LaneMask) (addr : DWord) : State :=
  let l := ((s.group? gid).map s.launchIdOf).getD 0
  let s := s.modGroup gid fun g => { g with parked := some s.sched.parks, waits := [] }
  let s := s.requestKill l .doubleTrap
  s.hostEvent 0x41 (bytesOfNat 4 l ++ bytesOfNat 4 first ++ bytesOfNat 4 second ++ bytesOfNat 8 lanes.toNat ++ bytesOfNat 8 addr.toNat)

/-- A park (R362): the group keeps its trap state and issues nothing, and the host is told. (DEDUCED: log entry 34.) -/
def State.park (s : State) (gid : Nat) : State :=
  match s.group? gid with
  | none => s
  | some g =>
      let s := s.setGroup gid { g with parked := some s.sched.parks, waits := [] }
      let s := { s with sched := { s.sched with parks := s.sched.parks + 1 } }
      s.hostEvent 0x40 (bytesOfNat 4 (s.launchIdOf g) ++ bytesOfNat 4 (((s.teamOf g).map (·.teamId)).getD 0) ++ bytesOfNat 4 g.index ++ bytesOfNat 4 g.code ++ bytesOfNat 8 g.trapaddr.toNat)

/-- TAKE_TRAP (R357, R360, R362, R393): in a handler a double trap; in a recompute team a kill with the cause; otherwise the handler, the emulation entry, or a park. -/
def State.takeTrap (s : State) (gid : Nat) (r : TrapRec) : State :=
  match s.group? gid with
  | none => s
  | some g =>
      if g.hnd then s.doubleTrap gid g.code r.cause.code r.lanes r.addr
      else if s.isRecompute g then
        (s.setGroup gid { (g.saveTrap r) with parked := some s.sched.parks, waits := [] }).requestKill (s.launchIdOf g) r.cause
      else
        match entryOf r.cause (s.trapvec (s.asidOf g)) with
        | some e => s.setGroup gid (((g.saveTrap r).enterHandler e))
        | none => (s.setGroup gid (g.saveTrap r)).park gid

/-- The wait an instruction of a group left, if it waits. -/
def Group.waitOf (g : Group) (pc : DWord) (place : Nat) : Option Wait := g.waits.find? fun w => w.slot.pc == pc && w.slot.place == place
/-- An instruction's wait ends. -/
def Group.leaveWait (g : Group) (sl : Slot) : Group :=
  { g with waits := g.waits.filter fun w => !(w.slot.pc == sl.pc && w.slot.place == sl.place) }

/-- A trap of a packet whose instructions have all acted: it is taken, or kept until those that wait have ended; of two, the first in the order of places stands (R353). -/
def State.settleTrap (s : State) (gid : Nat) (r : TrapRec) : State :=
  match s.group? gid with
  | none => s
  | some g =>
      let r := match g.pending with
        | some q => if q.place < r.place then q else r
        | none => r
      if g.waits.isEmpty then (s.setGroup gid { g with pending := none }).takeTrap gid r
      else s.setGroup gid { g with pending := some r }
/-- A trap raised by the instruction in issue, whose own wait ends: the first of its packet stands (R353); it is taken when the last instruction of the packet has acted. -/
def State.raise (s : State) (gid : Nat) (r : TrapRec) : State :=
  match s.packet with
  | none => s.takeTrap gid r
  | some p =>
      let s := s.modGroup gid fun g => g.leaveWait p.cur
      if p.trap.isSome then s
      else if p.rest.isEmpty then s.settleTrap gid r
      else { s with packet := some { p with trap := some r } }

/-- A precise trap of the instruction of a slot (R127, R177, R350). -/
def State.trapAt (s : State) (gid : Nat) (sl : Slot) (c : Cause) (lanes : LaneMask) (addr : DWord) : State :=
  s.raise gid { place := sl.place, cause := c, lanes := lanes, addr := addr, word := sl.word, defer := false, active := sl.lanes, restart := sl.pc }

/-- Is a cause deferred where R224, R225 or R233 takes it, so that DEFER is 1 (R352)? -/
def Cause.defers (c : Cause) : Bool := c == .check || c == .recipeMiss || c == .recipeDepth || c == .badBlock
/-- A deferred trap taken at the instruction of a slot (R352): where another trap of the packet stands, the cause stays deferred (R353). (DEDUCED: log entry 43.) -/
def State.trapDeferred (s : State) (gid : Nat) (sl : Slot) (d : Deferred) : State :=
  s.raise gid { place := sl.place, cause := d.cause, lanes := d.lanes, addr := d.addr, word := d.word, defer := d.cause.defers, active := sl.lanes, restart := sl.pc, taken := some d }

/-- The return of R361: lanes to their TRAPPC, ENMASK from the saved mask, HND cleared. -/
def Group.returnFromTrap (g : Group) : Group :=
  { g with
    hnd := false
    enmask := g.saveden
    lanes := g.lanes.map fun l => if l.live then { l with pc := l.trappc } else l }

/-- The live lanes whose TRAPPC breaks R14 or addresses word 0 (R361). -/
def Group.badReturn (g : Group) : LaneMask := g.lanesWhere fun _ l => l.live && (pcFault l.trappc).isSome

/-- The cause of a bad return, over all live lanes with the precedence of R193 (R361). -/
def Group.badReturnCause (g : Group) : Cause :=
  if (g.lanes.any fun l => l.live && pcFault l.trappc == some .pcRange) then .pcRange else .misalignedPc

/-! ## The packet in issue -/

/-- The packet in issue and its group. -/
def State.issuing (s : State) : Option (Packet × Group) :=
  match s.packet with
  | none => none
  | some p => match s.group? p.gid with
    | none => none
    | some g => some (p, g)

/-- The meaning of an encoded instruction: it acts for the packet in issue; with none the machine never asks for it. -/
def State.issue (s : State) (k : Packet → Group → State) : Host.Outcome State Fault Refusal :=
  match s.issuing with
  | none => .refused .noIssuingGroup
  | some (p, g) => .next (k p g)

/-- The group of the packet stored with the instruction's lanes at the sequential successor (R88). -/
def State.finish (s : State) (p : Packet) (g : Group) : State := s.setGroup p.gid (g.moveTo p.cur.lanes (succPc p.cur.pc))

/-- The next number for an identity the model hands out (DESIGN CHOICE, log entry 5). -/
def State.fresh (s : State) : Nat × State := (s.sched.nextId, { s with sched := { s.sched with nextId := s.sched.nextId + 1 } })

/-- The lowest lane of a set, 0 when it is empty. -/
def Group.lowest (g : Group) (m : LaneMask) : Nat := (g.list m).headD 0

/-- A scoreboarded result posted (R93): it arrives after a latency. -/
def State.post (s : State) (gid : Nat) (pc : DWord) (lanes : LaneMask) (regs : List Reg) (vals : List (Nat × Reg × Word)) (lat : Nat) : State :=
  let (id, s) := s.fresh
  s.modGroup gid fun g => { g with sb := g.sb ++ [{ id := id, pc := pc, lanes := lanes, regs := regs, vals := vals, due := s.cycle + lat, kind := .ready, op := .nothing, rows := [], epoch := s.dev.qepoch }] }

/-! ## Waits -/

/-- An instruction enters or stays in a wait (R42): its lanes keep their PC. -/
def Group.enterWait (g : Group) (now : Nat) (k : WaitKind) (sl : Slot) : Group :=
  let since := ((g.waitOf sl.pc sl.place).map (·.since)).getD now
  { g with waits := (g.waits.filter fun w => !(w.slot.pc == sl.pc && w.slot.place == sl.place)) ++ [{ kind := k, slot := sl, since := since }] }

/-- The first deferred trap that an instruction of a kind takes (R224, R225, R233). -/
def Group.deferredFor (g : Group) (f : Deferred → Bool) : Option Deferred := g.deferred.find? f

/-- The first deferred trap that satisfies a test is taken at the instruction; with none the instruction goes on. -/
def State.orDeferred (s : State) (p : Packet) (g : Group) (f : Deferred → Bool) (k : State) : State :=
  match g.deferredFor f with
  | some d => (s.setGroup p.gid g).trapDeferred p.gid p.cur d
  | none => k

/-- Is the deferred cause one of an access, a store, or a sealed batch? -/
def DeferKind.isAccess (k : DeferKind) : Bool := match k with
  | .access => true
  | .store => false
  | .batch _ => false
/-- A store's cause. -/
def DeferKind.isStore (k : DeferKind) : Bool := match k with
  | .access => false
  | .store => true
  | .batch _ => false
/-- The cause of a sealed batch. -/
def DeferKind.isSealed (k : DeferKind) : Bool := match k with
  | .access => false
  | .store => false
  | .batch n => n.isSome
/-- What a release or full fence takes (R224, R225, R233). -/
def Deferred.atRelease (d : Deferred) : Bool := d.kind.isAccess || d.kind.isStore || d.kind.isSealed
/-- What an acquire fence takes (R224). -/
def Deferred.atAcquire (d : Deferred) : Bool := d.kind.isAccess
/-- What a blocking point takes (R224, R225). -/
def Deferred.atBlocking (d : Deferred) : Bool := d.kind.isAccess || d.kind.isStore

/-- Is a wait of the kind a blocking point (R42, R345, R368)? -/
def WaitKind.blocking (k : WaitKind) : Bool :=
  match k with
  | .barrier _ _ | .queuePop _ | .queuePush _ | .tile _ _ | .stores | .remoteCheck _ | .claim _ _ _ | .launchStore _ _ | .grant _ | .phase _ | .staging => true
  | .token _ | .batch _ | .sealLimit | .fence _ _ | .cbuf _ _ | .sweep _ | .table | .exit => false

/-- An instruction comes to a blocking point (R42): a deferred trap of an access or a store is taken instead (R224, R225). -/
def State.blockHere (s : State) (p : Packet) (g : Group) (k : State) : State := s.orDeferred p g Deferred.atBlocking k
/-- An instruction comes to wait: at a blocking point a deferred trap is taken instead. -/
def State.waitFor (s : State) (p : Packet) (g : Group) (k : WaitKind) : State :=
  if k.blocking then s.blockHere p g (s.setGroup p.gid (g.enterWait s.cycle k p.cur))
  else s.setGroup p.gid (g.enterWait s.cycle k p.cur)

end Sys2Proof.Machine
end

