-- ==== Sys2Proof/Machine/Operands.lean ====
section
/-! DEFINITION. Which registers each instruction names (R98, R103, R106, R112): the source reads with the lanes they read, the destinations, and the width-dependent shape. The issue stage uses it for the allocation (R41), the scoreboard (R93) and the checking scoreboard (R94). -/
namespace Sys2Proof

/-- Registers of a load form (R107). -/
def LoadForm.count : LoadForm → Nat
  | .w64 => 2
  | .w128 => 4
  | .s8 | .u8 | .s16 | .u16 | .w32 => 1
/-- Registers of a store form (R107). -/
def StoreForm.count : StoreForm → Nat
  | .w64 => 2
  | .w128 => 4
  | .b8 | .b16 | .w32 => 1

end Sys2Proof

namespace Sys2Proof.Machine

/-- A source read: of each active lane through a route, of the lowest active lane (R125), of the lanes an index names (R186), of the five lanes of a block (R207). -/
inductive ReadUse where
  | lane (reg : Reg) (route : Route)
  | uniform (reg : Reg)
  | perm (reg index : Reg) (route : Route)
  | block (reg : Reg)
  deriving DecidableEq, Repr

/-- The register a source read names. -/
def ReadUse.reg : ReadUse → Reg
  | .lane r _ => r
  | .uniform r => r
  | .perm r _ _ => r
  | .block r => r

/-- What an instruction names. -/
structure Uses where
  reads : List ReadUse := []
  writes : List Reg := []
  shapeOk : Bool := true
  deriving DecidableEq, Repr

/-- The n registers from a base (R98). -/
def regsOf (n : Nat) (r : Reg) : List Reg := (List.range n).map r.plus
/-- Shape w of R98. -/
def wide (width : Nat) (r : Reg) : List Reg := regsOf (if width = 64 then 2 else 1) r
/-- Does a field keep shape w (R98)? -/
def wideOk (width : Nat) (r : Reg) : Bool := width != 64 || r.isPair
/-- Reads of each active lane's registers through a route. -/
def readsLane (rs : List Reg) (rt : Route) : List ReadUse := rs.map (ReadUse.lane · rt)
/-- Reads of the lowest active lane's registers (R125). -/
def readsUniform (rs : List Reg) : List ReadUse := rs.map ReadUse.uniform
/-- The source of a CSR write: every active lane's own register for a lane-scope CSR, the lowest lane's otherwise (R22). -/
def csrRead (c : BitVec 13) (a : Reg) : ReadUse := if c.toNat < 16 then .lane a 0 else .uniform a

/-- The registers an instruction names, in a group of a width. -/
def uses (width : Nat) : Instr → Uses
  | .add d a r b s => { reads := readsLane (regsOf 1 a) r ++ readsLane (regsOf 1 b) s, writes := regsOf 1 d }
  | .sub d a r b s => { reads := readsLane (regsOf 1 a) r ++ readsLane (regsOf 1 b) s, writes := regsOf 1 d }
  | .mul d a r b s => { reads := readsLane (regsOf 1 a) r ++ readsLane (regsOf 1 b) s, writes := regsOf 1 d }
  | .mulh d a r b s => { reads := readsLane (regsOf 1 a) r ++ readsLane (regsOf 1 b) s, writes := regsOf 1 d }
  | .mulhu d a r b s => { reads := readsLane (regsOf 1 a) r ++ readsLane (regsOf 1 b) s, writes := regsOf 1 d }
  | .mad d a r b s => { reads := readsLane (regsOf 1 a) r ++ readsLane (regsOf 1 b) s ++ readsLane (regsOf 1 d) 0, writes := regsOf 1 d }
  | .and d a r b s => { reads := readsLane (regsOf 1 a) r ++ readsLane (regsOf 1 b) s, writes := regsOf 1 d }
  | .or d a r b s => { reads := readsLane (regsOf 1 a) r ++ readsLane (regsOf 1 b) s, writes := regsOf 1 d }
  | .xor d a r b s => { reads := readsLane (regsOf 1 a) r ++ readsLane (regsOf 1 b) s, writes := regsOf 1 d }
  | .shl d a r b s => { reads := readsLane (regsOf 1 a) r ++ readsLane (regsOf 1 b) s, writes := regsOf 1 d }
  | .shr d a r b s => { reads := readsLane (regsOf 1 a) r ++ readsLane (regsOf 1 b) s, writes := regsOf 1 d }
  | .sar d a r b s => { reads := readsLane (regsOf 1 a) r ++ readsLane (regsOf 1 b) s, writes := regsOf 1 d }
  | .rot d a r b s => { reads := readsLane (regsOf 1 a) r ++ readsLane (regsOf 1 b) s, writes := regsOf 1 d }
  | .min d a r b s => { reads := readsLane (regsOf 1 a) r ++ readsLane (regsOf 1 b) s, writes := regsOf 1 d }
  | .max d a r b s => { reads := readsLane (regsOf 1 a) r ++ readsLane (regsOf 1 b) s, writes := regsOf 1 d }
  | .minu d a r b s => { reads := readsLane (regsOf 1 a) r ++ readsLane (regsOf 1 b) s, writes := regsOf 1 d }
  | .maxu d a r b s => { reads := readsLane (regsOf 1 a) r ++ readsLane (regsOf 1 b) s, writes := regsOf 1 d }
  | .abs d a r => { reads := readsLane (regsOf 1 a) r, writes := regsOf 1 d }
  | .sel d a r b s => { reads := readsLane (regsOf 1 a) r ++ readsLane (regsOf 1 b) s ++ readsLane (regsOf 1 d) 0, writes := regsOf 1 d }
  | .clz d a r => { reads := readsLane (regsOf 1 a) r, writes := regsOf 1 d }
  | .popc d a r => { reads := readsLane (regsOf 1 a) r, writes := regsOf 1 d }
  | .brev d a r => { reads := readsLane (regsOf 1 a) r, writes := regsOf 1 d }
  | .bfx d a r b s => { reads := readsLane (regsOf 1 a) r ++ readsLane (regsOf 1 b) s, writes := regsOf 1 d }
  | .bfxu d a r b s => { reads := readsLane (regsOf 1 a) r ++ readsLane (regsOf 1 b) s, writes := regsOf 1 d }
  | .bfi d a r b s => { reads := readsLane (regsOf 1 a) r ++ readsLane (regsOf 1 b) s ++ readsLane (regsOf 1 d) 0, writes := regsOf 1 d }
  | .addc d a r b s => { reads := readsLane (regsOf 1 a) r ++ readsLane (regsOf 1 b) s, writes := regsOf 2 d }
  | .subb d a r b s => { reads := readsLane (regsOf 1 a) r ++ readsLane (regsOf 1 b) s, writes := regsOf 2 d }
  | .addS d a r b s => { reads := readsLane (regsOf 1 a) r ++ readsLane (regsOf 1 b) s, writes := regsOf 1 d }
  | .addUs d a r b s => { reads := readsLane (regsOf 1 a) r ++ readsLane (regsOf 1 b) s, writes := regsOf 1 d }
  | .subS d a r b s => { reads := readsLane (regsOf 1 a) r ++ readsLane (regsOf 1 b) s, writes := regsOf 1 d }
  | .subUs d a r b s => { reads := readsLane (regsOf 1 a) r ++ readsLane (regsOf 1 b) s, writes := regsOf 1 d }
  | .cmpEq d a r b s => { reads := readsLane (regsOf 1 a) r ++ readsLane (regsOf 1 b) s, writes := regsOf 1 d }
  | .cmpNe d a r b s => { reads := readsLane (regsOf 1 a) r ++ readsLane (regsOf 1 b) s, writes := regsOf 1 d }
  | .cmpLt d a r b s => { reads := readsLane (regsOf 1 a) r ++ readsLane (regsOf 1 b) s, writes := regsOf 1 d }
  | .cmpLe d a r b s => { reads := readsLane (regsOf 1 a) r ++ readsLane (regsOf 1 b) s, writes := regsOf 1 d }
  | .cmpGt d a r b s => { reads := readsLane (regsOf 1 a) r ++ readsLane (regsOf 1 b) s, writes := regsOf 1 d }
  | .cmpGe d a r b s => { reads := readsLane (regsOf 1 a) r ++ readsLane (regsOf 1 b) s, writes := regsOf 1 d }
  | .cmpLtu d a r b s => { reads := readsLane (regsOf 1 a) r ++ readsLane (regsOf 1 b) s, writes := regsOf 1 d }
  | .cmpLeu d a r b s => { reads := readsLane (regsOf 1 a) r ++ readsLane (regsOf 1 b) s, writes := regsOf 1 d }
  | .cmpGtu d a r b s => { reads := readsLane (regsOf 1 a) r ++ readsLane (regsOf 1 b) s, writes := regsOf 1 d }
  | .cmpGeu d a r b s => { reads := readsLane (regsOf 1 a) r ++ readsLane (regsOf 1 b) s, writes := regsOf 1 d }
  | .ballot d a r => { reads := readsLane (regsOf 1 a) r, writes := wide width d, shapeOk := wideOk width d }
  | .voteAll d a r => { reads := readsLane (regsOf 1 a) r, writes := regsOf 1 d }
  | .voteAny d a r => { reads := readsLane (regsOf 1 a) r, writes := regsOf 1 d }
  | .voteUni d a r => { reads := readsLane (regsOf 1 a) r, writes := regsOf 1 d }
  | .perm d a b s => { reads := [ReadUse.perm a b s] ++ readsLane (regsOf 1 b) s, writes := regsOf 1 d }
  | .mov d a r => { reads := readsLane (regsOf 1 a) r, writes := regsOf 1 d }
  | .callv d a r => { reads := readsLane (regsOf 2 a) r, writes := regsOf 2 d }
  | .retv a => { reads := readsLane (regsOf 2 a) 0 }
  | .rejoin a => { reads := readsLane (wide width a) 0, shapeOk := wideOk width a }
  | .exitl => {}
  | .fadd d a r b s => { reads := readsLane (regsOf 1 a) r ++ readsLane (regsOf 1 b) s, writes := regsOf 1 d }
  | .fsub d a r b s => { reads := readsLane (regsOf 1 a) r ++ readsLane (regsOf 1 b) s, writes := regsOf 1 d }
  | .fmul d a r b s => { reads := readsLane (regsOf 1 a) r ++ readsLane (regsOf 1 b) s, writes := regsOf 1 d }
  | .ffma d a r b s => { reads := readsLane (regsOf 1 a) r ++ readsLane (regsOf 1 b) s ++ readsLane (regsOf 1 d) 0, writes := regsOf 1 d }
  | .fmin d a r b s => { reads := readsLane (regsOf 1 a) r ++ readsLane (regsOf 1 b) s, writes := regsOf 1 d }
  | .fmax d a r b s => { reads := readsLane (regsOf 1 a) r ++ readsLane (regsOf 1 b) s, writes := regsOf 1 d }
  | .fcls d a r => { reads := readsLane (regsOf 1 a) r, writes := regsOf 1 d }
  | .fdiv d a r b s => { reads := readsLane (regsOf 1 a) r ++ readsLane (regsOf 1 b) s, writes := regsOf 1 d }
  | .fsqrt d a r => { reads := readsLane (regsOf 1 a) r, writes := regsOf 1 d }
  | .frcp d a r => { reads := readsLane (regsOf 1 a) r, writes := regsOf 1 d }
  | .frsq d a r => { reads := readsLane (regsOf 1 a) r, writes := regsOf 1 d }
  | .fex2 d a r => { reads := readsLane (regsOf 1 a) r, writes := regsOf 1 d }
  | .flg2 d a r => { reads := readsLane (regsOf 1 a) r, writes := regsOf 1 d }
  | .fsgnCpy d a r b s => { reads := readsLane (regsOf 1 a) r ++ readsLane (regsOf 1 b) s, writes := regsOf 1 d }
  | .fsgnNeg d a r => { reads := readsLane (regsOf 1 a) r, writes := regsOf 1 d }
  | .fsgnXor d a r b s => { reads := readsLane (regsOf 1 a) r ++ readsLane (regsOf 1 b) s, writes := regsOf 1 d }
  | .fsgnAbs d a r => { reads := readsLane (regsOf 1 a) r, writes := regsOf 1 d }
  | .frndRn d a r => { reads := readsLane (regsOf 1 a) r, writes := regsOf 1 d }
  | .frndRz d a r => { reads := readsLane (regsOf 1 a) r, writes := regsOf 1 d }
  | .frndRm d a r => { reads := readsLane (regsOf 1 a) r, writes := regsOf 1 d }
  | .frndRp d a r => { reads := readsLane (regsOf 1 a) r, writes := regsOf 1 d }
  | .fcmpEq d a r b s => { reads := readsLane (regsOf 1 a) r ++ readsLane (regsOf 1 b) s, writes := regsOf 1 d }
  | .fcmpNe d a r b s => { reads := readsLane (regsOf 1 a) r ++ readsLane (regsOf 1 b) s, writes := regsOf 1 d }
  | .fcmpLt d a r b s => { reads := readsLane (regsOf 1 a) r ++ readsLane (regsOf 1 b) s, writes := regsOf 1 d }
  | .fcmpLe d a r b s => { reads := readsLane (regsOf 1 a) r ++ readsLane (regsOf 1 b) s, writes := regsOf 1 d }
  | .fcmpGt d a r b s => { reads := readsLane (regsOf 1 a) r ++ readsLane (regsOf 1 b) s, writes := regsOf 1 d }
  | .fcmpGe d a r b s => { reads := readsLane (regsOf 1 a) r ++ readsLane (regsOf 1 b) s, writes := regsOf 1 d }
  | .fcmpUn d a r b s => { reads := readsLane (regsOf 1 a) r ++ readsLane (regsOf 1 b) s, writes := regsOf 1 d }
  | .fcmpOrd d a r b s => { reads := readsLane (regsOf 1 a) r ++ readsLane (regsOf 1 b) s, writes := regsOf 1 d }
  | .dadd d a r b s => { reads := readsLane (regsOf 2 a) r ++ readsLane (regsOf 2 b) s, writes := regsOf 2 d }
  | .dsub d a r b s => { reads := readsLane (regsOf 2 a) r ++ readsLane (regsOf 2 b) s, writes := regsOf 2 d }
  | .dmul d a r b s => { reads := readsLane (regsOf 2 a) r ++ readsLane (regsOf 2 b) s, writes := regsOf 2 d }
  | .dfma d a r b s => { reads := readsLane (regsOf 2 a) r ++ readsLane (regsOf 2 b) s ++ readsLane (regsOf 2 d) 0, writes := regsOf 2 d }
  | .dmin d a r b s => { reads := readsLane (regsOf 2 a) r ++ readsLane (regsOf 2 b) s, writes := regsOf 2 d }
  | .dmax d a r b s => { reads := readsLane (regsOf 2 a) r ++ readsLane (regsOf 2 b) s, writes := regsOf 2 d }
  | .ddiv d a r b s => { reads := readsLane (regsOf 2 a) r ++ readsLane (regsOf 2 b) s, writes := regsOf 2 d }
  | .dsqrt d a r => { reads := readsLane (regsOf 2 a) r, writes := regsOf 2 d }
  | .drndRn d a r => { reads := readsLane (regsOf 2 a) r, writes := regsOf 2 d }
  | .drndRz d a r => { reads := readsLane (regsOf 2 a) r, writes := regsOf 2 d }
  | .drndRm d a r => { reads := readsLane (regsOf 2 a) r, writes := regsOf 2 d }
  | .drndRp d a r => { reads := readsLane (regsOf 2 a) r, writes := regsOf 2 d }
  | .dcmpEq d a r b s => { reads := readsLane (regsOf 2 a) r ++ readsLane (regsOf 2 b) s, writes := regsOf 1 d }
  | .dcmpNe d a r b s => { reads := readsLane (regsOf 2 a) r ++ readsLane (regsOf 2 b) s, writes := regsOf 1 d }
  | .dcmpLt d a r b s => { reads := readsLane (regsOf 2 a) r ++ readsLane (regsOf 2 b) s, writes := regsOf 1 d }
  | .dcmpLe d a r b s => { reads := readsLane (regsOf 2 a) r ++ readsLane (regsOf 2 b) s, writes := regsOf 1 d }
  | .dcmpGt d a r b s => { reads := readsLane (regsOf 2 a) r ++ readsLane (regsOf 2 b) s, writes := regsOf 1 d }
  | .dcmpGe d a r b s => { reads := readsLane (regsOf 2 a) r ++ readsLane (regsOf 2 b) s, writes := regsOf 1 d }
  | .dcmpUn d a r b s => { reads := readsLane (regsOf 2 a) r ++ readsLane (regsOf 2 b) s, writes := regsOf 1 d }
  | .dcmpOrd d a r b s => { reads := readsLane (regsOf 2 a) r ++ readsLane (regsOf 2 b) s, writes := regsOf 1 d }
  | .hadd2 d a r b s => { reads := readsLane (regsOf 1 a) r ++ readsLane (regsOf 1 b) s, writes := regsOf 1 d }
  | .hmul2 d a r b s => { reads := readsLane (regsOf 1 a) r ++ readsLane (regsOf 1 b) s, writes := regsOf 1 d }
  | .hfma2 d a r b s => { reads := readsLane (regsOf 1 a) r ++ readsLane (regsOf 1 b) s ++ readsLane (regsOf 1 d) 0, writes := regsOf 1 d }
  | .hmax2 d a r b s => { reads := readsLane (regsOf 1 a) r ++ readsLane (regsOf 1 b) s, writes := regsOf 1 d }
  | .badd2 d a r b s => { reads := readsLane (regsOf 1 a) r ++ readsLane (regsOf 1 b) s, writes := regsOf 1 d }
  | .bmul2 d a r b s => { reads := readsLane (regsOf 1 a) r ++ readsLane (regsOf 1 b) s, writes := regsOf 1 d }
  | .bfma2 d a r b s => { reads := readsLane (regsOf 1 a) r ++ readsLane (regsOf 1 b) s ++ readsLane (regsOf 1 d) 0, writes := regsOf 1 d }
  | .bmax2 d a r b s => { reads := readsLane (regsOf 1 a) r ++ readsLane (regsOf 1 b) s, writes := regsOf 1 d }
  | .cvt d a r t u => { reads := readsLane (regsOf (if u == .fp64 then 2 else 1) a) r, writes := regsOf (if t == .fp64 then 2 else 1) d }
  | .cvtSat d a r t u => { reads := readsLane (regsOf (if u == .fp64 then 2 else 1) a) r, writes := regsOf (if t == .fp64 then 2 else 1) d }
  | .cvtRn d a r t u => { reads := readsLane (regsOf (if u == .fp64 then 2 else 1) a) r, writes := regsOf (if t == .fp64 then 2 else 1) d }
  | .cvtRz d a r t u => { reads := readsLane (regsOf (if u == .fp64 then 2 else 1) a) r, writes := regsOf (if t == .fp64 then 2 else 1) d }
  | .cvtRm d a r t u => { reads := readsLane (regsOf (if u == .fp64 then 2 else 1) a) r, writes := regsOf (if t == .fp64 then 2 else 1) d }
  | .cvtRp d a r t u => { reads := readsLane (regsOf (if u == .fp64 then 2 else 1) a) r, writes := regsOf (if t == .fp64 then 2 else 1) d }
  | .pkF16 d a r b s => { reads := readsLane (regsOf 1 a) r ++ readsLane (regsOf 1 b) s, writes := regsOf 1 d }
  | .pkBf16 d a r b s => { reads := readsLane (regsOf 1 a) r ++ readsLane (regsOf 1 b) s, writes := regsOf 1 d }
  | .pkE4m3 d a r b s => { reads := readsLane (regsOf 1 a) r ++ readsLane (regsOf 1 b) s, writes := regsOf 1 d }
  | .pkE5m2 d a r b s => { reads := readsLane (regsOf 1 a) r ++ readsLane (regsOf 1 b) s, writes := regsOf 1 d }
  | .pkE4m3Sat d a r b s => { reads := readsLane (regsOf 1 a) r ++ readsLane (regsOf 1 b) s, writes := regsOf 1 d }
  | .pkE5m2Sat d a r b s => { reads := readsLane (regsOf 1 a) r ++ readsLane (regsOf 1 b) s, writes := regsOf 1 d }
  | .pkI8 d a r b s => { reads := readsLane (regsOf 1 a) r ++ readsLane (regsOf 1 b) s, writes := regsOf 1 d }
  | .pkI8S d a r b s => { reads := readsLane (regsOf 1 a) r ++ readsLane (regsOf 1 b) s, writes := regsOf 1 d }
  | .pkBq4T0 d a r => { reads := readsLane (regsOf 1 a) r, writes := regsOf 1 d }
  | .pkBq4T1 d a r => { reads := readsLane (regsOf 1 a) r, writes := regsOf 1 d }
  | .pkBq4T2 d a r => { reads := readsLane (regsOf 1 a) r, writes := regsOf 1 d }
  | .pkBq4T3 d a r => { reads := readsLane (regsOf 1 a) r, writes := regsOf 1 d }
  | .unpkF16 d a r => { reads := readsLane (regsOf 1 a) r, writes := regsOf 2 d }
  | .unpkBf16 d a r => { reads := readsLane (regsOf 1 a) r, writes := regsOf 2 d }
  | .unpkE4m3 d a r => { reads := readsLane (regsOf 1 a) r, writes := regsOf 4 d }
  | .unpkE5m2 d a r => { reads := readsLane (regsOf 1 a) r, writes := regsOf 4 d }
  | .unpkI8 d a r => { reads := readsLane (regsOf 1 a) r, writes := regsOf 4 d }
  | .unpkBq4 d a => { reads := [ReadUse.block a], writes := regsOf 1 d }
  | .rngKey d a r b s => { reads := readsLane (regsOf 1 a) r ++ readsLane (regsOf 1 b) s, writes := regsOf 4 d }
  | .rngDraw d a => { reads := readsLane (regsOf 4 a) 0, writes := regsOf 1 d ++ [a.plus 2, a.plus 3] }
  | .rngDrawF32 d a => { reads := readsLane (regsOf 4 a) 0, writes := regsOf 1 d ++ [a.plus 2, a.plus 3] }
  | .rngDrawF64 d a => { reads := readsLane (regsOf 4 a) 0, writes := regsOf 2 d ++ [a.plus 2, a.plus 3] }
  | .rngSkip d a r b s => { reads := readsLane (regsOf 1 a) r ++ readsLane (regsOf 1 b) s ++ readsLane (regsOf 4 d) 0, writes := regsOf 4 d }
  | .aget d a r b s => { reads := readsLane (regsOf 2 a) r ++ readsLane (regsOf 1 b) s, writes := regsOf 1 d }
  | .aadd d a r b s => { reads := readsLane (regsOf 1 a) r ++ readsLane (regsOf 1 b) s ++ readsLane (regsOf 2 d) 0, writes := regsOf 2 d }
  | .amerge d a r b s => { reads := readsLane (regsOf 2 a) r ++ readsLane (regsOf 1 b) s ++ readsLane (regsOf 2 d) 0, writes := regsOf 2 d }
  | .aset d a r b s => { reads := readsLane (regsOf 1 a) r ++ readsLane (regsOf 1 b) s, writes := regsOf 2 d }
  | .addImm d a _ => { reads := readsLane (regsOf 1 a) 0, writes := regsOf 1 d }
  | .andImm d a _ => { reads := readsLane (regsOf 1 a) 0, writes := regsOf 1 d }
  | .orImm d a _ => { reads := readsLane (regsOf 1 a) 0, writes := regsOf 1 d }
  | .xorImm d a _ => { reads := readsLane (regsOf 1 a) 0, writes := regsOf 1 d }
  | .shlImm d a _ => { reads := readsLane (regsOf 1 a) 0, writes := regsOf 1 d }
  | .shrImm d a _ => { reads := readsLane (regsOf 1 a) 0, writes := regsOf 1 d }
  | .sarImm d a _ => { reads := readsLane (regsOf 1 a) 0, writes := regsOf 1 d }
  | .rotImm d a _ => { reads := readsLane (regsOf 1 a) 0, writes := regsOf 1 d }
  | .movImm d _ => { writes := regsOf 1 d }
  | .lop3 d a b _ _ => { reads := readsLane (regsOf 1 a) 0 ++ readsLane (regsOf 1 b) 0 ++ readsLane (regsOf 1 d) 0, writes := regsOf 1 d }
  | .lop3Not d a b _ _ => { reads := readsLane (regsOf 1 a) 0 ++ readsLane (regsOf 1 b) 0 ++ readsLane (regsOf 1 d) 0, writes := regsOf 1 d }
  | .brcNz c _ => { reads := readsLane (regsOf 1 c) 0 }
  | .brcZ c _ => { reads := readsLane (regsOf 1 c) 0 }
  | .ld d a k _ => { reads := readsLane (regsOf 2 a) 0, writes := regsOf k.count d }
  | .ldRaw d a k _ => { reads := readsLane (regsOf 2 a) 0, writes := regsOf k.count d }
  | .st d a k _ => { reads := readsLane (regsOf 2 a) 0 ++ readsLane (regsOf k.count d) 0 }
  | .stRaw d a k _ => { reads := readsLane (regsOf 2 a) 0 ++ readsLane (regsOf k.count d) 0 }
  | .prefetchL2 a _ => { reads := readsLane (regsOf 2 a) 0 }
  | .prefetchL1 a _ => { reads := readsLane (regsOf 2 a) 0 }
  | .atomOAdd d a _ => { reads := readsLane (regsOf 2 a) 0 ++ readsLane (regsOf 1 d) 0, writes := regsOf 1 d }
  | .atomOAnd d a _ => { reads := readsLane (regsOf 2 a) 0 ++ readsLane (regsOf 1 d) 0, writes := regsOf 1 d }
  | .atomOOr d a _ => { reads := readsLane (regsOf 2 a) 0 ++ readsLane (regsOf 1 d) 0, writes := regsOf 1 d }
  | .atomOXor d a _ => { reads := readsLane (regsOf 2 a) 0 ++ readsLane (regsOf 1 d) 0, writes := regsOf 1 d }
  | .atomOMin d a _ => { reads := readsLane (regsOf 2 a) 0 ++ readsLane (regsOf 1 d) 0, writes := regsOf 1 d }
  | .atomOMax d a _ => { reads := readsLane (regsOf 2 a) 0 ++ readsLane (regsOf 1 d) 0, writes := regsOf 1 d }
  | .atomOMinu d a _ => { reads := readsLane (regsOf 2 a) 0 ++ readsLane (regsOf 1 d) 0, writes := regsOf 1 d }
  | .atomOMaxu d a _ => { reads := readsLane (regsOf 2 a) 0 ++ readsLane (regsOf 1 d) 0, writes := regsOf 1 d }
  | .atomUAdd d a _ => { reads := readsLane (regsOf 2 a) 0 ++ readsLane (regsOf 1 d) 0, writes := regsOf 1 d }
  | .atomUAnd d a _ => { reads := readsLane (regsOf 2 a) 0 ++ readsLane (regsOf 1 d) 0, writes := regsOf 1 d }
  | .atomUOr d a _ => { reads := readsLane (regsOf 2 a) 0 ++ readsLane (regsOf 1 d) 0, writes := regsOf 1 d }
  | .atomUXor d a _ => { reads := readsLane (regsOf 2 a) 0 ++ readsLane (regsOf 1 d) 0, writes := regsOf 1 d }
  | .atomUMin d a _ => { reads := readsLane (regsOf 2 a) 0 ++ readsLane (regsOf 1 d) 0, writes := regsOf 1 d }
  | .atomUMax d a _ => { reads := readsLane (regsOf 2 a) 0 ++ readsLane (regsOf 1 d) 0, writes := regsOf 1 d }
  | .atomUMinu d a _ => { reads := readsLane (regsOf 2 a) 0 ++ readsLane (regsOf 1 d) 0, writes := regsOf 1 d }
  | .atomUMaxu d a _ => { reads := readsLane (regsOf 2 a) 0 ++ readsLane (regsOf 1 d) 0, writes := regsOf 1 d }
  | .atomOExch d a _ => { reads := readsLane (regsOf 2 a) 0 ++ readsLane (regsOf 1 d) 0, writes := regsOf 1 d }
  | .atomOCas d a _ => { reads := readsLane (regsOf 2 a) 0 ++ readsLane (regsOf 2 d) 0, writes := regsOf 1 d }
  | .atomOAdd64 d a _ => { reads := readsLane (regsOf 2 a) 0 ++ readsLane (regsOf 2 d) 0, writes := regsOf 2 d }
  | .atomOExch64 d a _ => { reads := readsLane (regsOf 2 a) 0 ++ readsLane (regsOf 2 d) 0, writes := regsOf 2 d }
  | .atomOCas64 d a _ => { reads := readsLane (regsOf 2 a) 0 ++ readsLane (regsOf 4 d) 0, writes := regsOf 2 d }
  | .atomUExch d a _ => { reads := readsLane (regsOf 2 a) 0 ++ readsLane (regsOf 1 d) 0, writes := regsOf 1 d }
  | .atomUCas d a _ => { reads := readsLane (regsOf 2 a) 0 ++ readsLane (regsOf 2 d) 0, writes := regsOf 1 d }
  | .atomUAdd64 d a _ => { reads := readsLane (regsOf 2 a) 0 ++ readsLane (regsOf 2 d) 0, writes := regsOf 2 d }
  | .atomUExch64 d a _ => { reads := readsLane (regsOf 2 a) 0 ++ readsLane (regsOf 2 d) 0, writes := regsOf 2 d }
  | .atomUCas64 d a _ => { reads := readsLane (regsOf 2 a) 0 ++ readsLane (regsOf 4 d) 0, writes := regsOf 2 d }
  | .fatomOFadd d a _ => { reads := readsLane (regsOf 2 a) 0 ++ readsLane (regsOf 1 d) 0, writes := regsOf 1 d }
  | .fatomOFmin d a _ => { reads := readsLane (regsOf 2 a) 0 ++ readsLane (regsOf 1 d) 0, writes := regsOf 1 d }
  | .fatomOFmax d a _ => { reads := readsLane (regsOf 2 a) 0 ++ readsLane (regsOf 1 d) 0, writes := regsOf 1 d }
  | .fatomODadd d a _ => { reads := readsLane (regsOf 2 a) 0 ++ readsLane (regsOf 2 d) 0, writes := regsOf 2 d }
  | .fatomOHadd2 d a _ => { reads := readsLane (regsOf 2 a) 0 ++ readsLane (regsOf 1 d) 0, writes := regsOf 1 d }
  | .fatomOBadd2 d a _ => { reads := readsLane (regsOf 2 a) 0 ++ readsLane (regsOf 1 d) 0, writes := regsOf 1 d }
  | .fatomUFadd d a _ => { reads := readsLane (regsOf 2 a) 0 ++ readsLane (regsOf 1 d) 0, writes := regsOf 1 d }
  | .fatomUFmin d a _ => { reads := readsLane (regsOf 2 a) 0 ++ readsLane (regsOf 1 d) 0, writes := regsOf 1 d }
  | .fatomUFmax d a _ => { reads := readsLane (regsOf 2 a) 0 ++ readsLane (regsOf 1 d) 0, writes := regsOf 1 d }
  | .fatomUDadd d a _ => { reads := readsLane (regsOf 2 a) 0 ++ readsLane (regsOf 2 d) 0, writes := regsOf 2 d }
  | .fatomUHadd2 d a _ => { reads := readsLane (regsOf 2 a) 0 ++ readsLane (regsOf 1 d) 0, writes := regsOf 1 d }
  | .fatomUBadd2 d a _ => { reads := readsLane (regsOf 2 a) 0 ++ readsLane (regsOf 1 d) 0, writes := regsOf 1 d }
  | .cpAsyncIn d a _ _ => { reads := readsLane (regsOf 2 a) 0 ++ readsLane (regsOf 1 d) 0 }
  | .cpAsyncOut d a _ _ => { reads := readsLane (regsOf 2 a) 0 ++ readsLane (regsOf 1 d) 0 }
  | .cpRows d a _ => { reads := readsLane (regsOf 2 a) 0 ++ readsLane (regsOf 1 d) 0 }
  | .cpMcastO d a _ => { reads := readsLane (regsOf 2 a) 0 ++ readsLane (regsOf 1 d) 0 }
  | .cpMcastU d a _ => { reads := readsLane (regsOf 2 a) 0 ++ readsLane (regsOf 1 d) 0 }
  | .cbufGet d a _ => { reads := readsLane (regsOf 2 a) 0, writes := regsOf 1 d }
  | .cbufPut d a _ => { reads := readsLane (regsOf 2 a) 0, writes := regsOf 1 d }
  | .qpushO d a => { reads := readsLane (regsOf 2 a) 0 ++ readsLane (regsOf 1 d) 0 }
  | .qpushU d a => { reads := readsLane (regsOf 2 a) 0 ++ readsLane (regsOf 1 d) 0 }
  | .qpop d a => { reads := readsLane (regsOf 2 a) 0, writes := regsOf 1 d }
  | .bucketArrive d a => { reads := readsLane (regsOf 2 a) 0, writes := regsOf 1 d }
  | .barTag d a _ => { reads := readsLane (regsOf 2 a) 0 ++ readsLane (regsOf 1 d) 0 }
  | .rcpReg d a => { reads := readsLane (regsOf 2 a) 0 ++ readsLane (regsOf 1 d) 0 }
  | .rcpDrop a => { reads := readsLane (regsOf 2 a) 0 }
  | .rcpPin a => { reads := readsLane (regsOf 2 a) 0 }
  | .rcpUnpin a => { reads := readsLane (regsOf 2 a) 0 }
  | .tileState d a => { reads := readsLane (regsOf 2 a) 0, writes := regsOf 1 d }
  | .mmLdw a _ => { reads := readsLane (regsOf 2 a) 0 }
  | .mmSwapw a _ => { reads := readsLane (regsOf 2 a) 0 }
  | .mmRun a _ => { reads := readsLane (regsOf 2 a) 0 }
  | .mmSwapacc a _ => { reads := readsLane (regsOf 2 a) 0 }
  | .mmAccrd a _ => { reads := readsLane (regsOf 2 a) 0 }
  | .mmAccwr a _ => { reads := readsLane (regsOf 2 a) 0 }
  | .mmDrain a _ => { reads := readsLane (regsOf 2 a) 0 }
  | .mmRegrow a _ => { reads := readsLane (regsOf 2 a) 0 }
  | .mmAmax d a => { reads := readsLane (regsOf 2 a) 0, writes := regsOf 1 d }
  | .bsAsm a _ => { reads := readsLane (regsOf 2 a) 0 }
  | .bsLu a _ => { reads := readsLane (regsOf 2 a) 0 }
  | .bsLdl a _ => { reads := readsLane (regsOf 2 a) 0 }
  | .bsTrsv a _ => { reads := readsLane (regsOf 2 a) 0 }
  | .bsPgs a _ => { reads := readsLane (regsOf 2 a) 0 }
  | .bsBack a _ => { reads := readsLane (regsOf 2 a) 0 }
  | .bsStat d a => { reads := readsLane (regsOf 2 a) 0, writes := regsOf 1 d }
  | .srtKeys a _ => { reads := readsLane (regsOf 2 a) 0 }
  | .srtPairs a _ => { reads := readsLane (regsOf 2 a) 0 }
  | .trvBuild a _ => { reads := readsLane (regsOf 2 a) 0 }
  | .trvQuery a _ => { reads := readsLane (regsOf 2 a) 0 }
  | .phaseRegroup a _ => { reads := readsLane (regsOf 2 a) 0 }
  | .phaseRestore a _ => { reads := readsLane (regsOf 2 a) 0 }
  | .collPost a _ => { reads := readsLane (regsOf 2 a) 0 }
  | .gNop => {}
  | .gMov d a => { reads := readsUniform (regsOf 1 a), writes := regsOf 1 d }
  | .gAdd d a b => { reads := readsUniform (regsOf 1 a) ++ readsUniform (regsOf 1 b), writes := regsOf 1 d }
  | .gSub d a b => { reads := readsUniform (regsOf 1 a) ++ readsUniform (regsOf 1 b), writes := regsOf 1 d }
  | .gMul d a b => { reads := readsUniform (regsOf 1 a) ++ readsUniform (regsOf 1 b), writes := regsOf 1 d }
  | .gMulh d a b => { reads := readsUniform (regsOf 1 a) ++ readsUniform (regsOf 1 b), writes := regsOf 1 d }
  | .gMulhU d a b => { reads := readsUniform (regsOf 1 a) ++ readsUniform (regsOf 1 b), writes := regsOf 1 d }
  | .gAnd d a b => { reads := readsUniform (regsOf 1 a) ++ readsUniform (regsOf 1 b), writes := regsOf 1 d }
  | .gOr d a b => { reads := readsUniform (regsOf 1 a) ++ readsUniform (regsOf 1 b), writes := regsOf 1 d }
  | .gXor d a b => { reads := readsUniform (regsOf 1 a) ++ readsUniform (regsOf 1 b), writes := regsOf 1 d }
  | .gShl d a b => { reads := readsUniform (regsOf 1 a) ++ readsUniform (regsOf 1 b), writes := regsOf 1 d }
  | .gShr d a b => { reads := readsUniform (regsOf 1 a) ++ readsUniform (regsOf 1 b), writes := regsOf 1 d }
  | .gSar d a b => { reads := readsUniform (regsOf 1 a) ++ readsUniform (regsOf 1 b), writes := regsOf 1 d }
  | .gCmp d a b _ => { reads := readsUniform (regsOf 1 a) ++ readsUniform (regsOf 1 b), writes := regsOf 1 d }
  | .gSel d a b => { reads := readsUniform (regsOf 1 a) ++ readsUniform (regsOf 1 b) ++ readsUniform (regsOf 1 d), writes := regsOf 1 d }
  | .gMin d a b => { reads := readsUniform (regsOf 1 a) ++ readsUniform (regsOf 1 b), writes := regsOf 1 d }
  | .gMinU d a b => { reads := readsUniform (regsOf 1 a) ++ readsUniform (regsOf 1 b), writes := regsOf 1 d }
  | .gMax d a b => { reads := readsUniform (regsOf 1 a) ++ readsUniform (regsOf 1 b), writes := regsOf 1 d }
  | .gMaxU d a b => { reads := readsUniform (regsOf 1 a) ++ readsUniform (regsOf 1 b), writes := regsOf 1 d }
  | .gRet a => { reads := readsUniform (regsOf 2 a) }
  | .gYield => {}
  | .gExit => {}
  | .gLanes a => { reads := readsUniform (wide width a), shapeOk := wideOk width a }
  | .gElect d => { writes := regsOf 1 d }
  | .gEret => {}
  | .gClockO d => { writes := regsOf 2 d }
  | .gClockU d => { writes := regsOf 2 d }
  | .gLaunch d a => { reads := readsUniform (regsOf 2 a), writes := regsOf 1 d }
  | .gTrylaunch d a => { reads := readsUniform (regsOf 2 a), writes := regsOf 1 d }
  | .gReplay d a b => { reads := readsUniform (regsOf 2 a) ++ readsUniform (regsOf 2 b), writes := regsOf 1 d }
  | .gInvoke d a => { reads := readsUniform (regsOf 2 a), writes := regsOf 2 d }
  | .gInvokeh d a b => { reads := readsUniform (regsOf 2 a) ++ readsUniform (regsOf 2 b), writes := regsOf 2 d }
  | .gAwait d a => { reads := readsUniform (regsOf 2 a), writes := regsOf 1 d }
  | .gAwaitT d a => { reads := readsUniform (regsOf 2 a), writes := regsOf 1 d }
  | .gHstat d a => { reads := readsUniform (regsOf 2 a), writes := regsOf 1 d }
  | .gWsplit a b => { reads := readsUniform (regsOf 2 a) ++ readsUniform (regsOf 2 b) }
  | .gWgive => {}
  | .gBar a => { reads := readsUniform (regsOf 1 a) }
  | .gBarrive a => { reads := readsUniform (regsOf 1 a) }
  | .gBarwait a => { reads := readsUniform (regsOf 1 a) }
  | .gWait _ => {}
  | .gSeal d => { writes := regsOf 1 d }
  | .gBwait a => { reads := readsUniform (regsOf 1 a) }
  | .gFenceRel _ => {}
  | .gFenceAcq _ => {}
  | .gFenceFull _ => {}
  | .gStepadv a _ => { reads := readsUniform (regsOf 1 a) }
  | .gStepget d _ => { writes := regsOf 2 d }
  | .gSweep _ => {}
  | .gSweepwait d _ => { writes := regsOf 1 d }
  | .gJmp _ => {}
  | .gBrNz a _ => { reads := readsUniform (regsOf 1 a) }
  | .gBrZ a _ => { reads := readsUniform (regsOf 1 a) }
  | .gCall a _ => { writes := regsOf 2 a }
  | .gLoop a _ => { reads := readsUniform (regsOf 1 a), writes := regsOf 1 a }
  | .gLi d _ => { writes := regsOf 1 d }
  | .gLui d a _ => { reads := readsUniform (regsOf 1 a), writes := regsOf 1 d }
  | .gAddImm d a _ => { reads := readsUniform (regsOf 1 a), writes := regsOf 1 d }
  | .gAndImm d a _ => { reads := readsUniform (regsOf 1 a), writes := regsOf 1 d }
  | .gOrImm d a _ => { reads := readsUniform (regsOf 1 a), writes := regsOf 1 d }
  | .gXorImm d a _ => { reads := readsUniform (regsOf 1 a), writes := regsOf 1 d }
  | .gCsrr d _ => { writes := regsOf 1 d }
  | .gCsrw a c => { reads := [csrRead c a] }
  | .gCsrs a c => { reads := [csrRead c a] }
  | .gCsrc a c => { reads := [csrRead c a] }
  | .gTrap _ => {}
  | .gFeat d _ => { writes := regsOf 1 d }
  | .gSetroute _ _ _ => {}
  | .issueCycle _ => {}
  | .rejoinStall _ => {}
  | .scoreboardedResult _ _ => {}
  | .exitWaitEnd _ => {}
  | .heldAccessResume _ _ => {}
  | .heldStoreApply _ => {}
  | .copyComplete _ => {}
  | .rowGatherComplete _ => {}
  | .multicastComplete _ => {}
  | .cbufGetGrant _ => {}
  | .queuePushReserve _ => {}
  | .queuePopDeliver _ => {}
  | .benchTakeItem _ _ => {}
  | .solverTakeItem _ => {}
  | .sortTakeRange _ _ => {}
  | .engineCommandComplete _ => {}
  | .drainSweepOrder _ => {}
  | .sweepComplete _ => {}
  | .phaseCompactorRun _ => {}
  | .collStart _ => {}
  | .collGate _ => {}
  | .collTimeout _ => {}
  | .recomputeEntryWaitEnd _ => {}
  | .recomputeComplete _ => {}
  | .recipeChainEnd _ => {}
  | .tileEvictDrop _ => {}
  | .patrolScrub _ => {}
  | .ticketSegmentApply _ => {}
  | .admissionDecision _ => {}
  | .gangPlace _ => {}
  | .gangSwapOut _ => {}
  | .reservationDeadline _ => {}
  | .overrun _ => {}
  | .launchKill _ => {}
  | .launchComplete _ => {}
  | .replayStart _ => {}
  | .replayComplete _ => {}
  | .claimExpire _ => {}
  | .changeDependentAction => {}
  | .rdreq _ _ => {}
  | .rdrsp _ _ _ => {}
  | .wr _ _ => {}
  | .wrack _ => {}
  | .atomreq _ _ => {}
  | .atomrsp _ _ => {}
  | .failrsp _ _ => {}
  | .invoke _ _ => {}
  | .claimmsg _ _ => {}
  | .claimres _ _ => {}
  | .signal _ _ => {}
  | .coll _ _ => {}
  | .idle _ _ _ => {}
  | .nack _ _ => {}
  | .mgmt _ _ => {}
  | .linkDown _ => {}
  | .requestTimeout _ => {}
  | .rdmaWrite _ _ _ => {}
  | .rdmaWriteWithImmediate _ _ _ _ => {}
  | .rdmaRead _ _ _ => {}
  | .roceInvalidRequest _ => {}
  | .identify _ => {}
  | .attest _ _ => {}
  | .fwload _ _ => {}
  | .imageload _ _ _ _ => {}
  | .imageunload _ _ => {}
  | .launch _ _ _ _ => {}
  | .kill _ _ => {}
  | .resume _ _ => {}
  | .map _ _ _ _ _ _ _ => {}
  | .unmap _ _ _ _ => {}
  | .change _ _ _ _ _ => {}
  | .free _ _ _ _ => {}
  | .migrate _ _ _ _ => {}
  | .drop _ _ _ => {}
  | .asid _ _ _ => {}
  | .decaytab _ _ _ => {}
  | .span _ _ => {}
  | .ctxmem _ _ _ => {}
  | .read _ _ => {}
  | .route _ _ _ => {}
  | .lose _ _ => {}
  | .assume _ _ _ => {}
  | .rkey _ _ _ _ _ _ => {}
  | .hcpEventAck _ _ => {}
  | .hcpEventResend _ => {}
  | .hold _ => {}
  | .state => {}
  | .setip _ _ _ => {}
  | .session _ _ _ => {}
  | .telemetry _ => {}
  | .event => {}
  | .sbIdentify => {}
  | .dynamicAddressAssign _ => {}
  | .sbrstn _ => {}
  | .powerOnReset => {}
  | .bootVerify => {}
  | .go _ _ => {}
  | .cbget _ _ => {}
  | .cbput _ _ => {}
  | .faultClear _ _ => {}
  | .porterWindowWrite _ _ => {}
  | .porterCommandComplete _ _ => {}
  | .porterEcall _ _ => {}
  | .porterException _ _ => {}
  | .porterInstruction _ _ => {}
  | .flitCrcFailure _ => {}
  | .unknownFlitType _ _ _ => {}
  | .hcpUnlistedType _ _ => {}
  | .hcpFrameDiscard _ => {}
  | .sidebandBadRequest _ => {}
  | .congestionNotificationPacket => {}
  | .priorityFlowControl _ => {}
  | .ethernetLink _ => {}

/-- Every register an instruction names (R41). -/
def Uses.named (u : Uses) : List Reg := u.reads.map ReadUse.reg ++ u.writes

/-- The lanes a source read of an instruction's active lanes reads (R37, R125, R186, R207). -/
def readLanes (g : Group) (now : Nat) (active : LaneMask) : ReadUse → List (Nat × List Nat)
  | .lane _ rt => (g.list active).map fun i => (i, [g.sourceLane rt i])
  | .uniform _ => match g.list active with
    | [] => []
    | i :: r => (i :: r).map fun j => (j, [i])
  | .perm _ ix rt => (g.list active).map fun i => (i, [(g.read now (g.sourceLane rt i) ix).toNat % g.width])
  | .block _ => (g.list active).map fun i => (i, (List.range 5).map fun k => i / 32 * 32 + k)

end Sys2Proof.Machine
end

