-- ==== Sys2Proof/Machine/Flags.lean ====
section
/-! DEFINITION. What a lane instruction leaves: the operands of R175, its results with their latency (R91, R93, R176), the sticky flags of R81 to R83 with FP_EXC, and the sequential successor. -/
namespace Sys2Proof.Machine

/-- Operand a or b of R175: a register read through a route. -/
def Group.src (g : Group) (now i : Nat) (r : Reg) (rt : Route) : Word := g.read now (g.sourceLane rt i) r
/-- A pair operand: both registers from one source lane (R97, R175). -/
def Group.srcPair (g : Group) (now i : Nat) (r : Reg) (rt : Route) : DWord := g.readPair now (g.sourceLane rt i) r

/-- When the results of an instruction are read (R91, R93): after a fixed latency, or when the scoreboard delivers them. -/
inductive Latency where
  | fixed (n : Nat)
  | scoreboard (n : Nat)
  deriving DecidableEq, Repr

/-- What a lane instruction computes in one lane: register results and flags. -/
structure LaneRes where
  writes : List (Reg × Word)
  flags : Flags := 0
  deriving DecidableEq, Repr

/-- One register result without flags. -/
def LaneRes.word (d : Reg) (v : Word) : LaneRes := { writes := [(d, v)] }
/-- A pair result. -/
def LaneRes.pair (d : Reg) (v : DWord) : LaneRes := { writes := [(d, loWord v), (d.plus 1, hiWord v)] }

/-- The results of every active lane, ascending. -/
def Group.results (g : Group) (m : LaneMask) (f : Nat → LaneRes) : List (Nat × LaneRes) := (g.list m).map fun i => (i, f i)

/-- Register writes by lane. -/
def laneWrites (rs : List (Nat × LaneRes)) : List (Nat × Reg × Word) := rs.flatMap fun r => r.2.writes.map fun w => (r.1, w.1, w.2)

/-- The flags a lane's result raises; none for a lane that is not active (R82). -/
def flagsOf (rs : List (Nat × LaneRes)) (i : Nat) : Flags :=
  match rs.find? (fun r => r.1 == i) with
  | some r => r.2.flags
  | none => 0

/-- FPFLAGS with the raised flags added (R82). -/
def Group.raiseFlags (g : Group) (rs : List (Nat × LaneRes)) : Group :=
  { g with lanes := g.lanes.mapIdx fun i l => { l with fpflags := l.fpflags ||| flagsOf rs i } }

/-- The active lanes that raise a flag their FPEN enables (R83). -/
def Group.trapping (g : Group) (rs : List (Nat × LaneRes)) : LaneMask :=
  maskOf ((rs.filter fun r => r.2.flags &&& (g.lane r.1).fpen != 0).map Prod.fst)

/-- Results written and the lanes moved on. -/
def State.deliver (s : State) (p : Packet) (g : Group) (lat : Latency) (ws : List (Nat × Reg × Word)) : State :=
  match lat with
  | .fixed n => s.finish p (g.writesFixed s.cycle n p.cur.pc ws)
  | .scoreboard n => (s.finish p g).post p.gid p.cur.pc p.cur.lanes ((ws.map fun w => w.2.1).eraseDups) ws n

/-- A lane instruction (R83, R175, R177): every active lane's result, or FP_EXC with the flags raised and nothing written. When half 0 has trapped already, an instruction that would trap has no effect. -/
def State.lanewise (s : State) (p : Packet) (g : Group) (lat : Latency) (f : Nat → LaneRes) : State :=
  let rs := g.results p.cur.lanes f
  let bad := g.trapping rs
  if bad = 0 then s.deliver p (g.raiseFlags rs) lat (laneWrites rs)
  else if p.trap.isSome then s
  else (s.setGroup p.gid (g.raiseFlags rs)).trapAt p.gid p.cur .fpExc bad 0

/-- A lane instruction of the packet in issue. -/
def laneInstr (s : State) (lat : Latency) (f : Group → Nat → LaneRes) : Host.Outcome State Fault Refusal :=
  s.issue fun p g => s.lanewise p g lat (f g)

/-- Cycles before the result is there. -/
def Latency.cycles (l : Latency) : Nat := match l with
  | .fixed n => n
  | .scoreboard n => n
/-- The fetch suspension of R351: while any lane of the group has a 1 in FPEN, the next packet issues no earlier than the result. -/
def State.suspend (s : State) (g : Group) (lat : Latency) : State :=
  if g.lanes.any fun l => l.fpen != 0 then { s with packet := s.packet.map fun (p : Packet) => { p with stall := max p.stall (lat.cycles - 1) } } else s
/-- An instruction whose flags may trap: FP32, FP64, packed and conversion instructions (R83, R351). -/
def floatInstr (s : State) (lat : Latency) (f : Group → Nat → LaneRes) : Host.Outcome State Fault Refusal :=
  s.issue fun p g => (s.suspend g lat).lanewise p g lat (f g)

end Sys2Proof.Machine
end

