-- ==== Sys2Proof/Machine/LaneInt.lean ====
section
/-! DEFINITION. Lane integer arithmetic, its immediate forms, moves and exchange across lanes (R178 to R187). -/
namespace Sys2Proof.Machine

/-! ## The functions of R55 and R178 to R183 -/

/-- Bits [63:32] of the signed product. -/
def mulHigh (a b : Word) : Word := hiWord (a.signExtend 64 * b.signExtend 64)
/-- Bits [63:32] of the unsigned product. -/
def mulHighU (a b : Word) : Word := hiWord (a.setWidth 64 * b.setWidth 64)
/-- a × 2^sh with sh = b mod 32. -/
def shiftLeft (a b : Word) : Word := a <<< (b.toNat % 32)
/-- ⌊a / 2^sh⌋, unsigned. -/
def shiftRight (a b : Word) : Word := a >>> (b.toNat % 32)
/-- ⌊a / 2^sh⌋, signed. -/
def shiftArith (a b : Word) : Word := a.sshiftRight (b.toNat % 32)
/-- a rotated left by sh. -/
def rotateLeft (a b : Word) : Word := a.rotateLeft (b.toNat % 32)
/-- The smaller, signed. -/
def minSigned (a b : Word) : Word := if a.toInt ≤ b.toInt then a else b
/-- The larger, signed. -/
def maxSigned (a b : Word) : Word := if a.toInt ≤ b.toInt then b else a
/-- The smaller, unsigned. -/
def minUnsigned (a b : Word) : Word := if a.toNat ≤ b.toNat then a else b
/-- The larger, unsigned. -/
def maxUnsigned (a b : Word) : Word := if a.toNat ≤ b.toNat then b else a
/-- a when a ≥ 0, else −a. -/
def absWord (a : Word) : Word := if a.toInt < 0 then -a else a
/-- Number of leading zero bits. -/
def leadingZeros (a : Word) : Word := BitVec.ofNat 32 (32 - bitLen a.toNat)
/-- Number of 1 bits. -/
def onesCount (a : Word) : Word := BitVec.ofNat 32 ((List.range 32).countP fun k => a.getLsbD k)
/-- The word whose bit k is a test of k. -/
def wordOf (f : Nat → Bool) : Word := (List.range 32).foldl (fun w k => if f k then w ||| (1#32 <<< k) else w) 0
/-- Bit k of a at bit 31 − k. -/
def reverseBits (a : Word) : Word := wordOf fun k => a.getLsbD (31 - k)
/-- An integer replaced by the nearest bound of a range (R55). -/
def clampInt (lo hi v : Int) : Int := if v < lo then lo else if v > hi then hi else v
/-- A saturated signed word (R55). -/
def saturateSigned (v : Int) : Word := BitVec.ofInt 32 (clampInt (-2147483648) 2147483647 v)
/-- A saturated unsigned word (R55). -/
def saturateUnsigned (v : Int) : Word := BitVec.ofInt 32 (clampInt 0 4294967295 v)
/-- Position and length of a bit field (R180). -/
def fieldOf (b : Word) : Nat × Nat :=
  let pos := b.toNat % 32
  (pos, min (b.toNat / 256 % 64) (32 - pos))
/-- The field f of R180. -/
def fieldBits (a b : Word) : Nat := a.toNat / 2 ^ (fieldOf b).1 % 2 ^ (fieldOf b).2
/-- bfxu. -/
def extractUnsigned (a b : Word) : Word := BitVec.ofNat 32 (fieldBits a b)
/-- bfx: sign-extended from bit len − 1. -/
def extractSigned (a b : Word) : Word :=
  let f := fieldBits a b
  let len := (fieldOf b).2
  if len = 0 then 0 else if f < 2 ^ (len - 1) then BitVec.ofNat 32 f else BitVec.ofInt 32 ((f : Int) - 2 ^ len)
/-- bfi: c with the field replaced by a mod 2^len. -/
def insertField (a b c : Word) : Word :=
  let m : Word := BitVec.ofNat 32 ((2 ^ (fieldOf b).2 - 1) * 2 ^ (fieldOf b).1)
  (c &&& ~~~m) ||| ((a <<< (fieldOf b).1) &&& m)
/-- Does a cc b hold (R113, R181)? -/
def condHolds (c : Cond) (a b : Word) : Bool :=
  match c with
  | .eq => a == b
  | .ne => a != b
  | .lt => decide (a.toInt < b.toInt)
  | .le => decide (a.toInt ≤ b.toInt)
  | .gt => decide (b.toInt < a.toInt)
  | .ge => decide (b.toInt ≤ a.toInt)
  | .ltu => decide (a.toNat < b.toNat)
  | .leu => decide (a.toNat ≤ b.toNat)
  | .gtu => decide (b.toNat < a.toNat)
  | .geu => decide (b.toNat ≤ a.toNat)
/-- 1 or 0. -/
def truth (b : Bool) : Word := if b then 1 else 0
/-- The gate functions of R183. -/
def gate (f : Lop3Fn) (a b c : Word) : Word :=
  match f with
  | .xor3 => a ^^^ b ^^^ c
  | .maj => (a &&& b) ||| (a &&& c) ||| (b &&& c)
  | .mux => (a &&& c) ||| (b &&& ~~~c)
  | .and3 => a &&& b &&& c
  | .or3 => a ||| b ||| c
  | .andor => (a &&& b) ||| c
  | .orand => (a ||| b) &&& c
  | .xorand => (a ^^^ b) &&& c
  | .andxor => (a &&& b) ^^^ c
  | .orxor => (a ||| b) ^^^ c
/-- An input inverted when its mask bit is 1 (R183). -/
def invertIf (on : Bool) (x : Word) : Word := if on then ~~~x else x
/-- lop3: m[2] inverts a, m[1] inverts b, m[0] inverts c (R183). -/
def lop3Result (f : Lop3Fn) (m : BitVec 3) (a b c : Word) : Word :=
  gate f (invertIf (m.getLsbD 2) a) (invertIf (m.getLsbD 1) b) (invertIf (m.getLsbD 0) c)

/-! ## The shapes of the integer forms -/

/-- A form with one source. -/
def int1 (s : State) (f : Word → Word) (d a : Reg) (r : Route) : Host.Outcome State Fault Refusal :=
  laneInstr s (.fixed 2) fun g i => .word d (f (g.src s.cycle i a r))
/-- A form with two sources. -/
def int2 (s : State) (f : Word → Word → Word) (d a : Reg) (r : Route) (b : Reg) (q : Route) : Host.Outcome State Fault Refusal :=
  laneInstr s (.fixed 2) fun g i => .word d (f (g.src s.cycle i a r) (g.src s.cycle i b q))
/-- A form with two sources and the prior vd of its own lane (R175). -/
def int3 (s : State) (f : Word → Word → Word → Word) (d a : Reg) (r : Route) (b : Reg) (q : Route) : Host.Outcome State Fault Refusal :=
  laneInstr s (.fixed 2) fun g i => .word d (f (g.src s.cycle i a r) (g.src s.cycle i b q) (g.read s.cycle i d))
/-- A form that writes a pair (R179). -/
def intPair (s : State) (f : Word → Word → Word × Word) (d a : Reg) (r : Route) (b : Reg) (q : Route) : Host.Outcome State Fault Refusal :=
  laneInstr s (.fixed 2) fun g i =>
    let v := f (g.src s.cycle i a r) (g.src s.cycle i b q)
    { writes := [(d, v.1), (d.plus 1, v.2)] }
/-- A form with an immediate; its source carries no route (R182). -/
def intImm (s : State) (f : Word → Word) (d a : Reg) : Host.Outcome State Fault Refusal :=
  laneInstr s (.fixed 2) fun g i => .word d (f (g.read s.cycle i a))

/-! ## Integer codes (R178 to R181) -/

/-- R178. -/
def execAdd (d a : Reg) (r : Route) (b : Reg) (q : Route) (s : State) : Host.Outcome State Fault Refusal := int2 s (· + ·) d a r b q
/-- R178. -/
def execSub (d a : Reg) (r : Route) (b : Reg) (q : Route) (s : State) : Host.Outcome State Fault Refusal := int2 s (· - ·) d a r b q
/-- R178. -/
def execMul (d a : Reg) (r : Route) (b : Reg) (q : Route) (s : State) : Host.Outcome State Fault Refusal := int2 s (· * ·) d a r b q
/-- R178. -/
def execMulh (d a : Reg) (r : Route) (b : Reg) (q : Route) (s : State) : Host.Outcome State Fault Refusal := int2 s mulHigh d a r b q
/-- R178. -/
def execMulhu (d a : Reg) (r : Route) (b : Reg) (q : Route) (s : State) : Host.Outcome State Fault Refusal := int2 s mulHighU d a r b q
/-- R178. -/
def execMad (d a : Reg) (r : Route) (b : Reg) (q : Route) (s : State) : Host.Outcome State Fault Refusal := int3 s (fun a b c => a * b + c) d a r b q
/-- R178. -/
def execAnd (d a : Reg) (r : Route) (b : Reg) (q : Route) (s : State) : Host.Outcome State Fault Refusal := int2 s (· &&& ·) d a r b q
/-- R178. -/
def execOr (d a : Reg) (r : Route) (b : Reg) (q : Route) (s : State) : Host.Outcome State Fault Refusal := int2 s (· ||| ·) d a r b q
/-- R178. -/
def execXor (d a : Reg) (r : Route) (b : Reg) (q : Route) (s : State) : Host.Outcome State Fault Refusal := int2 s (· ^^^ ·) d a r b q
/-- R178. -/
def execShl (d a : Reg) (r : Route) (b : Reg) (q : Route) (s : State) : Host.Outcome State Fault Refusal := int2 s shiftLeft d a r b q
/-- R178. -/
def execShr (d a : Reg) (r : Route) (b : Reg) (q : Route) (s : State) : Host.Outcome State Fault Refusal := int2 s shiftRight d a r b q
/-- R178. -/
def execSar (d a : Reg) (r : Route) (b : Reg) (q : Route) (s : State) : Host.Outcome State Fault Refusal := int2 s shiftArith d a r b q
/-- R178. -/
def execRot (d a : Reg) (r : Route) (b : Reg) (q : Route) (s : State) : Host.Outcome State Fault Refusal := int2 s rotateLeft d a r b q
/-- R178. -/
def execMin (d a : Reg) (r : Route) (b : Reg) (q : Route) (s : State) : Host.Outcome State Fault Refusal := int2 s minSigned d a r b q
/-- R178. -/
def execMax (d a : Reg) (r : Route) (b : Reg) (q : Route) (s : State) : Host.Outcome State Fault Refusal := int2 s maxSigned d a r b q
/-- R178. -/
def execMinu (d a : Reg) (r : Route) (b : Reg) (q : Route) (s : State) : Host.Outcome State Fault Refusal := int2 s minUnsigned d a r b q
/-- R178. -/
def execMaxu (d a : Reg) (r : Route) (b : Reg) (q : Route) (s : State) : Host.Outcome State Fault Refusal := int2 s maxUnsigned d a r b q
/-- R178. -/
def execAbs (d a : Reg) (r : Route) (s : State) : Host.Outcome State Fault Refusal := int1 s absWord d a r
/-- R178. -/
def execSel (d a : Reg) (r : Route) (b : Reg) (q : Route) (s : State) : Host.Outcome State Fault Refusal := int3 s (fun a b c => if c ≠ 0 then a else b) d a r b q
/-- R178. -/
def execClz (d a : Reg) (r : Route) (s : State) : Host.Outcome State Fault Refusal := int1 s leadingZeros d a r
/-- R178. -/
def execPopc (d a : Reg) (r : Route) (s : State) : Host.Outcome State Fault Refusal := int1 s onesCount d a r
/-- R178. -/
def execBrev (d a : Reg) (r : Route) (s : State) : Host.Outcome State Fault Refusal := int1 s reverseBits d a r
/-- R180. -/
def execBfx (d a : Reg) (r : Route) (b : Reg) (q : Route) (s : State) : Host.Outcome State Fault Refusal := int2 s extractSigned d a r b q
/-- R180. -/
def execBfxu (d a : Reg) (r : Route) (b : Reg) (q : Route) (s : State) : Host.Outcome State Fault Refusal := int2 s extractUnsigned d a r b q
/-- R180. -/
def execBfi (d a : Reg) (r : Route) (b : Reg) (q : Route) (s : State) : Host.Outcome State Fault Refusal := int3 s insertField d a r b q
/-- R179. -/
def execAddc (d a : Reg) (r : Route) (b : Reg) (q : Route) (s : State) : Host.Outcome State Fault Refusal := intPair s (fun a b => (a + b, truth (decide (2 ^ 32 ≤ a.toNat + b.toNat)))) d a r b q
/-- R179. -/
def execSubb (d a : Reg) (r : Route) (b : Reg) (q : Route) (s : State) : Host.Outcome State Fault Refusal := intPair s (fun a b => (a - b, truth (decide (a.toNat < b.toNat)))) d a r b q
/-- R178, R55. -/
def execAddS (d a : Reg) (r : Route) (b : Reg) (q : Route) (s : State) : Host.Outcome State Fault Refusal := int2 s (fun a b => saturateSigned (a.toInt + b.toInt)) d a r b q
/-- R178, R55. -/
def execAddUs (d a : Reg) (r : Route) (b : Reg) (q : Route) (s : State) : Host.Outcome State Fault Refusal := int2 s (fun a b => saturateUnsigned (a.toNat + b.toNat)) d a r b q
/-- R178, R55. -/
def execSubS (d a : Reg) (r : Route) (b : Reg) (q : Route) (s : State) : Host.Outcome State Fault Refusal := int2 s (fun a b => saturateSigned (a.toInt - b.toInt)) d a r b q
/-- R178, R55. -/
def execSubUs (d a : Reg) (r : Route) (b : Reg) (q : Route) (s : State) : Host.Outcome State Fault Refusal := int2 s (fun a b => saturateUnsigned ((a.toNat : Int) - b.toNat)) d a r b q
/-- R181. -/
def execCmpEq (d a : Reg) (r : Route) (b : Reg) (q : Route) (s : State) : Host.Outcome State Fault Refusal := int2 s (fun a b => truth (condHolds .eq a b)) d a r b q
/-- R181. -/
def execCmpNe (d a : Reg) (r : Route) (b : Reg) (q : Route) (s : State) : Host.Outcome State Fault Refusal := int2 s (fun a b => truth (condHolds .ne a b)) d a r b q
/-- R181. -/
def execCmpLt (d a : Reg) (r : Route) (b : Reg) (q : Route) (s : State) : Host.Outcome State Fault Refusal := int2 s (fun a b => truth (condHolds .lt a b)) d a r b q
/-- R181. -/
def execCmpLe (d a : Reg) (r : Route) (b : Reg) (q : Route) (s : State) : Host.Outcome State Fault Refusal := int2 s (fun a b => truth (condHolds .le a b)) d a r b q
/-- R181. -/
def execCmpGt (d a : Reg) (r : Route) (b : Reg) (q : Route) (s : State) : Host.Outcome State Fault Refusal := int2 s (fun a b => truth (condHolds .gt a b)) d a r b q
/-- R181. -/
def execCmpGe (d a : Reg) (r : Route) (b : Reg) (q : Route) (s : State) : Host.Outcome State Fault Refusal := int2 s (fun a b => truth (condHolds .ge a b)) d a r b q
/-- R181. -/
def execCmpLtu (d a : Reg) (r : Route) (b : Reg) (q : Route) (s : State) : Host.Outcome State Fault Refusal := int2 s (fun a b => truth (condHolds .ltu a b)) d a r b q
/-- R181. -/
def execCmpLeu (d a : Reg) (r : Route) (b : Reg) (q : Route) (s : State) : Host.Outcome State Fault Refusal := int2 s (fun a b => truth (condHolds .leu a b)) d a r b q
/-- R181. -/
def execCmpGtu (d a : Reg) (r : Route) (b : Reg) (q : Route) (s : State) : Host.Outcome State Fault Refusal := int2 s (fun a b => truth (condHolds .gtu a b)) d a r b q
/-- R181. -/
def execCmpGeu (d a : Reg) (r : Route) (b : Reg) (q : Route) (s : State) : Host.Outcome State Fault Refusal := int2 s (fun a b => truth (condHolds .geu a b)) d a r b q

/-! ## Exchange (R184 to R187) -/

/-- The active lanes whose a is not 0. -/
def Group.nonzero (g : Group) (now : Nat) (m : LaneMask) (a : Reg) (r : Route) : LaneMask :=
  maskOf ((g.list m).filter fun i => g.src now i a r != 0)

/-- R184. -/
def execBallot (d a : Reg) (r : Route) (s : State) : Host.Outcome State Fault Refusal :=
  s.issue fun p g =>
    let m := g.nonzero s.cycle p.cur.lanes a r
    s.lanewise p g (.scoreboard 6) fun _ => if g.width = 64 then .pair d m else .word d (loWord m)
/-- A vote: the same 1 or 0 into every active lane (R185). -/
def vote (s : State) (f : List Word → Bool) (d a : Reg) (r : Route) : Host.Outcome State Fault Refusal :=
  s.issue fun p g =>
    let v := truth (f ((g.list p.cur.lanes).map fun i => g.src s.cycle i a r))
    s.lanewise p g (.scoreboard 6) fun _ => .word d v
/-- R185. -/
def execVoteAll (d a : Reg) (r : Route) (s : State) : Host.Outcome State Fault Refusal := vote s (fun l => l.all (· != 0)) d a r
/-- R185. -/
def execVoteAny (d a : Reg) (r : Route) (s : State) : Host.Outcome State Fault Refusal := vote s (fun l => l.any (· != 0)) d a r
/-- R185. -/
def execVoteUni (d a : Reg) (r : Route) (s : State) : Host.Outcome State Fault Refusal := vote s (fun l => l.all (· == l.headD 0)) d a r
/-- R186. -/
def execPerm (d a b : Reg) (q : Route) (s : State) : Host.Outcome State Fault Refusal :=
  laneInstr s (.scoreboard 6) fun g i => .word d (g.read s.cycle ((g.src s.cycle i b q).toNat % g.width) a)
/-- R187. -/
def execMov (d a : Reg) (r : Route) (s : State) : Host.Outcome State Fault Refusal := int1 s id d a r

/-! ## Immediate forms (R182, R183) -/

/-- R182. -/
def execAddImm (d a : Reg) (i : BitVec 13) (s : State) : Host.Outcome State Fault Refusal := intImm s (· + i.signExtend 32) d a
/-- R182. -/
def execAndImm (d a : Reg) (i : BitVec 13) (s : State) : Host.Outcome State Fault Refusal := intImm s (· &&& i.signExtend 32) d a
/-- R182. -/
def execOrImm (d a : Reg) (i : BitVec 13) (s : State) : Host.Outcome State Fault Refusal := intImm s (· ||| i.signExtend 32) d a
/-- R182. -/
def execXorImm (d a : Reg) (i : BitVec 13) (s : State) : Host.Outcome State Fault Refusal := intImm s (· ^^^ i.signExtend 32) d a
/-- R182. -/
def execShlImm (d a : Reg) (n : BitVec 5) (s : State) : Host.Outcome State Fault Refusal := intImm s (shiftLeft · (n.setWidth 32)) d a
/-- R182. -/
def execShrImm (d a : Reg) (n : BitVec 5) (s : State) : Host.Outcome State Fault Refusal := intImm s (shiftRight · (n.setWidth 32)) d a
/-- R182. -/
def execSarImm (d a : Reg) (n : BitVec 5) (s : State) : Host.Outcome State Fault Refusal := intImm s (shiftArith · (n.setWidth 32)) d a
/-- R182. -/
def execRotImm (d a : Reg) (n : BitVec 5) (s : State) : Host.Outcome State Fault Refusal := intImm s (rotateLeft · (n.setWidth 32)) d a
/-- R182. -/
def execMovImm (d : Reg) (i : BitVec 13) (s : State) : Host.Outcome State Fault Refusal := laneInstr s (.fixed 2) fun _ _ => .word d (i.signExtend 32)
/-- R183. -/
def execLop3 (d a b : Reg) (f : Lop3Fn) (m : BitVec 3) (s : State) : Host.Outcome State Fault Refusal :=
  laneInstr s (.fixed 2) fun g i => .word d (lop3Result f m (g.read s.cycle i a) (g.read s.cycle i b) (g.read s.cycle i d))
/-- R183: the complement. -/
def execLop3Not (d a b : Reg) (f : Lop3Fn) (m : BitVec 3) (s : State) : Host.Outcome State Fault Refusal :=
  laneInstr s (.fixed 2) fun g i => .word d (~~~ lop3Result f m (g.read s.cycle i a) (g.read s.cycle i b) (g.read s.cycle i d))

end Sys2Proof.Machine
end

