-- ==== Sys2Proof/Machine/Uniform.lean ====
section
/-! DEFINITION. Uniform data and control instructions, and the control instructions of lanes (R125 to R138, R142 to R145, R174, R188 to R191). -/
namespace Sys2Proof.Machine

/-! ## Sources and results (R125, R126) -/

/-- A source of a uniform instruction: the lowest active lane's register. -/
def Group.uread (g : Group) (now : Nat) (m : LaneMask) (r : Reg) : Word := g.read now (g.lowest m) r
/-- A pair source of a uniform instruction. -/
def Group.ureadPair (g : Group) (now : Nat) (m : LaneMask) (r : Reg) : DWord := g.readPair now (g.lowest m) r
/-- One result written in every active lane. -/
def Group.toAll (g : Group) (m : LaneMask) (ws : List (Reg × Word)) : List (Nat × Reg × Word) := (g.list m).flatMap fun i => ws.map fun w => (i, w.1, w.2)
/-- The writes of a pair. -/
def pairOf (d : Reg) (v : DWord) : List (Reg × Word) := [(d, loWord v), (d.plus 1, hiWord v)]
/-- A scoreboarded uniform result with its cycles from issue, and the lanes moved on (R126, R505). -/
def State.answerAfter (s : State) (n : Nat) (p : Packet) (g : Group) (ws : List (Reg × Word)) : State := s.deliver p g (.scoreboard n) (g.toAll p.cur.lanes ws)
/-- A result that arrives when its action has happened (R505): in the next cycle. -/
def State.answerWord (s : State) (p : Packet) (g : Group) (ws : List (Reg × Word)) : State := s.answerAfter 1 p g ws

/-- The mould of the data instructions (R129, R130): one result from the sources of the lowest active lane. -/
def uniformData (s : State) (d : Reg) (f : (Reg → Word) → Word) : Host.Outcome State Fault Refusal :=
  s.issue fun p g => s.deliver p g (.fixed 2) (g.toAll p.cur.lanes [(d, f (g.uread s.cycle p.cur.lanes))])

/-- R129. -/
def execGMov (d a : Reg) (s : State) : Host.Outcome State Fault Refusal := uniformData s d (fun x => x a)
/-- R129. -/
def execGAdd (d a b : Reg) (s : State) : Host.Outcome State Fault Refusal := uniformData s d (fun x => x a + x b)
/-- R129. -/
def execGSub (d a b : Reg) (s : State) : Host.Outcome State Fault Refusal := uniformData s d (fun x => x a - x b)
/-- R129. -/
def execGMul (d a b : Reg) (s : State) : Host.Outcome State Fault Refusal := uniformData s d (fun x => x a * x b)
/-- R129. -/
def execGMulh (d a b : Reg) (s : State) : Host.Outcome State Fault Refusal := uniformData s d (fun x => mulHigh (x a) (x b))
/-- R129. -/
def execGMulhU (d a b : Reg) (s : State) : Host.Outcome State Fault Refusal := uniformData s d (fun x => mulHighU (x a) (x b))
/-- R129. -/
def execGAnd (d a b : Reg) (s : State) : Host.Outcome State Fault Refusal := uniformData s d (fun x => x a &&& x b)
/-- R129. -/
def execGOr (d a b : Reg) (s : State) : Host.Outcome State Fault Refusal := uniformData s d (fun x => x a ||| x b)
/-- R129. -/
def execGXor (d a b : Reg) (s : State) : Host.Outcome State Fault Refusal := uniformData s d (fun x => x a ^^^ x b)
/-- R129. -/
def execGShl (d a b : Reg) (s : State) : Host.Outcome State Fault Refusal := uniformData s d (fun x => shiftLeft (x a) (x b))
/-- R129. -/
def execGShr (d a b : Reg) (s : State) : Host.Outcome State Fault Refusal := uniformData s d (fun x => shiftRight (x a) (x b))
/-- R129. -/
def execGSar (d a b : Reg) (s : State) : Host.Outcome State Fault Refusal := uniformData s d (fun x => shiftArith (x a) (x b))
/-- R129. -/
def execGSel (d a b : Reg) (s : State) : Host.Outcome State Fault Refusal := uniformData s d (fun x => if x d ≠ 0 then x a else x b)
/-- R129. -/
def execGMin (d a b : Reg) (s : State) : Host.Outcome State Fault Refusal := uniformData s d (fun x => minSigned (x a) (x b))
/-- R129. -/
def execGMinU (d a b : Reg) (s : State) : Host.Outcome State Fault Refusal := uniformData s d (fun x => minUnsigned (x a) (x b))
/-- R129. -/
def execGMax (d a b : Reg) (s : State) : Host.Outcome State Fault Refusal := uniformData s d (fun x => maxSigned (x a) (x b))
/-- R129. -/
def execGMaxU (d a b : Reg) (s : State) : Host.Outcome State Fault Refusal := uniformData s d (fun x => maxUnsigned (x a) (x b))
/-- R129. -/
def execGCmp (d a b : Reg) (c : Cond) (s : State) : Host.Outcome State Fault Refusal := uniformData s d (fun x => truth (condHolds c (x a) (x b)))
/-- R130. -/
def execGLi (d : Reg) (i : BitVec 13) (s : State) : Host.Outcome State Fault Refusal := uniformData s d (fun _ => i.signExtend 32)
/-- R130. -/
def execGLui (d a : Reg) (i : BitVec 13) (s : State) : Host.Outcome State Fault Refusal := uniformData s d (fun x => x a * 8192 + i.setWidth 32)
/-- R130. -/
def execGAddImm (d a : Reg) (i : BitVec 13) (s : State) : Host.Outcome State Fault Refusal := uniformData s d (fun x => x a + i.signExtend 32)
/-- R130. -/
def execGAndImm (d a : Reg) (i : BitVec 13) (s : State) : Host.Outcome State Fault Refusal := uniformData s d (fun x => x a &&& i.signExtend 32)
/-- R130. -/
def execGOrImm (d a : Reg) (i : BitVec 13) (s : State) : Host.Outcome State Fault Refusal := uniformData s d (fun x => x a ||| i.signExtend 32)
/-- R130. -/
def execGXorImm (d a : Reg) (i : BitVec 13) (s : State) : Host.Outcome State Fault Refusal := uniformData s d (fun x => x a ^^^ i.signExtend 32)
/-- R131. -/
def execGNop (s : State) : Host.Outcome State Fault Refusal := s.issue fun p g => s.finish p g

/-! ## Control transfer (R132 to R135) -/

/-- A uniform transfer: a taken one checks its target, and then writes and moves; one that is not taken writes and moves to the sequential successor (R133). -/
def State.uniformJump (s : State) (p : Packet) (g : Group) (taken : Bool) (target : DWord) (ws : List (Reg × Word)) : State :=
  if taken then
    match pcFault target with
    | some c => s.trapAt p.gid p.cur c p.cur.lanes target
    | none => s.setGroup p.gid ((g.writesFixed s.cycle 2 p.cur.pc (g.toAll p.cur.lanes ws)).moveTo p.cur.lanes target)
  else s.deliver p g (.fixed 2) (g.toAll p.cur.lanes ws)

/-- R132. -/
def execGJmp (f : BitVec 19) (s : State) : Host.Outcome State Fault Refusal := s.issue fun p g => s.uniformJump p g true (branchTarget p.cur.pc f) []
/-- R132. -/
def execGBrNz (a : Reg) (f : BitVec 19) (s : State) : Host.Outcome State Fault Refusal :=
  s.issue fun p g => s.uniformJump p g (g.uread s.cycle p.cur.lanes a != 0) (branchTarget p.cur.pc f) []
/-- R132. -/
def execGBrZ (a : Reg) (f : BitVec 19) (s : State) : Host.Outcome State Fault Refusal :=
  s.issue fun p g => s.uniformJump p g (g.uread s.cycle p.cur.lanes a == 0) (branchTarget p.cur.pc f) []
/-- R132: the link is the address of the sequential successor. -/
def execGCall (a : Reg) (f : BitVec 19) (s : State) : Host.Outcome State Fault Refusal :=
  s.issue fun p g => s.uniformJump p g true (branchTarget p.cur.pc f) (pairOf a (succPc p.cur.pc))
/-- R132, R134. -/
def execGLoop (a : Reg) (f : BitVec 19) (s : State) : Host.Outcome State Fault Refusal :=
  s.issue fun p g => s.uniformJump p g (g.uread s.cycle p.cur.lanes a - 1 != 0) (branchTarget p.cur.pc f) [(a, g.uread s.cycle p.cur.lanes a - 1)]
/-- R132, R133. -/
def execGRet (a : Reg) (s : State) : Host.Outcome State Fault Refusal := s.issue fun p g => s.uniformJump p g true (g.ureadPair s.cycle p.cur.lanes a) []

/-- R135: as the YIELD bit of R90. -/
def execGYield (s : State) : Host.Outcome State Fault Refusal :=
  s.issue fun p g => { s.finish p g with packet := some { p with yield := true } }

/-! ## Lane enable and election (R137, R138) -/

/-- R137. -/
def execGElect (d : Reg) (s : State) : Host.Outcome State Fault Refusal :=
  s.issue fun p g => s.deliver p g (.fixed 2) ((g.list p.cur.lanes).map fun i => (i, d, truth (i == g.lowest p.cur.lanes)))
/-- A mask of shape w read from a lane: a pair in a group of 64 lanes; bits at or above the width are ignored (R32, R138). -/
def Group.maskFrom (g : Group) (now i : Nat) (r : Reg) : LaneMask := (if g.width = 64 then g.readPair now i r else (g.read now i r).setWidth 64) &&& fullMask g.width
/-- R138, R358: the mask that governs issue. (DEDUCED: log entry 85.) -/
def execGLanes (a : Reg) (s : State) : Host.Outcome State Fault Refusal :=
  s.issue fun p g => s.finish p { g with enmask := g.maskFrom s.cycle (g.lowest p.cur.lanes) a }

/-! ## Traps, features, time (R142 to R145), routes (R174) -/

/-- R142: the instruction completes, and the restart address of its lanes is the sequential successor. -/
def execGTrap (_n : BitVec 13) (s : State) : Host.Outcome State Fault Refusal :=
  s.issue fun p _ => s.raise p.gid { place := p.cur.place, cause := .software, lanes := p.cur.lanes, addr := 0, word := p.cur.word, defer := false, active := p.cur.lanes, restart := succPc p.cur.pc }
/-- R143, R361. -/
def execGEret (s : State) : Host.Outcome State Fault Refusal :=
  s.issue fun p g =>
    if !g.hnd then s.trapAt p.gid p.cur .illegal p.cur.lanes 0
    else if g.badReturn != 0 then s.trapAt p.gid p.cur g.badReturnCause g.badReturn (g.lane (g.lowest g.badReturn)).trappc
    else s.setGroup p.gid g.returnFromTrap
/-- R144. (DESIGN CHOICE: log entry 97.) -/
def execGFeat (d : Reg) (n : BitVec 13) (s : State) : Host.Outcome State Fault Refusal :=
  s.issue fun p g =>
    if 128 ≤ n.toNat then s.trapAt p.gid p.cur .illegal p.cur.lanes 0
    else s.answerAfter 6 p g [(d, truth ((Config.feat (n.toNat / 32)).getLsbD (n.toNat % 32)))]
/-- R145: RETIRED before the packet. -/
def execGClockO (d : Reg) (s : State) : Host.Outcome State Fault Refusal := s.issue fun p g => s.answerAfter 6 p g (pairOf d (BitVec.ofNat 64 p.retired0))
/-- R145: TIMEBASE at the cycle of issue. -/
def execGClockU (d : Reg) (s : State) : Host.Outcome State Fault Refusal := s.issue fun p g => s.answerAfter 6 p g (pairOf d (BitVec.ofNat 64 s.timebase))

/-- The range of a route parameter (R37, R174). -/
def routeParamOk (k : RouteKind) (p width : Nat) : Bool :=
  match k with
  | .ident => p == 0
  | .rot => decide (p < width)
  | .bcast => decide (p < width)
  | .bfly => decide (2 ^ p < width)
  | .mirror => decide (1 ≤ p) && decide (2 ^ p ≤ width)
/-- R174. -/
def execGSetroute (e : BitVec 2) (k : RouteKind) (q : BitVec 6) (s : State) : Host.Outcome State Fault Refusal :=
  s.issue fun p g =>
    if e = 0 || !routeParamOk k q.toNat g.width then s.trapAt p.gid p.cur .illegal p.cur.lanes 0
    else s.finish p { g with routes := g.routes.set (e.toNat - 1) { kind := k, param := q.toNat } }

/-! ## Control of lanes (R188 to R191, R193) -/

/-- Lanes moved each to its own address. -/
def Group.moveEach (g : Group) (goals : List (Nat × DWord × Bool)) : Group :=
  { g with lanes := g.lanes.mapIdx fun i l => match goals.find? (fun x => x.1 == i) with
      | some x => { l with pc := x.2.1 }
      | none => l }
/-- The precedence of the causes of R193. -/
def pcRank (c : Cause) : Nat := if c == .pcRange then 0 else if c == .misalignedPc then 1 else 2
/-- A lane transfer: every active lane's new PC is checked, with the budgets of callv, before any moves; then the link is written; TRAPMASK names the lanes of the cause taken and of causes of lower precedence (R193). -/
def State.laneJump (s : State) (p : Packet) (g : Group) (goals : List (Nat × DWord × Bool)) (after : State → State) : State :=
  let bad : List (Nat × Cause × DWord) := goals.filterMap fun x => match pcFault x.2.1 with
    | some c => some (x.1, c, x.2.1)
    | none => if x.2.2 then none else some (x.1, .budget, x.2.1)
  match bad with
  | (i, c, t) :: r =>
      let best := r.foldl (fun b x => if pcRank x.2.1 < pcRank b then x.2.1 else b) c
      s.trapAt p.gid p.cur best (maskOf (i :: r.map (·.1))) t
  | [] => after (s.setGroup p.gid (g.moveEach goals))

/-- A lane branch (R188): each active lane goes by its own vc. -/
def State.laneBranch (s : State) (p : Packet) (g : Group) (c : Reg) (f : BitVec 19) (taken : Word → Bool) : State :=
  s.laneJump p g ((g.list p.cur.lanes).map fun i => (i, if taken (g.read s.cycle i c) then branchTarget p.cur.pc f else succPc p.cur.pc, true)) id
/-- R188. -/
def execBrcNz (c : Reg) (f : BitVec 19) (s : State) : Host.Outcome State Fault Refusal := s.issue fun p g => s.laneBranch p g c f (· != 0)
/-- R188. -/
def execBrcZ (c : Reg) (f : BitVec 19) (s : State) : Host.Outcome State Fault Refusal := s.issue fun p g => s.laneBranch p g c f (· == 0)

/-- The declared budget of the function at an address (R40, R189). (DEDUCED: log entry 112.) -/
def State.budgetAt (s : State) (g : Group) (t : DWord) : Nat :=
  match s.launchOf g with
  | none => 64
  | some l => match l.kern.callees.find? (fun c => c.1 == t) with
    | some c => c.2
    | none => if t = l.kern.entry then l.kern.regs else 64
/-- R189. -/
def execCallv (d a : Reg) (r : Route) (s : State) : Host.Outcome State Fault Refusal :=
  s.issue fun p g =>
    s.laneJump p g ((g.list p.cur.lanes).map fun i => (i, g.srcPair s.cycle i a r, decide (s.budgetAt g (g.srcPair s.cycle i a r) ≤ g.alloc)))
      fun t => t.post p.gid p.cur.pc p.cur.lanes [d, d.plus 1] ((g.list p.cur.lanes).flatMap fun i => pairWrites i d (succPc p.cur.pc)) 4
/-- R190. -/
def execRetv (a : Reg) (s : State) : Host.Outcome State Fault Refusal :=
  s.issue fun p g => s.laneJump p g ((g.list p.cur.lanes).map fun i => (i, g.readPair s.cycle i a, true)) id
/-- R32, R191: each active lane waits at its PC with the mask read there. -/
def execRejoin (a : Reg) (s : State) : Host.Outcome State Fault Refusal :=
  s.issue fun p g => s.setGroup p.gid { g with lanes := g.lanes.mapIdx fun i l => if p.cur.lanes.getLsbD i then { l with st := .waiting (g.maskFrom s.cycle i a) } else l }

end Sys2Proof.Machine
end

