-- ==== Sys2Proof/Machine/Csr.lean ====
section
/-! DEFINITION. The control and status registers and the instructions that read and write them (R21 to R25, R48, R52, R139 to R141, R146, R355, R358). -/
namespace Sys2Proof.Machine

/-! ## The table of R21 -/

/-- A CSR, with its low number where it occupies two. -/
inductive Csr where
  | laneid | fpen | fpflags | trappc
  | fprm | fpftz | schk | grpid | teamid | gridteams | enmask | tkstat | batch | retired | weight
  | routes (k : Fin 4)
  | trapcause | trapmask | trapaddr | trapinst
  | svcclass | deadline | workbound | trapvec | timebase | decaytab
  | feat (k : Fin 4)
  | datum (n : Fin 16)
  deriving DecidableEq, Repr

/-- Which half of a CSR a number names: a 32-bit CSR, or the low or high half of a 64-bit one. -/
inductive Half where
  | whole | low | high
  deriving DecidableEq, Repr

/-- Both numbers of a 64-bit CSR. -/
def halves (c : Csr) (n base : Nat) : Option (Csr × Half) := some (c, if n = base then .low else .high)

/-- The CSR of a number (R21); none traps ILLEGAL. -/
def csrOf (n : Nat) : Option (Csr × Half) :=
  if n = 0x000 then some (.laneid, .whole)
  else if n = 0x001 then some (.fpen, .whole)
  else if n = 0x002 then some (.fpflags, .whole)
  else if n / 2 = 0x002 then halves .trappc n 0x004
  else if n = 0x010 then some (.fprm, .whole)
  else if n = 0x011 then some (.fpftz, .whole)
  else if n = 0x012 then some (.schk, .whole)
  else if n = 0x013 then some (.grpid, .whole)
  else if n = 0x014 then some (.teamid, .whole)
  else if n = 0x015 then some (.gridteams, .whole)
  else if n / 2 = 0x00B then halves .enmask n 0x016
  else if n = 0x018 then some (.tkstat, .whole)
  else if n = 0x019 then some (.batch, .whole)
  else if n / 2 = 0x00D then halves .retired n 0x01A
  else if n / 2 = 0x00E then halves .weight n 0x01C
  else if n / 4 = 0x008 then some (.routes (Fin.ofNat 4 n), .whole)
  else if n = 0x030 then some (.trapcause, .whole)
  else if n / 2 = 0x019 then halves .trapmask n 0x032
  else if n / 2 = 0x01A then halves .trapaddr n 0x034
  else if n = 0x036 then some (.trapinst, .whole)
  else if n = 0x040 then some (.svcclass, .whole)
  else if n / 2 = 0x021 then halves .deadline n 0x042
  else if n / 2 = 0x022 then halves .workbound n 0x044
  else if n / 2 = 0x028 then halves .trapvec n 0x050
  else if n / 2 = 0x040 then halves .timebase n 0x080
  else if n / 2 = 0x041 then halves .decaytab n 0x082
  else if n / 4 = 0x024 then some (.feat (Fin.ofNat 4 n), .whole)
  else if n / 32 = 0x006 then halves (.datum (Fin.ofNat 16 (n / 2))) (n % 2) 0
  else none

/-- Is the CSR one of lane scope (R21)? -/
def Csr.laneScope (c : Csr) : Bool :=
  match c with
  | .laneid | .fpen | .fpflags | .trappc => true
  | .fprm | .fpftz | .schk | .grpid | .teamid | .gridteams | .enmask | .tkstat | .batch | .retired | .weight | .routes _
  | .trapcause | .trapmask | .trapaddr | .trapinst | .svcclass | .deadline | .workbound | .trapvec | .timebase | .decaytab
  | .feat _ | .datum _ => false

/-! ## Values -/

/-- WIDTH of LANEID (R24). -/
def widthCode (w : Nat) : Nat := if w = 16 then 0 else if w = 32 then 1 else 2
/-- GANGSZ of GRPID (R25). -/
def gangCode (k : Nat) : Nat := if k = 1 then 0 else if k = 2 then 1 else 2
/-- MODE of FPRM (R25). -/
def Rounding.code (r : Rounding) : Nat := match r with
  | .nearestEven => 0
  | .towardZero => 1
  | .down => 2
  | .up => 3
/-- The rounding mode of a code (R25). -/
def roundingOf (n : Nat) : Rounding := if n = 0 then .nearestEven else if n = 1 then .towardZero else if n = 2 then .down else .up
/-- KIND of a route entry (R36). -/
def kindCode (k : RouteKind) : Nat := match k with
  | .ident => 0
  | .rot => 1
  | .bcast => 2
  | .bfly => 3
  | .mirror => 4
/-- A token's state code (R38). -/
def TokenState.code (t : TokenState) : Nat := match t with
  | .idle => 0
  | .busy => 1
  | .done => 2
  | .fault => 3
/-- TKSTAT (R38). -/
def Group.tkstat (g : Group) : Nat := (List.range 8).foldl (fun w t => w + (g.tokens.get (Fin.ofNat 8 t)).st.code * 4 ^ t) 0

/-- The value of a CSR in a lane, for a packet with a RETIRED before it (R22, R24, R25, R36, R38, R39, R48, R52, R115, R146, R355, R358). (DEDUCED: log entry 16.) -/
def State.csrValue (s : State) (p : Packet) (g : Group) (i : Nat) (c : Csr) : DWord :=
  let n (x : Nat) : DWord := BitVec.ofNat 64 x
  let l := g.lane i
  let t := s.teamOf g
  let rec' := (s.launchOf g).map (·.record)
  match c with
  | .laneid => n (widthCode g.width * 256 + i)
  | .fpen => l.fpen.setWidth 64
  | .fpflags => l.fpflags.setWidth 64
  | .trappc => l.trappc
  | .fprm => n g.fprm.code
  | .fpftz => n g.fpftz.toNat
  | .schk => n g.schk.toNat
  | .grpid => n (gangCode (((s.launchOf g).map (·.kern.gang)).getD 1) * 2 ^ 18 + ((t.map (·.rank)).getD 0) * 2 ^ 16 + ((t.map (·.groups.length)).getD 1 - 1) * 256 + g.index)
  | .teamid => n ((t.map (·.teamId)).getD 0)
  | .gridteams => n ((rec'.map (·.teams)).getD 1 - 1)
  | .enmask => if g.hnd then g.saveden else g.enmask
  | .tkstat => n g.tkstat
  | .batch => n (g.bdone % 65536 * 65536 + g.bsealed % 65536)
  | .retired => n p.retired0
  | .weight => n ((t.map (·.weight)).getD 0)
  | .routes k => if k = 0 then 0 else n ((kindCode ((g.routes.getD (k.val - 1) { kind := .ident, param := 0 }).kind)) * 2 ^ 16 + (g.routes.getD (k.val - 1) { kind := .ident, param := 0 }).param)
  | .trapcause => n (g.hnd.toNat * 2 ^ 31 + g.defer.toNat * 2 ^ 30 + g.code)
  | .trapmask => g.trapmask
  | .trapaddr => g.trapaddr
  | .trapinst => g.trapinst.setWidth 64
  | .svcclass => n ((rec'.map (·.bounded)).getD false).toNat
  | .deadline => n ((rec'.map (·.deadline)).getD 0)
  | .workbound => n ((rec'.map (·.workbound)).getD 0)
  | .trapvec => s.trapvec (s.asidOf g)
  | .timebase => if s.certified g then n p.retired0 else n s.timebase
  | .decaytab => n s.dev.decayBase
  | .feat k => (Config.feat k.val).setWidth 64
  | .datum k => s.dev.datum.get k

/-- The lanes a snapshot of a CSR serves: the active lanes of the read for a lane-scope CSR, every lane otherwise (R23). -/
def Group.snapLanes (g : Group) (m : LaneMask) (c : Csr) : List Nat := if c.laneScope then g.list m else List.range g.width

/-- What a read of a half gives a lane (R23). -/
def State.csrHalf (s : State) (p : Packet) (g : Group) (number : Nat) (c : Csr) (h : Half) (i : Nat) : Word :=
  let live := s.csrValue p g i c
  match h with
  | .whole => loWord live
  | .low => loWord live
  | .high => match g.snap with
    | none => hiWord live
    | some sn => if sn.csr + 1 = number then hiWord ((lookup sn.vals i).getD live) else hiWord live

/-- The snapshot after a read (R23): the low half of a 64-bit CSR captures it, any other access drops it. -/
def State.snapAfter (s : State) (p : Packet) (g : Group) (number : Nat) (c : Csr) (h : Half) : Option Snapshot :=
  match h with
  | .low => some { csr := number, vals := (g.snapLanes p.cur.lanes c).map fun i => (i, s.csrValue p g i c) }
  | .high => none
  | .whole => none

/-- R139, R22, R23. (DESIGN CHOICE: log entry 97.) -/
def execGCsrr (d : Reg) (c : BitVec 13) (s : State) : Host.Outcome State Fault Refusal :=
  s.issue fun p g =>
    match csrOf c.toNat with
    | none => s.trapAt p.gid p.cur .illegal p.cur.lanes 0
    | some (r, h) =>
        s.deliver p { g with snap := s.snapAfter p g c.toNat r h } (.scoreboard 6) ((g.list p.cur.lanes).map fun i => (i, d, s.csrHalf p g c.toNat r h i))

/-! ## Writes (R139 to R141) -/

/-- How the three writing forms change a field: write, set, clear. -/
inductive CsrOp where
  | write | set | clear
  deriving DecidableEq, Repr

/-- A value changed by a form. -/
def CsrOp.apply {n : Nat} (op : CsrOp) (old a : BitVec n) : BitVec n :=
  match op with
  | .write => a
  | .set => old ||| a
  | .clear => old &&& ~~~a
/-- A half of a 64-bit value changed by a form. -/
def CsrOp.applyHalf (op : CsrOp) (h : Half) (old : DWord) (a : Word) : DWord :=
  match h with
  | .high => joinWords (loWord old) (op.apply (hiWord old) a)
  | .low => joinWords (op.apply (loWord old) a) (hiWord old)
  | .whole => joinWords (op.apply (loWord old) a) (hiWord old)

/-- A write of a CSR by a group: only fields whose access is RW change (R140); TRAPPC only while a handler runs (R355); ENMASK in a handler is the saved mask (R358). -/
def Group.csrWrite (g : Group) (now : Nat) (m : LaneMask) (op : CsrOp) (c : Csr) (h : Half) (a : Reg) : Group :=
  let v := g.uread now m a
  let own (f : Nat → Lane → Lane) : Group := { g with lanes := g.lanes.mapIdx fun i l => if m.getLsbD i then f i l else l }
  match c with
  | .fpen => own fun i l => { l with fpen := op.apply l.fpen ((g.read now i a).setWidth 6) }
  | .fpflags => own fun i l => { l with fpflags := op.apply l.fpflags ((g.read now i a).setWidth 6) }
  | .trappc => if g.hnd then own fun i l => { l with trappc := op.applyHalf h l.trappc (g.read now i a) } else g
  | .fprm => { g with fprm := roundingOf (op.apply (BitVec.ofNat 2 g.fprm.code) (v.setWidth 2)).toNat }
  | .fpftz => { g with fpftz := (op.apply (BitVec.ofBool g.fpftz) (v.setWidth 1)) == 1#1 }
  | .schk => { g with schk := (op.apply (BitVec.ofBool g.schk) (v.setWidth 1)) == 1#1 }
  | .enmask => if g.hnd then { g with saveden := op.applyHalf h g.saveden v &&& fullMask g.width } else { g with enmask := op.applyHalf h g.enmask v &&& fullMask g.width }
  | .laneid | .grpid | .teamid | .gridteams | .tkstat | .batch | .retired | .weight | .routes _
  | .trapcause | .trapmask | .trapaddr | .trapinst | .svcclass | .deadline | .workbound | .trapvec | .timebase | .decaytab
  | .feat _ | .datum _ => g

/-- A writing form: a number that is no CSR traps ILLEGAL; any access drops the snapshot (R23). -/
def csrWriteInstr (s : State) (op : CsrOp) (a : Reg) (c : BitVec 13) : Host.Outcome State Fault Refusal :=
  s.issue fun p g =>
    match csrOf c.toNat with
    | none => s.trapAt p.gid p.cur .illegal p.cur.lanes 0
    | some (r, h) => s.finish p { (g.csrWrite s.cycle p.cur.lanes op r h a) with snap := none }

/-- R139. -/
def execGCsrw (a : Reg) (c : BitVec 13) (s : State) : Host.Outcome State Fault Refusal := csrWriteInstr s .write a c
/-- R139. -/
def execGCsrs (a : Reg) (c : BitVec 13) (s : State) : Host.Outcome State Fault Refusal := csrWriteInstr s .set a c
/-- R139. -/
def execGCsrc (a : Reg) (c : BitVec 13) (s : State) : Host.Outcome State Fault Refusal := csrWriteInstr s .clear a c

end Sys2Proof.Machine
end

