-- ==== Sys2Proof/Machine/Access.lean ====
section
/-! DEFINITION. Addresses, pages, the checks of R218, and the bytes an access reads and writes (R216 to R223, R330, R384 to R387, R399 to R401). -/
namespace Sys2Proof.Machine

/-! ## Who makes an access -/

/-- The identity under which an access is made: the address space, the epoch with which it is tagged (R339), the team whose gang's windows it sees, the core whose L1 and store queue it uses, the group, its launch, whether a handler runs, the tile that its recompute team builds (R359, R393), the number of the access when it reads later than it issued, and for a request of another device the issuer's staged writes here (R342), and whether the access has passed its checks before (R351). -/
structure Ctx where
  asid : Nat
  tag : Nat
  team : Option Nat
  core : Option Nat
  gid : Option Nat
  launch : Nat
  hnd : Bool
  own : Option Nat
  upTo : Option Nat := none
  laid : List (Loc × List Byte) := []
  passed : Bool := false
  deriving DecidableEq, Repr

/-- The identity of a group's accesses. -/
def State.ctxOf (s : State) (gid : Nat) (g : Group) : Ctx :=
  { asid := s.asidOf g, tag := s.dev.qepoch, team := some g.team, core := some g.core, gid := some gid, launch := s.launchIdOf g, hnd := g.hnd,
    own := (s.launchOf g).bind (·.origin.tile?) }
/-- The identity of an agent of the device that acts for an address space (R53, R155, R453). -/
def State.deviceCtx (s : State) (asid : Nat) : Ctx := { asid := asid, tag := s.dev.qepoch, team := none, core := none, gid := none, launch := 0, hnd := false, own := none }

/-! ## Addresses (R216, R217) -/

/-- What an effective address selects (R216): a scratchpad address, a local address, or a local address of another device. -/
inductive Target where
  | scratch (a : Nat)
  | here (la : Nat)
  | remote (device la : Nat)
  deriving DecidableEq, Repr

/-- R216; none is ADDR_RANGE. -/
def State.target (s : State) (ea : DWord) : Option Target :=
  let code := ea.toNat / 2 ^ 60
  let device := ea.toNat / 2 ^ 46 % 2 ^ 14
  let la := ea.toNat % 2 ^ 46
  if code = 0 then (if device = s.fab.devNum then some (.here la) else some (.remote device la))
  else if code = 1 then (if device = 0 then some (.here la) else none)
  else if code = 15 then (if ea.toNat / 2 ^ 32 % 2 ^ 28 = 0 then some (.scratch (ea.toNat % 2 ^ 32)) else none)
  else none

/-- The local address as an EA of the issuing device (R216). -/
def localEa (la : Nat) : DWord := BitVec.ofNat 64 (2 ^ 60 + la)
/-- A fabric address (R216). -/
def fabricEa (device la : Nat) : DWord := BitVec.ofNat 64 (device * 2 ^ 46 + la)
/-- The EA of the tile that an EA lies in: the address of its first byte. (DEDUCED: log entry 68.) -/
def tileEa (ea : DWord) : DWord := ea &&& ~~~(0x3FFF : DWord)
/-- What TRAPADDR holds for a cause that an access at an EA meets: the EA of the tile for RECIPE_MISS and RECIPE_DEPTH, else the EA (R354). (DEDUCED: log entry 68.) -/
def causeEa (c : Cause) (ea : DWord) : DWord := if c == .recipeMiss || c == .recipeDepth then tileEa ea else ea
/-- A scratchpad address as an EA. -/
def scratchEa (a : Nat) : DWord := BitVec.ofNat 64 (15 * 2 ^ 60 + a)

/-- Bytes of a team's window as an agent of a team finds it (R376): none once the team has ended, but for its own copies and commands that still run (R265, R366). -/
def State.windowSize (s : State) (own : Option Nat) (team : Nat) : Nat :=
  match s.team? team with
  | none => 0
  | some t => if t.ended && own != some team then 0 else ((s.launch? (s.launchIdOfTeam t)).map (·.kern.scratch)).getD 0

/-- The team and offset a scratchpad address names for n bytes, seen from a team (R217); none is WINDOW_RANGE. (DEDUCED: log entry 40.) -/
def State.windowOf (s : State) (team : Option Nat) (a n : Nat) : Option (Nat × Nat) :=
  if a / 2 ^ 22 ≠ 0 then none
  else match (team.bind s.team?).bind fun t => s.gang? t.gang with
    | none => none
    | some k => match k.teams[a / 2 ^ 20 % 4]? with
      | none => none
      | some j => if a % 2 ^ 20 + n ≤ s.windowSize team j then some (j, a % 2 ^ 20) else none

/-! ## Pages (R384, R385) -/

def Page.nx (p : Page) : Bool := p.attr.getLsbD 15
def Page.pin (p : Page) : Bool := p.attr.getLsbD 14
/-- FMT of an attribute word (R385). -/
def attrFmt (a : Word) : Nat := a.toNat % 16
/-- GEOM of an attribute word. -/
def attrGeom (a : Word) : Nat := a.toNat / 16 % 4
/-- COH of an attribute word: 0 PRIVATE, 1 READSHARED, 2 COHERENT. -/
def attrCoh (a : Word) : Nat := a.toNat / 64 % 4
/-- AGED of an attribute word. -/
def attrAged (a : Word) : Bool := a.getLsbD 8
/-- DOMAIN of an attribute word. -/
def attrDomain (a : Word) : Nat := a.toNat / 512 % 16
/-- RCP of an attribute word. -/
def attrRcp (a : Word) : Bool := a.getLsbD 13

/-- Is the page PRIVATE? -/
def attrPrivate (a : Word) : Bool := attrCoh a == 0

/-- The page of a local address in an address space: one that lies within the HBM4 (DEDUCED: log entry 10). -/
def State.pageAt (s : State) (asid la : Nat) : Option Page :=
  s.mem.pages.find? fun p => p.asid == asid && decide (p.la ≤ la) && decide (la < p.la + p.size) && decide (p.pa + p.size ≤ Config.hbmBytes)
/-- The page a change has replaced, for an access tagged before it (R340). -/
def oldPage (changes : List Change) (tag asid la : Nat) : Option Page :=
  match changes with
  | [] => none
  | c :: r => if tag ≤ c.epoch then (match c.old.find? (fun p => p.asid == asid && decide (p.la ≤ la) && decide (la < p.la + p.size)) with
      | some p => some p
      | none => oldPage r tag asid la) else oldPage r tag asid la
/-- The page of a local address for an access tagged with an epoch (R339, R340). -/
def State.pageUnder (s : State) (tag asid la : Nat) : Option Page :=
  match oldPage s.dev.changes tag asid la with
  | some p => if p.pa + p.size ≤ Config.hbmBytes then some p else none
  | none => s.pageAt asid la
/-- The physical address of a local address in a page. -/
def Page.phys (p : Page) (la : Nat) : Nat := p.pa + (la - p.la)
/-- The first byte of each 64 KiB piece of a range, the smallest page (R384). -/
def pieces (la n : Nat) : List Nat :=
  if n = 0 then [] else la :: (List.range ((la + n - 1) / 65536 - la / 65536)).map fun k => (la / 65536 + k + 1) * 65536
/-- The first unmapped piece of a range, if there is one. -/
def State.firstUnmapped (s : State) (tag asid la n : Nat) : Option Nat := (pieces la n).find? fun a => (s.pageUnder tag asid a).isNone
/-- The key of a tile in the Recipe Table: the address space and the tile number (R252, R388). (DEDUCED: log entry 79.) -/
def tileKey (asid la : Nat) : Nat := asid * 2 ^ 32 + la / 2 ^ 14

/-- A tile that is mapped and has not changed (R389). -/
def Tile.fresh : Tile := { record := none, pins := 0, bdepth := 0, st := .valid, builds := 0, build := none, wants := [], ending := none }
/-- The Recipe Table entry of a tile (R388). (DEDUCED: log entry 79.) -/
def State.tile (s : State) (k : Nat) : Tile := (lookup s.mem.tiles k).getD Tile.fresh
def State.setTile (s : State) (k : Nat) (t : Tile) : State := { s with mem := { s.mem with tiles := put s.mem.tiles k t } }

/-! ## What one access asks for -/

/-- The shape of one lane's access: raw bytes of a size, or a decoding load or encoding store of a form (R220, R221). -/
inductive Shape where
  | raw (n : Nat)
  | load (f : LoadForm)
  | store (f : StoreForm)
  deriving DecidableEq, Repr

/-- Bytes that a form of w registers moves in a page format; none is FORMAT_MISMATCH (R221). -/
def movedBytes (fmt w : Nat) (isStore : Bool) : Option Nat :=
  if fmt ≤ 3 then some (4 * w)
  else if fmt = 4 || fmt = 5 then some (2 * w)
  else if fmt ≤ 8 then some w
  else if fmt = 9 then (if isStore || w = 1 then none else some (w / 2))
  else if w = 1 then none else some (4 * w)

/-- Bytes of a load form as it is named (R107). -/
def loadSize (f : LoadForm) : Nat :=
  match f with
  | .s8 | .u8 => 1
  | .s16 | .u16 => 2
  | .w32 => 4
  | .w64 => 8
  | .w128 => 16
/-- Bytes of a store form as it is named (R107). -/
def storeSize (f : StoreForm) : Nat :=
  match f with
  | .b8 => 1
  | .b16 => 2
  | .w32 => 4
  | .w64 => 8
  | .w128 => 16

/-- Bytes, and alignment, of an access in a page format (R220, R221). The scratchpad acts as format 0. -/
def Shape.bytes (sh : Shape) (fmt : Nat) : Option Nat :=
  match sh with
  | .raw n => some n
  | .load f => if loadSize f < 4 then some (loadSize f) else movedBytes fmt f.count false
  | .store f => if storeSize f < 4 then some (storeSize f) else movedBytes fmt f.count true
/-- Does the shape decode BQ4 elements (R387)? -/
def Shape.decodes (sh : Shape) : Bool :=
  match sh with
  | .load f => loadSize f ≥ 4
  | .raw _ => false
  | .store _ => false

/-- Size of a BQ4 unit (R387). -/
def bq4Unit (attr : Word) : Nat := if attrGeom attr = 2 then 2048 else 4096
/-- Does a physical address lie in the header or unused area of its unit (R387)? -/
def inBq4Header (attr : Word) (pa : Nat) : Bool := pa % bq4Unit attr ≥ 14 * bq4Unit attr / 16
/-- Physical address of the header of the block a code byte belongs to (R387). -/
def bq4HeaderPa (attr : Word) (pa : Nat) : Nat :=
  let u := bq4Unit attr
  pa - pa % u + 14 * u / 16 + 2 * (pa % u / 16)

/-- Where a checked access lies. -/
structure Place where
  ea : DWord
  loc : Loc
  attr : Word
  tile : Option Nat
  n : Nat
  deriving DecidableEq, Repr

/-- What the checks find for one lane: a place here, another device, or the first cause of R218 in table order. -/
inductive Checked where
  | ok (p : Place)
  | remote (device la : Nat)
  | bad (c : Cause)
  deriving DecidableEq, Repr

/-- The row of R218. -/
def rowOf (c : Cause) : Nat :=
  match c with
  | .addrRange => 1
  | .misalignedData => 2
  | .windowRange => 3
  | .pageFault => 4
  | .formatMismatch => 5
  | .writeShared => 6
  | .pinnedWrite => 7
  | .barrierClobber => 8
  | .illegal | .misalignedPc | .pcRange | .extEmu | .budget | .stallShort | .fpExc | .software | .tokenBusy | .batchRange
  | .rejoinStall | .check | .badBlock | .decayRange | .badBarrier | .barrierOrder | .badDescriptor | .cbufRange
  | .queueRange | .queueOwner | .badBucket | .recipePage | .badRecipe | .recipeBusy | .recipeMiss | .recipeDepth
  | .pinRange | .phaseSplit | .weightLow | .weightOverflow | .stepSpanning | .stepSweepDue | .badInvoke | .claimFull
  | .claimBroken | .doubleTrap | .overrun | .killed | .deviceLost | .claimStale => 9

/-- Does a range of a window cover a tagged word (R250)? (DEDUCED: log entry 42.) -/
def State.coversTag (s : State) (team off n : Nat) : Bool :=
  match s.team? team with
  | none => false
  | some t => t.tags.any fun w => decide (4 * w < off + n) && decide (off < 4 * w + 4)

/-- The checks of R218 rows 4 to 8 on a range of a local address (R359 for a handler); an access that has passed them at its issue meets rows 6 and 7 no more (R256, R351). -/
def State.checkLocal (s : State) (c : Ctx) (n : Nat) (decodes writes : Bool) (ea : DWord) (la : Nat) : Checked :=
  match s.pageUnder c.tag c.asid la with
  | none => .bad .pageFault
  | some p =>
      if (s.firstUnmapped c.tag c.asid la n).isSome || (c.hnd && !p.pin) then .bad .pageFault
      else if decodes && attrFmt p.attr == 9 && inBq4Header p.attr (p.phys la) then .bad .formatMismatch
      else if writes && !c.passed && attrCoh p.attr == 1 then .bad .writeShared
      else
        let key := if attrRcp p.attr then some (tileKey c.asid la) else none
        match key with
        | none => .ok { ea := ea, loc := .phys (p.phys la), attr := p.attr, tile := none, n := n }
        | some k =>
            if writes && !c.passed && decide (0 < (s.tile k).pins) && c.own != some k then .bad .pinnedWrite
            else .ok { ea := ea, loc := .phys (p.phys la), attr := p.attr, tile := some k, n := n }

/-- The checks of R218 for one lane. -/
def State.check (s : State) (c : Ctx) (sh : Shape) (writes : Bool) (ea : DWord) : Checked :=
  match s.target ea with
  | none => .bad .addrRange
  | some (.scratch a) =>
      match sh.bytes 0 with
      | none => .bad .formatMismatch
      | some n =>
          if a % n ≠ 0 then .bad .misalignedData
          else match s.windowOf c.team a n with
            | none => .bad .windowRange
            | some (t, off) =>
                if writes && s.coversTag t off n then .bad .barrierClobber
                else .ok { ea := ea, loc := .win t off, attr := 0, tile := none, n := n }
  | some (.here la) =>
      match s.pageUnder c.tag c.asid la with
      | none =>
          (match sh with
          | .raw n => if la % n ≠ 0 then .bad .misalignedData else .bad .pageFault
          | .load f => if loadSize f < 4 && la % loadSize f != 0 then .bad .misalignedData else .bad .pageFault
          | .store f => if storeSize f < 4 && la % storeSize f != 0 then .bad .misalignedData else .bad .pageFault)
      | some p =>
          match sh.bytes (attrFmt p.attr) with
          | none => if c.hnd && !p.pin then .bad .pageFault else .bad .formatMismatch
          | some n => if la % n ≠ 0 then .bad .misalignedData else s.checkLocal c n sh.decodes writes ea la
  | some (.remote d la) =>
      match sh with
      | .raw n => if la % n ≠ 0 then .bad .misalignedData else .remote d la
      | .load f => if loadSize f < 4 && la % loadSize f != 0 then .bad .misalignedData else .remote d la
      | .store f => if storeSize f < 4 && la % storeSize f != 0 then .bad .misalignedData else .remote d la

/-- The first cause in table order that any lane raises, with the lanes that raise it (R218). -/
def firstCause (cs : List (Nat × Cause)) : Option (Cause × LaneMask) :=
  match cs with
  | [] => none
  | x :: r =>
      let best := r.foldl (fun b y => if rowOf y.2 < rowOf b then y.2 else b) x.2
      some (best, maskOf ((cs.filter fun y => y.2 == best).map Prod.fst))

/-! ## Bytes -/

/-- Bytes of a range with another range's bytes laid over it. -/
def patch (base : List Byte) (a b : Nat) (bytes : List Byte) : List Byte :=
  base.mapIdx fun i v => if b ≤ a + i && a + i < b + bytes.length then bytes.getD (a + i - b) v else v
/-- The same for places: only places of one kind overlap. -/
def overlay (base : List Byte) (x y : Loc) (bytes : List Byte) : List Byte :=
  match x, y with
  | .win t o, .win u q => if t = u then patch base o q bytes else base
  | .phys a, .phys b => patch base a b bytes
  | .win _ _, .phys _ => base
  | .phys _, .win _ _ => base

/-- The dirty PRIVATE bytes in a core's L1 (R330). -/
def State.dirty (s : State) (core : Nat) : List Host.Cell := (lookup s.mem.l1dirty core).getD []

/-- The windows in a core's array (R375, R376): where each begins and how many bytes it has. -/
def State.windowsIn (s : State) (core : Nat) : List (Nat × Nat) :=
  s.teams.filterMap fun t =>
    let n := ((s.launch? (s.launchIdOfTeam t.2)).map (·.kern.scratch)).getD 0
    if !t.2.ended && t.2.cores.head? == some core && n != 0 then some (t.2.base, n) else none
/-- The split s of a core's array (R375): the fewest rows of 128 KiB that hold the windows resident in it. -/
def State.split (s : State) (core : Nat) : Nat := ((s.windowsIn core).map fun w => (w.1 + w.2 + 131071) / 131072).foldl max 0
/-- The core whose L1 keeps the bytes of a store: none for a store that is not PRIVATE, nor where the core's array has no L1 part (R330, R375). -/
def State.keeper (s : State) (core : Option Nat) (priv : Bool) : Option Nat := if priv then core.filter fun c => decide (s.split c < 8) else none
/-- The bytes at a place: a window's, or HBM4's with the reading core's dirty PRIVATE bytes. (DESIGN CHOICE: log entry 33.) -/
def State.bytesAt (s : State) (core : Option Nat) (priv : Bool) (l : Loc) (n : Nat) : List Byte :=
  match l with
  | .win t o => match s.team? t with
    | some tm => cellsRead tm.window o n
    | none => List.replicate n 0
  | .phys pa =>
      let base := cellsRead s.mem.hbm pa n
      match s.keeper core priv with
      | some c => base.mapIdx fun i v => (cellFind (s.dirty c) (pa + i)).getD v
      | none => base

/-- The staged writes of a group that are not yet applied, oldest first (R342). -/
def State.stagedOf (s : State) (gid : Nat) : List PendingStore :=
  s.eng.staged.filterMap fun x => if x.gid = gid then (match x.op with
    | .write st => some st
    | .remote _ _ => none
    | .atom _ => none
    | .send _ _ _ => none) else none

/-- The bytes an image load has replaced, for an access tagged before it (R340). -/
def State.oldCode (s : State) (tag : Nat) (l : Loc) (base : List Byte) : List Byte :=
  s.dev.changes.foldr (fun ch b => match ch.kind with
    | .image old => if tag ≤ ch.epoch then old.foldl (fun b x => overlay b l (.phys x.1) x.2) b else b
    | .unmap _ _ _ | .attrs _ _ _ | .migrate _ _ _ _ | .decay _ => b) base
/-- What an agent reads at a place: its group's own waiting and staged stores come first (R322, R342). (DESIGN CHOICE: log entry 33.) -/
def State.view (s : State) (c : Ctx) (priv : Bool) (l : Loc) (n : Nat) : List Byte :=
  let base := s.oldCode c.tag l (s.bytesAt c.core priv l n)
  let base := match c.gid with
    | none => base
    | some gid => (((s.mem.storeQ.filter fun st => st.gid == gid) ++ s.stagedOf gid).filter fun st => (c.upTo.map fun n => decide (st.id < n)).getD true).foldl (fun b st => overlay b l st.loc st.bytes) base
  c.laid.foldl (fun b x => overlay b l x.1 x.2) base

/-! ## Integrity (R399 to R403) -/

/-- The check value that a line's bytes have at its physical address (R399). -/
def lineCheck (line : Nat) (bs : List Byte) : BitVec 16 := crc16 (bs ++ bytesOfNat 8 (64 * line))
/-- The XOR of a line's stored check value and that of its bytes. A write of part of a line changes both by the CRC of the difference and leaves it as it is; a write of the whole line makes it 0 (R400). -/
def State.checkDiff (s : State) (line : Nat) : BitVec 16 := (lookup s.mem.checks line).getD 0
/-- The check value that a line of HBM4 carries (R399, R400). -/
def State.storedCheck (s : State) (line : Nat) : BitVec 16 := lineCheck line (cellsRead s.mem.hbm (64 * line) 64) ^^^ s.checkDiff line
/-- Lists a line's difference, or nothing for a line that matches. -/
def State.setDiff (s : State) (line : Nat) (d : BitVec 16) : State :=
  { s with mem := { s.mem with checks := if d = 0 then del s.mem.checks line else put s.mem.checks line d } }
/-- The lines a range of physical addresses touches (R399). -/
def linesOf (pa n : Nat) : List Nat := if n = 0 then [] else (List.range ((pa + n - 1) / 64 - pa / 64 + 1)).map fun k => pa / 64 + k
/-- Does a core's L1 hold every byte of a line dirty, so that the line carries a value of its own there (R330, R400)? -/
def State.ownsLine (s : State) (core line : Nat) : Bool := (List.range 64).all fun i => (cellFind (s.dirty core) (64 * line + i)).isSome
/-- Does a line fail its check for a reader at a core: the value it carries is not that of its bytes (R399 to R401), or the core's dirty copy has an uncorrectable error (R403)? -/
def State.lineBad (s : State) (core : Option Nat) (line : Nat) : Bool :=
  match core with
  | none => s.checkDiff line != 0
  | some c => s.mem.l1bad.contains (c, line) || (s.checkDiff line != 0 && !s.ownsLine c line)
/-- Does a line of a range fail its check, or a scratchpad word of it have an uncorrectable error (R399 to R403)? (DESIGN CHOICE: log entry 45.) -/
def State.lineFails (s : State) (core : Option Nat) (l : Loc) (n : Nat) : Bool :=
  match l with
  | .win t o => s.mem.badWords.any fun w => w.1 == t && decide (4 * w.2 < o + n) && decide (o < 4 * w.2 + 4)
  | .phys pa => (linesOf pa n).any (s.lineBad core)

/-- Where a store to a frame that is being migrated is copied forward (R340). -/
def Change.forward (c : Change) (pa : Nat) : Option Nat :=
  match c.kind, c.old with
  | .migrate _ _ old new, p :: _ => if old ≤ pa ∧ pa < old + p.size then some (new + (pa - old)) else none
  | .migrate _ _ _ _, [] => none
  | .unmap _ _ _, _ => none
  | .attrs _ _ _, _ => none
  | .image _, _ => none
  | .decay _, _ => none
/-- The frames that a store with a tag reaches: its own, and those that the changes it precedes copy it forward to (R340). (DEDUCED: log entry 25.) -/
def forwards (cs : List Change) (tag pa : Nat) : List Nat := (cs.filter fun c => decide (tag ≤ c.epoch)).foldl (fun ps c => ps ++ ps.filterMap c.forward) [pa]
/-- Does a range of n bytes hold the whole of a line? -/
def wholeLine (pa n line : Nat) : Bool := decide (pa ≤ 64 * line) && decide (64 * line + 64 ≤ pa + n)
/-- Check values made anew for some lines (R400). -/
def State.makeChecks (s : State) (f : Nat → Bool) : State := { s with mem := { s.mem with checks := s.mem.checks.filter fun k => !f k.1 } }
/-- Bytes written at a physical address: a core's PRIVATE bytes stay dirty in its L1. A write of a whole line makes its check value anew (R400). (DEDUCED: log entry 50.) -/
def State.putPhys (s : State) (core : Option Nat) (priv : Bool) (bytes : List Byte) (pa : Nat) : State :=
  match s.keeper core priv with
  | some c => { s with mem := { s.mem with
      l1dirty := put s.mem.l1dirty c (bytes.zipIdx.foldl (fun l b => cellSet l (pa + b.2) b.1) (s.dirty c))
      l1bad := s.mem.l1bad.filter fun x => !(x.1 == c && wholeLine pa bytes.length x.2) } }
  | none => ({ s with mem := { s.mem with hbm := cellsWrite s.mem.hbm pa bytes } }).makeChecks (wholeLine pa bytes.length)
/-- A write of a window word ends the reservations of porters that it meets (R435). -/
def dropReservations (ps : List (Nat × Porter)) (t o n : Nat) : List (Nat × Porter) :=
  ps.map fun p => match p.2.resv with
    | some (some t', o', _) => if t' = t ∧ o' < o + n ∧ o < o' + 4 then (p.1, { p.2 with resv := none }) else p
    | some (none, _, _) => p
    | none => p
/-- A write of window bytes encodes each word that it covers anew (R403). -/
def State.freshWords (s : State) (t o n : Nat) : State :=
  { s with mem := { s.mem with badWords := s.mem.badWords.filter fun w => !(w.1 == t && decide (o ≤ 4 * w.2) && decide (4 * w.2 + 4 ≤ o + n)) } }
/-- Bytes written over a window as they are. -/
def State.putWin (s : State) (t o : Nat) (bytes : List Byte) : State :=
  (({ s with porters := dropReservations s.porters t o bytes.length }).freshWords t o bytes.length).modTeam t fun tm => { tm with window := cellsWrite tm.window o bytes }
/-- Bytes for a window with its tagged words as they stand: only the barrier instructions change those (R250). (DEDUCED: log entry 42.) -/
def State.keepTags (s : State) (t o : Nat) (bs : List Byte) : List Byte :=
  if s.coversTag t o bs.length then (((s.team? t).map (·.tags)).getD []).foldl (fun bs w => patch bs o (4 * w) (s.bytesAt none false (.win t (4 * w)) 4)) bs else bs
/-- Bytes written at a place by an access with a tag (R339). (DESIGN CHOICE: log entry 33.) -/
def State.putTagged (s : State) (tag : Nat) (core : Option Nat) (priv : Bool) (l : Loc) (bytes : List Byte) : State :=
  match l with
  | .win t o => s.putWin t o (s.keepTags t o bytes)
  | .phys pa => (forwards s.dev.changes tag pa).foldl (fun s a => s.putPhys core priv bytes a) s
/-- Bytes written at a place now. (DESIGN CHOICE: log entry 33.) -/
def State.putBytes (s : State) (core : Option Nat) (priv : Bool) (l : Loc) (bytes : List Byte) : State := s.putTagged s.dev.qepoch core priv l bytes

/-- Dirty bytes of a core written back to their home: a line that is dirty in every byte makes its check value anew (R400), and one with an uncorrectable error arrives as a mismatch (R403). -/
def State.bringHome (s : State) (core : Nat) (out : List Host.Cell) : State :=
  let lines := (out.map fun c => c.1 / 64).eraseDups
  let t := { s with mem := { s.mem with hbm := out.foldl (fun m (c : Host.Cell) => cellPut m c.1 c.2) s.mem.hbm } }
  let t := t.makeChecks fun k => lines.contains k && s.ownsLine core k
  let bad := lines.filter fun k => s.mem.l1bad.contains (core, k)
  let t := bad.foldl (fun (t : State) k => if t.checkDiff k = 0 then t.setDiff k 1 else t) t
  { t with mem := { t.mem with l1bad := t.mem.l1bad.filter fun x => !(x.1 == core && lines.contains x.2) } }
/-- The dirty PRIVATE bytes of a core written back to their home (R330). -/
def State.writeBack (s : State) (core : Nat) : State :=
  let t := s.bringHome core (s.dirty core)
  { t with mem := { t.mem with l1dirty := del t.mem.l1dirty core } }

/-- A line of a core's L1 evicted: its dirty PRIVATE bytes are written back, and only they (R330). (DEDUCED: log entry 32.) -/
def State.evictLine (s : State) (core line : Nat) : State :=
  let (out, rest) := (s.dirty core).partition fun c => c.1 / 64 == line
  let t := s.bringHome core out
  { t with mem := { t.mem with l1dirty := if rest.isEmpty then del t.mem.l1dirty core else put t.mem.l1dirty core rest } }
/-- The dirty bytes that a core holds of a range written back: an access that is made at the home of its line, as a queue's, finds them there (R336). -/
def State.flushRange (s : State) (core : Option Nat) (pa n : Nat) : State :=
  match core with
  | none => s
  | some c =>
      let (out, rest) := (s.dirty c).partition fun x => decide (pa / 64 ≤ x.1 / 64) && decide (x.1 / 64 ≤ (pa + n - 1) / 64)
      if out.isEmpty then s
      else
        let t := s.bringHome c out
        { t with mem := { t.mem with l1dirty := if rest.isEmpty then del t.mem.l1dirty c else put t.mem.l1dirty c rest } }

/-- The 32-bit words of bytes. -/
def wordsOf : Nat → List Byte → List Word
  | 0, _ => []
  | n + 1, bs => wordOfBytes bs :: wordsOf n (bs.drop 4)
/-- The bytes of words, lowest address first. -/
def bytesOfWords (ws : List Word) : List Byte := ws.flatMap fun w => bytesOfNat 4 w.toNat

/-- Device reads and writes of a mapped local range, for the records and blocks the device itself uses; an unmapped byte reads 0 and is not written. -/
def State.readLocal (s : State) (asid la n : Nat) : List Byte :=
  (List.range n).flatMap fun i => match s.pageAt asid (la + i) with
    | some p => s.bytesAt none false (.phys (p.phys (la + i))) 1
    | none => [0]
/-- Does a line of a mapped local range fail its check (R401)? -/
def State.localFails (s : State) (asid la n : Nat) : Bool :=
  (List.range n).any fun i => match s.pageAt asid (la + i) with
    | some p => s.lineFails none (.phys (p.phys (la + i))) 1
    | none => false
/-- Bytes for a local range cut at the 64 KiB pieces of its pages. -/
def cutLocal (la : Nat) (bs : List Byte) : List (Nat × List Byte) := (pieces la bs.length).map fun a => (a, (bs.drop (a - la)).take ((a / 65536 + 1) * 65536 - a))
/-- A mapped local range written by the device. (DEDUCED: log entry 44.) -/
def State.writeLocal (s : State) (asid la : Nat) (bs : List Byte) : State :=
  (cutLocal la bs).foldl (fun s x => match s.pageAt asid x.1 with
    | some p => s.putBytes none false (.phys (p.phys x.1)) x.2
    | none => s) s

/-! ## Decoding loads and encoding stores (R222, R223) -/

/-- A sub-word or raw load's registers (R220). -/
def rawLoad (f : LoadForm) (bs : List Byte) : List Word :=
  match f with
  | .s8 => [(BitVec.ofNat 8 (natOfBytes bs)).signExtend 32]
  | .u8 => [BitVec.ofNat 32 (natOfBytes bs)]
  | .s16 => [(BitVec.ofNat 16 (natOfBytes bs)).signExtend 32]
  | .u16 => [BitVec.ofNat 32 (natOfBytes bs)]
  | .w32 => wordsOf 1 bs
  | .w64 => wordsOf 2 bs
  | .w128 => wordsOf 4 bs

/-- The narrow format of a page format that a load converts to FP32 (R221). -/
def narrowOf (fmt : Nat) : Option FFmt :=
  match fmt with
  | 4 => some .fp16
  | 5 => some .bf16
  | 6 => some .e4m3
  | 7 => some .e5m2
  | _ => none

/-- One element of a format converted for a register (R222). -/
def decodeElem (fmt b : Nat) : Word :=
  match narrowOf fmt with
  | some f => BitVec.ofNat 32 (f.convert .fp32 .engine false b).bits
  | none => (BitVec.ofNat 8 b).signExtend 32
/-- One register converted for an element of a format (R223). (DESIGN CHOICE: log entry 94.) -/
def encodeElem (fmt : Nat) (w : Word) : Nat :=
  match narrowOf fmt with
  | some f => (FFmt.fp32.convert f .engine false w.toNat).bits
  | none => (BitVec.ofInt 8 (if w.toInt < -128 then -128 else if w.toInt > 127 then 127 else w.toInt)).toNat

/-- Bytes of an element of a format that decodes element by element. -/
def elemBytes (fmt : Nat) : Nat := if fmt = 4 || fmt = 5 then 2 else 1

/-- What a load finds: the registers, a failing line, or a malformed BQ4 header at an EA. -/
inductive LoadOut where
  | words (ws : List Word)
  | badLine
  | badBlock (header : DWord)
  deriving DecidableEq, Repr

/-- The elements of BQ4 code bytes under a header, low element first, as FP32 (R222). -/
def bq4Words (header : Nat) (codes : List Byte) : List Word :=
  codes.flatMap fun b => [b.toNat % 16, b.toNat / 16].map fun c => BitVec.ofNat 32 (FFmt.fp32.round .engine (bq4Value header c)).bits

/-- A load from a checked place (R220 to R222). -/
def State.loadAt (s : State) (c : Ctx) (sh : Shape) (p : Place) : LoadOut :=
  let priv := attrPrivate p.attr
  let read (l : Loc) (n : Nat) : List Byte := s.view c priv l n
  match sh with
  | .raw n => if s.lineFails c.core p.loc n then .badLine else .words (wordsOf ((n + 3) / 4) (read p.loc n))
  | .store _ => .words []
  | .load f =>
      match p.loc with
      | .win _ _ => if s.lineFails c.core p.loc p.n then .badLine else .words (rawLoad f (read p.loc p.n))
      | .phys pa =>
          let fmt := attrFmt p.attr
          if loadSize f < 4 || fmt ≤ 3 || fmt = 10 then
            (if s.lineFails c.core p.loc p.n then .badLine else .words (rawLoad f (read p.loc p.n)))
          else if fmt = 9 then
            let h := bq4HeaderPa p.attr pa
            if s.lineFails c.core (.phys h) 2 then .badLine
            else
              let header := natOfBytes (read (.phys h) 2)
              if bq4Malformed header then .badBlock (p.ea + BitVec.ofNat 64 h - BitVec.ofNat 64 pa)
              else if header % 256 = 128 then .words (List.replicate f.count 0)
              else if s.lineFails c.core p.loc p.n then .badLine
              else .words (bq4Words header (read p.loc p.n))
          else if s.lineFails c.core p.loc p.n then .badLine
          else
            let bs := read p.loc p.n
            .words ((List.range f.count).map fun k => decodeElem fmt (fieldAt bs (k * elemBytes fmt) (elemBytes fmt)))
/-- A raw load of a form: its bytes unchanged (R220). -/
def State.rawAt (s : State) (c : Ctx) (f : LoadForm) (p : Place) : LoadOut :=
  if s.lineFails c.core p.loc p.n then .badLine else .words (rawLoad f (s.view c (attrPrivate p.attr) p.loc p.n))

/-- The bytes a store of a form writes at a place (R220, R223). -/
def storeBytes (sh : Shape) (p : Place) (ws : List Word) : List Byte :=
  let fmt := attrFmt p.attr
  match sh with
  | .store f =>
      (match p.loc with
      | .win _ _ => (bytesOfWords ws).take p.n
      | .phys _ => if storeSize f < 4 || fmt ≤ 3 || fmt = 10 then (bytesOfWords ws).take p.n
          else ws.flatMap fun w => bytesOfNat (elemBytes fmt) (encodeElem fmt w))
  | .raw n => (bytesOfWords ws).take n
  | .load _ => []

end Sys2Proof.Machine
end

