-- ==== Sys2Proof/Machine/LaneFloat.lean ====
section
/-! DEFINITION. Lane floating point: FP32, FP64, packed halves, conversions, packing and BQ4 (R194 to R207). -/
namespace Sys2Proof.Machine

/-! ## Modes, inputs and results -/

/-- Does FPFTZ act on the format (R61)? -/
def FFmt.flushes (f : FFmt) : Bool := f.tbits ≥ 23
/-- How a lane instruction of the group rounds into a format (R59, R61). -/
def Group.rmode (g : Group) (f : FFmt) : RMode := { mode := g.fprm, ftz := g.fpftz && f.flushes, sat := false }
/-- An input of a lane instruction in a format (R61). -/
def Group.fin (g : Group) (f : FFmt) (b : Nat) : FVal := f.input (g.fpftz && f.flushes) b
/-- An FP32 or FP64 operand's bits, from a register or a pair. -/
def Group.srcBits (g : Group) (wideOp : Bool) (now i : Nat) (r : Reg) (rt : Route) : Nat :=
  if wideOp then (g.srcPair now i r rt).toNat else (g.src now i r rt).toNat
/-- The prior destination's bits (R175). -/
def Group.priorBits (g : Group) (wideOp : Bool) (now i : Nat) (d : Reg) : Nat :=
  if wideOp then (g.readPair now i d).toNat else (g.read now i d).toNat
/-- A lane's floating-point result into a register or a pair. -/
def LaneRes.ofFRes (wideOp : Bool) (d : Reg) (v : FRes) : LaneRes :=
  if wideOp then { writes := [(d, BitVec.ofNat 32 v.bits), (d.plus 1, BitVec.ofNat 32 (v.bits / 2 ^ 32))], flags := v.flags }
  else { writes := [(d, BitVec.ofNat 32 v.bits)], flags := v.flags }
/-- FP64 or FP32. -/
def fmtOf (wideOp : Bool) : FFmt := if wideOp then .fp64 else .fp32
/-- The latency of the fixed rows FP32 and FP64 (R176). -/
def fpLatency (wideOp : Bool) : Latency := .fixed (if wideOp then 8 else 4)

/-- A form with one source. -/
def fp1 (s : State) (w : Bool) (lat : Latency) (f : FFmt → RMode → FVal → FRes) (d a : Reg) (r : Route) : Host.Outcome State Fault Refusal :=
  floatInstr s lat fun g i => .ofFRes w d (f (fmtOf w) (g.rmode (fmtOf w)) (g.fin (fmtOf w) (g.srcBits w s.cycle i a r)))
/-- A form with two sources. -/
def fp2 (s : State) (w : Bool) (lat : Latency) (f : FFmt → RMode → FVal → FVal → FRes) (d a : Reg) (r : Route) (b : Reg) (q : Route) : Host.Outcome State Fault Refusal :=
  floatInstr s lat fun g i => .ofFRes w d (f (fmtOf w) (g.rmode (fmtOf w)) (g.fin (fmtOf w) (g.srcBits w s.cycle i a r)) (g.fin (fmtOf w) (g.srcBits w s.cycle i b q)))
/-- The fused multiply-add forms. -/
def fp3 (s : State) (w : Bool) (d a : Reg) (r : Route) (b : Reg) (q : Route) : Host.Outcome State Fault Refusal :=
  floatInstr s (fpLatency w) fun g i => .ofFRes w d ((fmtOf w).fma (g.rmode (fmtOf w)) (g.fin (fmtOf w) (g.srcBits w s.cycle i a r))
    (g.fin (fmtOf w) (g.srcBits w s.cycle i b q)) (g.fin (fmtOf w) (g.priorBits w s.cycle i d)))
/-- The minimum and maximum forms (R64). -/
def fpMinMax (s : State) (w wantMax : Bool) (d a : Reg) (r : Route) (b : Reg) (q : Route) : Host.Outcome State Fault Refusal :=
  floatInstr s (fpLatency w) fun g i => .ofFRes w d ((fmtOf w).minMax g.fpftz wantMax (g.srcBits w s.cycle i a r) (g.srcBits w s.cycle i b q))
/-- Rounding to an integral value (R197). -/
def fpRound (s : State) (w : Bool) (mode : Rounding) (d a : Reg) (r : Route) : Host.Outcome State Fault Refusal :=
  floatInstr s (fpLatency w) fun g i => .ofFRes w d ((fmtOf w).toIntegral mode g.fpftz (g.srcBits w s.cycle i a r))
/-- A comparison (R199). -/
def fpCompare (s : State) (w : Bool) (c : FCond) (d a : Reg) (r : Route) (b : Reg) (q : Route) : Host.Outcome State Fault Refusal :=
  floatInstr s (fpLatency w) fun g i =>
    let t := c.test (g.fin (fmtOf w) (g.srcBits w s.cycle i a r)) (g.fin (fmtOf w) (g.srcBits w s.cycle i b q))
    { writes := [(d, truth t.1)], flags := t.2 }
/-- A sign operation: bits, no flag (R196). -/
def signOp (s : State) (f : Word → Word → Word) (d a : Reg) (r : Route) (b : Reg) (q : Route) : Host.Outcome State Fault Refusal :=
  floatInstr s (.fixed 4) fun g i => .word d (f (g.src s.cycle i a r) (g.src s.cycle i b q))
/-- The sum of two values. -/
def addVals (f : FFmt) (m : RMode) (a b : FVal) : FRes := f.add m (some a) (some b)

/-! ## FP32 (R194 to R199) -/

/-- R194. -/
def execFadd (d a : Reg) (r : Route) (b : Reg) (q : Route) (s : State) : Host.Outcome State Fault Refusal := fp2 s false (fpLatency false) addVals d a r b q
/-- R194. -/
def execFsub (d a : Reg) (r : Route) (b : Reg) (q : Route) (s : State) : Host.Outcome State Fault Refusal := fp2 s false (fpLatency false) (fun f m a b => addVals f m a b.negate) d a r b q
/-- R194. -/
def execFmul (d a : Reg) (r : Route) (b : Reg) (q : Route) (s : State) : Host.Outcome State Fault Refusal := fp2 s false (fpLatency false) FFmt.mul d a r b q
/-- R194. -/
def execFfma (d a : Reg) (r : Route) (b : Reg) (q : Route) (s : State) : Host.Outcome State Fault Refusal := fp3 s false d a r b q
/-- R194. R64. -/
def execFmin (d a : Reg) (r : Route) (b : Reg) (q : Route) (s : State) : Host.Outcome State Fault Refusal := fpMinMax s false false d a r b q
/-- R194. R64. -/
def execFmax (d a : Reg) (r : Route) (b : Reg) (q : Route) (s : State) : Host.Outcome State Fault Refusal := fpMinMax s false true d a r b q
/-- R195. -/
def execFdiv (d a : Reg) (r : Route) (b : Reg) (q : Route) (s : State) : Host.Outcome State Fault Refusal := fp2 s false (.scoreboard 12) FFmt.div d a r b q
/-- R195. -/
def execFsqrt (d a : Reg) (r : Route) (s : State) : Host.Outcome State Fault Refusal := fp1 s false (.scoreboard 12) FFmt.sqrt d a r
/-- R198. It raises no flag; FPFTZ acts on its input under R61. -/
def execFcls (d a : Reg) (r : Route) (s : State) : Host.Outcome State Fault Refusal :=
  floatInstr s (.fixed 4) fun g i =>
    let v := (g.src s.cycle i a r).toNat
    .word d (BitVec.ofNat 32 (fclsWord .fp32 (if (g.fin .fp32 v).isZero then v / 2 ^ 31 * 2 ^ 31 else v)))
/-- R195. -/
def execFrcp (d a : Reg) (r : Route) (s : State) : Host.Outcome State Fault Refusal := fp1 s false (.scoreboard 12) (fun f m a => f.div m (.fin false 1 0) a) d a r
/-- R195. -/
def execFrsq (d a : Reg) (r : Route) (s : State) : Host.Outcome State Fault Refusal := fp1 s false (.scoreboard 12) FFmt.rsqrt d a r
/-- R195. -/
def execFex2 (d a : Reg) (r : Route) (s : State) : Host.Outcome State Fault Refusal := fp1 s false (.scoreboard 16) FFmt.exp2 d a r
/-- R195. -/
def execFlg2 (d a : Reg) (r : Route) (s : State) : Host.Outcome State Fault Refusal := fp1 s false (.scoreboard 16) FFmt.log2 d a r
/-- R196. -/
def execFsgnCpy (d a : Reg) (r : Route) (b : Reg) (q : Route) (s : State) : Host.Outcome State Fault Refusal := signOp s (fun a b => (a &&& 0x7FFFFFFF#32) ||| (b &&& 0x80000000#32)) d a r b q
/-- R196. -/
def execFsgnNeg (d a : Reg) (r : Route) (s : State) : Host.Outcome State Fault Refusal :=
  floatInstr s (.fixed 4) fun g i => .word d (g.src s.cycle i a r ^^^ 0x80000000#32)
/-- R196. -/
def execFsgnXor (d a : Reg) (r : Route) (b : Reg) (q : Route) (s : State) : Host.Outcome State Fault Refusal := signOp s (fun a b => a ^^^ (b &&& 0x80000000#32)) d a r b q
/-- R196. -/
def execFsgnAbs (d a : Reg) (r : Route) (s : State) : Host.Outcome State Fault Refusal :=
  floatInstr s (.fixed 4) fun g i => .word d (g.src s.cycle i a r &&& 0x7FFFFFFF#32)
/-- R197. -/
def execFrndRn (d a : Reg) (r : Route) (s : State) : Host.Outcome State Fault Refusal := fpRound s false .nearestEven d a r
/-- R197. -/
def execFrndRz (d a : Reg) (r : Route) (s : State) : Host.Outcome State Fault Refusal := fpRound s false .towardZero d a r
/-- R197. -/
def execFrndRm (d a : Reg) (r : Route) (s : State) : Host.Outcome State Fault Refusal := fpRound s false .down d a r
/-- R197. -/
def execFrndRp (d a : Reg) (r : Route) (s : State) : Host.Outcome State Fault Refusal := fpRound s false .up d a r
/-- R199. -/
def execFcmpEq (d a : Reg) (r : Route) (b : Reg) (q : Route) (s : State) : Host.Outcome State Fault Refusal := fpCompare s false .eq d a r b q
/-- R199. -/
def execFcmpNe (d a : Reg) (r : Route) (b : Reg) (q : Route) (s : State) : Host.Outcome State Fault Refusal := fpCompare s false .ne d a r b q
/-- R199. -/
def execFcmpLt (d a : Reg) (r : Route) (b : Reg) (q : Route) (s : State) : Host.Outcome State Fault Refusal := fpCompare s false .lt d a r b q
/-- R199. -/
def execFcmpLe (d a : Reg) (r : Route) (b : Reg) (q : Route) (s : State) : Host.Outcome State Fault Refusal := fpCompare s false .le d a r b q
/-- R199. -/
def execFcmpGt (d a : Reg) (r : Route) (b : Reg) (q : Route) (s : State) : Host.Outcome State Fault Refusal := fpCompare s false .gt d a r b q
/-- R199. -/
def execFcmpGe (d a : Reg) (r : Route) (b : Reg) (q : Route) (s : State) : Host.Outcome State Fault Refusal := fpCompare s false .ge d a r b q
/-- R199. -/
def execFcmpUn (d a : Reg) (r : Route) (b : Reg) (q : Route) (s : State) : Host.Outcome State Fault Refusal := fpCompare s false .un d a r b q
/-- R199. -/
def execFcmpOrd (d a : Reg) (r : Route) (b : Reg) (q : Route) (s : State) : Host.Outcome State Fault Refusal := fpCompare s false .ord d a r b q

/-! ## FP64 (R200) -/

/-- R200. -/
def execDadd (d a : Reg) (r : Route) (b : Reg) (q : Route) (s : State) : Host.Outcome State Fault Refusal := fp2 s true (fpLatency true) addVals d a r b q
/-- R200. -/
def execDsub (d a : Reg) (r : Route) (b : Reg) (q : Route) (s : State) : Host.Outcome State Fault Refusal := fp2 s true (fpLatency true) (fun f m a b => addVals f m a b.negate) d a r b q
/-- R200. -/
def execDmul (d a : Reg) (r : Route) (b : Reg) (q : Route) (s : State) : Host.Outcome State Fault Refusal := fp2 s true (fpLatency true) FFmt.mul d a r b q
/-- R200. -/
def execDfma (d a : Reg) (r : Route) (b : Reg) (q : Route) (s : State) : Host.Outcome State Fault Refusal := fp3 s true d a r b q
/-- R200. R64. -/
def execDmin (d a : Reg) (r : Route) (b : Reg) (q : Route) (s : State) : Host.Outcome State Fault Refusal := fpMinMax s true false d a r b q
/-- R200. R64. -/
def execDmax (d a : Reg) (r : Route) (b : Reg) (q : Route) (s : State) : Host.Outcome State Fault Refusal := fpMinMax s true true d a r b q
/-- R200, R195. -/
def execDdiv (d a : Reg) (r : Route) (b : Reg) (q : Route) (s : State) : Host.Outcome State Fault Refusal := fp2 s true (.scoreboard 24) FFmt.div d a r b q
/-- R200, R195. -/
def execDsqrt (d a : Reg) (r : Route) (s : State) : Host.Outcome State Fault Refusal := fp1 s true (.scoreboard 24) FFmt.sqrt d a r
/-- R200, R197. -/
def execDrndRn (d a : Reg) (r : Route) (s : State) : Host.Outcome State Fault Refusal := fpRound s true .nearestEven d a r
/-- R200, R197. -/
def execDrndRz (d a : Reg) (r : Route) (s : State) : Host.Outcome State Fault Refusal := fpRound s true .towardZero d a r
/-- R200, R197. -/
def execDrndRm (d a : Reg) (r : Route) (s : State) : Host.Outcome State Fault Refusal := fpRound s true .down d a r
/-- R200, R197. -/
def execDrndRp (d a : Reg) (r : Route) (s : State) : Host.Outcome State Fault Refusal := fpRound s true .up d a r
/-- R199. -/
def execDcmpEq (d a : Reg) (r : Route) (b : Reg) (q : Route) (s : State) : Host.Outcome State Fault Refusal := fpCompare s true .eq d a r b q
/-- R199. -/
def execDcmpNe (d a : Reg) (r : Route) (b : Reg) (q : Route) (s : State) : Host.Outcome State Fault Refusal := fpCompare s true .ne d a r b q
/-- R199. -/
def execDcmpLt (d a : Reg) (r : Route) (b : Reg) (q : Route) (s : State) : Host.Outcome State Fault Refusal := fpCompare s true .lt d a r b q
/-- R199. -/
def execDcmpLe (d a : Reg) (r : Route) (b : Reg) (q : Route) (s : State) : Host.Outcome State Fault Refusal := fpCompare s true .le d a r b q
/-- R199. -/
def execDcmpGt (d a : Reg) (r : Route) (b : Reg) (q : Route) (s : State) : Host.Outcome State Fault Refusal := fpCompare s true .gt d a r b q
/-- R199. -/
def execDcmpGe (d a : Reg) (r : Route) (b : Reg) (q : Route) (s : State) : Host.Outcome State Fault Refusal := fpCompare s true .ge d a r b q
/-- R199. -/
def execDcmpUn (d a : Reg) (r : Route) (b : Reg) (q : Route) (s : State) : Host.Outcome State Fault Refusal := fpCompare s true .un d a r b q
/-- R199. -/
def execDcmpOrd (d a : Reg) (r : Route) (b : Reg) (q : Route) (s : State) : Host.Outcome State Fault Refusal := fpCompare s true .ord d a r b q

/-! ## Packed halves (R201) -/

/-- Half h of a word: 0 low, 1 high. -/
def halfOf (w : Word) (h : Nat) : Nat := w.toNat / 2 ^ (16 * h) % 2 ^ 16
/-- A packed form: both halves, flags united (R82, R201). FPFTZ does not act (R61). -/
def packed (s : State) (f : Rounding → Nat → Nat → Nat → FRes) (d a : Reg) (r : Route) (b : Reg) (q : Route) : Host.Outcome State Fault Refusal :=
  floatInstr s (.fixed 4) fun g i =>
    let x := g.src s.cycle i a r
    let y := g.src s.cycle i b q
    let z := g.read s.cycle i d
    let lo := f g.fprm (halfOf x 0) (halfOf y 0) (halfOf z 0)
    let hi := f g.fprm (halfOf x 1) (halfOf y 1) (halfOf z 1)
    { writes := [(d, BitVec.ofNat 32 (lo.bits + 2 ^ 16 * hi.bits))], flags := lo.flags ||| hi.flags }
/-- Rounding of a packed half. -/
def halfMode (mode : Rounding) : RMode := { mode := mode, ftz := false, sat := false }
/-- A packed sum. -/
def halfAdd (f : FFmt) (mode : Rounding) (x y _z : Nat) : FRes := addVals f (halfMode mode) (f.value x) (f.value y)
/-- A packed product. -/
def halfMul (f : FFmt) (mode : Rounding) (x y _z : Nat) : FRes := f.mul (halfMode mode) (f.value x) (f.value y)
/-- A packed fused multiply-add (R65). -/
def halfFma (f : FFmt) (mode : Rounding) (x y z : Nat) : FRes := f.fma (halfMode mode) (f.value x) (f.value y) (f.value z)
/-- A packed maximum (R64). -/
def halfMax (f : FFmt) (_mode : Rounding) (x y _z : Nat) : FRes := f.minMax false true x y
/-- R201. -/
def execHadd2 (d a : Reg) (r : Route) (b : Reg) (q : Route) (s : State) : Host.Outcome State Fault Refusal := packed s (halfAdd .fp16) d a r b q
/-- R201. -/
def execHmul2 (d a : Reg) (r : Route) (b : Reg) (q : Route) (s : State) : Host.Outcome State Fault Refusal := packed s (halfMul .fp16) d a r b q
/-- R201. -/
def execHfma2 (d a : Reg) (r : Route) (b : Reg) (q : Route) (s : State) : Host.Outcome State Fault Refusal := packed s (halfFma .fp16) d a r b q
/-- R201. -/
def execHmax2 (d a : Reg) (r : Route) (b : Reg) (q : Route) (s : State) : Host.Outcome State Fault Refusal := packed s (halfMax .fp16) d a r b q
/-- R201. -/
def execBadd2 (d a : Reg) (r : Route) (b : Reg) (q : Route) (s : State) : Host.Outcome State Fault Refusal := packed s (halfAdd .bf16) d a r b q
/-- R201. -/
def execBmul2 (d a : Reg) (r : Route) (b : Reg) (q : Route) (s : State) : Host.Outcome State Fault Refusal := packed s (halfMul .bf16) d a r b q
/-- R201. -/
def execBfma2 (d a : Reg) (r : Route) (b : Reg) (q : Route) (s : State) : Host.Outcome State Fault Refusal := packed s (halfFma .bf16) d a r b q
/-- R201. -/
def execBmax2 (d a : Reg) (r : Route) (b : Reg) (q : Route) (s : State) : Host.Outcome State Fault Refusal := packed s (halfMax .bf16) d a r b q

/-! ## Conversions (R202, R203) -/

/-- The floating-point format of a name, if it is one (R104). -/
def floatOf (t : Fmt) : Option FFmt :=
  match t with
  | .fp32 => some .fp32
  | .fp64 => some .fp64
  | .fp16 => some .fp16
  | .bf16 => some .bf16
  | .e4m3 => some .e4m3
  | .e5m2 => some .e5m2
  | .s32 | .u32 | .s8 => none
/-- The bounds of an integer format (R67). -/
def boundsOf (t : Fmt) : Int × Int :=
  match t with
  | .u32 => (0, 4294967295)
  | .s8 => (-128, 127)
  | .s32 | .fp32 | .fp64 | .fp16 | .bf16 | .e4m3 | .e5m2 => (-2147483648, 2147483647)
/-- The integer a source register holds in an integer format (R203). -/
def intOf (u : Fmt) (b : Nat) : Int :=
  match u with
  | .u32 => (b % 2 ^ 32 : Nat)
  | .s8 => (BitVec.ofNat 8 b).toInt
  | .s32 | .fp32 | .fp64 | .fp16 | .bf16 | .e4m3 | .e5m2 => (BitVec.ofNat 32 b).toInt
/-- One value converted from format u to format t: the bits as R203 places them, and its flags (R66, R67). -/
def convertValue (t u : Fmt) (mode : Rounding) (ftz sat : Bool) (b : Nat) : FRes :=
  match floatOf t, floatOf u with
  | some ft, some fu => ft.round { mode := mode, ftz := ftz && ft.flushes, sat := sat } (fu.input (ftz && fu.flushes) (b % 2 ^ fu.width))
  | some ft, none => ft.ofInt { mode := mode, ftz := ftz && ft.flushes, sat := sat } (intOf u b)
  | none, some fu =>
      let v := toInteger mode (boundsOf t).1 (boundsOf t).2 (fu.input (ftz && fu.flushes) (b % 2 ^ fu.width))
      { bits := (BitVec.ofInt 32 v.1).toNat, flags := v.2 }
  | none, none => { bits := b, flags := 0 }
/-- A cvt (R202): an FP64 end is a pair, and gives the FP64 row of R91. -/
def convert (s : State) (t u : Fmt) (mode : Option Rounding) (sat : Bool) (d a : Reg) (r : Route) : Host.Outcome State Fault Refusal :=
  floatInstr s (fpLatency (t == .fp64 || u == .fp64)) fun g i =>
    .ofFRes (t == .fp64) d (convertValue t u (mode.getD g.fprm) g.fpftz sat (g.srcBits (u == .fp64) s.cycle i a r))
/-- R202. -/
def execCvt (d a : Reg) (r : Route) (t u : Fmt) (s : State) : Host.Outcome State Fault Refusal := convert s t u none false d a r
/-- R202. -/
def execCvtSat (d a : Reg) (r : Route) (t u : Fmt) (s : State) : Host.Outcome State Fault Refusal := convert s t u none true d a r
/-- R202. -/
def execCvtRn (d a : Reg) (r : Route) (t u : Fmt) (s : State) : Host.Outcome State Fault Refusal := convert s t u (some .nearestEven) false d a r
/-- R202. -/
def execCvtRz (d a : Reg) (r : Route) (t u : Fmt) (s : State) : Host.Outcome State Fault Refusal := convert s t u (some .towardZero) false d a r
/-- R202. -/
def execCvtRm (d a : Reg) (r : Route) (t u : Fmt) (s : State) : Host.Outcome State Fault Refusal := convert s t u (some .down) false d a r
/-- R202. -/
def execCvtRp (d a : Reg) (r : Route) (t u : Fmt) (s : State) : Host.Outcome State Fault Refusal := convert s t u (some .up) false d a r

/-! ## Packing and unpacking (R204, R205) -/

/-- Two FP32 values converted and packed at a distance of n bits (R204). -/
def packTwo (s : State) (t : Fmt) (n : Nat) (sat : Bool) (d a : Reg) (r : Route) (b : Reg) (q : Route) : Host.Outcome State Fault Refusal :=
  floatInstr s (.fixed 4) fun g i =>
    let x := convertValue t .fp32 g.fprm g.fpftz sat (g.src s.cycle i a r).toNat
    let y := convertValue t .fp32 g.fprm g.fpftz sat (g.src s.cycle i b q).toNat
    { writes := [(d, BitVec.ofNat 32 (x.bits + 2 ^ n * y.bits))], flags := x.flags ||| y.flags }
/-- Two integers packed as bytes (R204). -/
def packBytes (s : State) (f : Word → Nat) (d a : Reg) (r : Route) (b : Reg) (q : Route) : Host.Outcome State Fault Refusal :=
  floatInstr s (.fixed 4) fun g i => .word d (BitVec.ofNat 32 (f (g.src s.cycle i a r) + 256 * f (g.src s.cycle i b q)))
/-- A word's values of w bits widened into n registers (R205). -/
def unpackTo (s : State) (n w : Nat) (f : Bool → Nat → FRes) (d a : Reg) (r : Route) : Host.Outcome State Fault Refusal :=
  floatInstr s (.fixed 4) fun g i =>
    let x := (g.src s.cycle i a r).toNat
    let vs := (List.range n).map fun k => f g.fpftz (x / 2 ^ (w * k) % 2 ^ w)
    { writes := vs.zipIdx.map fun v => (d.plus v.2, BitVec.ofNat 32 v.1.bits), flags := vs.foldl (fun m v => m ||| v.flags) 0 }
/-- R204. -/
def execPkF16 (d a : Reg) (r : Route) (b : Reg) (q : Route) (s : State) : Host.Outcome State Fault Refusal := packTwo s .fp16 16 false d a r b q
/-- R204. -/
def execPkBf16 (d a : Reg) (r : Route) (b : Reg) (q : Route) (s : State) : Host.Outcome State Fault Refusal := packTwo s .bf16 16 false d a r b q
/-- R204. -/
def execPkE4m3 (d a : Reg) (r : Route) (b : Reg) (q : Route) (s : State) : Host.Outcome State Fault Refusal := packTwo s .e4m3 8 false d a r b q
/-- R204. -/
def execPkE5m2 (d a : Reg) (r : Route) (b : Reg) (q : Route) (s : State) : Host.Outcome State Fault Refusal := packTwo s .e5m2 8 false d a r b q
/-- R204. -/
def execPkE4m3Sat (d a : Reg) (r : Route) (b : Reg) (q : Route) (s : State) : Host.Outcome State Fault Refusal := packTwo s .e4m3 8 true d a r b q
/-- R204. -/
def execPkE5m2Sat (d a : Reg) (r : Route) (b : Reg) (q : Route) (s : State) : Host.Outcome State Fault Refusal := packTwo s .e5m2 8 true d a r b q
/-- R204. -/
def execPkI8 (d a : Reg) (r : Route) (b : Reg) (q : Route) (s : State) : Host.Outcome State Fault Refusal := packBytes s (fun x => x.toNat % 256) d a r b q
/-- R204. -/
def execPkI8S (d a : Reg) (r : Route) (b : Reg) (q : Route) (s : State) : Host.Outcome State Fault Refusal := packBytes s (fun x => (BitVec.ofInt 8 (clampInt (-128) 127 x.toInt)).toNat) d a r b q
/-- R205. -/
def execUnpkF16 (d a : Reg) (r : Route) (s : State) : Host.Outcome State Fault Refusal := unpackTo s 2 16 (fun ftz b => convertValue .fp32 .fp16 .nearestEven ftz false b) d a r
/-- R205. -/
def execUnpkBf16 (d a : Reg) (r : Route) (s : State) : Host.Outcome State Fault Refusal := unpackTo s 2 16 (fun ftz b => convertValue .fp32 .bf16 .nearestEven ftz false b) d a r
/-- R205. -/
def execUnpkE4m3 (d a : Reg) (r : Route) (s : State) : Host.Outcome State Fault Refusal := unpackTo s 4 8 (fun ftz b => convertValue .fp32 .e4m3 .nearestEven ftz false b) d a r
/-- R205. -/
def execUnpkE5m2 (d a : Reg) (r : Route) (s : State) : Host.Outcome State Fault Refusal := unpackTo s 4 8 (fun ftz b => convertValue .fp32 .e5m2 .nearestEven ftz false b) d a r
/-- R205. -/
def execUnpkI8 (d a : Reg) (r : Route) (s : State) : Host.Outcome State Fault Refusal := unpackTo s 4 8 (fun _ b => { bits := ((BitVec.ofNat 8 b).signExtend 32).toNat, flags := 0 }) d a r

/-! ## BQ4 across lanes (R206, R207) -/

/-- The 32 source values of the block of lane i: +0 in a lane that is not active; FPFTZ does not act (R61, R206). -/
def bq4Inputs (g : Group) (now : Nat) (m : LaneMask) (a : Reg) (r : Route) (base : Nat) : List FVal :=
  (List.range 32).map fun k => if m.getLsbD (base + k) then FFmt.fp32.value (g.src now (base + k) a r).toNat else .fin false 0 0
/-- What lane 32m + k receives of a block (R206). -/
def bq4LaneWord (blk : Bq4Block) (k : Nat) : Word :=
  if k < 4 then BitVec.ofNat 32 ((List.range 8).foldl (fun v j => v + blk.codes.getD (8 * k + j) 0 * 2 ^ (4 * j)) 0)
  else if k = 4 then BitVec.ofNat 32 blk.header else 0
/-- pk.bq4.tT (R206). A group of 16 lanes traps ILLEGAL. (DESIGN CHOICE: log entry 97.) -/
def packBq4 (s : State) (type : Nat) (d a : Reg) (r : Route) : Host.Outcome State Fault Refusal :=
  s.issue fun p g =>
    if g.width < 32 then s.trapAt p.gid p.cur .illegal p.cur.lanes 0
    else
      let blocks := (List.range (g.width / 32)).map fun b => bq4Pack type g.fprm (bq4Inputs g s.cycle p.cur.lanes a r (32 * b))
      (s.suspend g (.scoreboard 12)).lanewise p g (.scoreboard 12) fun i =>
        let blk := blocks.getD (i / 32) { header := 0, codes := [], flags := [], blockFlags := 0 }
        { writes := [(d, bq4LaneWord blk (i % 32))], flags := blk.flags.getD (i % 32) 0 ||| blk.blockFlags }
/-- R206. -/
def execPkBq4T0 (d a : Reg) (r : Route) (s : State) : Host.Outcome State Fault Refusal := packBq4 s 0 d a r
/-- R206. -/
def execPkBq4T1 (d a : Reg) (r : Route) (s : State) : Host.Outcome State Fault Refusal := packBq4 s 1 d a r
/-- R206. -/
def execPkBq4T2 (d a : Reg) (r : Route) (s : State) : Host.Outcome State Fault Refusal := packBq4 s 2 d a r
/-- R206. -/
def execPkBq4T3 (d a : Reg) (r : Route) (s : State) : Host.Outcome State Fault Refusal := packBq4 s 3 d a r
/-- The header a block's fifth lane holds (R207). -/
def bq4HeaderAt (g : Group) (now : Nat) (a : Reg) (b : Nat) : Nat := (g.read now (32 * b + 4) a).toNat % 2 ^ 16
/-- R207: BAD_BLOCK names the active lanes of malformed blocks. -/
def execUnpkBq4 (d a : Reg) (s : State) : Host.Outcome State Fault Refusal :=
  s.issue fun p g =>
    if g.width < 32 then s.trapAt p.gid p.cur .illegal p.cur.lanes 0
    else
      let bad := maskOf ((g.list p.cur.lanes).filter fun i => bq4Malformed (bq4HeaderAt g s.cycle a (i / 32)))
      if bad ≠ 0 then s.trapAt p.gid p.cur .badBlock bad 0
      else (s.suspend g (.scoreboard 12)).lanewise p g (.scoreboard 12) fun i =>
        let code := (g.read s.cycle (i / 32 * 32 + i % 32 / 8) a).toNat / 2 ^ (4 * (i % 8)) % 16
        { writes := [(d, BitVec.ofNat 32 (FFmt.fp32.round (halfMode g.fprm) (bq4Value (bq4HeaderAt g s.cycle a (i / 32)) code)).bits)],
          flags := (FFmt.fp32.round (halfMode g.fprm) (bq4Value (bq4HeaderAt g s.cycle a (i / 32)) code)).flags }

end Sys2Proof.Machine
end

