-- ==== Sys2Proof/Machine/LaneStream.lean ====
section
/-! DEFINITION. Random streams and aged values in lanes (R73 to R76, R84, R85, R208 to R214). -/
namespace Sys2Proof.Machine

/-! ## Random streams (R208, R209) -/

/-- The position of the stream quad of a lane. -/
def streamPos (g : Group) (now i : Nat) (q : Reg) : Nat := (g.readPair now i (q.plus 2)).toNat
/-- A word of the stream of a lane's quad, ahead of its position. -/
def streamAt (g : Group) (now i : Nat) (q : Reg) (ahead : Nat) : Word :=
  streamWord (g.read now i q) (g.read now i (q.plus 1)) (streamPos g now i q + ahead)
/-- The position of a quad moved on (R209). -/
def advanced (g : Group) (now i : Nat) (q : Reg) (n : Nat) : List (Reg × Word) :=
  (LaneRes.pair (q.plus 2) (BitVec.ofNat 64 (streamPos g now i q + n))).writes

/-- R208. -/
def execRngKey (d a : Reg) (r : Route) (b : Reg) (q : Route) (s : State) : Host.Outcome State Fault Refusal :=
  laneInstr s (.scoreboard 4) fun g i =>
    { writes := [(d, g.src s.cycle i a r), (d.plus 1, g.src s.cycle i b q), (d.plus 2, 0), (d.plus 3, 0)] }
/-- R208: the key stays, the position moves by b × 2^32 + a. -/
def execRngSkip (d a : Reg) (r : Route) (b : Reg) (q : Route) (s : State) : Host.Outcome State Fault Refusal :=
  laneInstr s (.scoreboard 4) fun g i =>
    .pair (d.plus 2) (g.readPair s.cycle i (d.plus 2) + joinWords (g.src s.cycle i a r) (g.src s.cycle i b q))
/-- R209. -/
def execRngDraw (d a : Reg) (s : State) : Host.Outcome State Fault Refusal :=
  laneInstr s (.scoreboard 12) fun g i => { writes := (d, streamAt g s.cycle i a 0) :: advanced g s.cycle i a 1 }
/-- R209. -/
def execRngDrawF32 (d a : Reg) (s : State) : Host.Outcome State Fault Refusal :=
  laneInstr s (.scoreboard 12) fun g i =>
    { writes := (d, BitVec.ofNat 32 (FFmt.fp32.round .engine (.fin false ((streamAt g s.cycle i a 0).toNat / 2 ^ 8) (-24))).bits) :: advanced g s.cycle i a 1 }
/-- R209. -/
def execRngDrawF64 (d a : Reg) (s : State) : Host.Outcome State Fault Refusal :=
  laneInstr s (.scoreboard 16) fun g i =>
    let u := (joinWords (streamAt g s.cycle i a 0) (streamAt g s.cycle i a 1)).toNat
    { writes := (LaneRes.pair d (BitVec.ofNat 64 (FFmt.fp64.round .engine (.fin false (u / 2 ^ 11) (-53))).bits)).writes ++ advanced g s.cycle i a 2 }

/-! ## Aged values (R210 to R214) -/

/-- An AE64 element (R73). -/
structure Aged where
  value : Word
  stamp : Nat
  sel : Nat
  deriving DecidableEq, Repr

/-- The element of 64 bits (R73). -/
def agedOf (x : DWord) : Aged := { value := hiWord x, stamp := x.toNat / 256 % 2 ^ 24, sel := x.toNat % 256 }
/-- The 64 bits of an element (R73). -/
def Aged.bits (e : Aged) : DWord := joinWords (BitVec.ofNat 32 (e.stamp % 2 ^ 24 * 256 + e.sel % 256)) e.value

/-- The old decay table that a read tagged with an epoch uses, when a switch has come after the tag (R340). -/
def tableUnder (changes : List Change) (tag : Nat) : Option (List (Option Word)) :=
  match changes with
  | [] => none
  | c :: r => match c.kind with
    | .decay old => if tag ≤ c.epoch then some old else tableUnder r tag
    | .unmap _ _ _ | .attrs _ _ _ | .migrate _ _ _ _ | .image _ => tableUnder r tag

/-- The entry of the installed decay table at an index: none for one on a failing line (R53; log entry 11). -/
def State.decayWord (s : State) (k : Nat) : Option Word :=
  let pa := s.dev.decayBase + 4 * k
  if s.lineBad none (pa / 64) then none else some (wordOfBytes (cellsRead s.mem.hbm pa 4))
/-- The entries of the installed decay table; none is installed while the base is 0 (R53). -/
def State.decayWords (s : State) : List (Option Word) := if s.dev.decayBase = 0 then [] else (List.range 4096).map s.decayWord
/-- The decay factor that a selector of a domain names, for a read tagged with an epoch (R53, R75, R340): none when no table is installed or the entry is not valid. (DEDUCED: log entry 11.) -/
def State.decayFactor (s : State) (tag domain sel : Nat) : Option FVal :=
  match tableUnder s.dev.changes tag with
  | some ws => (ws.getD (256 * domain + sel) none).bind decayEntry
  | none => if s.dev.decayBase = 0 then none else (s.decayWord (256 * domain + sel)).bind decayEntry

/-- FP32 bits as an input that is delivered unrounded: a subnormal reads as zero of its sign under FTZ, with no flag (R61). -/
def flushedBits (ftz : Bool) (w : Word) : Nat := if ftz && w.toNat / 2 ^ 23 % 256 == 0 then w.toNat / 2 ^ 31 * 2 ^ 31 else w.toNat
/-- A value aged to a datum, with the flags of R76. -/
def agedValue (g : RMode) (ftz : Bool) (lam : FVal) (e : Aged) (datum : DWord) : FRes :=
  let age := ageOf datum e.stamp
  if age ≥ 2 ^ 23 then { bits := flushedBits ftz e.value, flags := Flags.af }
  else FFmt.fp32.mul g (FFmt.fp32.input ftz e.value.toNat) (fDecay lam age)

/-- The domain an aged instruction names in a lane (R210). -/
def domainOf (b : Word) : Fin 16 := Fin.ofNat 16 (b.toNat % 16)

/-- An aged instruction that checks selectors: DECAY_RANGE names the lanes whose selectors are not valid (R75, R210). -/
def agedInstr (s : State) (sels : Group → Nat → List (Fin 16 × Nat)) (f : Group → Nat → LaneRes) : Host.Outcome State Fault Refusal :=
  s.issue fun p g =>
    let bad := maskOf ((g.list p.cur.lanes).filter fun i => (sels g i).any fun x => (s.decayFactor s.dev.qepoch x.1.val x.2).isNone)
    if bad ≠ 0 then s.trapAt p.gid p.cur .decayRange bad 0
    else (s.suspend g (.scoreboard 32)).lanewise p g (.scoreboard 32) (f g)

/-- The factor of a selector that has been checked. -/
def State.factor (s : State) (n : Fin 16) (sel : Nat) : FVal := (s.decayFactor s.dev.qepoch n.val sel).getD (.fin false 0 0)

/-- R211. (DEDUCED: log entry 72.) -/
def execAget (d a : Reg) (r : Route) (b : Reg) (q : Route) (s : State) : Host.Outcome State Fault Refusal :=
  agedInstr s (fun g i => [(domainOf (g.src s.cycle i b q), (agedOf (g.srcPair s.cycle i a r)).sel)]) fun g i =>
    let n := domainOf (g.src s.cycle i b q)
    let e := agedOf (g.srcPair s.cycle i a r)
    .ofFRes false d (agedValue (g.rmode .fp32) g.fpftz (s.factor n e.sel) e (s.dev.datum.get n))

/-- R212. (DEDUCED: log entry 72.) -/
def execAadd (d a : Reg) (r : Route) (b : Reg) (q : Route) (s : State) : Host.Outcome State Fault Refusal :=
  agedInstr s (fun g i => [(domainOf (g.src s.cycle i b q), (agedOf (g.readPair s.cycle i d)).sel)]) fun g i =>
    let n := domainOf (g.src s.cycle i b q)
    let e := agedOf (g.readPair s.cycle i d)
    let datum := s.dev.datum.get n
    let x := g.fin .fp32 (g.src s.cycle i a r).toNat
    let v := g.fin .fp32 e.value.toNat
    let age := ageOf datum e.stamp
    let res := if age ≥ 2 ^ 23 then addVals .fp32 (g.rmode .fp32) v x
      else FFmt.fp32.fma (g.rmode .fp32) v (fDecay (s.factor n e.sel) age) x
    { writes := (LaneRes.pair d ({ value := BitVec.ofNat 32 res.bits, stamp := datum.toNat, sel := e.sel } : Aged).bits).writes,
      flags := res.flags ||| (if age ≥ 2 ^ 23 then Flags.af else 0) }

/-- R213. -/
def execAmerge (d a : Reg) (r : Route) (b : Reg) (q : Route) (s : State) : Host.Outcome State Fault Refusal :=
  agedInstr s (fun g i =>
      let n := domainOf (g.src s.cycle i b q)
      [(n, (agedOf (g.readPair s.cycle i d)).sel), (n, (agedOf (g.srcPair s.cycle i a r)).sel)]) fun g i =>
    let n := domainOf (g.src s.cycle i b q)
    let e := agedOf (g.readPair s.cycle i d)
    let h := agedOf (g.srcPair s.cycle i a r)
    let datum := s.dev.datum.get n
    let ve := g.fin .fp32 e.value.toNat
    let vh := g.fin .fp32 h.value.toNat
    let ageE := ageOf datum e.stamp
    let ageH := ageOf datum h.stamp
    let future := ageE ≥ 2 ^ 23 || ageH ≥ 2 ^ 23
    let m := min ageE ageH
    let res := if future then addVals .fp32 (g.rmode .fp32) ve vh
      else FFmt.fp32.add (g.rmode .fp32) (ve.mul (fDecay (s.factor n e.sel) (ageE - m))) (vh.mul (fDecay (s.factor n h.sel) (ageH - m)))
    let stamp := if future then datum.toNat else datum.toNat % 2 ^ 24 + 2 ^ 24 - m
    { writes := (LaneRes.pair d ({ value := BitVec.ofNat 32 res.bits, stamp := stamp, sel := e.sel } : Aged).bits).writes,
      flags := res.flags ||| (if future then Flags.af else 0) }

/-- R214. (DESIGN CHOICE: log entry 98.) -/
def execAset (d a : Reg) (r : Route) (b : Reg) (q : Route) (s : State) : Host.Outcome State Fault Refusal :=
  laneInstr s (.scoreboard 32) fun g i =>
    let c := g.src s.cycle i b q
    .pair d ({ value := g.src s.cycle i a r, stamp := (s.dev.datum.get (domainOf c)).toNat, sel := c.toNat / 256 % 256 } : Aged).bits

end Sys2Proof.Machine
end

