-- ==== Sys2Proof/Machine/Messages.lean ====
section
/-! DEFINITION. Sending on the fabric (R447 to R455), launch records and the pending-launch store (R404 to R410), and weight (R46, R47, R417). -/
namespace Sys2Proof.Machine

/-! ## Links and flits -/

/-- A link's state; one that has passed no flit yet is up with its numbers at 0, and its 10 µs begin with its first use (DESIGN CHOICE, log entry 3). -/
def State.link (s : State) (port : Nat) : Link := (lookup s.fab.links port).getD { nextSeq := 0, replay := [], expect := 0, replays := 0, up := true, heard := s.timebase }
def State.setLink (s : State) (port : Nat) (l : Link) : State := { s with fab := { s.fab with links := put s.fab.links port l } }

/-- The live ports of a destination's route table entry (R452). -/
def State.livePorts (s : State) (dest : Nat) : List Nat := ((lookup s.fab.routes dest).getD []).filter fun p => (s.link p).up
/-- Is a request to the device decided at once (R455)? -/
def State.unreachable (s : State) (dest : Nat) : Bool :=
  dest != s.fab.devNum && (s.fab.lost.contains dest || ((lookup s.fab.routes dest).getD []).isEmpty)

/-- The virtual channel of a message (R450). -/
def FlitMsg.vc : FlitMsg → Nat
  | .rdreq _ => 0
  | .rdrsp _ _ => 1
  | .wr _ => 0
  | .wrack => 1
  | .atomreq _ => 0
  | .atomrsp _ => 1
  | .failrsp _ => 1
  | .invoke _ => 2
  | .claimmsg _ => 2
  | .claimres _ => 2
  | .signal _ => 2
  | .coll _ => 3
  | .mgmt _ => 3

/-- The number of the last flit received in order on a link, as LACK carries it (R447, R448). -/
def Link.lack (l : Link) : Nat := (l.expect + 511) % 512
/-- A flit put on a link (R448): the next LSEQ, the acknowledgement of what has been received. At most 256 are unacknowledged; a flit beyond them waits in the buffer and leaves when room comes. -/
def State.transmit (s : State) (port : Nat) (h : FlitHdr) (m : FlitMsg) : State :=
  let l := s.link port
  let h := { h with port := port, lseq := l.nextSeq, lack := l.lack }
  let s := s.setLink port { l with nextSeq := (l.nextSeq + 1) % 512, replay := l.replay ++ [(h, m)] }
  if l.replay.length < 256 then { s with outbox := s.outbox ++ [.flit h m] } else s

/-- A flit on its way (R452): to the live port that the fixed hash picks; dropped with no live port. -/
def State.forward (s : State) (h : FlitHdr) (m : FlitMsg) : State :=
  match s.livePorts h.dest with
  | [] => s
  | p :: ps => s.transmit ((p :: ps).getD (Config.routeHash h.src h.dest % (ps.length + 1)) p) h m

/-- A message sent to a device: one for the device itself is delivered locally (R452); another takes the next ESEQ of its destination and channel (R447). (DESIGN CHOICE: log entry 35.) -/
def State.sendMsg (s : State) (dest tag : Nat) (m : FlitMsg) : State :=
  let h : FlitHdr := { port := 19, lseq := 0, lack := 0, hops := 32, dest := dest, src := s.fab.devNum, tag := tag, eseq := 0, badLines := 0 }
  if dest = s.fab.devNum then { s with loop := s.loop ++ [(h, m)] }
  else
    let n := ((s.fab.sendSeq.find? fun e => e.1 == dest && e.2.1 == m.vc).map (·.2.2)).getD 0
    let s := { s with fab := { s.fab with sendSeq := (dest, m.vc, (n + 1) % 2 ^ 16) :: s.fab.sendSeq.filter fun e => !(e.1 == dest && e.2.1 == m.vc) } }
    s.forward { h with eseq := n } m

/-- The tag of a wait on a claim whose home is another device. -/
def WaitKind.claimTag (k : WaitKind) : Option (Option Nat) := match k with
  | .claim _ _ t => some t
  | .barrier _ _ | .queuePop _ | .queuePush _ | .tile _ _ | .stores | .remoteCheck _ | .launchStore _ _ | .token _ | .batch _ | .sealLimit | .fence _ _ | .cbuf _ _ | .phase _
  | .grant _ | .sweep _ | .table | .exit | .staging => none
/-- The tags in use (R447): of open requests, of claims awaited, of answers not yet taken up, of gates. -/
def State.usedTags (s : State) : List Nat :=
  s.fab.reqs.map (·.1) ++ (s.groups.flatMap fun g => g.2.answers.map (·.1) ++ g.2.waits.filterMap fun w => w.kind.claimTag.bind id)
    ++ s.eng.cmds.filterMap fun c => match c.2.gate with
      | .waiting t => t
      | .ready => none
      | .broken _ => none
/-- The first tag from a number on that is not in use, n tags passed over at most. -/
def tagFrom (used : List Nat) : Nat → Nat → Nat
  | 0, t => t
  | n + 1, t => if used.contains t then tagFrom used n ((t + 1) % 2 ^ 16) else t
/-- The tag of the next request. (DESIGN CHOICE: log entry 35.) -/
def State.openTag (s : State) : Nat := tagFrom s.usedTags s.usedTags.length s.fab.nextTag
/-- The next tag, for a request that no timeout bounds. -/
def State.takeTag (s : State) : Nat × State := (s.openTag, { s with fab := { s.fab with nextTag := (s.openTag + 1) % 2 ^ 16 } })
/-- A request that awaits an answer (R453, R455): it gets a tag; one that cannot be delivered kills the launch with DEVICE_LOST. -/
def State.request (s : State) (dest : Nat) (m : FlitMsg) (owner : ReqOwner) (launch : Nat) : Nat × State :=
  let (tag, s) := s.takeTag
  if s.unreachable dest then (tag, s.requestKill launch .deviceLost)
  else
    let s := { s with fab := { s.fab with reqs := put s.fab.reqs tag { device := dest, sentAt := s.timebase, launch := launch, owner := owner } } }
    (tag, s.sendMsg dest tag m)

/-- A posted request answered: it is outstanding no longer. -/
def State.answered (s : State) (tag : Nat) : State := { s with fab := { s.fab with reqs := del s.fab.reqs tag } }

/-- Has a launch a posted store or a remote signal not yet acknowledged (R45, R424)? -/
def State.unacknowledged (s : State) (launch : Nat) : Bool :=
  s.fab.reqs.any fun r => r.2.owner == .store launch || r.2.owner == .signal launch

/-! ## Weight -/

/-- Weight returned to a root: a remote signal of a launch (R46, R158, R159). (DEDUCED: log entry 48.) -/
def State.giveBack (s : State) (launch : Nat) (root : Option RootAddr) (amount : Nat) : State :=
  match root with
  | none => s
  | some r => if amount = 0 then s else (s.request r.device (.signal (.giveBack r amount)) (.signal launch) launch).2

/-- An invocation sent (R154): to its device, or to the target claim at its home. A device that is lost or is not of the domain breaks the new claim, and its weight returns (R156, R158). (DEDUCED: log entry 83.) -/
def State.sendInvoke (s : State) (launch device : Nat) (target : Option DWord) (m : InvokeMsg) : State :=
  if s.unreachable device then
    (s.sendMsg s.fab.devNum 0 (.claimres (.broken m.claim Cause.deviceLost.code (if target.isNone then 0 else 1)))).giveBack launch m.root m.weight
  else match target with
    | none => s.sendMsg device 0 (.invoke m)
    | some c => s.sendMsg device 0 (.claimmsg { claim := c, body := .invoke m })

/-- Team i's share of a weight among T teams (R417). -/
def weightShare (w teams i : Nat) : Nat := w / teams + (if i < w % teams then 1 else 0)

/-! ## Launch records (R404, R405) -/

/-- The fields of a record (R404). -/
def recordOf (bs : List Byte) : LaunchRec :=
  { kernel := fieldAt bs 0 4, bounded := fieldAt bs 4 1 == 1, prio := fieldAt bs 5 1, graph := fieldAt bs 6 1 % 2 == 1,
    teams := fieldAt bs 8 4 + 1, deadline := fieldAt bs 0x10 8, workbound := fieldAt bs 0x18 8, tmax := fieldAt bs 0x20 8,
    params := fieldAt bs 0x28 8, compl := fieldAt bs 0x30 8, tag := fieldAt bs 0x38 8 }

/-- A kernel by its handle, in the address space it was loaded into (R407). -/
def State.kernelOf (s : State) (asid handle : Nat) : Option Kernel :=
  (lookup s.sched.kernels handle).bind fun k => (lookup s.sched.images k.image).bind fun i => if i.asid = asid ∧ handle ≠ 0 then some k else none

/-- The checks of R405: the kernel, or BAD_RECORD (4) or BAD_SHAPE (3). (DEDUCED: log entry 44.) (DEDUCED: log entry 76.) -/
def State.checkRecord (s : State) (asid : Nat) (bs : List Byte) : Except Nat Kernel :=
  let r := recordOf bs
  match s.kernelOf asid r.kernel with
  | none => .error 4
  | some k =>
      if fieldAt bs 7 1 ≠ 0 ∨ fieldAt bs 0xC 4 ≠ 0 ∨ fieldAt bs 6 1 > 1 ∨ fieldAt bs 4 1 > 1 ∨ r.prio > 7 ∨ r.workbound = 0 ∨ r.tmax > r.workbound
          ∨ r.params % 64 ≠ 0 ∨ r.params ≥ 2 ^ 46 ∨ (k.params = 0 ∧ r.params ≠ 0) ∨ r.compl % 64 ≠ 0 ∨ (r.graph ∧ r.compl = 0) then .error 4
      else if r.teams % k.gang ≠ 0 then .error 3
      else .ok k

/-! ## The pending-launch store (R408) -/

/-- Is the entry of a die held? -/
def State.entryHeld (s : State) (die e : Nat) : Bool := s.launches.any fun l => l.2.die == die && l.2.entry == some e
/-- The lowest free entry from a first one, among n. -/
def State.freeEntry (s : State) (die first : Nat) : Nat → Option Nat
  | 0 => none
  | n + 1 => if s.entryHeld die first then s.freeEntry die (first + 1) n else some first
/-- A free ordinary entry of a die. -/
def State.ordinaryEntry (s : State) (die : Nat) : Option Nat := s.freeEntry die 0 Config.launchEntries
/-- A free entry of a reserved class, 1 to 8. -/
def State.reservedEntry (s : State) (die cls : Nat) : Option Nat := s.freeEntry die (3840 + 32 * (cls - 1)) 32

/-- The priority key of R410 as one number: CLASS above PRIO. -/
def Launch.key (l : Launch) : Nat := (if l.record.bounded then 8 else 0) + l.record.prio

/-- The completion record of a launch written when its entry is taken (R409). -/
def State.openRecord (s : State) (asid : Nat) (r : LaunchRec) : State :=
  if r.compl = 0 then s
  else s.writeLocal asid r.compl (bytesOfNat 8 0 ++ bytesOfNat 8 r.tag ++ bytesOfNat 48 0)

/-- A launch that takes an entry (R408, R409). -/
def State.enterLaunch (s : State) (r : LaunchRec) (k : Kernel) (asid die : Nat) (origin : Origin) (entry : Option Nat) (weight : Nat) (root : Option RootAddr) (depth : Nat) : Nat × State :=
  let (id, s) := s.fresh
  let l : Launch :=
    { record := r, kern := k, asid := asid, die := die, origin := origin, st := .queued, entry := entry, order := s.sched.nextOrder, tadmit := 0, charge := 0,
      weight := weight, root := root, nextGang := 0, teamsEnded := 0, cause := none, depth := depth, pairs := none, extra := 0 }
  let s := { s with sched := { s.sched with nextOrder := s.sched.nextOrder + 1 } }
  let s := match origin with
    | .host => s.openRecord asid r
    | .device _ => s.openRecord asid r
    | .node _ _ => s
    | .invoked _ _ _ _ _ => s
    | .recompute _ _ => s
  (id, s.setLaunch id l)

/-- The weight and root a new launch takes: its own root with weight 2^62 when it opens a graph, else what it was given (R46, R417). -/
def State.openGraph (s : State) (asid : Nat) (r : LaunchRec) (weight : Nat) (root : Option RootAddr) : Nat × Option RootAddr :=
  if r.graph then (2 ^ 62, some { device := s.fab.devNum, asid := asid, la := r.compl }) else (weight, root)

/-! ## Blocks that the device builds (R155, R252; log entry 9) -/

/-- The local address of the n-th block: the top of the local address space, downwards. (DESIGN CHOICE: log entry 9.) -/
def blockLa (n : Nat) : Nat := 2 ^ 46 - 65536 * (n + 1)
/-- The frame of the n-th block: the top of the reserved area of HBM4, downwards. (DESIGN CHOICE: log entry 9.) -/
def blockPa (n : Nat) : Nat := Config.hbmBytes - 65536 * (n + 1)
/-- The lowest block number, among those left, whose frame no page uses. -/
def State.freeBlock (s : State) (n : Nat) : Nat → Nat
  | 0 => n
  | k + 1 => if s.mem.pages.any (fun p => p.pa == blockPa n || p.la == blockLa n) then s.freeBlock (n + 1) k else n
/-- A block built for a launch: a hidden COHERENT page that is not executable. (DESIGN CHOICE: log entry 9.) -/
def State.buildBlock (s : State) (asid : Nat) (bytes : List Byte) : Nat × State :=
  let n := s.freeBlock 0 30000
  let s := { s with mem := { s.mem with pages := s.mem.pages ++ [{ asid := asid, la := blockLa n, size := 65536, pa := blockPa n, attr := 0x8080#32 }],
                                        hbm := cellsWrite (cellsClear s.mem.hbm (blockPa n) 65536) (blockPa n) bytes } }
  (n, s)
/-- A block released. -/
def State.releaseBlock (s : State) (n : Nat) : State :=
  { s with mem := { s.mem with pages := s.mem.pages.filter fun p => p.la != blockLa n } }

end Sys2Proof.Machine
end

