-- ==== Sys2Proof/Machine/Tiles.lean ====
section
/-! DEFINITION. Recipe-backed tiles (R252, R253, R388 to R395): dropping a tile, meeting one that is not VALID, starting a build, and the chains of builds. -/
namespace Sys2Proof.Machine

/-- The address space of a tile key. -/
def keyAsid (k : Nat) : Nat := k / 2 ^ 32
/-- The local address of a tile key. -/
def keyLa (k : Nat) : Nat := k % 2 ^ 32 * 2 ^ 14
/-- The physical address of a tile, while its page is mapped. -/
def State.tilePa (s : State) (k : Nat) : Option Nat := (s.pageAt (keyAsid k) (keyLa k)).map fun p => p.phys (keyLa k)

/-! ## Records (R252) -/

/-- KERNEL of a record. -/
def recKernel (r : List Byte) : Nat := fieldAt r 0 4
/-- The tile numbers of the sources a record names. (DESIGN CHOICE: log entry 99.) -/
def recSources (r : List Byte) : List Nat := (([4, 8, 12, 16].map fun o => fieldAt r o 4).filter fun t => t != 0xFFFFFFFF).eraseDups
/-- STRUCT of a record. -/
def recStruct (r : List Byte) : Nat := fieldAt r 0x14 4
/-- The local address of a record's parameter block; 0 for none. -/
def recParam (r : List Byte) : Nat := fieldAt r 0x18 8 / 2 ^ 24 * 64
/-- DEPTH of a record. -/
def recDepth (r : List Byte) : Nat := fieldAt r 0x18 8 / 2 ^ 20 % 16

/-- The state word of a tile (R257): RES and BLD are fixed in a certified kernel. -/
def Tile.word (t : Tile) (certified : Bool) : Word :=
  BitVec.ofNat 32 ((if certified || t.st == .valid then 2 ^ 31 else 0) + (if !certified && t.st == .building then 2 ^ 30 else 0)
    + (if t.record.isSome then 2 ^ 29 else 0) + ((t.record.map recDepth).getD 0) * 2 ^ 20 + t.pins % 2 ^ 16)

/-! ## Dropping (R254, R389) -/

/-- A tile's data discarded in every cache and in HBM4. -/
def State.discardTile (s : State) (k : Nat) : State :=
  match s.tilePa k with
  | none => s
  | some pa =>
      { s with mem := { s.mem with
          hbm := cellsClear s.mem.hbm pa 16384
          l1dirty := s.mem.l1dirty.map fun c => (c.1, cellsClear c.2 pa 16384)
          checks := s.mem.checks.filter fun l => !(decide (pa ≤ 64 * l.1) && decide (64 * l.1 < pa + 16384))
          l1bad := s.mem.l1bad.filter fun l => !(decide (pa ≤ 64 * l.2) && decide (64 * l.2 < pa + 16384)) } }
/-- A VALID tile with a record becomes DROPPED; any other stays as it is (R254, R389). -/
def State.dropTile (s : State) (k : Nat) : State :=
  let t := s.tile k
  if t.st == .valid && t.record.isSome then (s.discardTile k).setTile k { t with st := .dropped } else s

/-- A line that fails its check in a tile with a record drops the tile (R224, R402). -/
def State.dropIfFailing (s : State) (core : Option Nat) (k : Option Nat) (l : Loc) (n : Nat) : State :=
  match k with
  | none => s
  | some t => if s.lineFails core l n then s.dropTile t else s

/-! ## Who waits on whom (R392) -/

/-- Does a wait wait on a tile: a fetch, or an instruction that reads a record or a queue there? -/
def WaitKind.onTile (k : WaitKind) (t : Nat) : Bool := match k with
  | .tile u _ => u == t
  | .barrier _ _ | .queuePop _ | .queuePush _ | .stores | .remoteCheck _ | .claim _ _ _ | .launchStore _ _ | .token _ | .batch _ | .sealLimit | .fence _ _ | .cbuf _ _
  | .phase _ | .grant _ | .sweep _ | .table | .exit | .staging => false
/-- Does a launch wait on a tile: with a held access, a fetch or record read, a waiting store, a copy, or an engine command? -/
def State.launchWaitsOn (s : State) (l k : Nat) : Bool :=
  s.groups.any (fun g => s.launchIdOf g.2 == l && (g.2.waits.any (·.kind.onTile k) || g.2.sb.any fun e => e.rows.any fun r => !r.done && r.tile == some k))
    || s.mem.storeQ.any (fun st => st.launch == l && st.tile == some k)
    || s.eng.copies.any (fun c => c.2.launch == l && c.2.tile == some k)
    || s.eng.cmds.any (fun c => c.2.launch == l && c.2.tile == some k)

/-- The tiles whose builds wait on one of a set of tiles. -/
def State.waitingBuilds (s : State) (ts : List Nat) : List Nat :=
  s.mem.tiles.filterMap fun t => match t.2.build with
    | none => none
    | some l => if ts.any (s.launchWaitsOn l ·) then some t.1 else none
/-- The chain of a tile (R392): it and every build that waits on it, directly or through other builds. -/
def State.chainFrom (s : State) : Nat → List Nat → List Nat
  | 0, ts => ts
  | n + 1, ts => s.chainFrom n (ts ++ (s.waitingBuilds ts).filter fun t => !ts.contains t)
def State.chainOf (s : State) (k : Nat) : List Nat := s.chainFrom s.mem.tiles.length [k]

/-- A tile's chain is to end with a cause: RECIPE_CHAIN_END carries it out. -/
def State.endLater (s : State) (k : Nat) (c : Cause) : State :=
  let t := s.tile k
  if t.ending.isSome then s else s.setTile k { t with ending := some c }

/-! ## Starting a build (R391 to R395) -/

/-- The parameter block of a recompute team (R252); none when the block at PARAM cannot be read (R392). (DEDUCED: log entry 44.) -/
def State.recipeBlock (s : State) (k : Nat) (r : List Byte) (params : Nat) : Option (List Byte) :=
  let head := bytesOfNat 8 (keyLa k) ++ bytesOfNat 4 (recStruct r) ++ bytesOfNat 4 0
  if recParam r = 0 then some ((head ++ List.replicate (params - 16) 0).take params)
  else
    let n := params - 16
    let fails := (List.range n).any fun i => match s.pageAt (keyAsid k) (recParam r + i) with
      | none => true
      | some p => s.lineFails none (.phys (p.phys (recParam r + i))) 1
    if fails then none else some ((head ++ s.readLocal (keyAsid k) (recParam r) n).take params)

/-- The launch record of a recompute launch: one team, with the class, priority and deadline of the launch it is charged to (R391, R394, R410). -/
def recomputeRecord (handle params : Nat) (charged : Option Launch) : LaunchRec :=
  { kernel := handle, bounded := (charged.map (·.record.bounded)).getD false, prio := (charged.map (·.record.prio)).getD 0, graph := false, teams := 1,
    deadline := (charged.map (·.record.deadline)).getD 0, workbound := (charged.map (·.record.workbound)).getD (2 ^ 64 - 1), tmax := 0, params := params, compl := 0, tag := 0 }

/-- One build: BUILDING with its launch, a grid of one team with gang size 1; a miss that waits for an entry of its class, while another miss of the tile from another depth or die may still take one of its own; or the end of its chain when it cannot start (R391, R392). -/
def State.startOne (s : State) (k depth : Nat) (charged : Option Nat) (die : Nat) : State :=
  let t := s.tile k
  match t.record with
  | none => s.endLater k .recipeMiss
  | some r =>
      match s.kernelOf (keyAsid k) (recKernel r) with
      | none => s.endLater k .recipeMiss
      | some kern =>
          if !kern.recipe then s.endLater k .recipeMiss
          else match s.recipeBlock k r kern.params with
            | none => s.endLater k .recipeMiss
            | some bytes =>
                match s.reservedEntry die depth with
                | none => if t.wants.contains (depth, charged, die) then s else s.setTile k { t with wants := t.wants ++ [(depth, charged, die)] }
                | some e =>
                    let (n, s) := if kern.params = 0 then (0, s) else s.buildBlock (keyAsid k) bytes
                    let rec' := recomputeRecord (recKernel r) (if kern.params = 0 then 0 else blockLa n) (charged.bind s.launch?)
                    let (id, s) := s.enterLaunch rec' { kern with gang := 1 } (keyAsid k) die (.recompute k charged) (some e) 0 none depth
                    s.setTile k { t with st := .building, bdepth := depth, build := some id, wants := [] }

/-- Builds from a miss, with the builds that DEPTH hints start below it (R395): levels left, tiles to start at this depth. (DEDUCED: log entry 41.) -/
def State.startBuilds (s : State) (charged : Option Nat) (die : Nat) : Nat → Nat → List (Nat × Nat) → State
  | 0, _, _ => s
  | fuel + 1, depth, ts =>
      let step (acc : State × List (Nat × Nat)) (x : Nat × Nat) : State × List (Nat × Nat) :=
        let t := acc.1.tile x.1
        if t.st == .dropped && t.record.isSome && (t.wants.all fun w => w.1 != depth || w.2.2 != die) && t.ending.isNone then
          let r := t.record.getD []
          let left := max x.2 (recDepth r)
          let below := if left = 0 then [] else (recSources r).map fun n => (keyAsid x.1 * 2 ^ 32 + n, left - 1)
          (acc.1.startOne x.1 depth charged die, acc.2 ++ below)
        else acc
      let (s, below) := ts.foldl step (s, [])
      if depth = 8 || below.isEmpty then s else s.startBuilds charged die fuel (depth + 1) below

/-- The die of a core (R2). -/
def dieOf (core : Nat) : Nat := core / 96

/-- The die where a miss arises (R391): that of the core that met the tile; for an access from outside the device, the home die of the tile (R383). -/
def State.missDie (s : State) (c : Ctx) (k : Nat) : Nat :=
  match c.core with
  | some core => dieOf core
  | none => ((s.tilePa k).getD 0) / 2 ^ 30 % 2

/-- An access meets a tile that is not VALID (R224, R391, R392): a DROPPED tile's build starts; a miss at depth 9 and a cycle end the chain of the team that missed. -/
def State.meetTile (s : State) (c : Ctx) (k : Nat) : State :=
  let t := s.tile k
  let depth := match c.own with
    | none => 1
    | some _ => ((s.launch? c.launch).map (·.depth)).getD 0 + 1
  let charged := match (s.launch? c.launch).map (·.origin) with
    | some (.recompute _ ch) => ch
    | some .host | some (.device _) | some (.node _ _) | some (.invoked _ _ _ _ _) => some c.launch
    | none => none
  match t.st with
  | .valid => s
  | .building =>
      match c.own with
      | none => s
      | some o => if o == k || (s.chainOf o).contains k then s.endLater o .recipeDepth else s
  | .dropped =>
      if depth ≥ 9 then (match c.own with
        | some o => s.endLater o .recipeDepth
        | none => s)
      else if t.record.isNone then s.endLater k .recipeMiss
      else s.startBuilds charged (s.missDie c k) 8 depth [(k, 0)]

/-- Is a tile DROPPED with nothing under way to rebuild it: an access that waits for it meets it again (R391)? -/
def Tile.idle (t : Tile) : Bool := t.st == .dropped && t.wants.isEmpty && t.ending.isNone

/-- Does an access wait for a tile: one that is not VALID and that its own team does not build (R224, R225, R393)? -/
def State.mustWait (s : State) (c : Ctx) (k : Option Nat) : Bool :=
  match k with
  | none => false
  | some t => (s.tile t).st != .valid && c.own != some t
/-- The epoch that a wait for a tile holds. -/
def WaitKind.tileTag (k : WaitKind) : Option Nat := match k with
  | .tile _ tag => some tag
  | .barrier _ _ | .queuePop _ | .queuePush _ | .stores | .remoteCheck _ | .claim _ _ _ | .launchStore _ _ | .token _ | .batch _ | .sealLimit | .fence _ _ | .cbuf _ _
  | .phase _ | .grant _ | .sweep _ | .table | .exit | .staging => none
/-- The identity of a group's accesses by the instruction of a packet: one that waited for a tile keeps the epoch of the access that met it (R339). -/
def State.ctxAt (s : State) (p : Packet) (g : Group) : Ctx :=
  let c := s.ctxOf p.gid g
  { c with tag := ((g.waitOf p.cur.pc p.cur.place).bind fun w => w.kind.tileTag).getD c.tag }
/-- An instruction waits for a tile that an access of it meets; one whose line fails its check is dropped first (R224, R391). -/
def State.tileWaits (s : State) (p : Packet) (g : Group) (c : Ctx) (k : Nat) (drop : Bool) : State :=
  ((if drop then s.dropTile k else s).meetTile c k).waitFor p g (.tile k c.tag)
/-- Must a wait for a tile go on: the tile is not VALID, and its build is under way or about to end? -/
def State.stillWaits (s : State) (c : Ctx) (k : Option Nat) : Bool := s.mustWait c k && !((k.map fun t => (s.tile t).idle).getD true)

end Sys2Proof.Machine
end

