-- ==== Sys2Proof/Machine/LaneAccess.lean ====
section
/-! DEFINITION. The shared steps of the lane memory instructions: the checks over all lanes with the answers of other devices (R218, R453, R454), the store queue (R225, R322), staged stores (R342), held accesses (R224), and the atomic operations (R227 to R230). -/
namespace Sys2Proof.Machine

/-! ## Checks over all lanes -/

/-- One lane's access: its EA and what the checks of R218 find. -/
structure LaneAcc where
  lane : Nat
  ea : DWord
  out : Checked
  deriving DecidableEq, Repr

/-- The EA of a lane (R216). -/
def Group.ea (g : Group) (now i : Nat) (a : Reg) (off : BitVec 9) (scale : Nat) : DWord :=
  g.readPair now i a + off.signExtend 64 * BitVec.ofNat 64 scale

/-- The lanes of an instruction with the EA each forms and the checks of its access. -/
def State.laneAccs (s : State) (c : Ctx) (p : Packet) (g : Group) (sh : Shape) (writes : Bool) (a : Reg) (off : BitVec 9) (scale : Nat) : List LaneAcc :=
  (g.list p.cur.lanes).map fun i => { lane := i, ea := g.ea s.cycle i a off scale, out := s.check c sh writes (g.ea s.cycle i a off scale) }

/-- The lanes that address another device, with the device and the local address there. -/
def remoteLanes (as : List LaneAcc) : List (Nat × Nat × Nat) :=
  as.filterMap fun x => match x.out with
    | .remote d la => some (x.lane, d, la)
    | .ok _ => none
    | .bad _ => none
/-- The lanes that stay on this device. -/
def placesOf (as : List LaneAcc) : List (Nat × Place) :=
  as.filterMap fun x => match x.out with
    | .ok p => some (x.lane, p)
    | .remote _ _ => none
    | .bad _ => none
/-- The lanes' causes. -/
def causesOf (as : List LaneAcc) : List (Nat × Cause) :=
  as.filterMap fun x => match x.out with
    | .bad c => some (x.lane, c)
    | .ok _ => none
    | .remote _ _ => none

/-- Remote lanes grouped by device and 64-byte line: each group shares one request (R454). -/
def shareLines (ls : List (Nat × Nat × Nat)) : List (Nat × List (Nat × Nat)) :=
  let keys := (ls.map fun x => (x.2.1, x.2.2 / 64)).eraseDups
  keys.map fun k => (k.1, (ls.filter fun x => x.2.1 == k.1 && x.2.2 / 64 == k.2).map fun x => (x.1, x.2.2))

/-- Requests sent for a group, one for each line, each made from its device and its lanes: the tags. -/
def State.sendAll (s : State) (owner : ReqOwner) (launch : Nat) (f : Nat → List (Nat × Nat) → FlitMsg) : List (Nat × List (Nat × Nat)) → List Nat × State
  | [] => ([], s)
  | (d, ls) :: r =>
      let (tag, s) := s.request d (f d ls) owner launch
      let (tags, s) := s.sendAll owner launch f r
      (tag :: tags, s)

/-- The cause of a code (R354); a code that no cause has is never kept or sent. -/
def causeOfCode (n : Nat) : Cause :=
  match n with
  | 1 => .illegal | 2 => .misalignedPc | 3 => .pcRange | 4 => .extEmu | 5 => .budget | 6 => .stallShort | 7 => .fpExc | 8 => .software | 9 => .tokenBusy
  | 10 => .batchRange | 11 => .rejoinStall | 12 => .addrRange | 13 => .misalignedData | 14 => .windowRange | 15 => .pageFault | 16 => .formatMismatch | 17 => .writeShared | 18 => .pinnedWrite
  | 19 => .barrierClobber | 20 => .check | 21 => .badBlock | 22 => .decayRange | 23 => .badBarrier | 24 => .barrierOrder | 25 => .badDescriptor | 26 => .cbufRange | 27 => .queueRange
  | 28 => .queueOwner | 29 => .badBucket | 30 => .recipePage | 31 => .badRecipe | 32 => .recipeBusy | 33 => .recipeMiss | 34 => .recipeDepth | 35 => .pinRange | 36 => .phaseSplit
  | 37 => .weightLow | 38 => .weightOverflow | 39 => .stepSpanning | 40 => .stepSweepDue | 41 => .badInvoke | 42 => .claimFull | 43 => .claimBroken | 64 => .doubleTrap | 65 => .overrun
  | 66 => .killed | 67 => .deviceLost | 68 => .claimStale
  | _ => .pageFault

/-- Is a cause one that is deferred for an access (R224, R352)? -/
def deferredCause (c : Cause) : Bool := c == .check || c == .recipeMiss || c == .recipeDepth

/-- The tags of a wait for answers. -/
def WaitKind.tags (k : WaitKind) : Option (List Nat) :=
  match k with
  | .remoteCheck tags => some tags
  | .barrier _ _ | .queuePop _ | .queuePush _ | .tile _ _ | .stores | .claim _ _ _ | .launchStore _ _ | .token _ | .batch _ | .sealLimit | .fence _ _ | .cbuf _ _ | .phase _
  | .grant _ | .sweep _ | .table | .exit | .staging => none
/-- The tags an instruction waits on, when it waits for answers. -/
def Group.awaiting (g : Group) (sl : Slot) : Option (List Nat) :=
  (g.waitOf sl.pc sl.place).bind fun w => w.kind.tags

/-- The answers that have come for tags. -/
def Group.answersFor (g : Group) (tags : List Nat) : List Answer := tags.flatMap fun t => (g.answers.filter fun a => a.1 == t).map (·.2)
/-- A group that has taken its answers and waits no more. -/
def Group.takeAnswers (g : Group) (sl : Slot) (tags : List Nat) : Group :=
  { g.leaveWait sl with answers := g.answers.filter fun a => !tags.contains a.1 }

/-- The failures among answers: each lane with the cause and the address that came with it. -/
def failuresOf (as : List Answer) (lanes : List Nat) : List (Nat × Cause × DWord) :=
  as.flatMap fun a => match a with
    | .fail m => ((m.code, m.lanes, m.addr) :: m.more).flatMap fun x => (lanes.filter fun i => x.2.1.getLsbD i).map fun i => (i, causeOfCode x.1, x.2.2)
    | .data _ _ => []
    | .word _ => []
/-- Was the request held at its target for a recompute (R224)? -/
def Answer.wasHeld (a : Answer) : Bool := match a with
  | .fail m => m.held
  | .data _ _ => false
  | .word _ => false
/-- Is a failure one that R224 defers: a deferred cause, or a malformed block found after a hold (R352)? -/
def defersFailure (held : Bool) (c : Cause) : Bool := deferredCause c || (held && c == .badBlock)
/-- The failures among answers that trap at the instruction (R218, R222). -/
def preciseFailures (as : List Answer) (lanes : List Nat) : List (Nat × Cause × DWord) :=
  as.flatMap fun a => (failuresOf [a] lanes).filter fun f => !defersFailure a.wasHeld f.2.1
/-- The failures among answers that are deferred (R224, R352). -/
def deferredFailures (as : List Answer) (lanes : List Nat) : List (Nat × Cause × DWord) :=
  as.flatMap fun a => (failuresOf [a] lanes).filter fun f => defersFailure a.wasHeld f.2.1
/-- The registers that answers bring. -/
def valuesOf (as : List Answer) : List (Nat × List Word) :=
  as.flatMap fun a => match a with
    | .data vs _ => vs
    | .fail m => m.vals
    | .word _ => []

/-- The EA of the lowest lane of a set, among accesses. -/
def lowestEa (as : List LaneAcc) (m : LaneMask) : DWord := ((as.find? fun x => m.getLsbD x.lane).map (·.ea)).getD 0
/-- The EA at which the lowest lane of a set raises a cause: of a lane with two ends, the end that raises it (R218). -/
def causeAt (as : List LaneAcc) (c : Cause) (m : LaneMask) : DWord :=
  match as.find? fun x => m.getLsbD x.lane with
  | none => 0
  | some x => ((as.find? fun y => y.lane == x.lane && y.out == .bad c).map (·.ea)).getD x.ea
/-- The address that a deferred failure of an answer leaves: the header's for BAD_BLOCK, else the lane's (R224). -/
def deferredAddr (as : List LaneAcc) (f : Nat × Cause × DWord) : Nat × Cause × DWord :=
  (f.1, f.2.1, if f.2.1 == .badBlock then f.2.2 else causeEa f.2.1 (lowestEa as (maskOf [f.1])))

/-- The entry of the lowest lane. -/
def lowestLane : List (Nat × DWord) → Option (Nat × DWord)
  | [] => none
  | x :: r => match lowestLane r with
    | none => some x
    | some y => if y.1 < x.1 then some y else some x

/-- What the checks of a memory instruction come to: it has trapped or waits (a state), or it goes on with the group, its lanes and the answers of other devices. -/
inductive CheckResult where
  | stop (s : State)
  | go (s : State) (g : Group) (as : List LaneAcc) (answers : List Answer)

/-- The checks of R218 with the answers of remote targets: every remote lane's check is asked for first; then the first cause in table order over all lanes is taken, BAD_BLOCK among them: blocks names the lanes here that read a malformed block, with its header (R222). Deferred causes that an answer carries are left to the instruction. -/
def State.checkAll (s : State) (p : Packet) (g : Group) (as : List LaneAcc) (blocks : List (Nat × DWord)) (ask : Nat → List (Nat × Nat) → FlitMsg) : CheckResult :=
  let rem := remoteLanes as
  match g.awaiting p.cur, rem with
  | none, _ :: _ =>
      let (tags, s') := s.sendAll (.group p.gid) (s.launchIdOf g) ask (shareLines rem)
      .stop (s.blockHere p g (s'.setGroup p.gid (g.enterWait s.cycle (.remoteCheck tags) p.cur)))
  | waiting, _ =>
      let tags := waiting.getD []
      let answers := g.answersFor tags
      let g := g.takeAnswers p.cur tags
      let fails := preciseFailures answers (as.map (·.lane)).eraseDups
      let headers := blocks ++ fails.filterMap fun f => if f.2.1 == .badBlock then some (f.1, f.2.2) else none
      match firstCause (causesOf as ++ blocks.map (fun b => (b.1, .badBlock)) ++ fails.map fun f => (f.1, f.2.1)) with
      | some (c, m) =>
          let addr := if c == .badBlock then ((lowestLane headers).map (·.2)).getD 0 else causeAt as c m
          .stop ((s.setGroup p.gid g).trapAt p.gid p.cur c m addr)
      | none => .go s g as answers

/-! ## Held accesses -/

/-- A scoreboard entry added to a group. -/
def State.addEntry (s : State) (gid : Nat) (e : SbEntry) : State := s.modGroup gid fun g => { g with sb := g.sb ++ [e] }
/-- The lowest lane of a set. -/
def lowestOf (m : LaneMask) : Nat := ((List.range 64).find? fun i => m.getLsbD i).getD 64
/-- A deferred cause put among those of a group: a later failure of the same access with the same cause joins the first, whose address is then that of the lowest lane (R224). -/
def addDeferred (ds : List Deferred) (d : Deferred) : List Deferred :=
  let same (x : Deferred) : Bool := d.access != 0 && x.access == d.access && x.kind == d.kind && x.cause == d.cause
  if ds.any same then ds.map fun x => if same x then { x with lanes := x.lanes ||| d.lanes, addr := if lowestOf d.lanes < lowestOf x.lanes then d.addr else x.addr } else x
  else ds ++ [d]
/-- A deferred cause added to a group. -/
def State.defer (s : State) (gid : Nat) (d : Deferred) : State := s.modGroup gid fun g => { g with deferred := addDeferred g.deferred d }
/-- Is part of the entry still to be performed? A bs.stat holds nothing back: its wait is the scoreboard's alone (R299). -/
def SbEntry.open (e : SbEntry) : Bool := e.kind != .stat && e.rows.any fun r => !r.done
/-- Has the group an access that is held (R224)? Later accesses of the group then wait their turn (R322). -/
def Group.holds (g : Group) : Bool := g.sb.any SbEntry.open

/-- The store queue of a core. -/
def State.queueOf (s : State) (core : Nat) : List PendingStore := s.mem.storeQ.filter fun st => st.core == core
/-- Has a waiting store no earlier held access of its group before it (R322)? -/
def State.clearOfLoads (s : State) (st : PendingStore) : Bool := ((s.group? st.gid).map fun g => g.sb.all fun e => !e.open || decide (st.id < e.id)).getD true
/-- The stores that stand in line in a core: one that waits for a held access of its own group only holds back the later stores of that group (R225, R322). (DEDUCED: log entry 91.) -/
def State.storeLine (s : State) (core : Nat) : List PendingStore := (s.queueOf core).filter s.clearOfLoads

/-- Cycles from issue to the result of an access (R379, DEDUCED, log entry 12). -/
def State.accessLatency (s : State) (g : Group) (l : Loc) : Nat :=
  match l with
  | .win t _ => if ((s.team? t).map fun tm => tm.cores.any fun c => c / 2 == g.core / 2).getD true then 16 else 40
  | .phys _ => 28

/-! ## Stores -/

/-- The core in whose L1 a waiting store's PRIVATE bytes are kept when it is performed: its group's, while that has one; none once its team has ended or is swapped out, since its dirty lines have gone home (R330, R344, R426). -/
def State.storeCore (s : State) (st : PendingStore) : Option Nat :=
  (s.group? st.gid).bind fun g => if ((s.teamOf g).map fun t => !t.ended && !t.cores.isEmpty).getD false then some g.core else none
/-- A store of one lane performed, for a core. The last lane of a store instruction whose lanes write the whole of a line makes the line's check value anew, where the line then is: in the L1 of a core that keeps it, or at its home (R400). -/
def State.performStore (s : State) (core : Option Nat) (st : PendingStore) : State :=
  let t := s.putTagged st.epoch core st.priv st.loc st.bytes
  if st.fills then
    match st.loc with
    | .phys pa => (forwards t.dev.changes st.epoch pa).foldl (fun t a => match t.keeper core st.priv with
        | some c => { t with mem := { t.mem with l1bad := t.mem.l1bad.filter (· != (c, a / 64)) } }
        | none => t.makeChecks (· == a / 64)) t
    | .win _ _ => t
  else t
/-- Do the lanes of a store write the whole of the line in which a place lies, and is it the last of them there (R400)? -/
def fillsLine (ps : List (Nat × Place)) (p : Nat × Place) : Bool :=
  match p.2.loc with
  | .win _ _ => false
  | .phys pa =>
      let mine := ps.filterMap fun x => match x.2.loc with
        | .phys a => if a / 64 = pa / 64 then some (x.1, a, x.2.n) else none
        | .win _ _ => none
      (mine.all fun x => decide (x.1 ≤ p.1)) && (List.range 64).all fun i => mine.any fun x => decide (x.2.1 ≤ pa / 64 * 64 + i) && decide (pa / 64 * 64 + i < x.2.1 + x.2.2)
/-- A store of one lane: it applies, or waits in the core's store queue behind a tile that is not VALID, behind earlier stores of the core, or behind a held access of its group (R225, R322). A recompute team's store to the tile it builds passes the queue (R393). One that nothing holds back may be performed later all the same, so that an engine or another core misses it (R320, R328). (DESIGN CHOICE: log entry 109.) (DEDUCED: log entry 70.) (DEDUCED: log entry 91.) (DEDUCED: log entry 50.) -/
def State.storeNow (s : State) (c : Ctx) (st : PendingStore) : State :=
  let held := ((s.group? st.gid).map Group.holds).getD false
  if s.mustWait c st.tile then
    let s := match st.tile with
      | some k => s.meetTile c k
      | none => s
    { s with mem := { s.mem with storeQ := s.mem.storeQ ++ [st] } }
  else if held || (!(s.storeLine st.core).isEmpty && !(st.tile.isSome && c.own == st.tile)) then { s with mem := { s.mem with storeQ := s.mem.storeQ ++ [st] } }
  else if s.lateStores then { s with mem := { s.mem with storeQ := s.mem.storeQ ++ [st] } }
  else s.performStore (some st.core) st

/-- Is a place one whose stores and ordered atomics a certified kernel stages: a local address (R342)? -/
def stagedPlace (l : Loc) : Bool :=
  match l with
  | .phys _ => true
  | .win _ _ => false

/-- The participant number of a group (R342). -/
def State.participantOf (s : State) (g : Group) : Nat :=
  match s.teamOf g with
  | none => 0
  | some t => t.teamId * t.groups.length + g.index
/-- A staged access put in its place in group order (R344). -/
def insertStaged (x : Staged) : List Staged → List Staged
  | [] => [x]
  | y :: r => if x.order < y.order then x :: y :: r else y :: insertStaged x r
/-- A staged access of a group, in its open segment, or awaiting the wait that gives a copy's write its segment; one that comes after the group's end is of the segment that the end closed (R342, R343). -/
def State.stage (s : State) (gid : Nat) (g : Group) (order : Nat) (awaits : Option (Option Nat × Option Token)) (op : StagedOp) : State :=
  let late := g.ended && g.segment != 0
  { s with eng := { s.eng with staged := insertStaged { order := order, die := dieOf g.core, launch := s.launchIdOf g, gid := gid, participant := s.participantOf g, segment := if late then g.segment - 1 else g.segment, closed := late, awaits := if late then none else awaits, op := op } s.eng.staged } }
/-- Has a group a staged access before a number that is still to be applied (R344)? -/
def State.owes (s : State) (gid n : Nat) : Bool := s.eng.staged.any fun x => x.gid == gid && x.awaits.isNone && decide (x.order < n)
/-- The open segment of a group closes (R343). -/
def State.closeSegment (s : State) (gid : Nat) : State :=
  match s.group? gid with
  | none => s
  | some g =>
      let s := { s with eng := { s.eng with staged := s.eng.staged.map fun (x : Staged) => if x.gid == gid && x.segment == g.segment && x.awaits.isNone then { x with closed := true } else x } }
      s.setGroup gid { g with segment := g.segment + 1 }
/-- Bytes that the staging region of a die holds (R342, R381; DESIGN CHOICE, log entry 13): 64 for each access. -/
def State.stagedBytes (s : State) (die : Nat) : Nat := 64 * (s.eng.staged.filter fun x => x.die == die).length

/-- A certified grid's place in round order, from its first segment on (R344). -/
def State.roundsOf (s : State) (launch : Nat) : Rounds :=
  (lookup s.eng.rounds launch).getD { participants := ((s.launch? launch).map fun l => l.kern.groups * l.record.teams).getD 1, round := 0, offset := 0 }
/-- The participant whose segment is next (R344). -/
def Rounds.next (r : Rounds) : Nat := (r.round + r.offset) % r.participants
/-- Has a participant's segment been applied (R344, R345)? -/
def State.applied (s : State) (launch participant segment : Nat) : Bool :=
  let r := s.roundsOf launch
  decide (segment < r.round) || (segment == r.round && decide ((participant + r.participants - r.round % r.participants) % r.participants < r.offset))
/-- Is the group's open segment next in round order (R347)? -/
def State.isNext (s : State) (g : Group) : Bool :=
  let r := s.roundsOf (s.launchIdOf g)
  r.next == s.participantOf g && (g.ended || r.round == g.segment)
/-- Is the staging region of a die full (R347, R381)? (DESIGN CHOICE: log entry 13.) -/
def State.stagingFull (s : State) (die : Nat) : Bool := decide (Config.stagingBytes ≤ s.stagedBytes die)

/-- A lane's store: the place it writes and the bytes, and whether the lanes of its instruction have then written the whole of its line. -/
def laneStore (c : Ctx) (p : Packet) (g : Group) (lane : Nat) (pl : Place) (bytes : List Byte) (fills : Bool) (id inst : Nat) : PendingStore :=
  { id := id, inst := inst, lane := lane, core := g.core, gid := p.gid, launch := c.launch, ea := pl.ea, loc := pl.loc, priv := attrPrivate pl.attr && stagedPlace pl.loc, word := p.cur.word, tile := pl.tile, bytes := bytes, epoch := c.tag, fills := fills }

/-! ## Atomics (R227, R228) -/

/-- Bytes of memory an operation acts on. -/
def atomSize (op : AtomOp) : Nat :=
  match op with
  | .add64 | .exch64 | .cas64 | .dadd => 8
  | .add | .and | .or | .xor | .min | .max | .minu | .maxu | .exch | .cas | .fadd | .fmin | .fmax | .hadd2 | .badd2 => 4
/-- Registers an operation reads from vd. -/
def atomArgs (op : AtomOp) : Nat :=
  match op with
  | .cas | .add64 | .exch64 | .dadd => 2
  | .cas64 => 4
  | .add | .and | .or | .xor | .min | .max | .minu | .maxu | .exch | .fadd | .fmin | .fmax | .hadd2 | .badd2 => 1

/-- A float combination of the low 32 bits, in FP32. -/
def atomFloat (f : FFmt) (x y : Nat) : Nat := (addVals f .engine (f.value x) (f.value y)).bits

/-- The memory after an operation: M is the value before, args the registers before (R227, R228). -/
def atomResult (op : AtomOp) (m : DWord) (args : List Word) : DWord :=
  let c := args.getD 0 0
  let c64 := joinWords (args.getD 0 0) (args.getD 1 0)
  let w : Word := loWord m
  let ofWord (x : Word) : DWord := x.setWidth 64
  match op with
  | .add => ofWord (w + c)
  | .and => ofWord (w &&& c)
  | .or => ofWord (w ||| c)
  | .xor => ofWord (w ^^^ c)
  | .min => ofWord (minSigned w c)
  | .max => ofWord (maxSigned w c)
  | .minu => ofWord (minUnsigned w c)
  | .maxu => ofWord (maxUnsigned w c)
  | .exch => ofWord c
  | .cas => if w = c then ofWord (args.getD 1 0) else ofWord w
  | .add64 => m + c64
  | .exch64 => c64
  | .cas64 => if m = c64 then joinWords (args.getD 2 0) (args.getD 3 0) else m
  | .fadd => BitVec.ofNat 64 (atomFloat .fp32 w.toNat c.toNat)
  | .fmin => BitVec.ofNat 64 (FFmt.fp32.minMax false false w.toNat c.toNat).bits
  | .fmax => BitVec.ofNat 64 (FFmt.fp32.minMax false true w.toNat c.toNat).bits
  | .dadd => BitVec.ofNat 64 (atomFloat .fp64 m.toNat c64.toNat)
  | .hadd2 => BitVec.ofNat 64 (atomFloat .fp16 (w.toNat % 2 ^ 16) (c.toNat % 2 ^ 16) + 2 ^ 16 * atomFloat .fp16 (w.toNat / 2 ^ 16) (c.toNat / 2 ^ 16))
  | .badd2 => BitVec.ofNat 64 (atomFloat .bf16 (w.toNat % 2 ^ 16) (c.toNat % 2 ^ 16) + 2 ^ 16 * atomFloat .bf16 (w.toNat / 2 ^ 16) (c.toNat / 2 ^ 16))

/-- The registers an operation returns: the value before (R227). -/
def atomReturn (op : AtomOp) (m : DWord) : List Word := if atomSize op = 8 then [loWord m, hiWord m] else [loWord m]

/-- One lane's atomic step at a place (R227): the registers, or none when its line fails its check. -/
def State.atomStep (s : State) (c : Ctx) (op : AtomOp) (l : Loc) (priv : Bool) (args : List Word) : Option (List Word) × State :=
  if s.lineFails c.core l (atomSize op) then (none, s)
  else
    let m := dwordOfBytes (s.bytesAt c.core priv l (atomSize op) ++ List.replicate 8 0)
    (some (atomReturn op m), s.putTagged c.tag c.core priv l (bytesOfNat (atomSize op) (atomResult op m args).toNat))

/-- A list in an order the run decides: repeated free picks (R230). -/
def shuffle {α : Type} (tick : Nat) : Nat → List α → List α
  | 0, l => l
  | n + 1, l => match l[Config.pick tick n % l.length]? with
    | none => l
    | some x => x :: shuffle tick n (l.eraseIdx (Config.pick tick n % l.length))

/-- The results of an atomic in lane order or in a free order (R230). -/
def State.atomAll (s : State) (c : Ctx) (op : AtomOp) : List HeldLane → List HeldLane × List (Nat × List Word) × List HeldLane × State
  | [] => ([], [], [], s)
  | r :: rs =>
      if s.mustWait c r.tile || s.lineFails c.core r.loc (atomSize op) && ((r.tile.map fun k => (s.tile k).record.isSome).getD false) then
        let s := s.dropIfFailing c.core r.tile r.loc (atomSize op)
        let s := match r.tile with
          | some k => s.meetTile c k
          | none => s
        let (h, v, f, s) := s.atomAll c op rs
        (r :: h, v, f, s)
      else
        let (o, s) := s.atomStep c op r.loc (attrPrivate r.attr && stagedPlace r.loc) r.args
        let (h, v, f, s) := s.atomAll c op rs
        match o with
        | some ws => ({ r with done := true } :: h, (r.lane, ws) :: v, f, s)
        | none => ({ r with done := true } :: h, v, r :: f, s)

/-- Register writes of lanes' words from a base register. -/
def wordWrites (d : Reg) (vs : List (Nat × List Word)) : List (Nat × Reg × Word) :=
  vs.flatMap fun v => v.2.zipIdx.map fun w => (v.1, d.plus w.2, w.1)

end Sys2Proof.Machine
end

