-- ==== Sys2Proof/Machine/LaneMemory.lean ====
section
/-! DEFINITION. Loads, stores, prefetches and atomics (R220 to R230), and the completion of held accesses and waiting stores (R224, R225). -/
namespace Sys2Proof.Machine

/-! ## Loads (R220 to R222, R224) -/

/-- One lane of a load, as its turn comes: held, delivered, or failing (R224). -/
structure LoadPass where
  rows : List HeldLane
  vals : List (Nat × List Word)
  failed : List (Nat × Cause × DWord)
  deriving DecidableEq, Repr

/-- What a lane's load reads at its place. -/
def State.readLane (s : State) (c : Ctx) (raw : Bool) (f : LoadForm) (p : Place) : LoadOut := if raw then s.rawAt c f p else s.loadAt c (.load f) p

/-- The place of a held lane. -/
def HeldLane.place (r : HeldLane) (n : Nat) : Place := { ea := r.ea, loc := r.loc, attr := r.attr, tile := r.tile, n := n }
/-- A lane's row, held or done. -/
def rowAt (lane : Nat) (p : Place) (args : List Word) (done : Bool) : HeldLane := { lane := lane, ea := p.ea, loc := p.loc, attr := p.attr, tile := p.tile, args := args, done := done }

/-- The lanes of a load in turn (R219, R224). wait: earlier accesses of the group are still held. -/
def State.loadPass (s : State) (c : Ctx) (raw : Bool) (f : LoadForm) (wait : Bool) : List (Nat × Place) → LoadPass × State
  | [] => ({ rows := [], vals := [], failed := [] }, s)
  | (i, p) :: r =>
      if wait then
        let (t, s) := s.loadPass c raw f wait r
        ({ t with rows := rowAt i p [] false :: t.rows }, s)
      else
        let out := s.readLane c raw f p
        let rebuild := out == .badLine && (p.tile.map fun k => (s.tile k).record.isSome).getD false
        let s := if rebuild then (match p.tile with
          | some k => s.dropTile k
          | none => s) else s
        if s.mustWait c p.tile then
          let s := match p.tile with
            | some k => s.meetTile c k
            | none => s
          let (t, s) := s.loadPass c raw f wait r
          ({ t with rows := rowAt i p [] false :: t.rows }, s)
        else
          let (t, s) := s.loadPass c raw f wait r
          match out with
          | .words ws => ({ t with rows := rowAt i p [] true :: t.rows, vals := (i, ws) :: t.vals }, s)
          | .badLine => ({ t with rows := rowAt i p [] true :: t.rows, failed := (i, .check, p.ea) :: t.failed }, s)
          | .badBlock h => ({ t with rows := rowAt i p [] true :: t.rows, failed := (i, .badBlock, h) :: t.failed }, s)

/-- The deferred causes of failing lanes of an access (R224): for each cause the lanes that have it, and the address of the lowest of them. -/
def deferredOf (access : Nat) (word : Word) (regs : List Reg) (failed : List (Nat × Cause × DWord)) : List Deferred :=
  (failed.map (·.2.1)).eraseDups.map fun c =>
    let mine := (failed.filter fun f => f.2.1 == c).map fun f => (f.1, f.2.2)
    { kind := .access, access := access, cause := c, addr := ((lowestLane mine).map (·.2)).getD 0, word := word, lanes := maskOf (mine.map (·.1)), regs := regs }
/-- Deferred causes added to a group. -/
def State.deferAll (s : State) (gid : Nat) (ds : List Deferred) : State := ds.foldl (fun s d => s.defer gid d) s

/-- The lanes whose load finds a malformed block at once: BAD_BLOCK, precisely (R222). A lane whose tile must be rebuilt is held instead. -/
def State.badBlocks (s : State) (c : Ctx) (raw : Bool) (f : LoadForm) (ps : List (Nat × Place)) : List (Nat × DWord) :=
  ps.filterMap fun x => if s.mustWait c x.2.tile then none else match s.readLane c raw f x.2 with
    | .badBlock h => some (x.1, h)
    | .words _ => none
    | .badLine => none

/-- The staged writes of a group to another device, oldest first: a load there returns their bytes (R342). -/
def State.ownParts (s : State) (gid device : Nat) : List WrPart :=
  (s.eng.staged.filter (·.gid == gid)).flatMap fun x => match x.op with
    | .remote d m => if d = device then m.parts else []
    | .write _ => []
    | .atom _ => []
    | .send _ _ _ => []

/-- A load (R220, R224): values arrive by the scoreboard; a lane that meets a tile that is not VALID holds the result. -/
def loadInstr (s : State) (raw : Bool) (d a : Reg) (f : LoadForm) (off : BitVec 9) : Host.Outcome State Fault Refusal :=
  s.issue fun p g =>
    let c := s.ctxOf p.gid g
    let sh : Shape := if raw then .raw (loadSize f) else .load f
    let ask (dev : Nat) (ls : List (Nat × Nat)) : FlitMsg :=
      .rdreq { asid := c.asid, hnd := c.hnd, parts := ls.map fun l => { lane := l.1, la := l.2, kind := if raw then .raw f else .load f }, own := s.ownParts p.gid dev }
    let accs := s.laneAccs c p g sh false a off (loadSize f)
    match s.checkAll p g accs (s.badBlocks c raw f (placesOf accs)) ask with
    | .stop s => s
    | .go s g as answers =>
        let ps := placesOf as
        let regs := regsOf f.count d
        let (pass, s) := s.loadPass c raw f g.holds ps
        let remoteFails := (deferredFailures answers (as.map (·.lane))).map (deferredAddr as)
        let (id, s) := (s.finish p g).fresh
        let lat := ps.foldl (fun m x => max m (s.accessLatency g x.2.loc)) 1
        let e : SbEntry :=
          { id := id, pc := p.cur.pc, lanes := p.cur.lanes, regs := regs, vals := wordWrites d (pass.vals ++ valuesOf answers), due := s.cycle + lat,
            kind := if pass.rows.any (fun r => !r.done) then .held p.cur.word else .ready, op := if raw then .raw f else .load f, rows := pass.rows, epoch := s.dev.qepoch }
        (s.addEntry p.gid e).deferAll p.gid (deferredOf id p.cur.word regs (pass.failed ++ remoteFails))

/-- R220 to R224. -/
def execLd (d a : Reg) (k : LoadForm) (f : BitVec 9) (s : State) : Host.Outcome State Fault Refusal := loadInstr s false d a k f
/-- R220. -/
def execLdRaw (d a : Reg) (k : LoadForm) (f : BitVec 9) (s : State) : Host.Outcome State Fault Refusal := loadInstr s true d a k f

/-! ## Stores (R220, R223, R225) -/

/-- The parts of a WR that lanes share, by device and line (R453, R454). -/
def wrParts (enc : Option StoreForm) (data : List (Nat × List Word)) (n : Nat) (ls : List (Nat × Nat)) : List WrPart :=
  ls.map fun l =>
    let ws := (lookup data l.1).getD []
    { la := l.2, encode := enc, words := ws, bytes := (bytesOfWords ws).take n }
/-- Remote lanes' shares of a WR sent (R453, R454). -/
def State.sendStores (s : State) (c : Ctx) (enc : Option StoreForm) (data : List (Nat × List Word)) (n : Nat) : List (Nat × List (Nat × Nat)) → State
  | [] => s
  | (d, ls) :: r =>
      ((s.request d (.wr { asid := c.asid, hnd := c.hnd, checked := true, parts := wrParts enc data n ls }) (.store c.launch) c.launch).2).sendStores c enc data n r

/-- A store of every active lane, ascending (R219), under the number of its first lane: staged in a certified kernel (R342), else performed or queued (R225). -/
def State.storeLanes (s : State) (staging : Bool) (inst : Nat) (c : Ctx) (p : Packet) (g : Group) (sh : Shape) (data : List (Nat × List Word)) (all : List (Nat × Place)) : List (Nat × Place) → State
  | [] => s
  | (i, pl) :: r =>
      let (id, s) := s.fresh
      let st := laneStore c p g i pl (storeBytes sh pl ((lookup data i).getD [])) (fillsLine all (i, pl)) id inst
      let s := if staging && stagedPlace pl.loc then s.stage p.gid g id none (.write st) else s.storeNow c st
      s.storeLanes staging inst c p g sh data all r

/-- The identity of a store's issuer. -/
def State.issuerCtx (s : State) (st : PendingStore) : Ctx :=
  match s.group? st.gid with
  | some g => s.ctxOf st.gid g
  | none => { s.deviceCtx 0 with core := some st.core, launch := st.launch, own := (s.launch? st.launch).bind (·.origin.tile?) }
/-- The remote lanes of an atomic asked for, one request for each device and line (R454). -/
def State.sendAsks (s : State) (gid : Nat) (c : Ctx) (op : AtomOp) (asks : List (Nat × AtomPart)) : List Nat × State :=
  s.sendAll (.group gid) c.launch (fun _ ls => .atomreq { asid := c.asid, hnd := c.hnd, op := op, parts := ls.filterMap fun l => (asks.find? fun x => x.2.lane == l.1).map (·.2) })
    (shareLines (asks.map fun x => (x.2.lane, x.1, x.2.la)))
/-- The identity under which an entry's lanes act: its group's, tagged as its access was when it was checked (R339). -/
def State.entryCtx (s : State) (gid : Nat) (g : Group) (e : SbEntry) : Ctx := { s.ctxOf gid g with tag := e.epoch }
/-- The atomics of a held entry performed as far as their tiles allow (R224, R230). (DEDUCED: log entry 78.) -/
def State.performAtoms (s : State) (gid id : Nat) : State :=
  match s.group? gid with
  | none => s
  | some g =>
      match g.sb.find? (fun e => e.id == id) with
      | none => s
      | some e => match e.op with
        | .load _ | .raw _ | .amax | .stat | .nothing => s
        | .atom op =>
          let c := s.entryCtx gid g e
          let (rows, vals, failed, s) := s.atomAll c op (e.rows.filter fun r => !r.done)
          let (tags, s) := s.sendAsks gid c op e.asks
          let word := match e.kind with
            | .held w => w
            | .remote _ w => w
            | .ready | .stat | .later | .answer _ => 0
          let kind : SbKind := match e.kind with
            | .remote ts w => .remote (ts ++ tags) w
            | .held w => if !tags.isEmpty then .remote tags w else if rows.any (fun r => !r.done) then .held w else .ready
            | .ready => .ready
            | .stat => .stat
            | .later => .later
            | .answer t => .answer t
          let e' := { e with rows := (e.rows.filter (·.done)) ++ rows, vals := e.vals ++ wordWrites (e.regs.headD 0) vals, due := s.cycle + 1, kind := kind, asks := [] }
          (s.modGroup gid fun h => { h with sb := h.sb.map fun x => if x.id == id then e' else x }).deferAll gid (deferredOf e.id word e.regs (failed.map fun r => (r.lane, .check, r.ea)))
/-- A staged access applied (R344): a store passes the core's queue, since the Ticket Unit has its turn. -/
def State.applyStaged (s : State) (x : Staged) : State :=
  match x.op with
  | .write st => s.performStore (s.storeCore st) st
  | .remote d m => (s.request d (.wr m) (.store x.launch) x.launch).2
  | .atom id => s.performAtoms x.gid id
  | .send d target m => s.sendInvoke x.launch d target m
/-- The staged accesses that satisfy a test applied in order, and staged no more. -/
def State.applyWhere (s : State) (f : Staged → Bool) : State :=
  (s.eng.staged.filter f).foldl State.applyStaged { s with eng := { s.eng with staged := s.eng.staged.filter fun x => !f x } }
/-- A tile that a place keeps an access waiting for, and whether it must first be dropped: it is not VALID, or its line fails its check and it has a record (R224, R225). -/
def State.tileBefore (s : State) (c : Ctx) (tile : Option Nat) (l : Loc) (n : Nat) (reads : Bool) : Option (Nat × Bool) :=
  match tile with
  | none => none
  | some k =>
      if s.mustWait c tile then some (k, false)
      else if reads && s.lineFails c.core l n && (s.tile k).record.isSome then some (k, true) else none
/-- The tile that a staged access keeps its segment waiting for: no access after it is applied before it (R344). -/
def State.stagedTile (s : State) (x : Staged) : Option (Nat × Bool) :=
  match x.op with
  | .write st => s.tileBefore (s.issuerCtx st) st.tile st.loc st.bytes.length false
  | .remote _ _ => none
  | .send _ _ _ => none
  | .atom id => match s.group? x.gid with
    | none => none
    | some g => match g.sb.find? fun e => e.id == id with
      | none => none
      | some e => match e.op with
        | .atom op => e.rows.findSome? fun r => if r.done then none else s.tileBefore (s.entryCtx x.gid g e) r.tile r.loc (atomSize op) true
        | .load _ | .raw _ | .amax | .stat | .nothing => none

/-- Remote lanes' stores of a certified kernel, staged: the lanes of one line share one WR (R342, R454). -/
def State.stageRemote (s : State) (p : Packet) (g : Group) (c : Ctx) (enc : Option StoreForm) (data : List (Nat × List Word)) (n : Nat) (rem : List (Nat × List (Nat × Nat))) : State :=
  rem.foldl (fun s x =>
      let (id, s) := s.fresh
      s.stage p.gid g id none (.remote x.1 { asid := c.asid, hnd := c.hnd, checked := true, parts := wrParts enc data n x.2 })) s

/-- What a certified kernel's instruction with accesses to stage does when its die's staging region is full (R347): the group waits, unless its segment is next; then what it has staged is applied, once the tiles that it meets are VALID (R344), and the instruction acts directly. -/
def State.withRoom (s : State) (p : Packet) (g : Group) (k : Bool → Group → State → State) : State :=
  if !s.certified g then k false g s
  else if !s.stagingFull (dieOf g.core) then k true (g.leaveWait p.cur) s
  else if !s.isNext g then s.waitFor p g .staging
  else
    let mine (x : Staged) : Bool := x.gid == p.gid && x.awaits.isNone
    match (s.eng.staged.filter mine).findSome? s.stagedTile with
    | some (n, drop) => s.tileWaits p g (s.ctxAt p g) n drop
    | none => k false (g.leaveWait p.cur) (s.applyWhere mine)

/-- A store (R220, R223, R225); in a certified kernel it is staged (R342, R347). -/
def storeInstr (s : State) (raw : Bool) (d a : Reg) (f : StoreForm) (off : BitVec 9) : Host.Outcome State Fault Refusal :=
  s.issue fun p g =>
    let c := s.ctxOf p.gid g
    let sh : Shape := if raw then .raw (storeSize f) else .store f
    let ask (_ : Nat) (ls : List (Nat × Nat)) : FlitMsg := .rdreq { asid := c.asid, hnd := c.hnd, parts := ls.map fun l => { lane := l.1, la := l.2, kind := if raw then .storeRawCheck f else .storeCheck f } }
    match s.checkAll p g (s.laneAccs c p g sh true a off (storeSize f)) [] ask with
    | .stop s => s
    | .go s g as _ => s.withRoom p g fun staging g s =>
        let data := (g.list p.cur.lanes).map fun i => (i, (regsOf f.count d).map (g.read s.cycle i))
        let s := s.storeLanes staging s.sched.nextId c p g sh data (placesOf as) (placesOf as)
        let rem := shareLines (remoteLanes as)
        let enc := if raw || storeSize f < 4 then none else some f
        let s := if staging then s.stageRemote p g c enc data (storeSize f) rem else s.sendStores c enc data (storeSize f) rem
        s.modGroup p.gid fun h => { h with waits := g.waits, answers := g.answers, lanes := (h.moveTo p.cur.lanes (succPc p.cur.pc)).lanes }

/-- R220, R223. -/
def execSt (d a : Reg) (k : StoreForm) (f : BitVec 9) (s : State) : Host.Outcome State Fault Refusal := storeInstr s false d a k f
/-- R220. -/
def execStRaw (d a : Reg) (k : StoreForm) (f : BitVec 9) (s : State) : Host.Outcome State Fault Refusal := storeInstr s true d a k f

/-! ## Prefetch (R226): no effect on any register, value or flag -/

/-- R226. -/
def execPrefetchL2 (_a : Reg) (_f : BitVec 9) (s : State) : Host.Outcome State Fault Refusal := s.issue fun p g => s.finish p g
/-- R226. (DEDUCED: log entry 41.) -/
def execPrefetchL1 (_a : Reg) (_f : BitVec 9) (s : State) : Host.Outcome State Fault Refusal := s.issue fun p g => s.finish p g

/-! ## Atomics (R227 to R230) -/

/-- The rows of an atomic: each lane's place and registers before it. -/
def atomRows (now : Nat) (g : Group) (op : AtomOp) (d : Reg) (ps : List (Nat × Place)) : List HeldLane :=
  ps.map fun x => rowAt x.1 x.2 ((regsOf (atomArgs op) d).map (g.read now x.1)) false

/-- Must the atomics of a group wait their turn: behind a held access or its own waiting stores (R225, R322)? -/
def State.atomsWait (s : State) (gid : Nat) (g : Group) : Bool := g.holds || s.mem.storeQ.any fun st => st.gid == gid

/-- An atomic (R227 to R230). In a certified kernel the ordered forms are staged and close a segment (R342, R343, R347). (DEDUCED: log entry 78.) -/
def atomInstr (s : State) (ordered : Bool) (op : AtomOp) (d a : Reg) (off : BitVec 9) : Host.Outcome State Fault Refusal :=
  s.issue fun p g =>
    let c := s.ctxOf p.gid g
    let sh : Shape := .raw (atomSize op)
    let ask (_ : Nat) (ls : List (Nat × Nat)) : FlitMsg := .rdreq { asid := c.asid, hnd := c.hnd, parts := ls.map fun l => { lane := l.1, la := l.2, kind := .writeCheck (atomSize op) } }
    match s.checkAll p g (s.laneAccs c p g sh true a off (atomSize op)) [] ask with
    | .stop s => s
    | .go s g as _ =>
      let act (staging : Bool) (g : Group) (s : State) : State :=
        let regs := regsOf (if atomSize op = 8 then 2 else 1) d
        let rows := atomRows s.cycle g op d (placesOf as)
        let rows := if ordered then rows else shuffle s.tick rows.length rows
        let data := (g.list p.cur.lanes).map fun i => (i, (regsOf (atomArgs op) d).map (g.read s.cycle i))
        let asks := (remoteLanes as).map fun x => (x.2.1, ({ lane := x.1, la := x.2.2, args := (lookup data x.1).getD [] } : AtomPart))
        let (id, s) := (s.finish p g).fresh
        let base : SbEntry := { id := id, pc := p.cur.pc, lanes := p.cur.lanes, regs := regs, vals := [], due := s.cycle + 16, kind := .held p.cur.word, op := .atom op, rows := rows, asked := as.map (fun x => (x.lane, x.ea)), epoch := s.dev.qepoch }
        let s := if staging then (s.addEntry p.gid { base with asks := asks }).stage p.gid g id none (.atom id)
          else
            let (tags, s) := s.sendAsks p.gid c op asks
            let (rows, vals, failed, s) := if s.atomsWait p.gid g then (rows, [], [], s) else s.atomAll c op rows
            let lat := rows.foldl (fun m x => max m (s.accessLatency g x.loc)) 1
            let open' := rows.any fun r => !r.done
            let e := { base with vals := wordWrites d vals, rows := rows, due := s.cycle + lat, kind := if !tags.isEmpty then .remote tags p.cur.word else if open' then .held p.cur.word else .ready }
            (s.addEntry p.gid e).deferAll p.gid (deferredOf id p.cur.word regs (failed.map fun r => (r.lane, .check, r.ea)))
        if ordered && s.certified g then (s.closeSegment p.gid).modGroup p.gid fun h => { h with ticket := some g.segment } else s
      if ordered then s.withRoom p g act else act false g s

/-- R227. -/
def execAtomOAdd (d a : Reg) (f : BitVec 9) (s : State) : Host.Outcome State Fault Refusal := atomInstr s true .add d a f
/-- R227. -/
def execAtomOAnd (d a : Reg) (f : BitVec 9) (s : State) : Host.Outcome State Fault Refusal := atomInstr s true .and d a f
/-- R227. -/
def execAtomOOr (d a : Reg) (f : BitVec 9) (s : State) : Host.Outcome State Fault Refusal := atomInstr s true .or d a f
/-- R227. -/
def execAtomOXor (d a : Reg) (f : BitVec 9) (s : State) : Host.Outcome State Fault Refusal := atomInstr s true .xor d a f
/-- R227. -/
def execAtomOMin (d a : Reg) (f : BitVec 9) (s : State) : Host.Outcome State Fault Refusal := atomInstr s true .min d a f
/-- R227. -/
def execAtomOMax (d a : Reg) (f : BitVec 9) (s : State) : Host.Outcome State Fault Refusal := atomInstr s true .max d a f
/-- R227. -/
def execAtomOMinu (d a : Reg) (f : BitVec 9) (s : State) : Host.Outcome State Fault Refusal := atomInstr s true .minu d a f
/-- R227. -/
def execAtomOMaxu (d a : Reg) (f : BitVec 9) (s : State) : Host.Outcome State Fault Refusal := atomInstr s true .maxu d a f
/-- R227. -/
def execAtomOExch (d a : Reg) (f : BitVec 9) (s : State) : Host.Outcome State Fault Refusal := atomInstr s true .exch d a f
/-- R227. -/
def execAtomOCas (d a : Reg) (f : BitVec 9) (s : State) : Host.Outcome State Fault Refusal := atomInstr s true .cas d a f
/-- R227. -/
def execAtomOAdd64 (d a : Reg) (f : BitVec 9) (s : State) : Host.Outcome State Fault Refusal := atomInstr s true .add64 d a f
/-- R227. -/
def execAtomOExch64 (d a : Reg) (f : BitVec 9) (s : State) : Host.Outcome State Fault Refusal := atomInstr s true .exch64 d a f
/-- R227. -/
def execAtomOCas64 (d a : Reg) (f : BitVec 9) (s : State) : Host.Outcome State Fault Refusal := atomInstr s true .cas64 d a f
/-- R227, R228. -/
def execFatomOFadd (d a : Reg) (f : BitVec 9) (s : State) : Host.Outcome State Fault Refusal := atomInstr s true .fadd d a f
/-- R227, R228. -/
def execFatomOFmin (d a : Reg) (f : BitVec 9) (s : State) : Host.Outcome State Fault Refusal := atomInstr s true .fmin d a f
/-- R227, R228. -/
def execFatomOFmax (d a : Reg) (f : BitVec 9) (s : State) : Host.Outcome State Fault Refusal := atomInstr s true .fmax d a f
/-- R227, R228. -/
def execFatomODadd (d a : Reg) (f : BitVec 9) (s : State) : Host.Outcome State Fault Refusal := atomInstr s true .dadd d a f
/-- R227, R228. -/
def execFatomOHadd2 (d a : Reg) (f : BitVec 9) (s : State) : Host.Outcome State Fault Refusal := atomInstr s true .hadd2 d a f
/-- R227, R228. -/
def execFatomOBadd2 (d a : Reg) (f : BitVec 9) (s : State) : Host.Outcome State Fault Refusal := atomInstr s true .badd2 d a f
/-- R227. -/
def execAtomUAdd (d a : Reg) (f : BitVec 9) (s : State) : Host.Outcome State Fault Refusal := atomInstr s false .add d a f
/-- R227. -/
def execAtomUAnd (d a : Reg) (f : BitVec 9) (s : State) : Host.Outcome State Fault Refusal := atomInstr s false .and d a f
/-- R227. -/
def execAtomUOr (d a : Reg) (f : BitVec 9) (s : State) : Host.Outcome State Fault Refusal := atomInstr s false .or d a f
/-- R227. -/
def execAtomUXor (d a : Reg) (f : BitVec 9) (s : State) : Host.Outcome State Fault Refusal := atomInstr s false .xor d a f
/-- R227. -/
def execAtomUMin (d a : Reg) (f : BitVec 9) (s : State) : Host.Outcome State Fault Refusal := atomInstr s false .min d a f
/-- R227. -/
def execAtomUMax (d a : Reg) (f : BitVec 9) (s : State) : Host.Outcome State Fault Refusal := atomInstr s false .max d a f
/-- R227. -/
def execAtomUMinu (d a : Reg) (f : BitVec 9) (s : State) : Host.Outcome State Fault Refusal := atomInstr s false .minu d a f
/-- R227. -/
def execAtomUMaxu (d a : Reg) (f : BitVec 9) (s : State) : Host.Outcome State Fault Refusal := atomInstr s false .maxu d a f
/-- R227. -/
def execAtomUExch (d a : Reg) (f : BitVec 9) (s : State) : Host.Outcome State Fault Refusal := atomInstr s false .exch d a f
/-- R227. -/
def execAtomUCas (d a : Reg) (f : BitVec 9) (s : State) : Host.Outcome State Fault Refusal := atomInstr s false .cas d a f
/-- R227. -/
def execAtomUAdd64 (d a : Reg) (f : BitVec 9) (s : State) : Host.Outcome State Fault Refusal := atomInstr s false .add64 d a f
/-- R227. -/
def execAtomUExch64 (d a : Reg) (f : BitVec 9) (s : State) : Host.Outcome State Fault Refusal := atomInstr s false .exch64 d a f
/-- R227. -/
def execAtomUCas64 (d a : Reg) (f : BitVec 9) (s : State) : Host.Outcome State Fault Refusal := atomInstr s false .cas64 d a f
/-- R227, R228. -/
def execFatomUFadd (d a : Reg) (f : BitVec 9) (s : State) : Host.Outcome State Fault Refusal := atomInstr s false .fadd d a f
/-- R227, R228. -/
def execFatomUFmin (d a : Reg) (f : BitVec 9) (s : State) : Host.Outcome State Fault Refusal := atomInstr s false .fmin d a f
/-- R227, R228. -/
def execFatomUFmax (d a : Reg) (f : BitVec 9) (s : State) : Host.Outcome State Fault Refusal := atomInstr s false .fmax d a f
/-- R227, R228. -/
def execFatomUDadd (d a : Reg) (f : BitVec 9) (s : State) : Host.Outcome State Fault Refusal := atomInstr s false .dadd d a f
/-- R227, R228. -/
def execFatomUHadd2 (d a : Reg) (f : BitVec 9) (s : State) : Host.Outcome State Fault Refusal := atomInstr s false .hadd2 d a f
/-- R227, R228. -/
def execFatomUBadd2 (d a : Reg) (f : BitVec 9) (s : State) : Host.Outcome State Fault Refusal := atomInstr s false .badd2 d a f

end Sys2Proof.Machine
end

