-- ==== Sys2Proof/Machine/Issue.lean ====
section
/-! DEFINITION. The issue stage (R26 to R34, R88 to R94): fetch, the chosen pair, the packet, readiness and the choice among groups, and what a cycle ends with. -/
namespace Sys2Proof.Machine

/-! ## Fetch (R14, R87, R89) -/

/-- What fetching an instruction comes to. -/
inductive Fetch where
  /-- The block's control word and the instruction word. -/
  | word (control instr : Word)
  /-- A precise trap (R14, R359, DEDUCED, log entry 14). -/
  | trap (c : Cause)
  /-- The tile that holds the code is not VALID (DEDUCED, log entry 15). -/
  | wait (tile : Nat)
  /-- The page leads beyond the HBM4. -/
  | nowhere
  deriving DecidableEq, Repr

/-- The fetch at a PC (R14): from the local address PC[45:0], under the group's identifier. (DEDUCED: log entries 10, 14, 15.) -/
def State.fetch (s : State) (asid : Nat) (hnd : Bool) (own : Option Nat) (pc : DWord) : Fetch :=
  let la := pc.toNat % 2 ^ 46
  if pc.toNat / 2 ^ 46 % 2 ^ 11 ≠ 0 then .trap .pcRange
  else match s.mem.pages.find? fun p => p.asid == asid && decide (p.la ≤ la) && decide (la < p.la + p.size) with
    | none => .trap .pageFault
    | some p =>
        if p.nx || (hnd && !p.pin) then .trap .pageFault
        else if Config.hbmBytes < p.pa + p.size then .nowhere
        else
          let key := if attrRcp p.attr then some (tileKey asid la) else none
          let pa := p.phys la
          match key with
          | some k => if (s.tile k).st != .valid && own != some k then .wait k
              else if s.lineFails none (.phys (pa - pa % 32)) 32 then .trap .check
              else .word (wordOfBytes (cellsRead s.mem.hbm (pa - pa % 32) 4)) (wordOfBytes (cellsRead s.mem.hbm pa 4))
          | none => if s.lineFails none (.phys (pa - pa % 32)) 32 then .trap .check
              else .word (wordOfBytes (cellsRead s.mem.hbm (pa - pa % 32) 4)) (wordOfBytes (cellsRead s.mem.hbm pa 4))

/-- The fetch of a group. -/
def State.fetchFor (s : State) (g : Group) (pc : DWord) : Fetch :=
  s.fetch (s.asidOf g) g.hnd ((s.launchOf g).bind (·.origin.tile?)) pc
/-- The word that a fetch gives the packet; 0 when it gives none, so that a chosen PC whose fetch traps takes the place of a lane instruction (R28). (DEDUCED: log entry 14.) -/
def Fetch.instr (f : Fetch) : Word :=
  match f with
  | .word _ w => w
  | .trap _ => 0
  | .wait _ => 0
  | .nowhere => 0
/-- The control word of a fetch (R87). -/
def Fetch.control (f : Fetch) : Word :=
  match f with
  | .word c _ => c
  | .trap _ => 0
  | .wait _ => 0
  | .nowhere => 0
/-- The stall count of the word at a PC (R87). -/
def stallCount (control : Word) (pc : DWord) : Nat := control.toNat / 2 ^ (4 * (pc.toNat / 4 % 8 - 1)) % 16

/-! ## The chosen pair and the packet (R27, R28) -/

/-- The PCs of the candidate lanes with their counts. -/
def Group.pcCounts (g : Group) : List (DWord × Nat) :=
  let pcs := (g.list g.candidates).map fun i => (g.lane i).pc
  pcs.eraseDups.map fun x => (x, pcs.count x)
/-- Does the first rank above the second: more lanes, then the lower PC (R27)? -/
def ranksAbove (a b : DWord × Nat) : Bool := decide (b.2 < a.2) || (a.2 == b.2 && decide (a.1.toNat < b.1.toNat))
/-- The highest-ranked of a list. -/
def bestRank : List (DWord × Nat) → Option (DWord × Nat)
  | [] => none
  | x :: r => match bestRank r with
    | none => some x
    | some y => if ranksAbove x y then some x else some y
/-- The PCs of rank 1 and rank 2 (R27). -/
def Group.chosenPair (g : Group) : List DWord :=
  match bestRank g.pcCounts with
  | none => []
  | some x => match bestRank (g.pcCounts.filter fun y => y.1 != x.1) with
    | none => [x.1]
    | some y => [x.1, y.1]

/-- Is the word a uniform instruction (R28, R95)? -/
def isUniform (w : Word) : Bool := w.getLsbD 31

/-- The slots of a group's packet, in the order half 0, half 1, uniform pipe (R28). (DEDUCED: log entry 14.) -/
def State.slotsOf (s : State) (g : Group) : List Slot :=
  let slot (pc : DWord) (place : Nat) : Slot := { pc := pc, word := (s.fetchFor g pc).instr, lanes := g.activeAt pc, place := place }
  match g.chosenPair with
  | [] => []
  | [a] => [slot a (if isUniform (s.fetchFor g a).instr then 2 else 0)]
  | a :: b :: _ =>
      match isUniform (s.fetchFor g a).instr, isUniform (s.fetchFor g b).instr with
      | false, false => [slot a 0, slot b 1]
      | false, true => [slot a 0, slot b 2]
      | true, false => [slot b 0, slot a 2]
      | true, true => [slot a 2]

/-! ## Readiness (R29, R42, R92, R93) -/

/-- Is the group resident: bound, its gang on its cores (R17, R35)? -/
def State.resident (s : State) (g : Group) : Bool :=
  !g.ended && ((s.gangOf g).map (fun k => k.st == .resident)).getD false
/-- The resident groups of a core. -/
def State.residents (s : State) (core : Nat) : List (Nat × Group) := s.groups.filter fun x => x.2.core == core && s.resident x.2
/-- Has the segment that the group closed been applied (R345)? -/
def State.ticketDone (s : State) (g : Group) : Bool :=
  match g.ticket with
  | none => true
  | some n => s.applied (s.launchIdOf g) (s.participantOf g) n
/-- May the group form a packet: it is resident, not parked, waits in nothing, its stall count has passed, and its launch has not been ended (R35, R42, R92, R362, R365)? (DEDUCED: log entry 80.) -/
def State.mayIssue (s : State) (g : Group) : Bool :=
  s.resident g && g.parked.isNone && g.waits.isEmpty && !g.emptyWait && decide (g.readyAt ≤ s.cycle) && s.ticketDone g
    && ((s.launchOf g).map (fun l => l.cause.isNone)).getD false && (g.candidates != 0)
/-- Is the result of an entry one of another device or of a held access (R42, R219)? -/
def SbKind.blocks (k : SbKind) : Bool := match k with
  | .held _ => true
  | .remote _ _ => true
  | .answer _ => true
  | .later => false
  | .ready => false
  | .stat => false
/-- The entries that the group's next packet waits for (R93). -/
def Group.stalledOn (g : Group) : List SbEntry := g.sb.filter fun e => g.stalls.contains e.id
/-- Does the group wait on a held or remote result: the one scoreboard wait that is a blocking point (R42, R219)? -/
def Group.waitsOnResult (g : Group) : Bool := g.stalledOn.any fun e => e.kind.blocks
/-- Does the group wait on held or remote results alone and have a deferred trap that a blocking point takes (R224, R225): its packet then goes into issue for the trap? -/
def Group.stallTraps (g : Group) : Bool := (g.stalledOn.all fun e => e.kind.blocks) && (g.deferredFor Deferred.atBlocking).isSome

/-- Is the group's packet ready (R29)? -/
def State.ready (s : State) (g : Group) : Bool := s.mayIssue g && (g.stalls.isEmpty || g.stallTraps)
/-- Does the packet use the halves (R29)? -/
def usesHalves (sl : List Slot) : Bool := sl.any fun x => x.place < 2

/-- The scoreboard's conflict of an instruction (R93): a register that it reads or writes has a pending scoreboarded write in a lane concerned. -/
def Group.conflicts (g : Group) (now : Nat) (lanes : LaneMask) (u : Uses) : List SbEntry :=
  g.sb.filter fun e =>
    (u.writes.any fun r => e.regs.contains r && (e.lanes &&& lanes) != 0)
      || u.reads.any fun x => e.regs.contains x.reg && (readLanes g now lanes x).any fun l => l.2.any fun j => e.lanes.getLsbD j

/-- The priority key of a group's launch (R410). -/
def State.keyOf (s : State) (g : Group) : Nat := ((s.launchOf g).map Launch.key).getD 0
/-- Does the first group go before the second: priority, then age of readiness, then slot (R29)? -/
def State.before (s : State) (a b : Nat × Group) : Bool :=
  decide (s.keyOf b.2 < s.keyOf a.2) || (s.keyOf a.2 == s.keyOf b.2 && (decide (a.2.readySince < b.2.readySince) || (a.2.readySince == b.2.readySince && decide (a.2.slot < b.2.slot))))
/-- The first in the order of R29. -/
def State.firstOf (s : State) : List (Nat × Group) → Option (Nat × Group)
  | [] => none
  | x :: r => match s.firstOf r with
    | none => some x
    | some y => if s.before x y then some x else some y

/-- What a core may issue now (R29): first the ready packet that uses the halves; when the uniform pipe is left free, a ready packet of one uniform instruction. -/
def State.choice (s : State) (core : Nat) : Option (Nat × Group) :=
  let done := s.issued.filter fun x => x.core == core
  let rs := (s.residents core).filter fun x => s.ready x.2
  match done.find? (·.halves) with
  | none => if done.isEmpty then (match s.firstOf (rs.filter fun x => usesHalves (s.slotsOf x.2)) with
      | some x => some x
      | none => s.firstOf rs) else none
  | some x => if x.uniform || done.any (fun y => !y.halves) then none else s.firstOf (rs.filter fun y => !usesHalves (s.slotsOf y.2))

/-- A group's packet enters issue (R28, R31, R90): RETIRED counts each of its instructions. (DEDUCED: log entry 16.) (DEDUCED: log entry 74.) -/
def State.formPacket (s : State) (core gid : Nat) (g : Group) (sl : Slot) (rest : List Slot) : State :=
  let controls := (sl :: rest).map fun x => (x.pc, (s.fetchFor g x.pc).control)
  let stall := controls.foldl (fun m x => max m (stallCount x.2 x.1)) 0
  let yield := controls.any fun x => x.2.getLsbD 28
  let s := s.setGroup gid { g with retired := (g.retired + rest.length + 1) % 2 ^ 64, idle := 0 }
  { s with
    packet := some { core := core, gid := gid, cur := sl, rest := rest, trap := none, stall := stall, yield := yield, retired0 := g.retired, lane := usesHalves (sl :: rest) }
    issued := s.issued ++ [{ core := core, gid := gid, halves := usesHalves (sl :: rest), uniform := (sl :: rest).any fun x => x.place == 2, launch := s.launchIdOf g }] }

/-- The tile that the fetch of a chosen PC must wait for, with that PC: every instruction of the packet issues in one cycle, so none does while there is one (R28). (DEDUCED: log entry 15.) -/
def State.fetchTile (s : State) (g : Group) : Option (Nat × DWord) :=
  g.chosenPair.findSome? fun pc => match s.fetchFor g pc with
    | .wait k => some (k, pc)
    | .word _ _ => none
    | .trap _ => none
    | .nowhere => none
/-- A group whose fetch waits for a tile: no packet is formed, and none of its instructions has issued (DEDUCED, log entry 15). -/
def State.fetchWaits (s : State) (gid : Nat) (g : Group) (k : Nat) (pc : DWord) : State :=
  (s.meetTile (s.ctxOf gid g) k).modGroup gid fun h => h.enterWait s.cycle (.tile k s.dev.qepoch) { pc := pc, word := 0, lanes := g.activeAt pc, place := 0 }

/-- ISSUE_CYCLE (R29): a core issues the packet it chooses; it has none to issue when a packet is in issue or no group is ready. -/
def execIssueCycle (core : Nat) (s : State) : Host.Outcome State Fault Refusal :=
  match s.packet, s.choice core with
  | none, some (gid, g) => match s.fetchTile g with
    | some (k, pc) => .next (s.fetchWaits gid g k pc)
    | none => match s.slotsOf g with
      | sl :: rest => .next (s.formPacket core gid g sl rest)
      | [] => .refused .notEnabled
  | none, none => .refused .notEnabled
  | some _, _ => .refused .notEnabled

/-- The end of a packet (R92, R90, R353): the recorded trap is taken, and the next packet issues no earlier than cycle t + 1 + S. -/
def State.endPacket (s : State) (p : Packet) : State :=
  let s := { s with packet := none }
  let s := match p.trap with
    | some r => s.settleTrap p.gid r
    | none => match (s.group? p.gid).bind (·.pending) with
      | some r => s.settleTrap p.gid r
      | none => s
  s.modGroup p.gid fun g =>
    { g with readyAt := max g.readyAt (s.cycle + 1 + p.stall), readySince := if p.yield then s.cycle + 1 else if p.stall = 0 then g.readySince else s.cycle + 1 + p.stall }

/-- The next instruction of the packet becomes the one that acts; after the last the packet ends. -/
def State.afterSlot (s : State) : State :=
  match s.packet with
  | none => s
  | some p => match p.rest with
    | [] => s.endPacket p
    | sl :: r => { s with packet := some { p with cur := sl, rest := r } }

/-! ## The end of a cycle (R32 to R34, R49) -/

/-- The lanes named in a waiting lane's mask have all arrived (R32, R33). -/
def Group.released (g : Group) (pc : DWord) (mask : DWord) : Bool :=
  (List.range g.width).all fun j => !(mask.getLsbD j) || !(g.lane j).live || !(g.enmask.getLsbD j) || ((g.lane j).waits && (g.lane j).pc == pc)
/-- The release of R32: every waiting lane whose mask is met moves to the sequential successor. -/
def Group.releaseRejoins (g : Group) : Group :=
  { g with lanes := g.lanes.map fun l => match l.st with
      | .waiting m => if g.released l.pc m then { l with st := .live, pc := succPc l.pc } else l
      | .live => l
      | .exited => l }

/-- A wait for exit is a blocking point while a held access is left, or a store that waits for a tile or behind one that does (R136, R225). -/
def State.exitBlocks (s : State) (gid : Nat) (g : Group) : Bool :=
  g.holds || s.mem.storeQ.any fun st => st.gid == gid && (s.storeLine st.core).any fun x => s.mustWait (s.issuerCtx x) x.tile
/-- Is the group at a blocking point (R42)? -/
def State.blocked (s : State) (gid : Nat) (g : Group) : Bool :=
  g.waits.any (fun w => w.kind.blocking || (w.kind == .exit && s.exitBlocks gid g)) || g.emptyWait || (g.liveMask == 0 && s.exitBlocks gid g) || !s.ticketDone g || g.waitsOnResult
/-- Does the idle count advance (R34)? -/
def State.idles (s : State) (gid : Nat) (g : Group) : Bool :=
  s.resident g && !s.blocked gid g && g.parked.isNone && g.waits.isEmpty && g.liveMask != 0 && g.candidates == 0 && g.sb.isEmpty

/-- The launch a core's cycle is charged to (R49, R362): the packet that used the halves, else the uniform instruction issued, else the oldest resident group not at a blocking point. (DEDUCED: log entry 80.) (DESIGN CHOICE: log entry 92.) -/
def State.chargedLaunch (s : State) (core : Nat) : Option Nat :=
  let done := s.issued.filter fun x => x.core == core
  match done.find? (·.halves) with
  | some x => some x.launch
  | none => match done with
    | x :: _ => some x.launch
    | [] => (((s.residents core).filter fun x => x.2.parked.isNone && !s.blocked x.1 x.2).head?).map fun x => s.launchIdOf x.2
/-- The launch that pays: a recompute launch's cycles go to the launch it is charged to (R394). -/
def State.payer (s : State) (l : Nat) : Option Nat :=
  match s.launch? l with
  | none => none
  | some x => match x.origin with
    | .recompute _ c => c
    | .host | .device _ | .node _ _ | .invoked _ _ _ _ _ => some l
/-- One core-cycle charged (R49, R50): nothing is charged once a kill is under way. (DEDUCED: log entry 80.) -/
def State.charge (s : State) (core : Nat) : State :=
  match (s.chargedLaunch core).bind s.payer with
  | none => s
  | some l => s.modLaunch l fun x => if x.cause.isSome then x else { x with charge := x.charge + 1 }

/-- A group at the end of a cycle: fixed-latency writes that no read needs any more are forgotten (R91), rejoins are released, the idle count goes on or restarts, and the age of a group restarts whose packet is not ready and that has issued none in the cycle (R29, R90). -/
def State.groupCycle (s : State) (gid : Nat) (g : Group) : Group :=
  let g' := if s.resident g && g.parked.isNone then g.releaseRejoins else g
  { g' with
    hist := unsettled (s.cycle + 1) g.hist
    idle := if s.idles gid g && g.hist.all (fun h => decide (h.visible ≤ s.cycle)) then g.idle + 1 else 0
    readySince := if s.ready g || s.issued.any (·.gid == gid) then g.readySince else max g.readySince (s.cycle + 1) }

/-- The end of an arithmetic cycle. -/
def State.endCycle (s : State) : State :=
  let s := (List.range Config.cores).foldl State.charge s
  { s with groups := s.groups.map fun x => (x.1, s.groupCycle x.1 x.2), cycle := s.cycle + 1, issued := [] }

/-- REJOIN_STALL (R34): the idle count has reached 2^20; TRAPMASK names the lanes waiting at rejoins. -/
def execRejoinStall (gid : Nat) (s : State) : Host.Outcome State Fault Refusal :=
  match s.group? gid with
  | none => .refused .notEnabled
  | some g =>
      if g.idle < Config.idleLimit then .refused .notEnabled
      else .next ((s.setGroup gid { g with idle := 0 }).takeTrap gid
        { place := 0, cause := .rejoinStall, lanes := g.lanesWhere fun _ l => l.waits, addr := 0, word := 0, defer := false, active := 0, restart := 0 })

/-- The kinds of the batch commands. -/
def EngineKind.isBatch (k : EngineKind) : Bool :=
  match k with
  | .bsAsm | .bsLu | .bsLdl | .bsTrsv | .bsPgs | .bsBack => true
  | .mmLdw | .mmSwapw | .mmRun | .mmSwapacc | .mmAccrd | .mmAccwr | .mmDrain | .mmRegrow | .srtKeys | .srtPairs | .trvBuild | .trvQuery | .phaseRegroup | .phaseRestore | .collPost => false
/-- Does a run of bytes hold an address? The same place under either form of a local address is one place (R216). -/
def State.runHolds (s : State) (base : DWord) (len : Nat) (ea : DWord) : Bool :=
  match s.target base, s.target ea with
  | some (.here x), some (.here y) => decide (x ≤ y) && decide (y < x + len)
  | some (.scratch x), some (.scratch y) => decide (x ≤ y) && decide (y < x + len)
  | _, _ => false
/-- Does an incomplete command of a team name an item record (R299)? -/
def State.itemNamed (s : State) (team : Nat) (ea : DWord) : Bool :=
  s.eng.cmds.any fun c => c.2.team == team && c.2.kind.isBatch && s.runHolds (BitVec.ofNat 64 (fieldAt c.2.block 0x18 8)) (64 * fieldAt c.2.block 0x14 4) ea
/-- The words of a bs.stat whose items no outstanding command of the team names, and the lanes whose record fails its check (R299). -/
def State.statReads (s : State) (gid : Nat) (g : Group) (e : SbEntry) : List (Nat × List Word) × List (Nat × Cause × DWord) :=
  let c := s.ctxOf gid g
  let fails (r : HeldLane) : Bool := s.lineFails c.core r.loc 8
  ((e.rows.filter fun r => !r.done && !fails r).map fun r => (r.lane, [wordOfBytes ((s.view c (attrPrivate r.attr) r.loc 8).drop 4)]),
   (e.rows.filter fun r => !r.done && fails r).map fun r => (r.lane, .check, r.ea))
/-- The tile that a bs.stat must wait for (R224, R299), and whether its build is still to be started: it is DROPPED, or the item's line fails its check and it has a record. -/
def State.statTile (s : State) (gid : Nat) (g : Group) (e : SbEntry) : Option (Nat × Bool) :=
  (e.rows.filter fun r => !r.done).findSome? fun r => match r.tile with
    | none => none
    | some k =>
        if s.mustWait (s.ctxOf gid g) r.tile then some (k, (s.tile k).idle)
        else if s.lineFails (some g.core) r.loc 8 && (s.tile k).record.isSome then some (k, true) else none
/-- SCOREBOARDED_RESULT (R93): an entry whose value has come and whose cycle is reached writes its registers, in issue order; a bs.stat reads once its items are named no more. -/
def execScoreboardedResult (gid id : Nat) (s : State) : Host.Outcome State Fault Refusal :=
  match s.group? gid with
  | none => .refused .notEnabled
  | some g => match g.sb.find? (fun e => e.id == id) with
    | none => .refused .notEnabled
    | some e =>
        if s.cycle < e.due then .refused .notEnabled
        else match e.kind with
          | .ready => .next (s.setGroup gid { (g.commits e.vals) with sb := g.sb.filter fun x => x.id != id })
          | .stat =>
              if e.rows.any (fun r => s.itemNamed g.team r.ea) then .refused .notEnabled
              else match s.statTile gid g e with
                | some (k, again) => if again then .next ((s.dropTile k).meetTile (s.ctxOf gid g) k) else .refused .notEnabled
                | none =>
                  let (vals, fails) := s.statReads gid g e
                  .next ((s.setGroup gid { (g.commits (wordWrites (e.regs.headD 0) vals)) with sb := g.sb.filter fun x => x.id != id }).deferAll gid
                    (deferredOf e.id (s.fetchFor g e.pc).instr e.regs fails))
          | .held _ => .refused .notEnabled
          | .remote _ _ => .refused .notEnabled
          | .answer _ => .refused .notEnabled
          | .later => .refused .notEnabled

end Sys2Proof.Machine
end

