-- ==== Sys2Proof/Machine/Fences.lean ====
section
/-! DEFINITION. Releases and acquires (R319 to R334, R343 to R345), deferred traps at the instructions that take them (R224, R225, R233, R352), tokens and copy batches (R38, R39), and the instructions g.fence, g.wait, g.seal and g.bwait. -/
namespace Sys2Proof.Machine

/-! ## Deferred traps -/

/-- Does batch number n cover batch m (R167)? -/
def covers (n m : Nat) : Bool := decide ((n + 65536 - m % 65536) % 65536 < 32768)
/-- The cause of a batch that a wait on a number covers (R233). -/
def DeferKind.coveredBy (k : DeferKind) (n : Nat) : Bool := match k with
  | .access => false
  | .store => false
  | .batch none => false
  | .batch (some m) => covers n m

/-! ## Releases and acquires -/

/-- A scope's place in the order of R319. -/
def scopeRank (c : Scope) : Nat := match c with
  | .group => 0
  | .team => 1
  | .cluster => 2
  | .die => 3
  | .device => 4
  | .domain => 5
  | .system => 6
/-- Is the scope wider than TEAM (R330, R343)? -/
def wide? (c : Scope) : Bool := decide (2 ≤ scopeRank c)

/-- Has the access of an entry returned? -/
def SbKind.returned (k : SbKind) : Bool := match k with
  | .held _ => false
  | .remote _ _ => false
  | .ready => true
  | .stat => true
  | .later => true
  | .answer _ => true
/-- Has every load and atomic of the group returned? -/
def Group.loadsReturned (g : Group) : Bool := g.sb.all fun e => e.kind.returned
/-- Are the accesses of a group performed for the agents of a scope (R325): its loads, its waiting stores, and, at DOMAIN or wider, its posted stores acknowledged (DEDUCED, log entry 17)? -/
def State.performed (s : State) (gid : Nat) (g : Group) (c : Scope) : Bool :=
  g.loadsReturned && (s.mem.storeQ.all fun st => st.gid != gid)
    && (decide (scopeRank c < 5) || s.fab.reqs.all fun r => r.2.owner != .store (s.launchIdOf g))
/-- What a release at a scope does once the accesses are performed: the core's dirty PRIVATE lines go home when it is wider than TEAM (R330). -/
def State.publish (s : State) (g : Group) (c : Scope) : State := if wide? c then s.writeBack g.core else s

/-- The segment of a certified group's accesses closes (R343); wait: the group goes on once the segment is applied (R345). -/
def State.closeFor (s : State) (gid : Nat) (wait : Bool) : State :=
  match s.group? gid with
  | none => s
  | some g =>
      if s.certified g then
        (s.closeSegment gid).modGroup gid fun h => if wait then { h with ticket := some g.segment } else h
      else s
/-- A fence (R168, R325): it waits until its effect is complete; a fence wider than TEAM closes a segment, with a wait for its turn when it acquires (R343, R345). -/
def fenceInstr (s : State) (c : Scope) (release acquire : Bool) : Host.Outcome State Fault Refusal :=
  s.issue fun p g =>
    s.orDeferred p g (if release then Deferred.atRelease else Deferred.atAcquire) <|
      let done := if release then s.performed p.gid g c else g.loadsReturned
      if done then
        let s := if release then s.publish g c else s
        let s := s.finish p (g.leaveWait p.cur)
        if wide? c then s.closeFor p.gid acquire else s
      else s.setGroup p.gid (g.enterWait s.cycle (.fence c release) p.cur)

/-- R325. -/
def execGFenceRel (c : Scope) (s : State) : Host.Outcome State Fault Refusal := fenceInstr s c true false
/-- R325. -/
def execGFenceAcq (c : Scope) (s : State) : Host.Outcome State Fault Refusal := fenceInstr s c false true
/-- R325. -/
def execGFenceFull (c : Scope) (s : State) : Host.Outcome State Fault Refusal := fenceInstr s c true true

/-! ## Tokens (R38, R165) -/

def Group.token (g : Group) (t : Token) : TokenRec := g.tokens.get t
def Group.setToken (g : Group) (t : Token) (r : TokenRec) : Group := { g with tokens := g.tokens.set t r }
/-- A token named by an instruction that starts n operations: BUSY, with its earlier outcome discarded. -/
def Group.startToken (g : Group) (t : Token) (n : Nat) : Group := g.setToken t { st := .busy, left := n, bad := false }
/-- One operation of a token has ended (R38, R234, R260). -/
def TokenRec.ended (r : TokenRec) (bad : Bool) : TokenRec :=
  if r.left ≤ 1 then { st := if r.bad || bad then .fault else .done, left := 0, bad := false } else { r with left := r.left - 1, bad := r.bad || bad }
/-- Where context memory holds the record of a group, while its gang is swapped out: a gang's records begin with those of its groups that had not ended (R369). -/
def State.savedRecord (s : State) (gid : Nat) (g : Group) : Option Nat :=
  (s.gangOf g).bind fun k =>
    if k.st != .swapped then none
    else
      let live := ((k.teams.filterMap s.team?).flatMap (·.groups)).filter fun i => ((s.group? i).map fun x => !x.ended).getD false
      ((live.findIdx? (· == gid)).bind fun i => k.records[i]?).map (·.1)
/-- One operation of a group's token has ended, if the group still exists; of a group that is swapped out, TKSTAT of its saved record follows (R265, R368). -/
def State.tokenEnded (s : State) (gid : Nat) (t : Option Token) (bad : Bool) : State :=
  match t with
  | none => s
  | some k =>
      let s := s.modGroup gid fun g => if g.ended then g else g.setToken k ((g.token k).ended bad)
      match s.group? gid with
      | none => s
      | some g => match s.savedRecord gid g with
        | none => s
        | some a => s.putPhys none false (bytesOfNat 4 g.tkstat) (a + 0x54)

/-- Staged writes whose wait has come take the open segment of their group (R342). -/
def State.assignStaged (s : State) (gid : Nat) (g : Group) (f : Option Nat × Option Token → Bool) : State :=
  { s with eng := { s.eng with staged := s.eng.staged.map fun (x : Staged) => if x.gid == gid && (x.awaits.map f).getD false then { x with awaits := none, segment := g.segment } else x } }

/-- R165. -/
def execGWait (k : Token) (s : State) : Host.Outcome State Fault Refusal :=
  s.issue fun p g =>
    if (g.token k).st == .busy then s.setGroup p.gid (g.enterWait s.cycle (.token k) p.cur)
    else (s.finish p (g.leaveWait p.cur)).assignStaged p.gid g fun a => a.2 == some k

/-! ## Copy batches (R39, R166, R167, R333) -/

/-- The batch of a copy of a group. -/
def Copy.batchOf (c : Copy) (gid : Nat) : Option (Option Nat) :=
  if c.gid ≠ gid then none else match c.kind with
    | .batch n => some n
    | .rows _ => none
    | .mcast _ _ => none
    | .porter _ _ => none
/-- The sealed batches of a group that are not complete. -/
def State.openBatches (s : State) (gid : Nat) : List Nat := (s.eng.copies.filterMap fun c => (c.2.batchOf gid).bind id).eraseDups
/-- BATCH.DONE moved on past complete batches (R39), up to n of them. -/
def Group.advanceDone (g : Group) (incomplete : List Nat) : Nat → Group
  | 0 => g
  | n + 1 =>
      if g.bdone % 65536 = g.bsealed % 65536 || incomplete.contains ((g.bdone + 1) % 65536) then g
      else ({ g with bdone := (g.bdone + 1) % 65536 }).advanceDone incomplete n
/-- BATCH.DONE of a group as its copies stand: past every complete batch up to the newest sealed one. -/
def State.settleBatches (s : State) (gid : Nat) : State := s.modGroup gid fun g => g.advanceDone (s.openBatches gid) ((g.bsealed + 65536 - g.bdone % 65536) % 65536)

/-- The open batch of a group sealed under a number: its copies, its failures, its staged writes. -/
def State.sealBatch (s : State) (gid n : Nat) : State :=
  let mark (c : Copy) : Copy := if c.batchOf gid == some none then { c with kind := CopyKind.batch (some n) } else c
  let s := { s with eng := { s.eng with
      copies := s.eng.copies.map fun (c : Nat × Copy) => (c.1, mark c.2)
      staged := s.eng.staged.map fun (x : Staged) => if x.gid == gid && x.awaits == some (none, none) then { x with awaits := some (some n, none) } else x } }
  s.modGroup gid fun g => { g with bsealed := n, deferred := g.deferred.map fun (d : Deferred) => if d.kind == DeferKind.batch none then { d with kind := DeferKind.batch (some n) } else d }

/-- R166, R39. -/
def execGSeal (d : Reg) (s : State) : Host.Outcome State Fault Refusal :=
  s.issue fun p g =>
    if 16 ≤ (s.openBatches p.gid).length then s.setGroup p.gid (g.enterWait s.cycle .sealLimit p.cur)
    else
      let n := (g.bsealed + 1) % 65536
      ((s.answerAfter 4 p (g.leaveWait p.cur) [(d, BitVec.ofNat 32 n)]).sealBatch p.gid n).settleBatches p.gid

/-- R167, R233, R342. (DESIGN CHOICE: log entry 96.) -/
def execGBwait (a : Reg) (s : State) : Host.Outcome State Fault Refusal :=
  s.issue fun p g =>
    let n := (g.uread s.cycle p.cur.lanes a).toNat % 65536
    let ahead := (n + 65536 - g.bsealed % 65536) % 65536
    if 1 ≤ ahead && ahead < 32768 then s.trapAt p.gid p.cur .batchRange p.cur.lanes 0
    else s.orDeferred p g (fun x => x.kind.coveredBy n) <|
      if covers g.bdone n then
        (s.finish p (g.leaveWait p.cur)).assignStaged p.gid g fun x => match x.1 with
          | some m => covers n m
          | none => false
      else s.setGroup p.gid (g.enterWait s.cycle (.batch n) p.cur)

end Sys2Proof.Machine
end

