-- ==== Sys2Proof/Machine/Queues.lean ====
section
/-! DEFINITION. Records that the device updates in place, and the queues of R242 to R246, R346 and R506: descriptors, rings, rounds, commits and claims. -/
namespace Sys2Proof.Machine

/-! ## Places -/

/-- A place some bytes on. -/
def Loc.plus (l : Loc) (k : Nat) : Loc :=
  match l with
  | .win t o => .win t (o + k)
  | .phys a => .phys (a + k)
/-- Bytes at a place as an agent finds them: a group finds its own waiting stores (R322). (DEDUCED: log entry 90.) -/
def State.bytesIn (s : State) (c : Ctx) (p : Place) (off n : Nat) : List Byte := s.view c (attrPrivate p.attr && stagedPlace p.loc) (p.loc.plus off) n
/-- A field of a record at a place. -/
def State.fieldIn (s : State) (c : Ctx) (p : Place) (off n : Nat) : Nat := natOfBytes (s.bytesIn c p off n)
/-- A field of a record written. -/
def State.setField (s : State) (c : Ctx) (p : Place) (off n v : Nat) : State := s.putTagged c.tag c.core (attrPrivate p.attr && stagedPlace p.loc) (p.loc.plus off) (bytesOfNat n v)

/-- The checks of R218 for n bytes from an EA without an alignment rule of their own. -/
def State.checkBytes (s : State) (c : Ctx) (writes : Bool) (ea : DWord) (n : Nat) : Checked :=
  match s.target ea with
  | none => .bad .addrRange
  | some (.scratch a) => (match s.windowOf c.team a n with
      | none => .bad .windowRange
      | some (t, off) => if writes && s.coversTag t off n then .bad .barrierClobber else .ok { ea := ea, loc := .win t off, attr := 0, tile := none, n := n })
  | some (.here la) => s.checkLocal c n false writes ea la
  | some (.remote d la) => .remote d la

/-- An EA range cut at 64-byte lines: at most n pieces. -/
def linePieces (ea : DWord) : Nat → Nat → List (DWord × Nat)
  | 0, _ => []
  | fuel + 1, n =>
      if n = 0 then [] else
      let k := min n (64 - ea.toNat % 64)
      (ea, k) :: linePieces (ea + BitVec.ofNat 64 k) fuel (n - k)
/-- The pieces of a range. -/
def piecesOf (ea : DWord) (n : Nat) : List (DWord × Nat) := linePieces ea (n / 64 + 2) n

/-! ## Descriptors (R242, R506) -/

/-- A queue as a lane names it: its reference, the place of its descriptor, its ring and capacity. -/
structure Queue where
  ref : QueueRef
  ea : DWord
  place : Place
  base : DWord
  cap : Nat
  deriving DecidableEq, Repr

/-- The place of a queue reference. The device updates a queue at the home of its lines, whatever the page's coherence class, so that every pop sees what every push wrote (R242, R336). -/
def QueueRef.place (q : QueueRef) : Place := { ea := 0, loc := q.loc, attr := 0x80#32, tile := q.tile, n := 64 }
/-- The reference of a place. (DEDUCED: log entry 66.) -/
def Place.queueRef (p : Place) : QueueRef := { loc := p.loc, tile := p.tile }
/-- A place as its home holds it. -/
def Place.atHome (p : Place) : Place := { p with attr := 0x80#32 }

/-- Is CAP legal (R242)? -/
def capOk (n : Nat) : Bool := (List.range 21).any fun k => n == 2 ^ (k + 4)
/-- The target of an EA, by code: scratchpad or local. -/
def State.isScratch (s : State) (ea : DWord) : Bool := match s.target ea with
  | some (.scratch _) => true
  | some (.here _) => false
  | some (.remote _ _) => false
  | none => false

/-- The first byte of each tile-sized piece of a range (R388): what the checks of R218 ask is the same for all bytes of one. -/
def tilePieces (la n : Nat) : List Nat :=
  if n = 0 then [] else la :: (List.range ((la + n - 1) / 16384 - la / 16384)).map fun k => (la / 16384 + k + 1) * 16384
/-- What is wrong with a ring: the lowest failing address with its cause (R506). A scratchpad ring is checked as one range, and word by word where that fails; a local one tile by tile. (DEDUCED: log entry 87.) -/
def State.ringFault (s : State) (c : Ctx) (push : Bool) (base : DWord) (bytes : Nat) : Option (Cause × DWord) :=
  let fails (a : DWord) (n : Nat) : Option Cause := match s.checkBytes c push a n with
    | .ok _ => none
    | .remote _ _ => some .addrRange
    | .bad x => some x
  let at' (offs : List Nat) : Option (Cause × DWord) := offs.findSome? fun k => (fails (base + BitVec.ofNat 64 k) 4).map fun x => (x, base + BitVec.ofNat 64 k)
  if s.isScratch base then (fails base bytes).map fun x => (at' ((List.range (min (bytes / 4) 262145)).map (4 * ·))).getD (x, base)
  else
    let la := base.toNat % 2 ^ 46
    at' ((tilePieces la bytes).map fun a => a - la)
/-- The tiles of a ring that are not VALID. (DEDUCED: log entry 46.) -/
def State.ringTiles (s : State) (c : Ctx) (base : DWord) (bytes : Nat) : List Nat :=
  let la := base.toNat % 2 ^ 46
  if s.isScratch base then []
  else ((List.range (bytes / 16384 + 2)).filterMap fun i => if la / 16384 * 16384 + i * 16384 < la + bytes then
      (match s.pageUnder c.tag c.asid (max la ((la / 16384 + i) * 16384)) with
        | some p => if attrRcp p.attr && s.mustWait c (some (tileKey c.asid ((la / 16384 + i) * 16384))) then some (tileKey c.asid ((la / 16384 + i) * 16384)) else none
        | none => none) else none)

/-- Where the bytes of a place are now, for an access with a tag: in the frame to which a migration has moved them (R340). (DEDUCED: log entry 108.) -/
def State.homeOf (s : State) (tag : Nat) (l : Loc) : Loc :=
  match l with
  | .win _ _ => l
  | .phys pa => .phys ((forwards s.dev.changes tag pa).getLast?.getD pa)
/-- Why a queue cannot be taken: a cause at an address, or a tile that is not VALID or must be rebuilt first. -/
inductive QueueFault where
  | cause (c : Cause) (ea : DWord)
  | tile (k : Nat) (drop : Bool)
  deriving DecidableEq, Repr
/-- A queue named by an EA, checked at issue (R242, R303, R506): what stands against it, or the queue. Its descriptor is read once its tile is VALID; one whose line fails its check is never used (R401). (DESIGN CHOICE: log entry 100.) (DESIGN CHOICE: log entry 107.) -/
def State.queueAt (s : State) (c : Ctx) (push : Bool) (ea : DWord) : Except QueueFault Queue :=
  if ea.toNat % 64 ≠ 0 then .error (match s.target ea with
    | none => .cause .addrRange ea
    | some (.scratch _) => .cause .badDescriptor ea
    | some (.here _) => .cause .badDescriptor ea
    | some (.remote _ _) => .cause .addrRange ea)
  else match s.checkBytes c true ea 64 with
    | .bad x => .error (.cause x ea)
    | .remote _ _ => .error (.cause .addrRange ea)
    | .ok p => match s.tileBefore c p.tile (s.homeOf c.tag p.loc) 64 true with
      | some (k, drop) => .error (.tile k drop)
      | none =>
        let p := { p with loc := s.homeOf c.tag p.loc }
        let base : DWord := BitVec.ofNat 64 (s.fieldIn c p 0 8)
        let cap := s.fieldIn c p 8 4
        let ring : Except QueueFault Queue := match s.ringFault c push base (4 * cap) with
          | some f => .error (.cause f.1 f.2)
          | none => .ok { ref := p.queueRef, ea := ea, place := p.atHome, base := base, cap := cap }
        if s.lineFails c.core p.loc 64 then .error (.cause .check ea)
        else if !capOk cap || base.toNat % 4 != 0 || s.fieldIn c p 0xC 4 != 0 then .error (.cause .badDescriptor ea)
        else match s.target base with
          | none => .error (.cause .badDescriptor ea)
          | some (.remote _ _) => .error (.cause .badDescriptor ea)
          | some (.scratch _) => if s.isScratch ea then ring else .error (.cause .badDescriptor ea)
          | some (.here _) => if s.isScratch ea then .error (.cause .badDescriptor ea) else ring

/-- The place of the descriptor that an instruction which has passed its checks names: they are not made again (R506). -/
def State.descriptorAt (s : State) (c : Ctx) (ea : DWord) : Option Place :=
  match s.checkBytes c false ea 64 with
  | .ok p => some { p with loc := s.homeOf c.tag p.loc }
  | .remote _ _ => none
  | .bad _ => none
/-- A queue that an instruction which has passed its checks names (R506). -/
def State.queueNamed (s : State) (c : Ctx) (ea : DWord) : Option Queue :=
  (s.descriptorAt c ea).map fun p => { ref := p.queueRef, ea := ea, place := p.atHome, base := BitVec.ofNat 64 (s.fieldIn c p.atHome 0 8), cap := s.fieldIn c p.atHome 8 4 }
/-- The dirty bytes that a core holds of a queue, descriptor and ring, brought to their home (R336). -/
def State.flushQueue (s : State) (c : Ctx) (q : Queue) : State :=
  let range (s : State) (ea : DWord) (n : Nat) : State := match s.checkBytes c false ea n with
    | .ok p => (match p.loc with
        | .phys pa => s.flushRange c.core pa n
        | .win _ _ => s)
    | .remote _ _ => s
    | .bad _ => s
  let la := q.base.toNat % 2 ^ 46
  let s := range s q.ea 64
  if s.isScratch q.base then s
  else (tilePieces la (4 * q.cap)).foldl (fun s a => range s (q.base + BitVec.ofNat 64 (a - la)) (min (16384 - a % 16384) (la + 4 * q.cap - a))) s

/-- HEAD, RESV, COMMIT and CTEAM of a descriptor (R242). -/
def State.qHead (s : State) (c : Ctx) (q : Place) : Nat := s.fieldIn c q 0x10 4
def State.qResv (s : State) (c : Ctx) (q : Place) : Nat := s.fieldIn c q 0x14 4
def State.qCommit (s : State) (c : Ctx) (q : Place) : Nat := s.fieldIn c q 0x18 4
def State.qTeam (s : State) (c : Ctx) (q : Place) : Nat := s.fieldIn c q 0x1C 4

/-! ## Committing (R244, R346) -/

/-- The identity of a team's accesses, tagged with an epoch. -/
def State.teamCtx (s : State) (team tag : Nat) : Ctx :=
  match s.team? team with
  | none => { s.deviceCtx 0 with tag := tag }
  | some t => { s.deviceCtx (((s.launch? (s.launchIdOfTeam t)).map (·.asid)).getD 0) with tag := tag, team := some team, core := t.cores.head?, launch := s.launchIdOfTeam t }

/-- Entries written into a ring from a sequence number on; what R218 checks was checked at issue, and a page that is gone takes nothing. -/
def State.writeEntries (s : State) (c : Ctx) (base : DWord) (cap : Nat) : Nat → List Word → State
  | _, [] => s
  | k, v :: r =>
      let ea := base + BitVec.ofNat 64 (4 * (k % cap))
      let s := match s.checkBytes c (s.isScratch ea) ea 4 with
        | .ok p => s.putTagged c.tag none false p.loc (bytesOfNat 4 v.toNat)
        | .remote _ _ => s
        | .bad _ => s
      s.writeEntries c base cap (k + 1) r
/-- A run committed (R244): its entries follow the sequence, and COMMIT counts them. -/
def State.commitRun (s : State) (c : Ctx) (q : Place) (vals : List Word) : State :=
  let base : DWord := BitVec.ofNat 64 (s.fieldIn c q 0 8)
  let cap := s.fieldIn c q 8 4
  let n := s.qCommit c q
  if cap = 0 then s else (s.writeEntries c base cap n vals).setField c q 0x18 4 ((n + vals.length) % 2 ^ 32)

/-- A group's counts on a queue (R244, R245). -/
def Group.counts (g : Group) (q : QueueRef) : QCount := (g.qcounts.find? fun x => x.queue == q).getD { queue := q, pushes := 0, pops := 0 }
def Group.setCounts (g : Group) (n : QCount) : Group := { g with qcounts := n :: g.qcounts.filter fun x => x.queue != n.queue }
/-- Does a group count toward round k: it has issued its (k+1)-th instruction on the queue, has ended, or waits empty (R244, R245, R309)? -/
def Group.reached (g : Group) (q : QueueRef) (k : Nat) (push : Bool) : Bool :=
  g.ended || g.emptyWait || decide (k < if push then (g.counts q).pushes else (g.counts q).pops)
/-- The groups of a team. -/
def State.groupsOf (s : State) (t : Team) : List (Nat × Group) := t.groups.filterMap fun k => (s.group? k).map fun g => (k, g)
/-- Is round k of a queue complete for a team? -/
def State.roundComplete (s : State) (t : Team) (q : QueueRef) (k : Nat) (push : Bool) : Bool := (s.groupsOf t).all fun x => x.2.reached q k push

/-- Rounds of a queue that a team has committed. -/
def Team.committed (t : Team) (q : QueueRef) : Nat := ((t.pushed.find? fun x => x.1 == q).map (·.2)).getD 0
/-- May a team of a certified launch commit its round k: every lower-indexed team has, or has ended with no entry of that round left to commit (R346)? -/
def State.teamsBefore (s : State) (t : Team) (q : QueueRef) (k : Nat) : Bool :=
  match s.launch? (s.launchIdOfTeam t) with
  | none => true
  | some l =>
      if !l.kern.ordered then true
      else (List.range t.teamId).all fun i => s.teams.any fun x => x.2.teamId == i && s.launchIdOfTeam x.2 == s.launchIdOfTeam t
        && ((x.2.ended && !s.eng.pushes.any fun h => h.team == x.1 && h.queue == q && decide (h.round ≤ k)) || decide (k < x.2.committed q))

/-- Lists put in the order of a number. -/
def insertBy {α : Type} (f : α → Nat) (x : α) : List α → List α
  | [] => [x]
  | y :: r => if f x < f y then x :: y :: r else y :: insertBy f x r
def sortBy {α : Type} (f : α → Nat) (l : List α) : List α := l.foldl (fun r x => insertBy f x r) []

/-- One round committed, if one may be (R244): the entries of its groups, by group index. -/
def State.commitOne (s : State) : Option State :=
  s.eng.pushes.findSome? fun h => match s.team? h.team with
    | none => none
    | some t =>
        let k := t.committed h.queue
        let c := s.teamCtx h.team h.epoch
        let place := h.queue.place
        if s.mustWait c h.queue.tile || !(s.ringTiles c (BitVec.ofNat 64 (s.fieldIn c place 0 8)) (4 * s.fieldIn c place 8 4)).isEmpty then none
        else if s.roundComplete t h.queue k true && s.teamsBefore t h.queue k then
          let mine := s.eng.pushes.filter fun x => x.team == h.team && x.queue == h.queue && x.round == k
          let s := s.commitRun c place ((sortBy (·.group) mine).flatMap (·.vals))
          some { (s.modTeam h.team fun t => { t with pushed := (h.queue, k + 1) :: t.pushed.filter fun x => x.1 != h.queue }) with
                 eng := { s.eng with pushes := s.eng.pushes.filter fun x => !(x.team == h.team && x.queue == h.queue && x.round == k) } }
        else none
/-- Rounds committed as long as one may be. -/
def State.commitRounds (s : State) : Nat → State
  | 0 => s
  | n + 1 => match s.commitOne with
    | none => s
    | some s' => s'.commitRounds n
/-- Every round that is complete committed. -/
def State.commitPushes (s : State) : State := s.commitRounds (s.eng.pushes.length + 1)

/-! ## Claiming (R245) -/

/-- The pops of a round claim their entries in the order of group index, from a sequence number on. -/
def claimRound (q : QueueRef) (k : Nat) : List PopClaim → Nat → List (Nat × Nat) → List PopClaim × Nat
  | pops, next, [] => (pops, next)
  | pops, next, (gi, _) :: r =>
      let n := ((pops.find? fun x => x.queue == q && x.round == k && x.group == gi).map (·.lanes.length)).getD 0
      claimRound q k (pops.map fun (x : PopClaim) => if x.queue == q && x.round == k && x.group == gi then { x with first := some next } else x) ((next + n) % 2 ^ 32) r
/-- One complete pop round of a team claims its entries. -/
def State.claimOne (s : State) : Option State :=
  s.teams.findSome? fun x =>
    let t := x.2
    t.pops.findSome? fun p =>
      if p.first.isSome || !s.roundComplete t p.queue p.round false then none
      else if t.pops.any (fun y => y.queue == p.queue && y.first.isNone && decide (y.round < p.round)) then none
      else match t.queues.find? (fun b => b.queue == p.queue) with
        | none => none
        | some b =>
            let order := sortBy (·.1) (((t.pops.filter fun y => y.queue == p.queue && y.round == p.round).map fun y => (y.group, 0)))
            let (pops, next) := claimRound p.queue p.round t.pops b.next order
            some (s.setTeam x.1 { t with pops := pops, queues := t.queues.map fun y => if y.queue == p.queue then { y with next := next } else y })
def State.claimRounds (s : State) : Nat → State
  | 0 => s
  | n + 1 => match s.claimOne with
    | none => s
    | some s' => s'.claimRounds n
/-- Every complete pop round has claimed its entries. -/
def State.claimPops (s : State) : State := s.claimRounds ((s.teams.map fun t => t.2.pops.length).sum + 1)
/-- Rounds taken further after a group has issued, ended, or come to wait empty. -/
def State.settleRounds (s : State) : State := s.commitPushes.claimPops

/-- The place of entry k of a queue's sequence (R242), with its address. -/
def State.entryPlace (s : State) (c : Ctx) (q : Place) (k : Nat) : Option Place :=
  let base : DWord := BitVec.ofNat 64 (s.fieldIn c q 0 8)
  match s.checkBytes c false (base + BitVec.ofNat 64 (4 * (k % max 1 (s.fieldIn c q 8 4)))) 4 with
  | .ok p => some { p with loc := s.homeOf c.tag p.loc }
  | .remote _ _ => none
  | .bad _ => none
/-- The entries that a claim takes: each lane with its place. -/
def State.claimPlaces (s : State) (c : Ctx) (p : PopClaim) : List (Nat × Option Place) := p.lanes.zipIdx.map fun x => (x.1, s.entryPlace c p.queue.place (p.first.getD 0 + x.2))
/-- A tile that the entries of a claim wait for: not VALID, or to be rebuilt because a line of it fails its check (R401). -/
def State.claimTile (s : State) (c : Ctx) (p : PopClaim) : Option (Nat × Bool) :=
  (s.claimPlaces c p).findSome? fun x => x.2.bind fun pl => s.tileBefore c pl.tile pl.loc 4 true
/-- Have the entries a pop has claimed been committed (R245), and can they be read? -/
def State.popReady (s : State) (c : Ctx) (p : PopClaim) : Bool :=
  match p.first with
  | none => false
  | some a =>
      !s.mustWait c p.queue.tile && decide ((s.qCommit c p.queue.place + 2 ^ 32 - (a + p.lanes.length) % 2 ^ 32) % 2 ^ 32 < 2 ^ 31)
        && (s.ringTiles c (BitVec.ofNat 64 (s.fieldIn c p.queue.place 0 8)) (4 * s.fieldIn c p.queue.place 8 4)).isEmpty && (s.claimTile c p).isNone

/-! ## Migration (R244, R245, R340) -/

/-- A queue whose descriptor lies in a frame that is moved, by its new place. -/
def QueueRef.moved (q : QueueRef) (old new size : Nat) : QueueRef :=
  match q.loc with
  | .win _ _ => q
  | .phys pa => if old ≤ pa ∧ pa < old + size then { q with loc := .phys (new + (pa - old)) } else q
/-- A page moved to another frame: the counts, bindings, claims and held rounds of a queue whose descriptor lies there are those of the same queue still (R244, R245). (DEDUCED: log entry 108.) -/
def State.moveQueues (s : State) (old new size : Nat) : State :=
  let f (q : QueueRef) : QueueRef := q.moved old new size
  { s with
    groups := s.groups.map fun (x : Nat × Group) => (x.1, { x.2 with qcounts := x.2.qcounts.map fun n => { n with queue := f n.queue } })
    teams := s.teams.map fun (x : Nat × Team) => (x.1, { x.2 with
      queues := x.2.queues.map fun b => { b with queue := f b.queue }
      pops := x.2.pops.map fun p => { p with queue := f p.queue }
      pushed := x.2.pushed.map fun p => (f p.1, p.2) })
    eng := { s.eng with pushes := s.eng.pushes.map fun h => { h with queue := f h.queue } } }

end Sys2Proof.Machine
end

