-- ==== Sys2Proof/Machine/LaneQueues.lean ====
section
/-! DEFINITION. Circular buffers (R239 to R241) and the queue instructions (R243 to R246), with the ends of their waits. -/
namespace Sys2Proof.Machine

/-- The failing lanes of an instruction: the first cause in table order, the lanes that raise it, and the address of the lowest of them (R218, R354). -/
def worst (es : List (Nat × Cause × DWord)) : Option (Cause × LaneMask × DWord) :=
  match firstCause (es.map fun e => (e.1, e.2.1)) with
  | none => none
  | some (c, m) => some (c, m, ((es.find? fun e => e.2.1 == c).map (·.2.2)).getD 0)

/-- An instruction that is a release or an acquire waits first until the accesses it orders are performed (R325, R327). -/
def State.afterPerformed (s : State) (p : Packet) (g : Group) (c : Scope) (release : Bool) (k : State) : State :=
  if (if release then s.performed p.gid g c else g.loadsReturned) then k
  else s.setGroup p.gid (g.enterWait s.cycle (.fence c release) p.cur)

/-- Do the ranges of two EAs meet: both in the scratchpad aperture, or both at addresses of this device? -/
def State.meets (s : State) (x : DWord) (n : Nat) (y : DWord) (m : Nat) : Bool :=
  s.isScratch x == s.isScratch y && decide (x.toNat % 2 ^ 46 < y.toNat % 2 ^ 46 + m) && decide (y.toNat % 2 ^ 46 < x.toNat % 2 ^ 46 + n)
/-- An instruction that changes a record in memory waits first, at a blocking point, while a store of its own group to one of its ranges waits (R42, R322). (DEDUCED: log entry 90.) -/
def State.afterStores (s : State) (p : Packet) (g : Group) (ranges : List (DWord × Nat)) (k : State) : State :=
  if s.mem.storeQ.any fun st => st.gid == p.gid && ranges.any fun r => s.meets r.1 r.2 st.ea st.bytes.length then s.waitFor p g .stores else k

/-- VD of an LM word (R96). -/
def lmD (w : Word) : Reg := Fin.ofNat 64 (w.toNat / 2 ^ 18)
/-- VA of an LM word (R96). -/
def lmA (w : Word) : Reg := Fin.ofNat 64 (w.toNat / 2 ^ 12)
/-- OFF9 of an LM word (R96). -/
def lmF (w : Word) : Nat := w.toNat % 512
/-- OP5 of an LM word (R96). -/
def lmOp (w : Word) : Nat := w.toNat / 2 ^ 24 % 32

/-- The lanes of a slot moved to the sequential successor when its wait ends. -/
def State.waitEnds (s : State) (gid : Nat) (sl : Slot) : State :=
  s.modGroup gid fun g => (g.leaveWait sl).moveTo sl.lanes (succPc sl.pc)

/-! ## Circular buffers (R239, R240) -/

/-- An end of a buffer as a lane names it: its window, the descriptor's offset, and whether it is the producer's. -/
structure CbufEnd where
  team : Nat
  off : Nat
  producer : Bool
  deriving DecidableEq, Repr

/-- A 16-bit field of a descriptor. -/
def State.cbField (s : State) (e : CbufEnd) (k : Nat) : Nat := natOfBytes (s.bytesAt none false (.win e.team (e.off + k)) 2)
/-- A 16-bit field of a descriptor written, unless it has become part of a tagged word (R250). -/
def State.cbSet (s : State) (e : CbufEnd) (k v : Nat) : State := if s.coversTag e.team (e.off + k) 2 then s else s.putBytes none false (.win e.team (e.off + k)) (bytesOfNat 2 v)
/-- The offset of the counter of an end: FREE of the producer, FILLED of the consumer. -/
def CbufEnd.count (e : CbufEnd) : Nat := if e.producer then 0x10 else 0x18
/-- The counter of the other end. -/
def CbufEnd.other (e : CbufEnd) : Nat := if e.producer then 0x18 else 0x10

/-- The end an EA names (R240). -/
def State.cbufAt (s : State) (c : Ctx) (ea : DWord) : Except Cause CbufEnd :=
  match s.target ea with
  | none => .error .addrRange
  | some (.here _) => .error .badDescriptor
  | some (.remote _ _) => .error .badDescriptor
  | some (.scratch a) =>
      match s.windowOf c.team a 4 with
      | none => .error .windowRange
      | some (t, o) =>
          if o % 32 ≠ 16 ∧ o % 32 ≠ 24 then .error .badDescriptor
          else .ok { team := t, off := o - o % 32, producer := o % 32 == 16 }
/-- The scratchpad address of a descriptor. -/
def State.endEa (s : State) (e : CbufEnd) : DWord := scratchEa (((s.team? e.team).map (·.rank)).getD 0 * 2 ^ 20 + e.off)
/-- Has a word of a descriptor that the buffer instructions read an uncorrectable error (R403)? (DESIGN CHOICE: log entry 107.) -/
def State.cbFails (s : State) (e : CbufEnd) : Bool := [8, 0x10, 0x18].any fun k => s.lineFails none (.win e.team (e.off + k)) 4
/-- The lanes whose descriptors have such a word: each is left out, and has a deferred CHECK (R224, R403). (DESIGN CHOICE: log entry 107.) -/
def State.cbFailing (s : State) (ls : List (Nat × CbufEnd)) : List (Nat × Cause × DWord) := (ls.filter fun x => s.cbFails x.2).map fun x => (x.1, .check, s.endEa x.2)
/-- NSLOT (R239). -/
def State.nslot (s : State) (e : CbufEnd) : Nat := s.cbField e 8
/-- Is a counter of an end in a tagged word, which only the barrier instructions change (R250)? (DEDUCED: log entry 42.) -/
def State.cbTagged (s : State) (e : CbufEnd) : Bool := s.coversTag e.team (e.off + 0x10) 4 || s.coversTag e.team (e.off + 0x18) 4
/-- What R240 finds wrong with n slots at an end whose words can be read; its counters may not be tagged (R250). -/
def State.cbufBad (s : State) (e : CbufEnd) (n : Nat) : Option Cause :=
  if s.cbFails e then none else if s.nslot e = 0 || decide (4096 < s.nslot e) then some .badDescriptor else if s.nslot e < n then some .cbufRange else if s.cbTagged e then some .barrierClobber else none

/-- A put (R240): the counter of the other end rises; the new count, or CBUF_RANGE. -/
def State.cbufPut (s : State) (e : CbufEnd) (n : Nat) : Except Cause (Nat × State) :=
  let v := s.cbField e e.other + n
  if s.nslot e < v + s.cbField e e.count then .error .cbufRange else .ok (v, s.cbSet e e.other v)
/-- A get that is served (R240): the slot it receives. -/
def State.cbufTake (s : State) (e : CbufEnd) (n : Nat) : Nat × State :=
  let pos := s.cbField e (e.count + 2)
  (pos, (s.cbSet e e.count (s.cbField e e.count - n)).cbSet e (e.count + 2) ((pos + n) % s.nslot e))
/-- The identity of an end. -/
def CbufEnd.key (e : CbufEnd) : DWord := BitVec.ofNat 64 (e.team * 2 ^ 21 + e.off * 2 + e.producer.toNat)
/-- The waiting gets at an end, in arrival order: each with its group, or the porter of a core and role (R240, R440). -/
def State.cbWaiters (s : State) (e : CbufEnd) : List (DWord × Nat × Nat) := s.eng.cbufq.filter fun x => x.1 == e.key
/-- May a get be served: enough slots are counted, and it is the first in arrival order? -/
def State.cbReady (s : State) (e : CbufEnd) (who : Nat × Nat) (n : Nat) : Bool :=
  decide (n ≤ s.cbField e e.count) && (match (s.cbWaiters e).head? with
    | none => true
    | some x => x.2 == who)

/-- Puts of lanes in turn: none when one breaks R240; the trap names the first lane that does. (DEDUCED: log entry 42.) -/
def State.cbufPuts (s : State) (n : Nat) : List (Nat × DWord × CbufEnd) → Except (Nat × Cause × DWord) (List (Nat × Word) × State)
  | [] => .ok ([], s)
  | (i, ea, e) :: r => if s.cbFails e then s.cbufPuts n r else match s.cbufPut e n with
    | .error c => .error (i, c, ea)
    | .ok (v, s) => match s.cbufPuts n r with
      | .error x => .error x
      | .ok (vs, s) => .ok ((i, BitVec.ofNat 32 v) :: vs, s)

/-- The lanes of an instruction with the ends they name, or the failing lanes. -/
def State.cbufLanes (s : State) (c : Ctx) (g : Group) (m : LaneMask) (a : Reg) (n : Nat) : Except (List (Nat × Cause × DWord)) (List (Nat × DWord × CbufEnd)) :=
  let es := (g.list m).map fun i => (i, g.readPair s.cycle i a)
  let named := es.map fun x => (x.1, x.2, s.cbufAt c x.2)
  let bad := named.filterMap fun x => match x.2.2 with
    | .error e => some (x.1, e, x.2.1)
    | .ok _ => none
  if !bad.isEmpty then .error bad
  else
    let ok := named.filterMap fun x => match x.2.2 with
      | .error _ => none
      | .ok e => some (x.1, x.2.1 - BitVec.ofNat 64 (x.2.1.toNat % 32), e)
    let bad := ok.filterMap fun x => (s.cbufBad x.2.2 n).map fun k => (x.1, k, x.2.1)
    if bad.isEmpty then .ok ok else .error bad

/-- The puts of a certified kernel that wait for the segment before them made as if it were applied: what later puts are checked against (R240, R344). -/
def State.withLatePuts (s : State) : State :=
  s.eng.lates.foldl (fun s x => match x.act with
    | .put _ n ends => ends.foldl (fun s e => match s.cbufPut { team := e.2.1, off := e.2.2.1, producer := e.2.2.2 } n with
        | .ok (_, s) => s
        | .error _ => s) s
    | .arrive _ _ => s
    | .bucket _ _ _ => s) s
/-- A release of a certified kernel whose staged accesses are not all applied: its effect waits for them, and its results with it (R327, R344). (DEDUCED: log entry 103.) -/
def State.actLater (s : State) (gid : Nat) (sl : Slot) (regs : List Reg) (act : LateAct) : State :=
  let (id, s) := s.fresh
  let s := { s with eng := { s.eng with lates := s.eng.lates ++ [{ gid := gid, entry := id, before := id, epoch := s.dev.qepoch, act := act }] } }
  if regs.isEmpty then s
  else s.addEntry gid { id := id, pc := sl.pc, lanes := sl.lanes, regs := regs, vals := [], due := s.cycle + 16, kind := .later, op := .nothing, rows := [], epoch := s.dev.qepoch }
/-- Has a group a release whose effect waits? -/
def State.late (s : State) (gid : Nat) : Bool := s.eng.lates.any fun x => x.gid == gid

/-- R240, R241. -/
def execCbufPut (d a : Reg) (n : BitVec 9) (s : State) : Host.Outcome State Fault Refusal :=
  s.issue fun p g =>
    let c := s.ctxOf p.gid g
    let ends := (g.list p.cur.lanes).map fun i => (g.readPair s.cycle i a - BitVec.ofNat 64 ((g.readPair s.cycle i a).toNat % 32), 32)
    s.afterStores p g ends <| match s.cbufLanes c g p.cur.lanes a n.toNat with
    | .error es => (match worst es with
        | some (k, m, ea) => s.trapAt p.gid p.cur k m ea
        | none => s)
    | .ok ls => s.afterPerformed p g .cluster true <|
        match s.withLatePuts.cbufPuts n.toNat ls with
        | .error (i, k, ea) => s.trapAt p.gid p.cur k (maskOf [i]) ea
        | .ok _ =>
            let s := ((s.publish g .cluster).modGroup p.gid fun g => g.leaveWait p.cur).modGroup p.gid fun g => g.moveTo p.cur.lanes (succPc p.cur.pc)
            if s.owes p.gid s.sched.nextId then
              (s.actLater p.gid p.cur [d] (.put d n.toNat (ls.map fun x => (x.1, x.2.2.team, x.2.2.off, x.2.2.producer)))).closeFor p.gid false
            else match s.cbufPuts n.toNat ls with
              | .error _ => s
              | .ok (vs, t) => ((t.post p.gid p.cur.pc p.cur.lanes [d] (vs.map fun v => (v.1, d, v.2)) 16).deferAll p.gid
                  (deferredOf t.sched.nextId p.cur.word [d] (s.cbFailing (ls.map fun x => (x.1, x.2.2))))).closeFor p.gid false

/-- Gets of lanes in turn, as far as they are served: the values, the lanes left, of which the first waits, and the lanes left out. -/
def State.cbufGets (s : State) (gid n : Nat) : List (Nat × CbufEnd) → List (Nat × Word) × List (Nat × CbufEnd) × List (Nat × Cause × DWord) × State
  | [] => ([], [], [], s)
  | (i, e) :: r =>
      let gone (s : State) : State := { s with eng := { s.eng with cbufq := s.eng.cbufq.filter fun x => !(x.1 == e.key && x.2 == (gid, 0)) } }
      if s.cbFails e then
        let bad := s.cbFailing [(i, e)]
        let (vs, left, fails, s) := (gone s).cbufGets gid n r
        (vs, left, bad ++ fails, s)
      else if s.cbReady e (gid, 0) n then
        let (v, s) := s.cbufTake e n
        let (vs, left, fails, s) := (gone s).cbufGets gid n r
        ((i, BitVec.ofNat 32 v) :: vs, left, fails, s)
      else
        let s := if (s.cbWaiters e).any (fun x => x.2 == (gid, 0)) then s else { s with eng := { s.eng with cbufq := s.eng.cbufq ++ [(e.key, gid, 0)] } }
        ([], (i, e) :: r, [], s)

/-- The gets of a group go on: the served lanes receive their slots; the rest wait; after the last the instruction ends, an acquire at CLUSTER scope whose segment was closed at issue (R240, R241, R343). -/
def State.cbufAct (s : State) (gid : Nat) (sl : Slot) (d : Reg) (n : Nat) (ls : List (Nat × CbufEnd)) : State :=
  let (vs, left, fails, s) := s.cbufGets gid n ls
  let id := s.sched.nextId
  let s := if vs.isEmpty then s else s.post gid sl.pc (maskOf (vs.map (·.1))) [d] (vs.map fun v => (v.1, d, v.2)) 16
  let s := s.deferAll gid (deferredOf id sl.word [d] fails)
  match left with
  | [] => s.waitEnds gid sl
  | _ :: _ => s.modGroup gid fun g => g.enterWait s.cycle (.cbuf 0 (left.map (·.1))) sl

/-- R240, R241. -/
def execCbufGet (d a : Reg) (n : BitVec 9) (s : State) : Host.Outcome State Fault Refusal :=
  s.issue fun p g =>
    let c := s.ctxOf p.gid g
    let ends := (g.list p.cur.lanes).map fun i => (g.readPair s.cycle i a - BitVec.ofNat 64 ((g.readPair s.cycle i a).toNat % 32), 32)
    s.afterStores p g ends <| match s.cbufLanes c g p.cur.lanes a n.toNat with
    | .error es => (match worst es with
        | some (k, m, ea) => s.trapAt p.gid p.cur k m ea
        | none => s)
    | .ok ls => s.afterPerformed p g .cluster false <| (s.closeFor p.gid true).cbufAct p.gid p.cur d n.toNat (ls.map fun x => (x.1, x.2.2))

/-- The lanes of a waiting get with their ends. -/
def State.waitingGets (s : State) (gid : Nat) (g : Group) (w : Wait) (lanes : List Nat) : List (Nat × CbufEnd) :=
  lanes.filterMap fun i => match s.cbufAt (s.ctxOf gid g) (g.readPair s.cycle i (lmA w.slot.word)) with
    | .ok e => some (i, e)
    | .error _ => none
/-- The lanes a group's cbuf.get still waits for. -/
def Group.cbufWait (g : Group) : Option (Wait × List Nat) := g.waits.findSome? fun w => match w.kind with
  | .cbuf _ ls => some (w, ls)
  | .barrier _ _ | .queuePop _ | .queuePush _ | .tile _ _ | .stores | .remoteCheck _ | .claim _ _ _ | .launchStore _ _ | .token _ | .batch _ | .sealLimit | .fence _ _
  | .phase _ | .grant _ | .sweep _ | .table | .exit | .staging => none
/-- CBUF_GET_GRANT (R240): the first get waiting at an end is served once enough slots are counted. -/
def execCbufGetGrant (gid : Nat) (s : State) : Host.Outcome State Fault Refusal :=
  match s.group? gid with
  | none => .refused .notEnabled
  | some g => match g.cbufWait with
    | none => .refused .notEnabled
    | some (w, lanes) => match s.waitingGets gid g w lanes with
      | [] => .refused .notEnabled
      | (i, e) :: r => if (s.cbFails e || s.cbReady e (gid, 0) (lmF w.slot.word)) && s.resident g then .next (s.cbufAct gid w.slot (lmD w.slot.word) (lmF w.slot.word) ((i, e) :: r)) else .refused .notEnabled

/-! ## Pushes (R243, R244) -/

/-- Why the lanes of a queue instruction cannot take their queues: causes, or a tile to wait for. -/
inductive LanesFault where
  | causes (es : List (Nat × Cause × DWord))
  | tile (k : Nat) (drop : Bool)
  deriving DecidableEq, Repr
/-- The lanes of a queue instruction with the queues they name; a descriptor whose tile is not VALID is waited for before any cause is taken (R218, R506). -/
def State.queueLanes (s : State) (c : Ctx) (push : Bool) (g : Group) (m : LaneMask) (a : Reg) : Except LanesFault (List (Nat × Queue)) :=
  let es := (g.list m).map fun i => (i, s.queueAt c push (g.readPair s.cycle i a))
  let tiles := es.filterMap fun x => match x.2 with
    | .error (.tile k drop) => some (k, drop)
    | .error (.cause _ _) => none
    | .ok _ => none
  let bad := es.filterMap fun x => match x.2 with
    | .error (.cause k ea) => some (x.1, k, ea)
    | .error (.tile _ _) => none
    | .ok _ => none
  match tiles with
  | (k, drop) :: _ => .error (.tile k drop)
  | [] =>
    if !bad.isEmpty then .error (.causes bad)
    else .ok (es.filterMap fun x => match x.2 with
      | .error _ => none
      | .ok q => some (x.1, q))
/-- The queues named, each once. (DEDUCED: log entry 66.) -/
def queuesOf (ls : List (Nat × Queue)) : List Queue := (ls.map (·.2)).foldl (fun r q => if r.any fun x => x.ref == q.ref then r else r ++ [q]) []
/-- The lanes that name a queue: n_Q is their number (R243). -/
def lanesNaming (ls : List (Nat × Queue)) (q : QueueRef) : List Nat := (ls.filter fun x => x.2.ref == q).map (·.1)
/-- The lanes whose queue takes fewer entries than they name (R243, R245). -/
def overCap (ls : List (Nat × Queue)) : List (Nat × Cause × DWord) :=
  ls.filterMap fun x => if x.2.cap < (lanesNaming ls x.2.ref).length then some (x.1, .queueRange, x.2.ea) else none
/-- The lanes of a waiting queue instruction with the queues they name (R506). -/
def State.lanesHeld (s : State) (c : Ctx) (g : Group) (m : LaneMask) (a : Reg) : List (Nat × Queue) :=
  (g.list m).filterMap fun i => (s.queueNamed c (g.readPair s.cycle i a)).map fun q => (i, q)
/-- The descriptors and rings of the queues named. -/
def queueRanges (ls : List (Nat × Queue)) : List (DWord × Nat) := (queuesOf ls).flatMap fun q => [(q.ea, 64), (q.base, 4 * q.cap)]
/-- A tile of a descriptor or ring that is not VALID. (DEDUCED: log entry 46.) -/
def State.queueTile (s : State) (c : Ctx) (ls : List (Nat × Queue)) : Option Nat :=
  (queuesOf ls).findSome? fun q => if s.mustWait c q.place.tile then q.place.tile else (s.ringTiles c q.base (4 * q.cap)).head?

/-- Does a waiting store of the group meet a queue that it names (R322)? -/
def State.storesMeet (s : State) (gid : Nat) (ls : List (Nat × Queue)) : Bool :=
  s.mem.storeQ.any fun st => st.gid == gid && (queueRanges ls).any fun r => s.meets r.1 r.2 st.ea st.bytes.length
/-- A queue instruction that has passed its checks waits, holding the epoch of its accesses (R506), at a blocking point (R42); the build of a tile that it waits for starts. -/
def State.queueWaits (s : State) (p : Packet) (g : Group) (c : Ctx) (k : WaitKind) (ls : List (Nat × Queue)) (t : State) : State :=
  let t := match s.queueTile c ls with
    | some n => t.meetTile c n
    | none => t
  s.blockHere p g (t.modGroup p.gid fun h => h.enterWait s.cycle k p.cur)
/-- The dirty bytes that a core holds of the queues named, brought to their homes before the device reads them there (R336). -/
def State.flushQueues (s : State) (c : Ctx) (ls : List (Nat × Queue)) : State := (queuesOf ls).foldl (fun s q => s.flushQueue c q) s
/-- What keeps a waiting queue instruction: nothing, so that it goes on with its queues; a tile that must be met anew, a failing descriptor, which leave a state; or no change. -/
inductive QueueTurn where
  | go (ls : List (Nat × Queue))
  | act (s : State)
  | stay
/-- The turn of a queue instruction that waits (R506): the tiles of its descriptors are VALID, no store of its group is left before it, and a descriptor whose line fails its check is not used (R401). (DESIGN CHOICE: log entry 107.) -/
def State.queueTurn (s : State) (gid : Nat) (g : Group) (w : Wait) (c : Ctx) : QueueTurn :=
  let ds := (g.list w.slot.lanes).filterMap fun i => (s.descriptorAt c (g.readPair s.cycle i (lmA w.slot.word))).map fun p => (i, p)
  let meet (k : Nat) (drop : Bool) : QueueTurn := if drop || (s.tile k).idle then .act ((if drop then s.dropTile k else s).meetTile c k) else .stay
  if !s.resident g then .stay
  else match ds.findSome? fun x => s.tileBefore c x.2.tile x.2.loc 64 true with
    | some (k, drop) => meet k drop
    | none => match ds.filter fun x => s.lineFails c.core x.2.loc 64 with
      | (i, p) :: r => .act ((s.setGroup gid (g.leaveWait w.slot)).settleTrap gid
          { place := w.slot.place, cause := .check, lanes := maskOf (i :: r.map (·.1)), addr := p.ea, word := w.slot.word, defer := true, active := w.slot.lanes, restart := w.slot.pc })
      | [] =>
        let ls := s.lanesHeld c g w.slot.lanes (lmA w.slot.word)
        if s.storesMeet gid ls then .stay else .go ls
/-- A tile of a queue that is dropped again is met anew (R391). -/
def State.ringIdle (s : State) (c : Ctx) (ls : List (Nat × Queue)) : Option Nat := (s.queueTile c ls).filter fun k => (s.tile k).idle

/-- Is there room for a push in every queue it names (R243)? -/
def State.pushRoom (s : State) (c : Ctx) (ls : List (Nat × Queue)) : Bool :=
  (queuesOf ls).all fun q => decide (s.qResv c q.place + (lanesNaming ls q.ref).length ≤ q.cap)

/-- A push reserves and hands over its entries (R243, R244): a qpush.u commits its run, a qpush.o holds it for its round. -/
def State.pushEntries (s : State) (gid : Nat) (ordered : Bool) (c : Ctx) (d : Reg) (ls : List (Nat × Queue)) : List Queue → State
  | [] => s
  | q :: r =>
      match s.group? gid with
      | none => s
      | some g =>
          let lanes := lanesNaming ls q.ref
          let vals := lanes.map fun i => g.read s.cycle i d
          let s := s.flushQueue c q
          let s := s.setField c q.place 0x14 4 (s.qResv c q.place + lanes.length)
          let n := g.counts q.ref
          let s := if ordered then
              { s.setGroup gid (g.setCounts { n with pushes := n.pushes + 1 }) with
                eng := { s.eng with pushes := s.eng.pushes ++ [{ team := g.team, group := g.index, queue := q.ref, round := n.pushes, vals := vals, epoch := c.tag }] } }
            else s.commitRun c q.place vals
          s.pushEntries gid ordered c d ls r

/-- A push once there is room. (DESIGN CHOICE: log entry 96.) -/
def State.pushAct (s : State) (gid : Nat) (sl : Slot) (ordered : Bool) (c : Ctx) (d : Reg) (ls : List (Nat × Queue)) : State :=
  (((s.pushEntries gid ordered c d ls (queuesOf ls)).waitEnds gid sl).settleRounds)

/-- A push (R243, R506). -/
def pushInstr (s : State) (ordered : Bool) (d a : Reg) : Host.Outcome State Fault Refusal :=
  s.issue fun p g =>
    let c := s.ctxAt p g
    match s.queueLanes c true g p.cur.lanes a with
    | .error (.tile k drop) => s.tileWaits p g c k drop
    | .error (.causes es) => (match worst es with
        | some (k, m, ea) => s.trapAt p.gid p.cur k m ea
        | none => s)
    | .ok ls => match worst (overCap ls) with
      | some (k, m, ea) => s.trapAt p.gid p.cur k m ea
      | none =>
          let s := s.flushQueues c ls
          let t := if ordered then s.closeFor p.gid false else s
          if !s.storesMeet p.gid ls && (s.queueTile c ls).isNone && s.pushRoom c ls then t.pushAct p.gid p.cur ordered c d ls
          else s.queueWaits p g c (.queuePush c.tag) ls t
/-- R243, R244. -/
def execQpushO (d a : Reg) (s : State) : Host.Outcome State Fault Refusal := pushInstr s true d a
/-- R243, R244. -/
def execQpushU (d a : Reg) (s : State) : Host.Outcome State Fault Refusal := pushInstr s false d a

/-- The wait of a group of a kind. -/
def Group.queueWait (g : Group) (k : WaitKind) : Option Wait := g.waits.find? fun w => w.kind == k
/-- The epoch of a push that waits for room (R506). -/
def WaitKind.pushTag (k : WaitKind) : Option Nat := match k with
  | .queuePush tag => some tag
  | .barrier _ _ | .queuePop _ | .tile _ _ | .stores | .remoteCheck _ | .claim _ _ _ | .launchStore _ _ | .token _ | .batch _ | .sealLimit | .fence _ _ | .cbuf _ _
  | .phase _ | .grant _ | .sweep _ | .table | .exit | .staging => none
/-- The epoch of a pop that waits for its entries (R506). -/
def WaitKind.popTag (k : WaitKind) : Option Nat := match k with
  | .queuePop tag => some tag
  | .barrier _ _ | .queuePush _ | .tile _ _ | .stores | .remoteCheck _ | .claim _ _ _ | .launchStore _ _ | .token _ | .batch _ | .sealLimit | .fence _ _ | .cbuf _ _
  | .phase _ | .grant _ | .sweep _ | .table | .exit | .staging => none
/-- The push of a group that waits for room, with the identity of its accesses. -/
def State.pushWait (s : State) (gid : Nat) (g : Group) : Option (Wait × Ctx) := g.waits.findSome? fun w => w.kind.pushTag.map fun t => (w, { s.ctxOf gid g with tag := t })
/-- The pop of a group that waits for its entries, with the identity of its accesses. -/
def State.popWait (s : State) (gid : Nat) (g : Group) : Option (Wait × Ctx) := g.waits.findSome? fun w => w.kind.popTag.map fun t => (w, { s.ctxOf gid g with tag := t })
/-- QUEUE_PUSH_RESERVE (R243): a waiting push reserves once there is room in every queue it names. -/
def execQueuePushReserve (gid : Nat) (s : State) : Host.Outcome State Fault Refusal :=
  match s.group? gid with
  | none => .refused .notEnabled
  | some g => match s.pushWait gid g with
    | none => .refused .notEnabled
    | some (w, c) => match s.queueTurn gid g w c with
      | .stay => .refused .notEnabled
      | .act t => .next t
      | .go ls => match s.ringIdle c ls with
        | some k => .next (s.meetTile c k)
        | none => if (s.queueTile c ls).isNone && s.pushRoom c ls then .next (s.pushAct gid w.slot (lmOp w.slot.word == 0x12) c (lmD w.slot.word) ls) else .refused .notEnabled

/-! ## Pops (R245) -/

/-- The lanes that name a queue bound to another team (R245). -/
def State.foreign (s : State) (c : Ctx) (tag : Nat) (ls : List (Nat × Queue)) : List (Nat × Cause × DWord) :=
  ls.filterMap fun x => if s.qTeam c x.2.place ≠ 0 ∧ s.qTeam c x.2.place ≠ 2 ^ 31 + tag then some (x.1, .queueOwner, x.2.ea) else none
/-- A queue bound to a team, if it is not bound (R245). -/
def State.bindQueue (s : State) (c : Ctx) (team : Nat) (q : Queue) : State :=
  match s.team? team with
  | none => s
  | some t =>
      let s := s.flushQueue c q
      let s := if s.qTeam c q.place = 0 then s.setField c q.place 0x1C 4 (2 ^ 31 + t.btag) else s
      if t.queues.any fun b => b.queue == q.ref then s
      else s.modTeam team fun t => { t with queues := t.queues ++ [{ queue := q.ref, next := s.qHead c q.place }] }
/-- The claims of one pop on the queues it names. A pop that trapped when its checks were made anew still has its claims; executed again, it takes them up (R245, R371). (DEDUCED: log entry 102.) -/
def State.claimPop (s : State) (gid : Nat) (c : Ctx) (ls : List (Nat × Queue)) : List Queue → State
  | [] => s
  | q :: r =>
      match s.group? gid with
      | none => s
      | some g =>
          let n := g.counts q.ref
          let lanes := lanesNaming ls q.ref
          let s := s.bindQueue c g.team q
          if ((s.team? g.team).map fun t => t.pops.any fun x => x.queue == q.ref && x.group == g.index && x.lanes == lanes).getD false then s.claimPop gid c ls r
          else
            let s := s.modTeam g.team fun t => { t with pops := t.pops ++ [{ queue := q.ref, round := n.pops, group := g.index, lanes := lanes, first := none }] }
            (s.setGroup gid (g.setCounts { n with pops := n.pops + 1 })).claimPop gid c ls r
/-- The claims of a group that wait for delivery. -/
def State.popsOf (s : State) (g : Group) : List PopClaim := ((s.teamOf g).map fun t => t.pops.filter fun x => x.group == g.index).getD []
/-- The values of one claim by lane, and the lanes whose entry's line fails its check, with its address: data that fails is never delivered (R401). -/
def State.claimValues (s : State) (c : Ctx) (p : PopClaim) : List (Nat × Word) × List (Nat × Cause × DWord) :=
  let fails (pl : Place) : Bool := s.lineFails c.core pl.loc 4
  let ps := s.claimPlaces c p
  (ps.filterMap fun x => match x.2 with
    | none => some (x.1, 0)
    | some pl => if fails pl then none else some (x.1, wordOfBytes (s.bytesIn c pl 0 4)),
   ps.filterMap fun x => x.2.bind fun pl => if fails pl then some (x.1, .check, pl.ea) else none)
/-- HEAD and RESV after a claim is delivered. -/
def State.advanceQueue (s : State) (c : Ctx) (p : PopClaim) : State :=
  let n := p.lanes.length
  (s.setField c p.queue.place 0x10 4 ((s.qHead c p.queue.place + n) % 2 ^ 32)).setField c p.queue.place 0x14 4 (s.qResv c p.queue.place - n)
/-- A pop delivers its entries (R245); the lanes whose entries fail their check have a deferred CHECK (R224, R401). (DESIGN CHOICE: log entry 107.) -/
def State.deliverPop (s : State) (gid : Nat) (g : Group) (c : Ctx) (sl : Slot) (d : Reg) : State :=
  let ps := s.popsOf g
  let outs := ps.map (s.claimValues c)
  let s := ps.foldl (fun s p => s.advanceQueue c p) s
  let s := s.modTeam g.team fun t => { t with pops := t.pops.filter fun x => x.group != g.index }
  let id := s.sched.nextId
  ((s.waitEnds gid sl).post gid sl.pc sl.lanes [d] ((outs.flatMap (·.1)).map fun v => (v.1, d, v.2)) 16).deferAll gid (deferredOf id sl.word [d] (outs.flatMap (·.2)))

/-- A pop once no store of its group is left before it: it binds and claims its queues. -/
def State.popClaims (s : State) (gid : Nat) (c : Ctx) (ls : List (Nat × Queue)) : State := (s.claimPop gid c ls (queuesOf ls)).settleRounds

/-- R245, R506. -/
def execQpop (d a : Reg) (s : State) : Host.Outcome State Fault Refusal :=
  s.issue fun p g =>
    let c := s.ctxAt p g
    match s.queueLanes c false g p.cur.lanes a with
    | .error (.tile k drop) => s.tileWaits p g c k drop
    | .error (.causes es) => (match worst es with
        | some (k, m, ea) => s.trapAt p.gid p.cur k m ea
        | none => s)
    | .ok ls => match worst (overCap ls ++ (s.flushQueues c ls).foreign c (((s.teamOf g).map (·.btag)).getD 0) ls) with
      | some (k, m, ea) => s.trapAt p.gid p.cur k m ea
      | none =>
          let s := s.flushQueues c ls
          let t := (s.modGroup p.gid fun h => h.leaveWait p.cur).closeFor p.gid true
          if s.storesMeet p.gid ls then s.queueWaits p g c (.queuePop c.tag) ls t
          else
            let t := t.popClaims p.gid c ls
            if (t.popsOf g).all (t.popReady c) then t.deliverPop p.gid g c p.cur d
            else s.queueWaits p g c (.queuePop c.tag) ls t
/-- QUEUE_POP_DELIVER (R245): a waiting pop claims its entries once no store of its group is left before it, and receives them once they are committed. -/
def execQueuePopDeliver (gid : Nat) (s : State) : Host.Outcome State Fault Refusal :=
  match s.group? gid with
  | none => .refused .notEnabled
  | some g => match s.popWait gid g with
    | none => .refused .notEnabled
    | some (w, c) => match s.queueTurn gid g w c with
      | .stay => .refused .notEnabled
      | .act t => .next t
      | .go ls =>
          let t := s.popClaims gid c ls
          if (t.popsOf g).all (t.popReady c) then .next (t.deliverPop gid g c w.slot (lmD w.slot.word))
          else match s.ringIdle c ls with
            | some k => .next (s.meetTile c k)
            | none => match (t.popsOf g).findSome? (t.claimTile c) with
              | some (k, true) => .next ((t.dropTile k).meetTile c k)
              | some (_, false) => if (s.popsOf g).isEmpty then .next t else .refused .notEnabled
              | none => if (s.popsOf g).isEmpty then .next t else .refused .notEnabled

end Sys2Proof.Machine
end

