-- ==== Sys2Proof/Machine/Ends.lean ====
section
/-! DEFINITION. How groups, teams and gangs end (R35, R45, R46, R136, R192, R244, R245, R249, R376), the barriers of R161 to R164 and bar.tag (R249). -/
namespace Sys2Proof.Machine

/-! ## Teams and gangs -/

/-- A bound queue let go: CTEAM ← 0 (R245). -/
def State.unbind (s : State) (c : Ctx) (q : QueueRef) : State := s.setField c q.place 0x1C 4 0

/-- Porters of a gang halted on some cores: one whose posted commands have not ended stays until they have (R443). -/
def State.haltPorters (s : State) (k : Nat) (cores : Nat → Bool) : State :=
  let mine (x : Nat × Porter) : Bool := x.2.gang == k && cores x.2.core
  { s with
    porters := s.porters.filterMap fun x => if mine x then (if x.2.queue.isEmpty then none else some (x.1, { x.2 with mode := PorterMode.halted, cbWait := false })) else some x
    eng := { s.eng with cbufq := s.eng.cbufq.filter fun y => !(s.porters.any fun x => mine x && x.2.cbWait && y.2 == (x.2.core, 1 + x.1 % 2)) } }
/-- Has a core of a gang no team of it left? -/
def State.coreDone (s : State) (g : Gang) (core : Nat) : Bool := g.teams.all fun t => ((s.team? t).map fun (x : Team) => x.ended || !x.cores.contains core).getD true

/-- A gang ends when every one of its teams has (R35): its cores are free, and its porters halt. -/
def State.endGang (s : State) (k : Nat) : State :=
  match s.gang? k with
  | none => s
  | some g =>
      if g.teams.all fun t => ((s.team? t).map (·.ended)).getD true then
        (s.setGang k { g with st := .ended, records := [] }).haltPorters k fun _ => true
      else s.haltPorters k (s.coreDone g)

/-- Does a pass use a resident plane (R273)? -/
def runStat (b : List Byte) : Bool := fieldAt b 0x5E 1 / 2 == 1
/-- The handle a command names. -/
def cmdHandle (c : Cmd) : Option Nat :=
  match c.kind with
  | .mmLdw => some (fieldAt c.block 0x30 1)
  | .mmSwapw => some (fieldAt c.block 0x10 1)
  | .mmRun => if runStat c.block then some (fieldAt c.block 0x5F 1) else none
  | .mmSwapacc | .mmAccrd | .mmAccwr | .mmDrain | .mmRegrow | .bsAsm | .bsLu | .bsLdl | .bsTrsv | .bsPgs | .bsBack | .srtKeys | .srtPairs | .trvBuild | .trvQuery
  | .phaseRegroup | .phaseRestore | .collPost => none
/-- A team's handles once it has ended: unbound, but for those that a command of the team still names (R265, R270). -/
def State.freedHandles (s : State) (tid : Nat) (hs : List BenchHandle) : List BenchHandle :=
  hs.mapIdx fun i h => if s.eng.cmds.any fun c => c.2.team == tid && cmdHandle c.2 == some i then h else { h with bound := false, active := none, standby := none }

/-- A team ends (R35, R46, R245, R249, R270, R376): its window and tags go (a copy or command of it, or of a porter of its core, that still runs keeps the bytes it works on, R265, R366), its queues and handles are let go, its dirty PRIVATE lines go home, and its weight returns to the root. -/
def State.endTeam (s : State) (tid : Nat) : State :=
  match s.team? tid with
  | none => s
  | some t =>
      let c := s.teamCtx tid s.dev.qepoch
      let launch := s.launchIdOfTeam t
      let root := (s.launch? launch).bind (·.root)
      let s := t.queues.foldl (fun s b => s.unbind c b.queue) s
      let s := t.cores.foldl State.writeBack s
      let busy := s.eng.copies.any (·.2.team == tid) || s.eng.cmds.any (·.2.team == tid) || s.porters.any fun x => x.2.gang == t.gang && t.cores.contains x.2.core && !x.2.queue.isEmpty
      let s := s.setTeam tid { t with window := if busy then t.window else [], tags := [], handles := s.freedHandles tid t.handles,
                                      map := none, queues := [], pops := [], weight := 0, ended := true }
      let s := s.giveBack launch root t.weight
      let s := s.modLaunch launch fun l => { l with teamsEnded := l.teamsEnded + 1 }
      (s.endGang t.gang).settleRounds

/-- A group ends (R35): every lane has exited, its last segment closes (R343), and its rounds count it as ended (R244). -/
def State.endGroup (s : State) (gid : Nat) : State :=
  match s.group? gid with
  | none => s
  | some g =>
      let s := s.assignStaged gid g fun _ => true
      let s := s.closeSegment gid
      let s := s.modGroup gid fun h => { h with ended := true, waits := [], pending := none, parked := none, emptyWait := false, lanes := h.lanes.map fun (l : Lane) => { l with st := .exited } }
      let s := { s with eng := { s.eng with cbufq := s.eng.cbufq.filter fun x => x.2 != (gid, 0) } }
      let s := s.settleRounds
      if ((s.team? g.team).map fun t => (s.groupsOf t).all fun x => x.2.ended).getD false then s.endTeam g.team else s

/-! ## Exit (R136, R192) -/

/-- Is the exit wait over (R136): held accesses, waiting stores and copies of batches have their outcomes? -/
def State.exitOver (s : State) (gid : Nat) (g : Group) : Bool :=
  !g.holds && (s.mem.storeQ.all fun st => st.gid != gid) && (s.eng.copies.all fun c => (c.2.batchOf gid).isNone)
/-- The end of an exit wait: a deferred fault traps at the exiting instruction, else the group ends. -/
def State.exitNow (s : State) (gid : Nat) (g : Group) (sl : Slot) : State :=
  match g.deferred with
  | d :: _ => (s.setGroup gid (g.leaveWait sl)).trapDeferred gid sl d
  | [] => s.endGroup gid
/-- An instruction that leaves the group without live lanes. -/
def State.exitGroup (s : State) (p : Packet) (g : Group) : State :=
  if s.exitOver p.gid g then s.exitNow p.gid g p.cur
  else s.setGroup p.gid (g.enterWait s.cycle .exit p.cur)

/-- R136. -/
def execGExit (s : State) : Host.Outcome State Fault Refusal := s.issue fun p g => s.exitGroup p g
/-- R192: each active lane exits; the group's last exits with the exit wait. -/
def execExitl (s : State) : Host.Outcome State Fault Refusal :=
  s.issue fun p g =>
    if g.liveMask = p.cur.lanes then s.exitGroup p g
    else s.setGroup p.gid (g.modLanes p.cur.lanes fun l => { l with st := .exited })

/-- Has a group no live lane and no instruction to exit at: it came so out of a restore (R310), or it waits empty and every other group of its team has ended or waits empty too (R309)? (DEDUCED: log entry 89.) -/
def State.leftEmpty (s : State) (g : Group) : Bool :=
  !g.ended && g.liveMask == 0 && g.waits.isEmpty && g.parked.isNone
    && (!g.emptyWait || ((s.team? g.team).map fun t => (s.groupsOf t).all fun x => x.2.ended || x.2.emptyWait).getD false)
/-- EXIT_WAIT_END (R136). (DEDUCED: log entry 89.) -/
def execExitWaitEnd (gid : Nat) (s : State) : Host.Outcome State Fault Refusal :=
  match s.group? gid with
  | none => .refused .notEnabled
  | some g => match g.queueWait .exit with
    | none => if s.leftEmpty g && s.exitOver gid g then .next (s.endGroup gid) else .refused .notEnabled
    | some w => if s.exitOver gid g && s.resident g then .next (s.exitNow gid g w.slot) else .refused .notEnabled

/-! ## Barriers (R161 to R164, R249, R250) -/

/-- PHASE of a barrier word. -/
def barPhase (w : Word) : Nat := w.toNat / 2 ^ 16
/-- ARRIVED of a barrier word. -/
def barArrived (w : Word) : Nat := w.toNat / 256 % 256
/-- C of a barrier word. -/
def barCount (w : Word) : Nat := w.toNat % 256
/-- A barrier word (R249). -/
def barWord (phase arrived count : Nat) : Word := BitVec.ofNat 32 (phase % 2 ^ 16 * 2 ^ 16 + arrived * 256 + count)
/-- The word at a window offset. -/
def State.winWord (s : State) (t o : Nat) : Word := wordOfBytes (s.bytesAt none false (.win t o) 4)
/-- A word of a window written, tagged or not. -/
def State.setWinWord (s : State) (t o : Nat) (w : Word) : State := s.putWin t o (bytesOfNat 4 w.toNat)
/-- Is a word of a window tagged? -/
def State.tagged (s : State) (t o : Nat) : Bool := ((s.team? t).map fun x => x.tags.contains (o / 4)).getD false

/-- The phase that a wait records once its barrier's phase has advanced: no phase, for phases are below 2^16. -/
def phasePast : Nat := 65536
/-- Is a wait for a phase over, whatever becomes of its barrier afterwards (R161, R164, R249)? -/
def phaseOver (n : Nat) : Bool := n == phasePast
/-- The waits at a barrier word released when its phase advances (R161, R162, R249). -/
def State.releaseAt (s : State) (t o : Nat) : State :=
  { s with groups := s.groups.map fun (x : Nat × Group) => (x.1, { x.2 with waits := x.2.waits.map fun w => match w.kind with
      | .barrier a _ => if s.windowOf (some x.2.team) a.toNat 1 == some (t, o) then { w with kind := .barrier a phasePast } else w
      | .queuePop _ | .queuePush _ | .tile _ _ | .stores | .remoteCheck _ | .claim _ _ _ | .launchStore _ _ | .token _ | .batch _ | .sealLimit | .fence _ _ | .cbuf _ _
      | .phase _ | .grant _ | .sweep _ | .table | .exit | .staging => w }) }
/-- One arrival (R162): at C the count returns to 0 and the phase advances, which releases the groups that wait for it. -/
def State.arrive (s : State) (t o : Nat) : State :=
  let w := s.winWord t o
  if barCount w ≤ barArrived w + 1 then (s.setWinWord t o (barWord (barPhase w + 1) 0 (barCount w))).releaseAt t o
  else s.setWinWord t o (barWord (barPhase w) (barArrived w + 1) (barCount w))

/-- The checks of the first two rows of R164 on a barrier address: the window and offset, or the cause; a word with an uncorrectable error is not used (R403). (DESIGN CHOICE: log entry 107.) -/
def State.barrierAt (s : State) (g : Group) (a : Word) : Except Cause (Nat × Nat) :=
  match s.windowOf (some g.team) a.toNat 1 with
  | none => .error .windowRange
  | some (t, o) => if a.toNat % 4 ≠ 0 ∨ !s.tagged t o then .error .badBarrier else if s.lineFails none (.win t o) 4 then .error .check else .ok (t, o)
/-- The scope of a barrier: TEAM in the team's own window, else CLUSTER (R163). -/
def barrierScope (g : Group) (t : Nat) : Scope := if t = g.team then .team else .cluster

/-- The wait for a phase that an instruction is in, if it is in one. -/
def Group.phaseWait (g : Group) (sl : Slot) : Option (Word × Nat) := (g.waitOf sl.pc sl.place).bind fun w => match w.kind with
  | .barrier a n => some (a, n)
  | .queuePop _ | .queuePush _ | .tile _ _ | .stores | .remoteCheck _ | .claim _ _ _ | .launchStore _ _ | .token _ | .batch _ | .sealLimit | .fence _ _ | .cbuf _ _
  | .phase _ | .grant _ | .sweep _ | .table | .exit | .staging => none

/-- The end of a wait for a phase, or the wait going on: the end is an acquire (R327). A wait whose phase has advanced ends; any other traps when the tag has gone with its team (R164). -/
def State.phaseStep (s : State) (p : Packet) (g : Group) (a : Word) (n : Nat) : State :=
  let ends (past : Bool) : State := if past && g.loadsReturned then s.finish p { g.leaveWait p.cur with arrival := none } else s.waitFor p g (.barrier a (if past then phasePast else n))
  if phaseOver n then ends true
  else match s.barrierAt g a with
    | .error .check => s.trapAt p.gid p.cur .check p.cur.lanes (a.setWidth 64)
    | .error _ => (s.setGroup p.gid { g with arrival := none }).trapAt p.gid p.cur .badBarrier p.cur.lanes (a.setWidth 64)
    | .ok (t, o) => ends (barPhase (s.winWord t o) != n)

/-- An arrival (R161 to R163): a release, and the record; g.bar goes on to wait, and closes a segment (R343). In a certified kernel the arrival counts once the group's staged accesses before it are applied (R327, R344). -/
def State.arriveAt (s : State) (p : Packet) (g : Group) (a : Word) (wait : Bool) : State :=
  match s.barrierAt g a with
  | .error c => s.trapAt p.gid p.cur c p.cur.lanes (a.setWidth 64)
  | .ok (t, o) =>
      if g.arrival.isSome then s.trapAt p.gid p.cur .barrierOrder p.cur.lanes (a.setWidth 64)
      else s.orDeferred p g Deferred.atRelease <| s.afterPerformed p g (barrierScope g t) true <|
        let n := barPhase (s.winWord t o)
        let s := s.publish g (barrierScope g t)
        let s := if s.owes p.gid s.sched.nextId then s.actLater p.gid p.cur [] (.arrive t o) else s.arrive t o
        let g := { g.leaveWait p.cur with arrival := some (a, n) }
        if wait then (s.setGroup p.gid g).closeFor p.gid true |> fun s => (match s.group? p.gid with
            | some h => s.phaseStep p h a n
            | none => s)
        else
          let s := s.finish p g
          if wide? (barrierScope g t) then s.closeFor p.gid false else s

/-- R161. -/
def execGBarrive (a : Reg) (s : State) : Host.Outcome State Fault Refusal :=
  s.issue fun p g => s.arriveAt p g (g.uread s.cycle p.cur.lanes a) false
/-- R161, R164. -/
def execGBarwait (a : Reg) (s : State) : Host.Outcome State Fault Refusal :=
  s.issue fun p g =>
    match g.phaseWait p.cur with
    | some (b, n) => s.phaseStep p g b n
    | none =>
        let b := g.uread s.cycle p.cur.lanes a
        match s.barrierAt g b with
        | .error c => s.trapAt p.gid p.cur c p.cur.lanes (b.setWidth 64)
        | .ok _ => match g.arrival with
          | none => s.trapAt p.gid p.cur .barrierOrder p.cur.lanes (b.setWidth 64)
          | some (r, n) =>
              if r ≠ b then s.trapAt p.gid p.cur .barrierOrder p.cur.lanes (b.setWidth 64)
              else s.orDeferred p g Deferred.atBlocking <| (s.closeFor p.gid true) |> fun s => (match s.group? p.gid with
                | some h => s.phaseStep p h b n
                | none => s)
/-- R161. -/
def execGBar (a : Reg) (s : State) : Host.Outcome State Fault Refusal :=
  s.issue fun p g =>
    match g.phaseWait p.cur with
    | some (b, n) => s.phaseStep p g b n
    | none => s.arriveAt p g (g.uread s.cycle p.cur.lanes a) true

/-- A word tagged, retagged or untagged with a count (R249); BAD_BARRIER changes nothing. -/
def State.tagWord (s : State) (t o : Nat) (count : Nat) : Option State :=
  let w := s.winWord t o
  if 255 < count then none
  else if count = 0 then
    (if s.tagged t o && barArrived w != 0 then none
     else some ((s.setWinWord t o 0).modTeam t fun x => { x with tags := x.tags.filter fun k => k != o / 4 }))
  else if s.tagged t o then
    some (if count ≤ barArrived w then (s.setWinWord t o (barWord (barPhase w + 1) 0 count)).releaseAt t o else s.setWinWord t o (barWord (barPhase w) (barArrived w) count))
  else some ((s.setWinWord t o (barWord 0 0 count)).modTeam t fun x => { x with tags := x.tags ++ [o / 4] })
/-- The lanes of bar.tag in turn: the first failing lane with its EA, which alone TRAPMASK then names, or the state after all. (DEDUCED: log entry 88.) -/
def State.tagLanes (s : State) : List (Nat × DWord × Nat × Nat × Nat) → Except (Nat × DWord) State
  | [] => .ok s
  | (i, ea, t, o, n) :: r => match s.tagWord t o n with
    | none => .error (i, ea)
    | some s => s.tagLanes r

/-- R249. (DEDUCED: log entry 88.) -/
def execBarTag (d a : Reg) (f : BitVec 9) (s : State) : Host.Outcome State Fault Refusal :=
  s.issue fun p g =>
    let c := s.ctxOf p.gid g
    let es := (g.list p.cur.lanes).map fun i => (i, g.ea s.cycle i a f 4)
    let named := es.map fun x => (x.1, x.2, if s.isScratch x.2 then s.check c (.raw 4) false x.2 else .bad .addrRange)
    let bad := named.filterMap fun x => match x.2.2 with
      | .bad e => some (x.1, e, x.2.1)
      | .ok _ => none
      | .remote _ _ => some (x.1, Cause.addrRange, x.2.1)
    match worst bad with
    | some (k, m, ea) => s.trapAt p.gid p.cur k m ea
    | none => s.afterStores p g (es.map fun x => (x.2, 4)) <|
        let ws := named.filterMap fun x => match x.2.2 with
          | .bad _ => none
          | .remote _ _ => none
          | .ok pl => match pl.loc with
            | .win t o => some (x.1, x.2.1, t, o, (g.read s.cycle x.1 d).toNat)
            | .phys _ => none
        match s.tagLanes ws with
        | .error (i, ea) => s.trapAt p.gid p.cur .badBarrier (maskOf [i]) ((ea.setWidth 32).setWidth 64)
        | .ok s => s.modGroup p.gid fun h => (h.leaveWait p.cur).moveTo p.cur.lanes (succPc p.cur.pc)

end Sys2Proof.Machine
end

