-- ==== Sys2Proof/Machine/Copies.lean ====
section
/-! DEFINITION. Asynchronous copies, row gathers and multicasts (R231 to R238), and their completion. -/
namespace Sys2Proof.Machine

/-- Bytes of a copy size (R109). -/
def copyBytes (z : CopySize) : Nat := match z with
  | .b4 => 4
  | .b8 => 8
  | .b16 => 16
  | .b32 => 32
  | .b64 => 64

/-- A copy put in flight. -/
def State.addCopy (s : State) (c : Copy) : State :=
  let (id, s) := s.fresh
  { s with eng := { s.eng with copies := s.eng.copies ++ [(id, { c with order := id })] } }
def State.copy? (s : State) (id : Nat) : Option Copy := lookup s.eng.copies id
def State.setCopy (s : State) (id : Nat) (c : Copy) : State := { s with eng := { s.eng with copies := put s.eng.copies id c } }
def State.dropCopy (s : State) (id : Nat) : State := { s with eng := { s.eng with copies := del s.eng.copies id } }

/-- The core whose porter issued a copy, if one did. -/
def CopyKind.porterCore (k : CopyKind) : Option Nat := match k with
  | .porter core _ => some core
  | .batch _ => none
  | .rows _ => none
  | .mcast _ _ => none
/-- The batch of a cp.async; none while it is open, and for other copies. -/
def Copy.batch (c : Copy) : Option Nat := match c.kind with
  | .batch n => n
  | .rows _ => none
  | .mcast _ _ => none
  | .porter _ _ => none
/-- The identity of a copy's accesses: those of its issuer, tagged when it was issued. Once its team has ended it keeps nothing in an L1 (R426). -/
def State.copyCtx (s : State) (c : Copy) : Ctx :=
  { asid := c.asid, tag := c.epoch, team := some c.team, core := if ((s.team? c.team).map (·.ended)).getD true then none else (c.kind.porterCore <|> (s.group? c.gid).map (·.core)), gid := some c.gid, launch := c.launch, hnd := false,
    own := (s.launch? c.launch).bind (·.origin.tile?) }
/-- A new copy of a group's lane. (DEDUCED: log entry 43.) -/
def State.newCopy (s : State) (p : Packet) (g : Group) (lane : Nat) (k : CopyKind) (t : Option Token) (src : DWord) (dsts : List DWord) (len spitch dpitch : Nat) (desc : DWord) : Copy :=
  { kind := k, gid := p.gid, team := g.team, launch := s.launchIdOf g, asid := s.asidOf g, lane := lane, order := 0, token := t, word := p.cur.word, src := src, dsts := dsts,
    len := len, spitch := spitch, dpitch := dpitch, desc := desc, phase := 0, awaiting := [], answers := [], failed := none, tile := none, epoch := s.dev.qepoch, posted := s.timebase }

/-! ## Issue of cp.async (R231) -/

/-- The two ends of one lane's copy: the global end, and the scratchpad end beside it where it fails (R218, R231). (DEDUCED: log entry 42.) -/
def bothEnds (lane : Nat) (ea sea : DWord) (x y : Checked) : List LaneAcc :=
  { lane := lane, ea := ea, out := x } :: match y with
    | .bad b => [{ lane := lane, ea := sea, out := .bad b }]
    | .ok _ => []
    | .remote _ _ => []

/-- cp.async (R231): both ends are checked, and each active lane's copy joins the open batch. -/
def copyInstr (s : State) (inward : Bool) (d a : Reg) (z : CopySize) (f : BitVec 9) : Host.Outcome State Fault Refusal :=
  s.issue fun p g =>
    let c := s.ctxOf p.gid g
    let n := copyBytes z
    let accs := (g.list p.cur.lanes).flatMap fun i =>
      let ea := g.ea s.cycle i a f n
      let sea := scratchEa (g.read s.cycle i d).toNat
      bothEnds i ea sea (s.check c (.raw n) (!inward) ea) (s.check c (.raw n) inward sea)
    let ask (_ : Nat) (ls : List (Nat × Nat)) : FlitMsg := .rdreq { asid := c.asid, hnd := c.hnd, parts := ls.map fun l => { lane := l.1, la := l.2, kind := if inward then .readCheck n else .writeCheck n } }
    match s.checkAll p g accs [] ask with
    | .stop s => s
    | .go s g as _ =>
        let s := as.foldl (fun s x =>
          let sea := scratchEa (g.read s.cycle x.lane d).toNat
          s.addCopy (s.newCopy p g x.lane (.batch none) none (if inward then x.ea else sea) [if inward then sea else x.ea] n 0 0 0)) s
        s.modGroup p.gid fun h => { h with waits := g.waits, answers := g.answers, lanes := (h.moveTo p.cur.lanes (succPc p.cur.pc)).lanes }
/-- R231. -/
def execCpAsyncIn (d a : Reg) (z : CopySize) (f : BitVec 9) (s : State) : Host.Outcome State Fault Refusal := copyInstr s true d a z f
/-- R231. -/
def execCpAsyncOut (d a : Reg) (z : CopySize) (f : BitVec 9) (s : State) : Host.Outcome State Fault Refusal := copyInstr s false d a z f

/-! ## Issue of gathers and multicasts (R234, R236) -/

/-- A descriptor in the scratchpad aperture with an alignment, read whole (R234, R236, R259). (DEDUCED: log entry 90.) -/
def State.descriptor (s : State) (c : Ctx) (ea : DWord) (align n : Nat) : Except Cause (List Byte) :=
  match s.target ea with
  | none => .error .addrRange
  | some (.here _) => .error .addrRange
  | some (.remote _ _) => .error .addrRange
  | some (.scratch a) =>
      if a % align ≠ 0 then .error .misalignedData
      else match s.windowOf c.team a n with
        | none => .error .windowRange
        | some (t, o) => .ok (s.view c false (.win t o) n)

/-- The rules of a gather descriptor (R234). -/
def rowsOk (b : List Byte) : Bool :=
  let rowb := fieldAt b 0xC 2
  fieldAt b 0 8 % 4 == 0 && fieldAt b 8 4 % 4 == 0 && rowb % 4 == 0 && decide (4 ≤ rowb) && decide (rowb ≤ 4096) && fieldAt b 0xE 2 == 0
    && fieldAt b 0x10 4 % 4 == 0 && fieldAt b 0x14 4 % 4 == 0 && decide (rowb ≤ fieldAt b 0x14 4) && fieldAt b 0x1C 4 == 0
/-- The rules of a multicast descriptor, with the mask (R236). -/
def mcastOk (b : List Byte) (mask : Word) : Bool :=
  let n := fieldAt b 8 4
  let k := fieldAt b 0xC 1
  fieldAt b 0 8 % 4 == 0 && decide (4 ≤ n) && decide (n ≤ 65536) && n % 4 == 0 && decide (1 ≤ k) && decide (k ≤ 32) && fieldAt b 0xD 3 == 0 && fieldAt b 0x14 4 == 0
    && decide (mask.toNat < 2 ^ k) && (List.range k).all fun i => fieldAt b (0x18 + 8 * i) 8 % 4 == 0

/-- An instruction that starts one operation for each active lane on a token (R38, R234, R260): the lanes' descriptors are read and checked, and TOKEN_BUSY is checked. (DESIGN CHOICE: log entry 93.) -/
def tokenInstr (s : State) (k : Token) (read : Packet → Group → Nat → Except (Cause × DWord) Copy) : Host.Outcome State Fault Refusal :=
  s.issue fun p g =>
    let rs := (g.list p.cur.lanes).map fun i => (i, read p g i)
    let bad := rs.filterMap fun x => match x.2 with
      | .error e => some (x.1, e)
      | .ok _ => none
    match worst bad with
    | some (c, m, ea) => s.trapAt p.gid p.cur c m ea
    | none =>
        if (g.token k).st == .busy then s.trapAt p.gid p.cur .tokenBusy p.cur.lanes 0
        else
          let cs := rs.filterMap fun x => match x.2 with
            | .error _ => none
            | .ok c => some c
          cs.foldl State.addCopy (s.finish p (g.startToken k cs.length))

/-- R234. -/
def execCpRows (d a : Reg) (k : Token) (s : State) : Host.Outcome State Fault Refusal :=
  tokenInstr s k fun p g i =>
    let ea := g.readPair s.cycle i a
    match s.descriptor (s.ctxOf p.gid g) ea 32 32 with
    | .error c => .error (c, ea)
    | .ok b =>
        if !rowsOk b then .error (.badDescriptor, ea)
        else .ok (s.newCopy p g i (.rows (g.read s.cycle i d)) (some k) (BitVec.ofNat 64 (fieldAt b 0 8)) [scratchEa (fieldAt b 0x10 4)] (fieldAt b 0xC 2) (fieldAt b 8 4) (fieldAt b 0x14 4) ea)

/-- cp.mcast (R236). -/
def mcastInstr (s : State) (ordered : Bool) (d a : Reg) (k : Token) : Host.Outcome State Fault Refusal :=
  tokenInstr s k fun p g i =>
    let ea := g.readPair s.cycle i a
    match s.descriptor (s.ctxOf p.gid g) ea 8 0x18 with
    | .error c => .error (c, ea)
    | .ok h =>
        if 32 < fieldAt h 0xC 1 then .error (.badDescriptor, ea)
        else match s.descriptor (s.ctxOf p.gid g) ea 8 (0x18 + 8 * fieldAt h 0xC 1) with
        | .error c => .error (c, ea)
        | .ok b =>
            if !mcastOk b (g.read s.cycle i d) then .error (.badDescriptor, ea)
            else .ok (s.newCopy p g i (.mcast ordered (g.read s.cycle i d)) (some k) (BitVec.ofNat 64 (fieldAt b 0 8))
              ((List.range (fieldAt b 0xC 1)).map fun j => BitVec.ofNat 64 (fieldAt b (0x18 + 8 * j) 8)) (fieldAt b 8 4) 0 0 ea)
/-- R236. -/
def execCpMcastO (d a : Reg) (k : Token) (s : State) : Host.Outcome State Fault Refusal := mcastInstr s true d a k
/-- R236. -/
def execCpMcastU (d a : Reg) (k : Token) (s : State) : Host.Outcome State Fault Refusal := mcastInstr s false d a k

/-! ## Performing (R232, R233, R235, R237, R238) -/

/-- What a range of memory is to a copy: whole places here, a range of another device, or a fault at an address. -/
inductive Range where
  | here (ps : List Place)
  | remote (device la : Nat)
  | bad (c : Cause) (ea : DWord)
  deriving DecidableEq, Repr

/-- The places of checked pieces in order. -/
def gatherPieces : List (DWord × Checked) → Range
  | [] => .here []
  | (ea, .bad c) :: _ => .bad c ea
  | (_, .remote d la) :: _ => .remote d la
  | (_, .ok p) :: r => match gatherPieces r with
    | .here ps => .here (p :: ps)
    | .remote d la => .remote d la
    | .bad c ea => .bad c ea
/-- A range checked line by line (R218). -/
def State.range (s : State) (c : Ctx) (writes : Bool) (ea : DWord) (n : Nat) : Range :=
  gatherPieces ((piecesOf ea n).map fun x => (x.1, s.checkBytes c writes x.1 x.2))
/-- The first tile of places that an access must wait for. -/
def State.waitTile (s : State) (c : Ctx) (ps : List Place) : Option Nat := ps.findSome? fun p => if s.mustWait c p.tile then p.tile else none
/-- The first place whose line fails its check: in a tile with a record it must be rebuilt, anywhere else it faults (R233). -/
def State.failingPlace (s : State) (core : Option Nat) (ps : List Place) : Option Place := ps.find? fun p => s.lineFails core p.loc p.n
/-- The bytes of places in order. -/
def State.readPlaces (s : State) (c : Ctx) (ps : List Place) : List Byte := ps.flatMap fun p => s.view c (attrPrivate p.attr && stagedPlace p.loc) p.loc p.n
/-- Bytes written over places in order. -/
def State.writePlaces (s : State) (c : Ctx) : List Place → List Byte → State
  | [], _ => s
  | p :: r, bs => (s.putTagged c.tag c.core (attrPrivate p.attr && stagedPlace p.loc) p.loc (bs.take p.n)).writePlaces c r (bs.drop p.n)

/-- What reading a range comes to. -/
inductive ReadOut where
  | bytes (bs : List Byte)
  | wait (tile : Nat) (s : State)
  | bad (c : Cause) (ea : DWord)

/-- A read of a range of this device by a copy or an engine (R233, R264): a failing line of a tile with a record drops the tile. -/
def State.readRange (s : State) (c : Ctx) (ps : List Place) : ReadOut :=
  match s.waitTile c ps with
  | some k => .wait k (s.meetTile c k)
  | none => match s.failingPlace c.core ps with
    | none => .bytes (s.readPlaces c ps)
    | some p => match p.tile with
      | none => .bad .check p.ea
      | some k => if (s.tile k).record.isSome then .wait k ((s.dropTile k).meetTile c k) else .bad .check p.ea

/-- Is a copy one of a certified kernel, whose writes to local and fabric addresses are staged (R342)? -/
def State.stages (s : State) (x : Copy) : Bool := ((s.launch? x.launch).map (·.kern.ordered)).getD false && x.kind.porterCore.isNone
/-- The batch or token whose wait gives a copy's writes their segment (R342). -/
def Copy.awaited (x : Copy) : Option Nat × Option Token := match x.kind with
  | .batch n => (n, none)
  | .rows _ => (none, x.token)
  | .mcast _ _ => (none, x.token)
  | .porter _ _ => (none, none)
/-- Does a wait of a group give its segment to what awaits a batch or a token (R342)? -/
def Group.givesSegment (g : Group) (a : Option Nat × Option Token) : Bool := g.waits.any fun w => match w.kind with
  | .token t => a.2 == some t
  | .batch n => (a.1.map (covers n)).getD false
  | .exit => true
  | .barrier _ _ | .queuePop _ | .queuePush _ | .tile _ _ | .stores | .remoteCheck _ | .claim _ _ _ | .launchStore _ _ | .sealLimit | .fence _ _ | .cbuf _ _
  | .phase _ | .grant _ | .sweep _ | .table | .staging => false
/-- Is there room to stage a copy's writes? In a full region those of the participant whose segment is next act directly, once their segment is known (R342, R347). -/
def State.copyRoom (s : State) (x : Copy) : Bool :=
  match s.group? x.gid with
  | none => true
  | some g => !s.stages x || !s.stagingFull (dieOf g.core) || (s.isNext g && (g.ended || g.givesSegment x.awaited))
/-- A write of a copy to other devices or to places here: staged in a certified kernel, unless its region is full: then the group's earlier staged accesses of the segment are applied, and it acts (R342, R347). -/
def State.stageCopy (s : State) (x : Copy) (op : StagedOp) : State :=
  match s.group? x.gid with
  | none => s
  | some g =>
      if !s.stagingFull (dieOf g.core) then s.stage x.gid g x.order (some x.awaited) op
      else
        let s := s.applyWhere fun y => y.gid == x.gid && decide (y.order < x.order) && (y.awaits.isNone || (y.awaits.map g.givesSegment).getD false)
        s.applyStaged { order := x.order, launch := x.launch, gid := x.gid, participant := s.participantOf g, segment := g.segment, closed := true, awaits := none, op := op }
/-- A write of a copy to places (R232): staged in a certified kernel, at local addresses (R342), else performed. -/
def State.copyWrite (s : State) (x : Copy) (c : Ctx) (ps : List Place) (bs : List Byte) : State :=
  if s.stages x then
    (ps.foldl (fun (a : State × List Byte) p =>
      let core := ((s.group? x.gid).map (·.core)).getD 0
      let st : PendingStore := { id := x.order, lane := x.lane, core := core, gid := x.gid, launch := x.launch, ea := p.ea, loc := p.loc, priv := attrPrivate p.attr, word := x.word, tile := p.tile, bytes := a.2.take p.n, epoch := x.epoch }
      (if stagedPlace p.loc then a.1.stageCopy x (.write st) else a.1.writePlaces c [p] a.2, a.2.drop p.n)) (s, bs)).1
  else s.writePlaces c ps bs

/-- Has the group of a copy no access left of those that precede it in its lane's program order: its lane's stores here, its held and remote accesses, its stores posted to other devices (R320)? -/
def State.copyFollows (s : State) (x : Copy) : Bool :=
  (s.mem.storeQ.all fun st => st.gid != x.gid || st.lane != x.lane || decide (x.order < st.id))
    && (((s.group? x.gid).map fun g => g.sb.all fun e => decide (x.order < e.id) || e.kind.returned).getD true)
    && (s.fab.reqs.all fun r => r.2.owner != .store x.launch || decide (x.posted < r.2.sentAt))
/-- May the copy act now (R232, R235, R237): the group's earlier copies have ended, its earlier accesses are performed (R320), there is room to stage its writes, and the tile it waits for is VALID or its build has failed? -/
def State.copyTurn (s : State) (id : Nat) (x : Copy) : Bool :=
  (s.eng.copies.all fun c => c.2.gid != x.gid || decide (id ≤ c.1)) && s.copyFollows x && s.copyRoom x
    && (x.failed.isSome || !s.stillWaits (s.copyCtx x) x.tile)
/-- Have all the answers come that a copy awaits? -/
def Copy.answered (x : Copy) : Bool := x.awaiting.all fun t => x.answers.any fun a => a.1 == t
/-- The first failure among a copy's answers. -/
def Copy.failure (x : Copy) : Option (Cause × DWord) := x.answers.findSome? fun a => match a.2 with
  | .fail m => some (causeOfCode m.code, if m.addr = 0 then x.src else m.addr)
  | .data _ _ => none
  | .word _ => none
/-- The answer to a tag. -/
def Copy.answer (x : Copy) (t : Nat) : Option Answer := lookup x.answers t

/-- Requests of a copy sent: it awaits their answers in the next phase. -/
def State.askFor (s : State) (id : Nat) (x : Copy) (reqs : List (Nat × FlitMsg)) : State :=
  let (tags, s) := reqs.foldl (fun (a : List Nat × State) r =>
    let (t, s) := a.2.request r.1 r.2 (.copy id) x.launch
    (a.1 ++ [t], s)) ([], s)
  s.setCopy id { x with phase := x.phase + 1, awaiting := tags, answers := [], tile := none }

/-- A copy of a batch is over: it leaves the batch; a failure stays with the batch (R233). -/
def State.copyOver (s : State) (id : Nat) (x : Copy) (n : Option Nat) (bad : Option (Cause × DWord)) : State :=
  let s := s.dropCopy id
  let s := match bad with
    | none => s
    | some (c, ea) => s.defer x.gid { kind := .batch n, cause := c, addr := ea, word := x.word, lanes := maskOf [x.lane], regs := [] }
  s.settleBatches x.gid

/-- Is the answer one that passed? -/
def Answer.isData (a : Answer) : Bool := match a with
  | .data _ _ => true
  | .fail _ => false
  | .word _ => false
/-- Bytes of a RDRSP. -/
def Answer.bytes (a : Answer) : List Byte := match a with
  | .data _ bs => bs
  | .fail _ => []
  | .word _ => []
/-- Bytes written to another device, as a WR that the target checks when it comes. -/
def wrReq (asid la : Nat) (bs : List Byte) : WrReq := { asid := asid, parts := [{ la := la, encode := none, words := [], bytes := bs }] }
/-- Bytes a copy writes to another device: a copy of an instruction passed its checks there at its issue (R231, R237, R256), a row of a porter command is checked when it comes (R438). -/
def Copy.wrReq (x : Copy) (la : Nat) (bs : List Byte) : WrReq := { Machine.wrReq x.asid la bs with checked := x.kind.porterCore.isNone }

/-- A copy of one range performed, as a cp.async or a row of a porter command (R232, R233, R438): it ends, asks another device, or waits for a tile. What R218 checks of a cp.async's ends was checked at its issue (R231, R256). -/
def State.performCopy (s : State) (id : Nat) (x : Copy) (done : State → Option (Cause × DWord) → State) : State :=
  let c := s.copyCtx x
  let dst := x.dsts.headD 0
  let writes := x.kind.porterCore.isSome
  match x.failed with
  | some f => done s (some f)
  | none =>
    if x.phase = 2 then done s x.failure
    else match s.range c false x.src x.len with
      | .bad k ea => done s (some (k, ea))
      | .remote d la =>
          if x.phase = 0 then s.askFor id x [(d, .rdreq { asid := x.asid, parts := [{ lane := x.lane, la := la, kind := .bytes x.len }], own := s.ownParts x.gid d })]
          else match x.failure, s.range c writes dst x.len with
            | some f, _ => done s (some f)
            | none, .here ps => done (s.copyWrite x c ps ((x.answers.map (·.2.bytes)).flatten)) none
            | none, .remote d la => s.askFor id { x with phase := 1 } [(d, .wr (x.wrReq la ((x.answers.map (·.2.bytes)).flatten)))]
            | none, .bad k ea => done s (some (k, ea))
      | .here sp => match s.readRange c sp with
        | .bad k ea => done s (some (k, ea))
        | .wait k s => s.setCopy id { x with tile := some k }
        | .bytes bs => match s.range c writes dst x.len with
          | .bad k ea => done s (some (k, ea))
          | .remote d la =>
              if s.stages x then done (s.stageCopy x (.remote d (x.wrReq la bs))) none
              else s.askFor id { x with phase := 1 } [(d, .wr (x.wrReq la bs))]
          | .here dp => match s.waitTile c dp with
            | some k => (s.meetTile c k).setCopy id { x with tile := some k }
            | none => done (s.copyWrite x c dp bs) none

/-- COPY_COMPLETE (R232). -/
def execCopyComplete (id : Nat) (s : State) : Host.Outcome State Fault Refusal :=
  match s.copy? id with
  | none => .refused .notEnabled
  | some x => match x.kind with
    | .rows _ => .refused .notEnabled
    | .mcast _ _ => .refused .notEnabled
    | .porter _ _ => .refused .notEnabled
    | .batch n => if s.copyTurn id x && x.answered then .next (s.performCopy id x fun s bad => s.copyOver id x n bad) else .refused .notEnabled

/-- Bits of a mask, ascending. -/
def bitsOf (m : Word) : List Nat := (List.range 32).filter fun j => m.getLsbD j

/-- How a gather ends: rows written, and whether a row faulted. -/
structure GatherOut where
  rows : Nat
  bad : Bool
  st : State

/-- The rows of a gather in turn (R235): each row's source EA with the bytes that another device answered. -/
def State.gatherRows (s : State) (x : Copy) (c : Ctx) : Nat → List (DWord × Option Answer) → GatherOut
  | m, [] => { rows := m, bad := false, st := s }
  | m, (src, ans) :: r =>
      let done : GatherOut := { rows := m, bad := true, st := s }
      match s.range c true (x.dsts.headD 0 + BitVec.ofNat 64 (x.dpitch * m)) x.len with
      | .bad _ _ => done
      | .remote _ _ => done
      | .here dp =>
          match ans with
          | some (.fail _) => done
          | some (.word _) => done
          | some (.data _ bs) => (s.copyWrite x c dp bs).gatherRows x c (m + 1) r
          | none => match s.range c false src x.len with
            | .bad _ _ => done
            | .remote _ _ => done
            | .here sp => match s.readRange c sp with
              | .bad _ _ => done
              | .wait _ _ => done
              | .bytes bs => (s.copyWrite x c dp bs).gatherRows x c (m + 1) r
/-- The first tile that the source rows of a gather must wait for, with its build started; rows from one whose build has failed on are not reached (R235). -/
def State.gatherWait (s : State) (x : Copy) (c : Ctx) : List DWord → Option (Nat × State)
  | [] => none
  | src :: r => match s.range c false src x.len with
    | .bad _ _ => none
    | .remote _ _ => s.gatherWait x c r
    | .here sp => match s.readRange c sp with
      | .bad _ _ => none
      | .wait k s' => if x.lost.contains k then none else some (k, s')
      | .bytes _ => s.gatherWait x c r

/-- A result word of an operation written into its descriptor; a tagged word is left as it is, and the operation has faulted (R235, R237, R250). (DEDUCED: log entry 42.) -/
def State.setResult (s : State) (x : Copy) (off : Nat) (v : Nat) : Bool × State :=
  match s.windowOf (some x.team) (x.desc.toNat % 2 ^ 32) 32 with
  | none => (false, s)
  | some (t, o) => if s.coversTag t (o + off) 4 then (true, s) else (false, s.putBytes none false (.win t (o + off)) (bytesOfNat 4 v))
/-- A gather over: COUNT is written, then the token (R235). -/
def State.gatherOver (s : State) (id : Nat) (x : Copy) (rows : Nat) (bad : Bool) : State :=
  let (clobber, s) := s.setResult x 0x18 (rows + if bad then 2 ^ 31 else 0)
  (s.dropCopy id).tokenEnded x.gid x.token (bad || clobber)

/-- The source rows of a gather. -/
def Copy.sources (x : Copy) (mask : Word) : List DWord := (bitsOf mask).map fun j => x.src + BitVec.ofNat 64 (x.spitch * j)

/-- ROW_GATHER_COMPLETE (R235): a gather that waits for tiles acts on the whole of its rows once they are VALID. -/
def execRowGatherComplete (id : Nat) (s : State) : Host.Outcome State Fault Refusal :=
  match s.copy? id with
  | none => .refused .notEnabled
  | some x => match x.kind with
    | .batch _ => .refused .notEnabled
    | .mcast _ _ => .refused .notEnabled
    | .porter _ _ => .refused .notEnabled
    | .rows mask =>
        if !(s.copyTurn id x && x.answered) then .refused .notEnabled
        else
          let c := s.copyCtx x
          let rows := x.sources mask
          let asks := rows.zipIdx.filterMap fun r => match s.target r.1 with
            | some (.remote d la) => some (r.2, d, FlitMsg.rdreq { asid := x.asid, parts := [{ lane := x.lane, la := la, kind := .bytes x.len }], own := s.ownParts x.gid d })
            | some (.here _) => none
            | some (.scratch _) => none
            | none => none
          if x.phase = 0 && !asks.isEmpty then .next (s.askFor id x (asks.map (·.2)))
          else match s.gatherWait x c rows with
            | some (k, s') => .next (s'.setCopy id { x with tile := some k })
            | none =>
                let answerOf (j : Nat) : Option Answer := (asks.zipIdx.find? fun a => a.1.1 == j).bind fun a => x.answer (x.awaiting.getD a.2 0)
                let out := s.gatherRows x c 0 (rows.zipIdx.map fun r => (r.1, answerOf r.2))
                .next (out.st.gatherOver id x out.rows out.bad)

/-! ## Multicast (R237, R238) -/

/-- A multicast over: OKMASK is written, then the token. -/
def State.mcastOver (s : State) (id : Nat) (x : Copy) (mask : Word) (ok : List Nat) : State :=
  let okm : Nat := ok.foldl (fun m j => m + 2 ^ j) 0
  let (clobber, s) := s.setResult x 0x10 okm
  (s.dropCopy id).tokenEnded x.gid x.token (okm != mask.toNat || clobber)

/-- What becomes of each selected destination: the places of those here, the address of those elsewhere. -/
def State.destinations (s : State) (x : Copy) (c : Ctx) (mask : Word) : List (Nat × Range) :=
  (bitsOf mask).map fun j => (j, s.range c true (x.dsts.getD j 0) x.len)
/-- Do two places lie in one line, and do their bytes meet? -/
def Place.sameLine (x y : Place) : Bool :=
  match x.loc, y.loc with
  | .win t o, .win u q => t == u && o / 64 == q / 64
  | .phys a, .phys b => a / 64 == b / 64
  | .win _ _, .phys _ => false
  | .phys _, .win _ _ => false
def Place.overlaps (x y : Place) : Bool :=
  match x.loc, y.loc with
  | .win t o, .win u q => t == u && decide (o < q + y.n) && decide (q < o + x.n)
  | .phys a, .phys b => decide (a < b + y.n) && decide (b < a + x.n)
  | .win _ _, .phys _ => false
  | .phys _, .win _ _ => false
/-- The pieces that stand of writes in a free order: of those that overlap others in a line, the one that the run picks for that line (R238). -/
def lineWinners {α : Type} (tick : Nat) (all : List (Place × α)) : List (Place × α) :=
  let xs := all.zipIdx
  let met (x : (Place × α) × Nat) : Bool := xs.any fun y => y.2 != x.2 && y.1.1.overlaps x.1.1
  (xs.filter fun x => !met x || (
    let rivals := xs.filter fun y => met y && y.1.1.sameLine x.1.1
    match rivals with
    | [] => true
    | r :: _ => (rivals[Config.pick tick r.2 % rivals.length]?.map (·.2)) == some x.2)).map (·.1)
/-- The line pieces of the destinations here, in the order they are written: ascending for .o; for .u one write for each line where writes overlap (R238). (DEDUCED: log entry 101.) -/
def mcastPieces (tick : Nat) (ordered : Bool) (ds : List (Nat × Range)) (bs : List Byte) : List (Place × List Byte) :=
  let cut (ps : List Place) : List (Place × List Byte) := (ps.foldl (fun (a : List (Place × List Byte) × List Byte) p => (a.1 ++ [(p, a.2.take p.n)], a.2.drop p.n)) ([], bs)).1
  let all := ds.flatMap fun d => match d.2 with
    | .here ps => cut ps
    | .remote _ _ => []
    | .bad _ _ => []
  if ordered then all else lineWinners tick all
/-- The line pieces of a destination on another device, as places at their local addresses there. -/
def farPieces (j la : Nat) : List Byte → List (Place × Nat × List Byte)
  | bs => (linesOf la bs.length).map fun k =>
      let lo := max la (64 * k)
      let n := min (la + bs.length) (64 * k + 64) - lo
      ({ ea := localEa lo, loc := .phys lo, attr := 0, tile := none, n := n }, j, (bs.drop (lo - la)).take n)
/-- The writes that a multicast sends to other devices, one WR for a destination: for .u only the pieces that stand where its destinations on one device overlap (R238). (DEDUCED: log entry 101.) -/
def mcastFar (tick : Nat) (ordered : Bool) (x : Copy) (ds : List (Nat × Range)) (bs : List Byte) : List (Nat × Nat × WrReq) :=
  let far := ds.filterMap fun d => match d.2 with
    | .remote v la => some (d.1, v, la)
    | .here _ => none
    | .bad _ _ => none
  if ordered then far.map fun d => (d.1, d.2.1, x.wrReq d.2.2 bs)
  else far.filterMap fun d =>
    let stand := (lineWinners tick ((far.filter fun e => e.2.1 == d.2.1).flatMap fun e => farPieces e.1 e.2.2 bs)).filter fun p => p.2.1 == d.1
    if stand.isEmpty then none
    else some (d.1, d.2.1, { x.wrReq d.2.2 [] with parts := stand.map fun p => { la := p.1.ea.toNat % 2 ^ 46, encode := none, words := [], bytes := p.2.2 } })

/-- A multicast with its source read: its destinations here are written, and those elsewhere that passed their checks sent (R237, R238). A destination whose tile's build has failed fails alone. -/
def State.mcastWrite (s : State) (id : Nat) (x : Copy) (c : Ctx) (ordered : Bool) (mask : Word) (bs : List Byte) (passed : List Nat) : State :=
  let ds := s.destinations x c mask
  let blocks (ps : List Place) : Option Nat := ps.findSome? fun p => if s.mustWait c p.tile && !((p.tile.map x.lost.contains).getD false) then p.tile else none
  let lostOne (ps : List Place) : Bool := ps.any fun p => s.mustWait c p.tile && (p.tile.map x.lost.contains).getD false
  match ds.findSome? fun d => match d.2 with
    | .here ps => blocks ps
    | .remote _ _ => none
    | .bad _ _ => none with
  | some k => (s.meetTile c k).setCopy id { x with tile := some k }
  | none =>
      let ds := ds.filter fun d => match d.2 with
        | .here ps => !lostOne ps
        | .remote _ _ => passed.contains d.1
        | .bad _ _ => false
      let s := (mcastPieces s.tick ordered ds bs).foldl (fun s pb => s.copyWrite x c [pb.1] pb.2) s
      let far := mcastFar s.tick ordered x ds bs
      let here := (ds.map (·.1)).filter fun j => far.all fun r => r.1 != j
      if far.isEmpty then s.mcastOver id x mask here
      else if s.stages x then (far.foldl (fun s r => s.stageCopy x (.remote r.2.1 r.2.2)) s).mcastOver id x mask (here ++ far.map (·.1))
      else s.askFor id { x with phase := 1, ok := here ++ far.map (·.1) } (far.map fun r => (r.2.1, .wr r.2.2))
/-- The destinations written by a multicast whose writes to other devices have been answered. -/
def Copy.written (x : Copy) : List Nat :=
  let near := x.ok.take (x.ok.length - x.awaiting.length)
  near ++ ((x.ok.drop near.length).zip x.awaiting).filterMap fun r => if ((x.answer r.2).map Answer.isData).getD false then some r.1 else none

/-- What a multicast asks of other devices: the bytes of its source, and the checks of its destinations. -/
def State.mcastAsks (s : State) (x : Copy) (mask : Word) : List (Option Nat × Nat × FlitMsg) :=
  let src : List (Option Nat × Nat × FlitMsg) := match s.target x.src with
    | some (.remote d la) => [(none, d, .rdreq { asid := x.asid, parts := [{ lane := x.lane, la := la, kind := .bytes x.len }], own := s.ownParts x.gid d })]
    | some (.here _) => []
    | some (.scratch _) => []
    | none => []
  src ++ (bitsOf mask).filterMap fun j => match s.target (x.dsts.getD j 0) with
    | some (.remote d la) => if s.unreachable d then none else some (some j, d, .rdreq { asid := x.asid, parts := [{ lane := x.lane, la := la, kind := .writeCheck x.len }] })
    | some (.here _) => none
    | some (.scratch _) => none
    | none => none

/-- MULTICAST_COMPLETE (R237). -/
def execMulticastComplete (id : Nat) (s : State) : Host.Outcome State Fault Refusal :=
  match s.copy? id with
  | none => .refused .notEnabled
  | some x => match x.kind with
    | .batch _ => .refused .notEnabled
    | .rows _ => .refused .notEnabled
    | .porter _ _ => .refused .notEnabled
    | .mcast ordered mask =>
        if !(s.copyTurn id x && x.answered) then .refused .notEnabled
        else
          let c := s.copyCtx x
          let asks := s.mcastAsks x mask
          if x.phase = 2 then .next (s.mcastOver id x mask x.written)
          else if x.phase = 0 && !asks.isEmpty then .next (s.askFor id x (asks.map (·.2)))
          else
            let answers := asks.zipIdx.map fun a => (a.1.1, x.answer (x.awaiting.getD a.2 0))
            let passed := answers.filterMap fun a => if (a.2.map Answer.isData).getD false then a.1 else none
            match s.range c false x.src x.len with
            | .bad _ _ => .next (s.mcastOver id x mask [])
            | .remote _ _ => (match answers.findSome? (fun (a : Option Nat × Option Answer) => if a.1.isNone then a.2 else none) with
                | some (.data _ bs) => .next (s.mcastWrite id x c ordered mask bs passed)
                | some (.fail _) => .next (s.mcastOver id x mask [])
                | some (.word _) => .next (s.mcastOver id x mask [])
                | none => .next (s.mcastOver id x mask []))
            | .here sp => match s.readRange c sp with
              | .bad _ _ => .next (s.mcastOver id x mask [])
              | .wait k s' => if x.lost.contains k then .next (s.mcastOver id x mask []) else .next (s'.setCopy id { x with tile := some k })
              | .bytes bs => .next (s.mcastWrite id x c ordered mask bs passed)

end Sys2Proof.Machine
end

