-- ==== Sys2Proof/Machine/Launches.lean ====
section
/-! DEFINITION. Device-side launches and graph replays (R147 to R151, R404, R405, R408, R417, R422). -/
namespace Sys2Proof.Machine

/-! ## Reading records -/

/-- Why a record cannot be read now: a cause at an address, a tile that is not VALID, a failing line of a tile with a record. -/
inductive Stop where
  | bad (c : Cause) (ea : DWord)
  | wait (tile : Nat)
  | rebuild (tile : Nat)
  deriving DecidableEq, Repr

/-- The bytes of checked places, or why not. -/
def State.placesBytes (s : State) (c : Ctx) (ps : List Place) : Except Stop (List Byte) :=
  match s.waitTile c ps with
  | some k => .error (.wait k)
  | none => match s.failingPlace c.core ps with
    | none => .ok (s.readPlaces c ps)
    | some p => match p.tile with
      | none => .error (.bad .check p.ea)
      | some k => if (s.tile k).record.isSome then .error (.rebuild k) else .error (.bad .check p.ea)

/-- A record read whole from this device (R149): scratch says whether it may lie in the scratchpad. (DEDUCED: log entry 84.) -/
def State.recordBytes (s : State) (c : Ctx) (scratch : Bool) (ea : DWord) (align n : Nat) : Except Stop (List Byte) :=
  match s.target ea with
  | none => .error (.bad .addrRange ea)
  | some (.remote _ _) => .error (.bad .addrRange ea)
  | some (.scratch a) =>
      if !scratch then .error (.bad .addrRange ea)
      else if a % align ≠ 0 then .error (.bad .misalignedData ea)
      else (match s.range c false ea n with
        | .here ps => s.placesBytes c ps
        | .bad k x => .error (.bad k x)
        | .remote _ _ => .error (.bad .addrRange ea))
  | some (.here la) =>
      if la % align ≠ 0 then .error (.bad .misalignedData ea)
      else match s.range c false ea n with
        | .here ps => s.placesBytes c ps
        | .bad k x => .error (.bad k x)
        | .remote _ _ => .error (.bad .addrRange ea)

/-- An instruction stopped at a record: it traps, or waits for the tile. -/
def State.stopped (s : State) (p : Packet) (g : Group) (x : Stop) : State :=
  match x with
  | .bad c ea => s.trapAt p.gid p.cur c p.cur.lanes ea
  | .wait k => s.tileWaits p g (s.ctxAt p g) k false
  | .rebuild k => s.tileWaits p g (s.ctxAt p g) k true

/-! ## g.launch (R148, R149) -/

/-- WEIGHT of a group's team. -/
def State.weightOf (s : State) (g : Group) : Nat := ((s.teamOf g).map (·.weight)).getD 0
/-- The root of a group's graph. -/
def State.rootOf (s : State) (g : Group) : Option RootAddr := (s.launchOf g).bind (·.root)
/-- A split of a team's weight for a child of n teams (R46, R417): the child's weight, or WEIGHT_LOW. -/
def splitWeight (w n : Nat) : Option Nat := if w = 0 then some 0 else if w < 2 ∨ w / 2 < n then none else some (w / 2)

/-- The record of a waiting launch, as it was read. -/
def Group.launchWait (g : Group) (sl : Slot) : Option (List Byte) := (g.waitOf sl.pc sl.place).bind fun w => match w.kind with
  | .launchStore _ r => some r
  | .barrier _ _ | .queuePop _ | .queuePush _ | .tile _ _ | .stores | .remoteCheck _ | .claim _ _ _ | .token _ | .batch _ | .sealLimit | .fence _ _ | .cbuf _ _
  | .phase _ | .grant _ | .sweep _ | .table | .exit | .staging => none

/-- What a launch of a certified kernel starts behind: the group's staged accesses that its release covers (R327, R344). -/
def State.behindStaged (s : State) (gid : Nat) : Option (Nat × Nat) := if s.owes gid s.sched.nextId then some (gid, s.sched.nextId) else none
/-- Have the accesses been applied that a launch or a replay starts behind? -/
def State.notBehind (s : State) (after : Option (Nat × Nat)) : Bool := (after.map fun x => !s.owes x.1 x.2).getD true
/-- A launch instruction with its record read: the checks, the split, the entry (R148). -/
def State.launchWith (s : State) (p : Packet) (g : Group) (tryOnly : Bool) (d : Reg) (bs : List Byte) : State :=
  let asid := s.asidOf g
  match s.checkRecord asid bs with
  | .error n => s.answerWord p (g.leaveWait p.cur) [(d, BitVec.ofNat 32 n)]
  | .ok k =>
      let r := recordOf bs
      match (if r.graph then some 0 else splitWeight (s.weightOf g) r.teams) with
      | none => s.trapAt p.gid p.cur .weightLow p.cur.lanes 0
      | some w =>
          let die := dieOf g.core
          match s.ordinaryEntry die with
          | none =>
              if tryOnly && !s.certified g then s.answerWord p (g.leaveWait p.cur) [(d, 1)]
              else s.waitFor p g (.launchStore die bs)
          | some e =>
              let (weight, root) := s.openGraph asid r w (if w = 0 then none else s.rootOf g)
              let (id, t) := s.enterLaunch r k asid die (.device g.team) (some e) weight root 0
              let t := t.modLaunch id fun x => { x with after := s.behindStaged p.gid }
              let t := t.modTeam g.team fun x => { x with weight := x.weight - w }
              (t.answerWord p (g.leaveWait p.cur) [(d, 0)]).closeFor p.gid false

/-- A device-side launch: a release at DEVICE scope, then the record (R148). -/
def launchInstr (s : State) (tryOnly : Bool) (d a : Reg) : Host.Outcome State Fault Refusal :=
  s.issue fun p g =>
    s.afterPerformed p g .device true <|
      let s := s.publish g .device
      match g.launchWait p.cur with
      | some bs => s.launchWith p g tryOnly d bs
      | none => match s.recordBytes (s.ctxOf p.gid g) false (g.ureadPair s.cycle p.cur.lanes a) 64 64 with
        | .error x => s.stopped p g x
        | .ok bs => s.launchWith p g tryOnly d bs
/-- R148. -/
def execGLaunch (d a : Reg) (s : State) : Host.Outcome State Fault Refusal := launchInstr s false d a
/-- R148. -/
def execGTrylaunch (d a : Reg) (s : State) : Host.Outcome State Fault Refusal := launchInstr s true d a

/-! ## g.replay (R150, R422) -/

/-- A node entry of a graph object (R422). -/
structure Node where
  lrec : Nat
  preds : List Nat
  deriving DecidableEq, Repr

/-- The rules of a graph header (R422). -/
def headerOk (h : List Byte) : Bool :=
  decide (1 ≤ fieldAt h 0 2) && decide (fieldAt h 0 2 ≤ 1024) && fieldAt h 2 2 == 0 && fieldAt h 0xC 4 == 0 && fieldAt h 0x10 8 % 64 == 0
    && fieldAt h 0x18 8 % 8 == 0 && fieldAt h 0x20 8 % 8 == 0 && (h.drop 0x28).all (· == 0)
/-- A node entry, if it keeps its rules (R422). -/
def nodeOf (i : Nat) (b : List Byte) : Option Node :=
  let n := fieldAt b 8 2
  let preds := (List.range n).map fun j => fieldAt b (0x10 + 2 * j) 2
  if n ≤ 8 ∧ fieldAt b 0xA 6 = 0 ∧ preds.all (· < i) then some { lrec := fieldAt b 0 8, preds := preds } else none
/-- A node's record with its COMPL ignored (R422). -/
def nodeRecord (bs : List Byte) : List Byte := bs.take 0x30 ++ List.replicate 8 0 ++ (bs.drop 0x38).take 8

/-- The nodes of a graph from index i, with their kernels, or the status of the first that fails (R405, R422). -/
def State.nodesFrom (s : State) (c : Ctx) (graph : DWord) : Nat → Nat → Except Stop (Except Nat (List (Node × LaunchRec × Kernel)))
  | _, 0 => .ok (.ok [])
  | i, n + 1 => do
      let b ← s.recordBytes c false (graph + BitVec.ofNat 64 (0x40 + 32 * i)) 32 32
      match nodeOf i b with
      | none => .ok (.error 4)
      | some node =>
          if node.lrec ≥ 2 ^ 46 ∨ node.lrec % 64 ≠ 0 then .ok (.error 4)
          else
            let r ← s.recordBytes c false (localEa node.lrec) 64 64
            match s.checkRecord c.asid (nodeRecord r) with
            | .error e => .ok (.error e)
            | .ok k =>
                let rest ← s.nodesFrom c graph (i + 1) n
                match rest with
                | .error e => .ok (.error e)
                | .ok ns => .ok (.ok ((node, recordOf (nodeRecord r), k) :: ns))

/-- Is a patch good for the kernels of a graph's nodes (R150)? (DEDUCED: log entry 44.) -/
def patchOk (bs : List Byte) (ks : List Kernel) : Bool :=
  fieldAt bs 0 4 ≤ 255 && fieldAt bs 4 4 == 0 && (List.range (fieldAt bs 0 4)).all fun i =>
    let node := fieldAt bs (8 + 8 * i) 2
    let off := fieldAt bs (0xA + 8 * i) 2
    match ks[node]? with
    | none => false
    | some k => off % 4 == 0 && decide (off < k.params)
/-- The patch of a replay: 8 bytes and its entries; no bytes for none (R150). -/
def State.patchBytes (s : State) (c : Ctx) (patch : DWord) : Except Stop (List Byte) := do
  if patch = 0 then return []
  let h ← s.recordBytes c true patch 8 8
  if 255 < fieldAt h 0 4 then return h
  s.recordBytes c true patch 8 (8 + 8 * fieldAt h 0 4)

/-- The replays of a graph object that have not completed (R150). -/
def State.replaysOf (s : State) (asid la : Nat) : List (Nat × Replay) := s.sched.replays.filter fun r => r.2.asid == asid && r.2.graph == la
/-- A free patch buffer of an object. -/
def freeBuffer (rs : List (Nat × Replay)) : Option Nat := [0, 1].find? fun b => rs.all fun r => r.2.buffer != some b

/-- A replay accepted (R150): the patch is copied into the buffer, QUEUED rises, the replay waits its turn. -/
def State.acceptReplay (s : State) (gid : Nat) (g : Group) (asid la buffer : Nat) (h patch : List Byte) (nnode weight : Nat) : State :=
  let (id, s) := s.fresh
  let s := if patch.isEmpty then s.writeLocal asid (fieldAt h (0x18 + 8 * buffer) 8) (bytesOfNat 8 0) else s.writeLocal asid (fieldAt h (0x18 + 8 * buffer) 8) patch
  let s := s.writeLocal asid (la + 4) (bytesOfNat 4 ((s.replaysOf asid la).length + 1))
  let r : Replay := { asid := asid, die := dieOf g.core, graph := la, buffer := some buffer, order := id, started := false, nodes := [], doneOk := [], failed := [], never := [],
                      weight := weight, root := if weight = 0 then none else s.rootOf g, team := g.team, nnode := nnode, table := [], after := s.behindStaged gid }
  let s := s.modTeam g.team fun t => { t with weight := t.weight - weight }
  { s with sched := { s.sched with replays := s.sched.replays ++ [(id, r)] } }

/-- The checks and the acceptance of a replay: the status, or the split that is too low; whatever the status, the segment closes (R327, R343). -/
def State.replayWith (s : State) (p : Packet) (g : Group) (d : Reg) (graph patch : DWord) : Except Stop State := do
  let c := s.ctxOf p.gid g
  let h ← s.recordBytes c false graph 64 64
  let status (n : Nat) : State := (s.answerWord p (g.leaveWait p.cur) [(d, BitVec.ofNat 32 n)]).closeFor p.gid false
  let la := graph.toNat % 2 ^ 46
  if !headerOk h || ((s.pageAt c.asid la).map fun x => attrCoh x.attr) != some 2 then return status 4
  let nodes ← s.nodesFrom c graph 0 (fieldAt h 0 2)
  match nodes with
  | .error e => return status e
  | .ok ns =>
      if patch ≠ 0 ∧ patch.toNat % 8 ≠ 0 then return status 5
      let bs ← s.patchBytes c patch
      if !bs.isEmpty && !patchOk bs (ns.map (·.2.2)) then return status 5
      match freeBuffer (s.replaysOf c.asid la) with
      | none => return status 2
      | some b => match splitWeight (s.weightOf g) ns.length with
        | none => return s.trapAt p.gid p.cur .weightLow p.cur.lanes 0
        | some w => return ((s.acceptReplay p.gid g c.asid la b h bs ns.length w).answerWord p (g.leaveWait p.cur) [(d, 0)]).closeFor p.gid false

/-- R150. -/
def execGReplay (d a b : Reg) (s : State) : Host.Outcome State Fault Refusal :=
  s.issue fun p g =>
    s.afterPerformed p g .device true <|
      let s := s.publish g .device
      match s.replayWith p g d (g.ureadPair s.cycle p.cur.lanes a) (g.ureadPair s.cycle p.cur.lanes b) with
      | .ok t => t
      | .error x => s.stopped p g x

end Sys2Proof.Machine
end

