-- ==== Sys2Proof/Machine/Claims.lean ====
section
/-! DEFINITION. Remote invocation and claims (R152 to R158, R456 to R460), and weight between parties (R46, R47, R159, R160): the instructions, the home of a claim, and the device that executes an invocation. -/
namespace Sys2Proof.Machine

/-! ## Claims (R152, R456, R457) -/

/-- HOME of a claim. -/
def claimHome (c : DWord) : Nat := c.toNat / 2 ^ 50
/-- SLOT of a claim. -/
def claimSlot (c : DWord) : Nat := c.toNat / 2 ^ 28 % 2 ^ 22
/-- GEN of a claim. -/
def claimGen (c : DWord) : Nat := c.toNat % 2 ^ 28
/-- A claim of its parts. -/
def claimOf (home slot gen : Nat) : DWord := BitVec.ofNat 64 (home * 2 ^ 50 + slot * 2 ^ 28 + gen)

/-- A slot of the table; one never allocated is FREE with generation 0. -/
def State.claimAt (s : State) (n : Nat) : ClaimSlot :=
  (lookup s.fab.claims n).getD { st := .free, gen := 0, locDev := 0, cause := 0, loc := 0, expiry := 0, execDev := 0, started := false, queue := [] }
/-- Where a slot lies in the reserved HBM4 (R383, R456). -/
def claimPa (n : Nat) : Nat := Config.claimTableBase + 32 * n
/-- STATE of a slot. -/
def ClaimState.code : ClaimState → Nat
  | .free => 0
  | .pending => 1
  | .resolved => 2
  | .broken => 3
/-- The 32 bytes of a slot (R456); where the device keeps a queued message is its own, so QHEAD is a free value while there is one. (DESIGN CHOICE: log entry 9.) -/
def ClaimSlot.entry (c : ClaimSlot) (tick : Nat) : List Byte :=
  bytesOfNat 4 (c.st.code * 2 ^ 30 + c.gen % 2 ^ 28) ++ bytesOfNat 2 c.locDev ++ bytesOfNat 2 c.cause ++ bytesOfNat 8 c.loc ++ bytesOfNat 8 c.expiry
    ++ (if c.queue.isEmpty then bytesOfNat 8 0 else bytesOfWords [Config.freeWord tick 0, Config.freeWord tick 1])
/-- A slot of the table written, with its entry in HBM4 (R456). -/
def State.setClaim (s : State) (n : Nat) (c : ClaimSlot) : State :=
  { s with fab := { s.fab with claims := put s.fab.claims n c }, mem := { s.mem with hbm := cellsWrite s.mem.hbm (claimPa n) (c.entry s.tick) } }

/-- What a claim is at its home (R457). -/
inductive ClaimView where
  | pending (slot : Nat)
  | resolved (device la : Nat)
  | broken (cause depth : Nat)
  | stale
  deriving DecidableEq, Repr

/-- R457, in its order. -/
def State.claimView (s : State) (c : DWord) : ClaimView :=
  if claimGen c / 2 ^ 24 ≠ s.fab.incarnation then .broken Cause.deviceLost.code 0
  else
    let x := s.claimAt (claimSlot c)
    if claimGen c ≠ x.gen then .stale
    else match x.st with
      | .free => .stale
      | .pending => .pending (claimSlot c)
      | .resolved => .resolved x.locDev x.loc
      | .broken => .broken x.cause x.loc
/-- The status word of R157. -/
def ClaimView.word (v : ClaimView) : Word :=
  match v with
  | .pending _ => 0
  | .resolved _ _ => BitVec.ofNat 32 (2 ^ 28)
  | .broken cause depth => BitVec.ofNat 32 (2 * 2 ^ 28 + min depth 255 * 2 ^ 20 + cause)
  | .stale => BitVec.ofNat 32 (3 * 2 ^ 28)
/-- Is the claim pending? -/
def ClaimView.isPending (v : ClaimView) : Bool := match v with
  | .pending _ => true
  | .resolved _ _ => false
  | .broken _ _ => false
  | .stale => false

/-- The lowest FREE slot (R154). -/
def State.freeClaim (s : State) : Option Nat :=
  ((List.range (s.fab.claims.length + 1)).find? fun n => (s.claimAt n).st == .free).filter fun n => decide (n < Config.claimSlots)
/-- The next generation of a slot (R457). -/
def State.nextGen (s : State) (x : ClaimSlot) : Nat := s.fab.incarnation * 2 ^ 24 + (if x.gen % 2 ^ 24 = 2 ^ 24 - 1 then 1 else x.gen % 2 ^ 24 + 1)

/-! ## g.invoke and g.invokeh (R153, R154) -/

/-- The rules of the fixed part of an invocation record (R153); DEVICE is ignored by g.invokeh. -/
def invokeOk (h : List Byte) (toDevice : Bool) : Bool :=
  (!toDevice || decide (fieldAt h 0 2 < 2 ^ 14)) && decide (fieldAt h 2 2 ≤ 224) && fieldAt h 2 2 % 4 == 0 && decide (1 ≤ fieldAt h 4 4)
    && decide (fieldAt h 0x10 8 < 2 ^ 60) && decide (fieldAt h 0x18 2 ≤ 256) && fieldAt h 0x18 2 % 4 == 0
    && (fieldAt h 0x10 8 != 0 || fieldAt h 0x18 2 == 0) && fieldAt h 0x1A 6 == 0

/-- Does an invocation run here as far as its issuer can know: on this device, or where a claim of this device's own table has resolved to? -/
def State.runsHere (s : State) (target : Option DWord) (h : List Byte) : Bool :=
  match target with
  | none => fieldAt h 0 2 == s.fab.devNum
  | some c => claimHome c == s.fab.devNum && (match s.claimView c with
      | .resolved d _ => d == s.fab.devNum
      | .pending _ => false
      | .broken _ _ => false
      | .stale => false)
/-- The teams that an invocation's weight is shared among, as its issuer can know them (R417): those of a template on this device, read once its tile holds data; elsewhere at least one; none when there is no weight to share. (DEDUCED: log entry 86.) -/
def State.invokedTeams (s : State) (asid weight : Nat) (target : Option DWord) (h : List Byte) : Except Stop Nat :=
  let la := fieldAt h 8 8
  if weight ≠ 0 && s.runsHere target h && decide (la < 2 ^ 46) then
    match s.recordBytes (s.deviceCtx asid) false (localEa la) 64 64 with
    | .ok bs => .ok (if (recordOf bs).graph then 1 else (recordOf bs).teams)
    | .error (.bad _ _) => .ok 1
    | .error (.wait k) => .error (.wait k)
    | .error (.rebuild k) => .error (.rebuild k)
  else .ok 1
/-- The invocation with its record read (R154). In a certified kernel it is released in round order (R460). (DEDUCED: log entry 86.) -/
def State.invokeWith (s : State) (p : Packet) (g : Group) (d : Reg) (target : Option DWord) (h args : List Byte) (teams : Nat) : State :=
  match splitWeight (s.weightOf g) teams with
  | none => s.trapAt p.gid p.cur .weightLow p.cur.lanes 0
  | some w => match s.freeClaim with
    | none => s.trapAt p.gid p.cur .claimFull p.cur.lanes 0
    | some n => s.withRoom p g fun staging g s =>
        let x := s.claimAt n
        let gen := s.nextGen x
        let claim := claimOf s.fab.devNum n gen
        let device := match target with
          | none => fieldAt h 0 2
          | some c => claimHome c
        let m : InvokeMsg := { asid := s.asidOf g, claim := claim, lifetime := fieldAt h 4 4, launch := fieldAt h 8 8, retAddr := BitVec.ofNat 64 (fieldAt h 0x10 8),
                               retLen := fieldAt h 0x18 2, target := 0, args := args, weight := w, root := if w = 0 then none else s.rootOf g }
        let t := s.setClaim n { st := .pending, gen := gen, locDev := 0, cause := 0, loc := 0, expiry := 0, execDev := device, started := false, queue := [] }
        let t := t.modTeam g.team fun x => { x with weight := x.weight - w }
        let t := t.deliver p (g.leaveWait p.cur) (.scoreboard 0) (g.toAll p.cur.lanes (pairOf d claim))
        let t := if staging then
            let (id, t) := t.fresh
            t.stage p.gid g id none (.send device target m)
          else t.sendInvoke (s.launchIdOf g) device target m
        t.closeFor p.gid false

/-- An invocation (R154): a release at DOMAIN scope, the record, its rules, then the effect. -/
def invokeInstr (s : State) (d rec : Reg) (target : Option Reg) : Host.Outcome State Fault Refusal :=
  s.issue fun p g =>
    s.afterPerformed p g .domain true <|
      let s := s.publish g .domain
      let c := s.ctxOf p.gid g
      let ea := g.ureadPair s.cycle p.cur.lanes rec
      if ea.toNat % 8 ≠ 0 then s.trapAt p.gid p.cur .badInvoke p.cur.lanes ea
      else match s.recordBytes c true ea 8 32 with
        | .error x => s.stopped p g x
        | .ok h =>
            if !invokeOk h target.isNone then s.trapAt p.gid p.cur .badInvoke p.cur.lanes ea
            else match s.recordBytes c true (ea + 32) 8 (fieldAt h 2 2) with
              | .error x => s.stopped p g x
              | .ok args =>
                  let t := target.map fun r => g.ureadPair s.cycle p.cur.lanes r
                  match s.invokedTeams c.asid (s.weightOf g) t h with
                  | .error x => s.stopped p g x
                  | .ok teams => s.invokeWith p g d t h args teams
/-- R154. -/
def execGInvoke (d a : Reg) (s : State) : Host.Outcome State Fault Refusal := invokeInstr s d a none
/-- R154. -/
def execGInvokeh (d a b : Reg) (s : State) : Host.Outcome State Fault Refusal := invokeInstr s d b (some a)

/-! ## g.await and g.hstat (R146, R156, R157) -/

/-- The answer that has come for a tag. -/
def Group.wordFor (g : Group) (tag : Nat) : Option Word := (lookup g.answers tag).bind fun a => match a with
  | .word w => some w
  | .fail _ => none
  | .data _ _ => none
/-- The status of a claim as the group finds it now: from its own device, from the home's answer, or DEVICE_LOST where its home is no device of the domain; none while it is not known or PENDING. (DEDUCED: log entry 83.) -/
def State.settled (s : State) (g : Group) (c : DWord) (tag : Option Nat) : Option Word :=
  if claimHome c = s.fab.devNum then (if (s.claimView c).isPending then none else some (s.claimView c).word)
  else match tag.bind g.wordFor with
    | some w => some w
    | none => if s.unreachable (claimHome c) then some (ClaimView.broken Cause.deviceLost.code 0).word else none
/-- An await whose claim has settled: the word, or CLAIM_BROKEN. -/
def State.awaitOver (s : State) (p : Packet) (g : Group) (d : Reg) (trapping : Bool) (c : DWord) (w : Word) : State :=
  if trapping && (w.toNat / 2 ^ 28 == 2 || w.toNat / 2 ^ 28 == 3) then (s.setGroup p.gid g).trapAt p.gid p.cur .claimBroken p.cur.lanes c
  else s.answerWord p (g.leaveWait p.cur) [(d, w)]

/-- g.await (R157): its segment closes with a wait (R343); then it waits at a blocking point for the home's status. (DEDUCED: log entry 64.) -/
def awaitInstr (s : State) (trapping : Bool) (d a : Reg) : Host.Outcome State Fault Refusal :=
  s.issue fun p g =>
    let c := g.ureadPair s.cycle p.cur.lanes a
    match (g.waitOf p.cur.pc p.cur.place).bind fun w => w.kind.claimTag with
    | some tag => (match s.settled g c tag with
        | some w => s.awaitOver p { g with answers := g.answers.filter fun x => some x.1 != tag } d trapping c w
        | none => s.waitFor p g (.claim c trapping tag))
    | none =>
        s.afterPerformed p g .domain false <|
          let s := s.closeFor p.gid true
          match s.group? p.gid with
          | none => s
          | some g => match s.settled g c none with
            | some w => s.awaitOver p g d trapping c w
            | none =>
                if claimHome c = s.fab.devNum then s.waitFor p g (.claim c trapping none)
                else
                  let (tag, t) := s.takeTag
                  let t := t.sendMsg (claimHome c) tag (.claimmsg { claim := c, body := .status true s.fab.devNum tag })
                  s.blockHere p g (t.setGroup p.gid (g.enterWait s.cycle (.claim c trapping (some tag)) p.cur))
/-- R157. -/
def execGAwait (d a : Reg) (s : State) : Host.Outcome State Fault Refusal := awaitInstr s false d a
/-- R157. -/
def execGAwaitT (d a : Reg) (s : State) : Host.Outcome State Fault Refusal := awaitInstr s true d a

/-- A status asked of another device without a wait: its answer arrives as a scoreboarded result. -/
def State.askStatus (s : State) (p : Packet) (g : Group) (d : Reg) (c : DWord) : State :=
  let (tag, t) := s.request (claimHome c) (.claimmsg { claim := c, body := .status false s.fab.devNum s.openTag }) (.group p.gid) (s.launchIdOf g)
  let (id, t) := (t.finish p g).fresh
  t.addEntry p.gid { id := id, pc := p.cur.pc, lanes := p.cur.lanes, regs := [d], vals := [], due := s.cycle, kind := .answer tag, op := .nothing, rows := [], epoch := s.dev.qepoch }
/-- R157, R146: in a certified group as g.await. -/
def execGHstat (d a : Reg) (s : State) : Host.Outcome State Fault Refusal :=
  match s.issuing with
  | none => .refused .noIssuingGroup
  | some (p, g) =>
      if s.certified g then awaitInstr s false d a
      else
        let c := g.ureadPair s.cycle p.cur.lanes a
        if claimHome c = s.fab.devNum then .next (s.answerWord p g [(d, (s.claimView c).word)])
        else match s.settled g c none with
          | some w => .next (s.answerWord p g [(d, w)])
          | none => .next (s.askStatus p g d c)

/-! ## g.wsplit and g.wgive (R159, R160) -/

/-- R159. -/
def execGWsplit (a b : Reg) (s : State) : Host.Outcome State Fault Refusal :=
  s.issue fun p g =>
    let m := (g.ureadPair s.cycle p.cur.lanes a).toNat
    let c := g.ureadPair s.cycle p.cur.lanes b
    match s.rootOf g with
    | none => s.trapAt p.gid p.cur .weightLow p.cur.lanes 0
    | some root =>
        if m = 0 || decide (s.weightOf g ≤ m) then s.trapAt p.gid p.cur .weightLow p.cur.lanes 0
        else
          let l := s.launchIdOf g
          let t := (s.finish p g).modTeam g.team fun x => { x with weight := x.weight - m }
          if c = 0 || s.unreachable (claimHome c) then t.giveBack l (some root) m
          else (t.request (claimHome c) (.claimmsg { claim := c, body := .weight m root }) (.signal l) l).2

/-- The tag of a wait for a grant. -/
def WaitKind.grantTag (k : WaitKind) : Option Nat := match k with
  | .grant t => some t
  | .barrier _ _ | .queuePop _ | .queuePush _ | .tile _ _ | .stores | .remoteCheck _ | .claim _ _ _ | .launchStore _ _ | .token _ | .batch _ | .sealLimit | .fence _ _ | .cbuf _ _ | .phase _
  | .sweep _ | .table | .exit | .staging => none
/-- R160, R47. -/
def execGWgive (s : State) : Host.Outcome State Fault Refusal :=
  s.issue fun p g =>
    match (g.waitOf p.cur.pc p.cur.place).bind fun w => w.kind.grantTag with
    | some tag => (match g.wordFor tag with
        | none => s.waitFor p g (.grant tag)
        | some w =>
            let g := { g with answers := g.answers.filter fun x => x.1 != tag }
            if w = 0 then (s.setGroup p.gid g).trapAt p.gid p.cur .weightOverflow p.cur.lanes 0
            else (s.finish p (g.leaveWait p.cur)).modTeam g.team fun x => { x with weight := x.weight + 2 ^ 32 })
    | none => match s.rootOf g with
      | none => s.trapAt p.gid p.cur .weightLow p.cur.lanes 0
      | some root =>
          if s.weightOf g = 0 then s.trapAt p.gid p.cur .weightLow p.cur.lanes 0
          else
            let (tag, t) := s.request root.device (.signal (.borrow root s.fab.devNum s.openTag)) (.grant p.gid root) (s.launchIdOf g)
            s.blockHere p g (t.setGroup p.gid (g.enterWait s.cycle (.grant tag) p.cur))

/-! ## The home of a claim (R156, R158, R159, R458, R459) -/

/-- A message that needs no answer, to a device that can be reached. -/
def State.tell (s : State) (device : Nat) (m : FlitMsg) : State := if s.unreachable device then s else s.sendMsg device 0 m
/-- An invocation ended without a launch (R155, R158, R459): its claim breaks at its home, and its weight returns. (DEDUCED: log entry 83.) -/
def State.refuseInvoke (s : State) (m : InvokeMsg) (cause depth : Nat) : State :=
  (s.tell (claimHome m.claim) (.claimres (.broken m.claim cause (min depth 255)))).giveBack 0 m.root m.weight
/-- An invocation forwarded to where its target resolved (R155, R458); the home of its own claim learns where its launch will execute, which R473 asks of it. (DEDUCED: log entry 64.) -/
def State.forwardInvoke (s : State) (m : InvokeMsg) (device la : Nat) : State :=
  if s.unreachable device then s.refuseInvoke m Cause.deviceLost.code 0
  else (s.tell device (.invoke { m with target := fabricEa device la })).tell (claimHome m.claim) (.claimres (.sent m.claim device))
/-- Weight sent on to the launch of a claim, or to its root when that launch cannot be reached (R159). -/
def State.forwardWeight (s : State) (claim : DWord) (amount : Nat) (root : RootAddr) (device : Nat) : State :=
  if s.unreachable device then s.giveBack 0 (some root) amount else s.tell device (.signal (.toLaunch claim amount root))

/-- Does a message count among those queued (R459)? A held status request does not. -/
def countsQueued (b : ClaimBody) : Bool := match b with
  | .invoke _ => true
  | .weight _ _ => true
  | .status _ _ _ => false
/-- A message appended to a slot's queue (R458), or not when the queue is full (R459). -/
def State.queueClaim (s : State) (n : Nat) (b : ClaimBody) : Option State :=
  if countsQueued b && decide (Config.claimQueueCap ≤ s.fab.queued) then none
  else
    let x := s.claimAt n
    let s := s.setClaim n { x with queue := x.queue ++ [b] }
    some { s with fab := { s.fab with queued := s.fab.queued + (countsQueued b).toNat } }
/-- The queue of a slot taken. -/
def State.emptyClaim (s : State) (n : Nat) : List ClaimBody × State :=
  let x := s.claimAt n
  let s := s.setClaim n { x with queue := [] }
  (x.queue, { s with fab := { s.fab with queued := s.fab.queued - (x.queue.filter countsQueued).length } })

/-- A queued message when its claim has settled, or a message that finds it settled (R158, R159, R458). -/
def State.actSettled (s : State) (claim : DWord) (v : ClaimView) (b : ClaimBody) : State :=
  match b, v with
  | .invoke m, .resolved d la => s.forwardInvoke m d la
  | .invoke m, .broken cause depth => s.refuseInvoke m cause (depth + 1)
  | .invoke m, .stale => s.refuseInvoke m Cause.claimStale.code 0
  | .weight a root, .resolved d _ => s.forwardWeight claim a root d
  | .weight a root, .broken _ _ => s.giveBack 0 (some root) a
  | .weight a root, .stale => s.giveBack 0 (some root) a
  | .status _ dev tag, v => s.tell dev (.claimres (.answer tag v.word))
  | .invoke _, .pending _ => s
  | .weight _ _, .pending _ => s

/-- Is a message of a slot's queue an invocation? -/
def isInvocation (b : ClaimBody) : Bool := match b with
  | .invoke _ => true
  | .weight _ _ => false
  | .status _ _ _ => false
/-- A message to a claim that is PENDING (R458, R459): it joins the slot's queue. Weight waits there only while the launch has not started (R159), and behind the invocations before it, since messages go on in queue order (R458, R460). (DEDUCED: log entry 110.) -/
def State.actPending (s : State) (claim : DWord) (n : Nat) (b : ClaimBody) : State :=
  match b with
  | .invoke m => (s.queueClaim n b).getD (s.refuseInvoke m Cause.claimFull.code 0)
  | .weight a root =>
      if (s.claimAt n).started && !(s.claimAt n).queue.any isInvocation then s.forwardWeight claim a root (s.claimAt n).execDev
      else (s.queueClaim n b).getD (s.giveBack 0 (some root) a)
  | .status await dev tag => if await then (s.queueClaim n b).getD s else s.tell dev (.claimres (.answer tag (ClaimView.pending n).word))

/-- A message reaches the home of its claim (R457, R458). -/
def State.claimArrives (s : State) (claim : DWord) (b : ClaimBody) : State :=
  match s.claimView claim with
  | .pending n => s.actPending claim n b
  | .resolved d la => s.actSettled claim (.resolved d la) b
  | .broken c depth => s.actSettled claim (.broken c depth) b
  | .stale => s.actSettled claim .stale b

/-- A claim settles: its slot changes, and its queue is acted on in order before any later message (R458). -/
def State.settleClaim (s : State) (claim : DWord) (n : Nat) (x : ClaimSlot) : State :=
  let (q, s) := s.emptyClaim n
  let s := s.setClaim n { x with queue := [] }
  q.foldl (fun s b => s.actSettled claim (s.claimView claim) b) s
/-- A break reaches the home (R155, R158): only a PENDING claim breaks. -/
def State.breakClaim (s : State) (claim : DWord) (cause depth : Nat) : State :=
  match s.claimView claim with
  | .pending n => s.settleClaim claim n { s.claimAt n with st := .broken, cause := cause, loc := min depth 255 }
  | .resolved _ _ => s
  | .broken _ _ => s
  | .stale => s
/-- A resolution reaches the home (R155, R156). -/
def State.resolveClaim (s : State) (claim : DWord) (device la lifetime : Nat) : State :=
  match s.claimView claim with
  | .pending n => s.settleClaim claim n { s.claimAt n with st := .resolved, locDev := device, loc := la, expiry := s.timebase + lifetime }
  | .resolved _ _ => s
  | .broken _ _ => s
  | .stale => s
/-- The device to which the invocation of a claim has been sent on is where its launch executes; one that is already lost breaks the claim (R473). -/
def State.sendClaim (s : State) (claim : DWord) (device : Nat) : State :=
  match s.claimView claim with
  | .pending n =>
      if (s.claimAt n).started then s
      else if s.fab.lost.contains device then s.breakClaim claim Cause.deviceLost.code 0
      else s.setClaim n { s.claimAt n with execDev := device }
  | .resolved _ _ => s
  | .broken _ _ => s
  | .stale => s
/-- The start of a claim's launch reaches the home: weight that waits at the front of its queue goes on (R159, R458). A launch on a device that has been lost meanwhile breaks the claim (R473). (PRESUMED: log entry 36; DEDUCED: log entry 110.) -/
def State.startClaim (s : State) (claim : DWord) (device : Nat) : State :=
  match s.claimView claim with
  | .pending n =>
      if s.fab.lost.contains device then s.breakClaim claim Cause.deviceLost.code 0
      else
        let x := s.claimAt n
        let front := x.queue.takeWhile fun b => !isInvocation b
        let weights := front.filterMap fun b => match b with
          | .weight a r => some (a, r)
          | .invoke _ => none
          | .status _ _ _ => none
        let s := s.setClaim n { x with started := true, execDev := device, queue := (front.filter fun b => !countsQueued b) ++ x.queue.drop front.length }
        let s := { s with fab := { s.fab with queued := s.fab.queued - weights.length } }
        weights.foldl (fun s w => s.forwardWeight claim w.1 w.2 device) s
  | .resolved _ _ => s
  | .broken _ _ => s
  | .stale => s

/-- CLAIM_EXPIRE (R156): the slot becomes FREE, and the executing device is to release the parameter block. (PRESUMED: log entry 36.) -/
def execClaimExpire (slot : Nat) (s : State) : Host.Outcome State Fault Refusal :=
  let x := s.claimAt slot
  if x.st == .resolved && decide (x.expiry ≤ s.timebase) then
    .next ((s.setClaim slot { x with st := .free, locDev := 0, loc := 0, expiry := 0 }).tell x.locDev (.claimres (.expired (claimOf s.fab.devNum slot x.gen) x.loc)))
  else .refused .notEnabled

/-! ## The executing device (R155, R408) -/

/-- The claim of an invoked launch. -/
def Origin.claim? (o : Origin) : Option DWord := match o with
  | .invoked c _ _ _ _ => some c
  | .host => none
  | .device _ => none
  | .node _ _ => none
  | .recompute _ _ => none
/-- The launch that executes a claim. -/
def State.launchFor (s : State) (claim : DWord) : Option (Nat × Launch) := s.launches.find? fun l => l.2.origin.claim? == some claim

/-- The parameter block of an invoked launch (R155). -/
def invokeBlock (m : InvokeMsg) (params : Nat) : List Byte :=
  let b := bytesOfNat 8 m.claim.toNat ++ bytesOfNat 8 m.target.toNat ++ m.args
  b ++ List.replicate (params - b.length) 0
/-- An invocation enters the path on an entry (R155, R408, R417). -/
def State.enterInvoked (s : State) (m : InvokeMsg) (bs : List Byte) (k : Kernel) (entry : Nat) : State :=
  let (n, s) := s.buildBlock m.asid (invokeBlock m k.params)
  let r := { recordOf bs with params := blockLa n }
  let s := if r.graph then (s.giveBack 0 m.root m.weight).openRecord m.asid r else s
  let (weight, root) := s.openGraph m.asid r m.weight m.root
  let (_, s) := s.enterLaunch r k m.asid 0 (.invoked m.claim n m.retAddr m.retLen m.lifetime) (some entry) weight root 0
  s.tell (claimHome m.claim) (.claimres (.started m.claim s.fab.devNum))
/-- An invocation taken from its message: entered, broken, or none when it must wait for an entry or for the tile of its template. One whose weight is below its team count starts nothing (R417). (DEDUCED: log entry 86.) -/
def State.takeInvoke (s : State) (m : InvokeMsg) : Except State State :=
  match s.recordBytes (s.deviceCtx m.asid) false (localEa (m.launch % 2 ^ 46)) 64 64 with
  | .error (.bad _ _) => .ok (s.refuseInvoke m Cause.badInvoke.code 0)
  | .error (.wait k) => .error (s.meetTile (s.deviceCtx m.asid) k)
  | .error (.rebuild k) => .error ((s.dropTile k).meetTile (s.deviceCtx m.asid) k)
  | .ok bs =>
      if m.launch ≥ 2 ^ 46 then .ok (s.refuseInvoke m Cause.badInvoke.code 0)
      else match s.checkRecord m.asid bs with
        | .error _ => .ok (s.refuseInvoke m Cause.badInvoke.code 0)
        | .ok k =>
            if k.params < 0x10 + m.args.length then .ok (s.refuseInvoke m Cause.badInvoke.code 0)
            else if m.weight ≠ 0 ∧ !(recordOf bs).graph ∧ m.weight < (recordOf bs).teams then .ok (s.refuseInvoke m Cause.weightLow.code 0)
            else match s.ordinaryEntry 0 with
              | none => .error s
              | some e => .ok (s.enterInvoked m bs k e)
/-- An invocation reaches its device (R155, R408). -/
def State.invokeArrives (s : State) (m : InvokeMsg) : State :=
  if s.sched.invq.isEmpty then
    (match s.takeInvoke m with
    | .ok t => t
    | .error t => { t with sched := { t.sched with invq := [m] } })
  else if Config.invocationQueueCap ≤ s.sched.invq.length then s.refuseInvoke m Cause.claimFull.code 0
  else { s with sched := { s.sched with invq := s.sched.invq ++ [m] } }
/-- The invocation queue taken on, in arrival order, while its head can go on (R408). -/
def State.drainInvocations (s : State) : Nat → State
  | 0 => s
  | n + 1 => match s.sched.invq with
    | [] => s
    | m :: r => match s.takeInvoke m with
      | .ok t => ({ t with sched := { t.sched with invq := r } }).drainInvocations n
      | .error t => t
/-- The invocation queue after an entry or a tile has come free. -/
def State.feedInvocations (s : State) : State := s.drainInvocations s.sched.invq.length

/-- Weight reaches the launch of a claim (R159): its first team, or the launch while that team is not bound; the root when the launch has ended or is of another graph. (DEDUCED: log entry 48.) -/
def State.weightArrives (s : State) (claim : DWord) (amount : Nat) (root : RootAddr) : State :=
  match s.launchFor claim with
  | none => s.giveBack 0 (some root) amount
  | some (id, l) =>
      if l.st == .complete || l.st == .killed || l.cause.isSome || l.root != some root then s.giveBack 0 (some root) amount
      else match s.teams.find? fun t => t.2.teamId == 0 && s.launchIdOfTeam t.2 == id with
        | some (k, t) => if t.ended then s.giveBack 0 (some root) amount else s.setTeam k { t with weight := t.weight + amount }
        | none => s.setLaunch id { l with extra := l.extra + amount }

/-! ## The root of a graph (R46, R47, R426) -/

/-- The 64-bit field of the record of a root. -/
def State.rootField (s : State) (r : RootAddr) (off : Nat) : Nat := natOfBytes (s.readLocal r.asid (r.la + off) 8)
/-- HELD and DEBT after a change: GDONE is set in the same step when HELD − DEBT is 2^62. -/
def State.setRoot (s : State) (r : RootAddr) (held debt : Nat) : State :=
  let s := (s.writeLocal r.asid (r.la + 0x10) (bytesOfNat 8 held)).writeLocal r.asid (r.la + 0x18) (bytesOfNat 8 debt)
  if held = debt + 2 ^ 62 then
    let w := natOfBytes (s.readLocal r.asid r.la 4)
    s.writeLocal r.asid r.la (bytesOfNat 4 (w ||| 2 ^ 30))
  else s
/-- Weight returns to a root on this device. -/
def State.rootTakes (s : State) (r : RootAddr) (amount : Nat) : State := s.setRoot r (s.rootField r 0x10 + amount) (s.rootField r 0x18)
/-- A root on this device lends, unless DEBT would exceed 2^62 (R47). -/
def State.rootLends (s : State) (r : RootAddr) : Option State :=
  let debt := s.rootField r 0x18 + 2 ^ 32
  if 2 ^ 62 < debt then none else some (s.setRoot r (s.rootField r 0x10) debt)

end Sys2Proof.Machine
end

