-- ==== Sys2Proof/Machine/EnginePosts.lean ====
section
/-! DEFINITION. Posting a command to an engine (R258 to R261): the rules of every parameter block, and the instructions mm., bs., srt. and trv. that post (R267 to R273, R279 to R281, R288, R301 to R305). -/
namespace Sys2Proof.Machine

/-! ## Rules of fields -/

/-- Are n bytes of a block from an offset zero? -/
def zeroes (b : List Byte) (off n : Nat) : Bool := ((b.drop off).take n).all (· == 0)
/-- Is a field between two bounds? -/
def within (x lo hi : Nat) : Bool := decide (lo ≤ x) && decide (x ≤ hi)
/-- An address of a block that must be a scratchpad or a local address, aligned. -/
def State.addrOk (s : State) (align ea : Nat) : Bool :=
  ea % align == 0 && (match s.target (BitVec.ofNat 64 ea) with
    | some (.scratch _) => true
    | some (.here _) => true
    | some (.remote _ _) => false
    | none => false)
/-- An address of a block that must be a local address of this device, aligned. -/
def State.localOk (s : State) (align ea : Nat) : Bool :=
  ea % align == 0 && (match s.target (BitVec.ofNat 64 ea) with
    | some (.here _) => true
    | some (.scratch _) => false
    | some (.remote _ _) => false
    | none => false)

/-! ## Operand descriptors (R267 to R269) -/

/-- An operand descriptor (R267). -/
structure Operand where
  addr : DWord
  xaddr : DWord
  maddr : DWord
  pitch : Nat
  xpitch : Nat
  fmt : Nat
  trans : Bool
  sparse : Bool
  deriving DecidableEq, Repr

/-- The descriptor at an offset of a block. -/
def operandAt (b : List Byte) (off : Nat) : Operand :=
  { addr := BitVec.ofNat 64 (fieldAt b off 8), xaddr := BitVec.ofNat 64 (fieldAt b (off + 8) 8), maddr := BitVec.ofNat 64 (fieldAt b (off + 0x10) 8),
    pitch := fieldAt b (off + 0x18) 4, xpitch := fieldAt b (off + 0x1C) 2, fmt := fieldAt b (off + 0x1E) 1,
    trans := fieldAt b (off + 0x1F) 1 % 2 == 1, sparse := fieldAt b (off + 0x1F) 1 / 2 % 2 == 1 }
/-- Bytes of an element; BQ4 keeps two codes in a byte (R268). -/
def fmtBytes (fmt : Nat) : Nat := if fmt ≤ 1 then 2 else 1
/-- P of a format (R268). -/
def fmtDepth (fmt : Nat) : Nat := if fmt ≤ 1 then 32 else if fmt = 4 then 128 else 64
/-- Do two formats pair (R268)? -/
def fmtsPair (a b : Nat) : Bool := a == b || ((a == 2 || a == 3) && (b == 2 || b == 3))
/-- The rules of R267 on a descriptor. -/
def State.operandOk (s : State) (b : List Byte) (off : Nat) (isB : Bool) : Bool :=
  let o := operandAt b off
  let align := if o.fmt = 4 then 16 else fmtBytes o.fmt
  decide (o.fmt ≤ 5) && decide (fieldAt b (off + 0x1F) 1 ≤ 3) && (isB || !o.sparse) && !(o.trans && o.fmt == 4) && !(o.sparse && o.trans)
    && s.addrOk align o.addr.toNat && o.pitch % align == 0
    && (if o.fmt = 4 then s.addrOk 2 o.xaddr.toNat && o.xpitch % 2 == 0 else o.xaddr == 0 && o.xpitch == 0)
    && (if o.sparse then s.addrOk 4 o.maddr.toNat else o.maddr == 0)

/-- Number of 32-wide tiles of a length. -/
def tiles32 (n : Nat) : Nat := (n + 31) / 32

/-! ## The rules of each block -/

/-- R271; RELEASE ignores the descriptor, and with it the depth that bounds K: at most 256, the largest of any format. (DEDUCED: log entry 47.) -/
def State.ldwOk (s : State) (b : List Byte) : Bool :=
  let o := operandAt b 0x10
  let k := fieldAt b 0x32 2
  decide (fieldAt b 0x30 1 ≤ 3) && decide (fieldAt b 0x31 1 ≤ 1) && zeroes b 0x36 10
    && within (fieldAt b 0x34 2) 1 32 && (if fieldAt b 0x31 1 = 1 then within k 1 256
        else s.operandOk b 0x10 true && within k 1 (if o.sparse then 2 * fmtDepth o.fmt else fmtDepth o.fmt) && (!o.sparse || k % 4 == 0))
/-- R272. -/
def swapwOk (b : List Byte) : Bool := decide (fieldAt b 0x10 1 ≤ 3) && zeroes b 0x11 15
/-- R273, R268. (DEDUCED: log entry 47.) -/
def State.runOk (s : State) (b : List Byte) : Bool :=
  let a := operandAt b 0x10
  let o := operandAt b 0x30
  let m := fieldAt b 0x50 4
  let n := fieldAt b 0x54 4
  let k := fieldAt b 0x58 4
  let flags := fieldAt b 0x5E 1
  s.operandOk b 0x10 false && decide (flags ≤ 3) && within m 1 8192 && within n 1 8192 && within k 1 (2 ^ 20) && decide (fieldAt b 0x5C 2 + tiles32 m * tiles32 n ≤ 256)
    && (if flags / 2 = 1 then zeroes b 0x30 32 && decide (n ≤ 32) && decide (k ≤ fmtDepth a.fmt) && decide (fieldAt b 0x5F 1 ≤ 3)
        else s.operandOk b 0x30 true && fmtsPair a.fmt o.fmt && fieldAt b 0x5F 1 == 0 && (!o.sparse || k % 4 == 0))
/-- R279. -/
def swapaccOk (b : List Byte) : Bool :=
  within (fieldAt b 0x12 2) 1 256 && decide (fieldAt b 0x10 2 + fieldAt b 0x12 2 ≤ 256) && decide (fieldAt b 0x14 1 ≤ 1) && zeroes b 0x15 11
/-- Bytes of FMTX (R280). -/
def xBytes (b : List Byte) : Nat := if fieldAt b 0x20 1 = 0 then 4 else 2
/-- R280; CLRF is of mm.accrd only. -/
def State.accOk (s : State) (b : List Byte) (rd : Bool) : Bool :=
  let e := xBytes b
  decide (fieldAt b 0x20 1 ≤ 2) && s.addrOk e (fieldAt b 0x10 8) && fieldAt b 0x18 4 % e == 0 && decide (32 * e ≤ fieldAt b 0x18 4)
    && within (fieldAt b 0x1E 2) 1 256 && decide (fieldAt b 0x1C 2 + fieldAt b 0x1E 2 ≤ 256) && decide (fieldAt b 0x21 1 ≤ (if rd then 1 else 0)) && zeroes b 0x22 2 && zeroes b 0x28 24
/-- KIND of a drain. -/
def drKind (b : List Byte) : Nat := fieldAt b 0x10 1
/-- SPARSE of a drain. -/
def drSparse (b : List Byte) : Bool := fieldAt b 0x11 1 / 2 % 2 == 1
/-- ROWS of a drain. -/
def drRows (b : List Byte) : Bool := fieldAt b 0x11 1 / 4 % 2 == 1
/-- A plane address: a local address aligned to its element size when it is present, else 0. -/
def State.planeOk (s : State) (present : Bool) (align ea : Nat) : Bool := if present then ea != 0 && s.localOk align ea else ea == 0
/-- R281; mm.regrow needs SPARSE and ignores KIND, ROWS, ZERO and the slots (R287), so the moment planes it names are those present. -/
def State.drainOk (s : State) (b : List Byte) (regrow : Bool) : Bool :=
  let e := if fieldAt b 0x12 1 = 0 then 4 else 2
  decide (fieldAt b 0x12 1 ≤ 1) && zeroes b 0x13 1 && zeroes b 0x5C 4 && zeroes b 0x7C 4 && decide (fieldAt b 0x11 1 ≤ 7)
    && s.localOk e (fieldAt b 0x18 8) && fieldAt b 0x50 4 % e == 0 && fieldAt b 0x54 4 % 8 == 0 && fieldAt b 0x58 4 % 4 == 0
    && s.planeOk (drSparse b) 4 (fieldAt b 0x30 8) && s.planeOk (drSparse b) 4 (fieldAt b 0x38 8)
    && (if regrow then
          drSparse b && within (fieldAt b 0x16 2) 1 256 && s.planeOk (fieldAt b 0x20 8 != 0) 8 (fieldAt b 0x20 8) && s.planeOk (fieldAt b 0x28 8 != 0) 8 (fieldAt b 0x28 8)
        else
          decide (drKind b ≤ 2) && within (fieldAt b 0x16 2) 1 256 && decide (fieldAt b 0x14 2 + fieldAt b 0x16 2 ≤ 256)
            && s.planeOk (drKind b != 0) 8 (fieldAt b 0x20 8) && s.planeOk (drKind b == 2) 8 (fieldAt b 0x28 8) && s.planeOk (drRows b) 4 (fieldAt b 0x40 8))

/-- Bytes of an element of PREC (R288). -/
def precBytes (b : List Byte) : Nat := if fieldAt b 0x10 1 = 0 then 4 else 8
/-- R288. -/
def State.batchOk (s : State) (k : EngineKind) (b : List Byte) : Bool :=
  let mode := fieldAt b 0x11 1
  let pgs := k == .bsPgs
  decide (fieldAt b 0x10 1 ≤ 1) && zeroes b 0x12 2 && within (fieldAt b 0x14 4) 1 65536 && s.addrOk 64 (fieldAt b 0x18 8) && zeroes b 0x30 16
    && (if k == .bsTrsv then decide (mode ≤ 3) else if k == .bsBack then decide (mode ≤ 1) else mode == 0)
    && (if pgs then within (fieldAt b 0x20 4) 1 65535 else fieldAt b 0x20 4 == 0)
    && (pgs || k == .bsLu || fieldAt b 0x24 4 == 0) && (pgs || fieldAt b 0x28 8 == 0)
    && (k != .bsAsm || (fieldAt b 0x40 8 % 32 == 0 && decide (fieldAt b 0x48 4 ≤ 2 ^ 24) && fieldAt b 0x50 8 % (16 * precBytes b) == 0
        && within (fieldAt b 0x58 4) 1 65535 && zeroes b 0x5C 4))
/-- R301. -/
def sortOk (b : List Byte) : Bool :=
  fieldAt b 0x18 8 % 4 == 0 && within (fieldAt b 0x20 4) 1 (2 ^ 24) && decide (fieldAt b 0x24 1 ≤ 2) && decide (fieldAt b 0x25 1 ≤ 1) && zeroes b 0x26 10
/-- R302. -/
def pairsOk (b : List Byte) : Bool :=
  within (fieldAt b 0x18 4) 1 65535 && decide (fieldAt b 0x1C 1 ≤ 2) && decide (fieldAt b 0x1D 1 ≤ 1) && zeroes b 0x1E 2 && zeroes b 0x2C 4
/-- R304. -/
def buildOk (b : List Byte) : Bool := within (fieldAt b 0x1C 4) 1 65535 && fieldAt b 0x20 8 % 32 == 0 && zeroes b 0x28 8
/-- R305. -/
def queryOk (b : List Byte) : Bool := zeroes b 0x3C 4

/-- Bytes of the block of each command (R258). -/
def blockBytes (k : EngineKind) : Nat :=
  match k with
  | .mmLdw | .mmAccrd | .mmAccwr | .bsLu | .bsLdl | .bsTrsv | .bsPgs | .bsBack | .trvQuery => 64
  | .mmSwapw | .mmSwapacc | .phaseRegroup | .phaseRestore => 32
  | .mmRun | .bsAsm => 96
  | .mmDrain | .mmRegrow => 128
  | .srtKeys | .srtPairs | .trvBuild => 48
  | .collPost => 80

/-- Does the block keep the rules of its table (R259)? The rules of phase commands and collectives are checked where they are posted. -/
def State.blockOk (s : State) (k : EngineKind) (b : List Byte) : Bool :=
  match k with
  | .mmLdw => s.ldwOk b
  | .mmSwapw => swapwOk b
  | .mmRun => s.runOk b
  | .mmSwapacc => swapaccOk b
  | .mmAccrd => s.accOk b true
  | .mmAccwr => s.accOk b false
  | .mmDrain => s.drainOk b false
  | .mmRegrow => s.drainOk b true
  | .bsAsm | .bsLu | .bsLdl | .bsTrsv | .bsPgs | .bsBack => s.batchOk k b
  | .srtKeys => sortOk b
  | .srtPairs => pairsOk b
  | .trvBuild => buildOk b
  | .trvQuery => queryOk b
  | .phaseRegroup | .phaseRestore | .collPost => true

/-! ## Queues named by a block (R303) -/

/-- The queue descriptor a block names: whether it is pushed to, and its address. -/
def blockQueue (k : EngineKind) (b : List Byte) : Option (Bool × DWord) :=
  match k with
  | .srtPairs => some (true, BitVec.ofNat 64 (fieldAt b 0x20 8))
  | .trvQuery => some (false, BitVec.ofNat 64 (fieldAt b 0x10 8))
  | .mmLdw | .mmSwapw | .mmRun | .mmSwapacc | .mmAccrd | .mmAccwr | .mmDrain | .mmRegrow | .bsAsm | .bsLu | .bsLdl | .bsTrsv | .bsPgs | .bsBack
  | .srtKeys | .trvBuild | .phaseRegroup | .phaseRestore | .collPost => none
/-- The check of that descriptor as a lane's (R303): the lane's cause, or nothing. -/
def State.queueFault (s : State) (c : Ctx) (g : Group) (k : EngineKind) (b : List Byte) : Option (Cause × DWord) :=
  match blockQueue k b with
  | none => none
  | some (push, ea) => match s.queueAt c push ea with
    | .error (.cause x a) => some (x, a)
    | .error (.tile _ _) => none
    | .ok q => if push then none else (((s.flushQueue c q).foreign c (((s.teamOf g).map (·.btag)).getD 0) [(0, q)]).head?).map (·.2)
/-- The tile that the check of that descriptor waits for. -/
def State.queueBlocked (s : State) (c : Ctx) (k : EngineKind) (b : List Byte) : Option (Nat × Bool) :=
  match blockQueue k b with
  | none => none
  | some (push, ea) => match s.queueAt c push ea with
    | .error (.tile n drop) => some (n, drop)
    | .error (.cause _ _) => none
    | .ok _ => none
/-- A queue that a command pops is bound at issue (R303). -/
def State.bindFor (s : State) (c : Ctx) (team : Nat) (k : EngineKind) (b : List Byte) : State :=
  match blockQueue k b with
  | none => s
  | some (push, ea) => if push then s else match s.queueAt c push ea with
    | .error _ => s
    | .ok q => s.bindQueue c team q

/-! ## Entering the table (R260, R261) -/

/-- The work items of a command: output tiles (R273), batch items (R288), ranges of keys and their merges (R431), the one item of a pair search. -/
def itemCount (k : EngineKind) (b : List Byte) : Nat :=
  match k with
  | .mmRun => tiles32 (fieldAt b 0x50 4) * tiles32 (fieldAt b 0x54 4)
  | .bsAsm | .bsLu | .bsLdl | .bsTrsv | .bsPgs | .bsBack => fieldAt b 0x14 4
  | .srtKeys => 2 * ((fieldAt b 0x20 4 + 4095) / 4096) - 1
  | .srtPairs => 1
  | .mmLdw | .mmSwapw | .mmSwapacc | .mmAccrd | .mmAccwr | .mmDrain | .mmRegrow | .trvBuild | .trvQuery | .phaseRegroup | .phaseRestore | .collPost => 0
/-- Cycles before which a command that has no items does not complete (R427, R379): for a drain with ROWS only its start, since skipped elements take none. (DEDUCED: log entry 12.) -/
def cmdCycles (k : EngineKind) (b : List Byte) : Nat :=
  match k with
  | .mmDrain => if fieldAt b 0x11 1 / 4 % 2 = 1 then 64 else 64 + 64 * fieldAt b 0x16 2
  | .mmRegrow => 64 + 64 * fieldAt b 0x16 2
  | .trvBuild | .trvQuery => 100
  | .mmAccrd | .mmAccwr => 32 * fieldAt b 0x1E 2
  | .mmLdw | .mmSwapw | .mmSwapacc | .mmRun | .bsAsm | .bsLu | .bsLdl | .bsTrsv | .bsPgs | .bsBack | .srtKeys | .srtPairs | .phaseRegroup | .phaseRestore | .collPost => 1

/-- Entries of a core's table in use: its commands, and its groups that a phase command holds (R261). -/
def State.tableUse (s : State) (core : Nat) : Nat :=
  (s.eng.cmds.filter fun c => c.2.core == core).length + ((s.teams.flatMap fun t => t.2.arrived).filter fun a => ((s.group? a.1).map (·.core)) == some core).length
/-- A command that enters the table. -/
def State.addCmd (s : State) (g : Group) (gid : Nat) (k : EngineKind) (t : Option Token) (lane : Option Nat) (ea : DWord) (b : List Byte) : Nat × State :=
  let (id, s) := s.fresh
  let c : Cmd :=
    { kind := k, gid := gid, team := g.team, launch := s.launchIdOf g, core := g.core, token := t, blockEa := ea, block := b, asid := s.asidOf g, cert := s.certified g,
      order := id, posted := s.timebase, items := List.range (itemCount k b), results := [], dueAt := s.cycle + cmdCycles k b, started := false, datums := [],
      outbuf := [], inbuf := [], gate := .ready, tile := none, tileFail := none, epoch := s.dev.qepoch, lane := lane }
  (id, { s with eng := { s.eng with cmds := s.eng.cmds ++ [(id, c)] } })
def State.cmd? (s : State) (id : Nat) : Option Cmd := lookup s.eng.cmds id
def State.setCmd (s : State) (id : Nat) (c : Cmd) : State := { s with eng := { s.eng with cmds := put s.eng.cmds id c } }

/-! ## Benches (R270, R428) -/

/-- The cluster of a core (R2, R411). -/
def clusterOf (core : Nat) : Nat := core / 4
/-- A cluster's benches; one never used has its pointer at 0. -/
def State.cluster (s : State) (n : Nat) : Cluster := (lookup s.eng.clusters n).getD { dealPtr := 0, shares := [], busy := [] }
def State.setCluster (s : State) (n : Nat) (c : Cluster) : State := { s with eng := { s.eng with clusters := put s.eng.clusters n c } }
/-- The cluster of a team. -/
def Team.cluster (t : Team) : Nat := clusterOf (t.cores.headD 0)
/-- The clusters where the handles of a team bind: that of its cores; of one that was killed while it was swapped out, those of its commands, which run to their end (R265). -/
def State.clustersOf (s : State) (tid : Nat) (t : Team) : List Nat :=
  if !t.cores.isEmpty then [t.cluster]
  else if t.ended then (s.eng.cmds.filterMap fun c => if c.2.team == tid then some (clusterOf c.2.core) else none).eraseDups
  else []
/-- The benches of a cluster that handles bind, with the team and handle. -/
def State.boundBenches (s : State) (cl : Nat) : List (Nat × Nat × Nat) :=
  s.teams.flatMap fun t => if (s.clustersOf t.1 t.2).contains cl then (t.2.handles.zipIdx.filterMap fun h => if h.1.bound then some (h.1.bench, t.1, h.2) else none) else []
/-- Handles that a gang's teams hold, those it keeps while it is swapped out among them (R270, R371). -/
def State.heldHandles (s : State) (k : Gang) : Nat := ((k.teams.filterMap s.team?).map fun t => (t.handles.filter (·.bound)).length).sum
/-- Is the bench bound by a handle? -/
def State.benchBound (s : State) (cl b : Nat) : Bool := (s.boundBenches cl).any fun x => x.1 == b
/-- The items dealt to a bench and not started. -/
def Cluster.share (c : Cluster) (b : Nat) : List (Nat × Nat) := (lookup c.shares b).getD []
/-- Is the bench between items? -/
def State.benchIdle (s : State) (cl b : Nat) : Bool := decide (((lookup (s.cluster cl).busy b).getD 0) ≤ s.cycle)
/-- The benches free and unbound at this moment (R428). -/
def State.freeBenches (s : State) (cl : Nat) : List Nat :=
  (List.range 16).filter fun b => s.benchIdle cl b && ((s.cluster cl).share b).isEmpty && !s.benchBound cl b
/-- Items dealt to benches in ascending number, cyclically, from the pointer (R428). -/
def dealItems (free : List Nat) : List (Nat × Nat) → Cluster → Cluster
  | [], c => c
  | x :: r, c =>
      let b := ((free.find? fun b => decide (c.dealPtr ≤ b)).getD (free.headD 0))
      dealItems free r { c with dealPtr := (b + 1) % 16, shares := put c.shares b (c.share b ++ [x]) }
/-- The deal when a streamed pass enters the table. -/
def State.deal (s : State) (id : Nat) (c : Cmd) : State :=
  let cl := clusterOf c.core
  let free := s.freeBenches cl
  if c.kind != .mmRun || fieldAt c.block 0x5E 1 / 2 = 1 || free.isEmpty then s
  else s.setCluster cl (dealItems free (c.items.map fun i => (id, i)) (s.cluster cl))

/-! ## Posting (R259, R260) -/

/-- One lane's block read and checked. -/
def State.readBlock (s : State) (c : Ctx) (g : Group) (k : EngineKind) (ea : DWord) : Except (Cause × DWord) (List Byte) :=
  match s.descriptor c ea 64 (blockBytes k) with
  | .error x => .error (x, ea)
  | .ok b =>
      if !s.blockOk k b then .error (.badDescriptor, ea)
      else match s.queueFault c g k b with
        | some e => .error e
        | none => .ok b
/-- The blocks of the active lanes, or the failing lanes. -/
def State.laneBlocks (s : State) (p : Packet) (g : Group) (a : Reg) (read : DWord → Except (Cause × DWord) (List Byte)) :
    Except (Cause × LaneMask × DWord) (List (DWord × List Byte)) :=
  let rs := (g.list p.cur.lanes).map fun i => (i, g.readPair s.cycle i a, read (g.readPair s.cycle i a))
  let bad := rs.filterMap fun x => match x.2.2 with
    | .error e => some (x.1, e)
    | .ok _ => none
  match worst bad with
  | some e => .error e
  | none => .ok (rs.filterMap fun x => match x.2.2 with
      | .error _ => none
      | .ok b => some (x.2.1, b))
/-- Commands posted in ascending lane index (R260). -/
def State.postAllCmds (s : State) (g : Group) (gid : Nat) (k : EngineKind) (t : Option Token) : List (Nat × DWord × List Byte) → State
  | [] => s
  | (i, ea, b) :: r =>
      let s := s.bindFor (s.ctxOf gid g) g.team k b
      let (id, s) := s.addCmd g gid k t (some i) ea b
      let s := match s.cmd? id with
        | some c => s.deal id c
        | none => s
      s.postAllCmds g gid k t r

/-- A posting instruction (R259 to R261). (DESIGN CHOICE: log entry 93.) -/
def postInstr (s : State) (k : EngineKind) (a : Reg) (t : Token) : Host.Outcome State Fault Refusal :=
  s.issue fun p g =>
    let c := s.ctxAt p g
    match s.laneBlocks p g a (s.readBlock c g k) with
    | .error (x, m, ea) => s.trapAt p.gid p.cur x m ea
    | .ok bs => match bs.findSome? fun b => s.queueBlocked c k b.2 with
      | some (n, drop) => s.tileWaits p g c n drop
      | none =>
        if (g.token t).st == .busy then s.trapAt p.gid p.cur .tokenBusy p.cur.lanes 0
        else if Config.tableEntries < s.tableUse g.core + bs.length then s.setGroup p.gid (g.enterWait s.cycle .table p.cur)
        else (s.finish p ((g.leaveWait p.cur).startToken t bs.length)).postAllCmds g p.gid k (some t) ((g.list p.cur.lanes).zip bs)

/-- R271. -/
def execMmLdw (a : Reg) (k : Token) (s : State) : Host.Outcome State Fault Refusal := postInstr s .mmLdw a k
/-- R272. -/
def execMmSwapw (a : Reg) (k : Token) (s : State) : Host.Outcome State Fault Refusal := postInstr s .mmSwapw a k
/-- R273. -/
def execMmRun (a : Reg) (k : Token) (s : State) : Host.Outcome State Fault Refusal := postInstr s .mmRun a k
/-- R279. -/
def execMmSwapacc (a : Reg) (k : Token) (s : State) : Host.Outcome State Fault Refusal := postInstr s .mmSwapacc a k
/-- R280. -/
def execMmAccrd (a : Reg) (k : Token) (s : State) : Host.Outcome State Fault Refusal := postInstr s .mmAccrd a k
/-- R280. -/
def execMmAccwr (a : Reg) (k : Token) (s : State) : Host.Outcome State Fault Refusal := postInstr s .mmAccwr a k
/-- R281. -/
def execMmDrain (a : Reg) (k : Token) (s : State) : Host.Outcome State Fault Refusal := postInstr s .mmDrain a k
/-- R287. -/
def execMmRegrow (a : Reg) (k : Token) (s : State) : Host.Outcome State Fault Refusal := postInstr s .mmRegrow a k
/-- R288, R292. -/
def execBsAsm (a : Reg) (k : Token) (s : State) : Host.Outcome State Fault Refusal := postInstr s .bsAsm a k
/-- R288, R294. -/
def execBsLu (a : Reg) (k : Token) (s : State) : Host.Outcome State Fault Refusal := postInstr s .bsLu a k
/-- R288, R295. -/
def execBsLdl (a : Reg) (k : Token) (s : State) : Host.Outcome State Fault Refusal := postInstr s .bsLdl a k
/-- R288, R296. -/
def execBsTrsv (a : Reg) (k : Token) (s : State) : Host.Outcome State Fault Refusal := postInstr s .bsTrsv a k
/-- R288, R298. -/
def execBsPgs (a : Reg) (k : Token) (s : State) : Host.Outcome State Fault Refusal := postInstr s .bsPgs a k
/-- R288, R297. -/
def execBsBack (a : Reg) (k : Token) (s : State) : Host.Outcome State Fault Refusal := postInstr s .bsBack a k
/-- R301. -/
def execSrtKeys (a : Reg) (k : Token) (s : State) : Host.Outcome State Fault Refusal := postInstr s .srtKeys a k
/-- R302, R303. -/
def execSrtPairs (a : Reg) (k : Token) (s : State) : Host.Outcome State Fault Refusal := postInstr s .srtPairs a k
/-- R304. -/
def execTrvBuild (a : Reg) (k : Token) (s : State) : Host.Outcome State Fault Refusal := postInstr s .trvBuild a k
/-- R305, R303. -/
def execTrvQuery (a : Reg) (k : Token) (s : State) : Host.Outcome State Fault Refusal := postInstr s .trvQuery a k

/-! ## bs.stat (R299) -/

/-- The check of an item record (R299, R218). -/
def State.itemCheck (s : State) (c : Ctx) (ea : DWord) : Checked :=
  match s.target ea with
  | none => .bad .addrRange
  | some (.remote _ _) => .bad .addrRange
  | some (.scratch _) | some (.here _) => if ea.toNat % 64 ≠ 0 then .bad .misalignedData else s.checkBytes c false ea 64
/-- R299: each active lane's value arrives once no outstanding command of the team names its item. -/
def execBsStat (d a : Reg) (s : State) : Host.Outcome State Fault Refusal :=
  s.issue fun p g =>
    let c := s.ctxOf p.gid g
    let named := (g.list p.cur.lanes).map fun i => (i, g.readPair s.cycle i a, s.itemCheck c (g.readPair s.cycle i a))
    let bad := named.filterMap fun x => match x.2.2 with
      | .bad e => some (x.1, e, x.2.1)
      | .ok _ => none
      | .remote _ _ => none
    match worst bad with
    | some (k, m, ea) => s.trapAt p.gid p.cur k m ea
    | none =>
        let rows := named.filterMap fun x => match x.2.2 with
          | .ok pl => some (rowAt x.1 pl [] false)
          | .bad _ => none
          | .remote _ _ => none
        let (id, s) := (s.finish p g).fresh
        s.addEntry p.gid { id := id, pc := p.cur.pc, lanes := p.cur.lanes, regs := [d], vals := [], due := s.cycle + 16, kind := .stat, op := .stat, rows := rows, epoch := s.dev.qepoch }

end Sys2Proof.Machine
end

