-- ==== Sys2Proof/Machine/EngineMemory.lean ====
section
/-! DEFINITION. The accesses of engine commands (R264, R265, R320): reads and writes as raw bytes with the checks of R218, waits for tiles, and the arithmetic flags a command gathers (R266). -/
namespace Sys2Proof.Machine

/-- Why a command's work stops: a fault with its status, FADDR and DETAIL, or a tile that is not VALID (to be dropped first when its line failed its check). -/
inductive EngStop where
  | fault (code : EngStatus) (faddr : DWord) (detail : Nat)
  | wait (tile : Nat) (rebuild : Bool)
  deriving DecidableEq, Repr

/-- The work of a command: what it has written stays when it faults; a wait starts the work over (Machine.State.engineRun). -/
abbrev EngM := EStateM EngStop State

/-- Under what identity a command works, and the tile whose build has failed, with its status. -/
structure Env where
  ctx : Ctx
  fail : Option (Nat × EngStatus)
  deriving DecidableEq, Repr

/-- The identity of a command's accesses: its posting team's, after the accesses that precede the posting instruction (R320), under the epoch of the moment (R339). Once the team has ended or left its core it keeps nothing in an L1 (R426). -/
def State.cmdCtx (s : State) (c : Cmd) : Ctx :=
  { asid := c.asid, tag := s.dev.qepoch, team := some c.team, core := if ((s.team? c.team).map fun t => !t.ended && t.cores.contains c.core).getD false then some c.core else none, gid := some c.gid, launch := c.launch, hnd := false,
    own := (s.launch? c.launch).bind (·.origin.tile?), upTo := some c.order }
def State.cmdEnv (s : State) (c : Cmd) : Env := { ctx := s.cmdCtx c, fail := c.tileFail }

/-- The engine status of a cause that a check of R218 finds (R264). -/
def engCode (c : Cause) : EngStatus :=
  match c with
  | .windowRange => .windowRange
  | .pageFault => .pageFault
  | .formatMismatch => .formatMismatch
  | .writeShared => .writeShared
  | .pinnedWrite => .pinnedWrite
  | .barrierClobber => .barrierClobber
  | .check => .check
  | .recipeMiss => .recipeMiss
  | .recipeDepth => .recipeDepth
  | .badBlock => .badBlock
  | .decayRange => .decayRange
  | .addrRange | .misalignedData | .illegal | .misalignedPc | .pcRange | .extEmu | .budget | .stallShort | .fpExc | .software | .tokenBusy | .batchRange
  | .rejoinStall | .badBarrier | .barrierOrder | .badDescriptor | .cbufRange | .queueRange | .queueOwner | .badBucket
  | .recipePage | .badRecipe | .recipeBusy | .pinRange | .phaseSplit | .weightLow | .weightOverflow | .stepSpanning
  | .stepSweepDue | .badInvoke | .claimFull | .claimBroken | .doubleTrap | .overrun | .killed | .deviceLost | .claimStale => .addrRange

/-- A fault of a command. -/
def engFault {α : Type} (code : EngStatus) (faddr : DWord) : EngM α := throw (.fault code faddr 0)

/-- A checked place of n bytes; a tile that must be waited for stops the work, or ends it when its build has failed. -/
def engPlace (v : Env) (writes : Bool) (ea : DWord) (n : Nat) : EngM Place := do
  let s ← get
  match s.checkBytes v.ctx writes ea n with
  | .bad c => engFault (engCode c) ea
  | .remote _ _ => engFault .addrRange ea
  | .ok p =>
      if s.mustWait v.ctx p.tile then
        match v.fail, p.tile with
        | some (k, code), some t => if k = t then engFault code ea else throw (.wait t false)
        | none, some t => throw (.wait t false)
        | _, none => pure p
      else pure p
/-- A piece within one line read. -/
def engPiece (v : Env) (ea : DWord) (n : Nat) : EngM (List Byte) := do
  let p ← engPlace v false ea n
  let s ← get
  if s.lineFails v.ctx.core p.loc n then
    match p.tile with
    | none => engFault .check ea
    | some k => if (s.tile k).record.isSome then throw (.wait k true) else engFault .check ea
  else pure (s.view v.ctx (attrPrivate p.attr && stagedPlace p.loc) p.loc n)
/-- Pieces read in order. -/
def engPieces (v : Env) : List (DWord × Nat) → EngM (List Byte)
  | [] => pure []
  | (ea, n) :: r => do
      let b ← engPiece v ea n
      let bs ← engPieces v r
      pure (b ++ bs)
/-- n bytes read. -/
def engRead (v : Env) (ea : DWord) (n : Nat) : EngM (List Byte) := engPieces v (piecesOf ea n)
/-- An element of n bytes read as a number. -/
def engNat (v : Env) (ea : DWord) (n : Nat) : EngM Nat := do
  let b ← engRead v ea n
  pure (natOfBytes b)

/-- The first element of a piece that fails its check, with the cause. -/
def State.failingElem (s : State) (c : Ctx) (e : Nat) (ea : DWord) : Nat → Option DWord
  | 0 => none
  | n + 1 => match s.checkBytes c true ea e with
    | .bad _ => some ea
    | .remote _ _ => some ea
    | .ok _ => s.failingElem c e (ea + BitVec.ofNat 64 e) n
/-- Bytes written over the staged writes of a group that precede a command: the command's stand (R320, R342). -/
def State.coverStaged (s : State) (c : Ctx) (l : Loc) (bytes : List Byte) : State :=
  if s.eng.staged.isEmpty then s
  else { s with eng := { s.eng with staged := s.eng.staged.map fun x => match x.op with
    | .write st => if some x.gid == c.gid && (c.upTo.map fun n => decide (x.order < n)).getD false then { x with op := .write { st with bytes := overlay st.bytes st.loc l bytes } } else x
    | .remote _ _ => x
    | .atom _ => x
    | .send _ _ _ => x } }
/-- A piece within one line written; when an element of it fails, those before it are written. (DEDUCED: log entry 50.) -/
def engWritePiece (v : Env) (e : Nat) (ea : DWord) (bs : List Byte) : EngM Unit := do
  let s ← get
  let whole := s.checkBytes v.ctx true ea bs.length
  let good : Nat := match whole with
    | .ok _ => bs.length
    | .bad _ => (((s.failingElem v.ctx e ea (bs.length / max 1 e)).map fun x => (x - ea).toNat)).getD 0
    | .remote _ _ => 0
  if good = 0 then
    let _ ← engPlace v true ea bs.length
    pure ()
  else
    let p ← engPlace v true ea good
    modify fun s => (s.putTagged v.ctx.tag v.ctx.core (attrPrivate p.attr && stagedPlace p.loc) p.loc (bs.take good)).coverStaged v.ctx p.loc (bs.take good)
    if good = bs.length then pure ()
    else
      let _ ← engPlace v true (ea + BitVec.ofNat 64 good) e
      pure ()
/-- Pieces written in order. -/
def engWritePieces (v : Env) (e : Nat) : List (DWord × Nat) → List Byte → EngM Unit
  | [], _ => pure ()
  | (ea, n) :: r, bs => do
      engWritePiece v e ea (bs.take n)
      engWritePieces v e r (bs.drop n)
/-- Bytes written, as elements of e bytes. -/
def engWrite (v : Env) (e : Nat) (ea : DWord) (bs : List Byte) : EngM Unit := engWritePieces v e (piecesOf ea bs.length) bs
/-- An element of n bytes written. -/
def engPut (v : Env) (ea : DWord) (n x : Nat) : EngM Unit := engWrite v n ea (bytesOfNat n x)

/-- A loop over a list with a state of its own. -/
def engFold {α β : Type} (f : β → α → EngM β) : β → List α → EngM β
  | b, [] => pure b
  | b, x :: r => do
      let b' ← f b x
      engFold f b' r
/-- A list of results. -/
def engMap {α β : Type} (f : α → EngM β) : List α → EngM (List β)
  | [] => pure []
  | x :: r => do
      let y ← f x
      let ys ← engMap f r
      pure (y :: ys)

/-- An address some bytes on. -/
def upBy (a : DWord) (n : Nat) : DWord := a + BitVec.ofNat 64 n

/-! ## Ends of commands (R260, R262) -/

/-- How a command's work ends: its status, FADDR, DETAIL, FPSUM, and fields it writes beside the header. -/
structure CmdEnd where
  code : EngStatus
  faddr : DWord := 0
  detail : Nat := 0
  fpsum : BitVec 6 := 0
  extra : List (Nat × List Byte) := []
  deriving DecidableEq, Repr

/-- Fields of a block written at its own address (R259). The address may be one that the team has lost. -/
def State.writeBlock (s : State) (c : Cmd) (off : Nat) (bs : List Byte) : State :=
  match s.target c.blockEa with
  | some (.scratch a) => (match s.windowOf (some c.team) (a + off) bs.length with
      | some (t, o) => s.putBytes none false (.win t o) bs
      | none => s)
  | some (.here la) => s.writeLocal c.asid (la + off) bs
  | some (.remote _ _) => s
  | none => s
/-- A command completes (R260, R262): its header and other written fields, its token, its table entry, and the handle that it held for a team that has ended; the device whose arrival at a bucket posted it is told (R318). -/
def State.endCmd (s : State) (id : Nat) (c : Cmd) (e : CmdEnd) : State :=
  let header := bytesOfNat 4 (e.code.code * 2 ^ 16 + e.detail % 2 ^ 16) ++ bytesOfNat 4 e.fpsum.toNat ++ bytesOfNat 8 e.faddr.toNat
  let s := s.writeBlock c 0 header
  let s := e.extra.foldl (fun s x => s.writeBlock c x.1 x.2) s
  let s := { s with eng := { s.eng with cmds := del s.eng.cmds id } }
  let s := match cmdHandle c, s.team? c.team with
    | some _, some t => if t.ended then s.setTeam c.team { t with handles := s.freedHandles c.team t.handles } else s
    | _, _ => s
  let s := match c.asker with
    | some (d, tag) => s.sendMsg d tag (.signal (.ack 0))
    | none => s
  s.tokenEnded c.gid c.token (e.code != .ok)

/-- A command that came to a tile it must wait for: the tile's build starts, and the work starts over when it is VALID. -/
def State.cmdWaits (s : State) (id : Nat) (c : Cmd) (k : Nat) (rebuild : Bool) : State :=
  let s := if rebuild then s.dropTile k else s
  (s.meetTile (s.cmdCtx c) k).setCmd id { c with tile := some k, tileFail := none }
/-- The work of a command run: its result with what it wrote, its fault with what it wrote before it, or a wait with nothing written. -/
inductive EngOut (α : Type) where
  | done (a : α) (s : State)
  | fault (code : EngStatus) (faddr : DWord) (detail : Nat) (s : State)
  | wait (tile : Nat) (rebuild : Bool)
/-- R264. -/
def State.engineRun {α : Type} (s : State) (m : EngM α) : EngOut α :=
  match m.run s with
  | .ok a t => .done a t
  | .error (.fault code faddr detail) t => .fault code faddr detail t
  | .error (.wait k b) _ => .wait k b

/-- Have the accesses that precede a command in its group been performed, of its stores those of the posting lane (R320), those that a collective releases applied (R327, R344), and does no tile hold it back? What a command reads of its group's staged writes are their bytes (R342). -/
def State.cmdMayRun (s : State) (c : Cmd) : Bool :=
  (s.mem.storeQ.all fun st => st.gid != c.gid || decide (c.order < st.id) || ((c.lane.map fun i => i != st.lane).getD false))
    && ((s.group? c.gid).map fun g => g.sb.all fun e => decide (c.order < e.id) || (!e.open && e.kind.returned)).getD true
    && (s.fab.reqs.all fun r => r.2.owner != .store c.launch || decide (c.posted < r.2.sentAt))
    && (c.kind != .collPost || !s.owes c.gid c.order)
    && (c.tileFail.isSome || !s.stillWaits (s.cmdCtx c) c.tile)
/-- The commands of a core, or of a cluster, that were posted before one. -/
def State.earlier (s : State) (c : Cmd) (same : Cmd → Bool) : List Cmd := (s.eng.cmds.map (·.2)).filter fun x => decide (x.order < c.order) && same x

end Sys2Proof.Machine
end

