-- ==== Sys2Proof/Machine/Matrix.lean ====
section
/-! DEFINITION. The matrix engine (R77 to R80, R269 to R280, R428): operands and planes, passes on benches, and the commands on handles and accumulator slots. -/
namespace Sys2Proof.Machine

/-! ## Accumulator banks (R277) -/

/-- The key of a bank: core, slot, and whether it is the visible one. -/
def accKey (core slot : Nat) (visible : Bool) : Nat := core * 512 + slot * 2 + visible.toNat
/-- A bank; one never written holds zeros. -/
def State.accBank (s : State) (core slot : Nat) (visible : Bool) : AccBank := (lookup s.eng.acc (accKey core slot visible)).getD { elems := Vector.replicate 1024 0, flags := 0 }
def State.setBank (s : State) (core slot : Nat) (visible : Bool) (b : AccBank) : State := { s with eng := { s.eng with acc := put s.eng.acc (accKey core slot visible) b } }
/-- Has an element of a bank among some an uncorrectable error (R403)? -/
def State.accFails (s : State) (core slot : Nat) (visible : Bool) (f : Nat → Bool) : Bool := s.eng.badAcc.any fun x => x.1 == accKey core slot visible && f x.2
/-- A bank written whole: its words are encoded anew (R403). -/
def State.freshBank (s : State) (core slot : Nat) (visible : Bool) (b : AccBank) : State :=
  let s := s.setBank core slot visible b
  { s with eng := { s.eng with badAcc := s.eng.badAcc.filter fun x => x.1 != accKey core slot visible } }
/-- An element of a bank. -/
def AccBank.elem (b : AccBank) (r c : Nat) : Word := b.elems.toArray.getD (32 * r + c) 0
/-- A bank of zeros. -/
def AccBank.zero : AccBank := { elems := Vector.replicate 1024 0, flags := 0 }

/-! ## Operand elements (R267 to R269) -/

/-- The exact value of an element: its code and, in BQ4, the header of its block (R70). -/
def elemVal (fmt : Nat) (x : Nat × Nat) : FVal :=
  match fmt with
  | 0 => FFmt.bf16.value x.1
  | 1 => FFmt.fp16.value x.1
  | 2 => FFmt.e4m3.value x.1
  | 3 => FFmt.e5m2.value x.1
  | 4 => bq4Value x.2 x.1
  | _ => let i := (BitVec.ofNat 8 x.1).toInt
         .fin (decide (i < 0)) i.natAbs 0
/-- An exact product of elements; integers have no signed zero (R79). (DESIGN CHOICE: log entry 95.) -/
def elemProduct (integer : Bool) (a b : FVal) : Term :=
  match a.mul b with
  | some (.fin n m e) => some (.fin (n && !(integer && m == 0)) m e)
  | some (.nan x) => some (.nan x)
  | some (.inf n) => some (.inf n)
  | none => none

/-- Byte offset of a stored element (R269): major is m of A or n of B, minor is k or the kept index. -/
def Operand.offset (o : Operand) (isB : Bool) (major minor : Nat) : Nat :=
  if o.fmt = 4 then major * o.pitch + minor / 2
  else if isB != o.trans then minor * o.pitch + major * fmtBytes o.fmt
  else major * o.pitch + minor * fmtBytes o.fmt
/-- An element read: its code and header. An all-zero block's codes are not fetched, and a malformed header stops the pass (R71). -/
def engElem (v : Env) (o : Operand) (isB : Bool) (major minor : Nat) : EngM (Nat × Nat) := do
  if o.fmt = 4 then
    let ha := upBy o.xaddr (major * o.xpitch + 2 * (minor / 32))
    let h ← engNat v ha 2
    if bq4Malformed h then engFault .badBlock ha
    else if h % 256 = 128 then pure (0, h)
    else
      let b ← engNat v (upBy o.addr (o.offset isB major minor)) 1
      pure (if minor % 2 = 0 then b % 16 else b / 16, h)
  else
    let x ← engNat v (upBy o.addr (o.offset isB major minor)) (fmtBytes o.fmt)
    pure (x, 0)

/-- The kept positions of a group of a column (R269): their dense positions, or BAD_SPARSE. -/
def engKept (v : Env) (base : DWord) (perCol n g : Nat) : EngM (Nat × Nat) := do
  let a := upBy base (4 * (n * perCol + g / 8))
  let w ← engNat v a 4
  let nib := w / 2 ^ (4 * (g % 8)) % 16
  if nib / 4 ≤ nib % 4 then engFault .badSparse a else pure (4 * g + nib % 4, 4 * g + nib / 4)

/-- The elements of column n of B with k from lo below hi: each with its dense position. -/
def engColumn (v : Env) (o : Operand) (kTotal n lo hi : Nat) : EngM (List (Nat × Nat × Nat)) := do
  if o.sparse then
    let gs := (List.range ((hi + 3) / 4)).filter fun g => decide (lo ≤ 4 * g)
    let parts ← engMap (fun g => do
      let (k0, k1) ← engKept v o.maddr ((kTotal + 31) / 32) n g
      let x0 ← engElem v o true n (2 * g)
      let x1 ← engElem v o true n (2 * g + 1)
      pure [(k0, x0), (k1, x1)]) gs
    pure parts.flatten
  else
    engMap (fun k => do
      let x ← engElem v o true n k
      pure (k, x)) ((List.range hi).filter fun k => decide (lo ≤ k))

/-! ## Passes (R77 to R80, R274) -/

/-- One element's step of a pass: RN32(acc + S), with the flags of R79 and R80. -/
def passStep (acc : Word) (ps : List Term) : FRes :=
  let a := FFmt.fp32.value acc.toNat
  let bad := ps.any fun t => match t with
    | none => true
    | some x => x.isNan
  if bad then FFmt.fp32.nan true
  else match exactSum ps with
    | .invalid => FFmt.fp32.nan true
    | .quietNan => FFmt.fp32.nan true
    | .inf n => if a.isNan then FFmt.fp32.nan false else FFmt.fp32.add .engine (some a) (some (.inf n))
    | .num n e allNeg => if a.isNan then FFmt.fp32.nan false else FFmt.fp32.add .engine (some a) (some (.fin (decide (n < 0) || (n == 0 && allNeg)) n.natAbs e))

/-- The elements of a bank that a pass computes, one chunk: rows of A from a base position, columns of B. -/
def passChunk (integer : Bool) (lo : Nat) (rows : List (List FVal)) (cols : List (List (Nat × FVal))) (b : AccBank) : AccBank :=
  rows.zipIdx.foldl (fun b r => cols.zipIdx.foldl (fun b c =>
    let ps := c.1.map fun x => elemProduct integer (r.1.getD (x.1 - lo) (.fin false 0 0)) x.2
    let res := passStep (b.elem r.2 c.2) ps
    { elems := b.elems.setIfInBounds (32 * r.2 + c.2) (BitVec.ofNat 32 res.bits), flags := b.flags ||| res.flags }) b) b

/-- The chunks of an item in ascending order (R274): what was added before a fault stays (R276). An element of the accumulator with an uncorrectable error ends it with CHECK (R403). -/
def runChunks (v : Env) (core slot : Nat) (a : Operand) (integer : Bool) (m0 mn n0 nn k d : Nat) (column : Nat → Nat → Nat → EngM (List (Nat × FVal))) : List Nat → EngM Unit
  | [] => pure ()
  | c :: r => do
      let lo := c * d
      let hi := min k (c * d + d)
      let rows ← engMap (fun m => engMap (fun k => do
        let x ← engElem v a false (m0 + m) k
        pure (elemVal a.fmt x)) ((List.range hi).filter fun k => decide (lo ≤ k))) (List.range mn)
      let cols ← engMap (fun n => column (n0 + n) lo hi) (List.range nn)
      let s ← get
      if s.accFails core slot false fun i => decide (i / 32 < mn) && decide (i % 32 < nn) then engFault .check 0
      modify fun s => s.setBank core slot false (passChunk integer lo rows cols (s.accBank core slot false))
      runChunks v core slot a integer m0 mn n0 nn k d column r

/-- The handle of a team. -/
def Team.handle (t : Team) (h : Nat) : BenchHandle := t.handles.getD h { bound := false, bench := 0, active := none, standby := none }
def Team.setHandle (t : Team) (h : Nat) (x : BenchHandle) : Team :=
  { t with handles := (List.range 4).map fun i => if i = h then x else t.handle i }
/-- The resident plane of a pass (R274). -/
def State.planeOf (s : State) (c : Cmd) : Option Plane := (s.team? c.team).bind fun t => (t.handle (fieldAt c.block 0x5F 1)).active
/-- What a pass on a handle finds wrong with it (R274). -/
def State.statFault (s : State) (c : Cmd) : Option EngStatus :=
  match s.team? c.team with
  | none => some .noBench
  | some t =>
      if !(t.handle (fieldAt c.block 0x5F 1)).bound then some .noBench
      else match s.planeOf c with
        | none => some .planeMismatch
        | some p => if fmtsPair (operandAt c.block 0x10).fmt p.fmt && p.k == fieldAt c.block 0x58 4 && p.n == fieldAt c.block 0x54 4 then none else some .planeMismatch

/-- Depth of a pass: P, or 2P with a sparse B (R268, R274). -/
def State.runDepth (s : State) (c : Cmd) : Nat :=
  let a := operandAt c.block 0x10
  let sparse := if runStat c.block then ((s.planeOf c).map (·.sparse)).getD false else (operandAt c.block 0x30).sparse
  if sparse then 2 * fmtDepth a.fmt else fmtDepth a.fmt
/-- One output tile (R274). -/
def runItem (v : Env) (c : Cmd) (plane : Option Plane) (d item : Nat) : EngM Unit := do
  let b := c.block
  let a := operandAt b 0x10
  let o := operandAt b 0x30
  let (m, n, k) := (fieldAt b 0x50 4, fieldAt b 0x54 4, fieldAt b 0x58 4)
  let (i, j) := (item / tiles32 n, item % tiles32 n)
  let slot := fieldAt b 0x5C 2 + item
  if fieldAt b 0x5E 1 % 2 = 1 then modify fun s => s.freshBank c.bank slot false AccBank.zero
  let column (col lo hi : Nat) : EngM (List (Nat × FVal)) := match plane with
    | some p => pure (((p.elems.getD col []).zipIdx.filterMap fun x => x.1.map fun e => (x.2, elemVal p.fmt e)).filter fun x => decide (lo ≤ x.1) && decide (x.1 < hi))
    | none => do
        let xs ← engColumn v o k col lo hi
        pure (xs.map fun x => (x.1, elemVal o.fmt x.2))
  runChunks v c.bank slot a (a.fmt == 5) (32 * i) (min 32 (m - 32 * i)) (32 * j) (min 32 (n - 32 * j)) k d column (List.range ((k + d - 1) / d))

/-! ## The order of commands on banks and handles (R270, R272, R278, R279) -/

/-- The slots a command names, from the first, with their number. -/
def cmdSlots (c : Cmd) : Nat × Nat :=
  match c.kind with
  | .mmRun => (fieldAt c.block 0x5C 2, c.items.length)
  | .mmSwapacc => (fieldAt c.block 0x10 2, fieldAt c.block 0x12 2)
  | .mmAccrd | .mmAccwr => (fieldAt c.block 0x1C 2, fieldAt c.block 0x1E 2)
  | .mmDrain => (fieldAt c.block 0x14 2, fieldAt c.block 0x16 2)
  | .mmLdw | .mmSwapw | .mmRegrow | .bsAsm | .bsLu | .bsLdl | .bsTrsv | .bsPgs | .bsBack | .srtKeys | .srtPairs | .trvBuild | .trvQuery
  | .phaseRegroup | .phaseRestore | .collPost => (0, 0)
/-- Does an incomplete command still act on a bank of a slot (R278)? -/
def cmdTouches (c : Cmd) (slot : Nat) (visible : Bool) : Bool :=
  let (s0, n) := cmdSlots c
  decide (s0 ≤ slot) && decide (slot < s0 + n) && (match c.kind with
    | .mmRun => !visible && c.results.all fun r => r.item != slot - s0
    | .mmSwapacc => true
    | .mmAccrd | .mmAccwr | .mmDrain => visible
    | .mmLdw | .mmSwapw | .mmRegrow | .bsAsm | .bsLu | .bsLdl | .bsTrsv | .bsPgs | .bsBack | .srtKeys | .srtPairs | .trvBuild | .trvQuery
    | .phaseRegroup | .phaseRestore | .collPost => false)
/-- Is a bank of a slot left to a command by the earlier commands of its core? -/
def State.bankFree (s : State) (c : Cmd) (slot : Nat) (visible : Bool) : Bool := (s.earlier c fun x => x.bank == c.bank && cmdTouches x slot visible).isEmpty
/-- Is a slot left to an exchange: every earlier command of the core on either bank of it has completed (R279)? -/
def State.slotFree (s : State) (c : Cmd) (slot : Nat) : Bool :=
  (s.earlier c fun x => x.bank == c.bank && decide ((cmdSlots x).1 ≤ slot) && decide (slot < (cmdSlots x).1 + (cmdSlots x).2)).isEmpty
/-- Are all the banks a command acts on left to it? -/
def State.banksFree (s : State) (c : Cmd) : Bool :=
  let (s0, n) := cmdSlots c
  (List.range n).all fun q => match c.kind with
    | .mmSwapacc => s.slotFree c (s0 + q)
    | .mmAccrd | .mmAccwr | .mmDrain => s.bankFree c (s0 + q) true
    | .mmRun => s.bankFree c (s0 + q) false
    | .mmLdw | .mmSwapw | .mmRegrow | .bsAsm | .bsLu | .bsLdl | .bsTrsv | .bsPgs | .bsBack | .srtKeys | .srtPairs | .trvBuild | .trvQuery
    | .phaseRegroup | .phaseRestore | .collPost => true
/-- Are the earlier commands on a command's handle complete (R270, R272)? -/
def State.handleFree (s : State) (c : Cmd) : Bool :=
  match cmdHandle c with
  | none => true
  | some h => (s.earlier c fun x => x.team == c.team && cmdHandle x == some h).isEmpty

/-! ## BENCH_TAKE_ITEM (R421, R428) -/

/-- The priority key of a command's launch (R410, R421). -/
def State.cmdKey (s : State) (c : Cmd) : Nat := ((s.launch? c.launch).map Launch.key).getD 0
/-- Does a command go before another (R421)? -/
def State.cmdBefore (s : State) (a b : Cmd) : Bool := decide (s.cmdKey b < s.cmdKey a) || (s.cmdKey a == s.cmdKey b && decide (a.order < b.order))
/-- The first of commands in the order of R421. -/
def State.firstCmd (s : State) : List (Nat × Cmd) → Option (Nat × Cmd)
  | [] => none
  | x :: r => match s.firstCmd r with
    | none => some x
    | some y => if s.cmdBefore x.2 y.2 then some x else some y
/-- The items of a command without a result. -/
def Cmd.left (c : Cmd) : List Nat := c.items.filter fun i => c.results.all fun r => r.item != i
/-- May an item of a pass start? -/
def State.itemReady (s : State) (c : Cmd) (item : Nat) : Bool :=
  s.cmdMayRun c && c.left.contains item && s.bankFree c ((cmdSlots c).1 + item) false && s.handleFree c && (!runStat c.block || (s.statFault c).isNone)

/-- The shares of a cluster that still hold items, with their benches. -/
def Cluster.queued (c : Cluster) : List (Nat × Nat × List (Nat × Nat)) := c.shares.filterMap fun x => if x.2.isEmpty then none else some (x.1, x.2.length, x.2)
/-- The bench with the most queued items, the lowest-numbered on a tie. -/
def busiest : List (Nat × Nat × List (Nat × Nat)) → Option (Nat × Nat × List (Nat × Nat))
  | [] => none
  | x :: r => match busiest r with
    | none => some x
    | some y => if y.2.1 < x.2.1 || (x.2.1 == y.2.1 && decide (x.1 < y.1)) then some x else some y
/-- The items of streamed passes of a cluster that have been dealt to no bench. -/
def State.undealt (s : State) (cl : Nat) : List (Nat × Cmd) :=
  let dealt := (s.cluster cl).shares.flatMap (·.2)
  s.eng.cmds.filterMap fun c => if c.2.kind == .mmRun && clusterOf c.2.core == cl && !runStat c.2.block then
      (let left := c.2.left.filter fun i => !dealt.contains (c.1, i)
       if left.isEmpty then none else some (c.1, { c.2 with items := left })) else none
/-- What a free bench takes (R421, R428): an item of the passes on its handle; or the first of its share; or an item dealt to it now, of the passes that no bench was free for; or the last of the longest share. The cluster with the item taken from its share. -/
def State.benchNext (s : State) (cl b : Nat) : Option (Nat × Nat × Cluster) :=
  let k := s.cluster cl
  match (s.boundBenches cl).filter fun x => x.1 == b with
  | x :: r =>
      (match s.firstCmd (s.eng.cmds.filter fun c => c.2.kind == .mmRun && (x :: r).any (fun y => c.2.team == y.2.1 && cmdHandle c.2 == some y.2.2) && s.handleFree c.2 && (s.statFault c.2).isNone && !c.2.left.isEmpty) with
      | some (id, c) => (c.left.find? (s.itemReady c)).map fun i => (id, i, k)
      | none => none)
  | [] =>
      let ready (x : Nat × Nat) : Bool := ((s.cmd? x.1).map fun c => s.itemReady c x.2).getD false
      match k.share b with
      | x :: r => if ready x then some (x.1, x.2, { k with shares := put k.shares b r }) else none
      | [] => match (s.firstCmd ((s.undealt cl).filter fun x => ready (x.1, x.2.items.headD 0))).map fun x => (x.1, x.2.items.headD 0) with
        | some (id, i) => some (id, i, { k with dealPtr := (b + 1) % 16 })
        | none => match busiest k.queued with
          | none => none
          | some (v, _, xs) => match xs.getLast? with
            | none => none
            | some y => if ready y then some (y.1, y.2, { k with shares := put k.shares v (xs.filter fun z => z != y) }) else none

/-- The result of an item added to its command. -/
def State.itemDone (s : State) (id : Nat) (r : ItemResult) (until' : Nat) : State :=
  match s.cmd? id with
  | none => s
  | some c => s.setCmd id { c with results := c.results ++ [r], dueAt := max c.dueAt until', started := true, epoch := if c.started then c.epoch else s.dev.qepoch }
/-- BENCH_TAKE_ITEM (R428, R274, R276): a free bench runs its next item. -/
def execBenchTakeItem (cl bench : Nat) (s : State) : Host.Outcome State Fault Refusal :=
  if !s.benchIdle cl bench then .refused .notEnabled
  else match s.benchNext cl bench with
    | none => .refused .notEnabled
    | some (id, item, k) => match s.cmd? id with
      | none => .refused .notEnabled
      | some c =>
          let d := s.runDepth c
          let stop := s.cycle + 24 + 32 * ((fieldAt c.block 0x58 4 + d - 1) / d)
          match s.engineRun (runItem (s.cmdEnv c) c (if runStat c.block then s.planeOf c else none) d item) with
          | .wait t rebuild => .next (s.cmdWaits id c t rebuild)
          | .done _ t => .next ((t.setCluster cl { k with busy := put k.busy bench stop }).itemDone id { item := item, code := .ok, faddr := 0, flags := 0, detail := 0 } stop)
          | .fault code ea _ t => .next ((t.setCluster cl { k with busy := put k.busy bench stop }).itemDone id { item := item, code := code, faddr := ea, flags := 0, detail := 0 } stop)

/-! ## Ends of matrix commands -/

/-- The result of the lowest item that did not end with OK. -/
def lowestBad (rs : List ItemResult) : Option ItemResult := (sortBy (·.item) (rs.filter fun r => r.code != .ok)).head?
/-- The end of a pass (R273, R274, R276). -/
def State.runEnd (s : State) (c : Cmd) : CmdEnd :=
  match (if runStat c.block && c.results.isEmpty then s.statFault c else none) with
  | some code => { code := code }
  | none => match lowestBad c.results with
    | none => { code := .ok }
    | some r => { code := r.code, faddr := r.faddr, detail := r.item }

/-- A handle bound to a bench of its team's cluster, when it is not bound (R270): none when no bench is free yet. The limit of 8 holds for what a gang that is out holds, too: it binds there when it comes back. -/
def State.bindHandle (s : State) (tid : Nat) (h : Nat) : Option (Except EngStatus State) :=
  match s.team? tid with
  | none => some (.error .noBench)
  | some t =>
      if (t.handle h).bound then some (.ok s)
      else if t.ended then some (.error .noBench)
      else if t.cores.isEmpty then
        if 8 ≤ ((s.gang? t.gang).map s.heldHandles).getD 0 then some (.error .benchBusy) else some (.ok (s.setTeam tid (t.setHandle h { t.handle h with bound := true })))
      else if 8 ≤ (s.boundBenches t.cluster).length then some (.error .benchBusy)
      else match s.freeBenches t.cluster with
        | [] => none
        | b :: _ => some (.ok (s.setTeam tid (t.setHandle h { t.handle h with bound := true, bench := b })))
/-- A plane read from memory (R271). -/
def loadPlane (v : Env) (b : List Byte) : EngM Plane := do
  let o := operandAt b 0x10
  let k := fieldAt b 0x32 2
  let cols ← engMap (fun n => do
    let xs ← engColumn v o k n 0 k
    pure ((List.range k).map fun i => (xs.find? fun x => x.1 == i).map (·.2))) (List.range (fieldAt b 0x34 2))
  pure { fmt := o.fmt, sparse := o.sparse, k := k, n := fieldAt b 0x34 2, elems := cols }

/-- A change of a team's handle. -/
def State.modHandle (s : State) (tid h : Nat) (f : BenchHandle → BenchHandle) : State := s.modTeam tid fun t => t.setHandle h (f (t.handle h))

/-- The conversion of an accumulator element (R280). -/
def xConvert (fmtx : Nat) (w : Word) : FRes :=
  match fmtx with
  | 0 => { bits := w.toNat, flags := 0 }
  | 1 => FFmt.fp32.convert .bf16 .engine false w.toNat
  | _ => FFmt.fp32.convert .fp16 .engine false w.toNat
/-- The widening of an element (R280, R63). -/
def xWiden (fmtx x : Nat) : FRes :=
  match fmtx with
  | 0 => FFmt.fp32.convert .fp32 .engine false x
  | 1 => FFmt.bf16.convert .fp32 .engine false x
  | _ => FFmt.fp16.convert .fp32 .engine false x
/-- The address of row r of slot q of a read-out. -/
def xRow (b : List Byte) (q r : Nat) : DWord := upBy (BitVec.ofNat 64 (fieldAt b 0x10 8)) ((32 * q + r) * fieldAt b 0x18 4)

/-- One slot read out (R280): its places are checked before any of it is written. The flags of the conversion and the slot's MMFLAGS. -/
def accrdSlot (v : Env) (c : Cmd) (q : Nat) : EngM (BitVec 6 × BitVec 6) := do
  let b := c.block
  let slot := fieldAt b 0x1C 2 + q
  let e := xBytes b
  let s ← get
  let bank := s.accBank c.bank slot true
  if s.accFails c.bank slot true fun _ => true then engFault .check 0
  let _ ← engMap (fun r => engMap (fun (x : DWord × Nat) => engMap (fun i => engPlace v true (upBy x.1 (e * i)) e) (List.range (x.2 / e))) (piecesOf (xRow b q r) (32 * e))) (List.range 32)
  let flags ← engFold (fun (f : BitVec 6) r => do
    let res := (List.range 32).map fun k => xConvert (fieldAt b 0x20 1) (bank.elem r k)
    engWrite v e (xRow b q r) (res.flatMap fun x => bytesOfNat e x.bits)
    pure (res.foldl (fun f x => f ||| x.flags) f)) 0 (List.range 32)
  if fieldAt b 0x21 1 = 1 then modify fun s => s.setBank c.bank slot true { bank with flags := 0 }
  pure (flags, bank.flags)
/-- One slot written (R280): it is read whole first. -/
def accwrSlot (v : Env) (c : Cmd) (q : Nat) : EngM (BitVec 6 × BitVec 6) := do
  let b := c.block
  let e := xBytes b
  let rows ← engMap (fun r => engRead v (xRow b q r) (32 * e)) (List.range 32)
  let res := rows.flatMap fun bs => (List.range 32).map fun k => xWiden (fieldAt b 0x20 1) (fieldAt bs (e * k) e)
  let elems := res.zipIdx.foldl (fun (x : Vector Word 1024) y => x.setIfInBounds y.2 (BitVec.ofNat 32 y.1.bits)) (Vector.replicate 1024 0)
  modify fun s => s.freshBank c.bank (fieldAt b 0x1C 2 + q) true { elems := elems, flags := 0 }
  pure (res.foldl (fun f x => f ||| x.flags) 0, 0)
/-- The slots of a read-out or write in turn: slots before a fault are complete. -/
def State.accSlots (s : State) (c : Cmd) (rd : Bool) : List Nat → BitVec 6 → BitVec 6 → EngOut CmdEnd
  | [], flags, mmf => .done { code := .ok, fpsum := flags, extra := if rd then [(0x24, bytesOfNat 4 mmf.toNat)] else [] } s
  | q :: r, flags, mmf =>
      match s.engineRun (if rd then accrdSlot (s.cmdEnv c) c q else accwrSlot (s.cmdEnv c) c q) with
      | .done (f, m) t => t.accSlots c rd r (flags ||| f) (mmf ||| m)
      | .fault code ea _ _ => .done { code := code, faddr := ea, detail := fieldAt c.block 0x1C 2 + q, fpsum := flags, extra := if rd then [(0x24, bytesOfNat 4 mmf.toNat)] else [] } s
      | .wait k b => .wait k b

/-- The exchange of the banks of a range of slots (R279), with the errors of their words (R403). -/
def State.swapSlots (s : State) (core : Nat) (clear : Bool) : List Nat → State
  | [] => s
  | q :: r =>
      let w := s.accBank core q false
      let v := s.accBank core q true
      let (kw, kv) := (accKey core q false, accKey core q true)
      let s := (s.setBank core q true w).setBank core q false (if clear then AccBank.zero else v)
      let s := { s with eng := { s.eng with badAcc := s.eng.badAcc.filterMap fun (x : Nat × Nat) => if x.1 = kw then some (kv, x.2) else if x.1 = kv then (if clear then none else some (kw, x.2)) else some x } }
      s.swapSlots core clear r

/-- The work of a matrix command other than a pass or a drain; none while it cannot start. (DEDUCED: log entry 47.) -/
def State.matrixWork (s : State) (c : Cmd) : Option (EngOut CmdEnd) :=
  match c.kind with
  | .mmLdw =>
      let h := fieldAt c.block 0x30 1
      if fieldAt c.block 0x31 1 = 1 then
        some (.done { code := .ok } (s.modHandle c.team h fun _ => { bound := false, bench := 0, active := none, standby := none }))
      else (match s.bindHandle c.team h with
        | none => none
        | some (.error code) => some (.done { code := code } s)
        | some (.ok t) => match t.engineRun (loadPlane (s.cmdEnv c) c.block) with
          | .done p u => some (.done { code := .ok } (u.modHandle c.team h fun x => { x with standby := some p }))
          | .fault code ea _ u => some (.done { code := code, faddr := ea } u)
          | .wait k b => some (.wait k b))
  | .mmSwapw =>
      let h := fieldAt c.block 0x10 1
      if ((s.team? c.team).map fun t => (t.handle h).bound).getD false then
        some (.done { code := .ok } (s.modHandle c.team h fun x => { x with active := x.standby, standby := x.active }))
      else some (.done { code := .noBench } s)
  | .mmSwapacc =>
      let (s0, n) := cmdSlots c
      some (.done { code := .ok } (s.swapSlots c.bank (fieldAt c.block 0x14 1 == 1) ((List.range n).map fun q => s0 + q)))
  | .mmAccrd => some (s.accSlots c true (List.range (cmdSlots c).2) 0 0)
  | .mmAccwr => some (s.accSlots c false (List.range (cmdSlots c).2) 0 0)
  | .mmRun | .mmDrain | .mmRegrow | .bsAsm | .bsLu | .bsLdl | .bsTrsv | .bsPgs | .bsBack | .srtKeys | .srtPairs | .trvBuild | .trvQuery
  | .phaseRegroup | .phaseRestore | .collPost => none

end Sys2Proof.Machine
end

