-- ==== Sys2Proof/Machine/Steps.lean ====
section
/-! DEFINITION. Step domains and sweeps as groups use them (R169 to R173). -/
namespace Sys2Proof.Machine

/-- Is a sweep of a domain running (R172)? -/
def State.sweeping (s : State) (n : Domain) : Bool := (lookup s.dev.sweeps n.val).isSome

/-- R169: the release comes first, then both checks, then the advance, as one atomic action. (DEDUCED: log entry 111.) -/
def execGStepadv (a : Reg) (n : Domain) (s : State) : Host.Outcome State Fault Refusal :=
  s.issue fun p g =>
    s.afterPerformed p g .device true <|
      let t := s.publish g .device
      let new := s.dev.datum.get n + (g.uread s.cycle p.cur.lanes a).setWidth 64
      if s.dev.spanning.getLsbD n.val then t.trapAt p.gid p.cur .stepSpanning p.cur.lanes 0
      else if 2 ^ 23 ≤ (new - s.dev.sweepBase.get n).toNat then t.trapAt p.gid p.cur .stepSweepDue p.cur.lanes 0
      else
        let t := { t with dev := { t.dev with datum := t.dev.datum.set n new } }
        (t.finish p (g.leaveWait p.cur)).closeFor p.gid false
/-- R171. -/
def execGStepget (d : Reg) (n : Domain) (s : State) : Host.Outcome State Fault Refusal :=
  s.issue fun p g => s.answerAfter 6 p g (pairOf d (s.dev.datum.get n))
/-- The 64 KiB pieces of the pages that a sweep of a domain walks (R396): the AGED pages of the domain, in the order of their frames. -/
def State.sweepPieces (s : State) (n : Domain) : List (Nat × Nat) :=
  let pages := s.mem.pages.filter fun p => attrAged p.attr && attrDomain p.attr == n.val && decide (p.pa + p.size ≤ Config.hbmBytes)
  (sortBy (·.1) (pages.flatMap fun p => (List.range (p.size / 65536)).map fun k => (p.pa + 65536 * k, p.asid, p.la + 65536 * k))).map (·.2)
/-- Does a started drain of a domain run (R286)? -/
def State.draining (s : State) (n : Nat) : Bool := s.eng.cmds.any fun c => c.2.started && (c.2.kind == .mmDrain || c.2.kind == .mmRegrow) && c.2.datums.any fun d => d.1 == n
/-- R172, R286: no effect while a sweep of the domain runs; a sweep that starts while a drain of the domain runs waits for it. (DEDUCED: log entry 51.) -/
def execGSweep (n : Domain) (s : State) : Host.Outcome State Fault Refusal :=
  s.issue fun p g =>
    let t := s.finish p g
    if s.sweeping n then t
    else { t with dev := { t.dev with sweeps := t.dev.sweeps ++ [(n.val, { start := (s.dev.datum.get n).toNat, walking := !s.draining n.val, pieces := s.sweepPieces n, at_ := 0, epoch := s.dev.qepoch })] } }
/-- R172, R151. -/
def execGSweepwait (d : Reg) (n : Domain) (s : State) : Host.Outcome State Fault Refusal :=
  s.issue fun p g =>
    if s.sweeping n then s.setGroup p.gid (g.enterWait s.cycle (.sweep n) p.cur)
    else s.answerWord p (g.leaveWait p.cur) [(d, if s.dev.sweepBad.getLsbD n.val then 6 else 0)]

end Sys2Proof.Machine
end

