-- ==== Sys2Proof/Machine/Drains.lean ====
section
/-! DEFINITION. Optimizer drains, regrowth and the amax publication (R281 to R287), and sweeps (R396), with the order between them (R286). -/
namespace Sys2Proof.Machine

/-! ## Arithmetic of one element (R266, R282) -/

/-- An FP32 operand by its bits. -/
def f32 (x : Nat) : FVal := FFmt.fp32.value x
/-- FP32 product of bits. -/
def mul32 (x y : Nat) : FRes := FFmt.fp32.mul .engine (f32 x) (f32 y)
/-- FP32 sum of bits. -/
def add32 (x y : Nat) : FRes := addVals .fp32 .engine (f32 x) (f32 y)
/-- The format of a weight plane. -/
def weightFmt (b : List Byte) : FFmt := if fieldAt b 0x12 1 = 0 then .fp32 else .bf16
/-- Bytes of a weight. -/
def weightBytes (b : List Byte) : Nat := if fieldAt b 0x12 1 = 0 then 4 else 2
/-- A weight as stored, widened to FP32 without its sign (R284). -/
def weightMag (b : List Byte) (w : Nat) : Nat := (if fieldAt b 0x12 1 = 0 then w else w * 65536) % 2 ^ 31
/-- The larger of two magnitudes, ignoring NaN (R284). -/
def maxMag (m : Option Nat) (x : Nat) : Option Nat :=
  if x > 0x7F800000 then m else some (match m with
    | none => x
    | some y => max x y)
/-- AGED_ADD (R282, R212). -/
def agedAdd (lam : FVal) (datum : Nat) (e : Aged) (x : Nat) : Aged × BitVec 6 :=
  let age := ageOf (BitVec.ofNat 64 datum) e.stamp
  let v := f32 e.value.toNat
  let res := if age ≥ 2 ^ 23 then addVals .fp32 .engine v (f32 x) else FFmt.fp32.fma .engine v (fDecay lam age) (f32 x)
  ({ value := BitVec.ofNat 32 res.bits, stamp := datum % 2 ^ 24, sel := e.sel }, res.flags ||| (if age ≥ 2 ^ 23 then Flags.af else 0))

/-! ## Planes (R281) -/

/-- Base address of a plane. -/
def plane (b : List Byte) (off : Nat) : DWord := BitVec.ofNat 64 (fieldAt b off 8)
/-- The address of a weight: its stored row and its column. -/
def weightAt (b : List Byte) (row col : Nat) : DWord := upBy (plane b 0x18) (row * fieldAt b 0x50 4 + col * weightBytes b)
/-- The address of a moment of the plane at an offset of the block. -/
def momentAt (b : List Byte) (off row col : Nat) : DWord := upBy (plane b off) (row * fieldAt b 0x54 4 + 8 * col)
/-- The address of a shadow element. -/
def shadowAt (b : List Byte) (row col : Nat) : DWord := upBy (plane b 0x30) (row * fieldAt b 0x58 4 + 4 * col)
/-- The address of the metadata word of a column of a tile. -/
def metaAt (b : List Byte) (t col : Nat) : DWord := upBy (plane b 0x38) (4 * (32 * t + col))
/-- Offsets of the moment planes that a command has. -/
def momentPlanes (c : Cmd) : List Nat :=
  let has (off : Nat) : Bool := fieldAt c.block off 8 != 0
  if c.kind == .mmRegrow then [0x20, 0x28].filter has
  else if drKind c.block = 0 then [] else if drKind c.block = 1 then [0x20] else [0x20, 0x28]
/-- The domains a drain belongs to (R286): those of the pages of its moment rows. (DEDUCED: log entry 51.) -/
def State.drainDomains (s : State) (c : Cmd) : List Nat :=
  let ends := (momentPlanes c).flatMap fun off => (List.range (32 * fieldAt c.block 0x16 2)).flatMap fun r => [momentAt c.block off r 0, momentAt c.block off r 31]
  (ends.filterMap fun ea => match s.target ea with
    | some (.here la) => (s.pageAt c.asid la).bind fun p => if attrAged p.attr then some (attrDomain p.attr) else none
    | some (.scratch _) => none
    | some (.remote _ _) => none
    | none => none).eraseDups

/-- A moment element with its domain; its page must be AGED (R281). -/
def engMoment (v : Env) (ea : DWord) : EngM (Aged × Nat) := do
  let p ← engPlace v true ea 8
  if attrAged p.attr then
    let x ← engNat v ea 8
    pure (agedOf (BitVec.ofNat 64 x), attrDomain p.attr)
  else engFault .formatMismatch ea
/-- The datum a drain read for a domain when it started. -/
def Cmd.datum (c : Cmd) (n : Nat) : Nat := (lookup c.datums n).getD 0
/-- The new value of a moment element (R282). -/
def engAged (v : Env) (c : Cmd) (ea : DWord) (x : Nat) : EngM (Aged × BitVec 6) := do
  let (e, n) ← engMoment v ea
  let s ← get
  match s.decayFactor c.epoch n e.sel with
  | none => engFault .decayRange ea
  | some lam => pure (agedAdd lam (c.datum n) e x)
/-- The kept positions of a group of a column of a tile. -/
def engNibble (v : Env) (b : List Byte) (t col g : Nat) : EngM (Nat × Nat) := do
  let a := metaAt b t col
  let w ← engNat v a 4
  let nib := w / 2 ^ (4 * g) % 16
  if nib / 4 ≤ nib % 4 then engFault .badSparse a else pure (nib % 4, nib / 4)

/-! ## One element of a drain (R282) -/

/-- The stored row of dense row r of tile t in a column: none where it is not kept. -/
def engStoredRow (v : Env) (b : List Byte) (t r col : Nat) : EngM (Option Nat) := do
  if drSparse b then
    let (i0, i1) ← engNibble v b t col (r / 4)
    pure (if r % 4 = i0 then some (16 * t + 2 * (r / 4)) else if r % 4 = i1 then some (16 * t + 2 * (r / 4) + 1) else none)
  else pure (some (32 * t + r))
/-- The step of a weight (R282): the new weight and the flags. -/
def weightStep (b : List Byte) (w u : Nat) : FRes :=
  let f := weightFmt b
  let wide := f.value w
  let wd := FFmt.fp32.mul .engine (f32 (fieldAt b 0x74 4)) wide
  let sum := add32 u wd.bits
  let step := mul32 (fieldAt b 0x64 4) sum.bits
  let new := f.add .engine (some wide) (some (f32 step.bits).negate)
  { bits := new.bits, flags := wd.flags ||| sum.flags ||| step.flags ||| new.flags }
/-- The moments of an element and the value that steps the weight: the writes still to make, u, and the flags. -/
def engMoments (v : Env) (c : Cmd) (row col g : Nat) : EngM (List (DWord × Aged) × Nat × BitVec 6) := do
  let b := c.block
  if drKind b = 0 then pure ([], g, 0)
  else
    let x := mul32 (fieldAt b 0x68 4) g
    let ma := momentAt b 0x20 row col
    let (m, mf) ← engAged v c ma x.bits
    if drKind b = 1 then pure ([(ma, m)], m.value.toNat, x.flags ||| mf)
    else
      let sq := mul32 g g
      let y := mul32 (fieldAt b 0x6C 4) sq.bits
      let va := momentAt b 0x28 row col
      let (q, qf) ← engAged v c va y.bits
      let root := FFmt.fp32.sqrt .engine (f32 q.value.toNat)
      let den := add32 root.bits (fieldAt b 0x70 4)
      let u := FFmt.fp32.div .engine (f32 m.value.toNat) (f32 den.bits)
      pure ([(ma, m), (va, q)], u.bits, x.flags ||| mf ||| sq.flags ||| y.flags ||| qf ||| root.flags ||| den.flags ||| u.flags)
/-- One element: its flags, and the magnitude of the weight it wrote. All it reads and may write is checked before it writes. (DEDUCED: log entry 51.) -/
def drainElem (v : Env) (c : Cmd) (t r col : Nat) : EngM (BitVec 6 × Option Nat) := do
  let b := c.block
  let mask ← if drRows b then engNat v (upBy (plane b 0x40) (4 * t)) 4 else pure (2 ^ 32 - 1)
  if mask / 2 ^ r % 2 = 0 then pure (0, none)
  else
    let s ← get
    if s.accFails c.bank (fieldAt b 0x14 2 + t) true fun i => i == 32 * r + col then engFault .check 0
    let g := mul32 ((s.accBank c.bank (fieldAt b 0x14 2 + t) true).elem r col).toNat (fieldAt b 0x60 4)
    match ← engStoredRow v b t r col with
    | none =>
        let ea := shadowAt b (32 * t + r) col
        let sh ← engNat v ea 4
        let new := add32 sh g.bits
        engPut v ea 4 new.bits
        pure (g.flags ||| new.flags, none)
    | some row =>
        let (moments, u, f) ← engMoments v c (32 * t + r) col g.bits
        let ea := weightAt b row col
        let _ ← engPlace v true ea (weightBytes b)
        let w ← engNat v ea (weightBytes b)
        let new := weightStep b w u
        let _ ← engMap (fun m => engPut v m.1 8 m.2.bits.toNat) moments
        engPut v ea (weightBytes b) new.bits
        pure (g.flags ||| f ||| new.flags, some (weightMag b new.bits))

/-! ## One group of a regrowth (R287) -/

/-- Of two candidates the one whose magnitude is larger, the first on a tie. -/
def largerOf (x y : Nat × Nat) : Nat × Nat := if x.2 < y.2 then y else x
/-- Of two candidates the one whose magnitude is smaller, the first on a tie. -/
def smallerOf (x y : Nat × Nat) : Nat × Nat := if y.2 < x.2 then y else x
/-- One group: flags, magnitudes of the weights it wrote, and whether it swapped. -/
def regrowGroup (v : Env) (c : Cmd) (t col g : Nat) : EngM (BitVec 6 × List Nat × Bool) := do
  let b := c.block
  let (i0, i1) ← engNibble v b t col g
  let pruned := (List.range 4).filter fun i => i != i0 && i != i1
  let (p0, p1) := (pruned.getD 0 0, pruned.getD 1 0)
  let dense (i : Nat) : Nat := 32 * t + 4 * g + i
  let s0 ← engNat v (shadowAt b (dense p0) col) 4
  let s1 ← engNat v (shadowAt b (dense p1) col) 4
  let row := 16 * t + 2 * g
  let e := weightBytes b
  let w0 ← engNat v (weightAt b row col) e
  let w1 ← engNat v (weightAt b (row + 1) col) e
  let mags := [s0 % 2 ^ 31, s1 % 2 ^ 31, weightMag b w0, weightMag b w1]
  if mags.any fun m => decide (0x7F800000 < m) then pure (0, [], false)
  else
    let (p, sp) := largerOf (p0, s0 % 2 ^ 31) (p1, s1 % 2 ^ 31)
    let (q, wq) := smallerOf (i0, weightMag b w0) (i1, weightMag b w1)
    let bound := mul32 (fieldAt b 0x78 4) wq
    let above := match (f32 sp).cmp (f32 bound.bits) with
      | some i => decide (0 < i)
      | none => false
    if !above then pure (bound.flags, [], false)
    else
      let sh := if p = p0 then s0 else s1
      let new := (weightFmt b).round .engine (match (f32 (fieldAt b 0x64 4)).mul (f32 sh) with
        | some x => x.negate
        | none => .nan true)
      let (other, wo) := if q = i0 then (i1, w1) else (i0, w0)
      let (lo, hi, wlo, whi) := if p < other then (p, other, new.bits, wo) else (other, p, wo, new.bits)
      let writes := (if wlo = w0 then [] else [(row, wlo)]) ++ (if whi = w1 then [] else [(row + 1, whi)])
      let moments ← engMap (fun off => do
        let (eq, _) ← engMoment v (momentAt b off (dense q) col)
        let (_, n) ← engMoment v (momentAt b off (dense p) col)
        pure (momentAt b off (dense p) col, ({ value := 0, stamp := c.datum n % 2 ^ 24, sel := eq.sel } : Aged))) (momentPlanes c)
      let places := (writes.map fun x => (weightAt b x.1 col, e)) ++ [(shadowAt b (dense p) col, 4), (shadowAt b (dense q) col, 4), (metaAt b t col, 4)]
      let _ ← engMap (fun x => engPlace v true x.1 x.2) places
      let word ← engNat v (metaAt b t col) 4
      engPut v (metaAt b t col) 4 (word - word / 2 ^ (4 * g) % 16 * 2 ^ (4 * g) + (lo + 4 * hi) * 2 ^ (4 * g))
      let _ ← engMap (fun x => engPut v (weightAt b x.1 col) e x.2) writes
      engPut v (shadowAt b (dense p) col) 4 0
      engPut v (shadowAt b (dense q) col) 4 0
      let _ ← engMap (fun m => engPut v m.1 8 m.2.bits.toNat) moments
      pure (bound.flags ||| new.flags, writes.map fun x => weightMag b x.2, true)

/-! ## The whole command (R283, R284) -/

/-- What a drain has gathered: flags, the largest magnitude written, and swaps. -/
structure DrainAcc where
  flags : BitVec 6
  mag : Option Nat
  swaps : Nat
  deriving DecidableEq, Repr

/-- Elements in turn, until one faults: the fault with its tile, what was gathered, and the state; or a wait. -/
inductive DrainOut where
  | ran (fault : Option (EngStatus × DWord × Nat)) (acc : DrainAcc) (s : State)
  | wait (tile : Nat) (rebuild : Bool)
/-- The elements of a drain from a list of their numbers, 1024 to a tile. -/
def State.drainElems (s : State) (c : Cmd) : List Nat → DrainAcc → DrainOut
  | [], acc => .ran none acc s
  | i :: r, acc => match s.engineRun (drainElem (s.cmdEnv c) c (i / 1024) (i / 32 % 32) (i % 32)) with
    | .done (f, w) t => t.drainElems c r { acc with flags := acc.flags ||| f, mag := match w with
        | none => acc.mag
        | some x => maxMag acc.mag x }
    | .fault code ea _ _ => .ran (some (code, ea, i / 1024)) acc s
    | .wait k b => .wait k b
/-- The groups of a regrowth, 256 to a tile: eight of each column. -/
def State.regrowGroups (s : State) (c : Cmd) : List Nat → DrainAcc → DrainOut
  | [], acc => .ran none acc s
  | i :: r, acc => match s.engineRun (regrowGroup (s.cmdEnv c) c (i / 256) (i / 8 % 32) (i % 8)) with
    | .done (f, ws, swapped) t => t.regrowGroups c r { flags := acc.flags ||| f, mag := ws.foldl maxMag acc.mag, swaps := acc.swaps + swapped.toNat }
    | .fault code ea _ _ => .ran (some (code, ea, i / 256)) acc s
    | .wait k b => .wait k b

/-- Where the amax word of a command lies (R284): here in a COHERENT page, on another device, which checks it, or where it may not. -/
inductive AmaxPlace where
  | here
  | far (device la : Nat)
  | bad
def State.amaxPlace (s : State) (c : Cmd) : AmaxPlace :=
  let ea := plane c.block 0x48
  if ea.toNat % 4 ≠ 0 then .bad
  else match s.target ea with
    | some (.here la) => if ((s.pageAt c.asid la).map fun p => attrCoh p.attr == 2).getD false then .here else .bad
    | some (.remote d la) => .far d la
    | some (.scratch _) => .bad
    | none => .bad
/-- The publication of a magnitude (R284). -/
def publishAmax (v : Env) (ea : DWord) (m : Nat) : EngM Unit := do
  let a ← engNat v ea 4
  let less := match (f32 a).cmp (f32 m) with
    | some i => decide (i < 0)
    | none => true
  if less then engPut v ea 4 m
/-- ZERO (R282). -/
def State.zeroSlots (s : State) (core s0 : Nat) : Nat → State
  | 0 => s
  | n + 1 => (s.freshBank core (s0 + n) true AccBank.zero).zeroSlots core s0 n
/-- The elements of a drain or a regrowth whose turn has come, under the datums it read (R282, R283, R287): its end, and the largest magnitude it wrote. -/
def State.drainRun (s : State) (c : Cmd) : EngOut (CmdEnd × Option Nat) :=
  let b := c.block
  let regrow := c.kind == .mmRegrow
  let nt := fieldAt b 0x16 2
  let out := if regrow then s.regrowGroups c (List.range (256 * nt)) { flags := 0, mag := none, swaps := 0 }
    else s.drainElems c (List.range (1024 * nt)) { flags := 0, mag := none, swaps := 0 }
  match out with
  | .wait k r => .wait k r
  | .ran fault acc t =>
      let t := if fault.isNone && !regrow && fieldAt b 0x11 1 % 2 == 1 then t.zeroSlots c.bank (fieldAt b 0x14 2) nt else t
      let e : CmdEnd := match fault with
        | none => { code := .ok, detail := if regrow then min acc.swaps 65535 else 0, fpsum := acc.flags }
        | some (code, ea, tile) => { code := code, faddr := ea, detail := if regrow then min acc.swaps 65535 else tile, fpsum := acc.flags }
      .done (e, acc.mag) t
/-- A drain or a regrowth that publishes no magnitude, or to a word here, in a COHERENT page (R284). -/
def State.drainWork (s : State) (c : Cmd) : EngOut CmdEnd :=
  let amax := plane c.block 0x48
  match s.drainRun c with
  | .wait k r => .wait k r
  | .fault code ea d t => .fault code ea d t
  | .done (e, mag) t => match amax != 0, mag with
    | true, some m => (match (t.writeBack c.core).engineRun (publishAmax (t.cmdEnv c) amax m) with
        | .done _ u => .done e u
        | .fault code ea _ u => .done (if e.code == .ok then { e with code := code, faddr := ea } else e) u
        | .wait k r => .wait k r)
    | _, _ => .done e t
/-- The status of an answer to a command's request: OK, or that of its cause; a word that fails a check of its page is one that may not be published to (R284, R264). -/
def amaxCode (w : Word) : EngStatus := if w = 0 then .ok else if w.toNat = Cause.deviceLost.code then .deviceLost else engCode (causeOfCode w.toNat)
/-- A request of a command to another device, whose answer comes into inbuf: 0, or a cause (R284). (DESIGN CHOICE: log entry 35.) -/
def State.askAmax (s : State) (id : Nat) (c : Cmd) (device : Nat) (m : FlitMsg) : State :=
  let (tag, s) := s.request device m (.command id) c.launch
  s.setCmd id { c with gate := .waiting (some tag), inbuf := [] }
/-- The step of a drain whose amax word lies on another device (R284): the word is checked there, the drain runs, and its magnitude is published there as one FP32 maximum. None while it waits for an answer. -/
def State.farDrain (s : State) (id : Nat) (c : Cmd) (device la : Nat) : Option (Except CmdEnd State) :=
  let amax := plane c.block 0x48
  if s.unreachable device && c.inbuf.isEmpty then some (.error { code := .deviceLost, faddr := amax })
  else match c.gate, c.inbuf, c.results with
    | .ready, _, _ => some (.ok (s.askAmax id c device (.rdreq { asid := c.asid, parts := [{ lane := 0, la := la, kind := .amax }] })))
    | _, [], _ => none
    | _, w :: _, [] =>
        if w ≠ 0 then some (.error { code := amaxCode w, faddr := amax })
        else (match s.drainRun c with
          | .wait k r => some (.ok (s.cmdWaits id c k r))
          | .fault code ea d t => some (.ok (t.endCmd id c { code := code, faddr := ea, detail := d }))
          | .done (e, none) t => some (.ok (t.endCmd id c e))
          | .done (e, some m) t =>
              let c := { c with results := [{ item := 0, code := e.code, faddr := e.faddr, flags := e.fpsum, detail := e.detail }] }
              some (.ok ((t.writeBack c.core).askAmax id c device (.atomreq { asid := c.asid, op := .fmax, parts := [{ lane := 0, la := la, args := [BitVec.ofNat 32 m] }] }))))
    | _, w :: _, r :: _ => some (.error (if r.code == .ok && w != 0 then { code := amaxCode w, faddr := amax, fpsum := r.flags, detail := r.detail } else { code := r.code, faddr := r.faddr, fpsum := r.flags, detail := r.detail }))

/-! ## Order with sweeps (R286) -/

/-- Is it the turn of a command of a unit that runs one at a time: it has begun, or none has and it goes before the others that wait (R421, R427, R431)? -/
def State.unitTurn (s : State) (id : Nat) (c : Cmd) (same : Cmd → Bool) : Bool :=
  s.eng.cmds.all fun x => x.1 == id || !same x.2 || c.started || (!x.2.started && s.cmdBefore c x.2)
/-- Is it a drain's turn in its cluster, with the banks it reads left to it? -/
def State.drainTurn (s : State) (id : Nat) (c : Cmd) : Bool :=
  s.cmdMayRun c && s.banksFree c && s.unitTurn id c fun x => clusterOf x.core == clusterOf c.core && (x.kind == .mmDrain || x.kind == .mmRegrow)
/-- May a drain that has not started start: its turn has come, and no sweep of its domains runs? -/
def State.drainStarts (s : State) (id : Nat) (c : Cmd) : Bool := s.drainTurn id c && (s.drainDomains c).all fun n => (lookup s.dev.sweeps n).isNone
/-- A drain that starts: it reads the datum of each of its domains once. -/
def State.startDrain (s : State) (c : Cmd) : Cmd :=
  { c with started := true, epoch := s.dev.qepoch, datums := (s.drainDomains c).map fun n => (n, (s.dev.datum.toArray.getD n 0).toNat) }
/-- DRAIN_SWEEP_ORDER (R286): a sweep of the domain begins its walk when no started drain of the domain is left; a drain of the domain starts when no sweep of its domains is. -/
def execDrainSweepOrder (n : Domain) (s : State) : Host.Outcome State Fault Refusal :=
  match lookup s.dev.sweeps n.val with
  | some w =>
      if w.walking || s.draining n.val then .refused .notEnabled
      else .next { s with dev := { s.dev with sweeps := put s.dev.sweeps n.val { w with walking := true } } }
  | none => match s.eng.cmds.find? fun c => (c.2.kind == .mmDrain || c.2.kind == .mmRegrow) && !c.2.started && (s.drainDomains c.2).contains n.val && s.drainStarts c.1 c.2 with
    | some (id, c) => .next (s.setCmd id (s.startDrain c))
    | none => .refused .notEnabled

/-! ## Sweeps (R396) -/

/-- One element rewritten; none stops the sweep. An element whose line fails its check is left. (DEDUCED: log entry 51.) -/
def State.sweepElem (s : State) (tag n start pa : Nat) : Option State :=
  if s.lineBad none (pa / 64) then some s
  else
    let e := agedOf (BitVec.ofNat 64 (natOfBytes (cellsRead s.mem.hbm pa 8)))
    match s.decayFactor tag n e.sel with
    | none => none
    | some lam =>
        let age := ageOf (BitVec.ofNat 64 start) e.stamp
        if age ≥ 2 ^ 23 then some s
        else
          let v := FFmt.fp32.mul .engine (f32 e.value.toNat) (fDecay lam age)
          let new : Aged := { value := BitVec.ofNat 32 v.bits, stamp := start % 2 ^ 24, sel := e.sel }
          some (s.putBytes none false (.phys pa) (bytesOfNat 8 new.bits.toNat))
/-- A sweep over: Bn is set when it went through, and its status is that of the domain. -/
def State.endSweep (s : State) (n : Domain) (w : Sweep) (bad : Bool) : State :=
  let bit : BitVec 16 := BitVec.twoPow 16 n.val
  { s with dev := { s.dev with
    sweeps := del s.dev.sweeps n.val
    sweepBad := if bad then s.dev.sweepBad ||| bit else s.dev.sweepBad &&& ~~~bit
    sweepBase := if bad then s.dev.sweepBase else s.dev.sweepBase.set n (BitVec.ofNat 64 w.start) } }
/-- A sweep past the first of its pieces. -/
def Sweep.pass (w : Sweep) : Sweep := { w with pieces := w.pieces.drop 1, at_ := 0 }
/-- A sweep with the element after the next in turn. After the last of a piece, the pieces of other pages with the same frame are passed, too: each frame is taken once (R396). -/
def State.sweepNext (s : State) (w : Sweep) (frame : Nat) : Sweep :=
  if w.at_ + 1 < 8192 then { w with at_ := w.at_ + 1 }
  else { w.pass with pieces := w.pass.pieces.filter fun x => (s.pageAt x.1 x.2).map (·.phys x.2) != some frame }
/-- SWEEP_COMPLETE (R396, R172): a walk rewrites its next element, and after the last it is over. -/
def execSweepComplete (n : Domain) (s : State) : Host.Outcome State Fault Refusal :=
  match lookup s.dev.sweeps n.val with
  | none => .refused .notEnabled
  | some w =>
      if !w.walking then .refused .notEnabled
      else match w.pieces with
        | [] => .next (s.endSweep n w false)
        | (asid, la) :: _ => match s.pageAt asid la with
          | none => .next { s with dev := { s.dev with sweeps := put s.dev.sweeps n.val w.pass } }
          | some p => match s.sweepElem w.epoch n.val w.start (p.phys la + 8 * w.at_) with
            | none => .next (s.endSweep n w true)
            | some t => .next { t with dev := { t.dev with sweeps := put t.dev.sweeps n.val (s.sweepNext w (p.phys la)) } }

end Sys2Proof.Machine
end

