-- ==== Sys2Proof/Machine/Solver.lean ====
section
/-! DEFINITION. The Block Solver Units (R288 to R299, R429, R430): item records, assembly, factorisations, solves and projected Gauss–Seidel, and the taking of items. -/
namespace Sys2Proof.Machine

/-! ## Arithmetic of an item (R291) -/

/-- What an item's arithmetic gathers: its flags, and whether a NaN arose. -/
structure SolveAcc where
  flags : BitVec 6
  nan : Bool
  deriving DecidableEq, Repr
/-- Arithmetic that gathers. -/
abbrev SolM := StateM SolveAcc

/-- The format of PREC. -/
def precFmt (b : List Byte) : FFmt := if fieldAt b 0x10 1 = 0 then .fp32 else .fp64
/-- Ldiv (R429). -/
def divCycles (b : List Byte) : Nat := if fieldAt b 0x10 1 = 0 then 12 else 24
/-- A rounded result noted. -/
def solved (f : FFmt) (r : FRes) : SolM Nat := fun a => (r.bits, { flags := a.flags ||| r.flags, nan := a.nan || (f.value r.bits).isNan })
/-- One EXACT_SUM, rounded once. -/
def solveSum (f : FFmt) (ts : List Term) : SolM Nat := solved f (f.roundSum .engine (exactSum ts))
/-- The negation of a term. -/
def termNeg (t : Term) : Term := t.map FVal.negate
/-- The product of two terms. -/
def termMul (a b : Term) : Term := a.bind fun x => b.bind fun y => x.mul y
/-- A value of the format as a term. -/
def termOf (f : FFmt) (x : Nat) : Term := some (f.value x)
/-- x less the sum of products, rounded once. -/
def solveLin (f : FFmt) (x : Nat) (ps : List (Nat × Nat)) : SolM Nat :=
  solveSum f (termOf f x :: ps.map fun p => termNeg (termMul (termOf f p.1) (termOf f p.2)))
/-- A rounded quotient. -/
def solveDiv (f : FFmt) (x y : Nat) : SolM Nat := solved f (f.div .engine (f.value x) (f.value y))
/-- A loop with a state of its own. -/
def solveFold {α β : Type} (g : β → α → SolM β) : β → List α → SolM β
  | b, [] => pure b
  | b, x :: r => do
      let c ← g b x
      solveFold g c r
/-- A list of results. -/
def solveMap {α β : Type} (g : α → SolM β) : List α → SolM (List β)
  | [] => pure []
  | x :: r => do
      let y ← g x
      let ys ← solveMap g r
      pure (y :: ys)

/-- A magnitude for the search of a pivot: every NaN above infinity, and all alike (R294). -/
def pivotKey (f : FFmt) (x : Nat) : Nat := min (x % f.signBit) (f.infBits + 1)
/-- Is the number not above zero, or a NaN (R295, R298)? -/
def notPositive (f : FFmt) (x : Nat) : Bool :=
  let k := pivotKey f x
  k == 0 || decide (f.infBits < k) || decide (f.signBit ≤ x)

/-! ## Matrices and vectors of an item: 16 elements to a row -/

/-- An element of a matrix. -/
def at2 (a : List Nat) (i j : Nat) : Nat := a.getD (16 * i + j) 0
/-- An element of a matrix replaced. -/
def set2 (a : List Nat) (i j x : Nat) : List Nat := a.set (16 * i + j) x
/-- Two rows exchanged across the first n columns. -/
def swapRows (a : List Nat) (n k p : Nat) : List Nat :=
  (List.range n).foldl (fun a j => set2 (set2 a k j (at2 a p j)) p j (at2 a k j)) a
/-- Two elements of a vector exchanged. -/
def swapAt (x : List Nat) (i j : Nat) : List Nat := (x.set i (x.getD j 0)).set j (x.getD i 0)
/-- Numbers from lo below hi. -/
def span (lo hi : Nat) : List Nat := (List.range (hi - lo)).map fun k => lo + k
/-- The same, descending. -/
def down (lo hi : Nat) : List Nat := (span lo hi).reverse

/-- A matrix read where it is needed. -/
def engMatrix (v : Env) (base : DWord) (e n : Nat) (need : Nat → Nat → Bool) : EngM (List Nat) := do
  let rows ← engMap (fun i => engMap (fun j => if decide (i < n) && decide (j < n) && need i j then engNat v (upBy base (16 * e * i + e * j)) e else pure 0) (List.range 16)) (List.range 16)
  pure rows.flatten
/-- A vector read. -/
def engVector (v : Env) (base : DWord) (e n : Nat) : EngM (List Nat) := engMap (fun i => engNat v (upBy base (e * i)) e) (List.range n)
/-- A matrix written where it was computed. -/
def engPutMatrix (v : Env) (base : DWord) (e n : Nat) (a : List Nat) (need : Nat → Nat → Bool) : EngM Unit := do
  let _ ← engMap (fun i => engMap (fun j => if need i j then engPut v (upBy base (16 * e * i + e * j)) e (at2 a i j) else pure ()) (List.range n)) (List.range n)
  pure ()
/-- A vector written. -/
def engPutVector (v : Env) (base : DWord) (e : Nat) (x : List Nat) : EngM Unit := do
  let _ ← engMap (fun y => engPut v (upBy base (e * y.2)) e y.1) x.zipIdx
  pure ()

/-! ## Item records (R289, R290) -/

/-- The codes of ISTAT (R290). -/
inductive ItemCode where
  | ok | singular | notPd | maxIt | deadline | tooMany | badItem | fault
  deriving DecidableEq, Repr
/-- The number of an item code. -/
def ItemCode.code : ItemCode → Nat
  | .ok => 0 | .singular => 1 | .notPd => 2 | .maxIt => 3 | .deadline => 4 | .tooMany => 5 | .badItem => 6 | .fault => 7

/-- How an item stands: its code, STEP, the bits of ISTAT beside NANSEEN, its flags and NANSEEN, and its compute cycles. -/
structure ItemOut where
  code : ItemCode
  step : Nat
  bits : Nat := 0
  acc : SolveAcc := { flags := 0, nan := false }
  cycles : Nat := 0
  deriving DecidableEq, Repr
/-- ISTAT (R290). -/
def ItemOut.istat (o : ItemOut) : Nat := o.code.code * 2 ^ 28 + (if o.acc.nan then 2 ^ 11 else 0) + o.bits + o.step % 256

/-- The fields of a record. -/
def recAddr (r : List Byte) (off : Nat) : DWord := BitVec.ofNat 64 (fieldAt r off 8)
/-- The addresses a command needs, and those it uses (R289). -/
def needs (k : EngineKind) (mode : Nat) : List Nat :=
  match k with
  | .bsAsm => [0x08, 0x10, 0x20]
  | .bsLu => [0x08, 0x18]
  | .bsLdl => [0x08]
  | .bsTrsv => if mode = 0 then [0x08, 0x10, 0x18] else [0x08, 0x10]
  | .bsPgs => [0x08, 0x10, 0x20]
  | .bsBack => [0x08, 0x10, 0x18]
  | .mmLdw | .mmSwapw | .mmRun | .mmSwapacc | .mmAccrd | .mmAccwr | .mmDrain | .mmRegrow | .srtKeys | .srtPairs | .trvBuild | .trvQuery | .phaseRegroup | .phaseRestore | .collPost => []
/-- Is the record bad (R289)? -/
def recordBad (k : EngineKind) (mode e : Nat) (r : List Byte) : Bool :=
  let used := needs k mode ++ (if k == .bsPgs then [0x28] else [])
  (k != .bsAsm && decide (16 < fieldAt r 0 1)) || !zeroes r 1 3 || !zeroes r 0x3C 4
    || (needs k mode).any (fun o => fieldAt r o 8 == 0) || used.any fun o => fieldAt r o 8 % e != 0

/-! ## bs.asm (R292, R293) -/

/-- A contact record as it stands: its bytes. -/
def contactBody (r : List Byte) (b : Bool) : Nat := fieldAt r (if b then 0x1E else 0x1C) 2
/-- Does the record name a body that does not exist (R292)? -/
def contactBad (nbody : Nat) (r : List Byte) : Bool := [false, true].any fun b => contactBody r b != 0xFFFF && decide (nbody ≤ contactBody r b)
/-- The bodies of a contact, each with the sign of its side: σ_A is −1. -/
def contactSides (r : List Byte) : List (Nat × Bool) := ([false, true].filter fun b => contactBody r b != 0xFFFF).map fun b => (contactBody r b, !b)
/-- An element of a body record. -/
def engBody (v : Env) (b : List Byte) (x k : Nat) : EngM Nat :=
  let e := precBytes b
  engNat v (upBy (plane b 0x50) (16 * e * x + e * k)) e
/-- The environment of a contact: none for the world with itself. -/
def engContactEnv (v : Env) (b r : List Byte) : EngM (Option Nat) :=
  match contactSides r with
  | [] => pure none
  | (x, _) :: _ => do
      let w ← engNat v (upBy (plane b 0x50) (16 * precBytes b * x + precBytes b * 13)) 4
      pure (some w)
/-- The contact records in order. -/
def engContacts (v : Env) (b : List Byte) : EngM (List (List Byte)) := engMap (fun k => engRead v (upBy (plane b 0x40) (32 * k)) 32) (List.range (fieldAt b 0x48 4))

/-- A contact ready for the sums: the sides with body, negative sign and torque arms, the normal, and the depth. -/
structure Contact where
  sides : List (Nat × Bool × List Nat)
  normal : List Term
  depth : Term
/-- Torque arms of one side (R293). -/
def torque (f : FFmt) (r : List Byte) (p : List Nat) : SolM (List Nat) := do
  let fp (off : Nat) : Term := some (FFmt.fp32.value (fieldAt r off 4))
  let arms ← solveMap (fun d => solveSum f [fp (0xC + 4 * d), termNeg (termOf f (p.getD d 0))]) (List.range 3)
  solveMap (fun d => solveSum f [termMul (termOf f (arms.getD ((d + 1) % 3) 0)) (fp (4 * ((d + 2) % 3))),
    termNeg (termMul (termOf f (arms.getD ((d + 2) % 3) 0)) (fp (4 * ((d + 1) % 3))))]) (List.range 3)
/-- The terms of A(i, j) (R293). -/
def asmTerms (f : FFmt) (body : Nat → Nat → Nat) (x y : Contact) : List Term :=
  x.sides.flatMap fun s => y.sides.flatMap fun t => if s.1 ≠ t.1 then [] else
    (List.range 3).flatMap fun d =>
      let lin := termMul (termMul (termOf f (body s.1 3)) (x.normal.getD d none)) (y.normal.getD d none)
      let ang := termMul (termMul (termOf f (body s.1 (4 + d))) (termOf f (s.2.2.getD d 0))) (termOf f (t.2.2.getD d 0))
      if s.2.1 == t.2.1 then [lin, ang] else [termNeg lin, termNeg ang]
/-- The terms of b(i) (R293). -/
def biasTerms (f : FFmt) (beta : Term) (body : Nat → Nat → Nat) (x : Contact) : List Term :=
  termMul beta x.depth :: x.sides.flatMap fun s => (List.range 3).flatMap fun d =>
    let lin := termMul (x.normal.getD d none) (termOf f (body s.1 (7 + d)))
    let ang := termMul (termOf f (s.2.2.getD d 0)) (termOf f (body s.1 (10 + d)))
    if s.2.1 then [termNeg lin, termNeg ang] else [lin, ang]
/-- One item assembled. -/
def asmItem (v : Env) (b : List Byte) (ea : DWord) (r : List Byte) (item : Nat) : EngM ItemOut := do
  let f := precFmt b
  let e := precBytes b
  let all ← engContacts v b
  let envs ← engMap (fun c => do
    let x ← engContactEnv v b c
    pure (c, x)) all
  let mine := (envs.filter fun x => x.2 == some item).map (·.1)
  let cs := mine.take 16
  let n := cs.length
  let names := (cs.flatMap fun c => (contactSides c).map (·.1)).eraseDups
  let bodies ← engMap (fun x => do
    let es ← engMap (engBody v b x) (List.range 13)
    pure (x, es)) names
  let body (x k : Nat) : Nat := ((bodies.find? fun y => y.1 == x).map fun y => y.2.getD k 0).getD 0
  let run : SolM (List Nat × List Nat) := do
    let contacts ← solveMap (fun c => do
      let sides ← solveMap (fun (s : Nat × Bool) => do
        let t ← torque f c ((List.range 3).map (body s.1))
        pure (s.1, !s.2, t)) (contactSides c)
      pure ({ sides := sides, normal := (List.range 3).map fun d => some (FFmt.fp32.value (fieldAt c (4 * d) 4)), depth := some (FFmt.fp32.value (fieldAt c 0x18 4)) } : Contact)) cs
    let a ← solveMap (fun x => solveMap (fun y => solveSum f (asmTerms f body x y)) contacts) contacts
    let bs ← solveMap (fun x => solveSum f (biasTerms f (some (FFmt.fp32.value (fieldAt b 0x4C 4))) body x)) contacts
    pure (a.flatMap fun (row : List Nat) => row ++ List.replicate (16 - row.length) 0, bs)
  let ((a, bs), acc) := run { flags := 0, nan := false }
  engPutMatrix v (recAddr r 0x08) e n a fun _ _ => true
  engPutVector v (recAddr r 0x10) e bs
  engPutVector v (recAddr r 0x20) e (List.replicate n 0)
  engPutVector v (upBy (recAddr r 0x20) (16 * e)) e (List.replicate n f.infBits)
  engPut v (upBy ea 0x30) 4 (n * 2 ^ 16 + (crc16 (cs.flatMap fun c => (c.drop 0x1C).take 4)).toNat)
  engPut v ea 1 n
  pure { code := if mine.length ≤ 16 then .ok else .tooMany, step := n, acc := acc, cycles := 32 + 2 * n + 16 + 2 * mine.length + n * n }

/-! ## Factorisations and solves (R294 to R297) -/

/-- The elimination below pivot k. -/
def eliminate (f : FFmt) (n k : Nat) (a : List Nat) : SolM (List Nat) :=
  solveFold (fun a i => do
    let l ← solveDiv f (at2 a i k) (at2 a k k)
    let a := set2 a i k l
    solveFold (fun a j => do
      let x ← solveLin f (at2 a i j) [(l, at2 a k j)]
      pure (set2 a i j x)) a (span (k + 1) n)) a (span (k + 1) n)
/-- A factorisation with row exchanges (R294, R297): pivots from a search or a log, the matrix, the pivots found, the step of a zero pivot, and whether a pivot was small. -/
def luSteps (f : FFmt) (n : Nat) (tol : Option Nat) (choose : List Nat → Nat → Nat) : List Nat → List Nat → List Nat → Bool → SolM (List Nat × List Nat × Option Nat × Bool)
  | [], a, piv, small => pure (a, piv, none, small)
  | k :: r, a, piv, small => do
      let p := choose a k
      let a := swapRows a n k p
      let piv := piv ++ [p]
      let d := at2 a k k
      if pivotKey f d = 0 then pure (a, piv, some k, small)
      else
        let low := match tol with
          | none => false
          | some t => match (f.value (d % f.signBit)).cmp (FFmt.fp32.value t) with
            | some i => decide (i < 0)
            | none => false
        let a ← eliminate f n k a
        luSteps f n tol choose r a piv (small || low)
/-- The row of the largest magnitude from k, the lowest on a tie (R294). -/
def pivotRow (f : FFmt) (n : Nat) (a : List Nat) (k : Nat) : Nat :=
  (span (k + 1) n).foldl (fun p i => if pivotKey f (at2 a p k) < pivotKey f (at2 a i k) then i else p) k
/-- R294. -/
def luItem (v : Env) (b r : List Byte) : EngM ItemOut := do
  let f := precFmt b
  let e := precBytes b
  let n := fieldAt r 0 1
  let a ← engMatrix v (recAddr r 0x08) e n fun _ _ => true
  let ((a, piv, zero, small), acc) := luSteps f n (some (fieldAt b 0x24 4)) (pivotRow f n) (List.range n) a [] false { flags := 0, nan := false }
  engPutMatrix v (recAddr r 0x08) e n a fun _ _ => true
  let _ ← engMap (fun p => engPut v (upBy (recAddr r 0x18) p.2) 1 p.1) piv.zipIdx
  pure { code := if zero.isSome then .singular else .ok, step := zero.getD n, bits := if small then 2 ^ 10 else 0, acc := acc, cycles := 32 + 2 * n + n * divCycles b + n * (n + 1) / 2 }

/-- The steps of R295: the lower triangle, and the step of a diagonal that is not above zero. -/
def ldlSteps (f : FFmt) (n : Nat) : List Nat → List Nat → SolM (List Nat × Option Nat)
  | [], a => pure (a, none)
  | k :: r, a => do
      let d := at2 a k k
      if notPositive f d then pure (a, some k)
      else
        let w (i : Nat) : Nat := at2 a i k
        let b ← solveFold (fun b i => do
          let l ← solveDiv f (w i) d
          pure (set2 b i k l)) a (span (k + 1) n)
        let b ← solveFold (fun b i => solveFold (fun b j => do
          let x ← solveLin f (at2 b i j) [(at2 b i k, w j)]
          pure (set2 b i j x)) b (span (k + 1) (i + 1))) b (span (k + 1) n)
        ldlSteps f n r b
/-- R295. -/
def ldlItem (v : Env) (b r : List Byte) : EngM ItemOut := do
  let f := precFmt b
  let e := precBytes b
  let n := fieldAt r 0 1
  let lower (i j : Nat) : Bool := decide (j ≤ i)
  let a ← engMatrix v (recAddr r 0x08) e n lower
  let ((a, stop), acc) := ldlSteps f n (List.range n) a { flags := 0, nan := false }
  engPutMatrix v (recAddr r 0x08) e n a lower
  pure { code := if stop.isSome then .notPd else .ok, step := stop.getD n, acc := acc, cycles := 32 + 2 * n + n * divCycles b + n * (n + 1) / 2 }

/-- The forward step of R296: x_i less the earlier products, ascending. -/
def forward (f : FFmt) (a : List Nat) (n : Nat) (x : List Nat) : SolM (List Nat) :=
  solveFold (fun x i => do
    let y ← solveLin f (x.getD i 0) ((List.range i).map fun j => (at2 a i j, x.getD j 0))
    pure (x.set i y)) x (List.range n)
/-- The backward step of R296: divided by the diagonal, descending. -/
def backward (f : FFmt) (a : List Nat) (n : Nat) (x : List Nat) : SolM (List Nat) :=
  solveFold (fun x i => do
    let y ← solveLin f (x.getD i 0) ((span (i + 1) n).map fun j => (at2 a i j, x.getD j 0))
    let z ← solveDiv f y (at2 a i i)
    pure (x.set i z)) x (down 0 n)
/-- The backward step along the transposed unit lower factor, descending (R296, R297). -/
def backwardUnit (f : FFmt) (a : List Nat) (n : Nat) (x : List Nat) : SolM (List Nat) :=
  solveFold (fun x i => do
    let y ← solveLin f (x.getD i 0) ((span (i + 1) n).map fun j => (at2 a j i, x.getD j 0))
    pure (x.set i y)) x (down 0 n)
/-- The forward step along the transposed upper factor, ascending (R297). -/
def forwardUpper (f : FFmt) (a : List Nat) (n : Nat) (x : List Nat) : SolM (List Nat) :=
  solveFold (fun x i => do
    let y ← solveLin f (x.getD i 0) ((List.range i).map fun j => (at2 a j i, x.getD j 0))
    let z ← solveDiv f y (at2 a i i)
    pure (x.set i z)) x (List.range n)
/-- Does a pivot log break R296 and R297? -/
def pivBad (piv : List Nat) (n : Nat) : Bool := piv.zipIdx.any fun p => decide (p.1 < p.2) || decide (n ≤ p.1)
/-- The entries of a matrix that a mode of bs.trsv reads. -/
def trsvNeeds (mode i j : Nat) : Bool := if mode = 0 then true else if mode = 1 then decide (j ≤ i) else if mode = 2 then decide (j < i) else decide (i ≤ j)
/-- The vector that a mode of bs.trsv leaves (R296). -/
def trsvSteps (f : FFmt) (mode n : Nat) (a piv x : List Nat) : SolM (List Nat) := do
  let x := if mode = 0 then piv.zipIdx.foldl (fun x p => swapAt x p.2 p.1) x else x
  if mode = 1 then
    let z ← forward f a n x
    let y ← solveMap (fun i => solveDiv f (z.getD i 0) (at2 a i i)) (List.range n)
    backwardUnit f a n y
  else if mode = 2 then forward f a n x
  else if mode = 3 then backward f a n x
  else
    let x ← forward f a n x
    backward f a n x
/-- R296. -/
def trsvItem (v : Env) (b r : List Byte) : EngM ItemOut := do
  let f := precFmt b
  let e := precBytes b
  let n := fieldAt r 0 1
  let mode := fieldAt b 0x11 1
  let piv ← if mode = 0 then engVector v (recAddr r 0x18) 1 n else pure []
  if pivBad piv n then pure { code := .badItem, step := n }
  else
    let a ← engMatrix v (recAddr r 0x08) e n (trsvNeeds mode)
    let x ← engVector v (recAddr r 0x10) e n
    let (y, acc) := trsvSteps f mode n a piv x { flags := 0, nan := false }
    engPutVector v (recAddr r 0x10) e y
    pure { code := .ok, step := n, acc := acc, cycles := 32 + 2 * n + n * divCycles b + 2 * n + 8 }
/-- R297. -/
def backItem (v : Env) (b r : List Byte) : EngM ItemOut := do
  let f := precFmt b
  let e := precBytes b
  let n := fieldAt r 0 1
  let refac := fieldAt b 0x11 1 % 2 == 1
  let piv ← engVector v (recAddr r 0x18) 1 n
  if pivBad piv n then pure { code := .badItem, step := n }
  else
    let a ← engMatrix v (recAddr r 0x08) e n fun _ _ => true
    let y ← engVector v (recAddr r 0x10) e n
    let ((a, _, zero, _), acc) := (if refac then luSteps f n none (fun _ k => piv.getD k k) (List.range n) a [] false else pure (a, [], none, false)) { flags := 0, nan := false }
    if refac then engPutMatrix v (recAddr r 0x08) e n a fun _ _ => true
    match zero with
    | some k => pure { code := .singular, step := k, acc := acc, cycles := 32 + 2 * n + n * divCycles b + n * (n + 1) / 2 }
    | none =>
        let (w, acc) := (do
          let z ← forwardUpper f a n y
          backwardUnit f a n z : SolM (List Nat)) acc
        engPutVector v (recAddr r 0x10) e ((down 0 (n - 1)).foldl (fun w k => swapAt w k (piv.getD k k)) w)
        pure { code := .ok, step := n, acc := acc, cycles := 32 + 2 * n + n * divCycles b + (if refac then n * (n + 1) / 2 else 2 * n + 8) }

/-! ## Projected Gauss–Seidel (R298) -/

/-- λ within the bounds of row i (R64). -/
def clampTo (f : FFmt) (lo hi x : Nat) : SolM Nat := do
  let y ← solved f (f.minMax false true x lo)
  solved f (f.minMax false false y hi)
/-- The exact change of a λ: its magnitude, with NaN and NV where it is none. -/
def change (f : FFmt) (x y : Nat) : FVal × BitVec 6 :=
  match exactSum [termOf f x, termNeg (termOf f y)] with
  | .invalid => (.nan false, Flags.nv)
  | .quietNan => (.nan false, 0)
  | .inf _ => (.inf false, 0)
  | .num n e _ => (.fin false n.natAbs e, 0)
/-- The larger change: a NaN counts as the largest. -/
def largerChange (x y : FVal) : FVal :=
  if x.isNan then x else if y.isNan then y else match x.cmp y with
    | some i => if i < 0 then y else x
    | none => x
/-- One iteration: λ, and the largest change. -/
def pgsPass (f : FFmt) (n : Nat) (a bv lo hi : List Nat) : List Nat → List Nat → FVal → SolM (List Nat × FVal)
  | [], lam, d => pure (lam, d)
  | i :: r, lam, d => do
      let res ← solveLin f (bv.getD i 0) (((List.range n).filter (· != i)).map fun j => (at2 a i j, lam.getD j 0))
      let q ← solveDiv f res (at2 a i i)
      let new ← clampTo f (lo.getD i 0) (hi.getD i 0) q
      let (x, fl) := change f new (lam.getD i 0)
      modify fun s => { s with flags := s.flags ||| fl }
      pgsPass f n a bv lo hi r (lam.set i new) (largerChange d x)
/-- How the iterations end: the code, ITERS, RESID, λ. -/
structure PgsOut where
  code : ItemCode
  iters : Nat
  resid : Nat
  lam : List Nat
/-- The iterations, at most as many as the first argument, with the number made so far; the deadline test is of that number. (DEDUCED: log entry 12.) -/
def pgsIterate (f : FFmt) (n tol : Nat) (a bv lo hi : List Nat) (late : Nat → Bool) : Nat → Nat → Nat → List Nat → SolM PgsOut
  | 0, made, resid, lam => pure { code := .maxIt, iters := made, resid := resid, lam := lam }
  | fuel + 1, made, _, lam => do
      let (lam, d) ← pgsPass f n a bv lo hi (List.range n) lam (.fin false 0 0)
      let r := FFmt.fp32.round .engine d
      modify fun s => { flags := s.flags ||| r.flags, nan := s.nan || d.isNan }
      let small := match (FFmt.fp32.value r.bits).cmp (FFmt.fp32.value tol) with
        | some i => decide (i ≤ 0)
        | none => false
      if small then pure { code := .ok, iters := made + 1, resid := r.bits, lam := lam }
      else if fuel = 0 then pure { code := .maxIt, iters := made + 1, resid := r.bits, lam := lam }
      else if late (made + 1) then pure { code := .deadline, iters := made + 1, resid := r.bits, lam := lam }
      else pgsIterate f n tol a bv lo hi late fuel (made + 1) r.bits lam
/-- R298. The time at the end of an iteration is that of R429 after the item's start (DEDUCED, log entry 12). -/
def pgsItem (v : Env) (c : Cmd) (ea : DWord) (r : List Byte) : EngM ItemOut := do
  let b := c.block
  let f := precFmt b
  let e := precBytes b
  let n := fieldAt r 0 1
  engWrite v 4 (upBy ea 0x34) (List.replicate 8 0)
  let a ← engMatrix v (recAddr r 0x08) e n fun _ _ => true
  match (List.range n).find? fun i => notPositive f (at2 a i i) with
  | some i => pure { code := .notPd, step := i, cycles := 32 + 3 * n }
  | none =>
      let bv ← engVector v (recAddr r 0x10) e n
      let lo ← engVector v (recAddr r 0x20) e n
      let hi ← engVector v (upBy (recAddr r 0x20) (16 * e)) e n
      let wa := recAddr r 0x28
      let same ← if wa = 0 then pure false else do
        let x ← engNat v wa 4
        pure (x == fieldAt r 0x30 4)
      let warm ← if same then engVector v (upBy wa 8) e n else pure []
      let s ← get
      let deadline := fieldAt b 0x28 8
      let per := n * (divCycles b + 6)
      let late (k : Nat) : Bool := deadline != 0 && !c.cert && decide (deadline ≤ (s.cycle + k * per) / 4 % 2 ^ 64)
      let run : SolM PgsOut := do
        let start ← if same then pure warm else solveMap (fun i => clampTo f (lo.getD i 0) (hi.getD i 0) 0) (List.range n)
        pgsIterate f n (fieldAt b 0x24 4) a bv lo hi late (fieldAt b 0x20 4) 0 0 start
      let (out, acc) := run { flags := 0, nan := false }
      engPut v (upBy ea 0x34) 4 out.iters
      engPut v (upBy ea 0x38) 4 out.resid
      engPutVector v (recAddr r 0x10) e out.lam
      if wa != 0 then
        engPut v wa 4 (fieldAt r 0x30 4)
        engPutVector v (upBy wa 8) e out.lam
      pure { code := out.code, step := n, bits := if wa != 0 && !same then 2 ^ 9 else 0, acc := acc, cycles := 32 + 2 * n + out.iters * per }

/-! ## One item, and the taking of items (R288, R430) -/

/-- An item processed: its record, its checks, its work, and its ISTAT written last. (DEDUCED: log entry 52.) -/
def solveItem (v : Env) (c : Cmd) (item : Nat) : EngM ItemOut := do
  let b := c.block
  let ea := upBy (plane b 0x18) (64 * item)
  let r ← engRead v ea 64
  let n := fieldAt r 0 1
  let out ←
    if c.kind != .bsAsm && n == 0 then pure { code := .ok, step := 0, cycles := 32 }
    else if recordBad c.kind (fieldAt b 0x11 1) (precBytes b) r then pure { code := .badItem, step := n, cycles := 32 }
    else match c.kind with
      | .bsAsm => asmItem v b ea r item
      | .bsLu => luItem v b r
      | .bsLdl => ldlItem v b r
      | .bsTrsv => trsvItem v b r
      | .bsPgs => pgsItem v c ea r
      | .bsBack => backItem v b r
      | .mmLdw | .mmSwapw | .mmRun | .mmSwapacc | .mmAccrd | .mmAccwr | .mmDrain | .mmRegrow | .srtKeys | .srtPairs | .trvBuild | .trvQuery | .phaseRegroup | .phaseRestore | .collPost => pure { code := .badItem, step := n }
  engPut v (upBy ea 4) 4 out.istat
  pure out
/-- The first contact record of a bs.asm that names a body that does not exist (R292). (DEDUCED: log entry 52.) -/
def badContact (v : Env) (b : List Byte) : EngM (Option Nat) := do
  let all ← engContacts v b
  pure (all.findIdx? (contactBad (fieldAt b 0x58 4)))
/-- ISTATs of FAULT written where they can be (R288); a write into a tile that is not VALID waits, and the work starts over (R264). (DEDUCED: log entry 52.) -/
def State.faultItems (s : State) (c : Cmd) : List Nat → Except (Nat × Bool) State
  | [] => .ok s
  | i :: r => match s.engineRun (engPut (s.cmdEnv c) (upBy (plane c.block 0x18) (64 * i + 4)) 4 (7 * 2 ^ 28)) with
    | .done _ t => t.faultItems c r
    | .fault _ _ _ _ => s.faultItems c r
    | .wait k b => .error (k, b)

/-- The batch commands of a die that still have items, in the pool (R430). -/
def State.poolOf (s : State) (die : Nat) : List (Nat × Cmd) := s.eng.cmds.filter fun c => c.2.kind.isBatch && dieOf c.2.core == die && !c.2.left.isEmpty
/-- What the unit of a cluster takes (R430, R421): an item of its own cluster, which that cluster's unit takes first; else one of a cluster whose unit is at work. -/
def State.solverNext (s : State) (cl : Nat) : Option (Nat × Cmd) :=
  let pool := s.poolOf (dieOf (4 * cl))
  let own := pool.filter fun c => clusterOf c.2.core == cl
  let idle (c : Nat × Cmd) : Bool := decide ((lookup s.eng.solvers (clusterOf c.2.core)).getD 0 ≤ s.cycle)
  s.firstCmd ((if own.isEmpty then pool.filter fun c => !idle c else own).filter fun c => s.cmdMayRun c.2)
/-- SOLVER_TAKE_ITEM (R430, R288 to R298): a free unit runs the next item whole. -/
def execSolverTakeItem (cl : Nat) (s : State) : Host.Outcome State Fault Refusal :=
  if s.cycle < (lookup s.eng.solvers cl).getD 0 then .refused .notEnabled
  else match s.solverNext cl with
    | none => .refused .notEnabled
    | some (id, c) =>
        let item := c.left.headD 0
        let busy (t : State) (n : Nat) : State := { t with eng := { t.eng with solvers := put t.eng.solvers cl (s.cycle + n) } }
        let fail (t : State) (code : EngStatus) (ea : DWord) : Host.Outcome State Fault Refusal :=
          match (busy t 32).faultItems c [item] with
          | .error (k, rebuild) => .next (s.cmdWaits id c k rebuild)
          | .ok t => .next (t.itemDone id { item := item, code := code, faddr := ea, flags := 0, detail := 7 } (s.cycle + 32))
        match s.engineRun (if c.kind == .bsAsm && c.results.isEmpty then badContact (s.cmdEnv c) c.block else pure none) with
        | .wait t rebuild => .next (s.cmdWaits id c t rebuild)
        | .fault code ea _ _ => fail s code ea
        | .done (some k) _ =>
            match (busy s 32).faultItems c c.items with
            | .error (t, rebuild) => .next (s.cmdWaits id c t rebuild)
            | .ok t => .next (c.items.foldl (fun t i => t.itemDone id { item := i, code := .addrRange, faddr := upBy (plane c.block 0x40) (32 * k), flags := 0, detail := 7 } (s.cycle + 32)) t)
        | .done none _ => match s.engineRun (solveItem (s.cmdEnv c) c item) with
          | .wait t rebuild => .next (s.cmdWaits id c t rebuild)
          | .fault code ea _ t => fail t code ea
          | .done out t => .next ((busy t out.cycles).itemDone id { item := item, code := .ok, faddr := 0, flags := out.acc.flags, detail := out.code.code } (s.cycle + out.cycles))
/-- The end of a batch (R288). -/
def batchEnd (c : Cmd) : CmdEnd :=
  let bad := min (c.results.filter fun r => r.detail != 0).length 65535
  let flags := c.results.foldl (fun f r => f ||| r.flags) 0
  match lowestBad c.results with
  | none => { code := .ok, detail := bad, fpsum := flags }
  | some r => { code := r.code, faddr := r.faddr, detail := bad, fpsum := flags }

end Sys2Proof.Machine
end

