-- ==== Sys2Proof/Machine/SortTraverse.lean ====
section
/-! DEFINITION. The Sort and Traverse Units (R300 to R306, R431): keys, pairs of boxes, hierarchies and queries, and the queues that engines push to and pop from (R303). -/
namespace Sys2Proof.Machine

/-! ## Boxes (R300) -/

/-- A box record. -/
structure Box where
  mins : List Nat
  maxs : List Nat
  env : Nat
  body : Nat
  deriving DecidableEq, Repr
/-- A box from its 32 bytes. -/
def boxOf (r : List Byte) : Box :=
  { mins := [fieldAt r 0 4, fieldAt r 4 4, fieldAt r 8 4], maxs := [fieldAt r 0xC 4, fieldAt r 0x10 4, fieldAt r 0x14 4], env := fieldAt r 0x18 4, body := fieldAt r 0x1C 2 }
/-- Lower bound on an axis. -/
def Box.lo (b : Box) (d : Nat) : Nat := b.mins.getD d 0
/-- Upper bound on an axis. -/
def Box.hi (b : Box) (d : Nat) : Nat := b.maxs.getD d 0
/-- Has the box a NaN bound? (DEDUCED: log entry 53.) -/
def Box.hasNan (b : Box) : Bool := (b.mins ++ b.maxs).any fun x => decide (0x7F800000 < x % 2 ^ 31)
/-- The numeric order of bounds that are no NaN, −0 equal to +0. -/
def boundKey (x : Nat) : Nat := if x < 2 ^ 31 then 2 ^ 32 + x else 2 ^ 32 - (x - 2 ^ 31)
/-- Do two boxes overlap on an axis, bounds inclusive? -/
def Box.meets (a b : Box) (d : Nat) : Bool := decide (boundKey (b.lo d) ≤ boundKey (a.hi d)) && decide (boundKey (a.lo d) ≤ boundKey (b.hi d))
/-- A box read. -/
def engBox (v : Env) (base : DWord) (i : Nat) : EngM Box := do
  let r ← engRead v (upBy base (32 * i)) 32
  pure (boxOf r)
/-- The flag a box with a NaN bound raises. -/
def nanFlags (bs : List Box) : BitVec 6 := if bs.any Box.hasNan then Flags.nv else 0

/-! ## srt.keys (R301) -/

/-- The order value of a key. -/
def keyOrder (kfmt x : Nat) : Nat :=
  if kfmt = 0 then x
  else if kfmt = 1 then (x + 2 ^ 31) % 2 ^ 32
  else if x < 2 ^ 31 then x + 2 ^ 31 else 2 ^ 32 - 1 - x
/-- The whole sort: it depends on the input alone. -/
def sortKeys (v : Env) (b : List Byte) : EngM Unit := do
  let n := fieldAt b 0x20 4
  let (ka, va) := (plane b 0x10, plane b 0x18)
  let keys ← engMap (fun i => engNat v (upBy ka (4 * i)) 4) (List.range n)
  let vals ← if va = 0 then pure [] else engMap (fun i => engNat v (upBy va (4 * i)) 4) (List.range n)
  let order (k : Nat) : Nat := let x := keyOrder (fieldAt b 0x24 1) k
    if fieldAt b 0x25 1 = 1 then 2 ^ 32 - 1 - x else x
  let sorted := sortBy (fun x => order x.1) (keys.zipIdx)
  let _ ← engMap (fun x => engPut v (upBy ka (4 * x.2)) 4 x.1.1) sorted.zipIdx
  if va = 0 then pure () else
    let _ ← engMap (fun x => engPut v (upBy va (4 * x.2)) 4 (vals.getD x.1.2 0)) sorted.zipIdx
    pure ()

/-! ## srt.pairs (R302) -/

/-- The pairs emitted for box q of the order, among those before it. -/
def pairsWith (axis : Nat) (full : Bool) (q : Nat × Box) : List (Nat × Box) → List Word
  | [] => []
  | p :: r =>
      let others := (List.range 3).filter (· != axis)
      if decide (boundKey (q.2.lo axis) ≤ boundKey (p.2.hi axis)) && p.2.env == q.2.env && (!full || others.all fun d => p.2.meets q.2 d) then
        BitVec.ofNat 32 (min p.1 q.1 + 2 ^ 16 * max p.1 q.1) :: pairsWith axis full q r
      else pairsWith axis full q r
/-- The pairs in emission order. -/
def pairsOf (axis : Nat) (full : Bool) : List (Nat × Box) → List (Nat × Box) → List Word
  | _, [] => []
  | before, q :: r => pairsWith axis full q before ++ pairsOf axis full (before ++ [q]) r
/-- The pairs of a command, with its flags. -/
def findPairs (v : Env) (b : List Byte) : EngM (List Word × BitVec 6) := do
  let boxes ← engMap (engBox v (plane b 0x10)) (List.range (fieldAt b 0x18 4))
  let axis := fieldAt b 0x1C 1
  let good := (boxes.zipIdx.filter fun x => !x.1.hasNan).map fun x => (x.2, x.1)
  pure (pairsOf axis (fieldAt b 0x1D 1 == 1) [] (sortBy (fun x => boundKey (x.2.lo axis)) good), nanFlags boxes)

/-! ## Queues of engines (R303) -/

/-- What an attempt on a queue comes to. -/
inductive QueueTry where
  | ok (w : Word) (s : State)
  | none
  | wait (tile : Nat) (drop : Bool)
  | bad (code : EngStatus) (faddr : DWord)
/-- The queue of a command as it stands: what its issue checked is not checked again (R303, R506). -/
def State.cmdQueue (s : State) (c : Cmd) (push : Bool) (off : Nat) : Except QueueTry Queue :=
  let x := { s.cmdCtx c with passed := true }
  match s.queueAt x push (plane c.block off) with
  | .error (.cause k ea) => .error (.bad (engCode k) ea)
  | .error (.tile k drop) => .error (.wait k drop)
  | .ok q => match s.queueTile x [(0, q)] with
    | some k => .error (.wait k false)
    | none => .ok q
/-- One entry reserved and committed. (DEDUCED: log entry 82.) -/
def State.enginePush (s : State) (c : Cmd) (off : Nat) (w : Word) : QueueTry :=
  let x := s.cmdCtx c
  match s.cmdQueue c true off with
  | .error e => e
  | .ok q => if s.qResv x q.place + 1 ≤ q.cap then .ok 0 ((s.setField x q.place 0x14 4 (s.qResv x q.place + 1)).commitRun x q.place [w]) else .none
/-- One committed entry claimed and popped, as the issuing team. -/
def State.enginePop (s : State) (c : Cmd) (off : Nat) : QueueTry :=
  let x := s.cmdCtx c
  match s.cmdQueue c false off with
  | .error e => e
  | .ok q =>
        let next := (((s.team? c.team).bind fun t => t.queues.find? fun b => b.queue == q.ref).map (·.next)).getD (s.qHead x q.place)
        let left := (s.qCommit x q.place + 2 ^ 32 - next) % 2 ^ 32
        if left = 0 || 2 ^ 31 ≤ left then .none
        else
          let taken : State :=
            let t := s.modTeam c.team fun t => { t with queues := t.queues.map fun b => if b.queue == q.ref then { b with next := (next + 1) % 2 ^ 32 } else b }
            (t.setField x q.place 0x10 4 ((s.qHead x q.place + 1) % 2 ^ 32)).setField x q.place 0x14 4 (s.qResv x q.place - 1)
          match s.entryPlace x q.place next with
          | none => .ok 0 taken
          | some pl => match s.tileBefore x pl.tile pl.loc 4 true with
            | some (k, drop) => .wait k drop
            | none => if s.lineFails x.core pl.loc 4 then .bad (engCode .check) pl.ea else .ok (wordOfBytes (s.bytesIn x pl 0 4)) taken

/-! ## Sort Units (R431) -/

/-- The ranges of a sort. -/
def rangesOf (c : Cmd) : Nat := (fieldAt c.block 0x20 4 + 4095) / 4096
/-- The first item of the merge pass that an item belongs to: items before it must be done. -/
def passStart : Nat → Nat → Nat → Nat → Nat
  | 0, _, start, _ => start
  | n + 1, runs, start, item => if item < start + runs / 2 then start else passStart n (runs - runs / 2) (start + runs / 2) item
/-- The items that must be done before an item of a sort starts: all earlier passes. -/
def sortNeeds (c : Cmd) (item : Nat) : Nat := if item < rangesOf c then 0 else passStart 32 (rangesOf c) (rangesOf c) item
/-- The next item of a sort command that may start. -/
def sortItem (c : Cmd) : Option Nat := c.left.find? fun i => (List.range (if c.kind == .srtKeys then sortNeeds c i else 0)).all fun j => c.results.any fun r => r.item == j
/-- Cycles before which an item of a sort is not done (R427): a range starts in 200 and makes one pass at least, at two keys a cycle; a merge is of more than 4,096 keys. (DEDUCED: log entry 12.) -/
def sortCycles (c : Cmd) (item : Nat) : Nat := if item < rangesOf c then 200 + min 4096 (fieldAt c.block 0x20 4 - 4096 * item) / 2 else 2048
/-- The next item of the Sort Units of a die (R421). -/
def State.sortNext (s : State) (die : Nat) : Option (Nat × Cmd) :=
  s.firstCmd (s.eng.cmds.filter fun c => (c.2.kind == .srtKeys || c.2.kind == .srtPairs) && dieOf c.2.core == die && s.cmdMayRun c.2 && (sortItem c.2).isSome)
/-- SORT_TAKE_RANGE (R431): an idle unit takes the next unstarted range or merge, or a pair search. -/
def execSortTakeRange (die unit : Nat) (s : State) : Host.Outcome State Fault Refusal :=
  if 6 ≤ unit || s.cycle < (lookup s.eng.sorters (6 * die + unit)).getD 0 then .refused .notEnabled
  else match s.sortNext die with
    | none => .refused .notEnabled
    | some (id, c) =>
        let busy (t : State) (n : Nat) : State := { t with eng := { t.eng with sorters := put t.eng.sorters (6 * die + unit) (s.cycle + n) } }
        if c.kind == .srtKeys then
          (let i := (sortItem c).getD 0
           let n := sortCycles c i
           .next ((busy s n).itemDone id { item := i, code := .ok, faddr := 0, flags := 0, detail := 0 } (s.cycle + n)))
        else match s.engineRun (findPairs (s.cmdEnv c) c.block) with
          | .wait k b => .next (s.cmdWaits id c k b)
          | .fault code ea _ _ => .next ((busy s 200).itemDone id { item := 0, code := code, faddr := ea, flags := 0, detail := 0 } (s.cycle + 200))
          | .done (ps, f) _ =>
              .next (((busy s (200 + ps.length)).setCmd id { c with outbuf := ps }).itemDone id { item := 0, code := .ok, faddr := 0, flags := f, detail := ps.length } (s.cycle + 200))

/-! ## trv.build (R304) -/

/-- A free number for what the spec leaves without one. -/
def freeInt (tick n : Nat) : Int := (Config.freeWord tick (2 * n)).toInt * 2 ^ ((Config.freeWord tick (2 * n + 1)).toNat % 400)
/-- min_a + max_a of a box, exact, in units of 2^−149; an infinity stands beyond every sum, and the sum of opposite infinities is a free number (the spec states none). (DEDUCED: log entry 53.) -/
def centre (tick : Nat) (i : Nat) (b : Box) (a : Nat) : Int :=
  match exactSum [some (f32 (b.lo a)), some (f32 (b.hi a))] with
  | .num n e _ => n * 2 ^ (e + 149).toNat
  | .inf neg => if neg then -(2 ^ 400) else 2 ^ 400
  | .invalid => freeInt tick (3 * i + a)
  | .quietNan => freeInt tick (3 * i + a)
/-- The spread of sums, 2^400 where one is infinite: all infinite spreads are alike. It is a free number where all sums are the same infinity. (DEDUCED: log entry 53.) -/
def spread (tick node a : Nat) (xs : List Int) : Int :=
  let hi := xs.foldl max (xs.headD 0)
  let lo := xs.foldl min (xs.headD 0)
  if hi < 2 ^ 400 && -(2 ^ 400) < lo then hi - lo else if hi = lo then freeInt tick (2 ^ 20 + 3 * node + a) else 2 ^ 400
/-- The axis of the largest spread, the lower on a tie. -/
def bestAxis (f : Nat → Int) : Nat := if f 0 < f 1 then (if f 1 < f 2 then 2 else 1) else (if f 0 < f 2 then 2 else 0)
/-- The bounds of a set. -/
def hull (bs : List Box) : Box :=
  match bs with
  | [] => { mins := [0, 0, 0], maxs := [0, 0, 0], env := 0, body := 0 }
  | b :: r =>
      { b with mins := (List.range 3).map fun d => r.foldl (fun m (x : Box) => (FFmt.fp32.minMax false false m (x.lo d)).bits) (b.lo d)
               maxs := (List.range 3).map fun d => r.foldl (fun m (x : Box) => (FFmt.fp32.minMax false true m (x.hi d)).bits) (b.hi d) }
/-- The bytes of a node. -/
def nodeBytes (b : Box) (left right : Nat) : List Byte := (b.mins ++ b.maxs ++ [left, right]).flatMap (bytesOfNat 4)
/-- The nodes of a set from a node on. -/
def buildTree (tick : Nat) : Nat → List (Nat × Box) → Nat → List (Nat × List Byte)
  | 0, _, _ => []
  | n + 1, xs, i =>
      match xs with
      | [] => []
      | [x] => [(i, nodeBytes x.2 (x.1 + 2 ^ 31) 0xFFFFFFFF)]
      | _ =>
          let a := bestAxis fun a => spread tick i a (xs.map fun x => centre tick x.1 x.2 a)
          let order := sortBy (fun x => (centre tick x.1 x.2 a + 2 ^ 500).toNat) (sortBy (·.1) xs)
          let k := (xs.length + 1) / 2
          (i, nodeBytes (hull (xs.map (·.2))) (i + 1) (i + 2 * k)) :: (buildTree tick n (order.take k) (i + 1) ++ buildTree tick n (order.drop k) (i + 2 * k))
/-- trv.build: a box with a NaN bound takes no part. -/
def buildWork (v : Env) (b : List Byte) : EngM (BitVec 6) := do
  let first := fieldAt b 0x18 4
  let n := fieldAt b 0x1C 4
  let boxes ← engMap (fun i => do
    let x ← engBox v (plane b 0x10) (first + i)
    pure (first + i, x)) (List.range n)
  let s ← get
  let nodes := buildTree s.tick n (boxes.filter fun x => !x.2.hasNan) 0
  let _ ← engMap (fun x => engWrite v 4 (upBy (plane b 0x20) (32 * x.1)) x.2) nodes
  pure (nanFlags (boxes.map (·.2)))

/-! ## trv.query (R305, R306) -/

/-- A side of a visit: a node of an array, or a box that is its own leaf. -/
inductive Side where
  | node (base : DWord) (i : Nat)
  | leaf (box : Nat)
  deriving DecidableEq, Repr
/-- A side read: its bounds, its two children, or its leaf box. -/
structure SideData where
  bounds : Box
  kids : Option (Side × Side)
  box : Nat
/-- R304, R305. -/
def engSide (v : Env) (boxes : DWord) : Side → EngM SideData
  | .leaf i => do
      let b ← engBox v boxes i
      pure { bounds := b, kids := none, box := i }
  | .node base i => do
      let r ← engRead v (upBy base (32 * i)) 32
      let (l, rt) := (fieldAt r 0x18 4, fieldAt r 0x1C 4)
      pure { bounds := boxOf r, kids := if rt = 0xFFFFFFFF then none else some (.node base l, .node base rt), box := l % 2 ^ 31 }
/-- What a query has gathered: the contacts found, and its flags. They stand in its command, so that a fault keeps them (R306). -/
def Cmd.found (c : Cmd) : Nat := (c.outbuf.headD 0).toNat
def Cmd.gathered (c : Cmd) : BitVec 6 := (c.inbuf.headD 0).setWidth 6
/-- Contacts and flags added to those of a query. -/
def State.gather (s : State) (id : Nat) (n : Nat) (f : BitVec 6) : State :=
  match s.cmd? id with
  | none => s
  | some c => s.setCmd id { c with outbuf := [BitVec.ofNat 32 (c.found + n)], inbuf := [(c.gathered ||| f).setWidth 32] }
/-- Flags raised. -/
def engFlags (id : Nat) (f : BitVec 6) : EngM Unit := modify fun s => s.gather id 0 f
/-- A sum of two FP32 values rounded, the second negated. -/
def diff32 (x y : Nat) : FRes := FFmt.fp32.roundSum .engine (exactSum [some (f32 x), some (f32 y).negate])
/-- The larger of two bounds, or the smaller. -/
def boundMax (x y : Nat) : Nat := (FFmt.fp32.minMax false true x y).bits
def boundMin (x y : Nat) : Nat := (FFmt.fp32.minMax false false x y).bits
/-- Half an exact sum, rounded once. -/
def half32 (x y : Nat) : FRes :=
  match exactSum [some (f32 x), some (f32 y)] with
  | .num n e z => FFmt.fp32.roundSum .engine (.num n (e - 1) z)
  | .inf k => FFmt.fp32.roundSum .engine (.inf k)
  | .invalid => FFmt.fp32.nan true
  | .quietNan => FFmt.fp32.nan false
/-- An exact sum of two bounds as a value. -/
def sumVal (x y : Nat) : FVal :=
  match exactSum [some (f32 x), some (f32 y)] with
  | .num n e _ => .fin (decide (n < 0)) n.natAbs e
  | .inf k => .inf k
  | .invalid => .nan false
  | .quietNan => .nan false
/-- The leaf test (R306): the contact record, if there is one, and the flags. -/
def leafTest (p q : Box) : Option (List Byte) × BitVec 6 :=
  if p.hasNan || q.hasNan then (none, Flags.nv)
  else
    let o := (List.range 3).map fun d => diff32 (boundMin (p.hi d) (q.hi d)) (boundMax (p.lo d) (q.lo d))
    let flags := o.foldl (fun f x => f ||| x.flags) 0
    let apart := o.any fun x => (f32 x.bits).isNan || (decide (2 ^ 31 ≤ x.bits) && x.bits != 2 ^ 31)
    if apart || p.body == q.body then (none, flags)
    else
      let od (d : Nat) : Nat := ((o.map (·.bits)).getD d 0)
      let a := if boundKey (od 1) < boundKey (od 0) then (if boundKey (od 2) < boundKey (od 1) then 2 else 1) else (if boundKey (od 2) < boundKey (od 0) then 2 else 0)
      let ahead := match (sumVal (q.lo a) (q.hi a)).cmp (sumVal (p.lo a) (p.hi a)) with
        | some i => decide (0 ≤ i)
        | none => false
      let pts := (List.range 3).map fun d => half32 (boundMax (p.lo d) (q.lo d)) (boundMin (p.hi d) (q.hi d))
      let normal := (List.range 3).map fun d => if d = a then (if ahead then 0x3F800000 else 0xBF800000) else 0
      (some ((normal ++ pts.map (·.bits) ++ [od a]).flatMap (bytesOfNat 4) ++ bytesOfNat 2 p.body ++ bytesOfNat 2 q.body),
       pts.foldl (fun f x => f ||| x.flags) flags)
/-- A contact written in its turn, while there is room, and counted (R306). -/
def engContact (v : Env) (id : Nat) (c : Cmd) (r : List Byte) : EngM Unit := do
  let s ← get
  let found := ((s.cmd? id).map Cmd.found).getD 0
  if found < fieldAt c.block 0x1C 4 then engWrite v 4 (upBy (plane c.block 0x30) (32 * found)) r
  modify fun s => s.gather id 1 0
/-- A depth-first visit (R305); false when it goes deeper than any tree of boxes. (DEDUCED: log entry 53.) -/
def visit (v : Env) (id : Nat) (c : Cmd) : Nat → Side → Side → EngM Bool
  | 0, _, _ => pure false
  | n + 1, a, b => do
      let boxes := plane c.block 0x20
      let x ← engSide v boxes a
      let y ← engSide v boxes b
      if x.bounds.hasNan || y.bounds.hasNan || !((List.range 3).all fun d => x.bounds.meets y.bounds d) then pure true
      else match x.kids, y.kids with
        | some (l, r), _ => do
            if ← visit v id c n l b then visit v id c n r b else pure false
        | none, some (l, r) => do
            if ← visit v id c n a l then visit v id c n a r else pure false
        | none, none => do
            let p ← engBox v boxes x.box
            let q ← engBox v boxes y.box
            let (rec', f) := leafTest p q
            engFlags id f
            match rec' with
            | none => pure true
            | some r => do
                engContact v id c r
                pure true
/-- The side of a box: its hierarchy, or itself. -/
def engRoot (v : Env) (c : Cmd) (i : Nat) : EngM Side := do
  let h := plane c.block 0x28
  if h = 0 then pure (.leaf i)
  else
    let a ← engNat v (upBy h (8 * i)) 8
    pure (if a = 0 then .leaf i else .node (BitVec.ofNat 64 a) 0)
/-- One popped entry visited; a box with a NaN bound takes part in nothing, whether it has a hierarchy or not (R300). -/
def queryEntry (v : Env) (id : Nat) (c : Cmd) (w : Word) : EngM Bool := do
  let (i, j) := (w.toNat % 2 ^ 16, w.toNat / 2 ^ 16)
  let p ← engBox v (plane c.block 0x20) (min i j)
  let q ← engBox v (plane c.block 0x20) (max i j)
  if p.hasNan || q.hasNan then
    engFlags id Flags.nv
    pure true
  else
    let a ← engRoot v c (min i j)
    let b ← engRoot v c (max i j)
    visit v id c (2 ^ 17) a b

/-! ## Turns and ends -/

/-- A Traverse Unit runs one command at a time, in reservation-table order (R421, R431). -/
def State.traverseTurn (s : State) (id : Nat) (c : Cmd) : Bool :=
  s.cmdMayRun c && s.unitTurn id c fun x => clusterOf x.core == clusterOf c.core && (x.kind == .trvBuild || x.kind == .trvQuery)
/-- The end of a query: NCONT, and OVERFLOW when contacts were left out. -/
def queryEnd (c : Cmd) (found : Nat) (flags : BitVec 6) (fault : Option (EngStatus × DWord)) : CmdEnd :=
  let extra := [(0x38, bytesOfNat 4 found)]
  match fault with
  | some (code, ea) => { code := code, faddr := ea, fpsum := flags, extra := extra }
  | none => { code := if fieldAt c.block 0x1C 4 < found then .overflow else .ok, fpsum := flags, extra := extra }
/-- A query taken one entry further, or ended (R305, R303): none while it can do nothing. What it gathered before a fault counts (R306). -/
def State.queryStep (s : State) (id : Nat) (c : Cmd) : Option State :=
  let fin (t : State) (fault : Option (EngStatus × DWord)) : State :=
    let d := (t.cmd? id).getD c
    t.endCmd id c (queryEnd c d.found d.gathered fault)
  if fieldAt c.block 0x18 4 ≤ c.results.length then some (fin s none)
  else match s.enginePop c 0x10 with
    | .none => none
    | .wait k drop => some (s.cmdWaits id c k drop)
    | .bad code ea => some (fin s (some (code, ea)))
    | .ok w t => match t.engineRun (queryEntry (t.cmdEnv c) id c w) with
      | .wait k b => some (s.cmdWaits id c k b)
      | .fault code ea _ u => some (fin u (some (code, ea)))
      | .done false _ => none
      | .done true u =>
          let d := (u.cmd? id).getD c
          some (u.setCmd id { d with started := true, results := c.results ++ [{ item := c.results.length, code := .ok, faddr := 0, flags := 0, detail := 0 }] })
/-- A pair search taken one entry further, or ended (R302, R303): none while its queue is full. -/
def State.pairsStep (s : State) (id : Nat) (c : Cmd) : Option State :=
  match c.results with
  | [] => none
  | r :: _ =>
      let n := (c.inbuf.headD 0).toNat
      let fin (t : State) (n : Nat) (code : EngStatus) (ea : DWord) : State := t.endCmd id c { code := code, faddr := ea, fpsum := r.flags, extra := [(0x28, bytesOfNat 4 n)] }
      if r.code != .ok then some (fin s 0 r.code r.faddr)
      else match c.outbuf with
        | [] => some (fin s n .ok 0)
        | w :: left => match s.enginePush c 0x20 w with
          | .none => none
          | .wait k drop => some (s.cmdWaits id c k drop)
          | .bad code ea => some (fin s n code ea)
          | .ok _ t => some (t.setCmd id { c with outbuf := left, inbuf := [BitVec.ofNat 32 (n + 1)] })

end Sys2Proof.Machine
end

