-- ==== Sys2Proof/Machine/Phase.lean ====
section
/-! DEFINITION. The Phase Compactor (R307 to R310, R432): arrivals of groups, the regroup, and the restore. -/
namespace Sys2Proof.Machine

/-- TK of an LM word (R96, R260). -/
def lmT (w : Word) : Token := Fin.ofNat 8 (w.toNat / 2 ^ 9)
/-- SUB of an LM word (R96): 1 is phase.restore. -/
def lmSub (w : Word) : Nat := w.toNat / 2 ^ 4 % 32

/-- Positions of a team (R307). -/
def State.positions (s : State) (t : Team) : Nat := t.groups.length * (((s.launch? (s.launchIdOfTeam t)).map (·.kern.width)).getD 0)
/-- Is a map or key array one word for each position in the team's own window? -/
def State.ownArray (s : State) (team n a : Nat) : Bool :=
  a % 4 == 0 && (match s.windowOf (some team) a (4 * n) with
    | some (t, _) => t == team
    | none => false)
/-- The rules of the block (R307). -/
def State.phaseOk (s : State) (team n : Nat) (b : List Byte) : Bool :=
  s.ownArray team n (fieldAt b 0x10 4) && s.ownArray team n (fieldAt b 0x14 4) && zeroes b 0x1C 4

/-- The wait of a group that has arrived. -/
def Group.phaseSlot (g : Group) : Option Slot := g.waits.findSome? fun w => match w.kind with
  | .phase _ => some w.slot
  | .barrier _ _ | .queuePop _ | .queuePush _ | .tile _ _ | .stores | .remoteCheck _ | .claim _ _ _ | .launchStore _ _ | .token _ | .batch _ | .sealLimit | .fence _ _ | .cbuf _ _
  | .grant _ | .sweep _ | .table | .exit | .staging => none
/-- Does a command differ from the one of the first group to arrive (R307)? (DEDUCED: log entry 113.) -/
def State.phaseDiffers (s : State) (t : Team) (ea : DWord) (sub : Nat) : Bool :=
  match t.arrived with
  | [] => false
  | (gid, ea', _) :: _ => ea' != ea || (((s.group? gid).bind Group.phaseSlot).map fun sl => lmSub sl.word != sub).getD false
/-- The arrival of a group (R307). (DEDUCED: log entry 113.) -/
def phaseInstr (s : State) (a : Reg) (k : Token) : Host.Outcome State Fault Refusal :=
  s.issue fun p g =>
    let ea := g.ureadPair s.cycle p.cur.lanes a
    match s.teamOf g with
    | none => s
    | some t => match s.descriptor (s.ctxOf p.gid g) ea 64 32 with
      | .error x => s.trapAt p.gid p.cur x p.cur.lanes ea
      | .ok b =>
          if !s.phaseOk g.team (s.positions t) b then s.trapAt p.gid p.cur .badDescriptor p.cur.lanes ea
          else if (g.token k).st == .busy then s.trapAt p.gid p.cur .tokenBusy p.cur.lanes 0
          else if g.liveMask ≠ p.cur.lanes || s.phaseDiffers t ea (lmSub p.cur.word) || (g.list p.cur.lanes).any (fun i => g.readPair s.cycle i a != ea) then
            s.trapAt p.gid p.cur .phaseSplit p.cur.lanes ea
          else if Config.tableEntries < s.tableUse g.core + 1 then s.setGroup p.gid (g.enterWait s.cycle .table p.cur)
          else s.orDeferred p g Deferred.atRelease <| s.afterPerformed p g .team true <|
            let s := s.publish g .team
            let s := s.setGroup p.gid (((g.leaveWait p.cur).startToken k 1).enterWait s.cycle (.phase ea) p.cur)
            s.modTeam g.team fun t => { t with arrived := t.arrived ++ [(p.gid, ea, b)] }
/-- R308. -/
def execPhaseRegroup (a : Reg) (k : Token) (s : State) : Host.Outcome State Fault Refusal := phaseInstr s a k
/-- R310. -/
def execPhaseRestore (a : Reg) (k : Token) (s : State) : Host.Outcome State Fault Refusal := phaseInstr s a k

/-! ## The compactor -/

/-- A lane's contents as they move (R308): registers, FPEN, FPFLAGS, live state, and where it resumes. -/
structure Mover where
  lane : Lane
  live : Bool
  pc : DWord
/-- The lanes of a team by position. -/
def State.movers (s : State) (t : Team) : List Mover :=
  (s.groupsOf t).flatMap fun x => x.2.lanes.map fun l =>
    { lane := l, live := l.live && !x.2.ended, pc := match x.2.phaseSlot with
        | some sl => succPc sl.pc
        | none => l.pc }
/-- A lane's place filled from a mover. -/
def Lane.filled (l : Lane) (alloc : Nat) (m : Mover) : Lane :=
  { l with regs := Vector.ofFn fun (i : Fin 64) => if i.val < alloc then m.lane.regs.get i else l.regs.get i
           fpen := m.lane.fpen, fpflags := m.lane.fpflags, pc := m.pc
           st := if m.live then .live else .exited }
/-- The lanes of the groups that take part, each filled from the position a function names. -/
def State.moveLanes (s : State) (t : Team) (takesPart : Group → Bool) (src : Nat → Nat) : State :=
  let ms := s.movers t
  (s.groupsOf t).foldl (fun s x => if !takesPart x.2 then s else
    s.setGroup x.1 { x.2 with hist := [], lanes := x.2.lanes.mapIdx fun i l => match ms[src (x.2.index * x.2.width + i)]? with
      | some m => l.filled x.2.alloc m
      | none => l }) s

/-- The key by which a position sorts (R308). -/
def State.phaseKey (s : State) (team : Nat) (keys : Nat) (ms : List Mover) (t : Nat) : Nat :=
  if ((ms[t]?).map (·.live)).getD false then natOfBytes (s.bytesAt none false (.win team (keys + 4 * t)) 4) else 2 ^ 32
/-- Positions of the groups of a team that a test picks. -/
def State.positionsWhere (s : State) (t : Team) (pick : Group → Bool) : List Nat :=
  (s.groupsOf t).flatMap fun x => if pick x.2 then (List.range x.2.width).map fun i => x.2.index * x.2.width + i else []
/-- The order of the positions: the position whose lane each of them receives (R308). A group that waits empty takes no part (R309). A group that has ended is never resumed and its registers are free (R35): where R308's own order would bring a live lane to it, its positions take no part either, so that each live lane resumes. (DEDUCED: log entry 54.) -/
def State.regroupOrder (s : State) (team keys : Nat) (t : Team) : List (Nat × Nat) :=
  let ms := s.movers t
  let order (ps : List Nat) := ps.zip (sortBy (s.phaseKey team keys ms) ps)
  let whole := order (s.positionsWhere t fun g => !g.emptyWait)
  let freed := s.positionsWhere t fun g => g.ended
  if whole.any fun x => freed.contains x.1 && ((ms[x.2]?).map (·.live)).getD false then order (s.positionsWhere t fun g => !g.emptyWait && !g.ended) else whole
/-- The source of a position under a list of moves: itself when it is not in the list. -/
def sourceIn (moves : List (Nat × Nat)) (t : Nat) : Nat := (lookup moves t).getD t
/-- Words of a window. -/
def State.winWords (s : State) (team off n : Nat) : List Nat := (List.range n).map fun i => natOfBytes (s.bytesAt none false (.win team (off + 4 * i)) 4)
/-- The original position of the lane at each position: through the map that the last regroup stored, while the team is regrouped (R308). -/
def State.positionsOf (s : State) (tid : Nat) (t : Team) (n : Nat) : List Nat :=
  match t.map with
  | none => List.range n
  | some (off, _) => s.winWords tid off n
/-- Is the list a permutation of the numbers below its length? (DEDUCED: log entry 54.) -/
def isPermutation (m : List Nat) : Bool := m.all (fun x => decide (x < m.length)) && m.eraseDups.length == m.length

/-- The end of a compaction for every group that arrived: header, NLIVE, tokens, waits, empty waits (R307 to R310). (DEDUCED: log entry 89.) -/
def State.phaseEnd (s : State) (tid : Nat) (block : Nat × Nat) (nlive : Nat) (code : EngStatus) (faddr : DWord) (arrived : List Nat) (restore : Bool) : State :=
  let s := s.putBytes none false (.win block.1 block.2) (bytesOfNat 4 (code.code * 2 ^ 16) ++ bytesOfNat 4 0 ++ bytesOfNat 8 faddr.toNat)
  let s := s.putBytes none false (.win block.1 (block.2 + 0x18)) (bytesOfNat 4 nlive)
  let s := arrived.foldl (fun s gid => match (s.group? gid).bind Group.phaseSlot with
    | some sl => (s.modGroup gid fun g => if code == .ok then g.leaveWait sl else (g.leaveWait sl).moveTo sl.lanes (succPc sl.pc)).tokenEnded gid (some (lmT sl.word)) (code != .ok)
    | none => s) s
  let s := s.modTeam tid fun t => { t with arrived := [] }
  match s.team? tid with
  | none => s
  | some t =>
      let all := s.groupsOf t
      let most (q : QueueRef) : QCount := { queue := q, pushes := (all.map fun x => (x.2.counts q).pushes).foldl max 0, pops := (all.map fun x => (x.2.counts q).pops).foldl max 0 }
      let queues := (all.flatMap fun x => x.2.qcounts.map (·.queue)).eraseDups
      let s := all.foldl (fun s x =>
        if x.2.ended then s
        else if restore then s.setGroup x.1 { x.2 with emptyWait := false, qcounts := if x.2.emptyWait then queues.map most else x.2.qcounts }
        else s.setGroup x.1 { x.2 with emptyWait := x.2.liveMask == 0 }) s
      let s := s.settleRounds
      if restore then all.foldl (fun s x => if !x.2.ended && x.2.liveMask == 0 && s.exitOver x.1 x.2 then s.endGroup x.1 else s) s else s

/-- The regroup of a team whose live groups have arrived (R308). (DEDUCED: log entry 54.) -/
def State.regroup (s : State) (tid : Nat) (block : Nat × Nat) (b : List Byte) (t : Team) (arrived : List Nat) : State :=
  let n := s.positions t
  let nlive := ((s.movers t).filter (·.live)).length
  let (keys, map) := (fieldAt b 0x10 4 % 2 ^ 20, fieldAt b 0x14 4 % 2 ^ 20)
  if s.coversTag tid map (4 * n) then s.phaseEnd tid block nlive .barrierClobber (scratchEa (fieldAt b 0x14 4)) arrived false
  else
    let moves := s.regroupOrder tid keys t
    let old := s.positionsOf tid t n
    let new := (List.range n).map fun k => old.getD (sourceIn moves k) k
    let s := s.moveLanes t (fun g => !g.ended && !g.emptyWait) (sourceIn moves)
    let s := t.groups.foldl (fun s gid => s.modGroup gid fun g => if g.ended then g else { g with enmask := fullMask g.width }) s
    let s := s.putBytes none false (.win tid map) (new.flatMap (bytesOfNat 4))
    (s.modTeam tid fun t => { t with map := some (map, scratchEa (((s.team? block.1).map (·.rank)).getD 0 * 2 ^ 20 + block.2)) }).phaseEnd tid block nlive .ok 0 arrived false
/-- The restore of a team whose live groups have arrived (R310): the position that each position's lane comes from. (DEDUCED: log entry 54.) -/
def State.restore (s : State) (tid : Nat) (block : Nat × Nat) (b : List Byte) (t : Team) (arrived : List Nat) : State :=
  let n := s.positions t
  let nlive := ((s.movers t).filter (·.live)).length
  let map := fieldAt b 0x14 4 % 2 ^ 20
  if t.map.isNone then (s.moveLanes t (fun g => !g.ended) id).phaseEnd tid block nlive .ok 0 arrived true
  else
    let m := s.winWords tid map n
    let into := s.positionsWhere t fun g => g.ended
    let lost := ((s.movers t).zip m).any fun x => x.1.live && into.contains x.2
    if !isPermutation m || lost then s.phaseEnd tid block nlive .badMap (scratchEa (fieldAt b 0x14 4)) arrived true
    else
      let s := s.moveLanes t (fun g => !g.ended) fun k => (m.findIdx? (· == k)).getD k
      (s.modTeam tid fun t => { t with map := none }).phaseEnd tid block nlive .ok 0 arrived true

/-- Has every live group of a team arrived, with its register writes complete (R307, R308)? -/
def State.phaseReady (s : State) (t : Team) : Bool :=
  !t.arrived.isEmpty && (s.groupsOf t).all fun x => x.2.ended || x.2.emptyWait || (t.arrived.any (fun a => a.1 == x.1) && s.resident x.2 && x.2.sb.isEmpty && x.2.hist.all fun h => decide (h.visible ≤ s.cycle))
/-- PHASE_COMPACTOR_RUN (R432): under the block as it stood when the first group arrived (R259). -/
def execPhaseCompactorRun (tid : Nat) (s : State) : Host.Outcome State Fault Refusal :=
  match s.team? tid with
  | none => .refused .notEnabled
  | some t => match t.arrived with
    | [] => .refused .notEnabled
    | (gid, ea, b) :: _ => match (s.group? gid).bind Group.phaseSlot, s.windowOf (some tid) (ea.toNat % 2 ^ 32) 32 with
      | some sl, some (bt, bo) =>
          if !s.phaseReady t then .refused .notEnabled
          else
            let arrived := t.arrived.map (·.1)
            .next (if lmSub sl.word = 0 then s.regroup tid (bt, bo) b t arrived else s.restore tid (bt, bo) b t arrived)
      | _, _ => .refused .notEnabled

end Sys2Proof.Machine
end

