-- ==== Sys2Proof/Machine/Collectives.lean ====
section
/-! DEFINITION. Collectives (R311 to R318, R461) and buckets (R247, R337). -/
namespace Sys2Proof.Machine

/-! ## The block (R311) -/

/-- OP of a block: 0 ALLREDUCE, 1 REDUCESCATTER, 2 ALLGATHER, 3 BROADCAST, 4 DATUM. -/
def collOp (b : List Byte) : Nat := fieldAt b 0x10 1
/-- RED of a block. -/
def collRed (b : List Byte) : Nat := fieldAt b 0x11 1
/-- P of a block. -/
def collSize (b : List Byte) : Nat := fieldAt b 0x18 2
/-- COUNT of a block. -/
def collCount (b : List Byte) : Nat := fieldAt b 0x1C 4
/-- COLLID of a block. -/
def collId (b : List Byte) : DWord := plane b 0x30
/-- GATE of a block. -/
def collGateOf (b : List Byte) : DWord := plane b 0x38
/-- The participants in ascending device number. -/
def participants (b : List Byte) : List Nat := (List.range (collSize b)).map fun i => fieldAt b 0x14 2 + i * fieldAt b 0x16 2
/-- The fields in which every post must agree (R312). (DEDUCED: log entry 55.) -/
def collFields (b : List Byte) : List Byte := (b.drop 0x10).take 16 ++ (b.drop 0x44).take 4
/-- Bytes of an element. -/
def collBytes (red : Nat) : Nat := if red = 1 then 8 else if red = 5 then 2 else 4
/-- Is DST in pages that are not READSHARED? (DEDUCED: log entry 49.) -/
def State.dstShared (s : State) (asid : Nat) (b : List Byte) : Bool :=
  let n := collBytes (collRed b) * collCount b * (if collOp b = 2 then collSize b else 1)
  (pieces (fieldAt b 0x28 8 % 2 ^ 46) n).any fun a => ((s.pageAt asid a).map fun p => attrCoh p.attr == 1).getD false
/-- R311. SRC and DST of DATUM are not used (R314) and not checked. -/
def State.collOk (s : State) (asid : Nat) (b : List Byte) : Bool :=
  let e := collBytes (collRed b)
  decide (collOp b ≤ 4) && decide (collRed b ≤ 5) && decide (fieldAt b 0x14 2 ≤ 16383) && within (fieldAt b 0x16 2) 1 16383 && within (collSize b) 1 16384
    && decide (fieldAt b 0x14 2 + (collSize b - 1) * fieldAt b 0x16 2 ≤ 16383) && decide (fieldAt b 0x1A 1 ≤ 15) && zeroes b 0x1B 1
    && within (collCount b) 1 (2 ^ 26) && zeroes b 0x48 8 && (collOp b != 3 || decide (fieldAt b 0x12 2 < collSize b))
    && (collOp b == 4 || (s.localOk e (fieldAt b 0x20 8) && s.localOk e (fieldAt b 0x28 8) && !s.dstShared asid b))
    && (participants b).contains s.fab.devNum

/-! ## The collectives outstanding here -/

def State.coll? (s : State) (k : DWord) : Option Collective := (s.eng.colls.find? fun x => x.1 == k).map (·.2)
def State.setColl (s : State) (k : DWord) (x : Collective) : State := { s with eng := { s.eng with colls := (s.eng.colls.filter fun y => y.1 != k) ++ [(k, x)] } }
def State.dropColl (s : State) (k : DWord) : State := { s with eng := { s.eng with colls := s.eng.colls.filter fun y => y.1 != k } }
/-- A collective of which nothing is known yet. -/
def Collective.new : Collective := { cmd := none, posts := [], started := false, bad := none, verdicts := [], parts := [], result := none, gates := [] }
/-- A message to each of some devices but this one. -/
def State.tellAll (s : State) (ds : List Nat) (m : CollData) : State := ds.foldl (fun s d => if d = s.fab.devNum then s else s.tell d (.coll m)) s
/-- An early end noted: the first stands. -/
def Collective.fail (x : Collective) (code : EngStatus) : Collective := if x.bad.isSome then x else { x with bad := some code.code }

/-- The gate of this device's post settled (R316): open with 0, else broken; every participant is told. -/
def State.settleGate (s : State) (id : Nat) (c : Cmd) (cause : Nat) : State :=
  let k := collId c.block
  let s := s.setCmd id { c with gate := if cause = 0 then .ready else .broken cause, inbuf := [] }
  match s.coll? k with
  | none => s
  | some x =>
      (s.setColl k { x with posts := x.posts.map fun (p : CollPost) => if p.device == s.fab.devNum then { p with gate := some cause } else p }).tellAll (participants c.block) (.gate k s.fab.devNum id cause (collGateOf c.block))
/-- The cause a settled claim gives a gate: 0 when it is RESOLVED. -/
def ClaimView.gate (v : ClaimView) : Nat := match v with
  | .pending _ => 0
  | .resolved _ _ => 0
  | .broken cause _ => cause
  | .stale => Cause.claimStale.code
/-- The same of a status word (R157). -/
def gateOfWord (w : Word) : Nat := if w.toNat / 2 ^ 28 = 2 then w.toNat % 2 ^ 16 else if w.toNat / 2 ^ 28 = 3 then Cause.claimStale.code else 0
/-- A gate looked at when its post is made. -/
def State.openGate (s : State) (id : Nat) (c : Cmd) : State :=
  let claim := collGateOf c.block
  if claim = 0 then s.settleGate id c 0
  else if claimHome claim = s.fab.devNum then
    (if (s.claimView claim).isPending then s.setCmd id { c with gate := .waiting none } else s.settleGate id c (s.claimView claim).gate)
  else if s.unreachable (claimHome claim) then s.settleGate id c Cause.deviceLost.code
  else
    let (tag, s) := s.takeTag
    (s.sendMsg (claimHome claim) tag (.claimmsg { claim := claim, body := .status true s.fab.devNum tag })).setCmd id { c with gate := .waiting (some tag) }
/-- A post made known (R248, R312): it waits its turn while another post of this device is outstanding on the COLLID, and ends at once when the COLLID was withdrawn (R317). -/
def State.registerColl (s : State) (id : Nat) (c : Cmd) : State :=
  let k := collId c.block
  let x := (s.coll? k).getD Collective.new
  if s.eng.withdrawn.contains k || x.cmd.isSome then s
  else
    let me : CollPost := { device := s.fab.devNum, number := id, fields := collFields c.block, gate := none, claim := collGateOf c.block }
    let x := { x with cmd := some id, posts := (x.posts.filter fun p => p.device != s.fab.devNum) ++ [me] }
    let x := if (participants c.block).any s.unreachable then x.fail .deviceLost else x
    ((s.setColl k x).tellAll (participants c.block) (.post k s.fab.devNum id (collFields c.block))).openGate id c

/-! ## coll.post (R311, R312) -/

/-- Posts of the active lanes in ascending lane index. -/
def State.postColls (s : State) (g : Group) (gid : Nat) (t : Token) : List (DWord × List Byte) → State
  | [] => s
  | (ea, b) :: r =>
      let (id, s) := s.addCmd g gid .collPost (some t) none ea b
      let s := match s.cmd? id with
        | some c => s.registerColl id c
        | none => s
      s.postColls g gid t r
/-- R311, R312: the release comes before any post is made. -/
def execCollPost (a : Reg) (k : Token) (s : State) : Host.Outcome State Fault Refusal :=
  s.issue fun p g =>
    let c := s.ctxOf p.gid g
    let read (ea : DWord) : Except (Cause × DWord) (List Byte) := match s.descriptor c ea 64 80 with
      | .error x => .error (x, ea)
      | .ok b => if s.collOk c.asid b then .ok b else .error (.badDescriptor, ea)
    match s.laneBlocks p g a read with
    | .error (x, m, ea) => s.trapAt p.gid p.cur x m ea
    | .ok bs =>
        if (g.token k).st == .busy then s.trapAt p.gid p.cur .tokenBusy p.cur.lanes 0
        else s.orDeferred p g Deferred.atRelease <|
          if Config.tableEntries < s.tableUse g.core + bs.length then s.setGroup p.gid (g.enterWait s.cycle .table p.cur)
          else s.afterPerformed p g .domain true <|
            let s := s.publish g .domain
            ((s.finish p ((g.leaveWait p.cur).startToken k bs.length)).closeFor p.gid false).postColls g p.gid k bs

/-! ## The tree (R313, R461) -/

/-- Bytes of an element while it is combined: SUM_BF16 works in FP32. -/
def workBytes (red : Nat) : Nat := if red = 1 then 8 else 4
/-- Two elements combined. -/
def combineElem (red x y : Nat) : FRes :=
  match red with
  | 1 => addVals .fp64 .engine (FFmt.fp64.value x) (FFmt.fp64.value y)
  | 2 => { bits := (x + y) % 2 ^ 32, flags := 0 }
  | 3 => FFmt.fp32.minMax false true x y
  | 4 => FFmt.fp32.minMax false false x y
  | _ => add32 x y
/-- Elements combined in order, n of them. -/
def combineFrom (red : Nat) : Nat → List Byte → List Byte → List Byte × BitVec 6
  | 0, _, _ => ([], 0)
  | n + 1, x, y =>
      let w := workBytes red
      let r := combineElem red (fieldAt x 0 w) (fieldAt y 0 w)
      let (bs, f) := combineFrom red n (x.drop w) (y.drop w)
      (bytesOfNat w r.bits ++ bs, r.flags ||| f)
/-- Two parts combined: a reduction element by element; a gather or a broadcast one after the other. -/
def combine (op red : Nat) (x y : List Byte) : List Byte × BitVec 6 := if op ≤ 1 then combineFrom red (x.length / workBytes red) x y else (x ++ y, 0)
/-- Elements converted, n of them, from e bytes to w. -/
def convertFrom (conv : Nat → FRes) (e w : Nat) : Nat → List Byte → List Byte × BitVec 6
  | 0, _ => ([], 0)
  | n + 1, x =>
      let r := conv (fieldAt x 0 e)
      let (bs, f) := convertFrom conv e w n (x.drop e)
      (bytesOfNat w r.bits ++ bs, r.flags ||| f)
/-- A source as it is worked on. -/
def widenPart (op red : Nat) (x : List Byte) : List Byte × BitVec 6 :=
  if op ≤ 1 && red = 5 then convertFrom (fun b => FFmt.bf16.convert .fp32 .engine false b) 2 4 (x.length / 2) x else (x, 0)
/-- The result as it is stored. -/
def narrowPart (op red : Nat) (x : List Byte) : List Byte × BitVec 6 :=
  if op ≤ 1 && red = 5 then convertFrom (fun b => FFmt.fp32.convert .bf16 .engine false b) 4 2 (x.length / 4) x else (x, 0)

/-- Values at a level of the tree. -/
def levelSize (p l : Nat) : Nat := (p + 2 ^ l - 1) / 2 ^ l
/-- The participants below one in the tree. -/
def children (p i : Nat) : List Nat := (List.range 14).filterMap fun l => if i % 2 ^ (l + 1) = 0 && decide (i + 2 ^ l < p) then some (i + 2 ^ l) else none
/-- This device's index among the participants. -/
def State.collIndex (s : State) (b : List Byte) : Nat := ((participants b).findIdx? (· == s.fab.devNum)).getD 0
/-- A device by its index. -/
def deviceAt (b : List Byte) (i : Nat) : Nat := fieldAt b 0x14 2 + i * fieldAt b 0x16 2
/-- The result of the tree sent down (R461). -/
def State.sendDown (s : State) (b : List Byte) (flags : Nat) (data : List Byte) : State :=
  s.tellAll ((children (collSize b) (s.collIndex b)).map (deviceAt b)) (.down (collId b) flags data)
/-- This device's part taken as far up the tree as it goes: levels left, level, the part. -/
def State.climb (s : State) (b : List Byte) (x : Collective) : Nat → Nat → Nat → List Byte → State
  | 0, _, _, _ => s
  | n + 1, l, flags, data =>
      let p := collSize b
      let i := s.collIndex b
      let j := i / 2 ^ l
      let k := collId b
      if levelSize p l ≤ 1 then
        let (bs, f) := narrowPart (collOp b) (collRed b) data
        let flags := flags ||| f.toNat
        (s.setColl k { x with parts := [], result := some (flags, bs) }).sendDown b flags bs
      else if j % 2 = 1 then (s.setColl k { x with parts := [] }).tell (deviceAt b ((j - 1) * 2 ^ l)) (.coll (.up k l j flags data))
      else if j + 1 < levelSize p l then
        match x.parts.find? fun y => y.1 == l && y.2.1 == j + 1 with
        | none => s.setColl k { x with parts := (l, j, flags, data) :: x.parts }
        | some y =>
            let (bs, f) := combine (collOp b) (collRed b) data y.2.2.2
            s.climb b { x with parts := x.parts.filter fun z => z != y } n (l + 1) (flags ||| y.2.2.1 ||| f.toNat) bs
      else s.climb b x n (l + 1) flags data
/-- The climb taken up again when another device's part has come. -/
def State.climbOn (s : State) (b : List Byte) : State :=
  match s.coll? (collId b) with
  | none => s
  | some x =>
      match x.parts.find? fun y => y.2.1 == s.collIndex b / 2 ^ y.1 && y.2.1 % 2 == 0 with
      | none => s
      | some y => s.climb b { x with parts := x.parts.filter fun z => z != y } 16 y.1 y.2.2.1 y.2.2.2

/-! ## The start (R312, R315, R316) -/

/-- The bytes a participant reads at SRC (R314). -/
def sourceBytes (b : List Byte) (i : Nat) : Nat :=
  let n := collBytes (collRed b) * collCount b
  match collOp b with
  | 0 => n
  | 1 => n * collSize b
  | 2 => n
  | 3 => if i = fieldAt b 0x12 2 then n else 0
  | _ => 0
/-- This device's verdict on a DATUM (R315, R169). (DEDUCED: log entry 55.) -/
def State.datumVerdict (s : State) (b : List Byte) : Nat :=
  let n : Fin 16 := Fin.ofNat 16 (fieldAt b 0x1A 1)
  if !s.dev.spanning.getLsbD n.val then EngStatus.notSpanning.code
  else if 2 ^ 23 ≤ (s.dev.datum.get n + BitVec.ofNat 64 (fieldAt b 0x44 4) - s.dev.sweepBase.get n).toNat then EngStatus.stepSweepDue.code
  else 0
/-- Have all the participants posted? -/
def allPosted (b : List Byte) (x : Collective) : Bool := (participants b).all fun d => x.posts.any fun p => p.device == d
/-- Does a post disagree with this device's? (DEDUCED: log entry 55.) -/
def disagrees (b : List Byte) (x : Collective) : Bool := x.posts.any fun p => p.fields != collFields b
/-- Have all the gates been settled? -/
def allSettled (x : Collective) : Bool := x.posts.all fun p => p.gate.isSome
/-- The broken gate of the lowest participant. -/
def brokenGate (x : Collective) : Option CollPost := (sortBy (·.device) (x.posts.filter fun p => (p.gate.map (· != 0)).getD false)).head?
/-- COLL_START (R312): every participant has posted; the posts agree or the collective ends with MISMATCH; the gates are open or it ends with BROKEN_INPUT; then each device gives its source, or its verdict. -/
def execCollStart (k : DWord) (s : State) : Host.Outcome State Fault Refusal :=
  match s.coll? k with
  | none => .refused .notEnabled
  | some x => match x.cmd.bind fun id => (s.cmd? id).map fun c => (id, c) with
    | none => .refused .notEnabled
    | some (id, c) =>
        let b := c.block
        if x.started || x.bad.isSome || !allPosted b x then .refused .notEnabled
        else if disagrees b x then
          .next ((s.setColl k (x.fail .mismatch)).tellAll ((participants b ++ x.posts.map (·.device)).eraseDups) (.verdict k s.fab.devNum EngStatus.mismatch.code))
        else if !allSettled x then .refused .notEnabled
        else if (brokenGate x).isSome then .next (s.setColl k (x.fail .brokenInput))
        else if collOp b = 4 then
          let v := s.datumVerdict b
          .next (((s.setColl k { x with started := true, verdicts := (s.fab.devNum, v) :: x.verdicts }).setCmd id { c with started := true }).tellAll (participants b) (.verdict k s.fab.devNum v))
        else if !s.cmdMayRun c then .refused .notEnabled
        else match s.engineRun (engRead (s.cmdEnv c) (plane b 0x20) (sourceBytes b (s.collIndex b))) with
          | .wait t r => .next (s.cmdWaits id c t r)
          | .fault code ea _ t => .next (((t.setColl k (x.fail code)).setCmd id { c with datums := [(0, ea.toNat)] }).tellAll (participants b) (.verdict k s.fab.devNum code.code))
          | .done bs t =>
              let (w, f) := widenPart (collOp b) (collRed b) bs
              .next (((t.setCmd id { c with started := true }).setColl k { x with started := true }).climb b { x with started := true } 16 0 f.toNat w)
/-- COLL_GATE (R316): the claim of a post's gate is no longer PENDING. -/
def execCollGate (id : Nat) (s : State) : Host.Outcome State Fault Refusal :=
  match s.cmd? id with
  | none => .refused .notEnabled
  | some c => match c.gate with
    | .ready => .refused .notEnabled
    | .broken _ => .refused .notEnabled
    | .waiting none =>
        let v := s.claimView (collGateOf c.block)
        if v.isPending then .refused .notEnabled else .next (s.settleGate id c v.gate)
    | .waiting (some _) => match c.inbuf with
      | w :: _ => .next (s.settleGate id c (gateOfWord w))
      | [] => if s.unreachable (claimHome (collGateOf c.block)) then .next (s.settleGate id c Cause.deviceLost.code) else .refused .notEnabled
/-- A COLLID withdrawn (R317): every post of it that is outstanding here ends with TIMEOUT. (DEDUCED: log entry 55.) -/
def State.withdrawColl (s : State) (k : DWord) : State :=
  let s := if s.eng.withdrawn.contains k then s else { s with eng := { s.eng with withdrawn := s.eng.withdrawn ++ [k] } }
  match s.coll? k with
  | none => s
  | some x => if x.cmd.isSome then s.setColl k (x.fail .timeout) else s.dropColl k
/-- COLL_TIMEOUT (R317): not every participant has posted (R312). -/
def execCollTimeout (id : Nat) (s : State) : Host.Outcome State Fault Refusal :=
  match s.cmd? id with
  | none => .refused .notEnabled
  | some c =>
      let limit := fieldAt c.block 0x40 4
      let begun := ((s.coll? (collId c.block)).map fun x => x.cmd == some id && allPosted c.block x).getD false
      if c.kind != .collPost || limit = 0 || begun || s.eng.withdrawn.contains (collId c.block) || s.timebase < c.posted + limit then .refused .notEnabled
      else .next ((s.withdrawColl (collId c.block)).tellAll (participants c.block) (.withdraw (collId c.block)))

/-! ## Messages (R461) -/

/-- The block of this device's post of a COLLID. -/
def State.collBlock (s : State) (k : DWord) : Option (List Byte) := ((s.coll? k).bind (·.cmd)).bind fun id => (s.cmd? id).map (·.block)
/-- The status of a code (R263). -/
def statusOfCode (n : Nat) : EngStatus :=
  ([.ok, .addrRange, .windowRange, .pageFault, .formatMismatch, .writeShared, .pinnedWrite, .barrierClobber, .check, .recipeMiss, .recipeDepth, .badBlock, .badSparse, .decayRange,
    .benchBusy, .noBench, .planeMismatch, .overflow, .badMap, .deviceLost, .brokenInput, .timeout, .mismatch, .stepSweepDue, .notSpanning].find? fun x => x.code == n).getD .mismatch
/-- Is the verdict one of DATUM? -/
def datumCode (n : Nat) : Bool := n == 0 || n == EngStatus.stepSweepDue.code || n == EngStatus.notSpanning.code
/-- A COLL flit acted on. -/
def State.collArrives (s : State) (m : CollData) : State :=
  match m with
  | .post k d n fields =>
      if s.eng.withdrawn.contains k then s
      else
        let x := (s.coll? k).getD Collective.new
        let mine (y : Nat × Nat × Nat × DWord) : Bool := y.1 == d && y.2.1 == n
        let known := (x.gates.find? mine).map (·.2.2)
        if x.posts.any fun p => p.device == d then s
        else s.setColl k { x with posts := x.posts ++ [{ device := d, number := n, fields := fields, gate := known.map (·.1), claim := (known.map (·.2)).getD 0 }], gates := x.gates.filter fun y => !mine y }
  | .gate k d n cause claim =>
      if s.eng.withdrawn.contains k then s
      else
        let x := (s.coll? k).getD Collective.new
        let mine (p : CollPost) : Bool := p.device == d && p.number == n
        s.setColl k (if x.posts.any mine then { x with posts := x.posts.map fun p => if mine p then { p with gate := some cause, claim := claim } else p }
          else { x with gates := x.gates ++ [(d, n, cause, claim)] })
  | .up k l j flags data => match s.coll? k, s.collBlock k with
    | some x, some b => (s.setColl k { x with parts := x.parts ++ [(l, j, flags, data)] }).climbOn b
    | _, _ => s
  | .down k flags data => match s.coll? k, s.collBlock k with
    | some x, some b => (s.setColl k { x with result := some (flags, data) }).sendDown b flags data
    | _, _ => s
  | .verdict k d code => match s.coll? k with
    | none => s
    | some x => if datumCode code then s.setColl k { x with verdicts := (d, code) :: x.verdicts.filter fun v => v.1 != d }
        else if x.cmd.isSome then s.setColl k (x.fail (statusOfCode code)) else s
  | .withdraw k => s.withdrawColl k
/-- A lost device ends every collective that it takes part in (R317, R473). -/
def State.loseColls (s : State) (d : Nat) : State :=
  { s with eng := { s.eng with colls := s.eng.colls.map fun x => match x.2.cmd.bind s.cmd? with
      | some c => if (participants c.block).contains d then (x.1, x.2.fail .deviceLost) else x
      | none => x } }

/-! ## The end of a post (R311 to R318) -/

/-- The bytes of a result that a participant stores (R314). -/
def ownSlice (b : List Byte) (i : Nat) (data : List Byte) : List Byte :=
  let n := collBytes (collRed b) * collCount b
  if collOp b = 1 then (data.drop (i * n)).take n else data
/-- A DATUM whose verdicts are all known. -/
def datumEnd (b : List Byte) (x : Collective) : Option EngStatus :=
  if (participants b).all fun d => x.verdicts.any fun v => v.1 == d then
    (if x.verdicts.any fun v => v.2 == EngStatus.notSpanning.code then some .notSpanning
     else if x.verdicts.any fun v => v.2 == EngStatus.stepSweepDue.code then some .stepSweepDue
     else some .ok)
  else none
/-- The work of a post that can end; none while it cannot. (DEDUCED: log entry 47.) -/
def State.collWork (s : State) (id : Nat) (c : Cmd) : Option (EngOut CmdEnd) :=
  let b := c.block
  match (s.coll? (collId b)).filter fun x => x.cmd == some id with
  | none => if s.eng.withdrawn.contains (collId b) then some (.done { code := .timeout } s) else none
  | some x => match x.bad with
    | some code =>
        let broken := if statusOfCode code == .brokenInput then brokenGate x else none
        some (.done { code := statusOfCode code, detail := (broken.bind (·.gate)).getD 0, faddr := (broken.map (·.claim)).getD (BitVec.ofNat 64 ((lookup c.datums 0).getD 0)) } s)
    | none =>
        if !x.started then none
        else if collOp b = 4 then
          (datumEnd b x).map fun code => if code == .ok then
              (let n : Fin 16 := Fin.ofNat 16 (fieldAt b 0x1A 1)
               .done { code := .ok } { s with dev := { s.dev with datum := s.dev.datum.set n (s.dev.datum.get n + BitVec.ofNat 64 (fieldAt b 0x44 4)) } })
            else .done { code := code } s
        else match x.result with
          | none => none
          | some (flags, data) => match s.engineRun (engWrite (s.cmdEnv c) (collBytes (collRed b)) (plane b 0x28) (ownSlice b (s.collIndex b) data)) with
            | .wait t r => some (.wait t r)
            | .fault code ea _ t => some (.done { code := code, faddr := ea, fpsum := BitVec.ofNat 6 flags } t)
            | .done _ t => some (.done { code := .ok, fpsum := BitVec.ofNat 6 flags } t)
/-- A collective over here: the next post of its COLLID that this device holds back is made known. -/
def State.collOver (s : State) (k : DWord) : State :=
  let s := s.dropColl k
  match s.eng.cmds.find? fun c => c.2.kind == .collPost && collId c.2.block == k with
  | some (id, c) => s.registerColl id c
  | none => s

/-! ## Buckets (R247, R318, R337) -/

/-- ARRIVED after an arrival, and whether it fills the generation (R247). -/
def bucketNext (expect arrived : Nat) : Nat × Bool :=
  let n := (arrived + 1) % 2 ^ 32
  if n = expect then (0, true) else (n, false)
/-- Does an arrival that n others precede fill the generation? -/
def bucketFills (expect arrived : Nat) : Nat → Bool
  | 0 => (bucketNext expect arrived).2
  | n + 1 => bucketFills expect (bucketNext expect arrived).1 n
/-- The rules of a bucket's words (R247): its line passes its check, it has an EXPECT, and the arrival that fills the generation, n arrivals of the same instruction being before it, finds a block at POST that keeps its rules. (DEDUCED: log entry 56.) -/
def State.bucketFault (s : State) (asid n : Nat) (p : Place) : Option Cause :=
  let bs := s.bytesAt none false p.loc 32
  let post := fieldAt bs 0x10 8
  if s.lineFails none p.loc 32 then some .check
  else if fieldAt bs 0 4 = 0 then some .badBucket
  else if post = 0 || !bucketFills (fieldAt bs 0 4) (fieldAt bs 4 4) n then none
  else match s.target (BitVec.ofNat 64 post) with
    | some (.here la) => if post % 64 = 0 && (s.firstUnmapped s.dev.qepoch asid la 80).isNone && s.collOk asid (s.readLocal asid la 80) then none else some .badDescriptor
    | some (.scratch _) => some .badDescriptor
    | some (.remote _ _) => some .badDescriptor
    | none => some .badDescriptor
/-- The checks of an arrival at a local address of this device: an address outside a COHERENT page, the scratchpad's too, is FORMAT_MISMATCH before the checks of a write, and the words are read once the tile holds data (R218, R224, R247). (DEDUCED: log entry 56.) -/
def State.bucketAt (s : State) (c : Ctx) (before : Loc → Nat) (ea : DWord) : Checked :=
  match s.check c (.raw 32) false ea with
  | .bad x => .bad x
  | .remote d la => .remote d la
  | .ok p => match p.loc with
    | .win _ _ => .bad .formatMismatch
    | .phys _ =>
        if attrCoh p.attr ≠ 2 then .bad .formatMismatch
        else match s.check c (.raw 32) true ea with
          | .bad x => .bad x
          | .remote d la => .remote d la
          | .ok p =>
              if (s.tileBefore c p.tile p.loc 32 true).isSome then .ok p
              else match s.bucketFault c.asid (before p.loc) p with
                | some x => .bad x
                | none => .ok p
/-- The places of the buckets that earlier arrivals of the same instruction name. -/
def State.bucketPlaces (s : State) (c : Ctx) (eas : List DWord) : List Loc :=
  eas.filterMap fun ea => match s.check c (.raw 32) false ea with
    | .ok p => some p.loc
    | .remote _ _ => none
    | .bad _ => none
/-- The collective of a bucket posted (R248, R318): a command of the device, without a token or a table entry, for the launch of the arrival, here or at the device that asked. (DEDUCED: log entry 56.) -/
def State.postBucket (s : State) (asid launch : Nat) (asker : Option (Nat × Nat)) (post : Nat) : State :=
  match s.target (BitVec.ofNat 64 post) with
  | some (.here la) =>
      let (id, s) := s.fresh
      let c : Cmd :=
        { kind := .collPost, gid := 0, team := 0, launch := launch, core := Config.cores, token := none, blockEa := BitVec.ofNat 64 post, block := s.readLocal asid la 80, asid := asid, cert := false,
          order := id, posted := s.timebase, items := [], results := [], dueAt := s.cycle, started := false, datums := [], outbuf := [], inbuf := [], gate := .ready, tile := none, tileFail := none, epoch := s.dev.qepoch, asker := asker }
      ({ s with eng := { s.eng with cmds := s.eng.cmds ++ [(id, c)] } }).registerColl id c
  | some (.scratch _) => s
  | some (.remote _ _) => s
  | none => s
/-- One arrival under the tag of its checks (R247, R339): the generation it read, whether it posted a collective, which it does when it fills the generation of a bucket with a POST, and the state after it. -/
def State.bucketStep (s : State) (tag asid launch : Nat) (asker : Option (Nat × Nat)) (l : Loc) : Word × Bool × State :=
  let bs := s.bytesAt none false l 32
  let field (s : State) (off v : Nat) : State := s.putTagged tag none false (l.plus off) (bytesOfNat 4 v)
  let gen := fieldAt bs 8 4
  let (n, fills) := bucketNext (fieldAt bs 0 4) (fieldAt bs 4 4)
  if fills then
    let s := field (field s 4 0) 8 ((gen + 1) % 2 ^ 32)
    if fieldAt bs 0x10 8 = 0 then (BitVec.ofNat 32 gen, false, s) else (BitVec.ofNat 32 gen, true, s.postBucket asid launch asker (fieldAt bs 0x10 8))
  else (BitVec.ofNat 32 gen, false, field s 4 n)
/-- Arrivals of lanes at buckets here, ascending: what each lane read, and how many collectives they posted. -/
def State.bucketSteps (s : State) (tag asid launch : Nat) (asker : Option (Nat × Nat)) : List (Nat × Loc) → List (Nat × List Word) × Nat × State
  | [] => ([], 0, s)
  | (i, l) :: r =>
      let (w, b, s) := s.bucketStep tag asid launch asker l
      let (vs, n, s) := s.bucketSteps tag asid launch asker r
      ((i, [w]) :: vs, n + b.toNat, s)
/-- Arrivals of lanes at buckets of other devices, one request for each device and line. -/
def State.bucketSends (s : State) (gid : Nat) (c : Ctx) (rem : List (Nat × Nat × Nat)) : List Nat × State :=
  s.sendAll (.bucket gid 0) c.launch (fun _ ls => .rdreq { asid := c.asid, hnd := c.hnd, parts := ls.map fun l => { lane := l.1, la := l.2, kind := .bucket } }) (shareLines rem)
/-- R247, R248: the release comes first, of the performed accesses and not of copies in flight, then the checks of every lane, then the arrivals. In a certified kernel they count once the group's staged accesses before them are applied (R327, R337). -/
def execBucketArrive (d a : Reg) (s : State) : Host.Outcome State Fault Refusal :=
  s.issue fun p g =>
    let c := s.ctxAt p g
    s.orDeferred p g Deferred.atRelease <|
      if (g.awaiting p.cur).isNone && !s.performed p.gid g .system then s.setGroup p.gid (g.enterWait s.cycle (.fence .system true) p.cur)
      else
        let lanes := g.list p.cur.lanes
        let accs : List LaneAcc := lanes.map fun i => { lane := i, ea := g.readPair s.cycle i a, out := s.bucketAt c (s.bucketPlaces c ((lanes.filter (· < i)).map fun j => g.readPair s.cycle j a)).count (g.readPair s.cycle i a) }
        match s.checkAll p g accs [] (fun _ ls => .rdreq { asid := c.asid, hnd := c.hnd, parts := ls.map fun l => { lane := l.1, la := l.2, kind := .bucketCheck } }) with
        | .stop s => s
        | .go s g as _ => match (placesOf as).findSome? fun x => s.tileBefore c x.2.tile x.2.loc 32 true with
          | some (k, rebuild) => s.tileWaits p g c k rebuild
          | none =>
              let s := s.publish g .system
              let done := g.leaveWait p.cur
              if s.owes p.gid s.sched.nextId then
                ((s.finish p done).actLater p.gid p.cur [d] (.bucket d ((placesOf as).map fun x => (x.1, x.2.loc, x.2.attr, x.2.tile)) (remoteLanes as))).closeFor p.gid false
              else
                let (vals, _, s) := s.bucketSteps c.tag c.asid c.launch none ((placesOf as).map fun x => (x.1, x.2.loc))
                let (tags, s) := s.bucketSends p.gid c (remoteLanes as)
                let (id, s) := ((s.finish p done).closeFor p.gid false).fresh
                s.addEntry p.gid { id := id, pc := p.cur.pc, lanes := p.cur.lanes, regs := [d], vals := wordWrites d vals, due := s.cycle + 16,
                                   kind := if tags.isEmpty then .ready else .remote tags p.cur.word, op := .nothing, rows := [], epoch := s.dev.qepoch }

/-! ## The late effects of certified releases (R327, R337, R344) -/

/-- The launch of a release whose effect waits. -/
def State.lateLaunch (s : State) (x : Late) : Nat := ((s.group? x.gid).map s.launchIdOf).getD 0
/-- The groups whose segments are next in round order, one for each certified launch that has a release waiting (R344). -/
def State.nextGroups (s : State) : List (Nat × Group) :=
  s.groups.filter fun g => s.eng.lates.any (fun x => s.lateLaunch x == s.launchIdOf g.2) && s.participantOf g.2 == (s.roundsOf (s.launchIdOf g.2)).next
/-- Does the participant whose segment is next wait for the very effect of a release? Its open segment can then not close before the effect, and the effect waits no longer. (DEDUCED: log entry 103.) -/
def State.neededNow (s : State) (x : Late) : Bool :=
  s.nextGroups.any fun g => !g.2.ended && s.lateLaunch x == s.launchIdOf g.2 && match x.act with
    | .arrive t o => g.2.waits.any fun w => match w.kind with
      | .barrier a _ => (s.windowOf (some g.2.team) a.toNat 1) == some (t, o)
      | .queuePop _ | .queuePush _ | .tile _ _ | .stores | .remoteCheck _ | .claim _ _ _ | .launchStore _ _ | .token _ | .batch _ | .sealLimit | .fence _ _ | .cbuf _ _
      | .phase _ | .grant _ | .sweep _ | .table | .exit | .staging => false
    | .put _ _ ends => s.eng.cbufq.any fun q => q.2 == (g.1, 0) && ends.any fun e => q.1 == (CbufEnd.mk e.2.1 e.2.2.1 (!e.2.2.2)).key
    | .bucket _ _ _ => false
/-- A tile that a late arrival at a bucket must wait for. -/
def State.lateTile (s : State) (x : Late) : Option Nat :=
  match x.act, s.group? x.gid with
  | .bucket _ ps _, some g => ps.findSome? fun y => if s.mustWait (s.ctxOf x.gid g) y.2.2.2 then y.2.2.2 else none
  | .bucket _ _ _, none => none
  | .arrive _ _, _ => none
  | .put _ _ _, _ => none
/-- Is nothing left that a release's effect waits for but perhaps a tile? -/
def State.lateFree (s : State) (x : Late) : Bool := !s.owes x.gid x.before || s.neededNow x
/-- May a release have its effect now, or must its tile be met? -/
def State.lateDue (s : State) (x : Late) : Bool := s.lateFree x && ((s.lateTile x).map fun k => (s.tile k).idle).getD true
/-- The results of a release delivered to its scoreboard entry. -/
def State.deliverLate (s : State) (x : Late) (d : Reg) (vals : List (Nat × List Word)) (tags : List Nat) : State :=
  s.modGroup x.gid fun g => { g with sb := g.sb.map fun e => if e.id == x.entry then
    { e with vals := wordWrites d vals, due := max e.due (s.cycle + 1), kind := if tags.isEmpty then .ready else .remote tags (s.fetchFor g e.pc).instr } else e }
/-- The effect of a release. (DEDUCED: log entry 103.) -/
def State.actNow (s : State) (x : Late) : State :=
  match x.act, s.group? x.gid with
  | .arrive t o, _ => s.arrive t o
  | .put d n ends, _ => (match s.cbufPuts n (ends.map fun e => (e.1, (0 : DWord), CbufEnd.mk e.2.1 e.2.2.1 e.2.2.2)) with
      | .error _ => s.deliverLate x d [] []
      | .ok (vs, t) => (t.deliverLate x d (vs.map fun v => (v.1, [v.2])) []).deferAll x.gid
          (deferredOf x.entry (((s.group? x.gid).bind fun g => (g.sb.find? (·.id == x.entry)).map fun e => (s.fetchFor g e.pc).instr).getD 0) [d] (s.cbFailing (ends.map fun e => (e.1, CbufEnd.mk e.2.1 e.2.2.1 e.2.2.2)))))
  | .bucket d ps far, some g =>
      let c := s.ctxOf x.gid g
      let (vals, _, s) := s.bucketSteps x.epoch c.asid c.launch none (ps.map fun y => (y.1, y.2.1))
      let (tags, s) := s.bucketSends x.gid c far
      s.deliverLate x d vals tags
  | .bucket _ _ _, none => s
/-- The releases of a launch whose effect has come, in order. -/
def State.settleLates (s : State) (l : Nat) : State :=
  s.eng.lates.foldl (fun s x =>
    if s.lateLaunch x != l || !s.lateFree x then s
    else match s.lateTile x, s.group? x.gid with
      | some k, some g => s.meetTile (s.ctxOf x.gid g) k
      | some _, none => s
      | none, _ => ({ s with eng := { s.eng with lates := s.eng.lates.filter fun y => y.entry != x.entry } }).actNow x) s

end Sys2Proof.Machine
end

