-- ==== Sys2Proof/Machine/EngineEnds.lean ====
section
/-! DEFINITION. ENGINE_COMMAND_COMPLETE (R260): every command of the engines comes to its end here. -/
namespace Sys2Proof.Machine

/-- The end that a run of a command's work comes to; a wait for a tile starts the work over. -/
def State.endWith (s : State) (id : Nat) (c : Cmd) (o : EngOut CmdEnd) : State :=
  match o with
  | .done e t => t.endCmd id c e
  | .fault code ea d t => t.endCmd id c { code := code, faddr := ea, detail := d }
  | .wait k rebuild => s.cmdWaits id c k rebuild

/-- A drain or regrowth (R282 to R287): started, or started now when nothing of its domains stands in its way. One whose amax word may not be published to ends before it changes anything (R284). -/
def State.drainEnd (s : State) (id : Nat) (c : Cmd) : Option State :=
  let go (s : State) (c : Cmd) : Option State :=
    if plane c.block 0x48 = 0 then some (s.endWith id c (s.drainWork c))
    else match s.amaxPlace c with
      | .here => some (s.endWith id c (s.drainWork c))
      | .bad => some (s.endCmd id c { code := .formatMismatch, faddr := plane c.block 0x48 })
      | .far d la => (s.farDrain id c d la).map fun o => match o with
        | .error e => s.endCmd id c e
        | .ok t => t
  if c.started then (if s.drainTurn id c then go s c else none)
  else if s.drainStarts id c then
    let c := s.startDrain c
    let s := s.setCmd id c
    go s c
  else none

/-- A sort whose items are done (R301). -/
def State.sortEnd (s : State) (id : Nat) (c : Cmd) : State :=
  match s.engineRun (sortKeys (s.cmdEnv c) c.block) with
  | .done _ t => t.endCmd id c { code := .ok }
  | .fault code ea d t => t.endCmd id c { code := code, faddr := ea, detail := d }
  | .wait k rebuild => s.cmdWaits id c k rebuild
/-- A tree built (R304). -/
def State.buildEnd (s : State) (id : Nat) (c : Cmd) : State :=
  match s.engineRun (buildWork (s.cmdEnv c) c.block) with
  | .done flags t => t.endCmd id c { code := .ok, fpsum := flags }
  | .fault code ea d t => t.endCmd id c { code := code, faddr := ea, detail := d }
  | .wait k rebuild => s.cmdWaits id c k rebuild
/-- A collective's post that can end, and the next post of its COLLID that this device holds back. -/
def State.collEnd (s : State) (id : Nat) (c : Cmd) : Option State :=
  (s.collWork id c).map fun o => match o with
    | .wait k rebuild => s.cmdWaits id c k rebuild
    | .done e t => (t.endCmd id c e).collOver (collId c.block)
    | .fault code ea d t => (t.endCmd id c { code := code, faddr := ea, detail := d }).collOver (collId c.block)

/-- The end of a command whose time has come; none while it waits for its turn, its items, or something else. -/
def State.cmdEnds (s : State) (id : Nat) (c : Cmd) : Option State :=
  match c.kind with
  | .mmRun => if c.left.isEmpty || (runStat c.block && c.results.isEmpty && s.handleFree c && (s.statFault c).isSome) then some (s.endCmd id c (s.runEnd c)) else none
  | .mmLdw | .mmSwapw | .mmSwapacc | .mmAccrd | .mmAccwr =>
      if s.banksFree c && s.handleFree c then (s.matrixWork c).map (s.endWith id c) else none
  | .mmDrain | .mmRegrow => s.drainEnd id c
  | .bsAsm | .bsLu | .bsLdl | .bsTrsv | .bsPgs | .bsBack => if c.left.isEmpty then some (s.endCmd id c (batchEnd c)) else none
  | .srtKeys => if c.left.isEmpty then some (s.sortEnd id c) else none
  | .srtPairs => s.pairsStep id c
  | .trvBuild => if s.traverseTurn id c then some (s.buildEnd id c) else none
  | .trvQuery => if s.traverseTurn id c then s.queryStep id c else none
  | .collPost => s.collEnd id c
  | .phaseRegroup | .phaseRestore => none

/-- ENGINE_COMMAND_COMPLETE (R260). A pair search and a query also take the steps here in which their queues let them go on. -/
def execEngineCommandComplete (id : Nat) (s : State) : Host.Outcome State Fault Refusal :=
  match s.cmd? id with
  | none => .refused .notEnabled
  | some c =>
      if s.cycle < c.dueAt || (c.kind != .collPost && !s.cmdMayRun c) then .refused .notEnabled
      else match s.cmdEnds id c with
        | none => .refused .notEnabled
        | some t => .next t

end Sys2Proof.Machine
end

