-- ==== Sys2Proof/Machine/LaneRecipes.lean ====
section
/-! DEFINITION. Recipe instructions (R251 to R257), mm.amax (R285), and the end of held accesses and waiting stores (R224, R225). -/
namespace Sys2Proof.Machine

/-! ## Recipe instructions -/

/-- The tile an EA names, with its page attributes (R251), or the cause. -/
def State.tileAt (s : State) (c : Ctx) (ea : DWord) : Except Cause (Nat × Word) :=
  match s.target ea with
  | none => .error .addrRange
  | some (.scratch _) => .error .addrRange
  | some (.remote _ _) => .error .addrRange
  | some (.here la) => match s.checkLocal c 1 false false ea la with
    | .bad x => .error x
    | .remote _ _ => .error .addrRange
    | .ok p => match p.tile with
      | none => .error .recipePage
      | some k => .ok (k, p.attr)

/-- A recipe instruction: every lane's tile is found and its addresses checked first, over all lanes in the order of R218; then the lanes act in turn; a lane that traps leaves nothing done. (DEDUCED: log entry 71.) -/
def recipeInstr (s : State) (a : Reg) (pre : Ctx → Group → Nat → DWord → Option Word → Option (Cause × DWord))
    (act : State → Packet → Group → Nat → DWord → Nat → Except (Cause × DWord) State) : Host.Outcome State Fault Refusal :=
  s.issue fun p g =>
    let c := s.ctxOf p.gid g
    let es := (g.list p.cur.lanes).map fun i => (i, g.readPair s.cycle i a, s.tileAt c (g.readPair s.cycle i a))
    let bad := es.flatMap fun x =>
      let (tile, attr) := match x.2.2 with
        | .error k => ([(x.1, k, x.2.1)], none)
        | .ok t => ([], some t.2)
      tile ++ ((pre c g x.1 x.2.1 attr).map fun e => (x.1, e)).toList
    match worst bad with
    | some (k, m, ea) => s.trapAt p.gid p.cur k m ea
    | none =>
        let run := es.foldl (fun (r : Except (Nat × Cause × DWord) State) x => match r, x.2.2 with
          | .ok t, .ok (k, _) => (match act t p g x.1 x.2.1 k with
              | .ok t => .ok t
              | .error e => .error (x.1, e))
          | .ok t, .error _ => .ok t
          | .error e, _ => .error e) (.ok s)
        match run with
        | .error (i, k, ea) => s.trapAt p.gid p.cur k (maskOf [i]) ea
        | .ok t => t.modGroup p.gid fun h => (h.leaveWait p.cur).moveTo p.cur.lanes (succPc p.cur.pc)
/-- A recipe instruction with no check of its own before its lanes act. -/
def noCheck (_c : Ctx) (_g : Group) (_lane : Nat) (_ea : DWord) (_attr : Option Word) : Option (Cause × DWord) := none

/-- Is a source field of a record a tile of an RCP page (R253)? -/
def State.sourceOk (s : State) (asid n : Nat) : Bool := decide (n < 2 ^ 32) && ((s.pageAt asid (n * 2 ^ 14)).map fun p => attrRcp p.attr).getD false
/-- The rules of a record (R252, R253). -/
def State.recordOk (s : State) (asid : Nat) (r : List Byte) : Bool :=
  (recKernel r == 0 || ((s.kernelOf asid (recKernel r)).map (·.recipe)).getD false) && (recSources r).all (s.sourceOk asid)
    && decide (recDepth r ≤ 8) && fieldAt r 0x18 8 % 2 ^ 20 == 0
/-- Pin counts of source tiles changed by one. -/
def State.countSources (s : State) (asid : Nat) (up : Bool) (ns : List Nat) : State :=
  ns.foldl (fun s n => let k := asid * 2 ^ 32 + n
                       s.setTile k { s.tile k with pins := if up then (s.tile k).pins + 1 else (s.tile k).pins - 1 }) s
/-- rcp.reg in one lane (R253). (DEDUCED: log entry 68.) -/
def State.register (s : State) (asid k : Nat) (ea : DWord) (r : List Byte) : Except (Cause × DWord) State :=
  let t := s.tile k
  let new := if recKernel r = 0 then [] else recSources r
  let old := (t.record.map recSources).getD []
  if !s.recordOk asid r then .error (.badRecipe, tileEa ea)
  else if t.st == .building then .error (.recipeBusy, tileEa ea)
  else if (new.filter fun n => !old.contains n).any fun n => (s.tile (asid * 2 ^ 32 + n)).pins = 65535 then .error (.pinRange, tileEa ea)
  else
    let s := s.setTile k { t with record := if recKernel r = 0 then none else some r }
    .ok ((s.countSources asid true (new.filter fun n => !old.contains n)).countSources asid false (old.filter fun n => !new.contains n))
/-- The record of a lane of rcp.reg (R252, R253), with its address. -/
def State.recordAt (s : State) (c : Ctx) (g : Group) (d : Reg) (lane : Nat) : Except (Cause × DWord) (List Byte) :=
  let sea := scratchEa (g.read s.cycle lane d).toNat
  match s.descriptor c sea 32 32 with
  | .error x => .error (x, sea)
  | .ok r => .ok r
/-- R253. -/
def execRcpReg (d a : Reg) (s : State) : Host.Outcome State Fault Refusal :=
  recipeInstr s a (fun c g i _ _ => match s.recordAt c g d i with
      | .error e => some e
      | .ok _ => none)
    fun t p g i ea k =>
      let c := t.ctxOf p.gid g
      match t.recordAt c g d i with
      | .error e => .error e
      | .ok r => t.register c.asid k ea r

/-- The group's own stores to a tile, waiting or staged, discarded with it (R254). (DEDUCED: log entry 60.) -/
def State.discardStores (s : State) (gid k : Nat) : State :=
  { s with
    mem := { s.mem with storeQ := s.mem.storeQ.filter fun st => !(st.gid == gid && st.tile == some k) }
    eng := { s.eng with staged := s.eng.staged.filter fun x => !(x.gid == gid && (match x.op with
      | .write st => st.tile == some k
      | .remote _ _ => false
      | .atom _ => false
      | .send _ _ _ => false)) } }
/-- Is the tile of rcp.drop in a READSHARED page (R218, R254)? -/
def dropCheck (_c : Ctx) (_g : Group) (_lane : Nat) (ea : DWord) (attr : Option Word) : Option (Cause × DWord) := if attr.map attrCoh = some 1 then some (.writeShared, ea) else none
/-- R254. -/
def execRcpDrop (a : Reg) (s : State) : Host.Outcome State Fault Refusal :=
  recipeInstr s a dropCheck fun t p _ _ ea k =>
    if (t.tile k).record.isNone then .error (.recipeMiss, tileEa ea)
    else if (t.tile k).st == .valid then .ok ((t.discardStores p.gid k).dropTile k)
    else .ok t
/-- R255. -/
def execRcpPin (a : Reg) (s : State) : Host.Outcome State Fault Refusal :=
  recipeInstr s a noCheck fun t _ _ _ ea k =>
    if (t.tile k).pins = 65535 then .error (.pinRange, tileEa ea) else .ok (t.setTile k { t.tile k with pins := (t.tile k).pins + 1 })
/-- R255. -/
def execRcpUnpin (a : Reg) (s : State) : Host.Outcome State Fault Refusal :=
  recipeInstr s a noCheck fun t _ _ _ ea k =>
    if (t.tile k).pins = 0 then .error (.pinRange, tileEa ea) else .ok (t.setTile k { t.tile k with pins := (t.tile k).pins - 1 })
/-- R257. -/
def execTileState (d a : Reg) (s : State) : Host.Outcome State Fault Refusal :=
  recipeInstr s a noCheck fun t p g i _ k => .ok (t.post p.gid p.cur.pc (maskOf [i]) [d] [(i, d, (t.tile k).word (t.certified g))] 28)

/-! ## mm.amax (R285) -/

/-- The check of an amax word: a local or fabric address in a COHERENT page (R285). -/
def State.amaxCheck (s : State) (c : Ctx) (ea : DWord) : Checked :=
  match s.target ea with
  | none => .bad .addrRange
  | some (.scratch _) => .bad .addrRange
  | some (.here _) | some (.remote _ _) => match s.check c (.raw 4) false ea with
    | .ok p => if attrCoh p.attr = 2 then .ok p else .bad .formatMismatch
    | .remote d la => .remote d la
    | .bad x => .bad x
/-- R285: read as an access of R224. -/
def execMmAmax (d a : Reg) (s : State) : Host.Outcome State Fault Refusal :=
  s.issue fun p g =>
    let c := s.ctxOf p.gid g
    let accs : List LaneAcc := (g.list p.cur.lanes).map fun i => { lane := i, ea := g.readPair s.cycle i a, out := s.amaxCheck c (g.readPair s.cycle i a) }
    match s.checkAll p g accs [] (fun _ ls => .rdreq { asid := c.asid, hnd := c.hnd, parts := ls.map fun l => { lane := l.1, la := l.2, kind := .amax } }) with
    | .stop s => s
    | .go s g as answers =>
        let (pass, s) := s.loadPass c true .w32 g.holds (placesOf as)
        let remoteFails := (deferredFailures answers (as.map (·.lane))).map (deferredAddr as)
        let (id, s) := (s.finish p g).fresh
        let e : SbEntry :=
          { id := id, pc := p.cur.pc, lanes := p.cur.lanes, regs := [d], vals := wordWrites d (pass.vals ++ valuesOf answers), due := s.cycle + 160,
            kind := if pass.rows.any (fun r => !r.done) then .held p.cur.word else .ready, op := .amax, rows := pass.rows, epoch := s.dev.qepoch }
        (s.addEntry p.gid e).deferAll p.gid (deferredOf id p.cur.word [d] (pass.failed ++ remoteFails))

/-! ## Held accesses and waiting stores -/

/-- The load a held entry performs, if it is one: raw or not, and its form. -/
def HeldOp.load? (o : HeldOp) : Option (Bool × LoadForm) := match o with
  | .load f => some (false, f)
  | .raw f => some (true, f)
  | .amax => some (true, .w32)
  | .atom _ => none
  | .stat => none
  | .nothing => none
/-- Bytes of a held access in a lane. -/
def HeldOp.size (o : HeldOp) (r : HeldLane) : Nat := match o with
  | .load f => ((Shape.load f).bytes (match r.loc with
      | .win _ _ => 0
      | .phys _ => attrFmt r.attr)).getD 0
  | .raw f => loadSize f
  | .amax => 4
  | .atom op => atomSize op
  | .stat => 0
  | .nothing => 0
/-- The instruction word of an entry. -/
def SbKind.word (k : SbKind) : Word := match k with
  | .held w => w
  | .remote _ w => w
  | .ready => 0
  | .stat => 0
  | .later => 0
  | .answer _ => 0
/-- The kind of an entry when its lanes here stand as given. -/
def SbKind.after (k : SbKind) (isOpen : Bool) : SbKind := match k with
  | .held w => if isOpen then .held w else .ready
  | .remote t w => .remote t w
  | .ready => .ready
  | .stat => .stat
  | .later => .later
  | .answer t => .answer t

/-- The open loads of an entry taken up again (R224): lanes whose tiles are VALID read; others stay held. -/
def State.resumeLoad (s : State) (gid : Nat) (g : Group) (e : SbEntry) (raw : Bool) (f : LoadForm) : State :=
  let c := { s.entryCtx gid g e with upTo := some e.id }
  let (pass, s) := s.loadPass c raw f false ((e.rows.filter fun r => !r.done).map fun r => (r.lane, r.place (e.op.size r)))
  let rows := e.rows.filter (·.done) ++ pass.rows
  let e' := { e with rows := rows, vals := e.vals ++ wordWrites (e.regs.headD 0) pass.vals, due := s.cycle + 1, kind := e.kind.after (rows.any fun r => !r.done) }
  (s.modGroup gid fun h => { h with sb := h.sb.map fun x => if x.id == e.id then e' else x }).deferAll gid (deferredOf e.id e.kind.word e.regs pass.failed)

/-- May the entry be taken up: it is the oldest of its group with open lanes, no earlier store of the group waits before it, and a tile that an open lane waits for is VALID (R224, R322)? -/
def State.mayResume (s : State) (gid : Nat) (g : Group) (e : SbEntry) : Bool :=
  ((g.sb.find? SbEntry.open).map (·.id)) == some e.id && !((s.mem.storeQ.any fun st => st.gid == gid && decide (st.id < e.id)) && (e.op.load?).isNone)
    && !(s.eng.staged.any fun x => match x.op with
      | .atom id => id == e.id
      | .write _ => false
      | .remote _ _ => false
      | .send _ _ _ => false)
    && e.rows.any fun r => !r.done && !s.mustWait (s.ctxOf gid g) r.tile

/-- A tile that an open lane of an entry waits for, dropped again since: the access meets it anew (R391). -/
def State.idleTile (s : State) (gid : Nat) (g : Group) (e : SbEntry) : Option Nat :=
  e.rows.findSome? fun r => if !r.done && s.mustWait (s.ctxOf gid g) r.tile then r.tile.filter fun k => (s.tile k).idle else none

/-- HELD_ACCESS_RESUME (R224). -/
def execHeldAccessResume (gid id : Nat) (s : State) : Host.Outcome State Fault Refusal :=
  match s.group? gid with
  | none => .refused .notEnabled
  | some g => match g.sb.find? (fun e => e.id == id) with
    | none => .refused .notEnabled
    | some e =>
        if !s.resident g || e.kind == .stat then .refused .notEnabled
        else if !s.mayResume gid g e then
          (match s.idleTile gid g e with
          | some k => .next (s.meetTile (s.ctxOf gid g) k)
          | none => .refused .notEnabled)
        else match e.op.load? with
          | some (raw, f) => .next (s.resumeLoad gid g e raw f)
          | none => .next (s.performAtoms gid id)

/-- May the head of a core's store queue apply: its tile is VALID, and no earlier access of its group is held (R225, R322)? -/
def State.storeReady (s : State) (st : PendingStore) : Bool :=
  !s.mustWait (s.issuerCtx st) st.tile && s.clearOfLoads st
/-- A waiting store performed and out of its queue. -/
def State.applyStore (s : State) (st : PendingStore) : State :=
  ({ s with mem := { s.mem with storeQ := s.mem.storeQ.filter fun x => x.id != st.id } } : State).performStore (s.storeCore st) st
/-- Is a store one of a recompute team to the tile it builds (R393)? -/
def State.ownStore (s : State) (st : PendingStore) : Bool := st.tile.isSome && (s.issuerCtx st).own == st.tile
/-- HELD_STORE_APPLY (R225): the oldest waiting store of a core applies over the rebuilt data; while it may not, a store of a recompute team to the tile it builds may (R393). A store whose tile is DROPPED again starts its build anew. (DEDUCED: log entry 70.) (DEDUCED: log entry 91.) -/
def execHeldStoreApply (core : Nat) (s : State) : Host.Outcome State Fault Refusal :=
  match s.storeLine core with
  | [] => .refused .notEnabled
  | st :: r =>
      if s.storeReady st then .next (s.applyStore st)
      else match r.find? fun x => s.ownStore x && s.storeReady x with
        | some x => .next (s.applyStore x)
        | none => match st.tile with
          | none => .refused .notEnabled
          | some k => if (s.tile k).idle then .next (s.meetTile (s.issuerCtx st) k) else .refused .notEnabled

end Sys2Proof.Machine
end

