-- ==== Sys2Proof/Machine/LaunchEnds.lean ====
section
/-! DEFINITION. How launches end: kills (R50, R365 to R367, R394), completion and its record (R45, R424 to R426), recompute launches and chains (R389, R392), graph replays (R422, R423), the Ticket Unit (R344), and tiles lost to eviction or the patrol reader (R389, R402). -/
namespace Sys2Proof.Machine

/-! ## Graph replays: starting nodes (R422, R423) -/

def State.replay? (s : State) (id : Nat) : Option Replay := lookup s.sched.replays id
def State.setReplay (s : State) (id : Nat) (r : Replay) : State := { s with sched := { s.sched with replays := put s.sched.replays id r } }

/-- The entry of node i in the table read at a replay's start. -/
def Replay.entry (r : Replay) (i : Nat) : List Byte := (r.table.drop (0x40 + 32 * i)).take 32
/-- Has a node been started, or been found unable to start? -/
def Replay.touched (r : Replay) (i : Nat) : Bool :=
  r.nodes.any (fun n => n.1 == i) || r.doneOk.contains i || r.failed.any (fun f => f.1 == i) || r.never.contains i
/-- The nodes that may start: untouched, with every predecessor completed OK. -/
def Replay.readyNodes (r : Replay) : List Nat :=
  (List.range r.nnode).filter fun i => !r.touched i && (match nodeOf i (r.entry i) with
    | none => true
    | some n => n.preds.all r.doneOk.contains)
/-- The nodes that never started. -/
def Replay.unstarted (r : Replay) : List Nat := (List.range r.nnode).filter fun i => !(r.nodes.any (fun n => n.1 == i) || r.doneOk.contains i || r.failed.any fun f => f.1 == i)

/-- A tile met by the device's own read of a record: its build starts when nothing has started it. -/
def State.deviceMeets (s : State) (asid k : Nat) (rebuild : Bool) : State :=
  let s := if rebuild then s.dropTile k else s
  if (s.tile k).idle then s.meetTile (s.deviceCtx asid) k else s

/-- A node that can never start, because its record breaks its rules now. -/
def State.nodeNever (s : State) (rid i : Nat) (r : Replay) : State := s.setReplay rid { r with never := r.never ++ [i] }
/-- A ready node started as a device-side launch on the die of its replay (R423); it waits while the store is full. -/
def State.startNode (s : State) (rid i : Nat) : State :=
  match s.replay? rid with
  | none => s
  | some r => match nodeOf i (r.entry i) with
    | none => s.nodeNever rid i r
    | some n =>
        if n.lrec ≥ 2 ^ 46 then s.nodeNever rid i r
        else match s.recordBytes (s.deviceCtx r.asid) false (localEa n.lrec) 64 64 with
          | .error (.bad _ _) => s.nodeNever rid i r
          | .error (.wait k) => s.deviceMeets r.asid k false
          | .error (.rebuild k) => s.deviceMeets r.asid k true
          | .ok bs => match s.checkRecord r.asid (nodeRecord bs) with
            | .error _ => s.nodeNever rid i r
            | .ok k => match s.ordinaryEntry r.die with
              | none => s
              | some e =>
                  let (id, s) := s.enterLaunch (recordOf (nodeRecord bs)) k r.asid r.die (.node rid i) (some e) (weightShare r.weight r.nnode i) r.root 0
                  s.setReplay rid { r with nodes := r.nodes ++ [(i, id)] }
/-- Every ready node of every started replay, in the order of the replays. -/
def State.feedReplays (s : State) : State :=
  s.sched.replays.foldl (fun s x => if x.2.started then x.2.readyNodes.foldl (fun s i => s.startNode x.1 i) s else s) s
/-- Entries or tiles have come free: waiting invocations and nodes go on (R408, R423). -/
def State.entriesFreed (s : State) : State := s.feedInvocations.feedReplays

/-! ## Kills (R365, R366) -/

/-- The groups of a launch that have not ended. -/
def State.groupsOfLaunch (s : State) (l : Nat) : List Nat := (s.groups.filter fun x => !x.2.ended && s.launchIdOf x.2 == l).map (·.1)
/-- The teams of a launch that have not ended. -/
def State.teamsOfLaunch (s : State) (l : Nat) : List Nat := (s.teams.filter fun x => !x.2.ended && s.launchIdOfTeam x.2 == l).map (·.1)

/-- A group stopped by a kill: nothing of it is left to happen but what R366 lets complete. -/
def Group.stopped (g : Group) : Group :=
  { g with ended := true, waits := [], sb := [], hist := [], deferred := [], answers := [], pending := none, parked := none, emptyWait := false, arrival := none, ticket := none, stalls := [],
           lanes := g.lanes.map fun l => { l with st := LaneState.exited } }
/-- Has a grant come that the group's g.wgive has not yet taken (R160)? -/
def Group.lent (g : Group) : Bool := g.waits.any fun w => match w.kind.grantTag.bind g.wordFor with
  | some v => v != 0
  | none => false
/-- R365. A grant that has come, or that still comes, goes back to its root (R46). An arrival at a bucket of another device that is on its way stays: the collective that it may post is one of the launch (R318, R366). -/
def State.stopGroup (s : State) (gid : Nat) : State :=
  let s := match s.group? gid with
    | some g => if g.lent then s.giveBack (s.launchIdOf g) (s.rootOf g) (2 ^ 32) else s
    | none => s
  let s := s.modGroup gid Group.stopped
  { s with
    eng := { s.eng with cbufq := s.eng.cbufq.filter fun x => x.2 != (gid, 0), lates := s.eng.lates.filter fun x => x.gid != gid }
    fab := { s.fab with reqs := s.fab.reqs.filter fun r => r.2.owner != .group gid } }

/-- The weight that a launch still holds for teams not yet bound (R417). -/
def Launch.unboundWeight (l : Launch) : Nat :=
  let b := l.nextGang * l.kern.gang
  (l.record.teams - b) * (l.weight / l.record.teams) + (l.weight % l.record.teams - b) + if b = 0 then l.extra else 0

/-- Everything of a killed launch that does not complete is discarded; its teams end, its weight returns, its entry and reservation are free (R366, R367, R411). -/
def State.stopLaunch (s : State) (l : Nat) : State :=
  match s.launch? l with
  | none => s
  | some x =>
      let s := (s.groupsOfLaunch l).foldl State.stopGroup s
      let s := { s with eng := { s.eng with staged := s.eng.staged.filter (fun y => y.launch != l), rounds := del s.eng.rounds l },
                        mem := { s.mem with storeQ := s.mem.storeQ.filter fun y => !(y.launch == l && y.tile.isSome && y.tile == x.origin.tile?) } }
      let s := s.settleRounds
      let teams := s.teamsOfLaunch l
      let s := teams.foldl (fun s t => (s.modTeam t fun y => { y with arrived := [] }).endTeam t) s
      let s := s.giveBack l x.root x.unboundWeight
      let s := { s with
        gangs := s.gangs.map fun (k : Nat × Gang) => if k.2.launch = l then (k.1, { k.2 with st := GangPlaceState.ended }) else k
        sched := { s.sched with resv := s.sched.resv.filter fun r => r.launch != l } }
      (s.modLaunch l fun y => { y with st := .killed, entry := none, extra := 0, nextGang := y.record.teams }).entriesFreed

/-- LAUNCH_KILL (R365): every group of the launch stops between two packets. A recompute that is killed ends its chain (R392). -/
def execLaunchKill (l : Nat) (s : State) : Host.Outcome State Fault Refusal :=
  match s.packet, s.launch? l with
  | none, some x =>
      if x.cause.isNone || x.st == .killed || x.st == .complete || x.st == .refused then .refused .notEnabled
      else
        let t := s.stopLaunch l
        .next (match x.origin.tile? with
          | none => t
          | some k => t.endLater k .recipeMiss)
  | none, none => .refused .notEnabled
  | some _, _ => .refused .notEnabled

/-- OVERRUN (R50): the charge has reached the bound. -/
def execOverrun (l : Nat) (s : State) : Host.Outcome State Fault Refusal :=
  match s.launch? l with
  | none => .refused .notEnabled
  | some x =>
      if x.st == .admitted && x.cause.isNone && x.origin.tile?.isNone && decide (x.record.workbound ≤ x.charge) then .next (s.requestKill l .overrun) else .refused .notEnabled

/-! ## Completion (R45, R424 to R426) -/

/-- The launch of a porter. -/
def State.porterLaunch (s : State) (p : Porter) : Nat := ((s.gang? p.gang).map (·.launch)).getD 0
/-- Has everything the launch issued come to its end (R45, R424)? -/
def State.quiet (s : State) (l : Nat) : Bool :=
  s.mem.storeQ.all (fun x => x.launch != l) && s.eng.copies.all (fun x => x.2.launch != l) && s.eng.cmds.all (fun x => x.2.launch != l)
    && s.eng.staged.all (fun x => x.launch != l) && s.eng.lates.all (fun x => s.lateLaunch x != l) && s.fab.reqs.all (fun x => x.2.launch != l)
    && s.porters.all fun x => s.porterLaunch x.2 != l || x.2.queue.isEmpty

/-- KIND and CAUSE of a launch that ends (R425, R51): LATE is for a launch that held a reservation (R413, R415). (DEDUCED: log entry 62.) -/
def State.outcomeOf (s : State) (l : Launch) : Nat × Nat :=
  match l.cause with
  | some c => (4, c.code)
  | none => if l.record.bounded && l.pairs.isSome && decide (l.record.deadline < s.timebase) then (2, 0) else (1, 0)
/-- A completion record posted (R426): GDONE keeps its value. -/
def State.postStatus (s : State) (asid la kind cause : Nat) : State :=
  let old := natOfBytes (s.readLocal asid la 4)
  s.writeLocal asid la (bytesOfNat 4 (2 ^ 31 + old / 2 ^ 30 % 2 * 2 ^ 30 + kind * 2 ^ 16 + cause))
/-- The record of a launch posted. -/
def State.postRecord (s : State) (l : Launch) (kind cause : Nat) : State :=
  if l.record.compl = 0 then s
  else
    let s := (s.writeLocal l.asid (l.record.compl + 0x28) (bytesOfNat 8 s.timebase)).writeLocal l.asid (l.record.compl + 0x30) (bytesOfNat 8 l.charge)
    s.postStatus l.asid l.record.compl kind cause
/-- The number of the block at a local address. -/
def blockOf (la : Nat) : Nat := (2 ^ 46 - la) / 65536 - 1

/-- A node of a replay has ended (R423). -/
def State.nodeEnds (s : State) (rid i kind cause : Nat) : State :=
  match s.replay? rid with
  | none => s
  | some r =>
      let r := { r with nodes := r.nodes.filter fun n => n.1 != i }
      (s.setReplay rid (if kind = 1 then { r with doneOk := r.doneOk ++ [i] } else { r with failed := r.failed ++ [(i, kind, cause)] })).feedReplays

/-- An invoked launch has ended: its claim breaks, or resolves to its parameter block (R155). -/
def State.claimEnds (s : State) (l : Launch) (claim : DWord) (block lifetime : Nat) (bad : Option Nat) : State :=
  match bad with
  | some cause => (s.releaseBlock block).tell (claimHome claim) (.claimres (.broken claim cause 0))
  | none => s.tell (claimHome claim) (.claimres (.resolved claim s.fab.devNum l.record.params lifetime))

/-- What a completed launch tells the one who started it. -/
def State.reportEnd (s : State) (l : Launch) (badRet : Option Nat) : State :=
  let (kind, cause) := s.outcomeOf l
  match l.origin with
  | .host => s.postRecord l kind cause
  | .device _ => s.postRecord l kind cause
  | .node rid i => s.nodeEnds rid i kind cause
  | .invoked claim block _ _ lifetime => s.claimEnds l claim block lifetime (if l.cause.isSome then some cause else badRet)
  | .recompute _ _ => if l.record.params = 0 then s else s.releaseBlock (blockOf l.record.params)

/-- A launch completes: its reservation ends (R411), and it reports. -/
def State.completeLaunch (s : State) (id : Nat) (l : Launch) (badRet : Option Nat) : State :=
  let s := { s with sched := { s.sched with resv := s.sched.resv.filter fun r => r.launch != id }, eng := { s.eng with rounds := del s.eng.rounds id } }
  ((s.modLaunch id fun x => { x with st := .complete }).reportEnd l badRet)

/-- The returned bytes of an invoked launch on their way to RETADDR (R155): none when there are none to write. Bytes that fail their check are not delivered (R401). (DEDUCED: log entry 58.) -/
def State.returnBytes (s : State) (id : Nat) (l : Launch) : Option (Except Nat State) :=
  match l.origin with
  | .invoked claim block retAddr retLen lifetime =>
      if retLen = 0 || l.cause.isSome then none
      else
        let bs := s.readLocal l.asid l.record.params retLen
        if s.localFails l.asid l.record.params retLen then some (.error Cause.check.code)
        else
          let s := s.setLaunch id { l with origin := .invoked claim block retAddr 0 lifetime }
          let c := s.deviceCtx l.asid
          some (match s.range c true retAddr retLen with
            | .bad x _ => .error x.code
            | .here ps => .ok (s.writePlaces c ps bs)
            | .remote d la => .ok (s.request d (.wr (wrReq l.asid la bs)) (.store id) id).2)
  | .host => none
  | .device _ => none
  | .node _ _ => none
  | .recompute _ _ => none

/-- LAUNCH_COMPLETE (R426): every team has ended, or the launch has been killed, and nothing it issued is left. The returned bytes of an invocation are written first (R155). A recompute launch without a fault ends by RECOMPUTE_COMPLETE. -/
def execLaunchComplete (id : Nat) (s : State) : Host.Outcome State Fault Refusal :=
  match s.launch? id with
  | none => .refused .notEnabled
  | some l =>
      let done := l.st == .killed || (l.st == .admitted && l.cause.isNone && l.teamsEnded == l.record.teams && l.origin.tile?.isNone)
      if !done || !s.quiet id then .refused .notEnabled
      else match s.returnBytes id l with
        | some (.ok t) => .next t
        | some (.error cause) => .next (s.completeLaunch id l (some cause))
        | none => .next (s.completeLaunch id l none)

/-! ## Recompute launches and chains (R389, R391, R392) -/

/-- RECOMPUTE_ENTRY_WAIT_END (R391): an entry of the class that one of the misses of a tile waits for has come free. -/
def execRecomputeEntryWaitEnd (k : Nat) (s : State) : Host.Outcome State Fault Refusal :=
  match (s.tile k).wants.find? fun w => (s.reservedEntry w.2.2 w.1).isSome with
  | none => .refused .notEnabled
  | some (depth, charged, die) => if (s.tile k).ending.isSome then .refused .notEnabled else .next (s.startOne k depth charged die)

/-- RECOMPUTE_COMPLETE (R389): the tile that it builds becomes VALID, and BUILDS counts it. -/
def execRecomputeComplete (id : Nat) (s : State) : Host.Outcome State Fault Refusal :=
  match s.launch? id with
  | none => .refused .notEnabled
  | some l => match l.origin.tile? with
    | none => .refused .notEnabled
    | some k =>
        if !(l.st == .admitted && l.cause.isNone && l.teamsEnded == l.record.teams && s.quiet id) || (s.tile k).ending.isSome then .refused .notEnabled
        else
          let t := s.completeLaunch id l none
          .next (if (t.tile k).build ≠ some id then t else t.setTile k { t.tile k with st := .valid, builds := ((t.tile k).builds + 1) % 2 ^ 32, build := none, bdepth := 0 }).entriesFreed

/-- An open row of an access that waits for a tile of a list. -/
def HeldLane.onTile (r : HeldLane) (ts : List Nat) : Bool := !r.done && (r.tile.map ts.contains).getD false
/-- The engine command status of a chain's end. -/
def chainStatus (c : Cause) : EngStatus := if c == .recipeDepth then .recipeDepth else .recipeMiss

/-- An entry of a group whose tiles have failed: those lanes are done, without a value. -/
def SbEntry.failRows (e : SbEntry) (ts : List Nat) : SbEntry :=
  let rows := e.rows.map fun r => if r.onTile ts then { r with done := true } else r
  { e with rows := rows, kind := match e.kind with
      | .stat => if rows.any (fun r => !r.done) then .stat else .ready
      | .held w => SbKind.after (.held w) (rows.any fun r => !r.done)
      | .remote t w => .remote t w
      | .ready => .ready
      | .later => .later
      | .answer t => .answer t }
/-- Is it the turn of a staged access in round order (R344)? -/
def State.inTurn (s : State) (x : Staged) : Bool :=
  let r := s.roundsOf x.launch
  r.next == x.participant && decide (x.segment ≤ r.round) && x.awaits.isNone
/-- Is an entry a staged atomic whose turn has not come? It waits on no tile yet. -/
def State.notYet (s : State) (id : Nat) : Bool := s.eng.staged.any fun x => x.op == .atom id && !s.inTurn x
/-- Does an entry wait on a tile of a list: a held access, or a bs.stat whose item is named no more (R299)? -/
def State.entryFails (s : State) (g : Group) (ts : List Nat) (e : SbEntry) : Bool :=
  e.rows.any (·.onTile ts) && !s.notYet e.id && (e.kind != .stat || !(e.rows.any fun r => s.itemNamed g.team r.ea))
/-- The instruction of a group that waits on a tile of a list. -/
def Group.tileWait (g : Group) (ts : List Nat) : Option (Nat × Slot) := g.waits.findSome? fun w => match w.kind with
  | .tile k _ => if ts.contains k then some (k, w.slot) else none
  | .barrier _ _ | .queuePop _ | .queuePush _ | .stores | .remoteCheck _ | .claim _ _ _ | .launchStore _ _ | .token _ | .batch _ | .sealLimit | .fence _ _ | .cbuf _ _ | .phase _
  | .grant _ | .sweep _ | .table | .exit | .staging => none
/-- The held accesses and waits of a group on failed tiles end (R224). (DEDUCED: log entry 68.) -/
def State.failGroup (s : State) (ts : List Nat) (cause : Cause) (gid : Nat) (g : Group) : State :=
  let bad := g.sb.filter (s.entryFails g ts)
  let traps := bad.flatMap fun e => deferredOf e.id (if e.kind == .stat then (s.fetchFor g e.pc).instr else e.kind.word) e.regs ((e.rows.filter (·.onTile ts)).map fun r => (r.lane, cause, causeEa cause r.ea))
  let s := (s.setGroup gid { g with sb := g.sb.map fun e => if s.entryFails g ts e then e.failRows ts else e }).deferAll gid traps
  match g.tileWait ts with
  | none => s
  | some (k, sl) =>
      (s.modGroup gid fun h => h.leaveWait sl).settleTrap gid
        { place := sl.place, cause := cause, lanes := sl.lanes, addr := localEa (keyLa k), word := sl.word, defer := true, active := sl.lanes, restart := sl.pc }
/-- Is a waiting store one that met a tile of a list? -/
def PendingStore.onTile (st : PendingStore) (ts : List Nat) : Bool := (st.tile.map ts.contains).getD false
/-- The lowest lane of each store instruction among its lanes' stores. -/
def firstLanes : List PendingStore → List PendingStore
  | [] => []
  | st :: r => st :: (firstLanes r).filter fun x => !(x.gid == st.gid && x.inst == st.inst)
/-- A staged store whose turn has come, if the access is one. -/
def State.storeInTurn (s : State) (x : Staged) : Option PendingStore :=
  match x.op with
  | .write st => if s.inTurn x then some st else none
  | .remote _ _ => none
  | .atom _ => none
  | .send _ _ _ => none
/-- The stores that wait on failed tiles, in a core's queue or in their turn in the staging region, are discarded, and their groups take the cause, once for each store instruction (R225, R344). (DEDUCED: log entry 68.) -/
def State.failStores (s : State) (ts : List Nat) (cause : Cause) : State :=
  let fails (st : PendingStore) : Bool := st.onTile ts && s.mustWait (s.issuerCtx st) st.tile
  let bad := s.mem.storeQ.filter fails ++ (s.eng.staged.filterMap s.storeInTurn).filter fails
  let s := { s with mem := { s.mem with storeQ := s.mem.storeQ.filter fun st => !fails st },
                    eng := { s.eng with staged := s.eng.staged.filter fun x => !((s.storeInTurn x).map fails).getD false } }
  (firstLanes bad).foldl (fun s st => s.defer st.gid { kind := .store, cause := cause, addr := st.ea, word := st.word, lanes := ((s.group? st.gid).map (·.liveMask)).getD 0, regs := [] }) s
/-- Remote requests held for failed tiles are answered (R401, R454). (DEDUCED: log entry 77.) -/
def State.failHeld (s : State) (ts : List Nat) (cause : Cause) (tilesOf : FlitMsg → List Nat) : State :=
  let bad := s.fab.held.filter fun h => (tilesOf h.2).any ts.contains
  let s := { s with fab := { s.fab with held := s.fab.held.filter fun h => !(tilesOf h.2).any ts.contains } }
  bad.foldl (fun s h => if h.1.port = 18 then s.roce [.roceAccessError] else s.sendMsg h.1.src h.1.tag (.failrsp { code := cause.code, lanes := fullMask 64, addr := (((tilesOf h.2).find? ts.contains).map fun k => fabricEa s.fab.devNum (keyLa k)).getD 0 })) s
/-- The tiles whose data a remote request uses, as they lie here. -/
def State.requestTiles (s : State) (m : FlitMsg) : List Nat :=
  let tile (asid la : Nat) : Option Nat := (s.pageAt asid la).bind fun p => if attrRcp p.attr then some (tileKey asid la) else none
  match m with
  | .rdreq r => r.parts.filterMap fun x => tile r.asid x.la
  | .wr r => r.parts.filterMap fun x => tile r.asid x.la
  | .atomreq r => r.parts.filterMap fun x => tile r.asid x.la
  | .rdrsp _ _ | .wrack | .atomrsp _ | .failrsp _ | .invoke _ | .claimmsg _ | .claimres _ | .signal _ | .coll _ | .mgmt _ => []
/-- The invocation at the head of the queue whose template lies in a failed tile is refused (R155). -/
def State.failInvoke (s : State) (ts : List Nat) : State :=
  match s.sched.invq with
  | [] => s
  | m :: r => if ts.contains (tileKey m.asid (m.launch % 2 ^ 46)) then ({ s with sched := { s.sched with invq := r } }).refuseInvoke m Cause.badInvoke.code 0 else s

/-- The words that a patch writes, in ascending entry order: those of a node whose record cannot be read are left out (R423). (DEDUCED: log entry 44.) -/
def State.patchWords (s : State) (r : Replay) (patch : List Byte) : Nat → Nat → Except Stop (List (Nat × Nat))
  | _, 0 => .ok []
  | i, n + 1 => do
      let (node, off, value) := (fieldAt patch (8 + 8 * i) 2, fieldAt patch (0xA + 8 * i) 2, fieldAt patch (0xC + 8 * i) 4)
      let rest ← s.patchWords r patch (i + 1) n
      match nodeOf node (r.entry node) with
      | none => .ok rest
      | some x => match s.recordBytes (s.deviceCtx r.asid) false (localEa x.lrec) 64 64 with
        | .error (.bad _ _) => .ok rest
        | .error stop => .error stop
        | .ok bs => if (recordOf bs).params = 0 then .ok rest else .ok (((recordOf bs).params + off, value) :: rest)
/-- The graph object of a replay read at its start: its header with the node entries. -/
def State.readGraph (s : State) (r : Replay) : Except Stop (List Byte) := do
  let c := s.deviceCtx r.asid
  let h ← s.recordBytes c false (localEa r.graph) 64 64
  if !headerOk h then .error (.bad .badDescriptor (localEa r.graph))
  s.recordBytes c false (localEa r.graph) 64 (64 + 32 * fieldAt h 0 2)
/-- The patch of a replay read at its start: the words it writes. -/
def State.readPatch (s : State) (r : Replay) : Except Stop (List (Nat × Nat)) := do
  let patch ← s.recordBytes (s.deviceCtx r.asid) false (localEa (fieldAt r.table (0x18 + 8 * r.buffer.getD 0) 8)) 8 2048
  s.patchWords r patch 0 (fieldAt patch 0 4)
/-- The start of a replay as it is found: its object and its patch, read (R423). -/
def State.replayStart (s : State) (r : Replay) : Except Stop (Replay × List (Nat × Nat)) := do
  let bs ← s.readGraph r
  let r := { r with started := true, table := bs, nnode := fieldAt bs 0 2 }
  let ws ← s.readPatch r
  pure (r, ws)
/-- Is it a replay's turn: has every earlier one of its object completed, and is what its release covers applied (R327, R423)? -/
def State.replayDue (s : State) (r : Replay) : Bool :=
  !r.started && s.notBehind r.after && (s.replaysOf r.asid r.graph).all fun x => decide (r.order ≤ x.2.order)
/-- A graph that cannot be started: none of its nodes ever starts. -/
def State.neverStarts (s : State) (id : Nat) (r : Replay) : State := s.setReplay id { r with started := true, never := List.range r.nnode }
/-- The tile that a read of the device waits on. -/
def stopTile {α : Type} (x : Except Stop α) : Option Nat := match x with
  | .error (.wait k) => some k
  | .error (.rebuild k) => some k
  | .error (.bad _ _) => none
  | .ok _ => none
/-- The record of a ready node read for its start. -/
def State.readNode (s : State) (r : Replay) (i : Nat) : Except Stop (List Byte) := match nodeOf i (r.entry i) with
  | none => .error (.bad .badDescriptor 0)
  | some n => s.recordBytes (s.deviceCtx r.asid) false (localEa n.lrec) 64 64
/-- The waits of replays on tiles of a chain end (R392): a start that waits starts nothing, and a node whose record waits never starts. The state before the chain's end tells what waits. -/
def State.failReplays (s before : State) (ts : List Nat) : State :=
  before.sched.replays.foldl (fun s x =>
    let on (k : Option Nat) : Bool := (k.map ts.contains).getD false
    if before.replayDue x.2 && on (stopTile (before.replayStart x.2)) then s.neverStarts x.1 x.2
    else if !x.2.started then s
    else (x.2.readyNodes.filter fun i => on (stopTile (before.readNode x.2 i))).foldl (fun s i => match s.replay? x.1 with
      | none => s
      | some r => s.nodeNever x.1 i r) s) s

/-- One build of a chain ended: its team is killed, its entry is free, and its tile is DROPPED. (DEDUCED: log entry 60.) -/
def State.endBuild (s : State) (cause : Cause) (k : Nat) : State :=
  let s := match (s.tile k).build with
    | none => s
    | some l => if ((s.launch? l).map fun (x : Launch) => x.st == LaunchState.killed || x.st == LaunchState.complete).getD true then s else (s.requestKill l cause).stopLaunch l
  let t : Tile := s.tile k
  let s := if t.st == TileState.building then s.discardTile k else s
  s.setTile k { t with st := if t.st == TileState.valid then TileState.valid else TileState.dropped, build := none, wants := [], ending := none, bdepth := 0 }

/-- A copy whose tile's build has failed: a gather leaves its row out and a multicast its destination (R235, R237), and any other fails. -/
def Copy.loseTile (x : Copy) (cause : Cause) (k : Nat) : Copy :=
  match x.kind with
  | .rows _ | .mcast _ _ => { x with lost := x.lost ++ [k], tile := none }
  | .batch _ | .porter _ _ => { x with failed := some (cause, localEa (keyLa k)) }
/-- RECIPE_CHAIN_END (R392): every build of the chain ends, and so does every wait on one of its tiles. -/
def execRecipeChainEnd (k : Nat) (s : State) : Host.Outcome State Fault Refusal :=
  match s.packet, (s.tile k).ending with
  | none, some cause =>
      let ts := s.chainOf k
      let t := ts.foldl (fun t k => t.endBuild cause k) s
      let t := { t with eng := { t.eng with
        copies := t.eng.copies.map fun (c : Nat × Copy) => (c.1, match c.2.tile with
          | some x => if ts.contains x then c.2.loseTile cause x else c.2
          | none => c.2)
        cmds := t.eng.cmds.map fun (c : Nat × Cmd) => (c.1, match c.2.tile with
          | some x => if ts.contains x then { c.2 with tileFail := some (x, chainStatus cause) } else c.2
          | none => c.2) } }
      let t := t.failStores ts cause
      let t := t.failHeld ts cause t.requestTiles
      let t := t.groups.foldl (fun t x => if x.2.ended then t else t.failGroup ts cause x.1 x.2) t
      .next ((t.failReplays s ts).failInvoke ts).entriesFreed
  | none, none => .refused .notEnabled
  | some _, _ => .refused .notEnabled

/-- TILE_EVICT_DROP (R389): a dirty line of a VALID tile with a record is evicted from an L2. -/
def execTileEvictDrop (k : Nat) (s : State) : Host.Outcome State Fault Refusal :=
  if (s.tile k).st == .valid && (s.tile k).record.isSome && (s.tilePa k).isSome then .next (s.dropTile k) else .refused .notEnabled

/-- The mapped tile with a record that holds a line, if one does. -/
def State.tileOfLine (s : State) (line : Nat) : Option Nat :=
  s.mem.pages.findSome? fun p => if attrRcp p.attr && decide (p.pa ≤ 64 * line) && decide (64 * line < p.pa + p.size) then
    (let k := tileKey p.asid (p.la + (64 * line - p.pa)); if (s.tile k).record.isSome then some k else none) else none
/-- PATROL_SCRUB (R402): a failing line drops its tile when that has a record, and is reported anywhere else. -/
def execPatrolScrub (line : Nat) (s : State) : Host.Outcome State Fault Refusal :=
  if Config.hbmBytes ≤ 64 * line then .refused .notEnabled
  else if !s.lineBad none line then .next s
  else match s.tileOfLine line with
    | some k => .next (s.dropTile k)
    | none => .next (s.hostEvent 0x43 (bytesOfNat 8 (64 * line)))

/-! ## The Ticket Unit (R344) -/

/-- Has a group an access of its segment that it makes directly, its region being full, and that is still to be performed: a store in its core's queue, or an atomic held for a tile (R344, R347)? -/
def State.directLeft (s : State) (gid : Nat) (g : Group) : Bool :=
  s.mem.storeQ.any (·.gid == gid) || g.sb.any fun e => e.open && (match e.op with
    | .atom _ => s.eng.staged.all fun x => x.op != .atom e.id
    | .load _ | .raw _ | .amax | .stat | .nothing => false)
/-- TICKET_SEGMENT_APPLY (R344): the next segment in round order is applied, as a release at DEVICE scope of its stores, once no tile keeps an access of it waiting and no copy of a group that has ended is still to write into it (R342); then the releases that waited for it have their effect (R327). -/
def execTicketSegmentApply (l : Nat) (s : State) : Host.Outcome State Fault Refusal :=
  match s.launch? l with
  | none => .refused .notEnabled
  | some x =>
      let r := s.roundsOf l
      if !x.kern.ordered || x.st != .admitted || x.cause.isSome then .refused .notEnabled
      else match s.groups.find? fun g => s.launchIdOf g.2 == l && s.participantOf g.2 == r.next with
        | none => .refused .notEnabled
        | some (gid, g) =>
            let mine (y : Staged) : Bool := y.launch == l && y.participant == r.next && decide (y.segment ≤ r.round) && y.awaits.isNone
            let done := x.teamsEnded == x.record.teams && s.eng.staged.all fun y => y.launch != l
            let copying := g.ended && s.eng.copies.any fun c => c.2.gid == gid && s.stages c.2
            if s.eng.lates.any fun y => s.lateLaunch y == l && s.lateDue y then .next (s.settleLates l)
            else if done || copying || s.directLeft gid g || !(g.ended || decide (r.round < g.segment)) then .refused .notEnabled
            else match (s.eng.staged.filter mine).findSome? s.stagedTile with
              | some (k, rebuild) =>
                  if rebuild || (s.tile k).idle then .next ((if rebuild then s.dropTile k else s).meetTile (s.ctxOf gid g) k) else .refused .notEnabled
              | none =>
                  let t := (s.applyWhere mine).writeBack g.core
                  let r' : Rounds := if r.offset + 1 = r.participants then { r with round := r.round + 1, offset := 0 } else { r with offset := r.offset + 1 }
                  .next (({ t with eng := { t.eng with rounds := put t.eng.rounds l r' } }).settleLates l)

/-! ## Graph replays (R423) -/

/-- REPLAY_START (R423): every earlier replay of the object has completed, and the accesses that its release covers are applied (R327). Nothing of a graph that fails its checks is used (R401). -/
def execReplayStart (id : Nat) (s : State) : Host.Outcome State Fault Refusal :=
  match s.replay? id with
  | none => .refused .notEnabled
  | some r =>
      if !s.replayDue r then .refused .notEnabled
      else
        match s.replayStart r with
        | .error (.wait k) => if (s.tile k).idle then .next (s.deviceMeets r.asid k false) else .refused .notEnabled
        | .error (.rebuild k) => .next (s.deviceMeets r.asid k true)
        | .error (.bad _ _) => .next (s.neverStarts id r)
        | .ok (r, ws) => .next (((ws.foldl (fun s w => s.writeLocal r.asid w.1 (bytesOfNat 4 w.2)) s).setReplay id r).feedReplays)

/-- The outcome of a replay: OK, or that of the lowest node that did not complete OK. -/
def Replay.outcome (r : Replay) : Nat × Nat :=
  match (List.range r.nnode).find? fun i => !r.doneOk.contains i with
  | none => (1, 0)
  | some i => match r.failed.find? fun f => f.1 == i with
    | some f => f.2
    | none => (4, 0)
/-- The core-cycles charged to the nodes of a replay (R49). -/
def State.replayCharge (s : State) (id : Nat) : Nat := (s.launches.map fun x => match x.2.origin with
  | .node r _ => if r = id then x.2.charge else 0
  | .host | .device _ | .invoked _ _ _ _ _ | .recompute _ _ => 0).sum
/-- The record of a replay posted (R423, R425): no weight returns to it or is lent by it, no graph is rooted there, so GDONE is 0, its charge is that of its nodes, and TAG and TADMIT, which are of a launch alone, are free values. (DESIGN CHOICE: log entry 59.) -/
def State.postReplay (s : State) (id : Nat) (r : Replay) (sequence : Nat) : State :=
  let la := fieldAt r.table 0x10 8
  if la = 0 then s
  else
    let free (i : Nat) : List Byte := bytesOfNat 4 (Config.freeWord s.tick i).toNat
    let s := s.writeLocal r.asid (la + 4) (bytesOfNat 4 sequence ++ free 0 ++ free 1 ++ bytesOfNat 16 0 ++ free 2 ++ free 3 ++ bytesOfNat 8 s.timebase ++ bytesOfNat 8 (s.replayCharge id) ++ bytesOfNat 8 0)
    s.writeLocal r.asid la (bytesOfNat 4 (2 ^ 31 + r.outcome.1 * 2 ^ 16 + r.outcome.2))
/-- REPLAY_COMPLETE (R423): no node runs or can start; the weight of the nodes that never started returns. A SEQ on a failing line is not used (R401): the count goes on from a free value. (DESIGN CHOICE: log entry 59.) -/
def execReplayComplete (id : Nat) (s : State) : Host.Outcome State Fault Refusal :=
  match s.replay? id with
  | none => .refused .notEnabled
  | some r =>
      if !r.started || !r.nodes.isEmpty || !r.readyNodes.isEmpty then .refused .notEnabled
      else
        let s := s.giveBack 0 r.root ((r.unstarted.map (weightShare r.weight r.nnode)).sum)
        let old := if s.localFails r.asid (r.graph + 8) 4 then (Config.freeWord s.tick 5).toNat else natOfBytes (s.readLocal r.asid (r.graph + 8) 4)
        let n := (old + 1) % 2 ^ 32
        let s := { s with sched := { s.sched with replays := del s.sched.replays id } }
        let s := (s.writeLocal r.asid (r.graph + 4) (bytesOfNat 4 (s.replaysOf r.asid r.graph).length)).writeLocal r.asid (r.graph + 8) (bytesOfNat 4 n)
        .next (s.postReplay id r n)

end Sys2Proof.Machine
end

