-- ==== Sys2Proof/Machine/Waits.lean ====
section
/-! DEFINITION. When the wait of an instruction is over (R42, R165 to R168, R224, R225, R240 to R245), and when a swapped gang wakes (R43). -/
namespace Sys2Proof.Machine

/-- May a held access go on: it may resume, or its tile must be met again (R224)? -/
def State.heldMoves (s : State) (gid : Nat) (g : Group) (e : SbEntry) : Bool := s.mayResume gid g e || (s.idleTile gid g e).isSome

/-- The number of reservation-table entries that a posting instruction asks for (R261): one for a phase command, else one for each active lane. -/
def Slot.entries (sl : Slot) (width : Nat) : Nat := if lmOp sl.word = 0x1B then 1 else (lanesOf sl.lanes width).length

/-- Has a group a deferred trap that its fence takes (R352)? -/
def Group.fenceTrap (g : Group) (release : Bool) : Bool := (g.deferredFor (if release then Deferred.atRelease else Deferred.atAcquire)).isSome

/-- Is a wait over: what its instruction waits for has come, so that the instruction goes on when it is taken up again? Waits that end by an event of their own are judged here for R43 only. -/
def State.waitOver (s : State) (gid : Nat) (g : Group) (w : Wait) : Bool :=
  match w.kind with
  | .barrier a n => (match s.barrierAt g a with
      | .error _ => !phaseOver n || g.loadsReturned
      | .ok (t, o) => (phaseOver n || barPhase (s.winWord t o) != n) && g.loadsReturned)
  | .queuePop tag =>
      let c := { s.ctxOf gid g with tag := tag }
      let t := s.popClaims gid c (s.lanesHeld c g w.slot.lanes (lmA w.slot.word))
      !s.storesMeet gid (s.lanesHeld c g w.slot.lanes (lmA w.slot.word)) && (t.popsOf g).all (t.popReady c)
  | .queuePush tag =>
      let c := { s.ctxOf gid g with tag := tag }
      let ls := s.lanesHeld c g w.slot.lanes (lmA w.slot.word)
      !s.storesMeet gid ls && (s.queueTile c ls).isNone && s.pushRoom c ls
  | .tile k _ => !s.stillWaits (s.ctxOf gid g) (some k)
  | .stores => s.mem.storeQ.all fun st => st.gid != gid
  | .remoteCheck tags => tags.all fun t => g.answers.any fun a => a.1 == t
  | .claim c _ tag => (s.settled g c tag).isSome
  | .launchStore die _ => (s.ordinaryEntry die).isSome
  | .token t => (g.token t).st != .busy
  | .batch n => covers g.bdone n || (g.deferredFor fun x => x.kind.coveredBy n).isSome
  | .sealLimit => decide ((s.openBatches gid).length < 16)
  | .fence c release => (if release then s.performed gid g c else g.loadsReturned) || g.fenceTrap release
  | .cbuf _ lanes => (match s.waitingGets gid g w lanes with
      | [] => false
      | (_, e) :: _ => s.cbFails e || s.cbReady e (gid, 0) (lmF w.slot.word))
  | .phase _ => ((s.teamOf g).map fun t => (s.groupsOf t).all fun x => x.2.ended || x.2.emptyWait || t.arrived.any fun a => a.1 == x.1).getD false
  | .grant tag => (g.wordFor tag).isSome
  | .sweep n => !s.sweeping n
  | .table => decide (s.tableUse g.core + w.slot.entries g.width ≤ Config.tableEntries)
  | .exit => s.exitOver gid g
  | .staging => !s.stagingFull (dieOf g.core) || s.isNext g

/-- Does the instruction go on by being taken up again when its wait is over? The others end by an event of their own. -/
def WaitKind.resumes (k : WaitKind) : Bool :=
  match k with
  | .barrier _ _ | .tile _ _ | .stores | .remoteCheck _ | .claim _ _ _ | .launchStore _ _ | .token _ | .batch _ | .sealLimit | .fence _ _ | .grant _ | .sweep _ | .table
  | .staging => true
  | .queuePop _ | .queuePush _ | .cbuf _ _ | .phase _ | .exit => false

/-! ## Wake conditions (R42, R43) -/

/-- Has every result come that a group waits for, or can a held access of it go on (R219)? -/
def State.resultMoves (s : State) (gid : Nat) (g : Group) : Bool :=
  g.sb.any (fun e => s.heldMoves gid g e) || !g.waitsOnResult
/-- Is the wake condition of a group of a swapped gang met (R43)? A group that does not wait has none to meet. -/
def State.groupWakes (s : State) (gid : Nat) (g : Group) : Bool :=
  if g.ended || g.emptyWait then false
  else if !s.ticketDone g then false
  else if !g.waits.isEmpty then g.waits.any fun w => w.kind.blocking && s.waitOver gid g w || (w.kind == .exit && (s.waitOver gid g w || g.sb.any (s.heldMoves gid g)))
  else s.resultMoves gid g
/-- The groups of a gang that have not ended. -/
def State.liveGroups (s : State) (k : Gang) : List (Nat × Group) := (k.teams.filterMap s.team?).flatMap fun t => (s.groupsOf t).filter fun x => !x.2.ended
/-- Is a swapped gang eligible for placement (R43)? -/
def State.gangWakes (s : State) (k : Gang) : Bool := (s.liveGroups k).any fun x => s.groupWakes x.1 x.2
/-- Is a gang at a blocking point: every live group of it is, and still waits there (R42, R43)? A group that has parked never lets its gang go (R362). -/
def State.gangBlocked (s : State) (k : Gang) : Bool := (s.liveGroups k).all fun x => s.blocked x.1 x.2 && !s.groupWakes x.1 x.2 && x.2.parked.isNone
/-- The cycle since which a group has waited. -/
def Group.blockedSince (g : Group) : Nat := (g.waits.map (·.since)).foldl min g.readySince
/-- The cycle since which a gang has been at a blocking point. (DEDUCED: log entry 81.) -/
def State.waitingSince (s : State) (k : Gang) : Nat := ((s.liveGroups k).map fun x => x.2.blockedSince).foldl max 0

end Sys2Proof.Machine
end

