-- ==== Sys2Proof/Machine/Placement.lean ====
section
/-! DEFINITION. Admission, the reservation calendar, placement and swapping of gangs (R13 to R17, R368 to R376, R380, R410 to R420, R442, R444). -/
namespace Sys2Proof.Machine

/-! ## Shapes (R13, R15) -/

/-- Cores that a gang of a kernel uses (R15). -/
def Kernel.cores (k : Kernel) : Nat := k.gang * if k.pair then 2 else 1
/-- The core of group i of the team of rank j, in a unit of cores that begins at a core (R13). -/
def Kernel.groupCore (k : Kernel) (start j i : Nat) : Nat := if k.pair then start + 2 * j + i % 2 else start + j
/-- The cores of the team of rank j. -/
def Kernel.teamCores (k : Kernel) (start j : Nat) : List Nat := if k.pair then [start + 2 * j, start + 2 * j + 1] else [start + j]
/-- Groups that a gang brings to the core some places from the start of its unit. -/
def Kernel.groupsOn (k : Kernel) (off : Nat) : Nat := if k.pair then (k.groups + 1 - off % 2) / 2 else k.groups
/-- Bytes of register file of a group (R17). -/
def Kernel.regBytes (k : Kernel) : Nat := k.alloc * k.width * 4
/-- Has the kernel a porter program (R442)? -/
def Kernel.porters (k : Kernel) : Bool := k.pload.isSome || k.pstore.isSome

/-- The kernel of a gang. -/
def State.kernelFor (s : State) (k : Gang) : Option Kernel := (s.launch? k.launch).map (·.kern)
/-- The resident gangs with a team on a core. -/
def State.gangsOn (s : State) (core : Nat) : List (Nat × Gang) := s.gangs.filter fun k => k.2.st == .resident && k.2.cores.contains core
/-! ## Reservations (R411, R414, R415, R420) -/

/-- The launch that pays for a gang, when one does (R394). -/
def State.gangPayer (s : State) (k : Gang) : Option Nat := s.payer k.launch
/-- Is a gang's class OPEN? -/
def State.gangOpen (s : State) (k : Gang) : Bool := ((s.launch? k.launch).map fun l => !l.record.bounded).getD true
/-- The reservation of a launch. -/
def State.resvOf (s : State) (l : Nat) : Option Reservation := s.sched.resv.find? fun r => r.launch == l
/-- The reservation that holds a pair now (R415). -/
def State.resvNow (s : State) (pair : Nat) : Option Reservation := s.sched.resv.find? fun r => r.pairs.contains pair && decide (r.start ≤ s.timebase) && decide (s.timebase < r.stop)
/-- The start of the next reservation of a pair (R414). -/
def State.nextStart (s : State) (pair : Nat) : Option Nat :=
  (s.sched.resv.filter fun r => r.pairs.contains pair && decide (s.timebase < r.start)).foldl (fun m r => some (match m with
    | none => r.start
    | some x => min x r.start)) none
/-- What is left of a launch's bound (R414). -/
def Launch.remaining (l : Launch) : Nat := l.record.workbound - l.charge
/-- The sum of R414 on a core once a gang is placed there: over the distinct OPEN launches that pay. -/
def State.openBound (s : State) (core : Nat) (k : Gang) : Nat :=
  let pays (x : Gang) : Nat := (s.gangPayer x).getD x.launch
  let ls := (pays k :: ((s.gangsOn core).filter fun x => s.gangOpen x.2).map fun x => pays x.2).eraseDups
  (ls.map fun l => ((s.launch? l).map Launch.remaining).getD 0).sum
/-- The pairs to which a gang is bound: those of the reservation of the launch that pays for it (R415, R420). -/
def State.ownPairs (s : State) (k : Gang) : Option Reservation := (s.gangPayer k).bind s.resvOf
/-- May a gang stand on a core at this time, as the calendar goes (R414, R415)? (DEDUCED: log entry 62.) -/
def State.coreAllowed (s : State) (k : Gang) (core : Nat) : Bool :=
  let pair := core / 2
  match s.ownPairs k with
  | some r => decide (r.start ≤ s.timebase) && (r.pairs.contains pair || decide (r.stop ≤ s.timebase)) && ((s.resvNow pair).map (·.launch == r.launch)).getD true
  | none =>
      (s.resvNow pair).isNone && (match s.nextStart pair with
        | none => true
        | some t => !s.gangOpen k || decide (s.openBound core k + 4 * s.timebase + 400000 ≤ 4 * t))

/-! ## Room (R17, R370, R371, R375, R442) -/

/-- The benches of a cluster that handles bind (R270), those among them that an ended team's commands still name (R265). -/
def State.boundIn (s : State) (cluster : Nat) : List Nat := (s.boundBenches cluster).map (·.1)
/-- The lowest place for a window in a core's array: a multiple of 1 KiB where it meets no other (R376). (DESIGN CHOICE: log entry 62.) -/
def State.windowPlace (s : State) (core bytes : Nat) : Option Nat :=
  let ws := s.windowsIn core
  (sortBy id (0 :: ws.map fun w => (w.1 + w.2 + 1023) / 1024 * 1024)).find? fun a => decide (a + bytes ≤ Config.arrayBytes) && ws.all fun w => decide (w.1 + w.2 ≤ a) || decide (a + bytes ≤ w.1)
/-- Has a core room for the part of a gang that comes to it, off places from the start of its unit? (DEDUCED: log entry 62.) -/
def State.coreRoom (s : State) (k : Gang) (x : Kernel) (core off : Nat) : Bool :=
  let rs := s.residents core
  let others := s.gangsOn core
  let n := x.groupsOn off
  let windows := if x.pair && off % 2 == 1 then 0 else x.scratch
  decide (rs.length + n ≤ Config.slotsPerCore)
    && decide ((rs.map fun g => g.2.alloc * g.2.width * 4).sum + n * x.regBytes ≤ Config.regFileBytes)
    && (s.windowPlace core windows).isSome
    && !(x.porters && others.any fun y => ((s.kernelFor y.2).map Kernel.porters).getD false)
    && !(x.accumulator && others.any fun y => ((s.kernelFor y.2).map (·.accumulator)).getD false)
    && s.coreAllowed k core
/-- Does a gang fit the unit that begins at a core? -/
def State.fits (s : State) (k : Gang) (x : Kernel) (start : Nat) : Bool :=
  (List.range x.cores).all (fun i => s.coreRoom k x (start + i) i)
    && (k.st != .swapped || decide (s.heldHandles k = 0) || decide ((s.boundIn (start / 4)).length + s.heldHandles k ≤ 8))
/-- The lowest unit that a gang fits (R416). -/
def State.unitFor (s : State) (k : Gang) : Option Nat :=
  match s.kernelFor k with
  | none => none
  | some x => if x.cores = 0 then none else ((List.range (Config.cores / x.cores)).map (· * x.cores)).find? (s.fits k x)

/-! ## Eligibility and order (R416, R420) -/

/-- Is a gang eligible: unplaced, of an admitted launch, from the start of its reservation on; or swapped, with a wake condition met (R43, R415, R416)? -/
def State.eligible (s : State) (k : Gang) : Bool :=
  match s.launch? k.launch with
  | none => false
  | some l =>
      l.st == .admitted && l.cause.isNone && s.notBehind l.after && ((s.resvOf k.launch).map fun r => decide (r.start ≤ s.timebase)).getD true
        && (match k.st with
          | .unplaced => true
          | .swapped => s.gangWakes k
          | .resident => false
          | .ended => false)
/-- What places a gang among the eligible ones, greatest first: key, recompute, swapped before unplaced within a launch, order of the launch, number. -/
def State.goesBefore (s : State) (a b : Gang) : Bool :=
  match s.launch? a.launch, s.launch? b.launch with
  | some la, some lb =>
      if la.key ≠ lb.key then decide (lb.key < la.key)
      else if la.origin.tile?.isSome ≠ lb.origin.tile?.isSome then la.origin.tile?.isSome
      else if a.launch ≠ b.launch then decide (la.order < lb.order)
      else if a.st ≠ b.st then a.st == .swapped
      else decide (a.k < b.k)
  | _, _ => false

/-! ## Placing (R416, R417, R419, R371, R376, R380, R442) -/

/-- The lowest free slot of a core (R419). -/
def State.freeSlot (s : State) (core : Nat) : Nat :=
  ((List.range Config.slotsPerCore).find? fun n => (s.residents core).all fun x => x.2.slot != n).getD 0
/-- The smallest tag that no team of the device bears (R245). -/
def State.freeTag (s : State) : Nat := ((List.range (s.teams.length + 1)).find? fun n => s.teams.all fun t => t.2.ended || t.2.btag != n).getD 0

/-- A lane bound for the first time (R419). -/
def newLane (entry params : DWord) : Lane :=
  { Lane.blank with regs := ((Vector.replicate 64 0).set 0 (loWord params)).set 1 (hiWord params), pc := entry, st := .live }
/-- The pair v0:v1 at the start (R419). (DEDUCED: log entries 76, 84.) -/
def startParams (params : Nat) : DWord := if params = 0 then 0 else localEa params
/-- A group bound for the first time (R419). (DESIGN CHOICE: log entry 4.) -/
def newGroup (k : Kernel) (params team index core slot now : Nat) : Group :=
  { team := team, index := index, core := core, slot := slot, width := k.width, alloc := k.alloc, lanes := List.replicate k.width (newLane k.entry (startParams params)),
    enmask := fullMask k.width, saveden := 0, routes := List.replicate 3 { kind := .ident, param := 0 }, tokens := Vector.replicate 8 { st := .idle, left := 0, bad := false },
    bdone := 0, bsealed := 0, fprm := .nearestEven, fpftz := false, schk := k.ordered, retired := 0, hnd := false, defer := false, code := 0, trapmask := 0, trapaddr := 0, trapinst := 0,
    snap := none, pending := none, arrival := none, idle := 0, readyAt := now, readySince := now, stalls := [], hist := [], sb := [], waits := [], deferred := [], answers := [],
    parked := none, emptyWait := false, qcounts := [], segment := 0, ticket := none, ended := false }

/-- The groups of a team bound in ascending index: i the next, n left. -/
def State.bindGroups (s : State) (k : Kernel) (params start rank team : Nat) : Nat → Nat → State
  | _, 0 => s
  | i, n + 1 =>
      let core := k.groupCore start rank i
      let slot := s.freeSlot core
      let (gid, s) := s.fresh
      let s := (s.setGroup gid (newGroup k params team i core slot s.cycle)).modTeam team fun t => { t with groups := t.groups ++ [gid] }
      s.bindGroups k params start rank team (i + 1) n
/-- The teams of an unplaced gang bound: rank j the next, n left (R417, R419, R376). -/
def State.bindTeams (s : State) (gk : Nat) (g : Gang) (l : Launch) (start : Nat) : Nat → Nat → State
  | _, 0 => s
  | j, n + 1 =>
      let teamId := g.k * l.kern.gang + j
      let (tid, s) := s.fresh
      let cores := l.kern.teamCores start j
      let t : Team :=
        { gang := gk, teamId := teamId, rank := j, weight := weightShare l.weight l.record.teams teamId + (if teamId = 0 then l.extra else 0), btag := s.freeTag, queues := [], pops := [],
          pushed := [], window := [], tags := [], handles := List.replicate 4 { bound := false, bench := 0, active := none, standby := none }, map := none, arrived := [], groups := [],
          cores := cores, ended := false, base := ((s.windowPlace (cores.headD 0) l.kern.scratch)).getD 0 }
      let s := (s.setTeam tid t).modGang gk fun x => { x with teams := x.teams ++ [tid] }
      let s := s.bindGroups l.kern l.record.params start j tid 0 l.kern.groups
      s.bindTeams gk g l start (j + 1) n

/-- The rows of a core's array that its windows have taken since its split was old: the dirty PRIVATE bytes held in them are written back; which lines those rows hold is left to the run (R375). (DESIGN CHOICE: log entry 105.) -/
def State.handRows (s : State) (old : Nat × Nat) : State :=
  let new := s.split old.1
  if new ≤ old.2 then s
  else
    let lines := ((s.dirty old.1).map fun c => c.1 / 64).eraseDups
    (lines.zipIdx.filter fun x => decide (old.2 + Config.pick s.tick x.2 % (8 - old.2) < new)).foldl (fun s x => s.evictLine old.1 x.1) s

/-- The accumulator store of a core cleared (R380). -/
def State.clearAcc (s : State) (core : Nat) : State :=
  { s with eng := { s.eng with acc := s.eng.acc.filter (fun b => b.1 / 512 != core), badAcc := s.eng.badAcc.filter (fun b => b.1 / 512 != core), accUsers := del s.eng.accUsers core } }
/-- The accumulator store of the cores of a gang that is not resuming: cleared where an accumulator gang was last, but not beside one that is still resident there; then it is this gang's, when it is one (R380, R370). (DEDUCED: log entry 69.) -/
def State.takeAcc (s : State) (gk : Nat) (x : Kernel) (cores : List Nat) : State :=
  cores.foldl (fun s c =>
    let s := match lookup s.eng.accUsers c with
      | none => s
      | some u => if ((s.gang? u).map fun y => y.st == .resident && y.cores.contains c).getD false then s else s.clearAcc c
    if x.accumulator then { s with eng := { s.eng with accUsers := put s.eng.accUsers c gk } } else s) s

/-- The key of a porter: its gang, the rank of its core, its role. -/
def porterKey (gang rank : Nat) (r : Role) : Nat := gang * 8 + rank * 2 + (match r with
  | .loader => 0
  | .storer => 1)
/-- PORTERID (R436). -/
def porterId (gang rank : Nat) (r : Role) : Word := BitVec.ofNat 32 (gangCode gang * 1024 + rank * 256 + (match r with
  | .loader => 0
  | .storer => 1))
/-- The count of porter cycles, at 1.5 GHz (R7). -/
def State.porterCycle (s : State) : Nat := s.cycle * 3 / 8
/-- A porter that starts at an offset of its section (R442). (DESIGN CHOICE: log entry 7.) -/
def newPorter (now gk gang rank core off : Nat) (r : Role) (imem : List Byte) : Porter :=
  { gang := gk, rank := rank, role := r, core := core, mode := .running, x := (Vector.replicate 32 0).set 10 (porterId gang rank r), pc := BitVec.ofNat 32 off, mstatus := 0, mtvec := 0, mepc := 0,
    mcause := 0, mtval := 0, mscratch := 0, mcycle := 2 ^ 64 - now % 2 ^ 64, minstret := 0, inHandler := false, imem := imem, dmem := [], win := [], posted := 0, done := 0, flt := false, fcode := 0, faddr := 0,
    queue := [], resv := none, cbWait := false, readyAt := 0 }
/-- The porters of a gang's cores started (R442). -/
def State.startPorters (s : State) (gk : Nat) (x : Kernel) (cores : List Nat) : State :=
  let image := lookup s.sched.images x.image
  let add (s : State) (core rank : Nat) (r : Role) (off : Option Nat) (imem : List Byte) : State := match off with
    | none => s
    | some o => { s with porters := put s.porters (porterKey gk rank r) (newPorter s.porterCycle gk x.gang rank core o r imem) }
  cores.zipIdx.foldl (fun s c => add (add s c.1 c.2 .loader x.pload ((image.map (·.pload)).getD [])) c.1 c.2 .storer x.pstore ((image.map (·.pstore)).getD [])) s

/-- The next gang of a launch waits for placement once one has been placed; when none is left the entry is free (R408, R416). -/
def State.nextGangOf (s : State) (l : Nat) : State :=
  match s.launch? l with
  | none => s
  | some x =>
      if x.nextGang * x.kern.gang < x.record.teams then
        let (id, s) := s.fresh
        s.setGang id { launch := l, k := x.nextGang, teams := [], cores := [], st := .unplaced, since := 0, records := [] }
      else (s.setLaunch l { x with entry := none }).entriesFreed

/-- An unplaced gang placed on the unit that begins at a core. -/
def State.placeNew (s : State) (gk : Nat) (g : Gang) (l : Launch) (start : Nat) : State :=
  let cores := (List.range l.kern.cores).map (start + ·)
  let old := cores.map fun c => (c, s.split c)
  let s := s.takeAcc gk l.kern cores
  let s := s.setGang gk { g with cores := cores, st := .resident, since := s.timebase }
  let s := old.foldl State.handRows (s.bindTeams gk g l start 0 l.kern.gang)
  let s := s.startPorters gk l.kern cores
  (s.modLaunch g.launch fun x => { x with nextGang := x.nextGang + 1, extra := 0 }).nextGangOf g.launch

/-! ## Resuming (R368, R371, R444) -/

/-- The checks of R218 made anew on an open row of a held access (R371, R339). (DEDUCED: log entry 61.) -/
def State.recheck (s : State) (c : Ctx) (op : HeldOp) (r : HeldLane) : Except Cause HeldLane :=
  let again (x : Checked) : Except Cause HeldLane := match x with
    | .ok p => .ok { r with loc := p.loc, attr := p.attr, tile := p.tile }
    | .bad k => .error k
    | .remote _ _ => .ok r
  if r.done then .ok r
  else match op with
    | .load f => again (s.check c (.load f) false r.ea)
    | .raw f => again (s.check c (.raw (loadSize f)) false r.ea)
    | .atom k => again (s.check c (.raw (atomSize k)) true r.ea)
    | .amax => again (s.amaxCheck c r.ea)
    | .stat => .ok r
    | .nothing => .ok r
/-- The waiting queue instruction of a group that resumes: its checks are made anew; it waits on under the new epoch, or traps at the instruction (R371, R339). -/
def State.recheckQueue (s : State) (gid : Nat) (w : Wait) : State :=
  match s.group? gid with
  | none => s
  | some g =>
      let c := s.ctxOf gid g
      let again (push : Bool) (k : WaitKind) : State := match s.queueLanes c push g w.slot.lanes (lmA w.slot.word) with
        | .ok _ => s.setGroup gid (g.enterWait s.cycle k w.slot)
        | .error (.tile _ _) => s.setGroup gid (g.enterWait s.cycle k w.slot)
        | .error (.causes es) => (match worst es with
            | none => s
            | some (x, m, ea) => (s.setGroup gid (g.leaveWait w.slot)).settleTrap gid { place := w.slot.place, cause := x, lanes := m, addr := ea, word := w.slot.word, defer := false, active := w.slot.lanes, restart := w.slot.pc })
      if w.kind.pushTag.isSome then again true (.queuePush c.tag) else if w.kind.popTag.isSome then again false (.queuePop c.tag)
      else match w.kind with
        | .tile n _ => s.setGroup gid (g.enterWait s.cycle (.tile n c.tag) w.slot)
        | .barrier _ _ | .queuePop _ | .queuePush _ | .stores | .remoteCheck _ | .claim _ _ _ | .launchStore _ _ | .token _ | .batch _ | .sealLimit | .fence _ _ | .cbuf _ _
        | .phase _ | .grant _ | .sweep _ | .table | .exit | .staging => s
/-- The accesses that a group waited for, checked anew when it resumes: a row that now fails its checks leaves its cause as a deferred trap (R371, R339). (DEDUCED: log entry 61.) -/
def State.recheckGroup (s : State) (gid : Nat) : State :=
  match s.group? gid with
  | none => s
  | some g =>
      let c := s.ctxOf gid g
      let out := g.sb.map fun e => (e, e.rows.map fun r => (r, s.recheck c e.op r))
      let entry (x : SbEntry × List (HeldLane × Except Cause HeldLane)) : SbEntry :=
        let rows := x.2.map fun r => match r.2 with
          | .ok r => r
          | .error _ => { r.1 with done := true }
        { x.1 with rows := rows, epoch := s.dev.qepoch, kind := match x.1.kind with
            | .held w => if rows.any (fun r => !r.done) then .held w else .ready
            | .remote t w => .remote t w
            | .ready => .ready
            | .stat => .stat
            | .later => .later
            | .answer t => .answer t }
      let traps := out.flatMap fun x => deferredOf x.1.id x.1.kind.word x.1.regs (x.2.filterMap fun r => match r.2 with
        | .ok _ => none
        | .error k => some (r.1.lane, k, r.1.ea))
      g.waits.foldl (fun s w => s.recheckQueue gid w) ((s.setGroup gid { g with sb := out.map entry }).deferAll gid traps)

/-- The handles of a team bound again to the lowest free benches of a cluster (R270, R371). -/
def rebind (cluster : Nat) (taken : List Nat) : List BenchHandle → List BenchHandle
  | [] => []
  | h :: r =>
      if !h.bound then h :: rebind cluster taken r
      else
        let b := ((List.range 16).find? fun i => !taken.contains i).getD 0
        { h with bench := b } :: rebind cluster (b :: taken) r
/-- The groups of a team that resume: each takes the lowest free slot of its new core. -/
def State.resumeGroups (s : State) (x : Kernel) (start rank : Nat) : List Nat → State
  | [] => s
  | gid :: r =>
      let s := match s.group? gid with
        | none => s
        | some g => if g.ended then s else
            let core := x.groupCore start rank g.index
            s.setGroup gid { g with core := core, slot := s.freeSlot core, readyAt := s.cycle, readySince := s.cycle }
      s.resumeGroups x start rank r
/-- The teams of a gang that resume. -/
def State.resumeTeams (s : State) (x : Kernel) (start : Nat) : List Nat → State
  | [] => s
  | tid :: r =>
      let s := match s.team? tid with
        | none => s
        | some t => if t.ended then s else
            let cores := x.teamCores start t.rank
            let s := s.setTeam tid { t with handles := rebind (start / 4) (s.boundIn (start / 4)) t.handles, cores := cores, base := (s.windowPlace (cores.headD 0) x.scratch).getD 0 }
            s.resumeGroups x start t.rank t.groups
      s.resumeTeams x start r
/-- The number under which the accumulator store of one of a gang's cores is kept while the gang is out: its record holds it (R370). -/
def savedBank (gk i : Nat) : Nat := Config.cores + 4 * gk + i
/-- An accumulator store moved: its banks, their errors, and the commands of a gang's teams that act on it, which run on (R265, R368, R370). -/
def State.moveAcc (s : State) (teams : List Nat) (src dst : Nat) : State :=
  let there (k : Nat) : Nat := if k / 512 = src then 512 * dst + k % 512 else k
  { s with eng := { s.eng with
      acc := s.eng.acc.map fun b => (there b.1, b.2)
      badAcc := s.eng.badAcc.map fun b => (there b.1, b.2)
      cmds := s.eng.cmds.map fun c => (c.1, if teams.contains c.2.team && c.2.bank == src then { c.2 with bank := dst } else c.2) } }
/-- The accumulator store of each core that a gang leaves kept for it, when it is an accumulator gang (R370). -/
def State.saveAcc (s : State) (gk : Nat) (k : Gang) (x : Kernel) : State :=
  if x.accumulator then k.cores.zipIdx.foldl (fun s c => s.moveAcc k.teams c.1 (savedBank gk c.2)) s else s
/-- The accumulator store of a gang restored into the cores that it is placed on (R370). -/
def State.restoreAcc (s : State) (gk : Nat) (g : Gang) (start : Nat) (x : Kernel) : State :=
  if !x.accumulator then s
  else
    let cores := (List.range x.cores).map (start + ·)
    let s := cores.zipIdx.foldl (fun s c => (s.clearAcc c.1).moveAcc g.teams (savedBank gk c.2) c.1) s
    { s with eng := { s.eng with accUsers := cores.foldl (fun a c => put a c gk) s.eng.accUsers } }
/-- The porters of a gang go on, on its new cores, with their instruction stores loaded again (R444). -/
def State.resumePorters (s : State) (gk start : Nat) : State :=
  { s with porters := s.porters.map fun (p : Nat × Porter) => if p.2.gang = gk ∧ p.2.mode = PorterMode.stopped then (p.1, { p.2 with mode := PorterMode.running, core := start + p.2.rank, readyAt := 0, mcycle := (p.2.mcycle + 2 ^ 64 - s.porterCycle % 2 ^ 64) % 2 ^ 64 }) else p }
/-- A swapped gang placed again; a record that fails its check kills the launch (R369). -/
def State.placeAgain (s : State) (gk : Nat) (g : Gang) (l : Launch) (start : Nat) : State :=
  if g.records.any fun r => s.lineFails none (.phys r.1) r.2 then s.requestKill g.launch .check
  else
    let cores := (List.range l.kern.cores).map (start + ·)
    let old := cores.map fun c => (c, s.split c)
    let s := s.setGang gk { g with cores := cores, st := .resident, since := s.timebase, records := [] }
    let s := old.foldl State.handRows (s.resumeTeams l.kern start g.teams)
    let s := s.restoreAcc gk g start l.kern
    let s := s.resumePorters gk start
    (s.liveGroups g).foldl (fun s x => s.recheckGroup x.1) s

/-- GANG_PLACE (R416): the first of the eligible gangs that fit, on the lowest unit that it fits. (DEDUCED: log entry 81.) -/
def execGangPlace (gk : Nat) (s : State) : Host.Outcome State Fault Refusal :=
  match s.packet, s.gang? gk with
  | none, some g => match s.launch? g.launch with
    | none => .refused .notEnabled
    | some l =>
        if !s.eligible g || s.gangs.any (fun x => x.1 != gk && s.eligible x.2 && s.goesBefore x.2 g && (s.unitFor x.2).isSome) then .refused .notEnabled
        else match s.unitFor g with
          | none => .refused .notEnabled
          | some start => .next (if g.st == .unplaced then s.placeNew gk g l start else s.placeAgain gk g l start)
  | none, none => .refused .notEnabled
  | some _, _ => .refused .notEnabled

/-! ## Swapping out (R43, R362, R368 to R371, R414, R415, R418) -/

/-- The EA by which a team names a queue: its descriptor in a window of the gang, or at a page of its address space; 0 where no page leads there. -/
def State.queueEa (s : State) (asid : Nat) (q : QueueRef) : DWord :=
  match q.loc with
  | .win t o => scratchEa (((s.team? t).map (·.rank)).getD 0 * 2 ^ 20 + o)
  | .phys a => match s.mem.pages.find? fun p => p.asid == asid && decide (p.pa ≤ a) && decide (a < p.pa + p.size) with
    | some p => localEa (p.la + (a - p.pa))
    | none => 0
/-- The wake condition of a result that a group waits for: the tile of a held access, or the request of a remote one (R368). -/
def Group.resultWake (g : Group) (es : List SbEntry) : Nat × List Nat :=
  match es.findSome? fun e => if e.open then (e.rows.find? fun r => !r.done).bind (·.tile) else none with
  | some k => (7, [keyLa k])
  | none => (match es.findSome? fun e => match e.kind with
      | .remote t _ => some t
      | .answer t => some [t]
      | .held _ => none
      | .ready => none
      | .later => none
      | .stat => none with
    | some t => (4, t)
    | none => if es.any (fun e => e.kind == .later) then (8, [g.segment]) else (0, []))
/-- The tile that a group's waiting store waits for. -/
def State.storeTile (s : State) (gid : Nat) : Nat := ((s.mem.storeQ.find? fun st => st.gid == gid).bind (·.tile)).elim 0 keyLa
/-- The kind and arguments of a waiting instruction's wake condition (R368); of an instruction that names several queues, those of the first whose turn has not come. -/
def State.wakeOf (s : State) (gid : Nat) (g : Group) (w : Wait) : Nat × List Nat :=
  let c := s.ctxOf gid g
  match w.kind with
  | .barrier a n => (1, [a.toNat, n])
  | .queuePop _ => (2, ((s.popsOf g).find? fun p => !s.popReady c p).elim [] fun p => [(s.queueEa c.asid p.queue).toNat, p.round])
  | .queuePush _ =>
      let ls := s.lanesHeld c g w.slot.lanes (lmA w.slot.word)
      (3, ((queuesOf ls).find? fun q => decide (q.cap < s.qResv c q.place + (lanesNaming ls q.ref).length)).elim [] fun q => [q.ea.toNat, (lanesNaming ls q.ref).length])
  | .remoteCheck tags => (4, tags)
  | .claim x _ _ => (5, [x.toNat])
  | .launchStore d _ => (6, [d])
  | .tile k _ => (7, [keyLa k])
  | .stores => (7, [s.storeTile gid])
  | .staging => (8, [g.segment])
  | .phase b => (9, [b.toNat])
  | .grant t => (10, [t])
  | .exit => if g.holds then g.resultWake g.sb else if s.mem.storeQ.any (fun st => st.gid == gid) then (7, [s.storeTile gid]) else (0, [])
  | .token _ | .batch _ | .sealLimit | .fence _ _ | .cbuf _ _ | .sweep _ | .table => (0, [])
/-- The wake condition of a group as its record states it. -/
def State.groupWake (s : State) (gid : Nat) (g : Group) : Nat × List Nat :=
  match g.waits with
  | w :: _ => s.wakeOf gid g w
  | [] => match g.ticket with
    | some n => (8, [n])
    | none => if g.emptyWait then (9, (((s.teamOf g).bind (·.map)).elim [] fun m => [m.2.toNat])) else g.resultWake g.stalledOn

/-- LANES of a group record (R369). -/
def laneRecord (l : Lane) : List Byte :=
  let (mask, st) : Nat × Nat := match l.st with
    | .exited => (0, 0)
    | .live => (0, 1)
    | .waiting m => (m.toNat, 2)
  bytesOfNat 8 l.pc.toNat ++ bytesOfNat 8 l.trappc.toNat ++ bytesOfNat 8 mask ++ bytesOfNat 1 l.fpen.toNat ++ bytesOfNat 1 l.fpflags.toNat ++ bytesOfNat 1 st ++ bytesOfNat 5 0
/-- A group record (R369). -/
def State.groupRecord (s : State) (gid : Nat) (g : Group) : List Byte :=
  let image := Config.regImage (g.lanes.map fun l => (l.regs.toList).take g.alloc)
  let (wake, args) := s.groupWake gid g
  let arrival := g.arrival.getD (0, 0)
  bytesOfNat 1 (widthCode g.width) ++ bytesOfNat 1 g.alloc ++ bytesOfNat 1 (g.hnd.toNat + 2 * g.arrival.isSome.toNat) ++ bytesOfNat 1 wake ++ bytesOfNat 4 image.length
    ++ ((args.flatMap (bytesOfNat 8)) ++ List.replicate 24 0).take 24
    ++ bytesOfNat 8 g.enmask.toNat ++ bytesOfNat 8 g.saveden.toNat ++ bytesOfNat 8 g.retired ++ bytesOfNat 8 g.trapmask.toNat ++ bytesOfNat 8 g.trapaddr.toNat
    ++ bytesOfNat 4 (g.hnd.toNat * 2 ^ 31 + g.defer.toNat * 2 ^ 30 + g.code) ++ bytesOfNat 4 g.trapinst.toNat ++ bytesOfNat 4 (g.fprm.code + 4 * g.fpftz.toNat + 8 * g.schk.toNat)
    ++ bytesOfNat 4 g.tkstat ++ bytesOfNat 4 (g.bdone % 65536 * 65536 + g.bsealed % 65536) ++ (g.routes.flatMap fun r => bytesOfNat 4 (kindCode r.kind * 65536 + r.param))
    ++ bytesOfNat 4 arrival.1.toNat ++ bytesOfNat 4 (arrival.2 % 2 ^ 16) ++ bytesOfNat 4 g.segment ++ bytesOfNat 4 g.qcounts.length ++ bytesOfNat 8 0
    ++ g.lanes.flatMap laneRecord ++ (g.qcounts.flatMap fun q => bytesOfNat 8 (s.queueEa (s.asidOf g) q.queue).toNat ++ bytesOfNat 4 q.pushes ++ bytesOfNat 4 q.pops) ++ image
/-- A team record (R370), in the device's own format. -/
def State.teamRecord (s : State) (t : Team) : List Byte :=
  let plane (h : Nat) (standby : Bool) (p : Option Plane) : List (Nat × Nat × Bool × Nat × Nat × List (List (Option (Nat × Nat)))) :=
    (p.map fun p => (2 * h + standby.toNat, p.fmt, p.sparse, p.k, p.n, p.elems)).toList
  let size := ((s.launch? (s.launchIdOfTeam t)).map (·.kern.scratch)).getD 0
  Config.teamImage t.teamId t.weight ((List.range size).map (cellGet t.window)) t.tags ((t.handles.mapIdx fun i h => if h.bound then plane i false h.active ++ plane i true h.standby else []).flatten)
/-- A porter stopped at an instruction boundary (R444). -/
def Porter.stopped (now : Nat) (p : Porter) : Porter :=
  if p.mode = PorterMode.running then { p with mode := .stopped, cbWait := false, resv := none, mcycle := (p.mcycle + now) % 2 ^ 64 } else p
/-- What a gang record holds of a stopped porter (R444): its PC, x1 to x31, the standard CSRs, the command window's RW fields, FAULT and the data store. -/
def Porter.image (p : Porter) : Nat × Nat × List Nat × List Byte :=
  (p.rank, (match p.role with
    | .loader => 0
    | .storer => 1),
   p.pc.toNat :: ((List.range 31).map fun i => (p.x.toArray.getD (i + 1) 0).toNat) ++ [p.mstatus.toNat, p.mtvec.toNat, p.mepc.toNat, p.mcause.toNat, p.mtval.toNat, p.mscratch.toNat, p.mcycle, p.minstret]
     ++ p.win.flatMap (fun w => [w.1, w.2.toNat]) ++ [p.flt.toNat, p.fcode, p.faddr.toNat],
   (List.range 8192).map (cellGet p.dmem))
/-- A gang record (R370, R444), in the device's own format: its shape, the accumulator store of each of its cores, and its porters as they stop. -/
def State.gangRecord (s : State) (gk : Nat) (k : Gang) (x : Kernel) : List Byte :=
  Config.gangImage k.k x.gang x.pair (if x.accumulator then s.eng.acc.filterMap fun b => (k.cores.findIdx? (· == b.1 / 512)).map fun i => (i, b.1 % 512, b.2.elems.toList, b.2.flags.toNat) else [])
    ((s.porters.filter fun p => p.2.gang == gk).map fun p => (p.2.stopped s.porterCycle).image)
/-- The records of a gang: those of its groups, of its teams, its own (R369). -/
def State.recordsOf (s : State) (gk : Nat) (k : Gang) (x : Kernel) : List (List Byte) :=
  (s.liveGroups k).map (fun g => s.groupRecord g.1 g.2) ++ ((k.teams.filterMap s.team?).filter fun t => !t.ended).map s.teamRecord ++ [s.gangRecord gk k x]

/-- The records of context memory in use. -/
def State.ctxUsed (s : State) : List (Nat × Nat) := s.gangs.flatMap fun k => k.2.records
/-- A place for a record in context memory: the lowest free address, a multiple of 64 (R369). -/
def ctxPlace (ranges used : List (Nat × Nat)) (n : Nat) : Option Nat :=
  let len := (n + 63) / 64 * 64
  let starts := (ranges.map (·.1)) ++ used.map fun u => (u.1 + u.2 + 63) / 64 * 64
  (sortBy id starts).find? fun a => ranges.any (fun r => decide (r.1 ≤ a) && decide (a + len ≤ r.1 + r.2)) && used.all fun u => decide (u.1 + u.2 ≤ a) || decide (a + len ≤ u.1)
/-- Records written into context memory, whole lines at a time; none when there is no room. -/
def State.saveRecords (s : State) (used : List (Nat × Nat)) : List (List Byte) → Option (List (Nat × Nat) × State)
  | [] => some ([], s)
  | bs :: r =>
      match ctxPlace s.sched.ctxmem used bs.length with
      | none => none
      | some a =>
          let n := (bs.length + 63) / 64 * 64
          match (s.putPhys none false ((bs ++ List.replicate 63 0).take n) a).saveRecords ((a, bs.length) :: used) r with
          | none => none
          | some (rs, s) => some ((a, bs.length) :: rs, s)

/-- Do the copies and porter commands of a gang leave its context final (R368, R444)? (DEDUCED: log entry 61.) -/
def State.gangSettled (s : State) (gk : Nat) (k : Gang) : Bool :=
  s.eng.copies.all (fun c => !k.teams.contains c.2.team) && s.porters.all (fun p => p.2.gang != gk || p.2.queue.isEmpty)
/-- The gangs for which a resident gang might be swapped out: eligible, with no room (R415, R418). -/
def State.lacking (s : State) : List Gang := (s.gangs.map (·.2)).filter fun e => s.eligible e && (s.unitFor e).isNone
/-- May a gang be taken for another that finds no room (R415, R418)? For a gang of a launch with a reservation, a gang of the same launch; for a recompute charged to it, one on its pairs, else one in no reservation; both with a key no higher, resident for 50 µs. -/
def State.victimFor (s : State) (e : Gang) (k : Gang) : Bool :=
  let lower := match s.launch? e.launch, s.launch? k.launch with
    | some le, some lk => decide (lk.key ≤ le.key) && decide (k.since + 50000 ≤ s.timebase)
    | _, _ => false
  k.st == .resident && s.gangBlocked k && (match s.ownPairs e with
    | some r => if e.launch = r.launch then k.launch == e.launch && decide (r.start ≤ s.timebase) else lower && (s.ownPairs k).map (·.launch) == some r.launch
    | none => lower && (s.ownPairs k).isNone)
/-- Does the first gang go before the second as a victim: it has waited longer, or it stands on a lower core (R418)? -/
def State.worseVictim (s : State) (a b : Gang) : Bool :=
  decide (s.waitingSince a < s.waitingSince b) || (s.waitingSince a == s.waitingSince b && decide (a.cores.headD 0 < b.cores.headD 0))
/-- Must a gang leave its cores while it waits: it is OPEN on a pair with a reservation to come (R414), or it stands inside the reservation of another (R415)? (DEDUCED: log entry 62.) -/
def State.mustLeave (s : State) (k : Gang) : Bool :=
  (s.gangOpen k && k.cores.any fun c => (s.nextStart (c / 2)).isSome)
    || k.cores.any fun c => (match s.resvNow (c / 2) with
      | none => false
      | some r => (s.ownPairs k).map (·.launch) != some r.launch)
/-- Is there a reason to swap a gang out: another finds no room and this is the one to take, or it must leave? -/
def State.swapReason (s : State) (k : Gang) : Bool :=
  s.mustLeave k || s.lacking.any fun e => s.victimFor e k && s.gangs.all fun x => !(s.victimFor e x.2 && s.worseVictim x.2 k)
/-- GANG_SWAP_OUT (R43, R418). -/
def execGangSwapOut (gk : Nat) (s : State) : Host.Outcome State Fault Refusal :=
  match s.packet, s.gang? gk with
  | none, some k =>
      if !(k.st == .resident && s.gangBlocked k && s.gangSettled gk k && s.swapReason k) then .refused .notEnabled
      else match s.kernelFor k with
      | none => .refused .notEnabled
      | some x => match s.saveRecords s.ctxUsed (s.recordsOf gk k x) with
        | none => .refused .notEnabled
        | some (records, s) =>
            let s := s.saveAcc gk k x
            let s := k.cores.foldl State.writeBack s
            let s := k.teams.foldl (fun s t => s.modTeam t fun x => { x with cores := [] }) s
            let mine (p : Porter) : Bool := p.gang == gk
            let s := { s with
              porters := s.porters.map fun (p : Nat × Porter) => if mine p.2 then (p.1, p.2.stopped s.porterCycle) else p
              eng := { s.eng with cbufq := s.eng.cbufq.filter fun x => !(s.porters.any fun p => mine p.2 && x.2 == (p.2.core, 1 + (p.1 % 2))) } }
            .next (s.setGang gk { k with cores := [], st := .swapped, records := records })
  | none, none => .refused .notEnabled
  | some _, _ => .refused .notEnabled

/-! ## Admission (R409, R411 to R413, R415) -/

/-- Is a launch the oldest that its die's queue still presents (R409)? -/
def State.presented (s : State) (l : Launch) : Bool := s.launches.all fun x => x.2.st != .queued || x.2.die != l.die || decide (l.order ≤ x.2.order)
/-- Is a pair free of reservations over an interval? -/
def State.pairFree (s : State) (start stop pair : Nat) : Bool := s.sched.resv.all fun r => !r.pairs.contains pair || decide (r.stop ≤ start) || decide (stop ≤ r.start)
/-- The units of pairs from which Q is made: pairs, or whole clusters where a gang uses four cores (R412). -/
def State.freeUnits (s : State) (x : Kernel) (start stop : Nat) : List (List Nat) :=
  let units := if x.cores = 4 then (List.range Config.clusters).map fun c => [2 * c, 2 * c + 1] else (List.range (Config.cores / 2)).map fun p => [p]
  units.filter fun u => u.all (s.pairFree start stop)
/-- Rounded-up division. -/
def ceilDiv (a b : Nat) : Nat := (a + b - 1) / b
/-- Does a set of so many pairs pass (R412)? -/
def passesWith (r : LaunchRec) (k : Kernel) (start pairs : Nat) : Bool :=
  let n := min (2 * pairs) (k.cores * (r.teams / k.gang))
  let t := if r.tmax = 0 then r.workbound else r.tmax
  decide (start + ceilDiv r.workbound (4 * n) + ceilDiv t (4 * k.cores) + 100000 ≤ r.deadline)
/-- Q: the fewest units that pass, with the lowest free one among them; R412 leaves the others open. (DEDUCED: log entry 57.) -/
def State.admitPairs (s : State) (r : LaunchRec) (k : Kernel) (start : Nat) : Option (List Nat) :=
  let units := s.freeUnits k start r.deadline
  let size := if k.cores = 4 then 2 else 1
  match (List.range units.length).find? fun i => passesWith r k start (size * (i + 1)) with
  | none => none
  | some i => match units with
    | [] => none
    | u :: rest => some (u ++ ((shuffle s.tick rest.length rest).take i).flatten)
/-- A launch whose completion record the device keeps from its entry on. -/
def Launch.hasRecord (l : Launch) : Bool := l.record.compl != 0 && (match l.origin with
  | .host => true
  | .device _ => true
  | .node _ _ => false
  | .invoked _ _ _ _ _ => false
  | .recompute _ _ => false)
/-- A launch accepted, with or without a reservation. -/
def State.accept (s : State) (id : Nat) (l : Launch) (pairs : Option (List Nat)) (start : Nat) : State :=
  let s := match pairs with
    | none => s
    | some q => { s with sched := { s.sched with resv := s.sched.resv ++ [({ launch := id, pairs := q, start := start, stop := l.record.deadline } : Reservation)] } }
  let s := s.setLaunch id { l with st := .admitted, tadmit := s.timebase, pairs := pairs }
  let s := if l.hasRecord then s.writeLocal l.asid (l.record.compl + 0x20) (bytesOfNat 8 s.timebase) else s
  s.nextGangOf id
/-- A launch refused (R413): its record is posted, its weight returns, its entry is free. (DEDUCED: log entry 57.) -/
def State.refuseLaunch (s : State) (id : Nat) (l : Launch) : State :=
  let s := s.setLaunch id { l with st := .refused, entry := none, tadmit := s.timebase }
  let s := s.writeLocal l.asid (l.record.compl + 0x20) (bytesOfNat 8 s.timebase)
  (((s.postRecord l 3 0).giveBack id l.root l.weight).entriesFreed)
/-- ADMISSION_DECISION (R412). -/
def execAdmissionDecision (id : Nat) (s : State) : Host.Outcome State Fault Refusal :=
  match s.launch? id with
  | none => .refused .notEnabled
  | some l =>
      if l.st != .queued || l.cause.isSome || !s.presented l then .refused .notEnabled
      else if !l.record.bounded || l.origin.tile?.isSome then .next (s.accept id l none 0)
      else
        let start := s.timebase + 50000
        match s.admitPairs l.record l.kern start with
        | some q => .next (s.accept id l (some q) start)
        | none => if l.hasRecord then .next (s.refuseLaunch id l) else .next (s.accept id l none 0)
/-- RESERVATION_DEADLINE (R415): the launch has passed its deadline; its gangs are placed on any cores from now on. -/
def execReservationDeadline (id : Nat) (s : State) : Host.Outcome State Fault Refusal :=
  match s.resvOf id with
  | none => .refused .notEnabled
  | some r =>
      let t : State := { s with sched := { s.sched with resv := s.sched.resv.filter fun x => x.launch != id } }
      if r.stop ≤ s.timebase then .next t else .refused .notEnabled

end Sys2Proof.Machine
end

