-- ==== Sys2Proof/Machine/FabricIn.lean ====
section
/-! DEFINITION. What arrives on the fabric: links, end-to-end order and forwarding (R446 to R452), remote reads, writes and atomics at their target (R453, R454), answers and their loss (R455), claims, signals and collectives on arrival (R155 to R160, R456 to R461). -/
namespace Sys2Proof.Machine

/-! ## Links (R448, R449, R451, R452) -/

/-- The buffer of a link after an acknowledgement: the flits up to the one acknowledged are gone, and those that waited for room leave (R448). (DEDUCED: log entry 38.) -/
def State.ackLink (s : State) (port lack : Nat) : State :=
  let l := s.link port
  match l.replay.findIdx? fun f => f.1.lseq == lack with
  | none => s.setLink port { l with up := true, heard := s.timebase }
  | some i =>
      if 256 ≤ i then s.setLink port { l with up := true, heard := s.timebase }
      else
        let rest := l.replay.drop (i + 1)
        let s := s.setLink port { l with replay := rest, replays := 0, up := true, heard := s.timebase, resent := l.resent - (i + 1) }
        { s with outbox := s.outbox ++ ((rest.take 256).drop (min 256 l.replay.length - (i + 1))).map fun f => Out.flit f.1 f.2 }

/-- Flits held early that have come into their turn: delivered in order, n at most. -/
def takeEarly : Nat → EndSeq → EndSeq × List (FlitHdr × FlitMsg)
  | 0, e => (e, [])
  | n + 1, e => match e.early.find? fun f => f.1.eseq == e.expect with
    | none => (e, [])
    | some f =>
        let (e', fs) := takeEarly n { e with expect := (e.expect + 1) % 2 ^ 16, early := e.early.filter fun x => x.1.eseq != e.expect }
        (e', f :: fs)
/-- The receive order of a source and channel; one that has delivered nothing expects 0 (DESIGN CHOICE, log entry 3). -/
def State.endSeq (s : State) (src vc : Nat) : EndSeq := (s.fab.ends.find? fun e => e.src == src && e.vc == vc).getD { src := src, vc := vc, expect := 0, early := [] }
/-- The flits of a source on VC 3 of which a device remembers that it has delivered them: all but the newest are taken to have come once there are too many to hold (R449, R451). (DEDUCED: log entry 38.) -/
def EndSeq.remember (e : EndSeq) (f : FlitHdr × FlitMsg) : EndSeq :=
  let (e, _) := takeEarly (e.early.length + 1) { e with early := e.early ++ [f] }
  if e.early.length ≤ Config.earlyFlitCap then e
  else (takeEarly (e.early.length + 1) { e with expect := (e.early.headD f).1.eseq }).1
/-- A flit for this device (R449, R451): one that has been delivered before is dropped; of VC 3 it is delivered on arrival, of the others in ESEQ order, early ones held. -/
def State.deliverFlit (s : State) (h : FlitHdr) (m : FlitMsg) : State :=
  let here (f : FlitHdr × FlitMsg) : FlitHdr × FlitMsg := ({ f.1 with port := 19 }, f.2)
  let e := s.endSeq h.src m.vc
  let ahead := (h.eseq + 2 ^ 16 - e.expect) % 2 ^ 16
  let keep (s : State) (e : EndSeq) : State := { s with fab := { s.fab with ends := e :: s.fab.ends.filter fun x => !(x.src == h.src && x.vc == m.vc) } }
  if 2 ^ 15 ≤ ahead || e.early.any (fun f => f.1.eseq == h.eseq) then s
  else if m.vc = 3 then keep { s with loop := s.loop ++ [here (h, m)] } (e.remember (h, m))
  else if ahead != 0 && decide (Config.earlyFlitCap ≤ e.early.length) then s
  else
    let (e, fs) := takeEarly (e.early.length + 1) { e with early := e.early ++ [(h, m)] }
    keep { s with loop := s.loop ++ fs.map here } e

/-- A flit whose CRC has passed comes in by a link (R448): one with the expected LSEQ is taken and acknowledged by an idle flit, and forwarded when it is for another device (R452). (DEDUCED: log entry 38.) -/
def State.flitIn (s : State) (h : FlitHdr) (m : FlitMsg) : State :=
  let s := s.ackLink h.port h.lack
  let l := s.link h.port
  if h.lseq ≠ l.expect then s
  else
    let l := { l with expect := (l.expect + 1) % 512 }
    let s := s.setLink h.port l
    let s := { s with outbox := s.outbox ++ [Out.idle h.port l.nextSeq l.lack] }
    if h.dest = s.fab.devNum then s.deliverFlit h m
    else if h.hops ≤ 1 then s
    else s.forward { h with hops := h.hops - 1 } m
/-- A flit of a kind: at a port it comes in by the link; at number 19 it has been delivered to this device and is acted on. -/
def flitInstr (s : State) (h : FlitHdr) (m : FlitMsg) (act : State → State) : Host.Outcome State Fault Refusal :=
  if h.port < 18 then .next (s.flitIn h m) else if h.port = 19 then .next (act s) else .refused .notEnabled

/-- R448: an idle flit carries acknowledgements. -/
def execIdle (port _lseq lack : Nat) (s : State) : Host.Outcome State Fault Refusal :=
  if port < 18 then .next (s.ackLink port lack) else .refused .notEnabled
/-- R448, R449: the sender resends from the flit that a NACK names; those before it have arrived. A NACK has itself passed its CRC, and it tells of a failed replay when the flit had been resent. -/
def execNack (port lseq : Nat) (s : State) : Host.Outcome State Fault Refusal :=
  let l := s.link port
  if 18 ≤ port then .refused .notEnabled
  else match l.replay.findIdx? fun f => f.1.lseq == lseq with
    | none => .next (s.setLink port { l with up := true, heard := s.timebase })
    | some i =>
        let rest := l.replay.drop i
        let failed := if l.resent ≤ i then 0 else if i = 0 then l.replays + 1 else 1
        let s := s.setLink port { l with replay := rest, replays := failed, up := true, heard := s.timebase, resent := max (l.resent - i) (min 256 rest.length) }
        .next { s with outbox := s.outbox ++ (rest.take 256).map fun f => Out.flit f.1 f.2 }
/-- R450: a management flit. The spec gives it no effect on the device beyond the link's own numbers. (DESIGN CHOICE: log entry 39.) -/
def execMgmt (h : FlitHdr) (bytes : List Byte) (s : State) : Host.Outcome State Fault Refusal := flitInstr s h (.mgmt bytes) fun s => s
/-- Is a link that counts as up down: no flit has passed its CRC for 10 µs, or 16 replays of one flit have failed in a row (R449)? -/
def Link.fails (l : Link) (now : Nat) : Bool := l.up && (decide (l.heard + 10000 ≤ now) || decide (16 ≤ l.replays))
/-- LINK_DOWN (R449): no flit has passed for 10 µs, or 16 replays have failed; what the buffer holds is sent by another port, and the host is told. -/
def execLinkDown (port : Nat) (s : State) : Host.Outcome State Fault Refusal :=
  let l := s.link port
  if 18 ≤ port || !l.fails s.timebase then .refused .notEnabled
  else
    let s := s.setLink port { l with replay := [], replays := 0, up := false, resent := 0 }
    .next ((l.replay.foldl (fun s f => s.forward f.1 f.2) s).hostEvent 0x44 (bytesOfNat 1 port))
/-- R448: a flit whose CRC fails is discarded, and a NACK names the number expected. -/
def execFlitCrcFailure (port : Nat) (s : State) : Host.Outcome State Fault Refusal :=
  if port < 18 then .next { s with outbox := s.outbox ++ [.nack port (s.link port).expect] } else .refused .notEnabled
/-- R450: a flit of an unlisted TYPE or on the wrong VC is dropped and counted. -/
def execUnknownFlitType (port lseq lack : Nat) (s : State) : Host.Outcome State Fault Refusal :=
  if 18 ≤ port then .refused .notEnabled
  else
    let s := s.ackLink port lack
    let l := s.link port
    if lseq ≠ l.expect then .next s
    else
      let l := { l with expect := (l.expect + 1) % 512 }
      let s := s.setLink port l
      let s := { s with outbox := s.outbox ++ [Out.idle port l.nextSeq l.lack] }
      .next { s with host := { s.host with tele := { s.host.tele with badFlits := s.host.tele.badFlits + 1 } } }

/-! ## Requests at their target (R453, R454, R401) -/

/-- The places a part of a read request names, or what its checks find; before are the addresses of the request's earlier parts. -/
def State.partPlaces (s : State) (c : Ctx) (p : RdPart) (before : List Nat := []) : Except (Cause × DWord) (List Place) :=
  let ea := localEa p.la
  let far := fabricEa s.fab.devNum p.la
  let one (x : Checked) : Except (Cause × DWord) (List Place) := match x with
    | .ok pl => .ok [pl]
    | .bad k => .error (k, far)
    | .remote _ _ => .error (.addrRange, far)
  let many (x : Range) : Except (Cause × DWord) (List Place) := match x with
    | .here ps => .ok ps
    | .bad k e => .error (k, fabricEa s.fab.devNum (e.toNat % 2 ^ 46))
    | .remote _ _ => .error (.addrRange, far)
  match p.kind with
  | .load f => one (s.check c (.load f) false ea)
  | .raw f => one (s.check c (.raw (loadSize f)) false ea)
  | .amax => one (s.amaxCheck c ea)
  | .bytes n => many (s.range c false ea n)
  | .readCheck n => many (s.range c false ea n)
  | .storeCheck f => one (s.check c (.store f) true ea)
  | .storeRawCheck f => one (s.check c (.raw (storeSize f)) true ea)
  | .writeCheck n => many (s.range c true ea n)
  | .bucketCheck => one (s.bucketAt c (s.bucketPlaces c (before.map localEa)).count ea)
  | .bucket => one (s.bucketAt c (s.bucketPlaces c (before.map localEa)).count ea)
/-- Does a part read data, so that it waits for tiles? The checks of a bucket read its words (R247). -/
def readsData (k : RdKind) : Bool :=
  match k with
  | .load _ | .raw _ | .amax | .bytes _ | .bucket | .bucketCheck => true
  | .readCheck _ | .storeCheck _ | .storeRawCheck _ | .writeCheck _ => false

/-- What reading a part comes to. -/
inductive PartOut where
  | words (ws : List Word)
  | bytes (bs : List Byte)
  | bad (c : Cause) (addr : DWord)
  | rebuild (tile : Nat)

/-- A failing line at a place: its tile is rebuilt, or CHECK (R401). -/
def State.partFails (s : State) (pl : Place) (far : DWord) : PartOut :=
  match pl.tile with
  | none => .bad .check far
  | some k => if (s.tile k).record.isSome then .rebuild k else .bad .check far
/-- The value of a part. -/
def State.partValue (s : State) (c : Ctx) (p : RdPart) (ps : List Place) : PartOut :=
  let far := fabricEa s.fab.devNum p.la
  let load (pl : Place) (x : LoadOut) : PartOut := match x with
    | .words ws => .words ws
    | .badLine => s.partFails pl far
    | .badBlock h => .bad .badBlock (fabricEa s.fab.devNum (h.toNat % 2 ^ 46))
  match p.kind, ps with
  | .load f, pl :: _ => load pl (s.loadAt c (.load f) pl)
  | .raw f, pl :: _ => load pl (s.rawAt c f pl)
  | .amax, pl :: _ => load pl (s.loadAt c (.raw 4) pl)
  | .bucket, pl :: _ => if (s.tileBefore c pl.tile pl.loc 32 true).isSome then s.partFails pl far else .words []
  | .bucketCheck, pl :: _ => if (s.tileBefore c pl.tile pl.loc 32 true).isSome then s.partFails pl far else .words []
  | .bytes _, ps => (match s.failingPlace none ps with
      | some pl => s.partFails pl (fabricEa s.fab.devNum (pl.ea.toNat % 2 ^ 46))
      | none => .bytes (s.readPlaces c ps))
  | .load _, [] | .raw _, [] | .amax, [] | .bucket, [] | .bucketCheck, [] | .readCheck _, _ | .storeCheck _, _ | .storeRawCheck _, _ | .writeCheck _, _ => .words []

/-- A request held for tiles (R401), behind those that were held before it. -/
def State.hold (s : State) (h : FlitHdr) (m : FlitMsg) : State := { s with fab := { s.fab with held := s.fab.held ++ [(h, m)] } }
/-- The requests held before one that is taken up again; all that are held for one that has just come. -/
def State.heldBefore (s : State) (h : FlitHdr) (m : FlitMsg) : List (FlitHdr × FlitMsg) :=
  s.fab.held.takeWhile fun x => x != (h, m)
/-- Has an earlier held request a tile in common with one? -/
def State.behind (s : State) (h : FlitHdr) (m : FlitMsg) : Bool :=
  (s.heldBefore h m).any fun x => (s.requestTiles x.2).any (s.requestTiles m).contains
/-- A request taken off the list of those held. -/
def State.unhold (s : State) (h : FlitHdr) (m : FlitMsg) : State := { s with fab := { s.fab with held := s.fab.held.erase (h, m) } }
/-- The header under which a request of a host waits for tiles: port 18, with the immediate value it delivers. -/
def hostHdr (imm : Option Word) : FlitHdr :=
  { port := 18, lseq := (imm.map (·.toNat)).getD 0, lack := 0, hops := 0, dest := 0, src := 0, tag := 0, eseq := if imm.isSome then 1 else 0, badLines := 0 }
/-- A RoCEv2 response in packets of the path MTU of 4,096 bytes: n of them (R463). -/
def rocePackets : Nat → List Byte → List Out
  | 0, _ => []
  | n + 1, bs => .roceData (bs.take 4096) :: if bs.length ≤ 4096 then [] else rocePackets n (bs.drop 4096)
/-- An answer to a request: on the fabric, or as a RoCEv2 response for a host (R329, R463). -/
def State.reply (s : State) (h : FlitHdr) (m : FlitMsg) : State :=
  if h.port = 18 then
    s.roce (match m with
      | .rdrsp _ bs => rocePackets (bs.length / 4096 + 1) bs
      | .failrsp _ => [.roceAccessError]
      | .wrack => .roceAck :: if h.eseq = 1 then [.roceImm (BitVec.ofNat 32 h.lseq)] else []
      | .rdreq _ | .wr _ | .atomreq _ | .atomrsp _ | .invoke _ | .claimmsg _ | .claimres _ | .signal _ | .coll _ | .mgmt _ => [])
  else s.sendMsg h.src h.tag m
/-- The failure of a request: the first cause in table order with its lanes and the first address (R454). (DEDUCED: log entry 63.) -/
def failOf (bad : List (Nat × Cause × DWord)) : Option FailMsg :=
  match firstCause (bad.map fun x => (x.1, x.2.1)) with
  | none => none
  | some (k, m) => some { code := k.code, lanes := m, addr := ((bad.find? fun x => x.2.1 == k).map (·.2.2)).getD 0 }
/-- The failure of a read whose data was looked at: a malformed block first, for it traps at the load unless the request was held (R222, R224); beside it the other causes, and the values of the lanes that have their data. (DEDUCED: log entry 63.) -/
def readFailOf (held : Bool) (bad : List (Nat × Cause × DWord)) (vals : List (Nat × List Word)) : Option FailMsg :=
  let (blocks, rest) := bad.partition fun x => x.2.1 == .badBlock
  match failOf (blocks ++ rest) with
  | none => none
  | some m => some { m with held := held, vals := vals, more := match failOf rest with
      | some n => if n.code = m.code then [] else [(n.code, n.lanes, n.addr)]
      | none => [] }
/-- The first tile of some places that is not VALID. -/
def State.firstTile (s : State) (c : Ctx) (ps : List Place) : Option Nat := s.waitTile c ps

/-- The places of a part of a write, or what its checks find. -/
def State.writePlace (s : State) (c : Ctx) (p : WrPart) : Except (Cause × DWord) (List Place) :=
  match p.encode with
  | some f => s.partPlaces c { lane := 0, la := p.la, kind := .storeCheck f }
  | none => s.partPlaces c { lane := 0, la := p.la, kind := .writeCheck p.bytes.length }
/-- Bytes shared out over places in order. -/
def sharedOver : List Place → List Byte → List (Loc × List Byte)
  | [], _ => []
  | p :: r, bs => (p.loc, bs.take p.n) :: sharedOver r (bs.drop p.n)
/-- The bytes that a part of a write puts at each of its places (R223, R453). -/
def wrOver (p : WrPart) (ps : List Place) : List (Loc × List Byte) :=
  match p.encode, ps with
  | some f, pl :: _ => [(pl.loc, storeBytes (.store f) pl p.words)]
  | some _, [] => []
  | none, ps => sharedOver ps p.bytes
/-- The identity under which a request of another device is served: its identifier, whether a handler issues it (R359), and the staged writes of the participant that asks, which its own loads return (R342). -/
def State.requestCtx (s : State) (asid : Nat) (hnd : Bool) (own : List WrPart) : Ctx :=
  let c := { s.deviceCtx asid with hnd := hnd }
  { c with laid := own.flatMap fun p => match s.writePlace c p with
    | .ok ps => wrOver p ps
    | .error _ => [] }

/-- A remote read served (R453, R454, R247): checked, held for its tiles, then answered with its values; arrivals at buckets are answered with the generations and the number of collectives that they have posted. A host's read that fails its check is told to the host port as well (R401). (DEDUCED: log entry 63; DESIGN CHOICE: log entry 35.) -/
def State.serveRead (s : State) (h : FlitHdr) (m : RdReq) : State :=
  let c := s.requestCtx m.asid m.hnd m.own
  let wait := s.behind h (.rdreq m)
  let held := s.fab.held.contains (h, .rdreq m)
  let s := s.unhold h (.rdreq m)
  let outs := m.parts.zipIdx.map fun p => (p.1, s.partPlaces c p.1 ((m.parts.take p.2).map (·.la)))
  let bad := outs.filterMap fun x => match x.2 with
    | .error e => some (x.1.lane, e)
    | .ok _ => none
  let good := outs.filterMap fun x => match x.2 with
    | .error _ => none
    | .ok ps => some (x.1, ps)
  match failOf bad with
  | some f => s.reply h (.failrsp f)
  | none =>
      let reads := good.filter fun x => readsData x.1.kind
      match s.firstTile c (reads.flatMap (·.2)) with
      | some k => (s.meetTile c k).hold h (.rdreq m)
      | none =>
          let vals := good.map fun x => (x.1, s.partValue c x.1 x.2)
          let malformed := vals.any fun x => match x.2 with
            | .bad k _ => k == .badBlock
            | .words _ => false
            | .bytes _ => false
            | .rebuild _ => false
          if wait && !reads.isEmpty && !(malformed && !held) then s.hold h (.rdreq m)
          else
            match vals.findSome? fun x => match x.2 with
              | .rebuild k => some k
              | .words _ => none
              | .bytes _ => none
              | .bad _ _ => none with
            | some k => ((s.dropTile k).meetTile c k).hold h (.rdreq m)
            | none =>
                let bad := vals.filterMap fun x => match x.2 with
                  | .bad k a => some (x.1.lane, k, a)
                  | .words _ => none
                  | .bytes _ => none
                  | .rebuild _ => none
                let words := vals.filterMap fun x => match x.2 with
                  | .words ws => some (x.1.lane, ws)
                  | .bytes _ => none
                  | .bad _ _ => none
                  | .rebuild _ => none
                match readFailOf held bad words with
                | some f => if h.port = 18 then (s.reply h (.failrsp f)).hostEvent 0x43 (bytesOfNat 8 f.addr.toNat) else s.reply h (.failrsp f)
                | none =>
                    let bytes := vals.flatMap fun x => match x.2 with
                      | .bytes bs => bs
                      | .words _ => []
                      | .bad _ _ => []
                      | .rebuild _ => []
                    let (arr, n, s) := s.bucketSteps s.dev.qepoch m.asid 0 (some (h.src, h.tag)) (good.filterMap fun x => match x.1.kind, x.2 with
                      | .bucket, pl :: _ => some (x.1.lane, pl.loc)
                      | _, _ => none)
                    if arr.isEmpty then s.reply h (.rdrsp words bytes) else s.reply h (.rdrsp arr [BitVec.ofNat 8 n])

/-- The bytes of a part in a flit's payload: parts follow one another (DESIGN CHOICE, log entry 35). -/
def wrSize (p : WrPart) : Nat := if p.encode.isSome then 4 * p.words.length else p.bytes.length
/-- Do bytes of a payload touch a line whose check value failed on the way (R448)? -/
def payloadBad (badLines first n : Nat) : Bool := (linesOf first n).any badLines.testBit
/-- Lines marked as failing: bytes that arrived with a failing check value (R400, R448). (DESIGN CHOICE: log entry 45.) -/
def State.markBad (s : State) (ls : List Nat) : State := ls.foldl (fun s k => if s.checkDiff k = 0 then s.setDiff k 1 else s) s
/-- The lines of HBM4 that a part of a write fills from damaged lines of its payload, the part's bytes beginning at a payload offset. -/
def damagedLines (badLines : Nat) : Nat → List (Loc × List Byte) → List Nat
  | _, [] => []
  | o, (.phys pa, bs) :: r =>
      ((linesOf pa bs.length).filter fun k =>
        let lo := max pa (64 * k) - pa
        payloadBad badLines (o + lo) (min bs.length (64 * k + 64 - pa) - lo)) ++ damagedLines badLines (o + bs.length) r
  | o, (.win _ _, bs) :: r => damagedLines badLines (o + bs.length) r
/-- The lines of HBM4 that pieces of one write cover wholly together: the data that enters makes their check values (R400). -/
def filledLines (ws : List (Loc × List Byte)) : List Nat :=
  let bytes := ws.flatMap fun w => match w.1 with
    | .phys pa => (List.range w.2.length).map (pa + ·)
    | .win _ _ => []
  (bytes.map (· / 64)).eraseDups.filter fun k => (List.range 64).all fun i => bytes.contains (64 * k + i)
/-- The parts of a write with their places, each with the payload offset of its bytes. -/
def partOffsets : Nat → List (WrPart × List Place) → List (Nat × WrPart × List Place)
  | _, [] => []
  | o, x :: r => (o, x.1, x.2) :: partOffsets (o + wrSize x.1) r
/-- The parts of a write performed in order; a line written whole makes its check value, and a line whose data arrived damaged fails (R400, R448). -/
def State.writeParts (s : State) (c : Ctx) (badLines : Nat) (ps : List (WrPart × List Place)) : State :=
  let s' := ps.foldl (fun s x => s.writePlaces c x.2 ((wrOver x.1 x.2).flatMap (·.2))) s
  let filled := filledLines (ps.flatMap fun x => wrOver x.1 x.2)
  let s' := s'.makeChecks filled.contains
  if badLines = 0 then s' else s'.markBad ((partOffsets 0 ps).flatMap fun x =>
    if x.2.1.encode.isSome then (if payloadBad badLines x.1 (wrSize x.2.1) then (wrOver x.2.1 x.2.2).flatMap (fun w => match w.1 with
      | .phys pa => linesOf pa w.2.length
      | .win _ _ => []) else [])
    else damagedLines badLines x.1 (wrOver x.2.1 x.2.2))
/-- A posted write served (R453): checked, but not again for what its issue checks covered (R256, R351), held for its tiles, then performed in part order and acknowledged. (DEDUCED: log entry 63.) -/
def State.serveWrite (s : State) (h : FlitHdr) (m : WrReq) : State :=
  let c := { s.requestCtx m.asid m.hnd [] with passed := m.checked }
  let wait := s.behind h (.wr m)
  let s := s.unhold h (.wr m)
  let outs := m.parts.map fun p => (p, s.writePlace c p)
  let bad := outs.filterMap fun x => match x.2 with
    | .error e => some (0, e)
    | .ok _ => none
  let good := outs.filterMap fun x => match x.2 with
    | .error _ => none
    | .ok ps => some (x.1, ps)
  match failOf bad with
  | some f => s.reply h (.failrsp f)
  | none => match s.firstTile c (good.flatMap (·.2)) with
    | some k => (s.meetTile c k).hold h (.wr m)
    | none => if wait then s.hold h (.wr m) else (s.writeParts c h.badLines good).reply h .wrack

/-- Atomic steps in the order of a request's parts. -/
def State.atomParts (s : State) (c : Ctx) (op : AtomOp) : List (AtomPart × Place) → List (Nat × List Word) × State
  | [] => ([], s)
  | (p, pl) :: r =>
      let (v, s) := s.atomStep c op pl.loc (attrPrivate pl.attr) p.args
      let (vs, s) := s.atomParts c op r
      ((p.lane, v.getD []) :: vs, s)
/-- A remote atomic, whose checks were asked for at its issue (R256, R351), served at its home L2 (R229, R454). One whose operands arrived damaged is not performed, and fails with CHECK (R401, R448). (DESIGN CHOICE: log entry 45.) -/
def State.serveAtomic (s : State) (h : FlitHdr) (m : AtomReqMsg) : State :=
  let c := { s.requestCtx m.asid m.hnd [] with passed := true }
  let wait := s.behind h (.atomreq m)
  let s := s.unhold h (.atomreq m)
  let outs := m.parts.map fun p => (p, s.check c (.raw (atomSize m.op)) true (localEa p.la))
  let bad := outs.filterMap fun x => match x.2 with
    | .bad k => some (x.1.lane, k, fabricEa s.fab.devNum x.1.la)
    | .ok _ => none
    | .remote _ _ => some (x.1.lane, .addrRange, fabricEa s.fab.devNum x.1.la)
  let good := outs.filterMap fun x => match x.2 with
    | .ok pl => some (x.1, pl)
    | .bad _ => none
    | .remote _ _ => none
  match (if h.badLines = 0 then failOf bad else some { code := Cause.check.code, lanes := maskOf (m.parts.map (·.lane)), addr := fabricEa s.fab.devNum ((m.parts.map (·.la)).headD 0) }) with
  | some f => s.reply h (.failrsp f)
  | none => match s.firstTile c (good.map (·.2)) with
    | some k => (s.meetTile c k).hold h (.atomreq m)
    | none =>
        if wait then s.hold h (.atomreq m)
        else match good.find? fun x => s.lineFails none x.2.loc (atomSize m.op) with
          | some (p, pl) => (match s.partFails pl (fabricEa s.fab.devNum p.la) with
              | .rebuild k => ((s.dropTile k).meetTile c k).hold h (.atomreq m)
              | .bad _ _ | .words _ | .bytes _ =>
                  s.reply h (.failrsp { code := Cause.check.code, lanes := maskOf ((good.filter fun x => s.lineFails none x.2.loc (atomSize m.op)).map (·.1.lane)), addr := fabricEa s.fab.devNum p.la }))
          | none =>
              let (vals, s) := s.atomParts c m.op good
              s.reply h (.atomrsp vals)

/-- RDREQ (R453): also a read of a host that waits for a tile (port 18). -/
def execRdreq (h : FlitHdr) (m : RdReq) (s : State) : Host.Outcome State Fault Refusal :=
  if h.port = 18 then (if s.fab.held.contains (h, .rdreq m) then .next (s.serveRead h m) else .refused .notEnabled) else flitInstr s h (.rdreq m) fun s => s.serveRead h m
/-- WR (R453): also a write of a host that waits for a tile (port 18). -/
def execWr (h : FlitHdr) (m : WrReq) (s : State) : Host.Outcome State Fault Refusal :=
  if h.port = 18 then (if s.fab.held.contains (h, .wr m) then .next (s.serveWrite h m) else .refused .notEnabled) else flitInstr s h (.wr m) fun s => s.serveWrite h m
/-- ATOMREQ (R454). -/
def execAtomreq (h : FlitHdr) (m : AtomReqMsg) (s : State) : Host.Outcome State Fault Refusal := flitInstr s h (.atomreq m) fun s => s.serveAtomic h m

/-! ## Answers (R453 to R455) -/

/-- The scoreboard entry of a group that awaits a tag. -/
def Group.entryFor (g : Group) (tag : Nat) : Option SbEntry := g.sb.find? fun e => match e.kind with
  | .remote ts _ => ts.contains tag
  | .answer t => t == tag
  | .ready => false
  | .held _ => false
  | .stat => false
  | .later => false
/-- An entry that one answer has reached: it is ready once every answer has come and no lane here is open. -/
def SbEntry.arrived (e : SbEntry) (now tag : Nat) (vals : List (Nat × List Word)) : SbEntry :=
  match e.kind with
  | .remote ts w =>
      let left := ts.filter (· != tag)
      { e with vals := e.vals ++ wordWrites (e.regs.headD 0) vals, due := max e.due now,
               kind := if !left.isEmpty then .remote left w else if e.open then .held w else .ready }
  | .answer _ => { e with vals := e.vals ++ wordWrites (e.regs.headD 0) vals, due := max e.due now, kind := .ready }
  | .ready => e
  | .held _ => e
  | .stat => e
  | .later => e
/-- An answer for a group: it completes a scoreboarded result, or it is kept for the instruction that waits for it. -/
def State.groupAnswer (s : State) (gid tag : Nat) (a : Answer) : State :=
  match s.group? gid with
  | none => s
  | some g =>
      if g.ended then s
      else match g.entryFor tag with
        | none => s.setGroup gid { g with answers := g.answers ++ [(tag, a)] }
        | some e =>
            let vals := match a with
              | .data vs _ => vs
              | .word w => (g.list e.lanes).map fun i => (i, [w])
              | .fail _ => []
            let traps := match a with
              | .fail m => deferredOf e.id e.kind.word e.regs ((g.list (m.lanes &&& e.lanes)).map fun i => (i, causeOfCode m.code, causeEa (causeOfCode m.code) ((lookup e.asked i).getD m.addr)))
              | .data _ _ => []
              | .word _ => []
            (s.setGroup gid { g with sb := g.sb.map fun x => if x.id == e.id then x.arrived s.cycle tag vals else x }).deferAll gid traps
/-- A request for arrivals at buckets that has been answered stays outstanding while collectives that it posted have not ended (R318): they count as writes of the launch. The ends of some may have been told before the answer came, which has no order with them (R451). -/
def State.keepPosted (s : State) (tag : Nat) (r : Req) (acks : Nat) (a : Answer) : State :=
  match a with
  | .data _ [n] => if n.toNat ≤ acks then s else { s with fab := { s.fab with reqs := put s.fab.reqs tag { r with owner := .posted (n.toNat - acks) } } }
  | .data _ _ => s
  | .fail _ => s
  | .word _ => s
/-- The failure code of an answer: 0 for none. -/
def Answer.code (a : Answer) : Word :=
  match a with
  | .fail m => BitVec.ofNat 32 m.code
  | .data _ _ => 0
  | .word _ => 0
/-- Has a request been answered, so that it waits only for collectives that it posted (R318)? -/
def ReqOwner.answered (o : ReqOwner) : Bool := match o with
  | .posted _ => true
  | .group _ | .bucket _ _ | .copy _ | .store _ | .signal _ | .grant _ _ | .command _ | .none => false
/-- Have the 200 ms of a request run out without an answer (R455)? -/
def State.requestOver (s : State) (r : Req) : Bool := !r.owner.answered && decide (r.sentAt + Config.requestTimeoutNs ≤ s.timebase)
/-- The request open under a tag that may still be answered: no lane receives data for one whose 200 ms have run out (R455). -/
def State.openReq (s : State) (tag : Nat) : Option Req := (lookup s.fab.reqs tag).filter fun r => !s.requestOver r
/-- An answer reaches whoever awaits its tag; one that nothing awaits is dropped. -/
def State.answerFor (s : State) (tag : Nat) (a : Answer) : State :=
  match s.openReq tag with
  | none => s
  | some r =>
      let s := s.answered tag
      match r.owner with
      | .group gid => s.groupAnswer gid tag a
      | .bucket gid acks => (s.groupAnswer gid tag a).keepPosted tag r acks a
      | .command id => (match s.cmd? id with
          | some x => s.setCmd id { x with inbuf := x.inbuf ++ [a.code] }
          | none => s)
      | .posted _ => s
      | .copy id => (match s.copy? id with
          | some x => s.setCopy id { x with answers := x.answers ++ [(tag, a)] }
          | none => s)
      | .grant gid root =>
          if ((s.group? gid).map (·.ended)).getD true then (match a with
            | .word w => if w = 0 then s else s.giveBack r.launch (some root) (2 ^ 32)
            | .fail _ => s
            | .data _ _ => s)
          else s.groupAnswer gid tag a
      | .store _ => s
      | .signal _ => s
      | .none => s
/-- The lanes whose values lie in a damaged line of an answer's payload, where the lanes' words follow one another from an offset (DESIGN CHOICE, log entry 35). -/
def badLanes (badLines : Nat) : Nat → List (Nat × List Word) → List Nat
  | _, [] => []
  | o, v :: r => (if payloadBad badLines o (4 * v.2.length) then [v.1] else []) ++ badLanes badLines (o + 4 * v.2.length) r
/-- An answer whose payload has lines that fail their check values (R400, R401, R448): of a group's access, the lanes whose data lies there fail with CHECK and the others have theirs; any other consumer's fails as a whole. -/
def State.answerChecked (s : State) (h : FlitHdr) (vals : List (Nat × List Word)) (bytes : List Byte) : State :=
  let bad := badLanes h.badLines 0 vals
  let fail (m : LaneMask) : Answer := .fail { code := Cause.check.code, lanes := m, addr := 0 }
  if h.badLines = 0 then s.answerFor h.tag (.data vals bytes)
  else match (s.openReq h.tag).map Req.owner with
    | some (.group gid) | some (.bucket gid _) =>
        if vals.isEmpty || bad.isEmpty then s.answerFor h.tag (.data vals bytes)
        else
          let t := match (s.group? gid).bind fun g => (g.entryFor h.tag).map fun e => (g, e) with
            | some (g, e) => s.deferAll gid (deferredOf e.id e.kind.word e.regs ((g.list (maskOf bad &&& e.lanes)).map fun i => (i, .check, (lookup e.asked i).getD 0)))
            | none => s.groupAnswer gid h.tag (fail (maskOf bad))
          t.answerFor h.tag (.data (vals.filter fun v => !bad.contains v.1) bytes)
    | some (.copy _) | some (.store _) | some (.signal _) | some (.grant _ _) | some (.posted _) | some (.command _) | some .none => s.answerFor h.tag (fail (fullMask 64))
    | none => s
/-- RDRSP (R453). -/
def execRdrsp (h : FlitHdr) (vals : List (Nat × List Word)) (bytes : List Byte) (s : State) : Host.Outcome State Fault Refusal :=
  flitInstr s h (.rdrsp vals bytes) fun s => s.answerChecked h vals bytes
/-- WRACK (R453). -/
def execWrack (h : FlitHdr) (s : State) : Host.Outcome State Fault Refusal := flitInstr s h .wrack fun s => s.answerFor h.tag (.data [] [])
/-- ATOMRSP (R454). -/
def execAtomrsp (h : FlitHdr) (vals : List (Nat × List Word)) (s : State) : Host.Outcome State Fault Refusal :=
  flitInstr s h (.atomrsp vals) fun s => s.answerChecked h vals []
/-- FAILRSP (R454). -/
def execFailrsp (h : FlitHdr) (m : FailMsg) (s : State) : Host.Outcome State Fault Refusal := flitInstr s h (.failrsp m) fun s => s.answerFor h.tag (.fail m)

/-- A request given up: its launch ends with DEVICE_LOST, and a copy that awaits it fails (R455). -/
def State.dropRequest (s : State) (tag : Nat) (r : Req) : State :=
  let s := (s.answered tag).requestKill r.launch .deviceLost
  match r.owner with
  | .copy id => (match s.copy? id with
      | some x => s.setCopy id { x with answers := x.answers ++ [(tag, .fail { code := Cause.pageFault.code, lanes := fullMask 64, addr := 0 })] }
      | none => s)
  | .command id => (match s.cmd? id with
      | some x => s.setCmd id { x with inbuf := x.inbuf ++ [BitVec.ofNat 32 Cause.deviceLost.code] }
      | none => s)
  | .posted _ => s
  | .group _ => s
  | .bucket _ _ => s
  | .grant _ _ => s
  | .store _ => s
  | .signal _ => s
  | .none => s
/-- REQUEST_TIMEOUT (R455). -/
def execRequestTimeout (tag : Nat) (s : State) : Host.Outcome State Fault Refusal :=
  match lookup s.fab.reqs tag with
  | none => .refused .notEnabled
  | some r => if s.requestOver r then .next (s.dropRequest tag r) else .refused .notEnabled

/-! ## Invocations, claims, signals, collectives -/

/-- INVOKE (R155, R408). One that arrived damaged launches nothing: its claim breaks with CHECK (R401, R448). (DESIGN CHOICE: log entry 45.) -/
def execInvoke (h : FlitHdr) (m : InvokeMsg) (s : State) : Host.Outcome State Fault Refusal :=
  flitInstr s h (.invoke m) fun s => if h.badLines = 0 then s.invokeArrives m else s.refuseInvoke m Cause.check.code 0
/-- A message that acts by its fields alone is not acted on when it arrived damaged: its sender learns of it by R455 (R401, R448). (DESIGN CHOICE: log entry 45.) -/
def ifSound (h : FlitHdr) (act : State → State) (s : State) : State := if h.badLines = 0 then act s else s

/-- The acknowledgement of a signal that its sender counts (R45). -/
def State.ackSignal (s : State) (h : FlitHdr) : State := s.sendMsg h.src h.tag (.signal (.ack 0))
/-- CLAIMMSG (R458). Weight is acknowledged when it reaches the home. -/
def execClaimmsg (h : FlitHdr) (m : ClaimMsgData) (s : State) : Host.Outcome State Fault Refusal :=
  flitInstr s h (.claimmsg m) <| ifSound h fun s =>
    let s := match m.body with
      | .weight _ _ => s.ackSignal h
      | .invoke _ => s
      | .status _ _ _ => s
    s.claimArrives m.claim m.body

/-- Does a group wait on a claim under a tag? -/
def Group.awaitsClaim (g : Group) (tag : Nat) : Bool := g.waits.any fun w => w.kind.claimTag == some (some tag)
/-- The status of a claim of another device has come: for a group that awaits it, for a g.hstat, or for a gate (R157, R316). -/
def State.statusAnswer (s : State) (tag : Nat) (w : Word) : State :=
  match s.groups.find? fun g => !g.2.ended && g.2.awaitsClaim tag with
  | some (gid, g) => s.setGroup gid { g with answers := g.answers ++ [(tag, .word w)] }
  | none => match s.eng.cmds.find? fun c => c.2.gate == .waiting (some tag) with
    | some (id, c) => s.setCmd id { c with inbuf := [w] }
    | none => s.answerFor tag (.word w)
/-- CLAIMRES (R155 to R159, R458). -/
def execClaimres (h : FlitHdr) (m : ClaimResData) (s : State) : Host.Outcome State Fault Refusal :=
  flitInstr s h (.claimres m) <| ifSound h fun s => match m with
    | .sent c d => s.sendClaim c d
    | .started c d => s.startClaim c d
    | .expired _ la => s.releaseBlock (blockOf la)
    | .resolved c d la lifetime => s.resolveClaim c d la lifetime
    | .broken c cause depth => s.breakClaim c cause depth
    | .answer tag w => s.statusAnswer tag w

/-- SIGNAL (R46, R47, R158 to R160). -/
def execSignal (h : FlitHdr) (m : SignalData) (s : State) : Host.Outcome State Fault Refusal :=
  flitInstr s h (.signal m) <| ifSound h fun s => match m with
    | .giveBack root amount => (s.rootTakes root amount).ackSignal h
    | .borrow root d tag => (match s.rootLends root with
        | some t => t.sendMsg d tag (.signal (.grant tag true))
        | none => s.sendMsg d tag (.signal (.grant tag false)))
    | .grant tag ok => s.answerFor tag (.word (if ok then 1 else 0))
    | .toLaunch c amount root => s.weightArrives c amount root
    | .ack _ => (match s.openReq h.tag with
        | some r => (match r.owner with
            | .posted n => if n ≤ 1 then s.answered h.tag else { s with fab := { s.fab with reqs := put s.fab.reqs h.tag { r with owner := .posted (n - 1) } } }
            | .bucket gid acks => { s with fab := { s.fab with reqs := put s.fab.reqs h.tag { r with owner := .bucket gid (acks + 1) } } }
            | .group _ | .copy _ | .store _ | .signal _ | .grant _ _ | .command _ | .none => s.answered h.tag)
        | none => s)

/-- The COLLID of a collective's message. -/
def CollMsg.id (m : CollData) : DWord := match m with
  | .post k _ _ _ => k
  | .gate k _ _ _ _ => k
  | .up k _ _ _ _ => k
  | .down k _ _ => k
  | .verdict k _ _ => k
  | .withdraw k => k
/-- COLL (R461). Data whose line fails its check value ends the collective with CHECK at every participant (R401). -/
def execColl (h : FlitHdr) (m : CollData) (s : State) : Host.Outcome State Fault Refusal :=
  flitInstr s h (.coll m) fun s =>
    if h.badLines = 0 then s.collArrives m
    else match s.collBlock (CollMsg.id m) with
      | none => s
      | some b => (s.collArrives (.verdict (CollMsg.id m) s.fab.devNum EngStatus.check.code)).tellAll (participants b) (.verdict (CollMsg.id m) s.fab.devNum EngStatus.check.code)

/-- A message acted on as the instruction of its row. -/
noncomputable def FlitMsg.instr (h : FlitHdr) (m : FlitMsg) : Instr :=
  match m with
  | .rdreq m => .rdreq h m
  | .rdrsp v b => .rdrsp h v b
  | .wr m => .wr h m
  | .wrack => .wrack h
  | .atomreq m => .atomreq h m
  | .atomrsp v => .atomrsp h v
  | .failrsp m => .failrsp h m
  | .invoke m => .invoke h m
  | .claimmsg m => .claimmsg h m
  | .claimres m => .claimres h m
  | .signal m => .signal h m
  | .coll m => .coll h m
  | .mgmt b => .mgmt h b

end Sys2Proof.Machine
end

