-- ==== Sys2Proof/Machine/Changes.lean ====
section
/-! DEFINITION. Host requests: their order and replies (R464 to R468), the epoch rule (R339, R340), and the requests that change the memory: MAP, UNMAP, CHANGE, FREE, MIGRATE, DROP, ASID, DECAYTAB (R53, R340, R341, R355, R385 to R389). -/
namespace Sys2Proof.Machine

/-! ## Requests and replies (R464 to R468) -/

/-- A reply as a session keeps it: TYPE + 0x80, STATUS, payload. -/
def replyBytes (type status : Nat) (payload : List Byte) : List Byte := bytesOfNat 1 (type + 128) ++ bytesOfNat 2 status ++ payload
/-- A reply as it leaves. -/
def replyOut (session seq : Nat) (bs : List Byte) : Out := .reply session seq (fieldAt bs 0 1) (fieldAt bs 1 2) (bs.drop 3)
/-- A reply sent, and kept among the session's last 256 (R466). -/
def State.sendReply (s : State) (session seq : Nat) (bs : List Byte) : State :=
  match lookup s.host.sessions session with
  | none => s
  | some x =>
      let kept := x.replies ++ [(seq, bs)]
      { s with host := { s.host with sessions := put s.host.sessions session { x with replies := kept.drop (kept.length - 256) } }, outbox := s.outbox ++ [replyOut session seq bs] }

/-- What a request comes to: a reply at once, or one that waits on a change. -/
inductive Reply where
  | now (status : Nat) (payload : List Byte)
  | later
  deriving DecidableEq, Repr

/-- Is a type of request answered in the present boot state (R470)? -/
def Boot.answers (b : Boot) (type : Nat) : Bool :=
  match b.st with
  | .running => true
  | .failed => type == 1 || type == 3
  | .held => false
  | .verifying => false

/-- A request of a session (R465, R466): one with a kept reply receives it again, one that waits on a change goes on waiting, one below the numbers already taken is discarded, and any other is executed once. (DEDUCED: log entries 22, 23.) -/
def hcp (h : HcpHdr) (type : Nat) (s : State) (act : State → Reply × State) : Host.Outcome State Fault Refusal :=
  match lookup s.host.sessions h.session with
  | none => .next s
  | some x =>
      if !s.host.boot.answers type then .next s
      else match lookup x.replies h.seq with
        | some bs => .next { s with outbox := s.outbox ++ [replyOut h.session h.seq bs] }
        | none =>
            if h.seq < x.lastSeq then .next s
            else
              let s := { s with host := { s.host with sessions := put s.host.sessions h.session { x with lastSeq := h.seq + 1 } } }
              match act s with
              | (.now status payload, t) => .next (t.sendReply h.session h.seq (replyBytes type status payload))
              | (.later, t) => .next t

/-- A request refused: it changes nothing. (DEDUCED: log entry 22.) -/
def refuse (status : Nat) (s : State) : Reply × State := (.now status [], s)
/-- A request answered OK with no payload. -/
def done (s : State) : Reply × State := (.now 0 [], s)

/-! ## The epoch rule (R339, R340) -/

/-- The tags of the accesses in flight (R339). A group that has been swapped out holds none but its staged ones, which are applied where they were checked (R344). -/
def State.tagsInFlight (s : State) : List Nat :=
  (s.groups.flatMap fun x =>
      if x.2.ended || ((s.gangOf x.2).map (·.st)) != some .resident then []
      else (x.2.sb.filter fun e => e.op != .nothing).map (·.epoch) ++ x.2.waits.filterMap (·.kind.pushTag) ++ x.2.waits.filterMap (·.kind.popTag) ++ x.2.waits.filterMap (·.kind.tileTag))
    ++ s.mem.storeQ.map (·.epoch) ++ s.eng.copies.map (·.2.epoch) ++ s.eng.cmds.map (·.2.epoch) ++ s.eng.pushes.map (·.epoch)
    ++ (s.eng.staged.filterMap fun x => match x.op with
      | .write st => some st.epoch
      | .atom id => ((s.group? x.gid).bind fun g => g.sb.find? (·.id == id)).map (·.epoch)
      | .remote _ _ => none
      | .send _ _ _ => none)
    ++ (s.eng.lates.filterMap fun x => match x.act with
      | .bucket _ _ _ => some x.epoch
      | .arrive _ _ => none
      | .put _ _ _ => none)
    ++ s.dev.sweeps.map (·.2.epoch)
/-- Has every access tagged e or less completed (R340)? -/
def State.reached (s : State) (e : Nat) : Bool := s.tagsInFlight.all fun t => decide (e < t)
/-- QDONE (R339): the tag before the oldest in flight; with none in flight the last that no access will bear any more, the one before QEPOCH. (DEDUCED: log entry 24.) -/
def State.qdoneNow (s : State) : Nat :=
  match s.tagsInFlight with
  | [] => s.dev.qepoch - 1
  | t :: ts => ts.foldl min t - 1
/-- QDONE brought up to date. (DEDUCED: log entry 24.) -/
def State.countDone (s : State) : State := { s with dev := { s.dev with qdone := max s.dev.qdone s.qdoneNow } }

/-- The pages of an address space that a range touches. -/
def State.pagesIn (s : State) (asid la len : Nat) : List Page :=
  s.mem.pages.filter fun p => p.asid == asid && decide (p.la < la + len) && decide (la < p.la + p.size)
/-- Does a page lie wholly in a range? -/
def Page.inside (p : Page) (la len : Nat) : Bool := decide (la ≤ p.la) && decide (p.la + p.size ≤ la + len)
/-- Does a byte of a frame lie in one of some pages? -/
def inFrames (ps : List Page) (pa : Nat) : Bool := ps.any fun p => decide (p.pa ≤ pa) && decide (pa < p.pa + p.size)
/-- The dirty bytes of some frames written back from every L1 (R330): an eviction. -/
def State.evictFrames (s : State) (ps : List Page) : State :=
  s.mem.l1dirty.foldl (fun (s : State) c =>
    let (out, rest) := c.2.partition fun x => inFrames ps x.1
    let t := s.bringHome c.1 out
    { t with mem := { t.mem with l1dirty := put t.mem.l1dirty c.1 rest } }) s
/-- A change (R340): the pages it concerns leave the caches, it takes the present epoch, and later accesses are tagged above it. -/
def State.change (s : State) (kind : ChangeKind) (old : List Page) (reply : Option (Nat × Nat × List Byte)) : State :=
  let s := s.evictFrames old
  { s with dev := { s.dev with qepoch := s.dev.qepoch + 1, changes := s.dev.changes ++ [{ epoch := s.dev.qepoch, kind := kind, old := old, reply := reply }] } }

/-- CHANGE_DEPENDENT_ACTION (R340, R341): the oldest change whose epoch QDONE has reached: its range leaves the quarantine, its forwarding ends, its reply is sent. -/
def execChangeDependentAction (s : State) : Host.Outcome State Fault Refusal :=
  match s.dev.changes with
  | [] => .refused .notEnabled
  | c :: r =>
      if !s.reached c.epoch then .refused .notEnabled
      else
        let s := { s with dev := { s.dev with changes := r, quarantine := s.dev.quarantine.filter fun q => q.1 != c.epoch } }
        let s := match c.kind with
          | .migrate _ _ _ _ => { s with mem := { s.mem with l1dirty := s.mem.l1dirty.map fun (x : Nat × List Host.Cell) => (x.1, x.2.filter fun y => !inFrames c.old y.1) } }
          | .unmap _ _ _ => s
          | .attrs _ _ _ => s
          | .image _ => s
          | .decay _ => s
        let s := s.countDone
        .next (match c.reply with
          | none => s
          | some (session, seq, bs) => s.sendReply session seq bs)

/-! ## Mapping (R384 to R389) -/

/-- The rules of an attribute word (R385, R386). -/
def attrOk (a : Word) : Bool :=
  decide (a.toNat < 2 ^ 16) && decide (attrFmt a ≤ 10) && attrGeom a != 3 && attrCoh a != 3 && (attrAged a || attrDomain a == 0)
    && ((attrFmt a == 9) == (attrGeom a != 0)) && (attrAged a == (attrFmt a == 10)) && (!attrAged a || attrCoh a == 2)
    && !(attrAged a && attrRcp a) && !(a.getLsbD 14 && attrRcp a)
/-- The sizes of a page (R384). -/
def pageSize (n : Nat) : Bool := n == 2 ^ 16 || n == 2 ^ 21 || n == 2 ^ 30
/-- Tiles that are mapped anew (R389): VALID, with no record and no pins; a build under way of the page that stood there has nothing to build. -/
def State.freshTiles (s : State) (asid la len : Nat) : State :=
  { s with mem := { s.mem with tiles := s.mem.tiles.filter fun t => !(keyAsid t.1 == asid && decide (la ≤ keyLa t.1) && decide (keyLa t.1 < la + len)) } }
/-- The pages of a range, of one size. -/
def newPages (asid la len pa size : Nat) (attr : Word) : List Page :=
  (List.range (len / size)).map fun i => { asid := asid, la := la + size * i, size := size, pa := pa + size * i, attr := attr }
/-- May a range be mapped (R386), from frames below what the device reserves (R383)? (DEDUCED: log entry 10.) -/
def State.mapOk (s : State) (asid la len pa size : Nat) (attr : Word) : Bool :=
  attrOk attr && pageSize size && decide (asid < 2 ^ 14) && decide (0 < len) && len % size == 0 && la % size == 0 && pa % size == 0 && decide (la + len ≤ 2 ^ 46) && decide (pa + len ≤ Config.reservedBase)
    && (s.pagesIn asid la len).isEmpty
/-- MAP (R384 to R386, R389). -/
def execMap (h : HcpHdr) (asid la len pa size : Nat) (attr : Word) (s : State) : Host.Outcome State Fault Refusal :=
  hcp h 0x10 s fun s =>
    if !s.mapOk asid la len pa size attr then refuse 32 s
    else
      let t := { s with mem := { s.mem with pages := s.mem.pages ++ newPages asid la len pa size attr } }
      done (if attrRcp attr then t.freshTiles asid la len else t)

/-- A sweep without the pieces of a range: it does not visit a page after that page is unmapped (R396). (DEDUCED: log entry 51.) -/
def Sweep.without (w : Sweep) (asid la len : Nat) : Sweep :=
  let left := w.pieces.filter fun x => !(x.1 == asid && decide (la ≤ x.2) && decide (x.2 < la + len))
  { w with pieces := left, at_ := if left.head? = w.pieces.head? then w.at_ else 0 }
/-- Pages unmapped. -/
def State.unmapIn (s : State) (asid la len : Nat) : State :=
  { s with mem := { s.mem with pages := s.mem.pages.filter fun p => !(p.asid == asid && p.inside la len) }
           dev := { s.dev with sweeps := s.dev.sweeps.map fun w => (w.1, w.2.without asid la len) } }
/-- UNMAP (R340, R386): its reply waits for the change. -/
def execUnmap (h : HcpHdr) (asid la len : Nat) (s : State) : Host.Outcome State Fault Refusal :=
  hcp h 0x11 s fun s =>
    let old := s.pagesIn asid la len
    if !(old.all fun p => p.inside la len) then refuse 32 s
    else (.later, (s.unmapIn asid la len).change (.unmap asid la len) old (some (h.session, h.seq, replyBytes 0x11 0 [])))
/-- CHANGE (R340, R385, R386): its reply waits for the change. A page that becomes RCP starts with fresh tiles. -/
def execChange (h : HcpHdr) (asid la len : Nat) (attr : Word) (s : State) : Host.Outcome State Fault Refusal :=
  hcp h 0x12 s fun s =>
    let old := s.pagesIn asid la len
    if !attrOk attr || !(old.all fun p => p.inside la len) then refuse 32 s
    else
      let t := { s with mem := { s.mem with pages := s.mem.pages.map fun (p : Page) => if p.asid = asid && p.inside la len then { p with attr := attr } else p } }
      let t := if attrRcp attr then (old.filter fun p => !attrRcp p.attr).foldl (fun t p => t.freshTiles asid p.la p.size) t else t
      (.later, t.change (.attrs asid la len) old (some (h.session, h.seq, replyBytes 0x12 0 [])))

/-- Is a group of an image bound or swapped out (R341, R467)? -/
def State.imageBusy (s : State) (img : Nat) : Bool :=
  s.gangs.any fun g => (g.2.st == .resident || g.2.st == .swapped) && ((s.launch? g.2.launch).map (·.kern.image)) == some img
/-- Does a range hold a pinned or BUILDING tile, or the text of an image in use (R341, R467)? -/
def State.rangeInUse (s : State) (asid la len : Nat) : Bool :=
  s.mem.tiles.any (fun t => keyAsid t.1 == asid && decide (la < keyLa t.1 + 16384) && decide (keyLa t.1 < la + len)
      && ((s.pageAt asid (keyLa t.1)).map fun p => attrRcp p.attr) == some true && (decide (0 < t.2.pins) || t.2.st == .building))
    || s.sched.images.any fun i => i.2.asid == asid && decide (la < i.2.base + i.2.textLen) && decide (i.2.base < la + len) && s.imageBusy i.1
/-- FREE (R340, R341, R467): the range is unmapped at once, and its frames stay in quarantine until QDONE reaches the epoch. -/
def execFree (h : HcpHdr) (asid la len : Nat) (s : State) : Host.Outcome State Fault Refusal :=
  hcp h 0x13 s fun s =>
    let old := s.pagesIn asid la len
    if !(old.all fun p => p.inside la len) then refuse 32 s
    else if s.rangeInUse asid la len then refuse 33 s
    else if Config.quarantineCap ≤ s.dev.quarantine.length then refuse 2 s
    else
      let e := s.dev.qepoch
      let t := (s.unmapIn asid la len).change (.unmap asid la len) old none
      done { t with dev := { t.dev with quarantine := t.dev.quarantine ++ [(e, old.map fun p => (p.pa, p.size))] } }

/-- The bytes of a frame copied to another, with a new check value for each line that passes its own (R400). (DEDUCED: log entry 25.) -/
def State.copyFrame (s : State) (old new size : Nat) : State :=
  let moved := (s.mem.hbm.filter fun c => decide (old ≤ c.1) && decide (c.1 < old + size)).map fun c => (new + (c.1 - old), c.2)
  let inNew (l : Nat) : Bool := decide (new ≤ 64 * l) && decide (64 * l < new + size)
  let checks := (s.mem.checks.filter fun l => decide (old ≤ 64 * l.1) && decide (64 * l.1 < old + size)).map fun l => ((new + (64 * l.1 - old)) / 64, l.2)
  { s with mem := { s.mem with
      hbm := moved.foldl (fun m c => cellPut m c.1 c.2) (cellsClear s.mem.hbm new size)
      checks := (s.mem.checks.filter fun l => !inNew l.1) ++ checks } }
/-- MIGRATE (R340, R385, R386): the page's bytes move to the new frame; stores with an older tag are copied forward until QDONE reaches the epoch. A pinned page is never migrated. (DEDUCED: log entry 25.) (DEDUCED: log entry 10.) -/
def execMigrate (h : HcpHdr) (asid la pa : Nat) (s : State) : Host.Outcome State Fault Refusal :=
  hcp h 0x14 s fun s =>
    match s.mem.pages.find? fun p => p.asid == asid && p.la == la with
    | none => refuse 32 s
    | some p =>
        if p.pin || pa % p.size ≠ 0 || Config.reservedBase < pa + p.size then refuse 32 s
        else
          let t := s.change (.migrate asid la p.pa pa) [p] none
          let t := t.copyFrame p.pa pa p.size
          done <| { t with mem := { t.mem with pages := t.mem.pages.map fun (q : Page) => if q = p then { q with pa := pa } else q } } |>.moveQueues p.pa pa p.size

/-- DROP (R389): a VALID tile with a record becomes DROPPED; one that is not VALID stays as it is. (DEDUCED: log entry 26.) -/
def execDrop (h : HcpHdr) (asid la : Nat) (s : State) : Host.Outcome State Fault Refusal :=
  hcp h 0x15 s fun s =>
    let k := tileKey asid la
    if ((s.pageAt asid la).map fun p => attrRcp p.attr) != some true || (s.tile k).record.isNone then refuse 32 s
    else done (s.dropTile k)

/-! ## Address spaces (R355, R384) -/

/-- Does an entry point lie in a page that is pinned and executable? -/
def State.pinnedCode (s : State) (asid : Nat) (pc : DWord) : Bool :=
  decide (pc.toNat < 2 ^ 46) && match s.pageAt asid pc.toNat with
    | none => false
    | some p => p.pin && !p.nx
/-- May a TRAPVEC be installed (R355): 0 always; else its form, and the pages of its handler entry and its emulation entry (R364)? -/
def State.trapvecOk (s : State) (asid : Nat) (v : DWord) : Bool :=
  v == 0 || ((pcFault v).isNone && s.pinnedCode asid v && s.pinnedCode asid (v - BitVec.ofNat 64 (v.toNat % 32) + 36))
/-- ASID (R355, R384). -/
def execAsid (h : HcpHdr) (asid : Nat) (trapvec : DWord) (s : State) : Host.Outcome State Fault Refusal :=
  hcp h 0x16 s fun s =>
    if 2 ^ 14 ≤ asid || !s.trapvecOk asid trapvec then refuse 32 s
    else done { s with dev := { s.dev with asids := (s.dev.asids.filter fun a => a.id != asid) ++ [{ id := asid, trapvec := trapvec }] } }

/-! ## Chunks and the decay tables (R53) -/

/-- A chunk taken into what has been received: the first starts anew, and each later one follows the one before it. (DEDUCED: log entry 27.) -/
def takeChunk (st : Option Staging) (asid base : Nat) (c : Chunk) : Option Staging :=
  if c.offset = 0 then some { asid := asid, base := base, data := c.data }
  else match st with
    | none => none
    | some x => if x.asid = asid ∧ x.base = base ∧ x.data.length = c.offset then some { x with data := x.data ++ c.data } else none

/-- DECAYTAB (R53, R340): the chunks are received, the last one writes the tables and switches to them. (DEDUCED: log entry 27.) -/
def execDecaytab (h : HcpHdr) (base : Nat) (c : Chunk) (s : State) : Host.Outcome State Fault Refusal :=
  hcp h 0x18 s fun s =>
    if base = 0 || base % 2 ^ 14 ≠ 0 || Config.reservedBase < base + 2 ^ 14 || 8192 < c.data.length then refuse 32 s
    else match takeChunk s.dev.decayStage 0 base c with
      | none => refuse 32 s
      | some x =>
          if 2 ^ 14 < x.data.length || (c.last && x.data.length != 2 ^ 14) then refuse 32 s
          else if !c.last then done { s with dev := { s.dev with decayStage := some x } }
          else
            let t := s.change (.decay s.decayWords) [] none
            let t := t.putPhys none false x.data base
            done { t with dev := { t.dev with decayBase := base, decayStage := none } }

end Sys2Proof.Machine
end

