-- ==== Sys2Proof/Machine/Hashes.lean ====
section
/-! DEFINITION. The check and digest functions that the spec names: CRC-32 (R447), SHA-256 with HMAC (R464), SHA-384 (R470, R472). -/
namespace Sys2Proof.Machine

/-- One byte into CRC-32 with polynomial 0x04C11DB7, bits reflected. -/
def crc32Byte (crc : BitVec 32) (b : Byte) : BitVec 32 :=
  (List.range 8).foldl (fun c _ => if c.getLsbD 0 then (c >>> 1) ^^^ 0xEDB88320#32 else c >>> 1) (crc ^^^ b.setWidth 32)
/-- CRC-32 of bytes in ascending order (R447), with the initial value, reflection and final XOR of IEEE 802.3. (PRESUMED: log entry 73.) -/
def crc32 (bs : List Byte) : BitVec 32 := ~~~(bs.foldl crc32Byte 0xFFFFFFFF#32)

/-! ## The SHA-2 family (FIPS 180-4) -/

/-- What distinguishes SHA-256 from SHA-384: the rotations of its four functions, the bytes of a block's length field, its round constants. -/
structure ShaForm (w : Nat) where
  big0 : BitVec w → BitVec w
  big1 : BitVec w → BitVec w
  small0 : BitVec w → BitVec w
  small1 : BitVec w → BitVec w
  lenBytes : Nat
  k : List (BitVec w)

/-- The round constants of SHA-256: the first 32 bits of the fractional parts of the cube roots of the first 64 primes. -/
def shaK32 : List (BitVec 32) :=
  [0x428A2F98, 0x71374491, 0xB5C0FBCF, 0xE9B5DBA5, 0x3956C25B, 0x59F111F1, 0x923F82A4, 0xAB1C5ED5]
  ++ [0xD807AA98, 0x12835B01, 0x243185BE, 0x550C7DC3, 0x72BE5D74, 0x80DEB1FE, 0x9BDC06A7, 0xC19BF174]
  ++ [0xE49B69C1, 0xEFBE4786, 0x0FC19DC6, 0x240CA1CC, 0x2DE92C6F, 0x4A7484AA, 0x5CB0A9DC, 0x76F988DA]
  ++ [0x983E5152, 0xA831C66D, 0xB00327C8, 0xBF597FC7, 0xC6E00BF3, 0xD5A79147, 0x06CA6351, 0x14292967]
  ++ [0x27B70A85, 0x2E1B2138, 0x4D2C6DFC, 0x53380D13, 0x650A7354, 0x766A0ABB, 0x81C2C92E, 0x92722C85]
  ++ [0xA2BFE8A1, 0xA81A664B, 0xC24B8B70, 0xC76C51A3, 0xD192E819, 0xD6990624, 0xF40E3585, 0x106AA070]
  ++ [0x19A4C116, 0x1E376C08, 0x2748774C, 0x34B0BCB5, 0x391C0CB3, 0x4ED8AA4A, 0x5B9CCA4F, 0x682E6FF3]
  ++ [0x748F82EE, 0x78A5636F, 0x84C87814, 0x8CC70208, 0x90BEFFFA, 0xA4506CEB, 0xBEF9A3F7, 0xC67178F2]
/-- The round constants of SHA-384: the first 64 bits of the fractional parts of the cube roots of the first 80 primes. -/
def shaK64 : List (BitVec 64) :=
  [0x428A2F98D728AE22, 0x7137449123EF65CD, 0xB5C0FBCFEC4D3B2F, 0xE9B5DBA58189DBBC, 0x3956C25BF348B538]
  ++ [0x59F111F1B605D019, 0x923F82A4AF194F9B, 0xAB1C5ED5DA6D8118, 0xD807AA98A3030242, 0x12835B0145706FBE]
  ++ [0x243185BE4EE4B28C, 0x550C7DC3D5FFB4E2, 0x72BE5D74F27B896F, 0x80DEB1FE3B1696B1, 0x9BDC06A725C71235]
  ++ [0xC19BF174CF692694, 0xE49B69C19EF14AD2, 0xEFBE4786384F25E3, 0x0FC19DC68B8CD5B5, 0x240CA1CC77AC9C65]
  ++ [0x2DE92C6F592B0275, 0x4A7484AA6EA6E483, 0x5CB0A9DCBD41FBD4, 0x76F988DA831153B5, 0x983E5152EE66DFAB]
  ++ [0xA831C66D2DB43210, 0xB00327C898FB213F, 0xBF597FC7BEEF0EE4, 0xC6E00BF33DA88FC2, 0xD5A79147930AA725]
  ++ [0x06CA6351E003826F, 0x142929670A0E6E70, 0x27B70A8546D22FFC, 0x2E1B21385C26C926, 0x4D2C6DFC5AC42AED]
  ++ [0x53380D139D95B3DF, 0x650A73548BAF63DE, 0x766A0ABB3C77B2A8, 0x81C2C92E47EDAEE6, 0x92722C851482353B]
  ++ [0xA2BFE8A14CF10364, 0xA81A664BBC423001, 0xC24B8B70D0F89791, 0xC76C51A30654BE30, 0xD192E819D6EF5218]
  ++ [0xD69906245565A910, 0xF40E35855771202A, 0x106AA07032BBD1B8, 0x19A4C116B8D2D0C8, 0x1E376C085141AB53]
  ++ [0x2748774CDF8EEB99, 0x34B0BCB5E19B48A8, 0x391C0CB3C5C95A63, 0x4ED8AA4AE3418ACB, 0x5B9CCA4F7763E373]
  ++ [0x682E6FF3D6B2B8A3, 0x748F82EE5DEFB2FC, 0x78A5636F43172F60, 0x84C87814A1F0AB72, 0x8CC702081A6439EC]
  ++ [0x90BEFFFA23631E28, 0xA4506CEBDE82BDE9, 0xBEF9A3F7B2C67915, 0xC67178F2E372532B, 0xCA273ECEEA26619C]
  ++ [0xD186B8C721C0C207, 0xEADA7DD6CDE0EB1E, 0xF57D4F7FEE6ED178, 0x06F067AA72176FBA, 0x0A637DC5A2C898A6]
  ++ [0x113F9804BEF90DAE, 0x1B710B35131C471B, 0x28DB77F523047D84, 0x32CAAB7B40C72493, 0x3C9EBE0A15C9BEBC]
  ++ [0x431D67C49C100D4C, 0x4CC5D4BECB3E42B6, 0x597F299CFC657E2A, 0x5FCB6FAB3AD6FAEC, 0x6C44198C4A475817]
/-- The initial value of SHA-256. -/
def shaH256 : List (BitVec 32) :=
  [0x6A09E667, 0xBB67AE85, 0x3C6EF372, 0xA54FF53A, 0x510E527F, 0x9B05688C, 0x1F83D9AB, 0x5BE0CD19]
/-- The initial value of SHA-384. -/
def shaH384 : List (BitVec 64) :=
  [0xCBBB9D5DC1059ED8, 0x629A292A367CD507, 0x9159015A3070DD17, 0x152FECD8F70E5939]
  ++ [0x67332667FFC00B31, 0x8EB44A8768581511, 0xDB0C2E0D64F98FA7, 0x47B5481DBEFA4FA4]

/-- SHA-256. -/
def form256 : ShaForm 32 :=
  { big0 := fun x => x.rotateRight 2 ^^^ x.rotateRight 13 ^^^ x.rotateRight 22, big1 := fun x => x.rotateRight 6 ^^^ x.rotateRight 11 ^^^ x.rotateRight 25,
    small0 := fun x => x.rotateRight 7 ^^^ x.rotateRight 18 ^^^ (x >>> 3), small1 := fun x => x.rotateRight 17 ^^^ x.rotateRight 19 ^^^ (x >>> 10), lenBytes := 8, k := shaK32 }
/-- SHA-384, a form of SHA-512. -/
def form384 : ShaForm 64 :=
  { big0 := fun x => x.rotateRight 28 ^^^ x.rotateRight 34 ^^^ x.rotateRight 39, big1 := fun x => x.rotateRight 14 ^^^ x.rotateRight 18 ^^^ x.rotateRight 41,
    small0 := fun x => x.rotateRight 1 ^^^ x.rotateRight 8 ^^^ (x >>> 7), small1 := fun x => x.rotateRight 19 ^^^ x.rotateRight 61 ^^^ (x >>> 6), lenBytes := 16, k := shaK64 }

/-- The message schedule, newest word first: n words more. -/
def shaSchedule {w : Nat} (f : ShaForm w) : Nat → List (BitVec w) → List (BitVec w)
  | 0, ws => ws
  | n + 1, ws => shaSchedule f n ((f.small1 (ws.getD 1 0) + ws.getD 6 0 + f.small0 (ws.getD 14 0) + ws.getD 15 0) :: ws)
/-- One round on the eight working words. -/
def shaRound {w : Nat} (f : ShaForm w) (v : List (BitVec w)) (kw : BitVec w) : List (BitVec w) :=
  let (a, b, c, d, e, g, h, i) := (v.getD 0 0, v.getD 1 0, v.getD 2 0, v.getD 3 0, v.getD 4 0, v.getD 5 0, v.getD 6 0, v.getD 7 0)
  let t1 := i + f.big1 e + ((e &&& g) ^^^ (~~~e &&& h)) + kw
  let t2 := f.big0 a + ((a &&& b) ^^^ (a &&& c) ^^^ (b &&& c))
  [t1 + t2, a, b, c, d + t1, e, g, h]
/-- One block into the hash value. -/
def shaBlock {w : Nat} (f : ShaForm w) (h ws : List (BitVec w)) : List (BitVec w) :=
  let sched := (shaSchedule f (f.k.length - 16) ws.reverse).reverse
  (h.zip ((f.k.zip sched).foldl (fun v x => shaRound f v (x.1 + x.2)) h)).map fun x => x.1 + x.2
/-- Big-endian words of bytes: n words of so many bytes. -/
def bigWords (w bytes : Nat) : Nat → List Byte → List (BitVec w)
  | 0, _ => []
  | n + 1, bs => BitVec.ofNat w (natOfBytes (bs.take bytes).reverse) :: bigWords w bytes n (bs.drop bytes)
/-- Blocks of 16 words into the hash value: n blocks. -/
def shaBlocks {w : Nat} (f : ShaForm w) : Nat → List (BitVec w) → List Byte → List (BitVec w)
  | 0, h, _ => h
  | n + 1, h, bs => shaBlocks f n (shaBlock f h (bigWords w (w / 8) 16 bs)) (bs.drop (2 * w))
/-- The digest of bytes from an initial value: the whole hash value, big-endian. -/
def shaDigest {w : Nat} (f : ShaForm w) (h0 : List (BitVec w)) (bs : List Byte) : List Byte :=
  let block := 2 * w
  let zeros := (2 * block - (bs.length + 1 + f.lenBytes) % block) % block
  let msg := bs ++ [0x80#8] ++ List.replicate zeros 0 ++ (bytesOfNat f.lenBytes (8 * bs.length)).reverse
  (shaBlocks f (msg.length / block) h0 msg).flatMap fun x => (bytesOfNat (w / 8) x.toNat).reverse
/-- SHA-256 (R464). -/
def sha256 (bs : List Byte) : List Byte := shaDigest form256 shaH256 bs
/-- SHA-384 (R470, R472). -/
def sha384 (bs : List Byte) : List Byte := (shaDigest form384 shaH384 bs).take 48
/-- HMAC-SHA-256 under a key of at most 64 bytes (R464, R465). -/
def hmacSha256 (key bs : List Byte) : List Byte :=
  let k := (key ++ List.replicate 64 0).take 64
  sha256 (k.map (· ^^^ 0x5C#8) ++ sha256 (k.map (· ^^^ 0x36#8) ++ bs))

end Sys2Proof.Machine
end

