-- ==== Sys2Proof/Machine/Images.lean ====
section
/-! DEFINITION. Kernel images: the loader's checks (R40, R121 to R124, R370), IMAGELOAD and IMAGEUNLOAD (R340, R407, R467). -/
namespace Sys2Proof.Machine

/-! ## What a word of code names and where it leads (R40, R96, R99) -/

/-- Where control goes after a word. -/
inductive Flow where
  | next
  | stop
  | jump (off : Int)
  | branch (off : Int)
  | call (off : Int)
  deriving DecidableEq, Repr

/-- What the loader sees in a word: the registers it names, where control goes, whether certification forbids it (R124), whether it makes its kernel an accumulator kernel (R370). -/
structure WordInfo where
  names : List Reg
  flow : Flow
  unordered : Bool
  accumulates : Bool
  deriving DecidableEq, Repr

/-- A word that decodes to no instruction: it names nothing, and what follows it may be reached once it has been emulated (R364). (DESIGN CHOICE: log entry 18.) (DEDUCED: log entry 112.) -/
def WordInfo.blank : WordInfo := { names := [], flow := .next, unordered := false, accumulates := false }
/-- Does a word decode in a group of a width, with its fields keeping their shapes (R98)? -/
def decodes (width : Nat) (x : Except Reject Instr) : Bool := match x with
  | .ok i => i.wellFormed && (uses width i).shapeOk
  | .error _ => false
/-- The registers of a word that decodes. -/
def namesOf (width : Nat) (x : Except Reject Instr) : List Reg :=
  match x with
  | .ok i => if decodes width x then (uses width i).named else []
  | .error _ => []
/-- A word of class LA. -/
def infoLA (width : Nat) (f : LAFields) : WordInfo :=
  let x := decodeLA f
  { WordInfo.blank with names := namesOf width x, flow := if decodes width x && (f.op == 55 || f.op == 57) then .stop else .next }
/-- A word of class LM: atom.u, fatom.u, cp.mcast.u and qpush.u; the mm commands but mm.amax. -/
def infoLM (width : Nat) (f : LMFields) : WordInfo :=
  let x := decodeLM f
  { WordInfo.blank with names := namesOf width x, unordered := decodes width x && [6, 8, 10, 15, 19].contains f.op, accumulates := decodes width x && f.op == 24 && f.f.toNat != 128 }
/-- A word of class LI. -/
def infoLI (width : Nat) (f : LIFields) : WordInfo :=
  { WordInfo.blank with names := namesOf width (decodeLI f), flow := if f.op == 8 || f.op == 9 then .branch f.f.toInt else .next }

/-- The shape of a register field (R98): it names nothing, one register, a pair, or a pair for groups of 64 lanes. -/
inductive FieldShape where
  | none | one | pair | wide
  deriving DecidableEq, Repr
/-- Does a field keep its shape (R98)? -/
def FieldShape.keeps (x : FieldShape) (width : Nat) (r : Reg) : Bool :=
  match x with
  | .none => r.val == 0
  | .one => true
  | .pair => r.val % 2 == 0
  | .wide => width != 64 || r.val % 2 == 0
/-- The fields a word of class UA uses (R111 to R113): how many values SUB takes, and the shapes of VD, VA and VB. -/
def uaFields (op : Nat) : Option (Nat × FieldShape × FieldShape × FieldShape) :=
  match op with
  | 0 | 17 | 18 | 21 | 40 => some (1, .none, .none, .none)
  | 1 => some (1, .one, .one, .none)
  | 2 | 3 | 4 | 6 | 7 | 8 | 9 | 10 | 11 | 13 => some (1, .one, .one, .one)
  | 5 | 14 | 15 => some (2, .one, .one, .one)
  | 12 => some (10, .one, .one, .one)
  | 16 => some (1, .none, .pair, .none)
  | 19 => some (1, .none, .wide, .none)
  | 48 | 49 | 50 | 53 => some (1, .none, .one, .none)
  | 20 | 52 => some (1, .one, .none, .none)
  | 22 => some (2, .pair, .none, .none)
  | 32 | 33 | 38 => some (1, .one, .pair, .none)
  | 34 => some (1, .one, .pair, .pair)
  | 35 => some (1, .pair, .pair, .none)
  | 36 => some (1, .pair, .pair, .pair)
  | 37 => some (2, .one, .pair, .none)
  | 39 => some (1, .none, .pair, .pair)
  | 51 => some (8, .none, .none, .none)
  | 54 | 55 | 56 => some (7, .none, .none, .none)
  | 64 => some (16, .none, .one, .none)
  | 65 => some (16, .pair, .none, .none)
  | 67 => some (16, .one, .none, .none)
  | 66 => some (16, .none, .none, .none)
  | _ => none
/-- The registers that fields name; none when a field breaks its shape (R98). A pair counts by its first register: its other lies below the same budget (R40). -/
def fieldNames (width : Nat) (fs : List (FieldShape × Reg)) : Option (List Reg) :=
  if fs.all fun x => x.1.keeps width x.2 then some ((fs.filter fun x => x.1 != .none).map (·.2)) else none
/-- A word of class UA: g.clock.u. (DEDUCED: log entry 112.) -/
def infoUA (width : Nat) (f : UAFields) : WordInfo :=
  match uaFields f.op with
  | none => .blank
  | some (n, d, a, b) =>
      if n ≤ f.s.val then .blank
      else match fieldNames width [(d, f.d), (a, f.a), (b, f.b)] with
        | none => .blank
        | some rs => { WordInfo.blank with names := rs, flow := if f.op == 16 || f.op == 18 || f.op == 21 then .stop else .next, unordered := f.op == 22 && f.s.val == 1 }
/-- A word of class UB. -/
def infoUB (f : UBFields) : WordInfo :=
  match f.op with
  | 0 => if f.a.val = 0 then { WordInfo.blank with flow := .jump f.f.toInt } else .blank
  | 1 | 2 | 4 => { WordInfo.blank with names := [f.a], flow := .branch f.f.toInt }
  | 3 => if FieldShape.pair.keeps 0 f.a then { WordInfo.blank with names := [f.a], flow := .call f.f.toInt } else .blank
  | _ => .blank
/-- A word of class UI: the CSR writes that name SCHK. -/
def infoUI (f : UIFields) : WordInfo :=
  let used (d a : FieldShape) : WordInfo := { WordInfo.blank with names := (fieldNames 0 [(d, f.d), (a, f.a)]).getD [] }
  match f.op with
  | 0 | 6 | 11 => used .one .none
  | 1 | 2 | 3 | 4 | 5 => used .one .one
  | 7 | 8 | 9 => { used .none .one with unordered := f.d.val == 0 && f.i.toNat == 0x12 }
  | _ => .blank
/-- What the loader sees in a word of a kernel of a width. -/
def wordInfo (width : Nat) (w : Word) : WordInfo :=
  let n := w.toNat
  if n = 0 then .blank
  else match n / 536870912 % 8 with
    | 0 | 1 => infoLA width (fieldsLA n)
    | 2 => infoLM width (fieldsLM n)
    | 3 => infoLI width (fieldsLI n)
    | 4 | 5 => infoUA width (fieldsUA n)
    | 6 => infoUB (fieldsUB n)
    | _ => infoUI (fieldsUI n)

/-! ## Functions and the call closure (R40) -/

/-- The text of an image, as words. -/
structure Code where
  words : List Word
  callees : List (Nat × Nat)
  deriving DecidableEq, Repr

/-- Is an offset that of an instruction word? -/
def Code.holds (c : Code) (o : Int) : Bool := decide (0 ≤ o) && decide (o < 4 * c.words.length) && o % 4 == 0 && o % 32 != 0
/-- The word at an offset. -/
def Code.word (c : Code) (o : Nat) : Word := c.words.getD (o / 4) 0
/-- The offset of the sequential successor (R88). -/
def nextOffset (o : Nat) : Nat := if o % 32 = 28 then o + 8 else o + 4
/-- The offsets of a function's words, and those its encoded calls name, from those still to be followed. -/
def Code.walk (c : Code) (width : Nat) : Nat → List Int → List Nat → List Int → List Nat × List Int
  | 0, _, seen, calls => (seen, calls)
  | _ + 1, [], seen, calls => (seen, calls)
  | n + 1, o :: todo, seen, calls =>
      if !c.holds o || seen.contains o.toNat then c.walk width n todo seen calls
      else
        let k := o.toNat
        let seen := k :: seen
        match (wordInfo width (c.word k)).flow with
        | .next => c.walk width n (nextOffset k :: todo) seen calls
        | .stop => c.walk width n todo seen calls
        | .jump d => c.walk width n ((o + 4 * d) :: todo) seen calls
        | .branch d => c.walk width n ((o + 4 * d) :: (nextOffset k : Int) :: todo) seen calls
        | .call d => c.walk width n (nextOffset k :: todo) seen ((o + 4 * d) :: calls)
/-- A function by its entry. -/
def Code.function (c : Code) (width entry : Nat) : List Nat × List Int := c.walk width (2 * c.words.length + 2) [entry] [] []
/-- The entries of the functions reachable by encoded calls, and the words of each. An entry is followed once, so as many steps as the text has words are enough. -/
def Code.reach (c : Code) (width : Nat) : Nat → List Nat → List (Nat × List Nat) → List (Nat × List Nat)
  | 0, _, fs => fs
  | _ + 1, [], fs => fs
  | n + 1, e :: todo, fs =>
      if fs.any fun f => f.1 == e then c.reach width n todo fs
      else
        let (ws, calls) := c.function width e
        let fs := fs ++ [(e, ws)]
        c.reach width n ((((calls.filter c.holds).map Int.toNat).eraseDups.filter fun x => !(todo.contains x || fs.any fun f => f.1 == x)) ++ todo) fs
/-- The call closure of a kernel. (DESIGN CHOICE: log entry 18.) -/
def Code.closure (c : Code) (width entry : Nat) : List (Nat × List Nat) := c.reach width (2 * c.words.length + 2) [entry] []
/-- The declared budget of a function (R40). -/
def Code.budget (c : Code) (entry regs o : Nat) : Nat :=
  match c.callees.find? fun x => x.1 == o with
  | some x => x.2
  | none => if o = entry then regs else 64

/-! ## The image (R121, R122) -/

/-- A section of an image. -/
structure Section where
  kind : Nat
  off : Nat
  size : Nat
  align : Nat
  deriving DecidableEq, Repr

/-- n entries of a table. -/
def entriesOf (bs : List Byte) (off size n : Nat) : List (List Byte) := (List.range n).map fun i => (bs.drop (off + size * i)).take size
/-- The section entries. -/
def sectionsOf (bs : List Byte) : List Section :=
  (entriesOf bs (fieldAt bs 0x10 8) 32 (fieldAt bs 8 4)).map fun e => { kind := fieldAt e 4 4, off := fieldAt e 8 8, size := fieldAt e 0x10 8, align := fieldAt e 0x18 4 }
/-- The kernel descriptors. -/
def descriptorsOf (bs : List Byte) : List (List Byte) := entriesOf bs (fieldAt bs 0x18 8) 48 (fieldAt bs 0xC 4)
/-- The callee entries. -/
def calleesOf (bs : List Byte) : List (List Byte) := entriesOf bs (fieldAt bs 0x20 8) 16 (fieldAt bs 0x28 4)
/-- The bytes of a section. -/
def Section.bytes (x : Section) (bs : List Byte) : List Byte := (bs.drop x.off).take x.size
/-- The bytes of the sections of a kind. -/
def kindBytes (bs : List Byte) (kind : Nat) : List Byte := ((sectionsOf bs).filter fun x => x.kind == kind).flatMap fun x => x.bytes bs
/-- The code of an image. -/
def codeOf (bs : List Byte) : Code :=
  let text := kindBytes bs 0
  { words := wordsOf (text.length / 4) text, callees := (calleesOf bs).map fun e => (fieldAt e 0 8, fieldAt e 8 1) }

/-- The checks of IMAGE_FORMAT (R123): the header, the tables and sections within the image, the zero fields, one text section, its size and control words, entries and callees. (DESIGN CHOICE: log entry 18.) -/
def imageFormatOk (bs : List Byte) : Bool :=
  let within (off size n : Nat) : Bool := decide (off + size * n ≤ bs.length)
  let code := codeOf bs
  decide (0x40 ≤ bs.length) && fieldAt bs 0 4 == 0x314B484D && fieldAt bs 4 2 == 1 && fieldAt bs 6 2 == 0 && fieldAt bs 0x38 8 == 0
    && within (fieldAt bs 0x10 8) 32 (fieldAt bs 8 4) && within (fieldAt bs 0x18 8) 48 (fieldAt bs 0xC 4) && within (fieldAt bs 0x20 8) 16 (fieldAt bs 0x28 4)
    && within (fieldAt bs 0x30 8) 1 (fieldAt bs 0x2C 4)
    && ((sectionsOf bs).all fun x => decide (x.kind ≤ 4) && within x.off 1 x.size)
    && ((entriesOf bs (fieldAt bs 0x10 8) 32 (fieldAt bs 8 4)).all fun e => fieldAt e 0x1C 4 == 0)
    && ((sectionsOf bs).filter fun x => x.kind == 0).length == 1 && ((sectionsOf bs).filter fun x => x.kind == 3).length ≤ 1 && ((sectionsOf bs).filter fun x => x.kind == 4).length ≤ 1
    && ((descriptorsOf bs).all fun e => fieldAt e 9 1 < 4 && fieldAt e 0xA 2 == 0 && fieldAt e 0x14 4 == 0 && fieldAt e 0x28 8 == 0 && code.holds (fieldAt e 0x18 8))
    && ((calleesOf bs).all fun e => fieldAt e 9 3 == 0 && code.holds (fieldAt e 0 8))
    && (kindBytes bs 0).length % 32 == 0 && ((List.range (code.words.length / 8)).all fun i => decide ((code.words.getD (8 * i) 0).toNat < 2 ^ 29))
/-- A budget that the directives allow (R119). -/
def budgetOk (n : Nat) : Bool := decide (8 ≤ n) && decide (n ≤ 64) && n % 8 == 0
/-- The shape of a descriptor (R15, R122, R123). -/
def shapeOk (e : List Byte) : Bool :=
  let pair := fieldAt e 7 1
  [16, 32, 64].contains (fieldAt e 4 1) && budgetOk (fieldAt e 5 1) && decide (1 ≤ fieldAt e 6 1) && decide (fieldAt e 6 1 ≤ if pair = 1 then 32 else 16) && decide (pair ≤ 1)
    && [1, 2, 4].contains (fieldAt e 8 1) && !(fieldAt e 8 1 == 4 && pair == 1) && fieldAt e 0xC 4 % 1024 == 0 && decide (fieldAt e 0xC 4 ≤ 2 ^ 20)
    && fieldAt e 0x10 4 % 4 == 0 && decide (fieldAt e 0x10 4 ≤ 4096)
/-- The kernel of a descriptor, in an image loaded at a base. -/
def kernelAt (bs : List Byte) (base img : Nat) (e : List Byte) : Kernel :=
  let code := codeOf bs
  let width := fieldAt e 4 1
  let entry := fieldAt e 0x18 8
  let fs := code.closure width entry
  let porter (off : Nat) : Option Nat := if fieldAt e off 4 = 0xFFFFFFFF then none else some (fieldAt e off 4)
  { image := img, width := width, regs := fieldAt e 5 1, groups := fieldAt e 6 1, pair := fieldAt e 7 1 == 1, gang := fieldAt e 8 1, ordered := fieldAt e 9 1 % 2 == 1,
    recipe := fieldAt e 9 1 / 2 == 1, scratch := fieldAt e 0xC 4, params := fieldAt e 0x10 4, entry := BitVec.ofNat 64 (base + entry), pload := porter 0x20, pstore := porter 0x24,
    alloc := (fs.map fun f => code.budget entry (fieldAt e 5 1) f.1).foldl max 0,
    accumulator := fs.any fun f => f.2.any fun o => (wordInfo width (code.word o)).accumulates,
    callees := code.callees.map fun x => (BitVec.ofNat 64 (base + x.1), x.2) }
/-- Does a function name no register at or above a budget (R40)? -/
def Code.fits (c : Code) (width budget : Nat) (words : List Nat) : Bool := words.all fun o => (wordInfo width (c.word o)).names.all fun r => decide (r.val < budget)
/-- Does no function of the image, seen from a kernel, name a register at or above its own budget (R40, R123): those of the kernel's closure, and those that a callee entry declares, which an indirect call may reach? -/
def budgetsHold (bs : List Byte) (e : List Byte) : Bool :=
  let code := codeOf bs
  let width := fieldAt e 4 1
  ((code.closure width (fieldAt e 0x18 8)).all fun f => code.fits width (code.budget (fieldAt e 0x18 8) (fieldAt e 5 1) f.1) f.2)
    && code.callees.all fun x => code.fits width x.2 (code.function width x.1).1
/-- May a kernel be certified (R124): no forbidden word in its closure, or in a function with a callee entry? -/
def certifies (bs : List Byte) (e : List Byte) : Bool :=
  let code := codeOf bs
  let width := fieldAt e 4 1
  let ws := (code.closure width (fieldAt e 0x18 8)).flatMap (·.2) ++ code.callees.flatMap fun x => (code.function width x.1).1
  ws.all fun o => !(wordInfo width (code.word o)).unordered
/-- The loader's verdict (R123), in the order of its table. (DESIGN CHOICE: log entry 18.) -/
def imageStatus (bs : List Byte) : Nat :=
  if !imageFormatOk bs then 16
  else if !((descriptorsOf bs).all shapeOk && (calleesOf bs).all fun e => budgetOk (fieldAt e 8 1)) then 17
  else if !(descriptorsOf bs).all (budgetsHold bs) then 18
  else if (sectionsOf bs).any fun x => (x.kind == 3 || x.kind == 4) && decide (2 ^ 14 < x.size) then 19
  else if !(descriptorsOf bs).all fun e => fieldAt e 9 1 % 2 == 0 || certifies bs e then 20
  else 0

/-! ## Loading and unloading (R340, R407, R467) -/

/-- The places of what is loaded: the text at the base, then each rodata and data section at its alignment (DESIGN CHOICE, log entry 18). -/
def placedSections (at' : Nat) : List Section → List (Nat × Section)
  | [] => []
  | x :: r =>
      let a := if x.align = 0 then at' else (at' + x.align - 1) / x.align * x.align
      (a, x) :: placedSections (a + x.size) r
/-- The bytes to load, by local address. (DESIGN CHOICE: log entry 18.) -/
def loadedBytes (bs : List Byte) (base : Nat) : List (Nat × List Byte) :=
  let text := kindBytes bs 0
  (base, text) :: (placedSections (base + text.length) ((sectionsOf bs).filter fun x => x.kind == 1 || x.kind == 2)).map fun x => (x.1, x.2.bytes bs)
/-- An image loaded: its bytes in memory, its handles, and a change whose reply is the load reply; accesses tagged before it still find the bytes that it replaced (R340). (DESIGN CHOICE: log entry 5.) -/
def State.loadImage (s : State) (h : HcpHdr) (asid base : Nat) (bs : List Byte) : State :=
  let (img, s) := s.fresh
  let old := (loadedBytes bs base).flatMap fun x => (cutLocal x.1 x.2).filterMap fun y => (s.pageAt asid y.1).map fun p => (p.phys y.1, cellsRead s.mem.hbm (p.phys y.1) y.2.length)
  let s := s.change (.image old) [] none
  let s := (loadedBytes bs base).foldl (fun s x => s.writeLocal asid x.1 x.2) s
  let ks := (descriptorsOf bs).map (kernelAt bs base img)
  let hs := (List.range ks.length).map fun i => s.sched.nextHandle + i
  let image : Image := { asid := asid, base := base, textLen := (kindBytes bs 0).length, pload := kindBytes bs 3, pstore := kindBytes bs 4, handles := hs }
  let reply := replyBytes 0x08 0 (hs.flatMap fun n => bytesOfNat 4 n)
  { s with
    sched := { s.sched with images := put s.sched.images img image, kernels := s.sched.kernels ++ hs.zip ks, nextHandle := s.sched.nextHandle + ks.length, imageStage := none }
    dev := { s.dev with changes := s.dev.changes.map fun (c : Change) => if c.epoch + 1 = s.dev.qepoch then { c with reply := some (h.session, h.seq, reply) } else c } }
/-- IMAGELOAD (R123, R467): the chunks are received; the last one is answered with the load reply, which waits for the change when the image is loaded. -/
def execImageload (h : HcpHdr) (asid base : Nat) (c : Chunk) (s : State) : Host.Outcome State Fault Refusal :=
  hcp h 0x08 s fun s =>
    if !(s.dev.asids.any fun a => a.id == asid) || base % 32 ≠ 0 then refuse 32 s
    else match takeChunk s.sched.imageStage asid base c with
      | none => refuse 32 s
      | some x =>
          if !c.last then done { s with sched := { s.sched with imageStage := some x } }
          else
            let status := imageStatus x.data
            let t := { s with sched := { s.sched with imageStage := none } }
            if status ≠ 0 then refuse status t
            else if (loadedBytes x.data base).any fun y => decide (2 ^ 46 < y.1 + y.2.length) || (s.firstUnmapped s.dev.qepoch asid y.1 y.2.length).isSome then refuse 32 t
            else (.later, t.loadImage h asid base x.data)
/-- IMAGEUNLOAD (R467): the handles of the image that a handle names become free, unless a group of it is bound or swapped. -/
def execImageunload (h : HcpHdr) (handle : Word) (s : State) : Host.Outcome State Fault Refusal :=
  hcp h 0x09 s fun s =>
    match lookup s.sched.kernels handle.toNat with
    | none => refuse 32 s
    | some k =>
        if s.imageBusy k.image then refuse 33 s
        else done { s with sched := { s.sched with images := del s.sched.images k.image, kernels := s.sched.kernels.filter fun x => x.2.image != k.image } }

end Sys2Proof.Machine
end

