-- ==== Sys2Proof/Machine/Hcp.lean ====
section
/-! DEFINITION. The other host requests (R467): identity and attestation (R471, R472), firmware (R470), launches, kills and resumes (R363, R405), step domains (R169), context memory (R369), READ, the fabric (R452, R473, R474), memory regions and RoCEv2 (R329, R463), events (R469). -/
namespace Sys2Proof.Machine

/-! ## Identity and firmware (R470 to R472) -/

/-- What IDENTIFY returns: the serial number and both certificates. -/
def identity : List Byte := Config.serial ++ Config.certificates
/-- IDENTIFY (R467, R471). -/
def execIdentify (h : HcpHdr) (s : State) : Host.Outcome State Fault Refusal := hcp h 0x01 s fun s => (.now 0 identity, s)

/-- n bytes of a value, padded with zeros. -/
def padTo (n : Nat) (bs : List Byte) : List Byte := (bs ++ List.replicate n 0).take n
/-- The 168 signed bytes of an attestation report (R472). -/
def State.report (s : State) (nonce : List Byte) : List Byte :=
  bytesOfNat 4 1 ++ bytesOfNat 4 (Config.orderingCode + s.fab.incarnation * 4 + s.fab.devNum * 64) ++ nonce ++ padTo 16 Config.serial
    ++ sha384 s.host.boot.firmware ++ (if Config.isModule then sha384 Config.managementFirmware else List.replicate 48 0)
    ++ bytesOfNat 4 s.host.boot.version ++ bytesOfNat 4 (if Config.isModule then Config.managementVersion else 0) ++ bytesOfNat 8 s.timebase
/-- Both signatures over a text, under the keys of the device (R471, R472). -/
def State.signatures (s : State) (text : List Byte) : List Byte :=
  let k := s.host.boot.keys.getD ([], [])
  padTo 64 (Config.ed25519Sign k.1 text) ++ padTo 3309 (Config.mlDsaSign k.2 text)
/-- ATTEST (R467, R472): the report and both signatures over it. -/
def execAttest (h : HcpHdr) (nonce : List Byte) (s : State) : Host.Outcome State Fault Refusal :=
  hcp h 0x02 s fun s => if nonce.length ≠ 32 then refuse 32 s else (.now 0 (s.report nonce ++ s.signatures (s.report nonce)), s)
/-- FWLOAD (R467, R470): the last chunk stages the image for the next boot. -/
def execFwload (h : HcpHdr) (c : Chunk) (s : State) : Host.Outcome State Fault Refusal :=
  hcp h 0x03 s fun s =>
    match takeChunk s.host.boot.stage 0 0 c with
    | none => refuse 32 s
    | some x => done { s with host := { s.host with boot := if c.last then { s.host.boot with stage := none, staged := some x.data } else { s.host.boot with stage := some x } } }

/-! ## Launches and parked groups (R363, R405) -/

/-- LAUNCH (R405, R408, R467). -/
def execLaunch (h : HcpHdr) (die asid : Nat) (record : List Byte) (s : State) : Host.Outcome State Fault Refusal :=
  hcp h 0x0A s fun s =>
    if 2 ≤ die || record.length ≠ 64 then refuse 32 s
    else match s.checkRecord asid record with
      | .error status => refuse status s
      | .ok k => match s.ordinaryEntry die with
        | none => refuse 1 s
        | some e =>
            let (weight, root) := s.openGraph asid (recordOf record) 0 none
            let (id, t) := s.enterLaunch (recordOf record) k asid die .host (some e) weight root 0
            (.now 0 (bytesOfNat 4 id), t)

/-- The code of the group of a launch that parked first, if one is parked (R363). -/
def State.firstPark (s : State) (l : Nat) : Option Nat :=
  let parked := s.groups.filterMap fun x => if !x.2.ended && s.launchIdOf x.2 == l then x.2.parked.map fun n => (n, x.2.code) else none
  (parked.find? fun x => parked.all fun y => decide (x.1 ≤ y.1)).map (·.2)
/-- KILL (R363, R365, R467): with cause KILLED, or with the cause of the first park that it ends. -/
def execKill (h : HcpHdr) (launch : Nat) (s : State) : Host.Outcome State Fault Refusal :=
  hcp h 0x0B s fun s =>
    match s.launch? launch with
    | none => refuse 32 s
    | some l =>
        if l.st == .complete || l.st == .refused then refuse 32 s
        else done (s.requestKill launch (((s.firstPark launch).map causeOfCode).getD .killed))

/-- The writes of a resume (R363). -/
def Group.resumeWrites (g : Group) (r : ResumeData) : Group :=
  let g := r.trappcs.foldl (fun g x => g.modLane x.1 fun l => { l with trappc := x.2 }) g
  let g := r.regs.foldl (fun g x => g.commit x.1 (Fin.ofNat 64 x.2.1) x.2.2) g
  match r.saveden with
  | none => g
  | some m => { g with saveden := m &&& fullMask g.width }
/-- Do the writes of a resume name lanes and registers of the group? -/
def Group.resumeOk (g : Group) (r : ResumeData) : Bool :=
  (r.trappcs.all fun x => decide (x.1 < g.width)) && r.regs.all fun x => decide (x.1 < g.width) && decide (x.2.1 < g.alloc)
/-- RESUME (R363, R467): the writes, then the return of R361; a bad TRAPPC refuses it. -/
def execResume (h : HcpHdr) (r : ResumeData) (s : State) : Host.Outcome State Fault Refusal :=
  hcp h 0x0C s fun s =>
    match s.groups.find? fun x => !x.2.ended && x.2.parked.isSome && s.launchIdOf x.2 == r.launch && ((s.teamOf x.2).map (·.teamId)) == some r.team && x.2.index == r.group with
    | none => refuse 32 s
    | some (gid, g) =>
        let t := g.resumeWrites r
        if ((s.launchOf g).bind (·.cause)).isSome || !g.resumeOk r || t.badReturn != 0 then refuse 32 s
        else done (s.setGroup gid { t.returnFromTrap with parked := none })

/-! ## Settings (R169, R369, R463) -/

/-- SPAN (R169, R467). -/
def execSpan (h : HcpHdr) (domains : BitVec 16) (s : State) : Host.Outcome State Fault Refusal :=
  hcp h 0x19 s fun s => done { s with dev := { s.dev with spanning := s.dev.spanning ||| domains } }
/-- CTXMEM (R369, R383, R467). (DEDUCED: log entry 28.) -/
def execCtxmem (h : HcpHdr) (pa len : Nat) (s : State) : Host.Outcome State Fault Refusal :=
  hcp h 0x1A s fun s =>
    if len = 0 || Config.reservedBase < pa + len then refuse 32 s else done { s with sched := { s.sched with ctxmem := s.sched.ctxmem ++ [(pa, len)] } }

/-- The 64-byte entry of a tile (R388); the device's own bookkeeping is open. (DESIGN CHOICE: log entry 31.) -/
def Tile.entry (t : Tile) (tick : Nat) : List Byte :=
  let st := match t.st with
    | .valid => 0
    | .dropped => 1
    | .building => 2
  padTo 32 (t.record.getD []) ++ bytesOfNat 8 (t.pins % 2 ^ 16 * 2 ^ 48 + t.bdepth * 2 ^ 36 + st * 2 ^ 34 + t.record.isSome.toNat * 2 ^ 33 + t.builds % 2 ^ 32)
    ++ bytesOfWords ((List.range 6).map (Config.freeWord tick))
/-- The counts of R402 and R450, with what the device measures. (DESIGN CHOICE: log entry 30.) -/
def State.telemetryBytes (s : State) : List Byte :=
  bytesOfNat 8 s.host.tele.corrected ++ bytesOfNat 8 s.host.tele.uncorrectable ++ bytesOfNat 8 s.host.tele.badFlits ++ Config.measured s.cycle
/-- READ (R339, R369, R388, R467); context bytes that fail their check are not delivered (R401). (DESIGN CHOICE: log entry 30.) -/
def execRead (h : HcpHdr) (what : ReadWhat) (s : State) : Host.Outcome State Fault Refusal :=
  hcp h 0x1B s fun s =>
    match what with
    | .epochs => let s := s.countDone
        (.now 0 (bytesOfNat 8 s.dev.qepoch ++ bytesOfNat 8 s.dev.qdone), s)
    | .tile asid la => if ((s.pageAt asid la).map fun p => attrRcp p.attr) == some true then (.now 0 ((s.tile (tileKey asid la)).entry s.tick), s) else refuse 32 s
    | .context pa len =>
        if s.sched.ctxmem.any (fun r => decide (r.1 ≤ pa) && decide (pa + len ≤ r.1 + r.2)) && decide (len ≤ 8960) && !s.lineFails none (.phys pa) len then (.now 0 (cellsRead s.mem.hbm pa len), s) else refuse 32 s
    | .telemetry => (.now 0 s.telemetryBytes, s)

/-! ## The fabric (R452, R473, R474) -/

/-- What this device knows of the end-to-end order with a device is begun anew: the device now stands for another part. -/
def State.forgetEnds (s : State) (d : Nat) : State :=
  { s with fab := { s.fab with ends := s.fab.ends.filter (fun e => e.src != d), sendSeq := s.fab.sendSeq.filter fun e => e.1 != d } }
/-- ROUTE (R452, R467), with the announcement that a device has been given a new part (R473, R474). (DEDUCED: log entry 28.) -/
def execRoute (h : HcpHdr) (entries : List (Nat × List Nat)) (announce : Option Nat) (s : State) : Host.Outcome State Fault Refusal :=
  hcp h 0x20 s fun s =>
    if entries.any fun e => decide (2 ^ 14 ≤ e.1) || decide (4 < e.2.length) || e.2.any fun p => decide (18 ≤ p) then refuse 32 s
    else
      let t := { s with fab := { s.fab with routes := entries.foldl (fun r e => put r e.1 e.2) s.fab.routes } }
      done (match announce with
        | none => t
        | some d => ({ t with fab := { t.fab with lost := t.fab.lost.filter (· != d) } } : State).forgetEnds d)

/-- The pending claims of this device whose launch executes on a device, or that are queued toward it (R473). -/
def State.claimsOn (s : State) (d : Nat) : List DWord :=
  (s.fab.claims.filter fun c => c.2.st == .pending && c.2.execDev == d).map fun c => claimOf s.fab.devNum c.1 c.2.gen
/-- LOSE (R473): claims, collectives and launches of the device are contained at once, and the host is told. -/
def execLose (h : HcpHdr) (device : Nat) (s : State) : Host.Outcome State Fault Refusal :=
  hcp h 0x21 s fun s =>
    if 2 ^ 14 ≤ device then refuse 32 s
    else
      let t := { s with fab := { s.fab with lost := device :: s.fab.lost.filter (· != device) } }
      let t := (s.claimsOn device).foldl (fun t c => t.breakClaim c Cause.deviceLost.code 0) t
      let t := t.loseColls device
      let t := (t.fab.reqs.filter fun r => r.2.device == device).foldl (fun t r => t.dropRequest r.1 r.2) t
      done (t.hostEvent 0x46 (bytesOfNat 2 device))
/-- ASSUME (R457, R474). (DEDUCED: log entry 28.) -/
def execAssume (h : HcpHdr) (device incarnation : Nat) (s : State) : Host.Outcome State Fault Refusal :=
  hcp h 0x22 s fun s =>
    if 2 ^ 14 ≤ device || 16 ≤ incarnation then refuse 32 s
    else done { s with fab := { s.fab with devNum := device, incarnation := incarnation, ends := [], sendSeq := [] } }

/-! ## RoCEv2 (R329, R331, R401, R462, R463) -/

/-- RKEY (R463, R467). -/
def execRkey (h : HcpHdr) (create : Bool) (rkey asid la len : Nat) (s : State) : Host.Outcome State Fault Refusal :=
  hcp h 0x23 s fun s =>
    let known := s.host.regions.any fun r => r.rkey == rkey
    if create then
      if known || decide (2 ^ 14 ≤ asid) || decide (2 ^ 46 < la + len) then refuse 32 s
      else done { s with host := { s.host with regions := s.host.regions ++ [{ rkey := rkey, asid := asid, la := la, len := len }] } }
    else if !known then refuse 32 s
    else done { s with host := { s.host with regions := s.host.regions.filter fun r => r.rkey != rkey } }

/-- The address space of an access that lies within its region (R463). -/
def State.regionFor (s : State) (rkey la n : Nat) : Option Nat :=
  (s.host.regions.find? fun r => r.rkey == rkey && decide (r.la ≤ la) && decide (la + n ≤ r.la + r.len)).map (·.asid)
/-- A write of a host: a store, then a release at SYSTEM scope when the device acknowledges it (R329). (DEDUCED: log entry 77.) -/
def State.rdmaStore (s : State) (rkey la : Nat) (data : List Byte) (imm : Option Word) : State :=
  match s.regionFor rkey la data.length with
  | none => s.roce [.roceAccessError]
  | some asid => s.serveWrite (hostHdr imm) { asid := asid, parts := [{ la := la, encode := none, words := [], bytes := data }] }
/-- RDMA WRITE (R329, R331, R463). -/
def execRdmaWrite (rkey la : Nat) (data : List Byte) (s : State) : Host.Outcome State Fault Refusal := .next (s.rdmaStore rkey la data none)
/-- RDMA WRITE with immediate (R463). -/
def execRdmaWriteWithImmediate (rkey la : Nat) (data : List Byte) (imm : Word) (s : State) : Host.Outcome State Fault Refusal := .next (s.rdmaStore rkey la data (some imm))
/-- RDMA READ (R329, R394, R401, R463). -/
def execRdmaRead (rkey la len : Nat) (s : State) : Host.Outcome State Fault Refusal :=
  .next (match s.regionFor rkey la len with
    | none => s.roce [.roceAccessError]
    | some asid => s.serveRead (hostHdr none) { asid := asid, parts := [{ lane := 0, la := la, kind := .bytes len }] })
/-- R463: an operation that is not supported is answered with a NAK for an invalid request. -/
def execRoceInvalidRequest (_op : Nat) (s : State) : Host.Outcome State Fault Refusal := .next (s.roce [.roceInvalid])
/-- R463: a congestion notification lowers the rate of the device's own requests. (DEDUCED: log entry 65.) -/
def execCongestionNotificationPacket (s : State) : Host.Outcome State Fault Refusal := .next { s with host := { s.host with rateHalvings := s.host.rateHalvings + 1 } }
/-- R462: priority flow control pauses or resumes the RoCEv2 priority. -/
def execPriorityFlowControl (pause : Bool) (s : State) : Host.Outcome State Fault Refusal :=
  .next (if pause then { s with host := { s.host with paused := true } }
    else { s with host := { s.host with paused := false, roceHeld := [] }, outbox := s.outbox ++ s.host.roceHeld })
/-- R480: the Ethernet link comes up or goes down. -/
def execEthernetLink (up : Bool) (s : State) : Host.Outcome State Fault Refusal := .next { s with host := { s.host with ethUp := up } }

/-! ## Events and frames that are no request (R465, R467, R469) -/

/-- R469: an event acknowledged by its count. -/
def execHcpEventAck (session count : Nat) (s : State) : Host.Outcome State Fault Refusal :=
  .next (match lookup s.host.sessions session with
    | none => s
    | some x => { s with host := { s.host with sessions := put s.host.sessions session { x with events := x.events.filter fun e => e.1 != count } } })
/-- R469: the events not acknowledged are sent again every 10 ms. -/
def execHcpEventResend (session : Nat) (s : State) : Host.Outcome State Fault Refusal :=
  match lookup s.host.sessions session with
  | none => .refused .notEnabled
  | some x =>
      if x.events.isEmpty || decide (s.timebase < x.lastResend + 10000000) then .refused .notEnabled
      else .next { s with
        host := { s.host with sessions := put s.host.sessions session { x with lastResend := s.timebase } }
        outbox := s.outbox ++ x.events.map fun e => Out.event session e.1 (fieldAt e.2 0 1) (e.2.drop 1) }
/-- The types of R467. -/
def listedTypes : List Nat := [1, 2, 3, 8, 9, 10, 11, 12, 16, 17, 18, 19, 20, 21, 22, 24, 25, 26, 27, 32, 33, 34, 35]
/-- R467: a type that is not listed is answered BAD_REQUEST. -/
def execHcpUnlistedType (h : HcpHdr) (type : Nat) (s : State) : Host.Outcome State Fault Refusal :=
  if listedTypes.contains type then .refused .notEnabled else hcp h type s (refuse 32)
/-- R465: a frame that does not match is discarded silently. (DESIGN CHOICE: log entry 37.) -/
def execHcpFrameDiscard (_frame : List Byte) (s : State) : Host.Outcome State Fault Refusal := .next s

end Sys2Proof.Machine
end

