-- ==== Sys2Proof/Machine/PorterIsa.lean ====
section
/-! DEFINITION. The instructions of a porter (R120, R435): RV32IMAC with Zicsr, Zba and Zbb, in the standard encodings, which the spec names and the model takes from the standard (PRESUMED, log entry 20). -/
namespace Sys2Proof.Machine

/-- A register number of a porter. -/
abbrev XReg := Fin 32

/-- Operations on two values. -/
inductive RvOp where
  | add | sub | sll | slt | sltu | xor | srl | sra | or | and
  | mul | mulh | mulhsu | mulhu | div | divu | rem | remu
  | sh1add | sh2add | sh3add | andn | orn | xnor | min | minu | max | maxu | rol | ror
  deriving DecidableEq, Repr
/-- Operations on one value. -/
inductive RvUn where
  | clz | ctz | cpop | sextb | sexth | zexth | orcb | rev8
  deriving DecidableEq, Repr
/-- Branch conditions. -/
inductive RvCond where
  | eq | ne | lt | ge | ltu | geu
  deriving DecidableEq, Repr
/-- Atomic operations. -/
inductive RvAmo where
  | swap | add | xor | and | or | min | max | minu | maxu
  deriving DecidableEq, Repr
/-- The CSR instructions: write, set, clear. -/
inductive RvCsrOp where
  | write | set | clear
  deriving DecidableEq, Repr

/-- A porter instruction. Loads and stores carry their size in bytes; a load says whether it is signed. -/
inductive Rv where
  | lui (rd : XReg) (imm : Word)
  | auipc (rd : XReg) (imm : Word)
  | jal (rd : XReg) (imm : Word)
  | jalr (rd rs : XReg) (imm : Word)
  | branch (c : RvCond) (rs rt : XReg) (imm : Word)
  | load (size : Nat) (signed : Bool) (rd rs : XReg) (imm : Word)
  | store (size : Nat) (rs rt : XReg) (imm : Word)
  | opImm (op : RvOp) (rd rs : XReg) (imm : Word)
  | op (op : RvOp) (rd rs rt : XReg)
  | unary (op : RvUn) (rd rs : XReg)
  | fence
  | fenceI
  | ecall
  | ebreak
  | mret
  | wfi
  | csr (op : RvCsrOp) (rd : XReg) (num : Nat) (src : XReg)
  | csrImm (op : RvCsrOp) (rd : XReg) (num : Nat) (imm : Nat)
  | lr (rd rs : XReg) (aq rl : Bool)
  | sc (rd rs rt : XReg) (aq rl : Bool)
  | amo (op : RvAmo) (rd rs rt : XReg) (aq rl : Bool)
  deriving DecidableEq, Repr

/-! ## Fields -/

/-- Bits hi down to lo of a number. -/
def bitsAt (w hi lo : Nat) : Nat := w / 2 ^ lo % 2 ^ (hi + 1 - lo)
/-- A register field. -/
def xAt (w lo : Nat) : XReg := Fin.ofNat 32 (w / 2 ^ lo)
/-- A register of the eight that a compressed field of three bits names. -/
def xSmall (w lo : Nat) : XReg := Fin.ofNat 32 (8 + w / 2 ^ lo % 8)
/-- A number of n bits, sign-extended to 32. -/
def signed (n v : Nat) : Word := (BitVec.ofNat n v).signExtend 32
/-- The immediate of the I format. -/
def immI (w : Nat) : Word := signed 12 (bitsAt w 31 20)
/-- The immediate of the S format. -/
def immS (w : Nat) : Word := signed 12 (bitsAt w 31 25 * 32 + bitsAt w 11 7)
/-- The immediate of the B format. -/
def immB (w : Nat) : Word := signed 13 (bitsAt w 31 31 * 4096 + bitsAt w 7 7 * 2048 + bitsAt w 30 25 * 32 + bitsAt w 11 8 * 2)
/-- The immediate of the U format. -/
def immU (w : Nat) : Word := BitVec.ofNat 32 (bitsAt w 31 12 * 4096)
/-- The immediate of the J format. -/
def immJ (w : Nat) : Word := signed 21 (bitsAt w 31 31 * 1048576 + bitsAt w 19 12 * 4096 + bitsAt w 20 20 * 2048 + bitsAt w 30 21 * 2)

/-! ## Decoding of 32-bit instructions; none is an illegal instruction -/

/-- The OP major opcode. -/
def decodeOp (f7 f3 rt : Nat) : Option (RvOp ⊕ RvUn) :=
  match f7, f3 with
  | 0, 0 => some (.inl .add)
  | 0, 1 => some (.inl .sll)
  | 0, 2 => some (.inl .slt)
  | 0, 3 => some (.inl .sltu)
  | 0, 4 => some (.inl .xor)
  | 0, 5 => some (.inl .srl)
  | 0, 6 => some (.inl .or)
  | 0, 7 => some (.inl .and)
  | 32, 0 => some (.inl .sub)
  | 32, 4 => some (.inl .xnor)
  | 32, 5 => some (.inl .sra)
  | 32, 6 => some (.inl .orn)
  | 32, 7 => some (.inl .andn)
  | 1, 0 => some (.inl .mul)
  | 1, 1 => some (.inl .mulh)
  | 1, 2 => some (.inl .mulhsu)
  | 1, 3 => some (.inl .mulhu)
  | 1, 4 => some (.inl .div)
  | 1, 5 => some (.inl .divu)
  | 1, 6 => some (.inl .rem)
  | 1, 7 => some (.inl .remu)
  | 16, 2 => some (.inl .sh1add)
  | 16, 4 => some (.inl .sh2add)
  | 16, 6 => some (.inl .sh3add)
  | 5, 4 => some (.inl .min)
  | 5, 5 => some (.inl .minu)
  | 5, 6 => some (.inl .max)
  | 5, 7 => some (.inl .maxu)
  | 48, 1 => some (.inl .rol)
  | 48, 5 => some (.inl .ror)
  | 4, 4 => if rt = 0 then some (.inr .zexth) else none
  | _, _ => none

/-- The OP-IMM major opcode. -/
def decodeOpImm (w : Nat) : Option Rv :=
  let rd := xAt w 7
  let rs := xAt w 15
  let shamt := BitVec.ofNat 32 (bitsAt w 24 20)
  match bitsAt w 14 12 with
  | 0 => some (.opImm .add rd rs (immI w))
  | 2 => some (.opImm .slt rd rs (immI w))
  | 3 => some (.opImm .sltu rd rs (immI w))
  | 4 => some (.opImm .xor rd rs (immI w))
  | 6 => some (.opImm .or rd rs (immI w))
  | 7 => some (.opImm .and rd rs (immI w))
  | 1 =>
      if bitsAt w 31 25 = 0 then some (.opImm .sll rd rs shamt)
      else (match bitsAt w 31 20 with
        | 0x600 => some (.unary .clz rd rs)
        | 0x601 => some (.unary .ctz rd rs)
        | 0x602 => some (.unary .cpop rd rs)
        | 0x604 => some (.unary .sextb rd rs)
        | 0x605 => some (.unary .sexth rd rs)
        | _ => none)
  | _ =>
      if bitsAt w 31 25 = 0 then some (.opImm .srl rd rs shamt)
      else if bitsAt w 31 25 = 32 then some (.opImm .sra rd rs shamt)
      else if bitsAt w 31 25 = 48 then some (.opImm .ror rd rs shamt)
      else (match bitsAt w 31 20 with
        | 0x287 => some (.unary .orcb rd rs)
        | 0x698 => some (.unary .rev8 rd rs)
        | _ => none)

/-- The AMO major opcode. -/
def decodeAmo (w : Nat) : Option Rv :=
  let rd := xAt w 7
  let rs := xAt w 15
  let rt := xAt w 20
  let aq := bitsAt w 26 26 == 1
  let rl := bitsAt w 25 25 == 1
  if bitsAt w 14 12 ≠ 2 then none
  else match bitsAt w 31 27 with
    | 2 => if rt.val = 0 then some (.lr rd rs aq rl) else none
    | 3 => some (.sc rd rs rt aq rl)
    | 1 => some (.amo .swap rd rs rt aq rl)
    | 0 => some (.amo .add rd rs rt aq rl)
    | 4 => some (.amo .xor rd rs rt aq rl)
    | 12 => some (.amo .and rd rs rt aq rl)
    | 8 => some (.amo .or rd rs rt aq rl)
    | 16 => some (.amo .min rd rs rt aq rl)
    | 20 => some (.amo .max rd rs rt aq rl)
    | 24 => some (.amo .minu rd rs rt aq rl)
    | 28 => some (.amo .maxu rd rs rt aq rl)
    | _ => none

/-- The SYSTEM major opcode. -/
def decodeSystem (w : Nat) : Option Rv :=
  let rd := xAt w 7
  let num := bitsAt w 31 20
  let imm := bitsAt w 19 15
  match bitsAt w 14 12 with
  | 0 =>
      if w = 0x00000073 then some .ecall
      else if w = 0x00100073 then some .ebreak
      else if w = 0x30200073 then some .mret
      else if w = 0x10500073 then some .wfi
      else none
  | 1 => some (.csr .write rd num (xAt w 15))
  | 2 => some (.csr .set rd num (xAt w 15))
  | 3 => some (.csr .clear rd num (xAt w 15))
  | 5 => some (.csrImm .write rd num imm)
  | 6 => some (.csrImm .set rd num imm)
  | 7 => some (.csrImm .clear rd num imm)
  | _ => none

/-- A 32-bit instruction. (PRESUMED: log entry 20.) -/
def rv32 (w : Nat) : Option Rv :=
  let rd := xAt w 7
  let rs := xAt w 15
  let rt := xAt w 20
  match w % 128 with
  | 0x37 => some (.lui rd (immU w))
  | 0x17 => some (.auipc rd (immU w))
  | 0x6F => some (.jal rd (immJ w))
  | 0x67 => if bitsAt w 14 12 = 0 then some (.jalr rd rs (immI w)) else none
  | 0x63 => (match bitsAt w 14 12 with
      | 0 => some (.branch .eq rs rt (immB w))
      | 1 => some (.branch .ne rs rt (immB w))
      | 4 => some (.branch .lt rs rt (immB w))
      | 5 => some (.branch .ge rs rt (immB w))
      | 6 => some (.branch .ltu rs rt (immB w))
      | 7 => some (.branch .geu rs rt (immB w))
      | _ => none)
  | 0x03 => (match bitsAt w 14 12 with
      | 0 => some (.load 1 true rd rs (immI w))
      | 1 => some (.load 2 true rd rs (immI w))
      | 2 => some (.load 4 true rd rs (immI w))
      | 4 => some (.load 1 false rd rs (immI w))
      | 5 => some (.load 2 false rd rs (immI w))
      | _ => none)
  | 0x23 => (match bitsAt w 14 12 with
      | 0 => some (.store 1 rs rt (immS w))
      | 1 => some (.store 2 rs rt (immS w))
      | 2 => some (.store 4 rs rt (immS w))
      | _ => none)
  | 0x13 => decodeOpImm w
  | 0x33 => (decodeOp (bitsAt w 31 25) (bitsAt w 14 12) rt.val).map fun o => match o with
      | .inl op => .op op rd rs rt
      | .inr u => .unary u rd rs
  | 0x0F => (match bitsAt w 14 12 with
      | 0 => some .fence
      | 1 => some .fenceI
      | _ => none)
  | 0x73 => decodeSystem w
  | 0x2F => decodeAmo w
  | _ => none

/-! ## Decoding of 16-bit instructions -/

/-- Quadrant 0. -/
def rvC0 (h : Nat) : Option Rv :=
  let d := xSmall h 2
  let s := xSmall h 7
  let off := BitVec.ofNat 32 (bitsAt h 5 5 * 64 + bitsAt h 12 10 * 8 + bitsAt h 6 6 * 4)
  let wide := bitsAt h 10 7 * 64 + bitsAt h 12 11 * 16 + bitsAt h 5 5 * 8 + bitsAt h 6 6 * 4
  match bitsAt h 15 13 with
  | 0 => if wide = 0 then none else some (.opImm .add d 2 (BitVec.ofNat 32 wide))
  | 2 => some (.load 4 true d s off)
  | 6 => some (.store 4 s d off)
  | _ => none
/-- The arithmetic of quadrant 1. -/
def rvC1Alu (h : Nat) : Option Rv :=
  let d := xSmall h 7
  let s := xSmall h 2
  let high := bitsAt h 12 12
  let imm := high * 32 + bitsAt h 6 2
  match bitsAt h 11 10 with
  | 0 => if high = 1 then none else some (.opImm .srl d d (BitVec.ofNat 32 imm))
  | 1 => if high = 1 then none else some (.opImm .sra d d (BitVec.ofNat 32 imm))
  | 2 => some (.opImm .and d d (signed 6 imm))
  | _ =>
      if high = 1 then none
      else match bitsAt h 6 5 with
        | 0 => some (.op .sub d d s)
        | 1 => some (.op .xor d d s)
        | 2 => some (.op .or d d s)
        | _ => some (.op .and d d s)
/-- Quadrant 1. -/
def rvC1 (h : Nat) : Option Rv :=
  let d := xAt h 7
  let imm := bitsAt h 12 12 * 32 + bitsAt h 6 2
  let jump := signed 12 (bitsAt h 12 12 * 2048 + bitsAt h 8 8 * 1024 + bitsAt h 10 9 * 256 + bitsAt h 6 6 * 128 + bitsAt h 7 7 * 64 + bitsAt h 2 2 * 32 + bitsAt h 11 11 * 16 + bitsAt h 5 3 * 2)
  let br := signed 9 (bitsAt h 12 12 * 256 + bitsAt h 6 5 * 64 + bitsAt h 2 2 * 32 + bitsAt h 11 10 * 8 + bitsAt h 4 3 * 2)
  let sp := signed 10 (bitsAt h 12 12 * 512 + bitsAt h 4 3 * 128 + bitsAt h 5 5 * 64 + bitsAt h 2 2 * 32 + bitsAt h 6 6 * 16)
  match bitsAt h 15 13 with
  | 0 => some (.opImm .add d d (signed 6 imm))
  | 1 => some (.jal 1 jump)
  | 2 => some (.opImm .add d 0 (signed 6 imm))
  | 3 => if imm = 0 then none else if d.val = 2 then some (.opImm .add 2 2 sp) else some (.lui d (signed 18 (imm * 4096)))
  | 4 => rvC1Alu h
  | 5 => some (.jal 0 jump)
  | 6 => some (.branch .eq (xSmall h 7) 0 br)
  | _ => some (.branch .ne (xSmall h 7) 0 br)
/-- Quadrant 2. -/
def rvC2 (h : Nat) : Option Rv :=
  let d := xAt h 7
  let s := xAt h 2
  let high := bitsAt h 12 12
  match bitsAt h 15 13 with
  | 0 => if high = 1 then none else some (.opImm .sll d d (BitVec.ofNat 32 (bitsAt h 6 2)))
  | 2 => if d.val = 0 then none else some (.load 4 true d 2 (BitVec.ofNat 32 (bitsAt h 3 2 * 64 + high * 32 + bitsAt h 6 4 * 4)))
  | 4 =>
      if high = 0 then
        if s.val = 0 then (if d.val = 0 then none else some (.jalr 0 d 0)) else some (.op .add d 0 s)
      else if s.val = 0 then (if d.val = 0 then some .ebreak else some (.jalr 1 d 0))
      else some (.op .add d d s)
  | 6 => some (.store 4 2 s (BitVec.ofNat 32 (bitsAt h 8 7 * 64 + bitsAt h 12 9 * 4)))
  | _ => none
/-- A 16-bit instruction. (PRESUMED: log entry 20.) -/
def rv16 (h : Nat) : Option Rv :=
  match h % 4 with
  | 0 => rvC0 h
  | 1 => rvC1 h
  | 2 => rvC2 h
  | _ => none

/-! ## Arithmetic -/

/-- Multiplication's upper half of two integers. -/
def upper (x : Int) : Word := BitVec.ofInt 32 (x / 2 ^ 32)
/-- The operations on two values. -/
def RvOp.apply (op : RvOp) (a b : Word) : Word :=
  let n := b.toNat % 32
  match op with
  | .add => a + b
  | .sub => a - b
  | .sll => a <<< n
  | .slt => if a.slt b then 1 else 0
  | .sltu => if a.ult b then 1 else 0
  | .xor => a ^^^ b
  | .srl => a >>> n
  | .sra => a.sshiftRight n
  | .or => a ||| b
  | .and => a &&& b
  | .mul => a * b
  | .mulh => upper (a.toInt * b.toInt)
  | .mulhsu => upper (a.toInt * b.toNat)
  | .mulhu => upper (a.toNat * b.toNat)
  | .div => if b = 0 then BitVec.allOnes 32 else BitVec.ofInt 32 (a.toInt.tdiv b.toInt)
  | .divu => if b = 0 then BitVec.allOnes 32 else a / b
  | .rem => if b = 0 then a else BitVec.ofInt 32 (a.toInt.tmod b.toInt)
  | .remu => if b = 0 then a else a % b
  | .sh1add => a * 2 + b
  | .sh2add => a * 4 + b
  | .sh3add => a * 8 + b
  | .andn => a &&& ~~~b
  | .orn => a ||| ~~~b
  | .xnor => ~~~(a ^^^ b)
  | .min => if a.slt b then a else b
  | .minu => if a.ult b then a else b
  | .max => if a.slt b then b else a
  | .maxu => if a.ult b then b else a
  | .rol => a.rotateLeft n
  | .ror => a.rotateRight n
/-- Leading zero bits. -/
def leading (a : Word) : Nat := ((List.range 32).find? fun i => a.getLsbD (31 - i)).getD 32
/-- Trailing zero bits. -/
def trailing (a : Word) : Nat := ((List.range 32).find? fun i => a.getLsbD i).getD 32
/-- The operations on one value. -/
def RvUn.apply (op : RvUn) (a : Word) : Word :=
  match op with
  | .clz => BitVec.ofNat 32 (leading a)
  | .ctz => BitVec.ofNat 32 (trailing a)
  | .cpop => BitVec.ofNat 32 ((List.range 32).filter fun i => a.getLsbD i).length
  | .sextb => (a.setWidth 8).signExtend 32
  | .sexth => (a.setWidth 16).signExtend 32
  | .zexth => (a.setWidth 16).setWidth 32
  | .orcb => wordOfBytes ((bytesOfNat 4 a.toNat).map fun b => if b = 0 then 0 else 255)
  | .rev8 => wordOfBytes (bytesOfNat 4 a.toNat).reverse
/-- Branch conditions. -/
def RvCond.holds (c : RvCond) (a b : Word) : Bool :=
  match c with
  | .eq => a == b
  | .ne => a != b
  | .lt => a.slt b
  | .ge => !a.slt b
  | .ltu => a.ult b
  | .geu => !a.ult b
/-- Atomic operations: the value stored. -/
def RvAmo.apply (op : RvAmo) (m b : Word) : Word :=
  match op with
  | .swap => b
  | .add => m + b
  | .xor => m ^^^ b
  | .and => m &&& b
  | .or => m ||| b
  | .min => if m.slt b then m else b
  | .max => if m.slt b then b else m
  | .minu => if m.ult b then m else b
  | .maxu => if m.ult b then b else m
/-- The CSR operations: the new value. -/
def RvCsrOp.apply (op : RvCsrOp) (old v : Word) : Word :=
  match op with
  | .write => v
  | .set => old ||| v
  | .clear => old &&& ~~~v
/-- Porter cycles of an operation (R441). -/
def RvOp.cycles (op : RvOp) : Nat :=
  match op with
  | .mul | .mulh | .mulhsu | .mulhu => 3
  | .div | .divu | .rem | .remu => 34
  | .add | .sub | .sll | .slt | .sltu | .xor | .srl | .sra | .or | .and | .sh1add | .sh2add | .sh3add | .andn | .orn | .xnor | .min | .minu | .max | .maxu | .rol | .ror => 1

end Sys2Proof.Machine
end

