-- ==== Sys2Proof/Machine/Sideband.lean ====
section
/-! DEFINITION. Power-on, boot and the sideband interface (R52, R470, R477 to R480). -/
namespace Sys2Proof.Machine

/-! ## Boot (R470, R480) -/

/-- The image that the next boot verifies: the staged one, else the one that ran last, else that of manufacture. (DESIGN CHOICE: log entry 6.) -/
def Boot.image (b : Boot) : List Byte :=
  match b.staged with
  | some x => x
  | none => if b.firmware.isEmpty then Config.factoryFirmware else b.firmware
/-- Do the keys of an image have the fused digest, and do both verifications pass, ML-DSA-65's with an empty context string (R470)? -/
def firmwareGood (image : List Byte) : Bool :=
  let (k, m) := Config.firmwareKeys image
  let (x, y) := Config.firmwareSignatures image
  let text := Config.firmwareText image
  sha384 (k ++ m) == Config.fusedDigest && Config.ed25519Verify k text x && Config.mlDsaVerify m [] text y
/-- Does the image pass both signatures, the key digest and the security version (R470)? -/
def Boot.good (b : Boot) : Bool := firmwareGood b.image && decide (b.minVersion ≤ Config.firmwareVersion b.image)
/-- The image booted: it runs, and the fused minimum rises to its version (R470). The first boot derives both key pairs from the device secret (R471). -/
def Boot.run (b : Boot) : Boot :=
  { b with keys := some (b.keys.getD (Config.ed25519Key Config.deviceSecret, Config.mlDsaKey Config.deviceSecret)), st := .running, verified := true, staged := none, firmware := b.image, version := Config.firmwareVersion b.image, minVersion := max b.minVersion (Config.firmwareVersion b.image) }
/-- BOOT_VERIFY (R470): an image that fails does not run. -/
def execBootVerify (s : State) : Host.Outcome State Fault Refusal :=
  if s.host.boot.st != .verifying then .refused .notEnabled
  else .next { s with host := { s.host with boot := if s.host.boot.good then s.host.boot.run else { s.host.boot with st := .failed, verified := false } } }

/-- The device put into reset (DESIGN CHOICE, log entry 3): everything at its reset value but TIMEBASE, what the fuses and the boot store hold, and what the management controller has set through the sideband, which is not part of what a hold resets. -/
def State.reset' (s : State) (st : BootState) : State :=
  { State.reset with
    cycle := s.cycle
    tick := s.tick
    inbox := s.inbox
    outbox := s.outbox
    wire := s.wire
    sent := s.sent
    host := { State.reset.host with
      sessions := s.host.sessions.map fun x => (x.1, { x.2 with replies := [], lastSeq := 0, events := [], evNext := 0, lastResend := 0 })
      ip := s.host.ip, ethUp := s.host.ethUp, sbAddr := s.host.sbAddr
      boot := { s.host.boot with st := st, verified := false, stage := none } } }
/-- POWER_ON_RESET (R52): TIMEBASE is 0, and nothing but the fuses and the boot store keeps its contents. The level of SBRSTN is the outside's. (DESIGN CHOICE: log entry 3.) -/
def execPowerOnReset (s : State) : Host.Outcome State Fault Refusal :=
  let b := s.host.boot
  .next { State.reset with
    tick := s.tick
    inbox := s.inbox
    outbox := s.outbox
    wire := s.wire
    sent := s.sent
    host := { State.reset.host with boot := { State.reset.host.boot with
      st := if b.resetLow then .held else .verifying, resetLow := b.resetLow, staged := b.staged, firmware := b.firmware, minVersion := b.minVersion, keys := b.keys } } }
/-- SBRSTN (R478): low holds the whole device in reset, the sideband included; high releases it. (DESIGN CHOICE: log entry 3.) -/
def execSbrstn (high : Bool) (s : State) : Host.Outcome State Fault Refusal :=
  if high = !s.host.boot.resetLow then .next s
  else if high then
    .next { s with host := { s.host with boot := { s.host.boot with resetLow := false, st := .verifying } } }
  else
    let t := s.reset' .held
    .next { t with host := { t.host with sessions := [], ip := none, sbAddr := 0x2C, boot := { t.host.boot with resetLow := true, hold := false } } }

/-! ## Sideband requests (R479, R480) -/

/-- A sideband reply: the port answers unless SBRSTN holds it in reset (R478). -/
def sideband (s : State) (act : State → Nat × List Byte × State) : Host.Outcome State Fault Refusal :=
  if s.host.boot.resetLow then .next s
  else
    let (status, payload, t) := act s
    .next { t with outbox := t.outbox ++ [.sideband status payload] }
/-- HOLD (R480): a release takes effect only when the firmware passes; while it fails it is DENIED. (DESIGN CHOICE: log entry 3.) -/
def execHold (hold : Bool) (s : State) : Host.Outcome State Fault Refusal :=
  sideband s fun s =>
    let b := s.host.boot
    if hold then
      let t := s.reset' .held
      (0, [], { t with host := { t.host with boot := { t.host.boot with hold := true } } })
    else if !b.hold then (0, [], s)
    else if b.good then (0, [], { s with host := { s.host with boot := { b.run with hold := false } } })
    else (34, [], s)
/-- The number of a boot state (R480). -/
def BootState.code : BootState → Nat
  | .held => 0
  | .verifying => 1
  | .running => 2
  | .failed => 3
/-- STATE (R480). (DESIGN CHOICE: log entry 30.) -/
def execState (s : State) : Host.Outcome State Fault Refusal :=
  sideband s fun s =>
    let b := s.host.boot
    (0, bytesOfNat 1 b.st.code ++ bytesOfNat 4 b.minVersion ++ bytesOfNat 4 b.version ++ bytesOfNat 1 s.host.ethUp.toNat, s)
/-- SETIP (R480). -/
def execSetip (addr plen gateway : Nat) (s : State) : Host.Outcome State Fault Refusal :=
  sideband s fun s => (0, [], { s with host := { s.host with ip := some (addr, plen, gateway) } })
/-- SESSION (R465, R480): 64 sessions. -/
def execSession (index : Nat) (install : Bool) (d : SessionData) (s : State) : Host.Outcome State Fault Refusal :=
  sideband s fun s =>
    if 64 ≤ index then (32, [], s)
    else if install then
      (0, [], { s with host := { s.host with sessions := put s.host.sessions index { data := d, replies := [], lastSeq := 0, evNext := 0, events := [], lastResend := 0 } } })
    else (0, [], { s with host := { s.host with sessions := del s.host.sessions index } })
/-- TELEMETRY (R402, R480): a page is 240 bytes of what there is to report. -/
def execTelemetry (page : Nat) (s : State) : Host.Outcome State Fault Refusal :=
  sideband s fun s => (0, (s.telemetryBytes.drop (240 * page)).take 240, s)
/-- EVENT (R480): the oldest waiting event; with none there is no payload. -/
def execEvent (s : State) : Host.Outcome State Fault Refusal :=
  sideband s fun s =>
    match s.host.sbEvents with
    | [] => (0, [], s)
    | e :: r => (0, e, { s with host := { s.host with sbEvents := r } })
/-- SBALRTN (R478): low while a sideband event waits. -/
def State.alertLow (s : State) : Bool := !s.host.sbEvents.isEmpty
/-- IDENTIFY (R480). -/
def execSbIdentify (s : State) : Host.Outcome State Fault Refusal := sideband s fun s => (0, identity, s)
/-- R479: a request whose CHK, LEN or OP is wrong is answered BAD_REQUEST and not executed. -/
def execSidebandBadRequest (_request : List Byte) (s : State) : Host.Outcome State Fault Refusal := sideband s fun s => (32, [], s)
/-- R478: a dynamic address, of seven bits. (DEDUCED: log entry 67.) -/
def execDynamicAddressAssign (addr : Nat) (s : State) : Host.Outcome State Fault Refusal :=
  if s.host.boot.resetLow then .next s
  else if 128 ≤ addr then .refused .notEnabled
  else .next { s with host := { s.host with sbAddr := addr } }

end Sys2Proof.Machine
end

