-- ==== Sys2Proof/Machine/Porters.lean ====
section
/-! DEFINITION. Porters (R434 to R445): their address map, CSRs, command window, instructions, exceptions, and the row copy commands they post. -/
namespace Sys2Proof.Machine

/-! ## Registers and places -/

def Porter.get (p : Porter) (r : XReg) : Word := p.x.get r
/-- A register written; x0 stays 0. -/
def Porter.set (p : Porter) (r : XReg) (v : Word) : Porter := if r.val = 0 then p else { p with x := p.x.set r v }
/-- The bit of a role (R436). -/
def roleBit (r : Role) : Nat := match r with
  | .loader => 0
  | .storer => 1
/-- A porter as a waiter at a buffer end. -/
def Porter.who (p : Porter) : Nat × Nat := (p.core, 1 + roleBit p.role)
/-- The porter of a role that runs on a core. -/
def State.runningPorter (s : State) (core : Nat) (role : Role) : Option (Nat × Porter) := s.porters.find? fun x => x.2.core == core && x.2.role == role && x.2.mode == .running
def State.setPorter (s : State) (k : Nat) (p : Porter) : State := { s with porters := put s.porters k p }
/-- The launch of a porter's gang. -/
def State.launchOfPorter (s : State) (p : Porter) : Option Launch := s.launch? (s.porterLaunch p)
/-- The team of its gang on a porter's core (R442): what it reads and writes of a window is that team's. -/
def State.porterTeam (s : State) (p : Porter) : Option Nat :=
  (s.gang? p.gang).bind fun k => k.teams[if ((s.launchOfPorter p).map (·.kern.pair)).getD false then p.rank / 2 else p.rank]?
/-- The identity of a porter's accesses. -/
def State.porterCtx (s : State) (p : Porter) : Ctx :=
  { asid := ((s.launchOfPorter p).map (·.asid)).getD 0, tag := s.dev.qepoch, team := s.porterTeam p, core := some p.core, gid := none, launch := s.porterLaunch p, hnd := false, own := none }
/-- Is the porter's kernel certified? -/
def State.porterCertified (s : State) (p : Porter) : Bool := ((s.launchOfPorter p).map (·.kern.ordered)).getD false

/-- What an address of a porter names (R434). -/
inductive PLoc where
  | code (off : Nat)
  | data (off : Nat)
  | window (off : Nat)
  | scratch (team off : Nat)
  deriving DecidableEq, Repr

/-- The place of n bytes; none is an access fault (R217, R434). -/
def State.ploc (s : State) (p : Porter) (a n : Nat) : Option PLoc :=
  if a + n ≤ 0x4000 then some (.code a)
  else if 0x10000 ≤ a ∧ a + n ≤ 0x12000 then some (.data (a - 0x10000))
  else if 0x20000 ≤ a ∧ a + n ≤ 0x20080 then (if n = 4 then some (.window (a - 0x20000)) else none)
  else if 0x40000000 ≤ a ∧ a + n ≤ 0x40400000 then (s.windowOf (s.porterCtx p).team (a - 0x40000000) n).map fun x => .scratch x.1 x.2
  else none
/-- Porter cycles of a load from a place (R441). -/
def State.loadCycles (s : State) (p : Porter) (l : PLoc) : Nat :=
  match l with
  | .code _ => 1
  | .data _ => 1
  | .window _ => 4
  | .scratch t _ => if ((s.team? t).bind (·.cores.head?)).map (· / 2) == some (p.core / 2) then 12 else 30

/-! ## CSRs (R436) -/

/-- The count of a porter's cycles; in a certified kernel its retired instructions (R436). -/
def State.mcycleOf (s : State) (p : Porter) : Nat := if s.porterCertified p then p.minstret else (p.mcycle + s.porterCycle) % 2 ^ 64
/-- The time a porter sees (R436). -/
def State.ptimeOf (s : State) (p : Porter) : Nat := if s.porterCertified p then p.minstret else s.timebase
/-- A CSR read; none is an illegal instruction. (PRESUMED: log entry 20.) -/
def State.pcsr (s : State) (p : Porter) (n : Nat) : Option Word :=
  let lo (v : Nat) : Option Word := some (BitVec.ofNat 32 v)
  let hi (v : Nat) : Option Word := some (BitVec.ofNat 32 (v / 2 ^ 32))
  let params := startParams (((s.launchOfPorter p).map (·.record.params)).getD 0)
  match n with
  | 0x300 => some (p.mstatus ||| 0x1800)
  | 0x301 => some 0x40001105
  | 0x304 => some 0
  | 0x305 => some p.mtvec
  | 0x340 => some p.mscratch
  | 0x341 => some p.mepc
  | 0x342 => some p.mcause
  | 0x343 => some p.mtval
  | 0x344 => some 0
  | 0xB00 => lo (s.mcycleOf p)
  | 0xB80 => hi (s.mcycleOf p)
  | 0xB02 => lo p.minstret
  | 0xB82 => hi p.minstret
  | 0xF11 => some 0
  | 0xF12 => some 0
  | 0xF13 => some 0
  | 0xF14 => lo (roleBit p.role)
  | 0xFC0 => some (porterId ((s.launchOfPorter p).map (·.kern.gang) |>.getD 1) p.rank p.role)
  | 0xFC2 => lo (s.ptimeOf p)
  | 0xFC3 => hi (s.ptimeOf p)
  | 0xFC4 => some (loWord params)
  | 0xFC5 => some (hiWord params)
  | _ => none
/-- One half of a 64-bit count replaced. -/
def half (v : Nat) (high : Bool) (w : Word) : Nat := if high then w.toNat * 2 ^ 32 + v % 2 ^ 32 else v / 2 ^ 32 * 2 ^ 32 + w.toNat
/-- A CSR written; the count of instructions is given as it stands after this one. -/
def State.setPcsr (s : State) (p : Porter) (n : Nat) (v : Word) : Porter :=
  let cycle (high : Bool) : Porter := { p with mcycle := (half ((p.mcycle + s.porterCycle) % 2 ^ 64) high v + 2 ^ 64 - s.porterCycle % 2 ^ 64) % 2 ^ 64 }
  match n with
  | 0x300 => { p with mstatus := v &&& 0x88 }
  | 0x305 => { p with mtvec := v &&& 0xFFFFFFFC }
  | 0x340 => { p with mscratch := v }
  | 0x341 => { p with mepc := v &&& 0xFFFFFFFE }
  | 0x342 => { p with mcause := v }
  | 0x343 => { p with mtval := v }
  | 0xB00 => cycle false
  | 0xB80 => cycle true
  | 0xB02 => { p with minstret := half p.minstret false v }
  | 0xB82 => { p with minstret := half p.minstret true v }
  | _ => p

/-! ## The command window (R437) -/

/-- The RW fields of the window. -/
def winFields : List Nat := [0x00, 0x04, 0x08, 0x0C, 0x10, 0x14, 0x18, 0x1C, 0x20, 0x24, 0x40, 0x44]
/-- An RW field. -/
def Porter.field (p : Porter) (off : Nat) : Word := (lookup p.win off).getD 0
/-- A load from the window, other than CBGET and CBPUT. -/
def Porter.winRead (p : Porter) (off : Nat) : Word :=
  if winFields.contains off then p.field off
  else match off with
    | 0x2C => BitVec.ofNat 32 (p.done % 65536 * 65536 + p.posted % 65536)
    | 0x30 => BitVec.ofNat 32 (p.flt.toNat * 2 ^ 31 + p.fcode)
    | 0x34 => loWord p.faddr
    | 0x38 => hiWord p.faddr
    | 0x3C => BitVec.ofNat 32 (16 - p.queue.length)
    | _ => 0
/-- The buffer end and the count that CBADDR and CBNUM name; none where a lane would trap (R240, R440). -/
def State.porterEnd (s : State) (p : Porter) : Option (CbufEnd × Nat) :=
  let n := (p.field 0x44).toNat
  if n = 0 || 255 < n then none
  else match s.cbufAt (s.porterCtx p) (scratchEa (p.field 0x40).toNat) with
    | .error _ => none
    | .ok e => if s.cbFails e || (s.cbufBad e n).isSome then none else some (e, n)

/-! ## One instruction -/

/-- What the instruction at a porter's pc does: it completes, with the porter, the state and its porter cycles; it stores to the command window; it gets from or puts to a buffer; it halts; or it raises an exception. len is the instruction's length. -/
inductive PAct where
  | plain (p : Porter) (s : State)
  | window (off : Nat) (v : Word) (len : Nat)
  | get (rd : XReg) (e : CbufEnd) (n len : Nat)
  | put (rd : XReg) (e : CbufEnd) (n len : Nat)
  | ecall
  | trap (cause : Nat) (tval : Word)

/-- An instruction retired (R436, R441). -/
def Porter.retire (p : Porter) (s : State) (pc : Word) (cycles : Nat) : Porter :=
  { p with pc := pc, minstret := (p.minstret + 1) % 2 ^ 64, readyAt := s.cycle + (8 * cycles + 2) / 3 }
/-- n bytes of a porter's own stores, or of a window. -/
def State.pread (s : State) (p : Porter) (l : PLoc) (n : Nat) : Nat :=
  match l with
  | .code o => fieldAt p.imem o n
  | .data o => natOfBytes (cellsRead p.dmem o n)
  | .window o => (p.winRead o).toNat
  | .scratch t o => natOfBytes (s.bytesAt none false (.win t o) n)
/-- A store to the data store or a window: reservations on the bytes end (R435). -/
def State.pwrite (s : State) (k : Nat) (p : Porter) (l : PLoc) (n v : Nat) : Porter × State :=
  match l with
  | .code _ => (p, s)
  | .window _ => (p, s)
  | .data o =>
      let hit := match p.resv with
        | some (none, o', _) => decide (o' < o + n) && decide (o < o' + 4)
        | some (some _, _, _) => false
        | none => false
      ({ p with dmem := cellsWrite p.dmem o (bytesOfNat n v), resv := if hit then none else p.resv }, s)
  | .scratch t o =>
      let s := (s.setPorter k p).putBytes none false (.win t o) (bytesOfNat n v)
      ((lookup s.porters k).getD p, s)
/-- May a store write the place: the data store, or a window without a tagged word (R250, R434)? -/
def State.pwritable (s : State) (l : PLoc) (n : Nat) : Bool :=
  match l with
  | .code _ => false
  | .window _ => false
  | .data _ => true
  | .scratch t o => !s.coversTag t o n
/-- The key of a place under a reservation. -/
def PLoc.key (l : PLoc) : Option Nat × Nat :=
  match l with
  | .code o => (none, o)
  | .data o => (none, o)
  | .window o => (none, o)
  | .scratch t o => (some t, o)
/-- A release of a porter (R330, R435). -/
def State.porterRelease (s : State) (p : Porter) (on : Bool) : State := if on then s.writeBack p.core else s

/-- Has a scratchpad word that a porter reads an uncorrectable error? The word is not delivered: the access faults (R401, R403). (DESIGN CHOICE: log entry 45.) -/
def State.pfails (s : State) (l : PLoc) (n : Nat) : Bool := match l with
  | .scratch t o => s.lineFails none (.win t o) n
  | .code _ => false
  | .data _ => false
  | .window _ => false
/-- A load. -/
def State.pload (s : State) (p : Porter) (len n : Nat) (sgn : Bool) (rd : XReg) (a : Nat) : PAct :=
  if a % n ≠ 0 then .trap 4 (BitVec.ofNat 32 a)
  else match s.ploc p a n with
    | none => .trap 5 (BitVec.ofNat 32 a)
    | some l =>
        let v := s.pread p l n
        let done : PAct := .plain ((p.set rd (if sgn then signed (8 * n) v else BitVec.ofNat 32 v)).retire s (p.pc + BitVec.ofNat 32 len) (s.loadCycles p l)) s
        match l with
        | .window 0x48 => (match s.porterEnd p with
            | none => .trap 5 (BitVec.ofNat 32 a)
            | some (e, k) => .get rd e k len)
        | .window 0x4C => (match s.porterEnd p with
            | none => .trap 5 (BitVec.ofNat 32 a)
            | some (e, k) => (match s.cbufPut e k with
                | .error _ => .trap 5 (BitVec.ofNat 32 a)
                | .ok _ => .put rd e k len))
        | .window _ => done
        | .code _ => done
        | .data _ => done
        | .scratch _ _ => if s.pfails l n then .trap 5 (BitVec.ofNat 32 a) else done
/-- A store. -/
def State.pstore (s : State) (k : Nat) (p : Porter) (len n : Nat) (v : Word) (a : Nat) : PAct :=
  if a % n ≠ 0 then .trap 6 (BitVec.ofNat 32 a)
  else match s.ploc p a n with
    | none => .trap 7 (BitVec.ofNat 32 a)
    | some (.window o) => .window o v len
    | some l =>
        if !s.pwritable l n then .trap 7 (BitVec.ofNat 32 a)
        else
          let (p', t) := s.pwrite k p l n v.toNat
          .plain (p'.retire s (p.pc + BitVec.ofNat 32 len) 1) t
/-- The place of a word for an atomic: the data store or a window. -/
def State.pamoAt (s : State) (p : Porter) (store : Bool) (a : Nat) : Except (Nat × Word) PLoc :=
  if a % 4 ≠ 0 then .error (if store then 6 else 4, BitVec.ofNat 32 a)
  else match s.ploc p a 4 with
    | none => .error (if store then 7 else 5, BitVec.ofNat 32 a)
    | some (.code _) => .error (if store then 7 else 5, BitVec.ofNat 32 a)
    | some (.window _) => .error (if store then 7 else 5, BitVec.ofNat 32 a)
    | some (.data o) => .ok (.data o)
    | some (.scratch t o) => if store && s.coversTag t o 4 then .error (7, BitVec.ofNat 32 a) else .ok (.scratch t o)
/-- A CSR instruction (R436): a write to a read-only device CSR has no effect (R8); to another read-only one it is illegal. -/
def State.pcsrAct (s : State) (p : Porter) (len : Nat) (w : Word) (op : RvCsrOp) (rd : XReg) (num : Nat) (v : Word) (writes : Bool) : PAct :=
  match s.pcsr p num with
  | none => .trap 2 w
  | some old =>
      if writes && num / 1024 == 3 && num / 64 != 63 then .trap 2 w
      else
        let p := p.retire s (p.pc + BitVec.ofNat 32 len) 1
        .plain ((if writes then s.setPcsr p num (op.apply old v) else p).set rd old) s

/-- An instruction of a length, with its bits. (PRESUMED: log entry 20.) -/
def State.pexec (s : State) (k : Nat) (p : Porter) (len : Nat) (w : Word) (i : Rv) : PAct :=
  let next := p.pc + BitVec.ofNat 32 len
  let fin (p : Porter) (pc : Word) (cycles : Nat) : PAct := .plain (p.retire s pc cycles) s
  match i with
  | .lui rd imm => fin (p.set rd imm) next 1
  | .auipc rd imm => fin (p.set rd (p.pc + imm)) next 1
  | .jal rd imm => fin (p.set rd next) (p.pc + imm) 1
  | .jalr rd rs imm => fin (p.set rd next) ((p.get rs + imm) &&& 0xFFFFFFFE) 1
  | .branch c rs rt imm => fin p (if c.holds (p.get rs) (p.get rt) then p.pc + imm else next) 1
  | .load n sgn rd rs imm => s.pload p len n sgn rd (p.get rs + imm).toNat
  | .store n rs rt imm => s.pstore k p len n (p.get rt) (p.get rs + imm).toNat
  | .opImm op rd rs imm => fin (p.set rd (op.apply (p.get rs) imm)) next op.cycles
  | .op op rd rs rt => fin (p.set rd (op.apply (p.get rs) (p.get rt))) next op.cycles
  | .unary op rd rs => fin (p.set rd (op.apply (p.get rs))) next 1
  | .fence => .plain (p.retire s next 1) (s.porterRelease p true)
  | .fenceI => fin p next 1
  | .ecall => .ecall
  | .ebreak => .trap 3 p.pc
  | .mret => fin { p with inHandler := false, mstatus := (if p.mstatus.getLsbD 7 then 8 else 0) ||| 0x80 } p.mepc 1
  | .wfi => fin p next 1
  | .csr op rd num src => s.pcsrAct p len w op rd num (p.get src) (op == .write || src.val != 0)
  | .csrImm op rd num imm => s.pcsrAct p len w op rd num (BitVec.ofNat 32 imm) (op == .write || imm != 0)
  | .lr rd rs _ rl =>
      (match s.pamoAt p false (p.get rs).toNat with
      | .error e => .trap e.1 e.2
      | .ok l =>
          if s.pfails l 4 then .trap 5 (p.get rs)
          else
          let q := { p.set rd (BitVec.ofNat 32 (s.pread p l 4)) with resv := some (l.key.1, l.key.2, s.porterCycle) }
          .plain (q.retire s next (s.loadCycles p l)) (s.porterRelease p rl))
  | .sc rd rs rt _ rl =>
      (match s.pamoAt p true (p.get rs).toNat with
      | .error e => .trap e.1 e.2
      | .ok l =>
          let holds := match p.resv with
            | some (t, o, c) => (t, o) == l.key && decide (s.porterCycle - c ≤ 64)
            | none => false
          if holds then
            let (q, t) := (s.porterRelease p rl).pwrite k { p with resv := none } l 4 (p.get rt).toNat
            .plain ((q.set rd 0).retire s next (s.loadCycles p l)) t
          else .plain (({ p with resv := none }.set rd 1).retire s next 1) s)
  | .amo op rd rs rt _ rl =>
      (match s.pamoAt p true (p.get rs).toNat with
      | .error e => .trap e.1 e.2
      | .ok l =>
          if s.pfails l 4 then .trap 7 (p.get rs)
          else
          let m := BitVec.ofNat 32 (s.pread p l 4)
          let (q, t) := (s.porterRelease p rl).pwrite k p l 4 (op.apply m (p.get rt)).toNat
          .plain ((q.set rd m).retire s next (s.loadCycles p l)) t)

/-- The instruction at a porter's pc (R434): fetched from the instruction store alone. -/
def State.porterAct (s : State) (k : Nat) (p : Porter) : PAct :=
  let a := p.pc.toNat
  let h := fieldAt p.imem a 2
  if a % 2 ≠ 0 then .trap 0 p.pc
  else if 0x4000 ≤ a then .trap 1 p.pc
  else if h % 4 ≠ 3 then (match rv16 h with
    | none => .trap 2 (BitVec.ofNat 32 h)
    | some i => s.pexec k p 2 (BitVec.ofNat 32 h) i)
  else if 0x4000 < a + 4 then .trap 1 (p.pc + 2)
  else
    let w := fieldAt p.imem a 4
    match rv32 w with
    | none => .trap 2 (BitVec.ofNat 32 w)
    | some i => s.pexec k p 4 (BitVec.ofNat 32 w) i

/-- A step of the porter of a role that runs on a core and whose last instruction has taken its cycles. -/
def porterStep (core : Nat) (role : Role) (s : State) (f : Nat → Porter → PAct → Option State) : Host.Outcome State Fault Refusal :=
  match s.runningPorter core role with
  | none => .refused .notEnabled
  | some (k, p) =>
      if s.cycle < p.readyAt then .refused .notEnabled
      else match f k p (s.porterAct k p) with
        | none => .refused .notEnabled
        | some t => .next t

/-- PORTER_INSTRUCTION (R435): any instruction but those that have a step of their own. -/
def execPorterInstruction (core : Nat) (role : Role) (s : State) : Host.Outcome State Fault Refusal :=
  porterStep core role s fun k _ a => match a with
    | .plain q t => some (t.setPorter k q)
    | .window _ _ _ | .get _ _ _ _ | .put _ _ _ _ | .ecall | .trap _ _ => none
/-- PORTER_ECALL (R443). -/
def execPorterEcall (core : Nat) (role : Role) (s : State) : Host.Outcome State Fault Refusal :=
  porterStep core role s fun k p a => match a with
    | .ecall => some (s.setPorter k { p with mode := .halted })
    | .plain _ _ | .window _ _ _ | .get _ _ _ _ | .put _ _ _ _ | .trap _ _ => none

/-- The cause with which an exception kills the launch (R443). -/
def porterCause (mcause : Nat) : Cause :=
  match mcause with
  | 0 => .misalignedPc
  | 2 | 3 => .illegal
  | 4 | 6 => .misalignedData
  | _ => .addrRange
/-- A porter waits at no buffer end any more. -/
def State.leaveBuffer (s : State) (p : Porter) : State := { s with eng := { s.eng with cbufq := s.eng.cbufq.filter fun x => x.2 != p.who } }
/-- PORTER_EXCEPTION (R443): to mtvec; without one, or in a handler that has not returned, the launch is killed and the host is told. -/
def execPorterException (core : Nat) (role : Role) (s : State) : Host.Outcome State Fault Refusal :=
  porterStep core role s fun k p a => match a with
    | .trap cause tval =>
        let s := s.leaveBuffer p
        let p := { p with cbWait := false }
        some (if p.mtvec = 0 || p.inHandler then
            ((s.setPorter k { p with mode := .halted }).requestKill (s.porterLaunch p) (porterCause cause)).hostEvent 0x42 (bytesOfNat 4 cause ++ bytesOfNat 4 p.pc.toNat ++ bytesOfNat 4 tval.toNat)
          else
            s.setPorter k { p with mepc := p.pc, mcause := BitVec.ofNat 32 cause, mtval := tval, pc := p.mtvec, inHandler := true, mstatus := if p.mstatus.getLsbD 3 then 0x80 else 0,
                                   readyAt := s.cycle + 3 })
    | .plain _ _ | .window _ _ _ | .get _ _ _ _ | .put _ _ _ _ | .ecall => none

/-! ## The window's own steps (R437 to R440) -/

/-- The command that a GO would post. -/
def Porter.command (p : Porter) : PorterCmd :=
  { src := joinWords (p.field 0x00) (p.field 0x04), dst := joinWords (p.field 0x08) (p.field 0x0C), rowb := (p.field 0x10).toNat, nrow := (p.field 0x14).toNat,
    spitch := (p.field 0x18).toNat, dpitch := (p.field 0x1C).toNat, cbend := p.field 0x20, cbn := (p.field 0x24).toNat, row := 0, copy := none }
/-- The rules of its fields (R437); CBN counts only beside a CBEND. (DEDUCED: log entry 29.) -/
def PorterCmd.ok (c : PorterCmd) : Bool :=
  c.src.toNat % 4 == 0 && c.dst.toNat % 4 == 0 && c.rowb % 4 == 0 && decide (4 ≤ c.rowb) && decide (c.rowb ≤ 65536) && decide (1 ≤ c.nrow) && decide (c.nrow ≤ 65535)
    && c.spitch % 4 == 0 && c.dpitch % 4 == 0 && (c.cbend == 0 || (decide (1 ≤ c.cbn) && decide (c.cbn ≤ 255)))
/-- GO (R438): it stalls while the queue is full; it posts nothing while a fault stands; a field that breaks its rule is a fault. -/
def execGo (core : Nat) (role : Role) (s : State) : Host.Outcome State Fault Refusal :=
  porterStep core role s fun k p a => match a with
    | .window 0x28 _ len =>
        if 16 ≤ p.queue.length then none
        else
          let q := p.retire s (p.pc + BitVec.ofNat 32 len) 4
          some (s.setPorter k (if p.flt then q
            else if !p.command.ok then { q with flt := true, fcode := 1, faddr := 0 }
            else { q with queue := p.queue ++ [p.command], posted := (p.posted + 1) % 65536 }))
    | .window _ _ _ | .plain _ _ | .get _ _ _ _ | .put _ _ _ _ | .ecall | .trap _ _ => none
/-- FAULT_CLEAR (R437, R439). (DEDUCED: log entry 29.) -/
def execFaultClear (core : Nat) (role : Role) (s : State) : Host.Outcome State Fault Refusal :=
  porterStep core role s fun k p a => match a with
    | .window 0x30 v len => if v.getLsbD 31 then some (s.setPorter k { p.retire s (p.pc + BitVec.ofNat 32 len) 4 with flt := false }) else none
    | .window _ _ _ | .plain _ _ | .get _ _ _ _ | .put _ _ _ _ | .ecall | .trap _ _ => none
/-- PORTER_WINDOW_WRITE (R437): an RW field is set; any other write has no effect. -/
def execPorterWindowWrite (core : Nat) (role : Role) (s : State) : Host.Outcome State Fault Refusal :=
  porterStep core role s fun k p a => match a with
    | .window off v len =>
        if off = 0x28 || (off = 0x30 && v.getLsbD 31) then none
        else
          let q := p.retire s (p.pc + BitVec.ofNat 32 len) 4
          some (s.setPorter k (if winFields.contains off then { q with win := put q.win off v } else q))
    | .plain _ _ | .get _ _ _ _ | .put _ _ _ _ | .ecall | .trap _ _ => none
/-- CBGET (R240, R440): it waits in arrival order; the porter issues nothing until it is served. -/
def execCbget (core : Nat) (role : Role) (s : State) : Host.Outcome State Fault Refusal :=
  porterStep core role s fun k p a => match a with
    | .get rd e n len =>
        if s.cbReady e p.who n then
          let (v, t) := s.cbufTake e n
          let t := t.leaveBuffer p
          some (t.setPorter k (({ p with cbWait := false }.set rd (BitVec.ofNat 32 v)).retire s (p.pc + BitVec.ofNat 32 len) 4))
        else if p.cbWait then none
        else some (({ s with eng := { s.eng with cbufq := s.eng.cbufq ++ [(e.key, p.who)] } }).setPorter k { p with cbWait := true })
    | .plain _ _ | .window _ _ _ | .put _ _ _ _ | .ecall | .trap _ _ => none
/-- CBPUT (R240, R440): a release of the porter's prior stores. -/
def execCbput (core : Nat) (role : Role) (s : State) : Host.Outcome State Fault Refusal :=
  porterStep core role s fun k p a => match a with
    | .put rd e n len => (match (s.porterRelease p true).cbufPut e n with
        | .error _ => none
        | .ok (v, t) => some (t.setPorter k ((p.set rd (BitVec.ofNat 32 v)).retire s (p.pc + BitVec.ofNat 32 len) 4)))
    | .plain _ _ | .window _ _ _ | .get _ _ _ _ | .ecall | .trap _ _ => none

/-! ## Commands (R438, R439) -/

/-- The porter of a role and core whose oldest command is to go on. -/
def State.postingPorter (s : State) (core : Nat) (role : Role) : Option (Nat × Porter) := s.porters.find? fun x => x.2.core == core && x.2.role == role && !x.2.queue.isEmpty
/-- A porter with its queue changed; one that has halted for good goes once its last command has ended (R443). -/
def State.settlePorter (s : State) (k : Nat) (p : Porter) : State :=
  if p.queue.isEmpty && p.mode == .halted && ((s.gang? p.gang).map fun g => s.coreDone g p.core).getD true then { s with porters := del s.porters k } else s.setPorter k p
/-- A command ends in a fault (R439): those queued behind it end without effect. -/
def Porter.faulted (p : Porter) (code : EngStatus) (addr : DWord) : Porter :=
  { p with flt := true, fcode := code.code, faddr := addr, done := (p.done + p.queue.length) % 65536, queue := [] }
/-- A command's rows have all been written (R438): its put, then its end. (DEDUCED: log entry 29.) (DESIGN CHOICE: log entry 107.) -/
def State.commandEnds (s : State) (p : Porter) (c : PorterCmd) : Porter × State :=
  let done : Porter := { p with done := (p.done + 1) % 65536, queue := p.queue.drop 1 }
  if c.cbend = 0 then (done, s)
  else
    let ea := scratchEa c.cbend.toNat
    match s.cbufAt (s.porterCtx p) ea with
    | .error _ => (p.faulted .addrRange ea, s)
    | .ok e =>
        if s.cbFails e then (p.faulted .check ea, s)
        else if (s.cbufBad e c.cbn).isSome then (p.faulted .addrRange ea, s)
        else match (s.porterRelease p true).cbufPut e c.cbn with
          | .error _ => (p.faulted .addrRange ea, s)
          | .ok (_, t) => (done, t)
/-- A row over: the next one, the end of the command, or its fault. -/
def State.rowOver (s : State) (k id : Nat) (bad : Option (Cause × DWord)) : State :=
  let s := s.dropCopy id
  match lookup s.porters k with
  | none => s
  | some p => match p.queue, bad with
    | [], _ => s
    | _ :: _, some (cause, ea) => s.settlePorter k (p.faulted (engCode cause) ea)
    | c :: r, none =>
        if c.row + 1 < c.nrow then s.setPorter k { p with queue := { c with row := c.row + 1, copy := none } :: r }
        else
          let (q, t) := s.commandEnds p c
          t.settlePorter k q
/-- The copy of a row. -/
def State.rowCopy (s : State) (p : Porter) (c : PorterCmd) : Copy :=
  { kind := .porter p.core p.role, gid := 0, team := (s.porterTeam p).getD 0, launch := s.porterLaunch p, asid := ((s.launchOfPorter p).map (·.asid)).getD 0,
    lane := 0, order := 0, token := none, word := 0, src := c.src + BitVec.ofNat 64 (c.spitch * c.row), dsts := [c.dst + BitVec.ofNat 64 (c.dpitch * c.row)], len := c.rowb,
    spitch := 0, dpitch := 0, desc := 0, phase := 0, awaiting := [], answers := [], failed := none, tile := none, epoch := s.dev.qepoch }
/-- PORTER_COMMAND_COMPLETE (R438, R439): the oldest command goes on by one row, or by one answer of another device, and ends after its last row. -/
def execPorterCommandComplete (core : Nat) (role : Role) (s : State) : Host.Outcome State Fault Refusal :=
  match s.postingPorter core role with
  | none => .refused .notEnabled
  | some (k, p) => match p.queue with
    | [] => .refused .notEnabled
    | c :: r => match c.copy with
      | some id => (match s.copy? id with
          | none => .refused .notEnabled
          | some x =>
              if x.answered && (x.failed.isSome || !s.stillWaits (s.copyCtx x) x.tile) then .next (s.performCopy id x fun s bad => s.rowOver k id bad) else .refused .notEnabled)
      | none =>
          let id := s.sched.nextId
          let t := (s.addCopy (s.rowCopy p c)).setPorter k { p with queue := { c with copy := some id } :: r }
          match t.copy? id with
          | none => .refused .notEnabled
          | some x => .next (t.performCopy id x fun s bad => s.rowOver k id bad)

end Sys2Proof.Machine
end

