-- ==== Sys2Proof/Machine/Dispatch.lean ====
section
/-! DEFINITION. The meaning of every instruction and every step of the machine: one arm for each constructor of Instr. -/
namespace Sys2Proof.Machine

/-- One instruction of the packet in issue, or one other step of the machine. -/
def exec (i : Instr) (s : State) : Host.Outcome State Fault Refusal :=
  match i with
  | .add d a r b q => Sys2Proof.Machine.execAdd d a r b q s
  | .sub d a r b q => Sys2Proof.Machine.execSub d a r b q s
  | .mul d a r b q => Sys2Proof.Machine.execMul d a r b q s
  | .mulh d a r b q => Sys2Proof.Machine.execMulh d a r b q s
  | .mulhu d a r b q => Sys2Proof.Machine.execMulhu d a r b q s
  | .mad d a r b q => Sys2Proof.Machine.execMad d a r b q s
  | .and d a r b q => Sys2Proof.Machine.execAnd d a r b q s
  | .or d a r b q => Sys2Proof.Machine.execOr d a r b q s
  | .xor d a r b q => Sys2Proof.Machine.execXor d a r b q s
  | .shl d a r b q => Sys2Proof.Machine.execShl d a r b q s
  | .shr d a r b q => Sys2Proof.Machine.execShr d a r b q s
  | .sar d a r b q => Sys2Proof.Machine.execSar d a r b q s
  | .rot d a r b q => Sys2Proof.Machine.execRot d a r b q s
  | .min d a r b q => Sys2Proof.Machine.execMin d a r b q s
  | .max d a r b q => Sys2Proof.Machine.execMax d a r b q s
  | .minu d a r b q => Sys2Proof.Machine.execMinu d a r b q s
  | .maxu d a r b q => Sys2Proof.Machine.execMaxu d a r b q s
  | .abs d a r => Sys2Proof.Machine.execAbs d a r s
  | .sel d a r b q => Sys2Proof.Machine.execSel d a r b q s
  | .clz d a r => Sys2Proof.Machine.execClz d a r s
  | .popc d a r => Sys2Proof.Machine.execPopc d a r s
  | .brev d a r => Sys2Proof.Machine.execBrev d a r s
  | .bfx d a r b q => Sys2Proof.Machine.execBfx d a r b q s
  | .bfxu d a r b q => Sys2Proof.Machine.execBfxu d a r b q s
  | .bfi d a r b q => Sys2Proof.Machine.execBfi d a r b q s
  | .addc d a r b q => Sys2Proof.Machine.execAddc d a r b q s
  | .subb d a r b q => Sys2Proof.Machine.execSubb d a r b q s
  | .addS d a r b q => Sys2Proof.Machine.execAddS d a r b q s
  | .addUs d a r b q => Sys2Proof.Machine.execAddUs d a r b q s
  | .subS d a r b q => Sys2Proof.Machine.execSubS d a r b q s
  | .subUs d a r b q => Sys2Proof.Machine.execSubUs d a r b q s
  | .cmpEq d a r b q => Sys2Proof.Machine.execCmpEq d a r b q s
  | .cmpNe d a r b q => Sys2Proof.Machine.execCmpNe d a r b q s
  | .cmpLt d a r b q => Sys2Proof.Machine.execCmpLt d a r b q s
  | .cmpLe d a r b q => Sys2Proof.Machine.execCmpLe d a r b q s
  | .cmpGt d a r b q => Sys2Proof.Machine.execCmpGt d a r b q s
  | .cmpGe d a r b q => Sys2Proof.Machine.execCmpGe d a r b q s
  | .cmpLtu d a r b q => Sys2Proof.Machine.execCmpLtu d a r b q s
  | .cmpLeu d a r b q => Sys2Proof.Machine.execCmpLeu d a r b q s
  | .cmpGtu d a r b q => Sys2Proof.Machine.execCmpGtu d a r b q s
  | .cmpGeu d a r b q => Sys2Proof.Machine.execCmpGeu d a r b q s
  | .ballot d a r => Sys2Proof.Machine.execBallot d a r s
  | .voteAll d a r => Sys2Proof.Machine.execVoteAll d a r s
  | .voteAny d a r => Sys2Proof.Machine.execVoteAny d a r s
  | .voteUni d a r => Sys2Proof.Machine.execVoteUni d a r s
  | .perm d a b q => Sys2Proof.Machine.execPerm d a b q s
  | .mov d a r => Sys2Proof.Machine.execMov d a r s
  | .callv d a r => Sys2Proof.Machine.execCallv d a r s
  | .retv a => Sys2Proof.Machine.execRetv a s
  | .rejoin a => Sys2Proof.Machine.execRejoin a s
  | .exitl => Sys2Proof.Machine.execExitl s
  | .fadd d a r b q => Sys2Proof.Machine.execFadd d a r b q s
  | .fsub d a r b q => Sys2Proof.Machine.execFsub d a r b q s
  | .fmul d a r b q => Sys2Proof.Machine.execFmul d a r b q s
  | .ffma d a r b q => Sys2Proof.Machine.execFfma d a r b q s
  | .fmin d a r b q => Sys2Proof.Machine.execFmin d a r b q s
  | .fmax d a r b q => Sys2Proof.Machine.execFmax d a r b q s
  | .fcls d a r => Sys2Proof.Machine.execFcls d a r s
  | .fdiv d a r b q => Sys2Proof.Machine.execFdiv d a r b q s
  | .fsqrt d a r => Sys2Proof.Machine.execFsqrt d a r s
  | .frcp d a r => Sys2Proof.Machine.execFrcp d a r s
  | .frsq d a r => Sys2Proof.Machine.execFrsq d a r s
  | .fex2 d a r => Sys2Proof.Machine.execFex2 d a r s
  | .flg2 d a r => Sys2Proof.Machine.execFlg2 d a r s
  | .fsgnCpy d a r b q => Sys2Proof.Machine.execFsgnCpy d a r b q s
  | .fsgnNeg d a r => Sys2Proof.Machine.execFsgnNeg d a r s
  | .fsgnXor d a r b q => Sys2Proof.Machine.execFsgnXor d a r b q s
  | .fsgnAbs d a r => Sys2Proof.Machine.execFsgnAbs d a r s
  | .frndRn d a r => Sys2Proof.Machine.execFrndRn d a r s
  | .frndRz d a r => Sys2Proof.Machine.execFrndRz d a r s
  | .frndRm d a r => Sys2Proof.Machine.execFrndRm d a r s
  | .frndRp d a r => Sys2Proof.Machine.execFrndRp d a r s
  | .fcmpEq d a r b q => Sys2Proof.Machine.execFcmpEq d a r b q s
  | .fcmpNe d a r b q => Sys2Proof.Machine.execFcmpNe d a r b q s
  | .fcmpLt d a r b q => Sys2Proof.Machine.execFcmpLt d a r b q s
  | .fcmpLe d a r b q => Sys2Proof.Machine.execFcmpLe d a r b q s
  | .fcmpGt d a r b q => Sys2Proof.Machine.execFcmpGt d a r b q s
  | .fcmpGe d a r b q => Sys2Proof.Machine.execFcmpGe d a r b q s
  | .fcmpUn d a r b q => Sys2Proof.Machine.execFcmpUn d a r b q s
  | .fcmpOrd d a r b q => Sys2Proof.Machine.execFcmpOrd d a r b q s
  | .dadd d a r b q => Sys2Proof.Machine.execDadd d a r b q s
  | .dsub d a r b q => Sys2Proof.Machine.execDsub d a r b q s
  | .dmul d a r b q => Sys2Proof.Machine.execDmul d a r b q s
  | .dfma d a r b q => Sys2Proof.Machine.execDfma d a r b q s
  | .dmin d a r b q => Sys2Proof.Machine.execDmin d a r b q s
  | .dmax d a r b q => Sys2Proof.Machine.execDmax d a r b q s
  | .ddiv d a r b q => Sys2Proof.Machine.execDdiv d a r b q s
  | .dsqrt d a r => Sys2Proof.Machine.execDsqrt d a r s
  | .drndRn d a r => Sys2Proof.Machine.execDrndRn d a r s
  | .drndRz d a r => Sys2Proof.Machine.execDrndRz d a r s
  | .drndRm d a r => Sys2Proof.Machine.execDrndRm d a r s
  | .drndRp d a r => Sys2Proof.Machine.execDrndRp d a r s
  | .dcmpEq d a r b q => Sys2Proof.Machine.execDcmpEq d a r b q s
  | .dcmpNe d a r b q => Sys2Proof.Machine.execDcmpNe d a r b q s
  | .dcmpLt d a r b q => Sys2Proof.Machine.execDcmpLt d a r b q s
  | .dcmpLe d a r b q => Sys2Proof.Machine.execDcmpLe d a r b q s
  | .dcmpGt d a r b q => Sys2Proof.Machine.execDcmpGt d a r b q s
  | .dcmpGe d a r b q => Sys2Proof.Machine.execDcmpGe d a r b q s
  | .dcmpUn d a r b q => Sys2Proof.Machine.execDcmpUn d a r b q s
  | .dcmpOrd d a r b q => Sys2Proof.Machine.execDcmpOrd d a r b q s
  | .hadd2 d a r b q => Sys2Proof.Machine.execHadd2 d a r b q s
  | .hmul2 d a r b q => Sys2Proof.Machine.execHmul2 d a r b q s
  | .hfma2 d a r b q => Sys2Proof.Machine.execHfma2 d a r b q s
  | .hmax2 d a r b q => Sys2Proof.Machine.execHmax2 d a r b q s
  | .badd2 d a r b q => Sys2Proof.Machine.execBadd2 d a r b q s
  | .bmul2 d a r b q => Sys2Proof.Machine.execBmul2 d a r b q s
  | .bfma2 d a r b q => Sys2Proof.Machine.execBfma2 d a r b q s
  | .bmax2 d a r b q => Sys2Proof.Machine.execBmax2 d a r b q s
  | .cvt d a r t u => Sys2Proof.Machine.execCvt d a r t u s
  | .cvtSat d a r t u => Sys2Proof.Machine.execCvtSat d a r t u s
  | .cvtRn d a r t u => Sys2Proof.Machine.execCvtRn d a r t u s
  | .cvtRz d a r t u => Sys2Proof.Machine.execCvtRz d a r t u s
  | .cvtRm d a r t u => Sys2Proof.Machine.execCvtRm d a r t u s
  | .cvtRp d a r t u => Sys2Proof.Machine.execCvtRp d a r t u s
  | .pkF16 d a r b q => Sys2Proof.Machine.execPkF16 d a r b q s
  | .pkBf16 d a r b q => Sys2Proof.Machine.execPkBf16 d a r b q s
  | .pkE4m3 d a r b q => Sys2Proof.Machine.execPkE4m3 d a r b q s
  | .pkE5m2 d a r b q => Sys2Proof.Machine.execPkE5m2 d a r b q s
  | .pkE4m3Sat d a r b q => Sys2Proof.Machine.execPkE4m3Sat d a r b q s
  | .pkE5m2Sat d a r b q => Sys2Proof.Machine.execPkE5m2Sat d a r b q s
  | .pkI8 d a r b q => Sys2Proof.Machine.execPkI8 d a r b q s
  | .pkI8S d a r b q => Sys2Proof.Machine.execPkI8S d a r b q s
  | .pkBq4T0 d a r => Sys2Proof.Machine.execPkBq4T0 d a r s
  | .pkBq4T1 d a r => Sys2Proof.Machine.execPkBq4T1 d a r s
  | .pkBq4T2 d a r => Sys2Proof.Machine.execPkBq4T2 d a r s
  | .pkBq4T3 d a r => Sys2Proof.Machine.execPkBq4T3 d a r s
  | .unpkF16 d a r => Sys2Proof.Machine.execUnpkF16 d a r s
  | .unpkBf16 d a r => Sys2Proof.Machine.execUnpkBf16 d a r s
  | .unpkE4m3 d a r => Sys2Proof.Machine.execUnpkE4m3 d a r s
  | .unpkE5m2 d a r => Sys2Proof.Machine.execUnpkE5m2 d a r s
  | .unpkI8 d a r => Sys2Proof.Machine.execUnpkI8 d a r s
  | .unpkBq4 d a => Sys2Proof.Machine.execUnpkBq4 d a s
  | .rngKey d a r b q => Sys2Proof.Machine.execRngKey d a r b q s
  | .rngDraw d a => Sys2Proof.Machine.execRngDraw d a s
  | .rngDrawF32 d a => Sys2Proof.Machine.execRngDrawF32 d a s
  | .rngDrawF64 d a => Sys2Proof.Machine.execRngDrawF64 d a s
  | .rngSkip d a r b q => Sys2Proof.Machine.execRngSkip d a r b q s
  | .aget d a r b q => Sys2Proof.Machine.execAget d a r b q s
  | .aadd d a r b q => Sys2Proof.Machine.execAadd d a r b q s
  | .amerge d a r b q => Sys2Proof.Machine.execAmerge d a r b q s
  | .aset d a r b q => Sys2Proof.Machine.execAset d a r b q s
  | .addImm d a imm => Sys2Proof.Machine.execAddImm d a imm s
  | .andImm d a imm => Sys2Proof.Machine.execAndImm d a imm s
  | .orImm d a imm => Sys2Proof.Machine.execOrImm d a imm s
  | .xorImm d a imm => Sys2Proof.Machine.execXorImm d a imm s
  | .shlImm d a n => Sys2Proof.Machine.execShlImm d a n s
  | .shrImm d a n => Sys2Proof.Machine.execShrImm d a n s
  | .sarImm d a n => Sys2Proof.Machine.execSarImm d a n s
  | .rotImm d a n => Sys2Proof.Machine.execRotImm d a n s
  | .movImm d imm => Sys2Proof.Machine.execMovImm d imm s
  | .lop3 d a b f m => Sys2Proof.Machine.execLop3 d a b f m s
  | .lop3Not d a b f m => Sys2Proof.Machine.execLop3Not d a b f m s
  | .brcNz c f => Sys2Proof.Machine.execBrcNz c f s
  | .brcZ c f => Sys2Proof.Machine.execBrcZ c f s
  | .ld d a k f => Sys2Proof.Machine.execLd d a k f s
  | .ldRaw d a k f => Sys2Proof.Machine.execLdRaw d a k f s
  | .st d a k f => Sys2Proof.Machine.execSt d a k f s
  | .stRaw d a k f => Sys2Proof.Machine.execStRaw d a k f s
  | .prefetchL2 a f => Sys2Proof.Machine.execPrefetchL2 a f s
  | .prefetchL1 a f => Sys2Proof.Machine.execPrefetchL1 a f s
  | .atomOAdd d a f => Sys2Proof.Machine.execAtomOAdd d a f s
  | .atomOAnd d a f => Sys2Proof.Machine.execAtomOAnd d a f s
  | .atomOOr d a f => Sys2Proof.Machine.execAtomOOr d a f s
  | .atomOXor d a f => Sys2Proof.Machine.execAtomOXor d a f s
  | .atomOMin d a f => Sys2Proof.Machine.execAtomOMin d a f s
  | .atomOMax d a f => Sys2Proof.Machine.execAtomOMax d a f s
  | .atomOMinu d a f => Sys2Proof.Machine.execAtomOMinu d a f s
  | .atomOMaxu d a f => Sys2Proof.Machine.execAtomOMaxu d a f s
  | .atomUAdd d a f => Sys2Proof.Machine.execAtomUAdd d a f s
  | .atomUAnd d a f => Sys2Proof.Machine.execAtomUAnd d a f s
  | .atomUOr d a f => Sys2Proof.Machine.execAtomUOr d a f s
  | .atomUXor d a f => Sys2Proof.Machine.execAtomUXor d a f s
  | .atomUMin d a f => Sys2Proof.Machine.execAtomUMin d a f s
  | .atomUMax d a f => Sys2Proof.Machine.execAtomUMax d a f s
  | .atomUMinu d a f => Sys2Proof.Machine.execAtomUMinu d a f s
  | .atomUMaxu d a f => Sys2Proof.Machine.execAtomUMaxu d a f s
  | .atomOExch d a f => Sys2Proof.Machine.execAtomOExch d a f s
  | .atomOCas d a f => Sys2Proof.Machine.execAtomOCas d a f s
  | .atomOAdd64 d a f => Sys2Proof.Machine.execAtomOAdd64 d a f s
  | .atomOExch64 d a f => Sys2Proof.Machine.execAtomOExch64 d a f s
  | .atomOCas64 d a f => Sys2Proof.Machine.execAtomOCas64 d a f s
  | .atomUExch d a f => Sys2Proof.Machine.execAtomUExch d a f s
  | .atomUCas d a f => Sys2Proof.Machine.execAtomUCas d a f s
  | .atomUAdd64 d a f => Sys2Proof.Machine.execAtomUAdd64 d a f s
  | .atomUExch64 d a f => Sys2Proof.Machine.execAtomUExch64 d a f s
  | .atomUCas64 d a f => Sys2Proof.Machine.execAtomUCas64 d a f s
  | .fatomOFadd d a f => Sys2Proof.Machine.execFatomOFadd d a f s
  | .fatomOFmin d a f => Sys2Proof.Machine.execFatomOFmin d a f s
  | .fatomOFmax d a f => Sys2Proof.Machine.execFatomOFmax d a f s
  | .fatomODadd d a f => Sys2Proof.Machine.execFatomODadd d a f s
  | .fatomOHadd2 d a f => Sys2Proof.Machine.execFatomOHadd2 d a f s
  | .fatomOBadd2 d a f => Sys2Proof.Machine.execFatomOBadd2 d a f s
  | .fatomUFadd d a f => Sys2Proof.Machine.execFatomUFadd d a f s
  | .fatomUFmin d a f => Sys2Proof.Machine.execFatomUFmin d a f s
  | .fatomUFmax d a f => Sys2Proof.Machine.execFatomUFmax d a f s
  | .fatomUDadd d a f => Sys2Proof.Machine.execFatomUDadd d a f s
  | .fatomUHadd2 d a f => Sys2Proof.Machine.execFatomUHadd2 d a f s
  | .fatomUBadd2 d a f => Sys2Proof.Machine.execFatomUBadd2 d a f s
  | .cpAsyncIn d a q f => Sys2Proof.Machine.execCpAsyncIn d a q f s
  | .cpAsyncOut d a q f => Sys2Proof.Machine.execCpAsyncOut d a q f s
  | .cpRows d a k => Sys2Proof.Machine.execCpRows d a k s
  | .cpMcastO d a k => Sys2Proof.Machine.execCpMcastO d a k s
  | .cpMcastU d a k => Sys2Proof.Machine.execCpMcastU d a k s
  | .cbufGet d a n => Sys2Proof.Machine.execCbufGet d a n s
  | .cbufPut d a n => Sys2Proof.Machine.execCbufPut d a n s
  | .qpushO d a => Sys2Proof.Machine.execQpushO d a s
  | .qpushU d a => Sys2Proof.Machine.execQpushU d a s
  | .qpop d a => Sys2Proof.Machine.execQpop d a s
  | .bucketArrive d a => Sys2Proof.Machine.execBucketArrive d a s
  | .barTag d a f => Sys2Proof.Machine.execBarTag d a f s
  | .rcpReg d a => Sys2Proof.Machine.execRcpReg d a s
  | .rcpDrop a => Sys2Proof.Machine.execRcpDrop a s
  | .rcpPin a => Sys2Proof.Machine.execRcpPin a s
  | .rcpUnpin a => Sys2Proof.Machine.execRcpUnpin a s
  | .tileState d a => Sys2Proof.Machine.execTileState d a s
  | .mmLdw a k => Sys2Proof.Machine.execMmLdw a k s
  | .mmSwapw a k => Sys2Proof.Machine.execMmSwapw a k s
  | .mmRun a k => Sys2Proof.Machine.execMmRun a k s
  | .mmSwapacc a k => Sys2Proof.Machine.execMmSwapacc a k s
  | .mmAccrd a k => Sys2Proof.Machine.execMmAccrd a k s
  | .mmAccwr a k => Sys2Proof.Machine.execMmAccwr a k s
  | .mmDrain a k => Sys2Proof.Machine.execMmDrain a k s
  | .mmRegrow a k => Sys2Proof.Machine.execMmRegrow a k s
  | .mmAmax d a => Sys2Proof.Machine.execMmAmax d a s
  | .bsAsm a k => Sys2Proof.Machine.execBsAsm a k s
  | .bsLu a k => Sys2Proof.Machine.execBsLu a k s
  | .bsLdl a k => Sys2Proof.Machine.execBsLdl a k s
  | .bsTrsv a k => Sys2Proof.Machine.execBsTrsv a k s
  | .bsPgs a k => Sys2Proof.Machine.execBsPgs a k s
  | .bsBack a k => Sys2Proof.Machine.execBsBack a k s
  | .bsStat d a => Sys2Proof.Machine.execBsStat d a s
  | .srtKeys a k => Sys2Proof.Machine.execSrtKeys a k s
  | .srtPairs a k => Sys2Proof.Machine.execSrtPairs a k s
  | .trvBuild a k => Sys2Proof.Machine.execTrvBuild a k s
  | .trvQuery a k => Sys2Proof.Machine.execTrvQuery a k s
  | .phaseRegroup a k => Sys2Proof.Machine.execPhaseRegroup a k s
  | .phaseRestore a k => Sys2Proof.Machine.execPhaseRestore a k s
  | .collPost a k => Sys2Proof.Machine.execCollPost a k s
  | .gNop => Sys2Proof.Machine.execGNop s
  | .gMov d a => Sys2Proof.Machine.execGMov d a s
  | .gAdd d a b => Sys2Proof.Machine.execGAdd d a b s
  | .gSub d a b => Sys2Proof.Machine.execGSub d a b s
  | .gMul d a b => Sys2Proof.Machine.execGMul d a b s
  | .gMulh d a b => Sys2Proof.Machine.execGMulh d a b s
  | .gMulhU d a b => Sys2Proof.Machine.execGMulhU d a b s
  | .gAnd d a b => Sys2Proof.Machine.execGAnd d a b s
  | .gOr d a b => Sys2Proof.Machine.execGOr d a b s
  | .gXor d a b => Sys2Proof.Machine.execGXor d a b s
  | .gShl d a b => Sys2Proof.Machine.execGShl d a b s
  | .gShr d a b => Sys2Proof.Machine.execGShr d a b s
  | .gSar d a b => Sys2Proof.Machine.execGSar d a b s
  | .gCmp d a b c => Sys2Proof.Machine.execGCmp d a b c s
  | .gSel d a b => Sys2Proof.Machine.execGSel d a b s
  | .gMin d a b => Sys2Proof.Machine.execGMin d a b s
  | .gMinU d a b => Sys2Proof.Machine.execGMinU d a b s
  | .gMax d a b => Sys2Proof.Machine.execGMax d a b s
  | .gMaxU d a b => Sys2Proof.Machine.execGMaxU d a b s
  | .gRet a => Sys2Proof.Machine.execGRet a s
  | .gYield => Sys2Proof.Machine.execGYield s
  | .gExit => Sys2Proof.Machine.execGExit s
  | .gLanes a => Sys2Proof.Machine.execGLanes a s
  | .gElect d => Sys2Proof.Machine.execGElect d s
  | .gEret => Sys2Proof.Machine.execGEret s
  | .gClockO d => Sys2Proof.Machine.execGClockO d s
  | .gClockU d => Sys2Proof.Machine.execGClockU d s
  | .gLaunch d a => Sys2Proof.Machine.execGLaunch d a s
  | .gTrylaunch d a => Sys2Proof.Machine.execGTrylaunch d a s
  | .gReplay d a b => Sys2Proof.Machine.execGReplay d a b s
  | .gInvoke d a => Sys2Proof.Machine.execGInvoke d a s
  | .gInvokeh d a b => Sys2Proof.Machine.execGInvokeh d a b s
  | .gAwait d a => Sys2Proof.Machine.execGAwait d a s
  | .gAwaitT d a => Sys2Proof.Machine.execGAwaitT d a s
  | .gHstat d a => Sys2Proof.Machine.execGHstat d a s
  | .gWsplit a b => Sys2Proof.Machine.execGWsplit a b s
  | .gWgive => Sys2Proof.Machine.execGWgive s
  | .gBar a => Sys2Proof.Machine.execGBar a s
  | .gBarrive a => Sys2Proof.Machine.execGBarrive a s
  | .gBarwait a => Sys2Proof.Machine.execGBarwait a s
  | .gWait k => Sys2Proof.Machine.execGWait k s
  | .gSeal d => Sys2Proof.Machine.execGSeal d s
  | .gBwait a => Sys2Proof.Machine.execGBwait a s
  | .gFenceRel c => Sys2Proof.Machine.execGFenceRel c s
  | .gFenceAcq c => Sys2Proof.Machine.execGFenceAcq c s
  | .gFenceFull c => Sys2Proof.Machine.execGFenceFull c s
  | .gStepadv a n => Sys2Proof.Machine.execGStepadv a n s
  | .gStepget d n => Sys2Proof.Machine.execGStepget d n s
  | .gSweep n => Sys2Proof.Machine.execGSweep n s
  | .gSweepwait d n => Sys2Proof.Machine.execGSweepwait d n s
  | .gJmp f => Sys2Proof.Machine.execGJmp f s
  | .gBrNz a f => Sys2Proof.Machine.execGBrNz a f s
  | .gBrZ a f => Sys2Proof.Machine.execGBrZ a f s
  | .gCall a f => Sys2Proof.Machine.execGCall a f s
  | .gLoop a f => Sys2Proof.Machine.execGLoop a f s
  | .gLi d imm => Sys2Proof.Machine.execGLi d imm s
  | .gLui d a imm => Sys2Proof.Machine.execGLui d a imm s
  | .gAddImm d a imm => Sys2Proof.Machine.execGAddImm d a imm s
  | .gAndImm d a imm => Sys2Proof.Machine.execGAndImm d a imm s
  | .gOrImm d a imm => Sys2Proof.Machine.execGOrImm d a imm s
  | .gXorImm d a imm => Sys2Proof.Machine.execGXorImm d a imm s
  | .gCsrr d c => Sys2Proof.Machine.execGCsrr d c s
  | .gCsrw a c => Sys2Proof.Machine.execGCsrw a c s
  | .gCsrs a c => Sys2Proof.Machine.execGCsrs a c s
  | .gCsrc a c => Sys2Proof.Machine.execGCsrc a c s
  | .gTrap n => Sys2Proof.Machine.execGTrap n s
  | .gFeat d n => Sys2Proof.Machine.execGFeat d n s
  | .gSetroute e k p => Sys2Proof.Machine.execGSetroute e k p s
  | .issueCycle core => Sys2Proof.Machine.execIssueCycle core s
  | .rejoinStall g => Sys2Proof.Machine.execRejoinStall g s
  | .scoreboardedResult g id => Sys2Proof.Machine.execScoreboardedResult g id s
  | .exitWaitEnd g => Sys2Proof.Machine.execExitWaitEnd g s
  | .heldAccessResume g id => Sys2Proof.Machine.execHeldAccessResume g id s
  | .heldStoreApply core => Sys2Proof.Machine.execHeldStoreApply core s
  | .copyComplete id => Sys2Proof.Machine.execCopyComplete id s
  | .rowGatherComplete id => Sys2Proof.Machine.execRowGatherComplete id s
  | .multicastComplete id => Sys2Proof.Machine.execMulticastComplete id s
  | .cbufGetGrant g => Sys2Proof.Machine.execCbufGetGrant g s
  | .queuePushReserve g => Sys2Proof.Machine.execQueuePushReserve g s
  | .queuePopDeliver g => Sys2Proof.Machine.execQueuePopDeliver g s
  | .benchTakeItem cluster bench => Sys2Proof.Machine.execBenchTakeItem cluster bench s
  | .solverTakeItem cluster => Sys2Proof.Machine.execSolverTakeItem cluster s
  | .sortTakeRange die unit => Sys2Proof.Machine.execSortTakeRange die unit s
  | .engineCommandComplete cmd => Sys2Proof.Machine.execEngineCommandComplete cmd s
  | .drainSweepOrder n => Sys2Proof.Machine.execDrainSweepOrder n s
  | .sweepComplete n => Sys2Proof.Machine.execSweepComplete n s
  | .phaseCompactorRun team => Sys2Proof.Machine.execPhaseCompactorRun team s
  | .collStart collid => Sys2Proof.Machine.execCollStart collid s
  | .collGate cmd => Sys2Proof.Machine.execCollGate cmd s
  | .collTimeout cmd => Sys2Proof.Machine.execCollTimeout cmd s
  | .recomputeEntryWaitEnd tile => Sys2Proof.Machine.execRecomputeEntryWaitEnd tile s
  | .recomputeComplete launch => Sys2Proof.Machine.execRecomputeComplete launch s
  | .recipeChainEnd tile => Sys2Proof.Machine.execRecipeChainEnd tile s
  | .tileEvictDrop tile => Sys2Proof.Machine.execTileEvictDrop tile s
  | .patrolScrub line => Sys2Proof.Machine.execPatrolScrub line s
  | .ticketSegmentApply launch => Sys2Proof.Machine.execTicketSegmentApply launch s
  | .admissionDecision launch => Sys2Proof.Machine.execAdmissionDecision launch s
  | .gangPlace gang => Sys2Proof.Machine.execGangPlace gang s
  | .gangSwapOut gang => Sys2Proof.Machine.execGangSwapOut gang s
  | .reservationDeadline launch => Sys2Proof.Machine.execReservationDeadline launch s
  | .overrun launch => Sys2Proof.Machine.execOverrun launch s
  | .launchKill launch => Sys2Proof.Machine.execLaunchKill launch s
  | .launchComplete launch => Sys2Proof.Machine.execLaunchComplete launch s
  | .replayStart replay => Sys2Proof.Machine.execReplayStart replay s
  | .replayComplete replay => Sys2Proof.Machine.execReplayComplete replay s
  | .claimExpire slot => Sys2Proof.Machine.execClaimExpire slot s
  | .changeDependentAction => Sys2Proof.Machine.execChangeDependentAction s
  | .rdreq h m => Sys2Proof.Machine.execRdreq h m s
  | .rdrsp h vals bytes => Sys2Proof.Machine.execRdrsp h vals bytes s
  | .wr h m => Sys2Proof.Machine.execWr h m s
  | .wrack h => Sys2Proof.Machine.execWrack h s
  | .atomreq h m => Sys2Proof.Machine.execAtomreq h m s
  | .atomrsp h vals => Sys2Proof.Machine.execAtomrsp h vals s
  | .failrsp h m => Sys2Proof.Machine.execFailrsp h m s
  | .invoke h m => Sys2Proof.Machine.execInvoke h m s
  | .claimmsg h m => Sys2Proof.Machine.execClaimmsg h m s
  | .claimres h m => Sys2Proof.Machine.execClaimres h m s
  | .signal h m => Sys2Proof.Machine.execSignal h m s
  | .coll h m => Sys2Proof.Machine.execColl h m s
  | .idle port lseq lack => Sys2Proof.Machine.execIdle port lseq lack s
  | .nack port lseq => Sys2Proof.Machine.execNack port lseq s
  | .mgmt h bytes => Sys2Proof.Machine.execMgmt h bytes s
  | .linkDown port => Sys2Proof.Machine.execLinkDown port s
  | .requestTimeout tag => Sys2Proof.Machine.execRequestTimeout tag s
  | .rdmaWrite rkey la data => Sys2Proof.Machine.execRdmaWrite rkey la data s
  | .rdmaWriteWithImmediate rkey la data imm => Sys2Proof.Machine.execRdmaWriteWithImmediate rkey la data imm s
  | .rdmaRead rkey la len => Sys2Proof.Machine.execRdmaRead rkey la len s
  | .roceInvalidRequest op => Sys2Proof.Machine.execRoceInvalidRequest op s
  | .identify h => Sys2Proof.Machine.execIdentify h s
  | .attest h nonce => Sys2Proof.Machine.execAttest h nonce s
  | .fwload h c => Sys2Proof.Machine.execFwload h c s
  | .imageload h asid base c => Sys2Proof.Machine.execImageload h asid base c s
  | .imageunload h handle => Sys2Proof.Machine.execImageunload h handle s
  | .launch h die asid record => Sys2Proof.Machine.execLaunch h die asid record s
  | .kill h launch => Sys2Proof.Machine.execKill h launch s
  | .resume h r => Sys2Proof.Machine.execResume h r s
  | .map h asid la len pa size attr => Sys2Proof.Machine.execMap h asid la len pa size attr s
  | .unmap h asid la len => Sys2Proof.Machine.execUnmap h asid la len s
  | .change h asid la len attr => Sys2Proof.Machine.execChange h asid la len attr s
  | .free h asid la len => Sys2Proof.Machine.execFree h asid la len s
  | .migrate h asid la pa => Sys2Proof.Machine.execMigrate h asid la pa s
  | .drop h asid la => Sys2Proof.Machine.execDrop h asid la s
  | .asid h asid trapvec => Sys2Proof.Machine.execAsid h asid trapvec s
  | .decaytab h base c => Sys2Proof.Machine.execDecaytab h base c s
  | .span h domains => Sys2Proof.Machine.execSpan h domains s
  | .ctxmem h pa len => Sys2Proof.Machine.execCtxmem h pa len s
  | .read h what => Sys2Proof.Machine.execRead h what s
  | .route h entries announce => Sys2Proof.Machine.execRoute h entries announce s
  | .lose h device => Sys2Proof.Machine.execLose h device s
  | .assume h device incarnation => Sys2Proof.Machine.execAssume h device incarnation s
  | .rkey h create rkey asid la len => Sys2Proof.Machine.execRkey h create rkey asid la len s
  | .hcpEventAck session count => Sys2Proof.Machine.execHcpEventAck session count s
  | .hcpEventResend session => Sys2Proof.Machine.execHcpEventResend session s
  | .hold hold => Sys2Proof.Machine.execHold hold s
  | .state => Sys2Proof.Machine.execState s
  | .setip addr plen gateway => Sys2Proof.Machine.execSetip addr plen gateway s
  | .session index install d => Sys2Proof.Machine.execSession index install d s
  | .telemetry page => Sys2Proof.Machine.execTelemetry page s
  | .event => Sys2Proof.Machine.execEvent s
  | .sbIdentify => Sys2Proof.Machine.execSbIdentify s
  | .dynamicAddressAssign addr => Sys2Proof.Machine.execDynamicAddressAssign addr s
  | .sbrstn high => Sys2Proof.Machine.execSbrstn high s
  | .powerOnReset => Sys2Proof.Machine.execPowerOnReset s
  | .bootVerify => Sys2Proof.Machine.execBootVerify s
  | .go core role => Sys2Proof.Machine.execGo core role s
  | .cbget core role => Sys2Proof.Machine.execCbget core role s
  | .cbput core role => Sys2Proof.Machine.execCbput core role s
  | .faultClear core role => Sys2Proof.Machine.execFaultClear core role s
  | .porterWindowWrite core role => Sys2Proof.Machine.execPorterWindowWrite core role s
  | .porterCommandComplete core role => Sys2Proof.Machine.execPorterCommandComplete core role s
  | .porterEcall core role => Sys2Proof.Machine.execPorterEcall core role s
  | .porterException core role => Sys2Proof.Machine.execPorterException core role s
  | .porterInstruction core role => Sys2Proof.Machine.execPorterInstruction core role s
  | .flitCrcFailure port => Sys2Proof.Machine.execFlitCrcFailure port s
  | .unknownFlitType port lseq lack => Sys2Proof.Machine.execUnknownFlitType port lseq lack s
  | .hcpUnlistedType h type => Sys2Proof.Machine.execHcpUnlistedType h type s
  | .hcpFrameDiscard frame => Sys2Proof.Machine.execHcpFrameDiscard frame s
  | .sidebandBadRequest request => Sys2Proof.Machine.execSidebandBadRequest request s
  | .congestionNotificationPacket => Sys2Proof.Machine.execCongestionNotificationPacket s
  | .priorityFlowControl pause => Sys2Proof.Machine.execPriorityFlowControl pause s
  | .ethernetLink up => Sys2Proof.Machine.execEthernetLink up s

end Sys2Proof.Machine
end

