-- ==== Sys2Proof/Machine/Frames.lean ====
section
/-! DEFINITION. What stands on the device's ports: flits (R447, R448, R450), HCP frames (R464, R465), sideband requests and replies (R479, R480), RoCEv2 packets (R463); read into what arrives, and formed from what leaves. -/
namespace Sys2Proof.Machine

/-- Where the fields of a request stand in its payload: the form of a READ, the offset and length of each field, and those of each row of a list. (DESIGN CHOICE: log entry 106.) -/
structure HcpLayout where
  form : Nat
  fields : List (Nat × Nat)
  rows : List (List (Nat × Nat))
  deriving DecidableEq, Repr, Inhabited

end Sys2Proof.Machine

namespace Sys2Proof.Config
open Sys2Proof.Machine

/-- Free value: the payload of a flit by its message: R450 to R461 give it no layout. (DESIGN CHOICE: log entry 35.) -/
opaque flitPayload : FlitMsg → List Byte
/-- Free value: the message that a payload of a TYPE carries, if it carries one. (DESIGN CHOICE: log entry 35.) -/
opaque readFlit : Nat → List Byte → Option FlitMsg
/-- Free value: where the fields of the request stand that a payload of a TYPE carries, if it carries one: R467 gives most of them no layout. Their byte order is R5's. (DESIGN CHOICE: log entry 106.) -/
opaque hcpLayout : Nat → List Byte → Option HcpLayout

end Sys2Proof.Config

namespace Sys2Proof.Machine

/-! ## Flits (R447, R450) -/

/-- The TYPE of a message (R450). -/
def FlitMsg.type : FlitMsg → Nat
  | .rdreq _ => 0x01
  | .rdrsp _ _ => 0x02
  | .wr _ => 0x03
  | .wrack => 0x04
  | .atomreq _ => 0x05
  | .atomrsp _ => 0x06
  | .failrsp _ => 0x07
  | .invoke _ => 0x10
  | .claimmsg _ => 0x11
  | .claimres _ => 0x12
  | .signal _ => 0x13
  | .coll _ => 0x20
  | .mgmt _ => 0x3F
/-- The local address at the destination that a message names: that of its first part (R447). (DESIGN CHOICE: log entry 106.) -/
def FlitMsg.addr : FlitMsg → Nat
  | .rdreq m => (m.parts.head?.map (·.la)).getD 0
  | .wr m => (m.parts.head?.map (·.la)).getD 0
  | .atomreq m => (m.parts.head?.map (·.la)).getD 0
  | .rdrsp _ _ | .wrack | .atomrsp _ | .failrsp _ | .invoke _ | .claimmsg _ | .claimres _ | .signal _ | .coll _ | .mgmt _ => 0
/-- Does a message carry lines of data, so that its trailer carries their check values (R400, R447)? (DESIGN CHOICE: log entry 106.) -/
def FlitMsg.carriesLines : FlitMsg → Bool
  | .rdrsp _ _ | .wr _ | .atomreq _ | .atomrsp _ | .invoke _ | .claimmsg _ | .claimres _ | .signal _ | .coll _ => true
  | .rdreq _ | .wrack | .failrsp _ | .mgmt _ => false
/-- The check value of line i of a payload (R399, R447): the address of a line on the fabric is the local address that the flit carries. (DESIGN CHOICE: log entry 106.) -/
def flitCheck (payload : List Byte) (la i : Nat) : BitVec 16 := crc16 ((payload.drop (64 * i)).take 64 ++ bytesOfNat 8 ((la + 64 * i) / 64 * 64))
/-- The 284 bytes that the CRC covers, and the CRC (R447). -/
def closeFlit (bs : List Byte) : List Byte := bs ++ bytesOfNat 4 (crc32 bs).toNat
/-- LINKADDR (R447). -/
def linkAddr (lack lseq la : Nat) : Nat := lack % 512 * 2 ^ 55 + lseq % 512 * 2 ^ 46 + la % 2 ^ 46
/-- A flit as it stands on a link (R447). A line that failed at its sender leaves with a check value that fails (R400). -/
def flitFrame (h : FlitHdr) (m : FlitMsg) : List Byte :=
  let data := (Config.flitPayload m).take 256
  let payload := padTo 256 data
  let check (i : Nat) : List Byte :=
    if m.carriesLines then bytesOfNat 2 ((flitCheck payload m.addr i).toNat ^^^ (if h.badLines.testBit i then 1 else 0)) else [0, 0]
  closeFlit (bytesOfNat 1 m.type ++ bytesOfNat 1 (m.vc + 4 * m.carriesLines.toNat) ++ bytesOfNat 1 ((data.length + 3) / 4) ++ bytesOfNat 1 h.hops ++ bytesOfNat 2 h.dest ++ bytesOfNat 2 h.src
    ++ bytesOfNat 2 h.tag ++ bytesOfNat 2 h.eseq ++ bytesOfNat 8 (linkAddr h.lack h.lseq m.addr) ++ payload ++ (List.range 4).flatMap check)
/-- An idle flit or a NACK as it stands on a link: its type and link numbers (R447, R450). -/
def linkFrame (type lseq lack : Nat) : List Byte :=
  closeFlit (bytesOfNat 1 type ++ List.replicate 11 0 ++ bytesOfNat 8 (linkAddr lack lseq 0) ++ List.replicate 264 0)
/-- A flit read from a link (R447, R448, R450): one whose CRC fails, one of the link's own, one that is dropped, or one with the lines of its payload that fail. -/
noncomputable def readFrame (port : Nat) (bs : List Byte) : Instr :=
  if bs.length ≠ 288 || fieldAt bs 0x11C 4 != (crc32 (bs.take 0x11C)).toNat then .flitCrcFailure port
  else
    let la := fieldAt bs 0x0C 8 % 2 ^ 46
    let lseq := fieldAt bs 0x0C 8 / 2 ^ 46 % 512
    let lack := fieldAt bs 0x0C 8 / 2 ^ 55
    let payload := (bs.drop 0x14).take 256
    let type := fieldAt bs 0 1
    let chk := (fieldAt bs 1 1).testBit 2
    if type = 0x30 then .idle port lseq lack
    else if type = 0x31 then .nack port lseq
    else match (Config.readFlit type (payload.take (4 * fieldAt bs 2 1))).filter fun m => m.type == type && m.vc == fieldAt bs 1 1 % 4 with
      | none => .unknownFlitType port lseq lack
      | some m =>
          let bad := if chk then (List.range 4).filter fun i => fieldAt bs (0x114 + 2 * i) 2 != (flitCheck payload la i).toNat else []
          m.instr { port := port, lseq := lseq, lack := lack, hops := fieldAt bs 3 1, dest := fieldAt bs 4 2 % 2 ^ 14, src := fieldAt bs 6 2 % 2 ^ 14, tag := fieldAt bs 8 2, eseq := fieldAt bs 0xA 2,
                    badLines := (bad.map fun i => 2 ^ i).sum }

/-! ## HCP frames (R464, R465) -/

/-- The MAC of a header and payload under a session's key (R464). (DEDUCED: log entry 106.) -/
def sessionMac (d : SessionData) (bs : List Byte) : List Byte := (hmacSha256 (bytesOfNat 32 d.key) bs).take 16
/-- A frame of a session (R464). -/
def hcpFrame (d : SessionData) (type session seq status : Nat) (payload : List Byte) : List Byte :=
  let bs := bytesOfNat 2 0x4D48 ++ bytesOfNat 1 1 ++ bytesOfNat 1 type ++ bytesOfNat 4 session ++ bytesOfNat 4 seq ++ bytesOfNat 2 payload.length ++ bytesOfNat 2 status ++ payload
  bs ++ sessionMac d bs
/-- A chunk, from its offset, its data and its mark of the last one. -/
def chunkOf (offset data last : List Byte) : Chunk := { offset := natOfBytes offset, data := data, last := natOfBytes last != 0 }
/-- What a RESUME writes: rows of two fields are TRAPPCs of lanes, rows of three are registers of lanes (R363). -/
def resumeOf (launch team group : Nat) (saveden : Option LaneMask) (rows : List (List Nat)) : ResumeData :=
  { launch := launch, team := team, group := group, saveden := saveden
    trappcs := rows.filterMap fun r => match r with
      | [l, pc] => some (l, BitVec.ofNat 64 pc)
      | _ => none
    regs := rows.filterMap fun r => match r with
      | [l, x, v] => some (l, x, BitVec.ofNat 32 v)
      | _ => none }
/-- The request that a payload carries under a layout: every number is read little-endian (R5). A ROUTE has a row for each entry, the device and then its ports, and a field for the number it announces. (DESIGN CHOICE: log entry 106.) -/
noncomputable def hcpRequest (type : Nat) (h : HcpHdr) (payload : List Byte) (y : HcpLayout) : Option Instr :=
  let at' (x : Nat × Nat) : List Byte := (payload.drop x.1).take x.2
  let raw := y.fields.map at'
  let nums := raw.map natOfBytes
  let rows := y.rows.map (·.map fun x => natOfBytes (at' x))
  match type, nums with
  | 0x01, [] => some (.identify h)
  | 0x02, [_] => some (.attest h (raw.getD 0 []))
  | 0x03, [_, _, _] => some (.fwload h (chunkOf (raw.getD 0 []) (raw.getD 1 []) (raw.getD 2 [])))
  | 0x08, [asid, base, _, _, _] => some (.imageload h asid base (chunkOf (raw.getD 2 []) (raw.getD 3 []) (raw.getD 4 [])))
  | 0x09, [handle] => some (.imageunload h (BitVec.ofNat 32 handle))
  | 0x0A, [die, asid, _] => some (.launch h die asid (raw.getD 2 []))
  | 0x0B, [launch] => some (.kill h launch)
  | 0x0C, [launch, team, group] => some (.resume h (resumeOf launch team group none rows))
  | 0x0C, [launch, team, group, en] => some (.resume h (resumeOf launch team group (some (BitVec.ofNat _ en)) rows))
  | 0x10, [asid, la, len, pa, size, attr] => some (.map h asid la len pa size (BitVec.ofNat 32 attr))
  | 0x11, [asid, la, len] => some (.unmap h asid la len)
  | 0x12, [asid, la, len, attr] => some (.change h asid la len (BitVec.ofNat 32 attr))
  | 0x13, [asid, la, len] => some (.free h asid la len)
  | 0x14, [asid, la, pa] => some (.migrate h asid la pa)
  | 0x15, [asid, la] => some (.drop h asid la)
  | 0x16, [asid, vec] => some (.asid h asid (BitVec.ofNat 64 vec))
  | 0x18, [base, _, _, _] => some (.decaytab h base (chunkOf (raw.getD 1 []) (raw.getD 2 []) (raw.getD 3 [])))
  | 0x19, [domains] => some (.span h (BitVec.ofNat 16 domains))
  | 0x1A, [pa, len] => some (.ctxmem h pa len)
  | 0x1B, fields => match y.form, fields with
      | 0, [] => some (.read h .epochs)
      | 1, [asid, la] => some (.read h (.tile asid la))
      | 2, [pa, len] => some (.read h (.context pa len))
      | 3, [] => some (.read h .telemetry)
      | _, _ => none
  | 0x20, announce => if announce.length ≤ 1 then some (.route h (rows.filterMap fun r => match r with
      | d :: ports => some (d, ports)
      | [] => none) announce.head?) else none
  | 0x21, [device] => some (.lose h device)
  | 0x22, [device, incarnation] => some (.assume h device incarnation)
  | 0x23, [create, rkey, asid, la, len] => some (.rkey h (create != 0) rkey asid la len)
  | _, _ => none
/-- Does a frame come from its session: source, MAC, MAGIC, VERSION and LEN (R464, R465)? -/
def State.frameOk (s : State) (source : Nat) (bs : List Byte) : Bool :=
  let len := fieldAt bs 0xC 2
  match lookup s.host.sessions (fieldAt bs 4 4) with
  | none => false
  | some x => x.data.host == source && fieldAt bs 0 2 == 0x4D48 && fieldAt bs 2 1 == 1 && decide (len ≤ 8960) && bs.length == len + 32 && sessionMac x.data (bs.take (len + 16)) == bs.drop (len + 16)
/-- A request that arrives: a row, or a listed TYPE whose payload carries none, answered BAD_REQUEST. (DESIGN CHOICE: log entry 106.) -/
noncomputable def State.request' (s : State) (type : Nat) (h : HcpHdr) (payload : List Byte) : State :=
  match (Config.hcpLayout type payload).bind (hcpRequest type h payload) with
  | some i => { s with inbox := s.inbox ++ [i] }
  | none => match hcp h type s (refuse 32) with
    | .next t => t
    | .fault _ => s
    | .refused _ => s
/-- A UDP datagram (R464, R465, R467, R469): an event is acknowledged by its own TYPE as a reply, with its count. (DEDUCED: log entry 106.) -/
noncomputable def State.takeUdp (s : State) (source port : Nat) (bs : List Byte) : State :=
  if port ≠ 46801 then s
  else if !s.frameOk source bs then { s with inbox := s.inbox ++ [.hcpFrameDiscard bs] }
  else
    let type := fieldAt bs 3 1
    let h : HcpHdr := { session := fieldAt bs 4 4, seq := fieldAt bs 8 4 }
    if 0xC0 ≤ type ∧ type < 0xC8 then { s with inbox := s.inbox ++ [.hcpEventAck h.session h.seq] }
    else if listedTypes.contains type then s.request' type h ((bs.drop 16).take (fieldAt bs 0xC 2))
    else { s with inbox := s.inbox ++ [.hcpUnlistedType h type] }

/-! ## The sideband (R479, R480) -/

/-- The request that a private write carries, or BAD_REQUEST. -/
noncomputable def sidebandRow (bs : List Byte) : Instr :=
  let len := fieldAt bs 1 2
  let pl := (bs.drop 3).take len
  if 240 < len || bs.length ≠ len + 5 || fieldAt bs (len + 3) 2 != (crc16 (bs.take (len + 3))).toNat then .sidebandBadRequest bs
  else match fieldAt bs 0 1, len with
    | 1, 1 => if fieldAt pl 0 1 < 2 then .hold (fieldAt pl 0 1 == 1) else .sidebandBadRequest bs
    | 2, 0 => .state
    | 3, 33 => .setip (fieldAt pl 0 16) (fieldAt pl 16 1) (fieldAt pl 17 16)
    | 4, 68 =>
        if fieldAt pl 1 1 < 2 then .session (fieldAt pl 0 1) (fieldAt pl 1 1 == 1) { host := fieldAt pl 2 16, evAddr := fieldAt pl 18 16, evPort := fieldAt pl 34 2, key := fieldAt pl 36 32 }
        else .sidebandBadRequest bs
    | 5, 1 => .telemetry (fieldAt pl 0 1)
    | 6, 0 => .event
    | 7, 0 => .sbIdentify
    | _, _ => .sidebandBadRequest bs
/-- A reply as a private read returns it (R479). -/
def sidebandReply (status : Nat) (payload : List Byte) : List Byte :=
  let bs := bytesOfNat 2 status ++ bytesOfNat 2 payload.length ++ payload
  bs ++ bytesOfNat 2 (crc16 bs).toNat
/-- A private write (R479): one request at a time; SBRSTN low holds the port in reset (R478). (DESIGN CHOICE: log entry 106.) -/
noncomputable def State.takeSideband (s : State) (bs : List Byte) : State :=
  if s.host.boot.resetLow then s
  else if s.host.sbReq.isSome then { s with sent := s.sent ++ [.sidebandNack] }
  else { s with host := { s.host with sbReq := some bs, sbReply := none }, inbox := s.inbox ++ [sidebandRow bs] }
/-- A private read (R479). -/
def State.readSideband (s : State) : State :=
  if s.host.boot.resetLow then s
  else match s.host.sbReply with
    | none => { s with sent := s.sent ++ [.sidebandNack] }
    | some bs => { s with host := { s.host with sbReply := none }, sent := s.sent ++ [.sideband bs] }

/-! ## RoCEv2 (R463) -/

/-- Is an operation one of RoCEv2? -/
def isRoce (i : Instr) : Bool :=
  match i with
  | .rdmaWrite _ _ _ | .rdmaWriteWithImmediate _ _ _ _ | .rdmaRead _ _ _ | .congestionNotificationPacket => true
  | _ => false
/-- An operation on a queue pair (R463): at most 4,096 are in use, and one marked for congestion is notified. (DESIGN CHOICE: log entry 106.) -/
noncomputable def State.takeRoce (s : State) (qp : Nat) (marked : Bool) (op : Instr) : State :=
  let known := s.host.qps.contains qp
  if !known && decide (4096 ≤ s.host.qps.length) then { s with inbox := s.inbox ++ [.roceInvalidRequest 0] }
  else
    let s := if known then s else { s with host := { s.host with qps := s.host.qps ++ [qp] } }
    let s := if marked then s.roce [.cnp qp] else s
    { s with inbox := s.inbox ++ [if isRoce op then op else .roceInvalidRequest 0] }

/-! ## The ports -/

/-- A frame taken in. -/
noncomputable def State.takeFrame (s : State) (f : Frame) : State :=
  match f with
  | .flit port bs => { s with inbox := s.inbox ++ [readFrame port bs] }
  | .udp source port bs => s.takeUdp source port bs
  | .roce qp marked op => if s.host.boot.st == .running then s.takeRoce qp marked op else s
  | .sidebandWrite bs => s.takeSideband bs
  | .sidebandRead => s.readSideband
/-- What leaves, formed as it stands on its port. A frame of a session that is gone cannot be formed; which RoCEv2 packets are marked is free (R463). (DESIGN CHOICE: log entry 65.) -/
def State.formed (s : State) (o : Out) : List Sent :=
  match o with
  | .flit h m => [.flit h.port (flitFrame h m)]
  | .nack port lseq => [.flit port (linkFrame 0x31 lseq (lseq + 511))]
  | .idle port lseq lack => [.flit port (linkFrame 0x30 lseq lack)]
  | .reply session seq type status payload =>
      (match lookup s.host.sessions session with
      | none => []
      | some x => [.udp x.data.host none (hcpFrame x.data type session seq status payload)])
  | .event session count type payload =>
      (match lookup s.host.sessions session with
      | none => []
      | some x => [.udp x.data.evAddr (some x.data.evPort) (hcpFrame x.data type session count 0 payload)])
  | .sideband _ _ => []
  | .roceAck => [.roce (Config.ecnMark s.tick) .roceAck]
  | .roceData d => [.roce (Config.ecnMark s.tick) (.roceData d)]
  | .roceAccessError => [.roce (Config.ecnMark s.tick) .roceAccessError]
  | .roceInvalid => [.roce (Config.ecnMark s.tick) .roceInvalid]
  | .roceImm w => [.roce (Config.ecnMark s.tick) (.roceImm w)]
  | .cnp qp => [.roce (Config.ecnMark s.tick) (.cnp qp)]
/-- What leaves: a sideband reply waits to be read (R479), anything else is sent. -/
def State.emit (s : State) (o : Out) : State :=
  match o with
  | .sideband status payload => { s with host := { s.host with sbReq := none, sbReply := some (sidebandReply status payload) } }
  | o => { s with sent := s.sent ++ s.formed o }

end Sys2Proof.Machine
end

