-- ==== Sys2Proof/Machine/Agents.lean ====
section
/-! DEFINITION. What the machine does next: an instruction of the packet in issue is fetched, decoded in the order of R100 and run; with no packet in issue, the agents of the device that may act, and the end of the cycle. -/
namespace Sys2Proof.Machine

/-! ## One instruction of the packet in issue -/

/-- Each lane that reads a fixed-latency write of an earlier packet that is not visible yet, with the instruction that wrote it (R94). (DEDUCED: log entry 75.) -/
def Group.shortReads (g : Group) (now : Nat) (active : LaneMask) (u : Uses) : List (Nat × DWord) :=
  u.reads.flatMap fun x => (readLanes g now active x).filterMap fun l =>
    (g.hist.find? fun h => h.reg == x.reg && l.2.contains h.lane && decide (now < h.visible) && decide (h.issued < now)).map fun h => (l.1, h.writer)

/-- The deferred trap that reading registers takes (R224, R352). -/
def Group.deferredRead (g : Group) (u : Uses) : Option Deferred :=
  g.deferredFor fun d => d.kind.isAccess && u.reads.any fun x => d.regs.contains x.reg

/-- What an instruction of a group comes to before it has any effect, in the order of R100 steps 5 and 6, then R94. (DEDUCED: log entry 75.) -/
def State.precheck (s : State) (g : Group) (sl : Slot) (u : Uses) : Option (Cause × LaneMask × DWord) :=
  if !u.shapeOk then some (.illegal, sl.lanes, 0)
  else if u.named.any fun r => decide (g.alloc ≤ r.val) then some (.budget, sl.lanes, 0)
  else if !g.schk then none
  else
    let m := maskOf ((g.shortReads s.cycle sl.lanes u).map (·.1))
    ((g.shortReads s.cycle sl.lanes u).find? fun x => x.1 == g.lowest m).map fun x => (.stallShort, m, x.2)

/-- The meaning of the packet's instruction, and after it the next instruction of the packet. -/
def State.runInstr (s : State) (i : Instr) : Host.Outcome State Fault Refusal :=
  match exec i s with
  | .next t => .next t.afterSlot
  | .fault f => .fault f
  | .refused r => .refused r

/-- An instruction decoded and run (R100): steps 2 to 6, the checking scoreboard, a deferred trap that it takes, its effect. An instruction that waits on a held or remote result comes here only for the deferred trap that this blocking point takes (R224, R225). One that has waited has passed them. (DESIGN CHOICE: log entry 19.) (DESIGN CHOICE: log entry 97.) -/
noncomputable def State.runWord (s : State) (p : Packet) (g : Group) : Host.Outcome State Fault Refusal :=
  let trap (c : Cause) : Host.Outcome State Fault Refusal := .next (s.trapAt p.gid p.cur c p.cur.lanes 0).afterSlot
  match decodeWord p.cur.word with
  | .error .extension => trap .extEmu
  | .error .zeroWord | .error .opcode | .error .field | .error .shape => trap .illegal
  | .ok i =>
      if (g.waitOf p.cur.pc p.cur.place).isSome then s.runInstr i
      else match s.precheck g p.cur (uses g.width i) with
        | some (c, m, a) => .next (s.trapAt p.gid p.cur c m a).afterSlot
        | none => match g.deferredRead (uses g.width i) with
          | some d => .next (s.trapDeferred p.gid p.cur d).afterSlot
          | none =>
              if (g.conflicts s.cycle p.cur.lanes (uses g.width i)).any fun e => g.stalls.contains e.id then .next (s.blockHere p g s).afterSlot
              else s.runInstr i

/-- The packet in issue with its instruction's word replaced by the one fetched. -/
def State.withWord (s : State) (p : Packet) (w : Word) : State := { s with packet := some { p with cur := { p.cur with word := w } } }

/-- The instruction of the packet that acts now: it is fetched (R14), its block's control word is checked (R89), and it is decoded and run. One that has waited is not fetched again, nor one whose tile an earlier instruction of the packet has dropped: it came with its packet (R28). (DEDUCED: log entries 10, 14.) -/
noncomputable def State.runSlot (s : State) (p : Packet) : Host.Outcome State Fault Refusal :=
  match s.group? p.gid with
  | none => .next { s with packet := none }
  | some g =>
      if g.ended then .next { s with packet := none }
      else if (g.waitOf p.cur.pc p.cur.place).isSome then s.runWord p g
      else match s.fetchFor g p.cur.pc with
        | .trap c => .next ((s.withWord p 0).trapAt p.gid { p.cur with word := 0 } c p.cur.lanes p.cur.pc).afterSlot
        | .wait _ => s.runWord p g
        | .nowhere => .fault .noSuchMemory
        | .word c w =>
            if c.toNat / 2 ^ 29 ≠ 0 then .next ((s.withWord p c).trapAt p.gid { p.cur with word := c } .illegal p.cur.lanes 0).afterSlot
            else (s.withWord p w).runWord { p with cur := { p.cur with word := w } } g

/-! ## The scoreboard's verdict (R93) -/

/-- The pending scoreboarded writes of the registers that the instructions of the group's next packet read or write (R93). -/
noncomputable def State.stallsOn (s : State) (g : Group) : List Nat :=
  (s.slotsOf g).flatMap fun sl => match decodeWord sl.word with
    | .ok i => (g.conflicts s.cycle sl.lanes (uses g.width i)).map (·.id)
    | .error _ => []
/-- The scoreboard's verdict noted on every group that may issue. -/
noncomputable def State.noteStalls (s : State) : State :=
  { s with groups := s.groups.map fun x => (x.1, if s.mayIssue x.2 then { x.2 with stalls := s.stallsOn x.2 } else x.2) }

/-! ## The agents -/

/-- What the machine may do next when no packet is in issue: a step of a device unit, a waiting instruction that goes on, something arrived from outside acted on, a frame taken in at a port, something that leaves formed and sent, an idle flit that keeps a link busy, a flit delivered, a dirty line evicted from an L1, the end of the cycle. -/
inductive Choice where
  | event (i : Instr)
  | resume (gid : Nat) (w : Wait)
  | arrival
  | wire
  | emit
  | idleFlit (port : Nat)
  | delivered
  | evict (core line : Nat)
  | cycle

/-- Does the machine take a step here? -/
def State.takes (s : State) (i : Instr) : Bool :=
  match exec i s with
  | .next _ => true
  | .fault _ => true
  | .refused _ => false

/-- The steps that the spec ties to the cycle they fall in: issue (R29), results that are due (R93), the idle limit (R34), a work bound reached (R50), a gang that leaves its cores at each blocking point (R414), a link that has failed (R449), a request without an answer (R455). (DESIGN CHOICE: log entry 19.) -/
noncomputable def State.timely (s : State) : List Instr :=
  ((List.range Config.cores).map Instr.issueCycle
    ++ s.groups.flatMap (fun (x : Nat × Group) => Instr.rejoinStall x.1 :: x.2.sb.map fun e => Instr.scoreboardedResult x.1 e.id)
    ++ s.launches.map (fun x => Instr.overrun x.1)
    ++ (s.gangs.filter fun x => s.mustLeave x.2).map (fun x => Instr.gangSwapOut x.1)
    ++ (s.fab.links.filter fun x => x.2.fails s.timebase).map (fun x => Instr.linkDown x.1)
    ++ s.fab.reqs.map fun x => Instr.requestTimeout x.1).filter s.takes

/-- The requests of other devices and of hosts held for tiles that may be taken up again (R401). -/
def State.heldReady (s : State) : List (FlitHdr × FlitMsg) :=
  s.fab.held.filter fun x => !s.behind x.1 x.2 && (s.requestTiles x.2).all fun k => !s.stillWaits (s.deviceCtx 0) (some k)

/-- The steps of a porter (R435 to R443). -/
noncomputable def porterSteps (p : Porter) : List Instr :=
  [.go p.core p.role, .cbget p.core p.role, .cbput p.core p.role, .faultClear p.core p.role, .porterWindowWrite p.core p.role, .porterCommandComplete p.core p.role,
   .porterEcall p.core p.role, .porterException p.core p.role, .porterInstruction p.core p.role]

/-- The steps of the groups, the stores and the copies. -/
noncomputable def State.groupEvents (s : State) : List Instr :=
  s.groups.flatMap (fun x => [Instr.exitWaitEnd x.1, Instr.cbufGetGrant x.1, Instr.queuePushReserve x.1, Instr.queuePopDeliver x.1] ++ x.2.sb.map fun e => Instr.heldAccessResume x.1 e.id)
    ++ (List.range Config.cores).map Instr.heldStoreApply
    ++ s.eng.copies.flatMap (fun x => [Instr.copyComplete x.1, Instr.rowGatherComplete x.1, Instr.multicastComplete x.1])
    ++ s.teams.map (fun x => Instr.phaseCompactorRun x.1)
    ++ s.porters.flatMap (fun x => porterSteps x.2)

/-- The steps of the engines and of the tiles. (DEDUCED: log entry 32.) -/
noncomputable def State.engineEvents (s : State) : List Instr :=
  (List.range Config.clusters).flatMap (fun c => Instr.solverTakeItem c :: (List.range 16).map (Instr.benchTakeItem c))
    ++ (List.range 4).flatMap (fun d => (List.range 6).map (Instr.sortTakeRange d))
    ++ s.eng.cmds.flatMap (fun x => [Instr.engineCommandComplete x.1, Instr.collGate x.1, Instr.collTimeout x.1])
    ++ (List.range 16).flatMap (fun n => [Instr.drainSweepOrder (Fin.ofNat 16 n), Instr.sweepComplete (Fin.ofNat 16 n)])
    ++ s.eng.colls.map (fun x => Instr.collStart x.1)
    ++ s.mem.tiles.flatMap (fun x => [Instr.recomputeEntryWaitEnd x.1, Instr.recipeChainEnd x.1, Instr.tileEvictDrop x.1])
    ++ s.mem.checks.map fun x => Instr.patrolScrub x.1

/-- The steps of the scheduler, the fabric, the host port and the boot logic. -/
noncomputable def State.systemEvents (s : State) : List Instr :=
  s.launches.flatMap (fun x => [Instr.recomputeComplete x.1, Instr.ticketSegmentApply x.1, Instr.admissionDecision x.1, Instr.reservationDeadline x.1, Instr.launchKill x.1, Instr.launchComplete x.1])
    ++ s.gangs.flatMap (fun x => [Instr.gangPlace x.1, Instr.gangSwapOut x.1])
    ++ s.sched.replays.flatMap (fun x => [Instr.replayStart x.1, Instr.replayComplete x.1])
    ++ s.fab.claims.map (fun x => Instr.claimExpire x.1)
    ++ s.heldReady.map (fun x => x.2.instr x.1)
    ++ s.host.sessions.map (fun x => Instr.hcpEventResend x.1)
    ++ [Instr.changeDependentAction, Instr.bootVerify]

/-- The waits of instructions that go on when they are taken up again, and that are over (R42). -/
def State.resumable (s : State) : List (Nat × Wait) :=
  (s.groups.filter fun x => s.resident x.2 && x.2.parked.isNone && ((s.launchOf x.2).map (fun l => l.cause.isNone)).getD false).flatMap fun x =>
    (x.2.waits.filter fun w => w.kind.resumes && s.waitOver x.1 x.2 w).map fun w => (x.1, w)

/-- Everything that may happen next when nothing is tied to this cycle: the spec leaves its order and its time to the run, and the cycle may end as well. (DESIGN CHOICE: log entry 19.) -/
noncomputable def State.choices (s : State) : List Choice :=
  ((s.groupEvents ++ s.engineEvents ++ s.systemEvents).filter s.takes).map .event
    ++ s.resumable.map (fun x => .resume x.1 x.2)
    ++ (if s.inbox.isEmpty then [] else [.arrival]) ++ (if s.wire.isEmpty then [] else [.wire]) ++ (if s.outbox.isEmpty then [] else [.emit])
    ++ (if s.host.boot.st == .running then (s.fab.links.filter fun x => x.2.up).map fun x => .idleFlit x.1 else []) ++ (if s.loop.isEmpty then [] else [.delivered])
    ++ s.mem.l1dirty.flatMap (fun x => ((x.2.map fun c => c.1 / 64).eraseDups).map (Choice.evict x.1)) ++ [.cycle]

/-- One of a list, by the free value of the tick. (DESIGN CHOICE: log entry 1.) -/
def State.choose {α : Type} (s : State) (d : α) (l : List α) : α :=
  match l with
  | [] => d
  | [x] => x
  | x :: y :: r => (x :: y :: r).getD (Config.pickAgent s.tick % (r.length + 2)) d

/-- A waiting instruction is taken up again; a fetch that has waited is made again with its packet. (DESIGN CHOICE: log entry 96.) -/
def State.resume (s : State) (gid : Nat) (w : Wait) : State :=
  match s.group? gid with
  | none => s
  | some g =>
      if w.slot.word = 0 then s.setGroup gid (g.leaveWait w.slot)
      else { s with packet := some { core := g.core, gid := gid, cur := w.slot, rest := [], trap := none, stall := 0, yield := false, retired0 := g.retired, lane := decide (w.slot.place < 2) } }

/-- Does something that arrives reach the device in its boot state? While it does not run, its fabric and its Ethernet port take nothing but what HCP answers itself (R470, R477); ports 18 and 19 are the device's own. (DEDUCED: log entry 65.) -/
def State.takesIn (s : State) (i : Instr) : Bool :=
  let up := s.host.boot.st == .running
  match i with
  | .rdreq h _ | .rdrsp h _ _ | .wr h _ | .wrack h | .atomreq h _ | .atomrsp h _ | .failrsp h _ | .invoke h _ | .claimmsg h _ | .claimres h _ | .signal h _ | .coll h _ | .mgmt h _ =>
      up && decide (h.port < 18)
  | .idle _ _ _ | .nack _ _ | .flitCrcFailure _ | .unknownFlitType _ _ _ | .linkDown _ => up
  | .rdmaWrite _ _ _ | .rdmaWriteWithImmediate _ _ _ _ | .rdmaRead _ _ _ | .roceInvalidRequest _ | .congestionNotificationPacket | .priorityFlowControl _ => up
  | _ => true

/-- Something taken off a list: what it does, or nothing where the machine does not take it. (DEDUCED: log entry 65.) -/
def State.takeIn (s : State) (i : Instr) : Host.Outcome State Fault Refusal :=
  match exec i s with
  | .next t => .next t
  | .fault f => .fault f
  | .refused _ => .next s

/-- The memory error that comes in this cycle, if one does (R402, R403): one that is corrected is only counted; an uncorrectable one of HBM4 is a mismatch of its line and is reported; one of a scratchpad word, an accumulator element or a dirty L1 line is met by its next reader; one of the register file kills the launch; a clean L1 line is refetched. (DESIGN CHOICE: log entry 104.) -/
def State.upset (s : State) : State :=
  match Config.upset s.tick with
  | none => s
  | some (0, _, _) => { s with host := { s.host with tele := { s.host.tele with corrected := s.host.tele.corrected + 1 } } }
  | some (1, line, d) =>
      if Config.hbmBytes ≤ 64 * line then s
      else (({ s with host := { s.host with tele := { s.host.tele with uncorrectable := s.host.tele.uncorrectable + 1 } } } : State).setDiff line (if BitVec.ofNat 16 d = 0 then 1 else BitVec.ofNat 16 d)).hostEvent
        0x45 (bytesOfNat 8 (64 * line))
  | some (2, team, w) => if ((s.team? team).map fun t => !t.ended && decide (4 * w + 4 ≤ s.windowSize none team)) == some true then { s with mem := { s.mem with badWords := (team, w) :: s.mem.badWords.erase (team, w) } } else s
  | some (3, bank, n) => { s with eng := { s.eng with badAcc := (bank, n) :: s.eng.badAcc.erase (bank, n) } }
  | some (4, gid, _) => (match s.group? gid with
      | none => s
      | some g => if g.ended || !s.resident g then s else s.requestKill (s.launchIdOf g) .check)
  | some (5, core, line) => if (s.dirty core).any fun c => c.1 / 64 == line then { s with mem := { s.mem with l1bad := (core, line) :: s.mem.l1bad.erase (core, line) } } else s
  | some (_, _, _) => s

/-- A choice carried out. (DESIGN CHOICE: log entry 8.) -/
noncomputable def State.act (s : State) (c : Choice) : Host.Outcome State Fault Refusal :=
  match c with
  | .event i => exec i s
  | .resume gid w => .next (s.resume gid w)
  | .arrival => (match s.inbox with
      | [] => .next s
      | i :: r => if s.takesIn i then ({ s with inbox := r }).takeIn i else .next { s with inbox := r })
  | .wire => (match s.wire with
      | [] => .next s
      | f :: r => .next (({ s with wire := r } : State).takeFrame f))
  | .emit => (match s.outbox with
      | [] => .next s
      | o :: r => .next (({ s with outbox := r } : State).emit o))
  | .idleFlit port => .next { s with outbox := s.outbox ++ [.idle port (s.link port).nextSeq (s.link port).lack] }
  | .delivered => (match s.loop with
      | [] => .next s
      | (h, m) :: r => ({ s with loop := r }).takeIn (m.instr h))
  | .evict core line => .next (s.evictLine core line)
  | .cycle => .next s.endCycle.upset

/-- A group whose packet's trap has waited for the other instructions of the packet (R353). -/
def State.overdueTrap (s : State) : Option (Nat × TrapRec) :=
  s.groups.findSome? fun x => if x.2.waits.isEmpty && !x.2.ended then x.2.pending.map fun r => (x.1, r) else none

/-- What the machine does next: the packet in issue goes on; a trap that has waited is taken; what is tied to the cycle is done; then one of the other choices. (DESIGN CHOICE: log entry 19.) -/
noncomputable def State.advance (s : State) : Host.Outcome State Fault Refusal :=
  match s.packet with
  | some p => s.runSlot p
  | none => match s.overdueTrap with
    | some (gid, r) => .next (s.settleTrap gid r)
    | none =>
        let s := s.noteStalls
        match s.timely with
        | i :: r => exec (s.choose i (i :: r)) s
        | [] => s.act (s.choose .cycle s.choices)

/-! ## An instruction placed for the next step -/

/-- The launch under which a placed instruction runs: one team of one group of 16 lanes with all 64 registers (DESIGN CHOICE, log entry 21). -/
def placedKernel : Kernel :=
  { image := 0, width := 16, regs := 64, groups := 1, pair := false, gang := 1, ordered := false, recipe := false, scratch := 0, params := 0, entry := 4, pload := none, pstore := none,
    alloc := 64, accumulator := false, callees := [] }
/-- Its launch. -/
def placedLaunch : Launch :=
  { record := { kernel := 0, bounded := false, prio := 0, graph := false, teams := 1, deadline := 0, workbound := 2 ^ 64 - 1, tmax := 0, params := 0, compl := 0, tag := 0 }, kern := placedKernel, asid := 0,
    die := 0, origin := .host, st := .admitted, entry := some 0, order := 0, tadmit := 0, charge := 0, weight := 2 ^ 64 - 1, root := none, nextGang := 1, teamsEnded := 0, cause := none, depth := 0, pairs := none,
    extra := 0 }
/-- Its team. -/
def placedTeam : Team :=
  { gang := 0, teamId := 0, rank := 0, weight := 2 ^ 64 - 1, btag := 0, queues := [], pops := [], pushed := [], window := [], tags := [],
    handles := List.replicate 4 { bound := false, bench := 0, active := none, standby := none }, map := none, arrived := [], groups := [0], cores := [0], ended := false }
/-- Its gang. -/
def placedGang : Gang := { launch := 0, k := 0, teams := [0], cores := [0], st := .resident, since := 0, records := [] }
/-- The packet of one instruction at address 4. -/
def placedPacket : Packet :=
  { core := 0, gid := 0, cur := { pc := 4, word := 0, lanes := fullMask 16, place := 0 }, rest := [], trap := none, stall := 0, yield := false, retired0 := 0, lane := true }
/-- A word stored at address 4 of a page at 0, its control word zero, and a packet in issue that is about to fetch it. (DESIGN CHOICE: log entry 21.) -/
def State.placed (s : State) (w : Nat) : State :=
  { s with
    packet := some placedPacket
    groups := put s.groups 0 (newGroup placedKernel 0 0 0 0 0 s.cycle)
    teams := put s.teams 0 placedTeam
    gangs := put s.gangs 0 placedGang
    launches := put s.launches 0 placedLaunch
    mem := { s.mem with
      hbm := cellsWrite s.mem.hbm 0 (bytesOfNat 4 0 ++ bytesOfNat 4 w)
      checks := s.mem.checks.filter fun k => k.1 != 0
      pages := { asid := 0, la := 0, size := 65536, pa := 0, attr := 0 } :: s.mem.pages } }

end Sys2Proof.Machine
end

