-- ==== Sys2Proof/Machine/Step.lean ====
section
/-! DEFINITION. One step of the machine: what it does next, with the model's own tick advanced and the free choice of the next step's stores made; and the placing of an instruction for the next step. -/
namespace Sys2Proof.Machine

/-- One step. (DESIGN CHOICE: log entry 1.) (DESIGN CHOICE: log entry 109.) -/
noncomputable def step (s : State) : Host.Outcome State Fault Refusal :=
  match s.advance with
  | .next t => .next { t with tick := s.tick + 1, lateStores := Config.lateStores (s.tick + 1) }
  | .fault f => .fault f
  | .refused r => .refused r

/-- The state with an instruction placed where the next step fetches: every instruction is one 32-bit word (R95). (DESIGN CHOICE: log entry 21.) -/
def State.withFetchWord (s : State) (nbits w : Nat) : State := s.placed (w % 2 ^ min nbits 32)

end Sys2Proof.Machine
end

