-- ==== Sys2Proof/Safety.lean ====
section
/-! DEFINITION. The terms in which the statements speak: the lanes that act, what a lane result leaves and keeps, what a trap leaves, what an instruction keeps, and the invariants of the memory. -/
namespace Sys2Proof.Machine

/-! ## Lanes -/

/-- Lane i is one of a set of lanes of the group, and exists. -/
def Group.acts (g : Group) (m : LaneMask) (i : Nat) : Prop := m.getLsbD i = true ∧ i < g.width ∧ i < g.lanes.length

/-- Is a result read after a fixed latency? -/
def Latency.isFixed (l : Latency) : Bool := match l with
  | .fixed _ => true
  | .scoreboard _ => false

/-- What every lane instruction without a trap keeps: all of the machine but its group, and of the group all but lanes, pending fixed-latency writes and scoreboard; the lanes that do not act keep PC, flags and registers, and no lane changes TRAPPC, FPEN or its place in its life. -/
structure LaneKeeps (s t : State) (p : Packet) (g h : Group) : Prop where
  group : t.group? p.gid = some h
  groups : ∀ k, k ≠ p.gid → t.group? k = s.group? k
  rest : t = { s with groups := t.groups, packet := t.packet, sched := { s.sched with nextId := t.sched.nextId } }
  packet : ∃ n, t.packet = some { p with stall := n }
  own : h = { g with lanes := h.lanes, hist := h.hist, sb := h.sb }
  count : h.lanes.length = g.lanes.length
  lane : ∀ i, (h.lane i).trappc = (g.lane i).trappc ∧ (h.lane i).fpen = (g.lane i).fpen ∧ (h.lane i).st = (g.lane i).st
  others : ∀ i, p.cur.lanes.getLsbD i = false → (h.lane i).pc = (g.lane i).pc ∧ (h.lane i).fpflags = (g.lane i).fpflags ∧ ∀ r later, h.read later i r = g.read later i r

/-- The results of a lane instruction (R91, R93, R175): in each lane that acts the flags are added, the PC is its goal, and each result is read from its cycle on (fixed latency) or is in a new scoreboard entry with its due cycle; no other register of any lane reads differently, and a fixed-latency result is not read early. -/
structure LaneDone (s t : State) (p : Packet) (g h : Group) (lat : Latency) (goal : Nat → DWord) (f : Nat → LaneRes) : Prop extends LaneKeeps s t p g h where
  moved : ∀ i, g.acts p.cur.lanes i → (h.lane i).pc = goal i
  flags : ∀ i, g.acts p.cur.lanes i → (h.lane i).fpflags = (g.lane i).fpflags ||| (f i).flags
  results : match lat with
    | .fixed n => h.sb = g.sb ∧ ∀ i, g.acts p.cur.lanes i → ∀ w ∈ (f i).writes, (∀ later, s.cycle + n ≤ later → h.read later i w.1 = w.2) ∧ ∀ now, now < s.cycle + n → h.read now i w.1 = g.read now i w.1
    | .scoreboard n => h.hist = g.hist ∧ ∃ e, h.sb = g.sb ++ [e] ∧ e.kind = .ready ∧ e.due = s.cycle + n ∧ e.lanes = p.cur.lanes ∧ ∀ i, g.acts p.cur.lanes i → ∀ w ∈ (f i).writes, (i, w.1, w.2) ∈ e.vals
  unwritten : ∀ i r, (lat.isFixed = true → r ∉ (f i).writes.map (·.1)) → ∀ later, h.read later i r = g.read later i r

/-- The instruction completes with the results f gives in each lane, and moves each lane that acts to its goal. -/
def CompletesAt (s : State) (p : Packet) (g : Group) (i : Instr) (lat : Latency) (goal : Nat → DWord) (f : Nat → LaneRes) : Prop :=
  ∃ t h, exec i s = .next t ∧ LaneDone s t p g h lat goal f

/-- The instruction completes with the results f gives in each lane, at the sequential successor (R88). -/
def Completes (s : State) (p : Packet) (g : Group) (i : Instr) (lat : Latency) (f : Nat → LaneRes) : Prop :=
  CompletesAt s p g i lat (fun _ => succPc p.cur.pc) f

/-- The lanes of a set that act in h are those of g moved to an address; every other lane of g is as it was. -/
structure Moved (g h : Group) (m : LaneMask) (pc : DWord) : Prop where
  count : h.lanes.length = g.lanes.length
  acting : ∀ i, g.acts m i → h.lane i = { g.lane i with pc := pc }
  others : ∀ i, m.getLsbD i = false → h.lane i = g.lane i

/-- No lane of a set raises a flag that its FPEN enables (R83). -/
def Group.quiet (g : Group) (m : LaneMask) (f : Nat → LaneRes) : Prop := ∀ i, m.getLsbD i = true → i < g.width → (f i).flags &&& (g.lane i).fpen = 0

/-- What FP_EXC leaves in the group (R83): the flags are added in the lanes that act, nothing else of the group changes, and m names the lanes that raised an enabled flag. -/
structure FlagsRaised (p : Packet) (g h : Group) (f : Nat → LaneRes) (m : LaneMask) : Prop where
  own : h = { g with lanes := h.lanes }
  count : h.lanes.length = g.lanes.length
  lane : ∀ i, h.lane i = { g.lane i with fpflags := (h.lane i).fpflags }
  acting : ∀ i, g.acts p.cur.lanes i → (h.lane i).fpflags = (g.lane i).fpflags ||| (f i).flags
  others : ∀ i, p.cur.lanes.getLsbD i = false → (h.lane i).fpflags = (g.lane i).fpflags
  mask : ∀ i, i < 64 → (m.getLsbD i = true ↔ p.cur.lanes.getLsbD i = true ∧ i < g.width ∧ (f i).flags &&& (g.lane i).fpen ≠ 0)

/-- The instruction completes with the results f gives in each lane, when no lane raises an enabled flag; when some lane does, and the packet has not trapped before it, it writes no register: the flags are raised and those lanes trap FP_EXC (R83). Beside the group no more than the packet's stall changes before the trap. -/
def CompletesOrTraps (s : State) (p : Packet) (g : Group) (i : Instr) (lat : Latency) (f : Nat → LaneRes) : Prop :=
  (g.quiet p.cur.lanes f → Completes s p g i lat f)
  ∧ (¬ g.quiet p.cur.lanes f → p.trap = none →
      ∃ n h m, exec i s = .next ((({ s with packet := some { p with stall := n } } : State).setGroup p.gid h).trapAt p.gid p.cur .fpExc m 0) ∧ FlagsRaised p g h f m)

/-- What an instruction keeps that changes no more than its group and the model's numbering. -/
structure GroupOnly (s t : State) (p : Packet) (h : Group) : Prop where
  group : t.group? p.gid = some h
  groups : ∀ k, k ≠ p.gid → t.group? k = s.group? k
  rest : t = { s with groups := t.groups, sched := { s.sched with nextId := t.sched.nextId } }

/-- Does a place of n bytes hold another place's first byte? -/
def Loc.holds (x : Loc) (n : Nat) (y : Loc) : Prop := match x, y with
  | .win t o, .win u q => t = u ∧ o ≤ q ∧ q < o + n
  | .phys a, .phys b => a ≤ b ∧ b < a + n
  | .win _ _, .phys _ => False
  | .phys _, .win _ _ => False

/-- Does a range of n bytes meet the line of 64 bytes, or the scratchpad word, of another place: what carries one check value (R399, R403)? -/
def Loc.meetsLine (x : Loc) (n : Nat) (y : Loc) : Prop := match x, y with
  | .win t o, .win u q => t = u ∧ o < 4 * (q / 4) + 4 ∧ 4 * (q / 4) < o + n
  | .phys a, .phys b => a < 64 * (b / 64) + 64 ∧ 64 * (b / 64) < a + n
  | .win _ _, .phys _ => False
  | .phys _, .win _ _ => False

/-- What an instruction that stores to some ranges leaves of the rest of the machine: every team keeps all but its window, every porter all but a reservation of a word that a range meets (R435), every line and word that no range meets its check, and every byte outside the ranges reads as before, for every reader. -/
structure StoresOnly (s t : State) (stored : Loc → Nat → Prop) : Prop where
  teams : ∀ k, t.team? k = (s.team? k).map fun tm => { tm with window := ((t.team? k).map (·.window)).getD tm.window }
  porters : ∀ k, lookup t.porters k = (lookup s.porters k).map fun p => { p with resv := (lookup t.porters k).bind (·.resv) }
  reserved : ∀ k p q, lookup s.porters k = some p → lookup t.porters k = some q →
    q.resv = p.resv ∨ q.resv = none ∧ ∃ w o n d j l, p.resv = some (some w, o, n) ∧ j < 4 ∧ d < l ∧ ∃ x, stored x l ∧ x.plus d = .win w (o + j)
  lines : ∀ core y, (∀ x n, stored x n → ¬ x.meetsLine n y) → t.lineFails core y 1 = s.lineFails core y 1
  bytes : ∀ core priv y, (∀ x n, stored x n → ¬ x.holds n y) → t.bytesAt core priv y 1 = s.bytesAt core priv y 1

/-- Have the cells of HBM4 and of every team's window their canonical form? -/
def State.cellsOk (s : State) : Bool := s.mem.wf && s.teams.all fun t => cellsWf t.2.window

end Sys2Proof.Machine
end

