-- ==== Sys2Proof/Certificates/Slice0/Obligations.lean ====
section
/-! DEFINITION. The statements for the provers: what the instructions and the machine do, by the numbered rules of the spec. -/
open Sys2Proof Sys2Proof.Machine

/-! ## Lane arithmetic (R175 to R214) -/

/-- R178: the integer codes of a lane with two routed sources write, in every lane that acts, the value of the table modulo 2^32; they raise no flag, complete with latency 2, move the lanes to the sequential successor and leave everything else alone. -/
def Obligations.LaneIntegerResults : Prop :=
  ∀ (s : State) (p : Packet) (g : Group), s.issuing = some (p, g) → ∀ (d a : Reg) (r : Route) (b : Reg) (q : Route),
    let x := fun i => g.src s.cycle i a r
    let y := fun i => g.src s.cycle i b q
    let z := fun i => g.read s.cycle i d
    let gives := fun (i : Instr) (v : Nat → Word) => Completes s p g i (.fixed 2) fun k => .word d (v k)
    gives (.add d a r b q) (fun k => BitVec.ofNat 32 ((x k).toNat + (y k).toNat))
    ∧ gives (.sub d a r b q) (fun k => BitVec.ofInt 32 ((x k).toInt - (y k).toInt))
    ∧ gives (.mul d a r b q) (fun k => BitVec.ofNat 32 ((x k).toNat * (y k).toNat))
    ∧ gives (.mulh d a r b q) (fun k => BitVec.ofInt 32 ((x k).toInt * (y k).toInt / 2 ^ 32))
    ∧ gives (.mulhu d a r b q) (fun k => BitVec.ofNat 32 ((x k).toNat * (y k).toNat / 2 ^ 32))
    ∧ gives (.mad d a r b q) (fun k => BitVec.ofNat 32 ((x k).toNat * (y k).toNat + (z k).toNat))
    ∧ gives (.and d a r b q) (fun k => x k &&& y k)
    ∧ gives (.or d a r b q) (fun k => x k ||| y k)
    ∧ gives (.xor d a r b q) (fun k => x k ^^^ y k)
    ∧ gives (.shl d a r b q) (fun k => BitVec.ofNat 32 ((x k).toNat * 2 ^ ((y k).toNat % 32)))
    ∧ gives (.shr d a r b q) (fun k => BitVec.ofNat 32 ((x k).toNat / 2 ^ ((y k).toNat % 32)))
    ∧ gives (.sar d a r b q) (fun k => BitVec.ofInt 32 ((x k).toInt / 2 ^ ((y k).toNat % 32)))
    ∧ gives (.rot d a r b q) (fun k => BitVec.ofNat 32 ((x k).toNat * 2 ^ ((y k).toNat % 32) + (x k).toNat / 2 ^ (32 - (y k).toNat % 32)))
    ∧ gives (.min d a r b q) (fun k => BitVec.ofInt 32 (min (x k).toInt (y k).toInt))
    ∧ gives (.max d a r b q) (fun k => BitVec.ofInt 32 (max (x k).toInt (y k).toInt))
    ∧ gives (.minu d a r b q) (fun k => BitVec.ofNat 32 (min (x k).toNat (y k).toNat))
    ∧ gives (.maxu d a r b q) (fun k => BitVec.ofNat 32 (max (x k).toNat (y k).toNat))
    ∧ gives (.abs d a r) (fun k => BitVec.ofNat 32 (x k).toInt.natAbs)
    ∧ gives (.sel d a r b q) (fun k => if z k = 0 then y k else x k)
    ∧ gives (.popc d a r) (fun k => BitVec.ofNat 32 ((List.range 32).filter fun j => (x k).getLsbD j).length)
    ∧ gives (.addS d a r b q) (fun k => BitVec.ofInt 32 (max (-(2 ^ 31)) (min (2 ^ 31 - 1) ((x k).toInt + (y k).toInt))))
    ∧ gives (.addUs d a r b q) (fun k => BitVec.ofNat 32 (min (2 ^ 32 - 1) ((x k).toNat + (y k).toNat)))
    ∧ gives (.subS d a r b q) (fun k => BitVec.ofInt 32 (max (-(2 ^ 31)) (min (2 ^ 31 - 1) ((x k).toInt - (y k).toInt))))
    ∧ gives (.subUs d a r b q) (fun k => BitVec.ofNat 32 ((x k).toNat - (y k).toNat))
    ∧ (∃ v : Nat → Word, gives (.clz d a r) v ∧ ∀ k, (x k = 0 → v k = 32) ∧ (x k ≠ 0 → (v k).toNat < 32 ∧ 2 ^ (31 - (v k).toNat) ≤ (x k).toNat ∧ (x k).toNat < 2 ^ (32 - (v k).toNat)))
    ∧ (∃ v : Nat → Word, gives (.brev d a r) v ∧ ∀ k j, j < 32 → (v k).getLsbD j = (x k).getLsbD (31 - j))

/-- R179, R180: the carry forms write the pair of the sum and its carry, or the difference and its borrow; the bit-field forms extract and insert the field that b describes. -/
def Obligations.LaneCarryAndFields : Prop :=
  ∀ (s : State) (p : Packet) (g : Group), s.issuing = some (p, g) → ∀ (d a : Reg) (r : Route) (b : Reg) (q : Route),
    let x := fun i => g.src s.cycle i a r
    let y := fun i => g.src s.cycle i b q
    let z := fun i => g.read s.cycle i d
    let pos := fun k => (y k).toNat % 32
    let len := fun k => min ((y k).toNat / 256 % 64) (32 - pos k)
    let field := fun k => (x k).toNat / 2 ^ pos k % 2 ^ len k
    Completes s p g (.addc d a r b q) (.fixed 2) (fun k => { writes := [(d, x k + y k), (d.plus 1, if 2 ^ 32 ≤ (x k).toNat + (y k).toNat then 1 else 0)] })
    ∧ Completes s p g (.subb d a r b q) (.fixed 2) (fun k => { writes := [(d, x k - y k), (d.plus 1, if (x k).toNat < (y k).toNat then 1 else 0)] })
    ∧ Completes s p g (.bfxu d a r b q) (.fixed 2) (fun k => .word d (BitVec.ofNat 32 (field k)))
    ∧ Completes s p g (.bfx d a r b q) (.fixed 2) (fun k => .word d (BitVec.ofInt 32 (if len k = 0 then 0 else if field k < 2 ^ (len k - 1) then (field k : Int) else (field k : Int) - 2 ^ len k)))
    ∧ ∃ v : Nat → Word, Completes s p g (.bfi d a r b q) (.fixed 2) (fun k => .word d (v k))
        ∧ ∀ k j, j < 32 → (v k).getLsbD j = if pos k ≤ j ∧ j < pos k + len k then (x k).getLsbD (j - pos k) else (z k).getLsbD j

/-- R181: cmp.cc writes 1 when a cc b holds and 0 otherwise; .lt, .le, .gt and .ge compare signed values, .ltu, .leu, .gtu and .geu unsigned ones. -/
def Obligations.LaneCompareResults : Prop :=
  ∀ (s : State) (p : Packet) (g : Group), s.issuing = some (p, g) → ∀ (d a : Reg) (r : Route) (b : Reg) (q : Route),
    let x := fun i => g.src s.cycle i a r
    let y := fun i => g.src s.cycle i b q
    let gives := fun (i : Instr) (v : Nat → Bool) => Completes s p g i (.fixed 2) fun k => .word d (if v k then 1 else 0)
    gives (.cmpEq d a r b q) (fun k => decide (x k = y k))
    ∧ gives (.cmpNe d a r b q) (fun k => decide (x k ≠ y k))
    ∧ gives (.cmpLt d a r b q) (fun k => decide ((x k).toInt < (y k).toInt))
    ∧ gives (.cmpLe d a r b q) (fun k => decide ((x k).toInt ≤ (y k).toInt))
    ∧ gives (.cmpGt d a r b q) (fun k => decide ((x k).toInt > (y k).toInt))
    ∧ gives (.cmpGe d a r b q) (fun k => decide ((x k).toInt ≥ (y k).toInt))
    ∧ gives (.cmpLtu d a r b q) (fun k => decide ((x k).toNat < (y k).toNat))
    ∧ gives (.cmpLeu d a r b q) (fun k => decide ((x k).toNat ≤ (y k).toNat))
    ∧ gives (.cmpGtu d a r b q) (fun k => decide ((x k).toNat > (y k).toNat))
    ∧ gives (.cmpGeu d a r b q) (fun k => decide ((x k).toNat ≥ (y k).toNat))

/-- R184 to R187: ballot writes the mask of the active lanes whose a is not 0 (a pair in a group of 64 lanes); the votes write 1 or 0 by the active lanes; perm reads the lane that b names modulo the width; mov copies a. -/
def Obligations.LaneExchangeResults : Prop :=
  ∀ (s : State) (p : Packet) (g : Group), s.issuing = some (p, g) → ∀ (d a : Reg) (r : Route) (b : Reg) (q : Route),
    let x := fun i => g.src s.cycle i a r
    let act := fun i => p.cur.lanes.getLsbD i = true ∧ i < g.width
    (∃ m : DWord, (∀ j, j < 64 → (m.getLsbD j = true ↔ act j ∧ x j ≠ 0))
        ∧ Completes s p g (.ballot d a r) (.scoreboard 6) (fun _ => if g.width = 64 then .pair d m else .word d (loWord m)))
    ∧ (∃ v : Word, (v = 1 ∨ v = 0) ∧ (v = 1 ↔ ∀ i, act i → x i ≠ 0) ∧ Completes s p g (.voteAll d a r) (.scoreboard 6) (fun _ => .word d v))
    ∧ (∃ v : Word, (v = 1 ∨ v = 0) ∧ (v = 1 ↔ ∃ i, act i ∧ x i ≠ 0) ∧ Completes s p g (.voteAny d a r) (.scoreboard 6) (fun _ => .word d v))
    ∧ (∃ v : Word, (v = 1 ∨ v = 0) ∧ (v = 1 ↔ ∀ i j, act i → act j → x i = x j) ∧ Completes s p g (.voteUni d a r) (.scoreboard 6) (fun _ => .word d v))
    ∧ Completes s p g (.perm d a b q) (.scoreboard 6) (fun i => .word d (g.read s.cycle ((g.src s.cycle i b q).toNat % g.width) a))
    ∧ Completes s p g (.mov d a r) (.fixed 2) (fun i => .word d (x i))

/-- R182, R183: the immediate forms combine the lane's own register with the sign-extended immediate or shift by the amount; lop3 combines three inputs bit by bit, each inverted where its mask bit is 1, and its .not form writes the complement. -/
def Obligations.LaneImmediateResults : Prop :=
  ∀ (s : State) (p : Packet) (g : Group), s.issuing = some (p, g) → ∀ (d a b : Reg) (imm : BitVec 13) (n : BitVec 5) (f : Lop3Fn) (m : BitVec 3),
    let x := fun i => g.read s.cycle i a
    let gives := fun (i : Instr) (v : Nat → Word) => Completes s p g i (.fixed 2) fun k => .word d (v k)
    gives (.addImm d a imm) (fun k => BitVec.ofInt 32 ((x k).toInt + imm.toInt))
    ∧ gives (.andImm d a imm) (fun k => x k &&& BitVec.ofInt 32 imm.toInt)
    ∧ gives (.orImm d a imm) (fun k => x k ||| BitVec.ofInt 32 imm.toInt)
    ∧ gives (.xorImm d a imm) (fun k => x k ^^^ BitVec.ofInt 32 imm.toInt)
    ∧ gives (.shlImm d a n) (fun k => BitVec.ofNat 32 ((x k).toNat * 2 ^ n.toNat))
    ∧ gives (.shrImm d a n) (fun k => BitVec.ofNat 32 ((x k).toNat / 2 ^ n.toNat))
    ∧ gives (.sarImm d a n) (fun k => BitVec.ofInt 32 ((x k).toInt / 2 ^ n.toNat))
    ∧ gives (.rotImm d a n) (fun k => BitVec.ofNat 32 ((x k).toNat * 2 ^ n.toNat + (x k).toNat / 2 ^ (32 - n.toNat)))
    ∧ gives (.movImm d imm) (fun _ => BitVec.ofInt 32 imm.toInt)
    ∧ ∃ v : Nat → Word, gives (.lop3 d a b f m) v ∧ gives (.lop3Not d a b f m) (fun k => ~~~ v k)
        ∧ ∀ k j, j < 32 →
            let i1 := (x k).getLsbD j ^^ m.getLsbD 2
            let i2 := (g.read s.cycle k b).getLsbD j ^^ m.getLsbD 1
            let i3 := (g.read s.cycle k d).getLsbD j ^^ m.getLsbD 0
            (v k).getLsbD j = match f with
              | .xor3 => i1 ^^ i2 ^^ i3
              | .maj => i1 && i2 || i1 && i3 || i2 && i3
              | .mux => if i3 then i1 else i2
              | .and3 => i1 && i2 && i3
              | .or3 => i1 || i2 || i3
              | .andor => i1 && i2 || i3
              | .orand => (i1 || i2) && i3
              | .xorand => (i1 ^^ i2) && i3
              | .andxor => (i1 && i2) ^^ i3
              | .orxor => (i1 || i2) ^^ i3

/-- R194 to R199, R83: the FP32 forms write the operation's rounded result (rounding by FPRM, flushing by FPFTZ) and add its flags, when no active lane raises a flag that its FPEN enables; when one does, the form writes nothing and the lanes that did trap FP_EXC; the divide, root, exponential and logarithm forms deliver by the scoreboard. -/
def Obligations.LaneFp32Results : Prop :=
  ∀ (s : State) (p : Packet) (g : Group), s.issuing = some (p, g) → ∀ (d a : Reg) (r : Route) (b : Reg) (q : Route),
    let m := g.rmode .fp32
    let u := fun i => (g.src s.cycle i a r).toNat
    let w := fun i => (g.src s.cycle i b q).toNat
    let x := fun i => g.fin .fp32 (u i)
    let y := fun i => g.fin .fp32 (w i)
    let z := fun i => g.fin .fp32 (g.read s.cycle i d).toNat
    let res := fun (v : FRes) => ({ writes := [(d, BitVec.ofNat 32 v.bits)], flags := v.flags } : LaneRes)
    let fixed := fun (i : Instr) (v : Nat → FRes) => CompletesOrTraps s p g i (.fixed 4) fun k => res (v k)
    let later := fun (i : Instr) (n : Nat) (v : Nat → FRes) => CompletesOrTraps s p g i (.scoreboard n) fun k => res (v k)
    let bits := fun (i : Instr) (v : Nat → Word) => Completes s p g i (.fixed 4) fun k => .word d (v k)
    let test := fun (i : Instr) (c : FCond) => CompletesOrTraps s p g i (.fixed 4) fun k =>
      { writes := [(d, if (c.test (x k) (y k)).1 then 1 else 0)], flags := (c.test (x k) (y k)).2 }
    fixed (.fadd d a r b q) (fun k => FFmt.fp32.add m (some (x k)) (some (y k)))
    ∧ fixed (.fsub d a r b q) (fun k => FFmt.fp32.add m (some (x k)) (some (y k).negate))
    ∧ fixed (.fmul d a r b q) (fun k => FFmt.fp32.mul m (x k) (y k))
    ∧ fixed (.ffma d a r b q) (fun k => FFmt.fp32.fma m (x k) (y k) (z k))
    ∧ fixed (.fmin d a r b q) (fun k => FFmt.fp32.minMax g.fpftz false (u k) (w k))
    ∧ fixed (.fmax d a r b q) (fun k => FFmt.fp32.minMax g.fpftz true (u k) (w k))
    ∧ later (.fdiv d a r b q) 12 (fun k => FFmt.fp32.div m (x k) (y k))
    ∧ later (.fsqrt d a r) 12 (fun k => FFmt.fp32.sqrt m (x k))
    ∧ later (.frcp d a r) 12 (fun k => FFmt.fp32.div m (.fin false 1 0) (x k))
    ∧ later (.frsq d a r) 12 (fun k => FFmt.fp32.rsqrt m (x k))
    ∧ later (.fex2 d a r) 16 (fun k => FFmt.fp32.exp2 m (x k))
    ∧ later (.flg2 d a r) 16 (fun k => FFmt.fp32.log2 m (x k))
    ∧ bits (.fcls d a r) (fun k => BitVec.ofNat 32 (fclsWord .fp32 (if (x k).isZero then u k / 2 ^ 31 * 2 ^ 31 else u k)))
    ∧ bits (.fsgnCpy d a r b q) (fun k => BitVec.ofNat 32 (u k % 2 ^ 31 + w k / 2 ^ 31 * 2 ^ 31))
    ∧ bits (.fsgnNeg d a r) (fun k => BitVec.ofNat 32 (u k + 2 ^ 31))
    ∧ bits (.fsgnXor d a r b q) (fun k => BitVec.ofNat 32 (u k + w k / 2 ^ 31 * 2 ^ 31))
    ∧ bits (.fsgnAbs d a r) (fun k => BitVec.ofNat 32 (u k % 2 ^ 31))
    ∧ fixed (.frndRn d a r) (fun k => FFmt.fp32.toIntegral .nearestEven g.fpftz (u k))
    ∧ fixed (.frndRz d a r) (fun k => FFmt.fp32.toIntegral .towardZero g.fpftz (u k))
    ∧ fixed (.frndRm d a r) (fun k => FFmt.fp32.toIntegral .down g.fpftz (u k))
    ∧ fixed (.frndRp d a r) (fun k => FFmt.fp32.toIntegral .up g.fpftz (u k))
    ∧ test (.fcmpEq d a r b q) .eq ∧ test (.fcmpNe d a r b q) .ne ∧ test (.fcmpLt d a r b q) .lt ∧ test (.fcmpLe d a r b q) .le
    ∧ test (.fcmpGt d a r b q) .gt ∧ test (.fcmpGe d a r b q) .ge ∧ test (.fcmpUn d a r b q) .un ∧ test (.fcmpOrd d a r b q) .ord

/-- R200, R197, R199, R83: the FP64 forms work on pairs as the FP32 forms do on registers, with latency 8; an enabled flag traps in the same way. -/
def Obligations.LaneFp64Results : Prop :=
  ∀ (s : State) (p : Packet) (g : Group), s.issuing = some (p, g) → ∀ (d a : Reg) (r : Route) (b : Reg) (q : Route),
    let m := g.rmode .fp64
    let u := fun i => (g.srcPair s.cycle i a r).toNat
    let w := fun i => (g.srcPair s.cycle i b q).toNat
    let x := fun i => g.fin .fp64 (u i)
    let y := fun i => g.fin .fp64 (w i)
    let z := fun i => g.fin .fp64 (g.readPair s.cycle i d).toNat
    let res := fun (v : FRes) => ({ writes := [(d, BitVec.ofNat 32 v.bits), (d.plus 1, BitVec.ofNat 32 (v.bits / 2 ^ 32))], flags := v.flags } : LaneRes)
    let fixed := fun (i : Instr) (v : Nat → FRes) => CompletesOrTraps s p g i (.fixed 8) fun k => res (v k)
    let later := fun (i : Instr) (v : Nat → FRes) => CompletesOrTraps s p g i (.scoreboard 24) fun k => res (v k)
    let test := fun (i : Instr) (c : FCond) => CompletesOrTraps s p g i (.fixed 8) fun k =>
      { writes := [(d, if (c.test (x k) (y k)).1 then 1 else 0)], flags := (c.test (x k) (y k)).2 }
    fixed (.dadd d a r b q) (fun k => FFmt.fp64.add m (some (x k)) (some (y k)))
    ∧ fixed (.dsub d a r b q) (fun k => FFmt.fp64.add m (some (x k)) (some (y k).negate))
    ∧ fixed (.dmul d a r b q) (fun k => FFmt.fp64.mul m (x k) (y k))
    ∧ fixed (.dfma d a r b q) (fun k => FFmt.fp64.fma m (x k) (y k) (z k))
    ∧ fixed (.dmin d a r b q) (fun k => FFmt.fp64.minMax g.fpftz false (u k) (w k))
    ∧ fixed (.dmax d a r b q) (fun k => FFmt.fp64.minMax g.fpftz true (u k) (w k))
    ∧ later (.ddiv d a r b q) (fun k => FFmt.fp64.div m (x k) (y k))
    ∧ later (.dsqrt d a r) (fun k => FFmt.fp64.sqrt m (x k))
    ∧ fixed (.drndRn d a r) (fun k => FFmt.fp64.toIntegral .nearestEven g.fpftz (u k))
    ∧ fixed (.drndRz d a r) (fun k => FFmt.fp64.toIntegral .towardZero g.fpftz (u k))
    ∧ fixed (.drndRm d a r) (fun k => FFmt.fp64.toIntegral .down g.fpftz (u k))
    ∧ fixed (.drndRp d a r) (fun k => FFmt.fp64.toIntegral .up g.fpftz (u k))
    ∧ test (.dcmpEq d a r b q) .eq ∧ test (.dcmpNe d a r b q) .ne ∧ test (.dcmpLt d a r b q) .lt ∧ test (.dcmpLe d a r b q) .le
    ∧ test (.dcmpGt d a r b q) .gt ∧ test (.dcmpGe d a r b q) .ge ∧ test (.dcmpUn d a r b q) .un ∧ test (.dcmpOrd d a r b q) .ord

/-- R201, R202, R204, R205, R83: the packed forms act on both halves and unite their flags; the conversions convert the source by its format into the destination's, saturating or under the named rounding mode where the form says so; the packing forms place two converted values, and the unpacking forms widen each part of the word. Where a lane raises a flag that its FPEN enables, the form writes nothing and those lanes trap FP_EXC. -/
def Obligations.LanePackedAndConversions : Prop :=
  ∀ (s : State) (p : Packet) (g : Group), s.issuing = some (p, g) → ∀ (d a : Reg) (r : Route) (b : Reg) (q : Route) (t u : Fmt),
    let x := fun i => (g.src s.cycle i a r).toNat
    let y := fun i => (g.src s.cycle i b q).toNat
    let z := fun i => (g.read s.cycle i d).toNat
    let lo := fun (n : Nat) => n % 2 ^ 16
    let hi := fun (n : Nat) => n / 2 ^ 16 % 2 ^ 16
    let both := fun (i : Instr) (f : Nat → Nat → Nat → FRes) => CompletesOrTraps s p g i (.fixed 4) fun k =>
      let l := f (lo (x k)) (lo (y k)) (lo (z k))
      let h := f (hi (x k)) (hi (y k)) (hi (z k))
      { writes := [(d, BitVec.ofNat 32 (l.bits + 2 ^ 16 * h.bits))], flags := l.flags ||| h.flags }
    let m : RMode := { mode := g.fprm, ftz := false, sat := false }
    let fine := fun (f : FFmt) (i1 i2 i3 i4 : Instr) =>
      both i1 (fun a b _ => f.add m (some (f.value a)) (some (f.value b))) ∧ both i2 (fun a b _ => f.mul m (f.value a) (f.value b))
      ∧ both i3 (fun a b c => f.fma m (f.value a) (f.value b) (f.value c)) ∧ both i4 (fun a b _ => f.minMax false true a b)
    let conv := fun (i : Instr) (mode : Rounding) (sat : Bool) =>
      CompletesOrTraps s p g i (.fixed (if t = .fp64 ∨ u = .fp64 then 8 else 4)) fun k =>
        let v := convertValue t u mode g.fpftz sat (if u = .fp64 then (g.srcPair s.cycle k a r).toNat else x k)
        { writes := if t = .fp64 then [(d, BitVec.ofNat 32 v.bits), (d.plus 1, BitVec.ofNat 32 (v.bits / 2 ^ 32))] else [(d, BitVec.ofNat 32 v.bits)], flags := v.flags }
    let pack := fun (i : Instr) (t : Fmt) (n : Nat) (sat : Bool) => CompletesOrTraps s p g i (.fixed 4) fun k =>
      let v := convertValue t .fp32 g.fprm g.fpftz sat (x k)
      let w := convertValue t .fp32 g.fprm g.fpftz sat (y k)
      { writes := [(d, BitVec.ofNat 32 (v.bits + 2 ^ n * w.bits))], flags := v.flags ||| w.flags }
    let part := fun (w j k : Nat) => x k / 2 ^ (w * j) % 2 ^ w
    let two := fun (i : Instr) (u : Fmt) => CompletesOrTraps s p g i (.fixed 4) fun k =>
      let v := fun j => convertValue .fp32 u .nearestEven g.fpftz false (part 16 j k)
      { writes := [(d, BitVec.ofNat 32 (v 0).bits), (d.plus 1, BitVec.ofNat 32 (v 1).bits)], flags := (v 0).flags ||| (v 1).flags }
    let four := fun (i : Instr) (u : Fmt) => CompletesOrTraps s p g i (.fixed 4) fun k =>
      let v := fun j => convertValue .fp32 u .nearestEven g.fpftz false (part 8 j k)
      { writes := [(d, BitVec.ofNat 32 (v 0).bits), (d.plus 1, BitVec.ofNat 32 (v 1).bits), (d.plus 2, BitVec.ofNat 32 (v 2).bits), (d.plus 3, BitVec.ofNat 32 (v 3).bits)],
        flags := (v 0).flags ||| (v 1).flags ||| (v 2).flags ||| (v 3).flags }
    let byteOf := fun (sat : Bool) (n : Nat) => if sat then (BitVec.ofInt 8 (max (-128) (min 127 (BitVec.ofNat 32 n).toInt))).toNat else n % 256
    let bytes := fun (i : Instr) (sat : Bool) => Completes s p g i (.fixed 4) fun k => .word d (BitVec.ofNat 32 (byteOf sat (x k) + 256 * byteOf sat (y k)))
    fine .fp16 (.hadd2 d a r b q) (.hmul2 d a r b q) (.hfma2 d a r b q) (.hmax2 d a r b q)
    ∧ fine .bf16 (.badd2 d a r b q) (.bmul2 d a r b q) (.bfma2 d a r b q) (.bmax2 d a r b q)
    ∧ conv (.cvt d a r t u) g.fprm false ∧ conv (.cvtSat d a r t u) g.fprm true ∧ conv (.cvtRn d a r t u) .nearestEven false
    ∧ conv (.cvtRz d a r t u) .towardZero false ∧ conv (.cvtRm d a r t u) .down false ∧ conv (.cvtRp d a r t u) .up false
    ∧ pack (.pkF16 d a r b q) .fp16 16 false ∧ pack (.pkBf16 d a r b q) .bf16 16 false ∧ pack (.pkE4m3 d a r b q) .e4m3 8 false
    ∧ pack (.pkE5m2 d a r b q) .e5m2 8 false ∧ pack (.pkE4m3Sat d a r b q) .e4m3 8 true ∧ pack (.pkE5m2Sat d a r b q) .e5m2 8 true
    ∧ bytes (.pkI8 d a r b q) false ∧ bytes (.pkI8S d a r b q) true
    ∧ two (.unpkF16 d a r) .fp16 ∧ two (.unpkBf16 d a r) .bf16 ∧ four (.unpkE4m3 d a r) .e4m3 ∧ four (.unpkE5m2 d a r) .e5m2
    ∧ Completes s p g (.unpkI8 d a r) (.fixed 4) fun k =>
        let v := fun j => (BitVec.ofNat 8 (part 8 j k)).signExtend 32
        { writes := [(d, v 0), (d.plus 1, v 1), (d.plus 2, v 2), (d.plus 3, v 3)] }

/-- R206, R207, R83: in a group of 32 or 64 lanes pk.bq4 gives each block's lanes their words of the packed block, with the flags of the lane and of the block; unpk.bq4 gives each lane its element of the block that the first five lanes hold. An enabled flag traps FP_EXC and nothing is written. In a group of 16 lanes all of them trap ILLEGAL. -/
def Obligations.LaneBq4Results : Prop :=
  ∀ (s : State) (p : Packet) (g : Group), s.issuing = some (p, g) → ∀ (d a : Reg) (r : Route),
    let pack := fun (i : Instr) (type : Nat) =>
      (g.width < 32 → exec i s = .next (s.trapAt p.gid p.cur .illegal p.cur.lanes 0))
      ∧ (32 ≤ g.width → g.width % 32 = 0 →
          CompletesOrTraps s p g i (.scoreboard 12) fun k =>
            let blk := bq4Pack type g.fprm (bq4Inputs g s.cycle p.cur.lanes a r (k / 32 * 32))
            { writes := [(d, bq4LaneWord blk (k % 32))], flags := blk.flags.getD (k % 32) 0 ||| blk.blockFlags })
    let header := fun (k : Nat) => (g.read s.cycle (k / 32 * 32 + 4) a).toNat % 2 ^ 16
    let value := fun (k : Nat) => FFmt.fp32.round { mode := g.fprm, ftz := false, sat := false }
      (bq4Value (header k) ((g.read s.cycle (k / 32 * 32 + k % 32 / 8) a).toNat / 2 ^ (4 * (k % 8)) % 16))
    pack (.pkBq4T0 d a r) 0 ∧ pack (.pkBq4T1 d a r) 1 ∧ pack (.pkBq4T2 d a r) 2 ∧ pack (.pkBq4T3 d a r) 3
    ∧ (g.width < 32 → exec (.unpkBq4 d a) s = .next (s.trapAt p.gid p.cur .illegal p.cur.lanes 0))
    ∧ (32 ≤ g.width → (∀ k, p.cur.lanes.getLsbD k = true → k < g.width → bq4Malformed (header k) = false) →
        CompletesOrTraps s p g (.unpkBq4 d a) (.scoreboard 12) fun k => { writes := [(d, BitVec.ofNat 32 (value k).bits)], flags := (value k).flags })

/-- R208, R209: rng.key sets a stream's key and position 0; rng.skip moves the position by b × 2^32 + a; rng.draw delivers the stream's word at the position (the high 24 bits as a fraction, or 53 bits of two words) and moves the position by the words drawn. -/
def Obligations.LaneStreamResults : Prop :=
  ∀ (s : State) (p : Packet) (g : Group), s.issuing = some (p, g) → ∀ (d a : Reg) (r : Route) (b : Reg) (q : Route),
    let pos := fun i => (g.readPair s.cycle i (a.plus 2)).toNat
    let word := fun i n => streamWord (g.read s.cycle i a) (g.read s.cycle i (a.plus 1)) (pos i + n)
    let next := fun i n => (LaneRes.pair (a.plus 2) (BitVec.ofNat 64 (pos i + n))).writes
    Completes s p g (.rngKey d a r b q) (.scoreboard 4) (fun i => { writes := [(d, g.src s.cycle i a r), (d.plus 1, g.src s.cycle i b q), (d.plus 2, 0), (d.plus 3, 0)] })
    ∧ Completes s p g (.rngSkip d a r b q) (.scoreboard 4) (fun i =>
        .pair (d.plus 2) (BitVec.ofNat 64 ((g.readPair s.cycle i (d.plus 2)).toNat + (g.src s.cycle i b q).toNat * 2 ^ 32 + (g.src s.cycle i a r).toNat)))
    ∧ Completes s p g (.rngDraw d a) (.scoreboard 12) (fun i => { writes := (d, word i 0) :: next i 1 })
    ∧ Completes s p g (.rngDrawF32 d a) (.scoreboard 12) (fun i =>
        { writes := (d, BitVec.ofNat 32 (FFmt.fp32.round .engine (.fin false ((word i 0).toNat / 2 ^ 8) (-24))).bits) :: next i 1 })
    ∧ Completes s p g (.rngDrawF64 d a) (.scoreboard 16) (fun i =>
        let u := (word i 0).toNat + (word i 1).toNat * 2 ^ 32
        { writes := (LaneRes.pair d (BitVec.ofNat 64 (FFmt.fp64.round .engine (.fin false (u / 2 ^ 11) (-53))).bits)).writes ++ next i 2 })

/-- R210 to R214, R76, R83: the aged instructions complete when every active lane's selectors name valid decay factors and no enabled flag is raised; an enabled flag traps FP_EXC with nothing written. With age = (datum − stamp) modulo 2^24, an age of 2^23 or more is a stamp in the future, which raises AF and decays nothing: aget then delivers the value as it stands, a subnormal one as zero of its sign under FPFTZ. aget writes the value times the decay of its age, rounded once; aadd leaves the value decayed to the datum plus a, one rounding, stamped with the datum; amerge leaves the sum of both values, each decayed by the age it has above the younger of the two, stamped with the younger element's stamp (the datum when one lies in the future); the selector stays. aset makes an element of a as it stands, stamped with the datum, for every selector. With a selector that is not valid the lanes that hold it trap DECAY_RANGE. That a factor is used without the FPFTZ flush is the model's choice (DEDUCED, log entry 72), and so is that a factor on a line that fails its check counts as not known, and so traps DECAY_RANGE (DEDUCED, log entry 11). The spec gives aset no latency: the one it completes with here is the model's choice (DESIGN CHOICE, log entry 98). -/
def Obligations.LaneAgedResults : Prop :=
  ∀ (s : State) (p : Packet) (g : Group), s.issuing = some (p, g) → ∀ (d a : Reg) (r : Route) (b : Reg) (q : Route),
    let n := fun i => domainOf (g.src s.cycle i b q)
    let datum := fun i => (s.dev.datum.get (n i)).toNat
    let mine := fun i => agedOf (g.readPair s.cycle i d)
    let other := fun i => agedOf (g.srcPair s.cycle i a r)
    let known := fun i (e : Aged) => s.decayFactor s.dev.qepoch (n i).val e.sel ≠ none
    let acting := fun i => p.cur.lanes.getLsbD i = true ∧ i < g.width
    let m := g.rmode .fp32
    let age := fun i (e : Aged) => (datum i % 2 ^ 24 + 2 ^ 24 - e.stamp) % 2 ^ 24
    let future := fun i (e : Aged) => decide (2 ^ 23 ≤ age i e)
    let decay := fun i (e : Aged) (k : Nat) => fDecay (s.factor (n i) e.sel) k
    let value := fun (e : Aged) => g.fin .fp32 e.value.toNat
    let af := fun (x : Bool) => if x then Flags.af else 0
    let elem := fun (v : FRes) (stamp sel : Nat) => BitVec.ofNat 64 (v.bits % 2 ^ 32 * 2 ^ 32 + stamp % 2 ^ 24 * 256 + sel % 256)
    let completes := fun (i : Instr) (v : Nat → FRes) (stamp : Nat → Nat) (fl : Nat → Flags) => CompletesOrTraps s p g i (.scoreboard 32) fun i =>
      { writes := [(d, loWord (elem (v i) (stamp i) (mine i).sel)), (d.plus 1, hiWord (elem (v i) (stamp i) (mine i).sel))], flags := (v i).flags ||| fl i }
    let traps := fun (i : Instr) (good : Nat → Prop) => (∃ k, acting k ∧ ¬ good k) →
      ∃ m : LaneMask, exec i s = .next (s.trapAt p.gid p.cur .decayRange m 0) ∧ ∀ i, i < 64 → (m.getLsbD i = true ↔ acting i ∧ ¬ good i)
    ((∀ i, acting i → known i (other i)) →
      CompletesOrTraps s p g (.aget d a r b q) (.scoreboard 32) fun i =>
        if future i (other i) then
          let w := (other i).value
          { writes := [(d, if g.fpftz = true ∧ w.toNat / 2 ^ 23 % 256 = 0 then BitVec.ofNat 32 (w.toNat / 2 ^ 31 * 2 ^ 31) else w)], flags := Flags.af }
        else
          let v := FFmt.fp32.mul m (value (other i)) (decay i (other i) (age i (other i)))
          { writes := [(d, BitVec.ofNat 32 v.bits)], flags := v.flags })
    ∧ ((∀ i, acting i → known i (mine i)) →
        completes (.aadd d a r b q)
          (fun i =>
            let x := g.fin .fp32 (g.src s.cycle i a r).toNat
            if future i (mine i) then FFmt.fp32.add m (some (value (mine i))) (some x) else FFmt.fp32.fma m (value (mine i)) (decay i (mine i) (age i (mine i))) x)
          datum (fun i => af (future i (mine i))))
    ∧ ((∀ i, acting i → known i (mine i) ∧ known i (other i)) →
        let late := fun i => future i (mine i) || future i (other i)
        let young := fun i => min (age i (mine i)) (age i (other i))
        completes (.amerge d a r b q)
          (fun i => if late i then FFmt.fp32.add m (some (value (mine i))) (some (value (other i)))
            else FFmt.fp32.add m ((value (mine i)).mul (decay i (mine i) (age i (mine i) - young i))) ((value (other i)).mul (decay i (other i) (age i (other i) - young i))))
          (fun i => if late i then datum i else datum i % 2 ^ 24 + 2 ^ 24 - young i) (fun i => af (late i)))
    ∧ (∃ k, Completes s p g (.aset d a r b q) (.scoreboard k) fun i =>
        { writes := [(d, BitVec.ofNat 32 (datum i % 2 ^ 24 * 256 + (g.src s.cycle i b q).toNat / 256 % 256)), (d.plus 1, g.src s.cycle i a r)] })
    ∧ traps (.aget d a r b q) (fun i => known i (other i))
    ∧ traps (.aadd d a r b q) (fun i => known i (mine i))
    ∧ traps (.amerge d a r b q) (fun i => known i (mine i) ∧ known i (other i))

/-- R83, R177: the operation by which the lane instructions deliver, when a lane raises a flag that its FPEN enables and nothing of the packet has trapped: no register is written, the flags are raised in the lanes that act, and the lanes that raised an enabled flag trap FP_EXC. That each FP32, FP64, packed, conversion and aged instruction does so is in the statements of their results. -/
def Obligations.FpExceptionTraps : Prop :=
  ∀ (s : State) (p : Packet) (g : Group) (f : Nat → LaneRes) (lat : Latency), s.issuing = some (p, g) → p.trap = none → ¬ g.quiet p.cur.lanes f →
    ∃ h m, s.lanewise p g lat f = (s.setGroup p.gid h).trapAt p.gid p.cur .fpExc m 0 ∧ FlagsRaised p g h f m

/-! ## Control of lanes and groups (R14, R32, R88, R132 to R146, R188 to R193) -/

/-- R88: the sequential successor of word i, 1 to 6, is word i + 1; of word 7 it is word 1 of the next block, 8 bytes further on; so it is never a control word, and a transfer to a control word traps MISALIGNED_PC. -/
def Obligations.SequentialSuccessor : Prop :=
  ∀ (pc : DWord), pc.toNat % 4 = 0 → pc.toNat % 32 ≠ 0 → pc.toNat + 8 < 2 ^ 64 →
    (pc.toNat / 4 % 8 ≤ 6 → (succPc pc).toNat = pc.toNat + 4 ∧ (succPc pc).toNat / 4 % 8 = pc.toNat / 4 % 8 + 1 ∧ (succPc pc).toNat / 32 = pc.toNat / 32)
    ∧ (pc.toNat / 4 % 8 = 7 → (succPc pc).toNat = pc.toNat + 8 ∧ (succPc pc).toNat / 4 % 8 = 1 ∧ (succPc pc).toNat / 32 = pc.toNat / 32 + 1)
    ∧ ∀ (q : DWord), q.toNat / 2 ^ 56 = 0 ∨ q.toNat / 2 ^ 56 = 255 → q.toNat / 4 % 8 = 0 → pcFault q = some .misalignedPc

/-- R188, R190, R191, R32: a lane branch moves each active lane by its own vc, retv to the address in its own pair, callv to its own target with the sequential successor as link, when every active lane's new PC is one that R14 allows (and, for callv, every target's budget fits); rejoin puts each active lane into the waiting state at its PC with the mask of its own register; exitl ends the active lanes while other lanes of the group live on. -/
def Obligations.LaneControl : Prop :=
  ∀ (s : State) (p : Packet) (g : Group), s.issuing = some (p, g) → ∀ (c a d : Reg) (r : Route) (f : BitVec 19),
    let aim := branchTarget p.cur.pc f
    let branch := fun (i : Instr) (taken : Nat → Bool) =>
      (pcFault aim = none ∨ ∀ i, p.cur.lanes.getLsbD i = true → i < g.width → taken i = false) → pcFault (succPc p.cur.pc) = none →
        CompletesAt s p g i (.fixed 2) (fun i => if taken i then aim else succPc p.cur.pc) fun _ => { writes := [] }
    let acting := fun i => p.cur.lanes.getLsbD i = true ∧ i < g.width
    branch (.brcNz c f) (fun i => decide (g.read s.cycle i c ≠ 0))
    ∧ branch (.brcZ c f) (fun i => decide (g.read s.cycle i c = 0))
    ∧ ((∀ i, acting i → pcFault (g.readPair s.cycle i a) = none) → CompletesAt s p g (.retv a) (.fixed 2) (fun i => g.readPair s.cycle i a) fun _ => { writes := [] })
    ∧ ((∀ i, acting i → pcFault (g.srcPair s.cycle i a r) = none ∧ s.budgetAt g (g.srcPair s.cycle i a r) ≤ g.alloc) →
        CompletesAt s p g (.callv d a r) (.scoreboard 4) (fun i => g.srcPair s.cycle i a r) fun _ => .pair d (succPc p.cur.pc))
    ∧ (∃ h, exec (.rejoin a) s = .next (s.setGroup p.gid h) ∧ h = { g with lanes := h.lanes } ∧ h.lanes.length = g.lanes.length
        ∧ (∀ i, g.acts p.cur.lanes i → h.lane i = { g.lane i with st := .waiting (g.maskFrom s.cycle i a) })
        ∧ ∀ i, p.cur.lanes.getLsbD i = false → h.lane i = g.lane i)
    ∧ (g.liveMask ≠ p.cur.lanes →
        ∃ h, exec .exitl s = .next (s.setGroup p.gid h) ∧ h = { g with lanes := h.lanes } ∧ h.lanes.length = g.lanes.length
          ∧ (∀ i, g.acts p.cur.lanes i → h.lane i = { g.lane i with st := .exited })
          ∧ ∀ i, p.cur.lanes.getLsbD i = false → h.lane i = g.lane i)

/-- R193, R14, R189: a lane transfer with a new PC that R14 does not allow, or with a target whose budget does not fit, moves no lane: the group traps the first of PC_RANGE, MISALIGNED_PC and BUDGET that some lane has, TRAPMASK names every lane that has one, TRAPADDR holds the new PC of the lowest of them. -/
def Obligations.LaneTransferTraps : Prop :=
  ∀ (s : State) (p : Packet) (g : Group), s.issuing = some (p, g) → ∀ (a d : Reg) (r : Route) (f : BitVec 19),
    let acting := fun i => p.cur.lanes.getLsbD i = true ∧ i < g.width
    let trap := fun (i : Instr) (aim : Nat → DWord) (fits : Nat → Bool) =>
      let bad := fun k => acting k ∧ (pcFault (aim k) ≠ none ∨ fits k = false)
      (∃ k, bad k) →
        ∃ m cause low, exec i s = .next (s.trapAt p.gid p.cur cause m (aim low)) ∧ bad low ∧ (∀ k, bad k → low ≤ k) ∧ (∀ k, k < 64 → (m.getLsbD k = true ↔ bad k))
          ∧ ((∃ k, acting k ∧ pcFault (aim k) = some .pcRange) → cause = .pcRange)
          ∧ ((∀ k, acting k → pcFault (aim k) ≠ some .pcRange) → (∃ k, acting k ∧ pcFault (aim k) = some .misalignedPc) → cause = .misalignedPc)
          ∧ ((∀ k, acting k → pcFault (aim k) = none) → cause = .budget)
    trap (.retv a) (fun k => g.readPair s.cycle k a) (fun _ => true)
    ∧ trap (.brcNz a f) (fun k => if g.read s.cycle k a ≠ 0 then branchTarget p.cur.pc f else succPc p.cur.pc) (fun _ => true)
    ∧ trap (.brcZ a f) (fun k => if g.read s.cycle k a = 0 then branchTarget p.cur.pc f else succPc p.cur.pc) (fun _ => true)
    ∧ trap (.callv d a r) (fun k => g.srcPair s.cycle k a r) (fun k => decide (s.budgetAt g (g.srcPair s.cycle k a r) ≤ g.alloc))

/-- R32, R33, R356, R362: at the end of a cycle a lane that waits at a rejoin is released to the sequential successor when every lane its mask names has exited, is disabled, or waits at the same PC; no other lane of a group that is not parked changes. That a parked group's lanes stay is the model's reading of R356 and R362: neither R32 nor R33 speaks of a parked group. -/
def Obligations.RejoinRelease : Prop :=
  ∀ (s : State) (gid : Nat) (g : Group), s.group? gid = some g →
    ∃ h, s.endCycle.group? gid = some h ∧ h.lanes.length = g.lanes.length ∧ ∀ i, i < g.lanes.length →
      (∀ m, (g.lane i).st = .waiting m → s.resident g = true → g.parked = none →
        (∀ j, j < g.width → m.getLsbD j = true → (g.lane j).st = .exited ∨ g.enmask.getLsbD j = false ∨ ((∃ k, (g.lane j).st = .waiting k) ∧ (g.lane j).pc = (g.lane i).pc)) →
          h.lane i = { g.lane i with st := .live, pc := succPc (g.lane i).pc })
      ∧ ((∀ m, (g.lane i).st = .waiting m → ∃ j, j < g.width ∧ m.getLsbD j = true ∧ (g.lane j).st ≠ .exited ∧ g.enmask.getLsbD j = true ∧ ((g.lane j).st = .live ∨ (g.lane j).pc ≠ (g.lane i).pc)) → h.lane i = g.lane i)
      ∧ (g.parked ≠ none → h.lane i = g.lane i)

/-- R26, R27: the chosen pair. There is a first PC exactly when there is a candidate lane, and a second exactly when candidate lanes lie at two PCs. The first PC is that of a candidate lane, and no PC of another candidate lane has more candidate lanes, or as many and a lower address; the second ranks so among the PCs that are left. -/
def Obligations.ChosenPairRanks : Prop :=
  ∀ (g : Group),
    let cand := fun i => i < g.width ∧ g.candidates.getLsbD i = true
    let count := fun pc => ((List.range g.width).filter fun i => g.candidates.getLsbD i && (g.lane i).pc == pc).length
    ((∃ i, cand i) ↔ g.chosenPair ≠ [])
    ∧ ((∃ i j, cand i ∧ cand j ∧ (g.lane i).pc ≠ (g.lane j).pc) ↔ ∃ a b, g.chosenPair = [a, b])
    ∧ ∀ (a : DWord) (r : List DWord), g.chosenPair = a :: r →
        (∃ i, cand i ∧ (g.lane i).pc = a)
        ∧ (∀ i, cand i → count (g.lane i).pc ≤ count a ∧ (count (g.lane i).pc = count a → a.toNat ≤ (g.lane i).pc.toNat))
        ∧ (∀ b, r = [b] → b ≠ a ∧ (∃ i, cand i ∧ (g.lane i).pc = b)
            ∧ ∀ i, cand i → (g.lane i).pc ≠ a → count (g.lane i).pc ≤ count b ∧ (count (g.lane i).pc = count b → b.toNat ≤ (g.lane i).pc.toNat))
        ∧ r.length ≤ 1

/-- R125, R129 to R131: a uniform data instruction reads its sources in the lowest active lane, and writes one result in every active lane, with latency 2; g.nop only moves on. -/
def Obligations.UniformDataResults : Prop :=
  ∀ (s : State) (p : Packet) (g : Group), s.issuing = some (p, g) → ∀ (d a b : Reg) (cc : Cond) (imm : BitVec 13),
    let x := g.read s.cycle (g.lowest p.cur.lanes) a
    let y := g.read s.cycle (g.lowest p.cur.lanes) b
    let gives := fun (i : Instr) (v : Word) => Completes s p g i (.fixed 2) fun _ => .word d v
    gives (.gMov d a) x
    ∧ gives (.gAdd d a b) (BitVec.ofNat 32 (x.toNat + y.toNat))
    ∧ gives (.gSub d a b) (BitVec.ofInt 32 (x.toInt - y.toInt))
    ∧ gives (.gMul d a b) (BitVec.ofNat 32 (x.toNat * y.toNat))
    ∧ gives (.gMulh d a b) (BitVec.ofInt 32 (x.toInt * y.toInt / 2 ^ 32))
    ∧ gives (.gMulhU d a b) (BitVec.ofNat 32 (x.toNat * y.toNat / 2 ^ 32))
    ∧ gives (.gAnd d a b) (x &&& y) ∧ gives (.gOr d a b) (x ||| y) ∧ gives (.gXor d a b) (x ^^^ y)
    ∧ gives (.gShl d a b) (BitVec.ofNat 32 (x.toNat * 2 ^ (y.toNat % 32)))
    ∧ gives (.gShr d a b) (BitVec.ofNat 32 (x.toNat / 2 ^ (y.toNat % 32)))
    ∧ gives (.gSar d a b) (BitVec.ofInt 32 (x.toInt / 2 ^ (y.toNat % 32)))
    ∧ gives (.gSel d a b) (if g.read s.cycle (g.lowest p.cur.lanes) d = 0 then y else x)
    ∧ gives (.gMin d a b) (BitVec.ofInt 32 (min x.toInt y.toInt)) ∧ gives (.gMinU d a b) (BitVec.ofNat 32 (min x.toNat y.toNat))
    ∧ gives (.gMax d a b) (BitVec.ofInt 32 (max x.toInt y.toInt)) ∧ gives (.gMaxU d a b) (BitVec.ofNat 32 (max x.toNat y.toNat))
    ∧ gives (.gCmp d a b cc) (if (match cc with
        | .eq => decide (x = y)
        | .ne => decide (x ≠ y)
        | .lt => decide (x.toInt < y.toInt)
        | .le => decide (x.toInt ≤ y.toInt)
        | .gt => decide (x.toInt > y.toInt)
        | .ge => decide (x.toInt ≥ y.toInt)
        | .ltu => decide (x.toNat < y.toNat)
        | .leu => decide (x.toNat ≤ y.toNat)
        | .gtu => decide (x.toNat > y.toNat)
        | .geu => decide (x.toNat ≥ y.toNat)) then 1 else 0)
    ∧ gives (.gLi d imm) (BitVec.ofInt 32 imm.toInt)
    ∧ gives (.gLui d a imm) (BitVec.ofNat 32 (x.toNat * 8192 + imm.toNat))
    ∧ gives (.gAddImm d a imm) (BitVec.ofInt 32 (x.toInt + imm.toInt))
    ∧ gives (.gAndImm d a imm) (x &&& BitVec.ofInt 32 imm.toInt)
    ∧ gives (.gOrImm d a imm) (x ||| BitVec.ofInt 32 imm.toInt)
    ∧ gives (.gXorImm d a imm) (x ^^^ BitVec.ofInt 32 imm.toInt)
    ∧ Completes s p g .gNop (.fixed 2) fun _ => { writes := [] }

/-- R132 to R134: a uniform transfer moves every active lane to its target when it is taken and the target is one that R14 allows, and to the sequential successor when it is not taken; g.call writes the successor's address as the link pair, g.loop the count less one. A taken transfer to a target that R14 does not allow traps at the instruction with TRAPADDR the target and moves nothing. -/
def Obligations.UniformTransfers : Prop :=
  ∀ (s : State) (p : Packet) (g : Group), s.issuing = some (p, g) → ∀ (a : Reg) (f : BitVec 19),
    let x := g.read s.cycle (g.lowest p.cur.lanes) a
    let aim := branchTarget p.cur.pc f
    let back := g.readPair s.cycle (g.lowest p.cur.lanes) a
    let goes := fun (i : Instr) (taken : Prop) (target : DWord) (ws : List (Reg × Word)) =>
      (taken → pcFault target = none → CompletesAt s p g i (.fixed 2) (fun _ => target) fun _ => { writes := ws })
      ∧ (taken → ∀ c, pcFault target = some c → exec i s = .next (s.trapAt p.gid p.cur c p.cur.lanes target))
      ∧ (¬ taken → CompletesAt s p g i (.fixed 2) (fun _ => succPc p.cur.pc) fun _ => { writes := ws })
    goes (.gJmp f) True aim []
    ∧ goes (.gBrNz a f) (x ≠ 0) aim []
    ∧ goes (.gBrZ a f) (x = 0) aim []
    ∧ goes (.gCall a f) True aim [(a, loWord (succPc p.cur.pc)), (a.plus 1, hiWord (succPc p.cur.pc))]
    ∧ goes (.gLoop a f) (x ≠ 1) aim [(a, BitVec.ofInt 32 (x.toInt - 1))]
    ∧ goes (.gRet a) True back []

/-- R135, R137, R138, R144, R145, R174: g.yield gives up the packet's age; g.elect writes 1 in the lowest active lane and 0 in the others; g.lanes sets the running mask from its register within the width; g.feat delivers one feature bit and traps ILLEGAL from 128 on; g.clock.o delivers RETIRED before the packet and g.clock.u TIMEBASE; g.setroute sets an entry whose parameter is in range and traps ILLEGAL for entry 0 or a parameter out of range. -/
def Obligations.UniformGroupState : Prop :=
  ∀ (s : State) (p : Packet) (g : Group), s.issuing = some (p, g) → ∀ (d a : Reg) (n : BitVec 13) (e : BitVec 2) (k : RouteKind) (q : BitVec 6),
    (∃ t h, exec .gYield s = .next t ∧ t.packet = some { p with yield := true } ∧ t.group? p.gid = some h ∧ Moved g h p.cur.lanes (succPc p.cur.pc) ∧ h = { g with lanes := h.lanes })
    ∧ Completes s p g (.gElect d) (.fixed 2) (fun i => .word d (if i = g.lowest p.cur.lanes then 1 else 0))
    ∧ (∃ h, exec (.gLanes a) s = .next (s.setGroup p.gid h) ∧ Moved g h p.cur.lanes (succPc p.cur.pc) ∧ h = { g with lanes := h.lanes, enmask := h.enmask }
        ∧ h.enmask = (if g.width = 64 then g.readPair s.cycle (g.lowest p.cur.lanes) a else (g.read s.cycle (g.lowest p.cur.lanes) a).setWidth 64) &&& fullMask g.width)
    ∧ (n.toNat < 128 → Completes s p g (.gFeat d n) (.scoreboard 6) fun _ => .word d (if (Config.feat (n.toNat / 32)).getLsbD (n.toNat % 32) then 1 else 0))
    ∧ (128 ≤ n.toNat → exec (.gFeat d n) s = .next (s.trapAt p.gid p.cur .illegal p.cur.lanes 0))
    ∧ Completes s p g (.gClockO d) (.scoreboard 6) (fun _ => .pair d (BitVec.ofNat 64 p.retired0))
    ∧ Completes s p g (.gClockU d) (.scoreboard 6) (fun _ => .pair d (BitVec.ofNat 64 s.timebase))
    ∧ (let bad := e = 0 ∨ (k = .ident ∧ q.toNat ≠ 0) ∨ ((k = .rot ∨ k = .bcast) ∧ g.width ≤ q.toNat) ∨ (k = .bfly ∧ g.width ≤ 2 ^ q.toNat) ∨ (k = .mirror ∧ (q.toNat = 0 ∨ g.width < 2 ^ q.toNat))
       (bad → exec (.gSetroute e k q) s = .next (s.trapAt p.gid p.cur .illegal p.cur.lanes 0))
       ∧ (¬ bad → ∃ h, exec (.gSetroute e k q) s = .next (s.setGroup p.gid h) ∧ Moved g h p.cur.lanes (succPc p.cur.pc)
           ∧ h = { g with lanes := h.lanes, routes := g.routes.set (e.toNat - 1) { kind := k, param := q.toNat } }))

/-- R22, R23, R139 to R141, R355, R358: a CSR read delivers, in every active lane, the CSR's low or whole half as it stands; the high half is that of the snapshot which a read of the low half left, if it is the last access, holds this CSR and serves the lane, and as it stands otherwise; a read of a low half takes the snapshot, and any other access drops it. A CSR write changes only a register whose access is RW, by writing, setting or clearing bits: FPEN and FPFLAGS of each active lane from its own register, its TRAPPC only while a handler runs, FPRM, FPFTZ, SCHK and ENMASK from the lowest active lane, ENMASK within the width and, while a handler runs, in the saved mask. A number that is no CSR traps ILLEGAL. R21, R24, R25, R36, R38, R39, R48, R52, R115, R146: what each number of the table names, and its value as its fields give it; that RETIRED is the count before the packet is the model's reading (DEDUCED, log entry 16). -/
def Obligations.CsrAccess : Prop :=
  ∀ (s : State) (p : Packet) (g : Group), s.issuing = some (p, g) → ∀ (d a : Reg) (c : BitVec 13),
    (∀ i, i < g.width →
        let n := fun (x : Nat) => BitVec.ofNat 64 x
        let word := fun (k : Nat) (v : DWord) => ∃ r, csrOf k = some (r, .whole) ∧ s.csrValue p g i r = v
        let wide := fun (k : Nat) (v : DWord) => ∃ r, csrOf k = some (r, .low) ∧ csrOf (k + 1) = some (r, .high) ∧ s.csrValue p g i r = v
        word 0x000 (n ((if g.width = 16 then 0 else if g.width = 32 then 1 else 2) * 2 ^ 8 + i))
        ∧ word 0x001 ((g.lane i).fpen.setWidth 64) ∧ word 0x002 ((g.lane i).fpflags.setWidth 64) ∧ wide 0x004 (g.lane i).trappc
        ∧ word 0x010 (match g.fprm with
            | .nearestEven => 0
            | .towardZero => 1
            | .down => 2
            | .up => 3)
        ∧ word 0x011 (if g.fpftz then 1 else 0) ∧ word 0x012 (if g.schk then 1 else 0) ∧ wide 0x016 (if g.hnd then g.saveden else g.enmask)
        ∧ (∀ tm l, s.teamOf g = some tm → s.launchOf g = some l →
            word 0x013 (n ((if l.kern.gang = 1 then 0 else if l.kern.gang = 2 then 1 else 2) * 2 ^ 18 + tm.rank * 2 ^ 16 + (tm.groups.length - 1) * 2 ^ 8 + g.index))
            ∧ word 0x014 (n tm.teamId) ∧ word 0x015 (n (l.record.teams - 1)) ∧ wide 0x01C (n tm.weight)
            ∧ word 0x040 (if l.record.bounded then 1 else 0) ∧ wide 0x042 (n l.record.deadline) ∧ wide 0x044 (n l.record.workbound))
        ∧ (∃ v, word 0x018 v ∧ v.toNat < 2 ^ 16 ∧ ∀ k : Token, v.toNat / 2 ^ (2 * k.val) % 4 = match (g.token k).st with
            | .idle => 0
            | .busy => 1
            | .done => 2
            | .fault => 3)
        ∧ word 0x019 (n (g.bdone % 2 ^ 16 * 2 ^ 16 + g.bsealed % 2 ^ 16)) ∧ wide 0x01A (n p.retired0)
        ∧ word 0x020 0 ∧ (∀ k r, k < 3 → g.routes[k]? = some r → word (0x021 + k) (n ((match r.kind with
            | .ident => 0
            | .rot => 1
            | .bcast => 2
            | .bfly => 3
            | .mirror => 4) * 2 ^ 16 + r.param)))
        ∧ word 0x030 (n ((if g.hnd then 2 ^ 31 else 0) + (if g.defer then 2 ^ 30 else 0) + g.code)) ∧ wide 0x032 g.trapmask ∧ wide 0x034 g.trapaddr ∧ word 0x036 (g.trapinst.setWidth 64)
        ∧ wide 0x050 (s.trapvec (s.asidOf g)) ∧ wide 0x080 (n (if s.certified g then p.retired0 else s.timebase)) ∧ wide 0x082 (n s.dev.decayBase)
        ∧ word 0x090 0x1FFF ∧ word 0x091 0 ∧ word 0x092 0 ∧ word 0x093 0 ∧ ∀ k : Fin 16, wide (0x0C0 + 2 * k.val) (s.dev.datum.get k))
    ∧ (csrOf c.toNat = none → ∀ i ∈ [Instr.gCsrr d c, Instr.gCsrw a c, Instr.gCsrs a c, Instr.gCsrc a c], exec i s = .next (s.trapAt p.gid p.cur .illegal p.cur.lanes 0))
    ∧ (∀ r half, csrOf c.toNat = some (r, half) →
        (∃ t h e, exec (.gCsrr d c) s = .next t ∧ GroupOnly s t p h ∧ Moved g h p.cur.lanes (succPc p.cur.pc)
          ∧ h = { g with lanes := h.lanes, sb := g.sb ++ [e], snap := h.snap } ∧ e.kind = .ready ∧ e.due = s.cycle + 6
          ∧ (half ≠ .low → h.snap = none) ∧ (half = .low → ∃ sn, h.snap = some sn ∧ sn.csr = c.toNat ∧ ∀ i, g.acts p.cur.lanes i → lookup sn.vals i = some (s.csrValue p g i r))
          ∧ ∀ i, g.acts p.cur.lanes i →
              (half ≠ .high → (i, d, loWord (s.csrValue p g i r)) ∈ e.vals)
              ∧ (half = .high → (g.snap = none ∨ ∃ sn, g.snap = some sn ∧ (sn.csr + 1 ≠ c.toNat ∨ lookup sn.vals i = none)) → (i, d, hiWord (s.csrValue p g i r)) ∈ e.vals)
              ∧ (half = .high → ∀ sn v, g.snap = some sn → sn.csr + 1 = c.toNat → lookup sn.vals i = some v → (i, d, hiWord v) ∈ e.vals))
        ∧ (∀ op i, (op, i) ∈ [(CsrOp.write, Instr.gCsrw a c), (CsrOp.set, Instr.gCsrs a c), (CsrOp.clear, Instr.gCsrc a c)] →
            let x := g.read s.cycle (g.lowest p.cur.lanes) a
            let word := fun (old v : Word) => match op with
              | .write => v
              | .set => old ||| v
              | .clear => old &&& ~~~ v
            let wide := fun (old : DWord) (v : Word) => if half = .high then joinWords (loWord old) (word (hiWord old) v) else joinWords (word (loWord old) v) (hiWord old)
            ∃ h, exec i s = .next (s.setGroup p.gid h) ∧ h.snap = none
              ∧ h = { g with lanes := h.lanes, snap := none, fprm := h.fprm, fpftz := h.fpftz, schk := h.schk, enmask := h.enmask, saveden := h.saveden }
              ∧ h.lanes.length = g.lanes.length
              ∧ (∀ k, g.acts p.cur.lanes k → (h.lane k).pc = succPc p.cur.pc ∧ (h.lane k).regs = (g.lane k).regs ∧ (h.lane k).st = (g.lane k).st
                  ∧ (h.lane k).fpen = (if r = .fpen then (word ((g.lane k).fpen.setWidth 32) (g.read s.cycle k a)).setWidth 6 else (g.lane k).fpen)
                  ∧ (h.lane k).fpflags = (if r = .fpflags then (word ((g.lane k).fpflags.setWidth 32) (g.read s.cycle k a)).setWidth 6 else (g.lane k).fpflags)
                  ∧ (h.lane k).trappc = (if r = .trappc ∧ g.hnd = true then wide (g.lane k).trappc (g.read s.cycle k a) else (g.lane k).trappc))
              ∧ (∀ k, p.cur.lanes.getLsbD k = false → h.lane k = g.lane k)
              ∧ h.fprm.code = (if r = .fprm then (word (BitVec.ofNat 32 g.fprm.code) x).toNat % 4 else g.fprm.code)
              ∧ h.fpftz = (if r = .fpftz then (word (if g.fpftz then 1 else 0) x).getLsbD 0 else g.fpftz)
              ∧ h.schk = (if r = .schk then (word (if g.schk then 1 else 0) x).getLsbD 0 else g.schk)
              ∧ (∀ j, h.enmask.getLsbD j = (if r = .enmask ∧ g.hnd = false then (wide g.enmask x).getLsbD j && decide (j < g.width ∧ j < 64) else g.enmask.getLsbD j))
              ∧ ∀ j, h.saveden.getLsbD j = (if r = .enmask ∧ g.hnd = true then (wide g.saveden x).getLsbD j && decide (j < g.width ∧ j < 64) else g.saveden.getLsbD j)))

/-- R142, R143, R361: g.trap takes SOFTWARE with its lanes' restart address at the sequential successor; g.eret, while a handler runs and every live lane's TRAPPC is one that R14 allows, sends each live lane to its TRAPPC, restores the running mask and ends the handler; outside a handler it traps ILLEGAL. -/
def Obligations.TrapAndReturn : Prop :=
  ∀ (s : State) (p : Packet) (g : Group), s.issuing = some (p, g) → ∀ (n : BitVec 13),
    (p.trap = none → p.rest = [] → g.pending = none → g.waits = [] → g.hnd = false → s.isRecompute g = false → ∀ entry, s.trapvec (s.asidOf g) = entry → entry ≠ 0 →
      ∃ h, exec (.gTrap n) s = .next (s.setGroup p.gid h) ∧ h.code = Cause.software.code ∧ h.hnd = true ∧ h.defer = false ∧ h.trapmask = p.cur.lanes ∧ h.trapinst = p.cur.word
        ∧ h.saveden = g.enmask
        ∧ (∀ i, g.acts p.cur.lanes i → (g.lane i).live = true → (h.lane i).trappc = succPc p.cur.pc ∧ (h.lane i).pc = entry)
        ∧ ∀ i, (h.lane i).regs = (g.lane i).regs ∧ (h.lane i).fpen = (g.lane i).fpen ∧ (h.lane i).fpflags = (g.lane i).fpflags)
    ∧ (g.hnd = false → exec .gEret s = .next (s.trapAt p.gid p.cur .illegal p.cur.lanes 0))
    ∧ (g.hnd = true → (∀ i, i < g.width → (g.lane i).live = true → pcFault (g.lane i).trappc = none) →
        ∃ h, exec .gEret s = .next (s.setGroup p.gid h) ∧ h = { g with lanes := h.lanes, hnd := false, enmask := g.saveden } ∧ h.lanes.length = g.lanes.length
          ∧ ∀ i, h.lane i = if (g.lane i).live then { g.lane i with pc := (g.lane i).trappc } else g.lane i)

/-! ## Fences, waits, exits (R136, R165 to R168, R192, R325) -/

/-- R136, R165 to R168, R192, R233, R325: outside a certified kernel, a fence with no deferred trap to take completes once the group's accesses are performed for its scope (an acquire: once its loads have returned), a release wider than TEAM having written the core's dirty PRIVATE lines home, and waits until then; g.wait completes once its token is not BUSY; g.seal seals the open batch under the next number, which is complete at once if it is empty, and waits while sixteen sealed batches are not complete; g.bwait completes once BATCH.DONE covers its number, waits before, and traps BATCH_RANGE on a number ahead of BATCH.SEALED; an exit that leaves the group no live lane ends it once its accesses have their outcomes and no fault is deferred, and waits before. Which remote stores a release at DOMAIN or wider waits for, those of the launch, is the model's choice (DEDUCED, log entry 17). -/
def Obligations.FenceAndWaitResults : Prop :=
  ∀ (s : State) (p : Packet) (g : Group), s.certified g = false →
    let waits := fun (i : Instr) (k : WaitKind) => ∃ h, exec i s = .next (s.setGroup p.gid h) ∧ h = { g with waits := h.waits } ∧ (h.waitOf p.cur.pc p.cur.place).map (·.kind) = some k
    let ends := fun (t : State) (gid : Nat) => ∃ h, t.group? gid = some h ∧ h.ended = true ∧ h.waits = [] ∧ h.lanes.length = g.lanes.length ∧ ∀ i, i < g.lanes.length → (h.lane i).st = .exited
    (s.issuing = some (p, g) → g.waitOf p.cur.pc p.cur.place = none →
      (∀ (c : Scope) (i : Instr) (release : Bool), (i, release) ∈ [(Instr.gFenceRel c, true), (Instr.gFenceAcq c, false), (Instr.gFenceFull c, true)] →
        g.deferredFor (if release then Deferred.atRelease else Deferred.atAcquire) = none →
          let done := if release then s.performed p.gid g c else g.loadsReturned
          (done = true → ∃ h, exec i s = .next ((if release && wide? c then s.writeBack g.core else s).setGroup p.gid h) ∧ h = { g with lanes := h.lanes } ∧ Moved g h p.cur.lanes (succPc p.cur.pc))
          ∧ (done = false → waits i (.fence c release)))
      ∧ (∀ k : Token, ((g.token k).st ≠ .busy → ∃ t h, exec (.gWait k) s = .next t ∧ t.group? p.gid = some h ∧ h = { g with lanes := h.lanes } ∧ Moved g h p.cur.lanes (succPc p.cur.pc)
            ∧ t = { s with groups := t.groups, eng := { s.eng with staged := t.eng.staged } })
          ∧ ((g.token k).st = .busy → waits (.gWait k) (.token k)))
      ∧ (∀ (d : Reg), let n := (g.bsealed + 1) % 65536
          ((s.openBatches p.gid).length < 16 → ∃ t h e, exec (.gSeal d) s = .next t ∧ t.group? p.gid = some h ∧ h = { g with lanes := h.lanes, sb := g.sb ++ [e], bsealed := n, bdone := h.bdone, deferred := h.deferred }
              ∧ Moved g h p.cur.lanes (succPc p.cur.pc) ∧ e.kind = .ready ∧ e.due = s.cycle + 4 ∧ (∀ i, g.acts p.cur.lanes i → (i, d, BitVec.ofNat 32 n) ∈ e.vals)
              ∧ (∀ x ∈ t.eng.copies, x.2.batchOf p.gid ≠ some none)
              ∧ ((∀ x ∈ s.eng.copies, x.2.batchOf p.gid = none) → g.bdone = g.bsealed → g.bsealed < 65536 → h.bdone = n)
              ∧ t.mem = s.mem ∧ t.teams = s.teams)
          ∧ (16 ≤ (s.openBatches p.gid).length → waits (.gSeal d) .sealLimit))
      ∧ (∀ (a : Reg), let n := (g.read s.cycle (g.lowest p.cur.lanes) a).toNat % 65536
          let ahead := (n + 65536 - g.bsealed % 65536) % 65536
          (1 ≤ ahead → ahead < 32768 → exec (.gBwait a) s = .next (s.trapAt p.gid p.cur .batchRange p.cur.lanes 0))
          ∧ ((ahead = 0 ∨ 32768 ≤ ahead) → g.deferredFor (fun x => x.kind.coveredBy n) = none →
              ((g.bdone + 65536 - n) % 65536 < 32768 → g.bdone < 65536 → ∃ t h, exec (.gBwait a) s = .next t ∧ t.group? p.gid = some h ∧ h = { g with lanes := h.lanes } ∧ Moved g h p.cur.lanes (succPc p.cur.pc)
                ∧ t = { s with groups := t.groups, eng := { s.eng with staged := t.eng.staged } })
              ∧ (32768 ≤ (g.bdone + 65536 - n) % 65536 → g.bdone < 65536 → waits (.gBwait a) (.batch n))))
      ∧ (∀ i ∈ [Instr.gExit, Instr.exitl], (i = .exitl → g.liveMask = p.cur.lanes) →
          (s.exitOver p.gid g = true → g.deferred = [] → ∃ t, exec i s = .next t ∧ ends t p.gid)
          ∧ (s.exitOver p.gid g = false → waits i .exit)))
    ∧ ∀ (gid : Nat) (w : Wait), s.group? gid = some g → g.queueWait .exit = some w → s.exitOver gid g = true → s.resident g = true → g.deferred = [] →
        ∃ t, exec (.exitWaitEnd gid) s = .next t ∧ ends t gid

/-! ## Step domains, device-side launches, invocations (R146 to R160, R169 to R173) -/

/-- R171: g.stepget writes the 64 bits of the datum of its domain, read at one instant, into its pair, in every active lane. -/
def Obligations.StepgetDelivers : Prop :=
  ∀ (s : State) (p : Packet) (g : Group), s.issuing = some (p, g) → ∀ (d : Reg) (n : Domain), Completes s p g (.gStepget d n) (.scoreboard 6) (fun _ => .pair d (s.dev.datum.get n))

/-- R169, R170, R172: outside a certified kernel, with the accesses performed for the device, g.stepadv advances the datum of its domain by its operand, unless the domain spans devices (STEP_SPANNING) or the new datum would lie 2^23 or more past SWEEPBASE (STEP_SWEEP_DUE); g.sweep starts a sweep of the domain that begins at the datum and is to walk the AGED pages of the domain, in pieces of 64 KiB, or has no effect while one runs; g.sweepwait delivers 0, or 6 after a failed sweep, once none runs, and waits before. (That g.stepadv has waited until then, and that the pieces lie in frames the device has, is read by inference, log entries 17 and 51.) -/
def Obligations.StepDomainResults : Prop :=
  ∀ (s : State) (p : Packet) (g : Group), s.issuing = some (p, g) → g.waitOf p.cur.pc p.cur.place = none → ∀ (a d : Reg) (n : Domain),
    let u := s.writeBack g.core
    let v := (g.read s.cycle (g.lowest p.cur.lanes) a).toNat
    let datum := (s.dev.datum.get n).toNat
    let new := (datum + v) % 2 ^ 64
    let past := (new + 2 ^ 64 - (s.dev.sweepBase.get n).toNat) % 2 ^ 64
    (s.certified g = false → s.performed p.gid g .device = true →
      (s.dev.spanning.getLsbD n.val = true → exec (.gStepadv a n) s = .next (u.trapAt p.gid p.cur .stepSpanning p.cur.lanes 0))
      ∧ (s.dev.spanning.getLsbD n.val = false → 2 ^ 23 ≤ past → exec (.gStepadv a n) s = .next (u.trapAt p.gid p.cur .stepSweepDue p.cur.lanes 0))
      ∧ (s.dev.spanning.getLsbD n.val = false → past < 2 ^ 23 → ∃ h, exec (.gStepadv a n) s = .next (({ u with dev := { u.dev with datum := u.dev.datum.set n (BitVec.ofNat 64 new) } }).setGroup p.gid h)
          ∧ h = { g with lanes := h.lanes } ∧ Moved g h p.cur.lanes (succPc p.cur.pc)))
    ∧ (∃ t h, exec (.gSweep n) s = .next t ∧ t.group? p.gid = some h ∧ h = { g with lanes := h.lanes } ∧ Moved g h p.cur.lanes (succPc p.cur.pc)
        ∧ t = { s with groups := t.groups, dev := { s.dev with sweeps := t.dev.sweeps } }
        ∧ (s.sweeping n = true → t.dev.sweeps = s.dev.sweeps)
        ∧ (s.sweeping n = false → ∃ w, t.dev.sweeps = s.dev.sweeps ++ [(n.val, w)] ∧ w.start = datum ∧ w.at_ = 0 ∧ (w.walking = true ↔ s.draining n.val = false)
            ∧ ∀ x, x ∈ w.pieces ↔ ∃ q ∈ s.mem.pages, attrAged q.attr = true ∧ attrDomain q.attr = n.val ∧ q.pa + q.size ≤ Config.hbmBytes ∧ x.1 = q.asid ∧ ∃ k, k < q.size / 65536 ∧ x.2 = q.la + 65536 * k))
    ∧ (s.sweeping n = false → ∃ k, Completes s p g (.gSweepwait d n) (.scoreboard k) (fun _ => .word d (if s.dev.sweepBad.getLsbD n.val then 6 else 0)))
    ∧ (s.sweeping n = true → ∃ h, exec (.gSweepwait d n) s = .next (s.setGroup p.gid h) ∧ h = { g with waits := h.waits } ∧ (h.waitOf p.cur.pc p.cur.place).map (·.kind) = some (.sweep n))

/-- R148 to R151, R405, R408, R417: outside a certified kernel, with the accesses performed for the device and the dirty PRIVATE lines of the core home, a launch whose record can be read whole delivers the status of a failing check, traps WEIGHT_LOW when the team's weight has no share for it, and else enters a free entry of the die as a queued launch with its share of the weight and delivers 0; with no free entry g.trylaunch delivers 1 and g.launch waits. g.replay delivers 4 for a bad header, and accepts a replay without a patch of a good graph with a free buffer. -/
def Obligations.DeviceLaunchResults : Prop :=
  ∀ (s : State) (p : Packet) (g : Group), s.issuing = some (p, g) → g.waitOf p.cur.pc p.cur.place = none → s.certified g = false → s.performed p.gid g .device = true → s.launchIdOf g ≠ s.sched.nextId →
    ∀ (d a b : Reg) (bs : List Byte),
      let u := s.writeBack g.core
      let c := u.ctxOf p.gid g
      let ea := g.readPair s.cycle (g.lowest p.cur.lanes) a
      let replies := fun (i : Instr) (n : Nat) => ∃ t h e, exec i s = .next t ∧ t.group? p.gid = some h ∧ h = { g with lanes := h.lanes, sb := g.sb ++ [e] } ∧ Moved g h p.cur.lanes (succPc p.cur.pc)
        ∧ t = { u with groups := t.groups, sched := { u.sched with nextId := t.sched.nextId } } ∧ e.kind = .ready ∧ e.due = s.cycle + 1 ∧ ∀ i, g.acts p.cur.lanes i → (i, d, BitVec.ofNat 32 n) ∈ e.vals
      (u.recordBytes c false ea 64 64 = .ok bs → ∀ i ∈ [Instr.gLaunch d a, Instr.gTrylaunch d a],
        (∀ n, u.checkRecord c.asid bs = .error n → replies i n)
        ∧ ∀ k, u.checkRecord c.asid bs = .ok k →
            let share := if (recordOf bs).graph then some 0 else splitWeight (u.weightOf g) (recordOf bs).teams
            (share = none → exec i s = .next (u.trapAt p.gid p.cur .weightLow p.cur.lanes 0))
            ∧ ∀ w, share = some w →
                (u.ordinaryEntry (dieOf g.core) = none → (i = .gTrylaunch d a → replies i 1)
                  ∧ (i = .gLaunch d a → g.deferredFor Deferred.atBlocking = none → ∃ h, exec i s = .next (u.setGroup p.gid h) ∧ h = { g with waits := h.waits }
                      ∧ (h.waitOf p.cur.pc p.cur.place).map (·.kind) = some (.launchStore (dieOf g.core) bs)))
                ∧ ∀ e, u.ordinaryEntry (dieOf g.core) = some e →
                    ∃ t h x l, exec i s = .next t ∧ t.group? p.gid = some h ∧ h = { g with lanes := h.lanes, sb := g.sb ++ [x] } ∧ Moved g h p.cur.lanes (succPc p.cur.pc)
                      ∧ x.kind = .ready ∧ (∀ i, g.acts p.cur.lanes i → (i, d, 0) ∈ x.vals)
                      ∧ t.launch? s.sched.nextId = some l ∧ l.record = recordOf bs ∧ l.kern = k ∧ l.asid = s.asidOf g ∧ l.die = dieOf g.core ∧ l.st = .queued ∧ l.entry = some e ∧ l.origin = .device g.team
                      ∧ l.order = s.sched.nextOrder ∧ l.weight = (if (recordOf bs).graph then 2 ^ 62 else w) ∧ l.cause = none
                      ∧ (∀ tm, s.team? g.team = some tm → t.team? g.team = some { tm with weight := tm.weight - w }) ∧ ((recordOf bs).compl = 0 → t.mem = u.mem))
      ∧ (∀ hb, u.recordBytes c false ea 64 64 = .ok hb → headerOk hb = false → replies (.gReplay d a b) 4)
      ∧ ∀ hb ns n w pg, u.recordBytes c false ea 64 64 = .ok hb → headerOk hb = true → u.pageAt c.asid (ea.toNat % 2 ^ 46) = some pg → attrCoh pg.attr = 2 → g.readPair s.cycle (g.lowest p.cur.lanes) b = 0 →
          u.nodesFrom c ea 0 (fieldAt hb 0 2) = .ok (.ok ns) → freeBuffer (u.replaysOf c.asid (ea.toNat % 2 ^ 46)) = some n → splitWeight (u.weightOf g) ns.length = some w →
            ∃ t h x id r, exec (.gReplay d a b) s = .next t ∧ t.group? p.gid = some h ∧ h = { g with lanes := h.lanes, sb := g.sb ++ [x] } ∧ Moved g h p.cur.lanes (succPc p.cur.pc) ∧ (∀ i, g.acts p.cur.lanes i → (i, d, 0) ∈ x.vals)
              ∧ t.sched.replays = s.sched.replays ++ [(id, r)] ∧ r.graph = ea.toNat % 2 ^ 46 ∧ r.asid = s.asidOf g ∧ r.buffer = some n ∧ r.started = false ∧ r.nnode = ns.length ∧ r.weight = w
              ∧ ∀ tm, s.team? g.team = some tm → t.team? g.team = some { tm with weight := tm.weight - w }

/-- R146, R154, R156, R157, R159, R160: outside a certified kernel: an invocation with a good record, a share of weight and a free slot, of a device that can be reached, delivers the new claim by the scoreboard, PENDING at its slot under the next generation, and gives its share away; without a share it traps WEIGHT_LOW (for how many teams the share must do is the model's reading, DEDUCED, log entry 86: those of the launch record that the issuer can read on its own device, and else one), without a slot CLAIM_FULL. g.await and g.hstat of a claim of this device deliver its status word, g.await once it is not PENDING and waiting before; the trapping form of g.await traps CLAIM_BROKEN on a broken or stale claim. g.wsplit takes its amount from the team's weight, g.wgive waits for a grant of its root and then adds 2^32, and both trap WEIGHT_LOW with no weight to act on. -/
def Obligations.InvocationResults : Prop :=
  ∀ (s : State) (p : Packet) (g : Group), s.issuing = some (p, g) → s.certified g = false → ∀ (d a b : Reg),
    let c := g.readPair s.cycle (g.lowest p.cur.lanes) a
    let moved := fun (t : State) => ∃ h, t.group? p.gid = some h ∧ h = { g with lanes := h.lanes } ∧ Moved g h p.cur.lanes (succPc p.cur.pc)
    let waits := fun (i : Instr) (k : WaitKind) => ∃ t h, exec i s = .next t ∧ t.group? p.gid = some h ∧ h = { g with waits := h.waits } ∧ (h.waitOf p.cur.pc p.cur.place).map (·.kind) = some k
    (g.waitOf p.cur.pc p.cur.place = none →
      (∀ (held : Bool) (hb args : List Byte), s.performed p.gid g .domain = true →
        let u := s.writeBack g.core
        let i : Instr := if held then .gInvokeh d a b else .gInvoke d b
        let ea := g.readPair s.cycle (g.lowest p.cur.lanes) b
        let device := if held then claimHome c else fieldAt hb 0 2
        (ea.toNat % 8 ≠ 0 → exec i s = .next (u.trapAt p.gid p.cur .badInvoke p.cur.lanes ea))
        ∧ (ea.toNat % 8 = 0 → u.recordBytes (u.ctxOf p.gid g) true ea 8 32 = .ok hb →
            (invokeOk hb (!held) = false → exec i s = .next (u.trapAt p.gid p.cur .badInvoke p.cur.lanes ea))
            ∧ (invokeOk hb (!held) = true → u.recordBytes (u.ctxOf p.gid g) true (ea + 32) 8 (fieldAt hb 2 2) = .ok args →
                ∀ teams, u.invokedTeams (s.asidOf g) (u.weightOf g) (if held then some c else none) hb = .ok teams →
                let split := splitWeight (u.weightOf g) teams
                (split = none → exec i s = .next (u.trapAt p.gid p.cur .weightLow p.cur.lanes 0))
                ∧ ∀ w, split = some w →
                    (u.freeClaim = none → exec i s = .next (u.trapAt p.gid p.cur .claimFull p.cur.lanes 0))
                    ∧ ∀ n, u.freeClaim = some n → s.unreachable device = false →
                        let x := s.claimAt n
                        let gen := s.fab.incarnation * 2 ^ 24 + (if x.gen % 2 ^ 24 = 2 ^ 24 - 1 then 1 else x.gen % 2 ^ 24 + 1)
                        let claim := BitVec.ofNat 64 (s.fab.devNum * 2 ^ 50 + n * 2 ^ 28 + gen)
                        ∃ t h e, exec i s = .next t ∧ t.group? p.gid = some h ∧ h = { g with lanes := h.lanes, sb := g.sb ++ [e] } ∧ Moved g h p.cur.lanes (succPc p.cur.pc) ∧ (∀ k, k ≠ p.gid → t.group? k = s.group? k)
                          ∧ e.kind = .ready ∧ e.lanes = p.cur.lanes ∧ (∀ i, g.acts p.cur.lanes i → (i, d, loWord claim) ∈ e.vals ∧ (i, d.plus 1, hiWord claim) ∈ e.vals)
                          ∧ (t.claimAt n).st = .pending ∧ (t.claimAt n).gen = gen ∧ (∀ k, k ≠ n → t.claimAt k = s.claimAt k)
                          ∧ ∀ tm, s.team? g.team = some tm → t.team? g.team = some { tm with weight := tm.weight - w })))
      ∧ (claimHome c = s.fab.devNum → g.loadsReturned = true →
          ((s.claimView c).isPending = false → ∃ k, Completes s p g (.gAwait d a) (.scoreboard k) fun _ => .word d (s.claimView c).word)
          ∧ ((s.claimView c).isPending = false → (s.claimView c).word.toNat / 2 ^ 28 ≤ 1 → ∃ k, Completes s p g (.gAwaitT d a) (.scoreboard k) fun _ => .word d (s.claimView c).word)
          ∧ ((s.claimView c).isPending = false → 2 ≤ (s.claimView c).word.toNat / 2 ^ 28 → exec (.gAwaitT d a) s = .next ((s.setGroup p.gid g).trapAt p.gid p.cur .claimBroken p.cur.lanes c))
          ∧ ((s.claimView c).isPending = true → g.deferredFor Deferred.atBlocking = none → waits (.gAwait d a) (.claim c false none) ∧ waits (.gAwaitT d a) (.claim c true none)))
      ∧ (claimHome c = s.fab.devNum → ∃ k, Completes s p g (.gHstat d a) (.scoreboard k) fun _ => .word d (s.claimView c).word)
      ∧ ((s.rootOf g = none ∨ s.weightOf g = 0) → exec .gWgive s = .next (s.trapAt p.gid p.cur .weightLow p.cur.lanes 0))
      ∧ (s.rootOf g ≠ none → s.weightOf g ≠ 0 → g.deferredFor Deferred.atBlocking = none → waits .gWgive (.grant s.openTag)))
    ∧ (∀ w tag x, g.waitOf p.cur.pc p.cur.place = some w → w.kind = .grant tag → g.wordFor tag = some x → x ≠ 0 →
        ∃ t h, exec .gWgive s = .next t ∧ t.group? p.gid = some h ∧ h = { g with lanes := h.lanes, waits := h.waits, answers := h.answers } ∧ h.waitOf p.cur.pc p.cur.place = none ∧ Moved g h p.cur.lanes (succPc p.cur.pc)
          ∧ ∀ tm, s.team? g.team = some tm → t.team? g.team = some { tm with weight := tm.weight + 2 ^ 32 })
    ∧ (let m := c.toNat
       ((s.rootOf g = none ∨ m = 0 ∨ s.weightOf g ≤ m) → exec (.gWsplit a b) s = .next (s.trapAt p.gid p.cur .weightLow p.cur.lanes 0))
       ∧ (s.rootOf g ≠ none → m ≠ 0 → m < s.weightOf g → ∃ t, exec (.gWsplit a b) s = .next t ∧ moved t ∧ ∀ tm, s.team? g.team = some tm → t.team? g.team = some { tm with weight := tm.weight - m }))

/-! ## Words, steps, reset -/

/-- R95 to R114: decode and encode agree. Every well-formed instruction that has a word is read back from the one word the encoder gives it, with every operand; the pseudo-word of add v0, v0, v0 is the one well-formed instruction without one (R100). -/
def Obligations.DecodeEncodeAgree : Prop :=
  ∀ i : Instr, i.wellFormed = true → i.hasWord = true → ∃ w : Word, encode i = [w] ∧ decodeWord w = .ok i

/-- R95 to R114: every instruction that the decoder reads is well-formed, and the word it was read from is the one word of its encoding: no field of a word is ignored. -/
def Obligations.DecodedHasOneWord : Prop :=
  ∀ (w : Word) (i : Instr), decodeWord w = .ok i → i.wellFormed = true ∧ encode i = [w]

/-- Words written out from the spec's encodings, one or more of each class: the worked example of R174, the statement of R183, and one word each of LM, LA and LI; the words that R100 refuses. -/
def Obligations.SampleWords : Prop :=
  decodeWord 0x85940000 = .ok (.gClockO 20) ∧ decodeWord 0xE0500003 = .ok (.gLi 10 3) ∧ decodeWord 0xE4596005 = .ok (.gAddImm 11 11 5)
  ∧ decodeWord 0xC857FFFF = .ok (.gLoop 10 (-1)) ∧ decodeWord 0x80D85940 = .ok (.gSub 24 22 20) ∧ decodeWord 0xF8000B02 = .ok (.gSetroute 1 .bfly 2)
  ∧ decodeWord 0x6C28C380 = .ok (.lop3 5 6 7 .xor3 0) ∧ decodeWord 0x44000000 = .ok (.prefetchL2 0 0) ∧ decodeWord 0x44000200 = .ok (.prefetchL1 0 0)
  ∧ decodeWord 0x00042030 = .ok (.add 4 8 0 12 0) ∧ decodeWord 0x90400000 = .ok (.gStepget 0 0)
  ∧ decodeWord 0 = .error .zeroWord

/-- R28, R87, R89, R94, R100: a step with a packet in issue fetches the instruction's word, decodes it, and runs exec of it, when the word passes the steps of R100, no deferred trap is taken and the packet has not been sent into issue for one (R224); then the next instruction of the packet is the one that acts, the model's tick has advanced, and whether the stores that issue next are performed at once is a free value (DESIGN CHOICE, log entry 109). An instruction that has waited is decoded from the word it was fetched with. -/
def Obligations.StepRunsDecoded : Prop :=
  ∀ (s : State) (p : Packet) (g : Group), s.packet = some p → s.group? p.gid = some g → g.ended = false → ∀ (i : Instr) (t : State),
    (∀ (c w : Word), g.waitOf p.cur.pc p.cur.place = none → s.fetchFor g p.cur.pc = .word c w → c.toNat < 2 ^ 29 → decodeWord w = .ok i →
      let q : Packet := { p with cur := { p.cur with word := w } }
      let u : State := { s with packet := some q }
      u.precheck g q.cur (uses g.width i) = none → g.deferredRead (uses g.width i) = none →
        (∀ e ∈ g.conflicts s.cycle p.cur.lanes (uses g.width i), e.id ∉ g.stalls) → exec i u = .next t →
        step s = .next { t.afterSlot with tick := s.tick + 1, lateStores := Config.lateStores (s.tick + 1) })
    ∧ (g.waitOf p.cur.pc p.cur.place ≠ none → decodeWord p.cur.word = .ok i → exec i s = .next t → step s = .next { t.afterSlot with tick := s.tick + 1, lateStores := Config.lateStores (s.tick + 1) })

/-- R89: when a group is to issue an instruction from a block whose control word has a nonzero bit in [31:29], the step raises ILLEGAL at that instruction, precisely (its lanes restart at it), with the control word as the instruction's word. For a packet of that one instruction and a handler installed: the group is in its handler with the cause ILLEGAL, TRAPINST holds the control word, TRAPMASK the instruction's lanes, each of these lanes restarts at the instruction, and no register has changed. -/
def Obligations.ControlWordTraps : Prop :=
  ∀ (s : State) (p : Packet) (g : Group) (c w : Word), s.packet = some p → s.group? p.gid = some g → g.ended = false → g.waitOf p.cur.pc p.cur.place = none → s.fetchFor g p.cur.pc = .word c w → 2 ^ 29 ≤ c.toNat →
    let q : Packet := { p with cur := { p.cur with word := c } }
    (∃ t, step s = .next t ∧ t = { (({ s with packet := some q } : State).trapAt p.gid q.cur .illegal q.cur.lanes 0).afterSlot with tick := t.tick, lateStores := t.lateStores })
    ∧ ∀ (entry : DWord), p.rest = [] → p.trap = none → g.waits = [] → g.pending = none → g.hnd = false → s.isRecompute g = false → s.trapvec (s.asidOf g) = entry → entry ≠ 0 →
      ∃ t h, step s = .next t ∧ t.packet = none ∧ t.group? p.gid = some h ∧ h.hnd = true ∧ h.defer = false ∧ h.code = Cause.illegal.code ∧ h.trapinst = c ∧ h.trapmask = p.cur.lanes
        ∧ ∀ i, i < g.width → i < 64 → i < g.lanes.length → (g.lane i).live = true →
            (h.lane i).pc = entry ∧ (h.lane i).regs = (g.lane i).regs ∧ (p.cur.lanes.getLsbD i = true → (h.lane i).trappc = p.cur.pc)

/-- R100, R14, R355: a word that names no instruction traps at it: EXT_EMU in an extension window, ILLEGAL otherwise; a register that breaks its shape traps ILLEGAL, one at or above the allocation BUDGET; a PC with a nonzero bit in [56:46] traps PC_RANGE and an unmapped PC, a page with NX and, in a handler, a page without PIN trap PAGE_FAULT. That TRAPINST is 0 in these last two, where no word was fetched, is the model's choice (DEDUCED, log entry 14). -/
def Obligations.StepTraps : Prop :=
  ∀ (s : State) (p : Packet) (g : Group), s.packet = some p → s.group? p.gid = some g → g.ended = false → g.waitOf p.cur.pc p.cur.place = none →
    let traps := fun (w : Word) (c : Cause) (addr : DWord) =>
      let q : Packet := { p with cur := { p.cur with word := w } }
      ∃ t, step s = .next t ∧ t = { (({ s with packet := some q } : State).trapAt p.gid q.cur c q.cur.lanes addr).afterSlot with tick := t.tick, lateStores := t.lateStores }
    (∀ c w e, s.fetchFor g p.cur.pc = .word c w → c.toNat < 2 ^ 29 → decodeWord w = .error e → traps w (if e = .extension then .extEmu else .illegal) 0)
    ∧ (∀ c w i, s.fetchFor g p.cur.pc = .word c w → c.toNat < 2 ^ 29 → decodeWord w = .ok i → (uses g.width i).shapeOk = false → traps w .illegal 0)
    ∧ (∀ c w i r, s.fetchFor g p.cur.pc = .word c w → c.toNat < 2 ^ 29 → decodeWord w = .ok i → (uses g.width i).shapeOk = true → r ∈ (uses g.width i).named → g.alloc ≤ r.val → traps w .budget 0)
    ∧ (p.cur.pc.toNat / 2 ^ 46 % 2 ^ 11 ≠ 0 → traps 0 .pcRange p.cur.pc)
    ∧ (p.cur.pc.toNat / 2 ^ 46 % 2 ^ 11 = 0 →
        (∀ q ∈ s.mem.pages, q.asid = s.asidOf g → q.la ≤ p.cur.pc.toNat % 2 ^ 46 → p.cur.pc.toNat % 2 ^ 46 < q.la + q.size → q.nx = true ∨ (g.hnd = true ∧ q.pin = false)) →
          traps 0 .pageFault p.cur.pc)

/-- R52, R18, R35, R339, and the log entries for what they leave open: right after reset TIMEBASE, the datums and the decay table base are 0, and QEPOCH and QDONE are 0 (R339). That no group, team, gang or launch exists, no packet is in issue and nothing is mapped is the model's choice (DESIGN CHOICE, log entry 3), and so is that every byte of HBM4 reads 0 (DESIGN CHOICE, log entry 2), the memory having its canonical form. -/
def Obligations.ResetState : Prop :=
  let s := State.reset
  s.timebase = 0 ∧ (∀ n : Fin 16, s.dev.datum.get n = 0) ∧ s.dev.decayBase = 0 ∧ s.dev.qepoch = 0 ∧ s.dev.qdone = 0 ∧ s.groups = [] ∧ s.teams = [] ∧ s.gangs = [] ∧ s.launches = []
    ∧ s.packet = none ∧ s.mem.pages = [] ∧ s.cellsOk = true ∧ (∀ a, s.bytesAt none false (.phys a) 1 = [0])

/-- Every step keeps the canonical form of the memory: the cells of HBM4 and of every team's window rise strictly by address and list no byte that an unlisted address reads as (R383, R376). -/
def Obligations.StepKeepsMemory : Prop :=
  ∀ s t : State, s.cellsOk = true → step s = .next t → t.cellsOk = true

/-! ## Traps (R350 to R363) -/

/-- R357, R356: a trap whose cause enters a handler, while no handler runs and TRAPVEC is set: the trap CSRs take the cause, the mask, the address and the word; every live lane saves its restart address, which is the trapping instruction's for the lanes that were active and the lane's own PC for the others; SAVEDEN takes ENMASK; every live lane runs at the entry, which for EXT_EMU is TRAPVEC's block plus 36 (R364); everything else stands. -/
def Obligations.TrapEntersHandler : Prop :=
  ∀ (s : State) (gid : Nat) (g : Group) (r : TrapRec), s.group? gid = some g → g.hnd = false → s.isRecompute g = false → r.cause.entry ≠ .park → s.trapvec (s.asidOf g) ≠ 0 →
    ∃ h, s.takeTrap gid r = s.setGroup gid h
      ∧ h = { g with hnd := true, defer := r.defer, code := r.cause.code, trapmask := r.lanes, trapaddr := r.addr, trapinst := r.word, saveden := g.enmask, enmask := h.enmask, lanes := h.lanes, deferred := g.deferred.filter fun x => r.taken != some x }
      ∧ (∀ i, i < 64 → (h.enmask.getLsbD i = true ↔ i < g.width ∧ (g.lane i).live = true)) ∧ h.lanes.length = g.lanes.length
      ∧ (∀ i, (g.lane i).live = false → h.lane i = g.lane i)
      ∧ ∀ i, i < g.width → i < 64 → (g.lane i).live = true →
          h.lane i = { g.lane i with st := .live, trappc := (if r.active.getLsbD i then r.restart else (g.lane i).pc),
                                     pc := (if r.cause = .extEmu then BitVec.ofNat 64 (((s.trapvec (s.asidOf g)).toNat / 32 * 32 + 36)) else s.trapvec (s.asidOf g)) }

/-- R360, R362, R393: a trap in a handler parks the group for good and asks for its launch to be killed with DOUBLE_TRAP; without an entry, or for a cause that parks, the group keeps its trap state and is parked; in a recompute team the launch is to be killed with the cause. In none of them does a lane's PC move. That a park saves each live lane's restart address and ENMASK as a handler's entry does (R357) is the model's reading (DEDUCED, log entry 34). -/
def Obligations.TrapParksOrKills : Prop :=
  ∀ (s : State) (gid : Nat) (g : Group) (r : TrapRec), s.group? gid = some g →
    ∃ h, (s.takeTrap gid r).group? gid = some h ∧ (∀ k, k ≠ gid → (s.takeTrap gid r).group? k = s.group? k)
      ∧ (g.hnd = true → h = { g with parked := some s.sched.parks, waits := [] }
          ∧ ∀ l, s.launchOf g = some l → l.cause = none → l.st ≠ .complete → l.st ≠ .killed → ((s.takeTrap gid r).launch? (s.launchIdOf g)).map (·.cause) = some (some .doubleTrap))
      ∧ (g.hnd = false → (s.isRecompute g = true ∨ r.cause.entry = .park ∨ s.trapvec (s.asidOf g) = 0) →
          h.parked = some s.sched.parks ∧ h.waits = [] ∧ h.hnd = false ∧ h.enmask = g.enmask ∧ h.code = r.cause.code ∧ h.trapmask = r.lanes ∧ h.trapaddr = r.addr ∧ h.trapinst = r.word
          ∧ h.saveden = g.enmask ∧ h.defer = r.defer ∧ h.lanes.length = g.lanes.length
          ∧ (∀ i, (h.lane i).pc = (g.lane i).pc ∧ (h.lane i).regs = (g.lane i).regs)
          ∧ (∀ i, (g.lane i).live = true → (h.lane i).trappc = if r.active.getLsbD i then r.restart else (g.lane i).pc) ∧ (∀ i, (g.lane i).live = false → h.lane i = g.lane i)
          ∧ (∀ l, s.isRecompute g = true → s.launchOf g = some l → l.cause = none → l.st ≠ .complete → l.st ≠ .killed → ((s.takeTrap gid r).launch? (s.launchIdOf g)).map (·.cause) = some (some r.cause))
          ∧ (s.isRecompute g = false → (s.takeTrap gid r).sched.parks = s.sched.parks + 1))

/-! ## Memory instructions (R215 to R230, R247, R285, R299) -/

/-- R216, R218, R220 to R224: a load, raw or converting, whose lanes all pass their checks on this device, meet no tile that is not VALID and no failing line, and whose group has no access held: every acting lane's registers, from vd on, get what the lane reads at its EA, by one scoreboard entry that is not due in the cycle of issue; the lanes move on, and nothing else changes. In raw form, and for a scratchpad address, the registers are the bytes, extended as the form says. R226: a prefetch changes no register, value or flag: its lanes move on. -/
def Obligations.LoadResults : Prop :=
  (∀ (s : State) (p : Packet) (g : Group), s.issuing = some (p, g) → g.waitOf p.cur.pc p.cur.place = none → g.holds = false →
    ∀ (raw : Bool) (d a : Reg) (f : LoadForm) (off : BitVec 9) (pl : Nat → Place) (ws : Nat → List Word),
      let c := s.ctxOf p.gid g
      (∀ i, p.cur.lanes.getLsbD i = true → i < g.width →
        s.check c (if raw then .raw (loadSize f) else .load f) false (g.readPair s.cycle i a + off.signExtend 64 * BitVec.ofNat 64 (loadSize f)) = .ok (pl i)
          ∧ s.mustWait c (pl i).tile = false ∧ s.readLane c raw f (pl i) = .words (ws i)) →
      (∃ t h e, exec (if raw then .ldRaw d a f off else .ld d a f off) s = .next t ∧ GroupOnly s t p h ∧ Moved g h p.cur.lanes (succPc p.cur.pc) ∧ h = { g with lanes := h.lanes, sb := g.sb ++ [e] }
        ∧ e.kind = .ready ∧ e.lanes = p.cur.lanes ∧ e.regs = (List.range f.count).map d.plus ∧ s.cycle < e.due
        ∧ ∀ i, p.cur.lanes.getLsbD i = true → i < g.width → ∀ k w, (ws i)[k]? = some w → (i, d.plus k, w) ∈ e.vals)
      ∧ ∀ q, s.lineFails c.core q.loc q.n = false → (raw = true ∨ ∃ t o, q.loc = .win t o) →
          s.readLane c raw f q = .words (rawLoad f (s.view c (attrPrivate q.attr) q.loc q.n)))
  ∧ ∀ (s : State) (p : Packet) (g : Group), s.issuing = some (p, g) → ∀ (a : Reg) (off : BitVec 9),
      Completes s p g (.prefetchL2 a off) (.fixed 2) (fun _ => { writes := [] }) ∧ Completes s p g (.prefetchL1 a off) (.fixed 2) (fun _ => { writes := [] })

/-- R216, R218, R220, R223, R225: a store, raw or converting, of a kernel that is not certified, whose lanes all pass their checks on this device and meet no tile that is not VALID, with nothing held or waiting before it. When the stores that issue now are performed at once: the bytes of each acting lane are in memory, where a higher lane has not stored over them; every byte outside the bytes stored reads as before, for every reader, and of teams, porters and checks nothing changes but what the bytes stored meet; the lanes move on, and no register, flag or other state changes. When they are performed later: memory stands, and the store of each acting lane, ascending, with its place and bytes, is last in its core's queue. Which of the two it is is a free value (DESIGN CHOICE, log entry 109); that an encoding store does not flush what it converts is the model's choice (DESIGN CHOICE, log entry 94). -/
def Obligations.StoreResults : Prop :=
  ∀ (s : State) (p : Packet) (g : Group), s.issuing = some (p, g) → g.waitOf p.cur.pc p.cur.place = none → g.holds = false → s.certified g = false →
    ∀ (raw : Bool) (d a : Reg) (f : StoreForm) (off : BitVec 9) (pl : Nat → Place),
      let c := s.ctxOf p.gid g
      let sh : Shape := if raw then .raw (storeSize f) else .store f
      let ins : Instr := if raw then .stRaw d a f off else .st d a f off
      let bytes := fun i => storeBytes sh (pl i) ((List.range f.count).map fun k => g.read s.cycle i (d.plus k))
      let acting := fun i => p.cur.lanes.getLsbD i = true ∧ i < g.width
      let moves := fun (t : State) => ∃ h, t.group? p.gid = some h ∧ h = { g with lanes := h.lanes } ∧ Moved g h p.cur.lanes (succPc p.cur.pc) ∧ ∀ k, k ≠ p.gid → t.group? k = s.group? k
      (∀ i, acting i → s.check c sh true (g.readPair s.cycle i a + off.signExtend 64 * BitVec.ofNat 64 (storeSize f)) = .ok (pl i) ∧ s.mustWait c (pl i).tile = false) →
      (s.lateStores = false → s.queueOf g.core = [] → s.cellsOk = true → s.dev.changes = [] →
        ∃ t, exec ins s = .next t ∧ moves t
          ∧ t = { s with groups := t.groups, teams := t.teams, porters := t.porters, mem := { s.mem with hbm := t.mem.hbm, l1dirty := t.mem.l1dirty, checks := t.mem.checks, badWords := t.mem.badWords, l1bad := t.mem.l1bad }, sched := { s.sched with nextId := t.sched.nextId } }
          ∧ (∀ i k, acting i → k < (bytes i).length → (∀ j, acting j → i < j → ¬ ((pl j).loc.holds (bytes j).length ((pl i).loc.plus k))) →
              t.bytesAt (some g.core) (attrPrivate (pl i).attr && stagedPlace (pl i).loc) ((pl i).loc.plus k) 1 = [(bytes i).getD k 0])
          ∧ StoresOnly s t fun x n => ∃ i, acting i ∧ x = (pl i).loc ∧ n = (bytes i).length)
      ∧ (s.lateStores = true →
        ∃ t sts, exec ins s = .next t ∧ moves t ∧ t = { s with groups := t.groups, mem := { s.mem with storeQ := s.mem.storeQ ++ sts }, sched := { s.sched with nextId := t.sched.nextId } }
          ∧ sts.map (fun x => (x.lane, x.loc, x.bytes)) = (g.list p.cur.lanes).map (fun i => (i, (pl i).loc, bytes i)) ∧ ∀ x ∈ sts, x.core = g.core ∧ x.gid = p.gid ∧ x.epoch = s.dev.qepoch)

/-- R227, R228: what each atomic operation leaves in memory from the value m before and the lane's registers, and what it returns: the value before. The integer forms work modulo 2^32 or 2^64, signed or unsigned as they say; the float forms add, or take the smaller or larger, in FP32 and FP64, and in the FP16 or BF16 of each half, rounding to nearest even without flushing, and raise no flag. -/
def Obligations.AtomicValues : Prop :=
  ∀ (m : DWord) (a b c e : Word),
    let x := loWord m
    let lo := fun (op : AtomOp) => loWord (atomResult op m [a, b, c, e])
    lo .add = BitVec.ofNat 32 (x.toNat + a.toNat) ∧ lo .and = x &&& a ∧ lo .or = x ||| a ∧ lo .xor = x ^^^ a
    ∧ lo .min = BitVec.ofInt 32 (min x.toInt a.toInt) ∧ lo .max = BitVec.ofInt 32 (max x.toInt a.toInt)
    ∧ lo .minu = BitVec.ofNat 32 (min x.toNat a.toNat) ∧ lo .maxu = BitVec.ofNat 32 (max x.toNat a.toNat)
    ∧ lo .exch = a ∧ lo .cas = (if x = a then b else x)
    ∧ atomResult .add64 m [a, b, c, e] = BitVec.ofNat 64 (m.toNat + (joinWords a b).toNat) ∧ atomResult .exch64 m [a, b, c, e] = joinWords a b
    ∧ (let near : RMode := { mode := .nearestEven, ftz := false, sat := false }
       let sum := fun (f : FFmt) (x y : Nat) => (f.add near (some (f.value x)) (some (f.value y))).bits
       let halves := fun (f : FFmt) => BitVec.ofNat 32 (sum f (x.toNat % 2 ^ 16) (a.toNat % 2 ^ 16) + 2 ^ 16 * sum f (x.toNat / 2 ^ 16) (a.toNat / 2 ^ 16))
       lo .fadd = BitVec.ofNat 32 (sum .fp32 x.toNat a.toNat) ∧ lo .fmin = BitVec.ofNat 32 (FFmt.fp32.minMax false false x.toNat a.toNat).bits ∧ lo .fmax = BitVec.ofNat 32 (FFmt.fp32.minMax false true x.toNat a.toNat).bits
       ∧ atomResult .dadd m [a, b, c, e] = BitVec.ofNat 64 (sum .fp64 m.toNat (joinWords a b).toNat) ∧ lo .hadd2 = halves .fp16 ∧ lo .badd2 = halves .bf16)
    ∧ atomResult .cas64 m [a, b, c, e] = (if m = joinWords a b then joinWords c e else m)
    ∧ (∀ op, atomSize op = 4 → atomReturn op m = [x]) ∧ (∀ op, atomSize op = 8 → atomReturn op m = [loWord m, hiWord m])

/-- R227 to R230: an atomic, ordered or unordered, of a kernel that is not certified, with one acting lane whose word passes its checks on this device in a VALID tile and a good line, and nothing held or waiting before it: the word in memory becomes the operation's result, the lane's registers get the value before by the scoreboard, every other byte reads as before, of teams, porters and checks nothing changes but what the word meets, and the lanes move on. -/
def Obligations.AtomicResults : Prop :=
  ∀ (s : State) (p : Packet) (g : Group), s.issuing = some (p, g) → g.waitOf p.cur.pc p.cur.place = none → s.certified g = false → s.atomsWait p.gid g = false → s.cellsOk = true → s.dev.changes = [] →
    ∀ (i : Nat), g.list p.cur.lanes = [i] → ∀ (d a : Reg) (off : BitVec 9) (pl : Place),
      let c := s.ctxOf p.gid g
      let done := fun (ins : Instr) (op : AtomOp) =>
        let n := atomSize op
        s.check c (.raw n) true (g.readPair s.cycle i a + off.signExtend 64 * BitVec.ofNat 64 n) = .ok pl → s.mustWait c pl.tile = false → s.lineFails c.core pl.loc n = false →
          let priv := attrPrivate pl.attr && stagedPlace pl.loc
          let m : DWord := BitVec.ofNat 64 (natOfBytes (s.bytesAt (some g.core) priv pl.loc n))
          let args := (List.range (atomArgs op)).map fun k => g.read s.cycle i (d.plus k)
          ∃ t h e, exec ins s = .next t ∧ t.group? p.gid = some h ∧ h = { g with lanes := h.lanes, sb := g.sb ++ [e] } ∧ Moved g h p.cur.lanes (succPc p.cur.pc) ∧ (∀ k, k ≠ p.gid → t.group? k = s.group? k)
            ∧ t = { s with groups := t.groups, teams := t.teams, porters := t.porters, mem := { s.mem with hbm := t.mem.hbm, l1dirty := t.mem.l1dirty, checks := t.mem.checks, badWords := t.mem.badWords, l1bad := t.mem.l1bad }, sched := { s.sched with nextId := t.sched.nextId } }
            ∧ StoresOnly s t (fun x k => x = pl.loc ∧ k = n) ∧ e.kind = .ready ∧ s.cycle < e.due ∧ (∀ k w, (atomReturn op m)[k]? = some w → (i, d.plus k, w) ∈ e.vals)
            ∧ t.bytesAt (some g.core) priv pl.loc n = bytesOfNat n (atomResult op m args).toNat
      done (.atomOAdd d a off) .add ∧ done (.atomOAnd d a off) .and ∧ done (.atomOOr d a off) .or ∧ done (.atomOXor d a off) .xor ∧ done (.atomOMin d a off) .min ∧ done (.atomOMax d a off) .max
      ∧ done (.atomOMinu d a off) .minu ∧ done (.atomOMaxu d a off) .maxu ∧ done (.atomOExch d a off) .exch ∧ done (.atomOCas d a off) .cas ∧ done (.atomOAdd64 d a off) .add64
      ∧ done (.atomOExch64 d a off) .exch64 ∧ done (.atomOCas64 d a off) .cas64 ∧ done (.fatomOFadd d a off) .fadd ∧ done (.fatomOFmin d a off) .fmin ∧ done (.fatomOFmax d a off) .fmax
      ∧ done (.fatomODadd d a off) .dadd ∧ done (.fatomOHadd2 d a off) .hadd2 ∧ done (.fatomOBadd2 d a off) .badd2
      ∧ done (.atomUAdd d a off) .add ∧ done (.atomUAnd d a off) .and ∧ done (.atomUOr d a off) .or ∧ done (.atomUXor d a off) .xor ∧ done (.atomUMin d a off) .min ∧ done (.atomUMax d a off) .max
      ∧ done (.atomUMinu d a off) .minu ∧ done (.atomUMaxu d a off) .maxu ∧ done (.atomUExch d a off) .exch ∧ done (.atomUCas d a off) .cas ∧ done (.atomUAdd64 d a off) .add64
      ∧ done (.atomUExch64 d a off) .exch64 ∧ done (.atomUCas64 d a off) .cas64 ∧ done (.fatomUFadd d a off) .fadd ∧ done (.fatomUFmin d a off) .fmin ∧ done (.fatomUFmax d a off) .fmax
      ∧ done (.fatomUDadd d a off) .dadd ∧ done (.fatomUHadd2 d a off) .hadd2 ∧ done (.fatomUBadd2 d a off) .badd2

/-- R216, R217, R218: the address checks. An EA of an unassigned code, an aperture EA with a bit in [59:32] and a device-local code with a device number trap ADDR_RANGE; a scratchpad EA that is not aligned MISALIGNED, one outside the windows WINDOW_RANGE, a store over a tagged word BARRIER_CLOBBER; a local EA without a translation PAGE_FAULT, and a store to a READSHARED page WRITE_SHARED. A load with such a lane traps that cause, names every lane that has it, gives the EA of the lowest, and writes nothing. -/
def Obligations.AccessTraps : Prop :=
  ∀ (s : State) (p : Packet) (g : Group), s.issuing = some (p, g) → g.waitOf p.cur.pc p.cur.place = none →
    ∀ (d a : Reg) (f : LoadForm) (off : BitVec 9),
      let c := s.ctxOf p.gid g
      let ea := fun i => g.readPair s.cycle i a + off.signExtend 64 * BitVec.ofNat 64 (loadSize f)
      let acting := fun i => p.cur.lanes.getLsbD i = true ∧ i < g.width
      (∀ (sh : Shape) (w : Bool) (x : DWord), (x.toNat / 2 ^ 60 ∉ [0, 1, 15] ∨ (x.toNat / 2 ^ 60 = 1 ∧ x.toNat / 2 ^ 46 % 2 ^ 14 ≠ 0) ∨ (x.toNat / 2 ^ 60 = 15 ∧ x.toNat / 2 ^ 32 % 2 ^ 28 ≠ 0)) → s.check c sh w x = .bad .addrRange)
      ∧ (∀ (n : Nat) (w : Bool) (x : Nat), x < 2 ^ 32 → x % n ≠ 0 → s.check c (.raw n) w (BitVec.ofNat 64 (15 * 2 ^ 60 + x)) = .bad .misalignedData)
      ∧ (∀ (n : Nat) (w : Bool) (x : Nat), x < 2 ^ 32 → x % n = 0 → s.windowOf (some g.team) x n = none → s.check c (.raw n) w (BitVec.ofNat 64 (15 * 2 ^ 60 + x)) = .bad .windowRange)
      ∧ (∀ (n : Nat) (x t o : Nat), x < 2 ^ 32 → x % n = 0 → s.windowOf (some g.team) x n = some (t, o) → s.coversTag t o n = true → s.check c (.raw n) true (BitVec.ofNat 64 (15 * 2 ^ 60 + x)) = .bad .barrierClobber)
      ∧ (∀ (n : Nat) (w : Bool) (x : Nat), x < 2 ^ 46 → x % n = 0 → s.pageUnder c.tag c.asid x = none → s.check c (.raw n) w (BitVec.ofNat 64 (2 ^ 60 + x)) = .bad .pageFault)
      ∧ (∀ (n : Nat) (x : Nat) (q : Page), x < 2 ^ 46 → x % n = 0 → s.pageUnder c.tag c.asid x = some q → s.firstUnmapped c.tag c.asid x n = none → g.hnd = false → attrCoh q.attr = 1 →
          s.check c (.raw n) true (BitVec.ofNat 64 (2 ^ 60 + x)) = .bad .writeShared)
      ∧ ∀ (raw : Bool) (cause : Cause) (k : Nat), acting k → k < 64 →
          let bad := fun i => s.check c (if raw then .raw (loadSize f) else .load f) false (ea i) = .bad cause
          bad k → (∀ i, acting i → bad i ∨ ∃ q, s.check c (if raw then .raw (loadSize f) else .load f) false (ea i) = .ok q) →
            ∃ m low, exec (if raw then .ldRaw d a f off else .ld d a f off) s = .next (s.trapAt p.gid p.cur cause m (ea low)) ∧ acting low ∧ bad low
              ∧ (∀ i, i < 64 → (m.getLsbD i = true ↔ acting i ∧ bad i)) ∧ ∀ i, acting i → bad i → low ≤ i

/-! ## Copies, buffers, queues, buckets, barriers, recipes (R231 to R257) -/

/-- R231: a cp.async whose both ends pass their checks on this device in every acting lane adds one copy for each acting lane, ascending, to the open batch: its source, its destination and its size; memory, registers and flags stand, and the lanes move on. R38, R234, R236: a gather or multicast with good descriptors in every acting lane and a token that is not BUSY makes the token BUSY with one operation for each acting lane and puts their copies in flight; memory and registers stand, and the lanes move on. With a BUSY token it traps TOKEN_BUSY and starts nothing. -/
def Obligations.CopyInstructions : Prop :=
  (∀ (s : State) (p : Packet) (g : Group), s.issuing = some (p, g) → g.waitOf p.cur.pc p.cur.place = none → ∀ (inward : Bool) (d a : Reg) (z : CopySize) (off : BitVec 9),
      let c := s.ctxOf p.gid g
      let n := copyBytes z
      let ea := fun i => g.readPair s.cycle i a + off.signExtend 64 * BitVec.ofNat 64 n
      let sea : Nat → DWord := fun i => BitVec.ofNat 64 (15 * 2 ^ 60 + (g.read s.cycle i d).toNat)
      (∀ i, p.cur.lanes.getLsbD i = true → i < g.width → (∃ q, s.check c (.raw n) (!inward) (ea i) = .ok q) ∧ ∃ q, s.check c (.raw n) inward (sea i) = .ok q) →
        ∃ t h cs, exec (if inward then .cpAsyncIn d a z off else .cpAsyncOut d a z off) s = .next t ∧ t.group? p.gid = some h ∧ h = { g with lanes := h.lanes } ∧ Moved g h p.cur.lanes (succPc p.cur.pc)
          ∧ (∀ k, k ≠ p.gid → t.group? k = s.group? k) ∧ t = { s with groups := t.groups, eng := { s.eng with copies := s.eng.copies ++ cs }, sched := { s.sched with nextId := t.sched.nextId } }
          ∧ cs.map (fun x => (x.2.lane, x.2.src, x.2.dsts, x.2.len)) = (g.list p.cur.lanes).map (fun i => (i, (if inward then ea i else sea i), [if inward then sea i else ea i], n))
          ∧ ∀ x ∈ cs, x.2.kind = .batch none ∧ x.2.gid = p.gid ∧ x.2.token = none)
  ∧ (∀ (s : State) (p : Packet) (g : Group), s.issuing = some (p, g) → ∀ (d a : Reg) (k : Token) (b : Nat → List Byte),
      let c := s.ctxOf p.gid g
      let ea := fun i => g.readPair s.cycle i a
      let acting := fun i => p.cur.lanes.getLsbD i = true ∧ i < g.width
      let starts := fun (ins : Instr) (kind : Nat → CopyKind) (src : Nat → DWord) (dsts : Nat → List DWord) (len : Nat → Nat) =>
        ((g.token k).st = .busy → exec ins s = .next (s.trapAt p.gid p.cur .tokenBusy p.cur.lanes 0))
        ∧ ((g.token k).st ≠ .busy → ∃ t h cs, exec ins s = .next t ∧ t.group? p.gid = some h ∧ Moved g h p.cur.lanes (succPc p.cur.pc)
            ∧ h = { g with lanes := h.lanes, tokens := g.tokens.set k { st := .busy, left := (g.list p.cur.lanes).length, bad := false } }
            ∧ (∀ j, j ≠ p.gid → t.group? j = s.group? j) ∧ t = { s with groups := t.groups, eng := { s.eng with copies := s.eng.copies ++ cs }, sched := { s.sched with nextId := t.sched.nextId } }
            ∧ cs.map (fun x => (x.2.lane, x.2.kind, x.2.src, x.2.dsts, x.2.len)) = (g.list p.cur.lanes).map (fun i => (i, kind i, src i, dsts i, len i))
            ∧ ∀ x ∈ cs, x.2.token = some k ∧ x.2.gid = p.gid)
      let mcast := fun (ins : Instr) (ordered : Bool) =>
        (∀ i, acting i → ∃ h, s.descriptor c (ea i) 8 0x18 = .ok h ∧ s.descriptor c (ea i) 8 (0x18 + 8 * fieldAt h 0xC 1) = .ok (b i) ∧ fieldAt (b i) 0xC 1 = fieldAt h 0xC 1 ∧ mcastOk (b i) (g.read s.cycle i d) = true) →
          starts ins (fun i => .mcast ordered (g.read s.cycle i d)) (fun i => BitVec.ofNat 64 (fieldAt (b i) 0 8))
            (fun i => (List.range (fieldAt (b i) 0xC 1)).map fun j => BitVec.ofNat 64 (fieldAt (b i) (0x18 + 8 * j) 8)) (fun i => fieldAt (b i) 8 4)
      ((∀ i, acting i → s.descriptor c (ea i) 32 32 = .ok (b i) ∧ rowsOk (b i) = true) →
        starts (.cpRows d a k) (fun i => .rows (g.read s.cycle i d)) (fun i => BitVec.ofNat 64 (fieldAt (b i) 0 8)) (fun i => [scratchEa (fieldAt (b i) 0x10 4)]) (fun i => fieldAt (b i) 0xC 2))
      ∧ mcast (.cpMcastO d a k) true ∧ mcast (.cpMcastU d a k) false)

/-- R232, R235, R237: a copy whose turn has come and whose ends are on this device, in VALID tiles and good lines, completes. The bytes read at the source of a cp.async are in memory at its destination (its checks were made at its issue), and it is in flight no more; a gather, and a multicast, leaves too and ends its operation on its token, the multicast without a fault exactly when every destination that its mask names passed its checks and its result word is not a tagged word. A gather whose rows all are read and written here, in ascending order, leaves each row packed in memory and their number in COUNT, and does not fault; COUNT of any gather is the number of rows written, with bit 31 when one faulted. That a result word which is a tagged word stands, and the operation has faulted, is the model's choice (DEDUCED, log entry 42). -/
def Obligations.CopyCompletions : Prop :=
  ∀ (s : State) (id : Nat) (x : Copy), s.copy? id = some x → s.copyTurn id x = true → x.awaiting = [] → x.failed = none → x.phase = 0 → ((s.launch? x.launch).map (·.kern.ordered)).getD false = false →
    let c := s.copyCtx x
    (∀ n sp dp bs, x.kind = .batch n → s.range c false x.src x.len = .here sp → s.readRange c sp = .bytes bs → s.range c false (x.dsts.headD 0) x.len = .here dp → s.waitTile c dp = none →
      ∃ t, exec (.copyComplete id) s = .next t ∧ t.copy? id = none ∧ t.mem = (s.writePlaces c dp bs).mem ∧ t.teams = (s.writePlaces c dp bs).teams)
    ∧ (∀ mask k g, x.kind = .rows mask → x.token = some k → s.group? x.gid = some g → g.ended = false → (∀ r ∈ x.sources mask, ∀ dev la, s.target r ≠ some (.remote dev la)) → s.gatherWait x c (x.sources mask) = none →
      let counted := fun (t : State) (n : Nat) (bad : Bool) => ∀ w o, s.windowOf (some x.team) (x.desc.toNat % 2 ^ 32) 32 = some (w, o) → (s.team? w).isSome = true → s.cellsOk = true → s.coversTag w (o + 0x18) 4 = false →
        (t.winWord w (o + 0x18)).toNat = n + (if bad then 2 ^ 31 else 0)
      (∃ t h n bad, exec (.rowGatherComplete id) s = .next t ∧ t.copy? id = none ∧ t.group? x.gid = some h ∧ h = g.setToken k ((g.token k).ended bad) ∧ n ≤ (x.sources mask).length
        ∧ ((∀ w o, s.windowOf (some x.team) (x.desc.toNat % 2 ^ 32) 32 = some (w, o) → s.coversTag w (o + 0x18) 4 = false) → (bad = true ↔ n < (x.sources mask).length) ∧ counted t n bad))
      ∧ ∀ (u : Nat → State) (sp dp : Nat → List Place) (bs : Nat → List Byte), u 0 = s →
          (∀ m src, (x.sources mask)[m]? = some src → (u m).range c false src x.len = .here (sp m) ∧ (u m).readRange c (sp m) = .bytes (bs m)
            ∧ (u m).range c true (x.dsts.headD 0 + BitVec.ofNat 64 (x.dpitch * m)) x.len = .here (dp m) ∧ u (m + 1) = (u m).writePlaces c (dp m) (bs m)) →
          ∀ w o, s.resident g = true → s.windowOf (some x.team) (x.desc.toNat % 2 ^ 32) 32 = some (w, o) → s.coversTag w (o + 0x18) 4 = false →
            ∃ t h, exec (.rowGatherComplete id) s = .next t ∧ t.group? x.gid = some h ∧ h = g.setToken k ((g.token k).ended false) ∧ counted t (x.sources mask).length false
              ∧ ∀ core q l, ¬ (Loc.win w (o + 0x18)).holds 4 l → t.bytesAt core q l 1 = (u (x.sources mask).length).bytesAt core q l 1)
    ∧ (∀ ordered mask k g sp bs, x.kind = .mcast ordered mask → x.token = some k → s.group? x.gid = some g → g.ended = false → s.mcastAsks x mask = [] → s.range c false x.src x.len = .here sp →
        s.readRange c sp = .bytes bs → (∀ j ps, s.range c true (x.dsts.getD j 0) x.len = .here ps → s.waitTile c ps = none) → (∀ j dev la, s.range c true (x.dsts.getD j 0) x.len ≠ .remote dev la) →
      ∃ t h bad, exec (.multicastComplete id) s = .next t ∧ t.copy? id = none ∧ t.group? x.gid = some h ∧ h = g.setToken k ((g.token k).ended bad)
        ∧ (bad = false ↔ (∀ w o, s.windowOf (some x.team) (x.desc.toNat % 2 ^ 32) 32 = some (w, o) → s.coversTag w (o + 0x10) 4 = false) ∧ ∀ j ∈ bitsOf mask, ∃ ps, s.range c true (x.dsts.getD j 0) x.len = .here ps))

/-- R239 to R241: with no store of the group waiting (DEDUCED, log entry 90), nothing of it staged, no tagged word in the counters and none with an uncorrectable error, and no put of a certified kernel outstanding at the buffer (DEDUCED, log entry 103), a cbuf.put of n slots by one lane raises the counter of the other end by n, leaves the counter of its own end, and delivers the new count, and traps CBUF_RANGE where the two counts would pass NSLOT; a cbuf.get for which n slots are counted and which is first in arrival order takes them from the counter of its end, delivers the slot at the end's position and moves the position by n modulo NSLOT, and waits otherwise; the same when a get that has waited is granted. -/
def Obligations.BufferResults : Prop :=
  ∀ (s : State) (p : Packet) (g : Group), s.cellsOk = true →
    ∀ (d a : Reg) (n : BitVec 9) (i : Nat) (e : CbufEnd),
      let c := s.ctxOf p.gid g
      let slots := s.nslot e
      let own := s.cbField e e.count
      let others := s.cbField e e.other
      let pos := s.cbField e (e.count + 2)
      (s.cbTagged e = false → s.cbFails e = false → s.issuing = some (p, g) → g.waitOf p.cur.pc p.cur.place = none → s.certified g = false → (∀ x ∈ s.mem.storeQ, x.gid ≠ p.gid) → (∀ x ∈ s.eng.staged, x.gid ≠ p.gid) →
        (∀ x ∈ s.eng.lates, ∀ r m ends, x.act = .put r m ends → ∀ y ∈ ends, y.2.1 ≠ e.team) → g.list p.cur.lanes = [i] → s.cbufAt c (g.readPair s.cycle i a) = .ok e → 1 ≤ slots → slots ≤ 4096 → n.toNat ≤ slots →
        (s.performed p.gid g .cluster = true → others + n.toNat + own ≤ slots →
          ∃ t h x, exec (.cbufPut d a n) s = .next t ∧ t.group? p.gid = some h ∧ h = { g with lanes := h.lanes, sb := g.sb ++ [x] } ∧ Moved g h p.cur.lanes (succPc p.cur.pc)
            ∧ t.cbField e e.other = others + n.toNat ∧ t.cbField e e.count = own ∧ (i, d, BitVec.ofNat 32 (others + n.toNat)) ∈ x.vals)
        ∧ (s.performed p.gid g .cluster = true → slots < others + n.toNat + own →
          ∃ (m : LaneMask) (addr : DWord), (∀ j, j < 64 → (m.getLsbD j = true ↔ j = i)) ∧ exec (.cbufPut d a n) s = .next (s.trapAt p.gid p.cur .cbufRange m addr))
        ∧ (g.loadsReturned = true → s.cbReady e (p.gid, 0) n.toNat = false →
          ∃ t h, exec (.cbufGet d a n) s = .next t ∧ t.group? p.gid = some h ∧ h = { g with waits := h.waits } ∧ (h.waitOf p.cur.pc p.cur.place).map (·.kind) = some (.cbuf 0 [i]) ∧ t.mem = s.mem ∧ t.teams = s.teams)
        ∧ (g.loadsReturned = true → s.cbReady e (p.gid, 0) n.toNat = true → own ≤ slots → pos < slots →
          ∃ t h x, exec (.cbufGet d a n) s = .next t ∧ t.group? p.gid = some h ∧ h = { g with lanes := h.lanes, sb := g.sb ++ [x] } ∧ Moved g h p.cur.lanes (succPc p.cur.pc)
            ∧ t.cbField e e.count = own - n.toNat ∧ t.cbField e e.other = others ∧ t.cbField e (e.count + 2) = (pos + n.toNat) % slots ∧ (i, d, BitVec.ofNat 32 pos) ∈ x.vals))
      ∧ ∀ (gid : Nat) (w : Wait) (lanes : List Nat), s.cbTagged e = false → s.cbFails e = false → s.group? gid = some g → s.resident g = true → g.cbufWait = some (w, lanes) → s.waitingGets gid g w lanes = [(i, e)] → s.cbReady e (gid, 0) (lmF w.slot.word) = true → 1 ≤ slots → slots ≤ 4096 → own ≤ slots → pos < slots →
          ∃ t h, exec (.cbufGetGrant gid) s = .next t ∧ t.group? gid = some h ∧ h.waitOf w.slot.pc w.slot.place = none ∧ t.cbField e e.count = own - lmF w.slot.word ∧ t.cbField e (e.count + 2) = (pos + lmF w.slot.word) % slots

/-- R243 to R245: with no store of the group waiting (DEDUCED, log entry 90), a push whose queues pass their checks, once the dirty bytes that its core holds of them are home, and have room moves its lanes on, a qpush.o counting one more push of its group on each queue it names; with no room, or a tile that is not VALID, it waits. A push on one queue of HBM4, while no round is under way, raises RESV by the lanes that name it; a qpush.u leaves their values in the ring from COMMIT on, ascending by lane, and raises COMMIT by their number; a qpush.o holds them until the other groups of its team have reached the round; every other byte stands. A pop whose claims are all committed once they are made, in lines that are good, delivers an entry to each lane it names by the scoreboard, and waits otherwise. A waiting push reserves once there is room, a waiting pop receives its entries once they are committed. -/
def Obligations.QueueResults : Prop :=
  ∀ (s : State) (p : Packet) (g : Group) (d a : Reg) (ls : List (Nat × Queue)),
    let c := s.ctxOf p.gid g
    let u := s.flushQueues c ls
    (s.issuing = some (p, g) → g.waitOf p.cur.pc p.cur.place = none → s.certified g = false → (∀ x ∈ s.mem.storeQ, x.gid ≠ p.gid) → g.deferredFor Deferred.atBlocking = none →
      (∀ ordered : Bool, s.queueLanes c true g p.cur.lanes a = .ok ls → worst (overCap ls) = none →
        let ins : Instr := if ordered then .qpushO d a else .qpushU d a
        (u.queueTile c ls = none → u.pushRoom c ls = true → ∃ t h, exec ins s = .next t ∧ t.group? p.gid = some h ∧ h = { g with lanes := h.lanes, qcounts := h.qcounts } ∧ Moved g h p.cur.lanes (succPc p.cur.pc)
          ∧ (∀ q, (h.counts q).pushes = (g.counts q).pushes + (if ordered = true ∧ q ∈ (queuesOf ls).map (·.ref) then 1 else 0))
          ∧ ∀ (q : Queue) (pa : Nat) (tm : Team), queuesOf ls = [q] → q.place.loc = .phys pa → attrPrivate q.place.attr = false → s.teamOf g = some tm → s.cellsOk = true → s.dev.changes = [] → s.eng.pushes = [] → (∀ x ∈ s.teams, x.2.pops = []) → (∀ x ∈ s.eng.staged, x.gid ≠ p.gid) →
              let v := u.flushQueue c q
              let lanes := lanesNaming ls q.ref
              let field := fun (y : State) (off n : Nat) => fieldAt (y.bytesAt none false (.phys pa) 64) off n
              let keeps := fun (written : Nat → Prop) => ∀ b, ¬ written b → t.bytesAt none false (.phys b) 1 = v.bytesAt none false (.phys b) 1
              field t 0x14 4 = (field v 0x14 4 + lanes.length) % 2 ^ 32
              ∧ (ordered = false → ∀ (pe : Nat → Nat) (pl : Nat → Place), 0 < field v 8 4 →
                  (∀ j, j < lanes.length → (pl j).loc = .phys (pe j) ∧ v.checkBytes c false (BitVec.ofNat 64 (field v 0 8) + BitVec.ofNat 64 (4 * ((field v 0x18 4 + j) % field v 8 4))) 4 = .ok (pl j)
                    ∧ (pe j + 4 ≤ pa ∨ pa + 64 ≤ pe j) ∧ ∀ k, k < j → pe k + 4 ≤ pe j ∨ pe j + 4 ≤ pe k) →
                  field t 0x18 4 = (field v 0x18 4 + lanes.length) % 2 ^ 32
                  ∧ (∀ j i, lanes[j]? = some i → t.bytesAt none false (.phys (pe j)) 4 = bytesOfNat 4 (g.read s.cycle i d).toNat)
                  ∧ keeps fun b => (pa + 0x14 ≤ b ∧ b < pa + 0x1C) ∨ ∃ j, j < lanes.length ∧ pe j ≤ b ∧ b < pe j + 4)
              ∧ (ordered = true → (∃ x ∈ s.groupsOf tm, x.1 ≠ p.gid ∧ x.2.reached q.ref (tm.committed q.ref) true = false) →
                  t.eng.pushes = [{ team := g.team, group := g.index, queue := q.ref, round := (g.counts q.ref).pushes, vals := lanes.map fun i => g.read s.cycle i d, epoch := c.tag }]
                  ∧ keeps fun b => pa + 0x14 ≤ b ∧ b < pa + 0x18))
        ∧ (u.pushRoom c ls = false ∨ u.queueTile c ls ≠ none → ∃ t h, exec ins s = .next t ∧ t.group? p.gid = some h ∧ h = { g with waits := h.waits } ∧ (h.waitOf p.cur.pc p.cur.place).map (·.kind) = some (.queuePush c.tag)))
      ∧ (s.queueLanes c false g p.cur.lanes a = .ok ls → worst (overCap ls ++ u.foreign c (((s.teamOf g).map (·.btag)).getD 0) ls) = none →
        let v := u.popClaims p.gid c ls
        ((v.popsOf g).all (v.popReady c) = true → (∀ q ∈ v.popsOf g, (v.claimValues c q).2 = []) → ∃ t h x, exec (.qpop d a) s = .next t ∧ t.group? p.gid = some h ∧ h = { g with lanes := h.lanes, qcounts := h.qcounts, sb := g.sb ++ [x] } ∧ Moved g h p.cur.lanes (succPc p.cur.pc)
          ∧ x.regs = [d] ∧ ∀ q ∈ v.popsOf g, ∀ e ∈ (v.claimValues c q).1, (e.1, d, e.2) ∈ x.vals)
        ∧ ((v.popsOf g).all (v.popReady c) = false → ∃ t h, exec (.qpop d a) s = .next t ∧ t.group? p.gid = some h ∧ h = { g with qcounts := h.qcounts, waits := h.waits } ∧ (h.waitOf p.cur.pc p.cur.place).map (·.kind) = some (.queuePop c.tag))))
    ∧ (∀ (gid : Nat) (w : Wait) (k : Ctx), s.group? gid = some g → s.pushWait gid g = some (w, k) → s.queueTurn gid g w k = .go ls → s.queueTile k ls = none → s.pushRoom k ls = true →
        ∃ t h, exec (.queuePushReserve gid) s = .next t ∧ t.group? gid = some h ∧ h.waits = (g.leaveWait w.slot).waits ∧ Moved g h w.slot.lanes (succPc w.slot.pc))
    ∧ ∀ (gid : Nat) (w : Wait) (k : Ctx), s.group? gid = some g → s.popWait gid g = some (w, k) → s.queueTurn gid g w k = .go ls →
        let v := s.popClaims gid k ls
        (v.popsOf g).all (v.popReady k) = true → (∀ q ∈ v.popsOf g, (v.claimValues k q).2 = []) →
          ∃ t h x, exec (.queuePopDeliver gid) s = .next t ∧ t.group? gid = some h ∧ h.waits = (g.leaveWait w.slot).waits ∧ Moved g h w.slot.lanes (succPc w.slot.pc) ∧ h.sb = g.sb ++ [x]
            ∧ ∀ q ∈ v.popsOf g, ∀ e ∈ (v.claimValues k q).1, (e.1, lmD w.slot.word, e.2) ∈ x.vals

/-- R247, R318: a bucket.arrive of one lane, of a group with nothing staged, whose accesses are performed and whose bucket passes its checks on this device in a tile and a line that are good: it delivers the generation. An arrival that does not fill the generation counts one more arrival and leaves every byte outside the count; one that fills it, at a bucket without a POST, sets the count to 0 and begins the next generation; one that fills it at a bucket with a POST does so too and posts its collective, a command without a token for the launch of the arrival. The lane moves on. -/
def Obligations.BucketResults : Prop :=
  ∀ (s : State) (p : Packet) (g : Group), s.issuing = some (p, g) → g.waitOf p.cur.pc p.cur.place = none → s.certified g = false → (∀ x ∈ s.eng.staged, x.gid ≠ p.gid) → g.deferredFor Deferred.atRelease = none →
    s.performed p.gid g .system = true → s.cellsOk = true → s.dev.changes = [] → ∀ (d a : Reg) (i : Nat) (pl : Place) (pa : Nat),
      let c := s.ctxOf p.gid g
      let u := s.writeBack g.core
      let before := fun off => fieldAt (u.bytesAt none false pl.loc 32) off 4
      g.list p.cur.lanes = [i] → s.bucketAt c (fun _ => 0) (g.readPair s.cycle i a) = .ok pl → pl.loc = .phys pa → s.tileBefore c pl.tile pl.loc 32 true = none →
        ∃ t h x, exec (.bucketArrive d a) s = .next t ∧ t.group? p.gid = some h ∧ h = { g with lanes := h.lanes, sb := g.sb ++ [x] } ∧ Moved g h p.cur.lanes (succPc p.cur.pc)
          ∧ x.kind = .ready ∧ (i, d, BitVec.ofNat 32 (before 8)) ∈ x.vals
          ∧ (let after := fun off => fieldAt (t.bytesAt none false pl.loc 32) off 4
             ((before 4 + 1) % 2 ^ 32 ≠ before 0 → after 4 = (before 4 + 1) % 2 ^ 32 ∧ ∀ b, (b < pa + 4 ∨ pa + 8 ≤ b) → t.bytesAt none false (.phys b) 1 = u.bytesAt none false (.phys b) 1)
             ∧ ((before 4 + 1) % 2 ^ 32 = before 0 → fieldAt (u.bytesAt none false pl.loc 32) 0x10 8 = 0 → after 4 = 0 ∧ after 8 = (before 8 + 1) % 2 ^ 32
                  ∧ ∀ b, (b < pa + 4 ∨ pa + 12 ≤ b) → t.bytesAt none false (.phys b) 1 = u.bytesAt none false (.phys b) 1)
             ∧ ∀ la, (before 4 + 1) % 2 ^ 32 = before 0 → fieldAt (u.bytesAt none false pl.loc 32) 0x10 8 ≠ 0 → s.target (BitVec.ofNat 64 (fieldAt (u.bytesAt none false pl.loc 32) 0x10 8)) = some (.here la) →
                 after 4 = 0 ∧ after 8 = (before 8 + 1) % 2 ^ 32 ∧ (∀ b, (b < pa + 4 ∨ pa + 12 ≤ b) → t.bytesAt none false (.phys b) 1 = u.bytesAt none false (.phys b) 1)
                 ∧ ∃ y ∈ t.eng.cmds, y.2.kind = .collPost ∧ y.2.blockEa = BitVec.ofNat 64 (fieldAt (u.bytesAt none false pl.loc 32) 0x10 8) ∧ y.2.token = none ∧ y.2.launch = c.launch)

/-- R161 to R164, R249, R327: with no store of the group waiting (DEDUCED, log entry 90) and nothing of it staged, bar.tag with a count from 1 to 255 tags an untagged word with that count, no arrivals and phase 0, and with 0 untags a word; an arrival counts, or at the last ends the phase, and g.barrive goes on; g.bar whose arrival ends the phase goes on and otherwise waits; g.barwait goes on once the phase it arrived in has ended and the group's loads have returned, waits for the phase, or, when that has ended, for the loads alone, and traps BARRIER_ORDER without an arrival; an arrival at an address that is no barrier traps. bar.tag with a count above 255 traps BAD_BARRIER with TRAPADDR the low half of EA, which is the model's choice (DEDUCED, log entry 88). -/
def Obligations.BarrierResults : Prop :=
  ∀ (s : State) (p : Packet) (g : Group), s.issuing = some (p, g) → g.waitOf p.cur.pc p.cur.place = none → s.certified g = false → (∀ x ∈ s.mem.storeQ, x.gid ≠ p.gid) → (∀ x ∈ s.eng.staged, x.gid ≠ p.gid) → s.cellsOk = true →
    ∀ (d a : Reg) (off : BitVec 9) (t0 o : Nat),
    let w := g.read s.cycle (g.lowest p.cur.lanes) a
    let b := s.winWord t0 o
    let ended : Bool := decide (barCount b ≤ barArrived b + 1)
    let after := if ended then barWord (barPhase b + 1) 0 (barCount b) else barWord (barPhase b) (barArrived b + 1) (barCount b)
    (∀ (i n : Nat) (pl : Place), g.list p.cur.lanes = [i] → (g.read s.cycle i d).toNat = n → s.isScratch (g.readPair s.cycle i a + off.signExtend 64 * 4) = true →
        s.check (s.ctxOf p.gid g) (.raw 4) false (g.readPair s.cycle i a + off.signExtend 64 * 4) = .ok pl → pl.loc = .win t0 o →
        (1 ≤ n → n ≤ 255 → s.tagged t0 o = false → ∃ t h, exec (.barTag d a off) s = .next t ∧ t.winWord t0 o = barWord 0 0 n ∧ t.tagged t0 o = true ∧ t.group? p.gid = some h ∧ h = { g with lanes := h.lanes } ∧ Moved g h p.cur.lanes (succPc p.cur.pc))
        ∧ (n = 0 → barArrived b = 0 → ∃ t h, exec (.barTag d a off) s = .next t ∧ t.winWord t0 o = 0 ∧ t.tagged t0 o = false ∧ t.group? p.gid = some h ∧ h = { g with lanes := h.lanes } ∧ Moved g h p.cur.lanes (succPc p.cur.pc))
        ∧ (255 < n → ∃ m : LaneMask, (∀ j, j < 64 → (m.getLsbD j = true ↔ j = i)) ∧ exec (.barTag d a off) s = .next (s.trapAt p.gid p.cur .badBarrier m (((g.readPair s.cycle i a + off.signExtend 64 * 4).setWidth 32).setWidth 64))))
    ∧ (s.barrierAt g w = .ok (t0, o) → g.arrival = none → g.deferredFor Deferred.atRelease = none → s.performed p.gid g (barrierScope g t0) = true →
        (∃ t h, exec (.gBarrive a) s = .next t ∧ t.winWord t0 o = after ∧ t.group? p.gid = some h ∧ h = { g with lanes := h.lanes, arrival := some (w, barPhase b) } ∧ Moved g h p.cur.lanes (succPc p.cur.pc))
        ∧ (ended = true → ∃ t h, exec (.gBar a) s = .next t ∧ t.winWord t0 o = after ∧ t.group? p.gid = some h ∧ h = { g with lanes := h.lanes } ∧ Moved g h p.cur.lanes (succPc p.cur.pc))
        ∧ (ended = false → ∃ t h, exec (.gBar a) s = .next t ∧ t.winWord t0 o = after ∧ t.group? p.gid = some h ∧ h = { g with waits := h.waits, arrival := some (w, barPhase b) } ∧ (h.waitOf p.cur.pc p.cur.place).map (·.kind) = some (.barrier w (barPhase b))))
    ∧ (∀ c, s.barrierAt g w = .error c → ∀ i ∈ [Instr.gBarrive a, Instr.gBar a, Instr.gBarwait a], exec i s = .next (s.trapAt p.gid p.cur c p.cur.lanes (w.setWidth 64)))
    ∧ (s.barrierAt g w = .ok (t0, o) → (∀ n, g.arrival ≠ some (w, n)) → exec (.gBarwait a) s = .next (s.trapAt p.gid p.cur .barrierOrder p.cur.lanes (w.setWidth 64)))
    ∧ ∀ n, s.barrierAt g w = .ok (t0, o) → g.arrival = some (w, n) → g.deferredFor Deferred.atBlocking = none →
        (barPhase b ≠ n → g.loadsReturned = true → ∃ h, exec (.gBarwait a) s = .next (s.setGroup p.gid h) ∧ h = { g with lanes := h.lanes, arrival := none } ∧ Moved g h p.cur.lanes (succPc p.cur.pc))
        ∧ ((barPhase b = n ∨ g.loadsReturned = false) → ∃ h, exec (.gBarwait a) s = .next (s.setGroup p.gid h) ∧ h = { g with waits := h.waits } ∧ (h.waitOf p.cur.pc p.cur.place).map (·.kind) = some (.barrier w (if barPhase b = n then n else phasePast)))

/-- R251 to R257: in one lane that names tile k of an RCP page: rcp.reg sets, replaces or removes the record of the descriptor, raises by one the pin count of each source that only the new record names and lowers that of each that only the old one names, and traps BAD_RECIPE on a record that breaks a rule and RECIPE_BUSY on a tile that is being built; rcp.drop makes a VALID tile with a record DROPPED, and traps RECIPE_MISS on one without a record and WRITE_SHARED in a READSHARED page; rcp.pin and rcp.unpin move the pin count by one, and trap PIN_RANGE at its ends; tile.state delivers the state word. The lane moves on; the other fields of the tile, and every other tile, stand. That TRAPADDR of BAD_RECIPE, RECIPE_BUSY, RECIPE_MISS and PIN_RANGE is the address of the tile's first byte is the model's choice (DEDUCED, log entry 68). -/
def Obligations.RecipeResults : Prop :=
  ∀ (s : State) (p : Packet) (g : Group), s.issuing = some (p, g) → g.waitOf p.cur.pc p.cur.place = none → ∀ (d a : Reg) (i k : Nat) (attr : Word), g.list p.cur.lanes = [i] →
    let c := s.ctxOf p.gid g
    let ea := g.readPair s.cycle i a
    let t0 := s.tile k
    let moved := fun (t : State) => ∃ h, t.group? p.gid = some h ∧ h = { g with lanes := h.lanes } ∧ Moved g h p.cur.lanes (succPc p.cur.pc)
    let others := fun (t : State) => ∀ j, j ≠ k → t.tile j = s.tile j
    let traps := fun (ins : Instr) (cause : Cause) (addr : DWord) => ∃ m : LaneMask, (∀ j, j < 64 → (m.getLsbD j = true ↔ j = i)) ∧ exec ins s = .next (s.trapAt p.gid p.cur cause m addr)
    s.tileAt c ea = .ok (k, attr) →
      (∀ r, s.descriptor c (scratchEa (g.read s.cycle i d).toNat) 32 32 = .ok r → s.recordOk c.asid r = true → t0.st ≠ .building → (∀ n ∈ recSources r, (s.tile (c.asid * 2 ^ 32 + n)).pins ≠ 65535) →
        let new := if recKernel r = 0 then [] else recSources r
        let old := (t0.record.map recSources).getD []
        let key := fun n => c.asid * 2 ^ 32 + n
        ∃ t, exec (.rcpReg d a) s = .next t ∧ moved t
          ∧ ∀ j, t.tile j = { s.tile j with record := if j = k then (if recKernel r = 0 then none else some r) else (s.tile j).record,
                                            pins := (s.tile j).pins + (if j ∈ (new.filter fun n => n ∉ old).map key then 1 else 0) - (if j ∈ (old.filter fun n => n ∉ new).map key then 1 else 0) })
      ∧ (∀ r, s.descriptor c (scratchEa (g.read s.cycle i d).toNat) 32 32 = .ok r →
          (s.recordOk c.asid r = false → traps (.rcpReg d a) .badRecipe (tileEa ea)) ∧ (s.recordOk c.asid r = true → t0.st = .building → traps (.rcpReg d a) .recipeBusy (tileEa ea)))
      ∧ (t0.st = .valid → t0.record ≠ none → attrCoh attr ≠ 1 → ∃ t, exec (.rcpDrop a) s = .next t ∧ moved t ∧ t.tile k = { t0 with st := .dropped } ∧ others t)
      ∧ (t0.record = none → attrCoh attr ≠ 1 → traps (.rcpDrop a) .recipeMiss (tileEa ea))
      ∧ (attrCoh attr = 1 → traps (.rcpDrop a) .writeShared ea)
      ∧ (t0.pins ≠ 65535 → ∃ t, exec (.rcpPin a) s = .next t ∧ moved t ∧ t.tile k = { t0 with pins := t0.pins + 1 } ∧ others t)
      ∧ (t0.pins = 65535 → traps (.rcpPin a) .pinRange (tileEa ea))
      ∧ (t0.pins ≠ 0 → ∃ t, exec (.rcpUnpin a) s = .next t ∧ moved t ∧ t.tile k = { t0 with pins := t0.pins - 1 } ∧ others t)
      ∧ (t0.pins = 0 → traps (.rcpUnpin a) .pinRange (tileEa ea))
      ∧ ∃ t h x, exec (.tileState d a) s = .next t ∧ t.group? p.gid = some h ∧ h = { g with lanes := h.lanes, sb := g.sb ++ [x] } ∧ Moved g h p.cur.lanes (succPc p.cur.pc)
          ∧ (i, d, t0.word (s.certified g)) ∈ x.vals ∧ t.mem = s.mem

/-! ## Engines (R258 to R310) -/

/-- R258 to R261, R308, R310 to R312: a command whose blocks pass their checks, a queue they name lying in a tile that is VALID, on a token that is not BUSY, while the reservation table has room for it, makes the token BUSY with one operation for each block and enters the table as one command for each block; the lanes of an engine's and a collective's post move on, those of a phase instruction wait for the compactor and their group has arrived there, with the block as it stood. With a BUSY token it traps TOKEN_BUSY; with the table full it waits. -/
def Obligations.EnginePosts : Prop :=
  ∀ (s : State) (p : Packet) (g : Group), s.issuing = some (p, g) → g.waitOf p.cur.pc p.cur.place = none → ∀ (a : Reg) (k : Token),
    let busy := fun (h : Group) (n : Nat) => h.tokens = g.tokens.set k { st := .busy, left := n, bad := false }
    (∀ (i : Instr) (e : EngineKind) (bs : List (DWord × List Byte)),
      (i, e) ∈ [(Instr.mmLdw a k, EngineKind.mmLdw), (.mmSwapw a k, .mmSwapw), (.mmRun a k, .mmRun), (.mmSwapacc a k, .mmSwapacc), (.mmAccrd a k, .mmAccrd), (.mmAccwr a k, .mmAccwr), (.mmDrain a k, .mmDrain), (.mmRegrow a k, .mmRegrow),
        (.bsAsm a k, .bsAsm), (.bsLu a k, .bsLu), (.bsLdl a k, .bsLdl), (.bsTrsv a k, .bsTrsv), (.bsPgs a k, .bsPgs), (.bsBack a k, .bsBack), (.srtKeys a k, .srtKeys), (.srtPairs a k, .srtPairs), (.trvBuild a k, .trvBuild), (.trvQuery a k, .trvQuery)] →
      s.laneBlocks p g a (s.readBlock (s.ctxOf p.gid g) g e) = .ok bs → (∀ b ∈ bs, s.queueBlocked (s.ctxOf p.gid g) e b.2 = none) →
        ((g.token k).st = .busy → exec i s = .next (s.trapAt p.gid p.cur .tokenBusy p.cur.lanes 0))
        ∧ ((g.token k).st ≠ .busy → 64 < s.tableUse g.core + bs.length → ∃ h, exec i s = .next (s.setGroup p.gid h) ∧ h = { g with waits := h.waits } ∧ (h.waitOf p.cur.pc p.cur.place).map (·.kind) = some .table)
        ∧ ((g.token k).st ≠ .busy → s.tableUse g.core + bs.length ≤ 64 → ∃ t h cs, exec i s = .next t ∧ t.group? p.gid = some h ∧ h = { g with lanes := h.lanes, tokens := h.tokens } ∧ busy h bs.length ∧ Moved g h p.cur.lanes (succPc p.cur.pc)
            ∧ t.eng.cmds = s.eng.cmds ++ cs ∧ cs.map (fun x => (x.2.blockEa, x.2.block)) = bs ∧ ∀ x ∈ cs, x.2.kind = e ∧ x.2.gid = p.gid ∧ x.2.token = some k ∧ x.2.results = [] ∧ x.2.started = false))
    ∧ (∀ (restore : Bool) (tm : Team) (b : List Byte),
        let ea := g.readPair s.cycle (g.lowest p.cur.lanes) a
        s.teamOf g = some tm → s.descriptor (s.ctxOf p.gid g) ea 64 32 = .ok b → s.phaseOk g.team (s.positions tm) b = true → (g.token k).st ≠ .busy → g.liveMask = p.cur.lanes → s.phaseDiffers tm ea (lmSub p.cur.word) = false →
        (∀ i, p.cur.lanes.getLsbD i = true → i < g.width → g.readPair s.cycle i a = ea) → s.tableUse g.core + 1 ≤ 64 → g.deferredFor Deferred.atRelease = none → s.performed p.gid g .team = true →
          ∃ t h, exec (if restore then .phaseRestore a k else .phaseRegroup a k) s = .next t ∧ t.group? p.gid = some h ∧ h = { g with tokens := h.tokens, waits := h.waits } ∧ busy h 1
            ∧ (h.waitOf p.cur.pc p.cur.place).map (·.kind) = some (.phase ea) ∧ t.team? g.team = some { tm with arrived := tm.arrived ++ [(p.gid, ea, b)] })
    ∧ ∀ (bs : List (DWord × List Byte)),
        s.laneBlocks p g a (fun ea => match s.descriptor (s.ctxOf p.gid g) ea 64 80 with
          | .error x => .error (x, ea)
          | .ok b => if s.collOk (s.ctxOf p.gid g).asid b then .ok b else .error (.badDescriptor, ea)) = .ok bs →
        (g.token k).st ≠ .busy → s.tableUse g.core + bs.length ≤ 64 → g.deferredFor Deferred.atRelease = none → s.performed p.gid g .domain = true → s.certified g = false →
          ∃ t h, exec (.collPost a k) s = .next t ∧ t.group? p.gid = some h ∧ h = { g with lanes := h.lanes, tokens := h.tokens } ∧ busy h bs.length ∧ Moved g h p.cur.lanes (succPc p.cur.pc)

/-- R285, R299: mm.amax reads its word as a load does, with a scoreboard entry of its own; bs.stat enters an entry whose value comes once no command of the team names the items; the lanes move on and nothing else changes. -/
def Obligations.EngineReads : Prop :=
  ∀ (s : State) (p : Packet) (g : Group), s.issuing = some (p, g) → g.waitOf p.cur.pc p.cur.place = none → ∀ (d a : Reg) (pl : Nat → Place) (w : Nat → Word),
    let c := s.ctxOf p.gid g
    (g.holds = false → (∀ i, p.cur.lanes.getLsbD i = true → i < g.width → s.amaxCheck c (g.readPair s.cycle i a) = .ok (pl i) ∧ s.mustWait c (pl i).tile = false ∧ s.readLane c true .w32 (pl i) = .words [w i]) →
      ∃ t h e, exec (.mmAmax d a) s = .next t ∧ GroupOnly s t p h ∧ Moved g h p.cur.lanes (succPc p.cur.pc) ∧ h = { g with lanes := h.lanes, sb := g.sb ++ [e] } ∧ e.kind = .ready ∧ s.cycle < e.due
        ∧ ∀ i, p.cur.lanes.getLsbD i = true → i < g.width → (i, d, w i) ∈ e.vals)
    ∧ ((∀ i, p.cur.lanes.getLsbD i = true → i < g.width → s.itemCheck c (g.readPair s.cycle i a) = .ok (pl i)) →
      ∃ t h e, exec (.bsStat d a) s = .next t ∧ GroupOnly s t p h ∧ Moved g h p.cur.lanes (succPc p.cur.pc) ∧ h = { g with lanes := h.lanes, sb := g.sb ++ [e] } ∧ e.kind = .stat ∧ e.regs = [d] ∧ e.lanes = p.cur.lanes)

/-- R274, R286, R288, R396, R428, R430, R431: the steps of the engines that run items: a free bench, solver or sort unit takes its next item and, when the work comes to its end without a wait, the command has one result more and the unit is busy until the item's cycles are over (those of an item of a sort are the model's choice: DEDUCED, log entry 12); a sweep begins its walk once no drain of its domain runs, and a drain that starts reads the datum of each of its domains; a walk rewrites its elements one at a time, leaving one of a failing line and one whose age is 2^23 or more as it is; after the last it ends and raises its domain's SWEEPBASE to its start datum, and at an element without a decay factor it ends with Bn set and SWEEPBASE as it was. That an element of a failing line is left and the walk goes on is the model's choice (DEDUCED, log entry 51), and so is that a factor on a failing line is no factor (DEDUCED, log entry 11). -/
def Obligations.EngineSteps : Prop :=
  ∀ (s : State),
    (∀ cl b id item k c u v, s.benchIdle cl b = true → s.benchNext cl b = some (id, item, k) → s.cmd? id = some c →
        s.engineRun (runItem (s.cmdEnv c) c (if runStat c.block then s.planeOf c else none) (s.runDepth c) item) = .done v u → u.cmd? id = some c →
        ∃ t r, exec (.benchTakeItem cl b) s = .next t ∧ t.cmd? id = some { c with results := c.results ++ [r], dueAt := max c.dueAt (s.cycle + 24 + 32 * ((fieldAt c.block 0x58 4 + s.runDepth c - 1) / s.runDepth c)), started := true, epoch := if c.started then c.epoch else u.dev.qepoch }
          ∧ r.item = item ∧ r.code = .ok ∧ lookup (t.cluster cl).busy b = some (s.cycle + 24 + 32 * ((fieldAt c.block 0x58 4 + s.runDepth c - 1) / s.runDepth c)))
    ∧ (∀ cl id c u out, (lookup s.eng.solvers cl).getD 0 ≤ s.cycle → s.solverNext cl = some (id, c) → c.kind ≠ .bsAsm → s.engineRun (solveItem (s.cmdEnv c) c (c.left.headD 0)) = .done out u → u.cmd? id = some c →
        ∃ t c' r, exec (.solverTakeItem cl) s = .next t ∧ t.cmd? id = some c' ∧ c'.results = c.results ++ [r] ∧ r.item = c.left.headD 0 ∧ r.code = .ok ∧ lookup t.eng.solvers cl = some (s.cycle + out.cycles))
    ∧ (∀ die unit id c i, unit < 6 → (lookup s.eng.sorters (6 * die + unit)).getD 0 ≤ s.cycle → s.sortNext die = some (id, c) → c.kind = .srtKeys → s.cmd? id = some c → sortItem c = some i →
        ∃ t c' r, exec (.sortTakeRange die unit) s = .next t ∧ t.cmd? id = some c' ∧ c'.results = c.results ++ [r] ∧ r.item = i ∧ r.code = .ok
          ∧ lookup t.eng.sorters (6 * die + unit) = some (s.cycle + (if i < rangesOf c then 200 + min 4096 (fieldAt c.block 0x20 4 - 4096 * i) / 2 else 2048)) ∧ t.mem = s.mem)
    ∧ (∀ die unit id c ps f u, unit < 6 → (lookup s.eng.sorters (6 * die + unit)).getD 0 ≤ s.cycle → s.sortNext die = some (id, c) → c.kind = .srtPairs → s.cmd? id = some c → s.engineRun (findPairs (s.cmdEnv c) c.block) = .done (ps, f) u →
        ∃ t c' r, exec (.sortTakeRange die unit) s = .next t ∧ t.cmd? id = some c' ∧ c'.results = c.results ++ [r] ∧ c'.outbuf = ps ∧ r.code = .ok ∧ r.detail = ps.length ∧ r.flags = f ∧ t.mem = s.mem)
    ∧ (∀ (n : Domain) w, lookup s.dev.sweeps n.val = some w → w.walking = false → s.draining n.val = false →
        ∃ t, exec (.drainSweepOrder n) s = .next t ∧ lookup t.dev.sweeps n.val = some { w with walking := true } ∧ t = { s with dev := { s.dev with sweeps := t.dev.sweeps } })
    ∧ (∀ (n : Domain) id c, lookup s.dev.sweeps n.val = none → s.cmd? id = some c → (s.eng.cmds.find? fun x => (x.2.kind == .mmDrain || x.2.kind == .mmRegrow) && !x.2.started && (s.drainDomains x.2).contains n.val && s.drainStarts x.1 x.2) = some (id, c) →
        ∃ t c', exec (.drainSweepOrder n) s = .next t ∧ t.cmd? id = some c' ∧ c'.started = true ∧ c'.block = c.block ∧ c'.results = c.results ∧ t.dev = s.dev ∧ ∀ m : Fin 16, m.val ∈ s.drainDomains c → lookup c'.datums m.val = some (s.dev.datum.get m).toNat)
    ∧ (∀ (n : Domain) w, lookup s.dev.sweeps n.val = some w → w.walking = true → w.pieces = [] →
        ∃ t, exec (.sweepComplete n) s = .next t ∧ lookup t.dev.sweeps n.val = none ∧ t.dev.sweepBad.getLsbD n.val = false ∧ t.dev.sweepBase.get n = BitVec.ofNat 64 w.start
          ∧ (∀ m, m ≠ n → t.dev.sweepBase.get m = s.dev.sweepBase.get m ∧ t.dev.sweepBad.getLsbD m.val = s.dev.sweepBad.getLsbD m.val) ∧ t.dev.datum = s.dev.datum ∧ t.mem = s.mem)
    ∧ ∀ (n : Domain) w asid la r q, lookup s.dev.sweeps n.val = some w → w.walking = true → w.pieces = (asid, la) :: r → s.pageAt asid la = some q →
        let pa := q.phys la + 8 * w.at_
        let e := agedOf (BitVec.ofNat 64 (natOfBytes (cellsRead s.mem.hbm pa 8)))
        let age := ageOf (BitVec.ofNat 64 w.start) e.stamp
        let walks := fun (t : State) => exec (.sweepComplete n) s = .next t ∧ lookup t.dev.sweeps n.val = some (s.sweepNext w (q.phys la)) ∧ t.dev.sweepBase = s.dev.sweepBase ∧ t.dev.sweepBad = s.dev.sweepBad
        (s.lineBad none (pa / 64) = true → ∃ t, walks t ∧ t.mem = s.mem)
        ∧ (∀ lam, s.lineBad none (pa / 64) = false → s.decayFactor w.epoch n.val e.sel = some lam →
            (2 ^ 23 ≤ age → ∃ t, walks t ∧ t.mem = s.mem)
            ∧ (age < 2 ^ 23 → s.cellsOk = true → s.dev.changes = [] →
                ∃ t, walks t ∧ agedOf (BitVec.ofNat 64 (natOfBytes (cellsRead t.mem.hbm pa 8))) = { value := BitVec.ofNat 32 (FFmt.fp32.mul .engine (f32 e.value.toNat) (fDecay lam age)).bits, stamp := w.start % 2 ^ 24, sel := e.sel }
                  ∧ ∀ a, a < pa ∨ pa + 8 ≤ a → cellsRead t.mem.hbm a 1 = cellsRead s.mem.hbm a 1))
        ∧ (s.lineBad none (pa / 64) = false → s.decayFactor w.epoch n.val e.sel = none →
            ∃ t, exec (.sweepComplete n) s = .next t ∧ lookup t.dev.sweeps n.val = none ∧ t.dev.sweepBad.getLsbD n.val = true ∧ t.dev.sweepBase = s.dev.sweepBase ∧ t.mem = s.mem)

/-- R260, R308, R310, R312, R316, R317: the steps that end commands: a command whose time has come and whose work comes to an end; the compactor once every group of the team has arrived: a regroup whose map covers no tagged word fills each lane of the groups that take part from the lane whose position its own receives, enables every lane of them, and leaves the team regrouped under its map; with no group of the team ended the positions are those of a stable sort by the lanes' keys (where a group has ended the order is the model's reading: DEDUCED, log entry 54); a collective all of whose posts have come and disagree, which ends with MISMATCH; a gate whose claim on this device is no longer PENDING; a timeout that has passed, which withdraws the collective. -/
def Obligations.EngineEnds : Prop :=
  ∀ (s : State),
    (∀ id c t, s.cmd? id = some c → c.dueAt ≤ s.cycle → c.kind ≠ .collPost → s.cmdMayRun c = true → s.cmdEnds id c = some t → exec (.engineCommandComplete id) s = .next t)
    ∧ (∀ id c, s.cmd? id = some c → c.dueAt ≤ s.cycle → s.cmdMayRun c = true → c.kind ∈ [EngineKind.bsAsm, .bsLu, .bsLdl, .bsTrsv, .bsPgs, .bsBack] → c.left = [] →
        exec (.engineCommandComplete id) s = .next (s.endCmd id c (batchEnd c)))
    ∧ (∀ tid tm gid ea b sl bt bo r, s.team? tid = some tm → tm.arrived = (gid, ea, b) :: r → (s.group? gid).bind Group.phaseSlot = some sl → s.windowOf (some tid) (ea.toNat % 2 ^ 32) 32 = some (bt, bo) → s.phaseReady tm = true →
        let keys := fieldAt b 0x10 4 % 2 ^ 20
        let map := fieldAt b 0x14 4 % 2 ^ 20
        let src := sourceIn (s.regroupOrder tid keys tm)
        let key := s.phaseKey tid keys (s.movers tm)
        let ps := s.positionsWhere tm fun g => !g.emptyWait
        (∃ t, exec (.phaseCompactorRun tid) s = .next t)
        ∧ (lmSub sl.word = 0 → s.coversTag tid map (4 * s.positions tm) = false →
            ∃ t u, exec (.phaseCompactorRun tid) s = .next t ∧ t.team? tid = some u ∧ u.arrived = [] ∧ u.map.map (·.1) = some map
              ∧ ∀ k g1, k ∈ tm.groups → s.group? k = some g1 → g1.ended = false → g1.emptyWait = false →
                  ∃ h, t.group? k = some h ∧ h.lanes.length = g1.lanes.length ∧ h.enmask = fullMask g1.width
                    ∧ ∀ i m, i < g1.lanes.length → (s.movers tm)[src (g1.index * g1.width + i)]? = some m → h.lane i = (g1.lane i).filled g1.alloc m)
        ∧ ((∀ x ∈ s.groupsOf tm, x.2.ended = false) → ps.Pairwise (· < ·) →
            ∃ order : List Nat, order.Perm ps ∧ order.Pairwise (fun j k => key j < key k ∨ key j = key k ∧ j < k) ∧ ∀ (k j v : Nat), ps[k]? = some j → order[k]? = some v → src j = v))
    ∧ (∀ k x id c, s.coll? k = some x → x.cmd = some id → s.cmd? id = some c → x.started = false → x.bad = none → x.result = none → allPosted c.block x = true → disagrees c.block x = true →
        ∃ t y, exec (.collStart k) s = .next t ∧ t.coll? k = some y ∧ y.bad = some EngStatus.mismatch.code)
    ∧ (∀ id c, s.cmd? id = some c → c.gate = .waiting none → (s.claimView (collGateOf c.block)).isPending = false → exec (.collGate id) s = .next (s.settleGate id c (s.claimView (collGateOf c.block)).gate))
    ∧ ∀ id c, s.cmd? id = some c → c.kind = .collPost → fieldAt c.block 0x40 4 ≠ 0 → (∀ x, s.coll? (collId c.block) = some x → x.cmd = some id → allPosted c.block x = false) → s.eng.withdrawn.contains (collId c.block) = false → c.posted + fieldAt c.block 0x40 4 ≤ s.timebase →
        exec (.collTimeout id) s = .next ((s.withdrawColl (collId c.block)).tellAll (participants c.block) (.withdraw (collId c.block)))

/-! ## Issue and results (R28, R29, R34, R93, R224, R225) -/

/-- R28, R29, R31, R90: a core with no packet in issue forms the packet of the group it chooses, once its code can be fetched: its first instruction is next to act, the others follow, and RETIRED counts them all; while the tile of its code is being built the group waits, and RETIRED counts nothing (DEDUCED, log entry 15). R34: a group idle for the whole limit takes REJOIN_STALL at its handler. R93: a scoreboarded result whose cycle has come is in its registers and its entry is gone. R224, R225: a held load whose tiles are VALID again gets its words; a held store at the head of its core's line of stores is in memory. -/
def Obligations.IssueEvents : Prop :=
  ∀ (s : State),
    (∀ core gid g sl rest, s.packet = none → s.choice core = some (gid, g) → s.group? gid = some g → s.fetchTile g = none → s.slotsOf g = sl :: rest →
        ∃ t h q, exec (.issueCycle core) s = .next t ∧ t.group? gid = some h ∧ h = { g with retired := (g.retired + (sl :: rest).length) % 2 ^ 64, idle := 0 } ∧ t.packet = some q
          ∧ q.core = core ∧ q.gid = gid ∧ q.cur = sl ∧ q.rest = rest ∧ q.trap = none ∧ q.retired0 = g.retired
          ∧ (∀ k, k ≠ gid → t.group? k = s.group? k) ∧ t = { s with groups := t.groups, packet := t.packet, issued := t.issued })
    ∧ (∀ core gid g k pc, s.packet = none → s.choice core = some (gid, g) → s.group? gid = some g → s.fetchTile g = some (k, pc) → (s.tile k).st = .building → (s.ctxOf gid g).own = none →
        ∃ h, exec (.issueCycle core) s = .next (s.setGroup gid h) ∧ h = { g with waits := h.waits } ∧ (h.waitOf pc 0).map (·.kind) = some (.tile k s.dev.qepoch))
    ∧ (∀ gid g, s.group? gid = some g → Config.idleLimit ≤ g.idle → g.hnd = false → s.isRecompute g = false → s.trapvec (s.asidOf g) ≠ 0 →
        ∃ h, exec (.rejoinStall gid) s = .next (s.setGroup gid h) ∧ h.code = Cause.rejoinStall.code ∧ h.hnd = true ∧ h.idle = 0 ∧ h.saveden = g.enmask ∧ h.lanes.length = g.lanes.length
          ∧ (∀ i, i < 64 → (h.trapmask.getLsbD i = true ↔ i < g.width ∧ (g.lane i).waits = true))
          ∧ ∀ i, i < g.width → i < 64 → i < g.lanes.length → (g.lane i).live = true → (h.lane i).st = .live ∧ (h.lane i).trappc = (g.lane i).pc ∧ (h.lane i).pc = s.trapvec (s.asidOf g))
    ∧ (∀ gid id g e, s.group? gid = some g → g.sb.find? (fun x => x.id == id) = some e → e.due ≤ s.cycle → e.kind = .ready →
        ∃ h, exec (.scoreboardedResult gid id) s = .next (s.setGroup gid h) ∧ h = { g with lanes := h.lanes, hist := h.hist, sb := g.sb.filter fun x => x.id != id } ∧ h.lanes.length = g.lanes.length
          ∧ (∀ i, (h.lane i).pc = (g.lane i).pc ∧ (h.lane i).st = (g.lane i).st ∧ (h.lane i).fpflags = (g.lane i).fpflags)
          ∧ (∀ i r v now, i < g.lanes.length → (i, r, v) ∈ e.vals → (∀ w, (i, r, w) ∈ e.vals → w = v) → h.read now i r = v)
          ∧ ∀ i r now, (∀ w, (i, r, w) ∉ e.vals) → h.read now i r = g.read now i r)
    ∧ (∀ gid id g e raw f w (ws : Nat → List Word), s.group? gid = some g → g.sb.find? (fun x => x.id == id) = some e → s.resident g = true → s.mayResume gid g e = true → e.op.load? = some (raw, f) → e.kind = .held w →
        (∀ r ∈ e.rows, r.done = false → s.mustWait (s.ctxOf gid g) r.tile = false ∧ s.readLane { s.entryCtx gid g e with upTo := some e.id } raw f (r.place (e.op.size r)) = .words (ws r.lane)) →
          ∃ x, exec (.heldAccessResume gid id) s = .next (s.setGroup gid { g with sb := g.sb.map fun y => if y.id == id then x else y }) ∧ x.kind = .ready ∧ x.due = s.cycle + 1
            ∧ (∀ v ∈ e.vals, v ∈ x.vals) ∧ ∀ r ∈ e.rows, r.done = false → ∀ k v, (ws r.lane)[k]? = some v → (r.lane, (e.regs.headD 0).plus k, v) ∈ x.vals)
    ∧ ∀ core st r, s.storeLine core = st :: r → s.storeReady st = true → s.cellsOk = true → s.dev.changes = [] → (∀ t o, st.loc = .win t o → (s.team? t).isSome ∧ s.coversTag t o st.bytes.length = false) →
        ∃ t, exec (.heldStoreApply core) s = .next t ∧ t.mem.storeQ = s.mem.storeQ.filter (fun x => x.id != st.id)
          ∧ (∀ k, k < st.bytes.length → t.bytesAt (s.storeCore st) st.priv (st.loc.plus k) 1 = [st.bytes.getD k 0])
          ∧ ∀ c priv l, ¬ st.loc.holds st.bytes.length l → t.bytesAt c priv l 1 = s.bytesAt c priv l 1

/-! ## Tiles, launches, gangs (R50, R156, R340, R344, R365, R389, R391, R402, R412 to R426) -/

/-- R340, R341, R344, R389, R391, R392, R402: the steps of tiles, of changes of translation and of the Ticket Unit. A waiting build starts once an entry of the class of one of its misses is free; a completed recompute makes its tile VALID and counts the build; a chain that ends leaves its tile without a build; an evicted dirty line drops the tile and its data; the patrol reader leaves a good line alone, drops a tile with a record, and reports any other failing line; the oldest change whose epoch is done is over; the next segment in round order is applied once no tile keeps an access of it waiting, after the releases of its launch that are due have had their effect (DEDUCED, log entry 103), and after what the group accesses directly is performed. The 8-byte address that event 0x43 carries is the model's layout (DESIGN CHOICE, log entry 30), and that QDONE does not fall and is brought up to date by this event is the model's choice (DEDUCED, log entry 24). -/
def Obligations.TileEvents : Prop :=
  ∀ (s : State),
    (∀ k depth charged die r kern bytes e, ((s.tile k).wants.find? fun w => (s.reservedEntry w.2.2 w.1).isSome) = some (depth, charged, die) → (s.tile k).ending = none → (s.tile k).record = some r → s.kernelOf (keyAsid k) (recKernel r) = some kern → kern.recipe = true →
        s.recipeBlock k r kern.params = some bytes → s.reservedEntry die depth = some e →
        ∃ t id l, exec (.recomputeEntryWaitEnd k) s = .next t ∧ t.tile k = { s.tile k with st := .building, bdepth := depth, build := some id, wants := [] }
          ∧ t.launch? id = some l ∧ l.kern = { kern with gang := 1 } ∧ l.record.teams = 1 ∧ l.origin = .recompute k charged ∧ l.entry = some e ∧ l.die = die ∧ l.depth = depth ∧ l.st = .queued)
    ∧ (∀ id l k, s.launch? id = some l → l.origin.tile? = some k → l.st = .admitted → l.cause = none → l.teamsEnded = l.record.teams → s.quiet id = true → (s.tile k).ending = none → (s.tile k).build = some id →
        let u := s.completeLaunch id l none
        exec (.recomputeComplete id) s = .next (u.setTile k { u.tile k with st := .valid, builds := ((u.tile k).builds + 1) % 2 ^ 32, build := none, bdepth := 0 }).entriesFreed
        ∧ u.tile k = s.tile k ∧ u.launch? id = some { l with st := .complete })
    ∧ (∀ k cause, s.packet = none → (s.tile k).ending = some cause → s.sched.invq = [] → s.sched.replays = [] →
        ∃ t, exec (.recipeChainEnd k) s = .next t ∧ (t.tile k).build = none ∧ (t.tile k).wants = [] ∧ (t.tile k).ending = none ∧ (t.tile k).st = (if (s.tile k).st = .valid then .valid else .dropped) ∧ (t.tile k).record = (s.tile k).record)
    ∧ (∀ k pa, (s.tile k).st = .valid → (s.tile k).record ≠ none → s.tilePa k = some pa →
        ∃ t, exec (.tileEvictDrop k) s = .next t ∧ t.tile k = { s.tile k with st := .dropped } ∧ t.mem.hbm = cellsClear s.mem.hbm pa 16384 ∧ ∀ j, j ≠ k → t.tile j = s.tile j)
    ∧ (∀ line, 64 * line < Config.hbmBytes → (s.lineBad none line = false → exec (.patrolScrub line) s = .next s)
        ∧ (s.lineBad none line = true → ∀ k, s.tileOfLine line = some k → exec (.patrolScrub line) s = .next (s.dropTile k))
        ∧ (s.lineBad none line = true → s.tileOfLine line = none → exec (.patrolScrub line) s = .next (s.hostEvent 0x43 (bytesOfNat 8 (64 * line)))))
    ∧ (∀ c r, s.dev.changes = c :: r → s.reached c.epoch = true → ∃ t, exec .changeDependentAction s = .next t ∧ t.dev.changes = r ∧ (∀ q ∈ t.dev.quarantine, q.1 ≠ c.epoch) ∧ s.dev.qdone ≤ t.dev.qdone ∧ t.mem.hbm = s.mem.hbm)
    ∧ ∀ l x gid g, s.launch? l = some x → x.kern.ordered = true → x.st = .admitted → x.cause = none → (s.groups.find? fun y => s.launchIdOf y.2 == l && s.participantOf y.2 == (s.roundsOf l).next) = some (gid, g) →
        (g.ended = true ∨ (s.roundsOf l).round < g.segment) → (x.teamsEnded ≠ x.record.teams ∨ ∃ y ∈ s.eng.staged, y.launch = l) → (g.ended = true → ∀ y ∈ s.eng.copies, y.2.gid = gid → s.stages y.2 = false) →
        let r := s.roundsOf l
        let mine := fun (y : Staged) => y.launch == l && y.participant == r.next && decide (y.segment ≤ r.round) && y.awaits.isNone
        ((∃ y ∈ s.eng.lates, s.lateLaunch y = l ∧ s.lateDue y = true) → exec (.ticketSegmentApply l) s = .next (s.settleLates l))
        ∧ ((∀ y ∈ s.eng.lates, s.lateLaunch y ≠ l) → s.directLeft gid g = false → (∀ y ∈ s.eng.staged, mine y = true → s.stagedTile y = none) →
          ∃ t, exec (.ticketSegmentApply l) s = .next t ∧ t.roundsOf l = (if r.offset + 1 = r.participants then { r with round := r.round + 1, offset := 0 } else { r with offset := r.offset + 1 })
            ∧ t.eng.staged = s.eng.staged.filter fun y => !mine y)
        ∧ ((∀ y ∈ s.eng.lates, s.lateLaunch y ≠ l) → s.directLeft gid g = false → ∀ k, (s.eng.staged.filter mine).findSome? s.stagedTile = some (k, false) → (s.tile k).idle = true → exec (.ticketSegmentApply l) s = .next (s.meetTile (s.ctxOf gid g) k))

/-- R50, R156, R365, R412, R413, R415, R416, R418, R422, R423, R426: the steps of launches. A queued launch that is presented is admitted, with the reservation that the calendar gives a BOUNDED one, or refused; a gang that fits is placed, and one that is to be swapped out leaves its cores; a passed deadline ends the reservation; a charge at the bound asks for the launch to be killed with OVERRUN; a kill ends every group; a quiet launch completes; a replay starts and ends; an expired claim is FREE. That the gangs which go before but have no unit do not hold one back is the model's choice (DEDUCED, log entry 81). -/
def Obligations.LaunchEvents : Prop :=
  ∀ (s : State),
    (∀ id l, s.launch? id = some l → l.st = .queued → l.cause = none → s.presented l = true →
        (l.record.bounded = false ∨ l.origin.tile? ≠ none → exec (.admissionDecision id) s = .next (s.accept id l none 0))
        ∧ (l.record.bounded = true → l.origin.tile? = none →
            (∀ q, s.admitPairs l.record l.kern (s.timebase + 50000) = some q → exec (.admissionDecision id) s = .next (s.accept id l (some q) (s.timebase + 50000)))
            ∧ (s.admitPairs l.record l.kern (s.timebase + 50000) = none → l.hasRecord = true → exec (.admissionDecision id) s = .next (s.refuseLaunch id l)))
        ∧ ∀ pairs start, l.nextGang * l.kern.gang < l.record.teams →
            let t := s.accept id l pairs start
            t.launch? id = some { l with st := .admitted, tadmit := s.timebase, pairs := pairs }
            ∧ (∃ k, t.gang? s.sched.nextId = some k ∧ k.launch = id ∧ k.k = l.nextGang ∧ k.st = .unplaced)
            ∧ t.sched.resv = s.sched.resv ++ (match pairs with
                | none => []
                | some q => [({ launch := id, pairs := q, start := start, stop := l.record.deadline } : Reservation)]))
    ∧ (∀ gk g l start, s.packet = none → s.gang? gk = some g → s.launch? g.launch = some l → s.eligible g = true → (∀ x ∈ s.gangs, x.1 ≠ gk → s.eligible x.2 = true → s.goesBefore x.2 g = true → s.unitFor x.2 = none) →
        s.unitFor g = some start → (∀ r ∈ g.records, s.lineFails none (.phys r.1) r.2 = false) → gk < s.sched.nextId →
        ∃ t k, exec (.gangPlace gk) s = .next t ∧ t.gang? gk = some k ∧ k.st = .resident ∧ k.cores = (List.range l.kern.cores).map (start + ·) ∧ k.since = s.timebase ∧ k.launch = g.launch)
    ∧ (∀ gk k x records u, s.packet = none → s.gang? gk = some k → k.st = .resident → s.gangBlocked k = true → s.gangSettled gk k = true → s.swapReason k = true → s.kernelFor k = some x → s.saveRecords s.ctxUsed (s.recordsOf gk k x) = some (records, u) →
        ∃ t k', exec (.gangSwapOut gk) s = .next t ∧ t.gang? gk = some k' ∧ k'.st = .swapped ∧ k'.cores = [] ∧ k'.records = records)
    ∧ (∀ id r, s.resvOf id = some r → r.stop ≤ s.timebase → exec (.reservationDeadline id) s = .next { s with sched := { s.sched with resv := s.sched.resv.filter fun x => x.launch != id } })
    ∧ (∀ id l, s.launch? id = some l → l.st = .admitted → l.cause = none → l.origin.tile? = none → l.record.workbound ≤ l.charge → exec (.overrun id) s = .next (s.setLaunch id { l with cause := some .overrun }))
    ∧ (∀ id l c, s.packet = none → s.launch? id = some l → l.cause = some c → l.st ≠ .killed → l.st ≠ .complete → l.st ≠ .refused → s.sched.invq = [] → s.sched.replays = [] →
        ∃ t y, exec (.launchKill id) s = .next t ∧ t.launch? id = some y ∧ y.st = .killed ∧ y.entry = none ∧ y.cause = some c ∧ ∀ gid g, s.group? gid = some g → s.launchIdOf g = id → ∃ h, t.group? gid = some h ∧ h.ended = true)
    ∧ (∀ id l, s.launch? id = some l → (l.st = .killed ∨ (l.st = .admitted ∧ l.cause = none ∧ l.teamsEnded = l.record.teams ∧ l.origin.tile? = none)) → s.quiet id = true → s.returnBytes id l = none →
        exec (.launchComplete id) s = .next (s.completeLaunch id l none) ∧ (l.origin = .host → (s.completeLaunch id l none).launch? id = some { l with st := .complete }))
    ∧ (∀ id r, lookup s.sched.replays id = some r → r.started = false → s.notBehind r.after = true → (∀ x ∈ s.replaysOf r.asid r.graph, r.order ≤ x.2.order) →
        (∀ c ea, s.readGraph r = .error (.bad c ea) → exec (.replayStart id) s = .next (s.setReplay id { r with started := true, never := List.range r.nnode }))
        ∧ (∀ k, s.readGraph r = .error (.wait k) → (s.tile k).idle = true → exec (.replayStart id) s = .next (s.deviceMeets r.asid k false))
        ∧ ∀ bs ws, s.readGraph r = .ok bs → s.readPatch { r with started := true, table := bs, nnode := fieldAt bs 0 2 } = .ok ws → ∃ t x, exec (.replayStart id) s = .next t ∧ lookup t.sched.replays id = some x ∧ x.started = true ∧ x.table = bs)
    ∧ (∀ id r, lookup s.sched.replays id = some r → r.started = true → r.nodes = [] → r.readyNodes = [] → ∃ t, exec (.replayComplete id) s = .next t ∧ lookup t.sched.replays id = none)
    ∧ ∀ slot, (s.claimAt slot).st = .resolved → (s.claimAt slot).expiry ≤ s.timebase →
        ∃ t, exec (.claimExpire slot) s = .next t ∧ (t.claimAt slot).st = .free ∧ (t.claimAt slot).gen = (s.claimAt slot).gen ∧ ∀ k, k ≠ slot → t.claimAt k = s.claimAt k

/-! ## The fabric, the host, the sideband, the porters (R434 to R480) -/

/-- R448 to R455: every one of the thirteen kinds of flit (RDREQ, RDRSP, WR, WRACK, ATOMREQ, ATOMRSP, FAILRSP, INVOKE, CLAIMMSG, CLAIMRES, SIGNAL, COLL, MGMT) comes in by its link: with another LSEQ than the expected one it is only an acknowledgement; with the expected one it is acknowledged by an idle flit (when that leaves is the model's: log entry 38), and, for this device, delivered when its end-to-end turn has come, on VC 3 when it has not come before; one that has been delivered is dropped, as is one for another device with no hop left. Delivered, it has the effect of its kind; one that acts by its fields alone and arrived damaged is not acted on, and a damaged answer fails with CHECK (DESIGN CHOICE, log entry 45); a MGMT flit has no effect, which is the model's choice (DESIGN CHOICE, log entry 39); an answer to a request that is not open, or whose 200 ms have run out, does nothing. An idle flit acknowledges, a NACK resends from the flit it names and counts a failed replay where that flit had been resent, a flit that fails its CRC is answered with a NACK, an unknown type is counted, a link that has passed no flit for 10 µs, or failed 16 replays, is down, and a request whose time is over is given up with its launch. -/
def Obligations.FabricArrivals : Prop :=
  ∀ (s : State) (h : FlitHdr),
    (∀ m : FlitMsg, h.port < 18 →
      exec (m.instr h) s = .next (s.flitIn h m)
      ∧ (h.lseq ≠ (s.link h.port).expect → s.flitIn h m = s.ackLink h.port h.lack)
      ∧ (h.lseq = (s.link h.port).expect → ((s.flitIn h m).link h.port).expect = ((s.link h.port).expect + 1) % 512 ∨ h.dest ≠ s.fab.devNum)
      ∧ (h.lseq = (s.link h.port).expect → h.dest = s.fab.devNum →
          let e := s.endSeq h.src m.vc
          let ahead := (h.eseq + 2 ^ 16 - e.expect) % 2 ^ 16
          (h.eseq < 2 ^ 16 → e.expect = h.eseq → e.early = [] → (s.flitIn h m).loop = s.loop ++ [({ h with port := 19 }, m)])
          ∧ (m.vc = 3 → ahead < 2 ^ 15 → (∀ f ∈ e.early, f.1.eseq ≠ h.eseq) → (s.flitIn h m).loop = s.loop ++ [({ h with port := 19 }, m)])
          ∧ (2 ^ 15 ≤ ahead ∨ (∃ f ∈ e.early, f.1.eseq = h.eseq) → (s.flitIn h m).loop = s.loop)
          ∧ (m.vc ≠ 3 → 0 < ahead → (∀ f ∈ e.early, f.1.eseq ≠ e.expect) → e.expect < 2 ^ 16 → (s.flitIn h m).loop = s.loop))
      ∧ (h.lseq = (s.link h.port).expect → h.lseq < 512 → h.dest = s.fab.devNum ∨ h.hops ≤ 1 → (s.flitIn h m).outbox = (s.ackLink h.port h.lack).outbox ++ [Out.idle h.port (s.link h.port).nextSeq h.lseq])
      ∧ (h.lseq = (s.link h.port).expect → h.dest ≠ s.fab.devNum → h.hops ≤ 1 → (s.flitIn h m).loop = s.loop))
    ∧ (h.port = 19 →
      (∀ q, exec (.rdreq h q) s = .next (s.serveRead h q)) ∧ (∀ q, exec (.wr h q) s = .next (s.serveWrite h q)) ∧ (∀ q, exec (.atomreq h q) s = .next (s.serveAtomic h q))
      ∧ exec (.wrack h) s = .next (s.answerFor h.tag (.data [] [])) ∧ (∀ q, exec (.failrsp h q) s = .next (s.answerFor h.tag (.fail q))) ∧ (∀ b, exec (.mgmt h b) s = .next s)
      ∧ (h.badLines = 0 →
        (∀ v b, exec (.rdrsp h v b) s = .next (s.answerFor h.tag (.data v b))) ∧ (∀ v, exec (.atomrsp h v) s = .next (s.answerFor h.tag (.data v [])))
        ∧ (∀ q, exec (.invoke h q) s = .next (s.invokeArrives q)) ∧ (∀ q, exec (.claimres h (.broken q Cause.deviceLost.code 0)) s = .next (s.breakClaim q Cause.deviceLost.code 0))
        ∧ (∀ c a d t, exec (.claimmsg h { claim := c, body := .status a d t }) s = .next (s.claimArrives c (.status a d t)))
        ∧ (∀ r n, exec (.signal h (.giveBack r n)) s = .next ((s.rootTakes r n).ackSignal h)) ∧ (∀ q, exec (.coll h q) s = .next (s.collArrives q))
        ∧ (s.openReq h.tag = none → (∀ v b, exec (.rdrsp h v b) s = .next s) ∧ (∀ v, exec (.atomrsp h v) s = .next s) ∧ ∀ n, exec (.signal h (.ack n)) s = .next s)
        ∧ ∀ n r, s.openReq h.tag = some r → ((∀ k, r.owner ≠ .posted k) ∧ (∀ gid k, r.owner ≠ .bucket gid k) ∨ r.owner = .posted 1 → exec (.signal h (.ack n)) s = .next (s.answered h.tag))
            ∧ (∀ gid k, r.owner = .bucket gid k → exec (.signal h (.ack n)) s = .next { s with fab := { s.fab with reqs := put s.fab.reqs h.tag { r with owner := .bucket gid (k + 1) } } })
            ∧ ∀ k, r.owner = .posted (k + 2) → exec (.signal h (.ack n)) s = .next { s with fab := { s.fab with reqs := put s.fab.reqs h.tag { r with owner := .posted (k + 1) } } })
      ∧ (h.badLines ≠ 0 →
        (∀ q, exec (.claimres h q) s = .next s) ∧ (∀ q, exec (.claimmsg h q) s = .next s) ∧ (∀ q, exec (.signal h q) s = .next s) ∧ (∀ q, exec (.invoke h q) s = .next (s.refuseInvoke q Cause.check.code 0))
        ∧ (∀ v b r id, s.openReq h.tag = some r → r.owner = .copy id → exec (.rdrsp h v b) s = .next (s.answerFor h.tag (.fail { code := Cause.check.code, lanes := fullMask 64, addr := 0 }))))
      ∧ (∀ tag, (∃ r, s.openReq tag = some r) ↔ ∃ r, lookup s.fab.reqs tag = some r ∧ (r.owner.answered = true ∨ s.timebase < r.sentAt + Config.requestTimeoutNs))
      ∧ (∀ r l, s.openReq h.tag = some r → r.owner = .store l → lookup (s.answerFor h.tag (.data [] [])).fab.reqs h.tag = none)
      ∧ ∀ asid lane la f pl ws, s.check (s.deviceCtx asid) (.raw (loadSize f)) false (localEa la) = .ok pl → s.mustWait (s.deviceCtx asid) pl.tile = false → s.fab.held = [] → s.rawAt (s.deviceCtx asid) f pl = .words ws →
          exec (.rdreq h { asid := asid, parts := [{ lane := lane, la := la, kind := .raw f }] }) s = .next (s.sendMsg h.src h.tag (.rdrsp [(lane, ws)] [])))
    ∧ (h.port = 18 → (∀ q, (h, FlitMsg.rdreq q) ∈ s.fab.held → exec (.rdreq h q) s = .next (s.serveRead h q)) ∧ ∀ q, (h, FlitMsg.wr q) ∈ s.fab.held → exec (.wr h q) s = .next (s.serveWrite h q))
    ∧ ∀ port : Nat, port < 18 →
      (∀ lseq lack, exec (.idle port lseq lack) s = .next (s.ackLink port lack)
        ∧ (lseq = (s.link port).expect → ∃ t, exec (.unknownFlitType port lseq lack) s = .next t ∧ t.host.tele.badFlits = s.host.tele.badFlits + 1 ∧ (t.link port).expect = ((s.link port).expect + 1) % 512 ∧ t.loop = s.loop))
      ∧ exec (.flitCrcFailure port) s = .next { s with outbox := s.outbox ++ [.nack port (s.link port).expect] }
      ∧ (∀ lseq, ((s.link port).replay.findIdx? fun f => f.1.lseq == lseq) = none → exec (.nack port lseq) s = .next (s.setLink port { s.link port with up := true, heard := s.timebase }))
      ∧ (∀ lseq i, ((s.link port).replay.findIdx? fun f => f.1.lseq == lseq) = some i → ∃ t, exec (.nack port lseq) s = .next t ∧ (t.link port).replay = (s.link port).replay.drop i ∧ (t.link port).heard = s.timebase
          ∧ (t.link port).replays = (if (s.link port).resent ≤ i then 0 else if i = 0 then (s.link port).replays + 1 else 1)
          ∧ t.outbox = s.outbox ++ (((s.link port).replay.drop i).take 256).map fun f => Out.flit f.1 f.2)
      ∧ ((s.link port).fails s.timebase = true → ∃ t, exec (.linkDown port) s = .next t ∧ (t.link port).up = false ∧ (t.link port).replay = [])
      ∧ ∀ tag r l, lookup s.fab.reqs tag = some r → r.sentAt + Config.requestTimeoutNs ≤ s.timebase → r.owner.answered = false → s.launch? r.launch = some l → l.cause = none → l.st ≠ .complete → l.st ≠ .killed →
          ∃ t, exec (.requestTimeout tag) s = .next t ∧ lookup t.fab.reqs tag = none ∧ t.launch? r.launch = some { l with cause := some .deviceLost }

/-- R464 to R468, R470 and the rules of each request: a request of an installed session, of a type that the boot state answers, with no kept reply and a number not below those taken, is executed once, its number is taken, and its reply is sent and kept; a request that breaks its rules is answered BAD_REQUEST (32) and changes nothing else; one with a kept reply receives it again and executes nothing; without a session it is discarded. An event is acknowledged by its count, and sent again after 10 ms. Where the spec is open these are the model's choices: status 32 for an ATTEST nonce that is short and for a KILL of no launch (DEDUCED, log entry 22), which numbers are taken (DEDUCED, log entry 23), what READ of EPOCHS gives for QDONE (DEDUCED, log entry 24), the order of chunks (DEDUCED, log entry 27), what ASSUME, ROUTE and CTXMEM do (DEDUCED, log entry 28), and the layouts of the replies (DESIGN CHOICE, log entry 30). -/
def Obligations.HcpRequests : Prop :=
  ∀ (s : State) (h : HcpHdr) (x : Session), lookup s.host.sessions h.session = some x → s.host.boot.answers 0x0A = true → lookup x.replies h.seq = none → x.lastSeq ≤ h.seq →
    let u : State := { s with host := { s.host with sessions := put s.host.sessions h.session { x with lastSeq := h.seq + 1 } } }
    let replies := fun (i : Instr) (type status : Nat) (payload : List Byte) (t : State) => exec i s = .next (t.sendReply h.session h.seq (replyBytes type status payload))
    (replies (.identify h) 0x01 0 identity u
      ∧ (∀ nonce, nonce.length = 32 → replies (.attest h nonce) 0x02 0 (u.report nonce ++ u.signatures (u.report nonce)) u)
      ∧ (∀ c y, takeChunk s.host.boot.stage 0 0 c = some y →
          replies (.fwload h c) 0x03 0 [] { u with host := { u.host with boot := if c.last then { u.host.boot with stage := none, staged := some y.data } else { u.host.boot with stage := some y } } })
      ∧ (∀ asid base c y, (∃ a ∈ s.dev.asids, a.id = asid) → base % 32 = 0 → takeChunk s.sched.imageStage asid base c = some y →
          (c.last = false → replies (.imageload h asid base c) 0x08 0 [] { u with sched := { u.sched with imageStage := some y } })
          ∧ (c.last = true → imageStatus y.data ≠ 0 → replies (.imageload h asid base c) 0x08 (imageStatus y.data) [] { u with sched := { u.sched with imageStage := none } })
          ∧ (c.last = true → imageStatus y.data = 0 → (∀ z ∈ loadedBytes y.data base, z.1 + z.2.length ≤ 2 ^ 46 ∧ s.firstUnmapped s.dev.qepoch asid z.1 z.2.length = none) →
              exec (.imageload h asid base c) s = .next (({ u with sched := { u.sched with imageStage := none } }).loadImage h asid base y.data)))
      ∧ (∀ handle k, lookup s.sched.kernels handle.toNat = some k → s.imageBusy k.image = false →
          replies (.imageunload h handle) 0x09 0 [] { u with sched := { u.sched with images := del u.sched.images k.image, kernels := u.sched.kernels.filter fun y => y.2.image != k.image } })
      ∧ (∀ die asid bs k e, die < 2 → bs.length = 64 → s.checkRecord asid bs = .ok k → s.ordinaryEntry die = some e →
          ∃ t l, replies (.launch h die asid bs) 0x0A 0 (bytesOfNat 4 s.sched.nextId) t ∧ t.launch? s.sched.nextId = some l ∧ l.record = recordOf bs ∧ l.kern = k ∧ l.asid = asid ∧ l.die = die ∧ l.st = .queued ∧ l.entry = some e ∧ l.origin = .host)
      ∧ (∀ die asid bs n, die < 2 → bs.length = 64 → s.checkRecord asid bs = .error n → replies (.launch h die asid bs) 0x0A n [] u)
      ∧ (∀ n l, s.launch? n = some l → l.st ≠ .complete → l.st ≠ .refused → replies (.kill h n) 0x0B 0 [] (u.requestKill n (((s.firstPark n).map causeOfCode).getD .killed)))
      ∧ (∀ r gid g, (s.groups.find? fun y => !y.2.ended && y.2.parked.isSome && s.launchIdOf y.2 == r.launch && ((s.teamOf y.2).map (·.teamId)) == some r.team && y.2.index == r.group) = some (gid, g) →
          (s.launchOf g).bind (·.cause) = none → g.resumeOk r = true → (g.resumeWrites r).badReturn = 0 → replies (.resume h r) 0x0C 0 [] (u.setGroup gid { (g.resumeWrites r).returnFromTrap with parked := none })))
    ∧ ((∀ asid la len pa size attr, s.mapOk asid la len pa size attr = true → attrRcp attr = false → replies (.map h asid la len pa size attr) 0x10 0 [] { u with mem := { u.mem with pages := u.mem.pages ++ newPages asid la len pa size attr } })
      ∧ (∀ asid la len, (∀ q ∈ s.pagesIn asid la len, q.inside la len = true) →
          exec (.unmap h asid la len) s = .next ((u.unmapIn asid la len).change (.unmap asid la len) (s.pagesIn asid la len) (some (h.session, h.seq, replyBytes 0x11 0 []))))
      ∧ (∀ asid la len attr, attrOk attr = true → attrRcp attr = false → (∀ q ∈ s.pagesIn asid la len, q.inside la len = true) →
          exec (.change h asid la len attr) s = .next (({ u with mem := { u.mem with pages := u.mem.pages.map fun (q : Page) => if q.asid = asid && q.inside la len then { q with attr := attr } else q } }).change (.attrs asid la len) (s.pagesIn asid la len)
            (some (h.session, h.seq, replyBytes 0x12 0 []))))
      ∧ (∀ asid la len, (∀ q ∈ s.pagesIn asid la len, q.inside la len = true) → s.rangeInUse asid la len = false → s.dev.quarantine.length < Config.quarantineCap →
          ∃ t, replies (.free h asid la len) 0x13 0 [] t ∧ t.dev.quarantine = s.dev.quarantine ++ [(s.dev.qepoch, (s.pagesIn asid la len).map fun q => (q.pa, q.size))])
      ∧ (∀ asid la pa q, (s.mem.pages.find? fun y => y.asid == asid && y.la == la) = some q → q.pin = false → pa % q.size = 0 → pa + q.size ≤ Config.reservedBase → ∃ t, replies (.migrate h asid la pa) 0x14 0 [] t ∧ { q with pa := pa } ∈ t.mem.pages)
      ∧ (∀ asid la q, s.pageAt asid la = some q → attrRcp q.attr = true → (s.tile (tileKey asid la)).record ≠ none → replies (.drop h asid la) 0x15 0 [] (u.dropTile (tileKey asid la)))
      ∧ (∀ asid v, asid < 2 ^ 14 → s.trapvecOk asid v = true → ∃ t, replies (.asid h asid v) 0x16 0 [] t ∧ t.trapvec asid = v)
      ∧ (∀ base c y, base ≠ 0 → base % 2 ^ 14 = 0 → base + 2 ^ 14 ≤ Config.reservedBase → c.data.length ≤ 8192 → takeChunk s.dev.decayStage 0 base c = some y → y.data.length ≤ 2 ^ 14 →
          (c.last = false → replies (.decaytab h base c) 0x18 0 [] { u with dev := { u.dev with decayStage := some y } })
          ∧ (c.last = true → y.data.length = 2 ^ 14 → ∃ t, replies (.decaytab h base c) 0x18 0 [] t ∧ t.dev.decayBase = base))
      ∧ (∀ d, replies (.span h d) 0x19 0 [] { u with dev := { u.dev with spanning := u.dev.spanning ||| d } })
      ∧ (∀ pa len, len ≠ 0 → pa + len ≤ Config.reservedBase → replies (.ctxmem h pa len) 0x1A 0 [] { u with sched := { u.sched with ctxmem := u.sched.ctxmem ++ [(pa, len)] } })
      ∧ (∃ t, replies (.read h .epochs) 0x1B 0 (bytesOfNat 8 s.dev.qepoch ++ bytesOfNat 8 t.dev.qdone) t ∧ s.dev.qdone ≤ t.dev.qdone) ∧ replies (.read h .telemetry) 0x1B 0 u.telemetryBytes u)
    ∧ ((∀ es, (∀ e ∈ es, e.1 < 2 ^ 14 ∧ e.2.length ≤ 4 ∧ ∀ p ∈ e.2, p < 18) → replies (.route h es none) 0x20 0 [] { u with fab := { u.fab with routes := es.foldl (fun r e => put r e.1 e.2) u.fab.routes } })
      ∧ (∀ d, d < 2 ^ 14 → ∃ t, replies (.lose h d) 0x21 0 [] t ∧ d ∈ t.fab.lost)
      ∧ (∀ d n, d < 2 ^ 14 → n < 16 → replies (.assume h d n) 0x22 0 [] { u with fab := { u.fab with devNum := d, incarnation := n, ends := [], sendSeq := [] } })
      ∧ (∀ key asid la len, (∀ r ∈ s.host.regions, r.rkey ≠ key) → asid < 2 ^ 14 → la + len ≤ 2 ^ 46 →
          replies (.rkey h true key asid la len) 0x23 0 [] { u with host := { u.host with regions := u.host.regions ++ [{ rkey := key, asid := asid, la := la, len := len }] } })
      ∧ (∀ key asid la len, (∃ r ∈ s.host.regions, r.rkey = key) → replies (.rkey h false key asid la len) 0x23 0 [] { u with host := { u.host with regions := u.host.regions.filter fun r => r.rkey != key } }))
    ∧ ((∀ type, type ∉ listedTypes → s.host.boot.answers type = true → replies (.hcpUnlistedType h type) type 32 [] u)
      ∧ (∀ nonce, nonce.length ≠ 32 → replies (.attest h nonce) 0x02 32 [] u) ∧ (∀ n, s.launch? n = none → replies (.kill h n) 0x0B 32 [] u)
      ∧ (∀ frame, exec (.hcpFrameDiscard frame) s = .next s)
      ∧ (∀ seq bs, lookup x.replies seq = some bs → exec (.identify { h with seq := seq }) s = .next { s with outbox := s.outbox ++ [replyOut h.session seq bs] })
      ∧ (∀ k, lookup s.host.sessions k = none → exec (.identify { h with session := k }) s = .next s)
      ∧ (∀ n, exec (.hcpEventAck h.session n) s = .next { s with host := { s.host with sessions := put s.host.sessions h.session { x with events := x.events.filter fun e => e.1 != n } } })
      ∧ (x.events ≠ [] → x.lastResend + 10000000 ≤ s.timebase → ∃ t, exec (.hcpEventResend h.session) s = .next t ∧ t.outbox = s.outbox ++ x.events.map fun e => Out.event h.session e.1 (fieldAt e.2 0 1) (e.2.drop 1)))

/-- R329, R402, R462, R463, R470, R477 to R480: power-on, boot, the sideband and RoCEv2. Power-on reset and a hold leave the machine in reset, at TIMEBASE 0 and at the TIMEBASE it has (DESIGN CHOICE, log entry 3); firmware that passes runs and firmware that fails does not; a sideband request is answered while SBRSTN is high; a host's write of good bytes is in memory and acknowledged, with its immediate value if it has one, and its read is answered with the bytes, in packets of the path MTU; outside its region it is refused. Status 32 for a session index from 64 on is the model's choice (DEDUCED, log entry 22), and so are the layouts of STATE and TELEMETRY (DESIGN CHOICE, log entry 30) and what a paused priority holds and a congestion notification does (DEDUCED, log entry 65). -/
def Obligations.SystemRequests : Prop :=
  ∀ (s : State),
    (∃ t, exec .powerOnReset s = .next t ∧ t.cycle = 0 ∧ t.groups = [] ∧ t.mem.hbm = [] ∧ t.host.boot.minVersion = s.host.boot.minVersion ∧ t.host.boot.st = (if s.host.boot.resetLow then .held else .verifying))
    ∧ (s.host.boot.st = .verifying → (s.host.boot.good = true → ∃ t, exec .bootVerify s = .next t ∧ t.host.boot.st = .running ∧ t.host.boot.minVersion = max s.host.boot.minVersion (Config.firmwareVersion s.host.boot.image))
        ∧ (s.host.boot.good = false → ∃ t, exec .bootVerify s = .next t ∧ t.host.boot.st = .failed ∧ t.host.boot.minVersion = s.host.boot.minVersion))
    ∧ (s.host.boot.resetLow = false → (∃ t, exec (.sbrstn false) s = .next t ∧ t.host.boot.resetLow = true ∧ t.host.boot.st = .held ∧ t.groups = [] ∧ t.host.sessions = []) ∧ exec (.sbrstn true) s = .next s)
    ∧ (s.host.boot.resetLow = true → ∃ t, exec (.sbrstn true) s = .next t ∧ t.host.boot.resetLow = false ∧ t.host.boot.st = .verifying)
    ∧ (s.host.boot.resetLow = false →
        let answers := fun (i : Instr) (status : Nat) (payload : List Byte) (t : State) => exec i s = .next { t with outbox := t.outbox ++ [.sideband status payload] }
        (∃ t, answers (.hold true) 0 [] t ∧ t.host.boot.st = .held ∧ t.host.boot.hold = true ∧ t.cycle = s.cycle ∧ t.groups = [])
        ∧ (s.host.boot.hold = true → s.host.boot.good = true → ∃ t, answers (.hold false) 0 [] t ∧ t.host.boot.st = .running ∧ t.host.boot.hold = false)
        ∧ (s.host.boot.hold = true → s.host.boot.good = false → answers (.hold false) 34 [] s)
        ∧ answers .state 0 (bytesOfNat 1 s.host.boot.st.code ++ bytesOfNat 4 s.host.boot.minVersion ++ bytesOfNat 4 s.host.boot.version ++ bytesOfNat 1 s.host.ethUp.toNat) s
        ∧ (∀ a l g, answers (.setip a l g) 0 [] { s with host := { s.host with ip := some (a, l, g) } })
        ∧ (∀ k d, k < 64 → (∃ t x, answers (.session k true d) 0 [] t ∧ lookup t.host.sessions k = some x ∧ x.data = d ∧ x.lastSeq = 0 ∧ x.replies = []) ∧ ∃ t, answers (.session k false d) 0 [] t ∧ lookup t.host.sessions k = none)
        ∧ (∀ k b d, 64 ≤ k → answers (.session k b d) 32 [] s)
        ∧ (∀ n, answers (.telemetry n) 0 ((s.telemetryBytes.drop (240 * n)).take 240) s)
        ∧ (s.host.sbEvents = [] → answers .event 0 [] s) ∧ (∀ e r, s.host.sbEvents = e :: r → answers .event 0 e { s with host := { s.host with sbEvents := r } })
        ∧ answers .sbIdentify 0 identity s ∧ (∀ q, answers (.sidebandBadRequest q) 32 [] s)
        ∧ ∀ a, a < 128 → exec (.dynamicAddressAssign a) s = .next { s with host := { s.host with sbAddr := a } })
    ∧ (∀ key la n, s.regionFor key la n = none → (∀ bs, bs.length = n → exec (.rdmaWrite key la bs) s = .next (s.roce [.roceAccessError]) ∧ ∀ v, exec (.rdmaWriteWithImmediate key la bs v) s = .next (s.roce [.roceAccessError]))
        ∧ exec (.rdmaRead key la n) s = .next (s.roce [.roceAccessError]))
    ∧ (∀ key la n asid ps, s.regionFor key la n = some asid → s.fab.held = [] → s.waitTile (s.deviceCtx asid) ps = none →
        (∀ bs, bs.length = n → s.range (s.deviceCtx asid) true (localEa la) n = .here ps →
          let t := (s.writePlaces (s.deviceCtx asid) ps bs).makeChecks (filledLines (sharedOver ps bs)).contains
          exec (.rdmaWrite key la bs) s = .next (t.roce [.roceAck]) ∧ ∀ v, exec (.rdmaWriteWithImmediate key la bs v) s = .next (t.roce [.roceAck, .roceImm v]))
        ∧ (s.range (s.deviceCtx asid) false (localEa la) n = .here ps → s.failingPlace none ps = none →
          let bs := s.readPlaces (s.deviceCtx asid) ps
          exec (.rdmaRead key la n) s = .next (s.roce (rocePackets (bs.length / 4096 + 1) bs)) ∧ (bs.length ≤ 4096 → rocePackets (bs.length / 4096 + 1) bs = [.roceData bs])))
    ∧ (∀ o, exec (.roceInvalidRequest o) s = .next (s.roce [.roceInvalid]))
    ∧ exec .congestionNotificationPacket s = .next { s with host := { s.host with rateHalvings := s.host.rateHalvings + 1 } }
    ∧ exec (.priorityFlowControl true) s = .next { s with host := { s.host with paused := true } }
    ∧ exec (.priorityFlowControl false) s = .next { s with host := { s.host with paused := false, roceHeld := [] }, outbox := s.outbox ++ s.host.roceHeld }
    ∧ ∀ up, exec (.ethernetLink up) s = .next { s with host := { s.host with ethUp := up } }

/-- R434 to R443: a running porter whose last instruction has taken its cycles takes the step that its next instruction asks for: an ordinary one its own effect, an ecall a halt, an exception the entry at mtvec with mepc, mcause and mtval, or the end of its launch when it has no handler or is in one; a store to GO posts the window's command, and nothing while a fault stands; a store of FLT to FAULT clears it; another store sets an RW field; a load of CBGET or CBPUT acts on its buffer. A row command goes on by its rows: a row whose ends are here is copied from SRC + SPITCH × j to DST + DPITCH × j, and the next row's turn comes; after the last the command is done; one that finds a fault ends with FLT and its code, and the commands behind it end with it. x0 stays 0. That a store which clears FLT leaves the code is the model's choice (DEDUCED, log entry 29); the exception's entry, with the values of mcause and mtval, is that of the RISC-V standard (PRESUMED, log entry 20). -/
def Obligations.PorterSteps : Prop :=
  ∀ (s : State) (core : Nat) (role : Role) (k : Nat) (p : Porter),
    (∀ v, p.set 0 v = p) ∧ (∀ (r : XReg) v, r.val ≠ 0 → (p.set r v).get r = v)
    ∧ (s.runningPorter core role = some (k, p) → p.readyAt ≤ s.cycle → ∀ (a : PAct), s.porterAct k p = a →
        (∀ q t, a = .plain q t → exec (.porterInstruction core role) s = .next (t.setPorter k q))
        ∧ (a = .ecall → exec (.porterEcall core role) s = .next (s.setPorter k { p with mode := .halted }))
        ∧ (∀ c v, a = .trap c v → p.mtvec ≠ 0 → p.inHandler = false → ∃ t q, exec (.porterException core role) s = .next t ∧ lookup t.porters k = some q ∧ q.mepc = p.pc ∧ q.mcause = BitVec.ofNat 32 c ∧ q.mtval = v ∧ q.pc = p.mtvec ∧ q.inHandler = true ∧ q.x = p.x)
        ∧ (∀ c v l, a = .trap c v → p.mtvec = 0 ∨ p.inHandler = true → s.launchOfPorter p = some l → l.cause = none → l.st = .admitted →
            ∃ t q, exec (.porterException core role) s = .next t ∧ lookup t.porters k = some q ∧ q.mode = .halted ∧ t.launch? (s.porterLaunch p) = some { l with cause := some (porterCause c) })
        ∧ (∀ v n, a = .window 0x28 v n → p.queue.length < 16 →
            ∃ q, exec (.go core role) s = .next (s.setPorter k q) ∧ q.pc = p.pc + BitVec.ofNat 32 n
              ∧ (p.flt = true → q.queue = p.queue ∧ q.posted = p.posted)
              ∧ (p.flt = false → p.command.ok = true → q.queue = p.queue ++ [p.command] ∧ q.posted = (p.posted + 1) % 65536)
              ∧ (p.flt = false → p.command.ok = false → q.queue = p.queue ∧ q.flt = true ∧ q.fcode = 1))
        ∧ (∀ v n, a = .window 0x30 v n → v.getLsbD 31 = true → ∃ q, exec (.faultClear core role) s = .next (s.setPorter k q) ∧ q.flt = false ∧ q.fcode = p.fcode ∧ q.pc = p.pc + BitVec.ofNat 32 n)
        ∧ (∀ off v n, a = .window off v n → off ≠ 0x28 → off ≠ 0x30 ∨ v.getLsbD 31 = false →
            ∃ q, exec (.porterWindowWrite core role) s = .next (s.setPorter k q) ∧ q.pc = p.pc + BitVec.ofNat 32 n ∧ (off ∈ winFields → q.field off = v) ∧ (off ∉ winFields → q.win = p.win) ∧ ∀ o, o ≠ off → q.field o = p.field o)
        ∧ (∀ r e n len, a = .get r e n len → s.cbReady e p.who n = true → r.val ≠ 0 → ∃ t q, exec (.cbget core role) s = .next t ∧ lookup t.porters k = some q ∧ q.get r = BitVec.ofNat 32 (s.cbufTake e n).1 ∧ q.pc = p.pc + BitVec.ofNat 32 len)
        ∧ (∀ r e n len, a = .get r e n len → s.cbReady e p.who n = false → p.cbWait = false → ∃ t, exec (.cbget core role) s = .next t ∧ lookup t.porters k = some { p with cbWait := true } ∧ t.eng.cbufq = s.eng.cbufq ++ [(e.key, p.who)])
        ∧ (∀ r e n len v t, a = .put r e n len → (s.writeBack p.core).cbufPut e n = .ok (v, t) → r.val ≠ 0 →
            ∃ u q, exec (.cbput core role) s = .next u ∧ lookup u.porters k = some q ∧ q.get r = BitVec.ofNat 32 v ∧ q.pc = p.pc + BitVec.ofNat 32 len))
    ∧ (∀ c, (s.rowCopy p c).src = c.src + BitVec.ofNat 64 (c.spitch * c.row) ∧ (s.rowCopy p c).dsts = [c.dst + BitVec.ofNat 64 (c.dpitch * c.row)] ∧ (s.rowCopy p c).len = c.rowb)
    ∧ ∀ c r id x, s.postingPorter core role = some (k, p) → lookup s.porters k = some p → p.mode = .running → p.queue = c :: r →
        (c.copy = some id ∧ s.copy? id = some x ∧ x.answered = true ∧ x.failed = none ∧ x.phase = 0 ∧ s.stillWaits (s.copyCtx x) x.tile = false ∨ c.copy = none ∧ id = s.sched.nextId ∧ s.copy? id = none ∧ x = { s.rowCopy p c with order := id }) →
        x.kind = .porter core role →
        let cx := s.copyCtx x
        (∀ cause ea, s.range cx false x.src x.len = .bad cause ea → ∃ t q, exec (.porterCommandComplete core role) s = .next t ∧ lookup t.porters k = some q ∧ q.flt = true ∧ q.fcode = (engCode cause).code ∧ q.faddr = ea ∧ q.queue = []
            ∧ q.done = (p.done + p.queue.length) % 65536 ∧ t.mem = s.mem ∧ t.teams = s.teams)
        ∧ ∀ sp dp bs, s.range cx false x.src x.len = .here sp → s.readRange cx sp = .bytes bs → s.range cx true (x.dsts.headD 0) x.len = .here dp → s.waitTile cx dp = none →
            ∃ t q, exec (.porterCommandComplete core role) s = .next t ∧ t.copy? id = none ∧ lookup t.porters k = some q
              ∧ (c.row + 1 < c.nrow → q.queue = { c with row := c.row + 1, copy := none } :: r ∧ q.done = p.done ∧ q.flt = p.flt)
              ∧ (c.nrow ≤ c.row + 1 → c.cbend = 0 → q.queue = r ∧ q.done = (p.done + 1) % 65536 ∧ q.flt = p.flt)
              ∧ (c.row + 1 < c.nrow ∨ c.cbend = 0 → t.mem = (s.writePlaces cx dp bs).mem ∧ t.teams = (s.writePlaces cx dp bs).teams)
end

