-- ==== Sys2Proof/Laws/State.lean ====
section
/-! SUPPORT. One lemma for each field and each update of the state and of a group: what an update sets, and what it leaves. -/
namespace Sys2Proof.Machine

/-! ## Updates of the state -/

@[simp] theorem State.setGroup_cycle (s : State) (k : Nat) (g : Group) : (s.setGroup k g).cycle = s.cycle := rfl
@[simp] theorem State.setGroup_tick (s : State) (k : Nat) (g : Group) : (s.setGroup k g).tick = s.tick := rfl
@[simp] theorem State.setGroup_lateStores (s : State) (k : Nat) (g : Group) : (s.setGroup k g).lateStores = s.lateStores := rfl
@[simp] theorem State.setGroup_packet (s : State) (k : Nat) (g : Group) : (s.setGroup k g).packet = s.packet := rfl
@[simp] theorem State.setGroup_groups (s : State) (k : Nat) (g : Group) : (s.setGroup k g).groups = put s.groups k g := rfl
@[simp] theorem State.setGroup_teams (s : State) (k : Nat) (g : Group) : (s.setGroup k g).teams = s.teams := rfl
@[simp] theorem State.setGroup_gangs (s : State) (k : Nat) (g : Group) : (s.setGroup k g).gangs = s.gangs := rfl
@[simp] theorem State.setGroup_launches (s : State) (k : Nat) (g : Group) : (s.setGroup k g).launches = s.launches := rfl
@[simp] theorem State.setGroup_mem (s : State) (k : Nat) (g : Group) : (s.setGroup k g).mem = s.mem := rfl
@[simp] theorem State.setGroup_dev (s : State) (k : Nat) (g : Group) : (s.setGroup k g).dev = s.dev := rfl
@[simp] theorem State.setGroup_eng (s : State) (k : Nat) (g : Group) : (s.setGroup k g).eng = s.eng := rfl
@[simp] theorem State.setGroup_sched (s : State) (k : Nat) (g : Group) : (s.setGroup k g).sched = s.sched := rfl
@[simp] theorem State.setGroup_fab (s : State) (k : Nat) (g : Group) : (s.setGroup k g).fab = s.fab := rfl
@[simp] theorem State.setGroup_host (s : State) (k : Nat) (g : Group) : (s.setGroup k g).host = s.host := rfl
@[simp] theorem State.setGroup_porters (s : State) (k : Nat) (g : Group) : (s.setGroup k g).porters = s.porters := rfl
@[simp] theorem State.setGroup_issued (s : State) (k : Nat) (g : Group) : (s.setGroup k g).issued = s.issued := rfl
@[simp] theorem State.setGroup_loop (s : State) (k : Nat) (g : Group) : (s.setGroup k g).loop = s.loop := rfl
@[simp] theorem State.setGroup_inbox (s : State) (k : Nat) (g : Group) : (s.setGroup k g).inbox = s.inbox := rfl
@[simp] theorem State.setGroup_outbox (s : State) (k : Nat) (g : Group) : (s.setGroup k g).outbox = s.outbox := rfl
@[simp] theorem State.setGroup_wire (s : State) (k : Nat) (g : Group) : (s.setGroup k g).wire = s.wire := rfl
@[simp] theorem State.setGroup_sent (s : State) (k : Nat) (g : Group) : (s.setGroup k g).sent = s.sent := rfl
@[simp] theorem State.setTeam_cycle (s : State) (k : Nat) (t : Team) : (s.setTeam k t).cycle = s.cycle := rfl
@[simp] theorem State.setTeam_tick (s : State) (k : Nat) (t : Team) : (s.setTeam k t).tick = s.tick := rfl
@[simp] theorem State.setTeam_lateStores (s : State) (k : Nat) (t : Team) : (s.setTeam k t).lateStores = s.lateStores := rfl
@[simp] theorem State.setTeam_packet (s : State) (k : Nat) (t : Team) : (s.setTeam k t).packet = s.packet := rfl
@[simp] theorem State.setTeam_groups (s : State) (k : Nat) (t : Team) : (s.setTeam k t).groups = s.groups := rfl
@[simp] theorem State.setTeam_teams (s : State) (k : Nat) (t : Team) : (s.setTeam k t).teams = put s.teams k t := rfl
@[simp] theorem State.setTeam_gangs (s : State) (k : Nat) (t : Team) : (s.setTeam k t).gangs = s.gangs := rfl
@[simp] theorem State.setTeam_launches (s : State) (k : Nat) (t : Team) : (s.setTeam k t).launches = s.launches := rfl
@[simp] theorem State.setTeam_mem (s : State) (k : Nat) (t : Team) : (s.setTeam k t).mem = s.mem := rfl
@[simp] theorem State.setTeam_dev (s : State) (k : Nat) (t : Team) : (s.setTeam k t).dev = s.dev := rfl
@[simp] theorem State.setTeam_eng (s : State) (k : Nat) (t : Team) : (s.setTeam k t).eng = s.eng := rfl
@[simp] theorem State.setTeam_sched (s : State) (k : Nat) (t : Team) : (s.setTeam k t).sched = s.sched := rfl
@[simp] theorem State.setTeam_fab (s : State) (k : Nat) (t : Team) : (s.setTeam k t).fab = s.fab := rfl
@[simp] theorem State.setTeam_host (s : State) (k : Nat) (t : Team) : (s.setTeam k t).host = s.host := rfl
@[simp] theorem State.setTeam_porters (s : State) (k : Nat) (t : Team) : (s.setTeam k t).porters = s.porters := rfl
@[simp] theorem State.setTeam_issued (s : State) (k : Nat) (t : Team) : (s.setTeam k t).issued = s.issued := rfl
@[simp] theorem State.setTeam_loop (s : State) (k : Nat) (t : Team) : (s.setTeam k t).loop = s.loop := rfl
@[simp] theorem State.setTeam_inbox (s : State) (k : Nat) (t : Team) : (s.setTeam k t).inbox = s.inbox := rfl
@[simp] theorem State.setTeam_outbox (s : State) (k : Nat) (t : Team) : (s.setTeam k t).outbox = s.outbox := rfl
@[simp] theorem State.setTeam_wire (s : State) (k : Nat) (t : Team) : (s.setTeam k t).wire = s.wire := rfl
@[simp] theorem State.setTeam_sent (s : State) (k : Nat) (t : Team) : (s.setTeam k t).sent = s.sent := rfl
@[simp] theorem State.setGang_cycle (s : State) (k : Nat) (g : Gang) : (s.setGang k g).cycle = s.cycle := rfl
@[simp] theorem State.setGang_tick (s : State) (k : Nat) (g : Gang) : (s.setGang k g).tick = s.tick := rfl
@[simp] theorem State.setGang_lateStores (s : State) (k : Nat) (g : Gang) : (s.setGang k g).lateStores = s.lateStores := rfl
@[simp] theorem State.setGang_packet (s : State) (k : Nat) (g : Gang) : (s.setGang k g).packet = s.packet := rfl
@[simp] theorem State.setGang_groups (s : State) (k : Nat) (g : Gang) : (s.setGang k g).groups = s.groups := rfl
@[simp] theorem State.setGang_teams (s : State) (k : Nat) (g : Gang) : (s.setGang k g).teams = s.teams := rfl
@[simp] theorem State.setGang_gangs (s : State) (k : Nat) (g : Gang) : (s.setGang k g).gangs = put s.gangs k g := rfl
@[simp] theorem State.setGang_launches (s : State) (k : Nat) (g : Gang) : (s.setGang k g).launches = s.launches := rfl
@[simp] theorem State.setGang_mem (s : State) (k : Nat) (g : Gang) : (s.setGang k g).mem = s.mem := rfl
@[simp] theorem State.setGang_dev (s : State) (k : Nat) (g : Gang) : (s.setGang k g).dev = s.dev := rfl
@[simp] theorem State.setGang_eng (s : State) (k : Nat) (g : Gang) : (s.setGang k g).eng = s.eng := rfl
@[simp] theorem State.setGang_sched (s : State) (k : Nat) (g : Gang) : (s.setGang k g).sched = s.sched := rfl
@[simp] theorem State.setGang_fab (s : State) (k : Nat) (g : Gang) : (s.setGang k g).fab = s.fab := rfl
@[simp] theorem State.setGang_host (s : State) (k : Nat) (g : Gang) : (s.setGang k g).host = s.host := rfl
@[simp] theorem State.setGang_porters (s : State) (k : Nat) (g : Gang) : (s.setGang k g).porters = s.porters := rfl
@[simp] theorem State.setGang_issued (s : State) (k : Nat) (g : Gang) : (s.setGang k g).issued = s.issued := rfl
@[simp] theorem State.setGang_loop (s : State) (k : Nat) (g : Gang) : (s.setGang k g).loop = s.loop := rfl
@[simp] theorem State.setGang_inbox (s : State) (k : Nat) (g : Gang) : (s.setGang k g).inbox = s.inbox := rfl
@[simp] theorem State.setGang_outbox (s : State) (k : Nat) (g : Gang) : (s.setGang k g).outbox = s.outbox := rfl
@[simp] theorem State.setGang_wire (s : State) (k : Nat) (g : Gang) : (s.setGang k g).wire = s.wire := rfl
@[simp] theorem State.setGang_sent (s : State) (k : Nat) (g : Gang) : (s.setGang k g).sent = s.sent := rfl
@[simp] theorem State.setLaunch_cycle (s : State) (k : Nat) (l : Launch) : (s.setLaunch k l).cycle = s.cycle := rfl
@[simp] theorem State.setLaunch_tick (s : State) (k : Nat) (l : Launch) : (s.setLaunch k l).tick = s.tick := rfl
@[simp] theorem State.setLaunch_lateStores (s : State) (k : Nat) (l : Launch) : (s.setLaunch k l).lateStores = s.lateStores := rfl
@[simp] theorem State.setLaunch_packet (s : State) (k : Nat) (l : Launch) : (s.setLaunch k l).packet = s.packet := rfl
@[simp] theorem State.setLaunch_groups (s : State) (k : Nat) (l : Launch) : (s.setLaunch k l).groups = s.groups := rfl
@[simp] theorem State.setLaunch_teams (s : State) (k : Nat) (l : Launch) : (s.setLaunch k l).teams = s.teams := rfl
@[simp] theorem State.setLaunch_gangs (s : State) (k : Nat) (l : Launch) : (s.setLaunch k l).gangs = s.gangs := rfl
@[simp] theorem State.setLaunch_launches (s : State) (k : Nat) (l : Launch) : (s.setLaunch k l).launches = put s.launches k l := rfl
@[simp] theorem State.setLaunch_mem (s : State) (k : Nat) (l : Launch) : (s.setLaunch k l).mem = s.mem := rfl
@[simp] theorem State.setLaunch_dev (s : State) (k : Nat) (l : Launch) : (s.setLaunch k l).dev = s.dev := rfl
@[simp] theorem State.setLaunch_eng (s : State) (k : Nat) (l : Launch) : (s.setLaunch k l).eng = s.eng := rfl
@[simp] theorem State.setLaunch_sched (s : State) (k : Nat) (l : Launch) : (s.setLaunch k l).sched = s.sched := rfl
@[simp] theorem State.setLaunch_fab (s : State) (k : Nat) (l : Launch) : (s.setLaunch k l).fab = s.fab := rfl
@[simp] theorem State.setLaunch_host (s : State) (k : Nat) (l : Launch) : (s.setLaunch k l).host = s.host := rfl
@[simp] theorem State.setLaunch_porters (s : State) (k : Nat) (l : Launch) : (s.setLaunch k l).porters = s.porters := rfl
@[simp] theorem State.setLaunch_issued (s : State) (k : Nat) (l : Launch) : (s.setLaunch k l).issued = s.issued := rfl
@[simp] theorem State.setLaunch_loop (s : State) (k : Nat) (l : Launch) : (s.setLaunch k l).loop = s.loop := rfl
@[simp] theorem State.setLaunch_inbox (s : State) (k : Nat) (l : Launch) : (s.setLaunch k l).inbox = s.inbox := rfl
@[simp] theorem State.setLaunch_outbox (s : State) (k : Nat) (l : Launch) : (s.setLaunch k l).outbox = s.outbox := rfl
@[simp] theorem State.setLaunch_wire (s : State) (k : Nat) (l : Launch) : (s.setLaunch k l).wire = s.wire := rfl
@[simp] theorem State.setLaunch_sent (s : State) (k : Nat) (l : Launch) : (s.setLaunch k l).sent = s.sent := rfl
@[simp] theorem State.setPorter_cycle (s : State) (k : Nat) (p : Porter) : (s.setPorter k p).cycle = s.cycle := rfl
@[simp] theorem State.setPorter_tick (s : State) (k : Nat) (p : Porter) : (s.setPorter k p).tick = s.tick := rfl
@[simp] theorem State.setPorter_lateStores (s : State) (k : Nat) (p : Porter) : (s.setPorter k p).lateStores = s.lateStores := rfl
@[simp] theorem State.setPorter_packet (s : State) (k : Nat) (p : Porter) : (s.setPorter k p).packet = s.packet := rfl
@[simp] theorem State.setPorter_groups (s : State) (k : Nat) (p : Porter) : (s.setPorter k p).groups = s.groups := rfl
@[simp] theorem State.setPorter_teams (s : State) (k : Nat) (p : Porter) : (s.setPorter k p).teams = s.teams := rfl
@[simp] theorem State.setPorter_gangs (s : State) (k : Nat) (p : Porter) : (s.setPorter k p).gangs = s.gangs := rfl
@[simp] theorem State.setPorter_launches (s : State) (k : Nat) (p : Porter) : (s.setPorter k p).launches = s.launches := rfl
@[simp] theorem State.setPorter_mem (s : State) (k : Nat) (p : Porter) : (s.setPorter k p).mem = s.mem := rfl
@[simp] theorem State.setPorter_dev (s : State) (k : Nat) (p : Porter) : (s.setPorter k p).dev = s.dev := rfl
@[simp] theorem State.setPorter_eng (s : State) (k : Nat) (p : Porter) : (s.setPorter k p).eng = s.eng := rfl
@[simp] theorem State.setPorter_sched (s : State) (k : Nat) (p : Porter) : (s.setPorter k p).sched = s.sched := rfl
@[simp] theorem State.setPorter_fab (s : State) (k : Nat) (p : Porter) : (s.setPorter k p).fab = s.fab := rfl
@[simp] theorem State.setPorter_host (s : State) (k : Nat) (p : Porter) : (s.setPorter k p).host = s.host := rfl
@[simp] theorem State.setPorter_porters (s : State) (k : Nat) (p : Porter) : (s.setPorter k p).porters = put s.porters k p := rfl
@[simp] theorem State.setPorter_issued (s : State) (k : Nat) (p : Porter) : (s.setPorter k p).issued = s.issued := rfl
@[simp] theorem State.setPorter_loop (s : State) (k : Nat) (p : Porter) : (s.setPorter k p).loop = s.loop := rfl
@[simp] theorem State.setPorter_inbox (s : State) (k : Nat) (p : Porter) : (s.setPorter k p).inbox = s.inbox := rfl
@[simp] theorem State.setPorter_outbox (s : State) (k : Nat) (p : Porter) : (s.setPorter k p).outbox = s.outbox := rfl
@[simp] theorem State.setPorter_wire (s : State) (k : Nat) (p : Porter) : (s.setPorter k p).wire = s.wire := rfl
@[simp] theorem State.setPorter_sent (s : State) (k : Nat) (p : Porter) : (s.setPorter k p).sent = s.sent := rfl
@[simp] theorem State.setTile_cycle (s : State) (k : Nat) (t : Tile) : (s.setTile k t).cycle = s.cycle := rfl
@[simp] theorem State.setTile_tick (s : State) (k : Nat) (t : Tile) : (s.setTile k t).tick = s.tick := rfl
@[simp] theorem State.setTile_lateStores (s : State) (k : Nat) (t : Tile) : (s.setTile k t).lateStores = s.lateStores := rfl
@[simp] theorem State.setTile_packet (s : State) (k : Nat) (t : Tile) : (s.setTile k t).packet = s.packet := rfl
@[simp] theorem State.setTile_groups (s : State) (k : Nat) (t : Tile) : (s.setTile k t).groups = s.groups := rfl
@[simp] theorem State.setTile_teams (s : State) (k : Nat) (t : Tile) : (s.setTile k t).teams = s.teams := rfl
@[simp] theorem State.setTile_gangs (s : State) (k : Nat) (t : Tile) : (s.setTile k t).gangs = s.gangs := rfl
@[simp] theorem State.setTile_launches (s : State) (k : Nat) (t : Tile) : (s.setTile k t).launches = s.launches := rfl
@[simp] theorem State.setTile_mem_hbm (s : State) (k : Nat) (t : Tile) : (s.setTile k t).mem.hbm = s.mem.hbm := rfl
@[simp] theorem State.setTile_mem_checks (s : State) (k : Nat) (t : Tile) : (s.setTile k t).mem.checks = s.mem.checks := rfl
@[simp] theorem State.setTile_mem_badWords (s : State) (k : Nat) (t : Tile) : (s.setTile k t).mem.badWords = s.mem.badWords := rfl
@[simp] theorem State.setTile_mem_l1bad (s : State) (k : Nat) (t : Tile) : (s.setTile k t).mem.l1bad = s.mem.l1bad := rfl
@[simp] theorem State.setTile_mem_pages (s : State) (k : Nat) (t : Tile) : (s.setTile k t).mem.pages = s.mem.pages := rfl
@[simp] theorem State.setTile_mem_l1dirty (s : State) (k : Nat) (t : Tile) : (s.setTile k t).mem.l1dirty = s.mem.l1dirty := rfl
@[simp] theorem State.setTile_mem_storeQ (s : State) (k : Nat) (t : Tile) : (s.setTile k t).mem.storeQ = s.mem.storeQ := rfl
@[simp] theorem State.setTile_mem_tiles (s : State) (k : Nat) (t : Tile) : (s.setTile k t).mem.tiles = put s.mem.tiles k t := rfl
@[simp] theorem State.setTile_dev (s : State) (k : Nat) (t : Tile) : (s.setTile k t).dev = s.dev := rfl
@[simp] theorem State.setTile_eng (s : State) (k : Nat) (t : Tile) : (s.setTile k t).eng = s.eng := rfl
@[simp] theorem State.setTile_sched (s : State) (k : Nat) (t : Tile) : (s.setTile k t).sched = s.sched := rfl
@[simp] theorem State.setTile_fab (s : State) (k : Nat) (t : Tile) : (s.setTile k t).fab = s.fab := rfl
@[simp] theorem State.setTile_host (s : State) (k : Nat) (t : Tile) : (s.setTile k t).host = s.host := rfl
@[simp] theorem State.setTile_porters (s : State) (k : Nat) (t : Tile) : (s.setTile k t).porters = s.porters := rfl
@[simp] theorem State.setTile_issued (s : State) (k : Nat) (t : Tile) : (s.setTile k t).issued = s.issued := rfl
@[simp] theorem State.setTile_loop (s : State) (k : Nat) (t : Tile) : (s.setTile k t).loop = s.loop := rfl
@[simp] theorem State.setTile_inbox (s : State) (k : Nat) (t : Tile) : (s.setTile k t).inbox = s.inbox := rfl
@[simp] theorem State.setTile_outbox (s : State) (k : Nat) (t : Tile) : (s.setTile k t).outbox = s.outbox := rfl
@[simp] theorem State.setTile_wire (s : State) (k : Nat) (t : Tile) : (s.setTile k t).wire = s.wire := rfl
@[simp] theorem State.setTile_sent (s : State) (k : Nat) (t : Tile) : (s.setTile k t).sent = s.sent := rfl
@[simp] theorem State.setCopy_cycle (s : State) (k : Nat) (c : Copy) : (s.setCopy k c).cycle = s.cycle := rfl
@[simp] theorem State.setCopy_tick (s : State) (k : Nat) (c : Copy) : (s.setCopy k c).tick = s.tick := rfl
@[simp] theorem State.setCopy_lateStores (s : State) (k : Nat) (c : Copy) : (s.setCopy k c).lateStores = s.lateStores := rfl
@[simp] theorem State.setCopy_packet (s : State) (k : Nat) (c : Copy) : (s.setCopy k c).packet = s.packet := rfl
@[simp] theorem State.setCopy_groups (s : State) (k : Nat) (c : Copy) : (s.setCopy k c).groups = s.groups := rfl
@[simp] theorem State.setCopy_teams (s : State) (k : Nat) (c : Copy) : (s.setCopy k c).teams = s.teams := rfl
@[simp] theorem State.setCopy_gangs (s : State) (k : Nat) (c : Copy) : (s.setCopy k c).gangs = s.gangs := rfl
@[simp] theorem State.setCopy_launches (s : State) (k : Nat) (c : Copy) : (s.setCopy k c).launches = s.launches := rfl
@[simp] theorem State.setCopy_mem (s : State) (k : Nat) (c : Copy) : (s.setCopy k c).mem = s.mem := rfl
@[simp] theorem State.setCopy_dev (s : State) (k : Nat) (c : Copy) : (s.setCopy k c).dev = s.dev := rfl
@[simp] theorem State.setCopy_eng_acc (s : State) (k : Nat) (c : Copy) : (s.setCopy k c).eng.acc = s.eng.acc := rfl
@[simp] theorem State.setCopy_eng_badAcc (s : State) (k : Nat) (c : Copy) : (s.setCopy k c).eng.badAcc = s.eng.badAcc := rfl
@[simp] theorem State.setCopy_eng_accUsers (s : State) (k : Nat) (c : Copy) : (s.setCopy k c).eng.accUsers = s.eng.accUsers := rfl
@[simp] theorem State.setCopy_eng_cmds (s : State) (k : Nat) (c : Copy) : (s.setCopy k c).eng.cmds = s.eng.cmds := rfl
@[simp] theorem State.setCopy_eng_clusters (s : State) (k : Nat) (c : Copy) : (s.setCopy k c).eng.clusters = s.eng.clusters := rfl
@[simp] theorem State.setCopy_eng_solvers (s : State) (k : Nat) (c : Copy) : (s.setCopy k c).eng.solvers = s.eng.solvers := rfl
@[simp] theorem State.setCopy_eng_sorters (s : State) (k : Nat) (c : Copy) : (s.setCopy k c).eng.sorters = s.eng.sorters := rfl
@[simp] theorem State.setCopy_eng_copies (s : State) (k : Nat) (c : Copy) : (s.setCopy k c).eng.copies = put s.eng.copies k c := rfl
@[simp] theorem State.setCopy_eng_pushes (s : State) (k : Nat) (c : Copy) : (s.setCopy k c).eng.pushes = s.eng.pushes := rfl
@[simp] theorem State.setCopy_eng_colls (s : State) (k : Nat) (c : Copy) : (s.setCopy k c).eng.colls = s.eng.colls := rfl
@[simp] theorem State.setCopy_eng_withdrawn (s : State) (k : Nat) (c : Copy) : (s.setCopy k c).eng.withdrawn = s.eng.withdrawn := rfl
@[simp] theorem State.setCopy_eng_staged (s : State) (k : Nat) (c : Copy) : (s.setCopy k c).eng.staged = s.eng.staged := rfl
@[simp] theorem State.setCopy_eng_lates (s : State) (k : Nat) (c : Copy) : (s.setCopy k c).eng.lates = s.eng.lates := rfl
@[simp] theorem State.setCopy_eng_rounds (s : State) (k : Nat) (c : Copy) : (s.setCopy k c).eng.rounds = s.eng.rounds := rfl
@[simp] theorem State.setCopy_eng_cbufq (s : State) (k : Nat) (c : Copy) : (s.setCopy k c).eng.cbufq = s.eng.cbufq := rfl
@[simp] theorem State.setCopy_sched (s : State) (k : Nat) (c : Copy) : (s.setCopy k c).sched = s.sched := rfl
@[simp] theorem State.setCopy_fab (s : State) (k : Nat) (c : Copy) : (s.setCopy k c).fab = s.fab := rfl
@[simp] theorem State.setCopy_host (s : State) (k : Nat) (c : Copy) : (s.setCopy k c).host = s.host := rfl
@[simp] theorem State.setCopy_porters (s : State) (k : Nat) (c : Copy) : (s.setCopy k c).porters = s.porters := rfl
@[simp] theorem State.setCopy_issued (s : State) (k : Nat) (c : Copy) : (s.setCopy k c).issued = s.issued := rfl
@[simp] theorem State.setCopy_loop (s : State) (k : Nat) (c : Copy) : (s.setCopy k c).loop = s.loop := rfl
@[simp] theorem State.setCopy_inbox (s : State) (k : Nat) (c : Copy) : (s.setCopy k c).inbox = s.inbox := rfl
@[simp] theorem State.setCopy_outbox (s : State) (k : Nat) (c : Copy) : (s.setCopy k c).outbox = s.outbox := rfl
@[simp] theorem State.setCopy_wire (s : State) (k : Nat) (c : Copy) : (s.setCopy k c).wire = s.wire := rfl
@[simp] theorem State.setCopy_sent (s : State) (k : Nat) (c : Copy) : (s.setCopy k c).sent = s.sent := rfl
@[simp] theorem State.setCmd_cycle (s : State) (k : Nat) (c : Cmd) : (s.setCmd k c).cycle = s.cycle := rfl
@[simp] theorem State.setCmd_tick (s : State) (k : Nat) (c : Cmd) : (s.setCmd k c).tick = s.tick := rfl
@[simp] theorem State.setCmd_lateStores (s : State) (k : Nat) (c : Cmd) : (s.setCmd k c).lateStores = s.lateStores := rfl
@[simp] theorem State.setCmd_packet (s : State) (k : Nat) (c : Cmd) : (s.setCmd k c).packet = s.packet := rfl
@[simp] theorem State.setCmd_groups (s : State) (k : Nat) (c : Cmd) : (s.setCmd k c).groups = s.groups := rfl
@[simp] theorem State.setCmd_teams (s : State) (k : Nat) (c : Cmd) : (s.setCmd k c).teams = s.teams := rfl
@[simp] theorem State.setCmd_gangs (s : State) (k : Nat) (c : Cmd) : (s.setCmd k c).gangs = s.gangs := rfl
@[simp] theorem State.setCmd_launches (s : State) (k : Nat) (c : Cmd) : (s.setCmd k c).launches = s.launches := rfl
@[simp] theorem State.setCmd_mem (s : State) (k : Nat) (c : Cmd) : (s.setCmd k c).mem = s.mem := rfl
@[simp] theorem State.setCmd_dev (s : State) (k : Nat) (c : Cmd) : (s.setCmd k c).dev = s.dev := rfl
@[simp] theorem State.setCmd_eng_acc (s : State) (k : Nat) (c : Cmd) : (s.setCmd k c).eng.acc = s.eng.acc := rfl
@[simp] theorem State.setCmd_eng_badAcc (s : State) (k : Nat) (c : Cmd) : (s.setCmd k c).eng.badAcc = s.eng.badAcc := rfl
@[simp] theorem State.setCmd_eng_accUsers (s : State) (k : Nat) (c : Cmd) : (s.setCmd k c).eng.accUsers = s.eng.accUsers := rfl
@[simp] theorem State.setCmd_eng_cmds (s : State) (k : Nat) (c : Cmd) : (s.setCmd k c).eng.cmds = put s.eng.cmds k c := rfl
@[simp] theorem State.setCmd_eng_clusters (s : State) (k : Nat) (c : Cmd) : (s.setCmd k c).eng.clusters = s.eng.clusters := rfl
@[simp] theorem State.setCmd_eng_solvers (s : State) (k : Nat) (c : Cmd) : (s.setCmd k c).eng.solvers = s.eng.solvers := rfl
@[simp] theorem State.setCmd_eng_sorters (s : State) (k : Nat) (c : Cmd) : (s.setCmd k c).eng.sorters = s.eng.sorters := rfl
@[simp] theorem State.setCmd_eng_copies (s : State) (k : Nat) (c : Cmd) : (s.setCmd k c).eng.copies = s.eng.copies := rfl
@[simp] theorem State.setCmd_eng_pushes (s : State) (k : Nat) (c : Cmd) : (s.setCmd k c).eng.pushes = s.eng.pushes := rfl
@[simp] theorem State.setCmd_eng_colls (s : State) (k : Nat) (c : Cmd) : (s.setCmd k c).eng.colls = s.eng.colls := rfl
@[simp] theorem State.setCmd_eng_withdrawn (s : State) (k : Nat) (c : Cmd) : (s.setCmd k c).eng.withdrawn = s.eng.withdrawn := rfl
@[simp] theorem State.setCmd_eng_staged (s : State) (k : Nat) (c : Cmd) : (s.setCmd k c).eng.staged = s.eng.staged := rfl
@[simp] theorem State.setCmd_eng_lates (s : State) (k : Nat) (c : Cmd) : (s.setCmd k c).eng.lates = s.eng.lates := rfl
@[simp] theorem State.setCmd_eng_rounds (s : State) (k : Nat) (c : Cmd) : (s.setCmd k c).eng.rounds = s.eng.rounds := rfl
@[simp] theorem State.setCmd_eng_cbufq (s : State) (k : Nat) (c : Cmd) : (s.setCmd k c).eng.cbufq = s.eng.cbufq := rfl
@[simp] theorem State.setCmd_sched (s : State) (k : Nat) (c : Cmd) : (s.setCmd k c).sched = s.sched := rfl
@[simp] theorem State.setCmd_fab (s : State) (k : Nat) (c : Cmd) : (s.setCmd k c).fab = s.fab := rfl
@[simp] theorem State.setCmd_host (s : State) (k : Nat) (c : Cmd) : (s.setCmd k c).host = s.host := rfl
@[simp] theorem State.setCmd_porters (s : State) (k : Nat) (c : Cmd) : (s.setCmd k c).porters = s.porters := rfl
@[simp] theorem State.setCmd_issued (s : State) (k : Nat) (c : Cmd) : (s.setCmd k c).issued = s.issued := rfl
@[simp] theorem State.setCmd_loop (s : State) (k : Nat) (c : Cmd) : (s.setCmd k c).loop = s.loop := rfl
@[simp] theorem State.setCmd_inbox (s : State) (k : Nat) (c : Cmd) : (s.setCmd k c).inbox = s.inbox := rfl
@[simp] theorem State.setCmd_outbox (s : State) (k : Nat) (c : Cmd) : (s.setCmd k c).outbox = s.outbox := rfl
@[simp] theorem State.setCmd_wire (s : State) (k : Nat) (c : Cmd) : (s.setCmd k c).wire = s.wire := rfl
@[simp] theorem State.setCmd_sent (s : State) (k : Nat) (c : Cmd) : (s.setCmd k c).sent = s.sent := rfl
@[simp] theorem State.setCluster_cycle (s : State) (k : Nat) (c : Cluster) : (s.setCluster k c).cycle = s.cycle := rfl
@[simp] theorem State.setCluster_tick (s : State) (k : Nat) (c : Cluster) : (s.setCluster k c).tick = s.tick := rfl
@[simp] theorem State.setCluster_lateStores (s : State) (k : Nat) (c : Cluster) : (s.setCluster k c).lateStores = s.lateStores := rfl
@[simp] theorem State.setCluster_packet (s : State) (k : Nat) (c : Cluster) : (s.setCluster k c).packet = s.packet := rfl
@[simp] theorem State.setCluster_groups (s : State) (k : Nat) (c : Cluster) : (s.setCluster k c).groups = s.groups := rfl
@[simp] theorem State.setCluster_teams (s : State) (k : Nat) (c : Cluster) : (s.setCluster k c).teams = s.teams := rfl
@[simp] theorem State.setCluster_gangs (s : State) (k : Nat) (c : Cluster) : (s.setCluster k c).gangs = s.gangs := rfl
@[simp] theorem State.setCluster_launches (s : State) (k : Nat) (c : Cluster) : (s.setCluster k c).launches = s.launches := rfl
@[simp] theorem State.setCluster_mem (s : State) (k : Nat) (c : Cluster) : (s.setCluster k c).mem = s.mem := rfl
@[simp] theorem State.setCluster_dev (s : State) (k : Nat) (c : Cluster) : (s.setCluster k c).dev = s.dev := rfl
@[simp] theorem State.setCluster_eng_acc (s : State) (k : Nat) (c : Cluster) : (s.setCluster k c).eng.acc = s.eng.acc := rfl
@[simp] theorem State.setCluster_eng_badAcc (s : State) (k : Nat) (c : Cluster) : (s.setCluster k c).eng.badAcc = s.eng.badAcc := rfl
@[simp] theorem State.setCluster_eng_accUsers (s : State) (k : Nat) (c : Cluster) : (s.setCluster k c).eng.accUsers = s.eng.accUsers := rfl
@[simp] theorem State.setCluster_eng_cmds (s : State) (k : Nat) (c : Cluster) : (s.setCluster k c).eng.cmds = s.eng.cmds := rfl
@[simp] theorem State.setCluster_eng_clusters (s : State) (k : Nat) (c : Cluster) : (s.setCluster k c).eng.clusters = put s.eng.clusters k c := rfl
@[simp] theorem State.setCluster_eng_solvers (s : State) (k : Nat) (c : Cluster) : (s.setCluster k c).eng.solvers = s.eng.solvers := rfl
@[simp] theorem State.setCluster_eng_sorters (s : State) (k : Nat) (c : Cluster) : (s.setCluster k c).eng.sorters = s.eng.sorters := rfl
@[simp] theorem State.setCluster_eng_copies (s : State) (k : Nat) (c : Cluster) : (s.setCluster k c).eng.copies = s.eng.copies := rfl
@[simp] theorem State.setCluster_eng_pushes (s : State) (k : Nat) (c : Cluster) : (s.setCluster k c).eng.pushes = s.eng.pushes := rfl
@[simp] theorem State.setCluster_eng_colls (s : State) (k : Nat) (c : Cluster) : (s.setCluster k c).eng.colls = s.eng.colls := rfl
@[simp] theorem State.setCluster_eng_withdrawn (s : State) (k : Nat) (c : Cluster) : (s.setCluster k c).eng.withdrawn = s.eng.withdrawn := rfl
@[simp] theorem State.setCluster_eng_staged (s : State) (k : Nat) (c : Cluster) : (s.setCluster k c).eng.staged = s.eng.staged := rfl
@[simp] theorem State.setCluster_eng_lates (s : State) (k : Nat) (c : Cluster) : (s.setCluster k c).eng.lates = s.eng.lates := rfl
@[simp] theorem State.setCluster_eng_rounds (s : State) (k : Nat) (c : Cluster) : (s.setCluster k c).eng.rounds = s.eng.rounds := rfl
@[simp] theorem State.setCluster_eng_cbufq (s : State) (k : Nat) (c : Cluster) : (s.setCluster k c).eng.cbufq = s.eng.cbufq := rfl
@[simp] theorem State.setCluster_sched (s : State) (k : Nat) (c : Cluster) : (s.setCluster k c).sched = s.sched := rfl
@[simp] theorem State.setCluster_fab (s : State) (k : Nat) (c : Cluster) : (s.setCluster k c).fab = s.fab := rfl
@[simp] theorem State.setCluster_host (s : State) (k : Nat) (c : Cluster) : (s.setCluster k c).host = s.host := rfl
@[simp] theorem State.setCluster_porters (s : State) (k : Nat) (c : Cluster) : (s.setCluster k c).porters = s.porters := rfl
@[simp] theorem State.setCluster_issued (s : State) (k : Nat) (c : Cluster) : (s.setCluster k c).issued = s.issued := rfl
@[simp] theorem State.setCluster_loop (s : State) (k : Nat) (c : Cluster) : (s.setCluster k c).loop = s.loop := rfl
@[simp] theorem State.setCluster_inbox (s : State) (k : Nat) (c : Cluster) : (s.setCluster k c).inbox = s.inbox := rfl
@[simp] theorem State.setCluster_outbox (s : State) (k : Nat) (c : Cluster) : (s.setCluster k c).outbox = s.outbox := rfl
@[simp] theorem State.setCluster_wire (s : State) (k : Nat) (c : Cluster) : (s.setCluster k c).wire = s.wire := rfl
@[simp] theorem State.setCluster_sent (s : State) (k : Nat) (c : Cluster) : (s.setCluster k c).sent = s.sent := rfl
@[simp] theorem State.setColl_cycle (s : State) (k : DWord) (x : Collective) : (s.setColl k x).cycle = s.cycle := rfl
@[simp] theorem State.setColl_tick (s : State) (k : DWord) (x : Collective) : (s.setColl k x).tick = s.tick := rfl
@[simp] theorem State.setColl_lateStores (s : State) (k : DWord) (x : Collective) : (s.setColl k x).lateStores = s.lateStores := rfl
@[simp] theorem State.setColl_packet (s : State) (k : DWord) (x : Collective) : (s.setColl k x).packet = s.packet := rfl
@[simp] theorem State.setColl_groups (s : State) (k : DWord) (x : Collective) : (s.setColl k x).groups = s.groups := rfl
@[simp] theorem State.setColl_teams (s : State) (k : DWord) (x : Collective) : (s.setColl k x).teams = s.teams := rfl
@[simp] theorem State.setColl_gangs (s : State) (k : DWord) (x : Collective) : (s.setColl k x).gangs = s.gangs := rfl
@[simp] theorem State.setColl_launches (s : State) (k : DWord) (x : Collective) : (s.setColl k x).launches = s.launches := rfl
@[simp] theorem State.setColl_mem (s : State) (k : DWord) (x : Collective) : (s.setColl k x).mem = s.mem := rfl
@[simp] theorem State.setColl_dev (s : State) (k : DWord) (x : Collective) : (s.setColl k x).dev = s.dev := rfl
@[simp] theorem State.setColl_eng_acc (s : State) (k : DWord) (x : Collective) : (s.setColl k x).eng.acc = s.eng.acc := rfl
@[simp] theorem State.setColl_eng_badAcc (s : State) (k : DWord) (x : Collective) : (s.setColl k x).eng.badAcc = s.eng.badAcc := rfl
@[simp] theorem State.setColl_eng_accUsers (s : State) (k : DWord) (x : Collective) : (s.setColl k x).eng.accUsers = s.eng.accUsers := rfl
@[simp] theorem State.setColl_eng_cmds (s : State) (k : DWord) (x : Collective) : (s.setColl k x).eng.cmds = s.eng.cmds := rfl
@[simp] theorem State.setColl_eng_clusters (s : State) (k : DWord) (x : Collective) : (s.setColl k x).eng.clusters = s.eng.clusters := rfl
@[simp] theorem State.setColl_eng_solvers (s : State) (k : DWord) (x : Collective) : (s.setColl k x).eng.solvers = s.eng.solvers := rfl
@[simp] theorem State.setColl_eng_sorters (s : State) (k : DWord) (x : Collective) : (s.setColl k x).eng.sorters = s.eng.sorters := rfl
@[simp] theorem State.setColl_eng_copies (s : State) (k : DWord) (x : Collective) : (s.setColl k x).eng.copies = s.eng.copies := rfl
@[simp] theorem State.setColl_eng_pushes (s : State) (k : DWord) (x : Collective) : (s.setColl k x).eng.pushes = s.eng.pushes := rfl
@[simp] theorem State.setColl_eng_colls (s : State) (k : DWord) (x : Collective) : (s.setColl k x).eng.colls = (s.eng.colls.filter fun y => y.1 != k) ++ [(k, x)] := rfl
@[simp] theorem State.setColl_eng_withdrawn (s : State) (k : DWord) (x : Collective) : (s.setColl k x).eng.withdrawn = s.eng.withdrawn := rfl
@[simp] theorem State.setColl_eng_staged (s : State) (k : DWord) (x : Collective) : (s.setColl k x).eng.staged = s.eng.staged := rfl
@[simp] theorem State.setColl_eng_lates (s : State) (k : DWord) (x : Collective) : (s.setColl k x).eng.lates = s.eng.lates := rfl
@[simp] theorem State.setColl_eng_rounds (s : State) (k : DWord) (x : Collective) : (s.setColl k x).eng.rounds = s.eng.rounds := rfl
@[simp] theorem State.setColl_eng_cbufq (s : State) (k : DWord) (x : Collective) : (s.setColl k x).eng.cbufq = s.eng.cbufq := rfl
@[simp] theorem State.setColl_sched (s : State) (k : DWord) (x : Collective) : (s.setColl k x).sched = s.sched := rfl
@[simp] theorem State.setColl_fab (s : State) (k : DWord) (x : Collective) : (s.setColl k x).fab = s.fab := rfl
@[simp] theorem State.setColl_host (s : State) (k : DWord) (x : Collective) : (s.setColl k x).host = s.host := rfl
@[simp] theorem State.setColl_porters (s : State) (k : DWord) (x : Collective) : (s.setColl k x).porters = s.porters := rfl
@[simp] theorem State.setColl_issued (s : State) (k : DWord) (x : Collective) : (s.setColl k x).issued = s.issued := rfl
@[simp] theorem State.setColl_loop (s : State) (k : DWord) (x : Collective) : (s.setColl k x).loop = s.loop := rfl
@[simp] theorem State.setColl_inbox (s : State) (k : DWord) (x : Collective) : (s.setColl k x).inbox = s.inbox := rfl
@[simp] theorem State.setColl_outbox (s : State) (k : DWord) (x : Collective) : (s.setColl k x).outbox = s.outbox := rfl
@[simp] theorem State.setColl_wire (s : State) (k : DWord) (x : Collective) : (s.setColl k x).wire = s.wire := rfl
@[simp] theorem State.setColl_sent (s : State) (k : DWord) (x : Collective) : (s.setColl k x).sent = s.sent := rfl
@[simp] theorem State.setClaim_cycle (s : State) (k : Nat) (c : ClaimSlot) : (s.setClaim k c).cycle = s.cycle := rfl
@[simp] theorem State.setClaim_tick (s : State) (k : Nat) (c : ClaimSlot) : (s.setClaim k c).tick = s.tick := rfl
@[simp] theorem State.setClaim_lateStores (s : State) (k : Nat) (c : ClaimSlot) : (s.setClaim k c).lateStores = s.lateStores := rfl
@[simp] theorem State.setClaim_packet (s : State) (k : Nat) (c : ClaimSlot) : (s.setClaim k c).packet = s.packet := rfl
@[simp] theorem State.setClaim_groups (s : State) (k : Nat) (c : ClaimSlot) : (s.setClaim k c).groups = s.groups := rfl
@[simp] theorem State.setClaim_teams (s : State) (k : Nat) (c : ClaimSlot) : (s.setClaim k c).teams = s.teams := rfl
@[simp] theorem State.setClaim_gangs (s : State) (k : Nat) (c : ClaimSlot) : (s.setClaim k c).gangs = s.gangs := rfl
@[simp] theorem State.setClaim_launches (s : State) (k : Nat) (c : ClaimSlot) : (s.setClaim k c).launches = s.launches := rfl
@[simp] theorem State.setClaim_mem_hbm (s : State) (k : Nat) (c : ClaimSlot) : (s.setClaim k c).mem.hbm = cellsWrite s.mem.hbm (claimPa k) (c.entry s.tick) := rfl
@[simp] theorem State.setClaim_mem_checks (s : State) (k : Nat) (c : ClaimSlot) : (s.setClaim k c).mem.checks = s.mem.checks := rfl
@[simp] theorem State.setClaim_mem_badWords (s : State) (k : Nat) (c : ClaimSlot) : (s.setClaim k c).mem.badWords = s.mem.badWords := rfl
@[simp] theorem State.setClaim_mem_l1bad (s : State) (k : Nat) (c : ClaimSlot) : (s.setClaim k c).mem.l1bad = s.mem.l1bad := rfl
@[simp] theorem State.setClaim_mem_pages (s : State) (k : Nat) (c : ClaimSlot) : (s.setClaim k c).mem.pages = s.mem.pages := rfl
@[simp] theorem State.setClaim_mem_l1dirty (s : State) (k : Nat) (c : ClaimSlot) : (s.setClaim k c).mem.l1dirty = s.mem.l1dirty := rfl
@[simp] theorem State.setClaim_mem_storeQ (s : State) (k : Nat) (c : ClaimSlot) : (s.setClaim k c).mem.storeQ = s.mem.storeQ := rfl
@[simp] theorem State.setClaim_mem_tiles (s : State) (k : Nat) (c : ClaimSlot) : (s.setClaim k c).mem.tiles = s.mem.tiles := rfl
@[simp] theorem State.setClaim_dev (s : State) (k : Nat) (c : ClaimSlot) : (s.setClaim k c).dev = s.dev := rfl
@[simp] theorem State.setClaim_eng (s : State) (k : Nat) (c : ClaimSlot) : (s.setClaim k c).eng = s.eng := rfl
@[simp] theorem State.setClaim_sched (s : State) (k : Nat) (c : ClaimSlot) : (s.setClaim k c).sched = s.sched := rfl
@[simp] theorem State.setClaim_fab_devNum (s : State) (k : Nat) (c : ClaimSlot) : (s.setClaim k c).fab.devNum = s.fab.devNum := rfl
@[simp] theorem State.setClaim_fab_incarnation (s : State) (k : Nat) (c : ClaimSlot) : (s.setClaim k c).fab.incarnation = s.fab.incarnation := rfl
@[simp] theorem State.setClaim_fab_claims (s : State) (k : Nat) (c : ClaimSlot) : (s.setClaim k c).fab.claims = put s.fab.claims k c := rfl
@[simp] theorem State.setClaim_fab_queued (s : State) (k : Nat) (c : ClaimSlot) : (s.setClaim k c).fab.queued = s.fab.queued := rfl
@[simp] theorem State.setClaim_fab_reqs (s : State) (k : Nat) (c : ClaimSlot) : (s.setClaim k c).fab.reqs = s.fab.reqs := rfl
@[simp] theorem State.setClaim_fab_nextTag (s : State) (k : Nat) (c : ClaimSlot) : (s.setClaim k c).fab.nextTag = s.fab.nextTag := rfl
@[simp] theorem State.setClaim_fab_routes (s : State) (k : Nat) (c : ClaimSlot) : (s.setClaim k c).fab.routes = s.fab.routes := rfl
@[simp] theorem State.setClaim_fab_lost (s : State) (k : Nat) (c : ClaimSlot) : (s.setClaim k c).fab.lost = s.fab.lost := rfl
@[simp] theorem State.setClaim_fab_links (s : State) (k : Nat) (c : ClaimSlot) : (s.setClaim k c).fab.links = s.fab.links := rfl
@[simp] theorem State.setClaim_fab_ends (s : State) (k : Nat) (c : ClaimSlot) : (s.setClaim k c).fab.ends = s.fab.ends := rfl
@[simp] theorem State.setClaim_fab_sendSeq (s : State) (k : Nat) (c : ClaimSlot) : (s.setClaim k c).fab.sendSeq = s.fab.sendSeq := rfl
@[simp] theorem State.setClaim_fab_held (s : State) (k : Nat) (c : ClaimSlot) : (s.setClaim k c).fab.held = s.fab.held := rfl
@[simp] theorem State.setClaim_host (s : State) (k : Nat) (c : ClaimSlot) : (s.setClaim k c).host = s.host := rfl
@[simp] theorem State.setClaim_porters (s : State) (k : Nat) (c : ClaimSlot) : (s.setClaim k c).porters = s.porters := rfl
@[simp] theorem State.setClaim_issued (s : State) (k : Nat) (c : ClaimSlot) : (s.setClaim k c).issued = s.issued := rfl
@[simp] theorem State.setClaim_loop (s : State) (k : Nat) (c : ClaimSlot) : (s.setClaim k c).loop = s.loop := rfl
@[simp] theorem State.setClaim_inbox (s : State) (k : Nat) (c : ClaimSlot) : (s.setClaim k c).inbox = s.inbox := rfl
@[simp] theorem State.setClaim_outbox (s : State) (k : Nat) (c : ClaimSlot) : (s.setClaim k c).outbox = s.outbox := rfl
@[simp] theorem State.setClaim_wire (s : State) (k : Nat) (c : ClaimSlot) : (s.setClaim k c).wire = s.wire := rfl
@[simp] theorem State.setClaim_sent (s : State) (k : Nat) (c : ClaimSlot) : (s.setClaim k c).sent = s.sent := rfl
@[simp] theorem State.setLink_cycle (s : State) (k : Nat) (l : Link) : (s.setLink k l).cycle = s.cycle := rfl
@[simp] theorem State.setLink_tick (s : State) (k : Nat) (l : Link) : (s.setLink k l).tick = s.tick := rfl
@[simp] theorem State.setLink_lateStores (s : State) (k : Nat) (l : Link) : (s.setLink k l).lateStores = s.lateStores := rfl
@[simp] theorem State.setLink_packet (s : State) (k : Nat) (l : Link) : (s.setLink k l).packet = s.packet := rfl
@[simp] theorem State.setLink_groups (s : State) (k : Nat) (l : Link) : (s.setLink k l).groups = s.groups := rfl
@[simp] theorem State.setLink_teams (s : State) (k : Nat) (l : Link) : (s.setLink k l).teams = s.teams := rfl
@[simp] theorem State.setLink_gangs (s : State) (k : Nat) (l : Link) : (s.setLink k l).gangs = s.gangs := rfl
@[simp] theorem State.setLink_launches (s : State) (k : Nat) (l : Link) : (s.setLink k l).launches = s.launches := rfl
@[simp] theorem State.setLink_mem (s : State) (k : Nat) (l : Link) : (s.setLink k l).mem = s.mem := rfl
@[simp] theorem State.setLink_dev (s : State) (k : Nat) (l : Link) : (s.setLink k l).dev = s.dev := rfl
@[simp] theorem State.setLink_eng (s : State) (k : Nat) (l : Link) : (s.setLink k l).eng = s.eng := rfl
@[simp] theorem State.setLink_sched (s : State) (k : Nat) (l : Link) : (s.setLink k l).sched = s.sched := rfl
@[simp] theorem State.setLink_fab_devNum (s : State) (k : Nat) (l : Link) : (s.setLink k l).fab.devNum = s.fab.devNum := rfl
@[simp] theorem State.setLink_fab_incarnation (s : State) (k : Nat) (l : Link) : (s.setLink k l).fab.incarnation = s.fab.incarnation := rfl
@[simp] theorem State.setLink_fab_claims (s : State) (k : Nat) (l : Link) : (s.setLink k l).fab.claims = s.fab.claims := rfl
@[simp] theorem State.setLink_fab_queued (s : State) (k : Nat) (l : Link) : (s.setLink k l).fab.queued = s.fab.queued := rfl
@[simp] theorem State.setLink_fab_reqs (s : State) (k : Nat) (l : Link) : (s.setLink k l).fab.reqs = s.fab.reqs := rfl
@[simp] theorem State.setLink_fab_nextTag (s : State) (k : Nat) (l : Link) : (s.setLink k l).fab.nextTag = s.fab.nextTag := rfl
@[simp] theorem State.setLink_fab_routes (s : State) (k : Nat) (l : Link) : (s.setLink k l).fab.routes = s.fab.routes := rfl
@[simp] theorem State.setLink_fab_lost (s : State) (k : Nat) (l : Link) : (s.setLink k l).fab.lost = s.fab.lost := rfl
@[simp] theorem State.setLink_fab_links (s : State) (k : Nat) (l : Link) : (s.setLink k l).fab.links = put s.fab.links k l := rfl
@[simp] theorem State.setLink_fab_ends (s : State) (k : Nat) (l : Link) : (s.setLink k l).fab.ends = s.fab.ends := rfl
@[simp] theorem State.setLink_fab_sendSeq (s : State) (k : Nat) (l : Link) : (s.setLink k l).fab.sendSeq = s.fab.sendSeq := rfl
@[simp] theorem State.setLink_fab_held (s : State) (k : Nat) (l : Link) : (s.setLink k l).fab.held = s.fab.held := rfl
@[simp] theorem State.setLink_host (s : State) (k : Nat) (l : Link) : (s.setLink k l).host = s.host := rfl
@[simp] theorem State.setLink_porters (s : State) (k : Nat) (l : Link) : (s.setLink k l).porters = s.porters := rfl
@[simp] theorem State.setLink_issued (s : State) (k : Nat) (l : Link) : (s.setLink k l).issued = s.issued := rfl
@[simp] theorem State.setLink_loop (s : State) (k : Nat) (l : Link) : (s.setLink k l).loop = s.loop := rfl
@[simp] theorem State.setLink_inbox (s : State) (k : Nat) (l : Link) : (s.setLink k l).inbox = s.inbox := rfl
@[simp] theorem State.setLink_outbox (s : State) (k : Nat) (l : Link) : (s.setLink k l).outbox = s.outbox := rfl
@[simp] theorem State.setLink_wire (s : State) (k : Nat) (l : Link) : (s.setLink k l).wire = s.wire := rfl
@[simp] theorem State.setLink_sent (s : State) (k : Nat) (l : Link) : (s.setLink k l).sent = s.sent := rfl
@[simp] theorem State.setReplay_cycle (s : State) (k : Nat) (r : Replay) : (s.setReplay k r).cycle = s.cycle := rfl
@[simp] theorem State.setReplay_tick (s : State) (k : Nat) (r : Replay) : (s.setReplay k r).tick = s.tick := rfl
@[simp] theorem State.setReplay_lateStores (s : State) (k : Nat) (r : Replay) : (s.setReplay k r).lateStores = s.lateStores := rfl
@[simp] theorem State.setReplay_packet (s : State) (k : Nat) (r : Replay) : (s.setReplay k r).packet = s.packet := rfl
@[simp] theorem State.setReplay_groups (s : State) (k : Nat) (r : Replay) : (s.setReplay k r).groups = s.groups := rfl
@[simp] theorem State.setReplay_teams (s : State) (k : Nat) (r : Replay) : (s.setReplay k r).teams = s.teams := rfl
@[simp] theorem State.setReplay_gangs (s : State) (k : Nat) (r : Replay) : (s.setReplay k r).gangs = s.gangs := rfl
@[simp] theorem State.setReplay_launches (s : State) (k : Nat) (r : Replay) : (s.setReplay k r).launches = s.launches := rfl
@[simp] theorem State.setReplay_mem (s : State) (k : Nat) (r : Replay) : (s.setReplay k r).mem = s.mem := rfl
@[simp] theorem State.setReplay_dev (s : State) (k : Nat) (r : Replay) : (s.setReplay k r).dev = s.dev := rfl
@[simp] theorem State.setReplay_eng (s : State) (k : Nat) (r : Replay) : (s.setReplay k r).eng = s.eng := rfl
@[simp] theorem State.setReplay_sched_resv (s : State) (k : Nat) (r : Replay) : (s.setReplay k r).sched.resv = s.sched.resv := rfl
@[simp] theorem State.setReplay_sched_invq (s : State) (k : Nat) (r : Replay) : (s.setReplay k r).sched.invq = s.sched.invq := rfl
@[simp] theorem State.setReplay_sched_replays (s : State) (k : Nat) (r : Replay) : (s.setReplay k r).sched.replays = put s.sched.replays k r := rfl
@[simp] theorem State.setReplay_sched_ctxmem (s : State) (k : Nat) (r : Replay) : (s.setReplay k r).sched.ctxmem = s.sched.ctxmem := rfl
@[simp] theorem State.setReplay_sched_images (s : State) (k : Nat) (r : Replay) : (s.setReplay k r).sched.images = s.sched.images := rfl
@[simp] theorem State.setReplay_sched_kernels (s : State) (k : Nat) (r : Replay) : (s.setReplay k r).sched.kernels = s.sched.kernels := rfl
@[simp] theorem State.setReplay_sched_nextHandle (s : State) (k : Nat) (r : Replay) : (s.setReplay k r).sched.nextHandle = s.sched.nextHandle := rfl
@[simp] theorem State.setReplay_sched_imageStage (s : State) (k : Nat) (r : Replay) : (s.setReplay k r).sched.imageStage = s.sched.imageStage := rfl
@[simp] theorem State.setReplay_sched_nextId (s : State) (k : Nat) (r : Replay) : (s.setReplay k r).sched.nextId = s.sched.nextId := rfl
@[simp] theorem State.setReplay_sched_nextOrder (s : State) (k : Nat) (r : Replay) : (s.setReplay k r).sched.nextOrder = s.sched.nextOrder := rfl
@[simp] theorem State.setReplay_sched_parks (s : State) (k : Nat) (r : Replay) : (s.setReplay k r).sched.parks = s.sched.parks := rfl
@[simp] theorem State.setReplay_fab (s : State) (k : Nat) (r : Replay) : (s.setReplay k r).fab = s.fab := rfl
@[simp] theorem State.setReplay_host (s : State) (k : Nat) (r : Replay) : (s.setReplay k r).host = s.host := rfl
@[simp] theorem State.setReplay_porters (s : State) (k : Nat) (r : Replay) : (s.setReplay k r).porters = s.porters := rfl
@[simp] theorem State.setReplay_issued (s : State) (k : Nat) (r : Replay) : (s.setReplay k r).issued = s.issued := rfl
@[simp] theorem State.setReplay_loop (s : State) (k : Nat) (r : Replay) : (s.setReplay k r).loop = s.loop := rfl
@[simp] theorem State.setReplay_inbox (s : State) (k : Nat) (r : Replay) : (s.setReplay k r).inbox = s.inbox := rfl
@[simp] theorem State.setReplay_outbox (s : State) (k : Nat) (r : Replay) : (s.setReplay k r).outbox = s.outbox := rfl
@[simp] theorem State.setReplay_wire (s : State) (k : Nat) (r : Replay) : (s.setReplay k r).wire = s.wire := rfl
@[simp] theorem State.setReplay_sent (s : State) (k : Nat) (r : Replay) : (s.setReplay k r).sent = s.sent := rfl

/-! ## Updates of a group -/

@[simp] theorem Group.modLanes_team (g : Group) (m : LaneMask) (f : Lane → Lane) : (g.modLanes m f).team = g.team := rfl
@[simp] theorem Group.modLanes_index (g : Group) (m : LaneMask) (f : Lane → Lane) : (g.modLanes m f).index = g.index := rfl
@[simp] theorem Group.modLanes_core (g : Group) (m : LaneMask) (f : Lane → Lane) : (g.modLanes m f).core = g.core := rfl
@[simp] theorem Group.modLanes_slot (g : Group) (m : LaneMask) (f : Lane → Lane) : (g.modLanes m f).slot = g.slot := rfl
@[simp] theorem Group.modLanes_width (g : Group) (m : LaneMask) (f : Lane → Lane) : (g.modLanes m f).width = g.width := rfl
@[simp] theorem Group.modLanes_alloc (g : Group) (m : LaneMask) (f : Lane → Lane) : (g.modLanes m f).alloc = g.alloc := rfl
@[simp] theorem Group.modLanes_lanes (g : Group) (m : LaneMask) (f : Lane → Lane) : (g.modLanes m f).lanes = g.lanes.mapIdx fun i l => if m.getLsbD i then f l else l := rfl
@[simp] theorem Group.modLanes_enmask (g : Group) (m : LaneMask) (f : Lane → Lane) : (g.modLanes m f).enmask = g.enmask := rfl
@[simp] theorem Group.modLanes_saveden (g : Group) (m : LaneMask) (f : Lane → Lane) : (g.modLanes m f).saveden = g.saveden := rfl
@[simp] theorem Group.modLanes_routes (g : Group) (m : LaneMask) (f : Lane → Lane) : (g.modLanes m f).routes = g.routes := rfl
@[simp] theorem Group.modLanes_tokens (g : Group) (m : LaneMask) (f : Lane → Lane) : (g.modLanes m f).tokens = g.tokens := rfl
@[simp] theorem Group.modLanes_bdone (g : Group) (m : LaneMask) (f : Lane → Lane) : (g.modLanes m f).bdone = g.bdone := rfl
@[simp] theorem Group.modLanes_bsealed (g : Group) (m : LaneMask) (f : Lane → Lane) : (g.modLanes m f).bsealed = g.bsealed := rfl
@[simp] theorem Group.modLanes_fprm (g : Group) (m : LaneMask) (f : Lane → Lane) : (g.modLanes m f).fprm = g.fprm := rfl
@[simp] theorem Group.modLanes_fpftz (g : Group) (m : LaneMask) (f : Lane → Lane) : (g.modLanes m f).fpftz = g.fpftz := rfl
@[simp] theorem Group.modLanes_schk (g : Group) (m : LaneMask) (f : Lane → Lane) : (g.modLanes m f).schk = g.schk := rfl
@[simp] theorem Group.modLanes_retired (g : Group) (m : LaneMask) (f : Lane → Lane) : (g.modLanes m f).retired = g.retired := rfl
@[simp] theorem Group.modLanes_hnd (g : Group) (m : LaneMask) (f : Lane → Lane) : (g.modLanes m f).hnd = g.hnd := rfl
@[simp] theorem Group.modLanes_defer (g : Group) (m : LaneMask) (f : Lane → Lane) : (g.modLanes m f).defer = g.defer := rfl
@[simp] theorem Group.modLanes_code (g : Group) (m : LaneMask) (f : Lane → Lane) : (g.modLanes m f).code = g.code := rfl
@[simp] theorem Group.modLanes_trapmask (g : Group) (m : LaneMask) (f : Lane → Lane) : (g.modLanes m f).trapmask = g.trapmask := rfl
@[simp] theorem Group.modLanes_trapaddr (g : Group) (m : LaneMask) (f : Lane → Lane) : (g.modLanes m f).trapaddr = g.trapaddr := rfl
@[simp] theorem Group.modLanes_trapinst (g : Group) (m : LaneMask) (f : Lane → Lane) : (g.modLanes m f).trapinst = g.trapinst := rfl
@[simp] theorem Group.modLanes_snap (g : Group) (m : LaneMask) (f : Lane → Lane) : (g.modLanes m f).snap = g.snap := rfl
@[simp] theorem Group.modLanes_pending (g : Group) (m : LaneMask) (f : Lane → Lane) : (g.modLanes m f).pending = g.pending := rfl
@[simp] theorem Group.modLanes_arrival (g : Group) (m : LaneMask) (f : Lane → Lane) : (g.modLanes m f).arrival = g.arrival := rfl
@[simp] theorem Group.modLanes_idle (g : Group) (m : LaneMask) (f : Lane → Lane) : (g.modLanes m f).idle = g.idle := rfl
@[simp] theorem Group.modLanes_readyAt (g : Group) (m : LaneMask) (f : Lane → Lane) : (g.modLanes m f).readyAt = g.readyAt := rfl
@[simp] theorem Group.modLanes_readySince (g : Group) (m : LaneMask) (f : Lane → Lane) : (g.modLanes m f).readySince = g.readySince := rfl
@[simp] theorem Group.modLanes_stalls (g : Group) (m : LaneMask) (f : Lane → Lane) : (g.modLanes m f).stalls = g.stalls := rfl
@[simp] theorem Group.modLanes_hist (g : Group) (m : LaneMask) (f : Lane → Lane) : (g.modLanes m f).hist = g.hist := rfl
@[simp] theorem Group.modLanes_sb (g : Group) (m : LaneMask) (f : Lane → Lane) : (g.modLanes m f).sb = g.sb := rfl
@[simp] theorem Group.modLanes_waits (g : Group) (m : LaneMask) (f : Lane → Lane) : (g.modLanes m f).waits = g.waits := rfl
@[simp] theorem Group.modLanes_deferred (g : Group) (m : LaneMask) (f : Lane → Lane) : (g.modLanes m f).deferred = g.deferred := rfl
@[simp] theorem Group.modLanes_answers (g : Group) (m : LaneMask) (f : Lane → Lane) : (g.modLanes m f).answers = g.answers := rfl
@[simp] theorem Group.modLanes_parked (g : Group) (m : LaneMask) (f : Lane → Lane) : (g.modLanes m f).parked = g.parked := rfl
@[simp] theorem Group.modLanes_emptyWait (g : Group) (m : LaneMask) (f : Lane → Lane) : (g.modLanes m f).emptyWait = g.emptyWait := rfl
@[simp] theorem Group.modLanes_qcounts (g : Group) (m : LaneMask) (f : Lane → Lane) : (g.modLanes m f).qcounts = g.qcounts := rfl
@[simp] theorem Group.modLanes_segment (g : Group) (m : LaneMask) (f : Lane → Lane) : (g.modLanes m f).segment = g.segment := rfl
@[simp] theorem Group.modLanes_ticket (g : Group) (m : LaneMask) (f : Lane → Lane) : (g.modLanes m f).ticket = g.ticket := rfl
@[simp] theorem Group.modLanes_ended (g : Group) (m : LaneMask) (f : Lane → Lane) : (g.modLanes m f).ended = g.ended := rfl
@[simp] theorem Group.moveTo_team (g : Group) (m : LaneMask) (pc : DWord) : (g.moveTo m pc).team = g.team := rfl
@[simp] theorem Group.moveTo_index (g : Group) (m : LaneMask) (pc : DWord) : (g.moveTo m pc).index = g.index := rfl
@[simp] theorem Group.moveTo_core (g : Group) (m : LaneMask) (pc : DWord) : (g.moveTo m pc).core = g.core := rfl
@[simp] theorem Group.moveTo_slot (g : Group) (m : LaneMask) (pc : DWord) : (g.moveTo m pc).slot = g.slot := rfl
@[simp] theorem Group.moveTo_width (g : Group) (m : LaneMask) (pc : DWord) : (g.moveTo m pc).width = g.width := rfl
@[simp] theorem Group.moveTo_alloc (g : Group) (m : LaneMask) (pc : DWord) : (g.moveTo m pc).alloc = g.alloc := rfl
@[simp] theorem Group.moveTo_lanes (g : Group) (m : LaneMask) (pc : DWord) : (g.moveTo m pc).lanes = g.lanes.mapIdx fun i l => if m.getLsbD i then { l with pc := pc } else l := rfl
@[simp] theorem Group.moveTo_enmask (g : Group) (m : LaneMask) (pc : DWord) : (g.moveTo m pc).enmask = g.enmask := rfl
@[simp] theorem Group.moveTo_saveden (g : Group) (m : LaneMask) (pc : DWord) : (g.moveTo m pc).saveden = g.saveden := rfl
@[simp] theorem Group.moveTo_routes (g : Group) (m : LaneMask) (pc : DWord) : (g.moveTo m pc).routes = g.routes := rfl
@[simp] theorem Group.moveTo_tokens (g : Group) (m : LaneMask) (pc : DWord) : (g.moveTo m pc).tokens = g.tokens := rfl
@[simp] theorem Group.moveTo_bdone (g : Group) (m : LaneMask) (pc : DWord) : (g.moveTo m pc).bdone = g.bdone := rfl
@[simp] theorem Group.moveTo_bsealed (g : Group) (m : LaneMask) (pc : DWord) : (g.moveTo m pc).bsealed = g.bsealed := rfl
@[simp] theorem Group.moveTo_fprm (g : Group) (m : LaneMask) (pc : DWord) : (g.moveTo m pc).fprm = g.fprm := rfl
@[simp] theorem Group.moveTo_fpftz (g : Group) (m : LaneMask) (pc : DWord) : (g.moveTo m pc).fpftz = g.fpftz := rfl
@[simp] theorem Group.moveTo_schk (g : Group) (m : LaneMask) (pc : DWord) : (g.moveTo m pc).schk = g.schk := rfl
@[simp] theorem Group.moveTo_retired (g : Group) (m : LaneMask) (pc : DWord) : (g.moveTo m pc).retired = g.retired := rfl
@[simp] theorem Group.moveTo_hnd (g : Group) (m : LaneMask) (pc : DWord) : (g.moveTo m pc).hnd = g.hnd := rfl
@[simp] theorem Group.moveTo_defer (g : Group) (m : LaneMask) (pc : DWord) : (g.moveTo m pc).defer = g.defer := rfl
@[simp] theorem Group.moveTo_code (g : Group) (m : LaneMask) (pc : DWord) : (g.moveTo m pc).code = g.code := rfl
@[simp] theorem Group.moveTo_trapmask (g : Group) (m : LaneMask) (pc : DWord) : (g.moveTo m pc).trapmask = g.trapmask := rfl
@[simp] theorem Group.moveTo_trapaddr (g : Group) (m : LaneMask) (pc : DWord) : (g.moveTo m pc).trapaddr = g.trapaddr := rfl
@[simp] theorem Group.moveTo_trapinst (g : Group) (m : LaneMask) (pc : DWord) : (g.moveTo m pc).trapinst = g.trapinst := rfl
@[simp] theorem Group.moveTo_snap (g : Group) (m : LaneMask) (pc : DWord) : (g.moveTo m pc).snap = g.snap := rfl
@[simp] theorem Group.moveTo_pending (g : Group) (m : LaneMask) (pc : DWord) : (g.moveTo m pc).pending = g.pending := rfl
@[simp] theorem Group.moveTo_arrival (g : Group) (m : LaneMask) (pc : DWord) : (g.moveTo m pc).arrival = g.arrival := rfl
@[simp] theorem Group.moveTo_idle (g : Group) (m : LaneMask) (pc : DWord) : (g.moveTo m pc).idle = g.idle := rfl
@[simp] theorem Group.moveTo_readyAt (g : Group) (m : LaneMask) (pc : DWord) : (g.moveTo m pc).readyAt = g.readyAt := rfl
@[simp] theorem Group.moveTo_readySince (g : Group) (m : LaneMask) (pc : DWord) : (g.moveTo m pc).readySince = g.readySince := rfl
@[simp] theorem Group.moveTo_stalls (g : Group) (m : LaneMask) (pc : DWord) : (g.moveTo m pc).stalls = g.stalls := rfl
@[simp] theorem Group.moveTo_hist (g : Group) (m : LaneMask) (pc : DWord) : (g.moveTo m pc).hist = g.hist := rfl
@[simp] theorem Group.moveTo_sb (g : Group) (m : LaneMask) (pc : DWord) : (g.moveTo m pc).sb = g.sb := rfl
@[simp] theorem Group.moveTo_waits (g : Group) (m : LaneMask) (pc : DWord) : (g.moveTo m pc).waits = g.waits := rfl
@[simp] theorem Group.moveTo_deferred (g : Group) (m : LaneMask) (pc : DWord) : (g.moveTo m pc).deferred = g.deferred := rfl
@[simp] theorem Group.moveTo_answers (g : Group) (m : LaneMask) (pc : DWord) : (g.moveTo m pc).answers = g.answers := rfl
@[simp] theorem Group.moveTo_parked (g : Group) (m : LaneMask) (pc : DWord) : (g.moveTo m pc).parked = g.parked := rfl
@[simp] theorem Group.moveTo_emptyWait (g : Group) (m : LaneMask) (pc : DWord) : (g.moveTo m pc).emptyWait = g.emptyWait := rfl
@[simp] theorem Group.moveTo_qcounts (g : Group) (m : LaneMask) (pc : DWord) : (g.moveTo m pc).qcounts = g.qcounts := rfl
@[simp] theorem Group.moveTo_segment (g : Group) (m : LaneMask) (pc : DWord) : (g.moveTo m pc).segment = g.segment := rfl
@[simp] theorem Group.moveTo_ticket (g : Group) (m : LaneMask) (pc : DWord) : (g.moveTo m pc).ticket = g.ticket := rfl
@[simp] theorem Group.moveTo_ended (g : Group) (m : LaneMask) (pc : DWord) : (g.moveTo m pc).ended = g.ended := rfl
@[simp] theorem Group.leaveWait_team (g : Group) (sl : Slot) : (g.leaveWait sl).team = g.team := rfl
@[simp] theorem Group.leaveWait_index (g : Group) (sl : Slot) : (g.leaveWait sl).index = g.index := rfl
@[simp] theorem Group.leaveWait_core (g : Group) (sl : Slot) : (g.leaveWait sl).core = g.core := rfl
@[simp] theorem Group.leaveWait_slot (g : Group) (sl : Slot) : (g.leaveWait sl).slot = g.slot := rfl
@[simp] theorem Group.leaveWait_width (g : Group) (sl : Slot) : (g.leaveWait sl).width = g.width := rfl
@[simp] theorem Group.leaveWait_alloc (g : Group) (sl : Slot) : (g.leaveWait sl).alloc = g.alloc := rfl
@[simp] theorem Group.leaveWait_lanes (g : Group) (sl : Slot) : (g.leaveWait sl).lanes = g.lanes := rfl
@[simp] theorem Group.leaveWait_enmask (g : Group) (sl : Slot) : (g.leaveWait sl).enmask = g.enmask := rfl
@[simp] theorem Group.leaveWait_saveden (g : Group) (sl : Slot) : (g.leaveWait sl).saveden = g.saveden := rfl
@[simp] theorem Group.leaveWait_routes (g : Group) (sl : Slot) : (g.leaveWait sl).routes = g.routes := rfl
@[simp] theorem Group.leaveWait_tokens (g : Group) (sl : Slot) : (g.leaveWait sl).tokens = g.tokens := rfl
@[simp] theorem Group.leaveWait_bdone (g : Group) (sl : Slot) : (g.leaveWait sl).bdone = g.bdone := rfl
@[simp] theorem Group.leaveWait_bsealed (g : Group) (sl : Slot) : (g.leaveWait sl).bsealed = g.bsealed := rfl
@[simp] theorem Group.leaveWait_fprm (g : Group) (sl : Slot) : (g.leaveWait sl).fprm = g.fprm := rfl
@[simp] theorem Group.leaveWait_fpftz (g : Group) (sl : Slot) : (g.leaveWait sl).fpftz = g.fpftz := rfl
@[simp] theorem Group.leaveWait_schk (g : Group) (sl : Slot) : (g.leaveWait sl).schk = g.schk := rfl
@[simp] theorem Group.leaveWait_retired (g : Group) (sl : Slot) : (g.leaveWait sl).retired = g.retired := rfl
@[simp] theorem Group.leaveWait_hnd (g : Group) (sl : Slot) : (g.leaveWait sl).hnd = g.hnd := rfl
@[simp] theorem Group.leaveWait_defer (g : Group) (sl : Slot) : (g.leaveWait sl).defer = g.defer := rfl
@[simp] theorem Group.leaveWait_code (g : Group) (sl : Slot) : (g.leaveWait sl).code = g.code := rfl
@[simp] theorem Group.leaveWait_trapmask (g : Group) (sl : Slot) : (g.leaveWait sl).trapmask = g.trapmask := rfl
@[simp] theorem Group.leaveWait_trapaddr (g : Group) (sl : Slot) : (g.leaveWait sl).trapaddr = g.trapaddr := rfl
@[simp] theorem Group.leaveWait_trapinst (g : Group) (sl : Slot) : (g.leaveWait sl).trapinst = g.trapinst := rfl
@[simp] theorem Group.leaveWait_snap (g : Group) (sl : Slot) : (g.leaveWait sl).snap = g.snap := rfl
@[simp] theorem Group.leaveWait_pending (g : Group) (sl : Slot) : (g.leaveWait sl).pending = g.pending := rfl
@[simp] theorem Group.leaveWait_arrival (g : Group) (sl : Slot) : (g.leaveWait sl).arrival = g.arrival := rfl
@[simp] theorem Group.leaveWait_idle (g : Group) (sl : Slot) : (g.leaveWait sl).idle = g.idle := rfl
@[simp] theorem Group.leaveWait_readyAt (g : Group) (sl : Slot) : (g.leaveWait sl).readyAt = g.readyAt := rfl
@[simp] theorem Group.leaveWait_readySince (g : Group) (sl : Slot) : (g.leaveWait sl).readySince = g.readySince := rfl
@[simp] theorem Group.leaveWait_stalls (g : Group) (sl : Slot) : (g.leaveWait sl).stalls = g.stalls := rfl
@[simp] theorem Group.leaveWait_hist (g : Group) (sl : Slot) : (g.leaveWait sl).hist = g.hist := rfl
@[simp] theorem Group.leaveWait_sb (g : Group) (sl : Slot) : (g.leaveWait sl).sb = g.sb := rfl
@[simp] theorem Group.leaveWait_waits (g : Group) (sl : Slot) : (g.leaveWait sl).waits = g.waits.filter fun w => !(w.slot.pc == sl.pc && w.slot.place == sl.place) := rfl
@[simp] theorem Group.leaveWait_deferred (g : Group) (sl : Slot) : (g.leaveWait sl).deferred = g.deferred := rfl
@[simp] theorem Group.leaveWait_answers (g : Group) (sl : Slot) : (g.leaveWait sl).answers = g.answers := rfl
@[simp] theorem Group.leaveWait_parked (g : Group) (sl : Slot) : (g.leaveWait sl).parked = g.parked := rfl
@[simp] theorem Group.leaveWait_emptyWait (g : Group) (sl : Slot) : (g.leaveWait sl).emptyWait = g.emptyWait := rfl
@[simp] theorem Group.leaveWait_qcounts (g : Group) (sl : Slot) : (g.leaveWait sl).qcounts = g.qcounts := rfl
@[simp] theorem Group.leaveWait_segment (g : Group) (sl : Slot) : (g.leaveWait sl).segment = g.segment := rfl
@[simp] theorem Group.leaveWait_ticket (g : Group) (sl : Slot) : (g.leaveWait sl).ticket = g.ticket := rfl
@[simp] theorem Group.leaveWait_ended (g : Group) (sl : Slot) : (g.leaveWait sl).ended = g.ended := rfl
@[simp] theorem Group.enterWait_team (g : Group) (now : Nat) (k : WaitKind) (sl : Slot) : (g.enterWait now k sl).team = g.team := rfl
@[simp] theorem Group.enterWait_index (g : Group) (now : Nat) (k : WaitKind) (sl : Slot) : (g.enterWait now k sl).index = g.index := rfl
@[simp] theorem Group.enterWait_core (g : Group) (now : Nat) (k : WaitKind) (sl : Slot) : (g.enterWait now k sl).core = g.core := rfl
@[simp] theorem Group.enterWait_slot (g : Group) (now : Nat) (k : WaitKind) (sl : Slot) : (g.enterWait now k sl).slot = g.slot := rfl
@[simp] theorem Group.enterWait_width (g : Group) (now : Nat) (k : WaitKind) (sl : Slot) : (g.enterWait now k sl).width = g.width := rfl
@[simp] theorem Group.enterWait_alloc (g : Group) (now : Nat) (k : WaitKind) (sl : Slot) : (g.enterWait now k sl).alloc = g.alloc := rfl
@[simp] theorem Group.enterWait_lanes (g : Group) (now : Nat) (k : WaitKind) (sl : Slot) : (g.enterWait now k sl).lanes = g.lanes := rfl
@[simp] theorem Group.enterWait_enmask (g : Group) (now : Nat) (k : WaitKind) (sl : Slot) : (g.enterWait now k sl).enmask = g.enmask := rfl
@[simp] theorem Group.enterWait_saveden (g : Group) (now : Nat) (k : WaitKind) (sl : Slot) : (g.enterWait now k sl).saveden = g.saveden := rfl
@[simp] theorem Group.enterWait_routes (g : Group) (now : Nat) (k : WaitKind) (sl : Slot) : (g.enterWait now k sl).routes = g.routes := rfl
@[simp] theorem Group.enterWait_tokens (g : Group) (now : Nat) (k : WaitKind) (sl : Slot) : (g.enterWait now k sl).tokens = g.tokens := rfl
@[simp] theorem Group.enterWait_bdone (g : Group) (now : Nat) (k : WaitKind) (sl : Slot) : (g.enterWait now k sl).bdone = g.bdone := rfl
@[simp] theorem Group.enterWait_bsealed (g : Group) (now : Nat) (k : WaitKind) (sl : Slot) : (g.enterWait now k sl).bsealed = g.bsealed := rfl
@[simp] theorem Group.enterWait_fprm (g : Group) (now : Nat) (k : WaitKind) (sl : Slot) : (g.enterWait now k sl).fprm = g.fprm := rfl
@[simp] theorem Group.enterWait_fpftz (g : Group) (now : Nat) (k : WaitKind) (sl : Slot) : (g.enterWait now k sl).fpftz = g.fpftz := rfl
@[simp] theorem Group.enterWait_schk (g : Group) (now : Nat) (k : WaitKind) (sl : Slot) : (g.enterWait now k sl).schk = g.schk := rfl
@[simp] theorem Group.enterWait_retired (g : Group) (now : Nat) (k : WaitKind) (sl : Slot) : (g.enterWait now k sl).retired = g.retired := rfl
@[simp] theorem Group.enterWait_hnd (g : Group) (now : Nat) (k : WaitKind) (sl : Slot) : (g.enterWait now k sl).hnd = g.hnd := rfl
@[simp] theorem Group.enterWait_defer (g : Group) (now : Nat) (k : WaitKind) (sl : Slot) : (g.enterWait now k sl).defer = g.defer := rfl
@[simp] theorem Group.enterWait_code (g : Group) (now : Nat) (k : WaitKind) (sl : Slot) : (g.enterWait now k sl).code = g.code := rfl
@[simp] theorem Group.enterWait_trapmask (g : Group) (now : Nat) (k : WaitKind) (sl : Slot) : (g.enterWait now k sl).trapmask = g.trapmask := rfl
@[simp] theorem Group.enterWait_trapaddr (g : Group) (now : Nat) (k : WaitKind) (sl : Slot) : (g.enterWait now k sl).trapaddr = g.trapaddr := rfl
@[simp] theorem Group.enterWait_trapinst (g : Group) (now : Nat) (k : WaitKind) (sl : Slot) : (g.enterWait now k sl).trapinst = g.trapinst := rfl
@[simp] theorem Group.enterWait_snap (g : Group) (now : Nat) (k : WaitKind) (sl : Slot) : (g.enterWait now k sl).snap = g.snap := rfl
@[simp] theorem Group.enterWait_pending (g : Group) (now : Nat) (k : WaitKind) (sl : Slot) : (g.enterWait now k sl).pending = g.pending := rfl
@[simp] theorem Group.enterWait_arrival (g : Group) (now : Nat) (k : WaitKind) (sl : Slot) : (g.enterWait now k sl).arrival = g.arrival := rfl
@[simp] theorem Group.enterWait_idle (g : Group) (now : Nat) (k : WaitKind) (sl : Slot) : (g.enterWait now k sl).idle = g.idle := rfl
@[simp] theorem Group.enterWait_readyAt (g : Group) (now : Nat) (k : WaitKind) (sl : Slot) : (g.enterWait now k sl).readyAt = g.readyAt := rfl
@[simp] theorem Group.enterWait_readySince (g : Group) (now : Nat) (k : WaitKind) (sl : Slot) : (g.enterWait now k sl).readySince = g.readySince := rfl
@[simp] theorem Group.enterWait_stalls (g : Group) (now : Nat) (k : WaitKind) (sl : Slot) : (g.enterWait now k sl).stalls = g.stalls := rfl
@[simp] theorem Group.enterWait_hist (g : Group) (now : Nat) (k : WaitKind) (sl : Slot) : (g.enterWait now k sl).hist = g.hist := rfl
@[simp] theorem Group.enterWait_sb (g : Group) (now : Nat) (k : WaitKind) (sl : Slot) : (g.enterWait now k sl).sb = g.sb := rfl
@[simp] theorem Group.enterWait_deferred (g : Group) (now : Nat) (k : WaitKind) (sl : Slot) : (g.enterWait now k sl).deferred = g.deferred := rfl
@[simp] theorem Group.enterWait_answers (g : Group) (now : Nat) (k : WaitKind) (sl : Slot) : (g.enterWait now k sl).answers = g.answers := rfl
@[simp] theorem Group.enterWait_parked (g : Group) (now : Nat) (k : WaitKind) (sl : Slot) : (g.enterWait now k sl).parked = g.parked := rfl
@[simp] theorem Group.enterWait_emptyWait (g : Group) (now : Nat) (k : WaitKind) (sl : Slot) : (g.enterWait now k sl).emptyWait = g.emptyWait := rfl
@[simp] theorem Group.enterWait_qcounts (g : Group) (now : Nat) (k : WaitKind) (sl : Slot) : (g.enterWait now k sl).qcounts = g.qcounts := rfl
@[simp] theorem Group.enterWait_segment (g : Group) (now : Nat) (k : WaitKind) (sl : Slot) : (g.enterWait now k sl).segment = g.segment := rfl
@[simp] theorem Group.enterWait_ticket (g : Group) (now : Nat) (k : WaitKind) (sl : Slot) : (g.enterWait now k sl).ticket = g.ticket := rfl
@[simp] theorem Group.enterWait_ended (g : Group) (now : Nat) (k : WaitKind) (sl : Slot) : (g.enterWait now k sl).ended = g.ended := rfl
@[simp] theorem Group.setToken_team (g : Group) (k : Token) (r : TokenRec) : (g.setToken k r).team = g.team := rfl
@[simp] theorem Group.setToken_index (g : Group) (k : Token) (r : TokenRec) : (g.setToken k r).index = g.index := rfl
@[simp] theorem Group.setToken_core (g : Group) (k : Token) (r : TokenRec) : (g.setToken k r).core = g.core := rfl
@[simp] theorem Group.setToken_slot (g : Group) (k : Token) (r : TokenRec) : (g.setToken k r).slot = g.slot := rfl
@[simp] theorem Group.setToken_width (g : Group) (k : Token) (r : TokenRec) : (g.setToken k r).width = g.width := rfl
@[simp] theorem Group.setToken_alloc (g : Group) (k : Token) (r : TokenRec) : (g.setToken k r).alloc = g.alloc := rfl
@[simp] theorem Group.setToken_lanes (g : Group) (k : Token) (r : TokenRec) : (g.setToken k r).lanes = g.lanes := rfl
@[simp] theorem Group.setToken_enmask (g : Group) (k : Token) (r : TokenRec) : (g.setToken k r).enmask = g.enmask := rfl
@[simp] theorem Group.setToken_saveden (g : Group) (k : Token) (r : TokenRec) : (g.setToken k r).saveden = g.saveden := rfl
@[simp] theorem Group.setToken_routes (g : Group) (k : Token) (r : TokenRec) : (g.setToken k r).routes = g.routes := rfl
@[simp] theorem Group.setToken_tokens (g : Group) (k : Token) (r : TokenRec) : (g.setToken k r).tokens = g.tokens.set k r := rfl
@[simp] theorem Group.setToken_bdone (g : Group) (k : Token) (r : TokenRec) : (g.setToken k r).bdone = g.bdone := rfl
@[simp] theorem Group.setToken_bsealed (g : Group) (k : Token) (r : TokenRec) : (g.setToken k r).bsealed = g.bsealed := rfl
@[simp] theorem Group.setToken_fprm (g : Group) (k : Token) (r : TokenRec) : (g.setToken k r).fprm = g.fprm := rfl
@[simp] theorem Group.setToken_fpftz (g : Group) (k : Token) (r : TokenRec) : (g.setToken k r).fpftz = g.fpftz := rfl
@[simp] theorem Group.setToken_schk (g : Group) (k : Token) (r : TokenRec) : (g.setToken k r).schk = g.schk := rfl
@[simp] theorem Group.setToken_retired (g : Group) (k : Token) (r : TokenRec) : (g.setToken k r).retired = g.retired := rfl
@[simp] theorem Group.setToken_hnd (g : Group) (k : Token) (r : TokenRec) : (g.setToken k r).hnd = g.hnd := rfl
@[simp] theorem Group.setToken_defer (g : Group) (k : Token) (r : TokenRec) : (g.setToken k r).defer = g.defer := rfl
@[simp] theorem Group.setToken_code (g : Group) (k : Token) (r : TokenRec) : (g.setToken k r).code = g.code := rfl
@[simp] theorem Group.setToken_trapmask (g : Group) (k : Token) (r : TokenRec) : (g.setToken k r).trapmask = g.trapmask := rfl
@[simp] theorem Group.setToken_trapaddr (g : Group) (k : Token) (r : TokenRec) : (g.setToken k r).trapaddr = g.trapaddr := rfl
@[simp] theorem Group.setToken_trapinst (g : Group) (k : Token) (r : TokenRec) : (g.setToken k r).trapinst = g.trapinst := rfl
@[simp] theorem Group.setToken_snap (g : Group) (k : Token) (r : TokenRec) : (g.setToken k r).snap = g.snap := rfl
@[simp] theorem Group.setToken_pending (g : Group) (k : Token) (r : TokenRec) : (g.setToken k r).pending = g.pending := rfl
@[simp] theorem Group.setToken_arrival (g : Group) (k : Token) (r : TokenRec) : (g.setToken k r).arrival = g.arrival := rfl
@[simp] theorem Group.setToken_idle (g : Group) (k : Token) (r : TokenRec) : (g.setToken k r).idle = g.idle := rfl
@[simp] theorem Group.setToken_readyAt (g : Group) (k : Token) (r : TokenRec) : (g.setToken k r).readyAt = g.readyAt := rfl
@[simp] theorem Group.setToken_readySince (g : Group) (k : Token) (r : TokenRec) : (g.setToken k r).readySince = g.readySince := rfl
@[simp] theorem Group.setToken_stalls (g : Group) (k : Token) (r : TokenRec) : (g.setToken k r).stalls = g.stalls := rfl
@[simp] theorem Group.setToken_hist (g : Group) (k : Token) (r : TokenRec) : (g.setToken k r).hist = g.hist := rfl
@[simp] theorem Group.setToken_sb (g : Group) (k : Token) (r : TokenRec) : (g.setToken k r).sb = g.sb := rfl
@[simp] theorem Group.setToken_waits (g : Group) (k : Token) (r : TokenRec) : (g.setToken k r).waits = g.waits := rfl
@[simp] theorem Group.setToken_deferred (g : Group) (k : Token) (r : TokenRec) : (g.setToken k r).deferred = g.deferred := rfl
@[simp] theorem Group.setToken_answers (g : Group) (k : Token) (r : TokenRec) : (g.setToken k r).answers = g.answers := rfl
@[simp] theorem Group.setToken_parked (g : Group) (k : Token) (r : TokenRec) : (g.setToken k r).parked = g.parked := rfl
@[simp] theorem Group.setToken_emptyWait (g : Group) (k : Token) (r : TokenRec) : (g.setToken k r).emptyWait = g.emptyWait := rfl
@[simp] theorem Group.setToken_qcounts (g : Group) (k : Token) (r : TokenRec) : (g.setToken k r).qcounts = g.qcounts := rfl
@[simp] theorem Group.setToken_segment (g : Group) (k : Token) (r : TokenRec) : (g.setToken k r).segment = g.segment := rfl
@[simp] theorem Group.setToken_ticket (g : Group) (k : Token) (r : TokenRec) : (g.setToken k r).ticket = g.ticket := rfl
@[simp] theorem Group.setToken_ended (g : Group) (k : Token) (r : TokenRec) : (g.setToken k r).ended = g.ended := rfl
@[simp] theorem Group.startToken_team (g : Group) (k : Token) (n : Nat) : (g.startToken k n).team = g.team := rfl
@[simp] theorem Group.startToken_index (g : Group) (k : Token) (n : Nat) : (g.startToken k n).index = g.index := rfl
@[simp] theorem Group.startToken_core (g : Group) (k : Token) (n : Nat) : (g.startToken k n).core = g.core := rfl
@[simp] theorem Group.startToken_slot (g : Group) (k : Token) (n : Nat) : (g.startToken k n).slot = g.slot := rfl
@[simp] theorem Group.startToken_width (g : Group) (k : Token) (n : Nat) : (g.startToken k n).width = g.width := rfl
@[simp] theorem Group.startToken_alloc (g : Group) (k : Token) (n : Nat) : (g.startToken k n).alloc = g.alloc := rfl
@[simp] theorem Group.startToken_lanes (g : Group) (k : Token) (n : Nat) : (g.startToken k n).lanes = g.lanes := rfl
@[simp] theorem Group.startToken_enmask (g : Group) (k : Token) (n : Nat) : (g.startToken k n).enmask = g.enmask := rfl
@[simp] theorem Group.startToken_saveden (g : Group) (k : Token) (n : Nat) : (g.startToken k n).saveden = g.saveden := rfl
@[simp] theorem Group.startToken_routes (g : Group) (k : Token) (n : Nat) : (g.startToken k n).routes = g.routes := rfl
@[simp] theorem Group.startToken_tokens (g : Group) (k : Token) (n : Nat) : (g.startToken k n).tokens = g.tokens.set k { st := .busy, left := n, bad := false } := rfl
@[simp] theorem Group.startToken_bdone (g : Group) (k : Token) (n : Nat) : (g.startToken k n).bdone = g.bdone := rfl
@[simp] theorem Group.startToken_bsealed (g : Group) (k : Token) (n : Nat) : (g.startToken k n).bsealed = g.bsealed := rfl
@[simp] theorem Group.startToken_fprm (g : Group) (k : Token) (n : Nat) : (g.startToken k n).fprm = g.fprm := rfl
@[simp] theorem Group.startToken_fpftz (g : Group) (k : Token) (n : Nat) : (g.startToken k n).fpftz = g.fpftz := rfl
@[simp] theorem Group.startToken_schk (g : Group) (k : Token) (n : Nat) : (g.startToken k n).schk = g.schk := rfl
@[simp] theorem Group.startToken_retired (g : Group) (k : Token) (n : Nat) : (g.startToken k n).retired = g.retired := rfl
@[simp] theorem Group.startToken_hnd (g : Group) (k : Token) (n : Nat) : (g.startToken k n).hnd = g.hnd := rfl
@[simp] theorem Group.startToken_defer (g : Group) (k : Token) (n : Nat) : (g.startToken k n).defer = g.defer := rfl
@[simp] theorem Group.startToken_code (g : Group) (k : Token) (n : Nat) : (g.startToken k n).code = g.code := rfl
@[simp] theorem Group.startToken_trapmask (g : Group) (k : Token) (n : Nat) : (g.startToken k n).trapmask = g.trapmask := rfl
@[simp] theorem Group.startToken_trapaddr (g : Group) (k : Token) (n : Nat) : (g.startToken k n).trapaddr = g.trapaddr := rfl
@[simp] theorem Group.startToken_trapinst (g : Group) (k : Token) (n : Nat) : (g.startToken k n).trapinst = g.trapinst := rfl
@[simp] theorem Group.startToken_snap (g : Group) (k : Token) (n : Nat) : (g.startToken k n).snap = g.snap := rfl
@[simp] theorem Group.startToken_pending (g : Group) (k : Token) (n : Nat) : (g.startToken k n).pending = g.pending := rfl
@[simp] theorem Group.startToken_arrival (g : Group) (k : Token) (n : Nat) : (g.startToken k n).arrival = g.arrival := rfl
@[simp] theorem Group.startToken_idle (g : Group) (k : Token) (n : Nat) : (g.startToken k n).idle = g.idle := rfl
@[simp] theorem Group.startToken_readyAt (g : Group) (k : Token) (n : Nat) : (g.startToken k n).readyAt = g.readyAt := rfl
@[simp] theorem Group.startToken_readySince (g : Group) (k : Token) (n : Nat) : (g.startToken k n).readySince = g.readySince := rfl
@[simp] theorem Group.startToken_stalls (g : Group) (k : Token) (n : Nat) : (g.startToken k n).stalls = g.stalls := rfl
@[simp] theorem Group.startToken_hist (g : Group) (k : Token) (n : Nat) : (g.startToken k n).hist = g.hist := rfl
@[simp] theorem Group.startToken_sb (g : Group) (k : Token) (n : Nat) : (g.startToken k n).sb = g.sb := rfl
@[simp] theorem Group.startToken_waits (g : Group) (k : Token) (n : Nat) : (g.startToken k n).waits = g.waits := rfl
@[simp] theorem Group.startToken_deferred (g : Group) (k : Token) (n : Nat) : (g.startToken k n).deferred = g.deferred := rfl
@[simp] theorem Group.startToken_answers (g : Group) (k : Token) (n : Nat) : (g.startToken k n).answers = g.answers := rfl
@[simp] theorem Group.startToken_parked (g : Group) (k : Token) (n : Nat) : (g.startToken k n).parked = g.parked := rfl
@[simp] theorem Group.startToken_emptyWait (g : Group) (k : Token) (n : Nat) : (g.startToken k n).emptyWait = g.emptyWait := rfl
@[simp] theorem Group.startToken_qcounts (g : Group) (k : Token) (n : Nat) : (g.startToken k n).qcounts = g.qcounts := rfl
@[simp] theorem Group.startToken_segment (g : Group) (k : Token) (n : Nat) : (g.startToken k n).segment = g.segment := rfl
@[simp] theorem Group.startToken_ticket (g : Group) (k : Token) (n : Nat) : (g.startToken k n).ticket = g.ticket := rfl
@[simp] theorem Group.startToken_ended (g : Group) (k : Token) (n : Nat) : (g.startToken k n).ended = g.ended := rfl
@[simp] theorem Group.commit_team (g : Group) (i : Nat) (r : Reg) (v : Word) : (g.commit i r v).team = g.team := rfl
@[simp] theorem Group.commit_index (g : Group) (i : Nat) (r : Reg) (v : Word) : (g.commit i r v).index = g.index := rfl
@[simp] theorem Group.commit_core (g : Group) (i : Nat) (r : Reg) (v : Word) : (g.commit i r v).core = g.core := rfl
@[simp] theorem Group.commit_slot (g : Group) (i : Nat) (r : Reg) (v : Word) : (g.commit i r v).slot = g.slot := rfl
@[simp] theorem Group.commit_width (g : Group) (i : Nat) (r : Reg) (v : Word) : (g.commit i r v).width = g.width := rfl
@[simp] theorem Group.commit_alloc (g : Group) (i : Nat) (r : Reg) (v : Word) : (g.commit i r v).alloc = g.alloc := rfl
@[simp] theorem Group.commit_lanes (g : Group) (i : Nat) (r : Reg) (v : Word) : (g.commit i r v).lanes = g.lanes.modify i fun l => { l with regs := l.regs.set r v } := rfl
@[simp] theorem Group.commit_enmask (g : Group) (i : Nat) (r : Reg) (v : Word) : (g.commit i r v).enmask = g.enmask := rfl
@[simp] theorem Group.commit_saveden (g : Group) (i : Nat) (r : Reg) (v : Word) : (g.commit i r v).saveden = g.saveden := rfl
@[simp] theorem Group.commit_routes (g : Group) (i : Nat) (r : Reg) (v : Word) : (g.commit i r v).routes = g.routes := rfl
@[simp] theorem Group.commit_tokens (g : Group) (i : Nat) (r : Reg) (v : Word) : (g.commit i r v).tokens = g.tokens := rfl
@[simp] theorem Group.commit_bdone (g : Group) (i : Nat) (r : Reg) (v : Word) : (g.commit i r v).bdone = g.bdone := rfl
@[simp] theorem Group.commit_bsealed (g : Group) (i : Nat) (r : Reg) (v : Word) : (g.commit i r v).bsealed = g.bsealed := rfl
@[simp] theorem Group.commit_fprm (g : Group) (i : Nat) (r : Reg) (v : Word) : (g.commit i r v).fprm = g.fprm := rfl
@[simp] theorem Group.commit_fpftz (g : Group) (i : Nat) (r : Reg) (v : Word) : (g.commit i r v).fpftz = g.fpftz := rfl
@[simp] theorem Group.commit_schk (g : Group) (i : Nat) (r : Reg) (v : Word) : (g.commit i r v).schk = g.schk := rfl
@[simp] theorem Group.commit_retired (g : Group) (i : Nat) (r : Reg) (v : Word) : (g.commit i r v).retired = g.retired := rfl
@[simp] theorem Group.commit_hnd (g : Group) (i : Nat) (r : Reg) (v : Word) : (g.commit i r v).hnd = g.hnd := rfl
@[simp] theorem Group.commit_defer (g : Group) (i : Nat) (r : Reg) (v : Word) : (g.commit i r v).defer = g.defer := rfl
@[simp] theorem Group.commit_code (g : Group) (i : Nat) (r : Reg) (v : Word) : (g.commit i r v).code = g.code := rfl
@[simp] theorem Group.commit_trapmask (g : Group) (i : Nat) (r : Reg) (v : Word) : (g.commit i r v).trapmask = g.trapmask := rfl
@[simp] theorem Group.commit_trapaddr (g : Group) (i : Nat) (r : Reg) (v : Word) : (g.commit i r v).trapaddr = g.trapaddr := rfl
@[simp] theorem Group.commit_trapinst (g : Group) (i : Nat) (r : Reg) (v : Word) : (g.commit i r v).trapinst = g.trapinst := rfl
@[simp] theorem Group.commit_snap (g : Group) (i : Nat) (r : Reg) (v : Word) : (g.commit i r v).snap = g.snap := rfl
@[simp] theorem Group.commit_pending (g : Group) (i : Nat) (r : Reg) (v : Word) : (g.commit i r v).pending = g.pending := rfl
@[simp] theorem Group.commit_arrival (g : Group) (i : Nat) (r : Reg) (v : Word) : (g.commit i r v).arrival = g.arrival := rfl
@[simp] theorem Group.commit_idle (g : Group) (i : Nat) (r : Reg) (v : Word) : (g.commit i r v).idle = g.idle := rfl
@[simp] theorem Group.commit_readyAt (g : Group) (i : Nat) (r : Reg) (v : Word) : (g.commit i r v).readyAt = g.readyAt := rfl
@[simp] theorem Group.commit_readySince (g : Group) (i : Nat) (r : Reg) (v : Word) : (g.commit i r v).readySince = g.readySince := rfl
@[simp] theorem Group.commit_stalls (g : Group) (i : Nat) (r : Reg) (v : Word) : (g.commit i r v).stalls = g.stalls := rfl
@[simp] theorem Group.commit_hist (g : Group) (i : Nat) (r : Reg) (v : Word) : (g.commit i r v).hist = g.hist.filter fun h => !(h.lane == i && h.reg == r) := rfl
@[simp] theorem Group.commit_sb (g : Group) (i : Nat) (r : Reg) (v : Word) : (g.commit i r v).sb = g.sb := rfl
@[simp] theorem Group.commit_waits (g : Group) (i : Nat) (r : Reg) (v : Word) : (g.commit i r v).waits = g.waits := rfl
@[simp] theorem Group.commit_deferred (g : Group) (i : Nat) (r : Reg) (v : Word) : (g.commit i r v).deferred = g.deferred := rfl
@[simp] theorem Group.commit_answers (g : Group) (i : Nat) (r : Reg) (v : Word) : (g.commit i r v).answers = g.answers := rfl
@[simp] theorem Group.commit_parked (g : Group) (i : Nat) (r : Reg) (v : Word) : (g.commit i r v).parked = g.parked := rfl
@[simp] theorem Group.commit_emptyWait (g : Group) (i : Nat) (r : Reg) (v : Word) : (g.commit i r v).emptyWait = g.emptyWait := rfl
@[simp] theorem Group.commit_qcounts (g : Group) (i : Nat) (r : Reg) (v : Word) : (g.commit i r v).qcounts = g.qcounts := rfl
@[simp] theorem Group.commit_segment (g : Group) (i : Nat) (r : Reg) (v : Word) : (g.commit i r v).segment = g.segment := rfl
@[simp] theorem Group.commit_ticket (g : Group) (i : Nat) (r : Reg) (v : Word) : (g.commit i r v).ticket = g.ticket := rfl
@[simp] theorem Group.commit_ended (g : Group) (i : Nat) (r : Reg) (v : Word) : (g.commit i r v).ended = g.ended := rfl
@[simp] theorem Group.writeFixed_team (g : Group) (now lat : Nat) (pc : DWord) (i : Nat) (r : Reg) (v : Word) : (g.writeFixed now lat pc i r v).team = g.team := rfl
@[simp] theorem Group.writeFixed_index (g : Group) (now lat : Nat) (pc : DWord) (i : Nat) (r : Reg) (v : Word) : (g.writeFixed now lat pc i r v).index = g.index := rfl
@[simp] theorem Group.writeFixed_core (g : Group) (now lat : Nat) (pc : DWord) (i : Nat) (r : Reg) (v : Word) : (g.writeFixed now lat pc i r v).core = g.core := rfl
@[simp] theorem Group.writeFixed_slot (g : Group) (now lat : Nat) (pc : DWord) (i : Nat) (r : Reg) (v : Word) : (g.writeFixed now lat pc i r v).slot = g.slot := rfl
@[simp] theorem Group.writeFixed_width (g : Group) (now lat : Nat) (pc : DWord) (i : Nat) (r : Reg) (v : Word) : (g.writeFixed now lat pc i r v).width = g.width := rfl
@[simp] theorem Group.writeFixed_alloc (g : Group) (now lat : Nat) (pc : DWord) (i : Nat) (r : Reg) (v : Word) : (g.writeFixed now lat pc i r v).alloc = g.alloc := rfl
@[simp] theorem Group.writeFixed_lanes (g : Group) (now lat : Nat) (pc : DWord) (i : Nat) (r : Reg) (v : Word) : (g.writeFixed now lat pc i r v).lanes = g.lanes.modify i fun l => { l with regs := l.regs.set r v } := rfl
@[simp] theorem Group.writeFixed_enmask (g : Group) (now lat : Nat) (pc : DWord) (i : Nat) (r : Reg) (v : Word) : (g.writeFixed now lat pc i r v).enmask = g.enmask := rfl
@[simp] theorem Group.writeFixed_saveden (g : Group) (now lat : Nat) (pc : DWord) (i : Nat) (r : Reg) (v : Word) : (g.writeFixed now lat pc i r v).saveden = g.saveden := rfl
@[simp] theorem Group.writeFixed_routes (g : Group) (now lat : Nat) (pc : DWord) (i : Nat) (r : Reg) (v : Word) : (g.writeFixed now lat pc i r v).routes = g.routes := rfl
@[simp] theorem Group.writeFixed_tokens (g : Group) (now lat : Nat) (pc : DWord) (i : Nat) (r : Reg) (v : Word) : (g.writeFixed now lat pc i r v).tokens = g.tokens := rfl
@[simp] theorem Group.writeFixed_bdone (g : Group) (now lat : Nat) (pc : DWord) (i : Nat) (r : Reg) (v : Word) : (g.writeFixed now lat pc i r v).bdone = g.bdone := rfl
@[simp] theorem Group.writeFixed_bsealed (g : Group) (now lat : Nat) (pc : DWord) (i : Nat) (r : Reg) (v : Word) : (g.writeFixed now lat pc i r v).bsealed = g.bsealed := rfl
@[simp] theorem Group.writeFixed_fprm (g : Group) (now lat : Nat) (pc : DWord) (i : Nat) (r : Reg) (v : Word) : (g.writeFixed now lat pc i r v).fprm = g.fprm := rfl
@[simp] theorem Group.writeFixed_fpftz (g : Group) (now lat : Nat) (pc : DWord) (i : Nat) (r : Reg) (v : Word) : (g.writeFixed now lat pc i r v).fpftz = g.fpftz := rfl
@[simp] theorem Group.writeFixed_schk (g : Group) (now lat : Nat) (pc : DWord) (i : Nat) (r : Reg) (v : Word) : (g.writeFixed now lat pc i r v).schk = g.schk := rfl
@[simp] theorem Group.writeFixed_retired (g : Group) (now lat : Nat) (pc : DWord) (i : Nat) (r : Reg) (v : Word) : (g.writeFixed now lat pc i r v).retired = g.retired := rfl
@[simp] theorem Group.writeFixed_hnd (g : Group) (now lat : Nat) (pc : DWord) (i : Nat) (r : Reg) (v : Word) : (g.writeFixed now lat pc i r v).hnd = g.hnd := rfl
@[simp] theorem Group.writeFixed_defer (g : Group) (now lat : Nat) (pc : DWord) (i : Nat) (r : Reg) (v : Word) : (g.writeFixed now lat pc i r v).defer = g.defer := rfl
@[simp] theorem Group.writeFixed_code (g : Group) (now lat : Nat) (pc : DWord) (i : Nat) (r : Reg) (v : Word) : (g.writeFixed now lat pc i r v).code = g.code := rfl
@[simp] theorem Group.writeFixed_trapmask (g : Group) (now lat : Nat) (pc : DWord) (i : Nat) (r : Reg) (v : Word) : (g.writeFixed now lat pc i r v).trapmask = g.trapmask := rfl
@[simp] theorem Group.writeFixed_trapaddr (g : Group) (now lat : Nat) (pc : DWord) (i : Nat) (r : Reg) (v : Word) : (g.writeFixed now lat pc i r v).trapaddr = g.trapaddr := rfl
@[simp] theorem Group.writeFixed_trapinst (g : Group) (now lat : Nat) (pc : DWord) (i : Nat) (r : Reg) (v : Word) : (g.writeFixed now lat pc i r v).trapinst = g.trapinst := rfl
@[simp] theorem Group.writeFixed_snap (g : Group) (now lat : Nat) (pc : DWord) (i : Nat) (r : Reg) (v : Word) : (g.writeFixed now lat pc i r v).snap = g.snap := rfl
@[simp] theorem Group.writeFixed_pending (g : Group) (now lat : Nat) (pc : DWord) (i : Nat) (r : Reg) (v : Word) : (g.writeFixed now lat pc i r v).pending = g.pending := rfl
@[simp] theorem Group.writeFixed_arrival (g : Group) (now lat : Nat) (pc : DWord) (i : Nat) (r : Reg) (v : Word) : (g.writeFixed now lat pc i r v).arrival = g.arrival := rfl
@[simp] theorem Group.writeFixed_idle (g : Group) (now lat : Nat) (pc : DWord) (i : Nat) (r : Reg) (v : Word) : (g.writeFixed now lat pc i r v).idle = g.idle := rfl
@[simp] theorem Group.writeFixed_readyAt (g : Group) (now lat : Nat) (pc : DWord) (i : Nat) (r : Reg) (v : Word) : (g.writeFixed now lat pc i r v).readyAt = g.readyAt := rfl
@[simp] theorem Group.writeFixed_readySince (g : Group) (now lat : Nat) (pc : DWord) (i : Nat) (r : Reg) (v : Word) : (g.writeFixed now lat pc i r v).readySince = g.readySince := rfl
@[simp] theorem Group.writeFixed_stalls (g : Group) (now lat : Nat) (pc : DWord) (i : Nat) (r : Reg) (v : Word) : (g.writeFixed now lat pc i r v).stalls = g.stalls := rfl
@[simp] theorem Group.writeFixed_sb (g : Group) (now lat : Nat) (pc : DWord) (i : Nat) (r : Reg) (v : Word) : (g.writeFixed now lat pc i r v).sb = g.sb := rfl
@[simp] theorem Group.writeFixed_waits (g : Group) (now lat : Nat) (pc : DWord) (i : Nat) (r : Reg) (v : Word) : (g.writeFixed now lat pc i r v).waits = g.waits := rfl
@[simp] theorem Group.writeFixed_deferred (g : Group) (now lat : Nat) (pc : DWord) (i : Nat) (r : Reg) (v : Word) : (g.writeFixed now lat pc i r v).deferred = g.deferred := rfl
@[simp] theorem Group.writeFixed_answers (g : Group) (now lat : Nat) (pc : DWord) (i : Nat) (r : Reg) (v : Word) : (g.writeFixed now lat pc i r v).answers = g.answers := rfl
@[simp] theorem Group.writeFixed_parked (g : Group) (now lat : Nat) (pc : DWord) (i : Nat) (r : Reg) (v : Word) : (g.writeFixed now lat pc i r v).parked = g.parked := rfl
@[simp] theorem Group.writeFixed_emptyWait (g : Group) (now lat : Nat) (pc : DWord) (i : Nat) (r : Reg) (v : Word) : (g.writeFixed now lat pc i r v).emptyWait = g.emptyWait := rfl
@[simp] theorem Group.writeFixed_qcounts (g : Group) (now lat : Nat) (pc : DWord) (i : Nat) (r : Reg) (v : Word) : (g.writeFixed now lat pc i r v).qcounts = g.qcounts := rfl
@[simp] theorem Group.writeFixed_segment (g : Group) (now lat : Nat) (pc : DWord) (i : Nat) (r : Reg) (v : Word) : (g.writeFixed now lat pc i r v).segment = g.segment := rfl
@[simp] theorem Group.writeFixed_ticket (g : Group) (now lat : Nat) (pc : DWord) (i : Nat) (r : Reg) (v : Word) : (g.writeFixed now lat pc i r v).ticket = g.ticket := rfl
@[simp] theorem Group.writeFixed_ended (g : Group) (now lat : Nat) (pc : DWord) (i : Nat) (r : Reg) (v : Word) : (g.writeFixed now lat pc i r v).ended = g.ended := rfl
@[simp] theorem Group.saveTrap_team (g : Group) (r : TrapRec) : (g.saveTrap r).team = g.team := rfl
@[simp] theorem Group.saveTrap_index (g : Group) (r : TrapRec) : (g.saveTrap r).index = g.index := rfl
@[simp] theorem Group.saveTrap_core (g : Group) (r : TrapRec) : (g.saveTrap r).core = g.core := rfl
@[simp] theorem Group.saveTrap_slot (g : Group) (r : TrapRec) : (g.saveTrap r).slot = g.slot := rfl
@[simp] theorem Group.saveTrap_width (g : Group) (r : TrapRec) : (g.saveTrap r).width = g.width := rfl
@[simp] theorem Group.saveTrap_alloc (g : Group) (r : TrapRec) : (g.saveTrap r).alloc = g.alloc := rfl
@[simp] theorem Group.saveTrap_enmask (g : Group) (r : TrapRec) : (g.saveTrap r).enmask = g.enmask := rfl
@[simp] theorem Group.saveTrap_saveden (g : Group) (r : TrapRec) : (g.saveTrap r).saveden = g.enmask := rfl
@[simp] theorem Group.saveTrap_routes (g : Group) (r : TrapRec) : (g.saveTrap r).routes = g.routes := rfl
@[simp] theorem Group.saveTrap_tokens (g : Group) (r : TrapRec) : (g.saveTrap r).tokens = g.tokens := rfl
@[simp] theorem Group.saveTrap_bdone (g : Group) (r : TrapRec) : (g.saveTrap r).bdone = g.bdone := rfl
@[simp] theorem Group.saveTrap_bsealed (g : Group) (r : TrapRec) : (g.saveTrap r).bsealed = g.bsealed := rfl
@[simp] theorem Group.saveTrap_fprm (g : Group) (r : TrapRec) : (g.saveTrap r).fprm = g.fprm := rfl
@[simp] theorem Group.saveTrap_fpftz (g : Group) (r : TrapRec) : (g.saveTrap r).fpftz = g.fpftz := rfl
@[simp] theorem Group.saveTrap_schk (g : Group) (r : TrapRec) : (g.saveTrap r).schk = g.schk := rfl
@[simp] theorem Group.saveTrap_retired (g : Group) (r : TrapRec) : (g.saveTrap r).retired = g.retired := rfl
@[simp] theorem Group.saveTrap_hnd (g : Group) (r : TrapRec) : (g.saveTrap r).hnd = g.hnd := rfl
@[simp] theorem Group.saveTrap_defer (g : Group) (r : TrapRec) : (g.saveTrap r).defer = r.defer := rfl
@[simp] theorem Group.saveTrap_code (g : Group) (r : TrapRec) : (g.saveTrap r).code = r.cause.code := rfl
@[simp] theorem Group.saveTrap_trapmask (g : Group) (r : TrapRec) : (g.saveTrap r).trapmask = r.lanes := rfl
@[simp] theorem Group.saveTrap_trapaddr (g : Group) (r : TrapRec) : (g.saveTrap r).trapaddr = r.addr := rfl
@[simp] theorem Group.saveTrap_trapinst (g : Group) (r : TrapRec) : (g.saveTrap r).trapinst = r.word := rfl
@[simp] theorem Group.saveTrap_snap (g : Group) (r : TrapRec) : (g.saveTrap r).snap = g.snap := rfl
@[simp] theorem Group.saveTrap_pending (g : Group) (r : TrapRec) : (g.saveTrap r).pending = g.pending := rfl
@[simp] theorem Group.saveTrap_arrival (g : Group) (r : TrapRec) : (g.saveTrap r).arrival = g.arrival := rfl
@[simp] theorem Group.saveTrap_idle (g : Group) (r : TrapRec) : (g.saveTrap r).idle = g.idle := rfl
@[simp] theorem Group.saveTrap_readyAt (g : Group) (r : TrapRec) : (g.saveTrap r).readyAt = g.readyAt := rfl
@[simp] theorem Group.saveTrap_readySince (g : Group) (r : TrapRec) : (g.saveTrap r).readySince = g.readySince := rfl
@[simp] theorem Group.saveTrap_stalls (g : Group) (r : TrapRec) : (g.saveTrap r).stalls = g.stalls := rfl
@[simp] theorem Group.saveTrap_hist (g : Group) (r : TrapRec) : (g.saveTrap r).hist = g.hist := rfl
@[simp] theorem Group.saveTrap_sb (g : Group) (r : TrapRec) : (g.saveTrap r).sb = g.sb := rfl
@[simp] theorem Group.saveTrap_waits (g : Group) (r : TrapRec) : (g.saveTrap r).waits = g.waits := rfl
@[simp] theorem Group.saveTrap_deferred (g : Group) (r : TrapRec) : (g.saveTrap r).deferred = g.deferred.filter fun x => r.taken != some x := rfl
@[simp] theorem Group.saveTrap_answers (g : Group) (r : TrapRec) : (g.saveTrap r).answers = g.answers := rfl
@[simp] theorem Group.saveTrap_parked (g : Group) (r : TrapRec) : (g.saveTrap r).parked = g.parked := rfl
@[simp] theorem Group.saveTrap_emptyWait (g : Group) (r : TrapRec) : (g.saveTrap r).emptyWait = g.emptyWait := rfl
@[simp] theorem Group.saveTrap_qcounts (g : Group) (r : TrapRec) : (g.saveTrap r).qcounts = g.qcounts := rfl
@[simp] theorem Group.saveTrap_segment (g : Group) (r : TrapRec) : (g.saveTrap r).segment = g.segment := rfl
@[simp] theorem Group.saveTrap_ticket (g : Group) (r : TrapRec) : (g.saveTrap r).ticket = g.ticket := rfl
@[simp] theorem Group.saveTrap_ended (g : Group) (r : TrapRec) : (g.saveTrap r).ended = g.ended := rfl
@[simp] theorem Group.enterHandler_team (g : Group) (e : DWord) : (g.enterHandler e).team = g.team := rfl
@[simp] theorem Group.enterHandler_index (g : Group) (e : DWord) : (g.enterHandler e).index = g.index := rfl
@[simp] theorem Group.enterHandler_core (g : Group) (e : DWord) : (g.enterHandler e).core = g.core := rfl
@[simp] theorem Group.enterHandler_slot (g : Group) (e : DWord) : (g.enterHandler e).slot = g.slot := rfl
@[simp] theorem Group.enterHandler_width (g : Group) (e : DWord) : (g.enterHandler e).width = g.width := rfl
@[simp] theorem Group.enterHandler_alloc (g : Group) (e : DWord) : (g.enterHandler e).alloc = g.alloc := rfl
@[simp] theorem Group.enterHandler_enmask (g : Group) (e : DWord) : (g.enterHandler e).enmask = g.liveMask := rfl
@[simp] theorem Group.enterHandler_saveden (g : Group) (e : DWord) : (g.enterHandler e).saveden = g.saveden := rfl
@[simp] theorem Group.enterHandler_routes (g : Group) (e : DWord) : (g.enterHandler e).routes = g.routes := rfl
@[simp] theorem Group.enterHandler_tokens (g : Group) (e : DWord) : (g.enterHandler e).tokens = g.tokens := rfl
@[simp] theorem Group.enterHandler_bdone (g : Group) (e : DWord) : (g.enterHandler e).bdone = g.bdone := rfl
@[simp] theorem Group.enterHandler_bsealed (g : Group) (e : DWord) : (g.enterHandler e).bsealed = g.bsealed := rfl
@[simp] theorem Group.enterHandler_fprm (g : Group) (e : DWord) : (g.enterHandler e).fprm = g.fprm := rfl
@[simp] theorem Group.enterHandler_fpftz (g : Group) (e : DWord) : (g.enterHandler e).fpftz = g.fpftz := rfl
@[simp] theorem Group.enterHandler_schk (g : Group) (e : DWord) : (g.enterHandler e).schk = g.schk := rfl
@[simp] theorem Group.enterHandler_retired (g : Group) (e : DWord) : (g.enterHandler e).retired = g.retired := rfl
@[simp] theorem Group.enterHandler_hnd (g : Group) (e : DWord) : (g.enterHandler e).hnd = true := rfl
@[simp] theorem Group.enterHandler_defer (g : Group) (e : DWord) : (g.enterHandler e).defer = g.defer := rfl
@[simp] theorem Group.enterHandler_code (g : Group) (e : DWord) : (g.enterHandler e).code = g.code := rfl
@[simp] theorem Group.enterHandler_trapmask (g : Group) (e : DWord) : (g.enterHandler e).trapmask = g.trapmask := rfl
@[simp] theorem Group.enterHandler_trapaddr (g : Group) (e : DWord) : (g.enterHandler e).trapaddr = g.trapaddr := rfl
@[simp] theorem Group.enterHandler_trapinst (g : Group) (e : DWord) : (g.enterHandler e).trapinst = g.trapinst := rfl
@[simp] theorem Group.enterHandler_snap (g : Group) (e : DWord) : (g.enterHandler e).snap = g.snap := rfl
@[simp] theorem Group.enterHandler_pending (g : Group) (e : DWord) : (g.enterHandler e).pending = g.pending := rfl
@[simp] theorem Group.enterHandler_arrival (g : Group) (e : DWord) : (g.enterHandler e).arrival = g.arrival := rfl
@[simp] theorem Group.enterHandler_idle (g : Group) (e : DWord) : (g.enterHandler e).idle = g.idle := rfl
@[simp] theorem Group.enterHandler_readyAt (g : Group) (e : DWord) : (g.enterHandler e).readyAt = g.readyAt := rfl
@[simp] theorem Group.enterHandler_readySince (g : Group) (e : DWord) : (g.enterHandler e).readySince = g.readySince := rfl
@[simp] theorem Group.enterHandler_stalls (g : Group) (e : DWord) : (g.enterHandler e).stalls = g.stalls := rfl
@[simp] theorem Group.enterHandler_hist (g : Group) (e : DWord) : (g.enterHandler e).hist = g.hist := rfl
@[simp] theorem Group.enterHandler_sb (g : Group) (e : DWord) : (g.enterHandler e).sb = g.sb := rfl
@[simp] theorem Group.enterHandler_waits (g : Group) (e : DWord) : (g.enterHandler e).waits = g.waits := rfl
@[simp] theorem Group.enterHandler_deferred (g : Group) (e : DWord) : (g.enterHandler e).deferred = g.deferred := rfl
@[simp] theorem Group.enterHandler_answers (g : Group) (e : DWord) : (g.enterHandler e).answers = g.answers := rfl
@[simp] theorem Group.enterHandler_parked (g : Group) (e : DWord) : (g.enterHandler e).parked = g.parked := rfl
@[simp] theorem Group.enterHandler_emptyWait (g : Group) (e : DWord) : (g.enterHandler e).emptyWait = g.emptyWait := rfl
@[simp] theorem Group.enterHandler_qcounts (g : Group) (e : DWord) : (g.enterHandler e).qcounts = g.qcounts := rfl
@[simp] theorem Group.enterHandler_segment (g : Group) (e : DWord) : (g.enterHandler e).segment = g.segment := rfl
@[simp] theorem Group.enterHandler_ticket (g : Group) (e : DWord) : (g.enterHandler e).ticket = g.ticket := rfl
@[simp] theorem Group.enterHandler_ended (g : Group) (e : DWord) : (g.enterHandler e).ended = g.ended := rfl
@[simp] theorem Group.returnFromTrap_team (g : Group) : (g.returnFromTrap).team = g.team := rfl
@[simp] theorem Group.returnFromTrap_index (g : Group) : (g.returnFromTrap).index = g.index := rfl
@[simp] theorem Group.returnFromTrap_core (g : Group) : (g.returnFromTrap).core = g.core := rfl
@[simp] theorem Group.returnFromTrap_slot (g : Group) : (g.returnFromTrap).slot = g.slot := rfl
@[simp] theorem Group.returnFromTrap_width (g : Group) : (g.returnFromTrap).width = g.width := rfl
@[simp] theorem Group.returnFromTrap_alloc (g : Group) : (g.returnFromTrap).alloc = g.alloc := rfl
@[simp] theorem Group.returnFromTrap_enmask (g : Group) : (g.returnFromTrap).enmask = g.saveden := rfl
@[simp] theorem Group.returnFromTrap_saveden (g : Group) : (g.returnFromTrap).saveden = g.saveden := rfl
@[simp] theorem Group.returnFromTrap_routes (g : Group) : (g.returnFromTrap).routes = g.routes := rfl
@[simp] theorem Group.returnFromTrap_tokens (g : Group) : (g.returnFromTrap).tokens = g.tokens := rfl
@[simp] theorem Group.returnFromTrap_bdone (g : Group) : (g.returnFromTrap).bdone = g.bdone := rfl
@[simp] theorem Group.returnFromTrap_bsealed (g : Group) : (g.returnFromTrap).bsealed = g.bsealed := rfl
@[simp] theorem Group.returnFromTrap_fprm (g : Group) : (g.returnFromTrap).fprm = g.fprm := rfl
@[simp] theorem Group.returnFromTrap_fpftz (g : Group) : (g.returnFromTrap).fpftz = g.fpftz := rfl
@[simp] theorem Group.returnFromTrap_schk (g : Group) : (g.returnFromTrap).schk = g.schk := rfl
@[simp] theorem Group.returnFromTrap_retired (g : Group) : (g.returnFromTrap).retired = g.retired := rfl
@[simp] theorem Group.returnFromTrap_hnd (g : Group) : (g.returnFromTrap).hnd = false := rfl
@[simp] theorem Group.returnFromTrap_defer (g : Group) : (g.returnFromTrap).defer = g.defer := rfl
@[simp] theorem Group.returnFromTrap_code (g : Group) : (g.returnFromTrap).code = g.code := rfl
@[simp] theorem Group.returnFromTrap_trapmask (g : Group) : (g.returnFromTrap).trapmask = g.trapmask := rfl
@[simp] theorem Group.returnFromTrap_trapaddr (g : Group) : (g.returnFromTrap).trapaddr = g.trapaddr := rfl
@[simp] theorem Group.returnFromTrap_trapinst (g : Group) : (g.returnFromTrap).trapinst = g.trapinst := rfl
@[simp] theorem Group.returnFromTrap_snap (g : Group) : (g.returnFromTrap).snap = g.snap := rfl
@[simp] theorem Group.returnFromTrap_pending (g : Group) : (g.returnFromTrap).pending = g.pending := rfl
@[simp] theorem Group.returnFromTrap_arrival (g : Group) : (g.returnFromTrap).arrival = g.arrival := rfl
@[simp] theorem Group.returnFromTrap_idle (g : Group) : (g.returnFromTrap).idle = g.idle := rfl
@[simp] theorem Group.returnFromTrap_readyAt (g : Group) : (g.returnFromTrap).readyAt = g.readyAt := rfl
@[simp] theorem Group.returnFromTrap_readySince (g : Group) : (g.returnFromTrap).readySince = g.readySince := rfl
@[simp] theorem Group.returnFromTrap_stalls (g : Group) : (g.returnFromTrap).stalls = g.stalls := rfl
@[simp] theorem Group.returnFromTrap_hist (g : Group) : (g.returnFromTrap).hist = g.hist := rfl
@[simp] theorem Group.returnFromTrap_sb (g : Group) : (g.returnFromTrap).sb = g.sb := rfl
@[simp] theorem Group.returnFromTrap_waits (g : Group) : (g.returnFromTrap).waits = g.waits := rfl
@[simp] theorem Group.returnFromTrap_deferred (g : Group) : (g.returnFromTrap).deferred = g.deferred := rfl
@[simp] theorem Group.returnFromTrap_answers (g : Group) : (g.returnFromTrap).answers = g.answers := rfl
@[simp] theorem Group.returnFromTrap_parked (g : Group) : (g.returnFromTrap).parked = g.parked := rfl
@[simp] theorem Group.returnFromTrap_emptyWait (g : Group) : (g.returnFromTrap).emptyWait = g.emptyWait := rfl
@[simp] theorem Group.returnFromTrap_qcounts (g : Group) : (g.returnFromTrap).qcounts = g.qcounts := rfl
@[simp] theorem Group.returnFromTrap_segment (g : Group) : (g.returnFromTrap).segment = g.segment := rfl
@[simp] theorem Group.returnFromTrap_ticket (g : Group) : (g.returnFromTrap).ticket = g.ticket := rfl
@[simp] theorem Group.returnFromTrap_ended (g : Group) : (g.returnFromTrap).ended = g.ended := rfl

end Sys2Proof.Machine
end

