-- ==== Sys2Proof/Laws/Memory.lean ====
section
/-! SUPPORT. Keyed lists and memory cells: what a read after a write gives, and that every memory operation keeps the canonical form. -/
namespace Sys2Proof.Machine

/-! ## Keyed lists -/

@[simp] theorem lookup_put_same {α : Type} (l : List (Nat × α)) (k : Nat) (x : α) : lookup (put l k x) k = some x := by
  induction l with
  | nil => simp [put, lookup]
  | cons e r ih => by_cases h : e.1 = k <;> simp [put, lookup, h, ih]

theorem lookup_put_other {α : Type} (l : List (Nat × α)) (k j : Nat) (x : α) (h : j ≠ k) : lookup (put l k x) j = lookup l j := by
  induction l with
  | nil => simp [put, lookup, Ne.symm h]
  | cons e r ih => by_cases hk : e.1 = k <;> by_cases hj : e.1 = j <;> simp_all [put, lookup, Ne.symm]

@[simp] theorem lookup_del_same {α : Type} (l : List (Nat × α)) (k : Nat) : lookup (del l k) k = none := by
  induction l with
  | nil => rfl
  | cons e r ih => by_cases h : e.1 = k <;> simp_all [del, lookup]

theorem lookup_del_other {α : Type} (l : List (Nat × α)) (k j : Nat) (h : j ≠ k) : lookup (del l k) j = lookup l j := by
  induction l with
  | nil => rfl
  | cons e r ih =>
    by_cases hk : e.1 = k
    · have : e.1 ≠ j := fun x => h (x ▸ hk)
      simp_all [del, lookup]
    · by_cases hj : e.1 = j <;> simp_all [del, lookup]

theorem lookup_mem {α : Type} {l : List (Nat × α)} {k : Nat} {x : α} (h : lookup l k = some x) : (k, x) ∈ l := by
  induction l with
  | nil => simp [lookup] at h
  | cons e r ih => by_cases hk : e.1 = k <;> simp_all [lookup] <;> simp [← h, ← hk]

theorem mem_put {α : Type} {l : List (Nat × α)} {k : Nat} {x : α} {e : Nat × α} (h : e ∈ put l k x) : e = (k, x) ∨ e ∈ l := by
  induction l with
  | nil => simpa [put] using h
  | cons a r ih =>
    by_cases hk : a.1 = k
    · simp only [put, hk, if_true, List.mem_cons] at h ⊢; tauto
    · simp only [put, hk, if_false, List.mem_cons] at h ⊢; tauto

@[simp] theorem State.group?_setGroup_same (s : State) (k : Nat) (g : Group) : (s.setGroup k g).group? k = some g := lookup_put_same _ _ _
theorem State.group?_setGroup_other (s : State) (k j : Nat) (g : Group) (h : j ≠ k) : (s.setGroup k g).group? j = s.group? j := lookup_put_other _ _ _ _ h
@[simp] theorem State.team?_setTeam_same (s : State) (k : Nat) (t : Team) : (s.setTeam k t).team? k = some t := lookup_put_same _ _ _
theorem State.team?_setTeam_other (s : State) (k j : Nat) (t : Team) (h : j ≠ k) : (s.setTeam k t).team? j = s.team? j := lookup_put_other _ _ _ _ h
@[simp] theorem State.gang?_setGang_same (s : State) (k : Nat) (g : Gang) : (s.setGang k g).gang? k = some g := lookup_put_same _ _ _
@[simp] theorem State.launch?_setLaunch_same (s : State) (k : Nat) (l : Launch) : (s.setLaunch k l).launch? k = some l := lookup_put_same _ _ _
theorem State.launch?_setLaunch_other (s : State) (k j : Nat) (l : Launch) (h : j ≠ k) : (s.setLaunch k l).launch? j = s.launch? j := lookup_put_other _ _ _ _ h
@[simp] theorem State.tile_setTile_same (s : State) (k : Nat) (t : Tile) : (s.setTile k t).tile k = t := by simp [State.tile, State.setTile]
theorem State.tile_setTile_other (s : State) (k j : Nat) (t : Tile) (h : j ≠ k) : (s.setTile k t).tile j = s.tile j := by simp [State.tile, State.setTile, lookup_put_other _ _ _ _ h]
@[simp] theorem State.group?_setTeam (s : State) (k j : Nat) (t : Team) : (s.setTeam k t).group? j = s.group? j := rfl
@[simp] theorem State.team?_setGroup (s : State) (k j : Nat) (g : Group) : (s.setGroup k g).team? j = s.team? j := rfl
@[simp] theorem State.gang?_setGroup (s : State) (k j : Nat) (g : Group) : (s.setGroup k g).gang? j = s.gang? j := rfl
@[simp] theorem State.launch?_setGroup (s : State) (k j : Nat) (g : Group) : (s.setGroup k g).launch? j = s.launch? j := rfl

/-! ## Cells: read after write -/

theorem cellFind_cellSet_same (l : List Host.Cell) (a : Nat) (v : Byte) : cellFind (cellSet l a v) a = some v := by
  induction l with
  | nil => simp [cellSet, cellFind]
  | cons c r ih =>
    obtain ⟨b, w⟩ := c
    by_cases h : a < b
    · simp [cellSet, cellFind, h]
    · by_cases h2 : a = b
      · simp [cellSet, cellFind, h2]
      · simp [cellSet, cellFind, h, h2, ih]

theorem cellFind_cellSet_other (l : List Host.Cell) (a x : Nat) (v : Byte) (hx : x ≠ a) : cellFind (cellSet l a v) x = cellFind l x := by
  induction l with
  | nil =>
    by_cases h : x < a <;> simp [cellSet, cellFind, h, hx]
  | cons c r ih =>
    obtain ⟨b, w⟩ := c
    by_cases h : a < b
    · by_cases h1 : x < a
      · have : x < b := by omega
        simp [cellSet, cellFind, h, h1, this]
      · simp [cellSet, cellFind, h, h1, hx]
    · by_cases h2 : a = b
      · subst h2
        by_cases h1 : x < a <;> simp [cellSet, cellFind, h1, hx]
      · by_cases h1 : x < b
        · simp [cellSet, cellFind, h, h2, h1]
        · by_cases h3 : x = b <;> simp [cellSet, cellFind, h, h2, h3, h1, ih]

/-- The canonical form of a list with a head: the head lists no 0, its address is below every other, and the rest has the form. -/
theorem cellsWf_cons (c : Host.Cell) (r : List Host.Cell) : cellsWf (c :: r) = true ↔ c.2 ≠ 0 ∧ (∀ d ∈ r, c.1 < d.1) ∧ cellsWf r = true := by
  induction r generalizing c with
  | nil => simp [cellsWf]
  | cons d r ih =>
    have e : cellsWf (c :: d :: r) = (c.2 != 0 && decide (c.1 < d.1) && cellsWf (d :: r)) := rfl
    rw [e]
    simp only [Bool.and_eq_true, bne_iff_ne, decide_eq_true_eq, List.mem_cons]
    constructor
    · rintro ⟨⟨h1, h2⟩, h3⟩
      refine ⟨h1, ?_, h3⟩
      rintro x (rfl | hx)
      · exact h2
      · exact lt_trans h2 (((ih d).1 h3).2.1 x hx)
    · rintro ⟨h1, h2, h3⟩
      exact ⟨⟨h1, h2 d (Or.inl rfl)⟩, h3⟩

theorem mem_cellSet {l : List Host.Cell} {a : Nat} {v : Byte} {c : Host.Cell} (h : c ∈ cellSet l a v) : c = (a, v) ∨ c ∈ l := by
  induction l with
  | nil => simpa [cellSet] using h
  | cons d r ih =>
    obtain ⟨b, w⟩ := d
    simp only [cellSet] at h
    split at h
    · simp at h; simpa using h
    · split at h <;> simp only [List.mem_cons] at h ⊢ <;> tauto

theorem mem_cellDrop {l : List Host.Cell} {a : Nat} {c : Host.Cell} (h : c ∈ cellDrop l a) : c ∈ l := by
  induction l with
  | nil => simpa [cellDrop] using h
  | cons d r ih =>
    obtain ⟨b, w⟩ := d
    simp only [cellDrop] at h
    split at h
    · exact h
    · split at h <;> simp only [List.mem_cons] at h ⊢ <;> tauto

theorem cellsWf_cellSet (l : List Host.Cell) (a : Nat) (v : Byte) (hv : v ≠ 0) (h : cellsWf l = true) : cellsWf (cellSet l a v) = true := by
  induction l with
  | nil => exact bne_iff_ne.2 hv
  | cons d r ih =>
    obtain ⟨b, w⟩ := d
    obtain ⟨h1, h2, h3⟩ := (cellsWf_cons _ _).1 h
    simp only [cellSet]
    split
    · rename_i hab
      refine (cellsWf_cons _ _).2 ⟨hv, ?_, h⟩
      intro c hc
      rcases List.mem_cons.1 hc with rfl | hc
      · exact hab
      · exact lt_trans hab (h2 c hc)
    · split
      · rename_i hab
        exact (cellsWf_cons _ _).2 ⟨hv, fun c hc => by rw [hab]; exact h2 c hc, h3⟩
      · refine (cellsWf_cons _ _).2 ⟨h1, ?_, ih h3⟩
        intro c hc
        rcases mem_cellSet hc with rfl | hc
        · show b < a; omega
        · exact h2 c hc

theorem cellsWf_cellDrop (l : List Host.Cell) (a : Nat) (h : cellsWf l = true) : cellsWf (cellDrop l a) = true := by
  induction l with
  | nil => rfl
  | cons d r ih =>
    obtain ⟨b, w⟩ := d
    obtain ⟨h1, h2, h3⟩ := (cellsWf_cons _ _).1 h
    simp only [cellDrop]
    split
    · exact h
    · split
      · exact h3
      · exact (cellsWf_cons _ _).2 ⟨h1, fun c hc => h2 c (mem_cellDrop hc), ih h3⟩

/-- A write of one byte keeps the canonical form. -/
theorem cellsWf_cellPut (l : List Host.Cell) (a : Nat) (v : Byte) (h : cellsWf l = true) : cellsWf (cellPut l a v) = true := by
  unfold cellPut
  split
  · exact cellsWf_cellDrop l a h
  · exact cellsWf_cellSet l a v ‹_› h

/-- A write of bytes keeps the canonical form. -/
theorem cellsWf_cellsWrite (bs : List Byte) (l : List Host.Cell) (a : Nat) (h : cellsWf l = true) : cellsWf (cellsWrite l a bs) = true := by
  induction bs generalizing l a with
  | nil => exact h
  | cons b bs ih => exact ih _ _ (cellsWf_cellPut l a b h)

theorem cellsWf_filter (l : List Host.Cell) (f : Host.Cell → Bool) (h : cellsWf l = true) : cellsWf (l.filter f) = true := by
  induction l with
  | nil => rfl
  | cons c r ih =>
    obtain ⟨h1, h2, h3⟩ := (cellsWf_cons _ _).1 h
    by_cases hf : f c = true
    · rw [List.filter_cons_of_pos hf]
      exact (cellsWf_cons _ _).2 ⟨h1, fun d hd => h2 d (List.mem_of_mem_filter hd), ih h3⟩
    · rw [List.filter_cons_of_neg hf]; exact ih h3

/-- Clearing a range keeps the canonical form. -/
theorem cellsWf_cellsClear (l : List Host.Cell) (a n : Nat) (h : cellsWf l = true) : cellsWf (cellsClear l a n) = true := cellsWf_filter l _ h

theorem cellFind_none_of_lt {l : List Host.Cell} {a : Nat} (h : ∀ c ∈ l, a < c.1) : cellFind l a = none := by
  cases l with
  | nil => rfl
  | cons c r => simp [cellFind, h c (by simp)]

theorem cellFind_cellDrop_same (l : List Host.Cell) (a : Nat) (h : cellsWf l = true) : cellFind (cellDrop l a) a = none := by
  induction l with
  | nil => rfl
  | cons d r ih =>
    obtain ⟨b, w⟩ := d
    obtain ⟨-, h2, h3⟩ := (cellsWf_cons _ _).1 h
    by_cases hb : a < b
    · simp [cellDrop, cellFind, hb]
    · by_cases he : a = b
      · subst he
        have : cellFind r a = none := cellFind_none_of_lt h2
        simp [cellDrop, this]
      · simp [cellDrop, cellFind, hb, he, ih h3]

theorem cellFind_cellDrop_other (l : List Host.Cell) (a x : Nat) (hx : x ≠ a) (h : cellsWf l = true) : cellFind (cellDrop l a) x = cellFind l x := by
  induction l with
  | nil => rfl
  | cons d r ih =>
    obtain ⟨b, w⟩ := d
    obtain ⟨-, h2, h3⟩ := (cellsWf_cons _ _).1 h
    by_cases hb : a < b
    · simp [cellDrop, hb]
    · by_cases he : a = b
      · subst he
        by_cases hxa : x < a
        · have : cellFind r x = none := cellFind_none_of_lt fun c hc => lt_trans hxa (h2 c hc)
          simp [cellDrop, cellFind, hxa, this]
        · simp [cellDrop, cellFind, hxa, hx]
      · by_cases hxb : x < b
        · simp [cellDrop, cellFind, hb, he, hxb]
        · by_cases hxe : x = b <;> simp [cellDrop, cellFind, hb, he, hxb, hxe, ih h3]

/-- A read of the byte just written. -/
theorem cellGet_cellPut_same (l : List Host.Cell) (a : Nat) (v : Byte) (h : cellsWf l = true) : cellGet (cellPut l a v) a = v := by
  unfold cellGet cellPut
  split
  · rename_i hv; simp [cellFind_cellDrop_same l a h, hv]
  · simp [cellFind_cellSet_same]

/-- A write leaves every other byte. -/
theorem cellGet_cellPut_other (l : List Host.Cell) (a x : Nat) (v : Byte) (hx : x ≠ a) (h : cellsWf l = true) : cellGet (cellPut l a v) x = cellGet l x := by
  unfold cellGet cellPut
  split
  · rw [cellFind_cellDrop_other l a x hx h]
  · rw [cellFind_cellSet_other l a x v hx]

/-- A write of bytes leaves every byte outside them. -/
theorem cellGet_cellsWrite_other (bs : List Byte) (l : List Host.Cell) (a x : Nat) (h : cellsWf l = true) (hx : x < a ∨ a + bs.length ≤ x) : cellGet (cellsWrite l a bs) x = cellGet l x := by
  induction bs generalizing l a with
  | nil => rfl
  | cons b bs ih =>
    have hl : (b :: bs).length = bs.length + 1 := rfl
    show cellGet (cellsWrite (cellPut l a b) (a + 1) bs) x = _
    rw [ih _ _ (cellsWf_cellPut l a b h) (by omega), cellGet_cellPut_other l a x b (by omega) h]

/-- A read of bytes just written. -/
theorem cellGet_cellsWrite_at (bs : List Byte) (l : List Host.Cell) (a k : Nat) (h : cellsWf l = true) (hk : k < bs.length) : cellGet (cellsWrite l a bs) (a + k) = bs.getD k 0 := by
  induction bs generalizing l a k with
  | nil => simp at hk
  | cons b bs ih =>
    show cellGet (cellsWrite (cellPut l a b) (a + 1) bs) (a + k) = _
    cases k with
    | zero => rw [cellGet_cellsWrite_other _ _ _ _ (cellsWf_cellPut l a b h) (by omega)]; simpa using cellGet_cellPut_same l a b h
    | succ k =>
      have := ih (cellPut l a b) (a + 1) k (cellsWf_cellPut l a b h) (by simpa using hk)
      rw [show a + (k + 1) = a + 1 + k by omega, this]; simp

/-- A list in canonical form lists no cell equal to what an unlisted address reads as. -/
theorem cellGet_eq_of_mem {l : List Host.Cell} {a : Nat} {v : Byte} (h : cellsWf l = true) (hm : (a, v) ∈ l) : cellGet l a = v ∧ v ≠ 0 := by
  induction l with
  | nil => simp at hm
  | cons c r ih =>
    obtain ⟨b, w⟩ := c
    obtain ⟨h1, h2, h3⟩ := (cellsWf_cons _ _).1 h
    rcases List.mem_cons.1 hm with he | hm
    · cases he; exact ⟨by simp [cellGet, cellFind], h1⟩
    · have hlt := h2 _ hm
      have := ih h3 hm
      refine ⟨?_, this.2⟩
      have hn : ¬ a < b := by have : b < a := hlt; omega
      have hn2 : a ≠ b := by have : b < a := hlt; omega
      simpa [cellGet, cellFind, hn, hn2] using this.1

/-! ## The memory operations of the state keep the form -/

theorem foldl_cells_wf {α : Type} (f : List Host.Cell → α → List Host.Cell) (hf : ∀ l x, cellsWf l = true → cellsWf (f l x) = true) (xs : List α) (l : List Host.Cell) (h : cellsWf l = true) :
    cellsWf (xs.foldl f l) = true := by
  induction xs generalizing l with
  | nil => exact h
  | cons x xs ih => exact ih _ (hf l x h)

theorem State.cellsOk_iff (s : State) : s.cellsOk = true ↔ cellsWf s.mem.hbm = true ∧ ∀ t ∈ s.teams, cellsWf t.2.window = true := by
  simp [State.cellsOk, Memory.wf]

/-- What keeps HBM4's form and the teams keeps the form. -/
theorem State.cellsOk_of {s t : State} (h : s.cellsOk = true) (hm : cellsWf t.mem.hbm = true) (ht : t.teams = s.teams) : t.cellsOk = true :=
  (t.cellsOk_iff).2 ⟨hm, ht ▸ ((s.cellsOk_iff).1 h).2⟩

theorem State.putPhys_teams (s : State) (core : Option Nat) (priv : Bool) (bs : List Byte) (pa : Nat) : (s.putPhys core priv bs pa).teams = s.teams := by
  unfold State.putPhys; split <;> rfl

/-- R330, R400: a physical write keeps the form. -/
theorem State.cellsOk_putPhys (s : State) (core : Option Nat) (priv : Bool) (bs : List Byte) (pa : Nat) (h : s.cellsOk = true) : (s.putPhys core priv bs pa).cellsOk = true := by
  have hm := ((s.cellsOk_iff).1 h).1
  refine State.cellsOk_of h ?_ (s.putPhys_teams core priv bs pa)
  unfold State.putPhys
  split
  · exact hm
  · exact cellsWf_cellsWrite _ _ _ hm

theorem State.cellsOk_setTeam (s : State) (k : Nat) (t : Team) (h : s.cellsOk = true) (hw : cellsWf t.window = true) : (s.setTeam k t).cellsOk = true := by
  have hs := (s.cellsOk_iff).1 h
  refine ((s.setTeam k t).cellsOk_iff).2 ⟨hs.1, ?_⟩
  intro x hx
  rcases mem_put hx with rfl | hx
  · exact hw
  · exact hs.2 x hx

theorem State.cellsOk_foldl {α : Type} (f : State → α → State) (hf : ∀ s x, s.cellsOk = true → (f s x).cellsOk = true) (xs : List α) (s : State) (h : s.cellsOk = true) : (xs.foldl f s).cellsOk = true := by
  induction xs generalizing s with
  | nil => exact h
  | cons x xs ih => exact ih _ (hf s x h)

/-- A write to a window keeps the form. -/
theorem State.cellsOk_putWin (s : State) (t o : Nat) (bs : List Byte) (h : s.cellsOk = true) : (s.putWin t o bs).cellsOk = true := by
  have h' : (({ s with porters := dropReservations s.porters t o bs.length } : State).freshWords t o bs.length).cellsOk = true := h
  simp only [State.putWin, State.modTeam]
  split
  · rename_i tm htm
    refine State.cellsOk_setTeam _ _ _ h' (cellsWf_cellsWrite _ _ _ ?_)
    exact ((State.cellsOk_iff _).1 h').2 (t, tm) (lookup_mem htm)
  · exact h'

/-- A write at a place, in a window or in HBM4 with what is copied forward, keeps the form. -/
theorem State.cellsOk_putTagged (s : State) (tag : Nat) (core : Option Nat) (priv : Bool) (l : Loc) (bs : List Byte) (h : s.cellsOk = true) : (s.putTagged tag core priv l bs).cellsOk = true := by
  cases l with
  | phys pa => exact State.cellsOk_foldl _ (fun s a hs => s.cellsOk_putPhys core priv bs a hs) _ _ h
  | win t o => exact s.cellsOk_putWin t o _ h

theorem State.cellsOk_putBytes (s : State) (core : Option Nat) (priv : Bool) (l : Loc) (bs : List Byte) (h : s.cellsOk = true) : (s.putBytes core priv l bs).cellsOk = true :=
  s.cellsOk_putTagged _ core priv l bs h

/-- Differences of check values listed (R399, R403) keep the form. -/
theorem State.cellsOk_setDiffs (ks : List Nat) (s : State) (h : s.cellsOk = true) :
    (ks.foldl (fun (t : State) k => if t.checkDiff k = 0 then t.setDiff k 1 else t) s).cellsOk = true :=
  State.cellsOk_foldl _ (fun s k hs => by split <;> exact hs) ks s h

/-- R330, R400: dirty bytes brought home keep the form. -/
theorem State.cellsOk_bringHome (s : State) (core : Nat) (out : List Host.Cell) (h : s.cellsOk = true) : (s.bringHome core out).cellsOk = true := by
  have h1 : ({ s with mem := { s.mem with hbm := out.foldl (fun m (c : Host.Cell) => cellPut m c.1 c.2) s.mem.hbm } } : State).cellsOk = true :=
    State.cellsOk_of h (foldl_cells_wf _ (fun l x hl => cellsWf_cellPut l x.1 x.2 hl) _ _ ((s.cellsOk_iff).1 h).1) rfl
  exact State.cellsOk_setDiffs _ _ h1

/-- R330: writing back a core's dirty lines keeps the form. -/
theorem State.cellsOk_writeBack (s : State) (core : Nat) (h : s.cellsOk = true) : (s.writeBack core).cellsOk = true := s.cellsOk_bringHome core _ h

theorem State.cellsOk_evictLine (s : State) (core line : Nat) (h : s.cellsOk = true) : (s.evictLine core line).cellsOk = true := s.cellsOk_bringHome core _ h

theorem State.cellsOk_writeLocal (bs : List Byte) (s : State) (asid la : Nat) (h : s.cellsOk = true) : (s.writeLocal asid la bs).cellsOk = true :=
  State.cellsOk_foldl _ (fun s x hs => by
    split
    · exact State.cellsOk_putBytes _ _ _ _ _ hs
    · exact hs) _ _ h

theorem State.cellsOk_writePlaces (ps : List Place) (s : State) (c : Ctx) (bs : List Byte) (h : s.cellsOk = true) : (s.writePlaces c ps bs).cellsOk = true := by
  induction ps generalizing s bs with
  | nil => exact h
  | cons p ps ih => exact ih _ _ (State.cellsOk_putTagged _ _ _ _ _ _ h)

/-- R254: discarding a tile keeps the form. -/
theorem State.cellsOk_discardTile (s : State) (k : Nat) (h : s.cellsOk = true) : (s.discardTile k).cellsOk = true := by
  unfold State.discardTile
  split
  · exact h
  · exact State.cellsOk_of h (cellsWf_cellsClear _ _ _ ((s.cellsOk_iff).1 h).1) rfl

theorem State.cellsOk_setTile (s : State) (k : Nat) (t : Tile) (h : s.cellsOk = true) : (s.setTile k t).cellsOk = true := h

theorem State.cellsOk_dropTile (s : State) (k : Nat) (h : s.cellsOk = true) : (s.dropTile k).cellsOk = true := by
  unfold State.dropTile
  dsimp only
  split
  · exact State.cellsOk_setTile _ _ _ (s.cellsOk_discardTile k h)
  · exact h

/-- What stands dirty in the L1s is no part of the form. -/
theorem State.cellsOk_dirty (s : State) (d : List (Nat × List Host.Cell)) (h : s.cellsOk = true) : ({ s with mem := { s.mem with l1dirty := d } } : State).cellsOk = true := h

/-- R330: an eviction of frames keeps the form. -/
theorem State.cellsOk_evictFrames (s : State) (ps : List Page) (h : s.cellsOk = true) : (s.evictFrames ps).cellsOk = true := by
  unfold State.evictFrames
  refine State.cellsOk_foldl _ (fun s c hs => ?_) _ _ h
  exact State.cellsOk_dirty _ _ (s.cellsOk_bringHome c.1 _ hs)

/-- R155: building a block keeps the form. -/
theorem State.cellsOk_buildBlock (s : State) (asid : Nat) (bs : List Byte) (h : s.cellsOk = true) : (s.buildBlock asid bs).2.cellsOk = true :=
  State.cellsOk_of h (cellsWf_cellsWrite _ _ _ (cellsWf_cellsClear _ _ _ ((s.cellsOk_iff).1 h).1)) rfl

/-- R456: a claim slot written keeps the form. -/
theorem State.cellsOk_setClaim (s : State) (n : Nat) (c : ClaimSlot) (h : s.cellsOk = true) : (s.setClaim n c).cellsOk = true :=
  State.cellsOk_of h (by rw [State.setClaim_mem_hbm]; exact cellsWf_cellsWrite _ _ _ ((s.cellsOk_iff).1 h).1) rfl

/-- The memory right after reset has the form. -/
theorem State.reset_mem_wf : State.reset.mem.wf = true := rfl

end Sys2Proof.Machine
end

