-- ==== Sys2Proof/Laws/Ops.lean ====
section
/-! SUPPORT. One lemma for each shared operation, saying what it does: the instruction of the packet in issue, lanes and registers before and after a write, the ends of instructions, results posted to the scoreboard, waits, and traps. -/
namespace Sys2Proof.Machine

/-! ## The packet in issue -/

/-- There is a packet in issue exactly when the packet and its group stand in the state. -/
theorem State.issuing_iff (s : State) (p : Packet) (g : Group) : s.issuing = some (p, g) ↔ s.packet = some p ∧ s.group? p.gid = some g := by
  unfold State.issuing
  constructor
  · intro h
    split at h
    · cases h
    · rename_i q hq
      split at h
      · cases h
      · rename_i g' hg
        simp only [Option.some.injEq, Prod.mk.injEq] at h
        obtain ⟨rfl, rfl⟩ := h
        exact ⟨hq, hg⟩
  · rintro ⟨hp, hg⟩
    simp [hp, hg]

/-- An instruction of the packet in issue answers the state its effect gives. -/
theorem State.issue_eq {s : State} {p : Packet} {g : Group} (h : s.issuing = some (p, g)) (k : Packet → Group → State) : s.issue k = .next (k p g) := by
  simp [State.issue, h]

/-- With no packet in issue an instruction has no effect: it is refused. -/
theorem State.issue_none {s : State} (h : s.issuing = none) (k : Packet → Group → State) : s.issue k = .refused .noIssuingGroup := by
  simp [State.issue, h]

/-- What an instruction answers: a next state, of the packet in issue and its group. -/
theorem State.issue_next {s t : State} {k : Packet → Group → State} (h : s.issue k = .next t) : ∃ p g, s.issuing = some (p, g) ∧ t = k p g := by
  unfold State.issue at h
  cases hi : s.issuing with
  | none => simp [hi] at h
  | some x => exact ⟨x.1, x.2, by simp, by simpa [hi] using h.symm⟩

/-! ## Lanes -/

/-- A lane of a group after a change of the lanes of a set. -/
theorem Group.lane_modLanes (g : Group) (m : LaneMask) (f : Lane → Lane) (i : Nat) :
    (g.modLanes m f).lane i = if m.getLsbD i = true ∧ i < g.lanes.length then f (g.lane i) else g.lane i := by
  simp only [Group.lane, Group.modLanes, List.getD_eq_getElem?_getD, List.getElem?_mapIdx]
  rcases Nat.lt_or_ge i g.lanes.length with h | h
  · by_cases hm : m.getLsbD i = true <;> simp [h, hm]
  · simp [Nat.not_lt.mpr h]

/-- A lane of a group whose lanes of a set moved to an address (R88, R132). -/
theorem Group.lane_moveTo (g : Group) (m : LaneMask) (pc : DWord) (i : Nat) :
    (g.moveTo m pc).lane i = if m.getLsbD i = true ∧ i < g.lanes.length then { g.lane i with pc := pc } else g.lane i :=
  g.lane_modLanes m _ i

/-- Moving lanes changes no register that an instruction reads. -/
@[simp] theorem Group.read_moveTo (g : Group) (m : LaneMask) (pc : DWord) (now i : Nat) (r : Reg) : (g.moveTo m pc).read now i r = g.read now i r := by
  simp only [Group.read, Group.moveTo_hist, Group.lane_moveTo]
  split <;> rfl

/-- Moving lanes keeps their number. -/
theorem Group.length_moveTo (g : Group) (m : LaneMask) (pc : DWord) : (g.moveTo m pc).lanes.length = g.lanes.length := by
  simp

/-! ## Registers (R30, R91, R93) -/

/-- A lane after a register write of one lane. -/
theorem Group.lane_modify (g : Group) (lane i : Nat) (f : Lane → Lane) :
    (g.lanes.modify lane f).getD i Lane.blank = if i = lane ∧ i < g.lanes.length then f (g.lane i) else g.lane i := by
  simp only [Group.lane, List.getD_eq_getElem?_getD, List.getElem?_modify]
  rcases Nat.lt_or_ge i g.lanes.length with h | h
  · by_cases he : lane = i
    · simp [he, h]
    · simp [h, he, Ne.symm he]
  · simp [Nat.not_lt.mpr h]

/-- A fixed-latency write changes nothing of a lane but the one register. -/
theorem Group.lane_writeFixed (g : Group) (now lat : Nat) (pc : DWord) (lane : Nat) (r : Reg) (v : Word) (i : Nat) :
    (g.writeFixed now lat pc lane r v).lane i = if i = lane ∧ i < g.lanes.length then { g.lane i with regs := (g.lane i).regs.set r v } else g.lane i :=
  g.lane_modify lane i _

/-- The pending writes after a fixed-latency write: one more, the newest (R91). -/
theorem Group.hist_writeFixed (g : Group) (now lat : Nat) (pc : DWord) (lane : Nat) (r : Reg) (v : Word) :
    (g.writeFixed now lat pc lane r v).hist = { lane := lane, reg := r, old := (g.lane lane).regs.get r, issued := now, visible := now + lat, writer := pc } :: g.hist := rfl

/-- From its cycle on a fixed-latency write is read, whatever older writes are still pending (R91). -/
theorem Group.read_writeFixed_same (g : Group) (now lat : Nat) (pc : DWord) (lane : Nat) (r : Reg) (v : Word) (later : Nat)
    (hl : now + lat ≤ later) (hi : lane < g.lanes.length) : (g.writeFixed now lat pc lane r v).read later lane r = v := by
  simp only [Group.read, Group.lane_writeFixed, Group.hist_writeFixed, seenThrough, hl, hi, and_self, if_true]
  exact Vector.getElem_set_self r.isLt

/-- Before its cycle a fixed-latency write does not show: the register reads as it did (R91). -/
theorem Group.read_writeFixed_early (g : Group) (now lat : Nat) (pc : DWord) (lane : Nat) (r : Reg) (v : Word) (early i : Nat) (q : Reg)
    (he : early < now + lat) (hi : lane = i → i < g.lanes.length) : (g.writeFixed now lat pc lane r v).read early i q = g.read early i q := by
  simp only [Group.read, Group.lane_writeFixed, Group.hist_writeFixed, seenThrough]
  by_cases h : lane = i ∧ r = q
  · obtain ⟨rfl, rfl⟩ := h
    simp [Nat.not_le.mpr he]
  · rw [if_neg h]
    by_cases hx : i = lane
    · subst hx
      have hr : r ≠ q := fun e => h ⟨rfl, e⟩
      have hv : r.val ≠ q.val := fun e => hr (Fin.ext e)
      simp only [hi rfl, and_self, if_true]
      congr 1
      exact Vector.getElem_set_ne r.isLt q.isLt hv
    · simp [hx]

/-- A fixed-latency write changes no other register of any lane. -/
theorem Group.read_writeFixed_other (g : Group) (now lat : Nat) (pc : DWord) (lane : Nat) (r : Reg) (v : Word) (t i : Nat) (q : Reg)
    (h : ¬ (lane = i ∧ r = q)) : (g.writeFixed now lat pc lane r v).read t i q = g.read t i q := by
  simp only [Group.read, Group.lane_writeFixed, Group.hist_writeFixed, seenThrough]
  rw [if_neg h]
  by_cases hx : i = lane ∧ i < g.lanes.length
  · obtain ⟨rfl, hi⟩ := hx
    have hr : r ≠ q := fun e => h ⟨rfl, e⟩
    have hv : r.val ≠ q.val := fun e => hr (Fin.ext e)
    simp only [hi, and_self, if_true]
    congr 1
    exact Vector.getElem_set_ne r.isLt q.isLt hv
  · rw [if_neg hx]

/-- Fixed-latency writes keep the number of lanes. -/
@[simp] theorem Group.length_writesFixed (ws : List (Nat × Reg × Word)) (g : Group) (now lat : Nat) (pc : DWord) : (g.writesFixed now lat pc ws).lanes.length = g.lanes.length := by
  induction ws generalizing g with
  | nil => rfl
  | cons w ws ih => rw [Group.writesFixed, ih]; simp

/-- Fixed-latency writes keep each lane's PC, flags, traps and place in its life. -/
theorem Group.lane_writesFixed (ws : List (Nat × Reg × Word)) (g : Group) (now lat : Nat) (pc : DWord) (i : Nat) :
    ∃ rs, (g.writesFixed now lat pc ws).lane i = { g.lane i with regs := rs } := by
  induction ws generalizing g with
  | nil => exact ⟨_, rfl⟩
  | cons w ws ih =>
    obtain ⟨rs, h⟩ := ih (g.writeFixed now lat pc w.1 w.2.1 w.2.2)
    refine ⟨rs, ?_⟩
    rw [Group.writesFixed, h, Group.lane_writeFixed]
    split <;> rfl

/-- Fixed-latency writes change no register of a lane that they do not name. -/
theorem Group.read_writesFixed_other (ws : List (Nat × Reg × Word)) (g : Group) (now lat : Nat) (pc : DWord) (t i : Nat) (q : Reg)
    (h : ∀ w ∈ ws, ¬ (w.1 = i ∧ w.2.1 = q)) : (g.writesFixed now lat pc ws).read t i q = g.read t i q := by
  induction ws generalizing g with
  | nil => rfl
  | cons w ws ih =>
    rw [Group.writesFixed, ih _ fun x hx => h x (List.mem_cons_of_mem _ hx)]
    exact Group.read_writeFixed_other g now lat pc _ _ _ t i q (h w List.mem_cons_self)

/-- Fixed-latency writes of a lane that exists do not show before their cycle. -/
theorem Group.read_writesFixed_early (ws : List (Nat × Reg × Word)) (g : Group) (now lat : Nat) (pc : DWord) (early i : Nat) (q : Reg)
    (he : early < now + lat) (h : ∀ w ∈ ws, w.1 = i → i < g.lanes.length) : (g.writesFixed now lat pc ws).read early i q = g.read early i q := by
  induction ws generalizing g with
  | nil => rfl
  | cons w ws ih =>
    rw [Group.writesFixed, ih _ fun x hx => by simpa using h x (List.mem_cons_of_mem _ hx)]
    exact Group.read_writeFixed_early g now lat pc _ _ _ early i q he (h w List.mem_cons_self)

/-- What fixed-latency writes keep of the group: all but its lanes and its pending writes. -/
theorem Group.writesFixed_keeps (ws : List (Nat × Reg × Word)) (g : Group) (now lat : Nat) (pc : DWord) :
    g.writesFixed now lat pc ws = { g with lanes := (g.writesFixed now lat pc ws).lanes, hist := (g.writesFixed now lat pc ws).hist } := by
  induction ws generalizing g with
  | nil => rfl
  | cons w ws ih =>
    rw [Group.writesFixed]
    have h := ih (g.writeFixed now lat pc w.1 w.2.1 w.2.2)
    rw [h]
    rfl

/-- The arrival of a scoreboarded result changes nothing of a lane but the one register. -/
theorem Group.lane_commit (g : Group) (lane : Nat) (r : Reg) (v : Word) (i : Nat) :
    (g.commit lane r v).lane i = if i = lane ∧ i < g.lanes.length then { g.lane i with regs := (g.lane i).regs.set r v } else g.lane i :=
  g.lane_modify lane i _

/-- A value through pending writes none of which names the register. -/
theorem seenThrough_filter (hs : List HistWrite) (i : Nat) (q : Reg) (now : Nat) (v : Word) :
    seenThrough (hs.filter fun h => !(h.lane == i && h.reg == q)) i q now v = v := by
  induction hs with
  | nil => rfl
  | cons h hs ih =>
    by_cases he : h.lane = i ∧ h.reg = q
    · rw [List.filter_cons_of_neg (by simp [he.1, he.2])]
      exact ih
    · rw [List.filter_cons_of_pos (by simpa [imp_iff_not_or] using he), seenThrough, if_neg he, ih]

/-- The arrival of a scoreboarded result is read at once, over every older pending write (R93). -/
theorem Group.read_commit_same (g : Group) (lane : Nat) (r : Reg) (v : Word) (now : Nat) (hi : lane < g.lanes.length) : (g.commit lane r v).read now lane r = v := by
  have hv : ((g.commit lane r v).lane lane).regs.get r = v := by
    rw [Group.lane_commit, if_pos ⟨rfl, hi⟩]
    exact Vector.getElem_set_self r.isLt
  rw [Group.read, Group.commit_hist, seenThrough_filter, hv]

/-! ## The ends of instructions -/

/-- What the end of an instruction leaves: the group stored with its lanes moved on, and everything else as it was (R88). -/
theorem State.finish_eq (s : State) (p : Packet) (g : Group) : s.finish p g = s.setGroup p.gid (g.moveTo p.cur.lanes (succPc p.cur.pc)) := rfl
@[simp] theorem State.group?_finish (s : State) (p : Packet) (g : Group) : (s.finish p g).group? p.gid = some (g.moveTo p.cur.lanes (succPc p.cur.pc)) := State.group?_setGroup_same _ _ _
theorem State.group?_finish_other (s : State) (p : Packet) (g : Group) (k : Nat) (h : k ≠ p.gid) : (s.finish p g).group? k = s.group? k := State.group?_setGroup_other _ _ _ _ h
@[simp] theorem State.finish_packet (s : State) (p : Packet) (g : Group) : (s.finish p g).packet = s.packet := rfl

/-- A group that exists, changed. -/
theorem State.modGroup_eq {s : State} {k : Nat} {g : Group} (h : s.group? k = some g) (f : Group → Group) : s.modGroup k f = s.setGroup k (f g) := by
  simp [State.modGroup, h]
theorem State.group?_modGroup_same {s : State} {k : Nat} {g : Group} (h : s.group? k = some g) (f : Group → Group) : (s.modGroup k f).group? k = some (f g) := by
  simp [State.modGroup_eq h]
theorem State.group?_modGroup_other (s : State) (k j : Nat) (f : Group → Group) (h : j ≠ k) : (s.modGroup k f).group? j = s.group? j := by
  unfold State.modGroup
  split
  · exact State.group?_setGroup_other _ _ _ _ h
  · rfl

/-- A result posted to the scoreboard: one entry more, due after its latency; the group is otherwise as it was (R93). -/
theorem State.post_eq {s : State} {gid : Nat} {g : Group} (h : s.group? gid = some g) (pc : DWord) (lanes : LaneMask) (regs : List Reg) (vals : List (Nat × Reg × Word)) (lat : Nat) :
    s.post gid pc lanes regs vals lat =
      ({ s with sched := { s.sched with nextId := s.sched.nextId + 1 } } : State).setGroup gid
        { g with sb := g.sb ++ [{ id := s.sched.nextId, pc := pc, lanes := lanes, regs := regs, vals := vals, due := s.cycle + lat, kind := .ready, op := .nothing, rows := [], epoch := s.dev.qepoch }] } := by
  have h' : ({ s with sched := { s.sched with nextId := s.sched.nextId + 1 } } : State).group? gid = some g := h
  simp only [State.post, State.fresh]
  rw [State.modGroup_eq h']

/-! ## Waits (R42) -/

/-- An instruction's wait is found where it was entered. -/
theorem Group.waitOf_enterWait (g : Group) (now : Nat) (k : WaitKind) (sl : Slot) :
    (g.enterWait now k sl).waitOf sl.pc sl.place = some { kind := k, slot := sl, since := ((g.waitOf sl.pc sl.place).map (·.since)).getD now } := by
  simp only [Group.waitOf, Group.enterWait, List.find?_append]
  rw [List.find?_eq_none.mpr]
  · simp
  · intro x hx
    have := (List.mem_filter.mp hx).2
    simp only [Bool.not_eq_true', Bool.not_eq_true] at this ⊢
    exact this

/-- An instruction whose wait ended waits no more. -/
theorem Group.waitOf_leaveWait (g : Group) (sl : Slot) : (g.leaveWait sl).waitOf sl.pc sl.place = none := by
  simp only [Group.waitOf, Group.leaveWait_waits]
  rw [List.find?_eq_none]
  intro x hx
  have := (List.mem_filter.mp hx).2
  simp only [Bool.not_eq_true', Bool.not_eq_true] at this ⊢
  exact this

/-! ## Traps (R350 to R363) -/

/-- A group that is no recompute team's and in no handler takes a trap whose entry there is: it enters the handler with its trap state saved, and nothing else of the machine changes (R357). -/
theorem State.takeTrap_handler {s : State} {gid : Nat} {g : Group} {r : TrapRec} {e : DWord} (hg : s.group? gid = some g) (hh : g.hnd = false)
    (hr : s.isRecompute g = false) (he : entryOf r.cause (s.trapvec (s.asidOf g)) = some e) : s.takeTrap gid r = s.setGroup gid ((g.saveTrap r).enterHandler e) := by
  simp [State.takeTrap, hg, hh, hr, he]

/-- A trap with no entry parks the group with its trap state saved (R362). -/
theorem State.takeTrap_park {s : State} {gid : Nat} {g : Group} {r : TrapRec} (hg : s.group? gid = some g) (hh : g.hnd = false)
    (hr : s.isRecompute g = false) (he : entryOf r.cause (s.trapvec (s.asidOf g)) = none) : s.takeTrap gid r = (s.setGroup gid (g.saveTrap r)).park gid := by
  simp [State.takeTrap, hg, hh, hr, he]

/-- A trap in a handler is a double trap (R360). -/
theorem State.takeTrap_double {s : State} {gid : Nat} {g : Group} {r : TrapRec} (hg : s.group? gid = some g) (hh : g.hnd = true) :
    s.takeTrap gid r = s.doubleTrap gid g.code r.cause.code r.lanes r.addr := by
  simp [State.takeTrap, hg, hh]

/-- A trap of a recompute team's group stops it and asks for the kill of its launch with the trap's cause (R393). -/
theorem State.takeTrap_recompute {s : State} {gid : Nat} {g : Group} {r : TrapRec} (hg : s.group? gid = some g) (hh : g.hnd = false) (hr : s.isRecompute g = true) :
    s.takeTrap gid r = (s.setGroup gid { (g.saveTrap r) with parked := some s.sched.parks, waits := [] }).requestKill (s.launchIdOf g) r.cause := by
  simp [State.takeTrap, hg, hh, hr]

/-- A second trap of a packet has no effect but the end of the instruction's own wait (R353). -/
theorem State.raise_second {s : State} {p : Packet} {gid : Nat} {r : TrapRec} (hp : s.packet = some p) (ht : p.trap.isSome = true) : s.raise gid r = s.modGroup gid fun g => g.leaveWait p.cur := by
  simp [State.raise, hp, ht]

/-- A trap that another instruction of the packet still follows is kept with the packet (R353). -/
theorem State.raise_first {s : State} {p : Packet} {gid : Nat} {r : TrapRec} (hp : s.packet = some p) (ht : p.trap = none) (hr : p.rest ≠ []) :
    s.raise gid r = { (s.modGroup gid fun g => g.leaveWait p.cur) with packet := some { p with trap := some r } } := by
  simp [State.raise, hp, ht, hr]

/-- A trap of the packet's last instruction is taken once the waits of the group have ended (R353). -/
theorem State.raise_last {s : State} {p : Packet} {gid : Nat} {r : TrapRec} (hp : s.packet = some p) (ht : p.trap = none) (hr : p.rest = []) :
    s.raise gid r = (s.modGroup gid fun g => g.leaveWait p.cur).settleTrap gid r := by
  simp [State.raise, hp, ht, hr]

/-- The end of a group's wait and the taking of its trap, for a group with no other wait and no trap pending. -/
theorem State.settleTrap_now {s : State} {gid : Nat} {g : Group} {r : TrapRec} (hg : s.group? gid = some g) (hp : g.pending = none) (hw : g.waits = []) :
    s.settleTrap gid r = (s.setGroup gid { g with pending := none }).takeTrap gid r := by
  simp [State.settleTrap, hg, hp, hw]

end Sys2Proof.Machine
end

