-- ==== Sys2Proof/Laws/LaneResults.lean ====
section
/-! SUPPORT. What the results of a lane instruction leave (R82, R83, R91, R93, R175): the shared operations lanewise and deliver do what LaneDone says. -/
namespace Sys2Proof.Machine

/-- The lanes of a set, as a list. -/
theorem Group.mem_list (g : Group) (m : LaneMask) (i : Nat) : i ∈ g.list m ↔ m.getLsbD i = true ∧ i < g.width := by
  simp [Group.list, lanesOf, and_comm]
/-- The list of the lanes of a set names each once. -/
theorem Group.nodup_list (g : Group) (m : LaneMask) : (g.list m).Nodup := List.nodup_range.filter _

/-- The flags of a lane's result, for a lane of the set. -/
theorem flagsOf_results (g : Group) (m : LaneMask) (f : Nat → LaneRes) (i : Nat) :
    flagsOf (g.results m f) i = if m.getLsbD i = true ∧ i < g.width then (f i).flags else 0 := by
  have key : ∀ l : List Nat, flagsOf (l.map fun j => (j, f j)) i = if i ∈ l then (f i).flags else 0 := by
    intro l
    induction l with
    | nil => rfl
    | cons j l ih =>
      unfold flagsOf at ih ⊢
      by_cases h : j = i
      · simp [h]
      · simpa [h, Ne.symm h] using ih
  rw [Group.results, key]
  simp only [Group.mem_list]

/-- A register write that a lane's result names. -/
theorem mem_laneWrites (g : Group) (m : LaneMask) (f : Nat → LaneRes) (i : Nat) (r : Reg) (v : Word) :
    (i, r, v) ∈ laneWrites (g.results m f) ↔ (m.getLsbD i = true ∧ i < g.width) ∧ (r, v) ∈ (f i).writes := by
  simp only [laneWrites, Group.results, List.mem_flatMap, List.mem_map, Prod.mk.injEq, Group.mem_list]
  constructor
  · rintro ⟨_, ⟨j, hj, rfl⟩, w, hw, rfl, rfl, rfl⟩
    exact ⟨hj, hw⟩
  · rintro ⟨hi, hw⟩
    exact ⟨_, ⟨i, hi, rfl⟩, (r, v), hw, rfl, rfl, rfl⟩

/-- The lane and register of each write, in order, name no place twice, when no lane's result names a register twice. -/
theorem nodup_laneWrites (g : Group) (m : LaneMask) (f : Nat → LaneRes) (hf : ∀ i, ((f i).writes.map (·.1)).Nodup) :
    ((laneWrites (g.results m f)).map fun w => (w.1, w.2.1)).Nodup := by
  have key : ∀ l : List Nat, l.Nodup → ((laneWrites (l.map fun j => (j, f j))).map fun w => (w.1, w.2.1)).Nodup := by
    intro l hl
    induction l with
    | nil => exact List.nodup_nil
    | cons j l ih =>
      rw [List.nodup_cons] at hl
      simp only [laneWrites, List.map_cons, List.flatMap_cons, List.map_append, List.map_map]
      rw [List.nodup_append]
      refine ⟨?_, ih hl.2, ?_⟩
      · have h := (hf j).map (f := fun r => (j, r)) fun a b h => (Prod.mk.inj h).2
        simpa [List.map_map, Function.comp_def] using h
      · intro a ha b hb hab
        simp only [List.mem_map, Function.comp] at ha
        obtain ⟨w, _, rfl⟩ := ha
        simp only [List.mem_map, List.mem_flatMap] at hb
        obtain ⟨_, ⟨_, ⟨k, hk, rfl⟩, w', _, rfl⟩, rfl⟩ := hb
        exact hl.1 ((Prod.mk.inj hab).1 ▸ hk)
  exact key _ (g.nodup_list m)

/-- A fixed-latency write is read from its cycle on, when the writes name no place twice (R91). -/
theorem Group.read_writesFixed_mem (ws : List (Nat × Reg × Word)) (g : Group) (now lat : Nat) (pc : DWord) (later i : Nat) (r : Reg) (v : Word)
    (hd : (ws.map fun w => (w.1, w.2.1)).Nodup) (hm : (i, r, v) ∈ ws) (hl : now + lat ≤ later) (hi : i < g.lanes.length) :
    (g.writesFixed now lat pc ws).read later i r = v := by
  induction ws generalizing g with
  | nil => cases hm
  | cons w ws ih =>
    rw [List.map_cons, List.nodup_cons] at hd
    rw [Group.writesFixed]
    rcases List.mem_cons.mp hm with rfl | hm
    · rw [Group.read_writesFixed_other]
      · exact Group.read_writeFixed_same g now lat pc i r v later hl hi
      · rintro w hw ⟨rfl, rfl⟩
        exact hd.1 (List.mem_map.mpr ⟨w, hw, rfl⟩)
    · exact ih _ hd.2 hm (by simpa using hi)

/-- A lane after its flags were raised (R82). -/
theorem Group.lane_raiseFlags (g : Group) (m : LaneMask) (f : Nat → LaneRes) (i : Nat) :
    (g.raiseFlags (g.results m f)).lane i = if m.getLsbD i = true ∧ i < g.width ∧ i < g.lanes.length then { g.lane i with fpflags := (g.lane i).fpflags ||| (f i).flags } else g.lane i := by
  simp only [Group.lane, Group.raiseFlags, List.getD_eq_getElem?_getD, List.getElem?_mapIdx, flagsOf_results]
  rcases Nat.lt_or_ge i g.lanes.length with h | h
  · by_cases hm : m.getLsbD i = true ∧ i < g.width
    · simp [h, hm]
    · have : ¬ (m.getLsbD i = true ∧ i < g.width ∧ i < g.lanes.length) := fun hx => hm ⟨hx.1, hx.2.1⟩
      rw [if_neg hm, if_neg this]
      simp [h]
  · simp [Nat.not_lt.mpr h]

/-- A lane that acts has its flags raised (R82). -/
theorem Group.lane_raiseFlags_acting (g : Group) (m : LaneMask) (f : Nat → LaneRes) (i : Nat) (h : g.acts m i) :
    (g.raiseFlags (g.results m f)).lane i = { g.lane i with fpflags := (g.lane i).fpflags ||| (f i).flags } := by
  rw [Group.lane_raiseFlags]
  exact if_pos h
/-- A lane that is not active raises no flag (R82). -/
theorem Group.lane_raiseFlags_other (g : Group) (m : LaneMask) (f : Nat → LaneRes) (i : Nat) (h : m.getLsbD i = false) :
    (g.raiseFlags (g.results m f)).lane i = g.lane i := by
  rw [Group.lane_raiseFlags, if_neg]
  intro hx
  rw [hx.1] at h
  cases h

/-- Raising flags changes no register that an instruction reads. -/
theorem Group.read_raiseFlags (g : Group) (m : LaneMask) (f : Nat → LaneRes) (now i : Nat) (r : Reg) : (g.raiseFlags (g.results m f)).read now i r = g.read now i r := by
  simp only [Group.read, Group.lane_raiseFlags]
  split <;> rfl

/-- The results of the lanes of a packet, written after a fixed latency or posted to the scoreboard, leave what LaneDone says (R82, R91, R93, R175). -/
theorem State.deliver_done {s : State} {p : Packet} {g : Group} (hp : ∃ n, s.packet = some { p with stall := n }) (lat : Latency) (f : Nat → LaneRes)
    (hf : ∀ i, ((f i).writes.map (·.1)).Nodup) :
    ∃ h, LaneDone s (s.deliver p (g.raiseFlags (g.results p.cur.lanes f)) lat (laneWrites (g.results p.cur.lanes f))) p g h lat (fun _ => succPc p.cur.pc) f := by
  have hlen : (g.raiseFlags (g.results p.cur.lanes f)).lanes.length = g.lanes.length := by simp [Group.raiseFlags]
  cases lat with
  | fixed n =>
    have hk := Group.writesFixed_keeps (laneWrites (g.results p.cur.lanes f)) (g.raiseFlags (g.results p.cur.lanes f)) s.cycle n p.cur.pc
    have hlane : ∀ i, ∃ rs, (((g.raiseFlags (g.results p.cur.lanes f)).writesFixed s.cycle n p.cur.pc (laneWrites (g.results p.cur.lanes f))).moveTo p.cur.lanes (succPc p.cur.pc)).lane i =
        { (g.raiseFlags (g.results p.cur.lanes f)).lane i with
          regs := rs, pc := if p.cur.lanes.getLsbD i = true ∧ i < g.lanes.length then succPc p.cur.pc else ((g.raiseFlags (g.results p.cur.lanes f)).lane i).pc } := by
      intro i
      obtain ⟨rs, h⟩ := Group.lane_writesFixed (laneWrites (g.results p.cur.lanes f)) (g.raiseFlags (g.results p.cur.lanes f)) s.cycle n p.cur.pc i
      refine ⟨rs, ?_⟩
      rw [Group.lane_moveTo, h, Group.length_writesFixed, hlen]
      split <;> rfl
    refine ⟨((g.raiseFlags (g.results p.cur.lanes f)).writesFixed s.cycle n p.cur.pc (laneWrites (g.results p.cur.lanes f))).moveTo p.cur.lanes (succPc p.cur.pc),
      ⟨State.group?_finish s p _, fun k hk => State.group?_finish_other s p _ k hk, rfl, hp, ?_, ?_, ?_, ?_⟩, ?_, ?_, ?_, ?_⟩
    · rw [hk]
      rfl
    · rw [Group.length_moveTo, Group.length_writesFixed, hlen]
    · intro i
      obtain ⟨rs, h⟩ := hlane i
      rw [h, Group.lane_raiseFlags]
      split <;> exact ⟨rfl, rfl, rfl⟩
    · intro i hi
      obtain ⟨rs, h⟩ := hlane i
      refine ⟨?_, ?_, ?_⟩
      · rw [h, Group.lane_raiseFlags_other _ _ _ _ hi]
        simp [hi]
      · rw [h, Group.lane_raiseFlags_other _ _ _ _ hi]
      · intro r later
        rw [Group.read_moveTo, Group.read_writesFixed_other, Group.read_raiseFlags]
        rintro ⟨j, q, v⟩ hm ⟨rfl, rfl⟩
        have hx := ((mem_laneWrites g p.cur.lanes f _ _ _).mp hm).1.1
        rw [hi] at hx
        cases hx
    · intro i ha
      obtain ⟨rs, h⟩ := hlane i
      rw [h]
      simp [ha.1, ha.2.2]
    · intro i ha
      obtain ⟨rs, h⟩ := hlane i
      rw [h, Group.lane_raiseFlags_acting _ _ _ _ ha]
    · refine ⟨by rw [Group.moveTo_sb, hk]; rfl, ?_⟩
      rintro i ha ⟨r, v⟩ hmem
      refine ⟨fun later hl => ?_, fun now hn => ?_⟩
      · rw [Group.read_moveTo]
        exact Group.read_writesFixed_mem _ _ _ _ _ _ _ _ _ (nodup_laneWrites g _ f hf) ((mem_laneWrites g _ f _ _ _).mpr ⟨⟨ha.1, ha.2.1⟩, hmem⟩) hl (by rw [hlen]; exact ha.2.2)
      · rw [Group.read_moveTo, Group.read_writesFixed_early _ _ _ _ _ _ _ _ hn, Group.read_raiseFlags]
        rintro w _ _
        rw [hlen]
        exact ha.2.2
    · intro i r hr later
      rw [Group.read_moveTo, Group.read_writesFixed_other, Group.read_raiseFlags]
      rintro ⟨j, q, v⟩ hm ⟨rfl, rfl⟩
      exact hr rfl (List.mem_map.mpr ⟨_, ((mem_laneWrites g p.cur.lanes f _ _ _).mp hm).2, rfl⟩)
  | scoreboard n =>
    have hx : s.deliver p (g.raiseFlags (g.results p.cur.lanes f)) (.scoreboard n) (laneWrites (g.results p.cur.lanes f)) = _ :=
      State.post_eq (State.group?_finish s p (g.raiseFlags (g.results p.cur.lanes f))) p.cur.pc p.cur.lanes _ _ n
    rw [hx]
    have hlane : ∀ i, ((g.raiseFlags (g.results p.cur.lanes f)).moveTo p.cur.lanes (succPc p.cur.pc)).lane i =
        { (g.raiseFlags (g.results p.cur.lanes f)).lane i with
          pc := if p.cur.lanes.getLsbD i = true ∧ i < g.lanes.length then succPc p.cur.pc else ((g.raiseFlags (g.results p.cur.lanes f)).lane i).pc } := by
      intro i
      rw [Group.lane_moveTo, hlen]
      split <;> rfl
    have hread : ∀ now i r, ((g.raiseFlags (g.results p.cur.lanes f)).moveTo p.cur.lanes (succPc p.cur.pc)).read now i r = g.read now i r := by
      intro now i r
      rw [Group.read_moveTo, Group.read_raiseFlags]
    refine ⟨_, ⟨State.group?_setGroup_same _ _ _, ?_, rfl, hp, rfl, ?_, ?_, ?_⟩, ?_, ?_, ?_, ?_⟩
    · intro k hk
      rw [State.group?_setGroup_other _ _ _ _ hk]
      exact State.group?_finish_other s p _ k hk
    · exact (Group.length_moveTo _ _ _).trans hlen
    · intro i
      have h := hlane i
      rw [Group.lane_raiseFlags] at h
      refine ⟨(congrArg Lane.trappc h).trans ?_, (congrArg Lane.fpen h).trans ?_, (congrArg Lane.st h).trans ?_⟩ <;> split <;> rfl
    · intro i hi
      have h := hlane i
      rw [Group.lane_raiseFlags_other _ _ _ _ hi] at h
      refine ⟨(congrArg Lane.pc h).trans ?_, (congrArg Lane.fpflags h).trans rfl, fun r later => hread later i r⟩
      simp [hi]
    · intro i ha
      have h := hlane i
      refine (congrArg Lane.pc h).trans ?_
      simp [ha.1, ha.2.2]
    · intro i ha
      have h := hlane i
      rw [Group.lane_raiseFlags_acting _ _ _ _ ha] at h
      exact (congrArg Lane.fpflags h).trans rfl
    · refine ⟨rfl, _, rfl, rfl, rfl, rfl, ?_⟩
      rintro i ha ⟨r, v⟩ hmem
      exact (mem_laneWrites g _ f _ _ _).mpr ⟨⟨ha.1, ha.2.1⟩, hmem⟩
    · intro i r _ later
      exact hread later i r

/-- The lanes that raise an enabled flag are none exactly when the group is quiet (R83). -/
theorem Group.trapping_quiet (g : Group) (m : LaneMask) (f : Nat → LaneRes) (h : g.quiet m f) : g.trapping (g.results m f) = 0 := by
  have : (g.results m f).filter (fun r => r.2.flags &&& (g.lane r.1).fpen != 0) = [] := by
    rw [List.filter_eq_nil_iff]
    intro x hx
    simp only [Group.results, List.mem_map, Group.mem_list] at hx
    obtain ⟨i, hi, rfl⟩ := hx
    simp [h i hi.1 hi.2]
  rw [Group.trapping, this]
  rfl

/-- A lane instruction that cannot trap completes with its results. -/
theorem laneInstr_completes {s : State} {p : Packet} {g : Group} {i : Instr} {lat : Latency} {f : Group → Nat → LaneRes} (hs : s.issuing = some (p, g))
    (he : exec i s = laneInstr s lat f) (hf : ∀ k, ((f g k).writes.map (·.1)).Nodup) 
    (hq : g.quiet p.cur.lanes (f g)) : Completes s p g i lat (f g) := by
  obtain ⟨h, hd⟩ := State.deliver_done ⟨p.stall, ((State.issuing_iff s p g).mp hs).1⟩ lat (f g) hf
  refine ⟨_, h, ?_, hd⟩
  rw [he, laneInstr, State.issue_eq hs, State.lanewise]
  simp only [g.trapping_quiet _ _ hq, if_true]

/-- A change of the packet's stall count alone takes nothing from what a lane instruction leaves. -/
theorem LaneDone.of_stall {s u t : State} {p : Packet} {g h : Group} {lat : Latency} {goal : Nat → DWord} {f : Nat → LaneRes} (hu : u = { s with packet := u.packet })
    (hd : LaneDone u t p g h lat goal f) : LaneDone s t p g h lat goal f := by
  obtain ⟨⟨h1, h2, h3, h4, h5, h6, h7, h8⟩, h9, h10, h11, h12⟩ := hd
  have hc : u.cycle = s.cycle := by rw [hu]
  rw [hc] at h11
  refine ⟨⟨h1, fun k hk => (h2 k hk).trans (by rw [hu]; rfl), ?_, h4, h5, h6, h7, h8⟩, h9, h10, h11, h12⟩
  rw [hu] at h3
  exact h3

/-- An instruction whose flags may trap completes with its results when no lane raises an enabled flag (R83, R351). -/
theorem floatInstr_completes {s : State} {p : Packet} {g : Group} {i : Instr} {lat : Latency} {f : Group → Nat → LaneRes} (hs : s.issuing = some (p, g))
    (he : exec i s = floatInstr s lat f) (hf : ∀ k, ((f g k).writes.map (·.1)).Nodup) 
    (hq : g.quiet p.cur.lanes (f g)) : Completes s p g i lat (f g) := by
  have hp := ((State.issuing_iff s p g).mp hs).1
  have hu : s.suspend g lat = { s with packet := (s.suspend g lat).packet } := by
    unfold State.suspend
    split <;> rfl
  have hn : ∃ n, (s.suspend g lat).packet = some { p with stall := n } := by
    unfold State.suspend
    split
    · exact ⟨_, by rw [hp]; rfl⟩
    · exact ⟨p.stall, hp⟩
  obtain ⟨h, hd⟩ := State.deliver_done hn lat (f g) hf
  refine ⟨_, h, ?_, LaneDone.of_stall hu hd⟩
  rw [he, floatInstr, State.issue_eq hs, State.lanewise]
  simp only [g.trapping_quiet _ _ hq, if_true]

end Sys2Proof.Machine
end

