-- ==== Sys2Proof/Laws/PerInstr.lean ====
section
/-! SUPPORT. The encoding read back, one lemma per instruction: the encoder's word has 32 bits, and the decoder of its class gives the instruction, at every value of every operand. Before them one lemma per class of words (R96): the fields of a word are the fields it was written from. -/
namespace Sys2Proof.Laws

/-- The encoder's word of an instruction has 32 bits, and its class decodes to the instruction (R95 to R114). -/
def Encoding.Statement (i : Instr) : Prop :=
  i.hasWord = true → encodeNat i < 4294967296 ∧ decodeClass (encodeNat i) = .ok i

/-- A step of the machine without a word satisfies the encoding statement: it is no encoded instruction. -/
theorem Encoding.of_no_word {i : Instr} (h : encodeNat i = 0) : Encoding.Statement i := by
  intro hw
  simp [Instr.hasWord, h] at hw

theorem decodeClass_wordLA (op : Nat) (hop : op < 256) (d a : Reg) (r : Route) (b : Reg) (s : Route) :
    decodeClass (wordLA op d a r b s) = decodeLA ⟨op, d, a, r, b, s⟩ := by
  have hc : wordLA op d a r b s / 536870912 % 8 = 0 ∨ wordLA op d a r b s / 536870912 % 8 = 1 := by
    unfold wordLA; omega
  have hf : fieldsLA (wordLA op d a r b s) = ⟨op, d, a, r, b, s⟩ := by
    simp only [fieldsLA, wordLA, LAFields.mk.injEq, Fin.ext_iff, Fin.val_ofNat]
    omega
  rcases hc with hc | hc <;> simp only [decodeClass, hc, hf]

theorem decodeClass_wordCvt (op : Nat) (hop : op < 256) (d a : Reg) (r : Route) (t u : Fmt) :
    decodeClass (wordCvt op d a r t u) = decodeLA ⟨op, d, a, r, Fin.ofNat 64 ((t.code * 16 + u.code) / 4), Fin.ofNat 4 u.code⟩ := by
  have ht : t.code < 9 := by cases t <;> decide
  have hu : u.code < 9 := by cases u <;> decide
  have hw : wordCvt op d a r t u = wordLA op d a r (Fin.ofNat 64 ((t.code * 16 + u.code) / 4)) (Fin.ofNat 4 u.code) := by
    simp only [wordCvt, wordLA, Fin.val_ofNat]
    omega
  rw [hw, decodeClass_wordLA op hop]

theorem decodeClass_wordLM (op : Nat) (hop : op < 32) (d a : Reg) (k : Fin 8) (f : BitVec 9) :
    decodeClass (wordLM op d a k.val f.toNat) = decodeLM ⟨op, d, a, k, f⟩ := by
  have hl := f.isLt
  have hc : wordLM op d a k.val f.toNat / 536870912 % 8 = 2 := by
    unfold wordLM; omega
  have hf : fieldsLM (wordLM op d a k.val f.toNat) = ⟨op, d, a, k, f⟩ := by
    simp only [fieldsLM, wordLM, LMFields.mk.injEq, Fin.ext_iff, Fin.val_ofNat, ← BitVec.toNat_inj, BitVec.toNat_ofNat]
    omega
  simp only [decodeClass, hc, hf]

theorem decodeClass_wordLI (op : Nat) (hop : op < 16) (d a : Reg) (i : BitVec 13) :
    decodeClass (wordLI op d a i.toNat) = decodeLI ⟨op, d, a, i, BitVec.ofNat 19 (a.val * 8192 + i.toNat)⟩ := by
  have hl := i.isLt
  have hc : wordLI op d a i.toNat / 536870912 % 8 = 3 := by
    unfold wordLI; omega
  have hf : fieldsLI (wordLI op d a i.toNat) = ⟨op, d, a, i, BitVec.ofNat 19 (a.val * 8192 + i.toNat)⟩ := by
    simp only [fieldsLI, wordLI, LIFields.mk.injEq, Fin.ext_iff, Fin.val_ofNat, ← BitVec.toNat_inj, BitVec.toNat_ofNat]
    omega
  simp only [decodeClass, hc, hf]

theorem decodeClass_wordLIBranch (op : Nat) (hop : op < 16) (d : Reg) (f : BitVec 19) :
    decodeClass (wordLIBranch op d f.toNat) = decodeLI ⟨op, d, Fin.ofNat 64 (f.toNat / 8192), BitVec.ofNat 13 f.toNat, f⟩ := by
  have hl := f.isLt
  have hc : wordLIBranch op d f.toNat / 536870912 % 8 = 3 := by
    unfold wordLIBranch; omega
  have hf : fieldsLI (wordLIBranch op d f.toNat) = ⟨op, d, Fin.ofNat 64 (f.toNat / 8192), BitVec.ofNat 13 f.toNat, f⟩ := by
    simp only [fieldsLI, wordLIBranch, LIFields.mk.injEq, Fin.ext_iff, Fin.val_ofNat, ← BitVec.toNat_inj, BitVec.toNat_ofNat]
    omega
  simp only [decodeClass, hc, hf]

theorem decodeClass_wordUA (op : Nat) (hop : op < 256) (d a b : Reg) (s : Fin 16) :
    decodeClass (wordUA op d a b s.val) = decodeUA ⟨op, d, a, b, s⟩ := by
  have hc : wordUA op d a b s.val / 536870912 % 8 = 4 ∨ wordUA op d a b s.val / 536870912 % 8 = 5 := by
    unfold wordUA; omega
  have hf : fieldsUA (wordUA op d a b s.val) = ⟨op, d, a, b, s⟩ := by
    simp only [fieldsUA, wordUA, UAFields.mk.injEq, Fin.ext_iff, Fin.val_ofNat]
    omega
  rcases hc with hc | hc <;> simp only [decodeClass, hc, hf]

theorem decodeClass_wordUB (op : Nat) (hop : op < 16) (a : Reg) (f : BitVec 19) :
    decodeClass (wordUB op a f.toNat) = decodeUB ⟨op, a, f⟩ := by
  have hl := f.isLt
  have hc : wordUB op a f.toNat / 536870912 % 8 = 6 := by
    unfold wordUB; omega
  have hf : fieldsUB (wordUB op a f.toNat) = ⟨op, a, f⟩ := by
    simp only [fieldsUB, wordUB, UBFields.mk.injEq, Fin.ext_iff, Fin.val_ofNat, ← BitVec.toNat_inj, BitVec.toNat_ofNat]
    omega
  simp only [decodeClass, hc, hf]

theorem decodeClass_wordUI (op : Nat) (hop : op < 16) (d a : Reg) (i : BitVec 13) :
    decodeClass (wordUI op d a i.toNat) = decodeUI ⟨op, d, a, i⟩ := by
  have hl := i.isLt
  have hc : wordUI op d a i.toNat / 536870912 % 8 = 7 := by
    unfold wordUI; omega
  have hf : fieldsUI (wordUI op d a i.toNat) = ⟨op, d, a, i⟩ := by
    simp only [fieldsUI, wordUI, UIFields.mk.injEq, Fin.ext_iff, Fin.val_ofNat, ← BitVec.toNat_inj, BitVec.toNat_ofNat]
    omega
  simp only [decodeClass, hc, hf]

theorem Encoding.of_LA {i : Instr} (op : Nat) (d a : Reg) (r : Route) (b : Reg) (s : Route) (hop : op < 256)
    (he : encodeNat i = wordLA op d a r b s) (hd : decodeLA ⟨op, d, a, r, b, s⟩ = .ok i) : Encoding.Statement i := by
  intro _
  rw [he, decodeClass_wordLA op hop]
  exact ⟨by unfold wordLA; omega, hd⟩

theorem Encoding.of_cvt {i : Instr} (op : Nat) (d a : Reg) (r : Route) (t u : Fmt) (hop : op < 256)
    (he : encodeNat i = wordCvt op d a r t u) (hd : decodeLA ⟨op, d, a, r, Fin.ofNat 64 ((t.code * 16 + u.code) / 4), Fin.ofNat 4 u.code⟩ = .ok i) :
    Encoding.Statement i := by
  intro _
  have ht : t.code < 9 := by cases t <;> decide
  have hu : u.code < 9 := by cases u <;> decide
  rw [he, decodeClass_wordCvt op hop]
  exact ⟨by unfold wordCvt; omega, hd⟩

/-- The format byte of a cvt gives its two formats back (R104). -/
theorem Encoding.formats (t u : Fmt) (k : Fmt → Fmt → Instr) :
    (withCode (Fmt.ofCode (((Fin.ofNat 64 ((t.code * 16 + u.code) / 4)).val * 4 + (Fin.ofNat 4 u.code).val) / 16)) fun t' =>
      withCode (Fmt.ofCode (((Fin.ofNat 64 ((t.code * 16 + u.code) / 4)).val * 4 + (Fin.ofNat 4 u.code).val) % 16)) fun u' => .ok (k t' u')) = .ok (k t u) := by
  cases t <;> cases u <;> rfl

theorem Encoding.of_LM {i : Instr} (op : Nat) (d a : Reg) (k : Fin 8) (f : BitVec 9) (hop : op < 32)
    (he : encodeNat i = wordLM op d a k.val f.toNat) (hd : decodeLM ⟨op, d, a, k, f⟩ = .ok i) : Encoding.Statement i := by
  intro _
  have hl := f.isLt
  rw [he, decodeClass_wordLM op hop]
  exact ⟨by unfold wordLM; omega, hd⟩

theorem Encoding.of_LI {i : Instr} (op : Nat) (d a : Reg) (x : BitVec 13) (hop : op < 16)
    (he : encodeNat i = wordLI op d a x.toNat) (hd : decodeLI ⟨op, d, a, x, BitVec.ofNat 19 (a.val * 8192 + x.toNat)⟩ = .ok i) : Encoding.Statement i := by
  intro _
  have hl := x.isLt
  rw [he, decodeClass_wordLI op hop]
  exact ⟨by unfold wordLI; omega, hd⟩

theorem Encoding.of_LIBranch {i : Instr} (op : Nat) (d : Reg) (f : BitVec 19) (hop : op < 16)
    (he : encodeNat i = wordLIBranch op d f.toNat) (hd : decodeLI ⟨op, d, Fin.ofNat 64 (f.toNat / 8192), BitVec.ofNat 13 f.toNat, f⟩ = .ok i) : Encoding.Statement i := by
  intro _
  have hl := f.isLt
  rw [he, decodeClass_wordLIBranch op hop]
  exact ⟨by unfold wordLIBranch; omega, hd⟩

theorem Encoding.of_UA {i : Instr} (op : Nat) (d a b : Reg) (s : Fin 16) (hop : op < 256)
    (he : encodeNat i = wordUA op d a b s.val) (hd : decodeUA ⟨op, d, a, b, s⟩ = .ok i) : Encoding.Statement i := by
  intro _
  rw [he, decodeClass_wordUA op hop]
  exact ⟨by unfold wordUA; omega, hd⟩

theorem Encoding.of_UB {i : Instr} (op : Nat) (a : Reg) (f : BitVec 19) (hop : op < 16)
    (he : encodeNat i = wordUB op a f.toNat) (hd : decodeUB ⟨op, a, f⟩ = .ok i) : Encoding.Statement i := by
  intro _
  have hl := f.isLt
  rw [he, decodeClass_wordUB op hop]
  exact ⟨by unfold wordUB; omega, hd⟩

theorem Encoding.of_UI {i : Instr} (op : Nat) (d a : Reg) (x : BitVec 13) (hop : op < 16)
    (he : encodeNat i = wordUI op d a x.toNat) (hd : decodeUI ⟨op, d, a, x⟩ = .ok i) : Encoding.Statement i := by
  intro _
  have hl := x.isLt
  rw [he, decodeClass_wordUI op hop]
  exact ⟨by unfold wordUI; omega, hd⟩

theorem Encoding.add (d a : Reg) (r : Route) (b : Reg) (s : Route) : Encoding.Statement (.add d a r b s) := Encoding.of_LA 0 d a r b s (by decide) rfl rfl
theorem Encoding.sub (d a : Reg) (r : Route) (b : Reg) (s : Route) : Encoding.Statement (.sub d a r b s) := Encoding.of_LA 1 d a r b s (by decide) rfl rfl
theorem Encoding.mul (d a : Reg) (r : Route) (b : Reg) (s : Route) : Encoding.Statement (.mul d a r b s) := Encoding.of_LA 2 d a r b s (by decide) rfl rfl
theorem Encoding.mulh (d a : Reg) (r : Route) (b : Reg) (s : Route) : Encoding.Statement (.mulh d a r b s) := Encoding.of_LA 3 d a r b s (by decide) rfl rfl
theorem Encoding.mulhu (d a : Reg) (r : Route) (b : Reg) (s : Route) : Encoding.Statement (.mulhu d a r b s) := Encoding.of_LA 4 d a r b s (by decide) rfl rfl
theorem Encoding.mad (d a : Reg) (r : Route) (b : Reg) (s : Route) : Encoding.Statement (.mad d a r b s) := Encoding.of_LA 5 d a r b s (by decide) rfl rfl
theorem Encoding.and (d a : Reg) (r : Route) (b : Reg) (s : Route) : Encoding.Statement (.and d a r b s) := Encoding.of_LA 6 d a r b s (by decide) rfl rfl
theorem Encoding.or (d a : Reg) (r : Route) (b : Reg) (s : Route) : Encoding.Statement (.or d a r b s) := Encoding.of_LA 7 d a r b s (by decide) rfl rfl
theorem Encoding.xor (d a : Reg) (r : Route) (b : Reg) (s : Route) : Encoding.Statement (.xor d a r b s) := Encoding.of_LA 8 d a r b s (by decide) rfl rfl
theorem Encoding.shl (d a : Reg) (r : Route) (b : Reg) (s : Route) : Encoding.Statement (.shl d a r b s) := Encoding.of_LA 9 d a r b s (by decide) rfl rfl
theorem Encoding.shr (d a : Reg) (r : Route) (b : Reg) (s : Route) : Encoding.Statement (.shr d a r b s) := Encoding.of_LA 10 d a r b s (by decide) rfl rfl
theorem Encoding.sar (d a : Reg) (r : Route) (b : Reg) (s : Route) : Encoding.Statement (.sar d a r b s) := Encoding.of_LA 11 d a r b s (by decide) rfl rfl
theorem Encoding.rot (d a : Reg) (r : Route) (b : Reg) (s : Route) : Encoding.Statement (.rot d a r b s) := Encoding.of_LA 12 d a r b s (by decide) rfl rfl
theorem Encoding.min (d a : Reg) (r : Route) (b : Reg) (s : Route) : Encoding.Statement (.min d a r b s) := Encoding.of_LA 13 d a r b s (by decide) rfl rfl
theorem Encoding.max (d a : Reg) (r : Route) (b : Reg) (s : Route) : Encoding.Statement (.max d a r b s) := Encoding.of_LA 14 d a r b s (by decide) rfl rfl
theorem Encoding.minu (d a : Reg) (r : Route) (b : Reg) (s : Route) : Encoding.Statement (.minu d a r b s) := Encoding.of_LA 15 d a r b s (by decide) rfl rfl
theorem Encoding.maxu (d a : Reg) (r : Route) (b : Reg) (s : Route) : Encoding.Statement (.maxu d a r b s) := Encoding.of_LA 16 d a r b s (by decide) rfl rfl
theorem Encoding.abs (d a : Reg) (r : Route) : Encoding.Statement (.abs d a r) := Encoding.of_LA 17 d a r 0 0 (by decide) rfl rfl
theorem Encoding.sel (d a : Reg) (r : Route) (b : Reg) (s : Route) : Encoding.Statement (.sel d a r b s) := Encoding.of_LA 18 d a r b s (by decide) rfl rfl
theorem Encoding.clz (d a : Reg) (r : Route) : Encoding.Statement (.clz d a r) := Encoding.of_LA 19 d a r 0 0 (by decide) rfl rfl
theorem Encoding.popc (d a : Reg) (r : Route) : Encoding.Statement (.popc d a r) := Encoding.of_LA 20 d a r 0 0 (by decide) rfl rfl
theorem Encoding.brev (d a : Reg) (r : Route) : Encoding.Statement (.brev d a r) := Encoding.of_LA 21 d a r 0 0 (by decide) rfl rfl
theorem Encoding.bfx (d a : Reg) (r : Route) (b : Reg) (s : Route) : Encoding.Statement (.bfx d a r b s) := Encoding.of_LA 22 d a r b s (by decide) rfl rfl
theorem Encoding.bfxu (d a : Reg) (r : Route) (b : Reg) (s : Route) : Encoding.Statement (.bfxu d a r b s) := Encoding.of_LA 23 d a r b s (by decide) rfl rfl
theorem Encoding.bfi (d a : Reg) (r : Route) (b : Reg) (s : Route) : Encoding.Statement (.bfi d a r b s) := Encoding.of_LA 24 d a r b s (by decide) rfl rfl
theorem Encoding.addc (d a : Reg) (r : Route) (b : Reg) (s : Route) : Encoding.Statement (.addc d a r b s) := Encoding.of_LA 25 d a r b s (by decide) rfl rfl
theorem Encoding.subb (d a : Reg) (r : Route) (b : Reg) (s : Route) : Encoding.Statement (.subb d a r b s) := Encoding.of_LA 26 d a r b s (by decide) rfl rfl
theorem Encoding.addS (d a : Reg) (r : Route) (b : Reg) (s : Route) : Encoding.Statement (.addS d a r b s) := Encoding.of_LA 27 d a r b s (by decide) rfl rfl
theorem Encoding.addUs (d a : Reg) (r : Route) (b : Reg) (s : Route) : Encoding.Statement (.addUs d a r b s) := Encoding.of_LA 28 d a r b s (by decide) rfl rfl
theorem Encoding.subS (d a : Reg) (r : Route) (b : Reg) (s : Route) : Encoding.Statement (.subS d a r b s) := Encoding.of_LA 29 d a r b s (by decide) rfl rfl
theorem Encoding.subUs (d a : Reg) (r : Route) (b : Reg) (s : Route) : Encoding.Statement (.subUs d a r b s) := Encoding.of_LA 30 d a r b s (by decide) rfl rfl
theorem Encoding.cmpEq (d a : Reg) (r : Route) (b : Reg) (s : Route) : Encoding.Statement (.cmpEq d a r b s) := Encoding.of_LA 32 d a r b s (by decide) rfl rfl
theorem Encoding.cmpNe (d a : Reg) (r : Route) (b : Reg) (s : Route) : Encoding.Statement (.cmpNe d a r b s) := Encoding.of_LA 33 d a r b s (by decide) rfl rfl
theorem Encoding.cmpLt (d a : Reg) (r : Route) (b : Reg) (s : Route) : Encoding.Statement (.cmpLt d a r b s) := Encoding.of_LA 34 d a r b s (by decide) rfl rfl
theorem Encoding.cmpLe (d a : Reg) (r : Route) (b : Reg) (s : Route) : Encoding.Statement (.cmpLe d a r b s) := Encoding.of_LA 35 d a r b s (by decide) rfl rfl
theorem Encoding.cmpGt (d a : Reg) (r : Route) (b : Reg) (s : Route) : Encoding.Statement (.cmpGt d a r b s) := Encoding.of_LA 36 d a r b s (by decide) rfl rfl
theorem Encoding.cmpGe (d a : Reg) (r : Route) (b : Reg) (s : Route) : Encoding.Statement (.cmpGe d a r b s) := Encoding.of_LA 37 d a r b s (by decide) rfl rfl
theorem Encoding.cmpLtu (d a : Reg) (r : Route) (b : Reg) (s : Route) : Encoding.Statement (.cmpLtu d a r b s) := Encoding.of_LA 38 d a r b s (by decide) rfl rfl
theorem Encoding.cmpLeu (d a : Reg) (r : Route) (b : Reg) (s : Route) : Encoding.Statement (.cmpLeu d a r b s) := Encoding.of_LA 39 d a r b s (by decide) rfl rfl
theorem Encoding.cmpGtu (d a : Reg) (r : Route) (b : Reg) (s : Route) : Encoding.Statement (.cmpGtu d a r b s) := Encoding.of_LA 40 d a r b s (by decide) rfl rfl
theorem Encoding.cmpGeu (d a : Reg) (r : Route) (b : Reg) (s : Route) : Encoding.Statement (.cmpGeu d a r b s) := Encoding.of_LA 41 d a r b s (by decide) rfl rfl
theorem Encoding.ballot (d a : Reg) (r : Route) : Encoding.Statement (.ballot d a r) := Encoding.of_LA 48 d a r 0 0 (by decide) rfl rfl
theorem Encoding.voteAll (d a : Reg) (r : Route) : Encoding.Statement (.voteAll d a r) := Encoding.of_LA 49 d a r 0 0 (by decide) rfl rfl
theorem Encoding.voteAny (d a : Reg) (r : Route) : Encoding.Statement (.voteAny d a r) := Encoding.of_LA 50 d a r 0 0 (by decide) rfl rfl
theorem Encoding.voteUni (d a : Reg) (r : Route) : Encoding.Statement (.voteUni d a r) := Encoding.of_LA 51 d a r 0 0 (by decide) rfl rfl
theorem Encoding.perm (d a b : Reg) (s : Route) : Encoding.Statement (.perm d a b s) := Encoding.of_LA 52 d a 0 b s (by decide) rfl rfl
theorem Encoding.mov (d a : Reg) (r : Route) : Encoding.Statement (.mov d a r) := Encoding.of_LA 53 d a r 0 0 (by decide) rfl rfl
theorem Encoding.callv (d a : Reg) (r : Route) : Encoding.Statement (.callv d a r) := Encoding.of_LA 54 d a r 0 0 (by decide) rfl rfl
theorem Encoding.retv (a : Reg) : Encoding.Statement (.retv a) := Encoding.of_LA 55 0 a 0 0 0 (by decide) rfl rfl
theorem Encoding.rejoin (a : Reg) : Encoding.Statement (.rejoin a) := Encoding.of_LA 56 0 a 0 0 0 (by decide) rfl rfl
theorem Encoding.exitl : Encoding.Statement .exitl := Encoding.of_LA 57 0 0 0 0 0 (by decide) rfl rfl
theorem Encoding.fadd (d a : Reg) (r : Route) (b : Reg) (s : Route) : Encoding.Statement (.fadd d a r b s) := Encoding.of_LA 64 d a r b s (by decide) rfl rfl
theorem Encoding.fsub (d a : Reg) (r : Route) (b : Reg) (s : Route) : Encoding.Statement (.fsub d a r b s) := Encoding.of_LA 65 d a r b s (by decide) rfl rfl
theorem Encoding.fmul (d a : Reg) (r : Route) (b : Reg) (s : Route) : Encoding.Statement (.fmul d a r b s) := Encoding.of_LA 66 d a r b s (by decide) rfl rfl
theorem Encoding.ffma (d a : Reg) (r : Route) (b : Reg) (s : Route) : Encoding.Statement (.ffma d a r b s) := Encoding.of_LA 67 d a r b s (by decide) rfl rfl
theorem Encoding.fmin (d a : Reg) (r : Route) (b : Reg) (s : Route) : Encoding.Statement (.fmin d a r b s) := Encoding.of_LA 68 d a r b s (by decide) rfl rfl
theorem Encoding.fmax (d a : Reg) (r : Route) (b : Reg) (s : Route) : Encoding.Statement (.fmax d a r b s) := Encoding.of_LA 69 d a r b s (by decide) rfl rfl
theorem Encoding.fcls (d a : Reg) (r : Route) : Encoding.Statement (.fcls d a r) := Encoding.of_LA 70 d a r 0 0 (by decide) rfl rfl
theorem Encoding.fdiv (d a : Reg) (r : Route) (b : Reg) (s : Route) : Encoding.Statement (.fdiv d a r b s) := Encoding.of_LA 71 d a r b s (by decide) rfl rfl
theorem Encoding.fsqrt (d a : Reg) (r : Route) : Encoding.Statement (.fsqrt d a r) := Encoding.of_LA 72 d a r 0 0 (by decide) rfl rfl
theorem Encoding.frcp (d a : Reg) (r : Route) : Encoding.Statement (.frcp d a r) := Encoding.of_LA 73 d a r 0 0 (by decide) rfl rfl
theorem Encoding.frsq (d a : Reg) (r : Route) : Encoding.Statement (.frsq d a r) := Encoding.of_LA 74 d a r 0 0 (by decide) rfl rfl
theorem Encoding.fex2 (d a : Reg) (r : Route) : Encoding.Statement (.fex2 d a r) := Encoding.of_LA 75 d a r 0 0 (by decide) rfl rfl
theorem Encoding.flg2 (d a : Reg) (r : Route) : Encoding.Statement (.flg2 d a r) := Encoding.of_LA 76 d a r 0 0 (by decide) rfl rfl
theorem Encoding.fsgnCpy (d a : Reg) (r : Route) (b : Reg) (s : Route) : Encoding.Statement (.fsgnCpy d a r b s) := Encoding.of_LA 77 d a r b s (by decide) rfl rfl
theorem Encoding.fsgnNeg (d a : Reg) (r : Route) : Encoding.Statement (.fsgnNeg d a r) := Encoding.of_LA 78 d a r 0 0 (by decide) rfl rfl
theorem Encoding.fsgnXor (d a : Reg) (r : Route) (b : Reg) (s : Route) : Encoding.Statement (.fsgnXor d a r b s) := Encoding.of_LA 79 d a r b s (by decide) rfl rfl
theorem Encoding.fsgnAbs (d a : Reg) (r : Route) : Encoding.Statement (.fsgnAbs d a r) := Encoding.of_LA 80 d a r 0 0 (by decide) rfl rfl
theorem Encoding.frndRn (d a : Reg) (r : Route) : Encoding.Statement (.frndRn d a r) := Encoding.of_LA 81 d a r 0 0 (by decide) rfl rfl
theorem Encoding.frndRz (d a : Reg) (r : Route) : Encoding.Statement (.frndRz d a r) := Encoding.of_LA 82 d a r 0 0 (by decide) rfl rfl
theorem Encoding.frndRm (d a : Reg) (r : Route) : Encoding.Statement (.frndRm d a r) := Encoding.of_LA 83 d a r 0 0 (by decide) rfl rfl
theorem Encoding.frndRp (d a : Reg) (r : Route) : Encoding.Statement (.frndRp d a r) := Encoding.of_LA 84 d a r 0 0 (by decide) rfl rfl
theorem Encoding.fcmpEq (d a : Reg) (r : Route) (b : Reg) (s : Route) : Encoding.Statement (.fcmpEq d a r b s) := Encoding.of_LA 88 d a r b s (by decide) rfl rfl
theorem Encoding.fcmpNe (d a : Reg) (r : Route) (b : Reg) (s : Route) : Encoding.Statement (.fcmpNe d a r b s) := Encoding.of_LA 89 d a r b s (by decide) rfl rfl
theorem Encoding.fcmpLt (d a : Reg) (r : Route) (b : Reg) (s : Route) : Encoding.Statement (.fcmpLt d a r b s) := Encoding.of_LA 90 d a r b s (by decide) rfl rfl
theorem Encoding.fcmpLe (d a : Reg) (r : Route) (b : Reg) (s : Route) : Encoding.Statement (.fcmpLe d a r b s) := Encoding.of_LA 91 d a r b s (by decide) rfl rfl
theorem Encoding.fcmpGt (d a : Reg) (r : Route) (b : Reg) (s : Route) : Encoding.Statement (.fcmpGt d a r b s) := Encoding.of_LA 92 d a r b s (by decide) rfl rfl
theorem Encoding.fcmpGe (d a : Reg) (r : Route) (b : Reg) (s : Route) : Encoding.Statement (.fcmpGe d a r b s) := Encoding.of_LA 93 d a r b s (by decide) rfl rfl
theorem Encoding.fcmpUn (d a : Reg) (r : Route) (b : Reg) (s : Route) : Encoding.Statement (.fcmpUn d a r b s) := Encoding.of_LA 94 d a r b s (by decide) rfl rfl
theorem Encoding.fcmpOrd (d a : Reg) (r : Route) (b : Reg) (s : Route) : Encoding.Statement (.fcmpOrd d a r b s) := Encoding.of_LA 95 d a r b s (by decide) rfl rfl
theorem Encoding.dadd (d a : Reg) (r : Route) (b : Reg) (s : Route) : Encoding.Statement (.dadd d a r b s) := Encoding.of_LA 96 d a r b s (by decide) rfl rfl
theorem Encoding.dsub (d a : Reg) (r : Route) (b : Reg) (s : Route) : Encoding.Statement (.dsub d a r b s) := Encoding.of_LA 97 d a r b s (by decide) rfl rfl
theorem Encoding.dmul (d a : Reg) (r : Route) (b : Reg) (s : Route) : Encoding.Statement (.dmul d a r b s) := Encoding.of_LA 98 d a r b s (by decide) rfl rfl
theorem Encoding.dfma (d a : Reg) (r : Route) (b : Reg) (s : Route) : Encoding.Statement (.dfma d a r b s) := Encoding.of_LA 99 d a r b s (by decide) rfl rfl
theorem Encoding.dmin (d a : Reg) (r : Route) (b : Reg) (s : Route) : Encoding.Statement (.dmin d a r b s) := Encoding.of_LA 100 d a r b s (by decide) rfl rfl
theorem Encoding.dmax (d a : Reg) (r : Route) (b : Reg) (s : Route) : Encoding.Statement (.dmax d a r b s) := Encoding.of_LA 101 d a r b s (by decide) rfl rfl
theorem Encoding.ddiv (d a : Reg) (r : Route) (b : Reg) (s : Route) : Encoding.Statement (.ddiv d a r b s) := Encoding.of_LA 102 d a r b s (by decide) rfl rfl
theorem Encoding.dsqrt (d a : Reg) (r : Route) : Encoding.Statement (.dsqrt d a r) := Encoding.of_LA 103 d a r 0 0 (by decide) rfl rfl
theorem Encoding.drndRn (d a : Reg) (r : Route) : Encoding.Statement (.drndRn d a r) := Encoding.of_LA 104 d a r 0 0 (by decide) rfl rfl
theorem Encoding.drndRz (d a : Reg) (r : Route) : Encoding.Statement (.drndRz d a r) := Encoding.of_LA 105 d a r 0 0 (by decide) rfl rfl
theorem Encoding.drndRm (d a : Reg) (r : Route) : Encoding.Statement (.drndRm d a r) := Encoding.of_LA 106 d a r 0 0 (by decide) rfl rfl
theorem Encoding.drndRp (d a : Reg) (r : Route) : Encoding.Statement (.drndRp d a r) := Encoding.of_LA 107 d a r 0 0 (by decide) rfl rfl
theorem Encoding.dcmpEq (d a : Reg) (r : Route) (b : Reg) (s : Route) : Encoding.Statement (.dcmpEq d a r b s) := Encoding.of_LA 112 d a r b s (by decide) rfl rfl
theorem Encoding.dcmpNe (d a : Reg) (r : Route) (b : Reg) (s : Route) : Encoding.Statement (.dcmpNe d a r b s) := Encoding.of_LA 113 d a r b s (by decide) rfl rfl
theorem Encoding.dcmpLt (d a : Reg) (r : Route) (b : Reg) (s : Route) : Encoding.Statement (.dcmpLt d a r b s) := Encoding.of_LA 114 d a r b s (by decide) rfl rfl
theorem Encoding.dcmpLe (d a : Reg) (r : Route) (b : Reg) (s : Route) : Encoding.Statement (.dcmpLe d a r b s) := Encoding.of_LA 115 d a r b s (by decide) rfl rfl
theorem Encoding.dcmpGt (d a : Reg) (r : Route) (b : Reg) (s : Route) : Encoding.Statement (.dcmpGt d a r b s) := Encoding.of_LA 116 d a r b s (by decide) rfl rfl
theorem Encoding.dcmpGe (d a : Reg) (r : Route) (b : Reg) (s : Route) : Encoding.Statement (.dcmpGe d a r b s) := Encoding.of_LA 117 d a r b s (by decide) rfl rfl
theorem Encoding.dcmpUn (d a : Reg) (r : Route) (b : Reg) (s : Route) : Encoding.Statement (.dcmpUn d a r b s) := Encoding.of_LA 118 d a r b s (by decide) rfl rfl
theorem Encoding.dcmpOrd (d a : Reg) (r : Route) (b : Reg) (s : Route) : Encoding.Statement (.dcmpOrd d a r b s) := Encoding.of_LA 119 d a r b s (by decide) rfl rfl
theorem Encoding.hadd2 (d a : Reg) (r : Route) (b : Reg) (s : Route) : Encoding.Statement (.hadd2 d a r b s) := Encoding.of_LA 128 d a r b s (by decide) rfl rfl
theorem Encoding.hmul2 (d a : Reg) (r : Route) (b : Reg) (s : Route) : Encoding.Statement (.hmul2 d a r b s) := Encoding.of_LA 129 d a r b s (by decide) rfl rfl
theorem Encoding.hfma2 (d a : Reg) (r : Route) (b : Reg) (s : Route) : Encoding.Statement (.hfma2 d a r b s) := Encoding.of_LA 130 d a r b s (by decide) rfl rfl
theorem Encoding.hmax2 (d a : Reg) (r : Route) (b : Reg) (s : Route) : Encoding.Statement (.hmax2 d a r b s) := Encoding.of_LA 131 d a r b s (by decide) rfl rfl
theorem Encoding.badd2 (d a : Reg) (r : Route) (b : Reg) (s : Route) : Encoding.Statement (.badd2 d a r b s) := Encoding.of_LA 132 d a r b s (by decide) rfl rfl
theorem Encoding.bmul2 (d a : Reg) (r : Route) (b : Reg) (s : Route) : Encoding.Statement (.bmul2 d a r b s) := Encoding.of_LA 133 d a r b s (by decide) rfl rfl
theorem Encoding.bfma2 (d a : Reg) (r : Route) (b : Reg) (s : Route) : Encoding.Statement (.bfma2 d a r b s) := Encoding.of_LA 134 d a r b s (by decide) rfl rfl
theorem Encoding.bmax2 (d a : Reg) (r : Route) (b : Reg) (s : Route) : Encoding.Statement (.bmax2 d a r b s) := Encoding.of_LA 135 d a r b s (by decide) rfl rfl
theorem Encoding.cvt (d a : Reg) (r : Route) (t u : Fmt) : Encoding.Statement (.cvt d a r t u) := Encoding.of_cvt 144 d a r t u (by decide) rfl (Encoding.formats t u (Instr.cvt d a r))
theorem Encoding.cvtSat (d a : Reg) (r : Route) (t u : Fmt) : Encoding.Statement (.cvtSat d a r t u) := Encoding.of_cvt 145 d a r t u (by decide) rfl (Encoding.formats t u (Instr.cvtSat d a r))
theorem Encoding.cvtRn (d a : Reg) (r : Route) (t u : Fmt) : Encoding.Statement (.cvtRn d a r t u) := Encoding.of_cvt 146 d a r t u (by decide) rfl (Encoding.formats t u (Instr.cvtRn d a r))
theorem Encoding.cvtRz (d a : Reg) (r : Route) (t u : Fmt) : Encoding.Statement (.cvtRz d a r t u) := Encoding.of_cvt 147 d a r t u (by decide) rfl (Encoding.formats t u (Instr.cvtRz d a r))
theorem Encoding.cvtRm (d a : Reg) (r : Route) (t u : Fmt) : Encoding.Statement (.cvtRm d a r t u) := Encoding.of_cvt 148 d a r t u (by decide) rfl (Encoding.formats t u (Instr.cvtRm d a r))
theorem Encoding.cvtRp (d a : Reg) (r : Route) (t u : Fmt) : Encoding.Statement (.cvtRp d a r t u) := Encoding.of_cvt 149 d a r t u (by decide) rfl (Encoding.formats t u (Instr.cvtRp d a r))
theorem Encoding.pkF16 (d a : Reg) (r : Route) (b : Reg) (s : Route) : Encoding.Statement (.pkF16 d a r b s) := Encoding.of_LA 160 d a r b s (by decide) rfl rfl
theorem Encoding.pkBf16 (d a : Reg) (r : Route) (b : Reg) (s : Route) : Encoding.Statement (.pkBf16 d a r b s) := Encoding.of_LA 161 d a r b s (by decide) rfl rfl
theorem Encoding.pkE4m3 (d a : Reg) (r : Route) (b : Reg) (s : Route) : Encoding.Statement (.pkE4m3 d a r b s) := Encoding.of_LA 162 d a r b s (by decide) rfl rfl
theorem Encoding.pkE5m2 (d a : Reg) (r : Route) (b : Reg) (s : Route) : Encoding.Statement (.pkE5m2 d a r b s) := Encoding.of_LA 163 d a r b s (by decide) rfl rfl
theorem Encoding.pkE4m3Sat (d a : Reg) (r : Route) (b : Reg) (s : Route) : Encoding.Statement (.pkE4m3Sat d a r b s) := Encoding.of_LA 164 d a r b s (by decide) rfl rfl
theorem Encoding.pkE5m2Sat (d a : Reg) (r : Route) (b : Reg) (s : Route) : Encoding.Statement (.pkE5m2Sat d a r b s) := Encoding.of_LA 165 d a r b s (by decide) rfl rfl
theorem Encoding.pkI8 (d a : Reg) (r : Route) (b : Reg) (s : Route) : Encoding.Statement (.pkI8 d a r b s) := Encoding.of_LA 166 d a r b s (by decide) rfl rfl
theorem Encoding.pkI8S (d a : Reg) (r : Route) (b : Reg) (s : Route) : Encoding.Statement (.pkI8S d a r b s) := Encoding.of_LA 167 d a r b s (by decide) rfl rfl
theorem Encoding.pkBq4T0 (d a : Reg) (r : Route) : Encoding.Statement (.pkBq4T0 d a r) := Encoding.of_LA 168 d a r 0 0 (by decide) rfl rfl
theorem Encoding.pkBq4T1 (d a : Reg) (r : Route) : Encoding.Statement (.pkBq4T1 d a r) := Encoding.of_LA 169 d a r 0 0 (by decide) rfl rfl
theorem Encoding.pkBq4T2 (d a : Reg) (r : Route) : Encoding.Statement (.pkBq4T2 d a r) := Encoding.of_LA 170 d a r 0 0 (by decide) rfl rfl
theorem Encoding.pkBq4T3 (d a : Reg) (r : Route) : Encoding.Statement (.pkBq4T3 d a r) := Encoding.of_LA 171 d a r 0 0 (by decide) rfl rfl
theorem Encoding.unpkF16 (d a : Reg) (r : Route) : Encoding.Statement (.unpkF16 d a r) := Encoding.of_LA 176 d a r 0 0 (by decide) rfl rfl
theorem Encoding.unpkBf16 (d a : Reg) (r : Route) : Encoding.Statement (.unpkBf16 d a r) := Encoding.of_LA 177 d a r 0 0 (by decide) rfl rfl
theorem Encoding.unpkE4m3 (d a : Reg) (r : Route) : Encoding.Statement (.unpkE4m3 d a r) := Encoding.of_LA 178 d a r 0 0 (by decide) rfl rfl
theorem Encoding.unpkE5m2 (d a : Reg) (r : Route) : Encoding.Statement (.unpkE5m2 d a r) := Encoding.of_LA 179 d a r 0 0 (by decide) rfl rfl
theorem Encoding.unpkI8 (d a : Reg) (r : Route) : Encoding.Statement (.unpkI8 d a r) := Encoding.of_LA 180 d a r 0 0 (by decide) rfl rfl
theorem Encoding.unpkBq4 (d a : Reg) : Encoding.Statement (.unpkBq4 d a) := Encoding.of_LA 181 d a 0 0 0 (by decide) rfl rfl
theorem Encoding.rngKey (d a : Reg) (r : Route) (b : Reg) (s : Route) : Encoding.Statement (.rngKey d a r b s) := Encoding.of_LA 192 d a r b s (by decide) rfl rfl
theorem Encoding.rngDraw (d a : Reg) : Encoding.Statement (.rngDraw d a) := Encoding.of_LA 193 d a 0 0 0 (by decide) rfl rfl
theorem Encoding.rngDrawF32 (d a : Reg) : Encoding.Statement (.rngDrawF32 d a) := Encoding.of_LA 194 d a 0 0 0 (by decide) rfl rfl
theorem Encoding.rngDrawF64 (d a : Reg) : Encoding.Statement (.rngDrawF64 d a) := Encoding.of_LA 195 d a 0 0 0 (by decide) rfl rfl
theorem Encoding.rngSkip (d a : Reg) (r : Route) (b : Reg) (s : Route) : Encoding.Statement (.rngSkip d a r b s) := Encoding.of_LA 196 d a r b s (by decide) rfl rfl
theorem Encoding.aget (d a : Reg) (r : Route) (b : Reg) (s : Route) : Encoding.Statement (.aget d a r b s) := Encoding.of_LA 200 d a r b s (by decide) rfl rfl
theorem Encoding.aadd (d a : Reg) (r : Route) (b : Reg) (s : Route) : Encoding.Statement (.aadd d a r b s) := Encoding.of_LA 201 d a r b s (by decide) rfl rfl
theorem Encoding.amerge (d a : Reg) (r : Route) (b : Reg) (s : Route) : Encoding.Statement (.amerge d a r b s) := Encoding.of_LA 202 d a r b s (by decide) rfl rfl
theorem Encoding.aset (d a : Reg) (r : Route) (b : Reg) (s : Route) : Encoding.Statement (.aset d a r b s) := Encoding.of_LA 203 d a r b s (by decide) rfl rfl
theorem Encoding.addImm (d a : Reg) (i : BitVec 13) : Encoding.Statement (.addImm d a i) := Encoding.of_LI 0 d a i (by decide) rfl rfl
theorem Encoding.andImm (d a : Reg) (i : BitVec 13) : Encoding.Statement (.andImm d a i) := Encoding.of_LI 1 d a i (by decide) rfl rfl
theorem Encoding.orImm (d a : Reg) (i : BitVec 13) : Encoding.Statement (.orImm d a i) := Encoding.of_LI 2 d a i (by decide) rfl rfl
theorem Encoding.xorImm (d a : Reg) (i : BitVec 13) : Encoding.Statement (.xorImm d a i) := Encoding.of_LI 3 d a i (by decide) rfl rfl
theorem Encoding.shlImm (d a : Reg) (n : BitVec 5) : Encoding.Statement (.shlImm d a n) := by
  have hl := n.isLt
  have hx : (BitVec.ofNat 13 (0 + n.toNat)).toNat = 0 + n.toNat := by rw [BitVec.toNat_ofNat]; omega
  refine Encoding.of_LI 4 d a (BitVec.ofNat 13 (0 + n.toNat)) (by decide) (by rw [hx]; simp [encodeNat]) ?_
  simp only [decodeLI, hx, show (0 + n.toNat) / 32 = 0 by omega, show (0 + n.toNat) % 32 = n.toNat by omega, BitVec.ofNat_toNat, BitVec.setWidth_eq]
  rfl
theorem Encoding.shrImm (d a : Reg) (n : BitVec 5) : Encoding.Statement (.shrImm d a n) := by
  have hl := n.isLt
  have hx : (BitVec.ofNat 13 (2048 + n.toNat)).toNat = 2048 + n.toNat := by rw [BitVec.toNat_ofNat]; omega
  refine Encoding.of_LI 4 d a (BitVec.ofNat 13 (2048 + n.toNat)) (by decide) (by rw [hx]; rfl) ?_
  simp only [decodeLI, hx, show (2048 + n.toNat) / 32 = 64 by omega, show (2048 + n.toNat) % 32 = n.toNat by omega, BitVec.ofNat_toNat, BitVec.setWidth_eq]
  rfl
theorem Encoding.sarImm (d a : Reg) (n : BitVec 5) : Encoding.Statement (.sarImm d a n) := by
  have hl := n.isLt
  have hx : (BitVec.ofNat 13 (4096 + n.toNat)).toNat = 4096 + n.toNat := by rw [BitVec.toNat_ofNat]; omega
  refine Encoding.of_LI 4 d a (BitVec.ofNat 13 (4096 + n.toNat)) (by decide) (by rw [hx]; rfl) ?_
  simp only [decodeLI, hx, show (4096 + n.toNat) / 32 = 128 by omega, show (4096 + n.toNat) % 32 = n.toNat by omega, BitVec.ofNat_toNat, BitVec.setWidth_eq]
  rfl
theorem Encoding.rotImm (d a : Reg) (n : BitVec 5) : Encoding.Statement (.rotImm d a n) := by
  have hl := n.isLt
  have hx : (BitVec.ofNat 13 (6144 + n.toNat)).toNat = 6144 + n.toNat := by rw [BitVec.toNat_ofNat]; omega
  refine Encoding.of_LI 4 d a (BitVec.ofNat 13 (6144 + n.toNat)) (by decide) (by rw [hx]; rfl) ?_
  simp only [decodeLI, hx, show (6144 + n.toNat) / 32 = 192 by omega, show (6144 + n.toNat) % 32 = n.toNat by omega, BitVec.ofNat_toNat, BitVec.setWidth_eq]
  rfl
theorem Encoding.movImm (d : Reg) (i : BitVec 13) : Encoding.Statement (.movImm d i) := Encoding.of_LI 5 d 0 i (by decide) rfl rfl
theorem Encoding.lop3 (d a b : Reg) (f : Lop3Fn) (m : BitVec 3) : Encoding.Statement (.lop3 d a b f m) := by
  have hl := m.isLt
  have hc : f.code < 10 := by cases f <;> decide
  have ho : Lop3Fn.ofCode f.code = some f := by cases f <;> rfl
  have hx : (BitVec.ofNat 13 (b.val * 128 + f.code * 8 + m.toNat)).toNat = b.val * 128 + f.code * 8 + m.toNat := by rw [BitVec.toNat_ofNat]; omega
  refine Encoding.of_LI 6 d a (BitVec.ofNat 13 (b.val * 128 + f.code * 8 + m.toNat)) (by decide) (by rw [hx]; rfl) ?_
  have hb : Fin.ofNat 64 ((b.val * 128 + f.code * 8 + m.toNat) / 128) = b := by apply Fin.ext; rw [Fin.val_ofNat]; omega
  simp only [decodeLI, hx, hb, show (b.val * 128 + f.code * 8 + m.toNat) / 8 % 16 = f.code by omega, show (b.val * 128 + f.code * 8 + m.toNat) % 8 = m.toNat by omega,
    BitVec.ofNat_toNat, BitVec.setWidth_eq, ho, withCode]
theorem Encoding.lop3Not (d a b : Reg) (f : Lop3Fn) (m : BitVec 3) : Encoding.Statement (.lop3Not d a b f m) := by
  have hl := m.isLt
  have hc : f.code < 10 := by cases f <;> decide
  have ho : Lop3Fn.ofCode f.code = some f := by cases f <;> rfl
  have hx : (BitVec.ofNat 13 (b.val * 128 + f.code * 8 + m.toNat)).toNat = b.val * 128 + f.code * 8 + m.toNat := by rw [BitVec.toNat_ofNat]; omega
  refine Encoding.of_LI 7 d a (BitVec.ofNat 13 (b.val * 128 + f.code * 8 + m.toNat)) (by decide) (by rw [hx]; rfl) ?_
  have hb : Fin.ofNat 64 ((b.val * 128 + f.code * 8 + m.toNat) / 128) = b := by apply Fin.ext; rw [Fin.val_ofNat]; omega
  simp only [decodeLI, hx, hb, show (b.val * 128 + f.code * 8 + m.toNat) / 8 % 16 = f.code by omega, show (b.val * 128 + f.code * 8 + m.toNat) % 8 = m.toNat by omega,
    BitVec.ofNat_toNat, BitVec.setWidth_eq, ho, withCode]
theorem Encoding.brcNz (c : Reg) (f : BitVec 19) : Encoding.Statement (.brcNz c f) := Encoding.of_LIBranch 8 c f (by decide) rfl rfl
theorem Encoding.brcZ (c : Reg) (f : BitVec 19) : Encoding.Statement (.brcZ c f) := Encoding.of_LIBranch 9 c f (by decide) rfl rfl
theorem Encoding.ld (d a : Reg) (k : LoadForm) (f : BitVec 9) : Encoding.Statement (.ld d a k f) := by refine Encoding.of_LM 0 d a (Fin.ofNat 8 k.code) f (by decide) ?_ ?_ <;> cases k <;> rfl
theorem Encoding.ldRaw (d a : Reg) (k : LoadForm) (f : BitVec 9) : Encoding.Statement (.ldRaw d a k f) := by refine Encoding.of_LM 1 d a (Fin.ofNat 8 k.code) f (by decide) ?_ ?_ <;> cases k <;> rfl
theorem Encoding.st (d a : Reg) (k : StoreForm) (f : BitVec 9) : Encoding.Statement (.st d a k f) := by refine Encoding.of_LM 2 d a (Fin.ofNat 8 k.code) f (by decide) ?_ ?_ <;> cases k <;> rfl
theorem Encoding.stRaw (d a : Reg) (k : StoreForm) (f : BitVec 9) : Encoding.Statement (.stRaw d a k f) := by refine Encoding.of_LM 3 d a (Fin.ofNat 8 k.code) f (by decide) ?_ ?_ <;> cases k <;> rfl
theorem Encoding.prefetchL2 (a : Reg) (f : BitVec 9) : Encoding.Statement (.prefetchL2 a f) := Encoding.of_LM 4 0 a 0 f (by decide) rfl rfl
theorem Encoding.prefetchL1 (a : Reg) (f : BitVec 9) : Encoding.Statement (.prefetchL1 a f) := Encoding.of_LM 4 0 a 1 f (by decide) rfl rfl
theorem Encoding.atomOAdd (d a : Reg) (f : BitVec 9) : Encoding.Statement (.atomOAdd d a f) := Encoding.of_LM 5 d a 0 f (by decide) rfl rfl
theorem Encoding.atomOAnd (d a : Reg) (f : BitVec 9) : Encoding.Statement (.atomOAnd d a f) := Encoding.of_LM 5 d a 1 f (by decide) rfl rfl
theorem Encoding.atomOOr (d a : Reg) (f : BitVec 9) : Encoding.Statement (.atomOOr d a f) := Encoding.of_LM 5 d a 2 f (by decide) rfl rfl
theorem Encoding.atomOXor (d a : Reg) (f : BitVec 9) : Encoding.Statement (.atomOXor d a f) := Encoding.of_LM 5 d a 3 f (by decide) rfl rfl
theorem Encoding.atomOMin (d a : Reg) (f : BitVec 9) : Encoding.Statement (.atomOMin d a f) := Encoding.of_LM 5 d a 4 f (by decide) rfl rfl
theorem Encoding.atomOMax (d a : Reg) (f : BitVec 9) : Encoding.Statement (.atomOMax d a f) := Encoding.of_LM 5 d a 5 f (by decide) rfl rfl
theorem Encoding.atomOMinu (d a : Reg) (f : BitVec 9) : Encoding.Statement (.atomOMinu d a f) := Encoding.of_LM 5 d a 6 f (by decide) rfl rfl
theorem Encoding.atomOMaxu (d a : Reg) (f : BitVec 9) : Encoding.Statement (.atomOMaxu d a f) := Encoding.of_LM 5 d a 7 f (by decide) rfl rfl
theorem Encoding.atomUAdd (d a : Reg) (f : BitVec 9) : Encoding.Statement (.atomUAdd d a f) := Encoding.of_LM 6 d a 0 f (by decide) rfl rfl
theorem Encoding.atomUAnd (d a : Reg) (f : BitVec 9) : Encoding.Statement (.atomUAnd d a f) := Encoding.of_LM 6 d a 1 f (by decide) rfl rfl
theorem Encoding.atomUOr (d a : Reg) (f : BitVec 9) : Encoding.Statement (.atomUOr d a f) := Encoding.of_LM 6 d a 2 f (by decide) rfl rfl
theorem Encoding.atomUXor (d a : Reg) (f : BitVec 9) : Encoding.Statement (.atomUXor d a f) := Encoding.of_LM 6 d a 3 f (by decide) rfl rfl
theorem Encoding.atomUMin (d a : Reg) (f : BitVec 9) : Encoding.Statement (.atomUMin d a f) := Encoding.of_LM 6 d a 4 f (by decide) rfl rfl
theorem Encoding.atomUMax (d a : Reg) (f : BitVec 9) : Encoding.Statement (.atomUMax d a f) := Encoding.of_LM 6 d a 5 f (by decide) rfl rfl
theorem Encoding.atomUMinu (d a : Reg) (f : BitVec 9) : Encoding.Statement (.atomUMinu d a f) := Encoding.of_LM 6 d a 6 f (by decide) rfl rfl
theorem Encoding.atomUMaxu (d a : Reg) (f : BitVec 9) : Encoding.Statement (.atomUMaxu d a f) := Encoding.of_LM 6 d a 7 f (by decide) rfl rfl
theorem Encoding.atomOExch (d a : Reg) (f : BitVec 9) : Encoding.Statement (.atomOExch d a f) := Encoding.of_LM 7 d a 0 f (by decide) rfl rfl
theorem Encoding.atomOCas (d a : Reg) (f : BitVec 9) : Encoding.Statement (.atomOCas d a f) := Encoding.of_LM 7 d a 1 f (by decide) rfl rfl
theorem Encoding.atomOAdd64 (d a : Reg) (f : BitVec 9) : Encoding.Statement (.atomOAdd64 d a f) := Encoding.of_LM 7 d a 2 f (by decide) rfl rfl
theorem Encoding.atomOExch64 (d a : Reg) (f : BitVec 9) : Encoding.Statement (.atomOExch64 d a f) := Encoding.of_LM 7 d a 3 f (by decide) rfl rfl
theorem Encoding.atomOCas64 (d a : Reg) (f : BitVec 9) : Encoding.Statement (.atomOCas64 d a f) := Encoding.of_LM 7 d a 4 f (by decide) rfl rfl
theorem Encoding.atomUExch (d a : Reg) (f : BitVec 9) : Encoding.Statement (.atomUExch d a f) := Encoding.of_LM 8 d a 0 f (by decide) rfl rfl
theorem Encoding.atomUCas (d a : Reg) (f : BitVec 9) : Encoding.Statement (.atomUCas d a f) := Encoding.of_LM 8 d a 1 f (by decide) rfl rfl
theorem Encoding.atomUAdd64 (d a : Reg) (f : BitVec 9) : Encoding.Statement (.atomUAdd64 d a f) := Encoding.of_LM 8 d a 2 f (by decide) rfl rfl
theorem Encoding.atomUExch64 (d a : Reg) (f : BitVec 9) : Encoding.Statement (.atomUExch64 d a f) := Encoding.of_LM 8 d a 3 f (by decide) rfl rfl
theorem Encoding.atomUCas64 (d a : Reg) (f : BitVec 9) : Encoding.Statement (.atomUCas64 d a f) := Encoding.of_LM 8 d a 4 f (by decide) rfl rfl
theorem Encoding.fatomOFadd (d a : Reg) (f : BitVec 9) : Encoding.Statement (.fatomOFadd d a f) := Encoding.of_LM 9 d a 0 f (by decide) rfl rfl
theorem Encoding.fatomOFmin (d a : Reg) (f : BitVec 9) : Encoding.Statement (.fatomOFmin d a f) := Encoding.of_LM 9 d a 1 f (by decide) rfl rfl
theorem Encoding.fatomOFmax (d a : Reg) (f : BitVec 9) : Encoding.Statement (.fatomOFmax d a f) := Encoding.of_LM 9 d a 2 f (by decide) rfl rfl
theorem Encoding.fatomODadd (d a : Reg) (f : BitVec 9) : Encoding.Statement (.fatomODadd d a f) := Encoding.of_LM 9 d a 3 f (by decide) rfl rfl
theorem Encoding.fatomOHadd2 (d a : Reg) (f : BitVec 9) : Encoding.Statement (.fatomOHadd2 d a f) := Encoding.of_LM 9 d a 4 f (by decide) rfl rfl
theorem Encoding.fatomOBadd2 (d a : Reg) (f : BitVec 9) : Encoding.Statement (.fatomOBadd2 d a f) := Encoding.of_LM 9 d a 5 f (by decide) rfl rfl
theorem Encoding.fatomUFadd (d a : Reg) (f : BitVec 9) : Encoding.Statement (.fatomUFadd d a f) := Encoding.of_LM 10 d a 0 f (by decide) rfl rfl
theorem Encoding.fatomUFmin (d a : Reg) (f : BitVec 9) : Encoding.Statement (.fatomUFmin d a f) := Encoding.of_LM 10 d a 1 f (by decide) rfl rfl
theorem Encoding.fatomUFmax (d a : Reg) (f : BitVec 9) : Encoding.Statement (.fatomUFmax d a f) := Encoding.of_LM 10 d a 2 f (by decide) rfl rfl
theorem Encoding.fatomUDadd (d a : Reg) (f : BitVec 9) : Encoding.Statement (.fatomUDadd d a f) := Encoding.of_LM 10 d a 3 f (by decide) rfl rfl
theorem Encoding.fatomUHadd2 (d a : Reg) (f : BitVec 9) : Encoding.Statement (.fatomUHadd2 d a f) := Encoding.of_LM 10 d a 4 f (by decide) rfl rfl
theorem Encoding.fatomUBadd2 (d a : Reg) (f : BitVec 9) : Encoding.Statement (.fatomUBadd2 d a f) := Encoding.of_LM 10 d a 5 f (by decide) rfl rfl
theorem Encoding.cpAsyncIn (d a : Reg) (s : CopySize) (f : BitVec 9) : Encoding.Statement (.cpAsyncIn d a s f) := by refine Encoding.of_LM 11 d a (Fin.ofNat 8 s.code) f (by decide) ?_ ?_ <;> cases s <;> rfl
theorem Encoding.cpAsyncOut (d a : Reg) (s : CopySize) (f : BitVec 9) : Encoding.Statement (.cpAsyncOut d a s f) := by refine Encoding.of_LM 12 d a (Fin.ofNat 8 s.code) f (by decide) ?_ ?_ <;> cases s <;> rfl
theorem Encoding.cpRows (d a : Reg) (k : Token) : Encoding.Statement (.cpRows d a k) := Encoding.of_LM 13 d a k 0 (by decide) rfl rfl
theorem Encoding.cpMcastO (d a : Reg) (k : Token) : Encoding.Statement (.cpMcastO d a k) := Encoding.of_LM 14 d a k 0 (by decide) rfl rfl
theorem Encoding.cpMcastU (d a : Reg) (k : Token) : Encoding.Statement (.cpMcastU d a k) := Encoding.of_LM 15 d a k 0 (by decide) rfl rfl
theorem Encoding.cbufGet (d a : Reg) (n : BitVec 9) : Encoding.Statement (.cbufGet d a n) := Encoding.of_LM 16 d a 0 n (by decide) rfl rfl
theorem Encoding.cbufPut (d a : Reg) (n : BitVec 9) : Encoding.Statement (.cbufPut d a n) := Encoding.of_LM 17 d a 0 n (by decide) rfl rfl
theorem Encoding.qpushO (d a : Reg) : Encoding.Statement (.qpushO d a) := Encoding.of_LM 18 d a 0 0 (by decide) rfl rfl
theorem Encoding.qpushU (d a : Reg) : Encoding.Statement (.qpushU d a) := Encoding.of_LM 19 d a 0 0 (by decide) rfl rfl
theorem Encoding.qpop (d a : Reg) : Encoding.Statement (.qpop d a) := Encoding.of_LM 20 d a 0 0 (by decide) rfl rfl
theorem Encoding.bucketArrive (d a : Reg) : Encoding.Statement (.bucketArrive d a) := Encoding.of_LM 21 d a 0 0 (by decide) rfl rfl
theorem Encoding.barTag (d a : Reg) (f : BitVec 9) : Encoding.Statement (.barTag d a f) := Encoding.of_LM 22 d a 0 f (by decide) rfl rfl
theorem Encoding.rcpReg (d a : Reg) : Encoding.Statement (.rcpReg d a) := Encoding.of_LM 23 d a 0 0 (by decide) rfl rfl
theorem Encoding.rcpDrop (a : Reg) : Encoding.Statement (.rcpDrop a) := Encoding.of_LM 23 0 a 1 0 (by decide) rfl rfl
theorem Encoding.rcpPin (a : Reg) : Encoding.Statement (.rcpPin a) := Encoding.of_LM 23 0 a 2 0 (by decide) rfl rfl
theorem Encoding.rcpUnpin (a : Reg) : Encoding.Statement (.rcpUnpin a) := Encoding.of_LM 23 0 a 3 0 (by decide) rfl rfl
theorem Encoding.tileState (d a : Reg) : Encoding.Statement (.tileState d a) := Encoding.of_LM 23 d a 4 0 (by decide) rfl (by simp [decodeLM])
theorem Encoding.mmLdw (a : Reg) (k : Token) : Encoding.Statement (.mmLdw a k) := Encoding.of_LM 24 0 a k 0 (by decide) rfl rfl
theorem Encoding.mmSwapw (a : Reg) (k : Token) : Encoding.Statement (.mmSwapw a k) := Encoding.of_LM 24 0 a k 16 (by decide) rfl rfl
theorem Encoding.mmRun (a : Reg) (k : Token) : Encoding.Statement (.mmRun a k) := Encoding.of_LM 24 0 a k 32 (by decide) rfl rfl
theorem Encoding.mmSwapacc (a : Reg) (k : Token) : Encoding.Statement (.mmSwapacc a k) := Encoding.of_LM 24 0 a k 48 (by decide) rfl rfl
theorem Encoding.mmAccrd (a : Reg) (k : Token) : Encoding.Statement (.mmAccrd a k) := Encoding.of_LM 24 0 a k 64 (by decide) rfl rfl
theorem Encoding.mmAccwr (a : Reg) (k : Token) : Encoding.Statement (.mmAccwr a k) := Encoding.of_LM 24 0 a k 80 (by decide) rfl rfl
theorem Encoding.mmDrain (a : Reg) (k : Token) : Encoding.Statement (.mmDrain a k) := Encoding.of_LM 24 0 a k 96 (by decide) rfl rfl
theorem Encoding.mmRegrow (a : Reg) (k : Token) : Encoding.Statement (.mmRegrow a k) := Encoding.of_LM 24 0 a k 112 (by decide) rfl rfl
theorem Encoding.mmAmax (d a : Reg) : Encoding.Statement (.mmAmax d a) := Encoding.of_LM 24 d a 0 128 (by decide) rfl (by simp [decodeLM])
theorem Encoding.bsAsm (a : Reg) (k : Token) : Encoding.Statement (.bsAsm a k) := Encoding.of_LM 25 0 a k 0 (by decide) rfl rfl
theorem Encoding.bsLu (a : Reg) (k : Token) : Encoding.Statement (.bsLu a k) := Encoding.of_LM 25 0 a k 16 (by decide) rfl rfl
theorem Encoding.bsLdl (a : Reg) (k : Token) : Encoding.Statement (.bsLdl a k) := Encoding.of_LM 25 0 a k 32 (by decide) rfl rfl
theorem Encoding.bsTrsv (a : Reg) (k : Token) : Encoding.Statement (.bsTrsv a k) := Encoding.of_LM 25 0 a k 48 (by decide) rfl rfl
theorem Encoding.bsPgs (a : Reg) (k : Token) : Encoding.Statement (.bsPgs a k) := Encoding.of_LM 25 0 a k 64 (by decide) rfl rfl
theorem Encoding.bsBack (a : Reg) (k : Token) : Encoding.Statement (.bsBack a k) := Encoding.of_LM 25 0 a k 80 (by decide) rfl rfl
theorem Encoding.bsStat (d a : Reg) : Encoding.Statement (.bsStat d a) := Encoding.of_LM 25 d a 0 96 (by decide) rfl (by simp [decodeLM])
theorem Encoding.srtKeys (a : Reg) (k : Token) : Encoding.Statement (.srtKeys a k) := Encoding.of_LM 26 0 a k 0 (by decide) rfl rfl
theorem Encoding.srtPairs (a : Reg) (k : Token) : Encoding.Statement (.srtPairs a k) := Encoding.of_LM 26 0 a k 16 (by decide) rfl rfl
theorem Encoding.trvBuild (a : Reg) (k : Token) : Encoding.Statement (.trvBuild a k) := Encoding.of_LM 26 0 a k 32 (by decide) rfl rfl
theorem Encoding.trvQuery (a : Reg) (k : Token) : Encoding.Statement (.trvQuery a k) := Encoding.of_LM 26 0 a k 48 (by decide) rfl rfl
theorem Encoding.phaseRegroup (a : Reg) (k : Token) : Encoding.Statement (.phaseRegroup a k) := Encoding.of_LM 27 0 a k 0 (by decide) rfl rfl
theorem Encoding.phaseRestore (a : Reg) (k : Token) : Encoding.Statement (.phaseRestore a k) := Encoding.of_LM 27 0 a k 16 (by decide) rfl rfl
theorem Encoding.collPost (a : Reg) (k : Token) : Encoding.Statement (.collPost a k) := Encoding.of_LM 28 0 a k 0 (by decide) rfl rfl
theorem Encoding.gNop : Encoding.Statement .gNop := Encoding.of_UA 0 0 0 0 0 (by decide) rfl rfl
theorem Encoding.gMov (d a : Reg) : Encoding.Statement (.gMov d a) := Encoding.of_UA 1 d a 0 0 (by decide) rfl rfl
theorem Encoding.gAdd (d a b : Reg) : Encoding.Statement (.gAdd d a b) := Encoding.of_UA 2 d a b 0 (by decide) rfl rfl
theorem Encoding.gSub (d a b : Reg) : Encoding.Statement (.gSub d a b) := Encoding.of_UA 3 d a b 0 (by decide) rfl rfl
theorem Encoding.gMul (d a b : Reg) : Encoding.Statement (.gMul d a b) := Encoding.of_UA 4 d a b 0 (by decide) rfl rfl
theorem Encoding.gMulh (d a b : Reg) : Encoding.Statement (.gMulh d a b) := Encoding.of_UA 5 d a b 0 (by decide) rfl rfl
theorem Encoding.gMulhU (d a b : Reg) : Encoding.Statement (.gMulhU d a b) := Encoding.of_UA 5 d a b 1 (by decide) rfl rfl
theorem Encoding.gAnd (d a b : Reg) : Encoding.Statement (.gAnd d a b) := Encoding.of_UA 6 d a b 0 (by decide) rfl rfl
theorem Encoding.gOr (d a b : Reg) : Encoding.Statement (.gOr d a b) := Encoding.of_UA 7 d a b 0 (by decide) rfl rfl
theorem Encoding.gXor (d a b : Reg) : Encoding.Statement (.gXor d a b) := Encoding.of_UA 8 d a b 0 (by decide) rfl rfl
theorem Encoding.gShl (d a b : Reg) : Encoding.Statement (.gShl d a b) := Encoding.of_UA 9 d a b 0 (by decide) rfl rfl
theorem Encoding.gShr (d a b : Reg) : Encoding.Statement (.gShr d a b) := Encoding.of_UA 10 d a b 0 (by decide) rfl rfl
theorem Encoding.gSar (d a b : Reg) : Encoding.Statement (.gSar d a b) := Encoding.of_UA 11 d a b 0 (by decide) rfl rfl
theorem Encoding.gCmp (d a b : Reg) (c : Cond) : Encoding.Statement (.gCmp d a b c) := by refine Encoding.of_UA 12 d a b (Fin.ofNat 16 c.code) (by decide) ?_ ?_ <;> cases c <;> rfl
theorem Encoding.gSel (d a b : Reg) : Encoding.Statement (.gSel d a b) := Encoding.of_UA 13 d a b 0 (by decide) rfl rfl
theorem Encoding.gMin (d a b : Reg) : Encoding.Statement (.gMin d a b) := Encoding.of_UA 14 d a b 0 (by decide) rfl rfl
theorem Encoding.gMinU (d a b : Reg) : Encoding.Statement (.gMinU d a b) := Encoding.of_UA 14 d a b 1 (by decide) rfl rfl
theorem Encoding.gMax (d a b : Reg) : Encoding.Statement (.gMax d a b) := Encoding.of_UA 15 d a b 0 (by decide) rfl rfl
theorem Encoding.gMaxU (d a b : Reg) : Encoding.Statement (.gMaxU d a b) := Encoding.of_UA 15 d a b 1 (by decide) rfl rfl
theorem Encoding.gRet (a : Reg) : Encoding.Statement (.gRet a) := Encoding.of_UA 16 0 a 0 0 (by decide) rfl rfl
theorem Encoding.gYield : Encoding.Statement .gYield := Encoding.of_UA 17 0 0 0 0 (by decide) rfl rfl
theorem Encoding.gExit : Encoding.Statement .gExit := Encoding.of_UA 18 0 0 0 0 (by decide) rfl rfl
theorem Encoding.gLanes (a : Reg) : Encoding.Statement (.gLanes a) := Encoding.of_UA 19 0 a 0 0 (by decide) rfl rfl
theorem Encoding.gElect (d : Reg) : Encoding.Statement (.gElect d) := Encoding.of_UA 20 d 0 0 0 (by decide) rfl rfl
theorem Encoding.gEret : Encoding.Statement .gEret := Encoding.of_UA 21 0 0 0 0 (by decide) rfl rfl
theorem Encoding.gClockO (d : Reg) : Encoding.Statement (.gClockO d) := Encoding.of_UA 22 d 0 0 0 (by decide) rfl rfl
theorem Encoding.gClockU (d : Reg) : Encoding.Statement (.gClockU d) := Encoding.of_UA 22 d 0 0 1 (by decide) rfl rfl
theorem Encoding.gLaunch (d a : Reg) : Encoding.Statement (.gLaunch d a) := Encoding.of_UA 32 d a 0 0 (by decide) rfl rfl
theorem Encoding.gTrylaunch (d a : Reg) : Encoding.Statement (.gTrylaunch d a) := Encoding.of_UA 33 d a 0 0 (by decide) rfl rfl
theorem Encoding.gReplay (d a b : Reg) : Encoding.Statement (.gReplay d a b) := Encoding.of_UA 34 d a b 0 (by decide) rfl rfl
theorem Encoding.gInvoke (d a : Reg) : Encoding.Statement (.gInvoke d a) := Encoding.of_UA 35 d a 0 0 (by decide) rfl rfl
theorem Encoding.gInvokeh (d a b : Reg) : Encoding.Statement (.gInvokeh d a b) := Encoding.of_UA 36 d a b 0 (by decide) rfl rfl
theorem Encoding.gAwait (d a : Reg) : Encoding.Statement (.gAwait d a) := Encoding.of_UA 37 d a 0 0 (by decide) rfl rfl
theorem Encoding.gAwaitT (d a : Reg) : Encoding.Statement (.gAwaitT d a) := Encoding.of_UA 37 d a 0 1 (by decide) rfl rfl
theorem Encoding.gHstat (d a : Reg) : Encoding.Statement (.gHstat d a) := Encoding.of_UA 38 d a 0 0 (by decide) rfl rfl
theorem Encoding.gWsplit (a b : Reg) : Encoding.Statement (.gWsplit a b) := Encoding.of_UA 39 0 a b 0 (by decide) rfl rfl
theorem Encoding.gWgive : Encoding.Statement .gWgive := Encoding.of_UA 40 0 0 0 0 (by decide) rfl rfl
theorem Encoding.gBar (a : Reg) : Encoding.Statement (.gBar a) := Encoding.of_UA 48 0 a 0 0 (by decide) rfl rfl
theorem Encoding.gBarrive (a : Reg) : Encoding.Statement (.gBarrive a) := Encoding.of_UA 49 0 a 0 0 (by decide) rfl rfl
theorem Encoding.gBarwait (a : Reg) : Encoding.Statement (.gBarwait a) := Encoding.of_UA 50 0 a 0 0 (by decide) rfl rfl
theorem Encoding.gWait (k : Token) : Encoding.Statement (.gWait k) := by
  refine Encoding.of_UA 51 0 0 0 (Fin.ofNat 16 k.val) (by decide) ?_ ?_
  · simp only [encodeNat, Fin.val_ofNat, show k.val % 16 = k.val by omega]
  · revert k; decide
theorem Encoding.gSeal (d : Reg) : Encoding.Statement (.gSeal d) := Encoding.of_UA 52 d 0 0 0 (by decide) rfl rfl
theorem Encoding.gBwait (a : Reg) : Encoding.Statement (.gBwait a) := Encoding.of_UA 53 0 a 0 0 (by decide) rfl rfl
theorem Encoding.gFenceRel (c : Scope) : Encoding.Statement (.gFenceRel c) := by refine Encoding.of_UA 54 0 0 0 (Fin.ofNat 16 c.code) (by decide) ?_ ?_ <;> cases c <;> rfl
theorem Encoding.gFenceAcq (c : Scope) : Encoding.Statement (.gFenceAcq c) := by refine Encoding.of_UA 55 0 0 0 (Fin.ofNat 16 c.code) (by decide) ?_ ?_ <;> cases c <;> rfl
theorem Encoding.gFenceFull (c : Scope) : Encoding.Statement (.gFenceFull c) := by refine Encoding.of_UA 56 0 0 0 (Fin.ofNat 16 c.code) (by decide) ?_ ?_ <;> cases c <;> rfl
theorem Encoding.gStepadv (a : Reg) (n : Domain) : Encoding.Statement (.gStepadv a n) := Encoding.of_UA 64 0 a 0 n (by decide) rfl rfl
theorem Encoding.gStepget (d : Reg) (n : Domain) : Encoding.Statement (.gStepget d n) := Encoding.of_UA 65 d 0 0 n (by decide) rfl rfl
theorem Encoding.gSweep (n : Domain) : Encoding.Statement (.gSweep n) := Encoding.of_UA 66 0 0 0 n (by decide) rfl rfl
theorem Encoding.gSweepwait (d : Reg) (n : Domain) : Encoding.Statement (.gSweepwait d n) := Encoding.of_UA 67 d 0 0 n (by decide) rfl rfl
theorem Encoding.gJmp (f : BitVec 19) : Encoding.Statement (.gJmp f) := Encoding.of_UB 0 0 f (by decide) rfl rfl
theorem Encoding.gBrNz (a : Reg) (f : BitVec 19) : Encoding.Statement (.gBrNz a f) := Encoding.of_UB 1 a f (by decide) rfl rfl
theorem Encoding.gBrZ (a : Reg) (f : BitVec 19) : Encoding.Statement (.gBrZ a f) := Encoding.of_UB 2 a f (by decide) rfl rfl
theorem Encoding.gCall (a : Reg) (f : BitVec 19) : Encoding.Statement (.gCall a f) := Encoding.of_UB 3 a f (by decide) rfl rfl
theorem Encoding.gLoop (a : Reg) (f : BitVec 19) : Encoding.Statement (.gLoop a f) := Encoding.of_UB 4 a f (by decide) rfl rfl
theorem Encoding.gLi (d : Reg) (i : BitVec 13) : Encoding.Statement (.gLi d i) := Encoding.of_UI 0 d 0 i (by decide) rfl rfl
theorem Encoding.gLui (d a : Reg) (i : BitVec 13) : Encoding.Statement (.gLui d a i) := Encoding.of_UI 1 d a i (by decide) rfl rfl
theorem Encoding.gAddImm (d a : Reg) (i : BitVec 13) : Encoding.Statement (.gAddImm d a i) := Encoding.of_UI 2 d a i (by decide) rfl rfl
theorem Encoding.gAndImm (d a : Reg) (i : BitVec 13) : Encoding.Statement (.gAndImm d a i) := Encoding.of_UI 3 d a i (by decide) rfl rfl
theorem Encoding.gOrImm (d a : Reg) (i : BitVec 13) : Encoding.Statement (.gOrImm d a i) := Encoding.of_UI 4 d a i (by decide) rfl rfl
theorem Encoding.gXorImm (d a : Reg) (i : BitVec 13) : Encoding.Statement (.gXorImm d a i) := Encoding.of_UI 5 d a i (by decide) rfl rfl
theorem Encoding.gCsrr (d : Reg) (c : BitVec 13) : Encoding.Statement (.gCsrr d c) := Encoding.of_UI 6 d 0 c (by decide) rfl rfl
theorem Encoding.gCsrw (a : Reg) (c : BitVec 13) : Encoding.Statement (.gCsrw a c) := Encoding.of_UI 7 0 a c (by decide) rfl rfl
theorem Encoding.gCsrs (a : Reg) (c : BitVec 13) : Encoding.Statement (.gCsrs a c) := Encoding.of_UI 8 0 a c (by decide) rfl rfl
theorem Encoding.gCsrc (a : Reg) (c : BitVec 13) : Encoding.Statement (.gCsrc a c) := Encoding.of_UI 9 0 a c (by decide) rfl rfl
theorem Encoding.gTrap (n : BitVec 13) : Encoding.Statement (.gTrap n) := Encoding.of_UI 10 0 0 n (by decide) rfl rfl
theorem Encoding.gFeat (d : Reg) (n : BitVec 13) : Encoding.Statement (.gFeat d n) := Encoding.of_UI 11 d 0 n (by decide) rfl rfl
theorem Encoding.gSetroute (e : BitVec 2) (k : RouteKind) (p : BitVec 6) : Encoding.Statement (.gSetroute e k p) := by
  have he := e.isLt
  have hp := p.isLt
  have hc : k.code < 5 := by cases k <;> decide
  have ho : RouteKind.ofCode k.code = some k := by cases k <;> rfl
  have hx : (BitVec.ofNat 13 (e.toNat * 2048 + k.code * 256 + p.toNat)).toNat = e.toNat * 2048 + k.code * 256 + p.toNat := by rw [BitVec.toNat_ofNat]; omega
  refine Encoding.of_UI 12 0 0 (BitVec.ofNat 13 (e.toNat * 2048 + k.code * 256 + p.toNat)) (by decide) (by rw [hx]; rfl) ?_
  simp only [decodeUI, hx, show (e.toNat * 2048 + k.code * 256 + p.toNat) / 256 % 8 = k.code by omega, show (e.toNat * 2048 + k.code * 256 + p.toNat) / 64 % 4 = 0 by omega,
    show (e.toNat * 2048 + k.code * 256 + p.toNat) / 2048 = e.toNat by omega, show (e.toNat * 2048 + k.code * 256 + p.toNat) % 64 = p.toNat by omega,
    BitVec.ofNat_toNat, BitVec.setWidth_eq, ho, withCode]
  rfl
theorem Encoding.issueCycle (core : Nat) : Encoding.Statement (.issueCycle core) := Encoding.of_no_word rfl
theorem Encoding.rejoinStall (g : Nat) : Encoding.Statement (.rejoinStall g) := Encoding.of_no_word rfl
theorem Encoding.scoreboardedResult (g id : Nat) : Encoding.Statement (.scoreboardedResult g id) := Encoding.of_no_word rfl
theorem Encoding.exitWaitEnd (g : Nat) : Encoding.Statement (.exitWaitEnd g) := Encoding.of_no_word rfl
theorem Encoding.heldAccessResume (g id : Nat) : Encoding.Statement (.heldAccessResume g id) := Encoding.of_no_word rfl
theorem Encoding.heldStoreApply (core : Nat) : Encoding.Statement (.heldStoreApply core) := Encoding.of_no_word rfl
theorem Encoding.copyComplete (id : Nat) : Encoding.Statement (.copyComplete id) := Encoding.of_no_word rfl
theorem Encoding.rowGatherComplete (id : Nat) : Encoding.Statement (.rowGatherComplete id) := Encoding.of_no_word rfl
theorem Encoding.multicastComplete (id : Nat) : Encoding.Statement (.multicastComplete id) := Encoding.of_no_word rfl
theorem Encoding.cbufGetGrant (g : Nat) : Encoding.Statement (.cbufGetGrant g) := Encoding.of_no_word rfl
theorem Encoding.queuePushReserve (g : Nat) : Encoding.Statement (.queuePushReserve g) := Encoding.of_no_word rfl
theorem Encoding.queuePopDeliver (g : Nat) : Encoding.Statement (.queuePopDeliver g) := Encoding.of_no_word rfl
theorem Encoding.benchTakeItem (cluster bench : Nat) : Encoding.Statement (.benchTakeItem cluster bench) := Encoding.of_no_word rfl
theorem Encoding.solverTakeItem (cluster : Nat) : Encoding.Statement (.solverTakeItem cluster) := Encoding.of_no_word rfl
theorem Encoding.sortTakeRange (die unit : Nat) : Encoding.Statement (.sortTakeRange die unit) := Encoding.of_no_word rfl
theorem Encoding.engineCommandComplete (cmd : Nat) : Encoding.Statement (.engineCommandComplete cmd) := Encoding.of_no_word rfl
theorem Encoding.drainSweepOrder (n : Domain) : Encoding.Statement (.drainSweepOrder n) := Encoding.of_no_word rfl
theorem Encoding.sweepComplete (n : Domain) : Encoding.Statement (.sweepComplete n) := Encoding.of_no_word rfl
theorem Encoding.phaseCompactorRun (team : Nat) : Encoding.Statement (.phaseCompactorRun team) := Encoding.of_no_word rfl
theorem Encoding.collStart (collid : DWord) : Encoding.Statement (.collStart collid) := Encoding.of_no_word rfl
theorem Encoding.collGate (cmd : Nat) : Encoding.Statement (.collGate cmd) := Encoding.of_no_word rfl
theorem Encoding.collTimeout (cmd : Nat) : Encoding.Statement (.collTimeout cmd) := Encoding.of_no_word rfl
theorem Encoding.recomputeEntryWaitEnd (tile : Nat) : Encoding.Statement (.recomputeEntryWaitEnd tile) := Encoding.of_no_word rfl
theorem Encoding.recomputeComplete (launch : Nat) : Encoding.Statement (.recomputeComplete launch) := Encoding.of_no_word rfl
theorem Encoding.recipeChainEnd (tile : Nat) : Encoding.Statement (.recipeChainEnd tile) := Encoding.of_no_word rfl
theorem Encoding.tileEvictDrop (tile : Nat) : Encoding.Statement (.tileEvictDrop tile) := Encoding.of_no_word rfl
theorem Encoding.patrolScrub (line : Nat) : Encoding.Statement (.patrolScrub line) := Encoding.of_no_word rfl
theorem Encoding.ticketSegmentApply (launch : Nat) : Encoding.Statement (.ticketSegmentApply launch) := Encoding.of_no_word rfl
theorem Encoding.admissionDecision (launch : Nat) : Encoding.Statement (.admissionDecision launch) := Encoding.of_no_word rfl
theorem Encoding.gangPlace (gang : Nat) : Encoding.Statement (.gangPlace gang) := Encoding.of_no_word rfl
theorem Encoding.gangSwapOut (gang : Nat) : Encoding.Statement (.gangSwapOut gang) := Encoding.of_no_word rfl
theorem Encoding.reservationDeadline (launch : Nat) : Encoding.Statement (.reservationDeadline launch) := Encoding.of_no_word rfl
theorem Encoding.overrun (launch : Nat) : Encoding.Statement (.overrun launch) := Encoding.of_no_word rfl
theorem Encoding.launchKill (launch : Nat) : Encoding.Statement (.launchKill launch) := Encoding.of_no_word rfl
theorem Encoding.launchComplete (launch : Nat) : Encoding.Statement (.launchComplete launch) := Encoding.of_no_word rfl
theorem Encoding.replayStart (replay : Nat) : Encoding.Statement (.replayStart replay) := Encoding.of_no_word rfl
theorem Encoding.replayComplete (replay : Nat) : Encoding.Statement (.replayComplete replay) := Encoding.of_no_word rfl
theorem Encoding.claimExpire (slot : Nat) : Encoding.Statement (.claimExpire slot) := Encoding.of_no_word rfl
theorem Encoding.changeDependentAction : Encoding.Statement .changeDependentAction := Encoding.of_no_word rfl
theorem Encoding.rdreq (h : FlitHdr) (m : RdReq) : Encoding.Statement (.rdreq h m) := Encoding.of_no_word rfl
theorem Encoding.rdrsp (h : FlitHdr) (vals : List (Nat × List Word)) (bytes : List Byte) : Encoding.Statement (.rdrsp h vals bytes) := Encoding.of_no_word rfl
theorem Encoding.wr (h : FlitHdr) (m : WrReq) : Encoding.Statement (.wr h m) := Encoding.of_no_word rfl
theorem Encoding.wrack (h : FlitHdr) : Encoding.Statement (.wrack h) := Encoding.of_no_word rfl
theorem Encoding.atomreq (h : FlitHdr) (m : AtomReqMsg) : Encoding.Statement (.atomreq h m) := Encoding.of_no_word rfl
theorem Encoding.atomrsp (h : FlitHdr) (vals : List (Nat × List Word)) : Encoding.Statement (.atomrsp h vals) := Encoding.of_no_word rfl
theorem Encoding.failrsp (h : FlitHdr) (m : FailMsg) : Encoding.Statement (.failrsp h m) := Encoding.of_no_word rfl
theorem Encoding.invoke (h : FlitHdr) (m : InvokeMsg) : Encoding.Statement (.invoke h m) := Encoding.of_no_word rfl
theorem Encoding.claimmsg (h : FlitHdr) (m : ClaimMsgData) : Encoding.Statement (.claimmsg h m) := Encoding.of_no_word rfl
theorem Encoding.claimres (h : FlitHdr) (m : ClaimResData) : Encoding.Statement (.claimres h m) := Encoding.of_no_word rfl
theorem Encoding.signal (h : FlitHdr) (m : SignalData) : Encoding.Statement (.signal h m) := Encoding.of_no_word rfl
theorem Encoding.coll (h : FlitHdr) (m : CollData) : Encoding.Statement (.coll h m) := Encoding.of_no_word rfl
theorem Encoding.idle (port lseq lack : Nat) : Encoding.Statement (.idle port lseq lack) := Encoding.of_no_word rfl
theorem Encoding.nack (port lseq : Nat) : Encoding.Statement (.nack port lseq) := Encoding.of_no_word rfl
theorem Encoding.mgmt (h : FlitHdr) (bytes : List Byte) : Encoding.Statement (.mgmt h bytes) := Encoding.of_no_word rfl
theorem Encoding.linkDown (port : Nat) : Encoding.Statement (.linkDown port) := Encoding.of_no_word rfl
theorem Encoding.requestTimeout (tag : Nat) : Encoding.Statement (.requestTimeout tag) := Encoding.of_no_word rfl
theorem Encoding.rdmaWrite (rkey la : Nat) (data : List Byte) : Encoding.Statement (.rdmaWrite rkey la data) := Encoding.of_no_word rfl
theorem Encoding.rdmaWriteWithImmediate (rkey la : Nat) (data : List Byte) (imm : Word) : Encoding.Statement (.rdmaWriteWithImmediate rkey la data imm) := Encoding.of_no_word rfl
theorem Encoding.rdmaRead (rkey la len : Nat) : Encoding.Statement (.rdmaRead rkey la len) := Encoding.of_no_word rfl
theorem Encoding.roceInvalidRequest (op : Nat) : Encoding.Statement (.roceInvalidRequest op) := Encoding.of_no_word rfl
theorem Encoding.identify (h : HcpHdr) : Encoding.Statement (.identify h) := Encoding.of_no_word rfl
theorem Encoding.attest (h : HcpHdr) (nonce : List Byte) : Encoding.Statement (.attest h nonce) := Encoding.of_no_word rfl
theorem Encoding.fwload (h : HcpHdr) (c : Chunk) : Encoding.Statement (.fwload h c) := Encoding.of_no_word rfl
theorem Encoding.imageload (h : HcpHdr) (asid base : Nat) (c : Chunk) : Encoding.Statement (.imageload h asid base c) := Encoding.of_no_word rfl
theorem Encoding.imageunload (h : HcpHdr) (handle : Word) : Encoding.Statement (.imageunload h handle) := Encoding.of_no_word rfl
theorem Encoding.launch (h : HcpHdr) (die asid : Nat) (record : List Byte) : Encoding.Statement (.launch h die asid record) := Encoding.of_no_word rfl
theorem Encoding.kill (h : HcpHdr) (launch : Nat) : Encoding.Statement (.kill h launch) := Encoding.of_no_word rfl
theorem Encoding.resume (h : HcpHdr) (r : ResumeData) : Encoding.Statement (.resume h r) := Encoding.of_no_word rfl
theorem Encoding.map (h : HcpHdr) (asid la len pa size : Nat) (attr : Word) : Encoding.Statement (.map h asid la len pa size attr) := Encoding.of_no_word rfl
theorem Encoding.unmap (h : HcpHdr) (asid la len : Nat) : Encoding.Statement (.unmap h asid la len) := Encoding.of_no_word rfl
theorem Encoding.change (h : HcpHdr) (asid la len : Nat) (attr : Word) : Encoding.Statement (.change h asid la len attr) := Encoding.of_no_word rfl
theorem Encoding.free (h : HcpHdr) (asid la len : Nat) : Encoding.Statement (.free h asid la len) := Encoding.of_no_word rfl
theorem Encoding.migrate (h : HcpHdr) (asid la pa : Nat) : Encoding.Statement (.migrate h asid la pa) := Encoding.of_no_word rfl
theorem Encoding.drop (h : HcpHdr) (asid la : Nat) : Encoding.Statement (.drop h asid la) := Encoding.of_no_word rfl
theorem Encoding.asid (h : HcpHdr) (asid : Nat) (trapvec : DWord) : Encoding.Statement (.asid h asid trapvec) := Encoding.of_no_word rfl
theorem Encoding.decaytab (h : HcpHdr) (base : Nat) (c : Chunk) : Encoding.Statement (.decaytab h base c) := Encoding.of_no_word rfl
theorem Encoding.span (h : HcpHdr) (domains : BitVec 16) : Encoding.Statement (.span h domains) := Encoding.of_no_word rfl
theorem Encoding.ctxmem (h : HcpHdr) (pa len : Nat) : Encoding.Statement (.ctxmem h pa len) := Encoding.of_no_word rfl
theorem Encoding.read (h : HcpHdr) (what : ReadWhat) : Encoding.Statement (.read h what) := Encoding.of_no_word rfl
theorem Encoding.route (h : HcpHdr) (entries : List (Nat × List Nat)) (announce : Option Nat) : Encoding.Statement (.route h entries announce) := Encoding.of_no_word rfl
theorem Encoding.lose (h : HcpHdr) (device : Nat) : Encoding.Statement (.lose h device) := Encoding.of_no_word rfl
theorem Encoding.assume (h : HcpHdr) (device incarnation : Nat) : Encoding.Statement (.assume h device incarnation) := Encoding.of_no_word rfl
theorem Encoding.rkey (h : HcpHdr) (create : Bool) (rkey asid la len : Nat) : Encoding.Statement (.rkey h create rkey asid la len) := Encoding.of_no_word rfl
theorem Encoding.hcpEventAck (session count : Nat) : Encoding.Statement (.hcpEventAck session count) := Encoding.of_no_word rfl
theorem Encoding.hcpEventResend (session : Nat) : Encoding.Statement (.hcpEventResend session) := Encoding.of_no_word rfl
theorem Encoding.hold (hold : Bool) : Encoding.Statement (.hold hold) := Encoding.of_no_word rfl
theorem Encoding.state : Encoding.Statement .state := Encoding.of_no_word rfl
theorem Encoding.setip (addr plen gateway : Nat) : Encoding.Statement (.setip addr plen gateway) := Encoding.of_no_word rfl
theorem Encoding.session (index : Nat) (install : Bool) (d : SessionData) : Encoding.Statement (.session index install d) := Encoding.of_no_word rfl
theorem Encoding.telemetry (page : Nat) : Encoding.Statement (.telemetry page) := Encoding.of_no_word rfl
theorem Encoding.event : Encoding.Statement .event := Encoding.of_no_word rfl
theorem Encoding.sbIdentify : Encoding.Statement .sbIdentify := Encoding.of_no_word rfl
theorem Encoding.dynamicAddressAssign (addr : Nat) : Encoding.Statement (.dynamicAddressAssign addr) := Encoding.of_no_word rfl
theorem Encoding.sbrstn (high : Bool) : Encoding.Statement (.sbrstn high) := Encoding.of_no_word rfl
theorem Encoding.powerOnReset : Encoding.Statement .powerOnReset := Encoding.of_no_word rfl
theorem Encoding.bootVerify : Encoding.Statement .bootVerify := Encoding.of_no_word rfl
theorem Encoding.go (core : Nat) (role : Role) : Encoding.Statement (.go core role) := Encoding.of_no_word rfl
theorem Encoding.cbget (core : Nat) (role : Role) : Encoding.Statement (.cbget core role) := Encoding.of_no_word rfl
theorem Encoding.cbput (core : Nat) (role : Role) : Encoding.Statement (.cbput core role) := Encoding.of_no_word rfl
theorem Encoding.faultClear (core : Nat) (role : Role) : Encoding.Statement (.faultClear core role) := Encoding.of_no_word rfl
theorem Encoding.porterWindowWrite (core : Nat) (role : Role) : Encoding.Statement (.porterWindowWrite core role) := Encoding.of_no_word rfl
theorem Encoding.porterCommandComplete (core : Nat) (role : Role) : Encoding.Statement (.porterCommandComplete core role) := Encoding.of_no_word rfl
theorem Encoding.porterEcall (core : Nat) (role : Role) : Encoding.Statement (.porterEcall core role) := Encoding.of_no_word rfl
theorem Encoding.porterException (core : Nat) (role : Role) : Encoding.Statement (.porterException core role) := Encoding.of_no_word rfl
theorem Encoding.porterInstruction (core : Nat) (role : Role) : Encoding.Statement (.porterInstruction core role) := Encoding.of_no_word rfl
theorem Encoding.flitCrcFailure (port : Nat) : Encoding.Statement (.flitCrcFailure port) := Encoding.of_no_word rfl
theorem Encoding.unknownFlitType (port lseq lack : Nat) : Encoding.Statement (.unknownFlitType port lseq lack) := Encoding.of_no_word rfl
theorem Encoding.hcpUnlistedType (h : HcpHdr) (type : Nat) : Encoding.Statement (.hcpUnlistedType h type) := Encoding.of_no_word rfl
theorem Encoding.hcpFrameDiscard (frame : List Byte) : Encoding.Statement (.hcpFrameDiscard frame) := Encoding.of_no_word rfl
theorem Encoding.sidebandBadRequest (request : List Byte) : Encoding.Statement (.sidebandBadRequest request) := Encoding.of_no_word rfl
theorem Encoding.congestionNotificationPacket : Encoding.Statement .congestionNotificationPacket := Encoding.of_no_word rfl
theorem Encoding.priorityFlowControl (pause : Bool) : Encoding.Statement (.priorityFlowControl pause) := Encoding.of_no_word rfl
theorem Encoding.ethernetLink (up : Bool) : Encoding.Statement (.ethernetLink up) := Encoding.of_no_word rfl

end Sys2Proof.Laws
end

