-- ==== Sys2Proof/Tests/Slice0.lean ====
section
/-! SUPPORT. Tests of the model: words written out from the spec's encodings, ill-formed terms, single steps on small states with results worked out by hand from the rules, and states that meet the hypotheses of the statements. -/
namespace Sys2Proof.Tests
set_option Elab.async false
open Sys2Proof Sys2Proof.Machine

/-- Words of class LA, one for each instruction, written out from its row of the opcode table (match, and each operand at its place). -/
theorem test_decode_LA_1 : ([0x00142312, 0x00542113, 0x00942211, 0x00D42312, 0x01142113, 0x01542211, 0x01942312, 0x01D42113,
  0x02142211, 0x02542312, 0x02942113, 0x02D42211, 0x03142312, 0x03542113, 0x03942211, 0x03D42312,
  0x04142113, 0x04542200, 0x04942312, 0x04D42100, 0x05142200, 0x05542300, 0x05942113, 0x05D42211] : List Nat).map (decodeTableWord 32) =
    [some (.add 20 8 3 4 2), some (.sub 20 8 1 4 3), some (.mul 20 8 2 4 1), some (.mulh 20 8 3 4 2),
    some (.mulhu 20 8 1 4 3), some (.mad 20 8 2 4 1), some (.and 20 8 3 4 2), some (.or 20 8 1 4 3),
    some (.xor 20 8 2 4 1), some (.shl 20 8 3 4 2), some (.shr 20 8 1 4 3), some (.sar 20 8 2 4 1),
    some (.rot 20 8 3 4 2), some (.min 20 8 1 4 3), some (.max 20 8 2 4 1), some (.minu 20 8 3 4 2),
    some (.maxu 20 8 1 4 3), some (.abs 20 8 2), some (.sel 20 8 3 4 2), some (.clz 20 8 1),
    some (.popc 20 8 2), some (.brev 20 8 3), some (.bfx 20 8 1 4 3), some (.bfxu 20 8 2 4 1)] := rfl

/-- Words of class LA, one for each instruction, written out from its row of the opcode table (match, and each operand at its place). -/
theorem test_decode_LA_2 : ([0x06142312, 0x06542113, 0x06942211, 0x06D42312, 0x07142113, 0x07542211, 0x07942312, 0x08142113,
  0x08542211, 0x08942312, 0x08D42113, 0x09142211, 0x09542312, 0x09942113, 0x09D42211, 0x0A142312,
  0x0A542113, 0x0C142200, 0x0C542300, 0x0C942100, 0x0CD42200, 0x0D142031, 0x0D542100, 0x0D942200] : List Nat).map (decodeTableWord 32) =
    [some (.bfi 20 8 3 4 2), some (.addc 20 8 1 4 3), some (.subb 20 8 2 4 1), some (.addS 20 8 3 4 2),
    some (.addUs 20 8 1 4 3), some (.subS 20 8 2 4 1), some (.subUs 20 8 3 4 2), some (.cmpEq 20 8 1 4 3),
    some (.cmpNe 20 8 2 4 1), some (.cmpLt 20 8 3 4 2), some (.cmpLe 20 8 1 4 3), some (.cmpGt 20 8 2 4 1),
    some (.cmpGe 20 8 3 4 2), some (.cmpLtu 20 8 1 4 3), some (.cmpLeu 20 8 2 4 1), some (.cmpGtu 20 8 3 4 2),
    some (.cmpGeu 20 8 1 4 3), some (.ballot 20 8 2), some (.voteAll 20 8 3), some (.voteAny 20 8 1),
    some (.voteUni 20 8 2), some (.perm 20 8 12 1), some (.mov 20 8 1), some (.callv 20 8 2)] := rfl

/-- Words of class LA, one for each instruction, written out from its row of the opcode table (match, and each operand at its place). -/
theorem test_decode_LA_3 : ([0x0DC05000, 0x0E005000, 0x0E400000, 0x10142312, 0x10542113, 0x10942211, 0x10D42312, 0x11142113,
  0x11542211, 0x11942300, 0x11D42113, 0x12142200, 0x12542300, 0x12942100, 0x12D42200, 0x13142300,
  0x13542113, 0x13942200, 0x13D42312, 0x14142100, 0x14542200, 0x14942300, 0x14D42100, 0x15142200] : List Nat).map (decodeTableWord 32) =
    [some (.retv 20), some (.rejoin 20), some (.exitl), some (.fadd 20 8 3 4 2),
    some (.fsub 20 8 1 4 3), some (.fmul 20 8 2 4 1), some (.ffma 20 8 3 4 2), some (.fmin 20 8 1 4 3),
    some (.fmax 20 8 2 4 1), some (.fcls 20 8 3), some (.fdiv 20 8 1 4 3), some (.fsqrt 20 8 2),
    some (.frcp 20 8 3), some (.frsq 20 8 1), some (.fex2 20 8 2), some (.flg2 20 8 3),
    some (.fsgnCpy 20 8 1 4 3), some (.fsgnNeg 20 8 2), some (.fsgnXor 20 8 3 4 2), some (.fsgnAbs 20 8 1),
    some (.frndRn 20 8 2), some (.frndRz 20 8 3), some (.frndRm 20 8 1), some (.frndRp 20 8 2)] := rfl

/-- Words of class LA, one for each instruction, written out from its row of the opcode table (match, and each operand at its place). -/
theorem test_decode_LA_4 : ([0x16142312, 0x16542113, 0x16942211, 0x16D42312, 0x17142113, 0x17542211, 0x17942312, 0x17D42113,
  0x18142211, 0x18542312, 0x18942113, 0x18D42211, 0x19142312, 0x19542113, 0x19942211, 0x19D42300,
  0x1A142100, 0x1A542200, 0x1A942300, 0x1AD42100, 0x1C142211, 0x1C542312, 0x1C942113, 0x1CD42211] : List Nat).map (decodeTableWord 32) =
    [some (.fcmpEq 20 8 3 4 2), some (.fcmpNe 20 8 1 4 3), some (.fcmpLt 20 8 2 4 1), some (.fcmpLe 20 8 3 4 2),
    some (.fcmpGt 20 8 1 4 3), some (.fcmpGe 20 8 2 4 1), some (.fcmpUn 20 8 3 4 2), some (.fcmpOrd 20 8 1 4 3),
    some (.dadd 20 8 2 4 1), some (.dsub 20 8 3 4 2), some (.dmul 20 8 1 4 3), some (.dfma 20 8 2 4 1),
    some (.dmin 20 8 3 4 2), some (.dmax 20 8 1 4 3), some (.ddiv 20 8 2 4 1), some (.dsqrt 20 8 3),
    some (.drndRn 20 8 1), some (.drndRz 20 8 2), some (.drndRm 20 8 3), some (.drndRp 20 8 1),
    some (.dcmpEq 20 8 2 4 1), some (.dcmpNe 20 8 3 4 2), some (.dcmpLt 20 8 1 4 3), some (.dcmpLe 20 8 2 4 1)] := rfl

/-- Words of class LA, one for each instruction, written out from its row of the opcode table (match, and each operand at its place). -/
theorem test_decode_LA_5 : ([0x1D142312, 0x1D542113, 0x1D942211, 0x1DD42312, 0x20142113, 0x20542211, 0x20942312, 0x20D42113,
  0x21142211, 0x21542312, 0x21942113, 0x21D42211, 0x24142302, 0x24542160, 0x24942213, 0x24D42371,
  0x25142140, 0x25542238, 0x28142312, 0x28542113, 0x28942211, 0x28D42312, 0x29142113, 0x29542211] : List Nat).map (decodeTableWord 32) =
    [some (.dcmpGt 20 8 3 4 2), some (.dcmpGe 20 8 1 4 3), some (.dcmpUn 20 8 2 4 1), some (.dcmpOrd 20 8 3 4 2),
    some (.hadd2 20 8 1 4 3), some (.hmul2 20 8 2 4 1), some (.hfma2 20 8 3 4 2), some (.hmax2 20 8 1 4 3),
    some (.badd2 20 8 2 4 1), some (.bmul2 20 8 3 4 2), some (.bfma2 20 8 1 4 3), some (.bmax2 20 8 2 4 1),
    some (.cvt 20 8 3 .fp32 .fp16), some (.cvtSat 20 8 1 .s32 .fp32), some (.cvtRn 20 8 2 .fp64 .bf16), some (.cvtRz 20 8 3 .u32 .fp64),
    some (.cvtRm 20 8 1 .e4m3 .fp32), some (.cvtRp 20 8 2 .bf16 .s8), some (.pkF16 20 8 3 4 2), some (.pkBf16 20 8 1 4 3),
    some (.pkE4m3 20 8 2 4 1), some (.pkE5m2 20 8 3 4 2), some (.pkE4m3Sat 20 8 1 4 3), some (.pkE5m2Sat 20 8 2 4 1)] := rfl

/-- Words of class LA, one for each instruction, written out from its row of the opcode table (match, and each operand at its place). -/
theorem test_decode_LA_6 : ([0x29942312, 0x29D42113, 0x2A142200, 0x2A542300, 0x2A942100, 0x2AD42200, 0x2C142300, 0x2C542100,
  0x2C942200, 0x2CD42300, 0x2D142100, 0x2D542000, 0x30142312, 0x30542000, 0x30942000, 0x30D42000,
  0x31142113, 0x32142211, 0x32542312, 0x32942113, 0x32D42211] : List Nat).map (decodeTableWord 32) =
    [some (.pkI8 20 8 3 4 2), some (.pkI8S 20 8 1 4 3), some (.pkBq4T0 20 8 2), some (.pkBq4T1 20 8 3),
    some (.pkBq4T2 20 8 1), some (.pkBq4T3 20 8 2), some (.unpkF16 20 8 3), some (.unpkBf16 20 8 1),
    some (.unpkE4m3 20 8 2), some (.unpkE5m2 20 8 3), some (.unpkI8 20 8 1), some (.unpkBq4 20 8),
    some (.rngKey 20 8 3 4 2), some (.rngDraw 20 8), some (.rngDrawF32 20 8), some (.rngDrawF64 20 8),
    some (.rngSkip 20 8 1 4 3), some (.aget 20 8 2 4 1), some (.aadd 20 8 3 4 2), some (.amerge 20 8 1 4 3),
    some (.aset 20 8 2 4 1)] := rfl

/-- Words of class LI, one for each instruction, written out from its row of the opcode table (match, and each operand at its place). -/
theorem test_decode_LI : ([0x60A109B6, 0x62A1048A, 0x64A102E7, 0x66A1113D, 0x68A1001A, 0x68A1081D, 0x68A11017, 0x68A11815,
  0x6AA00158, 0x6CA1064C, 0x6EA1063E, 0x70A5E94D, 0x72A4ECAD] : List Nat).map (decodeTableWord 32) =
    [some (.addImm 20 8 2486), some (.andImm 20 8 1162), some (.orImm 20 8 743), some (.xorImm 20 8 4413),
    some (.shlImm 20 8 26), some (.shrImm 20 8 29), some (.sarImm 20 8 23), some (.rotImm 20 8 21),
    some (.movImm 20 344), some (.lop3 20 8 12 .orxor 4), some (.lop3Not 20 8 12 .xorand 6), some (.brcNz 20 387405),
    some (.brcZ 20 322733)] := rfl

/-- Words of class LM, one for each instruction, written out from its row of the opcode table (match, and each operand at its place). -/
theorem test_decode_LM_1 : ([0x40508A51, 0x41508808, 0x42508C21, 0x43508013, 0x44014062, 0x440143C3, 0x4550807C, 0x45508334,
  0x45508410, 0x4550878F, 0x455088EE, 0x45508AA8, 0x45508CE2, 0x45508F2F, 0x465081B0, 0x46508265,
  0x4650850A, 0x46508678, 0x46508948, 0x46508A97, 0x46508D00, 0x46508E03, 0x47508154, 0x4750822C] : List Nat).map (decodeTableWord 32) =
    [some (.ld 20 8 .w64 81), some (.ldRaw 20 8 .w32 8), some (.st 20 8 .w128 33), some (.stRaw 20 8 .b8 19),
    some (.prefetchL2 20 98), some (.prefetchL1 20 451), some (.atomOAdd 20 8 124), some (.atomOAnd 20 8 308),
    some (.atomOOr 20 8 16), some (.atomOXor 20 8 399), some (.atomOMin 20 8 238), some (.atomOMax 20 8 168),
    some (.atomOMinu 20 8 226), some (.atomOMaxu 20 8 303), some (.atomUAdd 20 8 432), some (.atomUAnd 20 8 101),
    some (.atomUOr 20 8 266), some (.atomUXor 20 8 120), some (.atomUMin 20 8 328), some (.atomUMax 20 8 151),
    some (.atomUMinu 20 8 256), some (.atomUMaxu 20 8 3), some (.atomOExch 20 8 340), some (.atomOCas 20 8 44)] := rfl

/-- Words of class LM, one for each instruction, written out from its row of the opcode table (match, and each operand at its place). -/
theorem test_decode_LM_2 : ([0x475084EB, 0x47508750, 0x4750888F, 0x485080D1, 0x485083FF, 0x4850851B, 0x485087FE, 0x485089DE,
  0x495081AF, 0x4950822B, 0x4950856B, 0x49508683, 0x495088A2, 0x49508B85, 0x4A508076, 0x4A508307,
  0x4A508494, 0x4A508610, 0x4A508824, 0x4A508B21, 0x4B5080CE, 0x4C5081B2, 0x4D508600, 0x4E508800] : List Nat).map (decodeTableWord 32) =
    [some (.atomOAdd64 20 8 235), some (.atomOExch64 20 8 336), some (.atomOCas64 20 8 143), some (.atomUExch 20 8 209),
    some (.atomUCas 20 8 511), some (.atomUAdd64 20 8 283), some (.atomUExch64 20 8 510), some (.atomUCas64 20 8 478),
    some (.fatomOFadd 20 8 431), some (.fatomOFmin 20 8 43), some (.fatomOFmax 20 8 363), some (.fatomODadd 20 8 131),
    some (.fatomOHadd2 20 8 162), some (.fatomOBadd2 20 8 389), some (.fatomUFadd 20 8 118), some (.fatomUFmin 20 8 263),
    some (.fatomUFmax 20 8 148), some (.fatomUDadd 20 8 16), some (.fatomUHadd2 20 8 36), some (.fatomUBadd2 20 8 289),
    some (.cpAsyncIn 20 8 .b4 206), some (.cpAsyncOut 20 8 .b4 434), some (.cpRows 20 8 3), some (.cpMcastO 20 8 4)] := rfl

/-- Words of class LM, one for each instruction, written out from its row of the opcode table (match, and each operand at its place). -/
theorem test_decode_LM_3 : ([0x4F508200, 0x505080C8, 0x515080C8, 0x52508000, 0x53508000, 0x54508000, 0x55508000, 0x565081B2,
  0x57508000, 0x57014200, 0x57014400, 0x57014600, 0x57508800, 0x58014C00, 0x58014210, 0x58014420,
  0x58014430, 0x58014240, 0x58014850, 0x58014860, 0x58014C70, 0x58508080, 0x59014800, 0x59014810] : List Nat).map (decodeTableWord 32) =
    [some (.cpMcastU 20 8 1), some (.cbufGet 20 8 200), some (.cbufPut 20 8 200), some (.qpushO 20 8),
    some (.qpushU 20 8), some (.qpop 20 8), some (.bucketArrive 20 8), some (.barTag 20 8 434),
    some (.rcpReg 20 8), some (.rcpDrop 20), some (.rcpPin 20), some (.rcpUnpin 20),
    some (.tileState 20 8), some (.mmLdw 20 6), some (.mmSwapw 20 1), some (.mmRun 20 2),
    some (.mmSwapacc 20 2), some (.mmAccrd 20 1), some (.mmAccwr 20 4), some (.mmDrain 20 4),
    some (.mmRegrow 20 6), some (.mmAmax 20 8), some (.bsAsm 20 4), some (.bsLu 20 4)] := rfl

/-- Words of class LM, one for each instruction, written out from its row of the opcode table (match, and each operand at its place). -/
theorem test_decode_LM_4 : ([0x59014220, 0x59014A30, 0x59014C40, 0x59014450, 0x59508060, 0x5A014E00, 0x5A014C10, 0x5A014620,
  0x5A014630, 0x5B014200, 0x5B014610, 0x5C014600] : List Nat).map (decodeTableWord 32) =
    [some (.bsLdl 20 1), some (.bsTrsv 20 5), some (.bsPgs 20 6), some (.bsBack 20 2),
    some (.bsStat 20 8), some (.srtKeys 20 7), some (.srtPairs 20 6), some (.trvBuild 20 3),
    some (.trvQuery 20 3), some (.phaseRegroup 20 1), some (.phaseRestore 20 3), some (.collPost 20 3)] := rfl

/-- Words of class UA, one for each instruction, written out from its row of the opcode table (match, and each operand at its place). -/
theorem test_decode_UA_1 : ([0x80000000, 0x80542000, 0x809420C0, 0x80D420C0, 0x811420C0, 0x815420C0, 0x815420C1, 0x819420C0,
  0x81D420C0, 0x821420C0, 0x825420C0, 0x829420C0, 0x82D420C0, 0x831420C0, 0x835420C0, 0x839420C0,
  0x839420C1, 0x83D420C0, 0x83D420C1, 0x84005000, 0x84400000, 0x84800000, 0x84C05000, 0x85140000] : List Nat).map (decodeTableWord 32) =
    [some (.gNop), some (.gMov 20 8), some (.gAdd 20 8 12), some (.gSub 20 8 12),
    some (.gMul 20 8 12), some (.gMulh 20 8 12), some (.gMulhU 20 8 12), some (.gAnd 20 8 12),
    some (.gOr 20 8 12), some (.gXor 20 8 12), some (.gShl 20 8 12), some (.gShr 20 8 12),
    some (.gSar 20 8 12), some (.gCmp 20 8 12 .eq), some (.gSel 20 8 12), some (.gMin 20 8 12),
    some (.gMinU 20 8 12), some (.gMax 20 8 12), some (.gMaxU 20 8 12), some (.gRet 20),
    some (.gYield), some (.gExit), some (.gLanes 20), some (.gElect 20)] := rfl

/-- Words of class UA, one for each instruction, written out from its row of the opcode table (match, and each operand at its place). -/
theorem test_decode_UA_2 : ([0x85400000, 0x85940000, 0x85940001, 0x88142000, 0x88542000, 0x889420C0, 0x88D42000, 0x891420C0,
  0x89542000, 0x89542001, 0x89942000, 0x89C05080, 0x8A000000, 0x8C005000, 0x8C405000, 0x8C805000,
  0x8CC00004, 0x8D140000, 0x8D405000, 0x8D800006, 0x8DC00000, 0x8E000001, 0x90005002, 0x90540006] : List Nat).map (decodeTableWord 32) =
    [some (.gEret), some (.gClockO 20), some (.gClockU 20), some (.gLaunch 20 8),
    some (.gTrylaunch 20 8), some (.gReplay 20 8 12), some (.gInvoke 20 8), some (.gInvokeh 20 8 12),
    some (.gAwait 20 8), some (.gAwaitT 20 8), some (.gHstat 20 8), some (.gWsplit 20 8),
    some (.gWgive), some (.gBar 20), some (.gBarrive 20), some (.gBarwait 20),
    some (.gWait 4), some (.gSeal 20), some (.gBwait 20), some (.gFenceRel .system),
    some (.gFenceAcq .group), some (.gFenceFull .team), some (.gStepadv 20 2), some (.gStepget 20 6)] := rfl

/-- Words of class UA, one for each instruction, written out from its row of the opcode table (match, and each operand at its place). -/
theorem test_decode_UA_3 : ([0x90800001, 0x90D40001] : List Nat).map (decodeTableWord 32) =
    [some (.gSweep 1), some (.gSweepwait 20 1)] := rfl

/-- Words of class UB, one for each instruction, written out from its row of the opcode table (match, and each operand at its place). -/
theorem test_decode_UB : ([0xC0007AAA, 0xC2A3B833, 0xC4A6604D, 0xC6A3E504, 0xC8A16BE3] : List Nat).map (decodeTableWord 32) =
    [some (.gJmp 31402), some (.gBrNz 20 243763), some (.gBrZ 20 417869), some (.gCall 20 255236),
    some (.gLoop 20 93155)] := rfl

/-- Words of class UI, one for each instruction, written out from its row of the opcode table (match, and each operand at its place). -/
theorem test_decode_UI : ([0xE0A015D4, 0xE2A111E6, 0xE4A10608, 0xE6A10E52, 0xE8A11049, 0xEAA1061B, 0xECA01F88, 0xEE02976C,
  0xF00298A0, 0xF2028431, 0xF4000D6B, 0xF6A0149A, 0xF800101A] : List Nat).map (decodeTableWord 32) =
    [some (.gLi 20 5588), some (.gLui 20 8 4582), some (.gAddImm 20 8 1544), some (.gAndImm 20 8 3666),
    some (.gOrImm 20 8 4169), some (.gXorImm 20 8 1563), some (.gCsrr 20 8072), some (.gCsrw 20 5996),
    some (.gCsrs 20 6304), some (.gCsrc 20 1073), some (.gTrap 3435), some (.gFeat 20 5274),
    some (.gSetroute 2 .ident 26)] := rfl
/-! ## Words that are no instruction, and terms that are not well formed -/

/-- R100, R108, R113, R114: the all-zero word, an unassigned opcode, an extension opcode, an unassigned sub-code, a nonzero field that must be zero, and a register field off its shape are refused. -/
theorem test_decode_refuses : decodeNat 0 = .error .zeroWord ∧ decodeNat 0x07C00000 = .error .opcode ∧ decodeNat 0x38000000 = .error .extension
    ∧ decodeNat 0x4C000A00 = .error .field ∧ decodeNat 0x04400001 = .error .field ∧ decodeNat 0x18010000 = .error .shape ∧ decodeNat 0xF8000000 = .error .shape := by
  exact ⟨rfl, rfl, rfl, rfl, rfl, rfl, rfl⟩
/-- More bits than a word are no instruction. -/
theorem test_decode_long : decodeTableWord 64 0x42030 = none := rfl

/-- One ill-formed term for each check of WellFormed, refused. -/
theorem test_wellFormed_refuses : ([.add 0 0 0 0 0, .addc 1 0 0 0 0, .callv 0 1 0, .retv 3, .dadd 1 2 0 4 0, .dadd 2 1 0 4 0, .dadd 2 4 0 1 0, .dsqrt 2 1 0, .dcmpEq 0 0 0 3 0, .unpkF16 1 0 0, .unpkE4m3 2 0 0,
    .cvt 0 0 0 .fp32 .fp32, .cvt 0 0 0 .s32 .u32, .cvt 1 0 0 .fp64 .fp32, .cvt 0 1 0 .fp32 .fp64, .rngKey 2 0 0 0 0, .rngDraw 0 2, .rngDraw 5 4, .rngDrawF64 1 4, .aget 0 1 0 0 0, .amerge 1 0 0 0 0] : List Instr).all (fun i => !i.wellFormed) = true := by
  decide +kernel
theorem test_wellFormed_refuses_memory : ([.ld 1 0 .w64 0, .ld 2 0 .w128 0, .ld 0 1 .w32 0, .st 1 0 .w64 0, .st 2 0 .w128 0, .prefetchL1 1 0, .atomOCas 1 0 0, .atomOCas64 2 0 0, .atomOAdd 0 1 0, .cpAsyncIn 0 1 .b4 0, .cbufGet 0 0 0, .cbufPut 0 0 256,
    .barTag 0 1 0, .rcpPin 1, .mmRun 1 0, .bsStat 0 1, .collPost 1 0] : List Instr).all (fun i => !i.wellFormed) = true := by
  decide +kernel
theorem test_wellFormed_refuses_uniform : ([.gRet 1, .gClockO 1, .gLaunch 0 1, .gReplay 0 0 1, .gInvoke 1 0, .gInvokeh 0 1 0, .gWsplit 0 1, .gStepget 1 0, .gCall 1 0, .gSetroute 0 .rot 1] : List Instr).all (fun i => !i.wellFormed) = true := by
  decide +kernel
theorem test_wellFormed_refuses_events : ([.issueCycle 192, .heldStoreApply 192, .benchTakeItem 48 0, .benchTakeItem 0 16, .solverTakeItem 48, .sortTakeRange 2 0, .sortTakeRange 0 6, .idle 18 0 0, .linkDown 18, .go 192 .loader, .porterInstruction 192 .loader] : List Instr).all
    (fun i => !i.wellFormed) = true := by
  decide +kernel
/-- At the ends of the same ranges the terms are well formed. -/
theorem test_wellFormed_accepts : ([.add 0 0 0 0 1, .addc 62 63 3 63 3, .retv 62, .unpkE4m3 60 63 3, .cvt 2 63 0 .fp64 .s8, .rngDraw 3 4, .ld 60 62 .w128 255, .cbufGet 0 0 1, .cbufPut 0 0 255, .gSetroute 3 .ident 0, .issueCycle 191, .benchTakeItem 47 15,
    .sortTakeRange 1 5, .idle 17 0 0] : List Instr).all Instr.wellFormed = true := by
  decide +kernel
/-! ## Small states -/

/-- A group of a width at the entry of its kernel. -/
def grp (width : Nat) : Group := newGroup { placedKernel with width := width } 0 0 0 0 0 0
/-- A group of 16 lanes with registers of lane 0 set. -/
def regs (l : List (Reg × Word)) : Group := (grp 16).commits (l.map fun x => (0, x.1, x.2))
/-- The packet of one instruction of some lanes. -/
def pkt (lanes : LaneMask) (word : Word := 0) : Packet := { placedPacket with cur := { placedPacket.cur with lanes := lanes, word := word } }
/-- The launch with a scratchpad of 4096 bytes. -/
def lnch : Launch := { placedLaunch with kern := { placedKernel with scratch := 4096 } }
/-- Pages of 64 KiB: PRIVATE at 0, READSHARED at 0x10000, COHERENT at 0x20000, COHERENT and pinned at 0x30000. -/
def pages : List Page :=
  [{ asid := 0, la := 0, size := 65536, pa := 0, attr := 0 }, { asid := 0, la := 0x10000, size := 65536, pa := 0x10000, attr := 64 }, { asid := 0, la := 0x20000, size := 65536, pa := 0x20000, attr := 128 },
   { asid := 0, la := 0x30000, size := 65536, pa := 0x30000, attr := 0x4080 }]
/-- A machine with one group, its packet in issue, four pages, a window and a handler at 4 of the pinned page. -/
def mach (g : Group) (lanes : LaneMask := 1) (word : Word := 0) : State :=
  let s := State.reset.withFetchWord 32 word.toNat
  { s with
    packet := some (pkt lanes word)
    groups := [(0, g)]
    launches := [(0, lnch)]
    mem := { s.mem with pages := pages }
    dev := { s.dev with asids := [{ id := 0, trapvec := 0x30004 }] } }

/-- The group after an instruction; the blank group where there is none. -/
def after (i : Instr) (s : State) : Group := match exec i s with
  | .next t => (t.group? 0).getD (grp 0)
  | .fault _ => grp 0
  | .refused _ => grp 0
/-- The state after an instruction. -/
def next (i : Instr) (s : State) : State := match exec i s with
  | .next t => t
  | .fault _ => s
  | .refused _ => s
/-- What lane 0 reads of a register once every fixed latency has passed. -/
def reads (g : Group) (r : Reg) : Word := g.read 100 0 r
/-- The values that the newest scoreboard entry will deliver to lane 0. -/
def delivers (g : Group) : List (Reg × Word) := match g.sb.getLast? with
  | none => []
  | some e => (e.vals.filter fun v => v.1 == 0).map (·.2)

/-! ## One step of each family -/

theorem test_add_wraps : reads (after (.add 4 5 0 6 0) (mach (regs [(5, 0xFFFFFFFF), (6, 2)]))) 4 = 1 := by decide +kernel
theorem test_sub_borrows : reads (after (.sub 4 5 0 6 0) (mach (regs [(5, 1), (6, 2)]))) 4 = 0xFFFFFFFF := by decide +kernel
theorem test_mulh_signed : reads (after (.mulh 4 5 0 6 0) (mach (regs [(5, 0xFFFFFFFF), (6, 2)]))) 4 = 0xFFFFFFFF ∧ reads (after (.mulhu 4 5 0 6 0) (mach (regs [(5, 0xFFFFFFFF), (6, 2)]))) 4 = 1 := by decide +kernel
theorem test_sar_keeps_sign : reads (after (.sar 4 5 0 6 0) (mach (regs [(5, 0x80000000), (6, 36)]))) 4 = 0xF8000000 := by decide +kernel
theorem test_addc_pair : reads (after (.addc 4 6 0 7 0) (mach (regs [(6, 0xFFFFFFFF), (7, 3)]))) 4 = 2 ∧ reads (after (.addc 4 6 0 7 0) (mach (regs [(6, 0xFFFFFFFF), (7, 3)]))) 5 = 1 := by decide +kernel
theorem test_source_is_destination : reads (after (.mad 5 5 0 5 0) (mach (regs [(5, 3)]))) 5 = 12 := by decide +kernel
theorem test_bfx_sign : reads (after (.bfx 4 5 0 6 0) (mach (regs [(5, 0xF0), (6, 0x404)]))) 4 = 0xFFFFFFFF := by decide +kernel
theorem test_cmp_signed : reads (after (.cmpLt 4 5 0 6 0) (mach (regs [(5, 0x80000000), (6, 1)]))) 4 = 1 ∧ reads (after (.cmpLtu 4 5 0 6 0) (mach (regs [(5, 0x80000000), (6, 1)]))) 4 = 0 := by decide +kernel
theorem test_lop3_maj : reads (after (.lop3 4 5 6 .maj 0) (mach (regs [(4, 0b1100), (5, 0b1010), (6, 0b0110)]))) 4 = 0b1110 := by decide +kernel
theorem test_fixed_write_not_early : (after (.add 4 5 0 6 0) (mach (regs [(5, 1), (6, 2)]))).read 1 0 4 = 0 ∧ (after (.add 4 5 0 6 0) (mach (regs [(5, 1), (6, 2)]))).read 2 0 4 = 3 := by decide +kernel
theorem test_lane_moves_on : ((after (.add 4 5 0 6 0) (mach (regs []))).lane 0).pc = 8 ∧ ((after (.add 4 5 0 6 0) (mach (regs []))).lane 1).pc = 4 := by decide +kernel
theorem test_ballot : delivers (after (.ballot 4 5 0) (mach (regs [(5, 7)]) 0xFFFF)) = [(4, 1)] := by decide +kernel
/-- 1.5 + 2.25 = 3.75 and 1 / 3 rounded to nearest, even. -/
theorem test_fadd_fdiv : reads (after (.fadd 4 5 0 6 0) (mach (regs [(5, 0x3FC00000), (6, 0x40100000)]))) 4 = 0x40700000
    ∧ delivers (after (.fdiv 4 5 0 6 0) (mach (regs [(5, 0x3F800000), (6, 0x40400000)]))) = [(4, 0x3EAAAAAB)] := by decide +kernel
/-- 1 / 0 is infinite and raises divide-by-zero; with the flag enabled the lane traps and nothing is written. -/
theorem test_fdiv_by_zero : delivers (after (.fdiv 4 5 0 6 0) (mach (regs [(5, 0x3F800000)]))) = [(4, 0x7F800000)]
    ∧ (after (.fdiv 4 5 0 6 0) (mach ((regs [(5, 0x3F800000)]).modLane 0 fun l => { l with fpen := 0x3F }))).code = Cause.fpExc.code := by decide +kernel
/-- 0.5 + 0.25 = 0.75 in FP64. -/
theorem test_dadd : reads (after (.dadd 4 6 0 8 0) (mach (regs [(7, 0x3FE00000), (9, 0x3FD00000)]))) 5 = 0x3FE80000 := by decide +kernel
/-- −1.0 to S32, and 3.0e9 to S32 saturated. -/
theorem test_cvt : reads (after (.cvtRz 4 5 0 .s32 .fp32) (mach (regs [(5, 0xBF800000)]))) 4 = 0xFFFFFFFF
    ∧ reads (after (.cvtSat 4 5 0 .s32 .fp32) (mach (regs [(5, 0x4F32D05E)]))) 4 = 0x7FFFFFFF := by decide +kernel
theorem test_brc_taken : ((after (.brcNz 5 4) (mach (regs [(5, 1)]))).lane 0).pc = 20 ∧ ((after (.brcZ 5 4) (mach (regs [(5, 1)]))).lane 0).pc = 8 := by decide +kernel
theorem test_rejoin_waits : ((after (.rejoin 5) (mach (regs [(5, 3)]))).lane 0).st = .waiting 3 := by decide +kernel
theorem test_g_loop : reads (after (.gLoop 5 4) (mach (regs [(5, 2)]) 0xFFFF)) 5 = 1 ∧ ((after (.gLoop 5 4) (mach (regs [(5, 2)]) 0xFFFF)).lane 0).pc = 20 ∧ ((after (.gLoop 5 4) (mach (regs [(5, 1)]) 0xFFFF)).lane 0).pc = 8 := by decide +kernel
/-- A target in word 0 of a block traps and writes nothing. -/
theorem test_g_loop_traps : reads (after (.gLoop 5 (-1)) (mach (regs [(5, 2)]) 0xFFFF)) 5 = 2 ∧ (after (.gLoop 5 (-1)) (mach (regs [(5, 2)]) 0xFFFF)).code = Cause.misalignedPc.code := by decide +kernel
theorem test_g_li : reads (after (.gLi 4 0x1FFF) (mach (regs []) 0xFFFF)) 4 = 0xFFFFFFFF ∧ reads (after (.gLui 4 5 1) (mach (regs [(5, 1)]) 0xFFFF)) 4 = 0x2001 := by decide +kernel
theorem test_g_call_links : reads (after (.gCall 4 8) (mach (regs []) 0xFFFF)) 4 = 8 ∧ ((after (.gCall 4 8) (mach (regs []) 0xFFFF)).lane 0).pc = 36 := by decide +kernel
/-- R357: g.trap enters the handler with the sequential successor saved, and g.eret returns to it. -/
theorem test_g_trap : ((after (.gTrap 5) (mach (regs []) 0xFFFF)).lane 0).pc = 0x30004 ∧ ((after (.gTrap 5) (mach (regs []) 0xFFFF)).lane 0).trappc = 8 ∧ (after (.gTrap 5) (mach (regs []) 0xFFFF)).hnd = true := by decide +kernel
theorem test_g_eret : ((after .gEret (mach { (grp 16).modLanes 0xFFFF (fun l => { l with trappc := 0x44 }) with hnd := true, saveden := 3 })).lane 0).pc = 0x44
    ∧ (after .gEret (mach { (grp 16).modLanes 0xFFFF (fun l => { l with trappc := 0x44 }) with hnd := true, saveden := 3 })).enmask = 3 := by decide +kernel
/-- R221, R223: a word stored little-endian and read back; an unwritten byte reads 0. -/
theorem test_store_bytes : (next (.st 5 6 .w32 1) (mach (regs [(5, 0x11223344), (6, 0x20000), (7, 0x10000000)]))).bytesAt none false (.phys 0x20004) 4 = [0x44, 0x33, 0x22, 0x11] := by decide +kernel
theorem test_load_word : delivers (after (.ld 4 6 .w32 0) (mach (regs [(6, 4), (7, 0x10000000)]) 1 0x12345678)) = [(4, 0x12345678)] := by decide +kernel
theorem test_store_read_shared : (after (.st 5 6 .w32 0) (mach (regs [(6, 0x10000), (7, 0x10000000)]))).code = Cause.writeShared.code := by decide +kernel
theorem test_load_misaligned : (after (.ld 4 6 .w32 0) (mach (regs [(6, 2), (7, 0x10000000)]))).code = Cause.misalignedData.code := by decide +kernel
theorem test_load_unmapped_parks : (after (.ld 4 6 .w32 0) (mach (regs [(6, 0x40000), (7, 0x10000000)]))).parked = some 0 := by decide +kernel
theorem test_atom_add : (next (.atomOAdd 5 6 0) (mach (regs [(5, 5), (6, 0x20000), (7, 0x10000000)]))).bytesAt none false (.phys 0x20000) 4 = [5, 0, 0, 0]
    ∧ delivers (after (.atomOAdd 5 6 0) (mach (regs [(5, 5), (6, 0x20000), (7, 0x10000000)]))) = [(5, 0)] := by decide +kernel
theorem test_step_domain : (next (.gStepadv 5 3) (mach (regs [(5, 7)]) 0xFFFF)).dev.datum.get 3 = 7 := by decide +kernel
theorem test_tile_state : (after (.tileState 4 6) (mach (regs [(6, 0x20000), (7, 0x10000000)]))).code = Cause.recipePage.code := by decide +kernel
theorem test_exit : (after .gExit (mach (regs []) 0xFFFF)).ended = true := by decide +kernel
theorem test_token_wait : (after (.gWait 2) (mach (regs []) 0xFFFF)).waits = [] ∧ ((after (.gWait 2) (mach (regs []) 0xFFFF)).lane 0).pc = 8 := by decide +kernel
/-! ## A step -/

/-- The group after a step of the machine that has just fetched a word; the blank group where there is none. -/
noncomputable def stepped (w : Nat) : Group := match step (State.reset.withFetchWord 32 w) with
  | .next t => (t.group? 0).getD (grp 0)
  | .fault _ => grp 0
  | .refused _ => grp 0
/-- R28, R88: the word of add v4, v8, v12 is fetched at 4, decoded and run, and its lanes move on to 8. -/
theorem test_step_runs : ((stepped 0x00042030).lane 0).pc = 8 ∧ ((stepped 0x00042030).lane 15).pc = 8 ∧ (stepped 0x00042030).code = 0 := by decide +kernel
/-- R102, R193: a word of zeros takes ILLEGAL; with no handler its group parks. -/
theorem test_step_illegal : (stepped 0).code = Cause.illegal.code ∧ (stepped 0).parked = some 0 := by decide +kernel
/-! ## The hypotheses of the statements are met -/

/-- The small machine has its packet in issue. -/
theorem issuing_mach (g : Group) (lanes : LaneMask) (word : Word) : (mach g lanes word).issuing = some (pkt lanes word, g) := rfl
/-- The one lane of the set {0}. -/
theorem lane_zero {i : Nat} (h : (1#64).getLsbD i = true) : i = 0 := by
  simpa [BitVec.getLsbD_one] using h
/-- A property of lane 0 is one of every lane of the set {0}. -/
theorem all_lanes {P : Nat → Prop} {w : Nat} (h : P 0) : ∀ i, (1#64).getLsbD i = true → i < w → P i := by
  intro i hi _
  rw [lane_zero hi]
  exact h
/-- A group with no flag enabled is quiet. -/
theorem quiet_mach (l : List (Reg × Word)) (f : Nat → LaneRes) (h : ((regs l).lane 0).fpen = 0) : (regs l).quiet 1 f := by
  intro i hi _
  rw [lane_zero hi, h]
  exact BitVec.and_zero

theorem witness_LaneIntegerResults : (mach (grp 16)).issuing = some (pkt 1, grp 16) := rfl
theorem witness_LaneCarryAndFields : (mach (grp 32)).issuing = some (pkt 1, grp 32) := rfl
theorem witness_LaneCompareResults : (mach (grp 64)).issuing = some (pkt 1, grp 64) := rfl
theorem witness_LaneExchangeResults : (mach (grp 64) 0xFF).issuing = some (pkt 0xFF, grp 64) := rfl
theorem witness_LaneImmediateResults : (mach (grp 16) 0xFFFF).issuing = some (pkt 0xFFFF, grp 16) := rfl
theorem witness_LaneFp32Results : (mach (regs [])).issuing = some (pkt 1, regs []) ∧ ∀ f, (regs []).quiet 1 f := ⟨rfl, fun f => quiet_mach [] f rfl⟩
theorem witness_LaneFp64Results : (mach (regs [(4, 1)])).issuing = some (pkt 1, regs [(4, 1)]) ∧ ∀ f, (regs [(4, 1)]).quiet 1 f := ⟨rfl, fun f => quiet_mach _ f (by decide +kernel)⟩
theorem witness_LanePackedAndConversions : (mach (regs [(5, 2)])).issuing = some (pkt 1, regs [(5, 2)]) ∧ ∀ f, (regs [(5, 2)]).quiet 1 f := ⟨rfl, fun f => quiet_mach _ f (by decide +kernel)⟩
/-- Widths 16, 32 and 64, and a header of zeros, which is no malformed one. -/
theorem witness_LaneBq4Results : (∀ w, (mach (grp w)).issuing = some (pkt 1, grp w)) ∧ (grp 16).width < 32 ∧ 32 ≤ (grp 32).width ∧ (grp 32).width % 32 = 0 ∧ 32 ≤ (grp 64).width ∧ (grp 64).width % 32 = 0
    ∧ ∀ k, (1#64).getLsbD k = true → k < (grp 32).width → bq4Malformed (((grp 32).read 0 (k / 32 * 32 + 4) 5).toNat % 2 ^ 16) = false := by
  refine ⟨fun _ => rfl, by decide, by decide, by decide, by decide, by decide, all_lanes (by decide +kernel)⟩
theorem witness_LaneStreamResults : (mach (grp 16) 3).issuing = some (pkt 3, grp 16) := rfl
/-- A decay table whose entry 0 is 1.0 and whose entry 1 is 2.0, which is no factor. -/
def decayed (g : Group) : State :=
  let s := mach g
  { s with dev := { s.dev with decayBase := 0x4000 }, mem := { s.mem with hbm := cellsWrite s.mem.hbm 0x4000 (bytesOfNat 4 0x3F800000 ++ bytesOfNat 4 0x40000000) } }
/-- Elements of a selector that names an entry of the table, and of one that names none. -/
theorem witness_LaneAgedResults : (decayed (regs [(8, 1)])).issuing = some (pkt 1, regs [(8, 1)]) ∧ (domainOf ((regs [(8, 1)]).src 0 0 6 0)).val = 0 ∧ (agedOf ((regs [(8, 1)]).readPair 0 0 4)).sel = 0
    ∧ (agedOf ((regs [(8, 1)]).srcPair 0 0 8 0)).sel = 1 ∧ (decayed (regs [(8, 1)])).decayFactor 0 0 0 ≠ none ∧ (decayed (regs [(8, 1)])).decayFactor 0 0 1 = none ∧ ∀ f, (regs [(8, 1)]).quiet 1 f :=
  ⟨rfl, by decide +kernel, by decide +kernel, by decide +kernel, by decide +kernel, by decide +kernel, fun f => quiet_mach _ f (by decide +kernel)⟩
/-- An element whose stamp lies in the future of the datum, with a decay factor. -/
theorem witness_LaneAgedResults_future : let g := regs [(4, 0x100)]
    (decayed g).issuing = some (pkt 1, g) ∧ (agedOf (g.readPair 0 0 4)).stamp = 1 ∧ 2 ^ 23 ≤ (0 % 2 ^ 24 + 2 ^ 24 - (agedOf (g.readPair 0 0 4)).stamp) % 2 ^ 24 ∧ (agedOf (g.readPair 0 0 4)).sel = 0 := by
  refine ⟨rfl, ?_⟩
  decide +kernel
/-- For the statements of the float, packed, conversion, BQ4 and aged instructions: a lane that enables a flag, for results that raise it, in a packet that has not trapped. -/
theorem witness_LaneFloatTraps : let g := (grp 16).modLane 0 fun l => { l with fpen := 1 }
    (mach g).issuing = some (pkt 1, g) ∧ (pkt 1).trap = none ∧ ∀ f : Nat → LaneRes, (f 0).flags = 1 → ¬ g.quiet 1 f := by
  refine ⟨rfl, rfl, fun f hf h => ?_⟩
  have := h 0 (by decide) (by decide +kernel)
  rw [hf] at this
  exact absurd this (by decide +kernel)
/-- A lane that enables a flag, and a result that raises it. -/
theorem witness_FpExceptionTraps : let g := (grp 16).modLane 0 fun l => { l with fpen := 1 }
    (mach g).issuing = some (pkt 1, g) ∧ (pkt 1).trap = none ∧ ∃ i, (pkt 1).cur.lanes.getLsbD i = true ∧ i < g.width ∧ i < 64 ∧ (({ writes := [], flags := 1 } : LaneRes)).flags &&& (g.lane i).fpen ≠ 0 :=
  ⟨rfl, rfl, 0, by decide +kernel⟩
/-- Words 1, 6 and 7 of a block, and an address of word 0 in each half. -/
theorem witness_SequentialSuccessor : (∀ pc ∈ [4#64, 24#64, 28#64], pc.toNat % 4 = 0 ∧ pc.toNat % 32 ≠ 0 ∧ pc.toNat + 8 < 2 ^ 64) ∧ (24#64).toNat / 4 % 8 ≤ 6 ∧ (28#64).toNat / 4 % 8 = 7
    ∧ ∀ q ∈ [32#64, 0xFF00000000000000#64], (q.toNat / 2 ^ 56 = 0 ∨ q.toNat / 2 ^ 56 = 255) ∧ q.toNat / 4 % 8 = 0 := by simp
/-- A branch whose target is allowed, one whose target is not and that no lane takes, transfers to 0x44, and an exitl while lane 1 lives on. -/
theorem witness_LaneControl : let g := regs [(4, 0x44)]
    (mach g).issuing = some (pkt 1, g) ∧ pcFault (branchTarget 4 4) = none ∧ pcFault (branchTarget 4 (-1)) ≠ none ∧ (∀ i, (pkt 1).cur.lanes.getLsbD i = true → i < g.width → decide (g.read 0 i 6 ≠ 0) = false)
    ∧ pcFault (succPc 4) = none ∧ (∀ i, (pkt 1).cur.lanes.getLsbD i = true → i < g.width → pcFault (g.readPair 0 i 4) = none)
    ∧ (∀ i, (pkt 1).cur.lanes.getLsbD i = true → i < g.width → pcFault (g.srcPair 0 i 4 0) = none ∧ (mach g).budgetAt g (g.srcPair 0 i 4 0) ≤ g.alloc) ∧ g.liveMask ≠ (pkt 1).cur.lanes :=
  ⟨rfl, by decide, by decide, all_lanes (by decide +kernel), by decide, all_lanes (by decide +kernel), all_lanes (by decide +kernel), by decide +kernel⟩
/-- A PC beyond the range, a PC of word 0, a target whose budget does not fit in 32 registers, and a taken branch to word 0. -/
theorem witness_LaneTransferTraps : (∀ g, (mach g).issuing = some (pkt 1, g)) ∧ pcFault ((regs [(5, 0x01000000)]).readPair 0 0 4) = some .pcRange ∧ pcFault ((regs []).readPair 0 0 4) = some .misalignedPc
    ∧ decide ((mach { regs [(4, 0x44)] with alloc := 32 }).budgetAt { regs [(4, 0x44)] with alloc := 32 } ((regs [(4, 0x44)]).readPair 0 0 4) ≤ 32) = false
    ∧ (regs [(6, 1)]).read 0 0 6 ≠ 0 ∧ (regs []).read 0 0 6 = 0 ∧ pcFault (branchTarget 4 (-1)) ≠ none := by
  refine ⟨fun _ => rfl, ?_⟩
  decide +kernel
/-- Lane 0 waits for itself (released), for lane 1 that is live (not released), and in a parked group. -/
theorem witness_RejoinRelease : let w := fun (m : DWord) => (grp 16).modLane 0 fun l => { l with st := .waiting m }
    (∀ g, (mach g).group? 0 = some g) ∧ ((w 1).lane 0).st = .waiting 1 ∧ (mach (w 1)).resident (w 1) = true ∧ (w 1).parked = none
    ∧ (∀ j, j < (w 1).width → (1#64).getLsbD j = true → ((w 1).lane j).st = .exited ∨ (w 1).enmask.getLsbD j = false ∨ ((∃ k, ((w 1).lane j).st = .waiting k) ∧ ((w 1).lane j).pc = ((w 1).lane 0).pc))
    ∧ ((w 3).lane 0).st = .waiting 3 ∧ 1 < (w 3).width ∧ (3#64).getLsbD 1 = true ∧ ((w 3).lane 1).st ≠ .exited ∧ (w 3).enmask.getLsbD 1 = true ∧ ((w 3).lane 1).st = .live
    ∧ ({ w 1 with parked := some 0 } : Group).parked ≠ none := by
  refine ⟨fun _ => rfl, by decide +kernel, by decide +kernel, by decide +kernel, ?_, by decide +kernel, by decide +kernel, by decide +kernel, by decide +kernel, by decide +kernel, by decide +kernel, by decide +kernel⟩
  intro j _ h
  rw [lane_zero h]
  exact Or.inr (Or.inr ⟨⟨1, by decide +kernel⟩, rfl⟩)
/-- One PC, two PCs of which the larger set of lanes ranks first, and no candidate. -/
theorem witness_ChosenPairRanks : (grp 16).chosenPair = [4] ∧ ((grp 16).moveTo 3 8).chosenPair = [4, 8] ∧ (grp 16).candidates.getLsbD 0 = true ∧ ((grp 16).moveTo 3 8).candidates.getLsbD 15 = true ∧ { grp 16 with enmask := 0 }.candidates = 0 := by decide +kernel
theorem witness_UniformDataResults : (mach (grp 16) 0xFFFF).issuing = some (pkt 0xFFFF, grp 16) := rfl
/-- Taken with an allowed target, taken with a target of word 0, and not taken. -/
theorem witness_UniformTransfers : (∀ g, (mach g 0xFFFF).issuing = some (pkt 0xFFFF, g)) ∧ pcFault (branchTarget 4 4) = none ∧ pcFault (branchTarget 4 (-1)) = some .misalignedPc
    ∧ (regs [(5, 2)]).read 0 0 5 ≠ 0 ∧ (regs [(5, 1)]).read 0 0 5 ≠ 0 ∧ (regs []).read 0 0 5 = 0 ∧ ¬ (regs [(5, 1)]).read 0 0 5 ≠ 1 ∧ pcFault ((regs [(4, 0x44)]).readPair 0 0 4) = none := by
  refine ⟨fun _ => rfl, ?_⟩
  decide +kernel
/-- The last feature bit and the first number beyond; route entries at the ends of what each pattern allows, and one beyond. -/
theorem witness_UniformGroupState : (mach (grp 16) 0xFFFF).issuing = some (pkt 0xFFFF, grp 16) ∧ (127#13).toNat < 128 ∧ 128 ≤ (128#13).toNat ∧ (grp 16).width ≤ (16#6).toNat ∧ ¬ (grp 16).width ≤ (15#6).toNat
    ∧ (grp 16).width ≤ 2 ^ (4#6).toNat ∧ ¬ (grp 16).width ≤ 2 ^ (3#6).toNat ∧ (grp 16).width < 2 ^ (5#6).toNat ∧ ¬ (grp 16).width < 2 ^ (4#6).toNat ∧ (0#2 = 0) ∧ (3#2 ≠ 0) := by
  refine ⟨rfl, ?_⟩
  decide
/-- A number with no register, the first and last numbers with one, a low and a high half, and a snapshot of the low half. -/
theorem witness_CsrAccess : let g := { grp 16 with snap := some { csr := 0x1A, vals := [(0, 7)] } }
    (mach g 0xFFFF).issuing = some (pkt 0xFFFF, g) ∧ csrOf (0x006#13).toNat = none ∧ csrOf (0x1FFF#13).toNat = none ∧ csrOf (0x000#13).toNat = some (.laneid, .whole) ∧ csrOf (0x0DF#13).toNat ≠ none
    ∧ csrOf (0x01A#13).toNat = some (.retired, .low) ∧ csrOf (0x01B#13).toNat = some (.retired, .high) ∧ (grp 16).snap = none ∧ g.snap = some { csr := 0x1A, vals := [(0, 7)] } ∧ 0x1A + 1 = (0x01B#13).toNat
    ∧ lookup [(0, 7#64)] 0 = some 7 ∧ csrOf (0x010#13).toNat = some (.fprm, .whole) ∧ csrOf (0x011#13).toNat = some (.fpftz, .whole) ∧ csrOf (0x001#13).toNat = some (.fpen, .whole)
    ∧ csrOf (0x016#13).toNat = some (.enmask, .low) ∧ csrOf (0x004#13).toNat = some (.trappc, .low) ∧ csrOf (0x012#13).toNat = some (.schk, .whole)
    ∧ (mach { grp 16 with hnd := true } 0xFFFF).issuing = some (pkt 0xFFFF, { grp 16 with hnd := true }) ∧ 0x1A + 1 ≠ (0x017#13).toNat ∧ csrOf (0x017#13).toNat = some (.enmask, .high) ∧ lookup [(0, 7#64)] 1 = none
    ∧ 15 < (grp 16).width ∧ (mach (grp 16)).teamOf (grp 16) = some placedTeam ∧ (mach (grp 16)).launchOf (grp 16) = some lnch ∧ (grp 16).routes[2]? ≠ none := by
  refine ⟨rfl, ?_⟩
  decide +kernel
/-- A group outside a handler with a handler set; a group in a handler whose return addresses are allowed. -/
theorem witness_TrapAndReturn : let s := mach (grp 16) 0xFFFF
    let g := { (grp 16).modLanes 0xFFFF (fun l => { l with trappc := 0x44 }) with hnd := true }
    s.issuing = some (pkt 0xFFFF, grp 16) ∧ (pkt 0xFFFF).trap = none ∧ (pkt 0xFFFF).rest = [] ∧ (grp 16).pending = none ∧ (grp 16).waits = [] ∧ (grp 16).hnd = false ∧ s.isRecompute (grp 16) = false ∧ s.trapvec (s.asidOf (grp 16)) = 0x30004
    ∧ (mach g 0xFFFF).issuing = some (pkt 0xFFFF, g) ∧ g.hnd = true ∧ ∀ i, i < g.width → (g.lane i).live = true → pcFault (g.lane i).trappc = none := by
  refine ⟨rfl, rfl, rfl, rfl, rfl, rfl, rfl, by decide +kernel, rfl, rfl, ?_⟩
  have h : ∀ i, i < 16 → (((grp 16).modLanes 0xFFFF (fun l => { l with trappc := 0x44 })).lane i).live = true → pcFault (((grp 16).modLanes 0xFFFF (fun l => { l with trappc := 0x44 })).lane i).trappc = none := by decide +kernel
  exact h
/-- Does a computation give this value? -/
def okIs {ε α : Type} [DecidableEq α] (x : Except ε α) (a : α) : Bool := match x with
  | .ok b => b == a
  | .error _ => false
theorem of_okIs {ε α : Type} [DecidableEq α] {x : Except ε α} {a : α} (h : okIs x a = true) : x = .ok a := by
  cases x with
  | error e => cases h
  | ok b => rw [eq_of_beq h]
/-- Does a computation fail with this value? -/
def errIs {ε α : Type} [DecidableEq ε] (x : Except ε α) (a : ε) : Bool := match x with
  | .ok _ => false
  | .error b => b == a
theorem of_errIs {ε α : Type} [DecidableEq ε] {x : Except ε α} {a : ε} (h : errIs x a = true) : x = .error a := by
  cases x with
  | error e => rw [eq_of_beq h]
  | ok b => cases h
/-- A machine with bytes placed in HBM4. -/
def poke (s : State) (pa : Nat) (bs : List Byte) : State := { s with mem := { s.mem with hbm := cellsWrite s.mem.hbm pa bs } }
/-- A posted store of group 0 that waits. -/
def aStore : PendingStore :=
  { id := 1, core := 0, gid := 0, launch := 0, ea := localEa 0x20000, loc := .phys 0x20000, priv := false, word := 0, tile := none, bytes := [1, 2, 3, 4], epoch := 0 }
/-- A copy of group 0 in a batch. -/
def aCopy (n : Option Nat) : Copy :=
  { kind := .batch n, gid := 0, team := 0, launch := 0, asid := 0, lane := 0, order := 0, token := none, word := 0, src := localEa 0, dsts := [localEa 0x20000], len := 4, spitch := 0, dpitch := 0, desc := 0, phase := 0, awaiting := [], answers := [],
    failed := none, tile := none, epoch := 0 }
/-- A wait of the packet's instruction. -/
def aWait (k : WaitKind) (word : Word := 0) (lanes : LaneMask := 1) : Wait := { kind := k, slot := { pc := 4, word := word, lanes := lanes, place := 0 }, since := 0 }

/-- A group with nothing outstanding and one with a posted store; a busy token; 15 and 16 open batches; batch numbers behind, equal and ahead, at the ends of their ranges; an exit that is over and one that is not. -/
theorem witness_FenceAndWaitResults : let s := mach (grp 16) 0xFFFF
    let u : State := { s with mem := { s.mem with storeQ := [aStore] } }
    let b := fun (k : Nat) => ({ s with eng := { s.eng with copies := (List.range k).map fun n => (n, aCopy (some n)) } } : State)
    s.certified (grp 16) = false ∧ s.issuing = some (pkt 0xFFFF, grp 16) ∧ (grp 16).waitOf 4 0 = none ∧ (grp 16).deferredFor Deferred.atRelease = none ∧ (grp 16).deferredFor Deferred.atAcquire = none
    ∧ s.performed 0 (grp 16) .system = true ∧ (grp 16).loadsReturned = true ∧ u.performed 0 (grp 16) .group = false
    ∧ { grp 16 with sb := [{ id := 0, pc := 4, lanes := 1, regs := [], vals := [], due := 0, kind := .held 0, op := .nothing, rows := [], epoch := 0 }] }.loadsReturned = false
    ∧ ((grp 16).token 2).st ≠ .busy ∧ ({ grp 16 with tokens := (grp 16).tokens.set 2 { st := .busy, left := 1, bad := false } }.token 2).st = .busy
    ∧ ((b 15).openBatches 0).length < 16 ∧ 16 ≤ ((b 16).openBatches 0).length ∧ (∀ x ∈ s.eng.copies, x.2.batchOf 0 = none) ∧ (grp 16).bdone = (grp 16).bsealed ∧ (grp 16).bsealed < 65536
    ∧ ((1 + 65536 - 0) % 65536 < 32768) ∧ ((32767 + 65536 - 0) % 65536 < 32768) ∧ 32768 ≤ (32768 + 65536 - 0) % 65536 ∧ 32768 ≤ (0 + 65536 - 1) % 65536 ∧ (grp 16).deferredFor (fun x => x.kind.coveredBy 1) = none
    ∧ (grp 16).liveMask = (pkt 0xFFFF).cur.lanes ∧ s.exitOver 0 (grp 16) = true ∧ (grp 16).deferred = [] ∧ u.exitOver 0 (grp 16) = false := by
  decide +kernel
/-- A group that waits to exit and may. -/
theorem witness_FenceAndWaitResults_end : let g := { grp 16 with waits := [aWait .exit] }
    (mach g).group? 0 = some g ∧ g.queueWait .exit = some (aWait .exit) ∧ (mach g).exitOver 0 g = true ∧ (mach g).resident g = true ∧ g.deferred = [] ∧ (mach g).certified g = false := by
  decide +kernel
theorem witness_StepgetDelivers : (mach (grp 16)).issuing = some (pkt 1, grp 16) := rfl
/-- A domain that is spanning, the last advance before a sweep is due and the first after it, a sweep under way and none. -/
theorem witness_StepDomainResults : let s := mach (grp 16)
    s.issuing = some (pkt 1, grp 16) ∧ (grp 16).waitOf 4 0 = none ∧ s.certified (grp 16) = false ∧ s.performed 0 (grp 16) .device = true ∧ s.dev.spanning.getLsbD 3 = false
    ∧ ({ s with dev := { s.dev with spanning := 8 } } : State).dev.spanning.getLsbD 3 = true ∧ ((0 + 2 ^ 23 - 1) % 2 ^ 64 + 2 ^ 64 - 0) % 2 ^ 64 < 2 ^ 23 ∧ 2 ^ 23 ≤ ((0 + 2 ^ 23) % 2 ^ 64 + 2 ^ 64 - 0) % 2 ^ 64
    ∧ s.sweeping 3 = false ∧ ({ s with dev := { s.dev with sweeps := [(3, { start := 0, walking := true, pieces := [], at_ := 0, epoch := 0 })] } } : State).sweeping 3 = true := by
  refine ⟨rfl, ?_⟩
  decide +kernel

/-- A machine that has kernel 1 loaded in address space 0. -/
def loaded (g : Group) : State :=
  let s := mach g
  { s with sched := { s.sched with kernels := [(1, { lnch.kern with image := 1 })], images := [(1, { asid := 0, base := 0, textLen := 64, pload := [], pstore := [], handles := [1] })] } }
/-- A launch record of kernel 1 with one team. -/
def record : List Byte := bytesOfNat 4 1 ++ bytesOfNat 4 0 ++ bytesOfNat 8 0 ++ bytesOfNat 8 0 ++ bytesOfNat 8 1 ++ bytesOfNat 32 0
/-- A graph of one node whose record is at 0x20100. -/
def graph : List Byte := bytesOfNat 64 1 ++ bytesOfNat 32 0x20100
/-- A group that names 0x20000 in v6 and 0x20100 in v8. -/
def namer : Group := regs [(6, 0x20000), (7, 0x10000000), (8, 0x20100), (9, 0x10000000)]
/-- Records that pass and that fail, shares that split and that do not, free entries, and a graph that passes. -/
theorem witness_DeviceLaunchResults : let s := poke (poke (loaded namer) 0x20000 graph) 0x20100 record
    s.issuing = some (pkt 1, namer) ∧ namer.waitOf 4 0 = none ∧ s.certified namer = false ∧ s.performed 0 namer .device = true ∧ s.launchIdOf namer ≠ s.sched.nextId
    ∧ s.recordBytes (s.ctxOf 0 namer) false (localEa 0x20100) 64 64 = .ok record ∧ (∃ k, s.checkRecord 0 record = .ok k) ∧ s.checkRecord 0 (List.replicate 64 0) = .error 4
    ∧ splitWeight 1 1 = none ∧ splitWeight 2 1 = some 1 ∧ splitWeight 0 1 = some 0 ∧ s.ordinaryEntry 0 = some 1 ∧ namer.deferredFor Deferred.atBlocking = none
    ∧ s.recordBytes (s.ctxOf 0 namer) false (localEa 0x20000) 64 64 = .ok (graph.take 64) ∧ headerOk (graph.take 64) = true ∧ headerOk (List.replicate 64 0) = false
    ∧ (∃ pg, s.pageAt 0 0x20000 = some pg ∧ attrCoh pg.attr = 2) ∧ namer.readPair 0 0 4 = 0 ∧ (∃ ns, s.nodesFrom (s.ctxOf 0 namer) (localEa 0x20000) 0 1 = .ok (.ok ns) ∧ ns.length = 1)
    ∧ freeBuffer (s.replaysOf 0 0x20000) = some 0 ∧ splitWeight (s.weightOf namer) 1 = some (2 ^ 63 - 1) := by
  refine ⟨rfl, rfl, rfl, by decide +kernel, by decide +kernel, of_okIs (by decide +kernel), ⟨_, of_okIs (a := { lnch.kern with image := 1 }) (by decide +kernel)⟩, of_errIs (by decide +kernel), rfl, rfl, rfl,
    by decide +kernel, rfl, of_okIs (by decide +kernel), by decide +kernel, by decide +kernel, ⟨_, rfl, by decide +kernel⟩, by decide +kernel, ?_, by decide +kernel, by decide +kernel⟩
  exact ⟨[({ lrec := 0x20100, preds := [] }, recordOf record, { lnch.kern with image := 1 })], of_okIs (by decide +kernel), rfl⟩
/-- No entry of a die is free where each is held. -/
theorem freeEntry_none (s : State) (die : Nat) : ∀ n first, (∀ k, k < n → s.entryHeld die (first + k) = true) → s.freeEntry die first n = none := by
  intro n
  induction n with
  | zero => intro _ _; rfl
  | succ n ih =>
    intro first h
    rw [State.freeEntry, if_pos (by simpa using h 0 (Nat.succ_pos n))]
    exact ih (first + 1) fun k hk => by simpa [Nat.add_assoc, Nat.add_comm 1 k] using h (k + 1) (Nat.succ_lt_succ hk)
/-- The machine with every ordinary entry of die 0 held. -/
def full : State :=
  let s := poke (loaded namer) 0x20100 record
  { s with launches := (0, lnch) :: (List.range 3840).map fun n => (n + 1, { lnch with entry := some n }) }
theorem full_none : full.ordinaryEntry 0 = none := by
  refine freeEntry_none full 0 3840 0 fun k hk => ?_
  rw [State.entryHeld, List.any_eq_true]
  refine ⟨(k + 1, { lnch with entry := some k }), List.mem_cons_of_mem _ (List.mem_map.mpr ⟨k, List.mem_range.mpr hk, rfl⟩), ?_⟩
  simp [lnch, placedLaunch]
/-- A record that passes when no entry is free. -/
theorem witness_DeviceLaunchResults_full : full.issuing = some (pkt 1, namer) ∧ full.performed 0 namer .device = true ∧ full.recordBytes (full.ctxOf 0 namer) false (localEa 0x20100) 64 64 = .ok record
    ∧ (∃ k, full.checkRecord 0 record = .ok k) ∧ (∃ w, splitWeight (full.weightOf namer) 1 = some w) ∧ full.ordinaryEntry 0 = none :=
  ⟨rfl, by decide +kernel, of_okIs (by decide +kernel), ⟨_, of_okIs (a := { lnch.kern with image := 1 }) (by decide +kernel)⟩, ⟨2 ^ 63 - 1, by decide +kernel⟩, full_none⟩

/-- An invocation header for this device with no arguments, and one whose argument length is no multiple of 4. -/
def header (len : Nat) : List Byte := bytesOfNat 2 0 ++ bytesOfNat 2 len ++ bytesOfNat 4 1 ++ bytesOfNat 24 0
/-- The machine with a claim in slot 0. -/
def claimed (g : Group) (x : ClaimSlot) : State :=
  let s := mach g
  { s with fab := { s.fab with claims := [(0, x)] } }
/-- A claim slot of generation 1. -/
def aClaim (st : ClaimState) : ClaimSlot := { st := st, gen := 1, locDev := 0, cause := 67, loc := 0x20000, expiry := 2 ^ 63, execDev := 0, started := false, queue := [] }
/-- A machine whose launch has a root and whose team has weight. -/
def rooted (g : Group) : State :=
  let s := mach g
  { s with launches := [(0, { lnch with root := some { device := 0, asid := 0, la := 0x20000 } })] }
/-- Headers aligned, misaligned, good and bad; weight that splits and that does not; a free claim; claims pending, resolved, broken and stale; weight to give and to split at the ends of the range. -/
theorem witness_InvocationResults : let g := regs [(6, 0x20000), (7, 0x10000000), (8, 1), (10, 4), (11, 0x10000000)]
    let s := poke (mach g) 0x20000 (header 0)
    s.issuing = some (pkt 1, g) ∧ s.certified g = false ∧ g.waitOf 4 0 = none ∧ s.performed 0 g .domain = true ∧ (g.readPair 0 0 6).toNat % 8 = 0 ∧ (g.readPair 0 0 10).toNat % 8 ≠ 0
    ∧ s.recordBytes (s.ctxOf 0 g) true (g.readPair 0 0 6) 8 32 = .ok (header 0) ∧ invokeOk (header 0) true = true ∧ invokeOk (header 2) true = false ∧ invokeOk (header 0) false = true
    ∧ s.recordBytes (s.ctxOf 0 g) true (g.readPair 0 0 6 + 32) 8 0 = .ok [] ∧ okIs (s.invokedTeams (s.asidOf g) (s.weightOf g) none (header 0)) 1 = true ∧ splitWeight ((s.modTeam 0 fun t => { t with weight := 1 }).weightOf g) 1 = none
    ∧ splitWeight (s.weightOf g) 1 = some (2 ^ 63 - 1) ∧ s.freeClaim = some 0 ∧ s.unreachable 0 = false
    ∧ claimHome (g.readPair 0 0 8) = s.fab.devNum ∧ g.loadsReturned = true ∧ g.deferredFor Deferred.atBlocking = none
    ∧ ((claimed g (aClaim .resolved)).claimView 1).isPending = false ∧ ((claimed g (aClaim .resolved)).claimView 1).word.toNat / 2 ^ 28 ≤ 1
    ∧ ((claimed g (aClaim .broken)).claimView 1).isPending = false ∧ 2 ≤ ((claimed g (aClaim .broken)).claimView 1).word.toNat / 2 ^ 28 ∧ ((claimed g (aClaim .pending)).claimView 1).isPending = true
    ∧ ((mach g).claimView 1).isPending = false ∧ (mach g).rootOf g = none ∧ (rooted g).rootOf g ≠ none ∧ (rooted g).weightOf g ≠ 0 ∧ (g.readPair 0 0 8).toNat ≠ 0 ∧ (g.readPair 0 0 8).toNat < (rooted g).weightOf g
    ∧ (g.readPair 0 0 0).toNat = 0 := by
  refine ⟨rfl, rfl, rfl, by decide +kernel, by decide +kernel, by decide +kernel, of_okIs (by decide +kernel), by decide +kernel, by decide +kernel, by decide +kernel, of_okIs (by decide +kernel), by decide +kernel, ?_⟩
  decide +kernel
/-- Every claim slot in use. -/
theorem witness_InvocationResults_full : ∀ (s : State), (∀ n, n < Config.claimSlots → (s.claimAt n).st ≠ .free) → s.freeClaim = none := by
  intro s h
  rw [State.freeClaim, Option.filter_eq_none_iff]
  intro n hn
  have := List.find?_some hn
  simp only [decide_eq_true_eq]
  intro hlt
  exact h n hlt (by simpa using this)
/-- A grant that has come for a group that waits for it. -/
theorem witness_InvocationResults_grant : let g := { grp 16 with waits := [aWait (.grant 5)], answers := [(5, .word 1)] }
    (mach g).issuing = some (pkt 1, g) ∧ g.waitOf 4 0 = some (aWait (.grant 5)) ∧ g.wordFor 5 = some 1 ∧ (1#32 ≠ 0) := by
  refine ⟨rfl, ?_⟩
  decide +kernel
/-- The well-formed add nearest the all-zero word. -/
theorem witness_DecodeEncodeAgree : (Instr.add 0 0 0 0 1).wellFormed = true ∧ (Instr.add 0 0 0 0 1).hasWord = true := by decide +kernel
theorem witness_DecodedHasOneWord : decodeWord 1 = .ok (.add 0 0 0 0 1) := rfl
/-- A packet whose word decodes and passes the checks, and one whose instruction waits. -/
theorem witness_StepRunsDecoded : let s := mach (grp 16) 1 0x42030
    let q : Packet := { pkt 1 0x42030 with cur := { (pkt 1 0x42030).cur with word := 0x42030 } }
    s.packet = some (pkt 1 0x42030) ∧ s.group? 0 = some (grp 16) ∧ (grp 16).ended = false ∧ (grp 16).waitOf 4 0 = none ∧ s.fetchFor (grp 16) 4 = .word 0 0x42030 ∧ (0#32).toNat < 2 ^ 29 ∧ decodeWord 0x42030 = .ok (.add 4 8 0 12 0)
    ∧ ({ s with packet := some q } : State).precheck (grp 16) q.cur (uses 16 (.add 4 8 0 12 0)) = none ∧ (grp 16).deferredRead (uses 16 (.add 4 8 0 12 0)) = none ∧ (grp 16).conflicts 0 1 (uses 16 (.add 4 8 0 12 0)) = [] ∧ (∃ t, exec (.add 4 8 0 12 0) ({ s with packet := some q } : State) = .next t)
    ∧ { grp 16 with waits := [aWait .sealLimit 0x8D000000] }.waitOf 4 0 ≠ none ∧ decodeWord 0x8D000000 = .ok (.gSeal 0) ∧ ∃ t, exec (.gSeal 0) (mach { grp 16 with waits := [aWait .sealLimit 0x8D000000] } 1 0x8D000000) = .next t := by
  refine ⟨rfl, rfl, rfl, rfl, by decide +kernel, by decide, rfl, by decide +kernel, by decide +kernel, by decide +kernel, ⟨_, rfl⟩, by decide +kernel, rfl, ⟨_, rfl⟩⟩
/-- A block whose control word has bit 29 set: the least such word. -/
def controlled : State := poke (mach (grp 16)) 0 (bytesOfNat 4 (2 ^ 29))
theorem witness_ControlWordTraps : controlled.packet = some (pkt 1) ∧ controlled.group? 0 = some (grp 16) ∧ (grp 16).ended = false ∧ (grp 16).waitOf 4 0 = none ∧ controlled.fetchFor (grp 16) 4 = .word 0x20000000 0
    ∧ 2 ^ 29 ≤ (0x20000000#32).toNat ∧ (pkt 1).rest = [] ∧ (pkt 1).trap = none ∧ (grp 16).waits = [] ∧ (grp 16).pending = none ∧ (grp 16).hnd = false ∧ controlled.isRecompute (grp 16) = false ∧ controlled.trapvec (controlled.asidOf (grp 16)) = 0x30004 := by
  refine ⟨rfl, rfl, rfl, rfl, ?_⟩
  decide +kernel
/-- The all-zero word, a word of an extension, a pair that is none at width 64, a register beyond the allocation, a PC beyond the range, and a PC with no page. -/
theorem witness_StepTraps : let s := fun (w : Word) => mach (grp 64) 1 w
    (s 0).packet = some (pkt 1 0) ∧ (s 0).group? 0 = some (grp 64) ∧ (grp 64).ended = false ∧ (grp 64).waitOf 4 0 = none ∧ (s 0).fetchFor (grp 64) 4 = .word 0 0 ∧ decodeWord 0 = .error .zeroWord
    ∧ (s 0x38000000).fetchFor (grp 64) 4 = .word 0 0x38000000 ∧ decodeWord 0x38000000 = .error .extension ∧ (s 0x0C010000).fetchFor (grp 64) 4 = .word 0 0x0C010000 ∧ decodeWord 0x0C010000 = .ok (.ballot 1 0 0)
    ∧ (uses 64 (.ballot 1 0 0)).shapeOk = false ∧ (uses 64 (.add 4 8 0 12 0)).shapeOk = true ∧ (12 : Reg) ∈ (uses 64 (.add 4 8 0 12 0)).named ∧ { grp 64 with alloc := 12 }.alloc ≤ (12 : Reg).val
    ∧ (0x400000000004#64).toNat / 2 ^ 46 % 2 ^ 11 ≠ 0 ∧ (4#64).toNat / 2 ^ 46 % 2 ^ 11 = 0
    ∧ (∀ q ∈ (s 0).mem.pages, q.asid = 0 → q.la ≤ (0x40004#64).toNat % 2 ^ 46 → (0x40004#64).toNat % 2 ^ 46 < q.la + q.size → q.nx = true ∨ ((grp 64).hnd = true ∧ q.pin = false)) := by
  refine ⟨rfl, rfl, rfl, rfl, by decide +kernel, rfl, by decide +kernel, rfl, by decide +kernel, rfl, by decide +kernel, by decide +kernel, by decide +kernel, by decide, by decide, by decide, ?_⟩
  decide +kernel
theorem witness_StepKeepsMemory : State.reset.cellsOk = true ∧ ∃ t, step (mach (grp 16) 1 0x42030) = .next t := ⟨rfl, _, rfl⟩
/-- A cause with a handler's entry and EXT_EMU, in a group outside a handler. -/
theorem witness_TrapEntersHandler : let s := mach (grp 16)
    s.group? 0 = some (grp 16) ∧ (grp 16).hnd = false ∧ s.isRecompute (grp 16) = false ∧ Cause.illegal.entry ≠ .park ∧ Cause.extEmu.entry ≠ .park ∧ s.trapvec (s.asidOf (grp 16)) ≠ 0 := by
  refine ⟨rfl, ?_⟩
  decide +kernel
/-- A group in a handler, a group of a recompute launch, a cause that parks, and a group with no handler set. -/
theorem witness_TrapParksOrKills : let s := mach (grp 16)
    let r : State := { s with launches := [(0, { lnch with origin := .recompute 2 none })] }
    (mach { grp 16 with hnd := true }).group? 0 = some { grp 16 with hnd := true } ∧ s.launchOf (grp 16) = some lnch ∧ lnch.cause = none ∧ lnch.st ≠ .complete ∧ lnch.st ≠ .killed ∧ (grp 16).hnd = false
    ∧ r.isRecompute (grp 16) = true ∧ Cause.pageFault.entry = .park ∧ ((grp 16).lane 0).live = true ∧ (((grp 16).modLane 0 fun l => { l with st := .exited }).lane 0).live = false ∧ ({ s with dev := { s.dev with asids := [] } } : State).trapvec 0 = 0 ∧ s.isRecompute (grp 16) = false := by
  refine ⟨rfl, rfl, ?_⟩
  decide +kernel
/-- Lane 0 names 4 of the PRIVATE page in v6, 0x20000 of the COHERENT page in v8, and the scratchpad in v10. -/
def addrs : Group := regs [(4, 9), (6, 4), (7, 0x10000000), (8, 0x20000), (9, 0x10000000), (10, 0x40), (11, 0xF0000000)]
/-- A place of the small machine. -/
def plc (pa n : Nat) (attr : Word) : Place := { ea := localEa pa, loc := .phys pa, attr := attr, tile := none, n := n }
/-- The machine with bytes in its window. -/
def win (s : State) (off : Nat) (bs : List Byte) : State := s.modTeam 0 fun t => { t with window := cellsWrite t.window off bs }
/-- A word loaded from a page, and one from the scratchpad. -/
theorem witness_LoadResults : let s := mach addrs
    let c := s.ctxOf 0 addrs
    s.issuing = some (pkt 1, addrs) ∧ addrs.waitOf 4 0 = none ∧ addrs.holds = false
    ∧ (∀ i, (pkt 1).cur.lanes.getLsbD i = true → i < addrs.width →
        s.check c (.load .w32) false (addrs.readPair 0 i 6 + (0#9).signExtend 64 * BitVec.ofNat 64 (loadSize .w32)) = .ok (plc 4 4 0) ∧ s.mustWait c (plc 4 4 0).tile = false ∧ s.readLane c false .w32 (plc 4 4 0) = .words [0])
    ∧ (∀ i, (pkt 1).cur.lanes.getLsbD i = true → i < addrs.width → ∃ q, s.check c (.raw 4) false (addrs.readPair 0 i 10 + (0#9).signExtend 64 * BitVec.ofNat 64 (loadSize .w32)) = .ok q ∧ q.loc = .win 0 0x40 ∧ s.mustWait c q.tile = false
        ∧ s.lineFails c.core q.loc q.n = false ∧ s.readLane c true .w32 q = .words [0]) := by
  refine ⟨rfl, rfl, by decide +kernel, all_lanes (by decide +kernel), all_lanes ⟨{ ea := scratchEa 0x40, loc := .win 0 0x40, attr := 0, tile := none, n := 4 }, ?_⟩⟩
  decide +kernel
/-- A word stored to a page, and one to the scratchpad, when the stores of this step are performed at once and when they are not. -/
theorem witness_StoreResults : ∀ late : Bool, let s := { mach addrs with lateStores := late }
    let c := s.ctxOf 0 addrs
    s.lateStores = late ∧ s.issuing = some (pkt 1, addrs) ∧ addrs.waitOf 4 0 = none ∧ addrs.holds = false ∧ s.certified addrs = false ∧ s.queueOf addrs.core = [] ∧ s.cellsOk = true ∧ s.dev.changes = []
    ∧ (∀ i, (pkt 1).cur.lanes.getLsbD i = true → i < addrs.width →
        s.check c (.store .w32) true (addrs.readPair 0 i 8 + (0#9).signExtend 64 * BitVec.ofNat 64 (storeSize .w32)) = .ok (plc 0x20000 4 128) ∧ s.mustWait c (plc 0x20000 4 128).tile = false)
    ∧ (∀ i, (pkt 1).cur.lanes.getLsbD i = true → i < addrs.width → ∃ q, s.check c (.raw 4) true (addrs.readPair 0 i 10 + (0#9).signExtend 64 * BitVec.ofNat 64 (storeSize .w32)) = .ok q ∧ q.loc = .win 0 0x40 ∧ s.mustWait c q.tile = false) := by
  intro late
  refine ⟨rfl, rfl, rfl, by decide +kernel, by cases late <;> decide +kernel, by cases late <;> decide +kernel, by cases late <;> decide +kernel, rfl, all_lanes (by cases late <;> decide +kernel), all_lanes ⟨{ ea := scratchEa 0x40, loc := .win 0 0x40, attr := 0, tile := none, n := 4 }, ?_⟩⟩
  cases late <;> decide +kernel
theorem witness_AtomicValues : (∃ op, atomSize op = 4) ∧ ∃ op, atomSize op = 8 := ⟨⟨.add, rfl⟩, ⟨.add64, rfl⟩⟩
/-- Atomics of 4 and of 8 bytes of one lane on the COHERENT page. -/
theorem witness_AtomicResults : let s := mach addrs
    let c := s.ctxOf 0 addrs
    s.issuing = some (pkt 1, addrs) ∧ addrs.waitOf 4 0 = none ∧ s.certified addrs = false ∧ s.atomsWait 0 addrs = false ∧ s.cellsOk = true ∧ s.dev.changes = [] ∧ addrs.list (pkt 1).cur.lanes = [0]
    ∧ s.check c (.raw 4) true (addrs.readPair 0 0 8 + (0#9).signExtend 64 * BitVec.ofNat 64 4) = .ok (plc 0x20000 4 128) ∧ s.check c (.raw 8) true (addrs.readPair 0 0 8 + (0#9).signExtend 64 * BitVec.ofNat 64 8) = .ok (plc 0x20000 8 128)
    ∧ s.mustWait c none = false ∧ s.lineFails c.core (.phys 0x20000) 8 = false := by
  refine ⟨rfl, rfl, ?_⟩
  decide +kernel
/-- An address for each clause: selectors 2 and 14, a nonzero field under selectors 1 and 15, a misaligned and an out-of-window scratchpad address, a tagged word, an unmapped page, a READSHARED page, and a lane that fails. -/
theorem witness_AccessTraps : let s := mach addrs
    let c := s.ctxOf 0 addrs
    let u := s.modTeam 0 fun t => { t with tags := [16] }
    s.issuing = some (pkt 1, addrs) ∧ addrs.waitOf 4 0 = none ∧ (0x2000000000000000#64).toNat / 2 ^ 60 ∉ [0, 1, 15] ∧ (0xE000000000000000#64).toNat / 2 ^ 60 ∉ [0, 1, 15]
    ∧ ((0x1000400000000000#64).toNat / 2 ^ 60 = 1 ∧ (0x1000400000000000#64).toNat / 2 ^ 46 % 2 ^ 14 ≠ 0) ∧ ((0xF000000100000000#64).toNat / 2 ^ 60 = 15 ∧ (0xF000000100000000#64).toNat / 2 ^ 32 % 2 ^ 28 ≠ 0)
    ∧ (2 % 4 ≠ 0) ∧ s.windowOf (some 0) 4096 4 = none ∧ s.windowOf (some 0) 4092 4 = some (0, 4092) ∧ u.windowOf (some 0) 0x40 4 = some (0, 0x40) ∧ u.coversTag 0 0x40 4 = true
    ∧ s.pageUnder c.tag c.asid 0x40000 = none ∧ (∃ q, s.pageUnder c.tag c.asid 0x10000 = some q ∧ s.firstUnmapped c.tag c.asid 0x10000 4 = none ∧ addrs.hnd = false ∧ attrCoh q.attr = 1)
    ∧ (pkt 1).cur.lanes.getLsbD 0 = true ∧ 0 < addrs.width ∧ s.check c (.load .w32) false (addrs.readPair 0 0 12 + (2#9).signExtend 64 * BitVec.ofNat 64 (loadSize .w32)) = .ok { plc 8 4 0 with ea := 8 }
    ∧ s.check c (.load .w32) false (addrs.readPair 0 0 4 + (0#9).signExtend 64 * BitVec.ofNat 64 (loadSize .w32)) = .bad .misalignedData := by
  refine ⟨rfl, rfl, by simp, by simp, by simp, by simp, by decide, by decide +kernel, by decide +kernel, by decide +kernel, by decide +kernel, by decide +kernel, ⟨{ asid := 0, la := 0x10000, size := 65536, pa := 0x10000, attr := 64 }, ?_⟩, ?_⟩
  · decide +kernel
  · decide +kernel

/-- A rows descriptor of 4-byte rows from 0x20000 to the window, and a multicast descriptor of 4 bytes to two destinations. -/
def rowsBlock : List Byte := bytesOfNat 8 (2 ^ 60 + 0x20000) ++ bytesOfNat 4 4 ++ bytesOfNat 4 4 ++ bytesOfNat 4 0x100 ++ bytesOfNat 4 4 ++ bytesOfNat 8 0
def mcastBlock : List Byte := bytesOfNat 8 (2 ^ 60 + 0x20000) ++ bytesOfNat 4 4 ++ bytesOfNat 4 2 ++ bytesOfNat 8 0 ++ bytesOfNat 8 (15 * 2 ^ 60 + 0x100) ++ bytesOfNat 8 (15 * 2 ^ 60 + 0x104)
/-- Copies in and out whose ends pass, a busy and an idle token, and both descriptors. -/
theorem witness_CopyInstructions : let g := regs [(4, 0x80), (6, 4), (7, 0x10000000), (8, 3), (10, 0x40), (11, 0xF0000000)]
    let s := win (mach g) 0x40 rowsBlock
    let m := win (mach g) 0x40 mcastBlock
    let c := s.ctxOf 0 g
    s.issuing = some (pkt 1, g) ∧ g.waitOf 4 0 = none
    ∧ (∀ w : Bool, ∀ i, (pkt 1).cur.lanes.getLsbD i = true → i < g.width → (∃ q, s.check c (.raw 4) (!w) (g.readPair 0 i 6 + (0#9).signExtend 64 * BitVec.ofNat 64 (copyBytes .b4)) = .ok q)
        ∧ ∃ q, s.check c (.raw 4) w (BitVec.ofNat 64 (15 * 2 ^ 60 + (g.read 0 i 4).toNat)) = .ok q)
    ∧ (g.token 2).st ≠ .busy ∧ ({ g with tokens := g.tokens.set 2 { st := .busy, left := 1, bad := false } }.token 2).st = .busy
    ∧ (∀ i, (pkt 1).cur.lanes.getLsbD i = true → i < g.width → s.descriptor c (g.readPair 0 i 10) 32 32 = .ok rowsBlock ∧ rowsOk rowsBlock = true)
    ∧ (∀ i, (pkt 1).cur.lanes.getLsbD i = true → i < g.width → m.descriptor c (g.readPair 0 i 10) 8 0x18 = .ok (mcastBlock.take 0x18) ∧ m.descriptor c (g.readPair 0 i 10) 8 (0x18 + 8 * fieldAt (mcastBlock.take 0x18) 0xC 1) = .ok mcastBlock
        ∧ fieldAt mcastBlock 0xC 1 = fieldAt (mcastBlock.take 0x18) 0xC 1 ∧ mcastOk mcastBlock (g.read 0 i 8) = true) := by
  refine ⟨by decide +kernel, rfl, ?_, by decide +kernel, by decide +kernel, all_lanes ⟨of_okIs (by decide +kernel), by decide +kernel⟩, all_lanes ⟨of_okIs (by decide +kernel), of_okIs (by decide +kernel), by decide +kernel, by decide +kernel⟩⟩
  intro w
  refine all_lanes ⟨⟨plc 4 4 0, ?_⟩, ⟨{ ea := scratchEa 0x80, loc := .win 0 0x80, attr := 0, tile := none, n := 4 }, ?_⟩⟩ <;> revert w <;> decide +kernel
/-- The machine with one copy outstanding. -/
def copying (x : Copy) : State :=
  let s := mach (grp 16)
  { s with eng := { s.eng with copies := [(3, x)] } }
/-- A batch copy, a gather and a multicast whose turn has come. -/
theorem witness_CopyCompletions : let b := aCopy none
    let r : Copy := { aCopy none with kind := .rows 1, token := some 2, src := localEa 0x20000, dsts := [scratchEa 0x100] }
    let m : Copy := { aCopy none with kind := .mcast true 3, token := some 2, src := localEa 0x20000, dsts := [scratchEa 0x100, scratchEa 0x104] }
    let b := { b with kind := .batch (some 0) }
    let dp : List Place := [{ ea := scratchEa 0x100, loc := .win 0 0x100, attr := 0, tile := none, n := 4 }]
    (∀ x ∈ [b, r, m], (copying x).copy? 3 = some x ∧ (copying x).copyTurn 3 x = true ∧ x.awaiting = [] ∧ x.failed = none ∧ x.phase = 0 ∧ (((copying x).launch? x.launch).map (·.kern.ordered)).getD false = false)
    ∧ (∃ sp, (copying b).range ((copying b).copyCtx b) false b.src b.len = .here sp ∧ (copying b).readRange ((copying b).copyCtx b) sp = .bytes [0, 0, 0, 0])
    ∧ (∃ dp, (copying b).range ((copying b).copyCtx b) true (b.dsts.headD 0) b.len = .here dp ∧ (copying b).waitTile ((copying b).copyCtx b) dp = none)
    ∧ (copying r).group? r.gid = some (grp 16) ∧ (grp 16).ended = false ∧ (∀ x ∈ r.sources 1, ∃ la, (copying r).target x = some (.here la)) ∧ (∀ x ∈ r.sources 1, ∀ dev la, (copying r).target x ≠ some (.remote dev la)) ∧ (copying r).gatherWait r ((copying r).copyCtx r) (r.sources 1) = none
    ∧ (copying r).windowOf (some r.team) (r.desc.toNat % 2 ^ 32) 32 = some (0, 0) ∧ ((copying r).team? 0).isSome = true ∧ (copying r).cellsOk = true ∧ (copying r).coversTag 0 (0 + 0x18) 4 = false ∧ (copying r).resident (grp 16) = true
    ∧ r.sources 1 = [localEa 0x20000] ∧ (copying r).range ((copying r).copyCtx r) false (localEa 0x20000) r.len = .here [plc 0x20000 4 128] ∧ (copying r).readRange ((copying r).copyCtx r) [plc 0x20000 4 128] = .bytes [0, 0, 0, 0]
    ∧ (copying r).range ((copying r).copyCtx r) true (r.dsts.headD 0 + BitVec.ofNat 64 (r.dpitch * 0)) r.len = .here dp
    ∧ (copying m).mcastAsks m 3 = [] ∧ (∃ sp, (copying m).range ((copying m).copyCtx m) false m.src m.len = .here sp ∧ (copying m).readRange ((copying m).copyCtx m) sp = .bytes [0, 0, 0, 0])
    ∧ (∀ j, ∃ ps, (copying m).range ((copying m).copyCtx m) true (m.dsts.getD j 0) m.len = .here ps ∧ (copying m).waitTile ((copying m).copyCtx m) ps = none) := by
  refine ⟨by decide +kernel, ⟨[plc 0 4 0], by decide +kernel, rfl⟩, ⟨[plc 0x20000 4 128], by decide +kernel⟩, by decide +kernel, rfl, ?_, ?_, by decide +kernel, by decide +kernel, by decide +kernel, by decide +kernel, by decide +kernel, by decide +kernel, by decide +kernel, by decide +kernel, rfl, by decide +kernel,
    by decide +kernel, ⟨[plc 0x20000 4 128], by decide +kernel, rfl⟩, ?_⟩
  · intro x hx
    refine ⟨0x20000, ?_⟩
    have : localEa 0x20000 = x := by simpa [Copy.sources, bitsOf] using hx
    rw [← this]
    decide +kernel
  · intro x hx dev la h
    have : localEa 0x20000 = x := by simpa [Copy.sources, bitsOf] using hx
    rw [← this] at h
    have e : (copying { aCopy none with kind := .rows 1, token := some 2, src := localEa 0x20000, dsts := [scratchEa 0x100] }).target (localEa 0x20000) = some (.here 0x20000) := by decide +kernel
    exact absurd (e.symm.trans h) (by simp)
  · intro j
    match j with
    | 0 => exact ⟨[{ ea := scratchEa 0x100, loc := .win 0 0x100, attr := 0, tile := none, n := 4 }], by decide +kernel⟩
    | 1 => exact ⟨[{ ea := scratchEa 0x104, loc := .win 0 0x104, attr := 0, tile := none, n := 4 }], by decide +kernel⟩
    | k + 2 =>
      refine ⟨[{ ea := 0, loc := .phys 0, attr := 0, tile := none, n := 4 }], ?_⟩
      change State.range _ _ true (0 : DWord) 4 = _ ∧ _
      decide +kernel
/-- A circular buffer of 4 slots at 0x80 of the window: 1 slot counted for the producer and 2 for the consumer, both positions 0. -/
def ring : List Byte := bytesOfNat 8 0 ++ bytesOfNat 8 4 ++ bytesOfNat 2 1 ++ bytesOfNat 6 0 ++ bytesOfNat 2 2 ++ bytesOfNat 6 0
/-- A get that is served and a put that fits, with the largest numbers of slots that do, and one slot more of each. -/
theorem witness_BufferResults : let g := regs [(6, 0x90), (7, 0xF0000000)]
    let s := win (mach g) 0x80 ring
    let c := s.ctxOf 0 g
    let e : CbufEnd := { team := 0, off := 0x80, producer := true }
    s.cellsOk = true ∧ s.cbTagged e = false ∧ s.cbFails e = false ∧ s.issuing = some (pkt 1, g) ∧ g.waitOf 4 0 = none ∧ s.certified g = false ∧ (∀ x ∈ s.mem.storeQ, x.gid ≠ (pkt 1).gid) ∧ s.eng.staged = [] ∧ s.eng.lates = [] ∧ g.list (pkt 1).cur.lanes = [0] ∧ s.cbufAt c (g.readPair 0 0 6) = .ok e ∧ s.nslot e = 4 ∧ (4#9).toNat ≤ s.nslot e
    ∧ s.performed 0 g .cluster = true ∧ s.cbField e e.other + (1#9).toNat + s.cbField e e.count ≤ 4 ∧ g.loadsReturned = true ∧ s.cbReady e (0, 0) (1#9).toNat = true ∧ s.cbField e e.count ≤ 4 ∧ s.cbField e (e.count + 2) < 4
    ∧ 4 < s.cbField e e.other + (2#9).toNat + s.cbField e e.count ∧ (2#9).toNat ≤ s.nslot e ∧ s.cbReady e (0, 0) (2#9).toNat = false := by
  refine ⟨by decide +kernel, by decide +kernel, by decide +kernel, by decide +kernel, rfl, by decide +kernel, by decide +kernel, rfl, rfl, by decide +kernel, of_okIs (by decide +kernel), ?_⟩
  decide +kernel
/-- A group that waits for a slot which has come: cbuf.get of one slot, its address in v6. -/
theorem witness_BufferResults_grant : let w := aWait (.cbuf 0 [0]) 0x50106001
    let g := { regs [(6, 0x90), (7, 0xF0000000)] with waits := [w] }
    let s := win (mach g) 0x80 ring
    let e : CbufEnd := { team := 0, off := 0x80, producer := true }
    s.cellsOk = true ∧ s.cbTagged e = false ∧ s.cbFails e = false ∧ s.group? 0 = some g ∧ s.resident g = true ∧ g.cbufWait = some (w, [0]) ∧ s.waitingGets 0 g w [0] = [(0, e)] ∧ s.cbReady e (0, 0) (lmF w.slot.word) = true ∧ 1 ≤ s.nslot e ∧ s.nslot e ≤ 4096
    ∧ s.cbField e e.count ≤ s.nslot e ∧ s.cbField e (e.count + 2) < s.nslot e := by
  decide +kernel
/-- A queue of 16 entries at 0x100 of the window with a number of entries pushed, its ring at 0x140. -/
def queue (n : Nat) : List Byte := bytesOfNat 8 (15 * 2 ^ 60 + 0x140) ++ bytesOfNat 8 16 ++ bytesOfNat 4 0 ++ bytesOfNat 4 n ++ bytesOfNat 4 n ++ bytesOfNat 4 0
/-- The machine with that queue; v6 names it. -/
def queued (n : Nat) (g : Group) : State := win (mach g) 0x100 (queue n)
/-- The queue as the model sees it. -/
def theQueue : Queue :=
  { ref := { loc := .win 0 0x100, tile := none }, ea := scratchEa 0x100, place := { ea := scratchEa 0x100, loc := .win 0 0x100, attr := 128, tile := none, n := 64 }, base := scratchEa 0x140, cap := 16 }
/-- A queue of 16 entries at 0x20100 of the COHERENT page with a number of entries pushed, its ring at 0x20140, a second group of the team that pushes nothing, and the queue as the model sees it. -/
def homed (n : Nat) (g : Group) : State :=
  let s := poke (mach g) 0x20100 (bytesOfNat 8 (2 ^ 60 + 0x20140) ++ bytesOfNat 8 16 ++ bytesOfNat 4 0 ++ bytesOfNat 4 n ++ bytesOfNat 4 n ++ bytesOfNat 4 0)
  { s with groups := s.groups ++ [(1, { g with index := 1 })], teams := s.teams.map fun x => (x.1, { x.2 with groups := [0, 1] }) }
def homeQueue : Queue :=
  { ref := { loc := .phys 0x20100, tile := none }, ea := localEa 0x20100, place := plc 0x20100 64 128, base := localEa 0x20140, cap := 16 }
/-- Does a waiting queue instruction go on with these lanes and queues? -/
def goes (x : QueueTurn) (ls : List (Nat × Queue)) : Bool := match x with
  | .go l => l == ls
  | .act _ => false
  | .stay => false
/-- Pushes that find room for the last entry and none; pops that find an entry and none. -/
theorem witness_QueueResults : let g := regs [(6, 0x100), (7, 0xF0000000)]
    let s := queued 15 g
    let f := queued 16 g
    let c := s.ctxOf 0 g
    let ls := [(0, theQueue)]
    let pops := fun (s : State) => (s.flushQueues c ls).popClaims 0 c ls
    s.issuing = some (pkt 1, g) ∧ g.waitOf 4 0 = none ∧ s.certified g = false ∧ (∀ x ∈ s.mem.storeQ, x.gid ≠ (pkt 1).gid) ∧ g.deferredFor Deferred.atBlocking = none ∧ okIs (s.queueLanes c true g (pkt 1).cur.lanes 6) ls = true
    ∧ okIs (f.queueLanes c true g (pkt 1).cur.lanes 6) ls = true ∧ okIs (s.queueLanes c false g (pkt 1).cur.lanes 6) ls = true
    ∧ worst (overCap ls) = none ∧ (s.flushQueues c ls).queueTile c ls = none ∧ (s.flushQueues c ls).pushRoom c ls = true ∧ (f.flushQueues c ls).pushRoom c ls = false
    ∧ worst (overCap ls ++ (s.flushQueues c ls).foreign c (((s.teamOf g).map (·.btag)).getD 0) ls) = none
    ∧ ((pops s).popsOf g).all ((pops s).popReady c) = true ∧ (∀ q ∈ (pops s).popsOf g, ((pops s).claimValues c q).2 = []) ∧ ((pops (queued 0 g)).popsOf g).all ((pops (queued 0 g)).popReady c) = false := by
  decide +kernel
/-- A queue of HBM4 with room for one more entry, pushed by one lane of a group; another group of the team has not reached the round. -/
theorem witness_QueueResults_memory : let g := regs [(6, 0x20100), (7, 0x10000000)]
    let s := homed 15 g
    let c := s.ctxOf 0 g
    let ls := [(0, homeQueue)]
    let u := s.flushQueues c ls
    let v := u.flushQueue c homeQueue
    ∃ tm, s.issuing = some (pkt 1, g) ∧ okIs (s.queueLanes c true g (pkt 1).cur.lanes 6) ls = true ∧ worst (overCap ls) = none ∧ u.queueTile c ls = none ∧ u.pushRoom c ls = true
    ∧ queuesOf ls = [homeQueue] ∧ attrPrivate homeQueue.place.attr = false ∧ s.teamOf g = some tm ∧ s.cellsOk = true ∧ s.dev.changes = [] ∧ s.eng.pushes = [] ∧ (∀ x ∈ s.teams, x.2.pops = []) ∧ (∀ x ∈ s.eng.staged, x.gid ≠ (pkt 1).gid)
    ∧ lanesNaming ls homeQueue.ref = [0] ∧ fieldAt (v.bytesAt none false (.phys 0x20100) 64) 8 4 = 16
    ∧ v.checkBytes c false (BitVec.ofNat 64 (fieldAt (v.bytesAt none false (.phys 0x20100) 64) 0 8) + BitVec.ofNat 64 (4 * ((fieldAt (v.bytesAt none false (.phys 0x20100) 64) 0x18 4 + 0) % 16))) 4 = .ok (plc (0x20140 + 60) 4 128)
    ∧ ∃ x ∈ s.groupsOf tm, x.1 ≠ (pkt 1).gid ∧ x.2.reached homeQueue.ref (tm.committed homeQueue.ref) true = false := by
  refine ⟨((homed 15 (regs [(6, 0x20100), (7, 0x10000000)])).team? 0).getD placedTeam, rfl, ?_⟩
  decide +kernel
/-- A group that waits to push and one that waits to pop, both of which may go on. -/
theorem witness_QueueResults_events : let w := aWait (.queuePush 0) 0x52106000
    let g := { regs [(6, 0x100), (7, 0xF0000000)] with waits := [w] }
    let s := queued 1 g
    let k := { s.ctxOf 0 g with tag := 0 }
    let v := aWait (.queuePop 0) 0x54106000
    let h := { regs [(6, 0x100), (7, 0xF0000000)] with waits := [v] }
    let u := queued 1 h
    let m := { u.ctxOf 0 h with tag := 0 }
    let z := u.popClaims 0 m [(0, theQueue)]
    s.group? 0 = some g ∧ s.pushWait 0 g = some (w, k) ∧ goes (s.queueTurn 0 g w k) [(0, theQueue)] = true ∧ s.queueTile k [(0, theQueue)] = none ∧ s.pushRoom k [(0, theQueue)] = true
    ∧ u.group? 0 = some h ∧ u.popWait 0 h = some (v, m) ∧ goes (u.queueTurn 0 h v m) [(0, theQueue)] = true ∧ (z.popsOf h).all (z.popReady m) = true ∧ ∀ q ∈ z.popsOf h, (z.claimValues m q).2 = [] := by
  decide +kernel
/-- A block of bytes with fields set: offset, size, value. -/
def blk (n : Nat) (fs : List (Nat × Nat × Nat)) : List Byte := fs.foldl (fun b f => b.take f.1 ++ bytesOfNat f.2.1 f.2.2 ++ b.drop (f.1 + f.2.1)) (List.replicate n 0)
/-- A bucket of 2 with no arrival, which this one does not fill, and one of 1, which it does. -/
theorem witness_BucketResults : let g := regs [(6, 0x20000), (7, 0x10000000)]
    let s := poke (mach g) 0x20000 (bytesOfNat 8 2)
    let t := poke (mach g) 0x20000 (bytesOfNat 8 1)
    let c := s.ctxOf 0 g
    s.issuing = some (pkt 1, g) ∧ g.waitOf 4 0 = none ∧ s.certified g = false ∧ s.eng.staged = [] ∧ g.deferredFor Deferred.atRelease = none ∧ s.performed 0 g .system = true ∧ s.cellsOk = true ∧ t.cellsOk = true ∧ s.dev.changes = [] ∧ g.list (pkt 1).cur.lanes = [0]
    ∧ s.bucketAt c (fun _ => 0) (g.readPair 0 0 6) = .ok (plc 0x20000 32 128) ∧ t.bucketAt c (fun _ => 0) (g.readPair 0 0 6) = .ok (plc 0x20000 32 128) ∧ s.tileBefore c none (.phys 0x20000) 32 true = none ∧ t.tileBefore c none (.phys 0x20000) 32 true = none
    ∧ (fieldAt ((s.writeBack 0).bytesAt none false (.phys 0x20000) 32) 4 4 + 1) % 2 ^ 32 ≠ fieldAt ((s.writeBack 0).bytesAt none false (.phys 0x20000) 32) 0 4
    ∧ (fieldAt ((t.writeBack 0).bytesAt none false (.phys 0x20000) 32) 4 4 + 1) % 2 ^ 32 = fieldAt ((t.writeBack 0).bytesAt none false (.phys 0x20000) 32) 0 4
    ∧ fieldAt ((t.writeBack 0).bytesAt none false (.phys 0x20000) 32) 0x10 8 = 0 := by
  refine ⟨by decide +kernel, rfl, by decide +kernel, rfl, rfl, by decide +kernel, by decide +kernel, by decide +kernel, rfl, by decide +kernel, by decide +kernel, by decide +kernel, rfl, rfl, ?_⟩
  decide +kernel
/-- A bucket of 1 whose POST is a collective of this device alone. -/
theorem witness_BucketResults_post : let g := regs [(6, 0x20000), (7, 0x10000000)]
    let t := poke (poke (mach g) 0x20000 (bytesOfNat 4 1 ++ bytesOfNat 12 0 ++ bytesOfNat 8 0x1000000000020040)) 0x20040 (blk 80 [(0x10, 1, 4), (0x16, 2, 1), (0x18, 2, 1), (0x1C, 4, 1)])
    let c := t.ctxOf 0 g
    t.bucketAt c (fun _ => 0) (g.readPair 0 0 6) = .ok (plc 0x20000 32 128) ∧ t.tileBefore c none (.phys 0x20000) 32 true = none ∧ t.performed 0 g .system = true ∧ t.cellsOk = true
    ∧ (fieldAt ((t.writeBack 0).bytesAt none false (.phys 0x20000) 32) 4 4 + 1) % 2 ^ 32 = fieldAt ((t.writeBack 0).bytesAt none false (.phys 0x20000) 32) 0 4
    ∧ fieldAt ((t.writeBack 0).bytesAt none false (.phys 0x20000) 32) 0x10 8 = 0x1000000000020040 ∧ t.target (BitVec.ofNat 64 0x1000000000020040) = some (.here 0x20040) := by
  refine ⟨by decide +kernel, by decide +kernel, by decide +kernel, by decide +kernel, by decide +kernel, by decide +kernel, by decide +kernel⟩
/-- The machine with a tagged barrier of 2 arrivals at 0x40 of the window, phase 7, and a count arrived. -/
def barred (n : Nat) (g : Group) : State := (win (mach g) 0x40 ((bytesOfNat 4 (7 * 65536 + n * 256 + 2)))).modTeam 0 fun t => { t with tags := [16] }
/-- Counts 1, 255, 0 and 256 for bar.tag; a barrier this arrival ends and one it does not; an untagged word; an arrival of this phase and of the one before. -/
theorem witness_BarrierResults : let g := regs [(4, 255), (6, 0x40), (7, 0xF0000000), (8, 0x40)]
    let s := mach g
    let t := barred 0 g
    let u := barred 1 g
    let pl : Place := { ea := scratchEa 0x40, loc := .win 0 0x40, attr := 0, tile := none, n := 4 }
    s.issuing = some (pkt 1, g) ∧ g.waitOf 4 0 = none ∧ s.certified g = false ∧ (∀ x ∈ s.mem.storeQ, x.gid ≠ (pkt 1).gid) ∧ s.eng.staged = [] ∧ s.cellsOk = true ∧ g.list (pkt 1).cur.lanes = [0] ∧ (g.read 0 0 4).toNat = 255 ∧ s.isScratch (g.readPair 0 0 6 + (0#9).signExtend 64 * 4) = true
    ∧ s.check (s.ctxOf 0 g) (.raw 4) false (g.readPair 0 0 6 + (0#9).signExtend 64 * 4) = .ok pl ∧ s.tagged 0 0x40 = false ∧ barArrived (t.winWord 0 0x40) = 0 ∧ (regs [(4, 256)]).read 0 0 4 = 256 ∧ (regs []).read 0 0 4 = 0
    ∧ okIs (t.barrierAt g (g.read 0 0 8)) (0, 0x40) = true ∧ okIs (u.barrierAt g (g.read 0 0 8)) (0, 0x40) = true ∧ errIs (s.barrierAt g (g.read 0 0 8)) .badBarrier = true ∧ g.arrival = none ∧ g.deferredFor Deferred.atRelease = none
    ∧ t.performed 0 g (barrierScope g 0) = true ∧ ¬ barCount (t.winWord 0 0x40) ≤ barArrived (t.winWord 0 0x40) + 1 ∧ barCount (u.winWord 0 0x40) ≤ barArrived (u.winWord 0 0x40) + 1
    ∧ { g with arrival := some (0x40, 6) }.arrival = some (g.read 0 0 8, 6) ∧ barPhase (t.winWord 0 0x40) ≠ 6 ∧ barPhase (t.winWord 0 0x40) = 7 ∧ g.deferredFor Deferred.atBlocking = none ∧ g.loadsReturned = true
    ∧ { g with sb := [{ id := 0, pc := 4, lanes := 1, regs := [], vals := [], due := 0, kind := .held 0, op := .nothing, rows := [], epoch := 0 }] }.loadsReturned = false ∧ (regs [(4, 256)]).list 1 = [0] ∧ 255 < (regs [(4, 256)] |>.read 0 0 4).toNat := by
  decide +kernel
/-- The machine with a page of recipe tiles at 0x40000 and tile 16 as given; kernel 1 is a recipe kernel. -/
def tiled (g : Group) (t : Tile) : State :=
  let s := loaded g
  { s with sched := { s.sched with kernels := [(1, { lnch.kern with image := 1, recipe := true })] }
           mem := { s.mem with pages := { asid := 0, la := 0x40000, size := 65536, pa := 0x40000, attr := 0x2080 } :: s.mem.pages, tiles := [(16, t)] } }
/-- A record of kernel 1 with no sources. -/
def recipe : List Byte := bytesOfNat 4 1 ++ List.replicate 16 0xFF ++ bytesOfNat 12 0
/-- A tile. -/
def aTile (r : Option (List Byte)) (pins : Nat) : Tile := { record := r, pins := pins, bdepth := 0, st := .valid, builds := 0, build := none, wants := [], ending := none }
/-- Tiles with and without a record, with no pin, one and the most. -/
theorem witness_RecipeResults : let g := regs [(4, 0x40), (6, 0x40000), (7, 0x10000000)]
    let s := win (tiled g (aTile none 0)) 0x40 recipe
    s.issuing = some (pkt 1, g) ∧ g.waitOf 4 0 = none ∧ g.list (pkt 1).cur.lanes = [0] ∧ okIs (s.tileAt (s.ctxOf 0 g) (g.readPair 0 0 6)) (16, 0x2080) = true
    ∧ okIs (s.descriptor (s.ctxOf 0 g) (scratchEa (g.read 0 0 4).toNat) 32 32) recipe = true ∧ s.recordOk 0 recipe = true ∧ (s.tile 16).st ≠ .building ∧ recSources recipe = []
    ∧ (win (tiled g (aTile none 0)) 0x40 (List.replicate 32 1)).recordOk 0 (List.replicate 32 1) = false ∧ ((win (tiled g { aTile none 0 with st := .building }) 0x40 recipe).tile 16).st = .building
    ∧ ((tiled g (aTile (some recipe) 0)).tile 16).st = .valid ∧ ((tiled g (aTile (some recipe) 0)).tile 16).record ≠ none ∧ attrCoh 0x2080 ≠ 1 ∧ (s.tile 16).record = none
    ∧ (s.tile 16).pins = 0 ∧ ((tiled g (aTile none 65534)).tile 16).pins ≠ 65535 ∧ ((tiled g (aTile none 65535)).tile 16).pins = 65535 ∧ ((tiled g (aTile none 1)).tile 16).pins ≠ 0
    ∧ (let u := tiled g (aTile (some recipe) 0)
       let v : State := { u with mem := { u.mem with pages := u.mem.pages.map fun q => { q with attr := if q.la = 0x40000 then 0x2040 else q.attr } } }
       okIs (v.tileAt (v.ctxOf 0 g) (g.readPair 0 0 6)) (16, 0x2040) = true ∧ attrCoh 0x2040 = 1) := by
  decide +kernel
/-- The EA of an address of the COHERENT page, as a block holds it. -/
def near (n : Nat) : Nat := 2 ^ 60 + 0x20000 + n
/-- A block of each engine command that passes its rules; a queue descriptor lies at 0x100 of the window. -/
def blocks : List (EngineKind × List Byte) :=
  [(.mmLdw, blk 64 [(0x31, 1, 1), (0x32, 2, 1), (0x34, 2, 1)]), (.mmSwapw, blk 32 []), (.mmRun, blk 96 [(0x10, 8, near 64), (0x50, 4, 1), (0x54, 4, 1), (0x58, 4, 1), (0x5E, 1, 2)]), (.mmSwapacc, blk 32 [(0x12, 2, 256)]),
   (.mmAccrd, blk 64 [(0x10, 8, near 64), (0x18, 4, 128), (0x1E, 2, 1)]), (.mmAccwr, blk 64 [(0x10, 8, near 64), (0x18, 4, 128), (0x1E, 2, 256)]), (.mmDrain, blk 128 [(0x16, 2, 1), (0x18, 8, near 64)]),
   (.mmRegrow, blk 128 [(0x11, 1, 2), (0x16, 2, 1), (0x18, 8, near 64), (0x30, 8, near 64), (0x38, 8, near 64)])]
  ++ [(.bsAsm, blk 96 [(0x14, 4, 1), (0x18, 8, near 64), (0x40, 8, near 64), (0x50, 8, near 128), (0x58, 4, 1)]), (.bsLu, blk 64 [(0x14, 4, 1), (0x18, 8, near 64)]), (.bsLdl, blk 64 [(0x14, 4, 65536), (0x18, 8, near 64)]),
   (.bsTrsv, blk 64 [(0x11, 1, 3), (0x14, 4, 1), (0x18, 8, near 64)]), (.bsPgs, blk 64 [(0x14, 4, 1), (0x18, 8, near 64), (0x20, 4, 65535)]), (.bsBack, blk 64 [(0x14, 4, 1), (0x18, 8, near 64)]),
   (.srtKeys, blk 48 [(0x20, 4, 1)]), (.srtPairs, blk 48 [(0x18, 4, 1), (0x20, 8, 15 * 2 ^ 60 + 0x100)]), (.trvBuild, blk 48 [(0x1C, 4, 65535)]), (.trvQuery, blk 64 [(0x10, 8, 15 * 2 ^ 60 + 0x100)])]
/-- A command of group 0. -/
def aCmd (k : EngineKind) (b : List Byte) : Cmd :=
  { kind := k, gid := 0, team := 0, launch := 0, core := 0, token := some 2, blockEa := localEa 0x20000, block := b, asid := 0, cert := false, order := 5, posted := 0, items := List.range (itemCount k b), results := [],
    dueAt := 0, started := false, datums := [], outbuf := [], inbuf := [], gate := .ready, tile := none, tileFail := none, epoch := 0 }
/-- The machine with one command of number 1. -/
def commanded (c : Cmd) : State :=
  let s := mach (grp 16)
  { s with eng := { s.eng with cmds := [(1, c)] } }
/-- The machine with a queue at 0x100 of the window and a block at 0x200. -/
def blocked (g : Group) (b : List Byte) : State := win (win (mach g) 0x100 (queue 1)) 0x200 b
/-- A group that names the block in v6. -/
def poster : Group := regs [(6, 0x200), (7, 0xF0000000)]
/-- A block of each engine; a BUSY token and an idle one; a full table and one with room. -/
theorem witness_EnginePosts : let g := poster
    (∀ b, (blocked g b).issuing = some (pkt 1, g)) ∧ g.waitOf 4 0 = none
    ∧ (blocks.all fun x => okIs ((blocked g x.2).laneBlocks (pkt 1) g 6 ((blocked g x.2).readBlock ((blocked g x.2).ctxOf 0 g) g x.1)) [(scratchEa 0x200, x.2)]) = true
    ∧ (blocks.all fun x => ((blocked g x.2).queueBlocked ((blocked g x.2).ctxOf 0 g) x.1 x.2).isNone) = true
    ∧ ({ g with tokens := g.tokens.set 3 { st := .busy, left := 1, bad := false } }.token 3).st = .busy ∧ (g.token 3).st ≠ .busy ∧ (blocked g []).tableUse g.core + 1 ≤ 64
    ∧ 64 < { blocked g [] with eng := { (blocked g []).eng with cmds := (List.range 64).map fun i => (i, aCmd .mmSwapw []) } }.tableUse g.core + 1 := by
  refine ⟨fun _ => rfl, by decide +kernel, ?_⟩
  decide +kernel
/-- A phase command of a group whose one live lane is active, and a collective of this device alone. -/
theorem witness_EnginePosts_others : let g := poster.modLanes 0xFFFE fun l => { l with st := .exited }
    let s := blocked g (blk 32 [])
    let b := blk 80 [(0x10, 1, 4), (0x16, 2, 1), (0x18, 2, 1), (0x1C, 4, 1)]
    let u := blocked g b
    s.issuing = some (pkt 1, g) ∧ s.teamOf g = some { placedTeam with window := s.team? 0 |>.map (·.window) |>.getD [] } ∧ okIs (s.descriptor (s.ctxOf 0 g) (g.readPair 0 (g.lowest 1) 6) 64 32) (blk 32 []) = true
    ∧ s.phaseOk g.team (s.positions { placedTeam with window := s.team? 0 |>.map (·.window) |>.getD [] }) (blk 32 []) = true ∧ (g.token 3).st ≠ .busy ∧ g.liveMask = 1 ∧ s.phaseDiffers placedTeam (scratchEa 0x200) 0 = false
    ∧ (g.list 1).all (fun i => g.readPair 0 i 6 == g.readPair 0 (g.lowest 1) 6) = true ∧ s.tableUse g.core + 1 ≤ 64 ∧ g.deferredFor Deferred.atRelease = none ∧ s.performed 0 g .team = true
    ∧ okIs (u.laneBlocks (pkt 1) g 6 (fun ea => match u.descriptor (u.ctxOf 0 g) ea 64 80 with
          | .error x => .error (x, ea)
          | .ok b => if u.collOk (u.ctxOf 0 g).asid b then .ok b else .error (.badDescriptor, ea))) [(scratchEa 0x200, b)] = true
    ∧ u.performed 0 g .domain = true ∧ u.certified g = false := by
  decide +kernel
/-- An amax word of the COHERENT page, and an item record there. -/
theorem witness_EngineReads : let g := regs [(6, 0x20000), (7, 0x10000000)]
    let s := mach g
    s.issuing = some (pkt 1, g) ∧ g.waitOf 4 0 = none ∧ g.holds = false
    ∧ (∀ i, (pkt 1).cur.lanes.getLsbD i = true → i < g.width → s.amaxCheck (s.ctxOf 0 g) (g.readPair s.cycle i 6) = .ok (plc 0x20000 4 128) ∧ s.mustWait (s.ctxOf 0 g) (plc 0x20000 4 128).tile = false
        ∧ s.readLane (s.ctxOf 0 g) true .w32 (plc 0x20000 4 128) = .words [0])
    ∧ ∀ i, (pkt 1).cur.lanes.getLsbD i = true → i < g.width → s.itemCheck (s.ctxOf 0 g) (g.readPair s.cycle i 6) = .ok (plc 0x20000 64 128) := by
  refine ⟨rfl, rfl, by decide +kernel, all_lanes (by decide +kernel), all_lanes (by decide +kernel)⟩
/-- Does an engine's work come to its end with the command still in the table? -/
def doneWith {α : Type} (x : EngOut α) (f : α → State → Bool) : Bool := match x with
  | .done a s => f a s
  | .fault _ _ _ _ => false
  | .wait _ _ => false
theorem of_doneWith {α : Type} {x : EngOut α} {f : α → State → Bool} (h : doneWith x f = true) : ∃ a s, x = .done a s ∧ f a s = true := by
  cases x with
  | done a s => exact ⟨a, s, rfl, h⟩
  | fault _ _ _ _ => exact absurd h (by simp [doneWith])
  | wait _ _ => exact absurd h (by simp [doneWith])
/-- A pass of one item on a bench. -/
theorem witness_EngineSteps_bench : let c := aCmd .mmRun (blk 96 [(0x10, 8, near 0x80), (0x30, 8, near 0x100), (0x50, 4, 1), (0x54, 4, 1), (0x58, 4, 1)])
    let s := commanded c
    s.benchIdle 0 3 = true ∧ s.benchNext 0 3 = some (1, 0, { (s.cluster 0) with dealPtr := 4 }) ∧ s.cmd? 1 = some c
    ∧ ∃ v u, s.engineRun (runItem (s.cmdEnv c) c (if runStat c.block then s.planeOf c else none) (s.runDepth c) 0) = .done v u ∧ (u.cmd? 1 == some c) = true :=
  ⟨by decide +kernel, by decide +kernel, by decide +kernel, of_doneWith (by decide +kernel)⟩
/-- A batch of one item that is empty, and a sort of one key. -/
theorem witness_EngineSteps_items : let c := aCmd .bsLu (blk 64 [(0x14, 4, 1), (0x18, 8, near 0x80)])
    let s := commanded c
    let e := aCmd .srtKeys (blk 48 [(0x20, 4, 1)])
    let t := commanded e
    (lookup s.eng.solvers 0).getD 0 ≤ s.cycle ∧ s.solverNext 0 = some (1, c) ∧ (∃ o u, s.engineRun (solveItem (s.cmdEnv c) c (c.left.headD 0)) = .done o u ∧ (u.cmd? 1 == some c) = true)
    ∧ (lookup t.eng.sorters (6 * 0 + 5)).getD 0 ≤ t.cycle ∧ t.sortNext 0 = some (1, e) ∧ e.kind = .srtKeys ∧ t.cmd? 1 = some e ∧ sortItem e = some 0 :=
  ⟨by decide +kernel, by decide +kernel, of_doneWith (by decide +kernel), by decide +kernel, by decide +kernel, rfl, by decide +kernel, by decide +kernel⟩
/-- A search of the pairs of one box. -/
theorem witness_EngineSteps_pairs : let c := aCmd .srtPairs (blk 48 [(0x10, 8, near 0x80), (0x18, 4, 1), (0x20, 8, 15 * 2 ^ 60 + 0x100)])
    let s := commanded c
    (lookup s.eng.sorters (6 * 0 + 5)).getD 0 ≤ s.cycle ∧ s.sortNext 0 = some (1, c) ∧ s.cmd? 1 = some c ∧ ∃ x u, s.engineRun (findPairs (s.cmdEnv c) c.block) = .done x u ∧ (x == ([], 0)) = true :=
  ⟨by decide +kernel, by decide +kernel, by decide +kernel, of_doneWith (by decide +kernel)⟩
/-- A sweep of domain 3 that waits for a drain that is over, a sweep of domain 15 that has walked all, and no sweep of domain 0. -/
theorem witness_EngineSteps_sweeps : let w : Sweep := { start := 9, walking := false, pieces := [], at_ := 0, epoch := 0 }
    let s := mach (grp 16)
    let t := { s with dev := { s.dev with sweeps := [(3, w), (15, { w with walking := true })] } }
    lookup t.dev.sweeps (3 : Domain).val = some w ∧ t.draining 3 = false ∧ lookup t.dev.sweeps (15 : Domain).val = some { w with walking := true } ∧ lookup t.dev.sweeps (0 : Domain).val = none := by
  decide +kernel
/-- Sweeps of domain 3 at a page: with a factor, an age of 9, one of 2²³, a failing line, and no decay table. -/
theorem witness_EngineSteps_walk : let w : Sweep := { start := 9, walking := true, pieces := [(0, 0x20000)], at_ := 0, epoch := 0 }
    let s := decayed (grp 16)
    let s := { s with dev := { s.dev with sweeps := [(3, w)] } }
    let bad := { s with mem := { s.mem with checks := [(0x800, 1)] } }
    let e := agedOf (BitVec.ofNat 64 (natOfBytes (cellsRead s.mem.hbm (0x20000 + 8 * w.at_) 8)))
    lookup s.dev.sweeps (3 : Domain).val = some w ∧ (∃ q, s.pageAt 0 0x20000 = some q ∧ q.phys 0x20000 = 0x20000) ∧ s.lineBad none (0x20000 / 64) = false ∧ bad.lineBad none (0x20000 / 64) = true ∧ s.decayFactor w.epoch (3 : Domain).val e.sel ≠ none
    ∧ (mach (grp 16)).decayFactor w.epoch (3 : Domain).val e.sel = none ∧ (mach (grp 16)).lineBad none (0x20000 / 64) = false ∧ ageOf (BitVec.ofNat 64 9) e.stamp < 2 ^ 23 ∧ 2 ^ 23 ≤ ageOf (BitVec.ofNat 64 (2 ^ 23)) e.stamp ∧ s.cellsOk = true ∧ s.dev.changes = [] := by
  refine ⟨by decide +kernel, ⟨_, rfl, by decide +kernel⟩, ?_⟩
  decide +kernel
/-- A drain of domain 3 that starts: its moments lie in an AGED page. -/
theorem witness_EngineSteps_drain : let c := aCmd .mmDrain (blk 128 [(0x10, 1, 1), (0x16, 2, 1), (0x18, 8, near 64), (0x20, 8, near 0x1000), (0x54, 4, 256)])
    let s := commanded c
    let s := { s with mem := { s.mem with pages := s.mem.pages.map fun (q : Page) => { q with attr := if q.la = 0x20000 then 0x780 else q.attr } } }
    lookup s.dev.sweeps (3 : Domain).val = none ∧ s.cmd? 1 = some c ∧ s.drainDomains c = [3]
    ∧ (s.eng.cmds.find? fun x => (x.2.kind == .mmDrain || x.2.kind == .mmRegrow) && !x.2.started && (s.drainDomains x.2).contains (3 : Domain).val && s.drainStarts x.1 x.2) = some (1, c) := by
  decide +kernel
/-- A batch of no items left, whose time has come. -/
theorem witness_EngineEnds : let c := { aCmd .bsLu (blk 64 [(0x14, 4, 1), (0x18, 8, near 0x80)]) with results := [{ item := 0, code := .ok, faddr := 0, flags := 0, detail := 0 }] }
    let s := commanded c
    s.cmd? 1 = some c ∧ c.dueAt ≤ s.cycle ∧ c.kind ≠ .collPost ∧ s.cmdMayRun c = true ∧ s.cmdEnds 1 c = some (s.endCmd 1 c (batchEnd c)) ∧ c.left = [] := by
  refine ⟨by decide +kernel, by decide +kernel, by decide +kernel, by decide +kernel, ?_, by decide +kernel⟩
  rfl
/-- A team of one group that has arrived, for a regroup whose map covers no tagged word. -/
theorem witness_EngineEnds_phase : let g := { grp 16 with waits := [aWait (.phase (scratchEa 0x80)) 0 0xFFFF] }
    let s := (mach g).modTeam 0 fun t => { t with arrived := [(0, scratchEa 0x80, blk 32 [])] }
    let tm := { placedTeam with arrived := [(0, scratchEa 0x80, blk 32 [])] }
    s.team? 0 = some tm ∧ ((s.group? 0).bind Group.phaseSlot).isSome = true ∧ s.windowOf (some 0) ((scratchEa 0x80).toNat % 2 ^ 32) 32 = some (0, 0x80) ∧ s.phaseReady tm = true
    ∧ ((s.group? 0).bind Group.phaseSlot).map (fun x => lmSub x.word) = some 0 ∧ s.coversTag 0 0 (4 * s.positions tm) = false ∧ 0 ∈ tm.groups ∧ s.group? 0 = some g ∧ g.ended = false ∧ g.emptyWait = false ∧ 15 < g.lanes.length
    ∧ (s.movers tm)[sourceIn (s.regroupOrder 0 0 tm) (g.index * g.width + 15)]? ≠ none ∧ (∀ x ∈ s.groupsOf tm, x.2.ended = false) ∧ (s.positionsWhere tm fun g => !g.emptyWait).Pairwise (· < ·) := by
  decide +kernel
/-- A collective of two devices whose posts differ; its gate's claim is stale; its timeout of 1 has passed. -/
theorem witness_EngineEnds_collective : let b := blk 80 [(0x10, 1, 4), (0x16, 2, 1), (0x18, 2, 2), (0x1C, 4, 1), (0x30, 8, 77), (0x38, 8, 1), (0x40, 4, 1)]
    let c := { aCmd .collPost b with gate := .waiting none }
    let x : Collective := { cmd := some 1, posts := [{ device := 0, number := 1, fields := collFields b, gate := none, claim := 1 }, { device := 1, number := 1, fields := [], gate := some 0, claim := 0 }], started := false, bad := none, verdicts := [], parts := [], result := none, gates := [] }
    let s := { commanded c with cycle := 4 }
    let s := { s with eng := { s.eng with colls := [(77, x)] } }
    s.coll? 77 = some x ∧ s.cmd? 1 = some c ∧ allPosted b x = true ∧ disagrees b x = true ∧ (s.claimView (collGateOf b)).isPending = false ∧ fieldAt b 0x40 4 ≠ 0 ∧ s.eng.withdrawn.contains (collId b) = false
    ∧ c.posted + fieldAt b 0x40 4 ≤ s.timebase := by
  decide +kernel
/-- A collective that one of its two devices has not posted when the timeout of the other has passed. -/
theorem witness_EngineEnds_timeout : let b := blk 80 [(0x10, 1, 4), (0x16, 2, 1), (0x18, 2, 2), (0x1C, 4, 1), (0x38, 8, 1), (0x40, 4, 1)]
    let c := aCmd .collPost b
    let x : Collective := { cmd := some 1, posts := [{ device := 0, number := 1, fields := collFields b, gate := some 0, claim := 0 }], started := false, bad := none, verdicts := [], parts := [], result := none, gates := [] }
    let s := { commanded c with cycle := 4 }
    let s := { s with eng := { s.eng with colls := [(collId b, x)] } }
    s.cmd? 1 = some c ∧ c.kind = .collPost ∧ fieldAt b 0x40 4 ≠ 0 ∧ s.coll? (collId b) = some x ∧ allPosted b x = false ∧ s.eng.withdrawn.contains (collId b) = false ∧ c.posted + fieldAt b 0x40 4 ≤ s.timebase := by
  decide +kernel
/-- A core with no packet and one ready group, whose next instruction is a word of zeros. -/
theorem witness_IssueEvents : let s := { mach (grp 16) with packet := none }
    s.packet = none ∧ s.choice 0 = some (0, grp 16) ∧ s.group? 0 = some (grp 16) ∧ s.fetchTile (grp 16) = none ∧ s.slotsOf (grp 16) = [{ pc := 4, word := 0, lanes := 0xFFFF, place := 0 }] := by
  decide +kernel
/-- A group that has idled for the limit, a result whose cycle has come, and one that arrives for two lanes. -/
theorem witness_IssueEvents_results : let e : SbEntry := { id := 9, pc := 4, lanes := 3, regs := [4], vals := [(0, 4, 1), (1, 4, 2)], due := 0, kind := .ready, op := .nothing, rows := [], epoch := 0 }
    let g := { grp 16 with idle := Config.idleLimit, sb := [e] }
    let s := mach g
    s.group? 0 = some g ∧ Config.idleLimit ≤ g.idle ∧ g.hnd = false ∧ s.isRecompute g = false ∧ s.trapvec (s.asidOf g) ≠ 0 ∧ g.sb.find? (fun x => x.id == 9) = some e ∧ e.due ≤ s.cycle ∧ e.kind = .ready := by
  decide +kernel
/-- A load held for a tile that is VALID again, and a store held at the head of its core's queue. -/
theorem witness_IssueEvents_held : let e : SbEntry := { id := 9, pc := 4, lanes := 1, regs := [4], vals := [], due := 0, kind := .held 0x12345678, op := .raw .w32, rows := [{ lane := 0, ea := localEa 0x20000, loc := .phys 0x20000, attr := 128, tile := none, args := [], done := false }], epoch := 0 }
    let g := { grp 16 with sb := [e] }
    let s := mach g
    let t := { mach (grp 16) with mem := { (mach (grp 16)).mem with storeQ := [aStore] } }
    g.sb.find? (fun x => x.id == 9) = some e ∧ s.resident g = true ∧ s.mayResume 0 g e = true ∧ e.op.load? = some (true, .w32)
    ∧ (e.rows.all fun r => !s.mustWait (s.ctxOf 0 g) r.tile && s.readLane { s.entryCtx 0 g e with upTo := some e.id } true .w32 (r.place (e.op.size r)) == .words [0]) = true
    ∧ t.storeLine 0 = [aStore] ∧ t.storeReady aStore = true ∧ t.cellsOk = true ∧ t.dev.changes = []
    ∧ (let w := { aStore with loc := .win 0 0x40 }
       let t := { mach (grp 16) with mem := { (mach (grp 16)).mem with storeQ := [w] } }
       t.storeLine 0 = [w] ∧ t.storeReady w = true ∧ (t.team? 0).isSome = true ∧ t.coversTag 0 0x40 w.bytes.length = false) := by
  decide +kernel
/-- The machine with no packet in issue, its recipe page, and tile 16 as given. -/
def atTile (t : Tile) : State := { tiled (grp 16) t with packet := none }
/-- A tile whose build waits for an entry of class 1, and a chain that ends. -/
theorem witness_TileEvents : let s := atTile { aTile (some recipe) 0 with st := .dropped, wants := [(1, some 0, 1)] }
    let u := atTile { aTile (some recipe) 0 with st := .building, ending := some .recipeDepth }
    ((s.tile 16).wants.find? fun w => (s.reservedEntry w.2.2 w.1).isSome) = some (1, some 0, 1) ∧ (s.tile 16).ending = none ∧ (s.tile 16).record = some recipe ∧ s.kernelOf (keyAsid 16) (recKernel recipe) = some { lnch.kern with image := 1, recipe := true }
    ∧ s.recipeBlock 16 recipe 0 = some [] ∧ s.reservedEntry 1 1 = some 3840 ∧ u.packet = none ∧ (u.tile 16).ending = some .recipeDepth ∧ u.sched.invq = [] ∧ u.sched.replays = [] := by
  decide +kernel
/-- A core whose group's code lies in a tile that is being built. -/
theorem witness_IssueEvents_fetch : let s := mach (grp 16)
    let s := { s with packet := none, mem := { s.mem with pages := s.mem.pages.map fun (q : Page) => { q with attr := if q.la = 0 then 0x2000 else q.attr }, tiles := [(0, { aTile (some recipe) 0 with st := .building, build := some 5 })] } }
    s.packet = none ∧ s.choice 0 = some (0, grp 16) ∧ s.group? 0 = some (grp 16) ∧ s.fetchTile (grp 16) = some (0, 4) ∧ (s.tile 0).st = .building ∧ (s.ctxOf 0 (grp 16)).own = none := by
  decide +kernel
/-- A recompute launch whose one team has ended, and a VALID tile with a record. -/
theorem witness_TileEvents_build : let l := { lnch with origin := .recompute 16 none, teamsEnded := 1 }
    let s := { atTile { aTile (some recipe) 0 with st := .building, build := some 0 } with launches := [(0, l)] }
    let u := atTile (aTile (some recipe) 0)
    s.launch? 0 = some l ∧ (s.tile 16).build = some 0 ∧ l.origin.tile? = some 16 ∧ l.st = .admitted ∧ l.cause = none ∧ l.teamsEnded = l.record.teams ∧ s.quiet 0 = true ∧ (s.tile 16).ending = none
    ∧ (u.tile 16).st = .valid ∧ (u.tile 16).record ≠ none ∧ u.tilePa 16 = some 0x40000 := by
  decide +kernel
/-- The last line of memory good; a failing line of a tile, and one of no tile. -/
theorem witness_TileEvents_patrol : let s := atTile (aTile (some recipe) 0)
    let s := { s with mem := { s.mem with checks := [(0, 1), (0x1000, 1)] } }
    64 * (Config.hbmBytes / 64 - 1) < Config.hbmBytes ∧ s.lineBad none (Config.hbmBytes / 64 - 1) = false ∧ 64 * 0x1000 < Config.hbmBytes ∧ s.lineBad none 0x1000 = true ∧ s.tileOfLine 0x1000 = some 16 ∧ s.lineBad none 0 = true ∧ s.tileOfLine 0 = none := by
  decide +kernel
/-- A change whose epoch is done, and a certified grid whose next participant has closed its segment. -/
theorem witness_TileEvents_changes : let c : Change := { epoch := 3, kind := .unmap 0 0x50000 65536, old := [], reply := none }
    let s := atTile (aTile none 0)
    let s := { s with dev := { s.dev with changes := [c] } }
    let g := { grp 16 with segment := 1 }
    let l := { lnch with kern := { lnch.kern with ordered := true } }
    let u := { mach g with launches := [(0, l)] }
    s.dev.changes = [c] ∧ s.reached c.epoch = true ∧ u.launch? 0 = some l ∧ l.kern.ordered = true ∧ l.st = .admitted ∧ l.cause = none
    ∧ (u.groups.find? fun y => u.launchIdOf y.2 == 0 && u.participantOf y.2 == (u.roundsOf 0).next) = some (0, g) ∧ (u.roundsOf 0).round < g.segment ∧ l.teamsEnded ≠ l.record.teams ∧ u.eng.lates = [] ∧ u.eng.staged = [] ∧ u.directLeft 0 g = false := by
  decide +kernel
/-- The same grid with an arrival that may have its effect, and with a staged store to a DROPPED tile that nothing builds. -/
theorem witness_TileEvents_segments : let g := { grp 16 with segment := 1 }
    let s := { barred 0 g with launches := [(0, { lnch with kern := { lnch.kern with ordered := true } })] }
    let y : Late := { gid := 0, entry := 9, before := 0, epoch := 0, act := .arrive 0 0x40 }
    let s := { s with eng := { s.eng with lates := [y] } }
    let z : Staged := { order := 1, launch := 0, gid := 0, participant := 0, segment := 0, closed := true, awaits := none, op := .write { aStore with loc := .phys 0x40000, tile := some 16 } }
    let u := tiled g { aTile (some recipe) 0 with st := .dropped }
    let u := { u with launches := [(0, { lnch with kern := { lnch.kern with ordered := true } })], eng := { u.eng with staged := [z] } }
    s.eng.lates = [y] ∧ s.lateLaunch y = 0 ∧ s.lateDue y = true ∧ u.eng.lates = [] ∧ u.directLeft 0 g = false ∧ (∀ y ∈ u.eng.copies, y.2.gid ≠ 0) ∧ u.eng.staged = [z]
    ∧ (u.eng.staged.filter fun y => y.launch == 0 && y.participant == (u.roundsOf 0).next && decide (y.segment ≤ (u.roundsOf 0).round) && y.awaits.isNone).findSome? u.stagedTile = some (16, false) ∧ (u.tile 16).idle = true := by
  decide +kernel
/-- Queued launches, OPEN and BOUNDED: one that the calendar takes and one that it does not, which has a completion record. -/
def waiting (r : LaunchRec → LaunchRec) : Launch := { lnch with st := .queued, nextGang := 0, record := r { lnch.record with workbound := 1 } }
/-- The machine with no packet and a launch of number 1. -/
def holding (l : Launch) : State := { mach (grp 16) with packet := none, launches := [(0, lnch), (1, l)] }
theorem witness_LaunchEvents : let o := waiting id
    let b := waiting fun r => { r with bounded := true, deadline := 10 ^ 6 }
    let n := waiting fun r => { r with bounded := true, deadline := 1, compl := 0x20000 }
    (holding o).launch? 1 = some o ∧ o.st = .queued ∧ o.cause = none ∧ (holding o).presented o = true ∧ o.record.bounded = false ∧ o.nextGang * o.kern.gang < o.record.teams
    ∧ (holding b).launch? 1 = some b ∧ (holding b).presented b = true ∧ b.record.bounded = true ∧ b.origin.tile? = none ∧ ((holding b).admitPairs b.record b.kern ((holding b).timebase + 50000)) = some [0]
    ∧ (holding n).launch? 1 = some n ∧ (holding n).presented n = true ∧ (holding n).admitPairs n.record n.kern ((holding n).timebase + 50000) = none ∧ n.hasRecord = true := by
  decide +kernel
/-- An unplaced gang of an admitted launch, with no other. -/
theorem witness_LaunchEvents_place : let k : Gang := { placedGang with launch := 1, teams := [5], cores := [], st := .unplaced }
    let s := { holding { lnch with } with gangs := [(0, placedGang), (3, k)], teams := [(0, placedTeam), (5, { placedTeam with gang := 3, groups := [7], cores := [] })] }
    let s := { s with sched := { s.sched with nextId := 8 } }
    s.packet = none ∧ s.gang? 3 = some k ∧ s.launch? k.launch = some lnch ∧ s.eligible k = true ∧ (∀ x ∈ s.gangs, x.1 ≠ 3 → s.eligible x.2 = true → s.goesBefore x.2 k = true → s.unitFor x.2 = none) ∧ s.unitFor k = some 0
    ∧ (∀ r ∈ k.records, s.lineFails none (.phys r.1) r.2 = false) ∧ 3 < s.sched.nextId := by
  decide +kernel
theorem mem_insertBy {α : Type} (f : α → Nat) (x y : α) : ∀ l : List α, y ∈ insertBy f x l ↔ y = x ∨ y ∈ l := by
  intro l
  induction l with
  | nil => simp [insertBy]
  | cons z r ih =>
    unfold insertBy
    split
    · simp
    · simp [ih, or_left_comm]
theorem mem_sortBy {α : Type} (f : α → Nat) (y : α) (l : List α) : y ∈ sortBy f l ↔ y ∈ l := by
  have h : ∀ (l r : List α), y ∈ l.foldl (fun r x => insertBy f x r) r ↔ y ∈ r ∨ y ∈ l := by
    intro l
    induction l with
    | nil => simp
    | cons x t ih => intro r; simp [ih, mem_insertBy, or_assoc, or_left_comm]
  simpa [sortBy] using h l []
/-- A record that fits at the start of a range, clear of those in use, has a place within a range. -/
theorem ctxPlace_some (ranges used : List (Nat × Nat)) (n a : Nat) (len : Nat) (hr : (a, len) ∈ ranges) (hn : (n + 63) / 64 * 64 ≤ len) (hu : ∀ u ∈ used, u.1 + u.2 ≤ a ∨ a + (n + 63) / 64 * 64 ≤ u.1) :
    ∃ p, ctxPlace ranges used n = some p ∧ ∃ r ∈ ranges, r.1 ≤ p ∧ p + (n + 63) / 64 * 64 ≤ r.1 + r.2 := by
  have h : (ctxPlace ranges used n).isSome := by
    rw [ctxPlace, List.find?_isSome]
    refine ⟨a, (mem_sortBy _ _ _).mpr (List.mem_append_left _ (List.mem_map.mpr ⟨_, hr, rfl⟩)), ?_⟩
    simp only [Bool.and_eq_true, List.any_eq_true, List.all_eq_true, decide_eq_true_eq, Bool.or_eq_true]
    exact ⟨⟨_, hr, Nat.le_refl _, by omega⟩, hu⟩
  obtain ⟨p, hp⟩ := Option.isSome_iff_exists.mp h
  refine ⟨p, hp, ?_⟩
  have := List.find?_some hp
  simp only [Bool.and_eq_true, List.any_eq_true, decide_eq_true_eq] at this
  exact this.1
/-- The records of a gang with one team of one group: three ranges of context memory that each hold any of them hold them all. -/
theorem saveRecords_three (s : State) (x y z : List Byte) (len : Nat) (hx : (x.length + 63) / 64 * 64 ≤ len) (hy : (y.length + 63) / 64 * 64 ≤ len) (hz : (z.length + 63) / 64 * 64 ≤ len)
    (h : s.sched.ctxmem = [(0, len), (len, len), (2 * len, len)]) : ∃ r u, s.saveRecords [] [x, y, z] = some (r, u) := by
  have hput : ∀ (t : State) bs pa, (t.putPhys none false bs pa).sched = t.sched := by
    intro t bs pa
    unfold State.putPhys
    split <;> rfl
  have hm : ∀ r ∈ [(0, len), (len, len), (2 * len, len)], r = (0, len) ∨ r = (len, len) ∨ r = (2 * len, len) := by simp
  obtain ⟨p, hp, r, hr, h1, h2⟩ := ctxPlace_some [(0, len), (len, len), (2 * len, len)] [] x.length 0 len (by simp) hx (by simp)
  have hq : ∃ q, ctxPlace [(0, len), (len, len), (2 * len, len)] [(p, x.length)] y.length = some q ∧ ∃ r ∈ [(0, len), (len, len), (2 * len, len)], r.1 ≤ q ∧ q + (y.length + 63) / 64 * 64 ≤ r.1 + r.2 := by
    rcases hm r hr with rfl | rfl | rfl
    · exact ctxPlace_some _ _ _ len len (by simp) hy (by simp only [List.mem_singleton, forall_eq]; omega)
    · exact ctxPlace_some _ _ _ 0 len (by simp) hy (by simp only [List.mem_singleton, forall_eq]; omega)
    · exact ctxPlace_some _ _ _ 0 len (by simp) hy (by simp only [List.mem_singleton, forall_eq]; omega)
  obtain ⟨q, hq, r', hr', h3, h4⟩ := hq
  have ho : ∃ o, ctxPlace [(0, len), (len, len), (2 * len, len)] [(q, y.length), (p, x.length)] z.length = some o := by
    have all : ∀ a, (a, len) ∈ [(0, len), (len, len), (2 * len, len)] → (q + y.length ≤ a ∨ a + (z.length + 63) / 64 * 64 ≤ q) → (p + x.length ≤ a ∨ a + (z.length + 63) / 64 * 64 ≤ p) →
        ∃ o, ctxPlace [(0, len), (len, len), (2 * len, len)] [(q, y.length), (p, x.length)] z.length = some o := by
      intro a ha h5 h6
      obtain ⟨o, ho, _⟩ := ctxPlace_some _ [(q, y.length), (p, x.length)] z.length a len ha hz (by simp only [List.mem_cons, List.not_mem_nil, or_false, forall_eq_or_imp, forall_eq]; exact ⟨h5, h6⟩)
      exact ⟨o, ho⟩
    rcases hm r hr with rfl | rfl | rfl <;> rcases hm r' hr' with rfl | rfl | rfl <;>
      first
      | exact all 0 (by simp) (by omega) (by omega)
      | exact all len (by simp) (by omega) (by omega)
      | exact all (2 * len) (by simp) (by omega) (by omega)
  obtain ⟨o, ho⟩ := ho
  simp only [State.saveRecords, h, hput, hp, hq, ho]
  exact ⟨_, _, rfl⟩
/-- The machine with a resident OPEN gang whose group waits at a barrier, before the reservation of another launch starts. -/
def swapped : State :=
  let s := { barred 0 { grp 16 with waits := [aWait (.barrier 0x40 7)] } with packet := none }
  { s with sched := { s.sched with resv := [{ launch := 9, pairs := [0], start := 10, stop := 20 }] } }
/-- A length that holds any record of the gang. -/
def recordRoom : Nat := ((swapped.recordsOf 0 placedGang lnch.kern).map fun r => (r.length + 63) / 64 * 64).foldl (· + ·) 0
/-- That machine with three ranges of context memory of that length. -/
def swapping : State := { swapped with sched := { swapped.sched with ctxmem := [(0, recordRoom), (recordRoom, recordRoom), (2 * recordRoom, recordRoom)] } }
theorem witness_LaunchEvents_swap : let s := swapping
    s.packet = none ∧ s.gang? 0 = some placedGang ∧ placedGang.st = .resident ∧ s.gangBlocked placedGang = true ∧ s.gangSettled 0 placedGang = true ∧ s.swapReason placedGang = true ∧ s.kernelFor placedGang = some lnch.kern
    ∧ ∃ r u, s.saveRecords s.ctxUsed (s.recordsOf 0 placedGang lnch.kern) = some (r, u) := by
  obtain ⟨x, y, z, h1, h2⟩ : ∃ x y z, swapping.recordsOf 0 placedGang lnch.kern = [x, y, z] ∧ swapped.recordsOf 0 placedGang lnch.kern = [x, y, z] := ⟨_, _, _, rfl, rfl⟩
  have hl : recordRoom = 0 + (x.length + 63) / 64 * 64 + (y.length + 63) / 64 * 64 + (z.length + 63) / 64 * 64 := by rw [recordRoom, h2]; rfl
  refine ⟨rfl, rfl, rfl, by decide +kernel, by decide +kernel, by decide +kernel, rfl, ?_⟩
  rw [h1]
  exact saveRecords_three _ x y z recordRoom (by omega) (by omega) (by omega) rfl
/-- A reservation at its deadline; a launch at its bound; a launch that is to be killed; one whose one team has ended and one that is killed. -/
theorem witness_LaunchEvents_ends : let r : Reservation := { launch := 0, pairs := [0], start := 0, stop := 0 }
    let l := { lnch with charge := 2 ^ 64 - 1 }
    let c := { lnch with cause := some .killed }
    let e := { lnch with teamsEnded := 1 }
    let k := { lnch with cause := some .killed, st := .killed }
    let s := { mach (grp 16) with packet := none, launches := [(0, l), (1, c), (2, e), (3, k)] }
    let s := { s with sched := { s.sched with resv := [r] } }
    s.resvOf 0 = some r ∧ r.stop ≤ s.timebase ∧ s.launch? 0 = some l ∧ l.st = .admitted ∧ l.cause = none ∧ l.origin.tile? = none ∧ l.record.workbound ≤ l.charge ∧ s.packet = none ∧ s.launch? 1 = some c ∧ c.cause = some .killed
    ∧ s.sched.invq = [] ∧ s.sched.replays = [] ∧ s.launch? 2 = some e ∧ e.teamsEnded = e.record.teams ∧ s.quiet 2 = true ∧ s.returnBytes 2 e = none ∧ s.launch? 3 = some k ∧ k.st = .killed ∧ s.quiet 3 = true ∧ s.returnBytes 3 k = none ∧ e.origin = .host := by
  refine ⟨by decide +kernel, by decide +kernel, by decide +kernel, rfl, rfl, rfl, by decide, rfl, by decide +kernel, rfl, by decide +kernel, by decide +kernel, by decide +kernel, rfl, by decide +kernel, rfl, by decide +kernel, rfl, by decide +kernel, rfl, rfl⟩
/-- Does a reading fail for good? -/
def stopped (x : Except Stop (List Byte)) : Bool := match x with
  | .error (.bad _ _) => true
  | .error (.wait _) => false
  | .error (.rebuild _) => false
  | .ok _ => false
/-- A replay of the graph at 0x20000, first of its object; the same with the graph gone; one with no node left; and a claim at its end. -/
theorem witness_LaunchEvents_replays : let r : Replay := { asid := 0, die := 0, graph := 0x20000, buffer := none, order := 1, started := false, nodes := [], doneOk := [], failed := [], never := [], weight := 0, root := none, team := 0, nnode := 1, table := [] }
    let d := { r with started := true, doneOk := [0] }
    let s := poke (mach (grp 16)) 0x20000 graph
    let s := { s with sched := { s.sched with replays := [(1, r)] } }
    let t := mach (grp 16)
    let t := { t with sched := { t.sched with replays := [(1, r), (2, { d with graph := 0x20040 })] } }
    let u := claimed (grp 16) { aClaim .resolved with expiry := 0 }
    let v := tiled (grp 16) { aTile (some recipe) 0 with st := .dropped }
    lookup s.sched.replays 1 = some r ∧ s.notBehind r.after = true ∧ (∀ x ∈ s.replaysOf r.asid r.graph, r.order ≤ x.2.order) ∧ okIs (s.readGraph r) graph = true ∧ okIs (s.readPatch { r with started := true, table := graph, nnode := fieldAt graph 0 2 }) [] = true
    ∧ errIs (v.readGraph { r with graph := 0x40000 }) (.wait 16) = true ∧ (v.tile 16).idle = true ∧ stopped (t.readGraph r) = true ∧ (lookup t.sched.replays 2).isSome = true ∧ d.nodes = [] ∧ ({ d with graph := 0x20040 }).readyNodes = []
    ∧ (u.claimAt 0).st = .resolved ∧ (u.claimAt 0).expiry ≤ u.timebase := by
  decide +kernel
/-- A flit from device 1 by port 0, its first on the link. -/
def flit : FlitHdr := { port := 0, lseq := 0, lack := 0, hops := 15, dest := 0, src := 1, tag := 4, eseq := 0, badLines := 0 }
/-- A read of four bytes of the COHERENT page. -/
def ask : RdReq := { asid := 0, parts := [{ lane := 0, la := 0x20000, kind := .raw .w32 }] }
/-- A write there of the word 1. -/
def tell : WrReq := { asid := 0, parts := [{ la := 0x20000, encode := none, words := [], bytes := [1, 0, 0, 0] }] }
/-- A flit with the expected number and one with another; for this device, in its turn, on VC 3 and on another; for another device with one hop left; one that arrived and waits. -/
theorem witness_FabricArrivals : let s := mach (grp 16)
    flit.port < 18 ∧ flit.lseq = (s.link flit.port).expect ∧ ({ flit with lseq := 511 } : FlitHdr).lseq ≠ (s.link 0).expect ∧ flit.dest = s.fab.devNum ∧ (FlitMsg.rdreq ask).vc ≠ 3 ∧ (s.endSeq flit.src (FlitMsg.rdreq ask).vc).expect = flit.eseq
    ∧ flit.eseq < 2 ^ 16 ∧ (s.endSeq flit.src (FlitMsg.rdreq ask).vc).early = [] ∧ (FlitMsg.mgmt []).vc = 3 ∧ ({ flit with dest := 9, hops := 1 } : FlitHdr).dest ≠ s.fab.devNum ∧ ({ flit with dest := 9, hops := 1 } : FlitHdr).hops ≤ 1
    ∧ ({ flit with port := 19 } : FlitHdr).badLines = 0 ∧ s.check (s.deviceCtx 0) (.raw (loadSize .w32)) false (localEa 0x20000) = .ok (plc 0x20000 4 128) ∧ s.mustWait (s.deviceCtx 0) (plc 0x20000 4 128).tile = false ∧ s.fab.held = []
    ∧ s.rawAt (s.deviceCtx 0) .w32 (plc 0x20000 4 128) = .words [0] := by
  decide +kernel
/-- On VC 3: a number beyond the expected one that has not come, one that has, and one behind; on another channel one that is early; a damaged answer to a copy, and acknowledgements awaited by one, by two and by a bucket; no request, and one whose time is over. -/
theorem witness_FabricArrivals_order : let s := mach (grp 16)
    let h : FlitHdr := { flit with port := 19, badLines := 1 }
    let t := { s with fab := { s.fab with ends := [{ src := 1, vc := 3, expect := 5, early := [({ flit with eseq := 7 }, .mgmt [])] }] } }
    let u := { s with fab := { s.fab with reqs := [(4, { device := 1, sentAt := 0, launch := 0, owner := .copy 3 }), (5, { device := 1, sentAt := 0, launch := 0, owner := .posted 1 }), (6, { device := 1, sentAt := 0, launch := 0, owner := .posted 2 }), (7, { device := 1, sentAt := 0, launch := 0, owner := .bucket 0 0 })] } }
    let v := { u with cycle := 4 * Config.requestTimeoutNs }
    (t.endSeq 1 3).expect = 5 ∧ (6 + 2 ^ 16 - (t.endSeq 1 3).expect) % 2 ^ 16 < 2 ^ 15 ∧ (∀ f ∈ (t.endSeq 1 3).early, f.1.eseq ≠ 6) ∧ (∃ f ∈ (t.endSeq 1 3).early, f.1.eseq = 7) ∧ 2 ^ 15 ≤ (4 + 2 ^ 16 - (t.endSeq 1 3).expect) % 2 ^ 16
    ∧ 0 < (1 + 2 ^ 16 - (s.endSeq 1 0).expect) % 2 ^ 16 ∧ (s.endSeq 1 0).early = [] ∧ (s.endSeq 1 0).expect < 2 ^ 16 ∧ h.port = 19 ∧ h.badLines ≠ 0
    ∧ (u.openReq 4).map (·.owner) = some (.copy 3) ∧ (u.openReq 5).map (·.owner) = some (.posted 1) ∧ (u.openReq 6).map (·.owner) = some (.posted (0 + 2)) ∧ (u.openReq 7).map (·.owner) = some (.bucket 0 0)
    ∧ u.openReq 8 = none ∧ v.openReq 4 = none := by
  decide +kernel
/-- A held read and write; a link that is up, with one flit kept; a request whose time is over, and one that a store waits for. -/
theorem witness_FabricArrivals_links : let s := mach (grp 16)
    let h : FlitHdr := { flit with port := 18 }
    let r : Req := { device := 1, sentAt := 0, launch := 0, owner := .store 0 }
    let s := { s with cycle := 4 * Config.requestTimeoutNs, fab := { s.fab with held := [(h, .rdreq ask), (h, .wr tell)], reqs := [(4, r)], links := [(17, { nextSeq := 6, replay := [({ flit with lseq := 5 }, .rdreq ask)], expect := 0, replays := 0, up := true })] } }
    (h, FlitMsg.rdreq ask) ∈ s.fab.held ∧ (h, FlitMsg.wr tell) ∈ s.fab.held ∧ (s.link 17).fails s.timebase = true ∧ ({ nextSeq := 0, replay := [], expect := 0, replays := 16, up := true, heard := 10 ^ 10 } : Link).fails 0 = true ∧ ((s.link 17).replay.findIdx? fun f => f.1.lseq == 5) = some 0 ∧ ((s.link 17).replay.findIdx? fun f => f.1.lseq == 6) = none ∧ (s.link 17).resent ≤ 0 ∧ ¬ ({ s.link 17 with resent := 1 } : Link).resent ≤ 0
    ∧ lookup s.fab.reqs 4 = some r ∧ r.owner = .store 0 ∧ r.owner.answered = false ∧ r.sentAt + Config.requestTimeoutNs ≤ s.timebase ∧ s.launch? r.launch = some lnch ∧ lnch.cause = none ∧ lnch.st ≠ .complete ∧ lnch.st ≠ .killed := by
  decide +kernel
/-- A session that has taken the numbers below 7, with one kept reply and one event. -/
def session : Session := { data := { host := 1, evAddr := 2, evPort := 3, key := 4 }, replies := [(6, [1])], lastSeq := 7, evNext := 2, events := [(1, [5, 6])], lastResend := 0 }
/-- A running machine with that session at 63, and a memory region. -/
def hosted (s : State) : State :=
  { s with host := { s.host with sessions := [(63, session)], regions := [{ rkey := 5, asid := 0, la := 0x20000, len := 65536 }], boot := { s.host.boot with st := .running } } }
/-- An image of one block of text and no kernel. -/
def image : List Byte := blk 128 [(0, 4, 0x314B484D), (4, 2, 1), (8, 4, 1), (0x10, 8, 0x40), (0x40 + 8, 8, 0x60), (0x40 + 16, 8, 32)]
/-- The least number that is not below those taken; chunks that begin, follow and end; an image that passes and one that does not; kernels, records, launches and a parked group that answers as it should. -/
theorem witness_HcpRequests : let g := { grp 16 with parked := some 0, hnd := true }
    let g := g.modLanes 0xFFFF fun l => { l with trappc := 0x44 }
    let s := hosted (poke (loaded g) 0x20100 record)
    let r : ResumeData := { launch := 0, team := 0, group := 0, trappcs := [(15, 0x64)], saveden := some 1, regs := [(15, 63, 9)] }
    lookup s.host.sessions 63 = some session ∧ s.host.boot.answers 0x0A = true ∧ lookup session.replies 7 = none ∧ session.lastSeq ≤ 7 ∧ (List.replicate 32 (0 : Byte)).length = 32
    ∧ (takeChunk s.host.boot.stage 0 0 { offset := 0, data := [1], last := true }).isSome = true ∧ (∃ a ∈ s.dev.asids, a.id = 0) ∧ (0x60 : Nat) % 32 = 0 ∧ imageStatus [1] ≠ 0 ∧ imageStatus image = 0
    ∧ (∀ z ∈ loadedBytes image 0x20000, z.1 + z.2.length ≤ 2 ^ 46 ∧ s.firstUnmapped s.dev.qepoch 0 z.1 z.2.length = none) ∧ lookup s.sched.kernels 1 = some { lnch.kern with image := 1 } ∧ s.imageBusy 1 = false
    ∧ okIs (s.checkRecord 0 record) { lnch.kern with image := 1 } = true ∧ s.ordinaryEntry 1 = some 0 ∧ record.length = 64 ∧ errIs (s.checkRecord 0 (List.replicate 64 0)) 4 = true
    ∧ s.launch? 0 = some lnch ∧ lnch.st ≠ .complete ∧ lnch.st ≠ .refused ∧ s.launch? 77 = none ∧ (List.replicate 31 (0 : Byte)).length ≠ 32 ∧ (0x7F : Nat) ∉ listedTypes ∧ s.host.boot.answers 0x7F = true
    ∧ (s.groups.find? fun y => !y.2.ended && y.2.parked.isSome && s.launchIdOf y.2 == r.launch && ((s.teamOf y.2).map (·.teamId)) == some r.team && y.2.index == r.group) = some (0, g)
    ∧ (s.launchOf g).bind (·.cause) = none ∧ g.resumeOk r = true ∧ (g.resumeWrites r).badReturn = 0 := by
  decide +kernel
/-- Ranges to map, unmap, change, free, migrate and drop; vectors, tables, domains and context memory at the ends of their ranges. -/
theorem witness_HcpRequests_memory : let s := hosted (tiled (grp 16) (aTile (some recipe) 0))
    let c : Chunk := { offset := 0, data := List.replicate 8192 0, last := false }
    let e : Chunk := { offset := 8192, data := List.replicate 8192 0, last := true }
    s.mapOk 0 0x50000 65536 0x50000 65536 0x80 = true ∧ attrRcp 0x80 = false ∧ (∀ q ∈ s.pagesIn 0 0x20000 65536, q.inside 0x20000 65536 = true) ∧ attrOk 0 = true ∧ attrRcp 0 = false ∧ s.rangeInUse 0 0x20000 65536 = false
    ∧ s.dev.quarantine.length < Config.quarantineCap ∧ (s.mem.pages.find? fun y => y.asid == 0 && y.la == 0x20000).map (·.pin) = some false ∧ (0x90000 : Nat) % 65536 = 0 ∧ 0x90000 + 65536 ≤ Config.hbmBytes
    ∧ (s.pageAt 0 0x40000).map (fun q => attrRcp q.attr) = some true ∧ (s.tile (tileKey 0 0x40000)).record ≠ none ∧ (0 : Nat) < 2 ^ 14 ∧ s.trapvecOk 0 0 = true ∧ s.trapvecOk 0 0x30004 = true ∧ Config.reservedBase % 2 ^ 14 = 0
    ∧ c.data.length ≤ 8192 ∧ (takeChunk none 0 0x4000 c).map (·.data.length) = some 8192 ∧ ((takeChunk none 0 0x4000 c).bind fun x => takeChunk (some x) 0 0x4000 e).map (·.data.length) = some (2 ^ 14) ∧ Config.reservedBase - 1 + 1 ≤ Config.reservedBase := by
  decide +kernel
/-- Routes and regions; a kept reply, no session, and an event due to be sent again. -/
theorem witness_HcpRequests_fabric : let s := hosted { mach (grp 16) with cycle := 40000000 }
    (∀ e ∈ [((2 ^ 14 - 1, [0, 17]) : Nat × List Nat)], e.1 < 2 ^ 14 ∧ e.2.length ≤ 4 ∧ ∀ p ∈ e.2, p < 18) ∧ (2 ^ 14 - 1 : Nat) < 2 ^ 14 ∧ (15 : Nat) < 16 ∧ (∀ r ∈ s.host.regions, r.rkey ≠ 6) ∧ (∃ r ∈ s.host.regions, r.rkey = 5) ∧ 0 + 2 ^ 46 ≤ 2 ^ 46
    ∧ lookup session.replies 6 = some [1] ∧ lookup s.host.sessions 62 = none ∧ session.events ≠ [] ∧ session.lastResend + 10000000 ≤ s.timebase := by
  decide +kernel
/-- A machine that verifies, one that is held, and one whose reset line is low; sessions 63 and 64, and the last address. -/
theorem witness_SystemRequests : let s := hosted (mach (grp 16))
    let v := { s with host := { s.host with boot := { s.host.boot with st := .verifying } } }
    let l := { s with host := { s.host with boot := { s.host.boot with resetLow := true } } }
    let h := { s with host := { s.host with boot := { s.host.boot with hold := true } } }
    v.host.boot.st = .verifying ∧ s.host.boot.resetLow = false ∧ l.host.boot.resetLow = true ∧ h.host.boot.hold = true ∧ h.host.boot.resetLow = false ∧ (63 : Nat) < 64 ∧ (64 : Nat) ≤ 64 ∧ s.host.sbEvents = [] ∧ (127 : Nat) < 128
    ∧ s.regionFor 6 0 0 = none ∧ s.regionFor 5 0x2FFFF 2 = none ∧ s.regionFor 5 0x2FFFC 4 = some 0 ∧ s.fab.held = [] ∧ s.waitTile (s.deviceCtx 0) [plc 0x2FFFC 4 128] = none := by
  decide +kernel
/-- A range of places that lie here. -/
def hereIs (r : Range) (ps : List Place) : Bool := match r with
  | .here q => q == ps
  | .bad _ _ => false
  | .remote _ _ => false
/-- The last word of the region, for a write and a read. -/
theorem witness_SystemRequests_rdma : let s := hosted (mach (grp 16))
    hereIs (s.range (s.deviceCtx 0) true (localEa 0x2FFFC) 4) [plc 0x2FFFC 4 128] = true ∧ hereIs (s.range (s.deviceCtx 0) false (localEa 0x2FFFC) 4) [plc 0x2FFFC 4 128] = true ∧ s.failingPlace none [plc 0x2FFFC 4 128] = none ∧ (s.readPlaces (s.deviceCtx 0) [plc 0x2FFFC 4 128]).length ≤ 4096 := by
  decide +kernel
/-- Whatever the firmware check answers, an image passes or fails: each clause on it has a case. -/
theorem witness_SystemRequests_firmware (b : Boot) : b.good = true ∨ b.good = false := by cases b.good <;> simp
/-- A porter of the placed gang with an instruction at 0; x1 is 0x80000000 and x2 the command window. -/
def porter (w : Nat) (win : List (Nat × Word)) : Porter :=
  { gang := 0, rank := 0, role := .loader, core := 0, mode := .running, x := ((Vector.replicate 32 0).set 1 0x80000000).set 2 0x20000, pc := 0, mstatus := 0, mtvec := 0, mepc := 0, mcause := 0, mtval := 0, mscratch := 0, mcycle := 0, minstret := 0,
    inHandler := false, imem := bytesOfNat 4 w, dmem := [], win := win, posted := 0, done := 0, flt := false, fcode := 0, faddr := 0, queue := [], resv := none, cbWait := false, readyAt := 0 }
/-- The machine with a porter and a circular buffer at 0x80 of the window. -/
def ported (p : Porter) : State := { win (mach (grp 16)) 0x80 ring with porters := [(1, p)] }
/-- What an action is. -/
def actIs (a : PAct) : Nat := match a with
  | .plain _ _ => 1
  | .window o _ _ => 0x100 + o
  | .get _ _ n _ => 0x1000 + n
  | .put _ _ n _ => 0x2000 + n
  | .ecall => 2
  | .trap c _ => 0x3000 + c
/-- A porter whose next instruction is of each kind: addi, ecall, an illegal word, with and without a vector, stores of GO, FAULT and SRC, and loads of CBGET and CBPUT with enough slots and too few; a command of one row whose copy is answered. -/
theorem witness_PorterSteps : let f := fun w wn => actIs ((ported (porter w wn)).porterAct 1 (porter w wn))
    let p := porter 0x13 []
    let cmd : PorterCmd := { src := localEa 0, dst := scratchEa 0, rowb := 4, nrow := 1, spitch := 4, dpitch := 4, cbend := 0, cbn := 0, row := 0, copy := some 7 }
    let q := { p with queue := [cmd] }
    let x := { aCopy none with kind := .porter 0 .loader }
    let t := { ported q with eng := { (ported q).eng with copies := [(7, x)] } }
    (ported p).runningPorter 0 .loader = some (1, p) ∧ p.readyAt ≤ (ported p).cycle ∧ f 0x13 [] = 1 ∧ f 0x73 [] = 2 ∧ f 0 [] = 0x3002 ∧ { p with mtvec := 4 }.mtvec ≠ 0 ∧ p.inHandler = false ∧ p.mtvec = 0 ∧ (ported p).launchOfPorter p = some lnch ∧ lnch.cause = none ∧ lnch.st = .admitted
    ∧ f 0x2112423 [] = 0x128 ∧ p.queue.length < 16 ∧ { porter 0 [(0x10, 4), (0x14, 1), (0x18, 4), (0x1C, 4)] with flt := true }.flt = true ∧ (porter 0 [(0x10, 4), (0x14, 1)]).command.ok = true ∧ (porter 0 []).command.ok = false
    ∧ f 0x2112823 [] = 0x130 ∧ (0x80000000 : Word).getLsbD 31 = true ∧ f 0x112023 [] = 0x100 ∧ f 0x4812183 [(0x40, 0x98), (0x44, 2)] = 0x1002 ∧ f 0x4812183 [(0x40, 0x90), (0x44, 4)] = 0x1004
    ∧ t.postingPorter 0 .loader = some (1, q) ∧ q.queue = [cmd] ∧ cmd.copy = some 7 ∧ t.copy? 7 = some x ∧ x.answered = true ∧ x.failed = none ∧ x.phase = 0 ∧ t.stillWaits (t.copyCtx x) x.tile = false ∧ lookup t.porters 1 = some q ∧ q.mode = .running := by
  decide +kernel
/-- The last row of a command and the first of two, neither begun, whose ends are here; and one whose source is no address. -/
theorem witness_PorterSteps_rows : let cmd : PorterCmd := { src := localEa 0x20000, dst := scratchEa 0x100, rowb := 4, nrow := 2, spitch := 4, dpitch := 4, cbend := 0, cbn := 0, row := 1, copy := none }
    let bad := { cmd with src := 0x2000000000000000 }
    let p := fun c => { porter 0x13 [] with queue := [c] }
    let s := fun c => ported (p c)
    let x := fun c => { (s c).rowCopy (p c) c with order := (s c).sched.nextId }
    (∀ c ∈ [cmd, { cmd with row := 0 }, bad], (s c).postingPorter 0 .loader = some (1, p c) ∧ lookup (s c).porters 1 = some (p c) ∧ c.copy = none ∧ (s c).copy? (s c).sched.nextId = none ∧ (x c).kind = .porter 0 .loader)
    ∧ cmd.nrow ≤ cmd.row + 1 ∧ { cmd with row := 0 }.row + 1 < cmd.nrow ∧ cmd.cbend = 0
    ∧ (s cmd).range ((s cmd).copyCtx (x cmd)) false (x cmd).src (x cmd).len = .here [plc 0x20004 4 128] ∧ (s cmd).readRange ((s cmd).copyCtx (x cmd)) [plc 0x20004 4 128] = .bytes [0, 0, 0, 0]
    ∧ (s cmd).range ((s cmd).copyCtx (x cmd)) true ((x cmd).dsts.headD 0) (x cmd).len = .here [{ ea := scratchEa 0x104, loc := .win 0 0x104, attr := 0, tile := none, n := 4 }]
    ∧ (s cmd).waitTile ((s cmd).copyCtx (x cmd)) [{ ea := scratchEa 0x104, loc := .win 0 0x104, attr := 0, tile := none, n := 4 }] = none
    ∧ (s bad).range ((s bad).copyCtx (x bad)) false (x bad).src (x bad).len = .bad .addrRange (0x2000000000000000 + BitVec.ofNat 64 4) := by
  refine ⟨by decide +kernel, by decide, by decide, rfl, by decide +kernel, rfl, by decide +kernel, by decide +kernel, by decide +kernel⟩
/-- A get that is served, one that must wait, and a put that fits. -/
theorem witness_PorterSteps_buffers : let p := porter 0x4C12183 [(0x40, 0x90), (0x44, 1)]
    let s := ported p
    let e : CbufEnd := { team := 0, off := 0x80, producer := true }
    actIs (s.porterAct 1 p) = 0x2001 ∧ s.cbReady e p.who 1 = true ∧ s.cbReady e p.who 4 = false ∧ p.cbWait = false ∧ (match (s.writeBack p.core).cbufPut e 1 with
      | .ok _ => true
      | .error _ => false) = true ∧ (3 : XReg).val ≠ 0 := by
  decide +kernel

end Sys2Proof.Tests
end

section
/-! SUPPORT. A step with a packet in issue, the trap of the last instruction of a packet, and the lanes a handler starts with; from these, what a control word with a nonzero bit in [31:29] comes to (R89). -/
namespace Sys2Proof.Machine

/-! ## A step with a packet in issue -/

/-- With a packet in issue a step is what the packet's instruction does, with the model's tick advanced. -/
theorem step_of_runSlot {s t : State} {p : Packet} (hp : s.packet = some p) (hr : s.runSlot p = .next t) :
    step s = .next { t with tick := s.tick + 1, lateStores := Config.lateStores (s.tick + 1) } := by
  simp [step, State.advance, hp, hr]

/-- An instruction fetched from a block whose control word has a nonzero bit in [31:29] traps ILLEGAL with the control word as its word (R89). -/
theorem State.runSlot_controlWord {s : State} {p : Packet} {g : Group} {c w : Word} (hg : s.group? p.gid = some g) (he : g.ended = false)
    (hw : g.waitOf p.cur.pc p.cur.place = none) (hf : s.fetchFor g p.cur.pc = .word c w) (hc : 2 ^ 29 ≤ c.toNat) :
    s.runSlot p = .next ((s.withWord p c).trapAt p.gid { p.cur with word := c } .illegal p.cur.lanes 0).afterSlot := by
  have hbits : c.toNat / 2 ^ 29 ≠ 0 := (Nat.div_pos hc (by decide)).ne'
  simp only [State.runSlot, hg, he, hw, hf, Option.isSome_none, Bool.false_eq_true, if_false, if_pos hbits]

/-! ## Storing what stands already -/

theorem put_of_lookup {α : Type} {l : List (Nat × α)} {k : Nat} {x : α} (h : lookup l k = some x) : put l k x = l := by
  induction l with
  | nil => cases h
  | cons e r ih =>
    obtain ⟨j, y⟩ := e
    by_cases hk : j = k <;> simp_all [lookup, put]

/-- A group stored as it stands changes nothing. -/
theorem State.setGroup_self {s : State} {k : Nat} {g : Group} (h : s.group? k = some g) : s.setGroup k g = s := by
  rw [State.setGroup, put_of_lookup h]

/-- Where no instruction of the group waits, the end of a wait changes nothing. -/
theorem Group.leaveWait_of_waits_nil {g : Group} (h : g.waits = []) (sl : Slot) : g.leaveWait sl = g := by
  simp only [Group.leaveWait, h, List.filter_nil]
  rw [← h]

/-! ## The trap of a packet's last instruction -/

/-- A trap of the last instruction of a packet is taken at once when the group waits in nothing and no other trap of the packet stands (R353). -/
theorem State.raise_takes {s : State} {p : Packet} {g : Group} {r : TrapRec} (hp : s.packet = some p) (hg : s.group? p.gid = some g)
    (ht : p.trap = none) (hr : p.rest = []) (hw : g.waits = []) (hn : g.pending = none) : s.raise p.gid r = s.takeTrap p.gid r := by
  have hleave : (s.modGroup p.gid fun g => g.leaveWait p.cur) = s := by
    rw [State.modGroup_eq hg, Group.leaveWait_of_waits_nil hw, State.setGroup_self hg]
  have hclear : ({ g with pending := none } : Group) = g := by rw [← hn]
  rw [State.raise_last hp ht hr, hleave, State.settleTrap_now hg hn hw, hclear, State.setGroup_self hg]

/-- After the last instruction of a packet that recorded no trap, of a group with no trap pending, the packet ends: the cycle in which the group's next packet may issue is noted, and the group is otherwise as it was (R90, R92). -/
theorem State.afterSlot_last {s : State} {p : Packet} {g : Group} (hp : s.packet = some p) (hr : p.rest = []) (ht : p.trap = none)
    (hg : s.group? p.gid = some g) (hn : g.pending = none) :
    s.afterSlot.packet = none ∧ ∃ a b, s.afterSlot.group? p.gid = some { g with readyAt := a, readySince := b } := by
  have hg' : ({ s with packet := none } : State).group? p.gid = some g := hg
  have hend : s.afterSlot = s.endPacket p := by simp [State.afterSlot, hp, hr]
  simp [hend, State.endPacket, ht, hg', hn, State.modGroup_eq hg']

/-! ## The lanes a handler starts with -/

/-- A set of lanes holds the lanes below 64 that its list names. -/
theorem getLsbD_maskOf (ls : List Nat) (i : Nat) : (maskOf ls).getLsbD i = true ↔ i < 64 ∧ i ∈ ls := by
  suffices h : ∀ m : LaneMask, (ls.foldl (fun m i => m ||| (1#64 <<< i)) m).getLsbD i = true ↔ m.getLsbD i = true ∨ i < 64 ∧ i ∈ ls by
    simpa [maskOf] using h 0
  induction ls with
  | nil => simp
  | cons j ls ih =>
    intro m
    have hbit : (1#64 <<< j).getLsbD i = true ↔ i < 64 ∧ i = j := by
      rw [← BitVec.twoPow_eq, BitVec.getLsbD_twoPow, Bool.and_eq_true, decide_eq_true_eq, decide_eq_true_eq]
      omega
    rw [List.foldl_cons, ih, BitVec.getLsbD_or, Bool.or_eq_true, hbit, List.mem_cons]
    tauto

/-- The live lanes of a group (R26). -/
theorem Group.getLsbD_liveMask (g : Group) (i : Nat) : g.liveMask.getLsbD i = true ↔ i < 64 ∧ i < g.width ∧ (g.lane i).live = true := by
  simp [Group.liveMask, Group.lanesWhere, getLsbD_maskOf]

/-- A live lane after a trap saved its state: its restart address is the trapping instruction's if it was active, its own PC otherwise, and it waits at no rejoin (R356, R357). -/
theorem Group.lane_saveTrap {g : Group} {i : Nat} (r : TrapRec) (hi : i < g.lanes.length) (hl : (g.lane i).live = true) :
    (g.saveTrap r).lane i = { g.lane i with trappc := (if r.active.getLsbD i then r.restart else (g.lane i).pc), st := .live } := by
  have hget : g.lane i = g.lanes[i] := by simp [Group.lane, hi]
  rw [hget] at hl ⊢
  simp [Group.lane, Group.saveTrap, hi, hl]

/-- A live lane of a group that has entered a handler runs at its entry (R357). -/
theorem Group.lane_enterHandler {g : Group} {i : Nat} (e : DWord) (hw : i < g.width) (h64 : i < 64) (hi : i < g.lanes.length) (hl : (g.lane i).live = true) :
    (g.enterHandler e).lane i = { g.lane i with pc := e } := by
  have hmask : g.liveMask.getLsbD i = true := g.getLsbD_liveMask i |>.mpr ⟨h64, hw, hl⟩
  have h := Group.lane_modLanes { g with hnd := true, enmask := g.liveMask } g.liveMask (fun l => { l with pc := e }) i
  rw [if_pos ⟨hmask, hi⟩] at h
  exact h

/-- A live lane when its group takes a trap to a handler (R356, R357). -/
theorem Group.lane_saveTrap_enterHandler {g : Group} {i : Nat} (r : TrapRec) (e : DWord) (hw : i < g.width) (h64 : i < 64) (hi : i < g.lanes.length)
    (hl : (g.lane i).live = true) :
    ((g.saveTrap r).enterHandler e).lane i = { g.lane i with pc := e, trappc := (if r.active.getLsbD i then r.restart else (g.lane i).pc), st := .live } := by
  have hsaved := g.lane_saveTrap r hi hl
  have hentered := (g.saveTrap r).lane_enterHandler e hw h64 (by simpa [Group.saveTrap] using hi) (by rw [hsaved]; rfl)
  rw [hentered, hsaved]

/-! ## Control words with a nonzero bit in [31:29] (R89) -/

/-- The trap record of a control word at an instruction (R89). -/
def controlTrap (sl : Slot) (c : Word) : TrapRec :=
  { place := sl.place, cause := .illegal, lanes := sl.lanes, addr := 0, word := c, defer := false, active := sl.lanes, restart := sl.pc }

/-- In a packet of one instruction the trap of its control word takes the group to its handler. -/
theorem State.trapAt_controlWord {s : State} {p : Packet} {g : Group} (c : Word) (hg : s.group? p.gid = some g) (hr : p.rest = []) (ht : p.trap = none)
    (hw : g.waits = []) (hn : g.pending = none) (hh : g.hnd = false) (hrec : s.isRecompute g = false) (hvec : s.trapvec (s.asidOf g) ≠ 0) :
    (s.withWord p c).trapAt p.gid { p.cur with word := c } .illegal p.cur.lanes 0
      = (s.withWord p c).setGroup p.gid ((g.saveTrap (controlTrap p.cur c)).enterHandler (s.trapvec (s.asidOf g))) := by
  have hentry : entryOf .illegal (s.trapvec (s.asidOf g)) = some (s.trapvec (s.asidOf g)) := if_neg hvec
  calc (s.withWord p c).trapAt p.gid { p.cur with word := c } .illegal p.cur.lanes 0
      = (s.withWord p c).takeTrap p.gid (controlTrap p.cur c) :=
        State.raise_takes (p := { p with cur := { p.cur with word := c } }) rfl hg ht hr hw hn
    _ = _ := State.takeTrap_handler hg hh hrec hentry

/-- Settles O32: the fetch traps before the word is decoded; in a packet of that one instruction nothing delays the trap, and its handler entry is read off lane by lane. -/
theorem controlWordTraps : Obligations.ControlWordTraps := by
  intro s p g c w hp hg he hw hf hc
  have hstep := step_of_runSlot hp (State.runSlot_controlWord hg he hw hf hc)
  refine ⟨⟨_, hstep, rfl⟩, ?_⟩
  rintro _ hr ht hwaits hn hh hrec rfl hvec
  rw [State.trapAt_controlWord c hg hr ht hwaits hn hh hrec hvec] at hstep
  obtain ⟨hpacket, a, b, hgroup⟩ := State.afterSlot_last (p := { p with cur := { p.cur with word := c } }) (State.setGroup_packet (s.withWord p c) p.gid _) hr ht
    (State.group?_setGroup_same _ _ ((g.saveTrap (controlTrap p.cur c)).enterHandler (s.trapvec (s.asidOf g)))) hn
  refine ⟨_, _, hstep, hpacket, hgroup, rfl, rfl, rfl, rfl, rfl, fun i hiw hi64 hil hlive => ?_⟩
  have hlane := g.lane_saveTrap_enterHandler (controlTrap p.cur c) (s.trapvec (s.asidOf g)) hiw hi64 hil hlive
  refine ⟨(congrArg Lane.pc hlane :), (congrArg Lane.regs hlane :), fun hacts => ?_⟩
  exact (congrArg Lane.trappc hlane).trans (if_pos hacts)

end Sys2Proof.Machine
end

section
/-! SUPPORT. Uniform results by the scoreboard (R126): one result written in every active lane is a lane result that is the same in each lane and raises no flag; from this, what g.stepget leaves (R171). -/
namespace Sys2Proof.Machine

/-! ## Lane results without flags -/

/-- Lane results that raise no flag leave the group as it was (R82). -/
theorem Group.raiseFlags_of_flags_zero {f : Nat → LaneRes} (hf : ∀ i, (f i).flags = 0) (g : Group) (m : LaneMask) : g.raiseFlags (g.results m f) = g := by
  have hnone : ∀ i, flagsOf (g.results m f) i = 0 := fun i => by rw [flagsOf_results, hf, ite_self]
  have hlanes : (g.lanes.mapIdx fun i l => { l with fpflags := l.fpflags ||| flagsOf (g.results m f) i }) = g.lanes := by
    apply List.ext_getElem <;> simp [hnone]
  rw [Group.raiseFlags, hlanes]

/-- The two registers of a pair differ (R19). -/
theorem Reg.ne_plus_one (d : Reg) : d ≠ d.plus 1 := by
  rw [Reg.plus, ne_eq, left_eq_add]
  decide

/-- A pair's writes name no register twice. -/
theorem nodup_pairOf (d : Reg) (v : DWord) : ((pairOf d v).map (·.1)).Nodup := by
  simp [pairOf, Reg.ne_plus_one d]

/-! ## One result for every active lane (R126) -/

/-- The writes of one result in every active lane are those of the lane result that is the same in each lane. -/
theorem Group.laneWrites_results_const (g : Group) (m : LaneMask) (ws : List (Reg × Word)) : laneWrites (g.results m fun _ => { writes := ws }) = g.toAll m ws := by
  rw [laneWrites, Group.results, List.flatMap_map, Group.toAll]

/-- A scoreboarded uniform result leaves what LaneDone says of the same result in every lane. -/
theorem State.answerAfter_done {s : State} {p : Packet} {g : Group} {ws : List (Reg × Word)} (n : Nat) (hp : s.packet = some p) (hws : (ws.map (·.1)).Nodup) :
    ∃ h, LaneDone s (s.answerAfter n p g ws) p g h (.scoreboard n) (fun _ => succPc p.cur.pc) fun _ => { writes := ws } := by
  have hd := State.deliver_done (s := s) (p := p) (g := g) ⟨p.stall, hp⟩ (.scoreboard n) (fun _ => { writes := ws }) fun _ => hws
  rwa [Group.raiseFlags_of_flags_zero (fun _ => rfl), Group.laneWrites_results_const] at hd

/-- An instruction that answers with one scoreboarded result completes with it in every active lane. -/
theorem answerAfter_completes {s : State} {p : Packet} {g : Group} {i : Instr} {n : Nat} {ws : List (Reg × Word)} (hs : s.issuing = some (p, g))
    (he : exec i s = .next (s.answerAfter n p g ws)) (hws : (ws.map (·.1)).Nodup) : Completes s p g i (.scoreboard n) fun _ => { writes := ws } := by
  obtain ⟨h, hd⟩ := State.answerAfter_done n ((State.issuing_iff s p g).mp hs).1 hws
  exact ⟨_, h, he, hd⟩

/-! ## g.stepget (R171) -/

/-- The g.stepget of the packet in issue answers with the datum of its domain as the state holds it. -/
theorem exec_gStepget {s : State} {p : Packet} {g : Group} (hs : s.issuing = some (p, g)) (d : Reg) (n : Domain) :
    exec (.gStepget d n) s = .next (s.answerAfter 6 p g (pairOf d (s.dev.datum.get n))) :=
  State.issue_eq hs _

/-- Settles O24: the answer is the pair of the datum, the same in every active lane and without flags, so it is a lane result. -/
theorem stepgetDelivers : Obligations.StepgetDelivers := by
  intro s p g hs d n
  exact answerAfter_completes hs (exec_gStepget hs d n) (nodup_pairOf d _)

end Sys2Proof.Machine
end

section
/-! SUPPORT. Encoding and decoding (R95 to R114): what each class decodes is encoded as the word it was read from, and the word of every encoded instruction is read back. -/
namespace Sys2Proof.Laws

/-! ## What the decoder reads is encoded as the word it was read from -/

/-- The instruction that a decoding answers, if it answers one, has a given word (R95). -/
def ReadsAs (r : Except Reject Instr) (w : Nat) : Prop := ∀ i, r = .ok i → encodeNat i = w

@[simp] theorem readsAs_ok (i : Instr) (w : Nat) : ReadsAs (.ok i) w ↔ encodeNat i = w := by simp [ReadsAs]
@[simp] theorem readsAs_error (e : Reject) (w : Nat) : ReadsAs (.error e) w ↔ True := by simp [ReadsAs]
@[simp] theorem readsAs_whenOk (c : Bool) (i : Instr) (w : Nat) : ReadsAs (whenOk c i) w ↔ (c = true → encodeNat i = w) := by
  cases c <;> simp [whenOk]
@[simp] theorem readsAs_withCode {α : Type} (c : Option α) (k : α → Except Reject Instr) (w : Nat) :
    ReadsAs (withCode c k) w ↔ ∀ x, c = some x → ReadsAs (k x) w := by
  cases c <;> simp [withCode]
@[simp] theorem readsAs_ite (c : Prop) [Decidable c] (a b : Except Reject Instr) (w : Nat) :
    ReadsAs (if c then a else b) w ↔ (c → ReadsAs a w) ∧ (¬ c → ReadsAs b w) := by
  split <;> simp [*]

/-! ### Sub-codes: the code of what a code names is that code -/

theorem Fmt.ofCode_eq_some {n : Nat} {t : Fmt} : Fmt.ofCode n = some t ↔ n = t.code :=
  ⟨fun h => by unfold Fmt.ofCode at h; split at h <;> cases h <;> rfl, by rintro rfl; cases t <;> rfl⟩
theorem LoadForm.ofCode_eq_some {n : Nat} {t : LoadForm} : LoadForm.ofCode n = some t ↔ n = t.code :=
  ⟨fun h => by unfold LoadForm.ofCode at h; split at h <;> cases h <;> rfl, by rintro rfl; cases t <;> rfl⟩
theorem StoreForm.ofCode_eq_some {n : Nat} {t : StoreForm} : StoreForm.ofCode n = some t ↔ n = t.code :=
  ⟨fun h => by unfold StoreForm.ofCode at h; split at h <;> cases h <;> rfl, by rintro rfl; cases t <;> rfl⟩
theorem CopySize.ofCode_eq_some {n : Nat} {t : CopySize} : CopySize.ofCode n = some t ↔ n = t.code :=
  ⟨fun h => by unfold CopySize.ofCode at h; split at h <;> cases h <;> rfl, by rintro rfl; cases t <;> rfl⟩
theorem Cond.ofCode_eq_some {n : Nat} {t : Cond} : Cond.ofCode n = some t ↔ n = t.code :=
  ⟨fun h => by unfold Cond.ofCode at h; split at h <;> cases h <;> rfl, by rintro rfl; cases t <;> rfl⟩
theorem Scope.ofCode_eq_some {n : Nat} {t : Scope} : Scope.ofCode n = some t ↔ n = t.code :=
  ⟨fun h => by unfold Scope.ofCode at h; split at h <;> cases h <;> rfl, by rintro rfl; cases t <;> rfl⟩
theorem Lop3Fn.ofCode_eq_some {n : Nat} {t : Lop3Fn} : Lop3Fn.ofCode n = some t ↔ n = t.code :=
  ⟨fun h => by unfold Lop3Fn.ofCode at h; split at h <;> cases h <;> rfl, by rintro rfl; cases t <;> rfl⟩
theorem RouteKind.ofCode_eq_some {n : Nat} {t : RouteKind} : RouteKind.ofCode n = some t ↔ n = t.code :=
  ⟨fun h => by unfold RouteKind.ofCode at h; split at h <;> cases h <;> rfl, by rintro rfl; cases t <;> rfl⟩

/-! ### One lemma per class of words (R96) -/

/-- The words of class LA (R102 to R104); the format byte of a cvt is that of its two codes. -/
theorem readsAs_decodeLA (f : LAFields) : ReadsAs (decodeLA f) (wordLA f.op f.d f.a f.r f.b f.s) := by
  obtain ⟨op, d, a, r, b, s⟩ := f
  unfold decodeLA
  dsimp only
  split <;> simp +contextual only [readsAs_ok, readsAs_error, readsAs_whenOk, readsAs_withCode, readsAs_ite, Fmt.ofCode_eq_some, Bool.and_eq_true, beq_iff_eq, encodeNat,
    wordLA, wordCvt, Fin.isValue, Fin.val_zero, implies_true, and_self]
  all_goals (intros; omega)

/-- The words of class LM (R106 to R110). -/
theorem readsAs_decodeLM (f : LMFields) : ReadsAs (decodeLM f) (wordLM f.op f.d f.a f.k.val f.f.toNat) := by
  obtain ⟨op, d, a, k, f⟩ := f
  unfold decodeLM
  dsimp only
  split <;> simp +contextual only [readsAs_ok, readsAs_error, readsAs_whenOk, readsAs_withCode, readsAs_ite, LoadForm.ofCode_eq_some, StoreForm.ofCode_eq_some,
    CopySize.ofCode_eq_some, Bool.and_eq_true, beq_iff_eq, encodeNat, wordLM, Fin.isValue, Fin.val_zero, implies_true, and_self]

/-- The words of class LI (R105, R183); a branch's field is the last 19 bits. -/
theorem readsAs_decodeLI (f : LIFields) (hf : f.f.toNat = f.a.val * 8192 + f.i.toNat) : ReadsAs (decodeLI f) (wordLI f.op f.d f.a f.i.toNat) := by
  obtain ⟨op, d, a, i, f⟩ := f
  have hi := i.isLt
  unfold decodeLI
  dsimp only at hf ⊢
  split <;> simp +contextual only [readsAs_ok, readsAs_error, readsAs_whenOk, readsAs_withCode, readsAs_ite, Lop3Fn.ofCode_eq_some, beq_iff_eq, encodeNat,
    wordLI, wordLIBranch, Fin.isValue, Fin.val_zero, Fin.val_ofNat, BitVec.toNat_ofNat, implies_true]
  all_goals grind

/-- The words of class UA (R111 to R113). -/
theorem readsAs_decodeUA (f : UAFields) : ReadsAs (decodeUA f) (wordUA f.op f.d f.a f.b f.s.val) := by
  obtain ⟨op, d, a, b, s⟩ := f
  unfold decodeUA
  dsimp only
  split <;> simp +contextual only [readsAs_ok, readsAs_error, readsAs_whenOk, readsAs_withCode, readsAs_ite, Cond.ofCode_eq_some, Scope.ofCode_eq_some, Bool.and_eq_true,
    beq_iff_eq, encodeNat, wordUA, Fin.isValue, Fin.val_zero, Fin.val_ofNat, implies_true, and_self]
  all_goals (intros; omega)

/-- The words of class UB (R114). -/
theorem readsAs_decodeUB (f : UBFields) : ReadsAs (decodeUB f) (wordUB f.op f.a f.f.toNat) := by
  obtain ⟨op, a, f⟩ := f
  unfold decodeUB
  dsimp only
  split <;> simp +contextual only [readsAs_ok, readsAs_error, readsAs_whenOk, beq_iff_eq, encodeNat, wordUB, Fin.isValue, Fin.val_zero, implies_true]

/-- The words of class UI (R114). -/
theorem readsAs_decodeUI (f : UIFields) : ReadsAs (decodeUI f) (wordUI f.op f.d f.a f.i.toNat) := by
  obtain ⟨op, d, a, i⟩ := f
  have hi := i.isLt
  unfold decodeUI
  dsimp only
  split <;> simp +contextual only [readsAs_ok, readsAs_error, readsAs_whenOk, readsAs_withCode, RouteKind.ofCode_eq_some, Bool.and_eq_true, beq_iff_eq, encodeNat, wordUI,
    Fin.isValue, Fin.val_zero, BitVec.toNat_ofNat, implies_true]
  intros; omega

/-- What a class decodes from a word of 32 bits has that word: the fields of a word make it up (R96). -/
theorem readsAs_decodeClass (w : Nat) (hw : w < 2 ^ 32) : ReadsAs (decodeClass w) w := by
  unfold decodeClass
  split
  case h_1 h | h_2 h =>
    convert readsAs_decodeLA (fieldsLA w) using 1
    simp only [wordLA, fieldsLA, Fin.val_ofNat]; omega
  case h_3 h =>
    convert readsAs_decodeLM (fieldsLM w) using 1
    simp only [wordLM, fieldsLM, Fin.val_ofNat, BitVec.toNat_ofNat]; omega
  case h_4 h =>
    convert readsAs_decodeLI (fieldsLI w) (by simp only [fieldsLI, Fin.val_ofNat, BitVec.toNat_ofNat]; omega) using 1
    simp only [wordLI, fieldsLI, Fin.val_ofNat, BitVec.toNat_ofNat]; omega
  case h_5 h | h_6 h =>
    convert readsAs_decodeUA (fieldsUA w) using 1
    simp only [wordUA, fieldsUA, Fin.val_ofNat]; omega
  case h_7 h =>
    convert readsAs_decodeUB (fieldsUB w) using 1
    simp only [wordUB, fieldsUB, Fin.val_ofNat, BitVec.toNat_ofNat]; omega
  case h_8 h0 h1 h2 h3 h4 h5 h6 =>
    have h7 : w / 536870912 % 8 = 7 := by grind
    convert readsAs_decodeUI (fieldsUI w) using 1
    simp only [wordUI, fieldsUI, Fin.val_ofNat, BitVec.toNat_ofNat]; omega

/-- The decoder reads an instruction exactly when the word is not 0, its class decodes to the instruction, and that is well-formed (R100). -/
theorem decodeWord_eq_ok {w : Word} {i : Instr} : decodeWord w = .ok i ↔ w ≠ 0 ∧ decodeClass w.toNat = .ok i ∧ i.wellFormed = true := by
  have hz : w.toNat = 0 ↔ w = 0 := ⟨fun h => BitVec.eq_of_toNat_eq h, fun h => h ▸ rfl⟩
  unfold decodeWord decodeNat
  split
  · simp_all
  · cases hc : decodeClass w.toNat with
    | error e => simp
    | ok j =>
      by_cases hj : j.wellFormed = true
      · simp only [hj, if_true, Except.ok.injEq, ne_eq, ‹¬ w.toNat = 0›.imp hz.mpr, not_false_eq_true, true_and]
        exact ⟨fun h => ⟨h, h ▸ hj⟩, fun h => h.1⟩
      · simp only [hj, if_false, Bool.false_eq_true, reduceCtorEq, Except.ok.injEq, false_iff]
        rintro ⟨-, rfl, hwf⟩
        exact hj hwf

/-! ## The encoder's word is read back -/

/-- Every instruction satisfies the encoding statement: the encoded ones by their lemmas, the others have no word (R95). -/
theorem encoding_statement (i : Instr) : Encoding.Statement i := by
  cases i
  case add => apply Encoding.add
  case sub => apply Encoding.sub
  case mul => apply Encoding.mul
  case mulh => apply Encoding.mulh
  case mulhu => apply Encoding.mulhu
  case mad => apply Encoding.mad
  case and => apply Encoding.and
  case or => apply Encoding.or
  case xor => apply Encoding.xor
  case shl => apply Encoding.shl
  case shr => apply Encoding.shr
  case sar => apply Encoding.sar
  case rot => apply Encoding.rot
  case min => apply Encoding.min
  case max => apply Encoding.max
  case minu => apply Encoding.minu
  case maxu => apply Encoding.maxu
  case abs => apply Encoding.abs
  case sel => apply Encoding.sel
  case clz => apply Encoding.clz
  case popc => apply Encoding.popc
  case brev => apply Encoding.brev
  case bfx => apply Encoding.bfx
  case bfxu => apply Encoding.bfxu
  case bfi => apply Encoding.bfi
  case addc => apply Encoding.addc
  case subb => apply Encoding.subb
  case addS => apply Encoding.addS
  case addUs => apply Encoding.addUs
  case subS => apply Encoding.subS
  case subUs => apply Encoding.subUs
  case cmpEq => apply Encoding.cmpEq
  case cmpNe => apply Encoding.cmpNe
  case cmpLt => apply Encoding.cmpLt
  case cmpLe => apply Encoding.cmpLe
  case cmpGt => apply Encoding.cmpGt
  case cmpGe => apply Encoding.cmpGe
  case cmpLtu => apply Encoding.cmpLtu
  case cmpLeu => apply Encoding.cmpLeu
  case cmpGtu => apply Encoding.cmpGtu
  case cmpGeu => apply Encoding.cmpGeu
  case ballot => apply Encoding.ballot
  case voteAll => apply Encoding.voteAll
  case voteAny => apply Encoding.voteAny
  case voteUni => apply Encoding.voteUni
  case perm => apply Encoding.perm
  case mov => apply Encoding.mov
  case callv => apply Encoding.callv
  case retv => apply Encoding.retv
  case rejoin => apply Encoding.rejoin
  case exitl => apply Encoding.exitl
  case fadd => apply Encoding.fadd
  case fsub => apply Encoding.fsub
  case fmul => apply Encoding.fmul
  case ffma => apply Encoding.ffma
  case fmin => apply Encoding.fmin
  case fmax => apply Encoding.fmax
  case fcls => apply Encoding.fcls
  case fdiv => apply Encoding.fdiv
  case fsqrt => apply Encoding.fsqrt
  case frcp => apply Encoding.frcp
  case frsq => apply Encoding.frsq
  case fex2 => apply Encoding.fex2
  case flg2 => apply Encoding.flg2
  case fsgnCpy => apply Encoding.fsgnCpy
  case fsgnNeg => apply Encoding.fsgnNeg
  case fsgnXor => apply Encoding.fsgnXor
  case fsgnAbs => apply Encoding.fsgnAbs
  case frndRn => apply Encoding.frndRn
  case frndRz => apply Encoding.frndRz
  case frndRm => apply Encoding.frndRm
  case frndRp => apply Encoding.frndRp
  case fcmpEq => apply Encoding.fcmpEq
  case fcmpNe => apply Encoding.fcmpNe
  case fcmpLt => apply Encoding.fcmpLt
  case fcmpLe => apply Encoding.fcmpLe
  case fcmpGt => apply Encoding.fcmpGt
  case fcmpGe => apply Encoding.fcmpGe
  case fcmpUn => apply Encoding.fcmpUn
  case fcmpOrd => apply Encoding.fcmpOrd
  case dadd => apply Encoding.dadd
  case dsub => apply Encoding.dsub
  case dmul => apply Encoding.dmul
  case dfma => apply Encoding.dfma
  case dmin => apply Encoding.dmin
  case dmax => apply Encoding.dmax
  case ddiv => apply Encoding.ddiv
  case dsqrt => apply Encoding.dsqrt
  case drndRn => apply Encoding.drndRn
  case drndRz => apply Encoding.drndRz
  case drndRm => apply Encoding.drndRm
  case drndRp => apply Encoding.drndRp
  case dcmpEq => apply Encoding.dcmpEq
  case dcmpNe => apply Encoding.dcmpNe
  case dcmpLt => apply Encoding.dcmpLt
  case dcmpLe => apply Encoding.dcmpLe
  case dcmpGt => apply Encoding.dcmpGt
  case dcmpGe => apply Encoding.dcmpGe
  case dcmpUn => apply Encoding.dcmpUn
  case dcmpOrd => apply Encoding.dcmpOrd
  case hadd2 => apply Encoding.hadd2
  case hmul2 => apply Encoding.hmul2
  case hfma2 => apply Encoding.hfma2
  case hmax2 => apply Encoding.hmax2
  case badd2 => apply Encoding.badd2
  case bmul2 => apply Encoding.bmul2
  case bfma2 => apply Encoding.bfma2
  case bmax2 => apply Encoding.bmax2
  case cvt => apply Encoding.cvt
  case cvtSat => apply Encoding.cvtSat
  case cvtRn => apply Encoding.cvtRn
  case cvtRz => apply Encoding.cvtRz
  case cvtRm => apply Encoding.cvtRm
  case cvtRp => apply Encoding.cvtRp
  case pkF16 => apply Encoding.pkF16
  case pkBf16 => apply Encoding.pkBf16
  case pkE4m3 => apply Encoding.pkE4m3
  case pkE5m2 => apply Encoding.pkE5m2
  case pkE4m3Sat => apply Encoding.pkE4m3Sat
  case pkE5m2Sat => apply Encoding.pkE5m2Sat
  case pkI8 => apply Encoding.pkI8
  case pkI8S => apply Encoding.pkI8S
  case pkBq4T0 => apply Encoding.pkBq4T0
  case pkBq4T1 => apply Encoding.pkBq4T1
  case pkBq4T2 => apply Encoding.pkBq4T2
  case pkBq4T3 => apply Encoding.pkBq4T3
  case unpkF16 => apply Encoding.unpkF16
  case unpkBf16 => apply Encoding.unpkBf16
  case unpkE4m3 => apply Encoding.unpkE4m3
  case unpkE5m2 => apply Encoding.unpkE5m2
  case unpkI8 => apply Encoding.unpkI8
  case unpkBq4 => apply Encoding.unpkBq4
  case rngKey => apply Encoding.rngKey
  case rngDraw => apply Encoding.rngDraw
  case rngDrawF32 => apply Encoding.rngDrawF32
  case rngDrawF64 => apply Encoding.rngDrawF64
  case rngSkip => apply Encoding.rngSkip
  case aget => apply Encoding.aget
  case aadd => apply Encoding.aadd
  case amerge => apply Encoding.amerge
  case aset => apply Encoding.aset
  case addImm => apply Encoding.addImm
  case andImm => apply Encoding.andImm
  case orImm => apply Encoding.orImm
  case xorImm => apply Encoding.xorImm
  case shlImm => apply Encoding.shlImm
  case shrImm => apply Encoding.shrImm
  case sarImm => apply Encoding.sarImm
  case rotImm => apply Encoding.rotImm
  case movImm => apply Encoding.movImm
  case lop3 => apply Encoding.lop3
  case lop3Not => apply Encoding.lop3Not
  case brcNz => apply Encoding.brcNz
  case brcZ => apply Encoding.brcZ
  case ld => apply Encoding.ld
  case ldRaw => apply Encoding.ldRaw
  case st => apply Encoding.st
  case stRaw => apply Encoding.stRaw
  case prefetchL2 => apply Encoding.prefetchL2
  case prefetchL1 => apply Encoding.prefetchL1
  case atomOAdd => apply Encoding.atomOAdd
  case atomOAnd => apply Encoding.atomOAnd
  case atomOOr => apply Encoding.atomOOr
  case atomOXor => apply Encoding.atomOXor
  case atomOMin => apply Encoding.atomOMin
  case atomOMax => apply Encoding.atomOMax
  case atomOMinu => apply Encoding.atomOMinu
  case atomOMaxu => apply Encoding.atomOMaxu
  case atomUAdd => apply Encoding.atomUAdd
  case atomUAnd => apply Encoding.atomUAnd
  case atomUOr => apply Encoding.atomUOr
  case atomUXor => apply Encoding.atomUXor
  case atomUMin => apply Encoding.atomUMin
  case atomUMax => apply Encoding.atomUMax
  case atomUMinu => apply Encoding.atomUMinu
  case atomUMaxu => apply Encoding.atomUMaxu
  case atomOExch => apply Encoding.atomOExch
  case atomOCas => apply Encoding.atomOCas
  case atomOAdd64 => apply Encoding.atomOAdd64
  case atomOExch64 => apply Encoding.atomOExch64
  case atomOCas64 => apply Encoding.atomOCas64
  case atomUExch => apply Encoding.atomUExch
  case atomUCas => apply Encoding.atomUCas
  case atomUAdd64 => apply Encoding.atomUAdd64
  case atomUExch64 => apply Encoding.atomUExch64
  case atomUCas64 => apply Encoding.atomUCas64
  case fatomOFadd => apply Encoding.fatomOFadd
  case fatomOFmin => apply Encoding.fatomOFmin
  case fatomOFmax => apply Encoding.fatomOFmax
  case fatomODadd => apply Encoding.fatomODadd
  case fatomOHadd2 => apply Encoding.fatomOHadd2
  case fatomOBadd2 => apply Encoding.fatomOBadd2
  case fatomUFadd => apply Encoding.fatomUFadd
  case fatomUFmin => apply Encoding.fatomUFmin
  case fatomUFmax => apply Encoding.fatomUFmax
  case fatomUDadd => apply Encoding.fatomUDadd
  case fatomUHadd2 => apply Encoding.fatomUHadd2
  case fatomUBadd2 => apply Encoding.fatomUBadd2
  case cpAsyncIn => apply Encoding.cpAsyncIn
  case cpAsyncOut => apply Encoding.cpAsyncOut
  case cpRows => apply Encoding.cpRows
  case cpMcastO => apply Encoding.cpMcastO
  case cpMcastU => apply Encoding.cpMcastU
  case cbufGet => apply Encoding.cbufGet
  case cbufPut => apply Encoding.cbufPut
  case qpushO => apply Encoding.qpushO
  case qpushU => apply Encoding.qpushU
  case qpop => apply Encoding.qpop
  case bucketArrive => apply Encoding.bucketArrive
  case barTag => apply Encoding.barTag
  case rcpReg => apply Encoding.rcpReg
  case rcpDrop => apply Encoding.rcpDrop
  case rcpPin => apply Encoding.rcpPin
  case rcpUnpin => apply Encoding.rcpUnpin
  case tileState => apply Encoding.tileState
  case mmLdw => apply Encoding.mmLdw
  case mmSwapw => apply Encoding.mmSwapw
  case mmRun => apply Encoding.mmRun
  case mmSwapacc => apply Encoding.mmSwapacc
  case mmAccrd => apply Encoding.mmAccrd
  case mmAccwr => apply Encoding.mmAccwr
  case mmDrain => apply Encoding.mmDrain
  case mmRegrow => apply Encoding.mmRegrow
  case mmAmax => apply Encoding.mmAmax
  case bsAsm => apply Encoding.bsAsm
  case bsLu => apply Encoding.bsLu
  case bsLdl => apply Encoding.bsLdl
  case bsTrsv => apply Encoding.bsTrsv
  case bsPgs => apply Encoding.bsPgs
  case bsBack => apply Encoding.bsBack
  case bsStat => apply Encoding.bsStat
  case srtKeys => apply Encoding.srtKeys
  case srtPairs => apply Encoding.srtPairs
  case trvBuild => apply Encoding.trvBuild
  case trvQuery => apply Encoding.trvQuery
  case phaseRegroup => apply Encoding.phaseRegroup
  case phaseRestore => apply Encoding.phaseRestore
  case collPost => apply Encoding.collPost
  case gNop => apply Encoding.gNop
  case gMov => apply Encoding.gMov
  case gAdd => apply Encoding.gAdd
  case gSub => apply Encoding.gSub
  case gMul => apply Encoding.gMul
  case gMulh => apply Encoding.gMulh
  case gMulhU => apply Encoding.gMulhU
  case gAnd => apply Encoding.gAnd
  case gOr => apply Encoding.gOr
  case gXor => apply Encoding.gXor
  case gShl => apply Encoding.gShl
  case gShr => apply Encoding.gShr
  case gSar => apply Encoding.gSar
  case gCmp => apply Encoding.gCmp
  case gSel => apply Encoding.gSel
  case gMin => apply Encoding.gMin
  case gMinU => apply Encoding.gMinU
  case gMax => apply Encoding.gMax
  case gMaxU => apply Encoding.gMaxU
  case gRet => apply Encoding.gRet
  case gYield => apply Encoding.gYield
  case gExit => apply Encoding.gExit
  case gLanes => apply Encoding.gLanes
  case gElect => apply Encoding.gElect
  case gEret => apply Encoding.gEret
  case gClockO => apply Encoding.gClockO
  case gClockU => apply Encoding.gClockU
  case gLaunch => apply Encoding.gLaunch
  case gTrylaunch => apply Encoding.gTrylaunch
  case gReplay => apply Encoding.gReplay
  case gInvoke => apply Encoding.gInvoke
  case gInvokeh => apply Encoding.gInvokeh
  case gAwait => apply Encoding.gAwait
  case gAwaitT => apply Encoding.gAwaitT
  case gHstat => apply Encoding.gHstat
  case gWsplit => apply Encoding.gWsplit
  case gWgive => apply Encoding.gWgive
  case gBar => apply Encoding.gBar
  case gBarrive => apply Encoding.gBarrive
  case gBarwait => apply Encoding.gBarwait
  case gWait => apply Encoding.gWait
  case gSeal => apply Encoding.gSeal
  case gBwait => apply Encoding.gBwait
  case gFenceRel => apply Encoding.gFenceRel
  case gFenceAcq => apply Encoding.gFenceAcq
  case gFenceFull => apply Encoding.gFenceFull
  case gStepadv => apply Encoding.gStepadv
  case gStepget => apply Encoding.gStepget
  case gSweep => apply Encoding.gSweep
  case gSweepwait => apply Encoding.gSweepwait
  case gJmp => apply Encoding.gJmp
  case gBrNz => apply Encoding.gBrNz
  case gBrZ => apply Encoding.gBrZ
  case gCall => apply Encoding.gCall
  case gLoop => apply Encoding.gLoop
  case gLi => apply Encoding.gLi
  case gLui => apply Encoding.gLui
  case gAddImm => apply Encoding.gAddImm
  case gAndImm => apply Encoding.gAndImm
  case gOrImm => apply Encoding.gOrImm
  case gXorImm => apply Encoding.gXorImm
  case gCsrr => apply Encoding.gCsrr
  case gCsrw => apply Encoding.gCsrw
  case gCsrs => apply Encoding.gCsrs
  case gCsrc => apply Encoding.gCsrc
  case gTrap => apply Encoding.gTrap
  case gFeat => apply Encoding.gFeat
  case gSetroute => apply Encoding.gSetroute
  all_goals exact Encoding.of_no_word rfl

/-- Settles O28: the class of the encoder's word decodes to the instruction, which is well-formed, and the word is not 0. -/
theorem decodeEncodeAgree : Obligations.DecodeEncodeAgree := by
  intro i hwf hw
  obtain ⟨hlt, hd⟩ := encoding_statement i hw
  have hnat : (BitVec.ofNat 32 (encodeNat i)).toNat = encodeNat i := by rw [BitVec.toNat_ofNat, Nat.mod_eq_of_lt hlt]
  have hne : encodeNat i ≠ 0 := by simpa [Instr.hasWord] using hw
  refine ⟨BitVec.ofNat 32 (encodeNat i), by simp [encode, hw], decodeWord_eq_ok.mpr ⟨fun h0 => hne ?_, by rwa [hnat], hwf⟩⟩
  rw [← hnat, h0]
  rfl

/-- Settles O29: a word's fields make it up, so what its class decodes has that word. -/
theorem decodedHasOneWord : Obligations.DecodedHasOneWord := by
  intro w i h
  obtain ⟨hz, hc, hwf⟩ := decodeWord_eq_ok.mp h
  have he : encodeNat i = w.toNat := readsAs_decodeClass w.toNat w.isLt i hc
  have hne : w.toNat ≠ 0 := fun h0 => hz (BitVec.eq_of_toNat_eq h0)
  simp [encode, Instr.hasWord, he, hne, hwf]

end Sys2Proof.Laws
end

section
/-! SUPPORT. Lane instructions (R83, R175 to R177): what an instruction that delivers lanewise comes to, completing or trapping FP_EXC, and the shapes of the integer forms. -/
namespace Sys2Proof.Machine

/-! ## Registers of a result -/

/-- Registers that follow one another differ as their distances do. -/
theorem Reg.plus_injective (d : Reg) {j k : Nat} (hj : j < 64) (hk : k < 64) (h : d.plus j = d.plus k) : j = k := by
  have hv := congrArg Fin.val (add_left_cancel (a := d) h)
  rwa [Fin.val_ofNat, Fin.val_ofNat, Nat.mod_eq_of_lt hj, Nat.mod_eq_of_lt hk] at hv

theorem Reg.plus_zero (d : Reg) : d.plus 0 = d := add_zero d

/-- The registers from one on, fewer than 64, are all different. -/
theorem Reg.nodup_plus (d : Reg) {ks : List Nat} (hks : ks.Nodup) (hlt : ∀ k ∈ ks, k < 64) : (ks.map d.plus).Nodup :=
  hks.map_on fun _ hj _ hk h => Reg.plus_injective d (hlt _ hj) (hlt _ hk) h

/-! ## Delivering -/

/-- Results that raise no flag trap nothing (R83). -/
theorem Group.quiet_of_flags_zero (g : Group) (m : LaneMask) {f : Nat → LaneRes} (hf : ∀ i, (f i).flags = 0) : g.quiet m f := by
  intro i _ _
  rw [hf]
  exact BitVec.zero_and

/-- Does lane i raise a flag that its FPEN enables (R83)? -/
theorem Group.getLsbD_trapping (g : Group) (m : LaneMask) (f : Nat → LaneRes) (i : Nat) :
    (g.trapping (g.results m f)).getLsbD i = true ↔ i < 64 ∧ (m.getLsbD i = true ∧ i < g.width) ∧ (f i).flags &&& (g.lane i).fpen ≠ 0 := by
  simp only [Group.trapping, getLsbD_maskOf, List.mem_map, List.mem_filter, Group.results, Group.mem_list, bne_iff_ne]
  constructor
  · rintro ⟨hi, _, ⟨⟨j, hj, rfl⟩, hne⟩, rfl⟩
    exact ⟨hi, hj, hne⟩
  · rintro ⟨hi, hm, hne⟩
    exact ⟨hi, _, ⟨⟨i, hm, rfl⟩, hne⟩, rfl⟩

/-- Where some active lane raises an enabled flag, the mask of the trap is not empty (R83). -/
theorem Group.trapping_ne_zero {g : Group} {m : LaneMask} {f : Nat → LaneRes} (h : ¬ g.quiet m f) : g.trapping (g.results m f) ≠ 0 := by
  obtain ⟨i, hm, hw, hne⟩ : ∃ i, m.getLsbD i = true ∧ i < g.width ∧ (f i).flags &&& (g.lane i).fpen ≠ 0 := by
    simpa only [Group.quiet, not_forall, exists_prop] using h
  intro h0
  have hi : i < 64 := BitVec.lt_of_getLsbD hm
  have ht := (g.getLsbD_trapping m f i).mpr ⟨hi, ⟨hm, hw⟩, hne⟩
  simp [h0] at ht

/-- What raising the flags leaves is what FP_EXC finds (R82, R83). -/
theorem Group.flagsRaised (p : Packet) (g : Group) (f : Nat → LaneRes) :
    FlagsRaised p g (g.raiseFlags (g.results p.cur.lanes f)) f (g.trapping (g.results p.cur.lanes f)) where
  own := rfl
  count := by simp [Group.raiseFlags]
  lane i := by rw [Group.lane_raiseFlags]; split <;> rfl
  acting i ha := by rw [Group.lane_raiseFlags_acting _ _ _ _ ha]
  others i hi := by rw [Group.lane_raiseFlags_other _ _ _ _ hi]
  mask i hi := by rw [Group.getLsbD_trapping]; tauto

/-- With no enabled flag raised the results are delivered. -/
theorem State.lanewise_quiet (s : State) (p : Packet) {g : Group} (lat : Latency) {f : Nat → LaneRes} (hq : g.quiet p.cur.lanes f) :
    s.lanewise p g lat f = s.deliver p (g.raiseFlags (g.results p.cur.lanes f)) lat (laneWrites (g.results p.cur.lanes f)) := by
  simp [State.lanewise, g.trapping_quiet _ _ hq]

/-- With an enabled flag raised, and no trap before it in the packet, the lanes that raised it trap FP_EXC (R83). -/
theorem State.lanewise_traps (s : State) {p : Packet} {g : Group} (lat : Latency) {f : Nat → LaneRes} (ht : p.trap = none) (hq : ¬ g.quiet p.cur.lanes f) :
    s.lanewise p g lat f = (s.setGroup p.gid (g.raiseFlags (g.results p.cur.lanes f))).trapAt p.gid p.cur .fpExc (g.trapping (g.results p.cur.lanes f)) 0 := by
  simp only [State.lanewise, if_neg (Group.trapping_ne_zero hq), ht, Option.isSome_none, Bool.false_eq_true, if_false]

/-- Settles O12: the operation raises the flags first, and its trap names the lanes whose flags are enabled. -/
theorem fpExceptionTraps : Obligations.FpExceptionTraps := by
  intro s p g f lat _ ht hq
  exact ⟨_, _, s.lanewise_traps lat ht hq, g.flagsRaised p f⟩

/-! ## Completing -/

/-- Scoreboarded results leave what LaneDone says, also where a lane's result names a register twice: the entry holds every write (R93). -/
theorem State.deliver_scoreboard_done {s : State} {p : Packet} {g : Group} (hp : ∃ n, s.packet = some { p with stall := n }) (n : Nat) (f : Nat → LaneRes) :
    ∃ h, LaneDone s (s.deliver p (g.raiseFlags (g.results p.cur.lanes f)) (.scoreboard n) (laneWrites (g.results p.cur.lanes f))) p g h (.scoreboard n) (fun _ => succPc p.cur.pc) f := by
  have hlen : (g.raiseFlags (g.results p.cur.lanes f)).lanes.length = g.lanes.length := by simp [Group.raiseFlags]
  rw [show s.deliver p (g.raiseFlags (g.results p.cur.lanes f)) (.scoreboard n) (laneWrites (g.results p.cur.lanes f)) = _ from
    State.post_eq (State.group?_finish s p (g.raiseFlags (g.results p.cur.lanes f))) p.cur.pc p.cur.lanes _ _ n]
  have hread : ∀ now i r, ((g.raiseFlags (g.results p.cur.lanes f)).moveTo p.cur.lanes (succPc p.cur.pc)).read now i r = g.read now i r := fun now i r => by
    rw [Group.read_moveTo, Group.read_raiseFlags]
  have hacting : ∀ i, g.acts p.cur.lanes i → ((g.raiseFlags (g.results p.cur.lanes f)).moveTo p.cur.lanes (succPc p.cur.pc)).lane i =
      { g.lane i with fpflags := (g.lane i).fpflags ||| (f i).flags, pc := succPc p.cur.pc } := fun i ha => by
    rw [Group.lane_moveTo, if_pos ⟨ha.1, hlen ▸ ha.2.2⟩, Group.lane_raiseFlags_acting _ _ _ _ ha]
  have hother : ∀ i, p.cur.lanes.getLsbD i = false → ((g.raiseFlags (g.results p.cur.lanes f)).moveTo p.cur.lanes (succPc p.cur.pc)).lane i = g.lane i := fun i hi => by
    rw [Group.lane_moveTo, if_neg (by simp [hi]), Group.lane_raiseFlags_other _ _ _ _ hi]
  refine ⟨_, ⟨State.group?_setGroup_same _ _ _, fun k hk => (State.group?_setGroup_other _ _ _ _ hk).trans (State.group?_finish_other s p _ k hk), rfl, hp, rfl,
    (Group.length_moveTo _ _ _).trans hlen, fun i => ?_, fun i hi => ?_⟩, fun i ha => (congrArg Lane.pc (hacting i ha) :), fun i ha => (congrArg Lane.fpflags (hacting i ha) :),
    ?_, fun i r _ later => hread later i r⟩
  · have hl : ∃ pc fl, ((g.raiseFlags (g.results p.cur.lanes f)).moveTo p.cur.lanes (succPc p.cur.pc)).lane i = { g.lane i with pc := pc, fpflags := fl } := by
      rw [Group.lane_moveTo, Group.lane_raiseFlags]
      split <;> split <;> exact ⟨_, _, rfl⟩
    obtain ⟨pc, fl, hl⟩ := hl
    exact ⟨(congrArg Lane.trappc hl :), (congrArg Lane.fpen hl :), (congrArg Lane.st hl :)⟩
  · exact ⟨(congrArg Lane.pc (hother i hi) :), (congrArg Lane.fpflags (hother i hi) :), fun r later => hread later i r⟩
  · exact ⟨rfl, _, rfl, rfl, rfl, rfl, fun i ha w hw => (mem_laneWrites g _ f _ _ _).mpr ⟨⟨ha.1, ha.2.1⟩, hw⟩⟩

/-- Results leave what LaneDone says: scoreboarded ones always, those of a fixed latency when no lane's result names a register twice. -/
theorem State.deliver_done' {s : State} {p : Packet} {g : Group} (hp : ∃ n, s.packet = some { p with stall := n }) (lat : Latency) (f : Nat → LaneRes)
    (hf : lat.isFixed = true → ∀ i, ((f i).writes.map (·.1)).Nodup) :
    ∃ h, LaneDone s (s.deliver p (g.raiseFlags (g.results p.cur.lanes f)) lat (laneWrites (g.results p.cur.lanes f))) p g h lat (fun _ => succPc p.cur.pc) f := by
  cases lat with
  | fixed n => exact State.deliver_done hp _ f (hf rfl)
  | scoreboard n => exact State.deliver_scoreboard_done hp n f

/-- An instruction that delivers lanewise completes with its results when no lane raises an enabled flag. -/
theorem completes_of_lanewise {s : State} {p : Packet} {g : Group} {i : Instr} {lat : Latency} {f : Nat → LaneRes} (hs : s.issuing = some (p, g))
    (he : exec i s = .next (s.lanewise p g lat f)) (hf : lat.isFixed = true → ∀ k, ((f k).writes.map (·.1)).Nodup) (hq : g.quiet p.cur.lanes f) : Completes s p g i lat f := by
  obtain ⟨h, hd⟩ := State.deliver_done' ⟨p.stall, ((State.issuing_iff s p g).mp hs).1⟩ lat f hf
  exact ⟨_, h, he.trans (congrArg _ (s.lanewise_quiet p lat hq)), hd⟩

/-- The fetch suspension changes no more than the packet's stall count (R351). -/
theorem State.suspend_eq {s : State} {p : Packet} (hp : s.packet = some p) (g : Group) (lat : Latency) : ∃ n, s.suspend g lat = { s with packet := some { p with stall := n } } := by
  unfold State.suspend
  split
  · exact ⟨_, by rw [hp]; rfl⟩
  · exact ⟨p.stall, by rw [← hp]⟩

/-- An instruction that suspends the fetch and delivers lanewise completes or traps (R83, R351). -/
theorem completesOrTraps_of_suspend {s : State} {p : Packet} {g : Group} {i : Instr} {lat : Latency} {f : Nat → LaneRes} (hs : s.issuing = some (p, g))
    (he : exec i s = .next ((s.suspend g lat).lanewise p g lat f)) (hf : lat.isFixed = true → ∀ k, ((f k).writes.map (·.1)).Nodup) : CompletesOrTraps s p g i lat f := by
  obtain ⟨n, hn⟩ := State.suspend_eq ((State.issuing_iff s p g).mp hs).1 g lat
  rw [hn] at he
  refine ⟨fun hq => ?_, fun hq ht => ⟨n, _, _, ?_, g.flagsRaised p f⟩⟩
  · obtain ⟨h, hd⟩ := State.deliver_done' (s := { s with packet := some { p with stall := n } }) ⟨n, rfl⟩ lat f hf
    exact ⟨_, h, he.trans (congrArg _ (State.lanewise_quiet _ p lat hq)), LaneDone.of_stall rfl hd⟩
  · exact he.trans (congrArg _ (State.lanewise_traps _ lat ht hq))

/-- The floating-point instructions complete or trap (R83, R351). -/
theorem floatInstr_completesOrTraps {s : State} {p : Packet} {g : Group} {i : Instr} {lat : Latency} {f : Group → Nat → LaneRes} (hs : s.issuing = some (p, g))
    (he : exec i s = floatInstr s lat f) (hf : lat.isFixed = true → ∀ k, ((f g k).writes.map (·.1)).Nodup) : CompletesOrTraps s p g i lat (f g) :=
  completesOrTraps_of_suspend hs (he.trans (State.issue_eq hs _)) hf

/-- A lane instruction whose result in each lane is one word without flags completes with that word. -/
theorem word_completes {s : State} {p : Packet} {g : Group} {i : Instr} {lat : Latency} {d : Reg} {f : Group → Nat → LaneRes} (hs : s.issuing = some (p, g))
    (he : exec i s = laneInstr s lat f) {v : Nat → Word} (hv : ∀ k, f g k = .word d (v k)) : Completes s p g i lat fun k => .word d (v k) := by
  have hf : f g = fun k => .word d (v k) := funext hv
  exact completes_of_lanewise hs (hf ▸ he.trans (State.issue_eq hs _)) (fun _ _ => List.nodup_singleton _) (g.quiet_of_flags_zero _ fun _ => rfl)

end Sys2Proof.Machine
end

section
/-! SUPPORT. Lane integer arithmetic (R55, R178 to R187): each function of the model is the value of the spec's table; from these the results of the integer, carry, field, compare, exchange and immediate instructions. -/
namespace Sys2Proof.Machine

/-! ## Words and halves -/

theorem hiWord_eq_ofNat (x : DWord) : hiWord x = BitVec.ofNat 32 (x.toNat / 2 ^ 32) := by
  apply BitVec.eq_of_toNat_eq
  simp [hiWord, Nat.shiftRight_eq_div_pow]

theorem hiWord_eq_ofInt (x : DWord) : hiWord x = BitVec.ofInt 32 (x.toInt / 2 ^ 32) := by
  rw [hiWord_eq_ofNat]
  apply BitVec.eq_of_toNat_eq
  have hx := x.isLt
  rw [BitVec.toNat_ofNat, BitVec.toNat_ofInt, BitVec.toInt_eq_toNat_cond]
  split <;> omega

/-! ## R178 -/

theorem add_eq_ofNat (a b : Word) : a + b = BitVec.ofNat 32 (a.toNat + b.toNat) := BitVec.eq_of_toNat_eq (by simp)
theorem mul_eq_ofNat (a b : Word) : a * b = BitVec.ofNat 32 (a.toNat * b.toNat) := BitVec.eq_of_toNat_eq (by simp)
theorem mulAdd_eq_ofNat (a b c : Word) : a * b + c = BitVec.ofNat 32 (a.toNat * b.toNat + c.toNat) := BitVec.eq_of_toNat_eq (by simp)
theorem sub_eq_ofInt (a b : Word) : a - b = BitVec.ofInt 32 (a.toInt - b.toInt) := by
  apply BitVec.eq_of_toInt_eq
  rw [BitVec.toInt_sub, BitVec.toInt_ofInt]
theorem addInt_eq_ofInt (a b : Word) : a + b = BitVec.ofInt 32 (a.toInt + b.toInt) := by
  apply BitVec.eq_of_toInt_eq
  rw [BitVec.toInt_add, BitVec.toInt_ofInt]

theorem mulHighU_eq_ofNat (a b : Word) : mulHighU a b = BitVec.ofNat 32 (a.toNat * b.toNat / 2 ^ 32) := by
  have hlt : a.toNat * b.toNat < 2 ^ 32 * 2 ^ 32 := Nat.mul_lt_mul'' a.isLt b.isLt
  rw [mulHighU, hiWord_eq_ofNat, BitVec.toNat_mul, BitVec.toNat_setWidth_of_le (by decide), BitVec.toNat_setWidth_of_le (by decide), Nat.mod_eq_of_lt (by omega)]

theorem mulHigh_eq_ofInt (a b : Word) : mulHigh a b = BitVec.ofInt 32 (a.toInt * b.toInt / 2 ^ 32) := by
  have ha : a.toInt ≤ 2147483648 := a.toInt_lt.le
  have ha' : -2147483648 ≤ a.toInt := a.le_toInt
  have hb : b.toInt ≤ 2147483648 := b.toInt_lt.le
  have hb' : -2147483648 ≤ b.toInt := b.le_toInt
  have hlo : -(2 ^ 62) ≤ a.toInt * b.toInt := by nlinarith only [mul_nonneg (sub_nonneg.mpr ha) (sub_nonneg.mpr hb), mul_nonneg (sub_nonneg.mpr ha') (sub_nonneg.mpr hb')]
  have hhi : a.toInt * b.toInt ≤ 2 ^ 62 := by nlinarith only [mul_nonneg (sub_nonneg.mpr ha) (sub_nonneg.mpr hb'), mul_nonneg (sub_nonneg.mpr ha') (sub_nonneg.mpr hb)]
  have hprod : (a.signExtend 64 * b.signExtend 64).toInt = a.toInt * b.toInt := by
    rw [BitVec.toInt_mul, BitVec.toInt_signExtend_of_le (by decide), BitVec.toInt_signExtend_of_le (by decide)]
    exact Int.bmod_eq_of_le (by omega) (by omega)
  rw [mulHigh, hiWord_eq_ofInt, hprod]

theorem shiftLeft_eq_ofNat (a : Word) (n : Nat) : a <<< n = BitVec.ofNat 32 (a.toNat * 2 ^ n) := BitVec.eq_of_toNat_eq (by simp [Nat.shiftLeft_eq])
theorem shiftRight_eq_ofNat (a : Word) (n : Nat) : a >>> n = BitVec.ofNat 32 (a.toNat / 2 ^ n) := by
  apply BitVec.eq_of_toNat_eq
  have hlt : a.toNat / 2 ^ n < 2 ^ 32 := lt_of_le_of_lt (Nat.div_le_self _ _) a.isLt
  rw [BitVec.toNat_ushiftRight, Nat.shiftRight_eq_div_pow, BitVec.toNat_ofNat, Nat.mod_eq_of_lt hlt]
theorem sshiftRight_eq_ofInt (a : Word) (n : Nat) : a.sshiftRight n = BitVec.ofInt 32 (a.toInt / 2 ^ n) := by
  rw [BitVec.sshiftRight, Int.shiftRight_eq_div_pow]
  norm_cast

/-- The bits rotated out of a word come in below those that stay. -/
theorem rotateLeft_eq_ofNat (a : Word) {n : Nat} (hn : n < 32) : a.rotateLeft n = BitVec.ofNat 32 (a.toNat * 2 ^ n + a.toNat / 2 ^ (32 - n)) := by
  have hdisj : (a <<< n) &&& (a >>> (32 - n)) = 0 := by
    ext i hi
    simp only [BitVec.getElem_and, BitVec.getElem_shiftLeft, BitVec.getElem_ushiftRight]
    by_cases h : i < n
    · simp [h]
    · rw [BitVec.getLsbD_of_ge a (32 - n + i) (by omega)]
      simp
  rw [BitVec.rotateLeft_def, Nat.mod_eq_of_lt hn, ← BitVec.add_eq_or_of_and_eq_zero _ _ hdisj, shiftLeft_eq_ofNat, shiftRight_eq_ofNat, BitVec.ofNat_add]

theorem minSigned_eq_ofInt (a b : Word) : minSigned a b = BitVec.ofInt 32 (min a.toInt b.toInt) := by
  unfold minSigned; split
  · rw [min_eq_left ‹_›, BitVec.ofInt_toInt]
  · rw [min_eq_right (by omega), BitVec.ofInt_toInt]
theorem maxSigned_eq_ofInt (a b : Word) : maxSigned a b = BitVec.ofInt 32 (max a.toInt b.toInt) := by
  unfold maxSigned; split
  · rw [max_eq_right ‹_›, BitVec.ofInt_toInt]
  · rw [max_eq_left (by omega), BitVec.ofInt_toInt]
theorem minUnsigned_eq_ofNat (a b : Word) : minUnsigned a b = BitVec.ofNat 32 (min a.toNat b.toNat) := by
  unfold minUnsigned; split
  · rw [min_eq_left ‹_›, BitVec.ofNat_toNat, BitVec.setWidth_eq]
  · rw [min_eq_right (by omega), BitVec.ofNat_toNat, BitVec.setWidth_eq]
theorem maxUnsigned_eq_ofNat (a b : Word) : maxUnsigned a b = BitVec.ofNat 32 (max a.toNat b.toNat) := by
  unfold maxUnsigned; split
  · rw [max_eq_right ‹_›, BitVec.ofNat_toNat, BitVec.setWidth_eq]
  · rw [max_eq_left (by omega), BitVec.ofNat_toNat, BitVec.setWidth_eq]

theorem absWord_eq_ofNat (a : Word) : absWord a = BitVec.ofNat 32 a.toInt.natAbs := by
  have ha := a.isLt
  apply BitVec.eq_of_toNat_eq
  rw [absWord, BitVec.toInt_eq_toNat_cond]
  split <;> split <;> simp only [BitVec.toNat_neg, BitVec.toNat_ofNat] <;> omega

theorem onesCount_eq (a : Word) : onesCount a = BitVec.ofNat 32 ((List.range 32).filter fun j => a.getLsbD j).length := by
  rw [onesCount, List.countP_eq_length_filter]

theorem clampInt_eq {lo hi : Int} (h : lo ≤ hi) (v : Int) : clampInt lo hi v = max lo (min hi v) := by
  unfold clampInt; split
  · omega
  · split <;> omega

theorem saturateSigned_eq (v : Int) : saturateSigned v = BitVec.ofInt 32 (max (-(2 ^ 31)) (min (2 ^ 31 - 1) v)) := by
  rw [saturateSigned, clampInt_eq (by decide)]
  rfl
theorem saturateUnsigned_of_nat (n : Nat) : saturateUnsigned n = BitVec.ofNat 32 (min (2 ^ 32 - 1) n) := by
  rw [saturateUnsigned, clampInt_eq (by decide), ← BitVec.ofInt_natCast]
  congr 1
  omega
theorem saturateUnsigned_sub (m n : Nat) (hm : m < 2 ^ 32) : saturateUnsigned ((m : Int) - n) = BitVec.ofNat 32 (m - n) := by
  rw [saturateUnsigned, clampInt_eq (by decide), ← BitVec.ofInt_natCast]
  congr 1
  omega

theorem leadingZeros_zero : leadingZeros 0 = 32 := rfl
/-- The leading zeros of a word that is not 0 leave its highest 1 bit. -/
theorem leadingZeros_bounds {a : Word} (h : a ≠ 0) :
    (leadingZeros a).toNat < 32 ∧ 2 ^ (31 - (leadingZeros a).toNat) ≤ a.toNat ∧ a.toNat < 2 ^ (32 - (leadingZeros a).toNat) := by
  have hn : a.toNat ≠ 0 := fun h0 => h (BitVec.eq_of_toNat_eq h0)
  have hlog : a.toNat.log2 < 32 := (Nat.log2_lt hn).mpr a.isLt
  have hz : (leadingZeros a).toNat = 31 - a.toNat.log2 := by
    rw [leadingZeros, bitLen, if_neg hn, BitVec.toNat_ofNat]
    omega
  rw [hz, show 31 - (31 - a.toNat.log2) = a.toNat.log2 by omega, show 32 - (31 - a.toNat.log2) = a.toNat.log2 + 1 by omega]
  exact ⟨by omega, Nat.log2_self_le hn, Nat.lt_log2_self⟩

/-- A word made from a test of its bits has those bits. -/
theorem getLsbD_wordOf (f : Nat → Bool) {j : Nat} (hj : j < 32) : (wordOf f).getLsbD j = f j := by
  have key : ∀ (ks : List Nat) (w : Word), (ks.foldl (fun w k => if f k then w ||| (1#32 <<< k) else w) w).getLsbD j = (w.getLsbD j || (decide (j ∈ ks) && f j)) := by
    intro ks
    induction ks with
    | nil => simp
    | cons k ks ih =>
      intro w
      rw [List.foldl_cons, ih]
      have hbit : (1#32 <<< k).getLsbD j = decide (k = j) := by
        rw [← BitVec.twoPow_eq, BitVec.getLsbD_twoPow]
        by_cases h : k = j <;> simp [h, hj]
      by_cases h : k = j
      · subst h
        cases hk : f k <;> simp [BitVec.getLsbD_or, hbit]
      · cases hk : f k <;> simp [BitVec.getLsbD_or, hbit, h, Ne.symm h]
  rw [wordOf, key]
  simp [hj]

theorem getLsbD_reverseBits (a : Word) {j : Nat} (hj : j < 32) : (reverseBits a).getLsbD j = a.getLsbD (31 - j) := getLsbD_wordOf _ hj

/-! ## R179 to R183 -/

theorem truth_eq (b : Bool) : truth b = if b then 1 else 0 := rfl

theorem extractSigned_eq (a b : Word) : extractSigned a b =
    BitVec.ofInt 32 (if (fieldOf b).2 = 0 then 0 else if fieldBits a b < 2 ^ ((fieldOf b).2 - 1) then (fieldBits a b : Int) else (fieldBits a b : Int) - 2 ^ (fieldOf b).2) := by
  unfold extractSigned
  dsimp only
  split
  · rfl
  · split
    · rw [BitVec.ofInt_natCast]
    · rfl

/-- A run of n 1 bits from a position on. -/
theorem testBit_onesAt (n k j : Nat) : ((2 ^ n - 1) * 2 ^ k).testBit j = decide (k ≤ j ∧ j < k + n) := by
  rw [Nat.mul_comm, Nat.testBit_two_pow_mul, Nat.testBit_two_pow_sub_one]
  by_cases h : k ≤ j
  · simp only [ge_iff_le, h, decide_true, Bool.true_and, true_and]
    congr 1
    exact propext (by omega)
  · simp [h]

theorem getLsbD_insertField (a b c : Word) {j : Nat} (hj : j < 32) :
    (insertField a b c).getLsbD j = if (fieldOf b).1 ≤ j ∧ j < (fieldOf b).1 + (fieldOf b).2 then a.getLsbD (j - (fieldOf b).1) else c.getLsbD j := by
  simp only [insertField, BitVec.getLsbD_or, BitVec.getLsbD_and, BitVec.getLsbD_not, BitVec.getLsbD_ofNat, BitVec.getLsbD_shiftLeft, testBit_onesAt, hj, decide_true, Bool.true_and]
  by_cases h : (fieldOf b).1 ≤ j ∧ j < (fieldOf b).1 + (fieldOf b).2
  · simp [h, Nat.not_lt.mpr h.1]
  · simp [h]

theorem getLsbD_invertIf (on : Bool) (x : Word) {j : Nat} (hj : j < 32) : (invertIf on x).getLsbD j = (x.getLsbD j ^^ on) := by
  cases on <;> simp [invertIf, hj]

theorem signExtend_eq_ofInt (i : BitVec 13) : i.signExtend 32 = BitVec.ofInt 32 i.toInt := rfl

/-! ## The instructions of R178 to R183 -/

section
variable {s : State} {p : Packet} {g : Group} {i : Instr} {d a b : Reg} {r q : Route} {v : Nat → Word} (hs : s.issuing = some (p, g))
include hs

theorem int1_completes {f : Word → Word} (he : exec i s = int1 s f d a r) (hv : ∀ k, f (g.src s.cycle k a r) = v k) : Completes s p g i (.fixed 2) fun k => .word d (v k) :=
  word_completes hs he fun k => congrArg _ (hv k)

theorem int2_completes {f : Word → Word → Word} (he : exec i s = int2 s f d a r b q) (hv : ∀ k, f (g.src s.cycle k a r) (g.src s.cycle k b q) = v k) :
    Completes s p g i (.fixed 2) fun k => .word d (v k) :=
  word_completes hs he fun k => congrArg _ (hv k)

theorem int3_completes {f : Word → Word → Word → Word} (he : exec i s = int3 s f d a r b q)
    (hv : ∀ k, f (g.src s.cycle k a r) (g.src s.cycle k b q) (g.read s.cycle k d) = v k) : Completes s p g i (.fixed 2) fun k => .word d (v k) :=
  word_completes hs he fun k => congrArg _ (hv k)

theorem intImm_completes {f : Word → Word} (he : exec i s = intImm s f d a) (hv : ∀ k, f (g.read s.cycle k a) = v k) : Completes s p g i (.fixed 2) fun k => .word d (v k) :=
  word_completes hs he fun k => congrArg _ (hv k)

theorem intPair_completes {f : Word → Word → Word × Word} (he : exec i s = intPair s f d a r b q) {u : Nat → Word × Word}
    (hv : ∀ k, f (g.src s.cycle k a r) (g.src s.cycle k b q) = u k) : Completes s p g i (.fixed 2) fun k => { writes := [(d, (u k).1), (d.plus 1, (u k).2)] } := by
  have hf : (fun k => ({ writes := [(d, (f (g.src s.cycle k a r) (g.src s.cycle k b q)).1), (d.plus 1, (f (g.src s.cycle k a r) (g.src s.cycle k b q)).2)] } : LaneRes))
      = fun k => { writes := [(d, (u k).1), (d.plus 1, (u k).2)] } := funext fun k => by rw [hv k]
  refine hf ▸ laneInstr_completes hs he (fun k => ?_) (g.quiet_of_flags_zero _ fun _ => rfl)
  simp [Reg.ne_plus_one d]
end

/-- Settles O1: each code is a form of one, two or three sources whose function is the table's value. -/
theorem laneIntegerResults : Obligations.LaneIntegerResults := by
  intro s p g hs d a r b q
  refine ⟨
    int2_completes hs (f := (· + ·)) rfl fun _ => add_eq_ofNat _ _,
    int2_completes hs (f := (· - ·)) rfl fun _ => sub_eq_ofInt _ _,
    int2_completes hs (f := (· * ·)) rfl fun _ => mul_eq_ofNat _ _,
    int2_completes hs (f := mulHigh) rfl fun _ => mulHigh_eq_ofInt _ _,
    int2_completes hs (f := mulHighU) rfl fun _ => mulHighU_eq_ofNat _ _,
    int3_completes hs (f := fun a b c => a * b + c) rfl fun _ => mulAdd_eq_ofNat _ _ _,
    int2_completes hs (f := (· &&& ·)) rfl fun _ => rfl,
    int2_completes hs (f := (· ||| ·)) rfl fun _ => rfl,
    int2_completes hs (f := (· ^^^ ·)) rfl fun _ => rfl,
    int2_completes hs (f := shiftLeft) rfl fun _ => shiftLeft_eq_ofNat _ _,
    int2_completes hs (f := shiftRight) rfl fun _ => shiftRight_eq_ofNat _ _,
    int2_completes hs (f := shiftArith) rfl fun _ => sshiftRight_eq_ofInt _ _,
    int2_completes hs (f := rotateLeft) rfl fun _ => rotateLeft_eq_ofNat _ (Nat.mod_lt _ (by decide)),
    int2_completes hs (f := minSigned) rfl fun _ => minSigned_eq_ofInt _ _,
    int2_completes hs (f := maxSigned) rfl fun _ => maxSigned_eq_ofInt _ _,
    int2_completes hs (f := minUnsigned) rfl fun _ => minUnsigned_eq_ofNat _ _,
    int2_completes hs (f := maxUnsigned) rfl fun _ => maxUnsigned_eq_ofNat _ _,
    int1_completes hs (f := absWord) rfl fun _ => absWord_eq_ofNat _,
    int3_completes hs (f := fun a b c => if c ≠ 0 then a else b) rfl fun _ => ite_not ..,
    int1_completes hs (f := onesCount) rfl fun _ => onesCount_eq _,
    int2_completes hs (f := fun a b => saturateSigned (a.toInt + b.toInt)) rfl fun _ => saturateSigned_eq _,
    int2_completes hs (f := fun a b => saturateUnsigned (a.toNat + b.toNat)) rfl fun _ => ?_,
    int2_completes hs (f := fun a b => saturateSigned (a.toInt - b.toInt)) rfl fun _ => saturateSigned_eq _,
    int2_completes hs (f := fun a b => saturateUnsigned ((a.toNat : Int) - b.toNat)) rfl fun _ => saturateUnsigned_sub _ _ (BitVec.isLt _),
    ⟨_, int1_completes hs (f := leadingZeros) rfl fun _ => rfl, fun k => ⟨fun h => ?_, fun h => leadingZeros_bounds h⟩⟩,
    ⟨_, int1_completes hs (f := reverseBits) rfl fun _ => rfl, fun k j hj => getLsbD_reverseBits _ hj⟩⟩
  · exact_mod_cast saturateUnsigned_of_nat _
  · dsimp only at h ⊢
    rw [h, leadingZeros_zero]

/-- Settles O2: the carry is the truth of the comparison, and a field lies within the word. -/
theorem laneCarryAndFields : Obligations.LaneCarryAndFields := by
  intro s p g hs d a r b q
  refine ⟨?_, ?_, int2_completes hs (f := extractUnsigned) rfl fun _ => rfl, int2_completes hs (f := extractSigned) rfl fun _ => extractSigned_eq _ _,
    ⟨_, int3_completes hs (f := insertField) rfl fun _ => rfl, fun k j hj => getLsbD_insertField _ _ _ hj⟩⟩
  · simpa only [truth_eq, decide_eq_true_eq] using
      intPair_completes hs (i := .addc d a r b q) (f := fun a b => (a + b, truth (decide (2 ^ 32 ≤ a.toNat + b.toNat)))) rfl fun _ => rfl
  · simpa only [truth_eq, decide_eq_true_eq] using
      intPair_completes hs (i := .subb d a r b q) (f := fun a b => (a - b, truth (decide (a.toNat < b.toNat)))) rfl fun _ => rfl

/-- A comparison writes the truth of its condition. -/
theorem cmp_completes {s : State} {p : Packet} {g : Group} {i : Instr} {d a b : Reg} {r q : Route} {v : Nat → Bool} (hs : s.issuing = some (p, g)) (c : Cond)
    (he : exec i s = int2 s (fun a b => truth (condHolds c a b)) d a r b q) (hv : ∀ k, condHolds c (g.src s.cycle k a r) (g.src s.cycle k b q) = v k) :
    Completes s p g i (.fixed 2) fun k => .word d (if v k then 1 else 0) :=
  int2_completes hs he fun k => congrArg truth (hv k)

/-- Settles O3: cmp.cc writes the truth of its condition. -/
theorem laneCompareResults : Obligations.LaneCompareResults := by
  intro s p g hs d a r b q
  exact ⟨cmp_completes hs .eq rfl fun _ => beq_eq_decide .., cmp_completes hs .ne rfl fun _ => by rw [condHolds, bne, beq_eq_decide, decide_not], cmp_completes hs .lt rfl fun _ => rfl, cmp_completes hs .le rfl fun _ => rfl,
    cmp_completes hs .gt rfl fun _ => rfl, cmp_completes hs .ge rfl fun _ => rfl, cmp_completes hs .ltu rfl fun _ => rfl, cmp_completes hs .leu rfl fun _ => rfl,
    cmp_completes hs .gtu rfl fun _ => rfl, cmp_completes hs .geu rfl fun _ => rfl⟩

/-! ## Exchange (R184 to R187) -/

theorem truth_eq_one {b : Bool} : truth b = 1 ↔ b = true := by cases b <;> decide
theorem truth_or (b : Bool) : truth b = 1 ∨ truth b = 0 := by cases b <;> decide

theorem Group.getLsbD_nonzero (g : Group) (now : Nat) (m : LaneMask) (a : Reg) (r : Route) {j : Nat} (hj : j < 64) :
    (g.nonzero now m a r).getLsbD j = true ↔ (m.getLsbD j = true ∧ j < g.width) ∧ g.src now j a r ≠ 0 := by
  simp only [Group.nonzero, getLsbD_maskOf, List.mem_filter, Group.mem_list, hj, true_and, bne_iff_ne]

/-- A vote over the values of the active lanes writes its truth in each of them. -/
theorem vote_completes {s : State} {p : Packet} {g : Group} {i : Instr} {d a : Reg} {r : Route} (f : List Word → Bool) (hs : s.issuing = some (p, g))
    (he : exec i s = vote s f d a r) {holds : Prop} (hf : f ((g.list p.cur.lanes).map fun k => g.src s.cycle k a r) = true ↔ holds) :
    ∃ v : Word, (v = 1 ∨ v = 0) ∧ (v = 1 ↔ holds) ∧ Completes s p g i (.scoreboard 6) fun _ => .word d v :=
  ⟨_, truth_or _, truth_eq_one.trans hf, completes_of_lanewise hs (he.trans (State.issue_eq hs _)) (fun h => by cases h) (g.quiet_of_flags_zero _ fun _ => rfl)⟩

/-- All words of a list equal the first exactly when all equal one another. -/
theorem all_eq_head_iff (l : List Word) : (l.all (· == l.headD 0)) = true ↔ ∀ x ∈ l, ∀ y ∈ l, x = y := by
  cases l with
  | nil => simp
  | cons x l =>
    simp only [List.headD_cons, List.all_eq_true, beq_iff_eq]
    exact ⟨fun h a ha b hb => (h a ha).trans (h b hb).symm, fun h a ha => h a ha x List.mem_cons_self⟩

/-- Settles O4: the ballot's mask and the votes range over the lanes that are active. -/
theorem laneExchangeResults : Obligations.LaneExchangeResults := by
  intro s p g hs d a r b q
  refine ⟨⟨g.nonzero s.cycle p.cur.lanes a r, fun j hj => g.getLsbD_nonzero _ _ _ _ hj, ?_⟩, vote_completes (fun l => l.all (· != 0)) hs rfl ?_,
    vote_completes (fun l => l.any (· != 0)) hs rfl ?_, vote_completes (fun l => l.all (· == l.headD 0)) hs rfl ?_, word_completes hs rfl fun _ => rfl,
    int1_completes hs (f := id) rfl fun _ => rfl⟩
  · refine completes_of_lanewise hs (State.issue_eq hs _) (fun h => by cases h) (g.quiet_of_flags_zero _ fun _ => ?_)
    split <;> rfl
  · simp [Group.mem_list]
  · simp [Group.mem_list]
  · rw [all_eq_head_iff]
    simp only [List.forall_mem_map, Group.mem_list]
    exact ⟨fun h i j hi hj => h i hi j hj, fun h i hi j hj => h i j hi hj⟩

/-! ## Immediate forms (R182, R183) -/

theorem shiftAmount (n : BitVec 5) : (n.setWidth 32 : Word).toNat % 32 = n.toNat := by
  rw [BitVec.toNat_setWidth_of_le (by decide), Nat.mod_eq_of_lt n.isLt]

/-- Each bit of a gate function is the function of the inputs' bits (R183). -/
theorem getLsbD_lop3Result (f : Lop3Fn) (m : BitVec 3) (a b c : Word) {j : Nat} (hj : j < 32) :
    let i1 := a.getLsbD j ^^ m.getLsbD 2
    let i2 := b.getLsbD j ^^ m.getLsbD 1
    let i3 := c.getLsbD j ^^ m.getLsbD 0
    (lop3Result f m a b c).getLsbD j = match f with
      | .xor3 => i1 ^^ i2 ^^ i3
      | .maj => i1 && i2 || i1 && i3 || i2 && i3
      | .mux => if i3 then i1 else i2
      | .and3 => i1 && i2 && i3
      | .or3 => i1 || i2 || i3
      | .andor => i1 && i2 || i3
      | .orand => (i1 || i2) && i3
      | .xorand => (i1 ^^ i2) && i3
      | .andxor => (i1 && i2) ^^ i3
      | .orxor => (i1 || i2) ^^ i3 := by
  cases f <;> simp only [lop3Result, gate, BitVec.getLsbD_xor, BitVec.getLsbD_and, BitVec.getLsbD_or, BitVec.getLsbD_not, hj, decide_true, Bool.true_and, getLsbD_invertIf _ _ hj]
  case mux => cases (c.getLsbD j ^^ m.getLsbD 0) <;> simp

/-- Settles O5: the immediate is its sign extension, a shift amount is below 32, and lop3 acts bit by bit. -/
theorem laneImmediateResults : Obligations.LaneImmediateResults := by
  intro s p g hs d a b imm n f m
  refine ⟨
    intImm_completes hs (f := (· + imm.signExtend 32)) rfl fun _ => ?_,
    intImm_completes hs (f := (· &&& imm.signExtend 32)) rfl fun _ => rfl,
    intImm_completes hs (f := (· ||| imm.signExtend 32)) rfl fun _ => rfl,
    intImm_completes hs (f := (· ^^^ imm.signExtend 32)) rfl fun _ => rfl,
    intImm_completes hs (f := (shiftLeft · (n.setWidth 32))) rfl fun _ => ?_,
    intImm_completes hs (f := (shiftRight · (n.setWidth 32))) rfl fun _ => ?_,
    intImm_completes hs (f := (shiftArith · (n.setWidth 32))) rfl fun _ => ?_,
    intImm_completes hs (f := (rotateLeft · (n.setWidth 32))) rfl fun _ => ?_,
    word_completes hs rfl fun _ => rfl,
    ⟨_, word_completes hs rfl fun _ => rfl, word_completes hs rfl fun _ => rfl, fun k j hj => getLsbD_lop3Result f m _ _ _ hj⟩⟩
  · rw [addInt_eq_ofInt, BitVec.toInt_signExtend_of_le (by decide)]
  · rw [shiftLeft, shiftAmount, shiftLeft_eq_ofNat]
  · rw [shiftRight, shiftAmount, shiftRight_eq_ofNat]
  · rw [shiftArith, shiftAmount, sshiftRight_eq_ofInt]
  · rw [rotateLeft, shiftAmount, rotateLeft_eq_ofNat _ n.isLt]

end Sys2Proof.Machine
end

section
/-! SUPPORT. Lane floating point (R194 to R207): what each form of the model comes to, and from these the results of the FP32, FP64, packed, conversion and BQ4 instructions. -/
namespace Sys2Proof.Machine

/-! ## The forms of FP32 and FP64 -/

theorem nodup_ofFRes (w : Bool) (d : Reg) (v : FRes) : ((LaneRes.ofFRes w d v).writes.map (·.1)).Nodup := by
  cases w
  · exact List.nodup_singleton d
  · exact nodup_pairOf d 0

section
variable {s : State} {p : Packet} {g : Group} {i : Instr} {d a b : Reg} {r q : Route} (hs : s.issuing = some (p, g))
include hs

theorem fp1_completesOrTraps (w : Bool) {lat : Latency} (f : FFmt → RMode → FVal → FRes) (he : exec i s = fp1 s w lat f d a r) :
    CompletesOrTraps s p g i lat fun k => .ofFRes w d (f (fmtOf w) (g.rmode (fmtOf w)) (g.fin (fmtOf w) (g.srcBits w s.cycle k a r))) :=
  floatInstr_completesOrTraps hs he fun _ _ => nodup_ofFRes w d _

theorem fp2_completesOrTraps (w : Bool) {lat : Latency} (f : FFmt → RMode → FVal → FVal → FRes) (he : exec i s = fp2 s w lat f d a r b q) :
    CompletesOrTraps s p g i lat fun k =>
      .ofFRes w d (f (fmtOf w) (g.rmode (fmtOf w)) (g.fin (fmtOf w) (g.srcBits w s.cycle k a r)) (g.fin (fmtOf w) (g.srcBits w s.cycle k b q))) :=
  floatInstr_completesOrTraps hs he fun _ _ => nodup_ofFRes w d _

theorem fp3_completesOrTraps (w : Bool) (he : exec i s = fp3 s w d a r b q) :
    CompletesOrTraps s p g i (fpLatency w) fun k => .ofFRes w d ((fmtOf w).fma (g.rmode (fmtOf w)) (g.fin (fmtOf w) (g.srcBits w s.cycle k a r))
      (g.fin (fmtOf w) (g.srcBits w s.cycle k b q)) (g.fin (fmtOf w) (g.priorBits w s.cycle k d))) :=
  floatInstr_completesOrTraps hs he fun _ _ => nodup_ofFRes w d _

theorem fpMinMax_completesOrTraps (w m : Bool) (he : exec i s = fpMinMax s w m d a r b q) :
    CompletesOrTraps s p g i (fpLatency w) fun k => .ofFRes w d ((fmtOf w).minMax g.fpftz m (g.srcBits w s.cycle k a r) (g.srcBits w s.cycle k b q)) :=
  floatInstr_completesOrTraps hs he fun _ _ => nodup_ofFRes w d _

theorem fpRound_completesOrTraps (w : Bool) (mode : Rounding) (he : exec i s = fpRound s w mode d a r) :
    CompletesOrTraps s p g i (fpLatency w) fun k => .ofFRes w d ((fmtOf w).toIntegral mode g.fpftz (g.srcBits w s.cycle k a r)) :=
  floatInstr_completesOrTraps hs he fun _ _ => nodup_ofFRes w d _

theorem fpCompare_completesOrTraps (w : Bool) (c : FCond) (he : exec i s = fpCompare s w c d a r b q) :
    CompletesOrTraps s p g i (fpLatency w) fun k =>
      let t := c.test (g.fin (fmtOf w) (g.srcBits w s.cycle k a r)) (g.fin (fmtOf w) (g.srcBits w s.cycle k b q))
      { writes := [(d, if t.1 then 1 else 0)], flags := t.2 } :=
  floatInstr_completesOrTraps hs he fun _ _ => List.nodup_singleton d

/-- A floating-point form whose results raise no flag completes. -/
theorem floatInstr_completes_quiet {lat : Latency} {f : Group → Nat → LaneRes} {v : Nat → LaneRes} (he : exec i s = floatInstr s lat f) (hv : ∀ k, f g k = v k)
    (hn : ∀ k, ((v k).writes.map (·.1)).Nodup) (hf : ∀ k, (v k).flags = 0) : Completes s p g i lat v := by
  obtain rfl : f g = v := funext hv
  exact floatInstr_completes hs he hn (g.quiet_of_flags_zero _ hf)

theorem floatWord_completes {lat : Latency} {f : Group → Nat → LaneRes} {v : Nat → Word} (he : exec i s = floatInstr s lat f) (hv : ∀ k, f g k = .word d (v k)) :
    Completes s p g i lat fun k => .word d (v k) :=
  floatInstr_completes_quiet hs he hv (fun _ => List.nodup_singleton d) fun _ => rfl
end

/-! ## Sign bits (R196) -/

theorem and_lowBits (x : Word) : x &&& 0x7FFFFFFF#32 = BitVec.ofNat 32 (x.toNat % 2 ^ 31) := by
  apply BitVec.eq_of_toNat_eq
  have hx := x.isLt
  rw [BitVec.toNat_and, show (0x7FFFFFFF#32).toNat = 2 ^ 31 - 1 from rfl, Nat.and_two_pow_sub_one_eq_mod, BitVec.toNat_ofNat]
  omega

theorem toNat_and_signBit (x : Word) : (x &&& 0x80000000#32).toNat = x.toNat / 2 ^ 31 * 2 ^ 31 := by
  have hx := x.isLt
  rw [BitVec.toNat_and, show (0x80000000#32).toNat = 2 ^ 31 from rfl, Nat.and_two_pow, Nat.toNat_testBit]
  omega

/-- The low bits of one word under the sign bit of another. -/
theorem lowBits_or_signBit (x y : Word) : (x &&& 0x7FFFFFFF#32) ||| (y &&& 0x80000000#32) = BitVec.ofNat 32 (x.toNat % 2 ^ 31 + y.toNat / 2 ^ 31 * 2 ^ 31) := by
  apply BitVec.eq_of_toNat_eq
  have hx : x.toNat % 2 ^ 31 < 2 ^ 31 := Nat.mod_lt _ (by decide)
  have hy := y.isLt
  rw [BitVec.toNat_or, toNat_and_signBit, and_lowBits, BitVec.toNat_ofNat, Nat.mod_eq_of_lt (by omega), Nat.or_comm, Nat.mul_comm, ← Nat.two_pow_add_eq_or_of_lt hx, BitVec.toNat_ofNat]
  omega

/-- A sign bit turned by that of another word: the sum modulo 2^32. -/
theorem xor_signBit (x y : Word) : x ^^^ (y &&& 0x80000000#32) = BitVec.ofNat 32 (x.toNat + y.toNat / 2 ^ 31 * 2 ^ 31) := by
  apply BitVec.eq_of_toNat_eq
  have hx := x.isLt
  have hy := y.isLt
  rw [BitVec.toNat_xor, toNat_and_signBit, BitVec.toNat_ofNat]
  have hhi : (x.toNat ^^^ y.toNat / 2 ^ 31 * 2 ^ 31) / 2 ^ 31 = (x.toNat / 2 ^ 31 + y.toNat / 2 ^ 31) % 2 := by
    rw [Nat.xor_div_two_pow, Nat.mul_div_cancel _ (by decide)]
    obtain h | h : x.toNat / 2 ^ 31 = 0 ∨ x.toNat / 2 ^ 31 = 1 := by omega
    all_goals
      obtain h' | h' : y.toNat / 2 ^ 31 = 0 ∨ y.toNat / 2 ^ 31 = 1 := by omega
      all_goals rw [h, h']; rfl
  have hlo : (x.toNat ^^^ y.toNat / 2 ^ 31 * 2 ^ 31) % 2 ^ 31 = x.toNat % 2 ^ 31 := by
    rw [Nat.xor_mod_two_pow, Nat.mul_mod_left, Nat.xor_zero]
  omega

/-! ## FP32 and FP64 (R194 to R200) -/

/-- Settles O6: each form is one of the shared shapes at FP32; the sign operations and fcls raise no flag. -/
theorem laneFp32Results : Obligations.LaneFp32Results := by
  intro s p g hs d a r b q
  refine ⟨fp2_completesOrTraps hs false addVals rfl, fp2_completesOrTraps hs false (fun f m a b => addVals f m a b.negate) rfl, fp2_completesOrTraps hs false FFmt.mul rfl,
    fp3_completesOrTraps hs false rfl, fpMinMax_completesOrTraps hs false false rfl, fpMinMax_completesOrTraps hs false true rfl,
    fp2_completesOrTraps hs false FFmt.div rfl, fp1_completesOrTraps hs false FFmt.sqrt rfl, fp1_completesOrTraps hs false (fun f m a => f.div m (.fin false 1 0) a) rfl,
    fp1_completesOrTraps hs false FFmt.rsqrt rfl, fp1_completesOrTraps hs false FFmt.exp2 rfl, fp1_completesOrTraps hs false FFmt.log2 rfl,
    floatWord_completes hs rfl fun _ => rfl, floatWord_completes hs rfl fun _ => ?_, floatWord_completes hs rfl fun _ => ?_, floatWord_completes hs rfl fun _ => ?_,
    floatWord_completes hs rfl fun _ => ?_, fpRound_completesOrTraps hs false .nearestEven rfl, fpRound_completesOrTraps hs false .towardZero rfl,
    fpRound_completesOrTraps hs false .down rfl, fpRound_completesOrTraps hs false .up rfl,
    fpCompare_completesOrTraps hs false .eq rfl, fpCompare_completesOrTraps hs false .ne rfl, fpCompare_completesOrTraps hs false .lt rfl, fpCompare_completesOrTraps hs false .le rfl,
    fpCompare_completesOrTraps hs false .gt rfl, fpCompare_completesOrTraps hs false .ge rfl, fpCompare_completesOrTraps hs false .un rfl, fpCompare_completesOrTraps hs false .ord rfl⟩
  · exact congrArg _ (lowBits_or_signBit _ _)
  · exact congrArg _ (xor_signBit _ 0x80000000#32)
  · exact congrArg _ (xor_signBit _ _)
  · exact congrArg _ (and_lowBits _)

/-- Settles O7: each form is one of the shared shapes at FP64. -/
theorem laneFp64Results : Obligations.LaneFp64Results := by
  intro s p g hs d a r b q
  exact ⟨fp2_completesOrTraps hs true addVals rfl, fp2_completesOrTraps hs true (fun f m a b => addVals f m a b.negate) rfl, fp2_completesOrTraps hs true FFmt.mul rfl,
    fp3_completesOrTraps hs true rfl, fpMinMax_completesOrTraps hs true false rfl, fpMinMax_completesOrTraps hs true true rfl,
    fp2_completesOrTraps hs true FFmt.div rfl, fp1_completesOrTraps hs true FFmt.sqrt rfl,
    fpRound_completesOrTraps hs true .nearestEven rfl, fpRound_completesOrTraps hs true .towardZero rfl,
    fpRound_completesOrTraps hs true .down rfl, fpRound_completesOrTraps hs true .up rfl,
    fpCompare_completesOrTraps hs true .eq rfl, fpCompare_completesOrTraps hs true .ne rfl, fpCompare_completesOrTraps hs true .lt rfl, fpCompare_completesOrTraps hs true .le rfl,
    fpCompare_completesOrTraps hs true .gt rfl, fpCompare_completesOrTraps hs true .ge rfl, fpCompare_completesOrTraps hs true .un rfl, fpCompare_completesOrTraps hs true .ord rfl⟩

/-! ## Packed halves, conversions, packing (R201 to R205) -/

theorem halfOf_zero (w : Word) : halfOf w 0 = w.toNat % 2 ^ 16 := by rw [halfOf, Nat.mul_zero, Nat.pow_zero, Nat.div_one]

/-- The registers that n values are unpacked to name none twice, for n up to 64. -/
theorem nodup_unpacked (d : Reg) (vs : List FRes) (h : vs.length ≤ 64) : ((vs.zipIdx.map fun v => (d.plus v.2, BitVec.ofNat 32 v.1.bits)).map (·.1)).Nodup := by
  have hm : (vs.zipIdx.map fun v => (d.plus v.2, (BitVec.ofNat 32 v.1.bits : Word))).map (·.1) = (List.range vs.length).map d.plus := by
    rw [List.map_map, List.range_eq_range', ← List.zipIdx_map_snd, List.map_map]
    rfl
  rw [hm]
  exact Reg.nodup_plus d List.nodup_range fun k hk => lt_of_lt_of_le (List.mem_range.mp hk) h

section
variable {s : State} {p : Packet} {g : Group} {i : Instr} {d a b : Reg} {r q : Route} (hs : s.issuing = some (p, g))
include hs

theorem packed_completesOrTraps (f : Rounding → Nat → Nat → Nat → FRes) (he : exec i s = packed s f d a r b q) :
    CompletesOrTraps s p g i (.fixed 4) fun k =>
      let l := f g.fprm ((g.src s.cycle k a r).toNat % 2 ^ 16) ((g.src s.cycle k b q).toNat % 2 ^ 16) ((g.read s.cycle k d).toNat % 2 ^ 16)
      let h := f g.fprm ((g.src s.cycle k a r).toNat / 2 ^ 16 % 2 ^ 16) ((g.src s.cycle k b q).toNat / 2 ^ 16 % 2 ^ 16) ((g.read s.cycle k d).toNat / 2 ^ 16 % 2 ^ 16)
      { writes := [(d, BitVec.ofNat 32 (l.bits + 2 ^ 16 * h.bits))], flags := l.flags ||| h.flags } := by
  have h := floatInstr_completesOrTraps hs he fun _ _ => List.nodup_singleton d
  simp only [halfOf_zero] at h
  exact h

theorem convert_completesOrTraps {t u : Fmt} {mode : Option Rounding} {sat : Bool} (he : exec i s = convert s t u mode sat d a r) :
    CompletesOrTraps s p g i (.fixed (if t = .fp64 ∨ u = .fp64 then 8 else 4)) fun k =>
      let v := convertValue t u (mode.getD g.fprm) g.fpftz sat (if u = .fp64 then (g.srcPair s.cycle k a r).toNat else (g.src s.cycle k a r).toNat)
      { writes := if t = .fp64 then [(d, BitVec.ofNat 32 v.bits), (d.plus 1, BitVec.ofNat 32 (v.bits / 2 ^ 32))] else [(d, BitVec.ofNat 32 v.bits)], flags := v.flags } := by
  have h := floatInstr_completesOrTraps hs he fun _ _ => nodup_ofFRes _ d _
  by_cases ht : t = .fp64 <;> by_cases hu : u = .fp64 <;>
    simpa only [fpLatency, LaneRes.ofFRes, Group.srcBits, ht, hu, beq_iff_eq, Bool.or_eq_true, true_or, or_true, or_self, or_false, false_or, if_true, if_false] using h

theorem packTwo_completesOrTraps {t : Fmt} {n : Nat} {sat : Bool} (he : exec i s = packTwo s t n sat d a r b q) :
    CompletesOrTraps s p g i (.fixed 4) fun k =>
      let v := convertValue t .fp32 g.fprm g.fpftz sat (g.src s.cycle k a r).toNat
      let w := convertValue t .fp32 g.fprm g.fpftz sat (g.src s.cycle k b q).toNat
      { writes := [(d, BitVec.ofNat 32 (v.bits + 2 ^ n * w.bits))], flags := v.flags ||| w.flags } :=
  floatInstr_completesOrTraps hs he fun _ _ => List.nodup_singleton d

/-- Two values of a word unpacked (R205). -/
theorem unpackTwo_completesOrTraps (f : Bool → Nat → FRes) (he : exec i s = unpackTo s 2 16 f d a r) :
    CompletesOrTraps s p g i (.fixed 4) fun k =>
      let v := fun j => f g.fpftz ((g.src s.cycle k a r).toNat / 2 ^ (16 * j) % 2 ^ 16)
      { writes := [(d, BitVec.ofNat 32 (v 0).bits), (d.plus 1, BitVec.ofNat 32 (v 1).bits)], flags := (v 0).flags ||| (v 1).flags } := by
  have h := floatInstr_completesOrTraps hs he fun _ _ => nodup_unpacked d _ (by simp)
  simpa [List.range_succ, Reg.plus_zero] using h

/-- Four values of a word unpacked (R205). -/
theorem unpackFour_completesOrTraps (f : Bool → Nat → FRes) (he : exec i s = unpackTo s 4 8 f d a r) :
    CompletesOrTraps s p g i (.fixed 4) fun k =>
      let v := fun j => f g.fpftz ((g.src s.cycle k a r).toNat / 2 ^ (8 * j) % 2 ^ 8)
      { writes := [(d, BitVec.ofNat 32 (v 0).bits), (d.plus 1, BitVec.ofNat 32 (v 1).bits), (d.plus 2, BitVec.ofNat 32 (v 2).bits), (d.plus 3, BitVec.ofNat 32 (v 3).bits)],
        flags := (v 0).flags ||| (v 1).flags ||| (v 2).flags ||| (v 3).flags } := by
  have h := floatInstr_completesOrTraps hs he fun _ _ => nodup_unpacked d _ (by simp)
  simpa [List.range_succ, Reg.plus_zero] using h
end

/-- The four values of a word unpacked without flags. -/
theorem unpkI8_completes {s : State} {p : Packet} {g : Group} (hs : s.issuing = some (p, g)) (d a : Reg) (r : Route) :
    Completes s p g (.unpkI8 d a r) (.fixed 4) fun k =>
      let v := fun j => (BitVec.ofNat 8 ((g.src s.cycle k a r).toNat / 2 ^ (8 * j) % 2 ^ 8)).signExtend 32
      { writes := [(d, v 0), (d.plus 1, v 1), (d.plus 2, v 2), (d.plus 3, v 3)] } := by
  refine floatInstr_completes_quiet hs rfl (fun k => ?_) (fun k => ?_) fun _ => rfl
  · simp [List.range_succ, Reg.plus_zero]
  · simpa [Reg.plus_zero] using Reg.nodup_plus d (ks := [0, 1, 2, 3]) (by decide) (by decide)

/-- Settles O8: each form is one of the shared shapes; a saturated byte is clamped first. -/
theorem lanePackedAndConversions : Obligations.LanePackedAndConversions := by
  intro s p g hs d a r b q t u
  refine ⟨⟨packed_completesOrTraps hs (halfAdd .fp16) rfl, packed_completesOrTraps hs (halfMul .fp16) rfl, packed_completesOrTraps hs (halfFma .fp16) rfl,
      packed_completesOrTraps hs (halfMax .fp16) rfl⟩,
    ⟨packed_completesOrTraps hs (halfAdd .bf16) rfl, packed_completesOrTraps hs (halfMul .bf16) rfl, packed_completesOrTraps hs (halfFma .bf16) rfl,
      packed_completesOrTraps hs (halfMax .bf16) rfl⟩,
    convert_completesOrTraps hs (mode := none) rfl, convert_completesOrTraps hs (mode := none) rfl, convert_completesOrTraps hs (mode := some .nearestEven) rfl,
    convert_completesOrTraps hs (mode := some .towardZero) rfl, convert_completesOrTraps hs (mode := some .down) rfl, convert_completesOrTraps hs (mode := some .up) rfl,
    packTwo_completesOrTraps hs rfl, packTwo_completesOrTraps hs rfl, packTwo_completesOrTraps hs rfl, packTwo_completesOrTraps hs rfl, packTwo_completesOrTraps hs rfl,
    packTwo_completesOrTraps hs rfl, floatWord_completes hs rfl fun _ => rfl, floatWord_completes hs rfl fun _ => ?_,
    unpackTwo_completesOrTraps hs (convertValue .fp32 .fp16 .nearestEven · false ·) rfl, unpackTwo_completesOrTraps hs (convertValue .fp32 .bf16 .nearestEven · false ·) rfl,
    unpackFour_completesOrTraps hs (convertValue .fp32 .e4m3 .nearestEven · false ·) rfl, unpackFour_completesOrTraps hs (convertValue .fp32 .e5m2 .nearestEven · false ·) rfl,
    unpkI8_completes hs d a r⟩
  simp only [clampInt_eq (show (-128 : Int) ≤ 127 by decide), BitVec.ofNat_toNat, BitVec.setWidth_eq, if_true]

/-! ## BQ4 (R206, R207) -/

/-- What is delivered depends on the results of the active lanes alone. -/
theorem State.lanewise_congr {s : State} {p : Packet} {g : Group} {lat : Latency} {f f' : Nat → LaneRes} (h : ∀ k, p.cur.lanes.getLsbD k = true → k < g.width → f k = f' k) :
    s.lanewise p g lat f = s.lanewise p g lat f' := by
  have hr : g.results p.cur.lanes f = g.results p.cur.lanes f' := List.map_congr_left fun k hk => by
    obtain ⟨hm, hw⟩ := (g.mem_list _ _).mp hk
    rw [h k hm hw]
  simp only [State.lanewise, hr]

/-- A form across the lanes of a block in a group of 16 lanes (R206, R207). -/
theorem packBq4_traps {s : State} {p : Packet} {g : Group} (hs : s.issuing = some (p, g)) (type : Nat) (d a : Reg) (r : Route) (hw : g.width < 32) :
    packBq4 s type d a r = .next (s.trapAt p.gid p.cur .illegal p.cur.lanes 0) :=
  (State.issue_eq hs _).trans (by rw [if_pos hw])

/-- Each lane finds its block among those of its group (R206). -/
theorem packBq4_completesOrTraps {s : State} {p : Packet} {g : Group} {i : Instr} (hs : s.issuing = some (p, g)) {type : Nat} {d a : Reg} {r : Route}
    (he : exec i s = packBq4 s type d a r) (hw : 32 ≤ g.width) (hm : g.width % 32 = 0) :
    CompletesOrTraps s p g i (.scoreboard 12) fun k =>
      let blk := bq4Pack type g.fprm (bq4Inputs g s.cycle p.cur.lanes a r (k / 32 * 32))
      { writes := [(d, bq4LaneWord blk (k % 32))], flags := blk.flags.getD (k % 32) 0 ||| blk.blockFlags } := by
  refine completesOrTraps_of_suspend hs (he.trans ((State.issue_eq hs _).trans ?_)) fun _ _ => List.nodup_singleton d
  rw [if_neg (Nat.not_lt.mpr hw)]
  refine congrArg _ (State.lanewise_congr fun k _ hk => ?_)
  have hb : k / 32 < g.width / 32 := by omega
  simp [List.getD_eq_getElem?_getD, hb, Nat.mul_comm 32]

theorem bq4HeaderAt_eq (g : Group) (now : Nat) (a : Reg) (k : Nat) : bq4HeaderAt g now a (k / 32) = (g.read now (k / 32 * 32 + 4) a).toNat % 2 ^ 16 := by
  rw [bq4HeaderAt, Nat.mul_comm]

/-- A block whose header is well-formed is unpacked lane by lane (R207). -/
theorem unpkBq4_completesOrTraps {s : State} {p : Packet} {g : Group} (hs : s.issuing = some (p, g)) (d a : Reg) (hw : 32 ≤ g.width)
    (hok : ∀ k, p.cur.lanes.getLsbD k = true → k < g.width → bq4Malformed (bq4HeaderAt g s.cycle a (k / 32)) = false) :
    CompletesOrTraps s p g (.unpkBq4 d a) (.scoreboard 12) fun k =>
      let v := FFmt.fp32.round (halfMode g.fprm) (bq4Value (bq4HeaderAt g s.cycle a (k / 32)) ((g.read s.cycle (k / 32 * 32 + k % 32 / 8) a).toNat / 2 ^ (4 * (k % 8)) % 16))
      { writes := [(d, BitVec.ofNat 32 v.bits)], flags := v.flags } := by
  have hbad : (g.list p.cur.lanes).filter (fun i => bq4Malformed (bq4HeaderAt g s.cycle a (i / 32))) = [] := by
    refine List.filter_eq_nil_iff.mpr fun k hk => ?_
    obtain ⟨hm, hlt⟩ := (g.mem_list _ _).mp hk
    rw [hok k hm hlt]
    exact Bool.false_ne_true
  refine completesOrTraps_of_suspend hs ((State.issue_eq hs _).trans ?_) fun _ _ => List.nodup_singleton d
  rw [if_neg (Nat.not_lt.mpr hw), hbad]
  exact congrArg _ (if_neg (not_not.mpr rfl))

/-- Settles O9: the four packing forms are one with their type, and a lane's block is that of its 32 lanes. -/
theorem laneBq4Results : Obligations.LaneBq4Results := by
  intro s p g hs d a r
  refine ⟨⟨packBq4_traps hs 0 d a r, packBq4_completesOrTraps hs rfl⟩, ⟨packBq4_traps hs 1 d a r, packBq4_completesOrTraps hs rfl⟩,
    ⟨packBq4_traps hs 2 d a r, packBq4_completesOrTraps hs rfl⟩, ⟨packBq4_traps hs 3 d a r, packBq4_completesOrTraps hs rfl⟩,
    fun hw => (State.issue_eq hs _).trans (by rw [if_pos hw]), fun hw hok => ?_⟩
  simp only [← bq4HeaderAt_eq] at hok ⊢
  exact unpkBq4_completesOrTraps hs d a hw hok

end Sys2Proof.Machine
end

section
/-! SUPPORT. Random streams and aged values in lanes (R208 to R214): what the draws and the aged instructions leave. -/
namespace Sys2Proof.Machine

/-! ## Pairs of words -/

theorem toNat_joinWords (lo hi : Word) : (joinWords lo hi).toNat = hi.toNat * 2 ^ 32 + lo.toNat := by
  rw [joinWords, BitVec.toNat_append, ← Nat.shiftLeft_add_eq_or_of_lt lo.isLt, Nat.shiftLeft_eq]
@[simp] theorem loWord_joinWords (lo hi : Word) : loWord (joinWords lo hi) = lo := by
  apply BitVec.eq_of_toNat_eq
  have hl := lo.isLt
  rw [loWord, BitVec.toNat_setWidth, toNat_joinWords]
  omega
@[simp] theorem hiWord_joinWords (lo hi : Word) : hiWord (joinWords lo hi) = hi := by
  have hl := lo.isLt
  rw [hiWord_eq_ofNat, toNat_joinWords, show (hi.toNat * 2 ^ 32 + lo.toNat) / 2 ^ 32 = hi.toNat by omega, BitVec.ofNat_toNat, BitVec.setWidth_eq]

/-! ## Random streams (R208, R209) -/

/-- A lane instruction without flags completes with its results; scoreboarded ones may name a register twice. -/
theorem lane_completes {s : State} {p : Packet} {g : Group} {i : Instr} {lat : Latency} {f : Group → Nat → LaneRes} (hs : s.issuing = some (p, g)) (he : exec i s = laneInstr s lat f)
    {v : Nat → LaneRes} (hv : ∀ k, f g k = v k) (hn : lat.isFixed = true → ∀ k, ((v k).writes.map (·.1)).Nodup) (hf : ∀ k, (v k).flags = 0) : Completes s p g i lat v := by
  obtain rfl : f g = v := funext hv
  exact completes_of_lanewise hs (he.trans (State.issue_eq hs _)) hn (g.quiet_of_flags_zero _ hf)

/-- Settles O10: a pair of words is their number, by which a position moves. -/
theorem laneStreamResults : Obligations.LaneStreamResults := by
  intro s p g hs d a r b q
  refine ⟨lane_completes hs rfl (fun _ => rfl) (fun h => by cases h) fun _ => rfl, lane_completes hs rfl (fun i => ?_) (fun h => by cases h) fun _ => rfl,
    lane_completes hs rfl (fun _ => rfl) (fun h => by cases h) fun _ => rfl, lane_completes hs rfl (fun _ => rfl) (fun h => by cases h) fun _ => rfl,
    lane_completes hs rfl (fun i => ?_) (fun h => by cases h) fun _ => rfl⟩
  · congr 1
    apply BitVec.eq_of_toNat_eq
    rw [BitVec.toNat_add, toNat_joinWords, BitVec.toNat_ofNat, Nat.add_assoc]
  · simp only [toNat_joinWords, Nat.add_comm (_ * 2 ^ 32)]
    rfl

/-! ## Aged values (R210 to R214) -/

theorem Aged.loWord_bits (e : Aged) : loWord e.bits = BitVec.ofNat 32 (e.stamp % 2 ^ 24 * 256 + e.sel % 256) := loWord_joinWords _ _
theorem Aged.hiWord_bits (e : Aged) : hiWord e.bits = e.value := hiWord_joinWords _ _

/-- An element's bits by its numbers (R73). -/
theorem Aged.bits_eq (v : Nat) (stamp sel : Nat) : ({ value := BitVec.ofNat 32 v, stamp := stamp, sel := sel } : Aged).bits = BitVec.ofNat 64 (v % 2 ^ 32 * 2 ^ 32 + stamp % 2 ^ 24 * 256 + sel % 256) := by
  apply BitVec.eq_of_toNat_eq
  rw [Aged.bits, toNat_joinWords, BitVec.toNat_ofNat, BitVec.toNat_ofNat, BitVec.toNat_ofNat]
  dsimp only
  omega

/-- FPFTZ acts on FP32 (R61). -/
theorem Group.fin_fp32 (g : Group) (b : Nat) : g.fin .fp32 b = FFmt.fp32.input g.fpftz b := by
  rw [Group.fin, show FFmt.flushes .fp32 = true from rfl, Bool.and_true]

/-- The lanes of an aged instruction whose selectors are not valid (R75). -/
def agedBad (s : State) (p : Packet) (g : Group) (sels : Nat → List (Fin 16 × Nat)) : LaneMask :=
  maskOf ((g.list p.cur.lanes).filter fun i => (sels i).any fun x => (s.decayFactor s.dev.qepoch x.1.val x.2).isNone)

theorem getLsbD_agedBad (s : State) (p : Packet) (g : Group) (sels : Nat → List (Fin 16 × Nat)) (i : Nat) : (agedBad s p g sels).getLsbD i = true ↔
    i < 64 ∧ (p.cur.lanes.getLsbD i = true ∧ i < g.width) ∧ ¬ ∀ x ∈ sels i, s.decayFactor s.dev.qepoch x.1.val x.2 ≠ none := by
  simp only [agedBad, getLsbD_maskOf, List.mem_filter, Group.mem_list, List.any_eq_true, Option.isNone_iff_eq_none, ne_eq, not_forall, not_not, exists_prop]

section
variable {s : State} {p : Packet} {g : Group} {i : Instr} {sels : Group → Nat → List (Fin 16 × Nat)} {f : Group → Nat → LaneRes} (hs : s.issuing = some (p, g))
  (he : exec i s = agedInstr s sels f)
include hs he

/-- With every selector valid an aged instruction completes or traps FP_EXC. -/
theorem aged_completesOrTraps {v : Nat → LaneRes} (hok : ∀ k, p.cur.lanes.getLsbD k = true ∧ k < g.width → ∀ x ∈ sels g k, s.decayFactor s.dev.qepoch x.1.val x.2 ≠ none)
    (hv : ∀ k, f g k = v k) : CompletesOrTraps s p g i (.scoreboard 32) v := by
  obtain rfl : f g = v := funext hv
  have hbad : agedBad s p g (sels g) = 0 := by
    refine BitVec.eq_of_getLsbD_eq fun k _ => ?_
    rw [Bool.eq_iff_iff, getLsbD_agedBad]
    exact ⟨fun h => absurd (hok k h.2.1) h.2.2, fun h => by simp at h⟩
  refine completesOrTraps_of_suspend hs (he.trans ((State.issue_eq hs _).trans ?_)) fun h => by cases h
  exact congrArg _ (if_neg (not_not.mpr hbad))

/-- With a selector that is not valid the lanes that hold one trap DECAY_RANGE. -/
theorem aged_traps (hbad : ∃ k, (p.cur.lanes.getLsbD k = true ∧ k < g.width) ∧ ¬ ∀ x ∈ sels g k, s.decayFactor s.dev.qepoch x.1.val x.2 ≠ none) :
    ∃ m : LaneMask, exec i s = .next (s.trapAt p.gid p.cur .decayRange m 0) ∧ ∀ k, k < 64 → (m.getLsbD k = true ↔ (p.cur.lanes.getLsbD k = true ∧ k < g.width)
      ∧ ¬ ∀ x ∈ sels g k, s.decayFactor s.dev.qepoch x.1.val x.2 ≠ none) := by
  obtain ⟨k, hact, hk⟩ := hbad
  have hne : agedBad s p g (sels g) ≠ 0 := fun h0 => by
    have hb := (getLsbD_agedBad s p g (sels g) k).mpr ⟨BitVec.lt_of_getLsbD hact.1, hact, hk⟩
    simp [h0] at hb
  refine ⟨agedBad s p g (sels g), he.trans ((State.issue_eq hs _).trans (congrArg _ (if_pos hne))), fun k hk => ?_⟩
  rw [getLsbD_agedBad]
  tauto
end

theorem agedOf_stamp_mod (x : DWord) : (agedOf x).stamp % 2 ^ 24 = (agedOf x).stamp := Nat.mod_mod _ _
theorem agedOf_sel_mod (x : DWord) : (agedOf x).sel % 256 = (agedOf x).sel := Nat.mod_mod _ _
/-- The age of an element, whose stamp has 24 bits (R73). -/
theorem ageOf_agedOf (datum x : DWord) : ageOf datum (agedOf x).stamp = (datum.toNat % 2 ^ 24 + 2 ^ 24 - (agedOf x).stamp) % 2 ^ 24 := by
  rw [ageOf, agedOf_stamp_mod]

/-- A value delivered unrounded, as a word (R61). -/
theorem ofNat_flushedBits (ftz : Bool) (w : Word) : BitVec.ofNat 32 (flushedBits ftz w)
    = if ftz = true ∧ w.toNat / 2 ^ 23 % 256 = 0 then BitVec.ofNat 32 (w.toNat / 2 ^ 31 * 2 ^ 31) else w := by
  by_cases h : ftz = true ∧ w.toNat / 2 ^ 23 % 256 = 0
  · rw [if_pos h, flushedBits, if_pos (by simpa using h)]
  · rw [if_neg h, flushedBits, if_neg (by simpa using h), BitVec.ofNat_toNat, BitVec.setWidth_eq]

/-- The pair of an element is that of its bits. -/
theorem LaneRes.pair_aged (d : Reg) (v stamp : Nat) (x : DWord) : (LaneRes.pair d ({ value := BitVec.ofNat 32 v, stamp := stamp, sel := (agedOf x).sel } : Aged).bits).writes
    = [(d, loWord (BitVec.ofNat 64 (v % 2 ^ 32 * 2 ^ 32 + stamp % 2 ^ 24 * 256 + (agedOf x).sel % 256))),
       (d.plus 1, hiWord (BitVec.ofNat 64 (v % 2 ^ 32 * 2 ^ 32 + stamp % 2 ^ 24 * 256 + (agedOf x).sel % 256)))] := by
  rw [Aged.bits_eq]
  rfl

/-- What the aged value of aget delivers (R76, R211). -/
theorem ofFRes_agedValue (d : Reg) (m : RMode) (g : Group) (lam : FVal) (x datum : DWord) : LaneRes.ofFRes false d (agedValue m g.fpftz lam (agedOf x) datum)
    = (let e := agedOf x
       let age := (datum.toNat % 2 ^ 24 + 2 ^ 24 - e.stamp) % 2 ^ 24
       if decide (2 ^ 23 ≤ age) then
         { writes := [(d, if g.fpftz = true ∧ e.value.toNat / 2 ^ 23 % 256 = 0 then BitVec.ofNat 32 (e.value.toNat / 2 ^ 31 * 2 ^ 31) else e.value)], flags := Flags.af }
       else
         let v := FFmt.fp32.mul m (g.fin .fp32 e.value.toNat) (fDecay lam age)
         { writes := [(d, BitVec.ofNat 32 v.bits)], flags := v.flags }) := by
  dsimp only
  rw [agedValue, ageOf_agedOf, Group.fin_fp32]
  by_cases h : 2 ^ 23 ≤ (datum.toNat % 2 ^ 24 + 2 ^ 24 - (agedOf x).stamp) % 2 ^ 24
  · rw [if_pos h, if_pos (by simpa using h), ← ofNat_flushedBits]
    rfl
  · rw [if_neg h, if_neg (by simpa using h)]
    rfl

/-- Settles O11: each aged instruction by its selectors, with an element by its numbers. -/
theorem laneAgedResults : Obligations.LaneAgedResults := by
  intro s p g hs d a r b q
  refine ⟨fun h => aged_completesOrTraps hs rfl (fun k hk x hx => ?_) (fun k => ?_), fun h => aged_completesOrTraps hs rfl (fun k hk x hx => ?_) (fun k => ?_),
    fun h => aged_completesOrTraps hs rfl (fun k hk x hx => ?_) (fun k => ?_), ⟨32, lane_completes hs rfl (fun k => ?_) (fun h => by cases h) fun _ => rfl⟩, fun h => ?_, fun h => ?_, fun h => ?_⟩
  · obtain rfl := List.mem_singleton.mp hx
    exact h k hk
  · exact ofFRes_agedValue ..
  · obtain rfl := List.mem_singleton.mp hx
    exact h k hk
  · simp only [LaneRes.pair_aged, ageOf_agedOf, addVals, ge_iff_le, decide_eq_true_eq]
  · obtain rfl | hx := List.mem_cons.mp hx
    · exact (h k hk).1
    · obtain rfl := List.mem_singleton.mp hx
      exact (h k hk).2
  · simp only [LaneRes.pair_aged, ageOf_agedOf, addVals, ge_iff_le]
  · rw [LaneRes.pair, Aged.loWord_bits, Aged.hiWord_bits, Nat.mod_mod]
  · simpa using aged_traps hs (i := .aget d a r b q) rfl (by simpa using h)
  · simpa using aged_traps hs (i := .aadd d a r b q) rfl (by simpa using h)
  · simpa using aged_traps hs (i := .amerge d a r b q) rfl (by simpa using h)

end Sys2Proof.Machine
end

section
/-! SUPPORT. Small facts of the model: successors, sample words, the reset state, a step of a decoded instruction, the values of atomics. -/
namespace Sys2Proof.Machine

/-! ## Successors (R88) -/

theorem toNat_succPc (pc : DWord) (h : pc.toNat + 8 < 2 ^ 64) : (succPc pc).toNat = if pc.toNat % 32 = 28 then pc.toNat + 8 else pc.toNat + 4 := by
  rw [succPc]
  split
  · rw [BitVec.toNat_add, show (8 : DWord).toNat = 8 from rfl, Nat.mod_eq_of_lt h]
  · rw [BitVec.toNat_add, show (4 : DWord).toNat = 4 from rfl, Nat.mod_eq_of_lt (by omega)]

/-- A control word is no target: bits [63:56] being right, its address is misaligned (R14). -/
theorem pcFault_controlWord (q : DWord) (ht : q.toNat / 2 ^ 56 = 0 ∨ q.toNat / 2 ^ 56 = 255) (hc : q.toNat / 4 % 8 = 0) : pcFault q = some .misalignedPc := by
  have htop : ¬ (q.toNat / 2 ^ 56 != 0 && q.toNat / 2 ^ 56 != 255) = true := by
    rcases ht with h | h <;> rw [h] <;> decide
  have hmis : (q.toNat % 4 != 0 || decide (q.toNat % 32 < 4)) = true := by
    rw [Bool.or_eq_true, decide_eq_true_eq]
    exact .inr (by omega)
  exact (if_neg htop).trans (if_pos hmis)

/-- Settles O13: word 7 is the one at 28 of its block. -/
theorem sequentialSuccessor : Obligations.SequentialSuccessor := by
  intro pc h4 h0 hlt
  have hs := toNat_succPc pc hlt
  refine ⟨fun h => ?_, fun h => ?_, pcFault_controlWord⟩
  · rw [if_neg (by omega)] at hs
    omega
  · rw [if_pos (by omega)] at hs
    omega

/-- Settles O30: the decoder reads each word. -/
theorem sampleWords : Obligations.SampleWords := by
  unfold Obligations.SampleWords
  decide

/-- Settles O34: the reset state holds no cells, and a byte without a cell reads 0. -/
theorem resetState : Obligations.ResetState := by
  refine ⟨rfl, fun n => ?_, rfl, rfl, rfl, rfl, rfl, rfl, rfl, rfl, rfl, rfl, fun a => rfl⟩
  exact Vector.getElem_replicate ..

/-! ## A step of a decoded instruction (R28, R100) -/

section
variable {s : State} {p : Packet} {g : Group}

/-- The state that `runInstr` leaves is that of the instruction's meaning, with the next instruction of the packet to act. -/
theorem State.runInstr_next {i : Instr} {t : State} (he : exec i s = .next t) : s.runInstr i = .next t.afterSlot := by
  rw [State.runInstr, he]

/-- An instruction that has waited is run without the checks of R100. -/
theorem State.runWord_waited {i : Instr} {t : State} (hd : decodeWord p.cur.word = .ok i) (hw : g.waitOf p.cur.pc p.cur.place ≠ none) (he : exec i s = .next t) :
    s.runWord p g = .next t.afterSlot := by
  simp only [State.runWord, hd, if_pos (Option.isSome_iff_ne_none.mpr hw), State.runInstr_next he]

/-- An instruction that passes the checks of R100 and that no deferred trap is taken for is run. -/
theorem State.runWord_passed {i : Instr} {t : State} (hd : decodeWord p.cur.word = .ok i) (hw : g.waitOf p.cur.pc p.cur.place = none) (hp : s.precheck g p.cur (uses g.width i) = none)
    (hr : g.deferredRead (uses g.width i) = none) (hc : ∀ e ∈ g.conflicts s.cycle p.cur.lanes (uses g.width i), e.id ∉ g.stalls) (he : exec i s = .next t) :
    s.runWord p g = .next t.afterSlot := by
  have hstall : ((g.conflicts s.cycle p.cur.lanes (uses g.width i)).any fun e => g.stalls.contains e.id) = false := by
    simpa using hc
  simp only [State.runWord, hd, hw, hp, hr, hstall, Option.isSome_none, Bool.false_eq_true, if_false, State.runInstr_next he]
end

/-- Settles O31: the fetch, the decoder and the checks, one after the other. -/
theorem stepRunsDecoded : Obligations.StepRunsDecoded := by
  intro s p g hp hg hend i t
  refine ⟨fun c w hw hf hc hd hpre hread hconf he => step_of_runSlot hp ?_, fun hw hd he => step_of_runSlot hp ?_⟩
  · have hbits : ¬ c.toNat / 2 ^ 29 ≠ 0 := by omega
    simp only [State.runSlot, hg, hend, hw, hf, Option.isSome_none, Bool.false_eq_true, if_false, if_neg hbits]
    exact State.runWord_passed (p := { p with cur := { p.cur with word := w } }) hd hw hpre hread hconf he
  · simp only [State.runSlot, hg, hend, Bool.false_eq_true, if_false, if_pos (Option.isSome_iff_ne_none.mpr hw)]
    exact State.runWord_waited hd hw he

/-! ## The values of atomics (R227, R228) -/

@[simp] theorem loWord_setWidth (x : Word) : loWord (x.setWidth 64) = x := by
  rw [loWord, BitVec.setWidth_setWidth_of_le _ (by decide), BitVec.setWidth_eq]
@[simp] theorem loWord_ofNat (n : Nat) : loWord (BitVec.ofNat 64 n) = BitVec.ofNat 32 n := by
  rw [loWord, BitVec.setWidth_ofNat_of_le (by decide)]

/-- Settles O40: each operation by its line of the table. -/
theorem atomicValues : Obligations.AtomicValues := by
  intro m a b c e
  refine ⟨(loWord_setWidth _).trans (add_eq_ofNat _ _), loWord_setWidth _, loWord_setWidth _, loWord_setWidth _, (loWord_setWidth _).trans (minSigned_eq_ofInt _ _),
    (loWord_setWidth _).trans (maxSigned_eq_ofInt _ _), (loWord_setWidth _).trans (minUnsigned_eq_ofNat _ _), (loWord_setWidth _).trans (maxUnsigned_eq_ofNat _ _),
    loWord_setWidth _, ?_, ?_, rfl, ⟨loWord_ofNat _, loWord_ofNat _, loWord_ofNat _, rfl, loWord_ofNat _, loWord_ofNat _⟩, rfl, fun op h => ?_, fun op h => ?_⟩
  · show loWord (if loWord m = a then b.setWidth 64 else (loWord m).setWidth 64) = _
    rw [apply_ite loWord, loWord_setWidth, loWord_setWidth]
  · exact BitVec.eq_of_toNat_eq (by rw [BitVec.toNat_ofNat]; exact BitVec.toNat_add _ _)
  · exact if_neg (by omega)
  · exact if_pos h

end Sys2Proof.Machine
end

section
/-! SUPPORT. Lane transfers, rejoins and the chosen pair (R26, R27, R32, R188 to R193). -/
namespace Sys2Proof.Machine

/-! ## Lanes changed one by one -/

/-- A lane of a group whose lanes are each changed by their number. -/
theorem Group.lane_mapIdx (g : Group) (f : Nat → Lane → Lane) (i : Nat) :
    ({ g with lanes := g.lanes.mapIdx f } : Group).lane i = if i < g.lanes.length then f i (g.lane i) else g.lane i := by
  simp only [Group.lane, List.getD_eq_getElem?_getD, List.getElem?_mapIdx]
  rcases Nat.lt_or_ge i g.lanes.length with h | h
  · simp [h]
  · simp [Nat.not_lt.mpr h]

/-- The goals of the active lanes of a transfer: address, and whether its budget fits. -/
def Group.goals (g : Group) (m : LaneMask) (aim : Nat → DWord) (fits : Nat → Bool) : List (Nat × DWord × Bool) := (g.list m).map fun i => (i, aim i, fits i)

theorem Group.find_goals (g : Group) (m : LaneMask) (aim : Nat → DWord) (fits : Nat → Bool) (i : Nat) :
    (g.goals m aim fits).find? (fun x => x.1 == i) = if m.getLsbD i = true ∧ i < g.width then some (i, aim i, fits i) else none := by
  have key : ∀ l : List Nat, (l.map fun j => (j, aim j, fits j)).find? (fun x => x.1 == i) = if i ∈ l then some (i, aim i, fits i) else none := by
    intro l
    induction l with
    | nil => rfl
    | cons j l ih =>
      by_cases h : j = i
      · subst h
        simp
      · simp [h, ih, Ne.symm h]
  rw [Group.goals, key]
  simp only [Group.mem_list]

/-- A lane of a group whose active lanes moved each to its goal. -/
theorem Group.lane_moveEach (g : Group) (m : LaneMask) (aim : Nat → DWord) (fits : Nat → Bool) (i : Nat) :
    (g.moveEach (g.goals m aim fits)).lane i = if m.getLsbD i = true ∧ i < g.width ∧ i < g.lanes.length then { g.lane i with pc := aim i } else g.lane i := by
  rw [Group.moveEach, Group.lane_mapIdx, Group.find_goals]
  by_cases hl : i < g.lanes.length
  · by_cases hm : m.getLsbD i = true ∧ i < g.width <;> simp [hl, hm]
  · simp [hl]

theorem Group.lane_moveEach_acting {g : Group} {m : LaneMask} {i : Nat} (h : g.acts m i) (aim : Nat → DWord) (fits : Nat → Bool) :
    (g.moveEach (g.goals m aim fits)).lane i = { g.lane i with pc := aim i } := (g.lane_moveEach m aim fits i).trans (if_pos h)
theorem Group.lane_moveEach_other {g : Group} {m : LaneMask} {i : Nat} (h : m.getLsbD i = false) (aim : Nat → DWord) (fits : Nat → Bool) :
    (g.moveEach (g.goals m aim fits)).lane i = g.lane i := (g.lane_moveEach m aim fits i).trans (if_neg (by simp [h]))

theorem Group.read_moveEach (g : Group) (m : LaneMask) (aim : Nat → DWord) (fits : Nat → Bool) (now i : Nat) (r : Reg) :
    (g.moveEach (g.goals m aim fits)).read now i r = g.read now i r := by
  rw [Group.read, Group.lane_moveEach]
  split <;> rfl

/-! ## Transfers that complete (R188 to R190) -/

/-- What a transfer finds wrong: the lanes in order, each with its cause and its goal (R193). -/
def badGoals (goals : List (Nat × DWord × Bool)) : List (Nat × Cause × DWord) := goals.filterMap fun x => match pcFault x.2.1 with
  | some c => some (x.1, c, x.2.1)
  | none => if x.2.2 then none else some (x.1, .budget, x.2.1)

theorem mem_badGoals (g : Group) (m : LaneMask) (aim : Nat → DWord) (fits : Nat → Bool) (k : Nat) (c : Cause) (t : DWord) :
    (k, c, t) ∈ badGoals (g.goals m aim fits) ↔ (m.getLsbD k = true ∧ k < g.width) ∧ t = aim k ∧ (pcFault (aim k) = some c ∨ pcFault (aim k) = none ∧ fits k = false ∧ c = .budget) := by
  simp only [badGoals, Group.goals, List.mem_filterMap, List.mem_map, Group.mem_list]
  constructor
  · rintro ⟨_, ⟨j, hj, rfl⟩, h⟩
    cases hf : pcFault (aim j) with
    | some d =>
      simp only [hf, Option.some.injEq, Prod.mk.injEq] at h
      obtain ⟨rfl, rfl, rfl⟩ := h
      exact ⟨hj, rfl, .inl hf⟩
    | none =>
      cases hx : fits j <;> simp only [hf, hx, Bool.false_eq_true, if_false, if_true, Option.some.injEq, Prod.mk.injEq, reduceCtorEq] at h
      obtain ⟨rfl, rfl, rfl⟩ := h
      exact ⟨hj, rfl, .inr ⟨hf, hx, rfl⟩⟩
  · rintro ⟨hk, rfl, h | ⟨h, hx, rfl⟩⟩
    · exact ⟨_, ⟨k, hk, rfl⟩, by simp [h]⟩
    · exact ⟨_, ⟨k, hk, rfl⟩, by simp [h, hx]⟩

/-- A transfer by what it finds wrong (R193). -/
theorem State.laneJump_eq (s : State) (p : Packet) (g : Group) (goals : List (Nat × DWord × Bool)) (after : State → State) : s.laneJump p g goals after =
    match badGoals goals with
    | (i, c, t) :: r => s.trapAt p.gid p.cur (r.foldl (fun b x => if pcRank x.2.1 < pcRank b then x.2.1 else b) c) (maskOf (i :: r.map (·.1))) t
    | [] => after (s.setGroup p.gid (g.moveEach goals)) := rfl

section
variable {s : State} {p : Packet} {g : Group} {aim : Nat → DWord} {fits : Nat → Bool} {after : State → State}

/-- With every active lane's goal good, the lanes move. -/
theorem State.laneJump_good (hok : ∀ k, p.cur.lanes.getLsbD k = true → k < g.width → pcFault (aim k) = none ∧ fits k = true) :
    s.laneJump p g (g.goals p.cur.lanes aim fits) after = after (s.setGroup p.gid (g.moveEach (g.goals p.cur.lanes aim fits))) := by
  have hbad : badGoals (g.goals p.cur.lanes aim fits) = [] := by
    refine List.eq_nil_iff_forall_not_mem.mpr fun ⟨k, c, t⟩ hx => ?_
    obtain ⟨hk, -, h | ⟨-, h, -⟩⟩ := (mem_badGoals ..).mp hx
    · rw [(hok k hk.1 hk.2).1] at h
      cases h
    · rw [(hok k hk.1 hk.2).2] at h
      cases h
  rw [State.laneJump_eq, hbad]

/-- The moved group keeps what a lane instruction without a trap keeps. -/
theorem laneKeeps_moveEach (hs : s.issuing = some (p, g)) (aim : Nat → DWord) (fits : Nat → Bool) :
    LaneKeeps s (s.setGroup p.gid (g.moveEach (g.goals p.cur.lanes aim fits))) p g (g.moveEach (g.goals p.cur.lanes aim fits)) where
  group := State.group?_setGroup_same _ _ _
  groups k hk := State.group?_setGroup_other _ _ _ _ hk
  rest := rfl
  packet := ⟨p.stall, ((State.issuing_iff s p g).mp hs).1⟩
  own := rfl
  count := List.length_mapIdx
  lane i := by
    rw [Group.lane_moveEach]
    split <;> exact ⟨rfl, rfl, rfl⟩
  others i hi := by
    rw [Group.lane_moveEach_other hi]
    exact ⟨rfl, rfl, fun r later => g.read_moveEach _ _ _ _ _ _⟩

/-- A lane transfer whose goals are all good completes (R188, R190). -/
theorem laneJump_completes {i : Instr} (hs : s.issuing = some (p, g)) (he : exec i s = .next (s.laneJump p g (g.goals p.cur.lanes aim fits) id))
    (hok : ∀ k, p.cur.lanes.getLsbD k = true → k < g.width → pcFault (aim k) = none ∧ fits k = true) : CompletesAt s p g i (.fixed 2) aim fun _ => { writes := [] } := by
  rw [State.laneJump_good hok] at he
  have hlane : ∀ k, g.acts p.cur.lanes k → (g.moveEach (g.goals p.cur.lanes aim fits)).lane k = { g.lane k with pc := aim k } := fun k hk =>
    Group.lane_moveEach_acting hk aim fits
  exact ⟨_, _, he, laneKeeps_moveEach hs aim fits, fun k hk => (congrArg Lane.pc (hlane k hk) :), fun k hk => (congrArg Lane.fpflags (hlane k hk)).trans (BitVec.or_zero ..).symm,
    ⟨rfl, fun k _ w hw => by cases hw⟩, fun k r _ later => g.read_moveEach _ _ _ _ _ _⟩

/-- A call of lanes whose goals are all good completes, with the link in a scoreboard entry (R189). -/
theorem callv_completes {d a : Reg} {r : Route} (hs : s.issuing = some (p, g))
    (hok : ∀ i, p.cur.lanes.getLsbD i = true ∧ i < g.width → pcFault (g.srcPair s.cycle i a r) = none ∧ s.budgetAt g (g.srcPair s.cycle i a r) ≤ g.alloc) :
    CompletesAt s p g (.callv d a r) (.scoreboard 4) (fun i => g.srcPair s.cycle i a r) fun _ => .pair d (succPc p.cur.pc) := by
  let aim := fun i => g.srcPair s.cycle i a r
  let fits := fun i => decide (s.budgetAt g (aim i) ≤ g.alloc)
  have hgood : ∀ k, p.cur.lanes.getLsbD k = true → k < g.width → pcFault (aim k) = none ∧ fits k = true := fun k h1 h2 =>
    ⟨(hok k ⟨h1, h2⟩).1, decide_eq_true (hok k ⟨h1, h2⟩).2⟩
  have he : exec (.callv d a r) s = .next (s.laneJump p g (g.goals p.cur.lanes aim fits) _) := State.issue_eq hs _
  rw [State.laneJump_good hgood, State.post_eq (State.group?_setGroup_same _ _ _)] at he
  have hlane : ∀ k, g.acts p.cur.lanes k → (g.moveEach (g.goals p.cur.lanes aim fits)).lane k = { g.lane k with pc := aim k } := fun k hk =>
    Group.lane_moveEach_acting hk aim fits
  obtain ⟨-, hother, -, hp, -, hcount, hl, hothers⟩ := laneKeeps_moveEach hs aim fits
  refine ⟨_, _, he, ⟨State.group?_setGroup_same _ _ _, fun k hk => (State.group?_setGroup_other _ _ _ _ hk).trans (hother k hk), rfl, hp, rfl, hcount, hl, hothers⟩,
    fun k hk => (congrArg Lane.pc (hlane k hk) :), fun k hk => (congrArg Lane.fpflags (hlane k hk)).trans (BitVec.or_zero ..).symm,
    ⟨rfl, _, rfl, rfl, rfl, rfl, fun k hk w hw => ?_⟩, fun k r _ later => g.read_moveEach _ _ _ _ _ _⟩
  refine List.mem_flatMap.mpr ⟨k, (g.mem_list _ k).mpr ⟨hk.1, hk.2.1⟩, ?_⟩
  simp only [LaneRes.pair, List.mem_cons, List.not_mem_nil, or_false] at hw
  rcases hw with rfl | rfl <;> simp [pairWrites]
end

/-- Settles O14: a transfer of lanes whose goals are all good moves each lane to its own. -/
theorem laneControl : Obligations.LaneControl := by
  intro s p g hs c a d r f
  refine ⟨fun haim hsucc => ?_, fun haim hsucc => ?_, fun h => ?_, callv_completes hs, ?_, fun h => ?_⟩
  · refine laneJump_completes (aim := fun i => if decide (g.read s.cycle i c ≠ 0) = true then branchTarget p.cur.pc f else succPc p.cur.pc) (fits := fun _ => true) hs
      ((State.issue_eq hs _).trans ?_) fun k h1 h2 => ⟨?_, rfl⟩
    · simp [State.laneBranch, Group.goals]
    · rcases haim with h | h
      · split <;> assumption
      · rw [if_neg (by simpa using h k h1 h2)]
        exact hsucc
  · refine laneJump_completes (aim := fun i => if decide (g.read s.cycle i c = 0) = true then branchTarget p.cur.pc f else succPc p.cur.pc) (fits := fun _ => true) hs
      ((State.issue_eq hs _).trans ?_) fun k h1 h2 => ⟨?_, rfl⟩
    · simp [State.laneBranch, Group.goals]
    · rcases haim with h | h
      · split <;> assumption
      · rw [if_neg (by simpa using h k h1 h2)]
        exact hsucc
  · exact laneJump_completes (aim := fun i => g.readPair s.cycle i a) (fits := fun _ => true) hs (State.issue_eq hs _) fun k h1 h2 => ⟨h k ⟨h1, h2⟩, rfl⟩
  · refine ⟨_, State.issue_eq hs _, rfl, List.length_mapIdx, fun i hi => ?_, fun i hi => ?_⟩
    · rw [Group.lane_mapIdx, if_pos hi.2.2, if_pos hi.1]
    · rw [Group.lane_mapIdx, hi]
      simp
  · refine ⟨_, (State.issue_eq hs _).trans (congrArg _ (if_neg h)), rfl, by simp, fun i hi => ?_, fun i hi => ?_⟩
    · rw [Group.lane_modLanes, if_pos ⟨hi.1, hi.2.2⟩]
    · rw [Group.lane_modLanes, if_neg (by simp [hi])]

/-! ## Transfers that trap (R193) -/

/-- The cause taken of those found wrong: that of the first lane, unless a later one has precedence (R193). -/
def rankedCause (c : Cause) (r : List (Nat × Cause × DWord)) : Cause := r.foldl (fun b x => if pcRank x.2.1 < pcRank b then x.2.1 else b) c

/-- The cause taken is one of those found, and none has precedence over it. -/
theorem rankedCause_spec (r : List (Nat × Cause × DWord)) (c : Cause) :
    (rankedCause c r = c ∨ ∃ x ∈ r, rankedCause c r = x.2.1) ∧ pcRank (rankedCause c r) ≤ pcRank c ∧ ∀ x ∈ r, pcRank (rankedCause c r) ≤ pcRank x.2.1 := by
  induction r generalizing c with
  | nil => exact ⟨.inl rfl, Nat.le_refl _, fun x hx => by cases hx⟩
  | cons y r ih =>
    obtain ⟨hmem, hle, hall⟩ := ih (if pcRank y.2.1 < pcRank c then y.2.1 else c)
    rw [show rankedCause c (y :: r) = rankedCause (if pcRank y.2.1 < pcRank c then y.2.1 else c) r from rfl]
    split_ifs at hmem hle hall ⊢ with h
    · refine ⟨.inr ?_, by omega, fun x hx => ?_⟩
      · rcases hmem with h' | ⟨x, hx, h'⟩
        · exact ⟨y, List.mem_cons_self, h'⟩
        · exact ⟨x, List.mem_cons_of_mem _ hx, h'⟩
      · rcases List.mem_cons.mp hx with rfl | hx
        · exact hle
        · exact hall x hx
    · refine ⟨hmem.imp id fun ⟨x, hx, h'⟩ => ⟨x, List.mem_cons_of_mem _ hx, h'⟩, hle, fun x hx => ?_⟩
      rcases List.mem_cons.mp hx with rfl | hx
      · omega
      · exact hall x hx

theorem pcRank_eq_zero {c : Cause} : pcRank c = 0 ↔ c = .pcRange := by
  by_cases h : c = .pcRange
  · simp [h, pcRank]
  · by_cases h' : c = .misalignedPc <;> simp [h, h', pcRank]
theorem pcRank_misalignedPc : pcRank .misalignedPc = 1 := rfl
theorem eq_of_pcRank_eq_one {c : Cause} (h : pcRank c = 1) : c = .misalignedPc := by
  by_contra hc
  simp only [pcRank, beq_iff_eq, hc] at h
  split at h <;> contradiction

/-- The lanes that a transfer finds wrong stand in ascending order. -/
theorem pairwise_badGoals (g : Group) (m : LaneMask) (aim : Nat → DWord) (fits : Nat → Bool) : (badGoals (g.goals m aim fits)).Pairwise fun x y => x.1 < y.1 := by
  have hlt : (g.goals m aim fits).Pairwise fun x y => x.1 < y.1 := (List.Pairwise.filter _ List.pairwise_lt_range).map _ fun _ _ h => h
  have hsame : ∀ (x : Nat × DWord × Bool) (y : Nat × Cause × DWord), (match pcFault x.2.1 with
      | some c => some (x.1, c, x.2.1)
      | none => if x.2.2 then none else some (x.1, Cause.budget, x.2.1)) = some y → y.1 = x.1 := fun x y h => by
    split at h
    · cases h
      rfl
    · split at h
      · cases h
      · cases h
        rfl
  refine List.Pairwise.filterMap _ (fun x x' hx y hy y' hy' => ?_) hlt
  rw [hsame x y hy, hsame x' y' hy']
  exact hx

/-- A transfer with a lane whose goal is wrong moves none: the cause by precedence, every such lane, the goal of the lowest (R193). -/
theorem laneJump_traps {s : State} {p : Packet} {g : Group} {aim : Nat → DWord} {fits : Nat → Bool} {after : State → State} {i : Instr}
    (he : exec i s = .next (s.laneJump p g (g.goals p.cur.lanes aim fits) after)) :
    let acting := fun k => p.cur.lanes.getLsbD k = true ∧ k < g.width
    let bad := fun k => acting k ∧ (pcFault (aim k) ≠ none ∨ fits k = false)
    (∃ k, bad k) →
      ∃ m cause low, exec i s = .next (s.trapAt p.gid p.cur cause m (aim low)) ∧ bad low ∧ (∀ k, bad k → low ≤ k) ∧ (∀ k, k < 64 → (m.getLsbD k = true ↔ bad k))
        ∧ ((∃ k, acting k ∧ pcFault (aim k) = some .pcRange) → cause = .pcRange)
        ∧ ((∀ k, acting k → pcFault (aim k) ≠ some .pcRange) → (∃ k, acting k ∧ pcFault (aim k) = some .misalignedPc) → cause = .misalignedPc)
        ∧ ((∀ k, acting k → pcFault (aim k) = none) → cause = .budget) := by
  intro acting bad ⟨k0, hk0⟩
  have hmem := mem_badGoals g p.cur.lanes aim fits
  have hbad : ∀ k, bad k ↔ ∃ c, (k, c, aim k) ∈ badGoals (g.goals p.cur.lanes aim fits) := fun k => by
    simp only [hmem, exists_and_left, true_and]
    refine and_congr_right fun _ => ?_
    cases hf : pcFault (aim k) <;> simp
  have hord := pairwise_badGoals g p.cur.lanes aim fits
  have hjump := s.laneJump_eq p g (g.goals p.cur.lanes aim fits) after
  generalize badGoals (g.goals p.cur.lanes aim fits) = bads at hmem hbad hord hjump
  cases bads with
  | nil =>
    obtain ⟨c, hc⟩ := (hbad k0).mp hk0
    cases hc
  | cons x r =>
    obtain ⟨low, c, t⟩ := x
    obtain ⟨hlow, rfl, hcause⟩ := (hmem low c t).mp List.mem_cons_self
    obtain ⟨hfrom, hle, hall⟩ := rankedCause_spec r c
    have hrank : ∀ k c' t', (k, c', t') ∈ (low, c, aim low) :: r → pcRank (rankedCause c r) ≤ pcRank c' := fun k c' t' h => by
      rcases List.mem_cons.mp h with h | h
      · cases h
        exact hle
      · exact hall _ h
    obtain ⟨k', t', hk'⟩ : ∃ k' t', (k', rankedCause c r, t') ∈ (low, c, aim low) :: r := by
      rcases hfrom with h | ⟨⟨k', c', t'⟩, hx, h⟩
      · exact ⟨low, aim low, by rw [h]; exact List.mem_cons_self⟩
      · exact ⟨k', t', by rw [h]; exact List.mem_cons_of_mem _ hx⟩
    obtain ⟨hact', rfl, hcause'⟩ := (hmem _ _ _).mp hk'
    refine ⟨_, rankedCause c r, low, he.trans (congrArg _ hjump), (hbad low).mpr ⟨c, List.mem_cons_self⟩, fun k hk => ?_, fun k hk => ?_, ?_, ?_, fun hnone => ?_⟩
    · obtain ⟨c', hc'⟩ := (hbad k).mp hk
      rcases List.mem_cons.mp hc' with h | h
      · cases h
        exact Nat.le_refl _
      · exact (List.rel_of_pairwise_cons hord h).le
    · rw [getLsbD_maskOf, ← List.map_cons (f := fun x : Nat × Cause × DWord => x.1) (a := (low, c, aim low)), List.mem_map, hbad]
      constructor
      · rintro ⟨-, ⟨j, c', t⟩, hx, rfl⟩
        obtain ⟨-, rfl, -⟩ := (hmem _ _ _).mp hx
        exact ⟨c', hx⟩
      · rintro ⟨c', hx⟩
        exact ⟨hk, _, hx, rfl⟩
    · rintro ⟨k, hk, hf⟩
      have h0 := hrank k _ _ ((hmem k _ _).mpr ⟨hk, rfl, .inl hf⟩)
      exact pcRank_eq_zero.mp (Nat.le_zero.mp h0)
    · rintro hno ⟨k, hk, hf⟩
      have h1 := hrank k _ _ ((hmem k _ _).mpr ⟨hk, rfl, .inl hf⟩)
      have hne : pcRank (rankedCause c r) ≠ 0 := fun h0 => by
        rw [pcRank_eq_zero.mp h0] at hcause'
        rcases hcause' with h | ⟨-, -, h⟩
        · exact hno _ hact' h
        · cases h
      rw [pcRank_misalignedPc] at h1
      exact eq_of_pcRank_eq_one (by omega)
    · rcases hcause' with h | ⟨-, -, h⟩
      · rw [hnone _ hact'] at h
        cases h
      · exact h

/-- Settles O15: each lane transfer by the goals of its lanes. -/
theorem laneTransferTraps : Obligations.LaneTransferTraps := by
  intro s p g hs a d r f
  refine ⟨laneJump_traps (State.issue_eq hs _), laneJump_traps (after := id) ((State.issue_eq hs _).trans ?_), laneJump_traps (after := id) ((State.issue_eq hs _).trans ?_), laneJump_traps (State.issue_eq hs _)⟩
  · simp [State.laneBranch, Group.goals]
  · simp [State.laneBranch, Group.goals]

/-! ## Rejoins (R32, R33) -/

theorem lookup_map {α β : Type} (f : Nat → α → β) (l : List (Nat × α)) (k : Nat) : lookup (l.map fun x => (x.1, f x.1 x.2)) k = (lookup l k).map (f k) := by
  induction l with
  | nil => rfl
  | cons x l ih =>
    obtain ⟨j, y⟩ := x
    by_cases h : j = k
    · subst h
      simp [lookup]
    · simpa [lookup, h] using ih

/-- A charge changes no more than the launches. -/
theorem State.charge_eq (s : State) (core : Nat) : ∃ ls, s.charge core = { s with launches := ls } := by
  unfold State.charge State.modLaunch
  split
  · exact ⟨s.launches, rfl⟩
  · split
    · exact ⟨_, rfl⟩
    · exact ⟨s.launches, rfl⟩
theorem State.foldl_charge_eq (cores : List Nat) (s : State) : ∃ ls, cores.foldl State.charge s = { s with launches := ls } := by
  induction cores generalizing s with
  | nil => exact ⟨s.launches, rfl⟩
  | cons c cores ih =>
    obtain ⟨ls, h⟩ := s.charge_eq c
    obtain ⟨ls', h'⟩ := ih { s with launches := ls }
    exact ⟨ls', by rw [List.foldl_cons, h, h']⟩

/-- A group's lanes at the end of a cycle: the rejoins of a resident group that is not parked are released. -/
theorem State.group?_endCycle {s : State} {gid : Nat} {g : Group} (hg : s.group? gid = some g) :
    ∃ h, s.endCycle.group? gid = some h ∧ h.lanes = if s.resident g && g.parked.isNone then g.releaseRejoins.lanes else g.lanes := by
  obtain ⟨ls, hls⟩ := State.foldl_charge_eq (List.range Config.cores) s
  refine ⟨({ s with launches := ls } : State).groupCycle gid g, ?_, ?_⟩
  · simp only [State.endCycle, hls, State.group?]
    rw [lookup_map (fun k x => ({ s with launches := ls } : State).groupCycle k x), show lookup s.groups gid = some g from hg]
    rfl
  · exact apply_ite Group.lanes _ _ _

/-- A lane of a group whose rejoins were released. -/
theorem Group.getD_releaseRejoins (g : Group) {i : Nat} (hi : i < g.lanes.length) : g.releaseRejoins.lane i = match (g.lane i).st with
    | .waiting m => if g.released (g.lane i).pc m then { g.lane i with st := .live, pc := succPc (g.lane i).pc } else g.lane i
    | .live => g.lane i
    | .exited => g.lane i := by
  simp only [Group.lane, Group.releaseRejoins, List.getD_eq_getElem?_getD, List.getElem?_map, List.getElem?_eq_getElem hi, Option.map_some, Option.getD_some] <;> rfl

/-- When a waiting lane's mask is met (R32, R33). -/
theorem Group.released_iff (g : Group) (pc mask : DWord) : g.released pc mask = true ↔
    ∀ j, j < g.width → mask.getLsbD j = true → (g.lane j).st = .exited ∨ g.enmask.getLsbD j = false ∨ ((∃ k, (g.lane j).st = .waiting k) ∧ (g.lane j).pc = pc) := by
  simp only [Group.released, List.all_eq_true, List.mem_range, Lane.live, Lane.waits]
  refine forall₂_congr fun j _ => ?_
  cases (g.lane j).st <;> cases mask.getLsbD j <;> cases g.enmask.getLsbD j <;> simp

/-- Settles O16: at the end of a cycle a lane stays or, its mask met, goes on. -/
theorem rejoinRelease : Obligations.RejoinRelease := by
  intro s gid g hg
  obtain ⟨h, hh, hl⟩ := State.group?_endCycle hg
  have hlane : ∀ i, h.lane i = if s.resident g && g.parked.isNone then g.releaseRejoins.lane i else g.lane i := fun i => by
    rw [Group.lane, hl, apply_ite (fun l : List Lane => l.getD i Lane.blank)]
    rfl
  refine ⟨h, hh, ?_, fun i hi => ⟨fun m hm hres hpark hrel => ?_, fun hstay => ?_, fun hpark => ?_⟩⟩
  · rw [hl]
    split
    · exact List.length_map ..
    · rfl
  · rw [hlane, if_pos (by simp [hres, hpark]), Group.getD_releaseRejoins g hi, hm]
    exact if_pos ((g.released_iff _ _).mpr hrel)
  · rw [hlane, Group.getD_releaseRejoins g hi]
    cases hm : (g.lane i).st with
    | live => exact ite_self _
    | exited => exact ite_self _
    | waiting m =>
      have hnot : ¬ g.released (g.lane i).pc m = true := fun hr => by
        obtain ⟨j, hjw, hjm, hne, hen, hst⟩ := hstay m hm
        rcases (g.released_iff _ _).mp hr j hjw hjm with h | h | ⟨⟨k, hk⟩, hpc⟩
        · exact hne h
        · rw [hen] at h
          cases h
        · rcases hst with h | h
          · rw [hk] at h
            cases h
          · exact h hpc
      exact (congrArg (ite _ · _) (if_neg hnot)).trans (ite_self _)
  · rw [hlane, if_neg (by simp [hpark])]

/-! ## The chosen pair (R26, R27) -/

/-- The order of R27, by its numbers. -/
theorem ranksAbove_iff (a b : DWord × Nat) : ranksAbove a b = true ↔ b.2 < a.2 ∨ a.2 = b.2 ∧ a.1.toNat < b.1.toNat := by
  simp [ranksAbove]

/-- There is a highest rank exactly in a list that is not empty. -/
theorem bestRank_eq_none {l : List (DWord × Nat)} : bestRank l = none ↔ l = [] := by
  cases l with
  | nil => simp [bestRank]
  | cons x r =>
    simp only [bestRank, reduceCtorEq, iff_false]
    split
    · simp
    · split <;> simp

/-- The highest rank is of the list, and nothing of the list ranks above it. -/
theorem bestRank_spec {l : List (DWord × Nat)} {x : DWord × Nat} (h : bestRank l = some x) : x ∈ l ∧ ∀ y ∈ l, y.2 ≤ x.2 ∧ (y.2 = x.2 → x.1.toNat ≤ y.1.toNat) := by
  induction l generalizing x with
  | nil => cases h
  | cons z r ih =>
    cases hr : bestRank r with
    | none =>
      obtain rfl := bestRank_eq_none.mp hr
      simp only [bestRank, Option.some.injEq] at h
      subst h
      simp
    | some y =>
      obtain ⟨hy, hall⟩ := ih hr
      simp only [bestRank, hr] at h
      by_cases hab : ranksAbove z y = true
      · rw [if_pos hab, Option.some.injEq] at h
        subst h
        rw [ranksAbove_iff] at hab
        refine ⟨List.mem_cons_self, fun w hw => ?_⟩
        rcases List.mem_cons.mp hw with rfl | hw
        · exact ⟨Nat.le_refl _, fun _ => Nat.le_refl _⟩
        · have := hall w hw
          omega
      · rw [if_neg hab, Option.some.injEq] at h
        subst h
        rw [ranksAbove_iff] at hab
        refine ⟨List.mem_cons_of_mem _ hy, fun w hw => ?_⟩
        rcases List.mem_cons.mp hw with rfl | hw
        · omega
        · exact hall w hw

/-- A candidate lane of the group (R26). -/
def Group.isCandidate (g : Group) (i : Nat) : Prop := i < g.width ∧ g.candidates.getLsbD i = true
/-- How many candidate lanes lie at a PC. -/
def Group.countAt (g : Group) (pc : DWord) : Nat := ((List.range g.width).filter fun i => g.candidates.getLsbD i && (g.lane i).pc == pc).length

/-- The PCs of the candidate lanes, each with its count. -/
theorem Group.mem_pcCounts (g : Group) (x : DWord × Nat) : x ∈ g.pcCounts ↔ (∃ i, g.isCandidate i ∧ (g.lane i).pc = x.1) ∧ x.2 = g.countAt x.1 := by
  have hcount : ∀ pc, ((g.list g.candidates).map fun i => (g.lane i).pc).count pc = g.countAt pc := fun pc => by
    rw [List.count, List.countP_map, Group.list, lanesOf, List.countP_eq_length_filter, List.filter_filter, Group.countAt]
    congr 1
    exact List.filter_congr fun i _ => Bool.and_comm _ _
  simp only [Group.pcCounts, List.mem_map, List.mem_eraseDups, Group.mem_list, hcount]
  constructor
  · rintro ⟨pc, ⟨i, hi, rfl⟩, rfl⟩
    exact ⟨⟨i, ⟨hi.2, hi.1⟩, rfl⟩, rfl⟩
  · rintro ⟨⟨i, hi, hpc⟩, hn⟩
    exact ⟨x.1, ⟨i, ⟨hi.2, hi.1⟩, hpc⟩, by rw [← hn]⟩

/-- A best rank of the PCs that satisfy a test, by the candidate lanes. -/
theorem Group.bestRank_pcCounts (g : Group) (q : DWord → Bool) {x : DWord × Nat} (h : bestRank (g.pcCounts.filter fun y => q y.1) = some x) :
    (∃ i, g.isCandidate i ∧ (g.lane i).pc = x.1) ∧ q x.1 = true
      ∧ ∀ i, g.isCandidate i → q (g.lane i).pc = true → g.countAt (g.lane i).pc ≤ g.countAt x.1 ∧ (g.countAt (g.lane i).pc = g.countAt x.1 → x.1.toNat ≤ (g.lane i).pc.toNat) := by
  obtain ⟨hx, hall⟩ := bestRank_spec h
  obtain ⟨hx, hq⟩ := List.mem_filter.mp hx
  obtain ⟨hc, hn⟩ := (g.mem_pcCounts x).mp hx
  refine ⟨hc, hq, fun i hi hqi => ?_⟩
  rw [← hn]
  exact hall ((g.lane i).pc, g.countAt (g.lane i).pc) (List.mem_filter.mpr ⟨(g.mem_pcCounts _).mpr ⟨⟨i, hi, rfl⟩, rfl⟩, hqi⟩)

/-- There is no best rank of the PCs that satisfy a test exactly when no candidate lane lies at one. -/
theorem Group.bestRank_pcCounts_eq_none (g : Group) (q : DWord → Bool) : bestRank (g.pcCounts.filter fun y => q y.1) = none ↔ ∀ i, g.isCandidate i → q (g.lane i).pc = false := by
  rw [bestRank_eq_none, List.filter_eq_nil_iff]
  constructor
  · intro h i hi
    simpa using h ((g.lane i).pc, g.countAt (g.lane i).pc) ((g.mem_pcCounts _).mpr ⟨⟨i, hi, rfl⟩, rfl⟩)
  · intro h x hx
    obtain ⟨⟨i, hi, hpc⟩, -⟩ := (g.mem_pcCounts x).mp hx
    simpa [hpc] using h i hi

/-- The chosen pair by its first and its second rank: none, one, or two. -/
theorem Group.chosenPair_cases (g : Group) :
    (g.chosenPair = [] ∧ bestRank g.pcCounts = none)
    ∨ ∃ x, bestRank g.pcCounts = some x ∧ ((g.chosenPair = [x.1] ∧ bestRank (g.pcCounts.filter fun y => y.1 != x.1) = none)
      ∨ ∃ y, g.chosenPair = [x.1, y.1] ∧ bestRank (g.pcCounts.filter fun y => y.1 != x.1) = some y) := by
  cases h1 : bestRank g.pcCounts with
  | none => exact .inl ⟨by simp [Group.chosenPair, h1], rfl⟩
  | some x =>
    refine .inr ⟨x, rfl, ?_⟩
    cases h2 : bestRank (g.pcCounts.filter fun y => y.1 != x.1) with
    | none => exact .inl ⟨by simp [Group.chosenPair, h1, h2], rfl⟩
    | some y => exact .inr ⟨y, by simp [Group.chosenPair, h1, h2], rfl⟩

/-- Settles O17: the first and the second PC are best ranks of the candidate lanes' PCs. -/
theorem chosenPairRanks : Obligations.ChosenPairRanks := by
  intro g
  have hfst : g.pcCounts = g.pcCounts.filter fun y => (fun _ : DWord => true) y.1 := (List.filter_true _).symm
  rcases g.chosenPair_cases with ⟨hp, h1⟩ | ⟨x, h1, hrest⟩
  · rw [hfst, g.bestRank_pcCounts_eq_none fun _ => true] at h1
    simp only [Bool.true_eq_false, imp_false] at h1
    refine ⟨⟨fun ⟨i, hi⟩ => absurd hi (h1 i), fun h => absurd hp h⟩, ⟨fun ⟨i, j, hi, _⟩ => absurd hi (h1 i), fun ⟨a, b, h⟩ => ?_⟩, fun a r h => ?_⟩
    · rw [hp] at h
      cases h
    · rw [hp] at h
      cases h
  · rw [hfst] at h1
    obtain ⟨⟨i0, hi0, hx0⟩, -, hbest⟩ := g.bestRank_pcCounts (fun _ => true) h1
    rcases hrest with ⟨hp, h2⟩ | ⟨y, hp, h2⟩
    · rw [g.bestRank_pcCounts_eq_none (fun pc => pc != x.1)] at h2
      simp only [bne_eq_false_iff_eq] at h2
      refine ⟨⟨fun _ => by simp [hp], fun _ => ⟨i0, hi0⟩⟩, ⟨fun ⟨i, j, hi, hj, hne⟩ => absurd ((h2 i hi).trans (h2 j hj).symm) hne, fun ⟨a, b, h⟩ => ?_⟩, fun a r h => ?_⟩
      · rw [hp] at h
        cases h
      · rw [hp] at h
        cases h
        exact ⟨⟨i0, hi0, hx0⟩, fun i hi => hbest i hi rfl, fun b hb => (by cases hb), Nat.zero_le _⟩
    · obtain ⟨⟨i1, hi1, hy1⟩, hne, hnext⟩ := g.bestRank_pcCounts (fun pc => pc != x.1) h2
      have hne : y.1 ≠ x.1 := by simpa using hne
      refine ⟨⟨fun _ => by simp [hp], fun _ => ⟨i0, hi0⟩⟩, ⟨fun _ => ⟨_, _, hp⟩, fun _ => ⟨i1, i0, hi1, hi0, by rw [hx0, hy1]; exact hne⟩⟩, fun a r h => ?_⟩
      rw [hp] at h
      cases h
      refine ⟨⟨i0, hi0, hx0⟩, fun i hi => hbest i hi rfl, fun b hb => ?_, Nat.le_refl _⟩
      cases hb
      exact ⟨hne, ⟨i1, hi1, hy1⟩, fun i hi hi' => hnext i hi (by simpa using hi')⟩

end Sys2Proof.Machine
end

section
/-! SUPPORT. Uniform instructions (R125 to R145, R174): one result in every active lane, one target for all of them, and the group's own state. -/
namespace Sys2Proof.Machine

/-! ## Results without flags -/

section
variable {s : State} {p : Packet} {g : Group} {i : Instr} (hs : s.issuing = some (p, g))
include hs

/-- An instruction that delivers lane results without flags completes with them. -/
theorem deliver_completes {lat : Latency} {f : Nat → LaneRes} (he : exec i s = .next (s.deliver p g lat (laneWrites (g.results p.cur.lanes f))))
    (hn : lat.isFixed = true → ∀ k, ((f k).writes.map (·.1)).Nodup) (hf : ∀ k, (f k).flags = 0) : Completes s p g i lat f := by
  obtain ⟨h, hd⟩ := State.deliver_done' (s := s) (p := p) (g := g) ⟨p.stall, ((State.issuing_iff s p g).mp hs).1⟩ lat f hn
  rw [Group.raiseFlags_of_flags_zero hf] at hd
  exact ⟨_, h, he, hd⟩

/-- A uniform instruction that writes registers after a fixed latency completes with them in every active lane. -/
theorem deliver_all_completes {n : Nat} {ws : List (Reg × Word)} (he : exec i s = .next (s.deliver p g (.fixed n) (g.toAll p.cur.lanes ws))) (hn : (ws.map (·.1)).Nodup) :
    Completes s p g i (.fixed n) fun _ => { writes := ws } :=
  deliver_completes hs (f := fun _ => { writes := ws }) (he.trans (by rw [Group.laneWrites_results_const])) (fun _ _ => hn) fun _ => rfl

/-- A data instruction completes with its value in every active lane (R129, R130). -/
theorem uniformData_completes {d : Reg} {f : (Reg → Word) → Word} {v : Word} (he : exec i s = uniformData s d f) (hv : f (g.uread s.cycle p.cur.lanes) = v) :
    Completes s p g i (.fixed 2) fun _ => .word d v := by
  subst hv
  exact deliver_all_completes hs (he.trans (State.issue_eq hs _)) (List.nodup_singleton d)
end

theorem toInt_signExtend_imm (i : BitVec 13) : (i.signExtend 32 : Word).toInt = i.toInt := BitVec.toInt_signExtend_of_le (by decide)

/-- Settles O18: each instruction is the mould of R129 and R130 with its function. -/
theorem uniformDataResults : Obligations.UniformDataResults := by
  intro s p g hs d a b cc imm
  refine ⟨uniformData_completes hs (f := fun x => x a) rfl rfl,
    uniformData_completes hs (f := fun x => x a + x b) rfl (add_eq_ofNat _ _),
    uniformData_completes hs (f := fun x => x a - x b) rfl (sub_eq_ofInt _ _),
    uniformData_completes hs (f := fun x => x a * x b) rfl (mul_eq_ofNat _ _),
    uniformData_completes hs (f := fun x => mulHigh (x a) (x b)) rfl (mulHigh_eq_ofInt _ _),
    uniformData_completes hs (f := fun x => mulHighU (x a) (x b)) rfl (mulHighU_eq_ofNat _ _),
    uniformData_completes hs (f := fun x => x a &&& x b) rfl rfl,
    uniformData_completes hs (f := fun x => x a ||| x b) rfl rfl,
    uniformData_completes hs (f := fun x => x a ^^^ x b) rfl rfl,
    uniformData_completes hs (f := fun x => shiftLeft (x a) (x b)) rfl (shiftLeft_eq_ofNat _ _),
    uniformData_completes hs (f := fun x => shiftRight (x a) (x b)) rfl (shiftRight_eq_ofNat _ _),
    uniformData_completes hs (f := fun x => shiftArith (x a) (x b)) rfl (sshiftRight_eq_ofInt _ _),
    uniformData_completes hs (f := fun x => if x d ≠ 0 then x a else x b) rfl (ite_not ..),
    uniformData_completes hs (f := fun x => minSigned (x a) (x b)) rfl (minSigned_eq_ofInt _ _),
    uniformData_completes hs (f := fun x => minUnsigned (x a) (x b)) rfl (minUnsigned_eq_ofNat _ _),
    uniformData_completes hs (f := fun x => maxSigned (x a) (x b)) rfl (maxSigned_eq_ofInt _ _),
    uniformData_completes hs (f := fun x => maxUnsigned (x a) (x b)) rfl (maxUnsigned_eq_ofNat _ _),
    uniformData_completes hs (f := fun x => truth (condHolds cc (x a) (x b))) rfl (congrArg truth ?_),
    uniformData_completes hs (f := fun _ => imm.signExtend 32) rfl (signExtend_eq_ofInt imm),
    uniformData_completes hs (f := fun x => x a * 8192 + imm.setWidth 32) rfl ?_,
    uniformData_completes hs (f := fun x => x a + imm.signExtend 32) rfl ?_,
    uniformData_completes hs (f := fun x => x a &&& imm.signExtend 32) rfl rfl,
    uniformData_completes hs (f := fun x => x a ||| imm.signExtend 32) rfl rfl,
    uniformData_completes hs (f := fun x => x a ^^^ imm.signExtend 32) rfl rfl,
    deliver_completes hs (f := fun _ => { writes := [] }) ((State.issue_eq hs _).trans ?_) (fun _ _ => List.nodup_nil) fun _ => rfl⟩
  · cases cc with
    | eq => exact beq_eq_decide ..
    | ne => exact (congrArg _ (beq_eq_decide ..)).trans (decide_not ..).symm
    | _ => rfl
  · exact (mulAdd_eq_ofNat _ 8192 _).trans (by rw [BitVec.toNat_setWidth_of_le (by decide)]; rfl)
  · exact (addInt_eq_ofInt _ _).trans (by rw [toInt_signExtend_imm]; rfl)
  · rw [Group.laneWrites_results_const, show g.toAll p.cur.lanes [] = [] by simp [Group.toAll]]
    rfl

/-! ## Uniform transfers (R132 to R134) -/

/-- Results with the lanes moved to one address are results with them moved to another. -/
theorem LaneDone.retarget {s : State} {p : Packet} {g g' h : Group} {lat : Latency} {a : DWord} {f : Nat → LaneRes}
    (hd : LaneDone s (s.setGroup p.gid (g'.moveTo p.cur.lanes a)) p g h lat (fun _ => a) f) (b : DWord) :
    LaneDone s (s.setGroup p.gid (g'.moveTo p.cur.lanes b)) p g (g'.moveTo p.cur.lanes b) lat (fun _ => b) f := by
  obtain ⟨⟨hgroup, hgroups, -, hp, hown, hcount, hlane, hothers⟩, hmoved, hflags, hres, hunw⟩ := hd
  rw [State.group?_setGroup_same, Option.some.injEq] at hgroup
  subst hgroup
  simp only [Group.read_moveTo] at hothers hres hunw ⊢
  have hlen : (g'.moveTo p.cur.lanes b).lanes.length = g.lanes.length := (g'.length_moveTo _ b).trans ((g'.length_moveTo _ a).symm.trans hcount)
  have hto : ∀ i, ∃ pc, (g'.moveTo p.cur.lanes b).lane i = { (g'.moveTo p.cur.lanes a).lane i with pc := pc } := fun i => by
    rw [Group.lane_moveTo, Group.lane_moveTo]
    split <;> exact ⟨_, rfl⟩
  have hsame : ∀ i, p.cur.lanes.getLsbD i = false → (g'.moveTo p.cur.lanes b).lane i = (g'.moveTo p.cur.lanes a).lane i := fun i hi => by
    rw [Group.lane_moveTo, Group.lane_moveTo, if_neg (by simp [hi]), if_neg (by simp [hi])]
  refine ⟨⟨State.group?_setGroup_same _ _ _, fun k hk => State.group?_setGroup_other _ _ _ _ hk, rfl, hp, ?_, hlen, fun i => ?_, fun i hi => ?_⟩, fun i hi => ?_, fun i hi => ?_, ?_, ?_⟩
  · have hmove : g'.moveTo p.cur.lanes b = { g'.moveTo p.cur.lanes a with lanes := (g'.moveTo p.cur.lanes b).lanes } := rfl
    rw [hmove, hown]
  · obtain ⟨pc, h⟩ := hto i
    rw [h]
    exact hlane i
  · rw [hsame i hi]
    exact ⟨(hothers i hi).1, (hothers i hi).2.1, fun r later => by rw [Group.read_moveTo]; exact (hothers i hi).2.2 r later⟩
  · rw [Group.lane_moveTo, if_pos ⟨hi.1, by rw [← g'.length_moveTo p.cur.lanes a, hcount]; exact hi.2.2⟩]
  · obtain ⟨pc, h⟩ := hto i
    rw [h]
    exact hflags i hi
  · cases lat with
    | fixed n => exact hres.imp id fun h => by simpa only [Group.read_moveTo] using h
    | scoreboard n => exact hres
  · simpa only [Group.read_moveTo] using hunw

/-- A uniform transfer in its three cases (R132, R133). -/
theorem uniformJump_goes {s : State} {p : Packet} {g : Group} {i : Instr} {taken : Bool} {target : DWord} {ws : List (Reg × Word)} (hs : s.issuing = some (p, g))
    (he : exec i s = .next (s.uniformJump p g taken target ws)) (hn : (ws.map (·.1)).Nodup) {t : Prop} (ht : taken = true ↔ t) :
    (t → pcFault target = none → CompletesAt s p g i (.fixed 2) (fun _ => target) fun _ => { writes := ws })
    ∧ (t → ∀ c, pcFault target = some c → exec i s = .next (s.trapAt p.gid p.cur c p.cur.lanes target))
    ∧ (¬ t → CompletesAt s p g i (.fixed 2) (fun _ => succPc p.cur.pc) fun _ => { writes := ws }) := by
  refine ⟨fun h hf => ?_, fun h c hf => ?_, fun h => ?_⟩
  · rw [State.uniformJump, if_pos (ht.mpr h), hf] at he
    obtain ⟨h', hd⟩ := State.deliver_done' (s := s) (p := p) (g := g) ⟨p.stall, ((State.issuing_iff s p g).mp hs).1⟩ (.fixed 2) (fun _ => { writes := ws }) fun _ _ => hn
    rw [Group.raiseFlags_of_flags_zero (fun _ => rfl), Group.laneWrites_results_const] at hd
    exact ⟨_, _, he, LaneDone.retarget hd target⟩
  · rw [State.uniformJump, if_pos (ht.mpr h), hf] at he
    exact he
  · rw [State.uniformJump, if_neg (mt ht.mp h)] at he
    exact deliver_all_completes hs he hn

/-- Settles O19: each transfer by whether it is taken, its target and what it writes. -/
theorem uniformTransfers : Obligations.UniformTransfers := by
  intro s p g hs a f
  have hdec : g.uread s.cycle p.cur.lanes a - 1 = BitVec.ofInt 32 ((g.read s.cycle (g.lowest p.cur.lanes) a).toInt - 1) := sub_eq_ofInt _ 1
  exact ⟨uniformJump_goes (i := .gJmp f) (taken := true) hs (State.issue_eq hs _) List.nodup_nil (by simp),
    uniformJump_goes (i := .gBrNz a f) (taken := g.uread s.cycle p.cur.lanes a != 0) hs (State.issue_eq hs _) List.nodup_nil bne_iff_ne,
    uniformJump_goes (i := .gBrZ a f) (taken := g.uread s.cycle p.cur.lanes a == 0) hs (State.issue_eq hs _) List.nodup_nil beq_iff_eq,
    uniformJump_goes (i := .gCall a f) (taken := true) hs (State.issue_eq hs _) (nodup_pairOf a _) (by simp),
    uniformJump_goes (i := .gLoop a f) (taken := g.uread s.cycle p.cur.lanes a - 1 != 0) (target := branchTarget p.cur.pc f)
      (ws := [(a, BitVec.ofInt 32 ((g.read s.cycle (g.lowest p.cur.lanes) a).toInt - 1))]) hs ((State.issue_eq hs _).trans (by rw [← hdec])) (List.nodup_singleton a) (bne_iff_ne.trans (not_congr sub_eq_zero)),
    uniformJump_goes (i := .gRet a) (taken := true) hs (State.issue_eq hs _) List.nodup_nil (by simp)⟩

/-! ## The group's own state (R135 to R138, R144, R145, R174) -/

/-- The end of an instruction moves its active lanes on (R88). -/
theorem Group.moved_moveTo (g : Group) (m : LaneMask) (pc : DWord) : Moved g (g.moveTo m pc) m pc where
  count := g.length_moveTo m pc
  acting i hi := by rw [Group.lane_moveTo, if_pos ⟨hi.1, hi.2.2⟩]
  others i hi := by rw [Group.lane_moveTo, if_neg (by simp [hi])]

/-- The parameters that a route entry does not take (R37, R174). -/
theorem routeParamOk_eq_false (k : RouteKind) (q width : Nat) : routeParamOk k q width = false ↔ (k = .ident ∧ q ≠ 0) ∨ ((k = .rot ∨ k = .bcast) ∧ width ≤ q) ∨ (k = .bfly ∧ width ≤ 2 ^ q)
    ∨ (k = .mirror ∧ (q = 0 ∨ width < 2 ^ q)) := by
  cases k <;> simp [routeParamOk]
  omega

/-- Settles O20: each instruction by what it changes. -/
theorem uniformGroupState : Obligations.UniformGroupState := by
  intro s p g hs d a n e k q
  refine ⟨⟨_, _, State.issue_eq hs _, rfl, State.group?_setGroup_same _ _ _, g.moved_moveTo _ _, rfl⟩, ?_, ⟨_, State.issue_eq hs _, ⟨?_, ?_, ?_⟩, rfl, rfl⟩, fun h => ?_, fun h => ?_,
    answerAfter_completes hs (State.issue_eq hs _) (nodup_pairOf d _), answerAfter_completes hs (State.issue_eq hs _) (nodup_pairOf d _), fun h => ?_, fun h => ?_⟩
  · refine deliver_completes hs ((State.issue_eq hs _).trans ?_) (fun _ k => List.nodup_singleton d) fun _ => rfl
    rw [laneWrites, Group.results, List.flatMap_map, List.map_eq_flatMap]
    simp [LaneRes.word, truth_eq]
  · exact (Group.moved_moveTo _ _ _).count
  · exact (Group.moved_moveTo _ _ _).acting
  · exact (Group.moved_moveTo _ _ _).others
  · exact answerAfter_completes hs ((State.issue_eq hs _).trans (congrArg _ (if_neg (by omega)))) (List.nodup_singleton d)
  · exact (State.issue_eq hs _).trans (congrArg _ (if_pos h))
  · refine (State.issue_eq hs _).trans (congrArg _ (if_pos ?_))
    simpa [routeParamOk_eq_false] using h
  · refine ⟨_, (State.issue_eq hs _).trans (congrArg _ (if_neg ?_)), ⟨?_, ?_, ?_⟩, rfl⟩
    · simpa [routeParamOk_eq_false] using h
    · exact (Group.moved_moveTo _ _ _).count
    · exact (Group.moved_moveTo _ _ _).acting
    · exact (Group.moved_moveTo _ _ _).others

/-! ## Traps and returns (R142, R143, R361) -/

/-- A trap's saved state and the handler's entry keep each lane's registers and flags. -/
theorem Group.lane_saveTrap_enterHandler_keeps (g : Group) (r : TrapRec) (e : DWord) (i : Nat) :
    ∃ pc tp st, ((g.saveTrap r).enterHandler e).lane i = { g.lane i with pc := pc, trappc := tp, st := st } := by
  have hsaved : ∃ tp st, (g.saveTrap r).lane i = { g.lane i with trappc := tp, st := st } := by
    have h := g.lane_mapIdx (fun i l => if l.live then { l with trappc := if r.active.getLsbD i then r.restart else l.pc, st := .live } else l) i
    have h' : (g.saveTrap r).lane i = _ := h
    rw [h']
    split_ifs <;> exact ⟨_, _, rfl⟩
  obtain ⟨tp, st, hsaved⟩ := hsaved
  have hent := Group.lane_modLanes { g.saveTrap r with hnd := true, enmask := (g.saveTrap r).liveMask } (g.saveTrap r).liveMask (fun l => { l with pc := e }) i
  have hent' : ((g.saveTrap r).enterHandler e).lane i = if (g.saveTrap r).liveMask.getLsbD i = true ∧ i < (g.saveTrap r).lanes.length then { (g.saveTrap r).lane i with pc := e } else (g.saveTrap r).lane i := hent
  rw [hent', hsaved]
  split <;> exact ⟨_, _, _, rfl⟩

/-- A lane of a group that returned from its handler (R143). -/
theorem Group.lane_returnFromTrap (g : Group) (i : Nat) : g.returnFromTrap.lane i = if (g.lane i).live then { g.lane i with pc := (g.lane i).trappc } else g.lane i := by
  rcases Nat.lt_or_ge i g.lanes.length with h | h
  · simp [Group.lane, Group.returnFromTrap, h]
  · have hb : g.lane i = Lane.blank := by simp [Group.lane, h]
    rw [hb]
    simp [Group.lane, Group.returnFromTrap, h, Lane.blank, Lane.live]

/-- Settles O22: the trap of a packet's last instruction is taken at once, and a return reads each live lane's TRAPPC. -/
theorem trapAndReturn : Obligations.TrapAndReturn := by
  intro s p g hs n
  obtain ⟨hp, hg⟩ := (State.issuing_iff s p g).mp hs
  refine ⟨fun ht hr hn hw hh hrec entry hvec he => ?_, fun h => (State.issue_eq hs _).trans (congrArg _ (if_pos (by simp [h]))), fun h hok => ?_⟩
  · let r : TrapRec := { place := p.cur.place, cause := .software, lanes := p.cur.lanes, addr := 0, word := p.cur.word, defer := false, active := p.cur.lanes, restart := succPc p.cur.pc }
    have hentry : entryOf r.cause (s.trapvec (s.asidOf g)) = some entry := (if_neg (by rw [hvec]; exact he)).trans (congrArg some hvec)
    refine ⟨_, (State.issue_eq hs _).trans (congrArg _ ((State.raise_takes (r := r) hp hg ht hr hw hn).trans (State.takeTrap_handler hg hh hrec hentry))),
      rfl, rfl, rfl, rfl, rfl, rfl, fun i hi hl => ?_, fun i => ?_⟩
    · have hlane := g.lane_saveTrap_enterHandler r entry hi.2.1 (BitVec.lt_of_getLsbD hi.1) hi.2.2 hl
      exact ⟨(congrArg Lane.trappc hlane).trans (if_pos hi.1), (congrArg Lane.pc hlane :)⟩
    · obtain ⟨pc, tp, st, hlane⟩ := g.lane_saveTrap_enterHandler_keeps r entry i
      exact ⟨(congrArg Lane.regs hlane :), (congrArg Lane.fpen hlane :), (congrArg Lane.fpflags hlane :)⟩
  · have hbad : g.badReturn = 0 := by
      refine BitVec.eq_of_getLsbD_eq fun i _ => ?_
      rw [Bool.eq_iff_iff, Group.badReturn, Group.lanesWhere, getLsbD_maskOf, List.mem_filter, List.mem_range]
      refine ⟨fun ⟨_, hi, hl⟩ => ?_, fun h => by simp at h⟩
      rw [Bool.and_eq_true] at hl
      rw [hok i hi hl.1] at hl
      cases hl.2
    refine ⟨_, (State.issue_eq hs _).trans (congrArg _ ((if_neg (by simp [h])).trans (if_neg (by simp [hbad])))), rfl, List.length_map .., g.lane_returnFromTrap⟩

end Sys2Proof.Machine
end

section
/-! SUPPORT. The control and status registers (R21 to R25, R139 to R141): their numbers and values, what a read delivers and what a write changes. -/
namespace Sys2Proof.Machine

/-! ## Numbers and values (R21) -/

theorem TokenState.code_lt (t : TokenState) : t.code < 4 := by cases t <;> decide

/-- TKSTAT by its eight fields (R38). -/
theorem Group.tkstat_eq (g : Group) : g.tkstat = 0 + (g.token 0).st.code * 4 ^ 0 + (g.token 1).st.code * 4 ^ 1 + (g.token 2).st.code * 4 ^ 2 + (g.token 3).st.code * 4 ^ 3
    + (g.token 4).st.code * 4 ^ 4 + (g.token 5).st.code * 4 ^ 5 + (g.token 6).st.code * 4 ^ 6 + (g.token 7).st.code * 4 ^ 7 := rfl

/-- TKSTAT holds each token's state in two bits, and nothing else (R38). -/
theorem Group.tkstat_digits (g : Group) : g.tkstat < 2 ^ 16 ∧ ∀ k : Token, g.tkstat / 2 ^ (2 * k.val) % 4 = (g.token k).st.code := by
  have h0 := (g.token 0).st.code_lt
  have h1 := (g.token 1).st.code_lt
  have h2 := (g.token 2).st.code_lt
  have h3 := (g.token 3).st.code_lt
  have h4 := (g.token 4).st.code_lt
  have h5 := (g.token 5).st.code_lt
  have h6 := (g.token 6).st.code_lt
  have h7 := (g.token 7).st.code_lt
  have he := g.tkstat_eq
  refine ⟨by omega, fun k => ?_⟩
  fin_cases k <;> simp <;> omega

/-- A datum's two numbers (R21). -/
theorem csrOf_datum (k : Fin 16) : csrOf (0x0C0 + 2 * k.val) = some (.datum k, .low) ∧ csrOf (0x0C0 + 2 * k.val + 1) = some (.datum k, .high) := by
  fin_cases k <;> exact ⟨rfl, rfl⟩
/-- A route entry's number and value (R36). -/
theorem csrValue_route {s : State} {p : Packet} {g : Group} {i k : Nat} {r : RouteEntry} (hk : k < 3) (hr : g.routes[k]? = some r) :
    ∃ c, csrOf (0x021 + k) = some (c, .whole) ∧ s.csrValue p g i c = BitVec.ofNat 64 (kindCode r.kind * 2 ^ 16 + r.param) := by
  have hget : ∀ e, g.routes.getD k e = r := fun e => by rw [List.getD_eq_getElem?_getD, hr, Option.getD_some]
  obtain rfl | rfl | rfl : k = 0 ∨ k = 1 ∨ k = 2 := by omega
  · exact ⟨.routes 1, rfl, congrArg (fun e : RouteEntry => BitVec.ofNat 64 (kindCode e.kind * 2 ^ 16 + e.param)) (hget _)⟩
  · exact ⟨.routes 2, rfl, congrArg (fun e : RouteEntry => BitVec.ofNat 64 (kindCode e.kind * 2 ^ 16 + e.param)) (hget _)⟩
  · exact ⟨.routes 3, rfl, congrArg (fun e : RouteEntry => BitVec.ofNat 64 (kindCode e.kind * 2 ^ 16 + e.param)) (hget _)⟩

/-! ## Reads (R22, R23) -/

theorem lookup_map_list {α : Type} (f : Nat → α) (l : List Nat) (i : Nat) : lookup (l.map fun j => (j, f j)) i = if i ∈ l then some (f i) else none := by
  induction l with
  | nil => rfl
  | cons j l ih =>
    by_cases h : j = i
    · subst h
      simp [lookup]
    · simp [lookup, h, ih, Ne.symm h]

/-- A snapshot serves the active lanes (R23). -/
theorem mem_snapLanes {g : Group} {m : LaneMask} {i : Nat} (h : g.acts m i) (c : Csr) : i ∈ g.snapLanes m c := by
  unfold Group.snapLanes
  split
  · exact (g.mem_list m i).mpr ⟨h.1, h.2.1⟩
  · exact List.mem_range.mpr h.2.1

/-- A CSR read delivers its half to each active lane by the scoreboard and leaves the snapshot that R23 says. -/
theorem csrRead_eq {s : State} {p : Packet} {g : Group} (hs : s.issuing = some (p, g)) {d : Reg} {c : BitVec 13} {r : Csr} {half : Half} (hc : csrOf c.toNat = some (r, half)) :
    ∃ t h e, exec (.gCsrr d c) s = .next t ∧ GroupOnly s t p h ∧ Moved g h p.cur.lanes (succPc p.cur.pc)
      ∧ h = { g with lanes := h.lanes, sb := g.sb ++ [e], snap := s.snapAfter p g c.toNat r half } ∧ e.kind = .ready ∧ e.due = s.cycle + 6
      ∧ e.vals = (g.list p.cur.lanes).map fun i => (i, d, s.csrHalf p g c.toNat r half i) := by
  have he : exec (.gCsrr d c) s = .next (s.deliver p { g with snap := s.snapAfter p g c.toNat r half } (.scoreboard 6) ((g.list p.cur.lanes).map fun i => (i, d, s.csrHalf p g c.toNat r half i))) :=
    (State.issue_eq hs _).trans (by rw [hc])
  have hpost := State.post_eq (State.group?_finish s p { g with snap := s.snapAfter p g c.toNat r half }) p.cur.pc p.cur.lanes
    ((((g.list p.cur.lanes).map fun i => (i, d, s.csrHalf p g c.toNat r half i)).map fun w => w.2.1).eraseDups) ((g.list p.cur.lanes).map fun i => (i, d, s.csrHalf p g c.toNat r half i)) 6
  obtain ⟨hcount, hacting, hothers⟩ := g.moved_moveTo p.cur.lanes (succPc p.cur.pc)
  exact ⟨_, _, _, he.trans (congrArg _ hpost), ⟨State.group?_setGroup_same _ _ _, fun k hk => (State.group?_setGroup_other _ _ _ _ hk).trans (State.group?_finish_other s p _ k hk), rfl⟩,
    ⟨hcount, hacting, hothers⟩, rfl, rfl, rfl, rfl⟩

/-! ## Writes (R139 to R141) -/

/-- What a form makes of a lane's flags register, taken as a word. -/
theorem apply_setWidth (op : CsrOp) {n : Nat} (hn : n ≤ 32) (old : BitVec n) (v : Word) : op.apply old (v.setWidth n) = (op.apply (old.setWidth 32) v).setWidth n := by
  have hold : (old.setWidth 32).setWidth n = old := by rw [BitVec.setWidth_setWidth_of_le _ hn, BitVec.setWidth_eq]
  cases op with
  | write => rfl
  | set => simp only [CsrOp.apply, BitVec.setWidth_or, hold]
  | clear => rw [CsrOp.apply, CsrOp.apply, BitVec.setWidth_and, hold, BitVec.setWidth_not hn]

/-- A one-bit field under a form (R140). -/
theorem apply_ofBool (op : CsrOp) (b : Bool) (v : Word) : (op.apply (BitVec.ofBool b) (v.setWidth 1) == 1#1) = (op.apply (if b then 1 else 0 : Word) v).getLsbD 0 := by
  have hb : (BitVec.ofBool b).setWidth 32 = (if b then 1 else 0 : Word) := by cases b <;> rfl
  have hone : ∀ x : BitVec 1, (x == 1#1) = x.getLsbD 0 := by decide
  rw [apply_setWidth op (by decide), hb, hone, BitVec.getLsbD_setWidth]
  simp

/-- The rounding mode under a form (R25). -/
theorem code_roundingOf (op : CsrOp) (r : Rounding) (v : Word) : (roundingOf (op.apply (BitVec.ofNat 2 r.code) (v.setWidth 2)).toNat).code = (op.apply (BitVec.ofNat 32 r.code) v).toNat % 4 := by
  have hr : (BitVec.ofNat 2 r.code).setWidth 32 = BitVec.ofNat 32 r.code := by cases r <;> rfl
  have hcode : ∀ x : BitVec 2, (roundingOf x.toNat).code = x.toNat := by decide
  rw [hcode, apply_setWidth op (by decide), hr, BitVec.toNat_setWidth]

section
variable (g : Group) (now : Nat) (m : LaneMask) (op : CsrOp) (c : Csr) (half : Half) (a : Reg)

/-- A CSR write changes only the fields that are RW (R140). -/
theorem Group.csrWrite_keeps : ∃ ls r f k e v, g.csrWrite now m op c half a = { g with lanes := ls, fprm := r, fpftz := f, schk := k, enmask := e, saveden := v } := by
  cases c with
  | trappc | enmask =>
    rw [Group.csrWrite]
    split <;> exact ⟨_, _, _, _, _, _, rfl⟩
  | _ => exact ⟨_, _, _, _, _, _, rfl⟩

theorem Group.length_csrWrite : (g.csrWrite now m op c half a).lanes.length = g.lanes.length := by
  cases c with
  | fpen | fpflags => exact List.length_mapIdx
  | trappc =>
    simp only [Group.csrWrite]
    split
    · exact List.length_mapIdx
    · rfl
  | enmask =>
    simp only [Group.csrWrite]
    split <;> rfl
  | _ => rfl

/-- A lane after a CSR write (R140, R141, R355). -/
theorem Group.lane_csrWrite (i : Nat) : (g.csrWrite now m op c half a).lane i =
    if m.getLsbD i = true ∧ i < g.lanes.length then
      { g.lane i with fpen := if c = .fpen then op.apply (g.lane i).fpen ((g.read now i a).setWidth 6) else (g.lane i).fpen
                      fpflags := if c = .fpflags then op.apply (g.lane i).fpflags ((g.read now i a).setWidth 6) else (g.lane i).fpflags
                      trappc := if c = .trappc ∧ g.hnd = true then op.applyHalf half (g.lane i).trappc (g.read now i a) else (g.lane i).trappc }
    else g.lane i := by
  have hown : ∀ f : Nat → Lane → Lane, ({ g with lanes := g.lanes.mapIdx fun i l => if m.getLsbD i then f i l else l } : Group).lane i
      = if m.getLsbD i = true ∧ i < g.lanes.length then f i (g.lane i) else g.lane i := fun f => by
    rw [Group.lane_mapIdx]
    by_cases h1 : i < g.lanes.length <;> by_cases h2 : m.getLsbD i = true <;> simp [h1, h2]
  cases c with
  | fpen => exact hown fun i l => { l with fpen := op.apply l.fpen ((g.read now i a).setWidth 6) }
  | fpflags => exact hown fun i l => { l with fpflags := op.apply l.fpflags ((g.read now i a).setWidth 6) }
  | trappc =>
    by_cases hh : g.hnd = true
    · rw [Group.csrWrite, if_pos hh, hown fun i l => { l with trappc := op.applyHalf half l.trappc (g.read now i a) }]
      simp [hh]
    · rw [Group.csrWrite, if_neg hh]
      simp [hh]
  | enmask =>
    have hlane : (g.csrWrite now m op .enmask half a).lane i = g.lane i := by
      rw [Group.csrWrite]
      split <;> rfl
    exact hlane.trans (ite_self _).symm
  | _ => exact (ite_self _).symm

theorem Group.csrWrite_fprm : (g.csrWrite now m op c half a).fprm = if c = .fprm then roundingOf (op.apply (BitVec.ofNat 2 g.fprm.code) ((g.uread now m a).setWidth 2)).toNat else g.fprm := by
  cases c with
  | trappc | enmask => by_cases h : g.hnd = true <;> simp [Group.csrWrite, h]
  | _ => rfl
theorem Group.csrWrite_fpftz : (g.csrWrite now m op c half a).fpftz = if c = .fpftz then op.apply (BitVec.ofBool g.fpftz) ((g.uread now m a).setWidth 1) == 1#1 else g.fpftz := by
  cases c with
  | trappc | enmask => by_cases h : g.hnd = true <;> simp [Group.csrWrite, h]
  | _ => rfl
theorem Group.csrWrite_schk : (g.csrWrite now m op c half a).schk = if c = .schk then op.apply (BitVec.ofBool g.schk) ((g.uread now m a).setWidth 1) == 1#1 else g.schk := by
  cases c with
  | trappc | enmask => by_cases h : g.hnd = true <;> simp [Group.csrWrite, h]
  | _ => rfl
theorem Group.csrWrite_enmask : (g.csrWrite now m op c half a).enmask = if c = .enmask ∧ g.hnd = false then op.applyHalf half g.enmask (g.uread now m a) &&& fullMask g.width else g.enmask := by
  cases c with
  | trappc | enmask => by_cases h : g.hnd = true <;> simp [Group.csrWrite, h]
  | _ => simp [Group.csrWrite]
theorem Group.csrWrite_saveden : (g.csrWrite now m op c half a).saveden = if c = .enmask ∧ g.hnd = true then op.applyHalf half g.saveden (g.uread now m a) &&& fullMask g.width else g.saveden := by
  cases c with
  | trappc | enmask => by_cases h : g.hnd = true <;> simp [Group.csrWrite, h]
  | _ => simp [Group.csrWrite]
end

/-- The lanes of a width (R26). -/
theorem getLsbD_fullMask (w j : Nat) : (fullMask w).getLsbD j = decide (j < w ∧ j < 64) := by
  rw [fullMask, BitVec.getLsbD_ofNat, Nat.testBit_two_pow_sub_one]
  by_cases h : j < w <;> by_cases h' : j < 64 <;> simp [h, h']

/-- A half of a 64-bit register under a form. -/
theorem applyHalf_eq (op : CsrOp) (half : Half) (old : DWord) (v : Word) : op.applyHalf half old v =
    if half = .high then joinWords (loWord old) (op.apply (hiWord old) v) else joinWords (op.apply (loWord old) v) (hiWord old) := by
  cases half <;> rfl

/-- A CSR write by what it changes: its group with the lanes moved on (R139 to R141). -/
theorem exec_csrWrite {s : State} {p : Packet} {g : Group} (hs : s.issuing = some (p, g)) {a : Reg} {c : BitVec 13} {r : Csr} {half : Half} (hc : csrOf c.toNat = some (r, half)) {op : CsrOp} {i : Instr}
    (hi : (op, i) ∈ [(CsrOp.write, Instr.gCsrw a c), (CsrOp.set, Instr.gCsrs a c), (CsrOp.clear, Instr.gCsrc a c)]) :
    exec i s = .next (s.finish p { (g.csrWrite s.cycle p.cur.lanes op r half a) with snap := none }) := by
  have key : ∀ o, csrWriteInstr s o a c = .next (s.finish p { (g.csrWrite s.cycle p.cur.lanes o r half a) with snap := none }) := fun o =>
    (State.issue_eq hs _).trans (by rw [hc])
  simp only [List.mem_cons, Prod.mk.injEq, List.not_mem_nil, or_false] at hi
  obtain ⟨rfl, rfl⟩ | ⟨rfl, rfl⟩ | ⟨rfl, rfl⟩ := hi
  · exact key .write
  · exact key .set
  · exact key .clear

/-- Settles O21: the table by its numbers, a read by its entry, a write by its fields. -/
theorem csrAccess : Obligations.CsrAccess := by
  intro s p g hs d a c
  refine ⟨fun i hi => ?_, fun hc i hi => ?_, fun r half hc => ⟨?_, fun op i hi => ?_⟩⟩
  · refine ⟨⟨_, rfl, rfl⟩, ⟨_, rfl, rfl⟩, ⟨_, rfl, rfl⟩, ⟨_, rfl, rfl, rfl⟩, ⟨_, rfl, ?_⟩, ⟨_, rfl, ?_⟩, ⟨_, rfl, ?_⟩, ⟨_, rfl, rfl, rfl⟩, fun tm l ht hl => ⟨⟨_, rfl, ?_⟩, ⟨_, rfl, ?_⟩, ⟨_, rfl, ?_⟩, ⟨_, rfl, rfl, ?_⟩, ⟨_, rfl, ?_⟩,
      ⟨_, rfl, rfl, ?_⟩, ⟨_, rfl, rfl, ?_⟩⟩, ⟨_, ⟨_, rfl, rfl⟩, ?_, fun k => ?_⟩, ⟨_, rfl, rfl⟩, ⟨_, rfl, rfl, rfl⟩, ⟨_, rfl, rfl⟩, fun k e hk he => csrValue_route hk he,
      ⟨_, rfl, ?_⟩, ⟨_, rfl, rfl, rfl⟩, ⟨_, rfl, rfl, rfl⟩, ⟨_, rfl, rfl⟩, ⟨_, rfl, rfl, rfl⟩, ⟨_, rfl, rfl, ?_⟩, ⟨_, rfl, rfl, rfl⟩, ⟨_, rfl, rfl⟩, ⟨_, rfl, rfl⟩, ⟨_, rfl, rfl⟩, ⟨_, rfl, rfl⟩,
      fun k => ⟨_, (csrOf_datum k).1, (csrOf_datum k).2, rfl⟩⟩
    · show BitVec.ofNat 64 g.fprm.code = _
      cases g.fprm <;> rfl
    · show BitVec.ofNat 64 g.fpftz.toNat = _
      cases g.fpftz <;> rfl
    · show BitVec.ofNat 64 g.schk.toNat = _
      cases g.schk <;> rfl
    · simp [State.csrValue, ht, hl, gangCode]
    · simp [State.csrValue, ht]
    · simp [State.csrValue, hl]
    · simp [State.csrValue, ht]
    · simp only [State.csrValue, hl, Option.map_some, Option.getD_some]
      cases l.record.bounded <;> rfl
    · simp [State.csrValue, hl]
    · simp [State.csrValue, hl]
    · show (BitVec.ofNat 64 g.tkstat).toNat < _
      rw [BitVec.toNat_ofNat]
      have := g.tkstat_digits.1
      omega
    · show (BitVec.ofNat 64 g.tkstat).toNat / _ % 4 = (g.token k).st.code
      rw [BitVec.toNat_ofNat, Nat.mod_eq_of_lt (g.tkstat_digits.1.trans (by decide))]
      exact g.tkstat_digits.2 k
    · show BitVec.ofNat 64 (g.hnd.toNat * 2 ^ 31 + g.defer.toNat * 2 ^ 30 + g.code) = _
      cases g.hnd <;> cases g.defer <;> rfl
    · show (if s.certified g = true then _ else _) = BitVec.ofNat 64 _
      split <;> rfl
  · simp only [List.mem_cons, List.not_mem_nil, or_false] at hi
    obtain rfl | rfl | rfl | rfl := hi
    all_goals exact (State.issue_eq hs _).trans (by rw [hc])
  · obtain ⟨t, h, e, he, honly, hmoved, hh, hkind, hdue, hvals⟩ := csrRead_eq (d := d) hs hc
    have hsnap : h.snap = s.snapAfter p g c.toNat r half := by rw [hh]
    have hmem : ∀ i, g.acts p.cur.lanes i → (i, d, s.csrHalf p g c.toNat r half i) ∈ e.vals := fun i hi => by
      rw [hvals]
      exact List.mem_map.mpr ⟨i, (g.mem_list _ i).mpr ⟨hi.1, hi.2.1⟩, rfl⟩
    refine ⟨t, h, e, he, honly, hmoved, by rw [hsnap]; exact hh, hkind, hdue, fun hne => ?_, fun hlow => ?_, fun i hi => ⟨fun hne => ?_, fun hhigh hold => ?_, fun hhigh sn v hsn hnum hv => ?_⟩⟩
    · rw [hsnap]
      cases half with
      | low => exact absurd rfl hne
      | _ => rfl
    · subst hlow
      refine ⟨_, hsnap, rfl, fun i hi => ?_⟩
      rw [lookup_map_list, if_pos (mem_snapLanes hi r)]
    · cases half with
      | high => exact absurd rfl hne
      | _ => exact hmem i hi
    · subst hhigh
      have hval : s.csrHalf p g c.toNat r .high i = hiWord (s.csrValue p g i r) := by
        rcases hold with hnone | ⟨sn, hsn, hne | hnone⟩
        · simp [State.csrHalf, hnone]
        · simp [State.csrHalf, hsn, hne]
        · simp [State.csrHalf, hsn, hnone]
      exact hval ▸ hmem i hi
    · subst hhigh
      have hval : s.csrHalf p g c.toNat r .high i = hiWord v := by simp [State.csrHalf, hsn, hnum, hv]
      exact hval ▸ hmem i hi
  · have he := exec_csrWrite hs hc hi
    intro x word wide
    have hword : ∀ old v, op.apply old v = word old v := fun old v => rfl
    have hwide : ∀ old v, op.applyHalf half old v = wide old v := fun old v => applyHalf_eq op half old v
    have hlane := fun k => g.lane_csrWrite s.cycle p.cur.lanes op r half a k
    have hlen := g.length_csrWrite s.cycle p.cur.lanes op r half a
    obtain ⟨ls, rm, fz, sk, en, sv, hkeep⟩ := g.csrWrite_keeps s.cycle p.cur.lanes op r half a
    obtain ⟨hcount, hacting, hothers⟩ := ({ g.csrWrite s.cycle p.cur.lanes op r half a with snap := none } : Group).moved_moveTo p.cur.lanes (succPc p.cur.pc)
    refine ⟨_, he, rfl, ?_, hcount.trans hlen, fun k hk => ?_, fun k hk => ?_, ?_, ?_, ?_, fun j => ?_, fun j => ?_⟩
    · rw [hkeep]
      rfl
    · have hw : (g.csrWrite s.cycle p.cur.lanes op r half a).width = g.width := by rw [hkeep]
      have h1 := hacting k ⟨hk.1, hw ▸ hk.2.1, hlen ▸ hk.2.2⟩
      have h2 : ({ g.csrWrite s.cycle p.cur.lanes op r half a with snap := none } : Group).lane k = _ := (hlane k).trans (if_pos ⟨hk.1, hk.2.2⟩)
      rw [h2, apply_setWidth op (by decide), apply_setWidth op (by decide), hwide, hword, hword] at h1
      rw [h1]
      exact ⟨rfl, rfl, rfl, rfl, rfl, rfl⟩
    · rw [hothers k hk]
      exact (hlane k).trans (if_neg (by simp [hk]))
    · refine (congrArg Rounding.code (g.csrWrite_fprm ..)).trans ?_
      rw [apply_ite Rounding.code, code_roundingOf]
      rfl
    · refine (g.csrWrite_fpftz ..).trans ?_
      rw [apply_ofBool]
      rfl
    · refine (g.csrWrite_schk ..).trans ?_
      rw [apply_ofBool]
      rfl
    · refine (congrArg (fun e : LaneMask => e.getLsbD j) (g.csrWrite_enmask ..)).trans ?_
      rw [apply_ite (fun e : LaneMask => e.getLsbD j), BitVec.getLsbD_and, getLsbD_fullMask, hwide]
      rfl
    · refine (congrArg (fun e : LaneMask => e.getLsbD j) (g.csrWrite_saveden ..)).trans ?_
      rw [apply_ite (fun e : LaneMask => e.getLsbD j), BitVec.getLsbD_and, getLsbD_fullMask, hwide]
      rfl

end Sys2Proof.Machine
end

section
/-! SUPPORT. Writes of bytes: what holds bytes and the checks of bytes may change, and nothing else of the machine (R330, R400, R403, R435). -/
namespace Sys2Proof.Machine

/-- A team without the bytes of its window. -/
def Team.frame (t : Team) : Team := { t with window := [] }
/-- A porter without its reservation. -/
def Porter.frame (p : Porter) : Porter := { p with resv := none }

/-- The second state is the first with bytes written: HBM4, L1 and windows with their check state, and the reservations of porters that end. -/
def BytesOnly (s t : State) : Prop :=
  ∃ ts ps hb ck bw lb ld, t = { s with teams := ts, porters := ps, mem := { s.mem with hbm := hb, checks := ck, badWords := bw, l1bad := lb, l1dirty := ld } }
    ∧ ts.map (fun x => (x.1, x.2.frame)) = s.teams.map (fun x => (x.1, x.2.frame)) ∧ ps.map (fun x => (x.1, x.2.frame)) = s.porters.map (fun x => (x.1, x.2.frame))

namespace BytesOnly
variable {s t u : State}

theorem refl (s : State) : BytesOnly s s := ⟨_, _, _, _, _, _, _, rfl, rfl, rfl⟩
theorem trans (h : BytesOnly s t) (h' : BytesOnly t u) : BytesOnly s u := by
  obtain ⟨_, _, _, _, _, _, _, rfl, ht, hp⟩ := h
  obtain ⟨_, _, _, _, _, _, _, rfl, ht', hp'⟩ := h'
  exact ⟨_, _, _, _, _, _, _, rfl, ht'.trans ht, hp'.trans hp⟩
theorem foldl {α : Type} {f : State → α → State} (hf : ∀ s x, BytesOnly s (f s x)) (xs : List α) (s : State) : BytesOnly s (xs.foldl f s) := by
  induction xs generalizing s with
  | nil => exact refl s
  | cons x xs ih => exact (hf s x).trans (ih _)
/-- A change of the memory's bytes and checks alone. -/
theorem of_mem {m : Memory} (h : m = { s.mem with hbm := m.hbm, checks := m.checks, badWords := m.badWords, l1bad := m.l1bad, l1dirty := m.l1dirty }) : BytesOnly s { s with mem := m } :=
  ⟨s.teams, s.porters, m.hbm, m.checks, m.badWords, m.l1bad, m.l1dirty, by rw [← h], rfl, rfl⟩

theorem groups (h : BytesOnly s t) : t.groups = s.groups := by
  obtain ⟨_, _, _, _, _, _, _, rfl, _, _⟩ := h
  rfl
theorem group? (h : BytesOnly s t) (k : Nat) : t.group? k = s.group? k := by
  obtain ⟨_, _, _, _, _, _, _, rfl, _, _⟩ := h
  rfl
theorem packet (h : BytesOnly s t) : t.packet = s.packet := by
  obtain ⟨_, _, _, _, _, _, _, rfl, _, _⟩ := h
  rfl
theorem cycle (h : BytesOnly s t) : t.cycle = s.cycle := by
  obtain ⟨_, _, _, _, _, _, _, rfl, _, _⟩ := h
  rfl
theorem eng (h : BytesOnly s t) : t.eng = s.eng := by
  obtain ⟨_, _, _, _, _, _, _, rfl, _, _⟩ := h
  rfl
theorem dev (h : BytesOnly s t) : t.dev = s.dev := by
  obtain ⟨_, _, _, _, _, _, _, rfl, _, _⟩ := h
  rfl
theorem sched (h : BytesOnly s t) : t.sched = s.sched := by
  obtain ⟨_, _, _, _, _, _, _, rfl, _, _⟩ := h
  rfl
theorem fab (h : BytesOnly s t) : t.fab = s.fab := by
  obtain ⟨_, _, _, _, _, _, _, rfl, _, _⟩ := h
  rfl
theorem gangs (h : BytesOnly s t) : t.gangs = s.gangs := by
  obtain ⟨_, _, _, _, _, _, _, rfl, _, _⟩ := h
  rfl
theorem launches (h : BytesOnly s t) : t.launches = s.launches := by
  obtain ⟨_, _, _, _, _, _, _, rfl, _, _⟩ := h
  rfl
theorem pages (h : BytesOnly s t) : t.mem.pages = s.mem.pages := by
  obtain ⟨_, _, _, _, _, _, _, rfl, _, _⟩ := h
  rfl
theorem tiles (h : BytesOnly s t) : t.mem.tiles = s.mem.tiles := by
  obtain ⟨_, _, _, _, _, _, _, rfl, _, _⟩ := h
  rfl
theorem storeQ (h : BytesOnly s t) : t.mem.storeQ = s.mem.storeQ := by
  obtain ⟨_, _, _, _, _, _, _, rfl, _, _⟩ := h
  rfl

theorem lookup_frame {α : Type} (f : α → α) (l : List (Nat × α)) (k : Nat) : lookup (l.map fun x => (x.1, f x.2)) k = (lookup l k).map f := lookup_map (fun _ => f) l k

/-- A team keeps all but its window. -/
theorem team? (h : BytesOnly s t) (k : Nat) : (t.team? k).map Team.frame = (s.team? k).map Team.frame := by
  obtain ⟨_, _, _, _, _, _, _, rfl, ht, _⟩ := h
  exact (lookup_frame Team.frame _ k).symm.trans ((congrArg (lookup · k) ht).trans (lookup_frame Team.frame _ k))
end BytesOnly

/-! ## The operations that write bytes -/

theorem bytesOnly_putPhys (s : State) (core : Option Nat) (priv : Bool) (bs : List Byte) (pa : Nat) : BytesOnly s (s.putPhys core priv bs pa) := by
  unfold State.putPhys
  split
  · exact .of_mem rfl
  · exact .of_mem rfl

theorem frame_put {s : List (Nat × Team)} {k : Nat} {t : Team} (h : lookup s k = some t) (w : List Host.Cell) :
    (put s k { t with window := w }).map (fun x => (x.1, x.2.frame)) = s.map fun x => (x.1, x.2.frame) := by
  induction s with
  | nil => cases h
  | cons x s ih =>
    obtain ⟨j, y⟩ := x
    by_cases hj : j = k
    · subst hj
      simp only [lookup, if_true, Option.some.injEq] at h
      subst h
      simp [put, Team.frame]
    · simp only [lookup, hj, if_false] at h
      simp [put, hj, ih h]

theorem frame_dropReservations (ps : List (Nat × Porter)) (t o n : Nat) : (dropReservations ps t o n).map (fun x => (x.1, x.2.frame)) = ps.map fun x => (x.1, x.2.frame) := by
  rw [dropReservations, List.map_map]
  refine List.map_congr_left fun x _ => ?_
  dsimp only [Function.comp]
  split
  · split <;> rfl
  · rfl
  · rfl

theorem bytesOnly_putWin (s : State) (t o : Nat) (bs : List Byte) : BytesOnly s (s.putWin t o bs) := by
  unfold State.putWin State.modTeam State.freshWords
  split
  · next tm h => exact ⟨_, _, _, _, _, _, _, rfl, frame_put h _, frame_dropReservations ..⟩
  · exact ⟨_, _, _, _, _, _, _, rfl, rfl, frame_dropReservations ..⟩

theorem bytesOnly_putTagged (s : State) (tag : Nat) (core : Option Nat) (priv : Bool) (l : Loc) (bs : List Byte) : BytesOnly s (s.putTagged tag core priv l bs) := by
  unfold State.putTagged
  split
  · exact bytesOnly_putWin ..
  · exact .foldl (fun s a => bytesOnly_putPhys ..) _ _

theorem bytesOnly_putBytes (s : State) (core : Option Nat) (priv : Bool) (l : Loc) (bs : List Byte) : BytesOnly s (s.putBytes core priv l bs) := bytesOnly_putTagged ..
theorem bytesOnly_setField (s : State) (c : Ctx) (p : Place) (off n v : Nat) : BytesOnly s (s.setField c p off n v) := bytesOnly_putTagged ..

theorem bytesOnly_bringHome (s : State) (core : Nat) (out : List Host.Cell) : BytesOnly s (s.bringHome core out) := by
  refine .trans (.trans (.trans (.of_mem rfl) (.of_mem rfl)) (.foldl (fun t k => ?_) _ _)) (.of_mem rfl)
  split
  · exact .of_mem rfl
  · exact .refl t

theorem bytesOnly_writeBack (s : State) (core : Nat) : BytesOnly s (s.writeBack core) := (bytesOnly_bringHome ..).trans (.of_mem rfl)
theorem bytesOnly_evictLine (s : State) (core line : Nat) : BytesOnly s (s.evictLine core line) := (bytesOnly_bringHome ..).trans (.of_mem rfl)
theorem bytesOnly_flushRange (s : State) (core : Option Nat) (pa n : Nat) : BytesOnly s (s.flushRange core pa n) := by
  unfold State.flushRange
  split
  · exact .refl s
  · dsimp only
    split
    · exact .refl s
    · exact (bytesOnly_bringHome ..).trans (.of_mem rfl)

theorem bytesOnly_flushQueue (s : State) (c : Ctx) (q : Queue) : BytesOnly s (s.flushQueue c q) := by
  have hrange : ∀ (s : State) (ea : DWord) (n : Nat), BytesOnly s (match s.checkBytes c false ea n with
      | .ok p => (match p.loc with
          | .phys pa => s.flushRange c.core pa n
          | .win _ _ => s)
      | .remote _ _ => s
      | .bad _ => s) := fun s ea n => by
    split
    · split
      · exact bytesOnly_flushRange ..
      · exact .refl s
    · exact .refl s
    · exact .refl s
  unfold State.flushQueue
  dsimp only
  split
  · exact hrange ..
  · exact (hrange ..).trans (.foldl (fun s a => hrange ..) _ _)

theorem bytesOnly_writeEntries (vals : List Word) (s : State) (c : Ctx) (base : DWord) (cap k : Nat) : BytesOnly s (s.writeEntries c base cap k vals) := by
  induction vals generalizing s k with
  | nil => exact .refl s
  | cons v r ih =>
    rw [State.writeEntries]
    split
    · exact (bytesOnly_putTagged ..).trans (ih ..)
    · exact ih ..
    · exact ih ..

theorem bytesOnly_commitRun (s : State) (c : Ctx) (q : Place) (vals : List Word) : BytesOnly s (s.commitRun c q vals) := by
  unfold State.commitRun
  dsimp only
  split
  · exact .refl s
  · exact (bytesOnly_writeEntries ..).trans (bytesOnly_setField ..)

theorem bytesOnly_unbind (s : State) (c : Ctx) (q : QueueRef) : BytesOnly s (s.unbind c q) := bytesOnly_setField ..

end Sys2Proof.Machine
end

section
/-! SUPPORT. Operations of fences, waits and ends by what they leave of the groups (R35, R136, R165 to R168, R325). -/
namespace Sys2Proof.Machine

/-! ## Operations that leave the groups alone -/

theorem State.modTeam_groups (s : State) (k : Nat) (f : Team → Team) : (s.modTeam k f).groups = s.groups := by
  unfold State.modTeam
  split <;> rfl
theorem State.modLaunch_groups (s : State) (k : Nat) (f : Launch → Launch) : (s.modLaunch k f).groups = s.groups := by
  unfold State.modLaunch
  split <;> rfl

/-- A message sent changes no more than the links, the sequence counts, the loop and what leaves. -/
theorem State.sendMsg_eq (s : State) (dest tag : Nat) (m : FlitMsg) :
    ∃ ls sq lp ob, s.sendMsg dest tag m = { s with fab := { s.fab with links := ls, sendSeq := sq }, loop := lp, outbox := ob } := by
  unfold State.sendMsg State.forward State.transmit
  dsimp only
  split
  · exact ⟨_, _, _, _, rfl⟩
  · split
    · exact ⟨_, _, _, _, rfl⟩
    · split <;> exact ⟨_, _, _, _, rfl⟩

/-- A request changes no more than the fabric's state, the loop, what leaves, and, to a device that cannot be reached, the launch it is for. -/
theorem State.request_groups (s : State) (dest : Nat) (m : FlitMsg) (o : ReqOwner) (l : Nat) : (s.request dest m o l).2.groups = s.groups := by
  unfold State.request
  dsimp only
  split
  · exact State.modLaunch_groups ..
  · obtain ⟨ls, sq, lp, ob, h⟩ := State.sendMsg_eq { s.takeTag.2 with fab := { s.takeTag.2.fab with reqs := put s.takeTag.2.fab.reqs s.takeTag.1 { device := dest, sentAt := s.takeTag.2.timebase, launch := l, owner := o } } } dest s.takeTag.1 m
    exact (congrArg State.groups h).trans rfl
theorem State.giveBack_groups (s : State) (l : Nat) (root : Option RootAddr) (n : Nat) : (s.giveBack l root n).groups = s.groups := by
  unfold State.giveBack
  split
  · rfl
  · split
    · rfl
    · exact State.request_groups ..

theorem State.commitOne_groups {s t : State} (h : s.commitOne = some t) : t.groups = s.groups := by
  obtain ⟨x, -, hx⟩ := List.exists_of_findSome?_eq_some h
  split at hx
  · cases hx
  · dsimp only at hx
    split at hx
    · cases hx
    · split at hx
      · cases hx
        exact (State.modTeam_groups ..).trans (bytesOnly_commitRun ..).groups
      · cases hx
theorem State.commitRounds_groups (n : Nat) (s : State) : (s.commitRounds n).groups = s.groups := by
  induction n generalizing s with
  | zero => rfl
  | succ n ih =>
    rw [State.commitRounds]
    split
    · rfl
    · next t h => exact (ih t).trans (State.commitOne_groups h)
theorem State.claimOne_groups {s t : State} (h : s.claimOne = some t) : t.groups = s.groups := by
  obtain ⟨x, -, hx⟩ := List.exists_of_findSome?_eq_some h
  obtain ⟨y, -, hy⟩ := List.exists_of_findSome?_eq_some hx
  dsimp only at hy
  split at hy
  · cases hy
  · split at hy
    · cases hy
    · split at hy
      · cases hy
      · cases hy
        rfl
theorem State.claimRounds_groups (n : Nat) (s : State) : (s.claimRounds n).groups = s.groups := by
  induction n generalizing s with
  | zero => rfl
  | succ n ih =>
    rw [State.claimRounds]
    split
    · rfl
    · next t h => exact (ih t).trans (State.claimOne_groups h)
theorem State.settleRounds_groups (s : State) : s.settleRounds.groups = s.groups := (State.claimRounds_groups ..).trans (State.commitRounds_groups ..)

theorem State.endGang_groups (s : State) (k : Nat) : (s.endGang k).groups = s.groups := by
  unfold State.endGang
  split
  · rfl
  · split <;> rfl

theorem State.endTeam_groups (s : State) (tid : Nat) : (s.endTeam tid).groups = s.groups := by
  unfold State.endTeam
  split
  · rfl
  · exact (State.settleRounds_groups _).trans ((State.endGang_groups ..).trans ((State.modLaunch_groups ..).trans ((State.giveBack_groups ..).trans
      ((BytesOnly.foldl bytesOnly_writeBack _ _).groups.trans (BytesOnly.foldl (fun s b => bytesOnly_unbind ..) _ _).groups))))

/-! ## The end of a group (R35) -/

/-- A group that ended: no wait, no live lane. -/
structure Group.Over (g h : Group) : Prop where
  ended : h.ended = true
  waits : h.waits = []
  count : h.lanes.length = g.lanes.length
  exited : ∀ i, i < g.lanes.length → (h.lane i).st = .exited

theorem State.group?_closeSegment {s : State} {gid : Nat} {g : Group} (hg : s.group? gid = some g) : (s.closeSegment gid).group? gid = some { g with segment := g.segment + 1 } := by
  rw [State.closeSegment, hg]
  exact State.group?_setGroup_same ..

/-- A group as its end leaves it. -/
def Group.afterEnd (g : Group) : Group :=
  { g with segment := g.segment + 1, ended := true, waits := [], pending := none, parked := none, emptyWait := false, lanes := g.lanes.map fun (l : Lane) => { l with st := .exited } }

/-- The end of a group ends it and leaves it no live lane. -/
theorem State.group?_endGroup {s : State} {gid : Nat} {g : Group} (hg : s.group? gid = some g) : ∃ h, (s.endGroup gid).group? gid = some h ∧ g.Over h := by
  have hg' : (s.assignStaged gid g fun _ => true).group? gid = some g := hg
  have hmod := State.group?_modGroup_same (State.group?_closeSegment hg') fun h => { h with ended := true, waits := [], pending := none, parked := none, emptyWait := false, lanes := h.lanes.map fun (l : Lane) => { l with st := .exited } }
  have hend : (s.endGroup gid).group? gid = some g.afterEnd := by
    unfold State.endGroup
    rw [hg]
    dsimp only
    rw [apply_ite (fun t : State => t.group? gid), State.group?, State.endTeam_groups, State.group?, ite_self, State.settleRounds_groups]
    exact hmod
  refine ⟨g.afterEnd, hend, rfl, rfl, List.length_map .., fun i hi => ?_⟩
  simp [Group.lane, Group.afterEnd, hi]

theorem State.modGroup_eng (s : State) (k : Nat) (f : Group → Group) : (s.modGroup k f).eng = s.eng := by
  unfold State.modGroup
  split <;> rfl
theorem State.modGroup_mem (s : State) (k : Nat) (f : Group → Group) : (s.modGroup k f).mem = s.mem := by
  unfold State.modGroup
  split <;> rfl
theorem State.modGroup_teams (s : State) (k : Nat) (f : Group → Group) : (s.modGroup k f).teams = s.teams := by
  unfold State.modGroup
  split <;> rfl

/-! ## Waits -/

/-- An instruction that has not waited leaves no wait. -/
theorem Group.leaveWait_of_waitOf_none {g : Group} {sl : Slot} (h : g.waitOf sl.pc sl.place = none) : g.leaveWait sl = g := by
  have hf : (g.waits.filter fun w => !(w.slot.pc == sl.pc && w.slot.place == sl.place)) = g.waits := by
    refine List.filter_eq_self.mpr fun w hw => ?_
    simpa [imp_iff_not_or] using List.find?_eq_none.mp h w hw
  rw [Group.leaveWait, hf]

/-- An instruction that enters a wait waits in it. -/
theorem Group.kind_enterWait (g : Group) (now : Nat) (k : WaitKind) (sl : Slot) : ((g.enterWait now k sl).waitOf sl.pc sl.place).map (·.kind) = some k := by
  rw [Group.waitOf_enterWait]
  rfl

/-! ## What stays when bytes are written -/

theorem BytesOnly.gang {s t : State} (h : BytesOnly s t) (k : Nat) : (t.team? k).map (·.gang) = (s.team? k).map (·.gang) := by
  have hf := congrArg (Option.map Team.gang) (h.team? k)
  rwa [Option.map_map, Option.map_map] at hf
theorem BytesOnly.launchIdOf {s t : State} (h : BytesOnly s t) (g : Group) : t.launchIdOf g = s.launchIdOf g := by
  have hg : ∀ u : State, u.gangOf g = ((u.team? g.team).map (·.gang)).bind u.gang? := fun u => by
    rw [State.gangOf, State.teamOf, Option.bind_map]
    rfl
  rw [State.launchIdOf, State.launchIdOf, hg, hg, h.gang, show t.gang? = s.gang? from funext fun k => congrArg (lookup · k) h.gangs]
theorem BytesOnly.launchOf {s t : State} (h : BytesOnly s t) (g : Group) : t.launchOf g = s.launchOf g := by
  rw [State.launchOf, State.launchOf, h.launchIdOf, State.launch?, State.launch?, h.launches]
theorem BytesOnly.certified {s t : State} (h : BytesOnly s t) (g : Group) : t.certified g = s.certified g := by
  rw [State.certified, State.certified, h.launchOf]

/-- With no deferred trap to take an instruction goes on. -/
theorem State.orDeferred_none {s : State} {p : Packet} {g : Group} {f : Deferred → Bool} (h : g.deferredFor f = none) (k : State) : s.orDeferred p g f k = k := by
  rw [State.orDeferred, h]

/-- A group that is no certified kernel's closes no segment (R343). -/
theorem State.closeFor_of_not_certified {s : State} {gid : Nat} {g : Group} (hg : s.group? gid = some g) (hc : s.certified g = false) (wait : Bool) : s.closeFor gid wait = s := by
  simp only [State.closeFor, hg, hc, Bool.false_eq_true, if_false]

/-! ## Fences (R325) -/

theorem bytesOnly_publish (s : State) (g : Group) (c : Scope) : BytesOnly s (s.publish g c) := by
  unfold State.publish
  split
  · exact bytesOnly_writeBack ..
  · exact .refl s

/-- A fence by whether its effect is complete. -/
theorem fenceInstr_eq {s : State} {p : Packet} {g : Group} (hs : s.issuing = some (p, g)) (hw : g.waitOf p.cur.pc p.cur.place = none) (hc : s.certified g = false) {c : Scope} {release : Bool} (acquire : Bool)
    (hd : g.deferredFor (if release then Deferred.atRelease else Deferred.atAcquire) = none) :
    fenceInstr s c release acquire = .next (if (if release then s.performed p.gid g c else g.loadsReturned) then (if release && wide? c then s.writeBack g.core else s).finish p g
      else s.setGroup p.gid (g.enterWait s.cycle (.fence c release) p.cur)) := by
  refine (State.issue_eq hs _).trans (congrArg _ ?_)
  rw [State.orDeferred_none hd, Group.leaveWait_of_waitOf_none hw]
  have hpub : (if release then s.publish g c else s) = if release && wide? c then s.writeBack g.core else s := by
    cases release <;> rfl
  dsimp only
  rw [hpub]
  refine if_congr Iff.rfl ?_ rfl
  have hbytes : BytesOnly s (if (release && wide? c) = true then s.writeBack g.core else s) := by
    split
    · exact bytesOnly_writeBack ..
    · exact .refl s
  have hclose := State.closeFor_of_not_certified (State.group?_finish (if (release && wide? c) = true then s.writeBack g.core else s) p g) ((hbytes.certified g).trans hc) acquire
  rw [hclose, ite_self]

/-! ## Copy batches (R39, R166) -/

theorem Group.advanceDone_eq (inc : List Nat) (n : Nat) (g : Group) : ∃ b, g.advanceDone inc n = { g with bdone := b } := by
  induction n generalizing g with
  | zero => exact ⟨_, rfl⟩
  | succ n ih =>
    rw [Group.advanceDone]
    split
    · exact ⟨_, rfl⟩
    · exact ih _

/-- A batch sealed when all before it are complete, and no copy is left, is complete at once (R39). -/
theorem Group.advanceDone_one {g : Group} {b : Nat} (hd : g.bdone = b) (hs : g.bsealed = (b + 1) % 65536) (_ : b < 65536) :
    (g.advanceDone [] ((g.bsealed + 65536 - g.bdone % 65536) % 65536)).bdone = (b + 1) % 65536 := by
  rw [hd, hs, show ((b + 1) % 65536 + 65536 - b % 65536) % 65536 = 1 by omega, Group.advanceDone, if_neg, hd]
  · rfl
  · rw [hd, hs]
    simp only [List.contains_nil, Bool.or_false, decide_eq_true_eq]
    omega

/-- A sealed batch leaves no copy in the open one (R166). -/
theorem batchOf_sealed (gid n : Nat) (c : Copy) : (if c.batchOf gid == some none then { c with kind := CopyKind.batch (some n) } else c).batchOf gid ≠ some none := by
  split
  · next h =>
    have hg : c.gid = gid := by
      by_contra hne
      simp [Copy.batchOf, hne] at h
    simp [Copy.batchOf, hg]
  · next h => simpa using h

/-- A copy of no batch of the group is of none after one is sealed. -/
theorem batchOf_sealed_none {gid n : Nat} {c : Copy} (h : c.batchOf gid = none) : (if c.batchOf gid == some none then { c with kind := CopyKind.batch (some n) } else c) = c := by
  rw [h]
  rfl

/-- g.seal seals the open batch under the next number (R166). -/
theorem seal_eq {s : State} {p : Packet} {g : Group} (hs : s.issuing = some (p, g)) (hw : g.waitOf p.cur.pc p.cur.place = none) {d : Reg} (hopen : (s.openBatches p.gid).length < 16) :
    ∃ t h e, exec (.gSeal d) s = .next t ∧ t.group? p.gid = some h ∧ h = { g with lanes := h.lanes, sb := g.sb ++ [e], bsealed := (g.bsealed + 1) % 65536, bdone := h.bdone, deferred := h.deferred }
      ∧ Moved g h p.cur.lanes (succPc p.cur.pc) ∧ e.kind = .ready ∧ e.due = s.cycle + 4 ∧ (∀ i, g.acts p.cur.lanes i → (i, d, BitVec.ofNat 32 ((g.bsealed + 1) % 65536)) ∈ e.vals)
      ∧ (∀ x ∈ t.eng.copies, x.2.batchOf p.gid ≠ some none)
      ∧ ((∀ x ∈ s.eng.copies, x.2.batchOf p.gid = none) → g.bdone = g.bsealed → g.bsealed < 65536 → h.bdone = (g.bsealed + 1) % 65536)
      ∧ t.mem = s.mem ∧ t.teams = s.teams := by
  let n := (g.bsealed + 1) % 65536
  let a := s.answerAfter 4 p g [(d, BitVec.ofNat 32 n)]
  have he : exec (.gSeal d) s = .next ((a.sealBatch p.gid n).settleBatches p.gid) := by
    refine (State.issue_eq hs _).trans (congrArg _ ((if_neg (by omega)).trans ?_))
    rw [Group.leaveWait_of_waitOf_none hw]
  obtain ⟨e, ha, hg, hek, hed, hev⟩ : ∃ e : SbEntry, (∃ gs sc, a = { s with groups := gs, sched := sc }) ∧ a.group? p.gid = some { g.moveTo p.cur.lanes (succPc p.cur.pc) with sb := g.sb ++ [e] }
      ∧ e.kind = .ready ∧ e.due = s.cycle + 4 ∧ e.vals = g.toAll p.cur.lanes [(d, BitVec.ofNat 32 n)] := by
    have hpost := State.post_eq (State.group?_finish s p g) p.cur.pc p.cur.lanes (((g.toAll p.cur.lanes [(d, BitVec.ofNat 32 n)]).map fun w => w.2.1).eraseDups) (g.toAll p.cur.lanes [(d, BitVec.ofNat 32 n)]) 4
    exact ⟨_, ⟨_, _, hpost⟩, (congrArg (fun t : State => t.group? p.gid) hpost).trans (State.group?_setGroup_same ..), rfl, rfl, rfl⟩
  obtain ⟨gs, sc, ha⟩ := ha
  have hseal := State.group?_modGroup_same (s := { a with eng := { a.eng with
      copies := a.eng.copies.map fun (c : Nat × Copy) => (c.1, if c.2.batchOf p.gid == some none then { c.2 with kind := CopyKind.batch (some n) } else c.2)
      staged := a.eng.staged.map fun (x : Staged) => if x.gid == p.gid && x.awaits == some (none, none) then { x with awaits := some (some n, none) } else x } })
    hg fun g => { g with bsealed := n, deferred := g.deferred.map fun (d : Deferred) => if d.kind == DeferKind.batch none then { d with kind := DeferKind.batch (some n) } else d }
  have hset := State.group?_modGroup_same (s := a.sealBatch p.gid n) hseal fun g => g.advanceDone ((a.sealBatch p.gid n).openBatches p.gid) ((g.bsealed + 65536 - g.bdone % 65536) % 65536)
  have hcopies : ((a.sealBatch p.gid n).settleBatches p.gid).eng.copies = s.eng.copies.map fun (c : Nat × Copy) => (c.1, if c.2.batchOf p.gid == some none then { c.2 with kind := CopyKind.batch (some n) } else c.2) := by
    rw [State.settleBatches, State.modGroup_eng, State.sealBatch, State.modGroup_eng, ha]
  obtain ⟨b, hb⟩ := Group.advanceDone_eq ((a.sealBatch p.gid n).openBatches p.gid) ((n + 65536 - g.bdone % 65536) % 65536)
    { g.moveTo p.cur.lanes (succPc p.cur.pc) with sb := g.sb ++ [e], bsealed := n, deferred := g.deferred.map fun (d : Deferred) => if d.kind == DeferKind.batch none then { d with kind := DeferKind.batch (some n) } else d }
  obtain ⟨hcount, hacting, hothers⟩ := g.moved_moveTo p.cur.lanes (succPc p.cur.pc)
  refine ⟨_, _, e, he, hset.trans (congrArg some hb), rfl, ⟨hcount, hacting, hothers⟩, hek, hed, fun i hi => ?_, fun x hx => ?_, fun hnone hdone hlt => ?_, ?_, ?_⟩
  · rw [hev]
    exact List.mem_flatMap.mpr ⟨i, (g.mem_list _ i).mpr ⟨hi.1, hi.2.1⟩, List.mem_map.mpr ⟨_, List.mem_singleton_self _, rfl⟩⟩
  · rw [hcopies] at hx
    obtain ⟨y, -, rfl⟩ := List.mem_map.mp hx
    exact batchOf_sealed p.gid n y.2
  · have hnil : (a.sealBatch p.gid n).openBatches p.gid = [] := by
      have hc : (a.sealBatch p.gid n).eng.copies = s.eng.copies := by
        rw [State.sealBatch, State.modGroup_eng, ha]
        exact (List.map_congr_left fun x hx => congrArg (Prod.mk x.1) (batchOf_sealed_none (hnone x hx))).trans (List.map_id _)
      rw [State.openBatches, hc, List.filterMap_eq_nil_iff.mpr fun x hx => by rw [hnone x hx]; rfl]
      rfl
    rw [hnil] at hb
    exact (congrArg Group.bdone hb).symm.trans (Group.advanceDone_one (g := { g.moveTo p.cur.lanes (succPc p.cur.pc) with sb := g.sb ++ [e], bsealed := n, deferred := _ }) hdone rfl hlt)
  · rw [State.settleBatches, State.modGroup_mem, State.sealBatch, State.modGroup_mem, ha]
  · rw [State.settleBatches, State.modGroup_teams, State.sealBatch, State.modGroup_teams, ha]

/-- A number that g.bwait takes is not ahead of BATCH.SEALED (R167). -/
theorem bwait_not_ahead {x : Nat} (h : x = 0 ∨ 32768 ≤ x) : ¬ (decide (1 ≤ x) && decide (x < 32768)) = true := by
  rw [Bool.and_eq_true, decide_eq_true_eq, decide_eq_true_eq]
  omega

/-- An instruction that leaves the group no live lane exits it (R136, R192). -/
theorem exit_eq {s : State} {p : Packet} {g : Group} (hs : s.issuing = some (p, g)) {i : Instr} (hi : i ∈ [Instr.gExit, Instr.exitl]) (hl : i = .exitl → g.liveMask = p.cur.lanes) :
    exec i s = .next (s.exitGroup p g) := by
  simp only [List.mem_cons, List.not_mem_nil, or_false] at hi
  obtain rfl | rfl := hi
  · exact State.issue_eq hs _
  · exact (State.issue_eq hs _).trans (congrArg _ (if_pos (hl rfl)))

/-- Settles O23: each instruction by what it waits for. -/
theorem fenceAndWaitResults : Obligations.FenceAndWaitResults := by
  intro s p g hc waits ends
  have hover : ∀ (t : State) gid, s.group? gid = some g → t = s.endGroup gid → ends t gid := fun t gid hg ht => by
    obtain ⟨h, hh, hover⟩ := State.group?_endGroup hg
    exact ⟨h, ht ▸ hh, hover.ended, hover.waits, hover.count, hover.exited⟩
  have hwaits : ∀ i k, exec i s = .next (s.setGroup p.gid (g.enterWait s.cycle k p.cur)) → waits i k := fun i k he => ⟨_, he, rfl, g.kind_enterWait _ _ _⟩
  refine ⟨fun hs hw => ⟨fun c i release hi hd => ?_, fun k => ⟨fun h => ?_, fun h => ?_⟩, fun d => ⟨fun h => seal_eq hs hw h, fun h => ?_⟩, fun a => ⟨fun h1 h2 => ?_, fun hahead hd => ⟨fun hcov hlt => ?_, fun hcov hlt => ?_⟩⟩,
    fun i hi hlive => ⟨fun hex hdef => ?_, fun hex => ?_⟩⟩, fun gid w hg hw hex hres hdef => ?_⟩
  · obtain ⟨acquire, he⟩ : ∃ acquire, exec i s = fenceInstr s c release acquire := by
      simp only [List.mem_cons, Prod.mk.injEq, List.not_mem_nil, or_false] at hi
      obtain ⟨rfl, rfl⟩ | ⟨rfl, rfl⟩ | ⟨rfl, rfl⟩ := hi
      · exact ⟨false, rfl⟩
      · exact ⟨true, rfl⟩
      · exact ⟨true, rfl⟩
    have he := he.trans (fenceInstr_eq hs hw hc acquire hd)
    refine ⟨fun hdone => ⟨_, he.trans (congrArg _ (if_pos hdone)), rfl, g.moved_moveTo _ _⟩, fun hdone => hwaits _ _ (he.trans (congrArg _ (if_neg ?_)))⟩
    exact Bool.eq_false_iff.mp hdone
  · refine ⟨(s.finish p g).assignStaged p.gid g fun a => a.2 == some k, _, (State.issue_eq hs _).trans (congrArg _ ((if_neg ?_).trans (by rw [Group.leaveWait_of_waitOf_none hw]))),
      State.group?_finish s p g, rfl, g.moved_moveTo _ _, rfl⟩
    simpa using h
  · exact hwaits _ _ ((State.issue_eq hs _).trans (congrArg _ (if_pos (by simp [h]))))
  · exact hwaits _ _ ((State.issue_eq hs _).trans (congrArg _ (if_pos h)))
  · exact (State.issue_eq hs _).trans (congrArg _ (if_pos (by simpa using ⟨h1, h2⟩)))
  · refine ⟨(s.finish p g).assignStaged p.gid g fun x => match x.1 with
        | some m => covers ((g.uread s.cycle p.cur.lanes a).toNat % 65536) m
        | none => false, _, (State.issue_eq hs _).trans (congrArg _ ((if_neg (bwait_not_ahead hahead)).trans ((State.orDeferred_none hd _).trans ?_))), State.group?_finish s p g, rfl, g.moved_moveTo _ _, rfl⟩
    rw [Group.leaveWait_of_waitOf_none hw]
    exact if_pos (decide_eq_true (by rw [Nat.mod_mod]; exact hcov))
  · refine hwaits _ _ ((State.issue_eq hs _).trans (congrArg _ ((if_neg (bwait_not_ahead hahead)).trans ((State.orDeferred_none hd _).trans ?_))))
    exact if_neg (by rw [covers, Nat.mod_mod, decide_eq_true_eq]; exact not_lt.mpr hcov)
  · have hexit : s.exitGroup p g = s.endGroup p.gid := (if_pos hex).trans (by rw [State.exitNow, hdef])
    exact ⟨_, exit_eq hs hi hlive, hover _ p.gid ((State.issuing_iff s p g).mp hs).2 hexit⟩
  · exact hwaits _ _ ((exit_eq hs hi hlive).trans (congrArg _ (if_neg (by simp [hex]))))
  · refine ⟨_, ?_, hover _ gid hg rfl⟩
    have hnow : s.exitNow gid g w.slot = s.endGroup gid := by rw [State.exitNow, hdef]
    show execExitWaitEnd gid s = _
    simp only [execExitWaitEnd, hg, hw, hex, hres, Bool.and_self, if_true, hnow]

end Sys2Proof.Machine
end

section
/-! SUPPORT. Step domains as groups use them (R169 to R173). -/
namespace Sys2Proof.Machine

/-- What follows a wait for accesses that are performed. -/
theorem State.afterPerformed_done {s : State} {p : Packet} {g : Group} {c : Scope} (h : s.performed p.gid g c = true) (k : State) : s.afterPerformed p g c true k = k := if_pos h

/-- An instruction that ends closes no segment of a group that is no certified kernel's (R343). -/
theorem State.closeFor_finish {s : State} {g : Group} (hc : s.certified g = false) (p : Packet) (wait : Bool) : (s.finish p g).closeFor p.gid wait = s.finish p g :=
  State.closeFor_of_not_certified (State.group?_finish s p g) hc wait

/-- A list put in an order holds the same elements. -/
theorem insertBy_perm {α : Type} (f : α → Nat) (x : α) (l : List α) : (insertBy f x l).Perm (x :: l) := by
  induction l with
  | nil => exact .refl _
  | cons y r ih =>
    rw [insertBy]
    split
    · exact .refl _
    · exact (ih.cons y).trans (.swap x y r)
theorem sortBy_perm {α : Type} (f : α → Nat) (l : List α) : (sortBy f l).Perm l := by
  suffices h : ∀ r : List α, (l.foldl (fun r x => insertBy f x r) r).Perm (r ++ l) from h []
  induction l with
  | nil => exact fun r => by simp
  | cons x l ih => exact fun r => (ih _).trans (((insertBy_perm f x r).append_right l).trans List.perm_middle.symm)
theorem mem_sortBy {α : Type} {f : α → Nat} {l : List α} {x : α} : x ∈ sortBy f l ↔ x ∈ l := (sortBy_perm f l).mem_iff

/-- The pieces that a sweep walks (R396). -/
theorem State.mem_sweepPieces (s : State) (n : Domain) (x : Nat × Nat) : x ∈ s.sweepPieces n ↔
    ∃ q ∈ s.mem.pages, attrAged q.attr = true ∧ attrDomain q.attr = n.val ∧ q.pa + q.size ≤ Config.hbmBytes ∧ x.1 = q.asid ∧ ∃ k, k < q.size / 65536 ∧ x.2 = q.la + 65536 * k := by
  obtain ⟨a, b⟩ := x
  simp only [State.sweepPieces, List.mem_map, mem_sortBy, List.mem_flatMap, List.mem_filter, List.mem_range, Bool.and_eq_true, beq_iff_eq, decide_eq_true_eq]
  constructor
  · rintro ⟨_, ⟨q, ⟨hq, ⟨haged, hdom⟩, hsize⟩, k, hk, rfl⟩, h⟩
    cases h
    exact ⟨q, hq, haged, hdom, hsize, rfl, k, hk, rfl⟩
  · rintro ⟨q, hq, haged, hdom, hsize, rfl, k, hk, rfl⟩
    exact ⟨_, ⟨q, ⟨hq, ⟨haged, hdom⟩, hsize⟩, k, hk, rfl⟩, rfl⟩

/-- How far the advanced datum lies past SWEEPBASE (R169). -/
theorem toNat_stepadv (datum base : DWord) (v : Word) : (datum + v.setWidth 64 - base).toNat = ((datum.toNat + v.toNat) % 2 ^ 64 + 2 ^ 64 - base.toNat) % 2 ^ 64 := by
  have hv : (v.setWidth 64 : DWord).toNat = v.toNat := BitVec.toNat_setWidth_of_le (by decide)
  have hb := base.isLt
  rw [BitVec.toNat_sub, BitVec.toNat_add, hv]
  omega

/-- Settles O25: the advance by its two checks, a sweep by the one that runs. -/
theorem stepDomainResults : Obligations.StepDomainResults := by
  intro s p g hs hw a d n u v datum new past
  have hnew : s.dev.datum.get n + (g.uread s.cycle p.cur.lanes a).setWidth 64 = BitVec.ofNat 64 new := by
    apply BitVec.eq_of_toNat_eq
    rw [BitVec.toNat_add, BitVec.toNat_setWidth_of_le (by decide), BitVec.toNat_ofNat, Nat.mod_mod]
    rfl
  have hpast : (s.dev.datum.get n + (g.uread s.cycle p.cur.lanes a).setWidth 64 - s.dev.sweepBase.get n).toNat = past := toNat_stepadv ..
  have hu : BytesOnly s u := bytesOnly_writeBack ..
  refine ⟨fun hc hperf => ?_, ?_, fun h => ⟨1, ?_⟩, fun h => ⟨_, (State.issue_eq hs _).trans (congrArg _ (if_pos h)), rfl, g.kind_enterWait _ _ _⟩⟩
  · have he : exec (.gStepadv a n) s = .next
        (if s.dev.spanning.getLsbD n.val then u.trapAt p.gid p.cur .stepSpanning p.cur.lanes 0
         else if 2 ^ 23 ≤ (s.dev.datum.get n + (g.uread s.cycle p.cur.lanes a).setWidth 64 - s.dev.sweepBase.get n).toNat then u.trapAt p.gid p.cur .stepSweepDue p.cur.lanes 0
         else (({ u with dev := { u.dev with datum := u.dev.datum.set n (s.dev.datum.get n + (g.uread s.cycle p.cur.lanes a).setWidth 64) } } : State).finish p (g.leaveWait p.cur)).closeFor p.gid false) :=
      (State.issue_eq hs _).trans (congrArg _ (State.afterPerformed_done hperf _))
    rw [hpast, hnew, Group.leaveWait_of_waitOf_none hw] at he
    have hclose : ∀ dv, (({ u with dev := dv } : State).finish p g).closeFor p.gid false = ({ u with dev := dv } : State).finish p g := fun dv =>
      State.closeFor_finish (s := { u with dev := dv }) ((hu.certified g).trans hc) p false
    rw [hclose] at he
    refine ⟨fun h1 => he.trans (congrArg _ (if_pos h1)), fun h1 h2 => he.trans (congrArg _ ((if_neg (ne_true_of_eq_false h1)).trans (if_pos h2))),
      fun h1 h2 => ⟨_, he.trans (congrArg _ ((if_neg (ne_true_of_eq_false h1)).trans (if_neg (not_le.mpr h2)))), rfl, g.moved_moveTo _ _⟩⟩
  · by_cases hsw : s.sweeping n = true
    · exact ⟨_, _, (State.issue_eq hs _).trans (congrArg _ (if_pos hsw)), State.group?_finish s p g, rfl, g.moved_moveTo _ _, rfl, fun _ => rfl, fun h => by simp [hsw] at h⟩
    · refine ⟨_, _, (State.issue_eq hs _).trans (congrArg _ (if_neg hsw)), State.group?_finish s p g, rfl, g.moved_moveTo _ _, rfl, fun h => absurd h hsw, fun _ =>
        ⟨_, rfl, rfl, rfl, by simp, s.mem_sweepPieces n⟩⟩
  · refine answerAfter_completes hs ((State.issue_eq hs _).trans (congrArg _ ((if_neg (by simp [h])).trans ?_))) (List.nodup_singleton d)
    rw [Group.leaveWait_of_waitOf_none hw]
    rfl

end Sys2Proof.Machine
end

section
/-! SUPPORT. Traps: what a step that traps leaves, a handler's entry, parks and kills (R14, R100, R355 to R362, R393). -/
namespace Sys2Proof.Machine

/-! ## Steps that trap (R14, R100, R355) -/

section
variable {s : State} {p : Packet} {g : Group} (hp : s.packet = some p) (hg : s.group? p.gid = some g) (he : g.ended = false) (hw : g.waitOf p.cur.pc p.cur.place = none)
include hp hg he hw

omit hp in
/-- A step that fetches a word runs it, when the control word has no nonzero bit in [31:29]. -/
theorem State.runSlot_word {c w : Word} (hf : s.fetchFor g p.cur.pc = .word c w) (hc : c.toNat < 2 ^ 29) :
    s.runSlot p = (s.withWord p w).runWord { p with cur := { p.cur with word := w } } g := by
  have hbits : ¬ c.toNat / 2 ^ 29 ≠ 0 := by omega
  simp only [State.runSlot, hg, he, hw, hf, Option.isSome_none, Bool.false_eq_true, if_false, if_neg hbits]

/-- A step whose fetch traps traps with no word (R14). -/
theorem step_fetch_trap {c : Cause} (hf : s.fetchFor g p.cur.pc = .trap c) :
    ∃ t, step s = .next t ∧ t = { ((s.withWord p 0).trapAt p.gid { p.cur with word := 0 } c p.cur.lanes p.cur.pc).afterSlot with tick := t.tick, lateStores := t.lateStores } := by
  refine ⟨_, step_of_runSlot hp ?_, rfl⟩
  simp only [State.runSlot, hg, he, hw, hf, Option.isSome_none, Bool.false_eq_true, if_false]

/-- A step whose word traps before it is run (R100). -/
theorem step_word_trap {c w : Word} {cause : Cause} (hf : s.fetchFor g p.cur.pc = .word c w) (hc : c.toNat < 2 ^ 29)
    (hr : (s.withWord p w).runWord { p with cur := { p.cur with word := w } } g = .next ((s.withWord p w).trapAt p.gid { p.cur with word := w } cause p.cur.lanes 0).afterSlot) :
    ∃ t, step s = .next t ∧ t = { ((s.withWord p w).trapAt p.gid { p.cur with word := w } cause p.cur.lanes 0).afterSlot with tick := t.tick, lateStores := t.lateStores } :=
  ⟨_, step_of_runSlot hp ((State.runSlot_word hg he hw hf hc).trans hr), rfl⟩
end

section
variable {s : State} {p : Packet} {g : Group}

theorem State.runWord_error {e : Reject} (hd : decodeWord p.cur.word = .error e) :
    s.runWord p g = .next (s.trapAt p.gid p.cur (if e = .extension then .extEmu else .illegal) p.cur.lanes 0).afterSlot := by
  cases e <;> simp only [State.runWord, hd] <;> rfl

/-- What the checks of R100 find before an instruction runs. -/
theorem State.runWord_precheck {i : Instr} {c : Cause} {m : LaneMask} {a : DWord} (hd : decodeWord p.cur.word = .ok i) (hw : g.waitOf p.cur.pc p.cur.place = none)
    (hp : s.precheck g p.cur (uses g.width i) = some (c, m, a)) : s.runWord p g = .next (s.trapAt p.gid p.cur c m a).afterSlot := by
  simp only [State.runWord, hd, hw, hp, Option.isSome_none, Bool.false_eq_true, if_false]

theorem State.precheck_shape {sl : Slot} {u : Uses} (h : u.shapeOk = false) : s.precheck g sl u = some (.illegal, sl.lanes, 0) := if_pos (by simp [h])
theorem State.precheck_budget {sl : Slot} {u : Uses} (h : u.shapeOk = true) {r : Reg} (hr : r ∈ u.named) (ha : g.alloc ≤ r.val) : s.precheck g sl u = some (.budget, sl.lanes, 0) :=
  (if_neg (by simp [h])).trans (if_pos (List.any_eq_true.mpr ⟨r, hr, decide_eq_true ha⟩))
end

/-- A fetch at an unmapped PC, of a page with NX, or in a handler of a page without PIN (R14, R359). -/
theorem State.fetch_pageFault {s : State} {asid : Nat} {hnd : Bool} {own : Option Nat} {pc : DWord} (hr : pc.toNat / 2 ^ 46 % 2 ^ 11 = 0)
    (h : ∀ q ∈ s.mem.pages, q.asid = asid → q.la ≤ pc.toNat % 2 ^ 46 → pc.toNat % 2 ^ 46 < q.la + q.size → q.nx = true ∨ (hnd = true ∧ q.pin = false)) : s.fetch asid hnd own pc = .trap .pageFault := by
  unfold State.fetch
  rw [if_neg (not_not.mpr hr)]
  split
  · rfl
  · next q hq =>
    have hpage := List.find?_some hq
    simp only [Bool.and_eq_true, beq_iff_eq, decide_eq_true_eq] at hpage
    obtain ⟨⟨hasid, hla⟩, hend⟩ := hpage
    refine if_pos ?_
    simpa [Bool.or_eq_true, Bool.and_eq_true] using h q (List.mem_of_find?_eq_some hq) hasid hla hend

/-- Settles O33: what the fetch finds, what the decoder answers, what the checks find. -/
theorem stepTraps : Obligations.StepTraps := by
  intro s p g hp hg he hw
  refine ⟨fun c w e hf hc hd => step_word_trap hp hg he hw hf hc (State.runWord_error hd), fun c w i hf hc hd hs => step_word_trap hp hg he hw hf hc (State.runWord_precheck hd hw (State.precheck_shape hs)),
    fun c w i r hf hc hd hs hr ha => step_word_trap hp hg he hw hf hc (State.runWord_precheck hd hw (State.precheck_budget hs hr ha)),
    fun h => step_fetch_trap hp hg he hw (if_pos h), fun h hpages => step_fetch_trap hp hg he hw (State.fetch_pageFault h hpages)⟩

/-! ## A handler's entry (R357, R364) -/

/-- Only EXT_EMU enters at the emulation entry (R364). -/
theorem entryOf_eq {c : Cause} {v : DWord} (hc : c.entry ≠ .park) (hv : v ≠ 0) : entryOf c v = some (if c = .extEmu then BitVec.ofNat 64 (v.toNat / 32 * 32 + 36) else v) := by
  have hblock : v - BitVec.ofNat 64 (v.toNat % 32) + 36 = BitVec.ofNat 64 (v.toNat / 32 * 32 + 36) := by
    have hle : BitVec.ofNat 64 (v.toNat % 32) + BitVec.ofNat 64 (v.toNat / 32 * 32) = v := by
      rw [← BitVec.ofNat_add, Nat.mod_add_div' v.toNat 32, BitVec.ofNat_toNat, BitVec.setWidth_eq]
    rw [BitVec.ofNat_add, ← eq_sub_of_add_eq' hle]
    rfl
  have hemu : c.entry = .emulation ↔ c = .extEmu := by cases c <;> simp [Cause.entry]
  cases h : c.entry with
  | park => exact absurd h hc
  | handler =>
    rw [if_neg (mt hemu.mpr (by simp [h])), entryOf, h]
    exact if_neg hv
  | emulation =>
    rw [if_pos (hemu.mp h), entryOf, h, ← hblock]
    exact if_neg hv

/-- A lane after a trap saved its state (R356, R357). -/
theorem Group.lane_saveTrap_eq (g : Group) (r : TrapRec) (i : Nat) : (g.saveTrap r).lane i =
    if (g.lane i).live then { g.lane i with trappc := if r.active.getLsbD i then r.restart else (g.lane i).pc, st := .live } else g.lane i := by
  rcases Nat.lt_or_ge i g.lanes.length with h | h
  · by_cases hl : (g.lane i).live = true
    · rw [Group.lane_saveTrap r h hl, if_pos hl]
    · have hm := g.lane_mapIdx (fun i l => if l.live then { l with trappc := if r.active.getLsbD i then r.restart else l.pc, st := .live } else l) i
      rw [if_pos h, if_neg hl] at hm
      rw [if_neg hl]
      exact hm
  · have hb : g.lane i = Lane.blank := by simp [Group.lane, h]
    rw [hb]
    simp [Group.lane, Group.saveTrap, h, Lane.blank, Lane.live]

theorem Group.live_saveTrap (g : Group) (r : TrapRec) (i : Nat) : ((g.saveTrap r).lane i).live = (g.lane i).live := by
  rw [Group.lane_saveTrap_eq]
  cases h : (g.lane i).live
  · simpa using h
  · rfl

/-- A lane that is not live is as it was when a handler is entered. -/
theorem Group.lane_enterHandler_dead {g : Group} {i : Nat} (e : DWord) (h : (g.lane i).live = false) : (g.enterHandler e).lane i = g.lane i := by
  have hm := Group.lane_modLanes { g with hnd := true, enmask := g.liveMask } g.liveMask (fun l => { l with pc := e }) i
  rw [if_neg] at hm
  · exact hm
  · rw [g.getLsbD_liveMask i]
    simp [h]

/-- Settles O36: the trap saves its state and the live lanes run at the entry. -/
theorem trapEntersHandler : Obligations.TrapEntersHandler := by
  intro s gid g r hg hh hrec hc hv
  refine ⟨_, State.takeTrap_handler hg hh hrec (entryOf_eq hc hv), rfl, fun i hi => ?_, ?_, fun i hl => ?_, fun i hw h64 hl => ?_⟩
  · rw [show ((g.saveTrap r).enterHandler _).enmask = (g.saveTrap r).liveMask from rfl, Group.getLsbD_liveMask, Group.live_saveTrap]
    exact and_iff_right hi
  · simp [Group.enterHandler, Group.saveTrap]
  · rw [Group.lane_enterHandler_dead _ ((g.live_saveTrap r i).trans hl), Group.lane_saveTrap_eq, if_neg (by simp [hl])]
  · have hi : i < g.lanes.length := by
      by_contra hge
      have hb : g.lane i = Lane.blank := by simp [Group.lane, not_lt.mp hge]
      rw [hb] at hl
      cases hl
    rw [Group.lane_saveTrap_enterHandler r _ hw h64 hi hl]

/-! ## Parks and kills (R360, R362, R393) -/

/-- A kill asked for a launch that goes on has its cause (R365). -/
theorem State.launch?_requestKill {s : State} {k : Nat} {l : Launch} (hl : s.launch? k = some l) (hc : l.cause = none) (h1 : l.st ≠ .complete) (h2 : l.st ≠ .killed) (c : Cause) :
    ((s.requestKill k c).launch? k).map (·.cause) = some (some c) := by
  rw [State.requestKill, State.modLaunch, hl]
  simp [hc, h1, h2]
theorem State.group?_requestKill (s : State) (l : Nat) (c : Cause) (k : Nat) : (s.requestKill l c).group? k = s.group? k := congrArg (lookup · k) (State.modLaunch_groups ..)

/-- A park stops the group and counts (R362). -/
theorem State.park_eq {s : State} {gid : Nat} {g : Group} (hg : s.group? gid = some g) : (s.park gid).group? gid = some { g with parked := some s.sched.parks, waits := [] }
    ∧ (∀ k, k ≠ gid → (s.park gid).group? k = s.group? k) ∧ (s.park gid).sched.parks = s.sched.parks + 1 := by
  rw [State.park, hg]
  exact ⟨State.group?_setGroup_same .., fun k hk => State.group?_setGroup_other _ _ _ _ hk, rfl⟩

/-- A group that a trap has stopped for good or parked: the trap's state, and the lanes' restart addresses. -/
theorem Group.stopped_saveTrap (g : Group) (r : TrapRec) (n : Nat) :
    let h : Group := { g.saveTrap r with parked := some n, waits := [] }
    h.parked = some n ∧ h.waits = [] ∧ h.hnd = g.hnd ∧ h.enmask = g.enmask ∧ h.code = r.cause.code ∧ h.trapmask = r.lanes ∧ h.trapaddr = r.addr ∧ h.trapinst = r.word
      ∧ h.saveden = g.enmask ∧ h.defer = r.defer ∧ h.lanes.length = g.lanes.length
      ∧ (∀ i, (h.lane i).pc = (g.lane i).pc ∧ (h.lane i).regs = (g.lane i).regs)
      ∧ (∀ i, (g.lane i).live = true → (h.lane i).trappc = if r.active.getLsbD i then r.restart else (g.lane i).pc) ∧ (∀ i, (g.lane i).live = false → h.lane i = g.lane i) := by
  intro h
  have hlane : ∀ i, h.lane i = _ := fun i => g.lane_saveTrap_eq r i
  refine ⟨rfl, rfl, rfl, rfl, rfl, rfl, rfl, rfl, rfl, rfl, List.length_mapIdx, fun i => ?_, fun i hi => ?_, fun i hi => ?_⟩
  · rw [hlane]
    split <;> exact ⟨rfl, rfl⟩
  · rw [hlane, if_pos hi]
  · rw [hlane, if_neg (by simp [hi])]

/-- Settles O37: the four ways of a trap. -/
theorem trapParksOrKills : Obligations.TrapParksOrKills := by
  intro s gid g r hg
  cases hh : g.hnd with
  | true =>
    have hkill : s.takeTrap gid r = _ := State.takeTrap_double hg hh
    have hmod := State.modGroup_eq hg fun g => { g with parked := some s.sched.parks, waits := [] }
    refine ⟨{ g with parked := some s.sched.parks, waits := [] }, ?_, fun k hk => ?_, fun _ => ⟨by rw [← hh], fun l hl hc h1 h2 => ?_⟩, fun h => (Bool.false_ne_true h.symm).elim⟩
    · rw [hkill]
      refine (State.group?_requestKill ..).trans ?_
      rw [hmod]
      exact State.group?_setGroup_same ..
    · rw [hkill]
      refine (State.group?_requestKill ..).trans ?_
      rw [hmod]
      exact State.group?_setGroup_other _ _ _ _ hk
    · rw [hkill]
      refine (congrArg (Option.map Launch.cause) ?_).trans (State.launch?_requestKill (s := s.modGroup gid fun g => { g with parked := some s.sched.parks, waits := [] }) (k := s.launchIdOf g) (by rw [hmod]; exact hl) hc h1 h2 .doubleTrap)
      rw [State.doubleTrap, hg]
      rfl
  | false =>
    cases hr : s.isRecompute g with
    | true =>
      have hkill : s.takeTrap gid r = _ := State.takeTrap_recompute hg hh hr
      obtain ⟨h1, h2, h3, h4, h5, h6, h7, h8, h9, h10, h11, h12, h13, h14⟩ := g.stopped_saveTrap r s.sched.parks
      refine ⟨_, ?_, fun k hk => ?_, fun h => (Bool.false_ne_true h).elim, fun _ _ => ⟨h1, h2, h3.trans hh, h4, h5, h6, h7, h8, h9, h10, h11, h12, h13, h14, fun l _ hl hc hx hy => ?_, fun h => (Bool.false_ne_true h.symm).elim⟩⟩
      · rw [hkill]
        exact (State.group?_requestKill ..).trans (State.group?_setGroup_same ..)
      · rw [hkill]
        exact (State.group?_requestKill ..).trans (State.group?_setGroup_other _ _ _ _ hk)
      · rw [hkill]
        exact State.launch?_requestKill (s := s.setGroup gid _) hl hc hx hy _
    | false =>
      cases he : entryOf r.cause (s.trapvec (s.asidOf g)) with
      | none =>
        have hpark : s.takeTrap gid r = _ := State.takeTrap_park hg hh hr he
        obtain ⟨hgroup, hother, hcount⟩ := State.park_eq (State.group?_setGroup_same s gid (g.saveTrap r))
        obtain ⟨h1, h2, h3, h4, h5, h6, h7, h8, h9, h10, h11, h12, h13, h14⟩ := g.stopped_saveTrap r s.sched.parks
        refine ⟨_, ?_, fun k hk => ?_, fun h => (Bool.false_ne_true h).elim, fun _ _ => ⟨h1, h2, h3.trans hh, h4, h5, h6, h7, h8, h9, h10, h11, h12, h13, h14, fun _ h => (Bool.false_ne_true h).elim, fun _ => ?_⟩⟩
        · rw [hpark]
          exact hgroup
        · rw [hpark]
          exact (hother k hk).trans (State.group?_setGroup_other _ _ _ _ hk)
        · rw [hpark]
          exact hcount
      | some e =>
        have henter : s.takeTrap gid r = _ := State.takeTrap_handler hg hh hr he
        refine ⟨_, by rw [henter]; exact State.group?_setGroup_same .., fun k hk => by rw [henter]; exact State.group?_setGroup_other _ _ _ _ hk, fun h => (Bool.false_ne_true h).elim, fun _ h => ?_⟩
        rcases h with h | h | h
        · cases h
        · rw [entryOf, h] at he
          cases he
        · rw [entryOf, h] at he
          split at he <;> simp at he

end Sys2Proof.Machine
end

section
/-! SUPPORT. The checks of R218 over the lanes of an access, and loads: the instructions that read and wait for their values by the scoreboard (R216 to R224, R285, R299). -/
namespace Sys2Proof.Machine

/-! ## The checks over all lanes -/

/-- The accesses of lanes, each with the EA and the outcome that its lane gives it. -/
def accsOf (is : List Nat) (ea : Nat → DWord) (out : Nat → Checked) : List LaneAcc := is.map fun i => { lane := i, ea := ea i, out := out i }

theorem State.laneAccs_eq (s : State) (c : Ctx) (p : Packet) (g : Group) (sh : Shape) (w : Bool) (a : Reg) (off : BitVec 9) (n : Nat) :
    s.laneAccs c p g sh w a off n = accsOf (g.list p.cur.lanes) (fun i => g.ea s.cycle i a off n) fun i => s.check c sh w (g.ea s.cycle i a off n) := rfl

section
variable {is : List Nat} {ea : Nat → DWord} {out : Nat → Checked}

theorem remoteLanes_accsOf_ok {pl : Nat → Place} (h : ∀ i ∈ is, out i = .ok (pl i)) : remoteLanes (accsOf is ea out) = [] := by
  simp +contextual [remoteLanes, accsOf, h]
theorem causesOf_accsOf_ok {pl : Nat → Place} (h : ∀ i ∈ is, out i = .ok (pl i)) : causesOf (accsOf is ea out) = [] := by
  simp +contextual [causesOf, accsOf, h]
theorem filterMap_eq_map_of {α β : Type} {l : List α} {f : α → Option β} {v : α → β} (h : ∀ x ∈ l, f x = some (v x)) : l.filterMap f = l.map v :=
  (List.filterMap_congr h).trans (congrFun List.filterMap_eq_map' l)
theorem placesOf_accsOf_ok {pl : Nat → Place} (h : ∀ i ∈ is, out i = .ok (pl i)) : placesOf (accsOf is ea out) = is.map fun i => (i, pl i) := by
  rw [placesOf, accsOf, List.filterMap_map]
  exact filterMap_eq_map_of fun i hi => by simp [h i hi]
end

theorem Group.awaiting_none {g : Group} {sl : Slot} (h : g.waitOf sl.pc sl.place = none) : g.awaiting sl = none := by rw [Group.awaiting, h]; rfl
theorem Group.takeAnswers_nil {g : Group} {sl : Slot} (h : g.waitOf sl.pc sl.place = none) : g.takeAnswers sl [] = g := by
  rw [Group.takeAnswers, Group.leaveWait_of_waitOf_none h]
  simp

section
variable {s : State} {p : Packet} {g : Group} (hw : g.waitOf p.cur.pc p.cur.place = none) {as : List LaneAcc} (hrem : remoteLanes as = []) (blocks : List (Nat × DWord)) (ask : Nat → List (Nat × Nat) → FlitMsg)
include hw hrem

/-- With every lane on this device and no cause in any, the instruction goes on (R218). -/
theorem State.checkAll_go (hc : firstCause (causesOf as ++ blocks.map fun b => (b.1, .badBlock)) = none) : s.checkAll p g as blocks ask = .go s g as [] := by
  rw [State.checkAll, Group.awaiting_none hw, hrem]
  simp only [Option.getD_none, Group.answersFor, List.flatMap_nil, preciseFailures, List.map_nil, List.append_nil, hc, Group.takeAnswers_nil hw]

/-- With every lane on this device, the first cause in table order traps, at the EA of its lowest lane (R218). -/
theorem State.checkAll_stop (hg : s.group? p.gid = some g) {c : Cause} {m : LaneMask} (hc : firstCause (causesOf as ++ blocks.map fun b => (b.1, .badBlock)) = some (c, m)) (hb : c ≠ .badBlock) :
    s.checkAll p g as blocks ask = .stop (s.trapAt p.gid p.cur c m (causeAt as c m)) := by
  rw [State.checkAll, Group.awaiting_none hw, hrem]
  simp only [Option.getD_none, Group.answersFor, List.flatMap_nil, preciseFailures, List.map_nil, List.append_nil, hc, Group.takeAnswers_nil hw, State.setGroup_self hg, beq_eq_false_iff_ne.mpr hb, Bool.false_eq_true, if_false]
end

/-! ## Loads -/

theorem State.badBlocks_of_words {s : State} {c : Ctx} {raw : Bool} {f : LoadForm} {ps : List (Nat × Place)} {ws : Nat → List Word} (h : ∀ x ∈ ps, s.readLane c raw f x.2 = .words (ws x.1)) :
    s.badBlocks c raw f ps = [] := by
  simp +contextual [State.badBlocks, h]

/-- Lanes that meet no tile which is not VALID and read words are done in turn with their words, and nothing changes (R224). -/
theorem State.loadPass_words {s : State} {c : Ctx} {raw : Bool} {f : LoadForm} {ps : List (Nat × Place)} {ws : Nat → List Word}
    (h : ∀ x ∈ ps, s.mustWait c x.2.tile = false ∧ s.readLane c raw f x.2 = .words (ws x.1)) :
    s.loadPass c raw f false ps = ({ rows := ps.map fun x => rowAt x.1 x.2 [] true, vals := ps.map fun x => (x.1, ws x.1), failed := [] }, s) := by
  induction ps with
  | nil => rfl
  | cons x ps ih =>
    obtain ⟨hw, hr⟩ := h x List.mem_cons_self
    have hbad : (LoadOut.words (ws x.1) == .badLine) = false := rfl
    simp [State.loadPass, hr, hbad, hw, ih fun y hy => h y (List.mem_cons_of_mem _ hy)]

theorem deferredOf_nil (access : Nat) (word : Word) (regs : List Reg) : deferredOf access word regs [] = [] := rfl
theorem State.deferAll_nil (s : State) (gid : Nat) : s.deferAll gid [] = s := rfl

theorem mem_wordWrites {d : Reg} {vs : List (Nat × List Word)} {i k : Nat} {ws : List Word} {w : Word} (h : (i, ws) ∈ vs) (hk : ws[k]? = some w) : (i, d.plus k, w) ∈ wordWrites d vs :=
  List.mem_flatMap.mpr ⟨_, h, List.mem_map.mpr ⟨(w, k), List.mem_zipIdx_iff_getElem?.mpr hk, rfl⟩⟩

theorem le_foldl_max {α : Type} (f : α → Nat) (l : List α) (n : Nat) : n ≤ l.foldl (fun m x => max m (f x)) n := by
  induction l generalizing n with
  | nil => exact Nat.le_refl _
  | cons x l ih => exact (Nat.le_max_left ..).trans (ih _)

/-- The group of an instruction that goes on and leaves a scoreboard entry. -/
def Group.withEntry (g : Group) (m : LaneMask) (pc : DWord) (e : SbEntry) : Group := { g.moveTo m pc with sb := g.sb ++ [e] }

theorem Group.moved_withEntry (g : Group) (m : LaneMask) (pc : DWord) (e : SbEntry) : Moved g (g.withEntry m pc e) m pc := by
  obtain ⟨hcount, hacting, hothers⟩ := g.moved_moveTo m pc
  exact ⟨hcount, hacting, hothers⟩
theorem Group.withEntry_eq (g : Group) (m : LaneMask) (pc : DWord) (e : SbEntry) : g.withEntry m pc e = { g with lanes := (g.withEntry m pc e).lanes, sb := g.sb ++ [e] } := rfl

theorem put_put {α : Type} (l : List (Nat × α)) (k : Nat) (x y : α) : put (put l k x) k y = put l k y := by
  induction l with
  | nil => exact if_pos rfl
  | cons e r ih =>
    obtain ⟨j, z⟩ := e
    by_cases h : j = k
    · simp [put, h]
    · simp [put, h, ih]

theorem State.setGroup_setGroup (s : State) (k : Nat) (g h : Group) : (s.setGroup k g).setGroup k h = s.setGroup k h :=
  congrArg (fun gs => ({ s with groups := gs } : State)) (put_put ..)

/-- An instruction that moves its lanes on and enters an entry changes its group and the numbering alone. -/
theorem State.addEntry_finish (s : State) (p : Packet) (g : Group) (e : SbEntry) :
    (s.finish p g).fresh.2.addEntry p.gid e = s.fresh.2.setGroup p.gid (g.withEntry p.cur.lanes (succPc p.cur.pc) e) := by
  have hg : (s.finish p g).fresh.2.group? p.gid = some (g.moveTo p.cur.lanes (succPc p.cur.pc)) := State.group?_setGroup_same ..
  rw [State.addEntry, State.modGroup_eq hg]
  exact s.fresh.2.setGroup_setGroup ..
theorem groupOnly_setGroup_fresh (s : State) (p : Packet) (h : Group) : GroupOnly s (s.fresh.2.setGroup p.gid h) p h :=
  ⟨State.group?_setGroup_same .., fun _ hk => State.group?_setGroup_other _ _ _ _ hk, rfl⟩

/-- What a load of good lanes leaves: one entry with the lanes' words. -/
theorem State.load_done {s : State} {p : Packet} {g : Group} {i : Instr} {e : SbEntry} (he : exec i s = .next ((s.finish p g).fresh.2.addEntry p.gid e)) :
    ∃ t h, exec i s = .next t ∧ GroupOnly s t p h ∧ Moved g h p.cur.lanes (succPc p.cur.pc) ∧ h = { g with lanes := h.lanes, sb := g.sb ++ [e] } :=
  ⟨_, _, he.trans (congrArg _ (s.addEntry_finish p g e)), groupOnly_setGroup_fresh .., g.moved_withEntry .., g.withEntry_eq ..⟩

section
variable {s : State} {p : Packet} {g : Group} (hs : s.issuing = some (p, g)) (hw : g.waitOf p.cur.pc p.cur.place = none) (hh : g.holds = false)

/-- The entry of a load whose lanes all read words. -/
def loadEntry (s : State) (p : Packet) (g : Group) (op : HeldOp) (regs : List Reg) (d : Reg) (due : Nat) (pl : Nat → Place) (ws : Nat → List Word) : SbEntry :=
  { id := s.sched.nextId, pc := p.cur.pc, lanes := p.cur.lanes, regs := regs, vals := wordWrites d ((g.list p.cur.lanes).map fun i => (i, ws i)), due := due, kind := .ready, op := op,
    rows := (g.list p.cur.lanes).map fun i => rowAt i (pl i) [] true, epoch := s.dev.qepoch }

include hs hw hh
theorem exec_ld {raw : Bool} {d a : Reg} {f : LoadForm} {off : BitVec 9} {pl : Nat → Place} {ws : Nat → List Word}
    (hok : ∀ i, p.cur.lanes.getLsbD i = true → i < g.width → s.check (s.ctxOf p.gid g) (if raw then .raw (loadSize f) else .load f) false (g.ea s.cycle i a off (loadSize f)) = .ok (pl i)
      ∧ s.mustWait (s.ctxOf p.gid g) (pl i).tile = false ∧ s.readLane (s.ctxOf p.gid g) raw f (pl i) = .words (ws i)) :
    ∃ due, s.cycle < due ∧ exec (if raw then .ldRaw d a f off else .ld d a f off) s
      = .next ((s.finish p g).fresh.2.addEntry p.gid (loadEntry s p g (if raw then .raw f else .load f) ((List.range f.count).map d.plus) d due pl ws)) := by
  have hex : exec (if raw then .ldRaw d a f off else .ld d a f off) s = loadInstr s raw d a f off := by cases raw <;> rfl
  have hok' : ∀ i ∈ g.list p.cur.lanes, _ := fun i hi => hok i ((g.mem_list _ i).mp hi).1 ((g.mem_list _ i).mp hi).2
  have hread : ∀ x ∈ (g.list p.cur.lanes).map fun i => (i, pl i), s.mustWait (s.ctxOf p.gid g) x.2.tile = false ∧ s.readLane (s.ctxOf p.gid g) raw f x.2 = .words (ws x.1) := fun x hx => by
    obtain ⟨i, hi, rfl⟩ := List.mem_map.mp hx
    exact (hok' i hi).2
  refine ⟨_, Nat.lt_add_of_pos_right (le_foldl_max (fun x => s.accessLatency g x.2.loc) ((g.list p.cur.lanes).map fun i => (i, pl i)) 1), hex.trans ((State.issue_eq hs _).trans (congrArg _ ?_))⟩
  have hplaces := placesOf_accsOf_ok (ea := fun i => g.ea s.cycle i a off (loadSize f)) fun i hi => (hok' i hi).1
  dsimp only
  rw [State.laneAccs_eq, State.checkAll_go hw (remoteLanes_accsOf_ok fun i hi => (hok' i hi).1)
    (hc := by rw [causesOf_accsOf_ok fun i hi => (hok' i hi).1, hplaces, State.badBlocks_of_words fun x hx => (hread x hx).2]; rfl)]
  dsimp only
  rw [hplaces, hh, State.loadPass_words hread]
  simp [deferredFailures, deferredOf_nil, State.deferAll_nil, valuesOf, rowAt, loadEntry, State.fresh, State.finish, regsOf]
  rfl
theorem exec_mmAmax {d a : Reg} {pl : Nat → Place} {w : Nat → Word}
    (hok : ∀ i, p.cur.lanes.getLsbD i = true → i < g.width → s.amaxCheck (s.ctxOf p.gid g) (g.readPair s.cycle i a) = .ok (pl i)
      ∧ s.mustWait (s.ctxOf p.gid g) (pl i).tile = false ∧ s.readLane (s.ctxOf p.gid g) true .w32 (pl i) = .words [w i]) :
    exec (.mmAmax d a) s = .next ((s.finish p g).fresh.2.addEntry p.gid (loadEntry s p g .amax [d] d (s.cycle + 160) pl fun i => [w i])) := by
  have hok' : ∀ i ∈ g.list p.cur.lanes, _ := fun i hi => hok i ((g.mem_list _ i).mp hi).1 ((g.mem_list _ i).mp hi).2
  have hread : ∀ x ∈ (g.list p.cur.lanes).map fun i => (i, pl i), s.mustWait (s.ctxOf p.gid g) x.2.tile = false ∧ s.readLane (s.ctxOf p.gid g) true .w32 x.2 = .words [w x.1] := fun x hx => by
    obtain ⟨i, hi, rfl⟩ := List.mem_map.mp hx
    exact (hok' i hi).2
  refine (State.issue_eq hs _).trans (congrArg _ ?_)
  dsimp only
  rw [← accsOf, State.checkAll_go hw (remoteLanes_accsOf_ok fun i hi => (hok' i hi).1) (hc := by rw [causesOf_accsOf_ok fun i hi => (hok' i hi).1]; rfl)]
  dsimp only
  rw [placesOf_accsOf_ok fun i hi => (hok' i hi).1, hh, State.loadPass_words (ws := fun i => [w i]) hread]
  simp [deferredFailures, deferredOf_nil, State.deferAll_nil, valuesOf, rowAt, loadEntry, State.fresh, State.finish]
  rfl
end

theorem mem_loadEntry_vals {s : State} {p : Packet} {g : Group} {op : HeldOp} {regs : List Reg} {d : Reg} {due : Nat} {pl : Nat → Place} {ws : Nat → List Word} {i k : Nat} {w : Word}
    (hi : p.cur.lanes.getLsbD i = true) (hj : i < g.width) (hk : (ws i)[k]? = some w) : (i, d.plus k, w) ∈ (loadEntry s p g op regs d due pl ws).vals :=
  mem_wordWrites (List.mem_map.mpr ⟨i, (g.mem_list _ i).mpr ⟨hi, hj⟩, rfl⟩) hk

/-- Settles O38: good lanes are done in turn with their words, and the entry that holds them is the only change beside the lanes' step. -/
theorem loadResults : Obligations.LoadResults := by
  unfold Obligations.LoadResults
  dsimp only
  refine ⟨fun s p g hs hw hh raw d a f off pl ws hok => ⟨?_, fun q hq hraw => ?_⟩, fun s p g hs a off => ?_⟩
  · obtain ⟨due, hdue, he⟩ := exec_ld hs hw hh (raw := raw) (d := d) (a := a) (f := f) (off := off) hok
    obtain ⟨t, h, ht, hgo, hm, hh'⟩ := State.load_done he
    exact ⟨t, h, _, ht, hgo, hm, hh', rfl, rfl, rfl, hdue, fun i hi hj k w hk => mem_loadEntry_vals hi hj hk⟩
  · cases raw with
    | true => simp [State.readLane, State.rawAt, hq]
    | false =>
      obtain ⟨t, o, hl⟩ := hraw.resolve_left Bool.false_ne_true
      rw [hl] at hq
      simp [State.readLane, State.loadAt, hl, hq]
  · have hnone : s.finish p g = s.deliver p g (.fixed 2) (laneWrites (g.results p.cur.lanes fun _ => { writes := [] })) := by
      rw [Group.laneWrites_results_const, show g.toAll p.cur.lanes [] = [] by simp [Group.toAll]]
      rfl
    have hc : ∀ i : Instr, exec i s = s.issue (fun p g => s.finish p g) → Completes s p g i (.fixed 2) fun _ => { writes := [] } := fun i hi =>
      deliver_completes hs (hi.trans ((State.issue_eq hs _).trans (congrArg _ hnone))) (fun _ _ => List.nodup_nil) fun _ => rfl
    exact ⟨hc _ rfl, hc _ rfl⟩

/-- The entry of a bs.stat whose items pass their checks. -/
def statEntry (s : State) (p : Packet) (g : Group) (d : Reg) (pl : Nat → Place) : SbEntry :=
  { id := s.sched.nextId, pc := p.cur.pc, lanes := p.cur.lanes, regs := [d], vals := [], due := s.cycle + 16, kind := .stat, op := .stat,
    rows := (g.list p.cur.lanes).map fun i => rowAt i (pl i) [] false, epoch := s.dev.qepoch }

/-- Settles O51: mm.amax is a load of one word, and bs.stat with good items enters an entry. -/
theorem engineReads : Obligations.EngineReads := by
  intro s p g hs hw d a pl w
  refine ⟨fun hh hok => ?_, fun hok => ?_⟩
  · obtain ⟨t, h, ht, hgo, hm, hh'⟩ := State.load_done (exec_mmAmax hs hw hh (d := d) hok)
    refine ⟨t, h, _, ht, hgo, hm, hh', rfl, Nat.lt_add_of_pos_right (by decide), fun i hi hj => ?_⟩
    have hmem := mem_loadEntry_vals (s := s) (op := .amax) (regs := [d]) (d := d) (due := s.cycle + 160) (pl := pl) (ws := fun i => [w i]) hi hj (k := 0) rfl
    rwa [Reg.plus_zero] at hmem
  · have hnone : ∀ i ∈ g.list p.cur.lanes, s.itemCheck (s.ctxOf p.gid g) (g.readPair s.cycle i a) = .ok (pl i) := fun i hi => hok i ((g.mem_list _ i).mp hi).1 ((g.mem_list _ i).mp hi).2
    have he : exec (.bsStat d a) s = .next ((s.finish p g).fresh.2.addEntry p.gid (statEntry s p g d pl)) := by
      refine (State.issue_eq hs _).trans (congrArg _ ?_)
      dsimp only
      rw [List.filterMap_map, List.filterMap_eq_nil_iff.mpr fun i hi => by simp [hnone i hi], List.filterMap_map, filterMap_eq_map_of (v := fun i => rowAt i (pl i) [] false) fun i hi => by simp [hnone i hi]]
      rfl
    obtain ⟨t, h, ht, hgo, hm, hh'⟩ := State.load_done he
    exact ⟨t, h, _, ht, hgo, hm, hh', rfl, rfl, rfl⟩

/-! ## The checks of one access (R216 to R218) -/

theorem toNat_scratchEa {x : Nat} (h : x < 2 ^ 32) : (BitVec.ofNat 64 (15 * 2 ^ 60 + x)).toNat = 15 * 2 ^ 60 + x := by
  rw [BitVec.toNat_ofNat, Nat.mod_eq_of_lt (by omega)]
theorem toNat_localEa {x : Nat} (h : x < 2 ^ 46) : (BitVec.ofNat 64 (2 ^ 60 + x)).toNat = 2 ^ 60 + x := by
  rw [BitVec.toNat_ofNat, Nat.mod_eq_of_lt (by omega)]

theorem State.target_scratch (s : State) {x : Nat} (h : x < 2 ^ 32) : s.target (BitVec.ofNat 64 (15 * 2 ^ 60 + x)) = some (.scratch x) := by
  have hcode : (15 * 2 ^ 60 + x) / 2 ^ 60 = 15 := by omega
  have hzero : (15 * 2 ^ 60 + x) / 2 ^ 32 % 2 ^ 28 = 0 := by omega
  have hx : (15 * 2 ^ 60 + x) % 2 ^ 32 = x := by omega
  simp only [State.target, toNat_scratchEa h, hcode, hzero, hx, if_true]
  rfl
theorem State.target_local (s : State) {x : Nat} (h : x < 2 ^ 46) : s.target (BitVec.ofNat 64 (2 ^ 60 + x)) = some (.here x) := by
  have hcode : (2 ^ 60 + x) / 2 ^ 60 = 1 := by omega
  have hdev : (2 ^ 60 + x) / 2 ^ 46 % 2 ^ 14 = 0 := by omega
  have hx : (2 ^ 60 + x) % 2 ^ 46 = x := by omega
  simp only [State.target, toNat_localEa h, hcode, hdev, hx, if_true]
  rfl
theorem State.target_none (s : State) {x : DWord}
    (h : x.toNat / 2 ^ 60 ∉ [0, 1, 15] ∨ (x.toNat / 2 ^ 60 = 1 ∧ x.toNat / 2 ^ 46 % 2 ^ 14 ≠ 0) ∨ (x.toNat / 2 ^ 60 = 15 ∧ x.toNat / 2 ^ 32 % 2 ^ 28 ≠ 0)) : s.target x = none := by
  rcases h with h | ⟨h, hd⟩ | ⟨h, hz⟩
  · simp only [List.mem_cons, List.not_mem_nil, or_false, not_or] at h
    obtain ⟨h0, h1, h15⟩ := h
    simp only [State.target, h0, h1, h15, if_false]
  · simp only [State.target, h, hd, if_false]
    rfl
  · simp only [State.target, h, hz, if_false]
    rfl

theorem State.check_of_target_none {s : State} {x : DWord} (h : s.target x = none) (c : Ctx) (sh : Shape) (w : Bool) : s.check c sh w x = .bad .addrRange := by rw [State.check, h]

/-- A cause that the checks of one access find has a row in the table of R218. -/
theorem State.rowOf_checkLocal {s : State} {c : Ctx} {n : Nat} {decodes w : Bool} {ea : DWord} {la : Nat} {cause : Cause} (h : s.checkLocal c n decodes w ea la = .bad cause) : rowOf cause < 9 := by
  unfold State.checkLocal at h
  split at h
  · cases h
    decide
  · dsimp only at h
    split at h
    · cases h
      decide
    split at h
    · cases h
      decide
    split at h
    · cases h
      decide
    split at h
    · cases h
    · split at h <;> cases h
      decide

theorem Checked.row_of_ite {b : Prop} [Decidable b] {x cause : Cause} {y : Checked} (hx : rowOf x < 9) (hy : y = .bad cause → rowOf cause < 9) (h : (if b then Checked.bad x else y) = .bad cause) : rowOf cause < 9 := by
  split at h
  · cases h
    exact hx
  · exact hy h
theorem State.rowOf_check {s : State} {c : Ctx} {sh : Shape} {w : Bool} {ea : DWord} {cause : Cause} (h : s.check c sh w ea = .bad cause) : rowOf cause < 9 := by
  have hbad : ∀ x, rowOf x < 9 → Checked.bad x = .bad cause → rowOf cause < 9 := fun x hx hc => by cases hc; exact hx
  have hremote : ∀ d la, Checked.remote d la = .bad cause → rowOf cause < 9 := fun d la hc => by cases hc
  unfold State.check at h
  split at h
  · exact hbad _ (by decide) h
  · split at h
    · exact hbad _ (by decide) h
    · refine Checked.row_of_ite (by decide) (fun h => ?_) h
      split at h
      · exact hbad _ (by decide) h
      · exact Checked.row_of_ite (by decide) (fun h => by cases h) h
  · split at h
    · split at h <;> exact Checked.row_of_ite (by decide) (hbad _ (by decide)) h
    · split at h
      · exact Checked.row_of_ite (by decide) (hbad _ (by decide)) h
      · exact Checked.row_of_ite (by decide) State.rowOf_checkLocal h
  · split at h <;> exact Checked.row_of_ite (by decide) (hremote _ _) h

/-! ## The trap of an access (R218) -/

theorem foldl_rank_eq {cause : Cause} {l : List (Nat × Cause)} (h : ∀ x ∈ l, rowOf cause ≤ rowOf x.2) : l.foldl (fun b y => if rowOf y.2 < rowOf b then y.2 else b) cause = cause := by
  induction l with
  | nil => rfl
  | cons x l ih =>
    rw [List.foldl_cons, if_neg (Nat.not_lt.mpr (h x List.mem_cons_self))]
    exact ih fun y hy => h y (List.mem_cons_of_mem _ hy)

/-- Of one cause of the table of R218 in some lanes and BAD_BLOCK in others the first cause is the one of the table. -/
theorem firstCause_eq {cause : Cause} {is : List Nat} (hrow : rowOf cause < 9) (hne : is ≠ []) (bs : List (Nat × DWord)) :
    firstCause (is.map (fun i => (i, cause)) ++ bs.map fun b => (b.1, .badBlock)) = some (cause, maskOf is) := by
  have hb : (Cause.badBlock == cause) = false := by
    rw [beq_eq_false_iff_ne]
    rintro rfl
    exact absurd hrow (by decide)
  obtain ⟨i, r, rfl⟩ := List.exists_cons_of_ne_nil hne
  have hfold := foldl_rank_eq (cause := cause) (l := r.map (fun i => (i, cause)) ++ bs.map fun b => (b.1, .badBlock)) (by
    intro x hx
    rcases List.mem_append.mp hx with h | h <;> obtain ⟨y, -, rfl⟩ := List.mem_map.mp h
    · exact Nat.le_refl _
    · exact Nat.le_of_lt hrow)
  rw [List.map_cons, List.cons_append, firstCause, hfold]
  simp [List.filter_map, Function.comp_def, hb]

/-- The lanes of which one raises a cause. -/
def lanesWith (is : List Nat) (out : Nat → Checked) (cause : Cause) : List Nat := is.filter fun i => out i == .bad cause

section
variable {is : List Nat} {ea : Nat → DWord} {out : Nat → Checked} {cause : Cause}

theorem mem_lanesWith {i : Nat} : i ∈ lanesWith is out cause ↔ i ∈ is ∧ out i = .bad cause := by simp [lanesWith]

theorem remoteLanes_accsOf (h : ∀ i ∈ is, out i = .bad cause ∨ ∃ q, out i = .ok q) : remoteLanes (accsOf is ea out) = [] := by
  rw [remoteLanes, accsOf, List.filterMap_map]
  refine List.filterMap_eq_nil_iff.mpr fun i hi => ?_
  rcases h i hi with h | ⟨q, h⟩ <;> simp [h]
theorem causesOf_accsOf (h : ∀ i ∈ is, out i = .bad cause ∨ ∃ q, out i = .ok q) : causesOf (accsOf is ea out) = (lanesWith is out cause).map fun i => (i, cause) := by
  rw [causesOf, accsOf, List.filterMap_map]
  induction is with
  | nil => rfl
  | cons i is ih =>
    have hr := ih fun j hj => h j (List.mem_cons_of_mem _ hj)
    rcases h i List.mem_cons_self with h | ⟨q, h⟩
    · rw [List.filterMap_cons_some (by simp [h]; rfl), hr, lanesWith, lanesWith, List.filter_cons_of_pos (by simp [h]), List.map_cons]
    · rw [List.filterMap_cons_none (by simp [h]), hr, lanesWith, lanesWith, List.filter_cons_of_neg (by simp [h])]

/-- The EA at which the lowest lane of a set raises a cause. -/
theorem causeAt_accsOf {m : LaneMask} {low : Nat} (hlow : is.find? (fun i => m.getLsbD i) = some low) (hbad : out low = .bad cause) : causeAt (accsOf is ea out) cause m = ea low := by
  have hfind : (accsOf is ea out).find? (fun x => m.getLsbD x.lane) = some { lane := low, ea := ea low, out := out low } := by
    rw [accsOf, List.find?_map]
    exact congrArg (Option.map _) hlow
  rw [causeAt, hfind]
  have hsome : ((accsOf is ea out).find? fun y => y.lane == low && y.out == .bad cause).isSome = true :=
    List.find?_isSome.mpr ⟨_, List.mem_map.mpr ⟨low, List.mem_of_find?_eq_some hlow, rfl⟩, by simp [hbad]⟩
  obtain ⟨y, hy⟩ := Option.isSome_iff_exists.mp hsome
  obtain ⟨j, -, rfl⟩ := List.mem_map.mp (List.mem_of_find?_eq_some hy)
  have hj := List.find?_some hy
  simp only [Bool.and_eq_true, beq_iff_eq] at hj
  dsimp only
  rw [hy, hj.1]
  rfl
end

/-- The lowest lane of a set that is not empty. -/
theorem Group.exists_lowest {g : Group} {m n : LaneMask} {k : Nat} (hk : k ∈ g.list m) (hn : n.getLsbD k = true) :
    ∃ low, (g.list m).find? (fun i => n.getLsbD i) = some low ∧ low ∈ g.list m ∧ n.getLsbD low = true ∧ ∀ i ∈ g.list m, n.getLsbD i = true → low ≤ i := by
  obtain ⟨low, hlow⟩ := Option.isSome_iff_exists.mp (List.find?_isSome.mpr ⟨k, hk, hn⟩)
  have hsorted : (g.list m).Pairwise (· < ·) := List.pairwise_lt_range.filter _
  refine ⟨low, hlow, List.mem_of_find?_eq_some hlow, List.find?_some (p := fun i => n.getLsbD i) hlow, fun i hi hni => ?_⟩
  obtain ⟨-, as, bs, heq, hno⟩ := List.find?_eq_some_iff_append.mp hlow
  rw [heq, List.pairwise_append, List.pairwise_cons] at hsorted
  rw [heq, List.mem_append, List.mem_cons] at hi
  rcases hi with hi | rfl | hi
  · simp at hno
    exact absurd hni (by simp [hno i hi])
  · exact Nat.le_refl _
  · exact (hsorted.2.1.1 i hi).le

/-- A load with a lane whose check fails traps that cause at its lowest lane (R218). -/
theorem exec_ld_traps {s : State} {p : Packet} {g : Group} (hs : s.issuing = some (p, g)) (hw : g.waitOf p.cur.pc p.cur.place = none) {raw : Bool} {d a : Reg} {f : LoadForm} {off : BitVec 9}
    {cause : Cause} {out : Nat → Checked} (ho : out = fun i => s.check (s.ctxOf p.gid g) (if raw then .raw (loadSize f) else .load f) false (g.ea s.cycle i a off (loadSize f)))
    {low : Nat} (hlow : (g.list p.cur.lanes).find? (fun i => (maskOf (lanesWith (g.list p.cur.lanes) out cause)).getLsbD i) = some low) (hbad : out low = .bad cause) (hmem : low ∈ g.list p.cur.lanes)
    (hall : ∀ i ∈ g.list p.cur.lanes, out i = .bad cause ∨ ∃ q, out i = .ok q) :
    exec (if raw then .ldRaw d a f off else .ld d a f off) s = .next (s.trapAt p.gid p.cur cause (maskOf (lanesWith (g.list p.cur.lanes) out cause)) (g.ea s.cycle low a off (loadSize f))) := by
  have hex : exec (if raw then .ldRaw d a f off else .ld d a f off) s = loadInstr s raw d a f off := by cases raw <;> rfl
  have hrow : rowOf cause < 9 := State.rowOf_check (by rw [ho] at hbad; exact hbad)
  have hne : lanesWith (g.list p.cur.lanes) out cause ≠ [] := List.ne_nil_of_mem (mem_lanesWith.mpr ⟨hmem, hbad⟩)
  refine hex.trans ((State.issue_eq hs _).trans (congrArg _ ?_))
  dsimp only
  rw [State.laneAccs_eq, ← ho, State.checkAll_stop hw (remoteLanes_accsOf hall) _ _ ((State.issuing_iff s p g).mp hs).2 (by rw [causesOf_accsOf hall]; exact firstCause_eq hrow hne _)
    (by rintro rfl; exact absurd hrow (by decide)), causeAt_accsOf hlow hbad]

/-- Settles O42: each check by the branch of R216 to R218 that decides it, and the trap by the first cause of the table. -/
theorem accessTraps : Obligations.AccessTraps := by
  intro s p g hs hw d a f off
  dsimp only
  refine ⟨fun sh w x h => State.check_of_target_none (s.target_none h) _ _ _, fun n w x hx h => ?_, fun n w x hx h hn => ?_, fun n x t o hx h ht hc => ?_, fun n w x hx h hn => ?_,
    fun n x q hx h hq hf hh hc => ?_, fun raw cause k hk hk64 hbad hall => ?_⟩
  · rw [State.check, s.target_scratch hx]
    simp [Shape.bytes, h]
  · have hn' : s.windowOf (s.ctxOf p.gid g).team x n = none := hn
    rw [State.check, s.target_scratch hx]
    simp [Shape.bytes, h, hn']
  · have ht' : s.windowOf (s.ctxOf p.gid g).team x n = some (t, o) := ht
    rw [State.check, s.target_scratch hx]
    simp [Shape.bytes, h, ht', hc]
  · rw [State.check, s.target_local hx]
    simp [h, hn]
  · have hhnd : (s.ctxOf p.gid g).hnd = false := hh
    have hpassed : (s.ctxOf p.gid g).passed = false := rfl
    rw [State.check, s.target_local hx]
    simp [Shape.bytes, h, hq, State.checkLocal, hf, hhnd, hpassed, hc, Shape.decodes]
  · have hbits : ∀ i, _ ↔ _ := fun i => getLsbD_maskOf (lanesWith (g.list p.cur.lanes) (fun i => s.check (s.ctxOf p.gid g) (if raw then .raw (loadSize f) else .load f) false (g.ea s.cycle i a off (loadSize f))) cause) i
    simp only [mem_lanesWith, g.mem_list] at hbits
    obtain ⟨low, hlow, hmem, hlowbit, hleast⟩ := Group.exists_lowest ((g.mem_list _ _).mpr hk) ((hbits k).mpr ⟨hk64, hk, hbad⟩)
    obtain ⟨hlow64, hact, hlowbad⟩ := (hbits low).mp hlowbit
    refine ⟨_, low, exec_ld_traps hs hw rfl hlow hlowbad hmem (fun i hi => hall i ((g.mem_list _ _).mp hi)), hact, hlowbad, fun i hi => ?_, fun i hi hib => ?_⟩
    · exact (hbits i).trans ⟨fun h => h.2, fun h => ⟨hi, h⟩⟩
    · rcases Nat.lt_or_ge i 64 with h64 | h64
      · exact hleast i ((g.mem_list _ _).mpr hi) ((hbits i).mpr ⟨h64, hi, hib⟩)
      · exact (hlow64.trans_le h64).le
end Sys2Proof.Machine
end

section
/-! SUPPORT. What a write of bytes leaves of the bytes, checks and reservations outside it, and what it leaves in it (R330, R400, R403, R435). -/
namespace Sys2Proof.Machine

/-! ## Bytes one by one -/

theorem cellsRead_eq (l : List Host.Cell) (a n : Nat) : cellsRead l a n = (List.range n).map fun k => cellGet l (a + k) := by
  induction n generalizing a with
  | zero => rfl
  | succ n ih =>
    rw [cellsRead, ih, List.range_succ_eq_map, List.map_cons, List.map_map]
    refine congrArg (_ :: ·) (List.map_congr_left fun k _ => ?_)
    rw [Function.comp, show a + 1 + k = a + (k + 1) by omega]

/-- The byte at a place. -/
def State.byteAt (s : State) (core : Option Nat) (priv : Bool) (l : Loc) : Byte :=
  match l with
  | .win t o => ((s.team? t).map fun tm => cellGet tm.window o).getD 0
  | .phys a => ((s.keeper core priv).bind fun c => cellFind (s.dirty c) a).getD (cellGet s.mem.hbm a)

theorem State.bytesAt_eq (s : State) (core : Option Nat) (priv : Bool) (l : Loc) (n : Nat) : s.bytesAt core priv l n = (List.range n).map fun k => s.byteAt core priv (l.plus k) := by
  unfold State.bytesAt
  split
  · split
    · next h => simp [cellsRead_eq, State.byteAt, Loc.plus, h]
    · next h => simp [State.byteAt, Loc.plus, h, List.map_const']
  · dsimp only
    split
    · next h => exact List.ext_getElem (by simp [cellsRead_eq]) fun i h1 h2 => by simp [cellsRead_eq, State.byteAt, Loc.plus, h]
    · next h => simp [cellsRead_eq, State.byteAt, Loc.plus, h]
theorem State.bytesAt_one (s : State) (core : Option Nat) (priv : Bool) (l : Loc) : s.bytesAt core priv l 1 = [s.byteAt core priv l] := by
  rw [State.bytesAt_eq]
  cases l <;> rfl

/-- Which core keeps PRIVATE bytes is not a matter of bytes. -/
theorem BytesOnly.keeper {s t : State} (h : BytesOnly s t) (core : Option Nat) (priv : Bool) : t.keeper core priv = s.keeper core priv := by
  have hw : ∀ c, t.windowsIn c = s.windowsIn c := fun c => by
    have hframe : ∀ u : State, u.windowsIn c = (u.teams.map fun x => (x.1, x.2.frame)).filterMap fun x =>
        let n := ((lookup u.launches (((lookup u.gangs x.2.gang).map (·.launch)).getD 0)).map (·.kern.scratch)).getD 0
        if !x.2.ended && x.2.cores.head? == some c && n != 0 then some (x.2.base, n) else none := fun u => by
      rw [List.filterMap_map]
      rfl
    obtain ⟨_, _, _, _, _, _, _, rfl, ht, _⟩ := h
    rw [hframe, hframe s]
    exact congrArg _ ht
  have hsplit : t.split = s.split := funext fun c => by rw [State.split, State.split, hw]
  rw [State.keeper, State.keeper, hsplit]

/-! ## Writes that leave the rest -/

/-- The second state is the first with bytes of some ranges written: nothing but bytes, checks and reservations changed, and none of these outside the ranges; the memory keeps its canonical form. -/
structure Stores (s t : State) (stored : Loc → Nat → Prop) : Prop where
  only : BytesOnly s t
  wf : t.cellsOk = true
  reserved : ∀ k p q, lookup s.porters k = some p → lookup t.porters k = some q →
    q.resv = p.resv ∨ q.resv = none ∧ ∃ w o n d j l, p.resv = some (some w, o, n) ∧ j < 4 ∧ d < l ∧ ∃ x, stored x l ∧ x.plus d = .win w (o + j)
  lines : ∀ core y, (∀ x n, stored x n → ¬ x.meetsLine n y) → t.lineFails core y 1 = s.lineFails core y 1
  bytes : ∀ core priv y, (∀ x n, stored x n → ¬ x.holds n y) → t.byteAt core priv y = s.byteAt core priv y

theorem BytesOnly.porter? {s t : State} (h : BytesOnly s t) (k : Nat) : (lookup t.porters k).map Porter.frame = (lookup s.porters k).map Porter.frame := by
  obtain ⟨_, _, _, _, _, _, _, rfl, _, hp⟩ := h
  exact (BytesOnly.lookup_frame Porter.frame _ k).symm.trans ((congrArg (lookup · k) hp).trans (BytesOnly.lookup_frame Porter.frame _ k))

theorem Option.eq_map_of_map_eq {α β : Type} {f : α → β} {x y : Option α} {v : α → α} (h : x.map f = y.map f) (hv : ∀ a b, x = some a → y = some b → f a = f b → a = v b) : x = y.map v := by
  cases x with
  | none => cases y with
    | none => rfl
    | some b => cases h
  | some a => cases y with
    | none => cases h
    | some b => exact congrArg some (hv a b rfl rfl (Option.some.inj h))

namespace Stores
variable {s t u : State} {P Q : Loc → Nat → Prop}

theorem storesOnly (h : Stores s t P) : StoresOnly s t P where
  teams k := Option.eq_map_of_map_eq (h.only.team? k) fun a b ha _ hf => by
    rw [ha]
    cases a
    cases b
    simpa [Team.frame] using hf
  porters k := Option.eq_map_of_map_eq (h.only.porter? k) fun a b ha _ hf => by
    rw [ha]
    cases a
    cases b
    simpa [Porter.frame] using hf
  reserved := h.reserved
  lines := h.lines
  bytes core priv y hy := by rw [State.bytesAt_one, State.bytesAt_one, h.bytes core priv y hy]

theorem refl (h : s.cellsOk = true) : Stores s s P := ⟨.refl s, h, fun k p q hp hq => .inl (by rw [hp, Option.some.injEq] at hq; rw [hq]), fun _ _ _ => rfl, fun _ _ _ _ => rfl⟩

theorem mono (h : Stores s t P) (hpq : ∀ x n, P x n → Q x n) : Stores s t Q where
  only := h.only
  wf := h.wf
  reserved k p q hp hq := (h.reserved k p q hp hq).imp_right fun ⟨hn, w, o, n, d, j, l, hr, hj, hd, x, hx, hxd⟩ => ⟨hn, w, o, n, d, j, l, hr, hj, hd, x, hpq _ _ hx, hxd⟩
  lines core y hy := h.lines core y fun x n hx => hy x n (hpq _ _ hx)
  bytes core priv y hy := h.bytes core priv y fun x n hx => hy x n (hpq _ _ hx)

theorem trans (h : Stores s t P) (h' : Stores t u P) : Stores s u P where
  only := h.only.trans h'.only
  wf := h'.wf
  reserved k p q hp hq := by
    have hm := h.only.porter? k
    rw [hp] at hm
    obtain ⟨m, hm, -⟩ := Option.map_eq_some_iff.mp hm
    rcases h'.reserved k m q hm hq with he | ⟨hn, w, o, n, d, j, l, hr, hrest⟩
    · rw [he]
      exact h.reserved k p m hp hm
    · rcases h.reserved k p m hp hm with he | ⟨hn', -⟩
      · exact .inr ⟨hn, w, o, n, d, j, l, he ▸ hr, hrest⟩
      · rw [hn'] at hr
        cases hr
  lines core y hy := (h'.lines core y hy).trans (h.lines core y hy)
  bytes core priv y hy := (h'.bytes core priv y hy).trans (h.bytes core priv y hy)
end Stores

/-! ## Bytes of HBM4 and of L1 -/

theorem State.lineFails_phys (s : State) (core : Option Nat) (a : Nat) : s.lineFails core (.phys a) 1 = s.lineBad core (a / 64) := by
  simp [State.lineFails, linesOf]
theorem State.lineBad_congr {s t : State} {k : Nat} (hd : t.checkDiff k = s.checkDiff k) (hb : ∀ c, t.mem.l1bad.contains (c, k) = s.mem.l1bad.contains (c, k)) (ho : ∀ c, t.ownsLine c k = s.ownsLine c k)
    (core : Option Nat) : t.lineBad core k = s.lineBad core k := by
  cases core with
  | none => rw [State.lineBad, State.lineBad, hd]
  | some c => rw [State.lineBad, State.lineBad, hd, hb, ho]

theorem lookup_filter_key {α : Type} {f : Nat → Bool} {k : Nat} (hf : f k = true) (l : List (Nat × α)) : lookup (l.filter fun x => f x.1) k = lookup l k := by
  induction l with
  | nil => rfl
  | cons x l ih =>
    obtain ⟨j, y⟩ := x
    by_cases hj : j = k
    · subst hj
      simp [lookup, hf]
    · cases hfj : f j <;> simp [lookup, hj, hfj, ih]

theorem contains_filter_of {α : Type} [BEq α] [LawfulBEq α] {f : α → Bool} {x : α} (hf : f x = true) (l : List α) : (l.filter f).contains x = l.contains x := by
  rw [Bool.eq_iff_iff]
  simp [hf]

/-- Check values made anew for lines that the ranges meet. -/
theorem stores_makeChecks {s : State} (hok : s.cellsOk = true) {f : Nat → Bool} {P : Loc → Nat → Prop} (hf : ∀ a, f (a / 64) = true → ∃ x n, P x n ∧ x.meetsLine n (.phys a)) : Stores s (s.makeChecks f) P where
  only := .of_mem rfl
  wf := hok
  reserved k p q hp hq := .inl (by rw [Option.some.inj (hp.symm.trans hq)])
  lines core y hy := by
    cases y with
    | win t o => rfl
    | phys a =>
      rw [State.lineFails_phys, State.lineFails_phys]
      refine State.lineBad_congr ?_ ?_ ?_ core
      rotate_left
      · exact fun _ => rfl
      · exact fun _ => rfl
      have hfa : f (a / 64) = false := Bool.eq_false_iff.mpr fun h => by
        obtain ⟨x, n, hx, hm⟩ := hf a h
        exact hy x n hx hm
      rw [State.checkDiff, State.checkDiff]
      exact congrArg (fun o : Option (BitVec 16) => o.getD 0) (lookup_filter_key (f := fun j => !f j) (k := a / 64) (by simp [hfa]) s.mem.checks)
  bytes core priv y hy := by
    cases y <;> rfl

/-- The errors of lines of an L1 dropped, for lines that the ranges meet. -/
theorem stores_dropL1 {s : State} (hok : s.cellsOk = true) {f : Nat × Nat → Bool} {P : Loc → Nat → Prop} (hf : ∀ c a, f (c, a / 64) = false → ∃ x n, P x n ∧ x.meetsLine n (.phys a)) :
    Stores s { s with mem := { s.mem with l1bad := s.mem.l1bad.filter f } } P where
  only := .of_mem rfl
  wf := hok
  reserved k p q hp hq := .inl (by rw [Option.some.inj (hp.symm.trans hq)])
  lines core y hy := by
    cases y with
    | win t o => rfl
    | phys a =>
      rw [State.lineFails_phys, State.lineFails_phys]
      refine State.lineBad_congr ?_ ?_ ?_ core
      · rfl
      rotate_left
      · exact fun _ => rfl
      refine fun c => contains_filter_of ?_ _
      refine Bool.not_eq_false _ ▸ fun h => ?_
      obtain ⟨x, n, hx, hm⟩ := hf c a h
      exact hy x n hx hm
  bytes core priv y hy := by
    cases y <;> rfl

theorem cellFind_foldl_cellSet_other {pa x : Nat} (bs : List Byte) (i : Nat) (l : List Host.Cell) (h : x < pa + i ∨ pa + i + bs.length ≤ x) :
    cellFind ((bs.zipIdx i).foldl (fun l b => cellSet l (pa + b.2) b.1) l) x = cellFind l x := by
  induction bs generalizing i l with
  | nil => rfl
  | cons b bs ih =>
    rw [List.zipIdx_cons, List.foldl_cons, ih (i + 1) _ (by simp only [List.length_cons] at h; omega)]
    exact cellFind_cellSet_other _ _ _ _ (by simp only [List.length_cons] at h; omega)
theorem cellFind_foldl_cellSet_at {pa k : Nat} (bs : List Byte) (i : Nat) (l : List Host.Cell) (h : k < bs.length) :
    cellFind ((bs.zipIdx i).foldl (fun l b => cellSet l (pa + b.2) b.1) l) (pa + i + k) = some (bs.getD k 0) := by
  induction bs generalizing i k l with
  | nil => cases h
  | cons b bs ih =>
    rw [List.zipIdx_cons, List.foldl_cons]
    cases k with
    | zero =>
      rw [cellFind_foldl_cellSet_other _ _ _ (by omega)]
      exact cellFind_cellSet_same ..
    | succ k =>
      rw [show pa + i + (k + 1) = pa + (i + 1) + k by omega, ih (i + 1) _ (by simpa using h)]
      rfl

/-- A core's dirty bytes replaced by others that agree outside a range. -/
theorem stores_dirty {s : State} (hok : s.cellsOk = true) {c : Nat} {l : List Host.Cell} {pa n : Nat} (hl : ∀ x, x < pa ∨ pa + n ≤ x → cellFind l x = cellFind (s.dirty c) x) :
    Stores s { s with mem := { s.mem with l1dirty := put s.mem.l1dirty c l } } fun x m => x = .phys pa ∧ m = n where
  only := .of_mem rfl
  wf := hok
  reserved k p q hp hq := .inl (by rw [Option.some.inj (hp.symm.trans hq)])
  lines core y hy := by
    cases y with
    | win t o => rfl
    | phys a =>
      rw [State.lineFails_phys, State.lineFails_phys]
      refine State.lineBad_congr ?_ ?_ ?_ core
      · rfl
      · exact fun _ => rfl
      intro c'
      have hline : ∀ i, i < 64 → 64 * (a / 64) + i < pa ∨ pa + n ≤ 64 * (a / 64) + i := fun i hi => by
        have := hy _ _ ⟨rfl, rfl⟩
        simp only [Loc.meetsLine] at this
        omega
      rw [State.ownsLine, State.ownsLine]
      rw [Bool.eq_iff_iff, List.all_eq_true, List.all_eq_true]
      refine forall₂_congr fun i hi => Iff.of_eq (congrArg (· = true) ?_)
      rw [State.dirty, State.dirty]
      by_cases hc : c' = c
      · subst hc
        rw [lookup_put_same]
        exact congrArg Option.isSome (hl _ (hline i (List.mem_range.mp hi)))
      · rw [lookup_put_other _ _ _ _ hc]
  bytes core priv y hy := by
    cases y with
    | win t o => rfl
    | phys a =>
      have hout : a < pa ∨ pa + n ≤ a := by
        have := hy _ _ ⟨rfl, rfl⟩
        simp only [Loc.holds] at this
        omega
      refine congrArg (fun o : Option Byte => o.getD (cellGet s.mem.hbm a)) ?_
      refine congrArg (Option.bind (s.keeper core priv)) (funext fun c' => ?_)
      rw [State.dirty, State.dirty]
      by_cases hc : c' = c
      · subst hc
        rw [lookup_put_same]
        exact hl a hout
      · rw [lookup_put_other _ _ _ _ hc]

/-- Bytes of HBM4 written. -/
theorem stores_hbm {s : State} (hok : s.cellsOk = true) (pa : Nat) (bs : List Byte) :
    Stores s { s with mem := { s.mem with hbm := cellsWrite s.mem.hbm pa bs } } fun x m => x = .phys pa ∧ m = bs.length where
  only := .of_mem rfl
  wf := State.cellsOk_of hok (cellsWf_cellsWrite _ _ _ ((State.cellsOk_iff s).mp hok).1) rfl
  reserved k p q hp hq := .inl (by rw [Option.some.inj (hp.symm.trans hq)])
  lines core y hy := by
    cases y <;> rfl
  bytes core priv y hy := by
    cases y with
    | win t o => rfl
    | phys a =>
      have hout : a < pa ∨ pa + bs.length ≤ a := by
        have := hy _ _ ⟨rfl, rfl⟩
        simp only [Loc.holds] at this
        omega
      exact congrArg (Option.getD _) (cellGet_cellsWrite_other bs _ pa a ((State.cellsOk_iff s).mp hok).1 hout)

theorem wholeLine_meets {pa n a : Nat} (h : wholeLine pa n (a / 64) = true) : Loc.meetsLine (.phys pa) n (.phys a) := by
  simp only [wholeLine, Bool.and_eq_true, decide_eq_true_eq] at h
  simp only [Loc.meetsLine]
  omega

theorem stores_putPhys {s : State} (hok : s.cellsOk = true) (core : Option Nat) (priv : Bool) (bs : List Byte) (pa : Nat) :
    Stores s (s.putPhys core priv bs pa) fun x m => x = .phys pa ∧ m = bs.length := by
  unfold State.putPhys
  split
  · next c hc =>
    have hdirty := stores_dirty hok (c := c) (pa := pa) (n := bs.length) (fun x hx => cellFind_foldl_cellSet_other bs 0 (s.dirty c) (by simpa using hx))
    refine hdirty.trans (stores_dropL1 hdirty.wf fun c' a h => ?_)
    simp only [Bool.not_eq_eq_eq_not, Bool.not_false, Bool.and_eq_true] at h
    exact ⟨_, _, ⟨rfl, rfl⟩, wholeLine_meets h.2⟩
  · have hhbm := stores_hbm hok pa bs
    exact hhbm.trans (stores_makeChecks hhbm.wf fun a h => ⟨_, _, ⟨rfl, rfl⟩, wholeLine_meets h⟩)

/-- The bytes that a write leaves. -/
theorem State.byteAt_putPhys {s : State} (hok : s.cellsOk = true) (core : Option Nat) (priv : Bool) (bs : List Byte) (pa : Nat) {k : Nat} (hk : k < bs.length) :
    (s.putPhys core priv bs pa).byteAt core priv (.phys (pa + k)) = bs.getD k 0 := by
  have hkeep := (bytesOnly_putPhys s core priv bs pa).keeper core priv
  rw [State.byteAt, hkeep]
  unfold State.putPhys
  split
  · next c hc =>
    rw [hc]
    have hfind := cellFind_foldl_cellSet_at (pa := pa) bs 0 (s.dirty c) hk
    simp only [Option.bind_some, State.dirty, lookup_put_same, Option.getD_some]
    rw [State.dirty, Nat.add_zero] at hfind
    rw [hfind, Option.getD_some]
  · next hc =>
    rw [hc]
    exact cellGet_cellsWrite_at bs _ pa k ((State.cellsOk_iff s).mp hok).1 hk

/-! ## Bytes of windows -/

theorem lookup_dropReservations (ps : List (Nat × Porter)) (t o n k : Nat) : lookup (dropReservations ps t o n) k = (lookup ps k).map fun p => match p.resv with
    | some (some t', o', _) => if t' = t ∧ o' < o + n ∧ o < o' + 4 then { p with resv := none } else p
    | some (none, _, _) => p
    | none => p := by
  induction ps with
  | nil => rfl
  | cons x ps ih =>
    obtain ⟨j, p⟩ := x
    have hcons : dropReservations ((j, p) :: ps) t o n = (j, match p.resv with
        | some (some t', o', _) => if t' = t ∧ o' < o + n ∧ o < o' + 4 then { p with resv := none } else p
        | some (none, _, _) => p
        | none => p) :: dropReservations ps t o n := by
      rw [dropReservations, List.map_cons]
      refine congrArg (· :: _) ?_
      dsimp only
      split
      · split <;> simp_all
      · simp_all
      · simp_all
    rw [hcons, lookup, lookup]
    by_cases hj : j = k
    · rw [if_pos hj, if_pos hj]
      rfl
    · rw [if_neg hj, if_neg hj, ih]

theorem stores_putWin {s : State} (hok : s.cellsOk = true) (t o : Nat) {bs : List Byte} (hbs : bs ≠ []) :
    Stores s (s.putWin t o bs) fun x m => x = .win t o ∧ m = bs.length where
  only := bytesOnly_putWin ..
  wf := State.cellsOk_putWin _ _ _ _ hok
  reserved k p q hp hq := by
    have hlen : 0 < bs.length := List.length_pos_iff.mpr hbs
    have hps : (s.putWin t o bs).porters = dropReservations s.porters t o bs.length := by
      unfold State.putWin State.modTeam
      split <;> rfl
    rw [hps, lookup_dropReservations, hp, Option.map_some, Option.some.injEq] at hq
    subst hq
    split
    · next t' o' m hr =>
      split
      · next hc =>
        obtain ⟨rfl, hc1, hc2⟩ := hc
        refine .inr ⟨rfl, t', o', m, max o o' - o, max o o' - o', bs.length, hr, by omega, by omega, _, ⟨rfl, rfl⟩, ?_⟩
        rw [Loc.plus, show o + (max o o' - o) = o' + (max o o' - o') by omega]
      · exact .inl rfl
    · exact .inl rfl
    · exact .inl rfl
  lines core y hy := by
    cases y with
    | phys a =>
      unfold State.putWin State.modTeam
      split <;> rfl
    | win u q =>
      have hmem : (s.putWin t o bs).mem.badWords = s.mem.badWords.filter fun w => !(w.1 == t && decide (o ≤ 4 * w.2) && decide (4 * w.2 + 4 ≤ o + bs.length)) := by
        unfold State.putWin State.modTeam
        split <;> rfl
      have hnot := hy _ _ ⟨rfl, rfl⟩
      simp only [Loc.meetsLine, not_and, Nat.not_lt] at hnot
      rw [State.lineFails, State.lineFails, hmem, List.any_filter]
      refine congrArg _ (funext fun w => ?_)
      rw [Bool.eq_iff_iff]
      simp only [Bool.and_eq_true, Bool.not_eq_true', Bool.and_eq_false_iff, beq_iff_eq, decide_eq_true_eq, decide_eq_false_iff_not, beq_eq_false_iff_ne]
      constructor
      · exact fun h => h.2
      · intro h
        refine ⟨?_, h⟩
        obtain ⟨⟨hw, h1⟩, h2⟩ := h
        have hq : w.2 = q / 4 := by omega
        by_cases htu : t = u
        · by_cases ho : o < 4 * (q / 4) + 4
          · have := hnot htu ho
            exact .inr (by omega)
          · exact .inl (.inr (by omega))
        · exact .inl (.inl (by rw [hw]; exact Ne.symm htu))
  bytes core priv y hy := by
    cases y with
    | phys a =>
      have hk := (bytesOnly_putWin s t o bs).keeper core priv
      rw [State.byteAt, State.byteAt, hk]
      unfold State.putWin State.modTeam
      split <;> rfl
    | win u q =>
      have hnot := hy _ _ ⟨rfl, rfl⟩
      simp only [Loc.holds, not_and, Nat.not_lt] at hnot
      refine congrArg (fun o : Option Byte => o.getD 0) ?_
      unfold State.putWin State.modTeam
      split
      · next tm htm =>
        have htm' : s.team? t = some tm := htm
        by_cases htu : u = t
        · subst htu
          rw [State.team?_setTeam_same, htm', Option.map_some, Option.map_some]
          refine congrArg some (cellGet_cellsWrite_other _ _ _ _ (((State.cellsOk_iff s).mp hok).2 _ (lookup_mem htm')) ?_)
          rcases Nat.lt_or_ge q o with h | h
          · exact .inl h
          · exact .inr (hnot rfl h)
        · rw [State.team?_setTeam_other _ _ _ _ htu]
          rfl
      · rfl

theorem State.byteAt_putWin {s : State} (hok : s.cellsOk = true) {t : Nat} {tm : Team} (ht : s.team? t = some tm) (o : Nat) (bs : List Byte) (core : Option Nat) (priv : Bool) {k : Nat} (hk : k < bs.length) :
    (s.putWin t o bs).byteAt core priv (.win t (o + k)) = bs.getD k 0 := by
  have hput : (s.putWin t o bs).team? t = some { tm with window := cellsWrite tm.window o bs } := by
    unfold State.putWin State.modTeam State.freshWords
    rw [show ({ s with porters := dropReservations s.porters t o bs.length, mem := _ } : State).team? t = some tm from ht]
    exact State.team?_setTeam_same ..
  rw [State.byteAt, hput]
  exact cellGet_cellsWrite_at _ _ _ _ (((State.cellsOk_iff s).mp hok).2 _ (lookup_mem ht)) hk

/-! ## Bytes of any place -/

theorem forwards_nil (tag pa : Nat) : forwards [] tag pa = [pa] := rfl

theorem length_patch (base : List Byte) (a b : Nat) (bs : List Byte) : (patch base a b bs).length = base.length := List.length_mapIdx ..
theorem State.length_keepTags (s : State) (t o : Nat) (bs : List Byte) : (s.keepTags t o bs).length = bs.length := by
  unfold State.keepTags
  split
  · generalize ((s.team? t).map (·.tags)).getD [] = ws
    induction ws using List.reverseRecOn with
    | nil => rfl
    | append_singleton ws w ih => rw [List.foldl_append, List.foldl_cons, List.foldl_nil, length_patch, ih]
  · rfl

theorem stores_putTagged {s : State} (hok : s.cellsOk = true) (hch : s.dev.changes = []) (tag : Nat) (core : Option Nat) (priv : Bool) (l : Loc) {bs : List Byte} (hbs : bs ≠ []) :
    Stores s (s.putTagged tag core priv l bs) fun x m => x = l ∧ m = bs.length := by
  cases l with
  | phys pa =>
    rw [State.putTagged, hch, forwards_nil]
    exact stores_putPhys hok core priv bs pa
  | win t o =>
    have hlen := s.length_keepTags t o bs
    have := stores_putWin hok t o (bs := s.keepTags t o bs) (List.ne_nil_of_length_pos (hlen ▸ List.length_pos_iff.mpr hbs))
    rwa [hlen] at this

/-- Can bytes be written at a place: a window that exists, in which the range covers no tagged word (R250)? -/
def State.writable (s : State) (l : Loc) (n : Nat) : Prop :=
  match l with
  | .win t o => (∃ tm, s.team? t = some tm) ∧ s.coversTag t o n = false
  | .phys _ => True

theorem State.byteAt_putTagged {s : State} (hok : s.cellsOk = true) (hch : s.dev.changes = []) (tag : Nat) (core : Option Nat) (priv : Bool) {l : Loc} {bs : List Byte} (hl : s.writable l bs.length) {k : Nat} (hk : k < bs.length) :
    (s.putTagged tag core priv l bs).byteAt core priv (l.plus k) = bs.getD k 0 := by
  cases l with
  | phys pa =>
    rw [State.putTagged, hch, forwards_nil]
    exact State.byteAt_putPhys hok core priv bs pa hk
  | win t o =>
    obtain ⟨⟨tm, ht⟩, hc⟩ := hl
    rw [State.putTagged, State.keepTags, hc]
    exact State.byteAt_putWin hok ht o bs core priv hk

/-- The check value of a line that the lanes of a store have written whole is made anew, and nothing else changes beside the bytes (R400). -/
theorem stores_performStore {s : State} (hok : s.cellsOk = true) (hch : s.dev.changes = []) (core : Option Nat) {st : PendingStore} (hbs : st.bytes ≠ []) :
    Stores s (s.performStore core st) fun x m => x = st.loc ∧ m = st.bytes.length := by
  have hput := stores_putTagged hok hch st.epoch core st.priv st.loc hbs
  have hlen : 0 < st.bytes.length := List.length_pos_iff.mpr hbs
  unfold State.performStore
  dsimp only
  split
  · split
    · next pa hloc =>
      rw [hloc] at hput ⊢
      rw [hput.only.dev, hch, forwards_nil, List.foldl_cons, List.foldl_nil]
      have hmeet : ∀ a, a / 64 = pa / 64 → Loc.meetsLine (.phys pa) st.bytes.length (.phys a) := fun a h => by
        simp only [Loc.meetsLine]
        omega
      split
      · refine hput.trans (stores_dropL1 hput.wf fun c a h => ⟨_, _, ⟨rfl, rfl⟩, hmeet a ?_⟩)
        simp only [bne_eq_false_iff_eq, Prod.mk.injEq] at h
        exact h.2
      · exact hput.trans (stores_makeChecks hput.wf fun a h => ⟨_, _, ⟨rfl, rfl⟩, hmeet a (beq_iff_eq.mp h)⟩)
    · exact hput
  · exact hput

/-- Making check values anew leaves the bytes. -/
theorem State.byteAt_performStore {s : State} (hok : s.cellsOk = true) (hch : s.dev.changes = []) (core : Option Nat) {st : PendingStore} (hl : s.writable st.loc st.bytes.length) {k : Nat} (hk : k < st.bytes.length) :
    (s.performStore core st).byteAt core st.priv (st.loc.plus k) = st.bytes.getD k 0 := by
  have hput := State.byteAt_putTagged hok hch st.epoch core st.priv hl hk
  unfold State.performStore
  dsimp only
  split
  · split
    · next pa hloc =>
      rw [(bytesOnly_putTagged ..).dev, hch, forwards_nil, List.foldl_cons, List.foldl_nil, ← hput]
      split <;> rfl
    · exact hput
  · exact hput
end Sys2Proof.Machine
end

section
/-! SUPPORT. Stores (R216, R218, R220, R223, R225). -/
namespace Sys2Proof.Machine

/-! ## Places that a store's checks accept -/

theorem State.windowOf_team {s : State} {team : Option Nat} {a n t o : Nat} (h : s.windowOf team a n = some (t, o)) (hn : 0 < n) : ∃ tm, s.team? t = some tm := by
  unfold State.windowOf at h
  split at h
  · cases h
  · split at h
    · cases h
    · split at h
      · cases h
      · next j _ =>
        split at h
        · next hle =>
          cases h
          cases ht : s.team? t with
          | some tm => exact ⟨tm, rfl⟩
          | none =>
            simp only [State.windowSize, ht] at hle
            omega
        · cases h

theorem State.coversTag_mono {s : State} {t o m n : Nat} (h : s.coversTag t o n = false) (hmn : m ≤ n) : s.coversTag t o m = false := by
  unfold State.coversTag at h ⊢
  split
  · rfl
  · next tm ht =>
    rw [ht] at h
    rw [List.any_eq_false] at h ⊢
    intro w hw
    have := h w hw
    simp only [Bool.and_eq_true, decide_eq_true_eq, not_and, Nat.not_lt] at this ⊢
    omega

/-- What the checks of a range of a local address accept is a place of HBM4 of that many bytes. -/
theorem State.checkLocal_ok {s : State} {c : Ctx} {n la : Nat} {decodes w : Bool} {ea : DWord} {q : Place} (h : s.checkLocal c n decodes w ea la = .ok q) :
    (∃ pa, q.loc = .phys pa) ∧ q.n = n ∧ ∃ p, s.pageUnder c.tag c.asid la = some p ∧ q.attr = p.attr := by
  unfold State.checkLocal at h
  split at h
  · cases h
  · next p hp =>
    dsimp only at h
    split at h
    · cases h
    split at h
    · cases h
    split at h
    · cases h
    split at h
    · cases h
      exact ⟨⟨_, rfl⟩, rfl, p, hp, rfl⟩
    · split at h <;> cases h
      exact ⟨⟨_, rfl⟩, rfl, p, hp, rfl⟩

/-- A place that the checks accept is a window's, with no tagged word for a write, or one of HBM4; it has the bytes of the shape. -/
theorem State.check_ok {s : State} {c : Ctx} {sh : Shape} {w : Bool} {ea : DWord} {q : Place} (h : s.check c sh w ea = .ok q) :
    (∃ t o, q.loc = .win t o ∧ sh.bytes 0 = some q.n ∧ (0 < q.n → ∃ tm, s.team? t = some tm) ∧ (w = true → s.coversTag t o q.n = false))
    ∨ ∃ pa, q.loc = .phys pa ∧ sh.bytes (attrFmt q.attr) = some q.n := by
  unfold State.check at h
  split at h
  · cases h
  · split at h
    · cases h
    · next n hn =>
      split at h
      · cases h
      split at h
      · cases h
      · next t o ht =>
        split at h
        · cases h
        · next hc =>
          cases h
          exact .inl ⟨t, o, rfl, hn, State.windowOf_team ht, fun hw => by simpa [hw] using hc⟩
  · split at h
    · split at h <;> split at h <;> cases h
    · next p hp =>
      split at h
      · split at h <;> cases h
      · next n hn =>
        split at h
        · cases h
        · obtain ⟨⟨pa, hpa⟩, hqn, p', hp', ha⟩ := State.checkLocal_ok h
          rw [hp, Option.some.injEq] at hp'
          subst hp'
          exact .inr ⟨pa, hpa, by rw [ha, hn, hqn]⟩
  · split at h <;> split at h <;> cases h

theorem length_bytesOfNat (n v : Nat) : (bytesOfNat n v).length = n := by
  induction n generalizing v with
  | zero => rfl
  | succ n ih => exact congrArg (· + 1) (ih _)
theorem length_bytesOfWords (ws : List Word) : (bytesOfWords ws).length = 4 * ws.length := by
  induction ws with
  | nil => rfl
  | cons w ws ih =>
    rw [bytesOfWords, List.flatMap_cons, List.length_append, length_bytesOfNat, List.length_cons]
    rw [bytesOfWords] at ih
    omega
theorem storeSize_pos (f : StoreForm) : 0 < storeSize f := by cases f <;> decide
theorem storeCount_pos (f : StoreForm) : 0 < f.count := by cases f <;> decide

/-- The shape of a store: raw bytes of its form, or the form. -/
def storeShape (raw : Bool) (f : StoreForm) : Shape := if raw then .raw (storeSize f) else .store f

theorem bytes_storeShape_pos {raw : Bool} {f : StoreForm} {fmt n : Nat} (h : (storeShape raw f).bytes fmt = some n) : 0 < n := by
  have hs := storeSize_pos f
  have hc := storeCount_pos f
  cases raw with
  | true =>
    cases h
    exact hs
  | false =>
    simp only [storeShape, Bool.false_eq_true, if_false, Shape.bytes, movedBytes] at h
    repeat' split at h
    all_goals simp_all
    all_goals omega

/-- The bytes that a lane's store writes are within its place, and are some bytes. -/
theorem length_storeBytes {raw : Bool} {f : StoreForm} {q : Place} {ws : List Word} (hws : ws ≠ []) (hn : 0 < q.n) (hb : ∀ t o, q.loc = .win t o → (storeShape raw f).bytes 0 = some q.n) :
    storeBytes (storeShape raw f) q ws ≠ [] ∧ ∀ t o, q.loc = .win t o → (storeBytes (storeShape raw f) q ws).length ≤ q.n := by
  have hlen : 0 < ws.length := List.length_pos_iff.mpr hws
  have htake : ∀ n, 0 < n → (bytesOfWords ws).take n ≠ [] := fun n h0 => List.ne_nil_of_length_pos (by rw [List.length_take, length_bytesOfWords]; omega)
  cases raw with
  | true =>
    refine ⟨htake _ (storeSize_pos f), fun t o h => ?_⟩
    have hq : storeSize f = q.n := Option.some.inj (hb t o h)
    exact hq ▸ List.length_take_le ..
  | false =>
    simp only [storeShape, Bool.false_eq_true, if_false, storeBytes]
    split
    · exact ⟨htake _ hn, fun _ _ _ => List.length_take_le ..⟩
    · next h =>
      refine ⟨?_, fun t o h' => by rw [h] at h'; cases h'⟩
      split
      · exact htake _ hn
      · obtain ⟨w, r, rfl⟩ := List.exists_cons_of_ne_nil hws
        refine List.ne_nil_of_length_pos ?_
        rw [List.flatMap_cons, List.length_append, length_bytesOfNat, elemBytes]
        split <;> omega

/-! ## Numbers taken between writes -/

/-- Two states beside the numbers that the model gives. -/
theorem Stores.withSched {s t : State} {P : Loc → Nat → Prop} (h : Stores s t P) (x : Sched) : Stores { s with sched := x } { t with sched := x } P where
  only := by
    obtain ⟨_, _, _, _, _, _, _, rfl, ht, hp⟩ := h.only
    exact ⟨_, _, _, _, _, _, _, rfl, ht, hp⟩
  wf := h.wf
  reserved := h.reserved
  lines core y hy := h.lines core y hy
  bytes core priv y hy := h.bytes core priv y hy

/-- The second state is the first with ranges written and numbers given. -/
def StoresFrom (s t : State) (P : Loc → Nat → Prop) : Prop := t.sched = { s.sched with nextId := t.sched.nextId } ∧ Stores s { t with sched := s.sched } P

namespace StoresFrom
variable {s t u : State} {P : Loc → Nat → Prop}

theorem refl (h : s.cellsOk = true) : StoresFrom s s P := ⟨rfl, .refl h⟩
theorem fresh (h : StoresFrom s t P) : StoresFrom s t.fresh.2 P := ⟨(congrArg (fun x : Sched => { x with nextId := t.sched.nextId + 1 }) h.1 :), h.2⟩
theorem stores (h : StoresFrom s t P) (h' : Stores t u P) : StoresFrom s u P := ⟨h'.only.sched ▸ h.1, h.2.trans (h'.withSched s.sched)⟩

theorem groups (h : StoresFrom s t P) : t.groups = s.groups := (h.2.only.groups :)
theorem group? (h : StoresFrom s t P) (k : Nat) : t.group? k = s.group? k := congrArg (lookup · k) h.groups
theorem dev (h : StoresFrom s t P) : t.dev = s.dev := (h.2.only.dev :)
theorem storeQ (h : StoresFrom s t P) : t.mem.storeQ = s.mem.storeQ := (h.2.only.storeQ :)
theorem lateStores (h : StoresFrom s t P) : t.lateStores = s.lateStores := by
  obtain ⟨_, _, _, _, _, _, _, ht, -, -⟩ := h.2.only
  exact (congrArg State.lateStores ht :)
theorem mustWait (h : StoresFrom s t P) (c : Ctx) (k : Option Nat) : t.mustWait c k = s.mustWait c k := by
  have ht : t.mem.tiles = s.mem.tiles := (h.2.only.tiles :)
  simp only [State.mustWait, State.tile, ht]
theorem wf (h : StoresFrom s t P) : t.cellsOk = true := h.2.wf
theorem frame (h : StoresFrom s t P) :
    t = { s with teams := t.teams, porters := t.porters, mem := { s.mem with hbm := t.mem.hbm, l1dirty := t.mem.l1dirty, checks := t.mem.checks, badWords := t.mem.badWords, l1bad := t.mem.l1bad }, sched := { s.sched with nextId := t.sched.nextId } } := by
  obtain ⟨_, _, _, _, _, _, _, ht, -, -⟩ := h.2.only
  have hu : t = { ({ t with sched := s.sched } : State) with sched := t.sched } := rfl
  rw [ht, h.1] at hu
  rw [hu]
theorem frame_groups (h : StoresFrom s t P) (gs : List (Nat × Group)) :
    ({ t with groups := gs } : State) = { s with groups := gs, teams := t.teams, porters := t.porters, mem := { s.mem with hbm := t.mem.hbm, l1dirty := t.mem.l1dirty, checks := t.mem.checks, badWords := t.mem.badWords, l1bad := t.mem.l1bad }, sched := { s.sched with nextId := t.sched.nextId } } :=
  (congrArg (fun u : State => { u with groups := gs }) h.frame :)
theorem writable (h : StoresFrom s t P) {l : Loc} {n : Nat} (hl : s.writable l n) : t.writable l n := by
  cases l with
  | phys pa => trivial
  | win w o =>
    obtain ⟨⟨tm, ht⟩, hc⟩ := hl
    have hteam : (t.team? w).map Team.frame = (s.team? w).map Team.frame := h.2.only.team? w
    rw [ht] at hteam
    obtain ⟨tm', ht', hf⟩ := Option.map_eq_some_iff.mp hteam
    have htags : tm'.tags = tm.tags := (congrArg Team.tags hf :)
    refine ⟨⟨tm', ht'⟩, ?_⟩
    rw [State.coversTag, ht'] 
    rw [State.coversTag, ht] at hc
    dsimp only at hc ⊢
    rw [htags, hc]
end StoresFrom

/-! ## A store of each lane -/

/-- A store that nothing holds back and that is not late is performed at once. -/
theorem State.storeNow_performs {s : State} {c : Ctx} {st : PendingStore} {g : Group} (hw : s.mustWait c st.tile = false) (hg : s.group? st.gid = some g) (hh : g.holds = false) (hq : s.queueOf st.core = [])
    (hl : s.lateStores = false) : s.storeNow c st = s.performStore (some st.core) st := by
  simp [State.storeNow, hw, hg, hh, State.storeLine, hq, hl]
/-- A store that is late goes to the end of its core's queue. -/
theorem State.storeNow_queues {s : State} {c : Ctx} {st : PendingStore} (hw : s.mustWait c st.tile = false) (hl : s.lateStores = true) :
    s.storeNow c st = { s with mem := { s.mem with storeQ := s.mem.storeQ ++ [st] } } := by
  simp [State.storeNow, hw, hl]

/-- What the stores of a list of lanes have to meet. -/
structure LanesGood (s : State) (c : Ctx) (p : Packet) (g : Group) (sh : Shape) (data : List (Nat × List Word)) (ls : List (Nat × Place)) : Prop where
  group : s.group? p.gid = some g
  holds : g.holds = false
  waits : ∀ x ∈ ls, s.mustWait c x.2.tile = false
  some : ∀ x ∈ ls, storeBytes sh x.2 ((lookup data x.1).getD []) ≠ []
  place : ∀ x ∈ ls, s.writable x.2.loc (storeBytes sh x.2 ((lookup data x.1).getD [])).length

/-- The bytes of a lane's store. -/
def laneBytes (sh : Shape) (data : List (Nat × List Word)) (x : Nat × Place) : List Byte := storeBytes sh x.2 ((lookup data x.1).getD [])

/-- The stores of lanes performed in turn: no more than their ranges is written, and each lane's bytes stand where no later lane stores over them (R219). -/
theorem storesFrom_storeLanes {s : State} {c : Ctx} {p : Packet} {g : Group} {sh : Shape} {data : List (Nat × List Word)} {all : List (Nat × Place)} (hl : s.lateStores = false) (hq : s.queueOf g.core = [])
    (hch : s.dev.changes = []) (inst : Nat) {P : Loc → Nat → Prop} {ls : List (Nat × Place)} (hgood : LanesGood s c p g sh data ls) (hP : ∀ x ∈ ls, P x.2.loc (laneBytes sh data x).length) {t : State} (ht : StoresFrom s t P) :
    StoresFrom s (t.storeLanes false inst c p g sh data all ls) P
    ∧ (∀ core priv y, (∀ x ∈ ls, ¬ x.2.loc.holds (laneBytes sh data x).length y) → (t.storeLanes false inst c p g sh data all ls).byteAt core priv y = t.byteAt core priv y)
    ∧ ∀ as x bs, ls = as ++ x :: bs → ∀ k, k < (laneBytes sh data x).length → (∀ y ∈ bs, ¬ y.2.loc.holds (laneBytes sh data y).length (x.2.loc.plus k)) →
        (t.storeLanes false inst c p g sh data all ls).byteAt (some g.core) (attrPrivate x.2.attr && stagedPlace x.2.loc) (x.2.loc.plus k) = (laneBytes sh data x).getD k 0 := by
  induction ls generalizing t with
  | nil => exact ⟨ht, fun _ _ _ _ => rfl, fun as x bs h => by simp at h⟩
  | cons x ls ih =>
    obtain ⟨i, pl⟩ := x
    obtain ⟨hg, hh, hw, hb, hpl⟩ := hgood
    have hx : (i, pl) ∈ (i, pl) :: ls := List.mem_cons_self
    have hf := ht.fresh
    have hnow := State.storeNow_performs (s := t.fresh.2) (c := c) (st := laneStore c p g i pl (laneBytes sh data (i, pl)) (fillsLine all (i, pl)) t.sched.nextId inst) ((hf.mustWait c pl.tile).trans (hw _ hx)) ((hf.group? p.gid).trans hg) hh
      ((congrArg (List.filter fun st : PendingStore => st.core == g.core) hf.storeQ).trans hq) (hf.lateStores.trans hl)
    have hper := stores_performStore hf.wf ((congrArg Device.changes hf.dev).trans hch) (some g.core) (st := laneStore c p g i pl (laneBytes sh data (i, pl)) (fillsLine all (i, pl)) t.sched.nextId inst) (hb _ hx)
    have hstep : t.storeLanes false inst c p g sh data all ((i, pl) :: ls)
        = (t.fresh.2.performStore (some g.core) (laneStore c p g i pl (laneBytes sh data (i, pl)) (fillsLine all (i, pl)) t.sched.nextId inst)).storeLanes false inst c p g sh data all ls :=
      (congrArg (State.storeLanes · false inst c p g sh data all ls) hnow :)
    have ht' := hf.stores (hper.mono fun y m h => by
      obtain ⟨rfl, rfl⟩ := h
      exact hP _ hx)
    obtain ⟨ih1, ih2, ih3⟩ := ih ⟨hg, hh, fun y hy => hw y (List.mem_cons_of_mem _ hy), fun y hy => hb y (List.mem_cons_of_mem _ hy), fun y hy => hpl y (List.mem_cons_of_mem _ hy)⟩
      (fun y hy => hP y (List.mem_cons_of_mem _ hy)) ht'
    rw [hstep]
    refine ⟨ih1, fun core priv y hy => ?_, fun as x bs h k hk hlater => ?_⟩
    · refine (ih2 core priv y fun z hz => hy z (List.mem_cons_of_mem _ hz)).trans ((hper.bytes core priv y fun z m hz => ?_).trans (by cases y <;> rfl))
      obtain ⟨rfl, rfl⟩ := hz
      exact hy _ hx
    · cases as with
      | nil =>
        obtain ⟨rfl, rfl⟩ := List.cons.inj h
        refine (ih2 _ _ _ hlater).trans ?_
        exact State.byteAt_performStore hf.wf ((congrArg Device.changes hf.dev).trans hch) (some g.core) (hf.writable (hpl _ hx)) hk
      | cons a as => exact ih3 as x bs (List.cons.inj h).2 k hk hlater

/-- The stores of lanes queued in turn (R225). -/
theorem storeLanes_queued {s : State} {c : Ctx} {p : Packet} {g : Group} {sh : Shape} {data : List (Nat × List Word)} {all : List (Nat × Place)} (hl : s.lateStores = true) (inst : Nat) {ls : List (Nat × Place)}
    (hw : ∀ x ∈ ls, s.mustWait c x.2.tile = false) :
    ∃ sts n, s.storeLanes false inst c p g sh data all ls = { s with mem := { s.mem with storeQ := s.mem.storeQ ++ sts }, sched := { s.sched with nextId := n } }
      ∧ sts.map (fun x => (x.lane, x.loc, x.bytes)) = ls.map (fun x => (x.1, x.2.loc, laneBytes sh data x)) ∧ ∀ x ∈ sts, x.core = g.core ∧ x.gid = p.gid ∧ x.epoch = c.tag := by
  induction ls generalizing s with
  | nil => exact ⟨[], s.sched.nextId, by rw [List.append_nil]; rfl, rfl, fun x hx => by cases hx⟩
  | cons x ls ih =>
    obtain ⟨i, pl⟩ := x
    have hnow := State.storeNow_queues (s := s.fresh.2) (c := c) (st := laneStore c p g i pl (laneBytes sh data (i, pl)) (fillsLine all (i, pl)) s.sched.nextId inst) (hw _ List.mem_cons_self) hl
    obtain ⟨sts, n, hrun, hmap, hall⟩ := ih (s := s.fresh.2.storeNow c (laneStore c p g i pl (laneBytes sh data (i, pl)) (fillsLine all (i, pl)) s.sched.nextId inst)) (by rw [hnow]; exact hl)
      (fun x hx => by rw [hnow]; exact hw x (List.mem_cons_of_mem _ hx))
    refine ⟨laneStore c p g i pl (laneBytes sh data (i, pl)) (fillsLine all (i, pl)) s.sched.nextId inst :: sts, n, ?_, ?_, ?_⟩
    · refine (show s.storeLanes false inst c p g sh data all ((i, pl) :: ls) = (s.fresh.2.storeNow c _).storeLanes false inst c p g sh data all ls from rfl).trans (hrun.trans ?_)
      rw [hnow]
      simp [State.fresh]
    · rw [List.map_cons, List.map_cons, hmap]
      rfl
    · intro x hx
      rcases List.mem_cons.mp hx with rfl | hx
      · exact ⟨rfl, rfl, rfl⟩
      · exact hall x hx

/-! ## The instruction -/

/-- The words that each lane stores. -/
def storeData (s : State) (p : Packet) (g : Group) (f : StoreForm) (d : Reg) : List (Nat × List Word) := (g.list p.cur.lanes).map fun i => (i, (regsOf f.count d).map (g.read s.cycle i))
/-- The places of lanes. -/
def lanePlaces (p : Packet) (g : Group) (pl : Nat → Place) : List (Nat × Place) := (g.list p.cur.lanes).map fun i => (i, pl i)

theorem laneBytes_storeData {s : State} {p : Packet} {g : Group} {f : StoreForm} {d : Reg} {sh : Shape} {pl : Nat → Place} {i : Nat} (hi : i ∈ g.list p.cur.lanes) :
    laneBytes sh (storeData s p g f d) (i, pl i) = storeBytes sh (pl i) ((List.range f.count).map fun k => g.read s.cycle i (d.plus k)) := by
  rw [laneBytes, storeData, lookup_map_list, if_pos hi, Option.getD_some, regsOf, List.map_map]
  rfl

theorem exec_st {s : State} {p : Packet} {g : Group} (hs : s.issuing = some (p, g)) (hw : g.waitOf p.cur.pc p.cur.place = none) (hc : s.certified g = false) {raw : Bool} {d a : Reg} {f : StoreForm} {off : BitVec 9}
    {pl : Nat → Place} (hok : ∀ i ∈ g.list p.cur.lanes, s.check (s.ctxOf p.gid g) (storeShape raw f) true (g.ea s.cycle i a off (storeSize f)) = .ok (pl i))
    {t : State} (ht : s.storeLanes false s.sched.nextId (s.ctxOf p.gid g) p g (storeShape raw f) (storeData s p g f d) (lanePlaces p g pl) (lanePlaces p g pl) = t) (hg : t.group? p.gid = some g) :
    exec (if raw then .stRaw d a f off else .st d a f off) s = .next (t.finish p g) := by
  have hex : exec (if raw then .stRaw d a f off else .st d a f off) s = storeInstr s raw d a f off := by cases raw <;> rfl
  refine hex.trans ((State.issue_eq hs _).trans (congrArg _ ?_))
  have hplaces := placesOf_accsOf_ok (ea := fun i => g.ea s.cycle i a off (storeSize f)) hok
  have hrem := remoteLanes_accsOf_ok (ea := fun i => g.ea s.cycle i a off (storeSize f)) hok
  dsimp only
  rw [State.laneAccs_eq, ← storeShape, State.checkAll_go hw hrem [] _ (by rw [causesOf_accsOf_ok hok]; rfl)]
  dsimp only
  rw [State.withRoom, hc, hplaces, hrem]
  simp only [Bool.not_false, if_true, Bool.false_eq_true, if_false]
  rw [show (g.list p.cur.lanes).map (fun i => (i, pl i)) = lanePlaces p g pl from rfl, show (g.list p.cur.lanes).map (fun i => (i, (regsOf f.count d).map (g.read s.cycle i))) = storeData s p g f d from rfl, ht]
  rw [show shareLines [] = [] from rfl, State.sendStores, State.modGroup_eq hg]
  rfl

/-- Settles O39: the lanes' stores in turn, performed at once or queued by the free value. -/
theorem storeResults : Obligations.StoreResults := by
  intro s p g hs hw hh hc raw d a f off pl
  dsimp only
  intro hok
  obtain ⟨-, hg⟩ := (State.issuing_iff s p g).mp hs
  have hok' : ∀ i ∈ g.list p.cur.lanes, _ := fun i hi => hok i ((g.mem_list _ i).mp hi)
  have hmem : ∀ x ∈ lanePlaces p g pl, ∃ i ∈ g.list p.cur.lanes, x = (i, pl i) := fun x hx => by
    obtain ⟨i, hi, rfl⟩ := List.mem_map.mp hx
    exact ⟨i, hi, rfl⟩
  have hwait : ∀ x ∈ lanePlaces p g pl, s.mustWait (s.ctxOf p.gid g) x.2.tile = false := fun x hx => by
    obtain ⟨i, hi, rfl⟩ := hmem x hx
    exact (hok' i hi).2
  have hmoves : ∀ t : State, t.groups = s.groups → ∃ h, (t.finish p g).group? p.gid = some h ∧ h = { g with lanes := h.lanes } ∧ Moved g h p.cur.lanes (succPc p.cur.pc) ∧ ∀ k, k ≠ p.gid → (t.finish p g).group? k = s.group? k :=
    fun t ht => ⟨_, State.group?_finish .., rfl, g.moved_moveTo .., fun k hk => (State.group?_finish_other _ _ _ _ hk).trans (congrArg (lookup · k) ht)⟩
  refine ⟨fun hl hq hcells hch => ?_, fun hl => ?_⟩
  · have hgood : LanesGood s (s.ctxOf p.gid g) p g (storeShape raw f) (storeData s p g f d) (lanePlaces p g pl) := by
      have hpl : ∀ x ∈ lanePlaces p g pl, laneBytes (storeShape raw f) (storeData s p g f d) x ≠ [] ∧ s.writable x.2.loc (laneBytes (storeShape raw f) (storeData s p g f d) x).length := fun x hx => by
        obtain ⟨i, hi, rfl⟩ := hmem x hx
        rw [laneBytes_storeData hi]
        have hws : ((List.range f.count).map fun k => g.read s.cycle i (d.plus k)) ≠ [] := List.ne_nil_of_length_pos (by simpa using storeCount_pos f)
        rcases State.check_ok (hok' i hi).1 with ⟨t, o, hloc, hn, htm, htag⟩ | ⟨pa, hloc, hn⟩
        · obtain ⟨hne, hle⟩ := length_storeBytes (raw := raw) (f := f) hws (bytes_storeShape_pos hn) fun _ _ _ => hn
          refine ⟨hne, ?_⟩
          have hle' := hle t o hloc
          dsimp only
          rw [hloc]
          exact ⟨htm (bytes_storeShape_pos hn), State.coversTag_mono (htag rfl) hle'⟩
        · refine ⟨(length_storeBytes (raw := raw) (f := f) hws (bytes_storeShape_pos hn) fun t o h => by rw [hloc] at h; cases h).1, ?_⟩
          dsimp only
          rw [hloc]
          trivial
      exact ⟨hg, hh, hwait, fun x hx => (hpl x hx).1, fun x hx => (hpl x hx).2⟩
    obtain ⟨hfrom, -, hbytes⟩ := storesFrom_storeLanes (all := lanePlaces p g pl) (P := fun x n => ∃ i, (p.cur.lanes.getLsbD i = true ∧ i < g.width) ∧ x = (pl i).loc
        ∧ n = (storeBytes (storeShape raw f) (pl i) ((List.range f.count).map fun k => g.read s.cycle i (d.plus k))).length) hl hq hch s.sched.nextId hgood (fun x hx => by
      obtain ⟨i, hi, rfl⟩ := hmem x hx
      exact ⟨i, (g.mem_list _ i).mp hi, rfl, by rw [laneBytes_storeData hi]⟩) (.refl hcells)
    refine ⟨_, exec_st hs hw hc (fun i hi => (hok' i hi).1) rfl ((hfrom.group? p.gid).trans hg), hmoves _ hfrom.groups, ?_, fun i k hi hk hlater => ?_, ?_⟩
    · exact hfrom.frame_groups _
    · have hi' := (g.mem_list p.cur.lanes i).mpr hi
      obtain ⟨as, bs, hsplit⟩ := List.append_of_mem hi'
      have hplaces : lanePlaces p g pl = as.map (fun i => (i, pl i)) ++ (i, pl i) :: bs.map fun i => (i, pl i) := by rw [lanePlaces, hsplit, List.map_append, List.map_cons]
      rw [State.bytesAt_one]
      have hb := hbytes _ _ _ hplaces k (by rw [laneBytes_storeData hi']; exact hk) fun y hy => by
        obtain ⟨j, hj, rfl⟩ := List.mem_map.mp hy
        have hj' : j ∈ g.list p.cur.lanes := hsplit ▸ List.mem_append_right _ (List.mem_cons_of_mem _ hj)
        rw [laneBytes_storeData hj']
        refine hlater j ((g.mem_list _ j).mp hj') ?_
        have hsorted : (g.list p.cur.lanes).Pairwise (· < ·) := List.pairwise_lt_range.filter _
        rw [hsplit, List.pairwise_append, List.pairwise_cons] at hsorted
        exact hsorted.2.1.1 j hj
      rw [laneBytes_storeData hi'] at hb
      refine congrArg (fun b => [b]) (Eq.trans ?_ hb)
      cases (pl i).loc <;> rfl
    · have h := hfrom.2.storesOnly
      exact ⟨h.teams, h.porters, h.reserved, h.lines, h.bytes⟩
  · obtain ⟨sts, n, hrun, hmap, hall⟩ := storeLanes_queued (c := s.ctxOf p.gid g) (p := p) (g := g) (sh := storeShape raw f) (data := storeData s p g f d) (all := lanePlaces p g pl) hl s.sched.nextId hwait
    refine ⟨_, sts, exec_st hs hw hc (fun i hi => (hok' i hi).1) hrun hg, hmoves _ rfl, rfl, hmap.trans ?_, hall⟩
    rw [lanePlaces, List.map_map]
    refine List.map_congr_left fun i hi => ?_
    rw [Function.comp, laneBytes_storeData hi]
    rfl
end Sys2Proof.Machine
end

section
/-! SUPPORT. Atomics of one lane (R227 to R230). -/
namespace Sys2Proof.Machine

theorem natOfBytes_zeros (n : Nat) : natOfBytes (List.replicate n 0) = 0 := by
  induction n with
  | zero => rfl
  | succ n ih =>
    rw [List.replicate_succ]
    exact (congrArg (fun x => (0 : Byte).toNat + 256 * x) ih).trans rfl
theorem natOfBytes_append_zeros (bs : List Byte) (n : Nat) : natOfBytes (bs ++ List.replicate n 0) = natOfBytes bs := by
  induction bs with
  | nil => exact natOfBytes_zeros n
  | cons b bs ih => rw [List.cons_append, natOfBytes, natOfBytes, ih]
theorem State.length_bytesAt (s : State) (core : Option Nat) (priv : Bool) (l : Loc) (n : Nat) : (s.bytesAt core priv l n).length = n := by
  rw [State.bytesAt_eq, List.length_map, List.length_range]
/-- At most eight bytes, read as a number of 64 bits. -/
theorem dwordOfBytes_padded {bs : List Byte} (h : bs.length ≤ 8) : dwordOfBytes (bs ++ List.replicate 8 0) = BitVec.ofNat 64 (natOfBytes bs) := by
  rw [dwordOfBytes, List.take_append, List.take_of_length_le h, List.take_replicate, natOfBytes_append_zeros]

theorem atomSize_cases (op : AtomOp) : atomSize op = 4 ∨ atomSize op = 8 := by cases op <;> decide

theorem shuffle_one {α : Type} (tick : Nat) (x : α) : shuffle tick 1 [x] = [x] := by simp [shuffle, Nat.mod_one]

theorem range_map_getD {α : Type} (l : List α) (d : α) : (List.range l.length).map (fun k => l.getD k d) = l :=
  List.ext_getElem (by simp) fun i h1 h2 => by simp [List.getElem?_eq_getElem h2]

/-- The bytes of a range just written. -/
theorem State.bytesAt_putTagged {s : State} (hok : s.cellsOk = true) (hch : s.dev.changes = []) (tag : Nat) (core : Option Nat) (priv : Bool) {l : Loc} {bs : List Byte} (hl : s.writable l bs.length) :
    (s.putTagged tag core priv l bs).bytesAt core priv l bs.length = bs := by
  rw [State.bytesAt_eq]
  refine (List.map_congr_left fun k hk => ?_).trans (range_map_getD bs 0)
  exact State.byteAt_putTagged hok hch tag core priv hl (List.mem_range.mp hk)

/-- The place that the checks of a raw write accept can be written. -/
theorem State.writable_of_check {s : State} {c : Ctx} {n : Nat} {ea : DWord} {q : Place} (hn : 0 < n) (h : s.check c (.raw n) true ea = .ok q) : s.writable q.loc n ∧ q.n = n := by
  rcases State.check_ok h with ⟨t, o, hloc, hq, htm, htag⟩ | ⟨pa, hloc, hq⟩
  · have hqn : q.n = n := (Option.some.inj hq).symm
    rw [hqn] at htm htag
    rw [hloc]
    exact ⟨⟨htm hn, htag rfl⟩, hqn⟩
  · rw [hloc]
    exact ⟨trivial, (Option.some.inj hq).symm⟩

theorem State.withRoom_of_not_certified {s : State} {g : Group} (h : s.certified g = false) (p : Packet) (k : Bool → Group → State → State) : s.withRoom p g k = k false g s := by
  rw [State.withRoom, h]
  rfl

section
variable {s : State} {p : Packet} {g : Group} {op : AtomOp} {d a : Reg} {off : BitVec 9} {i : Nat} {pl : Place}

/-- The value in memory before an atomic. -/
def atomBefore (s : State) (g : Group) (op : AtomOp) (pl : Place) : DWord := BitVec.ofNat 64 (natOfBytes (s.bytesAt (some g.core) (attrPrivate pl.attr && stagedPlace pl.loc) pl.loc (atomSize op)))
/-- The registers that an atomic reads in a lane. -/
def atomArgsOf (s : State) (g : Group) (op : AtomOp) (d : Reg) (i : Nat) : List Word := (regsOf (atomArgs op) d).map (g.read s.cycle i)
/-- The memory after an atomic. -/
def atomAfter (s t : State) (g : Group) (op : AtomOp) (d : Reg) (i : Nat) (pl : Place) : State :=
  t.putTagged s.dev.qepoch (some g.core) (attrPrivate pl.attr && stagedPlace pl.loc) pl.loc (bytesOfNat (atomSize op) (atomResult op (atomBefore s g op pl) (atomArgsOf s g op d i)).toNat)

/-- The entry of an atomic of one lane. -/
def atomEntry (s : State) (p : Packet) (g : Group) (op : AtomOp) (d a : Reg) (off : BitVec 9) (i : Nat) (pl : Place) (due : Nat) : SbEntry :=
  { id := s.sched.nextId, pc := p.cur.pc, lanes := p.cur.lanes, regs := regsOf (if atomSize op = 8 then 2 else 1) d, vals := wordWrites d [(i, atomReturn op (atomBefore s g op pl))], due := due, kind := .ready,
    op := .atom op, rows := [rowAt i pl (atomArgsOf s g op d i) true], asked := [(i, g.ea s.cycle i a off (atomSize op))], epoch := s.dev.qepoch }

theorem done_rowAt (lane : Nat) (q : Place) (args : List Word) (b : Bool) : (rowAt lane q args b).done = b := rfl

/-- The one lane's step (R227). -/
theorem State.atomAll_one {t : State} (hw : t.mustWait (s.ctxOf p.gid g) pl.tile = false) (hf : t.lineFails (some g.core) pl.loc (atomSize op) = false)
    (hm : t.bytesAt (some g.core) (attrPrivate pl.attr && stagedPlace pl.loc) pl.loc (atomSize op) = s.bytesAt (some g.core) (attrPrivate pl.attr && stagedPlace pl.loc) pl.loc (atomSize op)) :
    t.atomAll (s.ctxOf p.gid g) op [rowAt i pl (atomArgsOf s g op d i) false]
      = ([rowAt i pl (atomArgsOf s g op d i) true], [(i, atomReturn op (atomBefore s g op pl))], [], atomAfter s t g op d i pl) := by
  have hcore : (s.ctxOf p.gid g).core = some g.core := rfl
  have htag : (s.ctxOf p.gid g).tag = s.dev.qepoch := rfl
  have hval : dwordOfBytes (t.bytesAt (some g.core) (attrPrivate pl.attr && stagedPlace pl.loc) pl.loc (atomSize op) ++ List.replicate 8 0) = atomBefore s g op pl := by
    rw [dwordOfBytes_padded (by rw [State.length_bytesAt]; rcases atomSize_cases op with h | h <;> omega), hm, atomBefore]
  simp only [State.atomAll, State.atomStep, rowAt, hw, hf, hcore, htag, hval, Bool.false_and, Bool.or_self, Bool.false_eq_true, if_false, atomAfter]

theorem exec_atom {ins : Instr} {ordered : Bool} (hi : exec ins s = atomInstr s ordered op d a off) (hs : s.issuing = some (p, g)) (hwait : g.waitOf p.cur.pc p.cur.place = none) (hc : s.certified g = false)
    (haw : s.atomsWait p.gid g = false) (hlist : g.list p.cur.lanes = [i]) (hok : s.check (s.ctxOf p.gid g) (.raw (atomSize op)) true (g.ea s.cycle i a off (atomSize op)) = .ok pl)
    (hw : s.mustWait (s.ctxOf p.gid g) pl.tile = false) (hf : s.lineFails (some g.core) pl.loc (atomSize op) = false) :
    ∃ due, s.cycle < due ∧ exec ins s = .next ((atomAfter s (s.finish p g).fresh.2 g op d i pl).addEntry p.gid (atomEntry s p g op d a off i pl due)) := by
  have hok' : ∀ j ∈ g.list p.cur.lanes, s.check (s.ctxOf p.gid g) (.raw (atomSize op)) true (g.ea s.cycle j a off (atomSize op)) = .ok pl := by
    rw [hlist]
    intro j hj
    rw [List.mem_singleton.mp hj, hok]
  have hall := State.atomAll_one (s := s) (p := p) (g := g) (op := op) (d := d) (i := i) (pl := pl) (t := (s.finish p g).fresh.2) hw hf rfl
  have hplaces := placesOf_accsOf_ok (ea := fun j => g.ea s.cycle j a off (atomSize op)) hok'
  have hrem := remoteLanes_accsOf_ok (ea := fun j => g.ea s.cycle j a off (atomSize op)) hok'
  have hcert : ∀ e : SbEntry, ((atomAfter s (s.finish p g).fresh.2 g op d i pl).addEntry p.gid e).certified g = false := fun e => by
    have hg : (atomAfter s (s.finish p g).fresh.2 g op d i pl).group? p.gid = some (g.moveTo p.cur.lanes (succPc p.cur.pc)) := ((bytesOnly_putTagged ..).group? _).trans (State.group?_finish ..)
    rw [State.addEntry, State.modGroup_eq hg]
    exact ((bytesOnly_putTagged ..).certified g).trans hc
  refine ⟨(atomAfter s (s.finish p g).fresh.2 g op d i pl).cycle + max 1 ((atomAfter s (s.finish p g).fresh.2 g op d i pl).accessLatency g pl.loc), ?_, hi.trans ((State.issue_eq hs _).trans (congrArg _ ?_))⟩
  · have hcycle : (atomAfter s (s.finish p g).fresh.2 g op d i pl).cycle = s.cycle := (bytesOnly_putTagged ..).cycle
    omega
  · dsimp only
    rw [State.laneAccs_eq, State.checkAll_go hwait hrem [] _ (by rw [causesOf_accsOf_ok hok']; rfl)]
    dsimp only
    rw [hplaces, hrem, hlist]
    rw [State.withRoom_of_not_certified hc]
    refine (ite_self _).trans ?_
    have hrows : atomRows s.cycle g op d (([i]).map fun j => (j, pl)) = [rowAt i pl (atomArgsOf s g op d i) false] := rfl
    have haw' : (s.finish p g).fresh.2.atomsWait p.gid g = false := haw
    have hasks : ∀ t : State, t.sendAsks p.gid (s.ctxOf p.gid g) op [] = ([], t) := fun _ => rfl
    have hdev : (atomAfter s (s.finish p g).fresh.2 g op d i pl).dev = s.dev := (bytesOnly_putTagged ..).dev
    rw [hrows, List.length_singleton, shuffle_one, ite_self, List.map_nil, hasks]
    simp only [Bool.false_eq_true, if_false, haw', hall, List.isEmpty_nil, Bool.not_true, List.any_cons, List.any_nil, Bool.or_self, done_rowAt, List.map_nil, deferredOf_nil, State.deferAll_nil, List.foldl_cons, List.foldl_nil]
    rw [hcert, Bool.and_false]
    simp only [Bool.false_eq_true, if_false]
    rfl

/-- What an atomic of one lane leaves (R227). -/
theorem atom_done {ins : Instr} {ordered : Bool} (hi : exec ins s = atomInstr s ordered op d a off) (hs : s.issuing = some (p, g)) (hwait : g.waitOf p.cur.pc p.cur.place = none) (hc : s.certified g = false)
    (haw : s.atomsWait p.gid g = false) (hcells : s.cellsOk = true) (hch : s.dev.changes = []) (hlist : g.list p.cur.lanes = [i])
    (hok : s.check (s.ctxOf p.gid g) (.raw (atomSize op)) true (g.ea s.cycle i a off (atomSize op)) = .ok pl) (hw : s.mustWait (s.ctxOf p.gid g) pl.tile = false) (hf : s.lineFails (some g.core) pl.loc (atomSize op) = false) :
    ∃ t h e, exec ins s = .next t ∧ t.group? p.gid = some h ∧ h = { g with lanes := h.lanes, sb := g.sb ++ [e] } ∧ Moved g h p.cur.lanes (succPc p.cur.pc) ∧ (∀ k, k ≠ p.gid → t.group? k = s.group? k)
      ∧ t = { s with groups := t.groups, teams := t.teams, porters := t.porters, mem := { s.mem with hbm := t.mem.hbm, l1dirty := t.mem.l1dirty, checks := t.mem.checks, badWords := t.mem.badWords, l1bad := t.mem.l1bad }, sched := { s.sched with nextId := t.sched.nextId } }
      ∧ StoresOnly s t (fun x k => x = pl.loc ∧ k = atomSize op) ∧ e.kind = .ready ∧ s.cycle < e.due ∧ (∀ k w, (atomReturn op (atomBefore s g op pl))[k]? = some w → (i, d.plus k, w) ∈ e.vals)
      ∧ t.bytesAt (some g.core) (attrPrivate pl.attr && stagedPlace pl.loc) pl.loc (atomSize op) = bytesOfNat (atomSize op) (atomResult op (atomBefore s g op pl) (atomArgsOf s g op d i)).toNat := by
  obtain ⟨due, hdue, he⟩ := exec_atom hi hs hwait hc haw hlist hok hw hf
  have hsize : 0 < atomSize op := by rcases atomSize_cases op with h | h <;> omega
  have hlen := length_bytesOfNat (atomSize op) (atomResult op (atomBefore s g op pl) (atomArgsOf s g op d i)).toNat
  have hput := stores_putTagged (s := (s.finish p g).fresh.2) hcells hch s.dev.qepoch (some g.core) (attrPrivate pl.attr && stagedPlace pl.loc) pl.loc
    (bs := bytesOfNat (atomSize op) (atomResult op (atomBefore s g op pl) (atomArgsOf s g op d i)).toNat) (List.ne_nil_of_length_pos (by rw [hlen]; exact hsize))
  rw [hlen] at hput
  have hfrom := (StoresFrom.refl (s := s.finish p g) (P := fun x k => x = pl.loc ∧ k = atomSize op) hcells).fresh.stores hput
  have hg : (atomAfter s (s.finish p g).fresh.2 g op d i pl).group? p.gid = some (g.moveTo p.cur.lanes (succPc p.cur.pc)) := (hfrom.group? _).trans (State.group?_finish ..)
  have hwrit : (s.finish p g).fresh.2.writable pl.loc (bytesOfNat (atomSize op) (atomResult op (atomBefore s g op pl) (atomArgsOf s g op d i)).toNat).length := by
    rw [hlen]
    exact (State.writable_of_check hsize hok).1
  have hbytes := State.bytesAt_putTagged (s := (s.finish p g).fresh.2) hcells hch s.dev.qepoch (some g.core) (attrPrivate pl.attr && stagedPlace pl.loc) hwrit
  rw [hlen] at hbytes
  rw [State.addEntry, State.modGroup_eq hg] at he
  refine ⟨_, g.withEntry p.cur.lanes (succPc p.cur.pc) _, _, he, State.group?_setGroup_same .., g.withEntry_eq .., g.moved_withEntry .., fun k hk => ?_, hfrom.frame_groups _, ?_, rfl, hdue, fun k w hk => ?_, hbytes⟩
  · exact (State.group?_setGroup_other _ _ _ _ hk).trans ((hfrom.group? k).trans (State.group?_finish_other _ _ _ _ hk))
  · have h := hfrom.2.storesOnly
    exact ⟨h.teams, h.porters, h.reserved, h.lines, h.bytes⟩
  · exact mem_wordWrites List.mem_cons_self hk
end

/-- Settles O41: every atomic is the one lane's step with its operation, ordered or not. -/
theorem atomicResults : Obligations.AtomicResults := by
  intro s p g hs hwait hc haw hcells hch i hlist d a off pl
  have h : ∀ (ins : Instr) (ordered : Bool) (op : AtomOp), exec ins s = atomInstr s ordered op d a off → _ → _ → _ → _ := fun ins ordered op hi hok hw hf => atom_done hi hs hwait hc haw hcells hch hlist (pl := pl) hok hw hf
  exact ⟨h _ true _ rfl, h _ true _ rfl, h _ true _ rfl, h _ true _ rfl, h _ true _ rfl, h _ true _ rfl, h _ true _ rfl, h _ true _ rfl, h _ true _ rfl, h _ true _ rfl, h _ true _ rfl, h _ true _ rfl, h _ true _ rfl,
    h _ true _ rfl, h _ true _ rfl, h _ true _ rfl, h _ true _ rfl, h _ true _ rfl, h _ true _ rfl,
    h _ false _ rfl, h _ false _ rfl, h _ false _ rfl, h _ false _ rfl, h _ false _ rfl, h _ false _ rfl, h _ false _ rfl, h _ false _ rfl, h _ false _ rfl, h _ false _ rfl, h _ false _ rfl, h _ false _ rfl, h _ false _ rfl,
    h _ false _ rfl, h _ false _ rfl, h _ false _ rfl, h _ false _ rfl, h _ false _ rfl, h _ false _ rfl⟩
end Sys2Proof.Machine
end

section
/-! SUPPORT. The instructions that start copies (R231, R234, R236). -/
namespace Sys2Proof.Machine

/-- Copies put in flight one after the other: they join the list in their order, and only numbers are given beside them. -/
theorem State.foldl_addCopy {α β : Type} (mk : State → α → Copy) {F : Copy → β} {G : α → β} {P : Copy → Prop} {now : Nat} (xs : List α) (hF : ∀ u : State, u.cycle = now → ∀ x k, F { mk u x with order := k } = G x)
    (hP : ∀ u, ∀ x ∈ xs, ∀ k, P { mk u x with order := k }) {s : State} (hs : s.cycle = now) :
    ∃ cs n, xs.foldl (fun t x => t.addCopy (mk t x)) s = { s with eng := { s.eng with copies := s.eng.copies ++ cs }, sched := { s.sched with nextId := n } }
      ∧ cs.map (fun x => F x.2) = xs.map G ∧ ∀ x ∈ cs, P x.2 := by
  induction xs generalizing s with
  | nil => exact ⟨[], s.sched.nextId, by rw [List.append_nil]; rfl, rfl, fun x hx => by cases hx⟩
  | cons x xs ih =>
    obtain ⟨cs, n, hrun, hmap, hall⟩ := ih (fun u y hy => hP u y (List.mem_cons_of_mem _ hy)) (s := s.addCopy (mk s x)) hs
    refine ⟨(s.sched.nextId, { mk s x with order := s.sched.nextId }) :: cs, n, ?_, ?_, ?_⟩
    · rw [List.foldl_cons, hrun]
      simp [State.addCopy, State.fresh]
    · rw [List.map_cons, List.map_cons, hmap, hF s hs]
    · intro y hy
      rcases List.mem_cons.mp hy with rfl | hy
      · exact hP s x List.mem_cons_self _
      · exact hall y hy

/-- Lanes that each have a place have their places. -/
theorem exists_places {is : List Nat} {out : Nat → Checked} (h : ∀ i ∈ is, ∃ q, out i = .ok q) : ∃ pl : Nat → Place, ∀ i ∈ is, out i = .ok (pl i) := by
  have : Nonempty Place := ⟨{ ea := 0, loc := .phys 0, attr := 0, tile := none, n := 0 }⟩
  choose! pl hpl using h
  exact ⟨pl, hpl⟩

/-- What an instruction that moves its lanes on and puts copies in flight leaves (R231). -/
theorem exec_cpAsync {s : State} {p : Packet} {g : Group} (hs : s.issuing = some (p, g)) (hw : g.waitOf p.cur.pc p.cur.place = none) {inward : Bool} {d a : Reg} {z : CopySize} {off : BitVec 9} {pl pl' : Nat → Place}
    (hok : ∀ i ∈ g.list p.cur.lanes, s.check (s.ctxOf p.gid g) (.raw (copyBytes z)) (!inward) (g.ea s.cycle i a off (copyBytes z)) = .ok (pl i))
    (hok' : ∀ i ∈ g.list p.cur.lanes, s.check (s.ctxOf p.gid g) (.raw (copyBytes z)) inward (scratchEa (g.read s.cycle i d).toNat) = .ok (pl' i))
    {t : State} (ht : (accsOf (g.list p.cur.lanes) (fun i => g.ea s.cycle i a off (copyBytes z)) fun i => s.check (s.ctxOf p.gid g) (.raw (copyBytes z)) (!inward) (g.ea s.cycle i a off (copyBytes z))).foldl (fun t x =>
      t.addCopy (t.newCopy p g x.lane (.batch none) none (if inward then x.ea else scratchEa (g.read t.cycle x.lane d).toNat) [if inward then scratchEa (g.read t.cycle x.lane d).toNat else x.ea] (copyBytes z) 0 0 0)) s = t)
    (hg : t.group? p.gid = some g) :
    exec (if inward then .cpAsyncIn d a z off else .cpAsyncOut d a z off) s = .next (t.finish p g) := by
  have hex : exec (if inward then .cpAsyncIn d a z off else .cpAsyncOut d a z off) s = copyInstr s inward d a z off := by cases inward <;> rfl
  refine hex.trans ((State.issue_eq hs _).trans (congrArg _ ?_))
  have haccs : ((g.list p.cur.lanes).flatMap fun i => bothEnds i (g.ea s.cycle i a off (copyBytes z)) (scratchEa (g.read s.cycle i d).toNat)
      (s.check (s.ctxOf p.gid g) (.raw (copyBytes z)) (!inward) (g.ea s.cycle i a off (copyBytes z))) (s.check (s.ctxOf p.gid g) (.raw (copyBytes z)) inward (scratchEa (g.read s.cycle i d).toNat)))
      = accsOf (g.list p.cur.lanes) (fun i => g.ea s.cycle i a off (copyBytes z)) fun i => s.check (s.ctxOf p.gid g) (.raw (copyBytes z)) (!inward) (g.ea s.cycle i a off (copyBytes z)) := by
    rw [accsOf, List.map_eq_flatMap]
    refine List.flatMap_congr fun i hi => ?_
    rw [hok' i hi]
    rfl
  dsimp only
  rw [haccs, State.checkAll_go hw (remoteLanes_accsOf_ok hok) [] _ (by rw [causesOf_accsOf_ok hok]; rfl)]
  dsimp only
  exact (congrArg (fun u : State => u.modGroup p.gid fun h => { h with waits := g.waits, answers := g.answers, lanes := (h.moveTo p.cur.lanes (succPc p.cur.pc)).lanes }) ht).trans ((State.modGroup_eq hg _).trans rfl)

/-- An instruction that starts an operation on a token for each lane: it traps while the token is BUSY, and else puts the lanes' copies in flight (R38). -/
theorem tokenInstr_starts {s : State} {p : Packet} {g : Group} {ins : Instr} {k : Token} {read : Packet → Group → Nat → Except (Cause × DWord) Copy} {x : Nat → Copy} (hs : s.issuing = some (p, g))
    (hi : exec ins s = tokenInstr s k read) (hread : ∀ i ∈ g.list p.cur.lanes, read p g i = .ok (x i)) :
    ((g.token k).st = .busy → exec ins s = .next (s.trapAt p.gid p.cur .tokenBusy p.cur.lanes 0))
    ∧ ((g.token k).st ≠ .busy → exec ins s = .next (((g.list p.cur.lanes).map x).foldl State.addCopy (s.finish p (g.startToken k (g.list p.cur.lanes).length)))) := by
  have hrun : exec ins s = .next (if (g.token k).st == .busy then s.trapAt p.gid p.cur .tokenBusy p.cur.lanes 0
      else ((g.list p.cur.lanes).map x).foldl State.addCopy (s.finish p (g.startToken k (g.list p.cur.lanes).length))) := by
    refine hi.trans ((State.issue_eq hs _).trans (congrArg _ ?_))
    dsimp only
    rw [List.filterMap_map, List.filterMap_eq_nil_iff.mpr fun i hi => by simp [hread i hi], List.filterMap_map, filterMap_eq_map_of (v := x) fun i hi => by simp [hread i hi], List.length_map]
    rfl
  refine ⟨fun hb => hrun.trans ?_, fun hb => hrun.trans ?_⟩
  · simp [hb]
  · simp [hb]

/-- Settles O43: the lanes' copies join the list in ascending order, and beside it the group and the numbering alone change. -/
theorem copyInstructions : Obligations.CopyInstructions := by
  refine ⟨fun s p g hs hw inward d a z off => ?_, fun s p g hs d a k b => ?_⟩
  · dsimp only
    intro hok
    obtain ⟨-, hg⟩ := (State.issuing_iff s p g).mp hs
    obtain ⟨pl, hpl⟩ := exists_places (out := fun i => s.check (s.ctxOf p.gid g) (.raw (copyBytes z)) (!inward) (g.ea s.cycle i a off (copyBytes z))) fun i hi =>
      (hok i ((g.mem_list p.cur.lanes i).mp hi).1 ((g.mem_list _ _).mp hi).2).1
    obtain ⟨pl', hpl'⟩ := exists_places (out := fun i => s.check (s.ctxOf p.gid g) (.raw (copyBytes z)) inward (scratchEa (g.read s.cycle i d).toNat)) fun i hi =>
      (hok i ((g.mem_list p.cur.lanes i).mp hi).1 ((g.mem_list _ _).mp hi).2).2
    obtain ⟨cs, n, hrun, hmap, hall⟩ := State.foldl_addCopy (fun (t : State) (x : LaneAcc) => t.newCopy p g x.lane (.batch none) none (if inward then x.ea else scratchEa (g.read t.cycle x.lane d).toNat)
        [if inward then scratchEa (g.read t.cycle x.lane d).toNat else x.ea] (copyBytes z) 0 0 0) (F := fun c => (c.lane, c.src, c.dsts, c.len))
      (G := fun x : LaneAcc => (x.lane, (if inward then x.ea else scratchEa (g.read s.cycle x.lane d).toNat), [if inward then scratchEa (g.read s.cycle x.lane d).toNat else x.ea], copyBytes z))
      (P := fun c => c.kind = .batch none ∧ c.gid = p.gid ∧ c.token = none)
      (accsOf (g.list p.cur.lanes) (fun i => g.ea s.cycle i a off (copyBytes z)) fun i => s.check (s.ctxOf p.gid g) (.raw (copyBytes z)) (!inward) (g.ea s.cycle i a off (copyBytes z)))
      (fun u hu _ _ => by rw [← hu]; rfl) (fun _ _ _ _ => ⟨rfl, rfl, rfl⟩) (s := s) rfl
    refine ⟨_, _, cs, exec_cpAsync hs hw hpl hpl' hrun hg, State.group?_finish .., rfl, g.moved_moveTo .., fun k hk => State.group?_finish_other _ _ _ _ hk, rfl, hmap.trans ?_, hall⟩
    rw [accsOf, List.map_map]
    rfl
  · have hg : ∀ n, (s.finish p (g.startToken k n)).group? p.gid = some ((g.startToken k n).moveTo p.cur.lanes (succPc p.cur.pc)) := fun n => State.group?_finish ..
    have starts : ∀ (ins : Instr) (read : Packet → Group → Nat → Except (Cause × DWord) Copy) (x : Nat → Copy), exec ins s = tokenInstr s k read → (∀ i ∈ g.list p.cur.lanes, read p g i = .ok (x i)) →
        (∀ i, (x i).token = some k ∧ (x i).gid = p.gid ∧ (x i).lane = i) →
        ((g.token k).st = .busy → exec ins s = .next (s.trapAt p.gid p.cur .tokenBusy p.cur.lanes 0))
        ∧ ((g.token k).st ≠ .busy → ∃ t h cs, exec ins s = .next t ∧ t.group? p.gid = some h ∧ Moved g h p.cur.lanes (succPc p.cur.pc)
            ∧ h = { g with lanes := h.lanes, tokens := g.tokens.set k { st := .busy, left := (g.list p.cur.lanes).length, bad := false } }
            ∧ (∀ j, j ≠ p.gid → t.group? j = s.group? j) ∧ t = { s with groups := t.groups, eng := { s.eng with copies := s.eng.copies ++ cs }, sched := { s.sched with nextId := t.sched.nextId } }
            ∧ cs.map (fun x => (x.2.lane, x.2.kind, x.2.src, x.2.dsts, x.2.len)) = (g.list p.cur.lanes).map (fun i => (i, (x i).kind, (x i).src, (x i).dsts, (x i).len))
            ∧ ∀ x ∈ cs, x.2.token = some k ∧ x.2.gid = p.gid) := fun ins read x hi hread hx => by
      obtain ⟨hbusy, hidle⟩ := tokenInstr_starts hs hi hread
      refine ⟨hbusy, fun hb => ?_⟩
      obtain ⟨cs, n, hrun, hmap, hall⟩ := State.foldl_addCopy (fun _ (c : Copy) => c) (F := fun c => (c.lane, c.kind, c.src, c.dsts, c.len)) (G := fun c => (c.lane, c.kind, c.src, c.dsts, c.len))
        (P := fun c => c.token = some k ∧ c.gid = p.gid) ((g.list p.cur.lanes).map x) (fun _ _ _ _ => rfl)
        (fun u c hc j => by
          obtain ⟨i, -, rfl⟩ := List.mem_map.mp hc
          exact ⟨(hx i).1, (hx i).2.1⟩) (s := s.finish p (g.startToken k (g.list p.cur.lanes).length)) rfl
      obtain ⟨hcount, hacting, hothers⟩ := (g.startToken k (g.list p.cur.lanes).length).moved_moveTo p.cur.lanes (succPc p.cur.pc)
      refine ⟨_, _, cs, (hidle hb).trans (congrArg _ hrun), hg _, ⟨hcount, hacting, hothers⟩, rfl, fun j hj => State.group?_finish_other _ _ _ _ hj, rfl, hmap.trans ?_, hall⟩
      rw [List.map_map]
      refine List.map_congr_left fun i _ => ?_
      rw [Function.comp, (hx i).2.2]
    have hmem : ∀ i, i ∈ g.list p.cur.lanes → p.cur.lanes.getLsbD i = true ∧ i < g.width := fun i => (g.mem_list _ i).mp
    have mcast : ∀ (ins : Instr) (ordered : Bool), exec ins s = mcastInstr s ordered d a k → (∀ i, (p.cur.lanes.getLsbD i = true ∧ i < g.width) → ∃ h, s.descriptor (s.ctxOf p.gid g) (g.readPair s.cycle i a) 8 0x18 = .ok h
          ∧ s.descriptor (s.ctxOf p.gid g) (g.readPair s.cycle i a) 8 (0x18 + 8 * fieldAt h 0xC 1) = .ok (b i) ∧ fieldAt (b i) 0xC 1 = fieldAt h 0xC 1 ∧ mcastOk (b i) (g.read s.cycle i d) = true) → _ := fun ins ordered hi hok =>
      starts ins _ (fun i => s.newCopy p g i (.mcast ordered (g.read s.cycle i d)) (some k) (BitVec.ofNat 64 (fieldAt (b i) 0 8))
        ((List.range (fieldAt (b i) 0xC 1)).map fun j => BitVec.ofNat 64 (fieldAt (b i) (0x18 + 8 * j) 8)) (fieldAt (b i) 8 4) 0 0 (g.readPair s.cycle i a)) hi (fun i hmi => by
        obtain ⟨h, hh, hb, hkeep, hgood⟩ := hok i (hmem i hmi)
        have hcount : ¬ 32 < fieldAt h 0xC 1 := by
          simp only [mcastOk, Bool.and_eq_true, decide_eq_true_eq] at hgood
          omega
        simp only [hh, hcount, if_false, hb, hgood, Bool.not_true, Bool.false_eq_true]) fun i => ⟨rfl, rfl, rfl⟩
    refine ⟨fun hok => ?_, mcast _ true rfl, mcast _ false rfl⟩
    refine starts _ _ (fun i => s.newCopy p g i (.rows (g.read s.cycle i d)) (some k) (BitVec.ofNat 64 (fieldAt (b i) 0 8)) [scratchEa (fieldAt (b i) 0x10 4)] (fieldAt (b i) 0xC 2) (fieldAt (b i) 8 4) (fieldAt (b i) 0x14 4)
      (g.readPair s.cycle i a)) rfl (fun i hmi => ?_) fun i => ⟨rfl, rfl, rfl⟩
    obtain ⟨hb, hgood⟩ := hok i (hmem i hmi)
    simp only [hb, hgood, Bool.not_true, Bool.false_eq_true, if_false]
end Sys2Proof.Machine
end

section
/-! SUPPORT. The completion of copies (R232, R235, R237): a memory that is not in its canonical form refutes the frame of a gather. -/
namespace Sys2Proof.Machine

/-- A gather without rows whose result word lies at byte 24 of the window of team 0. -/
def emptyGather : Copy :=
  { kind := .rows 0, gid := 0, team := 0, launch := 0, asid := 0, lane := 0, order := 0, token := some 2, word := 0, src := 0, dsts := [0], len := 4, spitch := 0, dpitch := 0, desc := 0, phase := 0,
    awaiting := [], answers := [], failed := none, tile := none, epoch := 0 }

/-- A machine in which the cells of a window do not rise: the cell of byte 24 hides the one of byte 5 that stands behind it. -/
def unsortedWindow : State :=
  { State.reset.placed 0 with
    teams := [(0, { placedTeam with window := [(24, 1), (5, 2)] })]
    launches := [(0, { placedLaunch with kern := { placedKernel with scratch := 4096 } })]
    eng := { State.reset.eng with copies := [(0, emptyGather)] } }

/-- Byte 5 of the window of team 0 after a step. -/
def byteFive (o : Host.Outcome State Fault Refusal) : List Byte := match o with
  | .next t => t.bytesAt none false (.win 0 5) 1
  | _ => []

/-- COUNT, four zero bytes, drops the cell of byte 24, and byte 5 comes to light. -/
theorem byteFive_emptyGather : byteFive (exec (.rowGatherComplete 0) unsortedWindow) = [2] := by decide +kernel
theorem byteFive_before : unsortedWindow.bytesAt none false (.win 0 5) 1 = [0] := by decide +kernel

/-- Refutes O44: its last clause on gathers does not ask that the memory have its canonical form. In a window whose cells do not rise, writing COUNT over byte 24 uncovers a cell of byte 5, so a byte outside the result word
reads otherwise than before. -/
theorem not_copyCompletions : ¬ Obligations.CopyCompletions := by
  intro h
  obtain ⟨-, hrows, -⟩ := h unsortedWindow 0 emptyGather rfl (by decide +kernel) rfl rfl rfl rfl
  obtain ⟨-, hall⟩ := hrows 0 2 (newGroup placedKernel 0 0 0 0 0 0) rfl rfl (by decide +kernel) rfl (by simp [Copy.sources, bitsOf]) rfl
  obtain ⟨t, _, ht, -, -, -, hbytes⟩ := hall (fun _ => unsortedWindow) (fun _ => []) (fun _ => []) (fun _ => []) rfl (by simp [Copy.sources, bitsOf]) 0 0 (by decide +kernel) (by decide +kernel) (by decide +kernel)
  have hbefore := hbytes none false (.win 0 5) (by simp [Loc.holds])
  have hafter := byteFive_emptyGather
  rw [ht] at hafter
  rw [byteFive_before] at hbefore
  exact absurd (hbefore.symm.trans hafter) (by decide)
end Sys2Proof.Machine
end

section
/-! SUPPORT. The recipe instructions in one lane (R251 to R257). -/
namespace Sys2Proof.Machine

theorem getLsbD_maskOf_singleton (i : Nat) : ∀ j, j < 64 → ((maskOf [i]).getLsbD j = true ↔ j = i) := fun j hj => by
  rw [getLsbD_maskOf, List.mem_singleton]
  exact and_iff_right hj
theorem worst_nil : worst [] = none := rfl
theorem worst_singleton (i : Nat) (c : Cause) (a : DWord) : worst [(i, c, a)] = some (c, maskOf [i], a) := by
  simp [worst, firstCause]

/-! ## The mould of the instructions -/

section
variable {s : State} {p : Packet} {g : Group} (hs : s.issuing = some (p, g)) {i k : Nat} {a : Reg} {attr : Word} (hl : g.list p.cur.lanes = [i]) (ht : s.tileAt (s.ctxOf p.gid g) (g.readPair s.cycle i a) = .ok (k, attr))
  {ins : Instr} {pre : Ctx → Group → Nat → DWord → Option Word → Option (Cause × DWord)} {act : State → Packet → Group → Nat → DWord → Nat → Except (Cause × DWord) State} (he : exec ins s = recipeInstr s a pre act)
include hs hl ht he

theorem recipe_act (hp : pre (s.ctxOf p.gid g) g i (g.readPair s.cycle i a) (some attr) = none) {t : State} (ha : act s p g i (g.readPair s.cycle i a) k = .ok t) :
    exec ins s = .next (t.modGroup p.gid fun h => (h.leaveWait p.cur).moveTo p.cur.lanes (succPc p.cur.pc)) := by
  refine he.trans ((State.issue_eq hs _).trans (congrArg _ ?_))
  simp only [hl, List.map_cons, List.map_nil, ht, List.flatMap_cons, List.flatMap_nil, hp, Option.map_none, Option.toList_none, List.append_nil, worst_nil, List.foldl_cons, List.foldl_nil, ha]
theorem recipe_trap (hp : pre (s.ctxOf p.gid g) g i (g.readPair s.cycle i a) (some attr) = none) {c : Cause} {x : DWord} (ha : act s p g i (g.readPair s.cycle i a) k = .error (c, x)) :
    exec ins s = .next (s.trapAt p.gid p.cur c (maskOf [i]) x) := by
  refine he.trans ((State.issue_eq hs _).trans (congrArg _ ?_))
  simp only [hl, List.map_cons, List.map_nil, ht, List.flatMap_cons, List.flatMap_nil, hp, Option.map_none, Option.toList_none, List.append_nil, worst_nil, List.foldl_cons, List.foldl_nil, ha]
theorem recipe_preTrap {c : Cause} {x : DWord} (hp : pre (s.ctxOf p.gid g) g i (g.readPair s.cycle i a) (some attr) = some (c, x)) :
    exec ins s = .next (s.trapAt p.gid p.cur c (maskOf [i]) x) := by
  refine he.trans ((State.issue_eq hs _).trans (congrArg _ ?_))
  simp only [hl, List.map_cons, List.map_nil, ht, List.flatMap_cons, List.flatMap_nil, hp, Option.map_some, Option.toList_some, List.append_nil, List.nil_append, worst_singleton]
end

/-! ## Pin counts -/

theorem tile_countSources (s : State) (asid : Nat) (up : Bool) {ns : List Nat} (hn : ns.Nodup) (j : Nat) :
    (s.countSources asid up ns).tile j = { s.tile j with pins := if j ∈ ns.map (fun n => asid * 2 ^ 32 + n) then (if up then (s.tile j).pins + 1 else (s.tile j).pins - 1) else (s.tile j).pins } := by
  induction ns generalizing s with
  | nil => rfl
  | cons n ns ih =>
    obtain ⟨hnot, hn⟩ := List.nodup_cons.mp hn
    refine (ih _ hn).trans ?_
    by_cases hj : j = asid * 2 ^ 32 + n
    · have hnotin : j ∉ ns.map fun n => asid * 2 ^ 32 + n := fun h => by
        obtain ⟨m, hm, hjm⟩ := List.mem_map.mp h
        exact hnot (show n = m by omega ▸ hm)
      have hin : j ∈ (n :: ns).map fun n => asid * 2 ^ 32 + n := by rw [hj]; exact List.mem_cons_self
      rw [if_neg hnotin, if_pos hin, hj, State.tile_setTile_same]
    · have hiff : j ∈ (n :: ns).map (fun n => asid * 2 ^ 32 + n) ↔ j ∈ ns.map fun n => asid * 2 ^ 32 + n := by rw [List.map_cons, List.mem_cons, or_iff_right hj]
      rw [State.tile_setTile_other _ _ _ _ hj]
      simp only [hiff]

theorem groups_countSources (s : State) (asid : Nat) (up : Bool) (ns : List Nat) : (s.countSources asid up ns).groups = s.groups := by
  induction ns generalizing s with
  | nil => rfl
  | cons n ns ih => exact ih _

theorem nodup_eraseDups {α : Type} [BEq α] [LawfulBEq α] (l : List α) : l.eraseDups.Nodup := by
  induction hn : l.length using Nat.strong_induction_on generalizing l with
  | _ n ih =>
    cases l with
    | nil => exact List.nodup_nil
    | cons a l =>
      rw [List.eraseDups_cons, List.nodup_cons, List.mem_eraseDups]
      exact ⟨by simp, ih _ (by rw [← hn]; exact Nat.lt_succ_of_le (List.length_filter_le _ _)) _ rfl⟩
theorem nodup_recSources (r : List Byte) : (recSources r).Nodup := nodup_eraseDups _

/-! ## Each instruction -/

/-- The group of a recipe instruction goes on. -/
theorem State.modGroup_goesOn {t : State} {p : Packet} {g : Group} (hw : g.waitOf p.cur.pc p.cur.place = none) (hg : t.group? p.gid = some g) :
    (t.modGroup p.gid fun h => (h.leaveWait p.cur).moveTo p.cur.lanes (succPc p.cur.pc)) = t.finish p g := by
  rw [State.modGroup_eq hg, Group.leaveWait_of_waitOf_none hw]
  rfl

/-- The entry that a delivery leaves. -/
def State.entryOf (s : State) (pc : DWord) (lanes : LaneMask) (regs : List Reg) (vals : List (Nat × Reg × Word)) (lat : Nat) : SbEntry :=
  { id := s.sched.nextId, pc := pc, lanes := lanes, regs := regs, vals := vals, due := s.cycle + lat, kind := .ready, op := .nothing, rows := [], epoch := s.dev.qepoch }
theorem State.post_eq_entryOf {s : State} {gid : Nat} {g : Group} (h : s.group? gid = some g) (pc : DWord) (lanes : LaneMask) (regs : List Reg) (vals : List (Nat × Reg × Word)) (lat : Nat) :
    s.post gid pc lanes regs vals lat = s.fresh.2.setGroup gid { g with sb := g.sb ++ [s.entryOf pc lanes regs vals lat] } := State.post_eq h ..
/-- A group that delivers by the scoreboard goes on. -/
theorem State.post_goesOn {t : State} {p : Packet} {g : Group} (hw : g.waitOf p.cur.pc p.cur.place = none) (hg : t.group? p.gid = some g) (pc : DWord) (lanes : LaneMask) (regs : List Reg) (vals : List (Nat × Reg × Word)) (lat : Nat) :
    ((t.post p.gid pc lanes regs vals lat).modGroup p.gid fun h => (h.leaveWait p.cur).moveTo p.cur.lanes (succPc p.cur.pc))
      = t.fresh.2.setGroup p.gid (g.withEntry p.cur.lanes (succPc p.cur.pc) (t.entryOf pc lanes regs vals lat)) := by
  have hleave : g.leaveWait p.cur = g := Group.leaveWait_of_waitOf_none hw
  rw [State.post_eq_entryOf hg, State.modGroup_eq (State.group?_setGroup_same ..), State.setGroup_setGroup]
  exact congrArg (fun x : Group => t.fresh.2.setGroup p.gid { x with sb := g.sb ++ [t.entryOf pc lanes regs vals lat] }) (congrArg (fun x : Group => x.moveTo p.cur.lanes (succPc p.cur.pc)) hleave)

theorem tile_discardTile (s : State) (k j : Nat) : (s.discardTile k).tile j = s.tile j := by
  unfold State.discardTile
  split <;> rfl
theorem groups_discardTile (s : State) (k : Nat) : (s.discardTile k).groups = s.groups := by
  unfold State.discardTile
  split <;> rfl
/-- A VALID tile with a record is dropped, and no other tile changes (R254). -/
theorem State.dropTile_eq {s : State} {k : Nat} (hv : (s.tile k).st = .valid) (hr : (s.tile k).record ≠ none) : s.dropTile k = (s.discardTile k).setTile k { s.tile k with st := .dropped } := by
  have hsome : (s.tile k).record.isSome = true := Option.isSome_iff_ne_none.mpr hr
  rw [State.dropTile]
  simp [hv, hsome]

theorem State.register_ok {s : State} {asid k : Nat} {ea : DWord} {r : List Byte} (hok : s.recordOk asid r = true) (hb : (s.tile k).st ≠ .building) (hp : ∀ n ∈ recSources r, (s.tile (asid * 2 ^ 32 + n)).pins ≠ 65535) :
    ∃ t, s.register asid k ea r = .ok t ∧ t.groups = s.groups ∧ ∀ j, t.tile j = { s.tile j with
      record := if j = k then (if recKernel r = 0 then none else some r) else (s.tile j).record
      pins := (s.tile j).pins + (if j ∈ ((if recKernel r = 0 then [] else recSources r).filter fun n => n ∉ ((s.tile k).record.map recSources).getD []).map (fun n => asid * 2 ^ 32 + n) then 1 else 0)
        - (if j ∈ ((((s.tile k).record.map recSources).getD []).filter fun n => n ∉ if recKernel r = 0 then [] else recSources r).map (fun n => asid * 2 ^ 32 + n) then 1 else 0) } := by
  have hnew : (if recKernel r = 0 then [] else recSources r).Nodup := by
    split
    · exact List.nodup_nil
    · exact nodup_recSources r
  have hold : (((s.tile k).record.map recSources).getD []).Nodup := by
    cases (s.tile k).record with
    | none => exact List.nodup_nil
    | some q => exact nodup_recSources q
  have hcontains : ∀ xs ys : List Nat, (xs.filter fun n => !ys.contains n) = xs.filter fun n => n ∉ ys := fun xs ys => List.filter_congr fun n _ => by simp
  generalize hN : (if recKernel r = 0 then [] else recSources r) = new at *
  generalize hO : ((s.tile k).record.map recSources).getD [] = old at *
  have hroom : ((new.filter fun n => n ∉ old).any fun n => (s.tile (asid * 2 ^ 32 + n)).pins = 65535) = false := by
    rw [List.any_eq_false]
    intro n hn
    have hin : n ∈ recSources r := by
      have hmem := (List.mem_filter.mp hn).1
      rw [← hN] at hmem
      split at hmem
      · cases hmem
      · exact hmem
    simpa using hp n hin
  have hbf : ((s.tile k).st == .building) = false := beq_eq_false_iff_ne.mpr hb
  refine ⟨((s.setTile k { s.tile k with record := if recKernel r = 0 then none else some r }).countSources asid true (new.filter fun n => n ∉ old)).countSources asid false (old.filter fun n => n ∉ new), ?_, ?_, fun j => ?_⟩
  · rw [State.register]
    simp only [hok, hbf, hN, hO, hcontains, hroom, Bool.not_true, Bool.false_eq_true, if_false]
  · rw [groups_countSources, groups_countSources]
    rfl
  · rw [tile_countSources _ _ _ (hold.filter _), tile_countSources _ _ _ (hnew.filter _)]
    have hset : (s.setTile k { s.tile k with record := if recKernel r = 0 then none else some r }).tile j = { s.tile j with record := if j = k then (if recKernel r = 0 then none else some r) else (s.tile j).record } := by
      by_cases hj : j = k
      · subst hj
        rw [State.tile_setTile_same, if_pos rfl]
      · rw [State.tile_setTile_other _ _ _ _ hj, if_neg hj]
    rw [hset]
    dsimp only
    congr 1
    simp only [Bool.false_eq_true, if_false, if_true]
    split_ifs <;> rfl

/-- Settles O49: each instruction is its lane's act, or the trap of its first failing check. -/
theorem recipeResults : Obligations.RecipeResults := by
  intro s p g hs hw d a i k attr hl
  dsimp only
  intro ht
  obtain ⟨-, hg⟩ := (State.issuing_iff s p g).mp hs
  have goes : ∀ (ins : Instr) (t : State), t.groups = s.groups → exec ins s = .next (t.modGroup p.gid fun h => (h.leaveWait p.cur).moveTo p.cur.lanes (succPc p.cur.pc)) →
      exec ins s = .next (t.finish p g) ∧ ∃ h, (t.finish p g).group? p.gid = some h ∧ h = { g with lanes := h.lanes } ∧ Moved g h p.cur.lanes (succPc p.cur.pc) := fun ins t hgr he =>
    ⟨he.trans (congrArg _ (State.modGroup_goesOn hw ((congrArg (lookup · p.gid) hgr).trans hg))), _, State.group?_finish .., rfl, g.moved_moveTo ..⟩
  have sets : ∀ (ins : Instr) (x : Tile), exec ins s = .next ((s.setTile k x).modGroup p.gid fun h => (h.leaveWait p.cur).moveTo p.cur.lanes (succPc p.cur.pc)) →
      ∃ t, exec ins s = .next t ∧ (∃ h, t.group? p.gid = some h ∧ h = { g with lanes := h.lanes } ∧ Moved g h p.cur.lanes (succPc p.cur.pc)) ∧ t.tile k = x ∧ ∀ j, j ≠ k → t.tile j = s.tile j := fun ins x he => by
    obtain ⟨he, hm⟩ := goes ins (s.setTile k x) rfl he
    exact ⟨_, he, hm, State.tile_setTile_same .., fun j hj => State.tile_setTile_other _ _ _ _ hj⟩
  have hrec : ∀ r, s.descriptor (s.ctxOf p.gid g) (scratchEa (g.read s.cycle i d).toNat) 32 32 = .ok r → s.recordAt (s.ctxOf p.gid g) g d i = .ok r := fun r hr => by simp only [State.recordAt, hr]
  refine ⟨fun r hr hok hb hp => ?_, fun r hr => ⟨fun hok => ⟨_, getLsbD_maskOf_singleton i, ?_⟩, fun hok hb => ⟨_, getLsbD_maskOf_singleton i, ?_⟩⟩, fun hv hr hc => ?_, fun hr hc => ⟨_, getLsbD_maskOf_singleton i, ?_⟩,
    fun hc => ⟨_, getLsbD_maskOf_singleton i, ?_⟩, fun hp => ?_, fun hp => ⟨_, getLsbD_maskOf_singleton i, ?_⟩, fun hp => ?_, fun hp => ⟨_, getLsbD_maskOf_singleton i, ?_⟩, ?_⟩
  · obtain ⟨t, hreg, hgr, htile⟩ := State.register_ok (ea := g.readPair s.cycle i a) hok hb hp
    have he := recipe_act hs hl ht (t := t) (show exec (.rcpReg d a) s = execRcpReg d a s from rfl) (by simp only [hrec r hr]) (by simp only [hrec r hr, hreg])
    obtain ⟨he, hm⟩ := goes _ t hgr he
    exact ⟨_, he, hm, htile⟩
  · exact recipe_trap hs hl ht (show exec (.rcpReg d a) s = execRcpReg d a s from rfl) (by simp only [hrec r hr]) (by simp only [hrec r hr, State.register, hok, Bool.not_false, if_true])
  · exact recipe_trap hs hl ht (show exec (.rcpReg d a) s = execRcpReg d a s from rfl) (by simp only [hrec r hr]) (by simp [hrec r hr, State.register, hok, hb])
  · have hdrop : dropCheck (s.ctxOf p.gid g) g i (g.readPair s.cycle i a) (some attr) = none := by simp [dropCheck, hc]
    have hdisc : (s.discardStores p.gid k).dropTile k = ((s.discardStores p.gid k).discardTile k).setTile k { s.tile k with st := .dropped } := State.dropTile_eq (s := s.discardStores p.gid k) hv hr
    have he := recipe_act hs hl ht (show exec (.rcpDrop a) s = execRcpDrop a s from rfl) hdrop (t := (s.discardStores p.gid k).dropTile k) (by simp [hv, hr])
    rw [hdisc] at he
    obtain ⟨he, hm⟩ := goes _ (((s.discardStores p.gid k).discardTile k).setTile k { s.tile k with st := .dropped }) (groups_discardTile (s.discardStores p.gid k) k) he
    exact ⟨_, he, hm, State.tile_setTile_same .., fun j hj => (State.tile_setTile_other _ _ _ _ hj).trans (tile_discardTile (s.discardStores p.gid k) k j)⟩
  · exact recipe_trap hs hl ht (show exec (.rcpDrop a) s = execRcpDrop a s from rfl) (by simp [dropCheck, hc]) (by simp [hr])
  · exact recipe_preTrap hs hl ht (show exec (.rcpDrop a) s = execRcpDrop a s from rfl) (by simp [dropCheck, hc])
  · exact sets _ _ (recipe_act hs hl ht (show exec (.rcpPin a) s = execRcpPin a s from rfl) rfl (if_neg hp))
  · exact recipe_trap hs hl ht (show exec (.rcpPin a) s = execRcpPin a s from rfl) rfl (if_pos hp)
  · exact sets _ _ (recipe_act hs hl ht (show exec (.rcpUnpin a) s = execRcpUnpin a s from rfl) rfl (if_neg hp))
  · exact recipe_trap hs hl ht (show exec (.rcpUnpin a) s = execRcpUnpin a s from rfl) rfl (if_pos hp)
  · have he := recipe_act hs hl ht (show exec (.tileState d a) s = execTileState d a s from rfl) rfl rfl
    rw [State.post_goesOn hw hg] at he
    exact ⟨_, _, _, he, State.group?_setGroup_same .., Group.withEntry_eq .., g.moved_withEntry .., List.mem_singleton.mpr rfl, rfl⟩
end Sys2Proof.Machine
end

section
/-! SUPPORT. Barriers (O48): what an access of bytes leaves of a barrier word, the words of R249, and the steps of an arrival. -/
namespace Sys2Proof.Machine

/-! ## Bytes and numbers -/

theorem natOfBytes_bytesOfNat : ∀ n v : Nat, natOfBytes (bytesOfNat n v) = v % 256 ^ n
  | 0, v => by rw [pow_zero, Nat.mod_one]; rfl
  | n + 1, v => by
    rw [bytesOfNat, natOfBytes, natOfBytes_bytesOfNat n, BitVec.toNat_ofNat, pow_succ' 256 n]
    exact Nat.mod_mul.symm

theorem wordOfBytes_bytesOfNat (w : Word) : wordOfBytes (bytesOfNat 4 w.toNat) = w := by
  rw [wordOfBytes, List.take_of_length_le (length_bytesOfNat 4 _).le, natOfBytes_bytesOfNat]
  exact BitVec.eq_of_toNat_eq (by have := w.isLt; rw [BitVec.toNat_ofNat]; omega)

/-! ## What a write of bytes leaves of windows -/

theorem foldl_kept {α β : Type} {π : State → β} {f : State → α → State} (hf : ∀ s x, π (f s x) = π s) (xs : List α) (s : State) : π (xs.foldl f s) = π s := by
  induction xs generalizing s with
  | nil => rfl
  | cons x xs ih => exact (ih _).trans (hf s x)

/-- A line brought home touches no window. -/
theorem State.windows_bringHome (s : State) (core : Nat) (out : List Host.Cell) : ((s.bringHome core out).teams, (s.bringHome core out).mem.badWords) = (s.teams, s.mem.badWords) := by
  refine (foldl_kept (π := fun t : State => (t.teams, t.mem.badWords)) (fun t k => ?_) _ _)
  split <;> rfl
theorem State.windows_publish (s : State) (g : Group) (c : Scope) : ((s.publish g c).teams, (s.publish g c).mem.badWords) = (s.teams, s.mem.badWords) := by
  unfold State.publish
  split
  · exact s.windows_bringHome ..
  · rfl
theorem State.teams_publish (s : State) (g : Group) (c : Scope) : (s.publish g c).teams = s.teams := congrArg Prod.fst (s.windows_publish g c)
theorem State.badWords_publish (s : State) (g : Group) (c : Scope) : (s.publish g c).mem.badWords = s.mem.badWords := congrArg Prod.snd (s.windows_publish g c)

theorem State.badWords_putWin (s : State) (t o : Nat) (bs : List Byte) : ∀ w ∈ (s.putWin t o bs).mem.badWords, w ∈ s.mem.badWords := by
  unfold State.putWin State.modTeam
  split <;> exact fun w hw => List.mem_of_mem_filter hw

namespace BytesOnly
variable {s t : State}

theorem teamFrame (h : BytesOnly s t) (k : Nat) : (∃ a b, s.team? k = some a ∧ t.team? k = some b ∧ b.frame = a.frame) ∨ (s.team? k = none ∧ t.team? k = none) := by
  have := h.team? k
  cases ha : s.team? k <;> cases hb : t.team? k <;> rw [ha, hb] at this
  · exact .inr ⟨rfl, rfl⟩
  · cases this
  · cases this
  · exact .inl ⟨_, _, rfl, rfl, Option.some.inj this⟩

theorem windowSize (h : BytesOnly s t) (own : Option Nat) (k : Nat) : t.windowSize own k = s.windowSize own k := by
  rcases h.teamFrame k with ⟨a, b, ha, hb, hf⟩ | ⟨ha, hb⟩
  · rw [State.windowSize, State.windowSize, ha, hb]
    dsimp only
    rw [show b.ended = a.ended from (congrArg Team.ended hf :), State.launchIdOfTeam, State.launchIdOfTeam, show b.gang = a.gang from (congrArg Team.gang hf :), State.gang?, State.gang?, h.gangs, State.launch?, State.launch?, h.launches]
  · rw [State.windowSize, State.windowSize, ha, hb]

theorem windowOf (h : BytesOnly s t) (k : Nat) (a n : Nat) : t.windowOf (some k) a n = s.windowOf (some k) a n := by
  have hg : ((some k).bind t.team?).bind (fun x => t.gang? x.gang) = ((some k).bind s.team?).bind fun x => s.gang? x.gang := by
    rcases h.teamFrame k with ⟨a, b, ha, hb, hf⟩ | ⟨ha, hb⟩
    · rw [Option.bind_some, Option.bind_some, ha, hb, Option.bind_some, Option.bind_some, show b.gang = a.gang from (congrArg Team.gang hf :), State.gang?, State.gang?, h.gangs]
    · rw [Option.bind_some, Option.bind_some, ha, hb, Option.bind_none, Option.bind_none]
  rw [State.windowOf, State.windowOf, hg]
  simp only [h.windowSize]

theorem tagged (h : BytesOnly s t) (k o : Nat) : t.tagged k o = s.tagged k o := by
  rcases h.teamFrame k with ⟨a, b, ha, hb, hf⟩ | ⟨ha, hb⟩
  · rw [State.tagged, State.tagged, ha, hb, Option.map_some, Option.map_some, show b.tags = a.tags from (congrArg Team.tags hf :)]
  · rw [State.tagged, State.tagged, ha, hb]

/-- A write of bytes that makes no word bad leaves a barrier address as it was. -/
theorem barrierAt_ok (h : BytesOnly s t) (hbad : ∀ w ∈ t.mem.badWords, w ∈ s.mem.badWords) {g : Group} {a : Word} {x : Nat × Nat} (hok : s.barrierAt g a = .ok x) : t.barrierAt g a = .ok x := by
  rw [State.barrierAt] at hok ⊢
  rw [h.windowOf]
  split at hok
  · cases hok
  · next k o hk =>
    rw [h.tagged]
    split at hok
    · cases hok
    · next htag =>
      rw [if_neg htag]
      split at hok
      · cases hok
      · next hf =>
        rw [if_neg ?_, hok]
        intro hf'
        obtain ⟨w, hw, hm⟩ := List.any_eq_true.mp hf'
        exact hf (List.any_eq_true.mpr ⟨w, hbad w hw, hm⟩)

end BytesOnly

theorem State.cellsOk_publish {s : State} (h : s.cellsOk = true) (g : Group) (c : Scope) : (s.publish g c).cellsOk = true := by
  unfold State.publish
  split
  · exact s.cellsOk_writeBack _ h
  · exact h

/-! ## The barrier word (R249) -/

theorem bytesOnly_setWinWord (s : State) (t o : Nat) (w : Word) : BytesOnly s (s.setWinWord t o w) := bytesOnly_putWin ..

theorem State.winWord_setWinWord {s : State} (hok : s.cellsOk = true) {t : Nat} (ht : ∃ tm, s.team? t = some tm) (o : Nat) (w : Word) : (s.setWinWord t o w).winWord t o = w := by
  obtain ⟨tm, htm⟩ := ht
  have hbytes : (s.setWinWord t o w).bytesAt none false (.win t o) 4 = bytesOfNat 4 w.toNat := by
    have hlen := length_bytesOfNat 4 w.toNat
    rw [State.bytesAt_eq, ← range_map_getD (bytesOfNat 4 w.toNat) 0, hlen]
    exact List.map_congr_left fun k hk => State.byteAt_putWin hok htm o _ none false (hlen.symm ▸ List.mem_range.mp hk)
  rw [State.winWord, hbytes, wordOfBytes_bytesOfNat]

theorem State.winWord_of_teams {s t : State} (h : t.teams = s.teams) (k o : Nat) : t.winWord k o = s.winWord k o := by
  rw [State.winWord, State.winWord, State.bytesAt, State.bytesAt, State.team?, State.team?, h]

/-- A change of a team's tags leaves its window. -/
theorem State.winWord_modTags (s : State) (k : Nat) (f : Team → List Nat) (j q : Nat) : (s.modTeam k fun x => { x with tags := f x }).winWord j q = s.winWord j q := by
  unfold State.modTeam
  split
  · next tm h =>
    rw [State.winWord, State.winWord, State.bytesAt, State.bytesAt]
    by_cases hj : j = k
    · rw [hj, State.team?_setTeam_same, h]
    · rw [State.team?_setTeam_other _ _ _ _ hj]
  · rfl

theorem State.tagged_modTags {s : State} {k : Nat} (h : ∃ tm, s.team? k = some tm) {o : Nat} (f : Team → List Nat) : ∃ tm, s.team? k = some tm ∧ (s.modTeam k fun x => { x with tags := f x }).tagged k o = (f tm).contains (o / 4) := by
  obtain ⟨tm, h⟩ := h
  refine ⟨tm, h, ?_⟩
  rw [State.modTeam, h, State.tagged, State.team?_setTeam_same]
  rfl

theorem barPhase_lt (w : Word) : barPhase w < phasePast := by
  have := w.isLt
  simp only [barPhase, phasePast]
  omega
theorem phaseOver_barPhase (w : Word) : phaseOver (barPhase w) = false := beq_eq_false_iff_ne.mpr (barPhase_lt w).ne
theorem barPhase_barWord {n a c : Nat} (ha : a < 256) (hc : c < 256) : barPhase (barWord n a c) = n % 2 ^ 16 := by
  rw [barPhase, barWord, BitVec.toNat_ofNat]
  omega
theorem barArrived_lt (w : Word) : barArrived w < 256 := Nat.mod_lt _ (by decide)
theorem barCount_lt (w : Word) : barCount w < 256 := Nat.mod_lt _ (by decide)

end Sys2Proof.Machine
end

section
/-! SUPPORT. Barriers (O48): the arrival, the wait for a phase, and the statement. -/
namespace Sys2Proof.Machine

/-- The barrier word after one arrival (R162). -/
def barAfter (b : Word) : Word := if barCount b ≤ barArrived b + 1 then barWord (barPhase b + 1) 0 (barCount b) else barWord (barPhase b) (barArrived b + 1) (barCount b)

/-- An arrival ends the phase exactly when it is the last (R162). -/
theorem barPhase_barAfter (b : Word) : barPhase (barAfter b) = barPhase b ↔ ¬ barCount b ≤ barArrived b + 1 := by
  have hp := barPhase_lt b
  have hc := barCount_lt b
  rw [phasePast] at hp
  rw [barAfter]
  split
  · next h => 
    rw [barPhase_barWord (by decide) hc]
    exact iff_of_false (by omega) (not_not_intro h)
  · next h =>
    rw [barPhase_barWord (by omega) hc]
    exact iff_of_true (Nat.mod_eq_of_lt hp) h

/-- A state whose groups alone may differ from one that an arrival's write of bytes leaves: what stands, and the word after. -/
structure Arrived (s u : State) (t o : Nat) : Prop where
  barrier : ∀ g a x, s.barrierAt g a = .ok x → u.barrierAt g a = .ok x
  certified : ∀ g, u.certified g = s.certified g
  word : u.winWord t o = barAfter (s.winWord t o)

theorem State.arrived {s : State} (hok : s.cellsOk = true) {t : Nat} (ht : ∃ tm, s.team? t = some tm) (o : Nat) : Arrived s (s.arrive t o) t o := by
  rw [State.arrive]
  split
  · next h => exact ⟨fun g a x hx => ((bytesOnly_setWinWord ..).barrierAt_ok (s.badWords_putWin _ _ _) hx :), fun g => ((bytesOnly_setWinWord ..).certified g :), (State.winWord_setWinWord hok ht o _).trans (if_pos h).symm⟩
  · next h => exact ⟨fun g a x hx => (bytesOnly_setWinWord ..).barrierAt_ok (s.badWords_putWin _ _ _) hx, fun g => (bytesOnly_setWinWord ..).certified g, (State.winWord_setWinWord hok ht o _).trans (if_neg h).symm⟩

theorem State.closeFor_setGroup {s u : State} (hu : ∀ g, u.certified g = s.certified g) {gid : Nat} {h : Group} (hc : s.certified h = false) (wait : Bool) : (u.setGroup gid h).closeFor gid wait = u.setGroup gid h :=
  State.closeFor_of_not_certified (State.group?_setGroup_same ..) ((hu h).trans hc) wait

/-- The state in which an arrival has taken place: its release (R327) and its count (R162). -/
def State.arrivedAt (s : State) (g : Group) (t o : Nat) : State := (s.publish g (barrierScope g t)).arrive t o

theorem State.arrived_arrivedAt {s : State} (hok : s.cellsOk = true) {g : Group} {t : Nat} (ht : ∃ tm, s.team? t = some tm) (o : Nat) : Arrived s (s.arrivedAt g t o) t o := by
  have hteams := s.teams_publish g (barrierScope g t)
  have hbytes := bytesOnly_publish s g (barrierScope g t)
  obtain ⟨hbar, hcert, hword⟩ := State.arrived (s := s.publish g (barrierScope g t)) (State.cellsOk_publish hok _ _) (by rwa [State.team?, hteams]) o
  exact ⟨fun g' a x hx => hbar g' a x (hbytes.barrierAt_ok (by rw [State.badWords_publish]; exact fun _ h => h) hx), fun g' => (hcert g').trans (hbytes.certified g'), hword.trans (by rw [State.winWord_of_teams hteams])⟩

section
variable {s : State} {p : Packet} {g : Group} {a : Word} {t o : Nat}

/-- A wait for a phase that lasts, or whose loads have not returned (R161, R327). -/
theorem State.phaseStep_waits {u : State} {h : Group} (hd : h.deferredFor Deferred.atBlocking = none) {x : Nat × Nat} (hb : u.barrierAt h a = .ok x) {n : Nat} (hn : barPhase (u.winWord x.1 x.2) = n ∨ h.loadsReturned = false) :
    u.phaseStep p h a n = u.setGroup p.gid (h.enterWait u.cycle (.barrier a (if barPhase (u.winWord x.1 x.2) = n then n else phasePast)) p.cur) := by
  have hwaits : ∀ m, u.waitFor p h (.barrier a m) = u.setGroup p.gid (h.enterWait u.cycle (.barrier a m) p.cur) := fun m => (if_pos rfl).trans (State.orDeferred_none hd _)
  unfold State.phaseStep
  split
  · next hover =>
    have hne : barPhase (u.winWord x.1 x.2) ≠ n := fun he => by rw [← he, phaseOver_barPhase] at hover; cases hover
    dsimp only
    rw [hn.resolve_left hne, if_neg hne, hwaits]
    rfl
  · rw [hb]
    dsimp only
    by_cases he : barPhase (u.winWord x.1 x.2) = n
    · rw [if_pos he, he, bne_self_eq_false, hwaits]
      rfl
    · rw [if_neg he, hn.resolve_left he, Bool.and_false, bne_iff_ne.mpr he, hwaits]
      rfl

/-- A wait for a phase that has ended, with the group's loads returned (R161, R327). -/
theorem State.phaseStep_goes {u : State} {h : Group} (hw : h.waitOf p.cur.pc p.cur.place = none) (hl : h.loadsReturned = true) {n : Nat} {x : Nat × Nat} (hb : u.barrierAt h a = .ok x) (hn : barPhase (u.winWord x.1 x.2) ≠ n) :
    u.phaseStep p h a n = u.finish p { h with arrival := none } := by
  have hends : ∀ q : Bool, q = true → (if q && h.loadsReturned then u.finish p { h.leaveWait p.cur with arrival := none } else u.waitFor p h (.barrier a (if q then phasePast else n))) = u.finish p { h with arrival := none } := fun q hq => by
    rw [hq, hl, Group.leaveWait_of_waitOf_none hw]
    rfl
  unfold State.phaseStep
  split
  · exact hends true rfl
  · rw [hb]
    exact hends _ (bne_iff_ne.mpr hn)

variable (hw : g.waitOf p.cur.pc p.cur.place = none) (hc : s.certified g = false) (hst : ∀ x ∈ s.eng.staged, x.gid ≠ p.gid) (hb : s.barrierAt g a = .ok (t, o)) (hu : Arrived s (s.arrivedAt g t o) t o)
  (harr : g.arrival = none) (hd : g.deferredFor Deferred.atRelease = none) (hp : s.performed p.gid g (barrierScope g t) = true)

include hst in
theorem State.owes_publish (n : Nat) (c : Scope) : (s.publish g c).owes p.gid n = false := by
  rw [State.owes, (bytesOnly_publish s g _).eng, List.any_eq_false]
  exact fun x hx => by simp [hst x hx]

include hw hc hst hb hu harr hd hp

/-- An arrival that nothing holds up goes on (R161, R162). -/
theorem State.arriveAt_goes : s.arriveAt p g a false = (s.arrivedAt g t o).finish p { g with arrival := some (a, barPhase (s.winWord t o)) } := by
  rw [State.arriveAt, hb]
  refine (if_neg (by rw [harr]; decide)).trans ((State.orDeferred_none hd _).trans ((if_pos hp).trans ?_))
  dsimp only
  rw [State.owes_publish hst, Group.leaveWait_of_waitOf_none hw]
  refine (if_neg Bool.false_ne_true).trans ?_
  split
  · rw [if_neg Bool.false_ne_true]
    exact State.closeFor_setGroup (u := s.arrivedAt g t o) hu.certified (by exact hc) false
  · rfl

/-- An arrival that goes on to wait (R161). -/
theorem State.arriveAt_waits : s.arriveAt p g a true =
    ((s.arrivedAt g t o).setGroup p.gid { g with arrival := some (a, barPhase (s.winWord t o)) }).phaseStep p { g with arrival := some (a, barPhase (s.winWord t o)) } a (barPhase (s.winWord t o)) := by
  rw [State.arriveAt, hb]
  refine (if_neg (by rw [harr]; decide)).trans ((State.orDeferred_none hd _).trans ((if_pos hp).trans ?_))
  dsimp only
  rw [State.owes_publish hst, Group.leaveWait_of_waitOf_none hw]
  refine (if_pos rfl).trans ?_
  rw [if_neg Bool.false_ne_true, show (s.publish g (barrierScope g t)).arrive t o = s.arrivedAt g t o from rfl, State.closeFor_setGroup hu.certified (by exact hc), State.group?_setGroup_same]
end

end Sys2Proof.Machine
end

section
/-! SUPPORT. Barriers (O48): bar.tag, and the statement. -/
namespace Sys2Proof.Machine

theorem Group.moved_withArrival (g : Group) (x : Option (Word × Nat)) (m : LaneMask) (pc : DWord) : Moved g ({ g with arrival := x }.moveTo m pc) m pc := by
  obtain ⟨hcount, hacting, hothers⟩ := g.moved_moveTo m pc
  exact ⟨hcount, hacting, hothers⟩

/-- bar.tag in one lane whose word passes its checks (R249). -/
theorem exec_barTag {s : State} {p : Packet} {g : Group} (hs : s.issuing = some (p, g)) (hq : ∀ x ∈ s.mem.storeQ, x.gid ≠ p.gid) {d a : Reg} {off : BitVec 9} {i t o : Nat} {pl : Place} (hi : g.list p.cur.lanes = [i]) (hsc : s.isScratch (g.readPair s.cycle i a + off.signExtend 64 * 4) = true)
    (hpl : s.check (s.ctxOf p.gid g) (.raw 4) false (g.readPair s.cycle i a + off.signExtend 64 * 4) = .ok pl) (hloc : pl.loc = .win t o) :
    exec (.barTag d a off) s = .next (match s.tagWord t o (g.read s.cycle i d).toNat with
      | none => s.trapAt p.gid p.cur .badBarrier (maskOf [i]) (((g.readPair s.cycle i a + off.signExtend 64 * 4).setWidth 32).setWidth 64)
      | some u => u.modGroup p.gid fun h => (h.leaveWait p.cur).moveTo p.cur.lanes (succPc p.cur.pc)) := by
  refine (State.issue_eq hs _).trans (congrArg _ ?_)
  have hea : g.ea s.cycle i a off 4 = g.readPair s.cycle i a + off.signExtend 64 * 4 := rfl
  simp only [hi, List.map_cons, List.map_nil, hea, hsc, if_true, hpl, List.filterMap_cons, List.filterMap_nil, worst_nil, hloc]
  refine (if_neg (Bool.eq_false_iff.mp (List.any_eq_false.mpr fun x hx => by simp [hq x hx]))).trans ?_
  rw [State.tagLanes]
  cases s.tagWord t o (g.read s.cycle i d).toNat <;> rfl

theorem team_setWinWord {s : State} {t : Nat} (ht : ∃ tm, s.team? t = some tm) (o : Nat) (w : Word) : ∃ tm, (s.setWinWord t o w).team? t = some tm := by
  obtain ⟨tm, ht⟩ := ht
  rcases (bytesOnly_setWinWord s t o w).teamFrame t with ⟨a, b, _, hb, _⟩ | ⟨ha, _⟩
  · exact ⟨b, hb⟩
  · rw [ht] at ha
    cases ha

/-- The ways that bar.tag tags and untags a word (R249). -/
theorem State.tagWord_new {s : State} (hok : s.cellsOk = true) {t o n : Nat} (ht : ∃ tm, s.team? t = some tm) (h1 : 1 ≤ n) (h2 : n ≤ 255) (htag : s.tagged t o = false) :
    ∃ u, s.tagWord t o n = some u ∧ u.groups = s.groups ∧ u.winWord t o = barWord 0 0 n ∧ u.tagged t o = true := by
  refine ⟨_, (if_neg (by omega)).trans ((if_neg (by omega)).trans (if_neg (ne_true_of_eq_false htag))), (State.modTeam_groups ..).trans (bytesOnly_setWinWord ..).groups, ?_, ?_⟩
  · exact (State.winWord_modTags ..).trans (State.winWord_setWinWord hok ht o _)
  · obtain ⟨tm, _, h⟩ := State.tagged_modTags (team_setWinWord ht o (barWord 0 0 n)) (o := o) fun x => x.tags ++ [o / 4]
    rw [h]
    simp
theorem State.tagWord_zero {s : State} (hok : s.cellsOk = true) {t o : Nat} (ht : ∃ tm, s.team? t = some tm) (harr : barArrived (s.winWord t o) = 0) :
    ∃ u, s.tagWord t o 0 = some u ∧ u.groups = s.groups ∧ u.winWord t o = 0 ∧ u.tagged t o = false := by
  refine ⟨(s.setWinWord t o 0).modTeam t fun x => { x with tags := x.tags.filter fun k => k != o / 4 }, by simp [State.tagWord, harr], (State.modTeam_groups ..).trans (bytesOnly_setWinWord ..).groups, ?_, ?_⟩
  · exact (State.winWord_modTags ..).trans (State.winWord_setWinWord hok ht o _)
  · obtain ⟨tm, _, h⟩ := State.tagged_modTags (team_setWinWord ht o 0) (o := o) fun x => x.tags.filter fun k => k != o / 4
    rw [h]
    simp

/-- Settles O48: bar.tag writes the word of a barrier without arrivals and its tag; an arrival writes the word after it and keeps the record, and a wait for a phase goes on once the phase of the word is another and the loads have returned. -/
theorem barrierResults : Obligations.BarrierResults := by
  intro s p g hs hw hc hq hst hok d a off t o
  dsimp only
  set w := g.read s.cycle (g.lowest p.cur.lanes) a
  have hg := ((s.issuing_iff p g).mp hs).2
  have hafter : (if decide (barCount (s.winWord t o) ≤ barArrived (s.winWord t o) + 1) = true then barWord (barPhase (s.winWord t o) + 1) 0 (barCount (s.winWord t o))
      else barWord (barPhase (s.winWord t o)) (barArrived (s.winWord t o) + 1) (barCount (s.winWord t o))) = barAfter (s.winWord t o) := by
    simp only [barAfter, decide_eq_true_eq]
  rw [hafter]
  set b := s.winWord t o
  have hnoWait : g.phaseWait p.cur = none := by rw [Group.phaseWait, hw]; rfl
  have team : ∀ x, s.barrierAt g w = .ok x → ∃ tm, s.team? x.1 = some tm := fun x hx => by
    rw [State.barrierAt] at hx
    split at hx
    · cases hx
    · next hk =>
      split at hx
      · cases hx
      · split at hx <;> cases hx
        exact State.windowOf_team hk (by decide)
  have ewait : ∀ n, s.barrierAt g w = .ok (t, o) → g.arrival = some (w, n) → g.deferredFor Deferred.atBlocking = none → exec (.gBarwait a) s = .next (s.phaseStep p g w n) := fun n hb harr hd => by
    refine (State.issue_eq hs _).trans (congrArg _ ?_)
    rw [hnoWait]
    dsimp only
    rw [show g.uread s.cycle p.cur.lanes a = w from rfl, hb, harr]
    refine (if_neg (not_not_intro rfl)).trans ((State.orDeferred_none hd _).trans ?_)
    rw [State.closeFor_of_not_certified hg hc, hg]
  refine ⟨fun i n pl hi hn hsc hpl hloc => ?_, fun hb harr hd hp => ?_, fun c hb i hi => ?_, fun hb harr => ?_, fun n hb harr hd => ⟨fun hn hl => ?_, fun hn => ?_⟩⟩
  · have he := exec_barTag hs hq (d := d) hi hsc hpl hloc
    have ht : ∃ tm, s.team? t = some tm := by
      rcases State.check_ok hpl with ⟨t', o', hl, hq', htm, _⟩ | ⟨pa, hl, _⟩
      · rw [hloc] at hl
        cases hl
        exact htm (Option.some.inj hq' ▸ (by decide))
      · rw [hloc] at hl
        cases hl
    have goes : ∀ u, s.tagWord t o n = some u → u.groups = s.groups → ∃ h, exec (.barTag d a off) s = .next (u.finish p g) ∧ (u.finish p g).group? p.gid = some h ∧ h = { g with lanes := h.lanes } ∧ Moved g h p.cur.lanes (succPc p.cur.pc) := fun u hu hgr => by
      rw [hn, hu] at he
      exact ⟨_, he.trans (congrArg _ (State.modGroup_goesOn hw ((congrArg (lookup · p.gid) hgr).trans hg))), State.group?_finish .., rfl, g.moved_moveTo ..⟩
    refine ⟨fun h1 h2 htag => ?_, fun h0 harr => ?_, fun h255 => ⟨maskOf [i], getLsbD_maskOf_singleton i, he.trans (congrArg _ ?_)⟩⟩
    · obtain ⟨u, hu, hgr, hword, ht⟩ := State.tagWord_new hok ht h1 h2 htag
      obtain ⟨h, he, hh⟩ := goes u hu hgr
      exact ⟨_, h, he, hword, ht, hh⟩
    · obtain ⟨u, hu, hgr, hword, ht⟩ := State.tagWord_zero hok ht harr
      obtain ⟨h, he, hh⟩ := goes u (h0 ▸ hu) hgr
      exact ⟨_, h, he, hword, ht, hh⟩
    · rw [hn, State.tagWord, if_pos h255]
  · have hu := State.arrived_arrivedAt hok (g := g) (team _ hb) o
    have hl : g.loadsReturned = true := by
      rw [State.performed, Bool.and_eq_true, Bool.and_eq_true] at hp
      exact hp.1.1
    have hd' : g.deferredFor Deferred.atBlocking = none := by
      rw [Group.deferredFor, List.find?_eq_none] at hd ⊢
      exact fun x hx hb => hd x hx (by rw [Deferred.atRelease, show (x.kind.isAccess || x.kind.isStore) = true from hb]; rfl)
    have ebar : exec (.gBar a) s = .next (s.arriveAt p g w true) := by
      refine (State.issue_eq hs _).trans (congrArg _ ?_)
      rw [hnoWait]
      rfl
    rw [State.arriveAt_waits hw hc hst hb hu harr hd hp] at ebar
    have earr : exec (.gBarrive a) s = .next (s.arriveAt p g w false) := State.issue_eq hs _
    rw [State.arriveAt_goes hw hc hst hb hu harr hd hp] at earr
    have hended := barPhase_barAfter b
    rw [← hu.word] at hended
    refine ⟨⟨_, _, earr, hu.word, State.group?_finish .., rfl, ?_⟩, fun he => ?_, fun he => ?_⟩
    · exact g.moved_withArrival ..
    · have hne : barPhase ((s.arrivedAt g t o).winWord t o) ≠ barPhase b := fun h => hended.mp h (of_decide_eq_true he)
      have hgoes := State.phaseStep_goes (p := p) (a := w) (u := (s.arrivedAt g t o).setGroup p.gid { g with arrival := some (w, barPhase b) }) (h := { g with arrival := some (w, barPhase b) }) hw hl (hu.barrier g w _ hb) hne
      refine ⟨_, _, ebar.trans (congrArg _ hgoes), hu.word, State.group?_finish .., ?_, ?_⟩
      · exact congrArg (fun x => { g.moveTo p.cur.lanes (succPc p.cur.pc) with arrival := x }) harr.symm
      · exact g.moved_withArrival ..
    · have heq : barPhase ((s.arrivedAt g t o).winWord t o) = barPhase b := hended.mpr (of_decide_eq_false he)
      have hwaits := State.phaseStep_waits (p := p) (a := w) (u := (s.arrivedAt g t o).setGroup p.gid { g with arrival := some (w, barPhase b) }) (h := { g with arrival := some (w, barPhase b) }) hd' (hu.barrier g w _ hb) (.inl heq)
      rw [State.setGroup_setGroup] at hwaits
      refine ⟨_, _, ebar.trans (congrArg _ hwaits), ?_, State.group?_setGroup_same .., rfl, (Group.kind_enterWait ..).trans ?_⟩
      · exact hu.word
      rw [if_pos (by exact heq)]
  · have herr : ∀ wait, s.arriveAt p g w wait = s.trapAt p.gid p.cur c p.cur.lanes (w.setWidth 64) := fun wait => by rw [State.arriveAt, hb]
    have hx : exec i s = .next (s.trapAt p.gid p.cur c p.cur.lanes (w.setWidth 64)) := by
      simp only [List.mem_cons, List.not_mem_nil, or_false] at hi
      rcases hi with rfl | rfl | rfl
      · exact (State.issue_eq hs _).trans (congrArg _ (herr false))
      · refine (State.issue_eq hs _).trans (congrArg _ ?_)
        rw [hnoWait]
        exact herr true
      · refine (State.issue_eq hs _).trans (congrArg _ ?_)
        dsimp only
        rw [hnoWait]
        dsimp only
        rw [show g.uread s.cycle p.cur.lanes a = w from rfl, hb]
    exact hx
  · refine (State.issue_eq hs _).trans (congrArg _ ?_)
    rw [hnoWait]
    dsimp only
    rw [show g.uread s.cycle p.cur.lanes a = w from rfl, hb]
    dsimp only
    cases hr : g.arrival with
    | none => rfl
    | some x => exact if_pos fun hx : x.1 = w => harr x.2 (hr.trans (congrArg (fun y => some (y, x.2)) hx))
  · exact ⟨_, (ewait n hb harr hd).trans (congrArg _ (State.phaseStep_goes hw hl hb hn)), rfl, g.moved_withArrival ..⟩
  · refine ⟨_, (ewait n hb harr hd).trans (congrArg _ (State.phaseStep_waits hd hb hn)), rfl, Group.kind_enterWait ..⟩


end Sys2Proof.Machine
end

section
/-! SUPPORT. Circular buffers (O45): the fields of a descriptor under writes, and the instructions in one lane. -/
namespace Sys2Proof.Machine

/-! ## The fields of a descriptor -/

theorem State.cbField_of_team {s t : State} {e : CbufEnd} (h : t.team? e.team = s.team? e.team) (k : Nat) : t.cbField e k = s.cbField e k := by
  rw [State.cbField, State.cbField, State.bytesAt, State.bytesAt, h]

theorem State.cbFails_of_words {s t : State} {e : CbufEnd} (h : ∀ w ∈ t.mem.badWords, w.1 = e.team → w ∈ s.mem.badWords) (hs : s.cbFails e = false) : t.cbFails e = false := by
  rw [State.cbFails, List.any_eq_false] at hs ⊢
  intro k hk hbad
  obtain ⟨w, hw, hm⟩ := List.any_eq_true.mp hbad
  refine hs k hk (List.any_eq_true.mpr ⟨w, h w hw ?_, hm⟩)
  rw [Bool.and_eq_true, Bool.and_eq_true, beq_iff_eq] at hm
  exact hm.1.1

theorem State.cbSet_eq {s : State} {e : CbufEnd} {k : Nat} (h : s.coversTag e.team (e.off + k) 2 = false) (v : Nat) : s.cbSet e k v = s.putWin e.team (e.off + k) (bytesOfNat 2 v) := by
  rw [State.cbSet, if_neg (ne_true_of_eq_false h), State.putBytes, State.putTagged]
  exact congrArg _ (if_neg (by rw [length_bytesOfNat]; exact ne_true_of_eq_false h))

theorem bytesOnly_cbSet (s : State) (e : CbufEnd) (k v : Nat) : BytesOnly s (s.cbSet e k v) := by
  unfold State.cbSet
  split
  · exact .refl s
  · exact bytesOnly_putBytes ..

theorem State.cellsOk_cbSet {s : State} (h : s.cellsOk = true) (e : CbufEnd) (k v : Nat) : (s.cbSet e k v).cellsOk = true := by
  unfold State.cbSet
  split
  · exact h
  · exact s.cellsOk_putBytes _ _ _ _ h

theorem BytesOnly.coversTag {s t : State} (h : BytesOnly s t) (k o n : Nat) : t.coversTag k o n = s.coversTag k o n := by
  rcases h.teamFrame k with ⟨a, b, ha, hb, hf⟩ | ⟨ha, hb⟩
  · rw [State.coversTag, State.coversTag, ha, hb]
    dsimp only
    rw [show b.tags = a.tags from (congrArg Team.tags hf :)]
  · rw [State.coversTag, State.coversTag, ha, hb]

theorem State.cbField_cbSet_same {s : State} (hok : s.cellsOk = true) {e : CbufEnd} (ht : ∃ tm, s.team? e.team = some tm) {k : Nat} (h : s.coversTag e.team (e.off + k) 2 = false) {v : Nat} (hv : v < 2 ^ 16) :
    (s.cbSet e k v).cbField e k = v := by
  obtain ⟨tm, ht⟩ := ht
  have hlen := length_bytesOfNat 2 v
  have hbytes : (s.putWin e.team (e.off + k) (bytesOfNat 2 v)).bytesAt none false (.win e.team (e.off + k)) 2 = bytesOfNat 2 v := by
    rw [State.bytesAt_eq, ← range_map_getD (bytesOfNat 2 v) 0, hlen]
    exact List.map_congr_left fun j hj => State.byteAt_putWin hok ht _ _ none false (hlen.symm ▸ List.mem_range.mp hj)
  rw [State.cbSet_eq h, State.cbField, hbytes, natOfBytes_bytesOfNat]
  exact Nat.mod_eq_of_lt hv

theorem State.cbField_cbSet_other {s : State} (hok : s.cellsOk = true) (e : CbufEnd) {k j : Nat} (h : k + 2 ≤ j ∨ j + 2 ≤ k) (v : Nat) : (s.cbSet e k v).cbField e j = s.cbField e j := by
  by_cases htag : s.coversTag e.team (e.off + k) 2 = true
  · rw [State.cbSet, if_pos htag]
  · rw [Bool.not_eq_true] at htag
    rw [State.cbSet_eq htag, State.cbField, State.cbField, State.bytesAt_eq, State.bytesAt_eq]
    refine congrArg natOfBytes (List.map_congr_left fun i hi => ?_)
    have hlen := length_bytesOfNat 2 v
    refine (stores_putWin hok _ _ (List.ne_nil_of_length_pos (by omega))).bytes none false _ fun x n hx hholds => ?_
    obtain ⟨rfl, rfl⟩ := hx
    simp only [Loc.holds, Loc.plus, hlen, List.mem_range] at hholds hi
    omega

/-- What a step leaves alone of a buffer: its window, and that its words are good. -/
structure BufferKept (s t : State) (k : Nat) : Prop where
  team : t.team? k = s.team? k
  words : ∀ w ∈ t.mem.badWords, w.1 = k → w ∈ s.mem.badWords

namespace BufferKept
variable {s t u : State} {k : Nat}
theorem refl (s : State) (k : Nat) : BufferKept s s k := ⟨rfl, fun _ h _ => h⟩
theorem trans (h : BufferKept s t k) (h' : BufferKept t u k) : BufferKept s u k := ⟨h'.team.trans h.team, fun w hw hk => h.words w (h'.words w hw hk) hk⟩
theorem foldl {α : Type} {f : State → α → State} {xs : List α} (hf : ∀ s, ∀ x ∈ xs, BufferKept s (f s x) k) (s : State) : BufferKept s (xs.foldl f s) k := by
  induction xs generalizing s with
  | nil => exact refl s k
  | cons x xs ih => exact (hf s x List.mem_cons_self).trans (ih (fun s y hy => hf s y (List.mem_cons_of_mem _ hy)) _)

theorem field {e : CbufEnd} (h : BufferKept s t e.team) (j : Nat) : t.cbField e j = s.cbField e j := State.cbField_of_team h.team j
theorem good {e : CbufEnd} (h : BufferKept s t e.team) (hs : s.cbFails e = false) : t.cbFails e = false := State.cbFails_of_words h.words hs

theorem putWin (s : State) {j : Nat} (hj : k ≠ j) (o : Nat) (bs : List Byte) : BufferKept s (s.putWin j o bs) k := by
  refine ⟨?_, fun w hw _ => s.badWords_putWin _ _ _ w hw⟩
  unfold State.putWin State.modTeam
  split
  · exact State.team?_setTeam_other _ _ _ _ hj
  · rfl

theorem cbSet (s : State) {e : CbufEnd} (he : k ≠ e.team) (o v : Nat) : BufferKept s (s.cbSet e o v) k := by
  unfold State.cbSet
  split
  · exact refl s k
  · exact putWin s he _ _

theorem publish (s : State) (g : Group) (c : Scope) (k : Nat) : BufferKept s (s.publish g c) k :=
  ⟨congrArg (lookup · k) (s.teams_publish g c), fun w hw _ => by rwa [State.badWords_publish] at hw⟩

/-- The puts that wait touch no other buffer than those they name (R344). -/
theorem withLatePuts (h : ∀ x ∈ s.eng.lates, ∀ r m ends, x.act = .put r m ends → ∀ y ∈ ends, y.2.1 ≠ k) : BufferKept s s.withLatePuts k := by
  refine foldl (fun u x hx => ?_) s
  split
  · next r m ends hact =>
    refine foldl (fun u y hy => ?_) u
    unfold State.cbufPut
    split
    · next hput =>
      dsimp only at hput
      split at hput <;> cases hput
      exact cbSet u (fun he => h x hx r m ends hact y hy he.symm) _ _
    · exact refl u k
  · exact refl u k
  · exact refl u k
end BufferKept

/-! ## One lane -/

section
variable {s : State} {p : Packet} {g : Group} {d a : Reg} {n : BitVec 9} {i : Nat} {e : CbufEnd}

/-- A lane that names a good end (R240). -/
theorem State.cbufLanes_one {c : Ctx} {m : LaneMask} {k : Nat} (hi : g.list m = [i]) (he : s.cbufAt c (g.readPair s.cycle i a) = .ok e) (hgood : s.cbFails e = false) (htag : s.cbTagged e = false)
    (h1 : 1 ≤ s.nslot e) (h2 : s.nslot e ≤ 4096) (hk : k ≤ s.nslot e) : ∃ ea, s.cbufLanes c g m a k = .ok [(i, ea, e)] := by
  have hbad : s.cbufBad e k = none := by
    rw [State.cbufBad, hgood, htag, if_neg Bool.false_ne_true, if_neg (by simp; omega), if_neg (by omega), if_neg Bool.false_ne_true]
  refine ⟨g.readPair s.cycle i a - BitVec.ofNat 64 ((g.readPair s.cycle i a).toNat % 32), ?_⟩
  simp only [State.cbufLanes, hi, List.map_cons, List.map_nil, he, List.filterMap_cons, List.filterMap_nil, hbad, Option.map_none, List.isEmpty_nil, Bool.not_true, Bool.false_eq_true, if_false, if_true]

/-- No counter of an untagged end is part of a tagged word (R250). -/
theorem State.untagged_counters (h : s.cbTagged e = false) (k : Nat) (hk : k = 0x10 ∨ k = 0x12 ∨ k = 0x18 ∨ k = 0x1A) : s.coversTag e.team (e.off + k) 2 = false := by
  rw [State.cbTagged, Bool.or_eq_false_iff] at h
  obtain ⟨hfree, hfilled⟩ := h
  have hinside : ∀ o m, (m = o ∨ m = o + 2) → s.coversTag e.team (e.off + o) 4 = false → s.coversTag e.team (e.off + m) 2 = false := fun o m hm ht => by
    unfold State.coversTag at ht ⊢
    split at ht
    · rfl
    · rw [List.any_eq_false] at ht ⊢
      intro w hw hcov
      refine ht w hw ?_
      simp only [Bool.and_eq_true, decide_eq_true_eq] at hcov ⊢
      omega
  rcases hk with rfl | rfl | rfl | rfl
  · exact hinside _ _ (.inl rfl) hfree
  · exact hinside _ _ (.inr rfl) hfree
  · exact hinside _ _ (.inl rfl) hfilled
  · exact hinside _ _ (.inr rfl) hfilled

/-- The puts of one lane: made when they fit (R240). -/
theorem State.cbufPuts_one {k : Nat} {ea : DWord} (hgood : s.cbFails e = false) (hle : s.cbField e e.other + k + s.cbField e e.count ≤ s.nslot e) :
    s.cbufPuts k [(i, ea, e)] = .ok ([(i, BitVec.ofNat 32 (s.cbField e e.other + k))], s.cbSet e e.other (s.cbField e e.other + k)) := by
  have hput : s.cbufPut e k = .ok (s.cbField e e.other + k, s.cbSet e e.other (s.cbField e e.other + k)) := if_neg (by omega)
  rw [State.cbufPuts, if_neg (ne_true_of_eq_false hgood), hput]
  rfl
theorem State.cbufPuts_one_full {k : Nat} {ea : DWord} (hgood : s.cbFails e = false) (hlt : s.nslot e < s.cbField e e.other + k + s.cbField e e.count) : s.cbufPuts k [(i, ea, e)] = .error (i, .cbufRange, ea) := by
  have hput : s.cbufPut e k = .error .cbufRange := if_pos hlt
  rw [State.cbufPuts, if_neg (ne_true_of_eq_false hgood), hput]

variable (hs : s.issuing = some (p, g)) (hw : g.waitOf p.cur.pc p.cur.place = none) (hc : s.certified g = false) (hq : ∀ x ∈ s.mem.storeQ, x.gid ≠ p.gid) (hst : ∀ x ∈ s.eng.staged, x.gid ≠ p.gid)
  (hgood : s.cbFails e = false) {ea : DWord} (hls : s.cbufLanes (s.ctxOf p.gid g) g p.cur.lanes a n.toNat = .ok [(i, ea, e)])

/-- The state in which a put has taken place (R240). -/
def State.putDone (s : State) (p : Packet) (g : Group) (e : CbufEnd) (n : Nat) : State := ((s.publish g .cluster).finish p g).cbSet e e.other (s.cbField e e.other + n)

include hs hw hc hq hst hgood hls

/-- A put in one lane once the accesses before it are performed (R240, R241): with the puts that wait made, the lane's put traps or is made. -/
theorem exec_cbufPut (hl : ∀ x ∈ s.eng.lates, ∀ r m ends, x.act = .put r m ends → ∀ y ∈ ends, y.2.1 ≠ e.team) (hp : s.performed p.gid g .cluster = true) :
    (s.cbField e e.other + n.toNat + s.cbField e e.count ≤ s.nslot e →
      ∃ x : SbEntry, x.vals = [(i, d, BitVec.ofNat 32 (s.cbField e e.other + n.toNat))] ∧ exec (.cbufPut d a n) s = .next ((s.putDone p g e n.toNat).fresh.2.setGroup p.gid (g.withEntry p.cur.lanes (succPc p.cur.pc) x)))
    ∧ (s.nslot e < s.cbField e e.other + n.toNat + s.cbField e e.count → exec (.cbufPut d a n) s = .next (s.trapAt p.gid p.cur .cbufRange (maskOf [i]) ea)) := by
  have hg := ((s.issuing_iff p g).mp hs).2
  have hlate := BufferKept.withLatePuts hl
  have hfin : ((s.publish g .cluster).modGroup p.gid fun g => g.leaveWait p.cur).modGroup p.gid (fun g => g.moveTo p.cur.lanes (succPc p.cur.pc)) = (s.publish g .cluster).finish p g := by
    rw [State.modGroup_eq (((bytesOnly_publish s g .cluster).group? _).trans hg), State.modGroup_eq (State.group?_setGroup_same ..), State.setGroup_setGroup, Group.leaveWait_of_waitOf_none hw]
    rfl
  have hexec : ∀ u, (match s.withLatePuts.cbufPuts n.toNat [(i, ea, e)] with
      | .error (i, k, ea) => s.trapAt p.gid p.cur k (maskOf [i]) ea
      | .ok _ => match ((s.publish g .cluster).finish p g).cbufPuts n.toNat [(i, ea, e)] with
        | .error _ => (s.publish g .cluster).finish p g
        | .ok (vs, t) => ((t.post p.gid p.cur.pc p.cur.lanes [d] (vs.map fun v => (v.1, d, v.2)) 16).deferAll p.gid (deferredOf t.sched.nextId p.cur.word [d] (((s.publish g .cluster).finish p g).cbFailing [(i, e)]))).closeFor p.gid false) = u → exec (.cbufPut d a n) s = .next u := fun u hu => by
    refine (State.issue_eq hs _).trans (congrArg _ (Eq.trans ((if_neg ?_).trans ?_) hu))
    · exact Bool.eq_false_iff.mp (List.any_eq_false.mpr fun x hx => by simp [hq x hx])
    · rw [hls]
      refine (if_pos hp).trans ?_
      cases s.withLatePuts.cbufPuts n.toNat [(i, ea, e)] with
      | error x => rfl
      | ok x =>
        dsimp only
        rw [hfin]
        exact if_neg (ne_true_of_eq_false (State.owes_publish (g := g) hst _ _))
  refine ⟨fun hle => ?_, fun hlt => ?_⟩
  · have hkept : BufferKept s ((s.publish g .cluster).finish p g) e.team := ⟨(BufferKept.publish s g .cluster e.team).team, (BufferKept.publish s g .cluster e.team).words⟩
    have hgroup : (s.putDone p g e n.toNat).group? p.gid = some (g.moveTo p.cur.lanes (succPc p.cur.pc)) := ((bytesOnly_cbSet ..).group? _).trans (State.group?_finish ..)
    have hcert : ∀ g', (s.putDone p g e n.toNat).fresh.2.certified g' = s.certified g' := fun g' => ((bytesOnly_cbSet ..).certified g').trans ((bytesOnly_publish s g .cluster).certified g')
    refine ⟨(s.putDone p g e n.toNat).entryOf p.cur.pc p.cur.lanes [d] [(i, d, BitVec.ofNat 32 (s.cbField e e.other + n.toNat))] 16, rfl, hexec _ ?_⟩
    rw [State.cbufPuts_one (hlate.good hgood) (by rw [State.nslot, hlate.field, hlate.field, hlate.field]; exact hle)]
    dsimp only
    rw [State.cbufPuts_one (hkept.good hgood) (by rw [State.nslot, hkept.field, hkept.field, hkept.field]; exact hle)]
    dsimp only
    rw [hkept.field, show ((s.publish g .cluster).finish p g).cbSet e e.other (s.cbField e e.other + n.toNat) = s.putDone p g e n.toNat from rfl, State.cbFailing]
    simp only [List.filter_cons, hkept.good hgood, Bool.false_eq_true, if_false, List.filter_nil, List.map_nil, List.map_cons]
    rw [deferredOf_nil, State.deferAll_nil, State.post_eq_entryOf hgroup, State.closeFor_setGroup hcert (by exact hc)]
    rfl
  · refine hexec _ ?_
    rw [State.cbufPuts_one_full (hlate.good hgood) (by rw [State.nslot, hlate.field, hlate.field, hlate.field]; exact hlt)]

omit hw hst hgood in
/-- A get in one lane acts once the loads before it have returned (R240, R241). -/
theorem exec_cbufGet (hl : g.loadsReturned = true) : exec (.cbufGet d a n) s = .next (s.cbufAct p.gid p.cur d n.toNat [(i, e)]) := by
  have hg := ((s.issuing_iff p g).mp hs).2
  refine (State.issue_eq hs _).trans (congrArg _ ((if_neg ?_).trans ?_))
  · exact Bool.eq_false_iff.mp (List.any_eq_false.mpr fun x hx => by simp [hq x hx])
  · rw [hls]
    refine (if_pos hl).trans ?_
    rw [State.closeFor_of_not_certified hg hc]
    rfl
end

/-! ## Gets (R240) -/

section
variable {s : State} {gid : Nat} {g : Group} {sl : Slot} {d : Reg} {n i : Nat} {e : CbufEnd} (hg : s.group? gid = some g) (hgood : s.cbFails e = false)
include hg hgood

/-- A get that cannot be served waits in line. -/
theorem State.cbufAct_waits (hr : s.cbReady e (gid, 0) n = false) :
    ∃ u : State, s.cbufAct gid sl d n [(i, e)] = u.setGroup gid (g.enterWait u.cycle (.cbuf 0 [i]) sl) ∧ u.mem = s.mem ∧ u.teams = s.teams := by
  have hgets : ∃ u : State, s.cbufGets gid n [(i, e)] = ([], [(i, e)], [], u) ∧ u.mem = s.mem ∧ u.teams = s.teams ∧ u.group? gid = some g := by
    rw [State.cbufGets]
    dsimp only
    rw [hgood, hr, if_neg Bool.false_ne_true, if_neg Bool.false_ne_true]
    refine ⟨_, rfl, ?_⟩
    split
    · exact ⟨rfl, rfl, hg⟩
    · exact ⟨rfl, rfl, hg⟩
  obtain ⟨u, hu, hmem, hteams, hg'⟩ := hgets
  refine ⟨u, ?_, hmem, hteams⟩
  rw [State.cbufAct, hu]
  exact State.modGroup_eq hg' _

/-- The state in which a get has been served. -/
def State.getDone (s : State) (gid : Nat) (e : CbufEnd) (n : Nat) : State :=
  let t := (s.cbufTake e n).2
  { t with eng := { t.eng with cbufq := t.eng.cbufq.filter fun x => !(x.1 == e.key && x.2 == (gid, 0)) } }

omit hg hgood in
theorem bytesOnly_cbufTake (s : State) (e : CbufEnd) (n : Nat) : BytesOnly s (s.cbufTake e n).2 := (bytesOnly_cbSet ..).trans (bytesOnly_cbSet ..)

/-- A get that can be served receives the slot at the end's position, by the scoreboard. -/
theorem State.cbufAct_serves (hr : s.cbReady e (gid, 0) n = true) :
    ∃ x : SbEntry, x.vals = [(i, d, BitVec.ofNat 32 (s.cbField e (e.count + 2)))]
      ∧ s.cbufAct gid sl d n [(i, e)] = (s.getDone gid e n).fresh.2.setGroup gid (({ g with sb := g.sb ++ [x] }.leaveWait sl).moveTo sl.lanes (succPc sl.pc)) := by
  have hgets : s.cbufGets gid n [(i, e)] = ([(i, BitVec.ofNat 32 (s.cbField e (e.count + 2)))], [], [], s.getDone gid e n) := by
    rw [State.cbufGets]
    dsimp only
    rw [hgood, hr, if_neg Bool.false_ne_true, if_pos rfl]
    rfl
  have hg' : (s.getDone gid e n).group? gid = some g := ((bytesOnly_cbufTake s e n).group? gid).trans hg
  refine ⟨(s.getDone gid e n).entryOf sl.pc (maskOf [i]) [d] [(i, d, BitVec.ofNat 32 (s.cbField e (e.count + 2)))] 16, rfl, ?_⟩
  rw [State.cbufAct, hgets]
  dsimp only
  rw [List.isEmpty_cons, if_neg Bool.false_ne_true, State.post_eq_entryOf hg', deferredOf_nil, State.deferAll_nil, State.waitEnds, State.modGroup_eq (State.group?_setGroup_same ..), State.setGroup_setGroup]
  rfl
end

theorem CbufEnd.counters_apart (e : CbufEnd) : (e.count = 0x10 ∨ e.count = 0x18) ∧ (e.other = 0x10 ∨ e.other = 0x18) ∧ e.count ≠ e.other := by
  unfold CbufEnd.count CbufEnd.other
  split <;> decide

theorem State.team_of_nslot {s : State} {e : CbufEnd} (h : 1 ≤ s.nslot e) : ∃ tm, s.team? e.team = some tm := by
  cases ht : s.team? e.team with
  | some tm => exact ⟨tm, rfl⟩
  | none =>
    have hzero : s.nslot e = 0 := by
      rw [State.nslot, State.cbField, State.bytesAt, ht]
      rfl
    omega

theorem BytesOnly.team_exists {s t : State} (h : BytesOnly s t) {k : Nat} (hs : ∃ tm, s.team? k = some tm) : ∃ tm, t.team? k = some tm := by
  obtain ⟨tm, hs⟩ := hs
  rcases h.teamFrame k with ⟨_, b, _, hb, _⟩ | ⟨ha, _⟩
  · exact ⟨b, hb⟩
  · rw [hs] at ha
    cases ha

/-- The fields of a served end: its counter is less by n, its position n further, the other counter stands (R240). -/
theorem State.cbField_getDone {s : State} {gid n : Nat} {e : CbufEnd} (hok : s.cellsOk = true) (htag : s.cbTagged e = false) (h1 : 1 ≤ s.nslot e) (h2 : s.nslot e ≤ 4096) (hown : s.cbField e e.count ≤ s.nslot e) :
    (s.getDone gid e n).cbField e e.count = s.cbField e e.count - n ∧ (s.getDone gid e n).cbField e e.other = s.cbField e e.other
      ∧ (s.getDone gid e n).cbField e (e.count + 2) = (s.cbField e (e.count + 2) + n) % s.nslot e := by
  have ht := State.team_of_nslot h1
  have hfirst := bytesOnly_cbSet s e e.count (s.cbField e e.count - n)
  have hok' := State.cellsOk_cbSet hok e e.count (s.cbField e e.count - n)
  have ht' : ∃ tm, (s.cbSet e e.count (s.cbField e e.count - n)).team? e.team = some tm := hfirst.team_exists ht
  obtain ⟨hc1, hc2, hc3⟩ := e.counters_apart
  have htag2 : (s.cbSet e e.count (s.cbField e e.count - n)).coversTag e.team (e.off + (e.count + 2)) 2 = false := (hfirst.coversTag ..).trans (State.untagged_counters htag _ (by omega))
  refine ⟨?_, ?_, ?_⟩
  · exact (State.cbField_cbSet_other hok' e (by omega) _).trans (State.cbField_cbSet_same hok ht (State.untagged_counters htag _ (by omega)) (by omega))
  · exact (State.cbField_cbSet_other hok' e (by omega) _).trans (State.cbField_cbSet_other hok e (by omega) _)
  · exact State.cbField_cbSet_same hok' ht' htag2 (by have := Nat.mod_lt (s.cbField e (e.count + 2) + n) h1; omega)

/-- The fields after a put: the counter of the other end is more by n, its own stands (R240). -/
theorem State.cbField_putDone {s : State} {p : Packet} {g : Group} {n : Nat} {e : CbufEnd} (hok : s.cellsOk = true) (htag : s.cbTagged e = false) (h1 : 1 ≤ s.nslot e) (hlt : s.cbField e e.other + n < 2 ^ 16) :
    (s.putDone p g e n).cbField e e.other = s.cbField e e.other + n ∧ (s.putDone p g e n).cbField e e.count = s.cbField e e.count := by
  have hbytes := bytesOnly_publish s g .cluster
  have hok' : ((s.publish g .cluster).finish p g).cellsOk = true := State.cellsOk_of (State.cellsOk_publish hok g .cluster) ((State.cellsOk_iff _).mp (State.cellsOk_publish hok g .cluster)).1 rfl
  have ht' : ∃ tm, ((s.publish g .cluster).finish p g).team? e.team = some tm := hbytes.team_exists (State.team_of_nslot h1)
  obtain ⟨hc1, hc2, hc3⟩ := e.counters_apart
  have htag' : ((s.publish g .cluster).finish p g).coversTag e.team (e.off + e.other) 2 = false := (hbytes.coversTag ..).trans (State.untagged_counters htag _ (by omega))
  exact ⟨State.cbField_cbSet_same hok' ht' htag' hlt, (State.cbField_cbSet_other hok' e (by omega) _).trans ((BufferKept.publish s g .cluster e.team).field _)⟩

theorem State.cbField_setGroup (s : State) (k : Nat) (g : Group) (e : CbufEnd) (j : Nat) : (s.fresh.2.setGroup k g).cbField e j = s.cbField e j := rfl

/-- Settles O45: puts and gets of one lane by the rules above. -/
theorem bufferResults : Obligations.BufferResults := by
  intro s p g hok d a n i e
  dsimp only
  refine ⟨fun htag hgood hs hw hc hq hst hl hi he h1 h2 hn => ?_, fun gid w lanes htag hgood hg hres hwait hgets hr h1 h2 hown _ => ?_⟩
  · obtain ⟨ea, hls⟩ := State.cbufLanes_one hi he hgood htag h1 h2 hn
    have hg := ((s.issuing_iff p g).mp hs).2
    refine ⟨fun hp hle => ?_, fun hp hlt => ⟨maskOf [i], ea, getLsbD_maskOf_singleton i, (exec_cbufPut hs hw hc hq hst hgood hls hl hp).2 (by omega)⟩, fun hld hr => ?_, fun hld hr hown _ => ?_⟩
    · obtain ⟨x, hx, hexec⟩ := (exec_cbufPut (d := d) hs hw hc hq hst hgood hls hl hp).1 (by omega)
      obtain ⟨hother, hcount⟩ := State.cbField_putDone (p := p) (g := g) (n := n.toNat) hok htag h1 (by omega)
      exact ⟨_, _, x, hexec, State.group?_setGroup_same .., rfl, g.moved_withEntry .., (State.cbField_setGroup ..).trans hother, (State.cbField_setGroup ..).trans hcount, hx ▸ List.mem_singleton_self _⟩
    · obtain ⟨u, hu, hmem, hteams⟩ := State.cbufAct_waits (sl := p.cur) (d := d) (i := i) hg hgood hr
      exact ⟨_, _, (exec_cbufGet hs hc hq hls hld).trans (congrArg _ hu), State.group?_setGroup_same .., rfl, Group.kind_enterWait .., hmem, hteams⟩
    · obtain ⟨x, hx, hact⟩ := State.cbufAct_serves (sl := p.cur) (d := d) (i := i) hg hgood hr
      rw [Group.leaveWait_of_waitOf_none (by exact hw)] at hact
      obtain ⟨hcount, hother, hpos⟩ := State.cbField_getDone (gid := p.gid) (n := n.toNat) hok htag h1 h2 hown
      refine ⟨_, _, x, (exec_cbufGet hs hc hq hls hld).trans (congrArg _ hact), State.group?_setGroup_same .., rfl, ?_, (State.cbField_setGroup ..).trans hcount, (State.cbField_setGroup ..).trans hother, (State.cbField_setGroup ..).trans hpos, hx ▸ List.mem_singleton_self _⟩
      exact g.moved_withEntry _ _ x
  · obtain ⟨x, _, hact⟩ := State.cbufAct_serves (sl := w.slot) (d := lmD w.slot.word) (i := i) hg hgood hr
    obtain ⟨hcount, _, hpos⟩ := State.cbField_getDone (gid := gid) (n := lmF w.slot.word) hok htag h1 h2 hown
    have hexec : exec (.cbufGetGrant gid) s = .next (s.cbufAct gid w.slot (lmD w.slot.word) (lmF w.slot.word) [(i, e)]) := by
      show execCbufGetGrant gid s = _
      rw [execCbufGetGrant, hg]
      dsimp only
      rw [hwait]
      dsimp only
      rw [hgets]
      exact if_pos (by rw [hr, hres, Bool.or_true]; rfl)
    rw [hact] at hexec
    exact ⟨_, _, hexec, State.group?_setGroup_same .., Group.waitOf_leaveWait { g with sb := g.sb ++ [x] } w.slot, (State.cbField_setGroup ..).trans hcount, (State.cbField_setGroup ..).trans hpos⟩

end Sys2Proof.Machine
end

section
/-! SUPPORT. Messages and posts of collectives: what they leave alone (R248, R312, R448). -/
namespace Sys2Proof.Machine

/-- The second state is the first with messages sent: only the links, the fabric's counters, the loop and what leaves have changed. -/
def Told (s t : State) : Prop := ∃ ls sq tg lp ob, t = { s with fab := { s.fab with links := ls, sendSeq := sq, nextTag := tg }, loop := lp, outbox := ob }

namespace Told
variable {s t u : State}
theorem refl (s : State) : Told s s := ⟨_, _, _, _, _, rfl⟩
theorem trans (h : Told s t) (h' : Told t u) : Told s u := by
  obtain ⟨_, _, _, _, _, rfl⟩ := h
  obtain ⟨_, _, _, _, _, rfl⟩ := h'
  exact ⟨_, _, _, _, _, rfl⟩
theorem foldl {α : Type} {f : State → α → State} (hf : ∀ s x, Told s (f s x)) (xs : List α) (s : State) : Told s (xs.foldl f s) := by
  induction xs generalizing s with
  | nil => exact refl s
  | cons x xs ih => exact (hf s x).trans (ih _)
theorem eng (h : Told s t) : t.eng = s.eng := by
  obtain ⟨_, _, _, _, _, rfl⟩ := h
  rfl
theorem mem (h : Told s t) : t.mem = s.mem := by
  obtain ⟨_, _, _, _, _, rfl⟩ := h
  rfl
theorem sendMsg (s : State) (dest tag : Nat) (m : FlitMsg) : Told s (s.sendMsg dest tag m) := by
  obtain ⟨_, _, _, _, h⟩ := s.sendMsg_eq dest tag m
  exact ⟨_, _, _, _, _, h⟩
theorem tell (s : State) (device : Nat) (m : FlitMsg) : Told s (s.tell device m) := by
  unfold State.tell
  split
  · exact refl s
  · exact sendMsg ..
theorem tellAll (s : State) (ds : List Nat) (m : CollData) : Told s (s.tellAll ds m) := by
  refine foldl (fun s d => ?_) ds s
  split
  · exact refl s
  · exact tell ..
end Told

/-- The second state is the first with messages sent and its commands and collectives changed. -/
def Posted (s t : State) : Prop := ∃ cs co, Told { s with eng := { s.eng with cmds := cs, colls := co } } t

namespace Posted
variable {s t u : State}
theorem refl (s : State) : Posted s s := ⟨_, _, .refl s⟩
theorem of_told (h : Told s t) : Posted s t := ⟨_, _, h⟩
theorem trans (h : Posted s t) (h' : Posted t u) : Posted s u := by
  obtain ⟨_, _, _, _, _, _, _, rfl⟩ := h
  obtain ⟨_, _, _, _, _, _, _, rfl⟩ := h'
  exact ⟨_, _, _, _, _, _, _, rfl⟩
/-- All that is neither a command, a collective nor a message stands. -/
theorem frame (h : Posted s t) : t.groups = s.groups ∧ t.teams = s.teams ∧ t.gangs = s.gangs ∧ t.launches = s.launches ∧ t.porters = s.porters ∧ t.mem = s.mem ∧ t.dev = s.dev ∧ t.sched = s.sched ∧ t.cycle = s.cycle := by
  obtain ⟨_, _, _, _, _, _, _, rfl⟩ := h
  exact ⟨rfl, rfl, rfl, rfl, rfl, rfl, rfl, rfl, rfl⟩
theorem group? (h : Posted s t) (k : Nat) : t.group? k = s.group? k := by rw [State.group?, h.frame.1]; rfl
theorem certified (h : Posted s t) (g : Group) : t.certified g = s.certified g := by
  obtain ⟨_, _, _, _, _, _, _, rfl⟩ := h
  rfl
theorem bytesAt (h : Posted s t) (l : Loc) (n : Nat) : t.bytesAt none false l n = s.bytesAt none false l n := by
  obtain ⟨_, _, _, _, _, _, _, rfl⟩ := h
  rfl
theorem setCmd (s : State) (id : Nat) (c : Cmd) : Posted s (s.setCmd id c) := ⟨_, _, .refl _⟩
theorem setColl (s : State) (k : DWord) (x : Collective) : Posted s (s.setColl k x) := ⟨_, _, .refl _⟩
theorem settleGate (s : State) (id : Nat) (c : Cmd) (cause : Nat) : Posted s (s.settleGate id c cause) := by
  unfold State.settleGate
  dsimp only
  split
  · exact setCmd ..
  · exact (setCmd ..).trans ((setColl ..).trans (of_told (.tellAll ..)))
theorem openGate (s : State) (id : Nat) (c : Cmd) : Posted s (s.openGate id c) := by
  unfold State.openGate
  dsimp only
  split
  · exact settleGate ..
  · split
    · split
      · exact setCmd ..
      · exact settleGate ..
    · split
      · exact settleGate ..
      · exact (of_told ⟨_, _, _, _, _, rfl⟩).trans ((of_told (.sendMsg ..)).trans (setCmd ..))
theorem registerColl (s : State) (id : Nat) (c : Cmd) : Posted s (s.registerColl id c) := by
  unfold State.registerColl
  dsimp only
  split
  · exact refl s
  · exact (setColl ..).trans ((of_told (.tellAll ..)).trans (openGate ..))
end Posted

/-- A command with another gate and another input. -/
def Cmd.gated (c : Cmd) (gt : GateState) (b : List Word) : Cmd := { c with gate := gt, inbuf := b }

theorem settleGate_cmds (s : State) (id : Nat) (c : Cmd) (cause : Nat) : ∃ gt b, (s.settleGate id c cause).eng.cmds = put s.eng.cmds id (c.gated gt b) := by
  refine ⟨if cause = 0 then .ready else .broken cause, [], ?_⟩
  unfold State.settleGate
  dsimp only
  split
  · rfl
  · exact congrArg Engines.cmds (Told.tellAll ..).eng
theorem openGate_cmds (s : State) (id : Nat) (c : Cmd) : ∃ gt b, (s.openGate id c).eng.cmds = put s.eng.cmds id (c.gated gt b) := by
  unfold State.openGate
  dsimp only
  split
  · exact settleGate_cmds ..
  · split
    · split
      · exact ⟨.waiting none, c.inbuf, rfl⟩
      · exact settleGate_cmds ..
    · split
      · exact settleGate_cmds ..
      · exact ⟨.waiting (some s.takeTag.1), c.inbuf, congrArg (fun x => put x id _) (congrArg Engines.cmds (Told.sendMsg ..).eng)⟩
/-- A post made known changes of the commands its own gate alone (R312, R316). -/
theorem registerColl_cmds (s : State) (id : Nat) (c : Cmd) : (s.registerColl id c).eng.cmds = s.eng.cmds ∨ ∃ gt b, (s.registerColl id c).eng.cmds = put s.eng.cmds id (c.gated gt b) := by
  unfold State.registerColl
  dsimp only
  split
  · exact .inl rfl
  · obtain ⟨gt, b, h⟩ := openGate_cmds ((s.setColl (collId c.block) _).tellAll (participants c.block) (.post (collId c.block) s.fab.devNum id (collFields c.block))) id c
    exact .inr ⟨gt, b, h.trans (congrArg (fun x => put x id (c.gated gt b)) ((congrArg Engines.cmds (Told.tellAll ..).eng).trans rfl))⟩

end Sys2Proof.Machine
end

section
/-! SUPPORT. Buckets (O47): the arrival of one lane. -/
namespace Sys2Proof.Machine

theorem Loc.plus_plus (l : Loc) (a b : Nat) : (l.plus a).plus b = l.plus (a + b) := by
  cases l <;> simp only [Loc.plus, Nat.add_assoc]

/-- A field of a block read from its place. -/
theorem State.fieldAt_bytesAt (s : State) (core : Option Nat) (priv : Bool) (l : Loc) {n off k : Nat} (h : off + k ≤ n) : fieldAt (s.bytesAt core priv l n) off k = natOfBytes (s.bytesAt core priv (l.plus off) k) := by
  refine congrArg natOfBytes (List.ext_getElem ?_ fun i h1 h2 => ?_)
  · rw [List.length_take, List.length_drop, State.length_bytesAt, State.length_bytesAt]
    omega
  · rw [List.getElem_take, List.getElem_drop]
    simp only [State.bytesAt_eq, List.getElem_map, List.getElem_range, Loc.plus_plus]

/-- A word of a bucket written (R247). -/
def State.putWord (s : State) (tag : Nat) (l : Loc) (off v : Nat) : State := s.putTagged tag none false (l.plus off) (bytesOfNat 4 v)

section
variable {s : State} (hok : s.cellsOk = true) (hch : s.dev.changes = []) {tag pa off v : Nat}
include hok hch

theorem stores_putWord : Stores s (s.putWord tag (.phys pa) off v) fun x n => x = .phys (pa + off) ∧ n = 4 := by
  have h := stores_putTagged hok hch tag none false (.phys (pa + off)) (bs := bytesOfNat 4 v) (List.ne_nil_of_length_pos (by rw [length_bytesOfNat]; decide))
  rwa [length_bytesOfNat] at h

theorem State.word_putWord_same (hv : v < 2 ^ 32) : natOfBytes ((s.putWord tag (.phys pa) off v).bytesAt none false (.phys (pa + off)) 4) = v := by
  have h := State.bytesAt_putTagged hok hch tag none false (l := .phys (pa + off)) (bs := bytesOfNat 4 v) trivial
  rw [length_bytesOfNat] at h
  refine (congrArg natOfBytes h).trans ((natOfBytes_bytesOfNat 4 v).trans (Nat.mod_eq_of_lt hv))

theorem State.byte_putWord_other {b : Nat} (hb : b < pa + off ∨ pa + off + 4 ≤ b) : (s.putWord tag (.phys pa) off v).byteAt none false (.phys b) = s.byteAt none false (.phys b) :=
  (stores_putWord hok hch).bytes none false _ fun x n hx hh => by
    obtain ⟨rfl, rfl⟩ := hx
    simp only [Loc.holds] at hh
    omega
end

/-! ## The arrival -/

section
variable {s : State} {tag asid launch : Nat} {l : Loc}

/-- A field of a bucket (R247). -/
def State.bucketField (s : State) (l : Loc) (off : Nat) : Nat := fieldAt (s.bytesAt none false l 32) off 4
/-- An arrival that fills the generation: no arrivals, and the next generation (R247). -/
def State.nextGeneration (s : State) (tag : Nat) (l : Loc) : State := (s.putWord tag l 4 0).putWord tag l 8 ((s.bucketField l 8 + 1) % 2 ^ 32)

theorem State.bucketStep_counts (h : (s.bucketField l 4 + 1) % 2 ^ 32 ≠ s.bucketField l 0) :
    s.bucketStep tag asid launch none l = (BitVec.ofNat 32 (s.bucketField l 8), false, s.putWord tag l 4 ((s.bucketField l 4 + 1) % 2 ^ 32)) := by
  have hn : bucketNext (s.bucketField l 0) (s.bucketField l 4) = ((s.bucketField l 4 + 1) % 2 ^ 32, false) := if_neg h
  rw [State.bucketStep]
  dsimp only
  rw [show bucketNext (fieldAt (s.bytesAt none false l 32) 0 4) (fieldAt (s.bytesAt none false l 32) 4 4) = _ from hn]
  rfl

theorem State.bucketStep_fills (h : (s.bucketField l 4 + 1) % 2 ^ 32 = s.bucketField l 0) :
    s.bucketStep tag asid launch none l = (BitVec.ofNat 32 (s.bucketField l 8), decide (fieldAt (s.bytesAt none false l 32) 0x10 8 ≠ 0),
      if fieldAt (s.bytesAt none false l 32) 0x10 8 = 0 then s.nextGeneration tag l else (s.nextGeneration tag l).postBucket asid launch none (fieldAt (s.bytesAt none false l 32) 0x10 8)) := by
  have hn : bucketNext (s.bucketField l 0) (s.bucketField l 4) = (0, true) := if_pos h
  rw [State.bucketStep]
  dsimp only
  rw [show bucketNext (fieldAt (s.bytesAt none false l 32) 0 4) (fieldAt (s.bytesAt none false l 32) 4 4) = _ from hn]
  by_cases hp : fieldAt (s.bytesAt none false l 32) 0x10 8 = 0
  · simp only [hp, if_true, ne_eq, not_true, decide_false]
    rfl
  · simp only [hp, if_true, if_false, ne_eq, not_false_iff, decide_true]
    rfl

/-- What a post of a bucket's collective leaves alone, and the command that it adds (R248). -/
theorem State.postBucket_posts {post la : Nat} (h : s.target (BitVec.ofNat 64 post) = some (.here la)) :
    Posted s.fresh.2 (s.postBucket asid launch none post)
      ∧ ∃ y ∈ (s.postBucket asid launch none post).eng.cmds, y.2.kind = .collPost ∧ y.2.blockEa = BitVec.ofNat 64 post ∧ y.2.token = none ∧ y.2.launch = launch := by
  rw [State.postBucket, h]
  dsimp only
  refine ⟨Posted.trans ⟨_, _, .refl _⟩ (.registerColl ..), ?_⟩
  rcases registerColl_cmds _ _ _ with he | ⟨gt, b, he⟩
  · rw [he]
    exact ⟨_, List.mem_append_right _ (List.mem_singleton_self _), rfl, rfl, rfl, rfl⟩
  · rw [he]
    exact ⟨_, lookup_mem (lookup_put_same ..), rfl, rfl, rfl, rfl⟩
end

section
variable {s : State} {p : Packet} {g : Group} {d a : Reg} {i : Nat} {pl : Place} (hs : s.issuing = some (p, g)) (hw : g.waitOf p.cur.pc p.cur.place = none) (hc : s.certified g = false) (hst : ∀ x ∈ s.eng.staged, x.gid ≠ p.gid)
  (hd : g.deferredFor Deferred.atRelease = none) (hp : s.performed p.gid g .system = true) (hi : g.list p.cur.lanes = [i])
include hs hw hc hst hd hp hi

/-- An arrival of one lane at a bucket that passes its checks (R247): the release, the step, and the entry that delivers the generation. -/
theorem exec_bucketArrive (hb : s.bucketAt (s.ctxOf p.gid g) (fun _ => 0) (g.readPair s.cycle i a) = .ok pl) (ht : s.tileBefore (s.ctxOf p.gid g) pl.tile pl.loc 32 true = none) {w : Word} {b : Bool} {v : State}
    (hv : (s.writeBack g.core).bucketStep s.dev.qepoch (s.ctxOf p.gid g).asid (s.ctxOf p.gid g).launch none pl.loc = (w, b, v)) (hcert : ∀ h, v.certified h = s.certified h) :
    ∃ x : SbEntry, x.kind = .ready ∧ (i, d, w) ∈ x.vals ∧ exec (.bucketArrive d a) s = .next (v.fresh.2.setGroup p.gid (g.withEntry p.cur.lanes (succPc p.cur.pc) x)) := by
  have hctx : s.ctxAt p g = s.ctxOf p.gid g := by
    rw [State.ctxAt, hw]
    rfl
  have hmem : (i, d, w) ∈ wordWrites d [(i, [w])] := by
    have h := mem_wordWrites (d := d) (i := i) (k := 0) (w := w) (List.mem_singleton_self (i, [w])) rfl
    rwa [Reg.plus_zero] at h
  refine ⟨{ id := v.sched.nextId, pc := p.cur.pc, lanes := p.cur.lanes, regs := [d], vals := wordWrites d [(i, [w])], due := v.cycle + 16, kind := .ready, op := .nothing, rows := [], epoch := v.dev.qepoch }, rfl, hmem, (State.issue_eq hs _).trans (congrArg _ ?_)⟩
  refine (State.orDeferred_none hd _).trans ((if_neg (by rw [hp]; simp)).trans ?_)
  have haccs : ((g.list p.cur.lanes).map fun i => ({ lane := i, ea := g.readPair s.cycle i a, out := s.bucketAt (s.ctxAt p g) (s.bucketPlaces (s.ctxAt p g) (((g.list p.cur.lanes).filter (· < i)).map fun j => g.readPair s.cycle j a)).count (g.readPair s.cycle i a) } : LaneAcc))
      = accsOf [i] (fun i => g.readPair s.cycle i a) fun _ => .ok pl := by
    rw [hi, hctx, ← hb]
    simp only [List.map_cons, List.map_nil, accsOf, List.filter_cons, lt_irrefl, decide_false, Bool.false_eq_true, if_false, List.filter_nil]
    rfl
  have hok : ∀ j ∈ [i], (fun _ => Checked.ok pl : Nat → Checked) j = .ok ((fun _ => pl : Nat → Place) j) := fun _ _ => rfl
  dsimp only
  rw [haccs, State.checkAll_go hw (remoteLanes_accsOf_ok hok) [] _ (by rw [causesOf_accsOf_ok hok]; rfl)]
  dsimp only
  rw [placesOf_accsOf_ok hok, remoteLanes_accsOf_ok hok, hctx]
  simp only [List.map_cons, List.map_nil, List.findSome?_cons, List.findSome?_nil, ht]
  rw [if_neg (ne_true_of_eq_false (State.owes_publish (g := g) hst _ _)), Group.leaveWait_of_waitOf_none hw]
  have hsteps : (s.publish g .system).bucketSteps (s.ctxOf p.gid g).tag (s.ctxOf p.gid g).asid (s.ctxOf p.gid g).launch none [(i, pl.loc)] = ([(i, [w])], b.toNat, v) := by
    rw [State.bucketSteps, show (s.publish g .system).bucketStep (s.ctxOf p.gid g).tag (s.ctxOf p.gid g).asid (s.ctxOf p.gid g).launch none pl.loc = _ from hv]
    dsimp only
    rw [State.bucketSteps, Nat.zero_add]
  rw [hsteps]
  dsimp only
  rw [show v.bucketSends p.gid (s.ctxOf p.gid g) [] = ([], v) from rfl]
  dsimp only
  rw [show (v.finish p g).closeFor p.gid false = v.finish p g from State.closeFor_setGroup (u := v) hcert (by exact hc) false]
  exact State.addEntry_finish ..
end

/-- The words of a bucket whose generation was filled, and the bytes outside its count (R247). -/
theorem State.nextGeneration_bytes {s : State} (hok : s.cellsOk = true) (hch : s.dev.changes = []) (tag pa : Nat) :
    (s.nextGeneration tag (.phys pa)).bucketField (.phys pa) 4 = 0 ∧ (s.nextGeneration tag (.phys pa)).bucketField (.phys pa) 8 = (s.bucketField (.phys pa) 8 + 1) % 2 ^ 32
      ∧ ∀ b, (b < pa + 4 ∨ pa + 12 ≤ b) → (s.nextGeneration tag (.phys pa)).byteAt none false (.phys b) = s.byteAt none false (.phys b) := by
  have hfirst := stores_putWord hok hch (tag := tag) (pa := pa) (off := 4) (v := 0)
  have hch' : (s.putWord tag (.phys pa) 4 0).dev.changes = [] := hfirst.only.dev.symm ▸ hch
  refine ⟨?_, ?_, fun b hb => ?_⟩
  · rw [State.bucketField, State.fieldAt_bytesAt _ _ _ _ (by decide)]
    refine Eq.trans (congrArg natOfBytes ?_) (State.word_putWord_same hok hch (tag := tag) (pa := pa) (off := 4) (v := 0) (by decide))
    rw [State.bytesAt_eq, State.bytesAt_eq]
    refine List.map_congr_left fun k hk => State.byte_putWord_other hfirst.wf hch' ?_
    have := List.mem_range.mp hk
    omega
  · rw [State.bucketField, State.fieldAt_bytesAt _ _ _ _ (by decide)]
    exact State.word_putWord_same hfirst.wf hch' (Nat.mod_lt _ (by decide))
  · exact (State.byte_putWord_other hfirst.wf hch' (by omega)).trans (State.byte_putWord_other hok hch (by omega))

theorem bytesOnly_nextGeneration (s : State) (tag : Nat) (l : Loc) : BytesOnly s (s.nextGeneration tag l) := (bytesOnly_putTagged ..).trans (bytesOnly_putTagged ..)
theorem BytesOnly.target {s t : State} (h : BytesOnly s t) (ea : DWord) : t.target ea = s.target ea := by rw [State.target, State.target, h.fab]
theorem State.bytesAt_one_congr {s t : State} {core : Option Nat} {priv : Bool} {l : Loc} (h : t.byteAt core priv l = s.byteAt core priv l) : t.bytesAt core priv l 1 = s.bytesAt core priv l 1 := by
  rw [State.bytesAt_one, State.bytesAt_one, h]

theorem State.bytesAt_setGroup (s : State) (k : Nat) (g : Group) (l : Loc) (n : Nat) : (s.fresh.2.setGroup k g).bytesAt none false l n = s.bytesAt none false l n := rfl
/-- A post of a bucket's collective changes no byte and no kernel. -/
theorem Posted.postBucket (s : State) (asid launch post : Nat) :
    (∀ g, (s.postBucket asid launch none post).certified g = s.certified g) ∧ ∀ l n, (s.postBucket asid launch none post).bytesAt none false l n = s.bytesAt none false l n := by
  cases h : s.target (BitVec.ofNat 64 post) with
  | none =>
    rw [State.postBucket, h]
    exact ⟨fun _ => rfl, fun _ _ => rfl⟩
  | some x =>
    cases x with
    | here la => exact ⟨(State.postBucket_posts h).1.certified, (State.postBucket_posts h).1.bytesAt⟩
    | remote d la =>
      rw [State.postBucket, h]
      exact ⟨fun _ => rfl, fun _ _ => rfl⟩
    | scratch o =>
      rw [State.postBucket, h]
      exact ⟨fun _ => rfl, fun _ _ => rfl⟩

/-- Settles O47: an arrival counts, or fills the generation and, with a POST, posts the bucket's collective. -/
theorem bucketResults : Obligations.BucketResults := by
  intro s p g hs hw hc hst hd hp hok hch d a i pl pa
  dsimp only
  intro hi hb hloc ht
  have hbytes : BytesOnly s (s.writeBack g.core) := bytesOnly_writeBack ..
  have hok' := s.cellsOk_writeBack g.core hok
  have hch' : (s.writeBack g.core).dev.changes = [] := hbytes.dev.symm ▸ hch
  have goes : ∀ (w : Word) (b : Bool) (v : State), (s.writeBack g.core).bucketStep s.dev.qepoch (s.ctxOf p.gid g).asid (s.ctxOf p.gid g).launch none pl.loc = (w, b, v) → (∀ h, v.certified h = s.certified h) →
      ∃ x : SbEntry, x.kind = .ready ∧ (i, d, w) ∈ x.vals ∧ exec (.bucketArrive d a) s = .next (v.fresh.2.setGroup p.gid (g.withEntry p.cur.lanes (succPc p.cur.pc) x)) :=
    fun w b v hv hcert => exec_bucketArrive hs hw hc hst hd hp hi hb ht hv hcert
  have hnext := State.nextGeneration_bytes hok' hch' s.dev.qepoch pa
  rw [hloc] at goes ⊢
  by_cases hlast : ((s.writeBack g.core).bucketField (.phys pa) 4 + 1) % 2 ^ 32 = (s.writeBack g.core).bucketField (.phys pa) 0
  · have hlast' : (fieldAt ((s.writeBack g.core).bytesAt none false (.phys pa) 32) 4 4 + 1) % 2 ^ 32 = fieldAt ((s.writeBack g.core).bytesAt none false (.phys pa) 32) 0 4 := hlast
    have hstep := State.bucketStep_fills (tag := s.dev.qepoch) (asid := (s.ctxOf p.gid g).asid) (launch := (s.ctxOf p.gid g).launch) hlast
    have hgen := hbytes.trans (bytesOnly_nextGeneration (s.writeBack g.core) s.dev.qepoch (.phys pa))
    obtain ⟨hcount, hgenr, hothers⟩ := hnext
    by_cases hpost : fieldAt ((s.writeBack g.core).bytesAt none false (.phys pa) 32) 0x10 8 = 0
    · rw [if_pos hpost] at hstep
      obtain ⟨x, hx, hval, he⟩ := goes _ _ _ hstep hgen.certified
      refine ⟨_, _, x, he, State.group?_setGroup_same .., rfl, g.moved_withEntry .., hx, hval, fun h => absurd hlast' h, fun _ _ => ⟨?_, ?_, fun b hb => ?_⟩, fun la _ h => absurd hpost h⟩
      · exact (congrArg (fieldAt · 4 4) (State.bytesAt_setGroup ..)).trans hcount
      · exact (congrArg (fieldAt · 8 4) (State.bytesAt_setGroup ..)).trans hgenr
      · exact (State.bytesAt_setGroup ..).trans (State.bytesAt_one_congr (hothers b hb))
    · rw [if_neg hpost] at hstep
      have hframe := Posted.postBucket ((s.writeBack g.core).nextGeneration s.dev.qepoch (.phys pa)) (s.ctxOf p.gid g).asid (s.ctxOf p.gid g).launch (fieldAt ((s.writeBack g.core).bytesAt none false (.phys pa) 32) 0x10 8)
      obtain ⟨x, hx, hval, he⟩ := goes _ _ _ hstep fun h => (hframe.1 h).trans (hgen.certified h)
      refine ⟨_, _, x, he, State.group?_setGroup_same .., rfl, g.moved_withEntry .., hx, hval, fun h => absurd hlast' h, fun _ h => absurd h hpost, fun la _ _ hla => ⟨?_, ?_, fun b hb => ?_, ?_⟩⟩
      · exact (congrArg (fieldAt · 4 4) ((State.bytesAt_setGroup ..).trans (hframe.2 ..))).trans hcount
      · exact (congrArg (fieldAt · 8 4) ((State.bytesAt_setGroup ..).trans (hframe.2 ..))).trans hgenr
      · exact ((State.bytesAt_setGroup ..).trans (hframe.2 ..)).trans (State.bytesAt_one_congr (hothers b hb))
      · exact (State.postBucket_posts ((hgen.target _).trans hla)).2
  · have hlast' : ¬ (fieldAt ((s.writeBack g.core).bytesAt none false (.phys pa) 32) 4 4 + 1) % 2 ^ 32 = fieldAt ((s.writeBack g.core).bytesAt none false (.phys pa) 32) 0 4 := hlast
    have hput := stores_putWord hok' hch' (tag := s.dev.qepoch) (pa := pa) (off := 4) (v := ((s.writeBack g.core).bucketField (.phys pa) 4 + 1) % 2 ^ 32)
    obtain ⟨x, hx, hval, he⟩ := goes _ _ _ (State.bucketStep_counts hlast) (hbytes.trans hput.only).certified
    refine ⟨_, _, x, he, State.group?_setGroup_same .., rfl, g.moved_withEntry .., hx, hval, fun _ => ⟨?_, fun b hb => ?_⟩, fun h => absurd h hlast', fun la h => absurd h hlast'⟩
    · refine Eq.trans (congrArg (fieldAt · 4 4) (State.bytesAt_setGroup ..)) (Eq.trans ?_ (State.word_putWord_same hok' hch' (tag := s.dev.qepoch) (pa := pa) (off := 4) (Nat.mod_lt _ (by decide))))
      exact State.fieldAt_bytesAt _ _ _ _ (by decide)
    · exact (State.bytesAt_setGroup ..).trans (State.bytesAt_one_congr (State.byte_putWord_other hok' hch' (by omega)))

end Sys2Proof.Machine
end

section
/-! SUPPORT. Posts to the engines (O50): the commands that enter the table, and the posting instructions. -/
namespace Sys2Proof.Machine

/-! ## The commands that enter the table (R260, R261) -/

theorem State.modTeam_eng (s : State) (k : Nat) (f : Team → Team) : (s.modTeam k f).eng = s.eng := by
  unfold State.modTeam
  split <;> rfl

theorem State.bindQueue_keeps (s : State) (c : Ctx) (team : Nat) (q : Queue) : (s.bindQueue c team q).groups = s.groups ∧ (s.bindQueue c team q).eng = s.eng := by
  unfold State.bindQueue
  split
  · exact ⟨rfl, rfl⟩
  · have hfield : BytesOnly s (if (s.flushQueue c q).qTeam c q.place = 0 then (s.flushQueue c q).setField c q.place 0x1C 4 (2 ^ 31 + (‹Team›).btag) else s.flushQueue c q) := by
      split
      · exact (bytesOnly_flushQueue ..).trans (bytesOnly_setField ..)
      · exact bytesOnly_flushQueue ..
    dsimp only
    split
    · exact ⟨hfield.groups, hfield.eng⟩
    · exact ⟨(State.modTeam_groups ..).trans hfield.groups, (State.modTeam_eng ..).trans hfield.eng⟩

theorem State.bindFor_keeps (s : State) (c : Ctx) (team : Nat) (k : EngineKind) (b : List Byte) : (s.bindFor c team k b).groups = s.groups ∧ (s.bindFor c team k b).eng = s.eng := by
  unfold State.bindFor
  split
  · exact ⟨rfl, rfl⟩
  · split
    · exact ⟨rfl, rfl⟩
    · split
      · exact ⟨rfl, rfl⟩
      · next q _ => exact s.bindQueue_keeps c team q

theorem State.deal_keeps (s : State) (id : Nat) (c : Cmd) : (s.deal id c).groups = s.groups ∧ (s.deal id c).eng.cmds = s.eng.cmds := by
  unfold State.deal
  dsimp only
  split
  · exact ⟨rfl, rfl⟩
  · exact ⟨rfl, rfl⟩

/-- The command that a post enters (R260). -/
def State.newCmd (s : State) (g : Group) (gid : Nat) (k : EngineKind) (t : Option Token) (lane : Option Nat) (ea : DWord) (b : List Byte) : Cmd :=
  { kind := k, gid := gid, team := g.team, launch := s.launchIdOf g, core := g.core, token := t, blockEa := ea, block := b, asid := s.asidOf g, cert := s.certified g,
    order := s.sched.nextId, posted := s.timebase, items := List.range (itemCount k b), results := [], dueAt := s.cycle + cmdCycles k b, started := false, datums := [],
    outbuf := [], inbuf := [], gate := .ready, tile := none, tileFail := none, epoch := s.dev.qepoch, lane := lane }
theorem State.addCmd_cmds (s : State) (g : Group) (gid : Nat) (k : EngineKind) (t : Option Token) (lane : Option Nat) (ea : DWord) (b : List Byte) :
    (s.addCmd g gid k t lane ea b).2.eng.cmds = s.eng.cmds ++ [(s.sched.nextId, s.newCmd g gid k t lane ea b)] := rfl

/-- What a command holds when it is posted. -/
def Cmd.Posted (c : Cmd) (k : EngineKind) (gid : Nat) (t : Option Token) : Prop := c.kind = k ∧ c.gid = gid ∧ c.token = t ∧ c.results = [] ∧ c.started = false

/-- The posts of an instruction add one command for each block, in order, and change no group (R260). -/
theorem State.postAllCmds_adds (g : Group) (gid : Nat) (k : EngineKind) (t : Option Token) (xs : List (Nat × DWord × List Byte)) (s : State) :
    (s.postAllCmds g gid k t xs).groups = s.groups
      ∧ ∃ cs, (s.postAllCmds g gid k t xs).eng.cmds = s.eng.cmds ++ cs ∧ cs.map (fun x => (x.2.blockEa, x.2.block)) = xs.map (·.2) ∧ ∀ x ∈ cs, x.2.Posted k gid t := by
  induction xs generalizing s with
  | nil => exact ⟨rfl, [], (List.append_nil _).symm, rfl, fun x hx => nomatch hx⟩
  | cons x xs ih =>
    obtain ⟨i, ea, b⟩ := x
    obtain ⟨hbg, hbe⟩ := s.bindFor_keeps (s.ctxOf gid g) g.team k b
    rw [State.postAllCmds]
    dsimp only
    have hstep : ∀ (u : State) (y : Nat × Cmd), y.2.Posted k gid t → (y.2.blockEa, y.2.block) = (ea, b) → u.groups = s.groups → u.eng.cmds = s.eng.cmds ++ [y] →
        (u.postAllCmds g gid k t xs).groups = s.groups
          ∧ ∃ cs, (u.postAllCmds g gid k t xs).eng.cmds = s.eng.cmds ++ cs ∧ cs.map (fun x => (x.2.blockEa, x.2.block)) = ((i, ea, b) :: xs).map (·.2) ∧ ∀ x ∈ cs, x.2.Posted k gid t := fun u y hy hb hg hc => by
      obtain ⟨hgs, cs, hcs, hmap, hall⟩ := ih u
      refine ⟨hgs.trans hg, y :: cs, ?_, ?_, List.forall_mem_cons.mpr ⟨hy, hall⟩⟩
      · rw [hcs, hc, List.append_assoc]
        rfl
      · rw [List.map_cons, List.map_cons, hb, hmap]
    have hadd : ((s.bindFor (s.ctxOf gid g) g.team k b).addCmd g gid k t (some i) ea b).2.eng.cmds = s.eng.cmds ++ [((s.bindFor (s.ctxOf gid g) g.team k b).sched.nextId, (s.bindFor (s.ctxOf gid g) g.team k b).newCmd g gid k t (some i) ea b)] := by
      rw [State.addCmd_cmds, hbe]
    split
    · next c _ => exact hstep _ _ ⟨rfl, rfl, rfl, rfl, rfl⟩ rfl ((State.deal_keeps ..).1.trans hbg) ((State.deal_keeps ..).2.trans hadd)
    · exact hstep _ _ ⟨rfl, rfl, rfl, rfl, rfl⟩ rfl hbg hadd

/-- The posts of coll.post change no group. -/
theorem State.postColls_groups (g : Group) (gid : Nat) (t : Token) (xs : List (DWord × List Byte)) (s : State) : (s.postColls g gid t xs).groups = s.groups := by
  induction xs generalizing s with
  | nil => rfl
  | cons x xs ih =>
    rw [State.postColls]
    refine (ih _).trans ?_
    split
    · exact (Posted.registerColl ..).frame.1.trans rfl
    · rfl

/-! ## The posting instructions -/

section
variable {s : State} {p : Packet} {g : Group} {a : Reg} {k : Token} {bs : List (DWord × List Byte)} (hs : s.issuing = some (p, g)) (hw : g.waitOf p.cur.pc p.cur.place = none)
include hs hw

/-- A posting instruction whose blocks pass their checks (R259 to R261). -/
theorem postInstr_posts {e : EngineKind} (hbs : s.laneBlocks p g a (s.readBlock (s.ctxOf p.gid g) g e) = .ok bs) (hq : ∀ b ∈ bs, s.queueBlocked (s.ctxOf p.gid g) e b.2 = none) :
    postInstr s e a k = .next (if (g.token k).st == .busy then s.trapAt p.gid p.cur .tokenBusy p.cur.lanes 0
      else if 64 < s.tableUse g.core + bs.length then s.setGroup p.gid (g.enterWait s.cycle .table p.cur)
      else (s.finish p (g.startToken k bs.length)).postAllCmds g p.gid e (some k) ((g.list p.cur.lanes).zip bs)) := by
  have hctx : s.ctxAt p g = s.ctxOf p.gid g := by
    rw [State.ctxAt, hw]
    rfl
  refine (State.issue_eq hs _).trans (congrArg _ ?_)
  dsimp only
  rw [hctx, hbs]
  dsimp only
  rw [List.findSome?_eq_none_iff.mpr hq, Group.leaveWait_of_waitOf_none hw]
  rfl
end

section
variable {s : State} {p : Packet} {g : Group} {a : Reg} {k : Token} {tm : Team} {b : List Byte} (hs : s.issuing = some (p, g)) (hw : g.waitOf p.cur.pc p.cur.place = none) (htm : s.teamOf g = some tm)
  (hdesc : s.descriptor (s.ctxOf p.gid g) (g.readPair s.cycle (g.lowest p.cur.lanes) a) 64 32 = .ok b) (hok : s.phaseOk g.team (s.positions tm) b = true) (hidle : (g.token k).st ≠ .busy) (hlive : g.liveMask = p.cur.lanes)
  (hdiff : s.phaseDiffers tm (g.readPair s.cycle (g.lowest p.cur.lanes) a) (lmSub p.cur.word) = false)
  (hea : ∀ i, p.cur.lanes.getLsbD i = true → i < g.width → g.readPair s.cycle i a = g.readPair s.cycle (g.lowest p.cur.lanes) a) (huse : s.tableUse g.core + 1 ≤ 64)
  (hd : g.deferredFor Deferred.atRelease = none) (hp : s.performed p.gid g .team = true)
include hs hw htm hdesc hok hidle hlive hdiff hea huse hd hp

/-- A group that arrives at a phase instruction waits for the compactor, its token BUSY, and its team notes the arrival (R307). -/
theorem phaseInstr_arrives : ∃ t h, phaseInstr s a k = .next t ∧ t.group? p.gid = some h ∧ h = { g with tokens := h.tokens, waits := h.waits } ∧ h.tokens = g.tokens.set k { st := .busy, left := 1, bad := false }
    ∧ (h.waitOf p.cur.pc p.cur.place).map (·.kind) = some (.phase (g.readPair s.cycle (g.lowest p.cur.lanes) a)) ∧ t.team? g.team = some { tm with arrived := tm.arrived ++ [(p.gid, g.readPair s.cycle (g.lowest p.cur.lanes) a, b)] } := by
  have hall : (g.list p.cur.lanes).any (fun i => g.readPair s.cycle i a != g.readPair s.cycle (g.lowest p.cur.lanes) a) = false := by
    refine List.any_eq_false.mpr fun i hi => ?_
    obtain ⟨hm, hlt⟩ := (g.mem_list _ i).mp hi
    simp [hea i hm hlt]
  have hteam : ((s.publish g .team).setGroup p.gid ((g.startToken k 1).enterWait (s.publish g .team).cycle (.phase (g.readPair s.cycle (g.lowest p.cur.lanes) a)) p.cur)).team? g.team = some tm :=
    (congrArg (lookup · g.team) (s.teams_publish g .team)).trans htm
  refine ⟨((s.publish g .team).setGroup p.gid ((g.startToken k 1).enterWait (s.publish g .team).cycle (.phase (g.readPair s.cycle (g.lowest p.cur.lanes) a)) p.cur)).modTeam g.team fun t =>
      { t with arrived := t.arrived ++ [(p.gid, g.readPair s.cycle (g.lowest p.cur.lanes) a, b)] }, _, (State.issue_eq hs _).trans (congrArg _ ?_),
    (congrArg (lookup · p.gid) (State.modTeam_groups ..)).trans (State.group?_setGroup_same ..), rfl, rfl, Group.kind_enterWait .., ?_⟩
  · dsimp only
    rw [htm]
    dsimp only
    rw [show g.ureadPair s.cycle p.cur.lanes a = g.readPair s.cycle (g.lowest p.cur.lanes) a from rfl, hdesc]
    refine (if_neg (by rw [hok]; decide)).trans ((if_neg (by simpa using hidle)).trans ((if_neg (by rw [hdiff, hall]; simp [hlive])).trans ((if_neg (not_lt.mpr huse)).trans ((State.orDeferred_none hd _).trans ((if_pos hp).trans ?_)))))
    rw [Group.leaveWait_of_waitOf_none hw]
  · rw [State.modTeam, hteam]
    exact State.team?_setTeam_same ..
end

theorem Group.moved_startToken (g : Group) (k : Token) (n : Nat) (m : LaneMask) (pc : DWord) : Moved g ((g.startToken k n).moveTo m pc) m pc := by
  obtain ⟨hcount, hacting, hothers⟩ := (g.startToken k n).moved_moveTo m pc
  exact ⟨hcount, hacting, hothers⟩

theorem State.length_laneBlocks {s : State} {p : Packet} {g : Group} {a : Reg} {read : DWord → Except (Cause × DWord) (List Byte)} {bs : List (DWord × List Byte)} (h : s.laneBlocks p g a read = .ok bs) : bs.length ≤ (g.list p.cur.lanes).length := by
  rw [State.laneBlocks] at h
  split at h
  · cases h
  · cases h
    exact (List.length_filterMap_le ..).trans (List.length_map ..).le

/-- Settles O50: the posts of the engines, of the phase instructions and of coll.post. -/
theorem enginePosts : Obligations.EnginePosts := by
  intro s p g hs hw a k
  dsimp only
  have hg := ((s.issuing_iff p g).mp hs).2
  refine ⟨fun i e bs hi hbs hq => ?_, fun restore tm b htm hdesc hok hidle hlive hdiff hea huse hd hp => ?_, fun bs hbs hidle huse hd hp hc => ?_⟩
  · have hexec : exec i s = postInstr s e a k := by
      simp only [List.mem_cons, List.not_mem_nil, or_false, Prod.mk.injEq] at hi
      rcases hi with ⟨rfl, rfl⟩ | ⟨rfl, rfl⟩ | ⟨rfl, rfl⟩ | ⟨rfl, rfl⟩ | ⟨rfl, rfl⟩ | ⟨rfl, rfl⟩ | ⟨rfl, rfl⟩ | ⟨rfl, rfl⟩ | ⟨rfl, rfl⟩ | ⟨rfl, rfl⟩ | ⟨rfl, rfl⟩ | ⟨rfl, rfl⟩ | ⟨rfl, rfl⟩ | ⟨rfl, rfl⟩ | ⟨rfl, rfl⟩ | ⟨rfl, rfl⟩ | ⟨rfl, rfl⟩ | ⟨rfl, rfl⟩ <;> rfl
    have hpost := hexec.trans (postInstr_posts (k := k) hs hw hbs hq)
    refine ⟨fun hb => hpost.trans (congrArg _ (if_pos (beq_iff_eq.mpr hb))), fun hb huse => ?_, fun hb huse => ?_⟩
    · exact ⟨_, hpost.trans (congrArg _ ((if_neg (by simpa using hb)).trans (if_pos huse))), rfl, Group.kind_enterWait ..⟩
    · obtain ⟨hgroups, cs, hcs, hmap, hall⟩ := State.postAllCmds_adds g p.gid e (some k) ((g.list p.cur.lanes).zip bs) (s.finish p (g.startToken k bs.length))
      refine ⟨_, _, cs, hpost.trans (congrArg _ ((if_neg (by simpa using hb)).trans (if_neg (by omega)))), (congrArg (lookup · p.gid) hgroups).trans (State.group?_finish ..), rfl, rfl, g.moved_startToken .., hcs, hmap.trans ?_, hall⟩
      exact List.map_snd_zip (State.length_laneBlocks hbs)
  · obtain ⟨t, h, he, hrest⟩ := phaseInstr_arrives hs hw htm hdesc hok hidle hlive hdiff hea huse hd hp
    exact ⟨t, h, Eq.trans (by cases restore <;> rfl) he, hrest⟩
  · have hpub := bytesOnly_publish s g .domain
    have hclose : ((s.publish g .domain).finish p (g.startToken k bs.length)).closeFor p.gid false = (s.publish g .domain).finish p (g.startToken k bs.length) :=
      State.closeFor_setGroup (u := s.publish g .domain) hpub.certified (by exact hc) false
    refine ⟨((s.publish g .domain).finish p (g.startToken k bs.length)).postColls g p.gid k bs, _, (State.issue_eq hs _).trans (congrArg _ ?_), (congrArg (lookup · p.gid) (State.postColls_groups ..)).trans (State.group?_finish ..), rfl, rfl, g.moved_startToken ..⟩
    have hbs' : ∀ x, x = Except.ok bs → (match (x : Except (Cause × LaneMask × DWord) (List (DWord × List Byte))) with
        | .error (x, m, ea) => s.trapAt p.gid p.cur x m ea
        | .ok bs => if (g.token k).st == .busy then s.trapAt p.gid p.cur .tokenBusy p.cur.lanes 0
          else s.orDeferred p g Deferred.atRelease <|
            if Config.tableEntries < s.tableUse g.core + bs.length then s.setGroup p.gid (g.enterWait s.cycle .table p.cur)
            else s.afterPerformed p g .domain true <| (((s.publish g .domain).finish p ((g.leaveWait p.cur).startToken k bs.length)).closeFor p.gid false).postColls g p.gid k bs)
          = ((s.publish g .domain).finish p (g.startToken k bs.length)).postColls g p.gid k bs := by
      rintro x rfl
      refine (if_neg (by simpa using hidle)).trans ((State.orDeferred_none hd _).trans ((if_neg (not_lt.mpr huse)).trans ((if_pos hp).trans ?_)))
      rw [Group.leaveWait_of_waitOf_none hw, hclose]
    exact hbs' _ hbs

end Sys2Proof.Machine
end

section
/-! SUPPORT. Queues (O46): a ring that lies over its own descriptor refutes the count of RESV. -/
namespace Sys2Proof.Machine

/-- A queue whose descriptor and ring both lie at byte 0 of HBM4: no rule of R242 or R506 keeps them apart. -/
def selfQueue : Queue := { ref := { loc := .phys 0, tile := none }, ea := 0, place := { ea := 0, loc := .phys 0, attr := 0x80#32, tile := none, n := 64 }, base := 0, cap := 16 }
/-- The group that pushes: every register of it holds 0. -/
def selfGroup : Group := newGroup placedKernel 0 0 0 0 0 0
/-- The packet of one lane. -/
def selfPacket : Packet := { placedPacket with cur := { placedPacket.cur with lanes := 1 } }
/-- A machine with that queue: CAP 16, RESV and COMMIT 5, so that the next entry's place in the ring is RESV itself. -/
def selfRing : State :=
  { State.reset.placed 0 with
    packet := some selfPacket
    mem := { (State.reset.placed 0).mem with hbm := [(8, 16), (0x14, 5), (0x18, 5)] } }

/-- RESV of the queue after a step. -/
def resvAfter (o : Host.Outcome State Fault Refusal) : Nat := match o with
  | .next t => fieldAt (t.bytesAt none false (.phys 0) 64) 0x14 4
  | _ => 6

theorem issuing_selfRing : selfRing.issuing = some (selfPacket, selfGroup) := rfl
/-- The push reserves, so that RESV is 6, and its entry, 0, then falls on RESV. -/
theorem resvAfter_selfRing : resvAfter (exec (.qpushU 0 6) selfRing) = 0 := by decide +kernel
theorem resvBefore_selfRing : fieldAt (((selfRing.flushQueues (selfRing.ctxOf 0 selfGroup) [(0, selfQueue)]).flushQueue (selfRing.ctxOf 0 selfGroup) selfQueue).bytesAt none false (.phys 0) 64) 0x14 4 = 5 := by decide +kernel
theorem queueLanes_selfRing : selfRing.queueLanes (selfRing.ctxOf 0 selfGroup) true selfGroup 1 6 = .ok [(0, selfQueue)] := by decide +kernel

/-- Refutes O46: that RESV counts the lanes of a push is claimed whatever the ring's place. In `selfRing` one lane's qpush.u passes its checks and finds room; RESV is 5 before it and, the entry's word lying over the field, 0 after it, not 6. -/
theorem not_queueResults : ¬ Obligations.QueueResults := by
  intro h
  obtain ⟨hpush, -⟩ := (h selfRing selfPacket selfGroup 0 6 [(0, selfQueue)]).1 issuing_selfRing (by decide +kernel) (by decide +kernel) (by decide +kernel) (by decide +kernel)
  obtain ⟨t, _, ht, -, -, -, -, hmem⟩ := (hpush false queueLanes_selfRing (by decide +kernel)).1 (by decide +kernel) (by decide +kernel)
  obtain ⟨hresv, -⟩ := hmem selfQueue 0 placedTeam (by decide +kernel) rfl (by decide +kernel) rfl (by decide +kernel) rfl rfl (by decide +kernel) (by decide +kernel)
  have hafter := resvAfter_selfRing
  rw [show exec (.qpushU 0 6) selfRing = .next t from ht] at hafter
  have hlanes : (lanesNaming [(0, selfQueue)] selfQueue.ref).length = 1 := by decide +kernel
  have hsix : fieldAt (t.bytesAt none false (.phys 0) 64) 0x14 4 = 6 := hresv.trans (by rw [hlanes]; exact congrArg (fun n => (n + 1) % 2 ^ 32) resvBefore_selfRing)
  exact absurd (hsix.symm.trans hafter) (by decide)

end Sys2Proof.Machine
end

section
/-! SUPPORT. Device-side launches and replays (O26). -/
namespace Sys2Proof.Machine

/-! ## Answers by the scoreboard -/

/-- An instruction that answers with words in every active lane moves its lanes on and enters one entry. -/
theorem State.answerWord_eq (s : State) (p : Packet) (g : Group) (ws : List (Reg × Word)) :
    ∃ e : SbEntry, s.answerWord p g ws = s.fresh.2.setGroup p.gid (g.withEntry p.cur.lanes (succPc p.cur.pc) e) ∧ e.kind = .ready ∧ e.due = s.cycle + 1 ∧ ∀ i, g.acts p.cur.lanes i → ∀ w ∈ ws, (i, w.1, w.2) ∈ e.vals := by
  refine ⟨_, s.addEntry_finish p g _, rfl, rfl, fun i hi w hw => ?_⟩
  exact List.mem_flatMap.mpr ⟨i, (g.mem_list _ i).mpr ⟨hi.1, hi.2.1⟩, List.mem_map.mpr ⟨w, hw, rfl⟩⟩

/-- An instruction of a kernel that is not certified closes no segment when it answers (R343). -/
theorem State.closeFor_answerWord {s : State} {g : Group} (hc : s.certified g = false) (p : Packet) (ws : List (Reg × Word)) (wait : Bool) : (s.answerWord p g ws).closeFor p.gid wait = s.answerWord p g ws := by
  obtain ⟨e, h, -⟩ := s.answerWord_eq p g ws
  rw [h]
  exact State.closeFor_of_not_certified (s := s.fresh.2.setGroup p.gid (g.withEntry p.cur.lanes (succPc p.cur.pc) e)) (State.group?_setGroup_same ..) hc wait

section
variable (s : State) (k : Nat) (g : Group)
theorem State.launch?_answered (j : Nat) : (s.fresh.2.setGroup k g).launch? j = s.launch? j := rfl
theorem State.team?_answered (j : Nat) : (s.fresh.2.setGroup k g).team? j = s.team? j := rfl
theorem State.mem_answered : (s.fresh.2.setGroup k g).mem = s.mem := rfl
theorem State.replays_answered : (s.fresh.2.setGroup k g).sched.replays = s.sched.replays := rfl
end

/-! ## What stands -/

theorem BytesOnly.asidOf {s t : State} (h : BytesOnly s t) (g : Group) : t.asidOf g = s.asidOf g := by rw [State.asidOf, State.asidOf, h.launchOf]

/-- Bytes written into HBM4 leave every team as it is. -/
theorem State.teams_putBytes_phys (s : State) (core : Option Nat) (priv : Bool) (pa : Nat) (bs : List Byte) : (s.putBytes core priv (.phys pa) bs).teams = s.teams := by
  refine foldl_kept (π := State.teams) (fun t a => ?_) _ s
  unfold State.putPhys
  split <;> rfl
theorem State.teams_writeLocal (s : State) (asid la : Nat) (bs : List Byte) : (s.writeLocal asid la bs).teams = s.teams := by
  refine foldl_kept (π := State.teams) (fun t a => ?_) _ s
  split
  · exact t.teams_putBytes_phys ..
  · rfl
theorem bytesOnly_writeLocal (s : State) (asid la : Nat) (bs : List Byte) : BytesOnly s (s.writeLocal asid la bs) := by
  refine .foldl (fun t a => ?_) _ s
  split
  · exact bytesOnly_putBytes ..
  · exact .refl t
theorem bytesOnly_openRecord (s : State) (asid : Nat) (r : LaunchRec) : BytesOnly s (s.openRecord asid r) := by
  unfold State.openRecord
  split
  · exact .refl s
  · exact bytesOnly_writeLocal ..
theorem State.teams_openRecord (s : State) (asid : Nat) (r : LaunchRec) : (s.openRecord asid r).teams = s.teams := by
  unfold State.openRecord
  split
  · rfl
  · exact s.teams_writeLocal ..

/-! ## Launches (R148, R149) -/

section
variable {s : State} {p : Packet} {g : Group} (hs : s.issuing = some (p, g)) (hw : g.waitOf p.cur.pc p.cur.place = none) (hp : s.performed p.gid g .device = true)

include hs hw hp in
/-- A launch instruction whose record can be read goes on with it (R149). -/
theorem launchInstr_reads {tryOnly : Bool} {d a : Reg} {bs : List Byte} (hr : (s.writeBack g.core).recordBytes ((s.writeBack g.core).ctxOf p.gid g) false (g.readPair s.cycle (g.lowest p.cur.lanes) a) 64 64 = .ok bs) :
    launchInstr s tryOnly d a = .next ((s.writeBack g.core).launchWith p g tryOnly d bs) := by
  refine (State.issue_eq hs _).trans (congrArg _ ((if_pos hp).trans ?_))
  have hnone : g.launchWait p.cur = none := by
    rw [Group.launchWait, hw]
    rfl
  rw [hnone]
  dsimp only
  rw [show g.ureadPair (s.publish g .device).cycle p.cur.lanes a = g.readPair s.cycle (g.lowest p.cur.lanes) a by rw [(bytesOnly_publish s g .device).cycle]; rfl, show s.publish g .device = s.writeBack g.core from rfl, hr]
end

/-- The launch that a launch instruction enters (R148, R417). -/
def State.newLaunch (u : State) (gid : Nat) (g : Group) (r : LaunchRec) (k : Kernel) (e w : Nat) : Launch :=
  { record := r, kern := k, asid := u.asidOf g, die := dieOf g.core, origin := .device g.team, st := .queued, entry := some e, order := u.sched.nextOrder, tadmit := 0, charge := 0,
    weight := (u.openGraph (u.asidOf g) r w (if w = 0 then none else u.rootOf g)).1, root := (u.openGraph (u.asidOf g) r w (if w = 0 then none else u.rootOf g)).2, nextGang := 0, teamsEnded := 0, cause := none, depth := 0,
    pairs := none, extra := 0, after := u.behindStaged gid }
/-- Its completion record opened (R50). -/
def State.recordOpened (u : State) (g : Group) (r : LaunchRec) : State :=
  ({ u with sched := { u.sched with nextId := u.sched.nextId + 1, nextOrder := u.sched.nextOrder + 1 } } : State).openRecord (u.asidOf g) r
/-- The state in which a launch has been entered (R148). -/
def State.launched (u : State) (gid : Nat) (g : Group) (r : LaunchRec) (k : Kernel) (e w : Nat) : State :=
  ((u.recordOpened g r).setLaunch u.sched.nextId (u.newLaunch gid g r k e w)).modTeam g.team fun x => { x with weight := x.weight - w }

section
variable {u : State} {p : Packet} {g : Group} {d : Reg} {bs : List Byte} {k : Kernel} (hw : g.waitOf p.cur.pc p.cur.place = none) (hc : u.certified g = false) (hk : u.checkRecord (u.asidOf g) bs = .ok k)

include hw in
theorem State.launchWith_refused {n : Nat} (hn : u.checkRecord (u.asidOf g) bs = .error n) (tryOnly : Bool) : u.launchWith p g tryOnly d bs = u.answerWord p g [(d, BitVec.ofNat 32 n)] := by
  rw [State.launchWith, hn, Group.leaveWait_of_waitOf_none hw]

include hk in
theorem State.launchWith_low (hshare : (if (recordOf bs).graph then some 0 else splitWeight (u.weightOf g) (recordOf bs).teams) = none) (tryOnly : Bool) : u.launchWith p g tryOnly d bs = u.trapAt p.gid p.cur .weightLow p.cur.lanes 0 := by
  rw [State.launchWith, hk]
  dsimp only
  rw [hshare]

variable {w : Nat} (hshare : (if (recordOf bs).graph then some 0 else splitWeight (u.weightOf g) (recordOf bs).teams) = some w)
include hw hc hk hshare

/-- A launch that finds no entry (R148). -/
theorem State.launchWith_full (he : u.ordinaryEntry (dieOf g.core) = none) (tryOnly : Bool) :
    u.launchWith p g tryOnly d bs = if tryOnly then u.answerWord p g [(d, 1)] else u.waitFor p g (.launchStore (dieOf g.core) bs) := by
  rw [State.launchWith, hk]
  dsimp only
  rw [hshare]
  dsimp only
  rw [he, hc, Group.leaveWait_of_waitOf_none hw]
  cases tryOnly <;> rfl

omit hc in
/-- A launch that finds an entry (R148). -/
theorem State.launchWith_enters {e : Nat} (he : u.ordinaryEntry (dieOf g.core) = some e) (tryOnly : Bool) :
    u.launchWith p g tryOnly d bs = ((u.launched p.gid g (recordOf bs) k e w).answerWord p g [(d, 0)]).closeFor p.gid false := by
  rw [State.launchWith, hk]
  dsimp only
  rw [hshare]
  dsimp only
  rw [he, Group.leaveWait_of_waitOf_none hw]
  have hmod : ∀ (t : State) (l : Launch) (f : Launch → Launch), (t.setLaunch u.sched.nextId l).modLaunch u.sched.nextId f = t.setLaunch u.sched.nextId (f l) := fun t l f => by
    rw [State.modLaunch, show (t.setLaunch u.sched.nextId l).launch? u.sched.nextId = some l from lookup_put_same ..]
    exact congrArg (fun ls => ({ t with launches := ls } : State)) (put_put ..)
  exact congrArg (fun t : State => ((t.modTeam g.team fun x => { x with weight := x.weight - w }).answerWord p g [(d, 0)]).closeFor p.gid false)
    (hmod (u.recordOpened g (recordOf bs)) { u.newLaunch p.gid g (recordOf bs) k e w with after := none } fun x => { x with after := u.behindStaged p.gid })
end

/-- A team's weight is no part of what names its launch. -/
theorem State.certified_modWeight (s : State) (k : Nat) (f : Team → Nat) (g : Group) : (s.modTeam k fun x => { x with weight := f x }).certified g = s.certified g := by
  unfold State.modTeam
  split
  · next tm h =>
    have hid : (s.setTeam k { tm with weight := f tm }).launchIdOf g = s.launchIdOf g := by
      rw [State.launchIdOf, State.launchIdOf, State.gangOf, State.gangOf, State.teamOf, State.teamOf]
      by_cases hk : g.team = k
      · rw [hk, State.team?_setTeam_same, h]
        rfl
      · rw [State.team?_setTeam_other _ _ _ _ hk]
        rfl
    rw [State.certified, State.certified, State.launchOf, State.launchOf, hid]
    rfl
  · rfl

theorem State.modTeam_sched (s : State) (k : Nat) (f : Team → Team) : (s.modTeam k f).sched = s.sched := by
  unfold State.modTeam
  split <;> rfl

theorem State.team?_modWeight {s : State} {k : Nat} {tm : Team} (h : s.team? k = some tm) (f : Team → Nat) : (s.modTeam k fun x => { x with weight := f x }).team? k = some { tm with weight := f tm } := by
  rw [State.modTeam, h]
  exact State.team?_setTeam_same ..

section
variable (u : State) (gid : Nat) (g : Group) (r : LaunchRec) (k : Kernel) (e w : Nat)
theorem bytesOnly_recordOpened : BytesOnly { u with sched := { u.sched with nextId := u.sched.nextId + 1, nextOrder := u.sched.nextOrder + 1 } } (u.recordOpened g r) := bytesOnly_openRecord ..
theorem State.teams_recordOpened : (u.recordOpened g r).teams = u.teams := (State.teams_openRecord ..).trans rfl
theorem State.groups_launched : (u.launched gid g r k e w).groups = u.groups := (State.modTeam_groups ..).trans (bytesOnly_recordOpened u g r).groups
theorem State.launch?_launched : (u.launched gid g r k e w).launch? u.sched.nextId = some (u.newLaunch gid g r k e w) := by
  unfold State.launched State.modTeam
  split <;> exact lookup_put_same _ _ _
theorem State.mem_launched (h : r.compl = 0) : (u.launched gid g r k e w).mem = u.mem := by
  have hmem : (u.recordOpened g r).mem = u.mem := by rw [State.recordOpened, State.openRecord, if_pos h]
  unfold State.launched State.modTeam
  split <;> exact hmem
theorem State.team?_launched {tm : Team} (h : u.team? g.team = some tm) : (u.launched gid g r k e w).team? g.team = some { tm with weight := tm.weight - w } :=
  State.team?_modWeight (s := (u.recordOpened g r).setLaunch u.sched.nextId (u.newLaunch gid g r k e w)) ((congrArg (lookup · g.team) (u.teams_recordOpened g r)).trans h) fun x => x.weight - w
theorem State.certified_launched (h : u.launchIdOf g ≠ u.sched.nextId) : (u.launched gid g r k e w).certified g = u.certified g := by
  refine (State.certified_modWeight ..).trans ?_
  refine Eq.trans ?_ ((bytesOnly_recordOpened u g r).certified g)
  have hid : ((u.recordOpened g r).setLaunch u.sched.nextId (u.newLaunch gid g r k e w)).launchIdOf g = u.launchIdOf g := (bytesOnly_recordOpened u g r).launchIdOf g
  rw [State.certified, State.launchOf, hid, State.certified, State.launchOf, (bytesOnly_recordOpened u g r).launchIdOf g]
  exact congrArg (fun x => (Option.map (fun l : Launch => l.kern.ordered) x).getD false) (lookup_put_other _ _ _ _ h)
end

/-! ## Replays (R150) -/

/-- What a replay without a patch leaves when it is accepted. -/
theorem State.acceptReplay_facts (u : State) (gid : Nat) (g : Group) (asid la b : Nat) (h : List Byte) (n w : Nat) :
    (u.acceptReplay gid g asid la b h [] n w).groups = u.groups ∧ (∀ k, (u.acceptReplay gid g asid la b h [] n w).certified k = u.certified k)
      ∧ (∀ tm, u.team? g.team = some tm → (u.acceptReplay gid g asid la b h [] n w).team? g.team = some { tm with weight := tm.weight - w })
      ∧ ∃ id r, (u.acceptReplay gid g asid la b h [] n w).sched.replays = u.sched.replays ++ [(id, r)] ∧ r.graph = la ∧ r.asid = asid ∧ r.buffer = some b ∧ r.started = false ∧ r.nnode = n ∧ r.weight = w := by
  have hbytes : ∃ v : State, BytesOnly u.fresh.2 v ∧ v.teams = u.teams ∧ ∃ rs : List (Nat × Replay), u.acceptReplay gid g asid la b h [] n w = { v.modTeam g.team fun t => { t with weight := t.weight - w } with sched := { (v.modTeam g.team fun t => { t with weight := t.weight - w }).sched with replays := rs } }
      ∧ ∃ id r, rs = (v.modTeam g.team fun t => { t with weight := t.weight - w }).sched.replays ++ [(id, r)] ∧ r.graph = la ∧ r.asid = asid ∧ r.buffer = some b ∧ r.started = false ∧ r.nnode = n ∧ r.weight = w :=
    ⟨_, (bytesOnly_writeLocal ..).trans (bytesOnly_writeLocal ..), (State.teams_writeLocal ..).trans ((State.teams_writeLocal ..).trans rfl), _, rfl, _, _, rfl, rfl, rfl, rfl, rfl, rfl, rfl⟩
  obtain ⟨v, hv, ht, rs, he, id, r, hrs, hr⟩ := hbytes
  rw [he]
  refine ⟨(State.modTeam_groups ..).trans hv.groups, fun k => (State.certified_modWeight ..).trans (hv.certified k), fun tm htm => ?_, id, r, hrs.trans ?_, hr⟩
  · exact State.team?_modWeight (s := v) (by rw [State.team?, ht]; exact htm) fun x => x.weight - w
  · exact (congrArg (fun x : Sched => x.replays ++ [(id, r)]) ((State.modTeam_sched ..).trans hv.sched)).trans rfl

/-- The replay instruction with its header read (R150). -/
theorem exec_gReplay {s : State} {p : Packet} {g : Group} (hs : s.issuing = some (p, g)) (hp : s.performed p.gid g .device = true) {d a b : Reg} {t : State}
    (ht : (s.writeBack g.core).replayWith p g d (g.readPair s.cycle (g.lowest p.cur.lanes) a) (g.readPair s.cycle (g.lowest p.cur.lanes) b) = .ok t) : exec (.gReplay d a b) s = .next t := by
  refine (State.issue_eq hs _).trans (congrArg _ ((if_pos hp).trans ?_))
  have hread : ∀ r, g.ureadPair (s.publish g .device).cycle p.cur.lanes r = g.readPair s.cycle (g.lowest p.cur.lanes) r := fun r => by
    rw [(bytesOnly_publish s g .device).cycle]
    rfl
  dsimp only
  rw [hread, hread, show s.publish g .device = s.writeBack g.core from rfl, ht]

/-- A replay without a patch that is accepted (R150, R422). -/
theorem replayWith_accepts {u : State} {p : Packet} {g : Group} {d : Reg} {graph patch : DWord} {hb : List Byte} {ns : List (Node × LaunchRec × Kernel)} {n w : Nat} {pg : Page}
    (hr : u.recordBytes (u.ctxOf p.gid g) false graph 64 64 = .ok hb) (hok : headerOk hb = true) (hpg : u.pageAt (u.ctxOf p.gid g).asid (graph.toNat % 2 ^ 46) = some pg) (hcoh : attrCoh pg.attr = 2) (hzero : patch = 0)
    (hnodes : u.nodesFrom (u.ctxOf p.gid g) graph 0 (fieldAt hb 0 2) = .ok (.ok ns)) (hfree : freeBuffer (u.replaysOf (u.ctxOf p.gid g).asid (graph.toNat % 2 ^ 46)) = some n) (hsplit : splitWeight (u.weightOf g) ns.length = some w)
    (hw : g.waitOf p.cur.pc p.cur.place = none) (hcu : u.certified g = false) :
    u.replayWith p g d graph patch = .ok ((u.acceptReplay p.gid g (u.ctxOf p.gid g).asid (graph.toNat % 2 ^ 46) n hb [] ns.length w).answerWord p g [(d, 0)]) := by
  have hhead : (!headerOk hb || ((u.pageAt (u.ctxOf p.gid g).asid (graph.toNat % 2 ^ 46)).map fun x => attrCoh x.attr) != some 2) = false := by
    rw [hok, hpg, Option.map_some, hcoh]
    rfl
  have hpatch : u.patchBytes (u.ctxOf p.gid g) patch = .ok [] := by
    rw [hzero, State.patchBytes]
    rfl
  subst hzero
  rw [State.replayWith, hr]
  refine (if_neg (ne_true_of_eq_false hhead)).trans ?_
  rw [hnodes]
  dsimp only [bind, Except.bind]
  rw [if_neg (fun h : (0 : DWord) ≠ 0 ∧ _ => h.1 rfl), hpatch]
  refine (if_neg Bool.false_ne_true).trans ?_
  rw [hfree]
  dsimp only
  rw [hsplit, Group.leaveWait_of_waitOf_none hw]
  exact congrArg Except.ok (State.closeFor_answerWord (((u.acceptReplay_facts ..).2.1 g).trans hcu) ..)

/-- Settles O26: the launch instructions and the replay by the state in which the issuing core's dirty lines are home. -/
theorem deviceLaunchResults : Obligations.DeviceLaunchResults := by
  intro s p g hs hw hc hp hid d a b bs
  dsimp only
  have hg := ((s.issuing_iff p g).mp hs).2
  have hbytes : BytesOnly s (s.writeBack g.core) := bytesOnly_writeBack ..
  have hcu : (s.writeBack g.core).certified g = false := (hbytes.certified g).trans hc
  have hteams : (s.writeBack g.core).teams = s.teams := s.teams_publish g .device
  have replies : ∀ (i : Instr) (n : Nat), exec i s = .next ((s.writeBack g.core).answerWord p g [(d, BitVec.ofNat 32 n)]) →
      ∃ t h e, exec i s = .next t ∧ t.group? p.gid = some h ∧ h = { g with lanes := h.lanes, sb := g.sb ++ [e] } ∧ Moved g h p.cur.lanes (succPc p.cur.pc)
        ∧ t = { s.writeBack g.core with groups := t.groups, sched := { (s.writeBack g.core).sched with nextId := t.sched.nextId } } ∧ e.kind = .ready ∧ e.due = s.cycle + 1 ∧ ∀ i, g.acts p.cur.lanes i → (i, d, BitVec.ofNat 32 n) ∈ e.vals := fun i n he => by
    obtain ⟨e, hans, hkind, hdue, hvals⟩ := (s.writeBack g.core).answerWord_eq p g [(d, BitVec.ofNat 32 n)]
    exact ⟨_, _, e, he.trans (congrArg _ hans), State.group?_setGroup_same .., rfl, g.moved_withEntry .., rfl, hkind, hdue.trans (by rw [hbytes.cycle]), fun i hi => hvals i hi _ (List.mem_singleton_self _)⟩
  refine ⟨fun hr i hi => ?_, fun hb hr hbad => ?_, fun hb ns n w pg hr hok hpg hcoh hzero hnodes hfree hsplit => ?_⟩
  · have hexec : ∃ tryOnly, exec i s = .next ((s.writeBack g.core).launchWith p g tryOnly d bs) ∧ (i = .gTrylaunch d a → tryOnly = true) ∧ (i = .gLaunch d a → tryOnly = false) := by
      simp only [List.mem_cons, List.not_mem_nil, or_false] at hi
      rcases hi with rfl | rfl
      · exact ⟨false, launchInstr_reads hs hw hp hr, fun h => (nomatch h), fun _ => rfl⟩
      · exact ⟨true, launchInstr_reads hs hw hp hr, fun _ => rfl, fun h => (nomatch h)⟩
    obtain ⟨tryOnly, he, htry, hmust⟩ := hexec
    refine ⟨fun n hn => replies i n (he.trans (congrArg _ (State.launchWith_refused hw hn tryOnly))), fun k hk => ⟨fun hshare => he.trans (congrArg _ (State.launchWith_low hk hshare tryOnly)), fun w hshare => ⟨fun hfull => ?_, fun e hentry => ?_⟩⟩⟩
    · have hx := he.trans (congrArg _ (State.launchWith_full hw hcu hk hshare hfull tryOnly))
      refine ⟨fun hi => replies i 1 (hx.trans (congrArg _ (if_pos (htry hi)))), fun hi hd => ?_⟩
      refine ⟨_, hx.trans (congrArg _ ((if_neg (ne_true_of_eq_false (hmust hi))).trans ((if_pos rfl).trans (State.orDeferred_none hd _)))), rfl, Group.kind_enterWait ..⟩
    · have hx := he.trans (congrArg _ (State.launchWith_enters hw hk hshare hentry tryOnly))
      have hid' : (s.writeBack g.core).launchIdOf g ≠ (s.writeBack g.core).sched.nextId := by rwa [hbytes.launchIdOf, hbytes.sched]
      obtain ⟨x, hans, hkind, -, hvals⟩ := ((s.writeBack g.core).launched p.gid g (recordOf bs) k e w).answerWord_eq p g [(d, 0)]
      have hcert : ((s.writeBack g.core).launched p.gid g (recordOf bs) k e w).certified g = false := (State.certified_launched _ _ _ _ _ _ _ hid').trans hcu
      rw [State.closeFor_answerWord hcert, hans] at hx
      refine ⟨_, _, x, (s.writeBack g.core).newLaunch p.gid g (recordOf bs) k e w, hx, State.group?_setGroup_same .., rfl, g.moved_withEntry .., hkind, fun i hi => hvals i hi _ (List.mem_singleton_self _), ?_, rfl, rfl, hbytes.asidOf g, rfl, rfl, rfl, rfl, ?_, ?_, rfl, fun tm htm => ?_, fun hcompl => ?_⟩
      · have h := (s.writeBack g.core).launch?_launched p.gid g (recordOf bs) k e w
        rw [hbytes.sched] at h
        exact (State.launch?_answered ..).trans h
      · exact congrArg Sched.nextOrder hbytes.sched
      · exact apply_ite Prod.fst ((recordOf bs).graph = true) _ _
      · exact (State.team?_answered ..).trans <| State.team?_launched _ _ _ _ _ _ _ ((congrArg (lookup · g.team) hteams).trans htm)
      · exact (State.mem_answered ..).trans <| State.mem_launched _ _ _ _ _ _ _ hcompl
  · refine replies _ 4 (exec_gReplay hs hp ?_)
    have hbad' : (!headerOk hb || (((s.writeBack g.core).pageAt ((s.writeBack g.core).ctxOf p.gid g).asid ((g.readPair s.cycle (g.lowest p.cur.lanes) a).toNat % 2 ^ 46)).map fun x => attrCoh x.attr) != some 2) = true := by rw [hbad]; rfl
    rw [State.replayWith, hr]
    refine (if_pos hbad').trans ?_
    rw [Group.leaveWait_of_waitOf_none hw]
    exact congrArg Except.ok (State.closeFor_answerWord hcu ..)
  · obtain ⟨hgroups, hcert, hteam, id, r, hreplays, hgraph, hasid, hbuf, hstarted, hn, hwt⟩ := (s.writeBack g.core).acceptReplay_facts p.gid g ((s.writeBack g.core).ctxOf p.gid g).asid ((g.readPair s.cycle (g.lowest p.cur.lanes) a).toNat % 2 ^ 46) n hb ns.length w
    obtain ⟨x, hans, -, -, hvals⟩ := ((s.writeBack g.core).acceptReplay p.gid g ((s.writeBack g.core).ctxOf p.gid g).asid ((g.readPair s.cycle (g.lowest p.cur.lanes) a).toNat % 2 ^ 46) n hb [] ns.length w).answerWord_eq p g [(d, 0)]
    have hrun := exec_gReplay (d := d) (a := a) (b := b) hs hp (replayWith_accepts hr hok hpg hcoh hzero hnodes hfree hsplit hw hcu)
    rw [hans] at hrun
    exact ⟨_, _, x, id, r, hrun, State.group?_setGroup_same .., rfl, g.moved_withEntry .., fun i hi => hvals i hi _ (List.mem_singleton_self _), (State.replays_answered ..).trans (hreplays.trans (by rw [hbytes.sched])), hgraph, hasid.trans (hbytes.asidOf g), hbuf, hstarted, hn, hwt,
      fun tm htm => (State.team?_answered ..).trans (hteam tm ((congrArg (lookup · g.team) hteams).trans htm))⟩

end Sys2Proof.Machine
end

section
/-! SUPPORT. Invocations and claims (O27): a broken claim whose cause does not fit its field of the status word refutes the trapping await. -/
namespace Sys2Proof.Machine

/-- A broken slot whose cause is wider than the 16 bits that R157 gives it: no hypothesis of the statement bounds it. -/
def wideCause : ClaimSlot := { st := .broken, gen := 0, locDev := 0, cause := 3 * 2 ^ 28, loc := 0, expiry := 0, execDev := 0, started := false, queue := [] }
/-- A machine in which claim 0, which every register of the group names, is that slot. -/
def wideClaim : State := { State.reset.placed 0 with fab := { State.reset.fab with claims := [(0, wideCause)] } }
/-- The group that awaits: every register of it holds 0. -/
def awaiter : Group := newGroup placedKernel 0 0 0 0 0 0

/-- Scoreboard entries of the group after a step. -/
def entriesAfter (o : Host.Outcome State Fault Refusal) : Nat := match o with
  | .next t => ((t.group? 0).map (·.sb.length)).getD 0
  | _ => 0

theorem issuing_wideClaim : wideClaim.issuing = some (placedPacket, awaiter) := rfl
/-- The status word is 5 · 2^28, neither BROKEN nor STALE, so the await delivers it. -/
theorem entries_awaited : entriesAfter (exec (.gAwaitT 0 6) wideClaim) = 1 := by decide +kernel
theorem entries_trapped : entriesAfter (.next ((wideClaim.setGroup 0 awaiter).trapAt 0 placedPacket.cur .claimBroken placedPacket.cur.lanes 0)) = 0 := by decide +kernel

/-- Refutes O27: that the trapping await traps on every settled claim whose status word is 2 · 2^28 or more is claimed for every cause. In `wideClaim` the cause of the broken claim carries into the state of the word, which is
then 5, and the instruction delivers the word by the scoreboard. -/
theorem not_invocationResults : ¬ Obligations.InvocationResults := by
  intro h
  obtain ⟨hfresh, -⟩ := h wideClaim placedPacket awaiter issuing_wideClaim (by decide +kernel) 0 6 0
  obtain ⟨-, hawait, -⟩ := hfresh (by decide +kernel)
  obtain ⟨-, -, htraps, -⟩ := hawait (by decide +kernel) (by decide +kernel)
  have htrap : exec (.gAwaitT 0 6) wideClaim = .next ((wideClaim.setGroup 0 awaiter).trapAt 0 placedPacket.cur .claimBroken placedPacket.cur.lanes 0) := htraps (by decide +kernel) (by decide +kernel)
  have hone := entries_awaited
  rw [htrap, entries_trapped] at hone
  exact absurd hone (by decide)

end Sys2Proof.Machine
end

section
/-! SUPPORT. The engines that run items and the walk of a sweep (O52): an item added to its command, and an aged element written back. -/
namespace Sys2Proof.Machine

/-! ## Items -/

/-- A command with the result of an item added. -/
def Cmd.withResult (c : Cmd) (r : ItemResult) (stop epoch : Nat) : Cmd :=
  { c with results := c.results ++ [r], dueAt := max c.dueAt stop, started := true, epoch := if c.started then c.epoch else epoch }

theorem State.itemDone_eq {s : State} {id : Nat} {c : Cmd} (h : s.cmd? id = some c) (r : ItemResult) (stop : Nat) :
    s.itemDone id r stop = s.setCmd id (c.withResult r stop s.dev.qepoch) := by
  rw [State.itemDone, h]
  rfl

theorem State.cmd?_setCmd_same (s : State) (id : Nat) (c : Cmd) : (s.setCmd id c).cmd? id = some c := lookup_put_same ..

theorem State.busy_itemDone {s : State} {id : Nat} {c : Cmd} (h : s.cmd? id = some c) (r : ItemResult) (stop cl b n : Nat) {k : Cluster} (hk : s.cluster cl = { k with busy := put k.busy b n }) :
    lookup ((s.itemDone id r stop).cluster cl).busy b = some n := by
  rw [State.itemDone_eq h, show (s.setCmd id _).cluster cl = s.cluster cl from rfl, hk]
  exact lookup_put_same ..

theorem State.cluster_setCluster (s : State) (cl : Nat) (k : Cluster) : (s.setCluster cl k).cluster cl = k := by
  rw [State.cluster, State.setCluster, lookup_put_same]
  rfl

section
variable {s u : State} {cl id : Nat} {c : Cmd}

theorem exec_benchTakeItem {b item : Nat} {k : Cluster} {v : Unit} (hi : s.benchIdle cl b = true) (hn : s.benchNext cl b = some (id, item, k)) (hc : s.cmd? id = some c)
    (hr : s.engineRun (runItem (s.cmdEnv c) c (if runStat c.block then s.planeOf c else none) (s.runDepth c) item) = .done v u) :
    exec (.benchTakeItem cl b) s = .next ((u.setCluster cl { k with busy := put k.busy b (s.cycle + 24 + 32 * ((fieldAt c.block 0x58 4 + s.runDepth c - 1) / s.runDepth c)) }).itemDone id
      { item := item, code := .ok, faddr := 0, flags := 0, detail := 0 } (s.cycle + 24 + 32 * ((fieldAt c.block 0x58 4 + s.runDepth c - 1) / s.runDepth c))) := by
  show execBenchTakeItem cl b s = _
  simp [execBenchTakeItem, hi, hn, hc, hr]

theorem exec_solverTakeItem {out : ItemOut} (hi : (lookup s.eng.solvers cl).getD 0 ≤ s.cycle) (hn : s.solverNext cl = some (id, c)) (hk : c.kind ≠ .bsAsm)
    (hr : s.engineRun (solveItem (s.cmdEnv c) c (c.left.headD 0)) = .done out u) :
    exec (.solverTakeItem cl) s = .next (({ u with eng := { u.eng with solvers := put u.eng.solvers cl (s.cycle + out.cycles) } } : State).itemDone id
      { item := c.left.headD 0, code := .ok, faddr := 0, flags := out.acc.flags, detail := out.code.code } (s.cycle + out.cycles)) := by
  have hfirst : s.engineRun (if c.kind == .bsAsm && c.results.isEmpty then badContact (s.cmdEnv c) c.block else pure none) = .done none s := by
    rw [beq_false_of_ne hk]
    rfl
  show execSolverTakeItem cl s = _
  simp only [execSolverTakeItem, Nat.not_lt.mpr hi, hn, hfirst, hr, if_false]

variable {die unit : Nat}

theorem exec_sortTakeRange_keys {i : Nat} (hu : unit < 6) (hi : (lookup s.eng.sorters (6 * die + unit)).getD 0 ≤ s.cycle) (hn : s.sortNext die = some (id, c)) (hk : c.kind = .srtKeys) (hs : sortItem c = some i) :
    exec (.sortTakeRange die unit) s = .next (({ s with eng := { s.eng with sorters := put s.eng.sorters (6 * die + unit) (s.cycle + sortCycles c i) } } : State).itemDone id
      { item := i, code := .ok, faddr := 0, flags := 0, detail := 0 } (s.cycle + sortCycles c i)) := by
  show execSortTakeRange die unit s = _
  simp [execSortTakeRange, Nat.not_le.mpr hu, Nat.not_lt.mpr hi, hn, hk, hs]

theorem exec_sortTakeRange_pairs {ps : List Word} {f : BitVec 6} (hu : unit < 6) (hi : (lookup s.eng.sorters (6 * die + unit)).getD 0 ≤ s.cycle) (hn : s.sortNext die = some (id, c)) (hk : c.kind = .srtPairs)
    (hr : s.engineRun (findPairs (s.cmdEnv c) c.block) = .done (ps, f) u) :
    exec (.sortTakeRange die unit) s = .next ((({ s with eng := { s.eng with sorters := put s.eng.sorters (6 * die + unit) (s.cycle + (200 + ps.length)) } } : State).setCmd id { c with outbuf := ps }).itemDone id
      { item := 0, code := .ok, faddr := 0, flags := f, detail := ps.length } (s.cycle + 200)) := by
  show execSortTakeRange die unit s = _
  simp [execSortTakeRange, Nat.not_le.mpr hu, Nat.not_lt.mpr hi, hn, hk, hr]
end

/-! ## Drains and sweeps -/

theorem lookup_map_key {α : Type} (f : Nat → α) {l : List Nat} {k : Nat} (h : k ∈ l) : lookup (l.map fun n => (n, f n)) k = some (f k) := by
  induction l with
  | nil => cases h
  | cons n l ih =>
    rw [List.map_cons, lookup]
    split
    · next hn => rw [hn]
    · next hn => exact ih ((List.mem_cons.mp h).resolve_left fun hk => hn hk.symm)

section
variable {s : State} {n : Domain} {w : Sweep}

theorem exec_sweepComplete_over (h : lookup s.dev.sweeps n.val = some w) (hw : w.walking = true) (hp : w.pieces = []) : exec (.sweepComplete n) s = .next (s.endSweep n w false) := by
  show execSweepComplete n s = _
  simp [execSweepComplete, h, hw, hp]

theorem exec_sweepComplete_elem {asid la : Nat} {r : List (Nat × Nat)} {q : Page} {t : State} (h : lookup s.dev.sweeps n.val = some w) (hw : w.walking = true) (hp : w.pieces = (asid, la) :: r) (hq : s.pageAt asid la = some q)
    (he : s.sweepElem w.epoch n.val w.start (q.phys la + 8 * w.at_) = some t) :
    exec (.sweepComplete n) s = .next { t with dev := { t.dev with sweeps := put t.dev.sweeps n.val (s.sweepNext w (q.phys la)) } } := by
  show execSweepComplete n s = _
  simp only [execSweepComplete, h, hw, hp, hq, he, Bool.not_true, Bool.false_eq_true, if_false]

theorem exec_sweepComplete_stops {asid la : Nat} {r : List (Nat × Nat)} {q : Page} (h : lookup s.dev.sweeps n.val = some w) (hw : w.walking = true) (hp : w.pieces = (asid, la) :: r) (hq : s.pageAt asid la = some q)
    (he : s.sweepElem w.epoch n.val w.start (q.phys la + 8 * w.at_) = none) : exec (.sweepComplete n) s = .next (s.endSweep n w true) := by
  show execSweepComplete n s = _
  simp only [execSweepComplete, h, hw, hp, hq, he, Bool.not_true, Bool.false_eq_true, if_false]

/-- An element of a sweep at an address. -/
def State.agedAt (s : State) (pa : Nat) : Aged := agedOf (BitVec.ofNat 64 (natOfBytes (cellsRead s.mem.hbm pa 8)))
/-- An element decayed by a sweep that began at a datum (R396). -/
def Aged.swept (e : Aged) (lam : FVal) (start : Nat) : Aged :=
  { value := BitVec.ofNat 32 (FFmt.fp32.mul .engine (f32 e.value.toNat) (fDecay lam (ageOf (BitVec.ofNat 64 start) e.stamp))).bits, stamp := start % 2 ^ 24, sel := e.sel }

variable {tag start pa : Nat} {lam : FVal}

theorem State.sweepElem_bad (h : s.lineBad none (pa / 64) = true) : s.sweepElem tag n.val start pa = some s := by simp [State.sweepElem, h]
theorem State.sweepElem_none (h : s.lineBad none (pa / 64) = false) (hf : s.decayFactor tag n.val (s.agedAt pa).sel = none) : s.sweepElem tag n.val start pa = none := by
  simp only [State.sweepElem, h, Bool.false_eq_true, if_false]
  rw [show s.decayFactor tag n.val (agedOf _).sel = none from hf]
theorem State.sweepElem_some (h : s.lineBad none (pa / 64) = false) (hf : s.decayFactor tag n.val (s.agedAt pa).sel = some lam) :
    s.sweepElem tag n.val start pa = if ageOf (BitVec.ofNat 64 start) (s.agedAt pa).stamp ≥ 2 ^ 23 then some s
      else some (s.putBytes none false (.phys pa) (bytesOfNat 8 ((s.agedAt pa).swept lam start).bits.toNat)) := by
  simp only [State.sweepElem, h, Bool.false_eq_true, if_false]
  rw [show s.decayFactor tag n.val (agedOf _).sel = some lam from hf]
  rfl

theorem Aged.toNat_bits (e : Aged) : e.bits.toNat = e.value.toNat * 2 ^ 32 + (e.stamp % 2 ^ 24 * 256 + e.sel % 256) := by
  have := e.value.isLt
  rw [Aged.bits, joinWords, BitVec.toNat_append, BitVec.toNat_ofNat, Nat.mod_eq_of_lt (by omega), ← Nat.shiftLeft_add_eq_or_of_lt (by omega), Nat.shiftLeft_eq]

/-- An element whose fields fit is the element of its bits. -/
theorem agedOf_bits {e : Aged} (hstamp : e.stamp < 2 ^ 24) (hsel : e.sel < 256) : agedOf e.bits = e := by
  obtain ⟨v, t, x⟩ := e
  have hb := Aged.toNat_bits ⟨v, t, x⟩
  have hv := v.isLt
  dsimp only at hb hstamp hsel
  rw [Nat.mod_eq_of_lt hstamp, Nat.mod_eq_of_lt hsel] at hb
  have hhi : hiWord (Aged.bits ⟨v, t, x⟩) = v := by
    refine BitVec.eq_of_toNat_eq ?_
    rw [hiWord, BitVec.toNat_setWidth, BitVec.toNat_ushiftRight, hb, Nat.shiftRight_eq_div_pow]
    omega
  rw [agedOf, hhi, hb]
  exact congrArg₂ (Aged.mk v) (by omega) (by omega)

theorem State.byteAt_home (s : State) (a : Nat) : s.byteAt none false (.phys a) = cellGet s.mem.hbm a := rfl

theorem State.cellsRead_home (s : State) (a n : Nat) : cellsRead s.mem.hbm a n = s.bytesAt none false (.phys a) n := by
  rw [State.bytesAt_eq, cellsRead_eq]
  rfl

theorem agedAt_swept (hok : s.cellsOk = true) (hch : s.dev.changes = []) (e : Aged) (hstamp : e.stamp < 2 ^ 24) (hsel : e.sel < 256) :
    (s.putBytes none false (.phys pa) (bytesOfNat 8 e.bits.toNat)).agedAt pa = e := by
  have hw : s.writable (.phys pa) (bytesOfNat 8 e.bits.toNat).length := trivial
  have hb := State.bytesAt_putTagged hok hch s.dev.qepoch none false hw
  rw [length_bytesOfNat] at hb
  rw [State.agedAt, State.cellsRead_home, State.putBytes, hb, natOfBytes_bytesOfNat, Nat.mod_eq_of_lt (by have := e.bits.isLt; omega), BitVec.ofNat_toNat, BitVec.setWidth_eq]
  exact agedOf_bits hstamp hsel
end

/-- Settles O52. -/
theorem engineSteps : Obligations.EngineSteps := by
  intro s
  refine ⟨?_, ?_, ?_, ?_, ?_, ?_, ?_, ?_⟩
  · intro cl b id item k c u v hi hn hc hr hu
    have hu' := fun K => show (u.setCluster cl K).cmd? id = some c from hu
    refine ⟨_, { item := item, code := .ok, faddr := 0, flags := 0, detail := 0 }, exec_benchTakeItem hi hn hc hr, ?_, rfl, rfl, State.busy_itemDone (hu' _) _ _ _ _ _ (State.cluster_setCluster ..)⟩
    rw [State.itemDone_eq (hu' _)]
    exact State.cmd?_setCmd_same ..
  · intro cl id c u out hi hn hk hr hu
    have hdone := State.itemDone_eq (s := { u with eng := { u.eng with solvers := put u.eng.solvers cl (s.cycle + out.cycles) } }) hu
    exact ⟨_, _, _, (exec_solverTakeItem hi hn hk hr).trans (congrArg _ (hdone _ _)), State.cmd?_setCmd_same .., rfl, rfl, rfl, lookup_put_same ..⟩
  · intro die unit id c i hu hi hn hk hc hs
    have hdone := State.itemDone_eq (s := { s with eng := { s.eng with sorters := put s.eng.sorters (6 * die + unit) (s.cycle + sortCycles c i) } }) hc
    exact ⟨_, _, _, (exec_sortTakeRange_keys hu hi hn hk hs).trans (congrArg _ (hdone _ _)), State.cmd?_setCmd_same .., rfl, rfl, rfl, lookup_put_same .., rfl⟩
  · intro die unit id c ps f u hu hi hn hk _ hr
    have hdone := State.itemDone_eq (State.cmd?_setCmd_same { s with eng := { s.eng with sorters := put s.eng.sorters (6 * die + unit) (s.cycle + (200 + ps.length)) } } id { c with outbuf := ps })
    exact ⟨_, _, _, (exec_sortTakeRange_pairs hu hi hn hk hr).trans (congrArg _ (hdone _ _)), State.cmd?_setCmd_same .., rfl, rfl, rfl, rfl, rfl, rfl⟩
  · intro n w hw hwalk hd
    refine ⟨{ s with dev := { s.dev with sweeps := put s.dev.sweeps n.val { w with walking := true } } }, ?_, lookup_put_same .., rfl⟩
    show execDrainSweepOrder n s = _
    simp [execDrainSweepOrder, hw, hwalk, hd]
  · intro n id c hnone _ hfind
    refine ⟨s.setCmd id (s.startDrain c), s.startDrain c, ?_, State.cmd?_setCmd_same .., rfl, rfl, rfl, rfl, fun m hm => ?_⟩
    · show execDrainSweepOrder n s = _
      simp only [execDrainSweepOrder, hnone, hfind]
    · rw [State.startDrain, lookup_map_key _ hm]
      simp [Vector.get]
  · intro n w hw hwalk hp
    refine ⟨_, exec_sweepComplete_over hw hwalk hp, lookup_del_same .., ?_, ?_, fun m hm => ⟨?_, ?_⟩, rfl, rfl⟩
    · simp [State.endSweep, n.isLt]
    · exact Vector.getElem_set_self n.isLt
    · exact Vector.getElem_set_ne n.isLt m.isLt (Fin.val_ne_of_ne hm.symm)
    · simp [State.endSweep, m.isLt, Fin.val_ne_of_ne hm]
  · intro n w asid la r q hw hwalk hp hq
    dsimp only
    have helem := fun t => exec_sweepComplete_elem (t := t) hw hwalk hp hq
    refine ⟨fun hbad => ⟨_, ⟨helem _ (State.sweepElem_bad hbad), lookup_put_same .., rfl, rfl⟩, rfl⟩, fun lam hgood hf => ⟨fun hage => ?_, fun hage hok hch => ?_⟩, fun hgood hf => ?_⟩
    · exact ⟨_, ⟨helem _ ((State.sweepElem_some hgood hf).trans (if_pos hage)), lookup_put_same .., rfl, rfl⟩, rfl⟩
    · set e := (s.agedAt (q.phys la + 8 * w.at_)).swept lam w.start with he
      have hst := stores_putTagged hok hch s.dev.qepoch none false (.phys (q.phys la + 8 * w.at_)) (bs := bytesOfNat 8 e.bits.toNat) (by simp [bytesOfNat])
      have hdev : (s.putBytes none false (.phys (q.phys la + 8 * w.at_)) (bytesOfNat 8 e.bits.toNat)).dev = s.dev := hst.only.dev
      refine ⟨_, ⟨helem _ ((State.sweepElem_some hgood hf).trans (if_neg (Nat.not_le.mpr hage))), lookup_put_same .., (congrArg Device.sweepBase hdev :), (congrArg Device.sweepBad hdev :)⟩,
        agedAt_swept hok hch e (Nat.mod_lt _ (by decide)) (Nat.mod_lt _ (by decide)), fun a ha => ?_⟩
      have hbyte := hst.bytes none false (.phys a) fun x m hx => by
        obtain ⟨rfl, rfl⟩ := hx
        simp only [length_bytesOfNat, Loc.holds]
        omega
      simp only [cellsRead_eq, List.range_one, List.map_singleton, Nat.add_zero]
      exact congrArg (fun b => [b]) hbyte
    · exact ⟨_, exec_sweepComplete_stops hw hwalk hp hq (State.sweepElem_none hgood hf), lookup_del_same .., by simp [State.endSweep, n.isLt], rfl, rfl⟩

end Sys2Proof.Machine
end

section
/-! SUPPORT. The steps that end commands (O53): a team listed twice refutes what the regroup leaves of its team. -/
namespace Sys2Proof.Machine

/-- The team that regroups: its one group has arrived with a block whose map stands at 0. -/
def regrouper : Team := { placedTeam with arrived := [(0, 0, List.replicate 32 0)] }
/-- A second entry of the same team, which the first hides: one complete round of pops on a queue it has bound. -/
def hiddenTeam : Team :=
  { regrouper with groups := [], queues := [{ queue := { loc := .win 0 0, tile := none }, next := 0 }], pops := [{ queue := { loc := .win 0 0, tile := none }, round := 0, group := 0, lanes := [], first := none }] }
/-- The wait of the group for the compactor. -/
def regroupSlot : Slot := { pc := 4, word := 0, lanes := fullMask 16, place := 0 }
/-- A machine that lists the team twice, the group of the first entry waiting for the regroup. -/
def twiceListed : State :=
  { State.reset.placed 0 with
    groups := [(0, { newGroup placedKernel 0 0 0 0 0 0 with waits := [{ kind := .phase 0, slot := regroupSlot, since := 0 }] })]
    teams := [(0, regrouper), (0, hiddenTeam)]
    launches := [(0, { placedLaunch with kern := { placedKernel with scratch := 4096 } })] }

/-- How many groups a team has at the compactor after a step. -/
def arrivedAfter (o : Host.Outcome State Fault Refusal) : Nat := match o with
  | .next t => ((t.team? 0).map (·.arrived.length)).getD 0
  | _ => 0

/-- The round of pops of the hidden entry is settled at the end of the regroup, and its entry is put in the place of the first one, its arrivals as they stood. -/
theorem arrived_regrouped : arrivedAfter (exec (.phaseCompactorRun 0) twiceListed) = 1 := by decide +kernel

/-- Refutes O53: that a regroup leaves its team without arrivals is claimed for every state. In `twiceListed` the team has a second entry, which the settling of the pops puts in the place of the one that was regrouped. -/
theorem not_engineEnds : ¬ Obligations.EngineEnds := by
  intro h
  obtain ⟨-, -, hregroup, -⟩ := h twiceListed
  obtain ⟨-, hmoves, -⟩ := hregroup 0 regrouper 0 0 (List.replicate 32 0) regroupSlot 0 0 [] rfl rfl (by decide +kernel) (by decide +kernel) (by decide +kernel)
  obtain ⟨t, u, hexec, hu, harrived, -⟩ := hmoves (by decide +kernel) (by decide +kernel)
  have hone := arrived_regrouped
  rw [hexec, arrivedAfter, hu, Option.map_some, harrived] at hone
  exact absurd hone (by decide)

end Sys2Proof.Machine
end

section
/-! SUPPORT. The steps of issue (O54): packets, scoreboarded results, and accesses that were held. -/
namespace Sys2Proof.Machine

/-! ## Packets -/

section
variable {s : State} {core gid : Nat} {g : Group}

theorem exec_issueCycle_forms {sl : Slot} {rest : List Slot} (hp : s.packet = none) (hc : s.choice core = some (gid, g)) (ht : s.fetchTile g = none) (hs : s.slotsOf g = sl :: rest) :
    exec (.issueCycle core) s = .next (s.formPacket core gid g sl rest) := by
  show execIssueCycle core s = _
  simp only [execIssueCycle, hp, hc, ht, hs]

theorem exec_issueCycle_waits {k : Nat} {pc : DWord} (hp : s.packet = none) (hc : s.choice core = some (gid, g)) (ht : s.fetchTile g = some (k, pc)) :
    exec (.issueCycle core) s = .next (s.fetchWaits gid g k pc) := by
  show execIssueCycle core s = _
  simp only [execIssueCycle, hp, hc, ht]

/-- A group of no recompute team that meets a tile being built only waits. -/
theorem State.meetTile_building {c : Ctx} {k : Nat} (hb : (s.tile k).st = .building) (ho : c.own = none) : s.meetTile c k = s := by
  simp only [State.meetTile, hb, ho]

end

/-! ## Results by the scoreboard -/

section
variable {g : Group}

theorem Group.lane_commits (ws : List (Nat × Reg × Word)) (i : Nat) : ∃ regs, (g.commits ws).lane i = { g.lane i with regs := regs } := by
  induction ws generalizing g with
  | nil => exact ⟨_, rfl⟩
  | cons w ws ih =>
    obtain ⟨lane, r, v⟩ := w
    obtain ⟨regs, h⟩ := @ih (g.commit lane r v)
    rw [Group.commits, h, Group.lane_commit]
    split <;> exact ⟨_, rfl⟩

theorem Group.commits_eq (ws : List (Nat × Reg × Word)) : g.commits ws = { g with lanes := (g.commits ws).lanes, hist := (g.commits ws).hist } := by
  induction ws generalizing g with
  | nil => rfl
  | cons w ws ih => exact (@ih (g.commit w.1 w.2.1 w.2.2)).trans rfl

theorem Group.length_commits (ws : List (Nat × Reg × Word)) : (g.commits ws).lanes.length = g.lanes.length := by
  induction ws generalizing g with
  | nil => rfl
  | cons w ws ih => exact (@ih (g.commit w.1 w.2.1 w.2.2)).trans (List.length_modify ..)

/-- Pending writes to other registers stand. -/
theorem seenThrough_filter_other (hs : List HistWrite) {i j : Nat} {q r : Reg} (h : ¬ (j = i ∧ r = q)) (now : Nat) (v : Word) :
    seenThrough (hs.filter fun h => !(h.lane == i && h.reg == q)) j r now v = seenThrough hs j r now v := by
  induction hs generalizing v with
  | nil => rfl
  | cons x hs ih =>
    by_cases he : x.lane = i ∧ x.reg = q
    · rw [List.filter_cons_of_neg (by simp [he.1, he.2]), ih, seenThrough, if_neg fun hx => h ⟨hx.1.symm.trans he.1, hx.2.symm.trans he.2⟩]
    · rw [List.filter_cons_of_pos (by simpa [imp_iff_not_or] using he), seenThrough, seenThrough, ih, ih]

theorem Group.read_commit_other (lane : Nat) (r : Reg) (v : Word) (now i : Nat) (q : Reg) (h : ¬ (i = lane ∧ q = r)) : (g.commit lane r v).read now i q = g.read now i q := by
  have hreg : ((g.commit lane r v).lane i).regs.get q = (g.lane i).regs.get q := by
    rw [Group.lane_commit]
    split
    · next hi => exact Vector.getElem_set_ne r.isLt q.isLt fun he => h ⟨hi.1, Fin.ext he.symm⟩
    · rfl
  rw [Group.read, Group.read, Group.commit_hist, seenThrough_filter_other _ h, hreg]

theorem Group.read_commits_other {ws : List (Nat × Reg × Word)} (now i : Nat) (r : Reg) (h : ∀ w, (i, r, w) ∉ ws) : (g.commits ws).read now i r = g.read now i r := by
  induction ws generalizing g with
  | nil => rfl
  | cons w ws ih =>
    obtain ⟨lane, q, v⟩ := w
    rw [Group.commits, ih fun w hw => h w (List.mem_cons_of_mem _ hw), Group.read_commit_other]
    rintro ⟨rfl, rfl⟩
    exact h v List.mem_cons_self

theorem Group.read_commits_same {ws : List (Nat × Reg × Word)} {now i : Nat} {r : Reg} {v : Word} (hi : i < g.lanes.length) (hv : (i, r, v) ∈ ws) (h : ∀ w, (i, r, w) ∈ ws → w = v) : (g.commits ws).read now i r = v := by
  induction ws generalizing g with
  | nil => cases hv
  | cons w ws ih =>
    by_cases hlater : (i, r, v) ∈ ws
    · exact ih (by rw [Group.commit_lanes, List.length_modify]; exact hi) hlater fun w hw => h w (List.mem_cons_of_mem _ hw)
    · obtain rfl : (i, r, v) = w := (List.mem_cons.mp hv).resolve_right hlater
      rw [Group.commits, Group.read_commits_other now i r fun w hw => hlater (h w (List.mem_cons_of_mem _ hw) ▸ hw)]
      exact Group.read_commit_same g i r v now hi
end

theorem exec_scoreboardedResult {s : State} {gid id : Nat} {g : Group} {e : SbEntry} (hg : s.group? gid = some g) (he : g.sb.find? (fun x => x.id == id) = some e) (hd : e.due ≤ s.cycle) (hk : e.kind = .ready) :
    exec (.scoreboardedResult gid id) s = .next (s.setGroup gid { (g.commits e.vals) with sb := g.sb.filter fun x => x.id != id }) := by
  show execScoreboardedResult gid id s = _
  simp only [execScoreboardedResult, hg, he, Nat.not_lt.mpr hd, hk, if_false]

/-! ## Held loads -/

/-- What is done of a held load when every lane still open reads words. -/
def SbEntry.answered (e : SbEntry) (ws : Nat → List Word) (due : Nat) : SbEntry :=
  let left := (e.rows.filter fun r => !r.done).map fun r => (r.lane, r.place (e.op.size r))
  let rows := e.rows.filter (·.done) ++ left.map fun x => rowAt x.1 x.2 [] true
  { e with rows := rows, vals := e.vals ++ wordWrites (e.regs.headD 0) (left.map fun x => (x.1, ws x.1)), due := due, kind := e.kind.after (rows.any fun r => !r.done) }

theorem SbEntry.kind_answered {e : SbEntry} {w : Word} (h : e.kind = .held w) (ws : Nat → List Word) (due : Nat) : (e.answered ws due).kind = .ready := by
  have hrows : (e.answered ws due).rows.any (fun r => !r.done) = false := by
    simp [SbEntry.answered, rowAt]
  have hkind : (e.answered ws due).kind = e.kind.after ((e.answered ws due).rows.any fun r => !r.done) := rfl
  rw [hkind, hrows, h]
  rfl

theorem State.resumeLoad_words {s : State} {gid : Nat} {g : Group} {e : SbEntry} {raw : Bool} {f : LoadForm} {ws : Nat → List Word} (hg : s.group? gid = some g)
    (h : ∀ r ∈ e.rows, r.done = false → s.mustWait (s.ctxOf gid g) r.tile = false ∧ s.readLane { s.entryCtx gid g e with upTo := some e.id } raw f (r.place (e.op.size r)) = .words (ws r.lane)) :
    s.resumeLoad gid g e raw f = s.setGroup gid { g with sb := g.sb.map fun y => if y.id == e.id then e.answered ws (s.cycle + 1) else y } := by
  have hpass := State.loadPass_words (s := s) (c := { s.entryCtx gid g e with upTo := some e.id }) (raw := raw) (f := f) (ps := (e.rows.filter fun r => !r.done).map fun r => (r.lane, r.place (e.op.size r))) (ws := ws) fun x hx => by
    obtain ⟨r, hr, rfl⟩ := List.mem_map.mp hx
    obtain ⟨hmem, hopen⟩ := List.mem_filter.mp hr
    exact h r hmem (by simpa using hopen)
  unfold State.resumeLoad
  dsimp only
  rw [hpass, State.modGroup_eq hg]
  rfl

/-! ## Held stores -/

/-- Only check values differ between a store performed and its bytes put. -/
theorem State.byteAt_performStore_eq {s : State} (hch : s.dev.changes = []) (core : Option Nat) (st : PendingStore) (c : Option Nat) (priv : Bool) (l : Loc) :
    (s.performStore core st).byteAt c priv l = (s.putTagged st.epoch core st.priv st.loc st.bytes).byteAt c priv l := by
  unfold State.performStore
  dsimp only
  split
  · split
    · rw [(bytesOnly_putTagged ..).dev, hch, forwards_nil, List.foldl_cons, List.foldl_nil]
      split <;> cases l <;> rfl
    · rfl
  · rfl

theorem bytesOnly_performStore (s : State) (core : Option Nat) (st : PendingStore) : BytesOnly s (s.performStore core st) := by
  have hput := bytesOnly_putTagged s st.epoch core st.priv st.loc st.bytes
  unfold State.performStore
  dsimp only
  split
  · split
    · exact hput.trans (.foldl (fun t a => by split <;> exact .of_mem rfl) _ _)
    · exact hput
  · exact hput

/-- Writing no bytes leaves every byte. -/
theorem State.byteAt_putTagged_nil {s : State} (hok : s.cellsOk = true) (hch : s.dev.changes = []) (tag : Nat) (core : Option Nat) (priv : Bool) (l : Loc) (c : Option Nat) (p : Bool) (y : Loc) :
    (s.putTagged tag core priv l []).byteAt c p y = s.byteAt c p y := by
  cases l with
  | phys pa =>
    rw [State.putTagged, hch, forwards_nil]
    refine (stores_putPhys hok core priv [] pa).bytes c p y ?_
    rintro x n ⟨rfl, rfl⟩
    cases y <;> simp [Loc.holds]
  | win t o =>
    have hnil : s.keepTags t o [] = [] := List.length_eq_zero_iff.mp (s.length_keepTags t o [])
    have hkeep := (bytesOnly_putWin s t o []).keeper c p
    rw [State.putTagged, hnil]
    cases y with
    | phys a =>
      rw [State.byteAt, State.byteAt, hkeep]
      unfold State.putWin State.modTeam
      split <;> rfl
    | win u q =>
      refine congrArg (fun o : Option Byte => o.getD 0) ?_
      unfold State.putWin State.modTeam
      split
      · next tm htm =>
        have htm' : s.team? t = some tm := htm
        by_cases htu : u = t
        · rw [htu, State.team?_setTeam_same, htm']
          rfl
        · rw [State.team?_setTeam_other _ _ _ _ htu]
          rfl
      · rfl

theorem State.bytesAt_one_eq {s t : State} {c : Option Nat} {priv : Bool} {l : Loc} (h : t.byteAt c priv l = s.byteAt c priv l) : t.bytesAt c priv l 1 = s.bytesAt c priv l 1 := by
  rw [State.bytesAt_one, State.bytesAt_one, h]

theorem State.performStore_frame {s : State} (hok : s.cellsOk = true) (hch : s.dev.changes = []) (core : Option Nat) {st : PendingStore} {l : Loc} (hl : ¬ st.loc.holds st.bytes.length l) (c : Option Nat) (priv : Bool) :
    (s.performStore core st).byteAt c priv l = s.byteAt c priv l := by
  rcases eq_or_ne st.bytes [] with hnil | hbs
  · rw [State.byteAt_performStore_eq hch, hnil, State.byteAt_putTagged_nil hok hch]
  · exact (stores_performStore hok hch core hbs).bytes c priv l fun x n hx => by rwa [hx.1, hx.2]

/-- Settles O54. -/
theorem issueEvents : Obligations.IssueEvents := by
  intro s
  refine ⟨?_, ?_, ?_, ?_, ?_, ?_⟩
  · intro core gid g sl rest hp hc hg ht hs
    exact ⟨_, _, _, exec_issueCycle_forms hp hc ht hs, State.group?_setGroup_same .., rfl, rfl, rfl, rfl, rfl, rfl, rfl, rfl, fun k hk => State.group?_setGroup_other s gid k _ hk, rfl⟩
  · intro core gid g k pc hp hc hg ht hb ho
    have hwait := g.waitOf_enterWait s.cycle (.tile k s.dev.qepoch) { pc := pc, word := 0, lanes := g.activeAt pc, place := 0 }
    refine ⟨g.enterWait s.cycle (.tile k s.dev.qepoch) { pc := pc, word := 0, lanes := g.activeAt pc, place := 0 }, (exec_issueCycle_waits hp hc ht).trans (congrArg _ ?_), rfl, congrArg (Option.map (·.kind)) hwait⟩
    rw [State.fetchWaits, State.meetTile_building hb ho, State.modGroup_eq hg]
  · intro gid g hg hidle hh hrec hv
    obtain ⟨h, htrap, hh, -, hcount, -, hlanes⟩ := trapEntersHandler (s.setGroup gid { g with idle := 0 }) gid { g with idle := 0 }
      { place := 0, cause := .rejoinStall, lanes := g.lanesWhere fun _ l => l.waits, addr := 0, word := 0, defer := false, active := 0, restart := 0 } (State.group?_setGroup_same ..) hh hrec nofun hv
    refine ⟨h, ?_, by rw [hh], by rw [hh], by rw [hh], by rw [hh], hcount, fun i hi => ?_, fun i hw h64 _ hl => ?_⟩
    · show execRejoinStall gid s = _
      rw [execRejoinStall, hg]
      exact (if_neg (Nat.not_lt.mpr hidle)).trans (congrArg _ (htrap.trans (State.setGroup_setGroup ..)))
    · rw [congrArg Group.trapmask hh, Group.lanesWhere, getLsbD_maskOf]
      simp [hi]
    · have hlane := hlanes i hw h64 hl
      rw [hlane]
      exact ⟨rfl, by simp; rfl, by simp; rfl⟩
  · intro gid id g e hg he hd hk
    refine ⟨_, exec_scoreboardedResult hg he hd hk, ?_, Group.length_commits .., fun i => ?_, fun i r v now hi hv h => Group.read_commits_same hi hv h, fun i r now h => Group.read_commits_other now i r h⟩
    · rw [Group.commits_eq]
    · obtain ⟨regs, hlane⟩ := Group.lane_commits (g := g) e.vals i
      have hpc : ({ (g.commits e.vals) with sb := g.sb.filter fun x => x.id != id } : Group).lane i = _ := hlane
      rw [hpc]
      exact ⟨rfl, rfl, rfl⟩
  · intro gid id g e raw f w ws hg he hres hmay hload hk hread
    obtain rfl : e.id = id := by simpa using List.find?_some he
    refine ⟨e.answered ws (s.cycle + 1), ?_, SbEntry.kind_answered hk ws _, rfl, fun v hv => List.mem_append_left _ hv, fun r hr hopen k v hkv => ?_⟩
    · rw [← State.resumeLoad_words hg hread]
      show execHeldAccessResume gid e.id s = _
      simp [execHeldAccessResume, hg, he, hres, hk, hmay, hload]
    · refine List.mem_append_right _ (mem_wordWrites (List.mem_map.mpr ⟨(r.lane, r.place (e.op.size r)), List.mem_map.mpr ⟨r, List.mem_filter.mpr ⟨hr, by simp [hopen]⟩, rfl⟩, rfl⟩) hkv)
  · intro core st r hline hready hok hch hwin
    have hok' : ({ s with mem := { s.mem with storeQ := s.mem.storeQ.filter fun x => x.id != st.id } } : State).cellsOk = true := hok
    have hwritable : ({ s with mem := { s.mem with storeQ := s.mem.storeQ.filter fun x => x.id != st.id } } : State).writable st.loc st.bytes.length := by
      unfold State.writable
      split
      · next t o hloc => exact ⟨Option.isSome_iff_exists.mp (hwin t o hloc).1, (hwin t o hloc).2⟩
      · trivial
    refine ⟨s.applyStore st, ?_, ?_, fun k hk => ?_, fun c priv l hl => State.bytesAt_one_eq (State.performStore_frame hok' hch _ hl c priv)⟩
    · show execHeldStoreApply core s = _
      simp only [execHeldStoreApply, hline, hready, if_true]
    · exact (bytesOnly_performStore { s with mem := { s.mem with storeQ := s.mem.storeQ.filter fun x => x.id != st.id } } (s.storeCore st) st).storeQ
    · rw [State.bytesAt_one]
      exact congrArg (fun b => [b]) (State.byteAt_performStore hok' hch _ hwritable hk)

end Sys2Proof.Machine
end

section
/-! SUPPORT. The steps of tiles, of changes of translation and of the Ticket Unit (O55): what the operations they use leave of the tiles and of the staged accesses. -/
namespace Sys2Proof.Machine

theorem foldl_keeps {α β γ : Type} (v : β → γ) {f : β → α → β} (h : ∀ s x, v (f s x) = v s) (xs : List α) (s : β) : v (xs.foldl f s) = v s := by
  induction xs generalizing s with
  | nil => rfl
  | cons x xs ih => exact (ih _).trans (h s x)

/-! ## What leaves the tiles and what waits to be started -/

/-- The tiles, the invocations that wait for an entry, and the replays. -/
def State.tileView (s : State) : List (Nat × Tile) × List InvokeMsg × List (Nat × Replay) := (s.mem.tiles, s.sched.invq, s.sched.replays)

theorem BytesOnly.tileView {s t : State} (h : BytesOnly s t) : t.tileView = s.tileView := by rw [State.tileView, State.tileView, h.tiles, h.sched]

namespace State
variable (s : State)

theorem tileView_modGroup (k : Nat) (f : Group → Group) : (s.modGroup k f).tileView = s.tileView := by
  unfold modGroup
  split <;> rfl
theorem tileView_modTeam (k : Nat) (f : Team → Team) : (s.modTeam k f).tileView = s.tileView := by
  unfold modTeam
  split <;> rfl
theorem tileView_modLaunch (k : Nat) (f : Launch → Launch) : (s.modLaunch k f).tileView = s.tileView := by
  unfold modLaunch
  split <;> rfl
theorem tileView_requestKill (l : Nat) (c : Cause) : (s.requestKill l c).tileView = s.tileView := s.tileView_modLaunch l _
theorem tileView_deferAll (gid : Nat) (ds : List Deferred) : (s.deferAll gid ds).tileView = s.tileView := foldl_keeps tileView (fun t _ => t.tileView_modGroup gid _) ds s
theorem tileView_sendMsg (dest tag : Nat) (m : FlitMsg) : (s.sendMsg dest tag m).tileView = s.tileView := by
  obtain ⟨_, _, _, _, h⟩ := s.sendMsg_eq dest tag m
  rw [h]
  rfl
theorem tileView_request (dest : Nat) (m : FlitMsg) (o : ReqOwner) (l : Nat) : (s.request dest m o l).2.tileView = s.tileView := by
  unfold request
  dsimp only
  split
  · exact tileView_requestKill ..
  · exact tileView_sendMsg ..
theorem tileView_giveBack (l : Nat) (root : Option RootAddr) (n : Nat) : (s.giveBack l root n).tileView = s.tileView := by
  unfold giveBack
  split
  · rfl
  · split
    · rfl
    · exact tileView_request ..
theorem tileView_doubleTrap (gid a b : Nat) (m : LaneMask) (x : DWord) : (s.doubleTrap gid a b m x).tileView = s.tileView := (tileView_requestKill ..).trans (tileView_modGroup ..)
theorem tileView_park (gid : Nat) : (s.park gid).tileView = s.tileView := by
  unfold park
  split <;> rfl
theorem tileView_takeTrap (gid : Nat) (r : TrapRec) : (s.takeTrap gid r).tileView = s.tileView := by
  unfold takeTrap
  split
  · rfl
  · split
    · exact tileView_doubleTrap ..
    · split
      · exact tileView_requestKill ..
      · split
        · rfl
        · exact tileView_park ..
theorem tileView_settleTrap (gid : Nat) (r : TrapRec) : (s.settleTrap gid r).tileView = s.tileView := by
  unfold settleTrap
  split
  · rfl
  · dsimp only
    split
    · exact tileView_takeTrap ..
    · rfl

end State

/-! ## What the rounds of queues leave -/

/-- The second state is the first with rounds of queues taken further: only teams, bytes, the reservations that the bytes end, and the staged pushes differ. -/
def Settled (s t : State) : Prop := ∃ ts ps hb ck bw lb ld pu, t = { s with teams := ts, porters := ps, mem := { s.mem with hbm := hb, checks := ck, badWords := bw, l1bad := lb, l1dirty := ld }, eng := { s.eng with pushes := pu } }

namespace Settled
variable {s t u : State}

theorem refl (s : State) : Settled s s := ⟨_, _, _, _, _, _, _, _, rfl⟩
theorem trans (h : Settled s t) (h' : Settled t u) : Settled s u := by
  obtain ⟨_, _, _, _, _, _, _, _, rfl⟩ := h
  obtain ⟨_, _, _, _, _, _, _, _, rfl⟩ := h'
  exact ⟨_, _, _, _, _, _, _, _, rfl⟩
theorem of_bytesOnly (h : BytesOnly s t) : Settled s t := by
  obtain ⟨_, _, _, _, _, _, _, rfl, -, -⟩ := h
  exact ⟨_, _, _, _, _, _, _, _, rfl⟩
theorem modTeam_pushes (s : State) (k : Nat) (f : Team → Team) (pu : List HeldPush) : Settled s { s.modTeam k f with eng := { s.eng with pushes := pu } } := by
  unfold State.modTeam
  split <;> exact ⟨_, _, _, _, _, _, _, _, rfl⟩
theorem commitOne (h : s.commitOne = some t) : Settled s t := by
  obtain ⟨x, -, hx⟩ := List.exists_of_findSome?_eq_some h
  split at hx
  · cases hx
  · dsimp only at hx
    split at hx
    · cases hx
    · split at hx
      · cases hx
        exact (of_bytesOnly (bytesOnly_commitRun ..)).trans (modTeam_pushes ..)
      · cases hx
theorem claimOne (h : s.claimOne = some t) : Settled s t := by
  obtain ⟨x, -, hx⟩ := List.exists_of_findSome?_eq_some h
  obtain ⟨y, -, hy⟩ := List.exists_of_findSome?_eq_some hx
  dsimp only at hy
  split at hy
  · cases hy
  · split at hy
    · cases hy
    · split at hy
      · cases hy
      · cases hy
        exact ⟨_, _, _, _, _, _, _, _, rfl⟩
theorem commitRounds (n : Nat) (s : State) : Settled s (s.commitRounds n) := by
  induction n generalizing s with
  | zero => exact refl s
  | succ n ih =>
    rw [State.commitRounds]
    split
    · exact refl s
    · next t h => exact (commitOne h).trans (ih t)
theorem claimRounds (n : Nat) (s : State) : Settled s (s.claimRounds n) := by
  induction n generalizing s with
  | zero => exact refl s
  | succ n ih =>
    rw [State.claimRounds]
    split
    · exact refl s
    · next t h => exact (claimOne h).trans (ih t)
theorem settleRounds (s : State) : Settled s s.settleRounds := (commitRounds ..).trans (claimRounds ..)
theorem tileView (h : Settled s t) : t.tileView = s.tileView := by
  obtain ⟨_, _, _, _, _, _, _, _, rfl⟩ := h
  rfl
theorem launches (h : Settled s t) : t.launches = s.launches := by
  obtain ⟨_, _, _, _, _, _, _, _, rfl⟩ := h
  rfl
end Settled

namespace State
variable (s : State)

theorem tileView_endGang (k : Nat) : (s.endGang k).tileView = s.tileView := by
  unfold endGang
  split
  · rfl
  · split <;> rfl
theorem tileView_endTeam (tid : Nat) : (s.endTeam tid).tileView = s.tileView := by
  unfold endTeam
  split
  · rfl
  · exact (Settled.settleRounds _).tileView.trans ((tileView_endGang ..).trans ((tileView_modLaunch ..).trans ((tileView_giveBack ..).trans
      ((BytesOnly.foldl bytesOnly_writeBack _ _).tileView.trans (BytesOnly.foldl (fun s b => bytesOnly_unbind ..) _ _).tileView))))
theorem tileView_stopGroup (gid : Nat) : (s.stopGroup gid).tileView = s.tileView := by
  refine (tileView_modGroup _ gid Group.stopped).trans ?_
  split
  · split
    · exact tileView_giveBack ..
    · rfl
  · rfl

/-- Nothing waits to be started. -/
def Idle (s : State) : Prop := s.sched.invq = [] ∧ s.sched.replays = []
theorem Idle.of_tileView {s t : State} (h : s.Idle) (ht : t.tileView = s.tileView) : t.Idle := ⟨(congrArg (·.2.1) ht).trans h.1, (congrArg (·.2.2) ht).trans h.2⟩
theorem Idle.of_tileView_sched {s t u : State} (h : s.Idle) (ht : t.tileView = s.tileView) (hu : u.sched = t.sched := by rfl) : u.Idle :=
  ⟨(congrArg Sched.invq hu).trans (h.of_tileView ht).1, (congrArg Sched.replays hu).trans (h.of_tileView ht).2⟩
theorem tileView_discardTile (k : Nat) : (s.discardTile k).tileView = s.tileView := by
  unfold discardTile
  split <;> rfl
/-- With nothing that waits to be started, a freed entry starts nothing. -/
theorem entriesFreed_idle {s : State} (h : s.Idle) : s.entriesFreed = s := by
  obtain ⟨hi, hr⟩ := h
  have hfeed : s.feedInvocations = s := by rw [feedInvocations, hi]; rfl
  rw [entriesFreed, hfeed, feedReplays, hr]
  rfl

/-- With nothing that waits to be started, the end of a launch leaves the tiles. -/
theorem tileView_stopLaunch (l : Nat) (hs : s.Idle) : (s.stopLaunch l).tileView = s.tileView := by
  unfold stopLaunch
  split
  · rfl
  · next x hx =>
    dsimp only
    have hidle {u : State} (hu : u.tileView = s.tileView) : u.entriesFreed.tileView = s.tileView := by rw [entriesFreed_idle (hs.of_tileView hu), hu]
    refine hidle ((tileView_modLaunch ..).trans ?_)
    refine (tileView_giveBack ..).trans ((foldl_keeps tileView (fun t k => ?_) _ _).trans ((Settled.settleRounds _).tileView.trans (foldl_keeps tileView tileView_stopGroup _ _)))
    exact (tileView_endTeam ..).trans (tileView_modTeam ..)
end State

/-! ## The end of a chain (R392) -/

/-- A tile without a build. -/
def Tile.over (t : Tile) : Tile := { t with st := if t.st == .valid then .valid else .dropped, build := none, wants := [], ending := none, bdepth := 0 }
theorem Tile.over_over (t : Tile) : t.over.over = t.over := by
  cases h : t.st <;> simp [Tile.over, h]

theorem State.tile_congr {s t : State} (h : t.tileView = s.tileView) (k : Nat) : t.tile k = s.tile k := by
  rw [State.tile, State.tile, show t.mem.tiles = s.mem.tiles from congrArg Prod.fst h]

section
variable {s : State} (hs : s.Idle)
include hs

theorem State.Idle.endBuild (cause : Cause) (j : Nat) : (s.endBuild cause j).Idle ∧ ∀ k, (s.endBuild cause j).tile k = if k = j then (s.tile k).over else s.tile k := by
  obtain ⟨u, hu, heq⟩ : ∃ u : State, u.tileView = s.tileView ∧ s.endBuild cause j = u.setTile j (s.tile j).over := by
    have hkill : ∀ l, ((s.requestKill l cause).stopLaunch l).tileView = s.tileView := fun l =>
      (State.tileView_stopLaunch _ l (hs.of_tileView (s.tileView_requestKill l cause))).trans (s.tileView_requestKill l cause)
    have hend : ∀ v : State, v.tileView = s.tileView → ∃ u : State, u.tileView = s.tileView ∧
        (if (v.tile j).st == .building then v.discardTile j else v).setTile j (v.tile j).over = u.setTile j (s.tile j).over := fun v hv => by
      rw [State.tile_congr hv]
      refine ⟨_, ?_, rfl⟩
      split
      · exact (State.tileView_discardTile ..).trans hv
      · exact hv
    unfold State.endBuild
    split
    · exact hend s rfl
    · next l _ =>
      dsimp only
      split
      · exact hend s rfl
      · exact hend _ (hkill l)
  refine ⟨heq ▸ hs.of_tileView_sched hu, fun k => ?_⟩
  rw [heq]
  split
  · next hk => rw [hk, State.tile_setTile_same]
  · next hk => rw [State.tile_setTile_other _ _ _ _ hk, State.tile_congr hu]

theorem State.Idle.endBuilds (cause : Cause) (ts : List Nat) : (ts.foldl (fun t k => t.endBuild cause k) s).Idle ∧
    ∀ k, (ts.foldl (fun t k => t.endBuild cause k) s).tile k = if k ∈ ts then (s.tile k).over else s.tile k := by
  induction ts generalizing s with
  | nil => exact ⟨hs, fun k => rfl⟩
  | cons j ts ih =>
    obtain ⟨hidle, htile⟩ := hs.endBuild cause j
    obtain ⟨hidle', htile'⟩ := ih hidle
    refine ⟨hidle', fun k => (htile' k).trans ?_⟩
    rw [htile k]
    by_cases hk : k = j
    · simp [hk, Tile.over_over]
    · simp [hk]
end

theorem State.mem_chainOf (s : State) (k : Nat) : k ∈ s.chainOf k := by
  have h : ∀ n ts, k ∈ ts → k ∈ s.chainFrom n ts := fun n => by
    induction n with
    | zero => exact fun ts h => h
    | succ n ih => exact fun ts h => ih _ (List.mem_append_left _ h)
  exact h _ _ (List.mem_singleton_self k)

namespace State
variable (s : State)

theorem tileView_failStores (ts : List Nat) (cause : Cause) : (s.failStores ts cause).tileView = s.tileView := foldl_keeps tileView (fun t _ => t.tileView_modGroup ..) _ _
theorem tileView_failHeld (ts : List Nat) (cause : Cause) (f : FlitMsg → List Nat) : (s.failHeld ts cause f).tileView = s.tileView := by
  refine foldl_keeps tileView (fun t x => ?_) _ _
  split
  · unfold roce
    split <;> rfl
  · exact tileView_sendMsg ..
theorem tileView_failGroup (ts : List Nat) (cause : Cause) (gid : Nat) (g : Group) : (s.failGroup ts cause gid g).tileView = s.tileView := by
  unfold failGroup
  dsimp only
  split
  · exact tileView_deferAll ..
  · exact (tileView_settleTrap ..).trans ((tileView_modGroup ..).trans (tileView_deferAll ..))
end State

theorem exec_recipeChainEnd {s : State} {k : Nat} {cause : Cause} (hp : s.packet = none) (he : (s.tile k).ending = some cause) (hs : s.Idle) :
    ∃ t, exec (.recipeChainEnd k) s = .next t ∧ t.tile k = (s.tile k).over := by
  refine ⟨_, show execRecipeChainEnd k s = _ by rw [execRecipeChainEnd, hp, he], ?_⟩
  dsimp only
  obtain ⟨hidle, htile⟩ := hs.endBuilds cause (s.chainOf k)
  rw [State.failReplays, hs.2, List.foldl_nil]
  have hgroup : ∀ (t : State) (x : Nat × Group), (if x.2.ended then t else t.failGroup (s.chainOf k) cause x.1 x.2).tileView = t.tileView := fun t x => by
    split
    · rfl
    · exact State.tileView_failGroup ..
  have hover : ∀ u : State, u.tileView = ((s.chainOf k).foldl (fun t k => t.endBuild cause k) s).tileView → ((u.failInvoke (s.chainOf k)).entriesFreed).tile k = (s.tile k).over := fun u hu => by
    have hi := hidle.of_tileView hu
    rw [State.failInvoke, hi.1, State.entriesFreed_idle hi, State.tile_congr hu, htile, if_pos (s.mem_chainOf k)]
  exact hover _ ((foldl_keeps State.tileView hgroup _ _).trans ((State.tileView_failHeld ..).trans (State.tileView_failStores ..)))

/-! ## What leaves the staged accesses and the launches of the groups -/

/-- The engines, the groups, the teams and the gangs. -/
def State.orgView (s : State) : Engines × List (Nat × Group) × List (Nat × Team) × List (Nat × Gang) := (s.eng, s.groups, s.teams, s.gangs)
/-- The staged accesses, the releases whose effect waits, and the launch of each group. -/
def State.segView (s : State) : List Staged × List Late × (Nat → Nat) := (s.eng.staged, s.eng.lates, fun gid => ((s.group? gid).map s.launchIdOf).getD 0)
/-- These depend on no more. -/
def segOf (v : Engines × List (Nat × Group) × List (Nat × Team) × List (Nat × Gang)) : List Staged × List Late × (Nat → Nat) :=
  (v.1.staged, v.1.lates, fun gid => ((lookup v.2.1 gid).map fun g => (((lookup v.2.2.1 g.team).bind fun t => lookup v.2.2.2 t.gang).map (·.launch)).getD 0).getD 0)
theorem State.segView_of_org {s t : State} (h : t.orgView = s.orgView) : t.segView = s.segView := congrArg segOf h
theorem BytesOnly.segView {s t : State} (h : BytesOnly s t) : t.segView = s.segView := by
  have hlaunch : t.launchIdOf = s.launchIdOf := funext h.launchIdOf
  rw [State.segView, State.segView, h.eng, hlaunch, funext h.group?]

namespace State
variable (s : State)

theorem orgView_modLaunch (k : Nat) (f : Launch → Launch) : (s.modLaunch k f).orgView = s.orgView := by
  unfold modLaunch
  split <;> rfl
theorem orgView_sendMsg (dest tag : Nat) (m : FlitMsg) : (s.sendMsg dest tag m).orgView = s.orgView := by
  obtain ⟨_, _, _, _, h⟩ := s.sendMsg_eq dest tag m
  rw [h]
  rfl
theorem orgView_request (dest : Nat) (m : FlitMsg) (o : ReqOwner) (l : Nat) : (s.request dest m o l).2.orgView = s.orgView := by
  unfold request
  dsimp only
  split
  · exact orgView_modLaunch ..
  · exact orgView_sendMsg ..
theorem orgView_giveBack (l : Nat) (root : Option RootAddr) (n : Nat) : (s.giveBack l root n).orgView = s.orgView := by
  unfold giveBack
  split
  · rfl
  · split
    · rfl
    · exact orgView_request ..
theorem orgView_sendInvoke (l d : Nat) (c : Option DWord) (m : InvokeMsg) : (s.sendInvoke l d c m).orgView = s.orgView := by
  unfold sendInvoke
  split
  · exact (orgView_giveBack ..).trans (orgView_sendMsg ..)
  · split <;> exact orgView_sendMsg ..
theorem orgView_sendAll (o : ReqOwner) (l : Nat) (f : Nat → List (Nat × Nat) → FlitMsg) (xs : List (Nat × List (Nat × Nat))) : (s.sendAll o l f xs).2.orgView = s.orgView := by
  induction xs generalizing s with
  | nil => rfl
  | cons x xs ih => exact (ih _).trans (orgView_request ..)
end State

/-! ## What the start of builds leaves -/

/-- The second state is the first with builds started, or with a tile dropped: only the memory, the launches and the counters of their numbers differ. -/
def Building (s t : State) : Prop :=
  ∃ hb pg ti ld ck lb ls ni no, t = { s with mem := { s.mem with hbm := hb, pages := pg, tiles := ti, l1dirty := ld, checks := ck, l1bad := lb }, launches := ls, sched := { s.sched with nextId := ni, nextOrder := no } }

namespace Building
variable {s t u : State}

theorem refl (s : State) : Building s s := ⟨_, _, _, _, _, _, _, _, _, rfl⟩
theorem trans (h : Building s t) (h' : Building t u) : Building s u := by
  obtain ⟨_, _, _, _, _, _, _, _, _, rfl⟩ := h
  obtain ⟨_, _, _, _, _, _, _, _, _, rfl⟩ := h'
  exact ⟨_, _, _, _, _, _, _, _, _, rfl⟩
theorem ite {P : Prop} [Decidable P] (ht : Building s t) (hu : Building s u) : Building s (if P then t else u) := by
  split
  · exact ht
  · exact hu
theorem endLater (s : State) (k : Nat) (c : Cause) : Building s (s.endLater k c) := ite (refl s) ⟨_, _, _, _, _, _, _, _, _, rfl⟩
theorem discardTile (s : State) (k : Nat) : Building s (s.discardTile k) := by
  unfold State.discardTile
  split
  · exact refl s
  · exact ⟨_, _, _, _, _, _, _, _, _, rfl⟩
theorem dropTile (s : State) (k : Nat) : Building s (s.dropTile k) := ite ((discardTile s k).trans ⟨_, _, _, _, _, _, _, _, _, rfl⟩) (refl s)
theorem startOne (s : State) (k depth : Nat) (charged : Option Nat) (die : Nat) : Building s (s.startOne k depth charged die) := by
  unfold State.startOne
  dsimp only
  split
  · exact endLater ..
  · split
    · exact endLater ..
    · split
      · exact endLater ..
      · split
        · exact endLater ..
        · split
          · exact ite (refl s) ⟨_, _, _, _, _, _, _, _, _, rfl⟩
          · split <;> exact ⟨_, _, _, _, _, _, _, _, _, rfl⟩
theorem startBuilds (s : State) (charged : Option Nat) (die fuel depth : Nat) (ts : List (Nat × Nat)) : Building s (s.startBuilds charged die fuel depth ts) := by
  induction fuel generalizing s depth ts with
  | zero => exact refl s
  | succ fuel ih =>
    have hfold {f : State × List (Nat × Nat) → Nat × Nat → State × List (Nat × Nat)} (hf : ∀ a x, Building a.1 (f a x).1) (ts : List (Nat × Nat)) (a : State × List (Nat × Nat)) : Building a.1 (ts.foldl f a).1 := by
      induction ts generalizing a with
      | nil => exact refl _
      | cons x ts ih => exact (hf a x).trans (ih _)
    have hite {P : Prop} [Decidable P] {a b : State} (ha : Building s a) (hb : Building a b) : Building s (if P then a else b) := ite ha (ha.trans hb)
    exact hite (hfold (fun a x => by
      dsimp only
      split
      · exact startOne ..
      · exact refl _) ts (s, [])) (ih ..)
theorem meetTile (s : State) (c : Ctx) (k : Nat) : Building s (s.meetTile c k) := by
  unfold State.meetTile
  dsimp only
  cases (s.tile k).st with
  | valid => exact refl s
  | building =>
    cases c.own with
    | none => exact refl s
    | some o => exact ite (endLater ..) (refl s)
  | dropped =>
    have hown : ∀ o : Option Nat, Building s (match o with | some o => s.endLater o .recipeDepth | none => s) := fun o => by
      cases o with
      | none => exact refl s
      | some o => exact endLater ..
    exact ite (hown c.own) (ite (endLater ..) (startBuilds ..))
theorem orgView (h : Building s t) : t.orgView = s.orgView := by
  obtain ⟨_, _, _, _, _, _, _, _, _, rfl⟩ := h
  rfl
theorem replays (h : Building s t) : t.sched.replays = s.sched.replays := by
  obtain ⟨_, _, _, _, _, _, _, _, _, rfl⟩ := h
  rfl
end Building

namespace State
variable (s : State)

theorem segView_atomStep (c : Ctx) (op : AtomOp) (l : Loc) (priv : Bool) (args : List Word) : (s.atomStep c op l priv args).2.segView = s.segView := by
  unfold atomStep
  split
  · rfl
  · exact (bytesOnly_putTagged ..).segView
theorem segView_atomAll (c : Ctx) (op : AtomOp) (rs : List HeldLane) : (s.atomAll c op rs).2.2.2.segView = s.segView := by
  induction rs generalizing s with
  | nil => rfl
  | cons r rs ih =>
    rw [atomAll]
    split
    · refine (ih _).trans (segView_of_org ?_)
      have hdrop : (s.dropIfFailing c.core r.tile r.loc (atomSize op)).orgView = s.orgView := by
        unfold dropIfFailing
        split
        · rfl
        · split
          · exact (Building.dropTile ..).orgView
          · rfl
      split
      · exact (Building.meetTile ..).orgView.trans hdrop
      · exact hdrop
    · dsimp only
      have h := (ih (s.atomStep c op r.loc (attrPrivate r.attr && stagedPlace r.loc) r.args).2).trans (segView_atomStep ..)
      split <;> exact h
/-- A group keeps its team. -/
theorem segView_modGroup (k : Nat) (f : Group → Group) (hf : ∀ g, (f g).team = g.team) : (s.modGroup k f).segView = s.segView := by
  unfold modGroup
  split
  · next g hg =>
    refine congrArg (fun o => (s.eng.staged, s.eng.lates, o)) (funext fun j => ?_)
    by_cases hj : j = k
    · rw [hj, group?_setGroup_same, hg]
      exact congrArg (fun t => ((s.team? t).bind fun t => s.gang? t.gang).map (·.launch) |>.getD 0) (hf g)
    · rw [group?_setGroup_other _ _ _ _ hj]
      rfl
  · rfl
theorem segView_deferAll (gid : Nat) (ds : List Deferred) : (s.deferAll gid ds).segView = s.segView := foldl_keeps segView (fun t _ => t.segView_modGroup gid _ (by exact fun _ => rfl)) ds s
theorem segView_performAtoms (gid id : Nat) : (s.performAtoms gid id).segView = s.segView := by
  unfold performAtoms
  split
  · rfl
  · split
    · rfl
    · split <;> try rfl
      exact (segView_deferAll ..).trans ((segView_modGroup _ _ _ (by exact fun _ => rfl)).trans ((segView_of_org (orgView_sendAll ..)).trans (segView_atomAll ..)))
theorem segView_applyStaged (x : Staged) : (s.applyStaged x).segView = s.segView := by
  unfold applyStaged
  split
  · exact (bytesOnly_performStore ..).segView
  · exact segView_of_org (orgView_request ..)
  · exact segView_performAtoms ..
  · exact segView_of_org (orgView_sendInvoke ..)
theorem segView_applyWhere (f : Staged → Bool) : (s.applyWhere f).segView = ({ s with eng := { s.eng with staged := s.eng.staged.filter fun x => !f x } } : State).segView := foldl_keeps segView segView_applyStaged _ _
/-- No release of a launch has its effect where none waits. -/
theorem settleLates_none {s : State} {l : Nat} (h : ∀ y ∈ s.eng.lates, s.lateLaunch y ≠ l) : s.settleLates l = s := by
  have hskip : ∀ xs : List Late, (∀ y ∈ xs, s.lateLaunch y ≠ l) → xs.foldl (fun s x =>
      if s.lateLaunch x != l || !s.lateFree x then s
      else match s.lateTile x, s.group? x.gid with
        | some k, some g => s.meetTile (s.ctxOf x.gid g) k
        | some _, none => s
        | none, _ => ({ s with eng := { s.eng with lates := s.eng.lates.filter fun y => y.entry != x.entry } }).actNow x) s = s := fun xs => by
    induction xs with
    | nil => exact fun _ => rfl
    | cons x xs ih =>
      intro hx
      rw [List.foldl_cons, if_pos (by simp [hx x List.mem_cons_self])]
      exact ih fun y hy => hx y (List.mem_cons_of_mem _ hy)
  exact hskip _ h
end State

theorem State.startOne_eq {s : State} {k depth die e : Nat} {charged : Option Nat} {r bytes : List Byte} {kern : Kernel} (hrec : (s.tile k).record = some r) (hkern : s.kernelOf (keyAsid k) (recKernel r) = some kern)
    (hrecipe : kern.recipe = true) (hblock : s.recipeBlock k r kern.params = some bytes) (he : s.reservedEntry die depth = some e) :
    ∃ (u : State) (n : Nat) (x : Option Launch), s.startOne k depth charged die = (u.enterLaunch (recomputeRecord (recKernel r) n x) { kern with gang := 1 } (keyAsid k) die (.recompute k charged) (some e) 0 none depth).2.setTile k
      { s.tile k with st := .building, bdepth := depth, build := some u.fresh.1, wants := [] } := by
  unfold State.startOne
  have hfst (u : State) (a b c d e f g h i) : (u.enterLaunch a b c d e f g h i).1 = u.fresh.1 := rfl
  simp only [hrec, hkern, hrecipe, hblock, he, Bool.not_true, Bool.false_eq_true, if_false, hfst]
  by_cases hp : kern.params = 0
  · simp only [hp, if_true]
    exact ⟨s, 0, _, rfl⟩
  · simp only [hp, if_false]
    exact ⟨(s.buildBlock (keyAsid k) bytes).2, blockLa (s.buildBlock (keyAsid k) bytes).1, _, rfl⟩

/-- The end of a recompute reports nothing, and releases its block. -/
theorem State.completeLaunch_recompute {s : State} {id k : Nat} {l : Launch} {charged : Option Nat} (hl : s.launch? id = some l) (ho : l.origin = .recompute k charged) :
    (s.completeLaunch id l none).mem.tiles = s.mem.tiles ∧ (s.completeLaunch id l none).launch? id = some { l with st := .complete } := by
  obtain ⟨u, hu, hlaunches, hmem⟩ : ∃ u : State, s.completeLaunch id l none = (u.modLaunch id fun x => { x with st := .complete }).reportEnd l none ∧ u.launches = s.launches ∧ u.mem = s.mem := ⟨_, rfl, rfl, rfl⟩
  have hmod : (u.modLaunch id fun x => { x with st := .complete }) = u.setLaunch id { l with st := .complete } := by
    rw [State.modLaunch, show u.launch? id = some l from (congrArg (lookup · id) hlaunches).trans hl]
  rw [hu, hmod, ← hmem]
  unfold State.reportEnd
  rw [ho]
  dsimp only
  split
  · exact ⟨rfl, State.launch?_setLaunch_same ..⟩
  · exact ⟨rfl, State.launch?_setLaunch_same ..⟩

theorem State.sendReply_keeps (s : State) (session seq : Nat) (bs : List Byte) : (s.sendReply session seq bs).dev = s.dev ∧ (s.sendReply session seq bs).mem = s.mem := by
  unfold State.sendReply
  split <;> exact ⟨rfl, rfl⟩

theorem exec_changeDependentAction {s : State} {c : Change} {r : List Change} (hc : s.dev.changes = c :: r) (hr : s.reached c.epoch = true) :
    ∃ t, exec .changeDependentAction s = .next t ∧ (∃ q, t.dev = { s.dev with changes := r, quarantine := s.dev.quarantine.filter fun q => q.1 != c.epoch, qdone := max s.dev.qdone q }) ∧ t.mem.hbm = s.mem.hbm := by
  have hreply : ∀ u : State, ∃ t, (match c.reply with | none => u | some (session, seq, bs) => u.sendReply session seq bs) = t ∧ t.dev = u.dev ∧ t.mem = u.mem := fun u => by
    cases c.reply with
    | none => exact ⟨u, rfl, rfl, rfl⟩
    | some x => exact ⟨_, rfl, u.sendReply_keeps ..⟩
  obtain ⟨u, hexec, hdev, hmem⟩ : ∃ u : State, exec .changeDependentAction s = .next (match c.reply with | none => u.countDone | some (session, seq, bs) => u.countDone.sendReply session seq bs)
      ∧ u.dev = { s.dev with changes := r, quarantine := s.dev.quarantine.filter fun q => q.1 != c.epoch } ∧ u.mem.hbm = s.mem.hbm := by
    refine ⟨_, show execChangeDependentAction s = _ by rw [execChangeDependentAction, hc]; simp only [hr]; rfl, ?_⟩
    cases c.kind <;> exact ⟨rfl, rfl⟩
  obtain ⟨t, ht, htdev, htmem⟩ := hreply u.countDone
  rw [ht] at hexec
  exact ⟨t, hexec, ⟨u.qdoneNow, by rw [htdev, State.countDone, hdev]⟩, by rw [htmem]; exact hmem⟩

/-- The staged accesses of the segment that is next (R344). -/
def State.nextStaged (s : State) (l : Nat) (y : Staged) : Bool := y.launch == l && y.participant == (s.roundsOf l).next && decide (y.segment ≤ (s.roundsOf l).round) && y.awaits.isNone
/-- The segment after the one that is next. -/
def Rounds.after (r : Rounds) : Rounds := if r.offset + 1 = r.participants then { r with round := r.round + 1, offset := 0 } else { r with offset := r.offset + 1 }

theorem exec_ticketSegmentApply {s : State} {l : Nat} {x : Launch} {gid : Nat} {g : Group} (hl : s.launch? l = some x) (hord : x.kern.ordered = true) (hst : x.st = .admitted) (hc : x.cause = none)
    (hfind : (s.groups.find? fun y => s.launchIdOf y.2 == l && s.participantOf y.2 == (s.roundsOf l).next) = some (gid, g)) :
    exec (.ticketSegmentApply l) s = if s.eng.lates.any (fun y => s.lateLaunch y == l && s.lateDue y) then .next (s.settleLates l)
      else if (x.teamsEnded == x.record.teams && s.eng.staged.all fun y => y.launch != l) || (g.ended && s.eng.copies.any fun c => c.2.gid == gid && s.stages c.2) || s.directLeft gid g || !(g.ended || decide ((s.roundsOf l).round < g.segment)) then
        .refused .notEnabled
      else match (s.eng.staged.filter (s.nextStaged l)).findSome? s.stagedTile with
        | some (k, rebuild) => if rebuild || (s.tile k).idle then .next ((if rebuild then s.dropTile k else s).meetTile (s.ctxOf gid g) k) else .refused .notEnabled
        | none => .next (({ ((s.applyWhere (s.nextStaged l)).writeBack g.core) with eng := { ((s.applyWhere (s.nextStaged l)).writeBack g.core).eng with rounds := put ((s.applyWhere (s.nextStaged l)).writeBack g.core).eng.rounds l (s.roundsOf l).after } } : State).settleLates l) := by
  show execTicketSegmentApply l s = _
  rw [execTicketSegmentApply, hl]
  dsimp only
  rw [hord, hst, hc, hfind]
  rfl

/-- Settles O55. -/
theorem tileEvents : Obligations.TileEvents := by
  intro s
  refine ⟨?_, ?_, ?_, ?_, ?_, ?_, ?_⟩
  · intro k depth charged die r kern bytes e hw hend hrec hkern hrecipe hblock he
    have hexec : exec (.recomputeEntryWaitEnd k) s = .next (s.startOne k depth charged die) := by
      show execRecomputeEntryWaitEnd k s = _
      simp [execRecomputeEntryWaitEnd, hw, hend]
    obtain ⟨u, n, _, hu⟩ := State.startOne_eq (depth := depth) (charged := charged) hrec hkern hrecipe hblock he
    rw [hu] at hexec
    exact ⟨_, _, _, hexec, State.tile_setTile_same .., State.launch?_setLaunch_same .., rfl, rfl, rfl, rfl, rfl, rfl, rfl⟩
  · intro id l k hl hk hst hc hteams hq hend hb
    dsimp only
    obtain ⟨charged, ho⟩ : ∃ charged, l.origin = .recompute k charged := by
      cases ho : l.origin <;> simp only [ho, Origin.tile?, reduceCtorEq, Option.some.injEq] at hk
      exact ⟨_, congrArg (Origin.recompute · _) hk⟩
    obtain ⟨htiles, hlaunch⟩ := State.completeLaunch_recompute hl ho
    have htile : (s.completeLaunch id l none).tile k = s.tile k := by rw [State.tile, State.tile, htiles]
    refine ⟨?_, htile, hlaunch⟩
    show execRecomputeComplete id s = _
    simp [execRecomputeComplete, hl, hk, hst, hc, hteams, hq, hend, htile, hb]
  · intro k cause hp he hi hr
    obtain ⟨t, hexec, ht⟩ := exec_recipeChainEnd hp he ⟨hi, hr⟩
    refine ⟨t, hexec, ?_⟩
    rw [ht]
    refine ⟨rfl, rfl, rfl, ?_, rfl⟩
    cases h : (s.tile k).st <;> simp [Tile.over, h]
  · intro k pa hst hr hpa
    refine ⟨_, ?_, (congrArg (State.tile · k) (State.dropTile_eq hst hr)).trans (State.tile_setTile_same ..), ?_, fun j hj => ?_⟩
    · show execTileEvictDrop k s = _
      simp [execTileEvictDrop, hst, Option.isSome_iff_ne_none.mpr hr, hpa]
    · rw [State.dropTile_eq hst hr, State.discardTile, hpa]
      rfl
    · rw [State.dropTile_eq hst hr, State.tile_setTile_other _ _ _ _ hj, State.tile_congr (State.tileView_discardTile ..)]
  · intro line hline
    have hexec : exec (.patrolScrub line) s = execPatrolScrub line s := rfl
    rw [hexec, execPatrolScrub, if_neg (Nat.not_le.mpr hline)]
    exact ⟨fun h => by rw [h]; rfl, fun h k hk => by rw [h, hk]; rfl, fun h hk => by rw [h, hk]; rfl⟩
  · intro c r hc hr
    obtain ⟨t, hexec, ⟨n, hdev⟩, hmem⟩ := exec_changeDependentAction hc hr
    refine ⟨t, hexec, by rw [hdev], fun q hq => ?_, by rw [hdev]; exact le_max_left .., hmem⟩
    rw [hdev] at hq
    simpa using (List.mem_filter.mp hq).2
  · intro l x gid g hl hord hst hc hfind hround hdone hcopy
    dsimp only
    have hexec := exec_ticketSegmentApply hl hord hst hc hfind
    have hready : s.directLeft gid g = false → ((x.teamsEnded == x.record.teams && s.eng.staged.all fun y => y.launch != l) || (g.ended && s.eng.copies.any fun c => c.2.gid == gid && s.stages c.2) || s.directLeft gid g
        || !(g.ended || decide ((s.roundsOf l).round < g.segment))) = false := fun hleft => by
      simp only [hleft, Bool.or_false, Bool.or_eq_false_iff, Bool.and_eq_false_iff, beq_eq_false_iff_ne, List.all_eq_false, List.any_eq_false, Bool.not_eq_false', Bool.or_eq_true, decide_eq_true_eq]
      refine ⟨⟨hdone.imp_right fun ⟨y, hy, hyl⟩ => ⟨y, hy, by simp [hyl]⟩, ?_⟩, hround⟩
      cases hend : g.ended with
      | false => exact .inl rfl
      | true =>
        refine .inr fun y hy => ?_
        by_cases hgid : y.2.gid = gid
        · simp [hcopy hend y hy hgid]
        · simp [hgid]
    have hquiet : (∀ y ∈ s.eng.lates, s.lateLaunch y ≠ l) → s.eng.lates.any (fun y => s.lateLaunch y == l && s.lateDue y) = false := fun h => by
      simp only [List.any_eq_false, Bool.and_eq_true, beq_iff_eq, not_and]
      exact fun y hy hyl => absurd hyl (h y hy)
    refine ⟨fun ⟨y, hy, hyl, hyd⟩ => ?_, fun hlates hleft hfree => ?_, fun hlates hleft k hk hidle => ?_⟩
    · exact hexec.trans (if_pos (List.any_eq_true.mpr ⟨y, hy, by simp [hyl, hyd]⟩))
    · have hnone : (s.eng.staged.filter (s.nextStaged l)).findSome? s.stagedTile = none := List.findSome?_eq_none_iff.mpr fun y hy => hfree y (List.mem_filter.mp hy).1 (List.mem_filter.mp hy).2
      rw [hquiet hlates, hready hleft, hnone] at hexec
      have hview := (bytesOnly_writeBack (s.applyWhere (s.nextStaged l)) g.core).segView.trans (State.segView_applyWhere ..)
      generalize (s.applyWhere (s.nextStaged l)).writeBack g.core = u at hexec hview
      have hsettled : ({ u with eng := { u.eng with rounds := put u.eng.rounds l (s.roundsOf l).after } } : State).settleLates l = { u with eng := { u.eng with rounds := put u.eng.rounds l (s.roundsOf l).after } } :=
        State.settleLates_none fun y hy => by
          have hmem : y ∈ s.eng.lates := (show u.eng.lates = s.eng.lates from congrArg (·.2.1) hview) ▸ (show y ∈ u.eng.lates from hy)
          have hlaunch : u.lateLaunch y = s.lateLaunch y := congrArg (·.2.2 y.gid) hview
          exact fun h => hlates y hmem (hlaunch.symm.trans h)
      refine ⟨_, hexec.trans (congrArg Host.Outcome.next hsettled), ?_, congrArg (·.1) hview⟩
      rw [State.roundsOf, lookup_put_same]
      rfl
    · rw [hquiet hlates, hready hleft, show (s.eng.staged.filter (s.nextStaged l)).findSome? s.stagedTile = some (k, false) from hk] at hexec
      exact hexec.trans (if_pos (by simpa using hidle))

end Sys2Proof.Machine
end

section
/-! SUPPORT. The steps of launches (O56): what admission, placement, swaps, kills, ends and replays leave of the launches, the gangs and the replays. -/
namespace Sys2Proof.Machine

/-! ## Admission -/

section
variable {s : State} {id : Nat} {l : Launch}

theorem exec_admissionDecision (hl : s.launch? id = some l) (hst : l.st = .queued) (hc : l.cause = none) (hp : s.presented l = true) :
    exec (.admissionDecision id) s = if !l.record.bounded || l.origin.tile?.isSome then .next (s.accept id l none 0)
      else match s.admitPairs l.record l.kern (s.timebase + 50000) with
        | some q => .next (s.accept id l (some q) (s.timebase + 50000))
        | none => if l.hasRecord then .next (s.refuseLaunch id l) else .next (s.accept id l none 0) := by
  show execAdmissionDecision id s = _
  rw [execAdmissionDecision, hl]
  dsimp only
  rw [hst, hc, hp]
  rfl

/-- A launch of which gangs are left to place. -/
theorem State.nextGangOf_more (hl : s.launch? id = some l) (hmore : l.nextGang * l.kern.gang < l.record.teams) :
    s.nextGangOf id = s.fresh.2.setGang s.fresh.1 { launch := id, k := l.nextGang, teams := [], cores := [], st := .unplaced, since := 0, records := [] } := by
  rw [State.nextGangOf, hl]
  exact if_pos hmore

/-- The reservation of a launch that is accepted with pairs. -/
def Launch.reserves (id : Nat) (l : Launch) (pairs : Option (List Nat)) (start : Nat) : List Reservation :=
  match pairs with
  | none => []
  | some q => [{ launch := id, pairs := q, start := start, stop := l.record.deadline }]

/-- A launch accepted, before its first gang. -/
theorem State.accept_eq (s : State) (id : Nat) (l : Launch) (pairs : Option (List Nat)) (start : Nat) :
    ∃ u : State, s.accept id l pairs start = u.nextGangOf id ∧ u.launch? id = some { l with st := .admitted, tadmit := s.timebase, pairs := pairs } ∧ u.sched = { s.sched with resv := s.sched.resv ++ l.reserves id pairs start } := by
  have hwrite (v : State) : ∃ u : State, (if l.hasRecord then (v.setLaunch id { l with st := .admitted, tadmit := v.timebase, pairs := pairs }).writeLocal l.asid (l.record.compl + 0x20) (bytesOfNat 8 v.timebase)
      else v.setLaunch id { l with st := .admitted, tadmit := v.timebase, pairs := pairs }).nextGangOf id = u.nextGangOf id
      ∧ u.launch? id = some { l with st := .admitted, tadmit := v.timebase, pairs := pairs } ∧ u.sched = v.sched := by
    split
    · have hb := bytesOnly_writeLocal (v.setLaunch id { l with st := .admitted, tadmit := v.timebase, pairs := pairs }) l.asid (l.record.compl + 0x20) (bytesOfNat 8 v.timebase)
      exact ⟨_, rfl, (congrArg (lookup · id) hb.launches).trans (State.launch?_setLaunch_same ..), hb.sched⟩
    · exact ⟨_, rfl, State.launch?_setLaunch_same .., rfl⟩
  cases pairs with
  | none =>
    obtain ⟨u, hu, hlaunch, hsched⟩ := hwrite s
    exact ⟨u, hu, hlaunch, by rw [hsched, Launch.reserves, List.append_nil]⟩
  | some q => exact hwrite { s with sched := { s.sched with resv := s.sched.resv ++ [{ launch := id, pairs := q, start := start, stop := l.record.deadline }] } }

theorem State.accept_more (pairs : Option (List Nat)) (start : Nat) (hmore : l.nextGang * l.kern.gang < l.record.teams) :
    (s.accept id l pairs start).launch? id = some { l with st := .admitted, tadmit := s.timebase, pairs := pairs }
    ∧ (∃ k, (s.accept id l pairs start).gang? s.sched.nextId = some k ∧ k.launch = id ∧ k.k = l.nextGang ∧ k.st = .unplaced)
    ∧ (s.accept id l pairs start).sched.resv = s.sched.resv ++ l.reserves id pairs start := by
  obtain ⟨u, hu, hlaunch, hsched⟩ := s.accept_eq id l pairs start
  have hid : u.sched.nextId = s.sched.nextId := by rw [hsched]
  rw [hu, State.nextGangOf_more hlaunch hmore, ← hid]
  exact ⟨hlaunch, ⟨_, State.gang?_setGang_same .., rfl, rfl, rfl⟩, (congrArg Sched.resv hsched :)⟩
end

/-! ## What leaves the gangs and the replays -/

/-- The gangs, and of each replay whether it has started and its table. -/
def State.playView (s : State) : List (Nat × Gang) × (Nat → Option (Bool × List Byte)) := (s.gangs, fun id => (s.replay? id).map fun r => (r.started, r.table))

theorem State.playView_of {s t : State} (hg : t.gangs = s.gangs) (hr : t.sched.replays = s.sched.replays) : t.playView = s.playView := by
  rw [State.playView, State.playView, hg]
  exact congrArg (fun rs => (s.gangs, fun id => ((lookup rs id).map fun r : Replay => (r.started, r.table)))) hr
theorem Building.playView {s t : State} (h : Building s t) : t.playView = s.playView := State.playView_of (congrArg (·.2.2.2) h.orgView) h.replays
theorem BytesOnly.playView {s t : State} (h : BytesOnly s t) : t.playView = s.playView := State.playView_of h.gangs (by rw [h.sched])

namespace State
variable (s : State)

theorem playView_modGroup (k : Nat) (f : Group → Group) : (s.modGroup k f).playView = s.playView := by
  unfold modGroup
  split <;> rfl
theorem playView_modLaunch (k : Nat) (f : Launch → Launch) : (s.modLaunch k f).playView = s.playView := by
  unfold modLaunch
  split <;> rfl
theorem playView_sendMsg (dest tag : Nat) (m : FlitMsg) : (s.sendMsg dest tag m).playView = s.playView := by
  obtain ⟨_, _, _, _, h⟩ := s.sendMsg_eq dest tag m
  rw [h]
  rfl
theorem playView_request (dest : Nat) (m : FlitMsg) (o : ReqOwner) (l : Nat) : (s.request dest m o l).2.playView = s.playView := by
  unfold request
  dsimp only
  split
  · exact playView_modLaunch ..
  · exact playView_sendMsg ..
theorem playView_giveBack (l : Nat) (root : Option RootAddr) (n : Nat) : (s.giveBack l root n).playView = s.playView := by
  unfold giveBack
  split
  · rfl
  · split
    · rfl
    · exact playView_request ..
theorem playView_tell (d : Nat) (m : FlitMsg) : (s.tell d m).playView = s.playView := by
  unfold tell
  split
  · rfl
  · exact playView_sendMsg ..
theorem playView_deferAll (gid : Nat) (ds : List Deferred) : (s.deferAll gid ds).playView = s.playView := foldl_keeps playView (fun t _ => t.playView_modGroup gid _) ds s
theorem playView_park (gid : Nat) : (s.park gid).playView = s.playView := by
  unfold park
  split <;> rfl
theorem playView_takeTrap (gid : Nat) (r : TrapRec) : (s.takeTrap gid r).playView = s.playView := by
  unfold takeTrap
  split
  · rfl
  · split
    · exact (playView_modLaunch ..).trans (playView_modGroup ..)
    · split
      · exact playView_modLaunch ..
      · split
        · rfl
        · exact playView_park ..
theorem playView_settleTrap (gid : Nat) (r : TrapRec) : (s.settleTrap gid r).playView = s.playView := by
  unfold settleTrap
  split
  · rfl
  · dsimp only
    split
    · exact playView_takeTrap ..
    · rfl
theorem playView_enterLaunch (r : LaunchRec) (k : Kernel) (asid die : Nat) (o : Origin) (e : Option Nat) (w : Nat) (root : Option RootAddr) (d : Nat) : (s.enterLaunch r k asid die o e w root d).2.playView = s.playView := by
  cases o with
  | host => exact (bytesOnly_openRecord ..).playView
  | device _ => exact (bytesOnly_openRecord ..).playView
  | node _ _ => rfl
  | invoked _ _ _ _ _ => rfl
  | recompute _ _ => rfl

/-! ## Entries that come free (R408, R423) -/

theorem playView_setReplay {s : State} {id : Nat} {r x : Replay} (hr : s.replay? id = some r) (h1 : x.started = r.started) (h2 : x.table = r.table) : (s.setReplay id x).playView = s.playView := by
  refine congrArg (Prod.mk s.gangs) (funext fun j => ?_)
  rw [replay?, setReplay]
  by_cases hj : j = id
  · rw [hj, lookup_put_same, hr, Option.map_some, Option.map_some, h1, h2]
  · rw [lookup_put_other _ _ _ _ hj]
    rfl
theorem playView_deviceMeets (asid k : Nat) (again : Bool) : (s.deviceMeets asid k again).playView = s.playView :=
  (Building.ite ((Building.ite (.dropTile s k) (.refl s)).trans (.meetTile ..)) (.ite (.dropTile s k) (.refl s))).playView
theorem playView_startNode (rid i : Nat) : (s.startNode rid i).playView = s.playView := by
  unfold startNode
  split
  · rfl
  · next r hr =>
    split
    · exact playView_setReplay hr rfl rfl
    · split
      · exact playView_setReplay hr rfl rfl
      · split
        · exact playView_setReplay hr rfl rfl
        · exact playView_deviceMeets ..
        · exact playView_deviceMeets ..
        · split
          · exact playView_setReplay hr rfl rfl
          · split
            · rfl
            · refine Eq.trans (playView_setReplay (r := r) ?_ rfl rfl) rfl
              exact hr
theorem playView_feedReplays : s.feedReplays.playView = s.playView := foldl_keeps playView (fun t x => by
  split
  · exact foldl_keeps playView (fun u i => u.playView_startNode x.1 i) _ _
  · rfl) _ _
theorem playView_refuseInvoke (m : InvokeMsg) (c d : Nat) : (s.refuseInvoke m c d).playView = s.playView := (playView_giveBack ..).trans (playView_tell ..)
theorem playView_buildBlock (asid : Nat) (bs : List Byte) : (s.buildBlock asid bs).2.playView = s.playView := rfl
theorem playView_enterInvoked (m : InvokeMsg) (bs : List Byte) (k : Kernel) (e : Nat) : (s.enterInvoked m bs k e).playView = s.playView := by
  unfold enterInvoked
  dsimp only
  refine (playView_tell ..).trans ((playView_enterLaunch ..).trans ?_)
  split
  · exact (bytesOnly_openRecord ..).playView.trans (playView_giveBack ..)
  · rfl
/-- The state after an invocation was taken or waits. -/
def afterTaken : Except State State → State
  | .ok t => t
  | .error t => t
theorem playView_takeInvoke (m : InvokeMsg) : (afterTaken (s.takeInvoke m)).playView = s.playView := by
  unfold takeInvoke
  split
  · exact playView_refuseInvoke ..
  · next k _ => exact (Building.meetTile s (s.deviceCtx m.asid) k).playView
  · next k _ => exact ((Building.dropTile s k).trans (.meetTile _ (s.deviceCtx m.asid) k)).playView
  · split
    · exact playView_refuseInvoke ..
    · split
      · exact playView_refuseInvoke ..
      · split
        · exact playView_refuseInvoke ..
        · split
          · exact playView_refuseInvoke ..
          · split
            · rfl
            · exact playView_enterInvoked ..
theorem playView_drainInvocations (n : Nat) : (s.drainInvocations n).playView = s.playView := by
  induction n generalizing s with
  | zero => rfl
  | succ n ih =>
    rw [drainInvocations]
    split
    · rfl
    · next m r _ =>
      have hm := s.playView_takeInvoke m
      split
      · next t h =>
        rw [h] at hm
        exact (ih _).trans hm
      · next t h =>
        rw [h] at hm
        exact hm
theorem playView_entriesFreed : s.entriesFreed.playView = s.playView := (playView_feedReplays ..).trans (playView_drainInvocations ..)
end State

/-! ## Placement -/

namespace State
variable (s : State)

/-- The cores, the state, the time and the launch of a gang. -/
def gangCore (gk : Nat) : Option (List Nat × GangPlaceState × Nat × Nat) := (s.gang? gk).map fun k => (k.cores, k.st, k.since, k.launch)

theorem gangCore_of {s t : State} (h : t.playView = s.playView) (gk : Nat) : t.gangCore gk = s.gangCore gk := congrArg (fun g => (lookup g gk).map fun k : Gang => (k.cores, k.st, k.since, k.launch)) (congrArg Prod.fst h)

theorem modTeam_keeps (k : Nat) (f : Team → Team) : (s.modTeam k f).gangs = s.gangs ∧ (s.modTeam k f).sched = s.sched := by
  unfold modTeam
  split <;> exact ⟨rfl, rfl⟩
theorem bindGroups_keeps (k : Kernel) (params start rank team i n : Nat) : (s.bindGroups k params start rank team i n).gangs = s.gangs ∧ s.sched.nextId ≤ (s.bindGroups k params start rank team i n).sched.nextId := by
  induction n generalizing s i with
  | zero => exact ⟨rfl, le_rfl⟩
  | succ n ih =>
    obtain ⟨u, hu, hg, hn⟩ : ∃ u : State, s.bindGroups k params start rank team i (n + 1) = u.bindGroups k params start rank team (i + 1) n ∧ u.gangs = s.gangs ∧ u.sched.nextId = s.sched.nextId + 1 :=
      ⟨_, rfl, (modTeam_keeps ..).1, by rw [(modTeam_keeps ..).2]; rfl⟩
    obtain ⟨hg', hn'⟩ := ih u (i + 1)
    rw [hu]
    exact ⟨hg'.trans hg, by omega⟩
theorem gangCore_modGang (gk k : Nat) (f : Gang → Gang) (hf : ∀ x, (f x).cores = x.cores ∧ (f x).st = x.st ∧ (f x).since = x.since ∧ (f x).launch = x.launch) : (s.modGang k f).gangCore gk = s.gangCore gk := by
  unfold modGang
  split
  · next x hx =>
    obtain ⟨h1, h2, h3, h4⟩ := hf x
    rw [gangCore, gangCore]
    by_cases hk : gk = k
    · rw [hk, gang?_setGang_same, hx, Option.map_some, Option.map_some, h1, h2, h3, h4]
    · rw [show (s.setGang k (f x)).gang? gk = s.gang? gk from lookup_put_other _ _ _ _ hk]
  · rfl
theorem modGang_sched (k : Nat) (f : Gang → Gang) : (s.modGang k f).sched = s.sched := by
  unfold modGang
  split <;> rfl
theorem bindTeams_keeps (gk : Nat) (g : Gang) (l : Launch) (start j n : Nat) : (s.bindTeams gk g l start j n).gangCore gk = s.gangCore gk ∧ s.sched.nextId ≤ (s.bindTeams gk g l start j n).sched.nextId := by
  induction n generalizing s j with
  | zero => exact ⟨rfl, le_rfl⟩
  | succ n ih =>
    obtain ⟨u, v, tid, rank, a, hu, hv, hg, hn⟩ : ∃ (u v : State) (tid rank a : Nat), s.bindTeams gk g l start j (n + 1) = u.bindTeams gk g l start (j + 1) n ∧ u = v.bindGroups l.kern l.record.params start rank tid a l.kern.groups
        ∧ v.gangCore gk = s.gangCore gk ∧ v.sched.nextId = s.sched.nextId + 1 :=
      ⟨_, _, _, _, _, rfl, rfl, gangCore_modGang _ _ _ _ (by exact fun _ => ⟨rfl, rfl, rfl, rfl⟩), by rw [modGang_sched]; rfl⟩
    obtain ⟨hb, hbn⟩ := v.bindGroups_keeps l.kern l.record.params start rank tid a l.kern.groups
    rw [← hv] at hb hbn
    obtain ⟨hg', hn'⟩ := ih u (j + 1)
    rw [hu]
    refine ⟨hg'.trans (Eq.trans ?_ hg), by omega⟩
    rw [gangCore, gangCore, gang?, gang?, hb]
end State

namespace State
variable (s : State)

theorem bytesOnly_handRows (x : Nat × Nat) : BytesOnly s (s.handRows x) := by
  unfold handRows
  dsimp only
  split
  · exact .refl s
  · exact .foldl (fun t y => bytesOnly_evictLine ..) _ _
/-- The gangs, the scheduler and the time. -/
def placeView : List (Nat × Gang) × Sched × Nat := (s.gangs, s.sched, s.timebase)
theorem placeView_takeAcc (gk : Nat) (x : Kernel) (cores : List Nat) : (s.takeAcc gk x cores).placeView = s.placeView := by
  refine foldl_keeps placeView (fun t c => ?_) cores s
  have hclear : ∀ u : State, u.placeView = t.placeView → (if x.accumulator then { u with eng := { u.eng with accUsers := put u.eng.accUsers c gk } } else u : State).placeView = t.placeView := fun u hu => by
    split <;> exact hu
  refine hclear _ ?_
  split
  · rfl
  · split <;> rfl
theorem placeView_startPorters (gk : Nat) (x : Kernel) (cores : List Nat) : (s.startPorters gk x cores).placeView = s.placeView := by
  refine foldl_keeps placeView (fun t c => ?_) _ s
  dsimp only
  split
  · split <;> rfl
  · split <;> rfl
theorem gangCore_nextGangOf {s : State} {gk : Nat} (h : gk < s.sched.nextId) (l : Nat) : (s.nextGangOf l).gangCore gk = s.gangCore gk := by
  unfold nextGangOf
  split
  · rfl
  · split
    · rw [gangCore, gangCore]
      exact congrArg _ (lookup_put_other _ _ _ _ (Nat.ne_of_lt h))
    · exact (gangCore_of (playView_entriesFreed _) gk).trans rfl

/-- A gang that stands placed, under a number that has been given out. -/
def Placed (s : State) (gk : Nat) (x : List Nat × GangPlaceState × Nat × Nat) : Prop := s.gangCore gk = some x ∧ gk < s.sched.nextId
theorem Placed.of {s t : State} {gk : Nat} {x : List Nat × GangPlaceState × Nat × Nat} (h : s.Placed gk x) (hg : t.gangs = s.gangs) (hs : t.sched = s.sched) : t.Placed gk x :=
  ⟨(congrArg (fun g => (lookup g gk).map fun k : Gang => (k.cores, k.st, k.since, k.launch)) hg).trans h.1, hs ▸ h.2⟩
theorem Placed.bindTeams {s : State} {gk : Nat} {x : List Nat × GangPlaceState × Nat × Nat} (h : s.Placed gk x) (g : Gang) (l : Launch) (start j n : Nat) : (s.bindTeams gk g l start j n).Placed gk x :=
  ⟨(s.bindTeams_keeps gk g l start j n).1.trans h.1, Nat.lt_of_lt_of_le h.2 (s.bindTeams_keeps gk g l start j n).2⟩

theorem gangCore_placeNew (gk : Nat) (g : Gang) (l : Launch) (start : Nat) (h : gk < s.sched.nextId) :
    (s.placeNew gk g l start).gangCore gk = some ((List.range l.kern.cores).map (start + ·), .resident, s.timebase, g.launch) := by
  have htake := s.placeView_takeAcc gk l.kern ((List.range l.kern.cores).map (start + ·))
  have hsched : (s.takeAcc gk l.kern ((List.range l.kern.cores).map (start + ·))).sched = s.sched := congrArg (·.2.1) htake
  have htime : (s.takeAcc gk l.kern ((List.range l.kern.cores).map (start + ·))).timebase = s.timebase := congrArg (·.2.2) htake
  unfold placeNew
  dsimp only
  generalize s.takeAcc gk l.kern ((List.range l.kern.cores).map (start + ·)) = u at hsched htime ⊢
  have hset : (u.setGang gk { g with cores := (List.range l.kern.cores).map (start + ·), st := .resident, since := u.timebase }).Placed gk ((List.range l.kern.cores).map (start + ·), .resident, s.timebase, g.launch) := by
    refine ⟨?_, show gk < u.sched.nextId from hsched ▸ h⟩
    rw [gangCore, gang?_setGang_same, Option.map_some, htime]
  have hrows := BytesOnly.foldl bytesOnly_handRows (((List.range l.kern.cores).map (start + ·)).map fun c => (c, s.split c)) (bindTeams (u.setGang gk { g with cores := (List.range l.kern.cores).map (start + ·), st := .resident, since := u.timebase }) gk g l start 0 l.kern.gang)
  have hbound := (hset.bindTeams g l start 0 l.kern.gang).of hrows.gangs hrows.sched
  have hporters := placeView_startPorters (List.foldl handRows (bindTeams (u.setGang gk { g with cores := (List.range l.kern.cores).map (start + ·), st := .resident, since := u.timebase }) gk g l start 0 l.kern.gang)
    (((List.range l.kern.cores).map (start + ·)).map fun c => (c, s.split c))) gk l.kern ((List.range l.kern.cores).map (start + ·))
  have hstarted := hbound.of (congrArg (·.1) hporters) (congrArg (·.2.1) hporters)
  generalize startPorters _ gk l.kern _ = p at hstarted ⊢
  have hmod : (p.modLaunch g.launch fun x => { x with nextGang := x.nextGang + 1, extra := 0 }).Placed gk ((List.range l.kern.cores).map (start + ·), .resident, s.timebase, g.launch) := by
    refine hstarted.of ?_ ?_
    · unfold modLaunch
      split <;> rfl
    · unfold modLaunch
      split <;> rfl
  exact (gangCore_nextGangOf hmod.2 _).trans hmod.1

/-! ## Resuming -/

theorem playView_recheckQueue (gid : Nat) (w : Wait) : (s.recheckQueue gid w).playView = s.playView := by
  unfold recheckQueue
  split
  · rfl
  · next g hg =>
    have hagain (o : Except LanesFault (List (Nat × Queue))) (k : WaitKind) : (match o with
        | .ok _ => s.setGroup gid (g.enterWait s.cycle k w.slot)
        | .error (.tile _ _) => s.setGroup gid (g.enterWait s.cycle k w.slot)
        | .error (.causes es) => (match worst es with
            | none => s
            | some (x, m, ea) => (s.setGroup gid (g.leaveWait w.slot)).settleTrap gid { place := w.slot.place, cause := x, lanes := m, addr := ea, word := w.slot.word, defer := false, active := w.slot.lanes, restart := w.slot.pc })).playView = s.playView := by
      split
      · rfl
      · rfl
      · split
        · rfl
        · exact playView_settleTrap ..
    dsimp only
    split
    · exact hagain _ _
    · split
      · exact hagain _ _
      · cases w.kind <;> rfl
theorem playView_recheckGroup (gid : Nat) : (s.recheckGroup gid).playView = s.playView := by
  unfold recheckGroup
  split
  · rfl
  · exact (foldl_keeps playView (fun t w => t.playView_recheckQueue gid w) _ _).trans (playView_deferAll ..)
theorem playView_resumeGroups (x : Kernel) (start rank : Nat) (gs : List Nat) : (s.resumeGroups x start rank gs).playView = s.playView := by
  induction gs generalizing s with
  | nil => rfl
  | cons gid gs ih =>
    refine (ih _).trans ?_
    split
    · rfl
    · split <;> rfl
theorem playView_resumeTeams (x : Kernel) (start : Nat) (ts : List Nat) : (s.resumeTeams x start ts).playView = s.playView := by
  induction ts generalizing s with
  | nil => rfl
  | cons tid ts ih =>
    refine (ih _).trans ?_
    split
    · rfl
    · split
      · rfl
      · exact playView_resumeGroups ..
theorem playView_restoreAcc (gk : Nat) (g : Gang) (start : Nat) (x : Kernel) : (s.restoreAcc gk g start x).playView = s.playView := by
  unfold restoreAcc
  split
  · rfl
  · exact foldl_keeps playView (fun t c => by rfl) _ s
theorem playView_resumePorters (gk start : Nat) : (s.resumePorters gk start).playView = s.playView := rfl
theorem gangCore_placeAgain (gk : Nat) (g : Gang) (l : Launch) (start : Nat) (h : ∀ r ∈ g.records, s.lineFails none (.phys r.1) r.2 = false) :
    (s.placeAgain gk g l start).gangCore gk = some ((List.range l.kern.cores).map (start + ·), .resident, s.timebase, g.launch) := by
  unfold placeAgain
  rw [if_neg (by simpa using h)]
  refine (gangCore_of ((foldl_keeps playView (fun t (x : Nat × Group) => t.playView_recheckGroup x.1) _ _).trans ((playView_resumePorters ..).trans ((playView_restoreAcc ..).trans ((BytesOnly.foldl bytesOnly_handRows _ _).playView.trans (playView_resumeTeams ..))))) gk).trans ?_
  rw [gangCore, gang?_setGang_same]
  rfl
end State

theorem exec_gangPlace {s : State} {gk start : Nat} {g : Gang} {l : Launch} (hp : s.packet = none) (hg : s.gang? gk = some g) (hl : s.launch? g.launch = some l) (he : s.eligible g = true)
    (hfirst : ∀ x ∈ s.gangs, x.1 ≠ gk → s.eligible x.2 = true → s.goesBefore x.2 g = true → s.unitFor x.2 = none) (hu : s.unitFor g = some start) :
    exec (.gangPlace gk) s = .next (if g.st == .unplaced then s.placeNew gk g l start else s.placeAgain gk g l start) := by
  have hnone : s.gangs.any (fun x => x.1 != gk && s.eligible x.2 && s.goesBefore x.2 g && (s.unitFor x.2).isSome) = false := by
    simp only [List.any_eq_false, Bool.and_eq_true, bne_iff_ne, not_and]
    intro x hx h1 h2
    rw [hfirst x hx h1.1.1 h1.1.2 h1.2] at h2
    cases h2
  show execGangPlace gk s = _
  simp only [execGangPlace, hp, hg, hl, he, hnone, hu, Bool.not_true, Bool.or_self, Bool.false_eq_true, if_false]

/-! ## Kills and ends -/

theorem State.stopGroup_groups (s : State) (gid : Nat) : (s.stopGroup gid).groups = (s.modGroup gid Group.stopped).groups := by
  have hmod {u : State} (hu : u.groups = s.groups) : (u.modGroup gid Group.stopped).groups = (s.modGroup gid Group.stopped).groups := by
    unfold State.modGroup State.group?
    rw [hu]
    split
    · exact congrArg (put · gid _) hu
    · exact hu
  refine hmod ?_
  split
  · split
    · exact State.giveBack_groups ..
    · rfl
  · rfl

/-- A kill ends each group that it stops, and every group that has ended stays so. -/
theorem State.ended_stopGroups {s : State} {k : Nat} {g : Group} (hg : s.group? k = some g) (gids : List Nat) (h : g.ended = true ∨ k ∈ gids) : ∃ x, (gids.foldl State.stopGroup s).group? k = some x ∧ x.ended = true := by
  induction gids generalizing s g with
  | nil => exact ⟨g, hg, h.resolve_right List.not_mem_nil⟩
  | cons j gids ih =>
    have hstep : (s.stopGroup j).group? k = (s.modGroup j Group.stopped).group? k := congrArg (lookup · k) (s.stopGroup_groups j)
    by_cases hj : j = k
    · subst hj
      exact ih (g := g.stopped) (hstep.trans (by rw [State.modGroup_eq hg, State.group?_setGroup_same])) (.inl rfl)
    · refine ih (g := g) (hstep.trans ?_) (h.imp_right fun hk => (List.mem_cons.mp hk).resolve_left fun he => hj he.symm)
      unfold State.modGroup
      split
      · exact (State.group?_setGroup_other _ _ _ _ (Ne.symm hj)).trans hg
      · exact hg

/-- A launch that is to be killed with a cause. -/
def State.Doomed (s : State) (id : Nat) (c : Cause) : Prop := ∃ x, s.launch? id = some x ∧ x.cause = some c

namespace State.Doomed
variable {s t : State} {id : Nat} {c : Cause}

theorem of (h : s.Doomed id c) (ht : t.launches = s.launches) : t.Doomed id c := by
  obtain ⟨x, hx, hc⟩ := h
  exact ⟨x, (congrArg (lookup · id) ht).trans hx, hc⟩
theorem modLaunch (h : s.Doomed id c) (k : Nat) (f : Launch → Launch) (hf : ∀ x, x.cause = some c → (f x).cause = some c) : (s.modLaunch k f).Doomed id c := by
  obtain ⟨x, hx, hc⟩ := h
  unfold State.modLaunch
  split
  · next y hy =>
    by_cases hk : id = k
    · subst hk
      obtain rfl := Option.some.inj (hx.symm.trans hy)
      exact ⟨_, State.launch?_setLaunch_same .., hf x hc⟩
    · exact ⟨x, (State.launch?_setLaunch_other _ _ _ _ hk).trans hx, hc⟩
  · exact ⟨x, hx, hc⟩
theorem requestKill (h : s.Doomed id c) (k : Nat) (d : Cause) : (s.requestKill k d).Doomed id c := h.modLaunch k _ fun x hx => by
  rw [if_pos (by simp [hx])]
  exact hx
theorem giveBack (h : s.Doomed id c) (l : Nat) (root : Option RootAddr) (n : Nat) : (s.giveBack l root n).Doomed id c := by
  unfold State.giveBack
  split
  · exact h
  · split
    · exact h
    · unfold State.request
      dsimp only
      split
      · exact requestKill (s := s.takeTag.2) (of h rfl) ..
      · obtain ⟨_, _, _, _, hm⟩ := State.sendMsg_eq { s.takeTag.2 with fab := _ } _ s.takeTag.1 _
        rw [hm]
        exact h.of rfl
theorem stopGroup (h : s.Doomed id c) (gid : Nat) : (s.stopGroup gid).Doomed id c := by
  have hmod {u : State} (hu : u.Doomed id c) : (u.modGroup gid Group.stopped).Doomed id c := by
    refine hu.of ?_
    unfold State.modGroup
    split <;> rfl
  refine of (hmod (u := match s.group? gid with
    | some g => if g.lent then s.giveBack (s.launchIdOf g) (s.rootOf g) (2 ^ 32) else s
    | none => s) ?_) rfl
  split
  · split
    · exact h.giveBack ..
    · exact h
  · exact h
theorem endTeam (h : s.Doomed id c) (tid : Nat) : (s.endTeam tid).Doomed id c := by
  unfold State.endTeam
  split
  · exact h
  · have hend (v : State) (k : Nat) : (v.endGang k).launches = v.launches := by
      unfold State.endGang
      split
      · rfl
      · split <;> rfl
    refine of ?_ ((Settled.settleRounds _).launches.trans (hend ..))
    refine modLaunch (giveBack (of h ?_) ..) _ _ fun x hx => hx
    exact (BytesOnly.foldl bytesOnly_writeBack _ _).launches.trans (BytesOnly.foldl (fun s b => bytesOnly_unbind ..) _ _).launches
theorem foldl {α : Type} {f : State → α → State} (hf : ∀ s x, s.Doomed id c → (f s x).Doomed id c) (xs : List α) (h : s.Doomed id c) : (xs.foldl f s).Doomed id c := by
  induction xs generalizing s with
  | nil => exact h
  | cons x xs ih => exact ih (hf s x h)
end State.Doomed

/-- With nothing that waits to be started, a kill ends the groups of a launch and keeps its cause. -/
theorem State.modLaunch_entriesFreed {z : State} {id : Nat} {y : Launch} {f : Launch → Launch} (hy : z.launch? id = some y) (hz : z.Idle) :
    (z.modLaunch id f).entriesFreed.groups = z.groups ∧ (z.modLaunch id f).entriesFreed.launch? id = some (f y) := by
  have hset : z.modLaunch id f = z.setLaunch id (f y) := by rw [modLaunch, hy]
  have hfreed : (z.setLaunch id (f y)).entriesFreed = z.setLaunch id (f y) := entriesFreed_idle ⟨hz.1, hz.2⟩
  rw [hset, hfreed]
  exact ⟨rfl, launch?_setLaunch_same ..⟩

theorem State.stopLaunch_ends {s : State} {id : Nat} {l : Launch} {c : Cause} (hs : s.Idle) (hl : s.launch? id = some l) (hc : l.cause = some c) :
    (s.stopLaunch id).groups = ((s.groupsOfLaunch id).foldl State.stopGroup s).groups ∧ ∃ y, (s.stopLaunch id).launch? id = some y ∧ y.st = .killed ∧ y.entry = none ∧ y.cause = some c := by
  have hstart : s.Doomed id c := ⟨l, hl, hc⟩
  unfold State.stopLaunch
  rw [hl]
  dsimp only
  have hstopped := Doomed.foldl (fun t gid h => h.stopGroup gid) (s.groupsOfLaunch id) hstart
  have hidle := hs.of_tileView (foldl_keeps tileView tileView_stopGroup (s.groupsOfLaunch id) s)
  generalize (s.groupsOfLaunch id).foldl State.stopGroup s = u at hstopped hidle ⊢
  generalize hv : ({ u with eng := { u.eng with staged := u.eng.staged.filter fun y => y.launch != id, rounds := del u.eng.rounds id }, mem := { u.mem with storeQ := u.mem.storeQ.filter fun y => !(y.launch == id && y.tile.isSome && y.tile == l.origin.tile?) } } : State).settleRounds = v
  have hsettled : v.groups = u.groups ∧ v.Doomed id c ∧ v.Idle := by
    subst hv
    exact ⟨settleRounds_groups _, hstopped.of (Settled.settleRounds _).launches, hidle.of_tileView (Settled.settleRounds _).tileView⟩
  generalize hw : (v.teamsOfLaunch id).foldl (fun s t => (s.modTeam t fun y => { y with arrived := [] }).endTeam t) v = w
  have hclosed : w.groups = v.groups ∧ w.Doomed id c ∧ w.Idle := by
    subst hw
    refine ⟨foldl_keeps State.groups (fun t k => (endTeam_groups ..).trans (modTeam_groups ..)) _ _, Doomed.foldl (fun t k h => (h.of ?_).endTeam k) _ hsettled.2.1,
      hsettled.2.2.of_tileView (foldl_keeps tileView (fun t k => (tileView_endTeam ..).trans (tileView_modTeam ..)) _ _)⟩
    unfold modTeam
    split <;> rfl
  generalize hx : w.giveBack id l.root l.unboundWeight = x
  have hgiven : x.groups = w.groups ∧ x.Doomed id c ∧ x.Idle := by
    subst hx
    exact ⟨giveBack_groups .., hclosed.2.1.giveBack .., hclosed.2.2.of_tileView (tileView_giveBack ..)⟩
  obtain ⟨y, hy, hcause⟩ := hgiven.2.1
  obtain ⟨h1, h2⟩ := modLaunch_entriesFreed (z := { x with gangs := x.gangs.map fun k => if k.2.launch = id then (k.1, { k.2 with st := .ended }) else k, sched := { x.sched with resv := x.sched.resv.filter fun r => r.launch != id } }) (f := fun y => { y with st := .killed, entry := none, nextGang := y.record.teams, extra := 0 }) hy ⟨hgiven.2.2.1, hgiven.2.2.2⟩
  exact ⟨h1.trans (hgiven.1.trans (hclosed.1.trans hsettled.1)), _, h2, rfl, rfl, hcause⟩

theorem exec_launchKill {s : State} {id : Nat} {l : Launch} {c : Cause} (hp : s.packet = none) (hl : s.launch? id = some l) (hc : l.cause = some c) (h1 : l.st ≠ .killed) (h2 : l.st ≠ .complete) (h3 : l.st ≠ .refused) :
    ∃ t, exec (.launchKill id) s = .next t ∧ t.groups = (s.stopLaunch id).groups ∧ t.launches = (s.stopLaunch id).launches := by
  have hexec : exec (.launchKill id) s = .next (match l.origin.tile? with
      | none => s.stopLaunch id
      | some k => (s.stopLaunch id).endLater k .recipeMiss) := by
    show execLaunchKill id s = _
    simp [execLaunchKill, hp, hl, hc, h1, h2, h3] <;> rfl
  refine ⟨_, hexec, ?_⟩
  split
  · exact ⟨rfl, rfl⟩
  · unfold State.endLater
    dsimp only
    split <;> exact ⟨rfl, rfl⟩

theorem BytesOnly.postStatus (s : State) (asid la kind cause : Nat) : BytesOnly s (s.postStatus asid la kind cause) := bytesOnly_writeLocal ..

theorem State.completeLaunch_host {s : State} {id : Nat} {l : Launch} (hl : s.launch? id = some l) (ho : l.origin = .host) :
    (s.completeLaunch id l none).launch? id = some { l with st := .complete } := by
  have hrecord (t : State) (kind cause : Nat) : BytesOnly t (t.postRecord l kind cause) := by
    unfold State.postRecord
    split
    · exact .refl t
    · exact ((bytesOnly_writeLocal ..).trans (bytesOnly_writeLocal ..)).trans (.postStatus ..)
  simp only [completeLaunch, reportEnd, ho]
  refine (congrArg (lookup · id) (hrecord _ _ _).launches).trans ?_
  unfold modLaunch
  split
  · next x hx =>
    cases Option.some.inj (hx.symm.trans hl)
    refine (launch?_setLaunch_same ..).trans ?_
    simp only [ho]
  · next hx => exact absurd (hl.symm.trans hx) (by simp)

theorem exec_launchComplete {s : State} {id : Nat} {l : Launch} (hl : s.launch? id = some l)
    (hdone : l.st = .killed ∨ (l.st = .admitted ∧ l.cause = none ∧ l.teamsEnded = l.record.teams ∧ l.origin.tile? = none))
    (hq : s.quiet id = true) (hret : s.returnBytes id l = none) : exec (.launchComplete id) s = .next (s.completeLaunch id l none) := by
  have hcond : (l.st == .killed || (l.st == .admitted && l.cause.isNone && l.teamsEnded == l.record.teams && l.origin.tile?.isNone)) = true := by
    rcases hdone with h | ⟨h1, h2, h3, h4⟩
    · simp [h]
    · simp [h1, h2, h3, h4]
  show execLaunchComplete id s = _
  simp [execLaunchComplete, hl, hcond, hq, hret]

theorem exec_replayStart {s : State} {id : Nat} {r : Replay} (hr : s.replay? id = some r) (hst : r.started = false) (hbehind : s.notBehind r.after = true)
    (hfirst : ∀ x ∈ s.replaysOf r.asid r.graph, r.order ≤ x.2.order) :
    exec (.replayStart id) s = match s.replayStart r with
      | .error (.wait k) => if (s.tile k).idle then .next (s.deviceMeets r.asid k false) else .refused .notEnabled
      | .error (.rebuild k) => .next (s.deviceMeets r.asid k true)
      | .error (.bad _ _) => .next (s.neverStarts id r)
      | .ok (r, ws) => .next (((ws.foldl (fun s w => s.writeLocal r.asid w.1 (bytesOfNat 4 w.2)) s).setReplay id r).feedReplays) := by
  have hdue : s.replayDue r = true := by
    simpa [State.replayDue, hst, hbehind] using fun a b h => hfirst (a, b) h
  show execReplayStart id s = _
  simp [execReplayStart, hr, hdue] <;> rfl

theorem exec_claimExpire {s : State} {slot : Nat} (hst : (s.claimAt slot).st = .resolved) (hex : (s.claimAt slot).expiry ≤ s.timebase) :
    ∃ m, exec (.claimExpire slot) s = .next ((s.setClaim slot { s.claimAt slot with st := .free, locDev := 0, loc := 0, expiry := 0 }).tell (s.claimAt slot).locDev m) := by
  have hcond : ((s.claimAt slot).st == .resolved && decide ((s.claimAt slot).expiry ≤ s.timebase)) = true := by simp [hst, hex]
  exact ⟨_, if_pos hcond⟩

theorem claimAt_tell (s : State) (d : Nat) (m : FlitMsg) (k : Nat) : (s.tell d m).claimAt k = s.claimAt k := by
  unfold State.tell
  split
  · rfl
  · obtain ⟨_, _, _, _, h⟩ := s.sendMsg_eq d 0 m
    rw [h]
    rfl

/-- Settles O56: the steps of launches one by one; what the freed entries let start afterwards keeps the gangs, and of each replay its table and that it has started. -/
theorem launchEvents : Obligations.LaunchEvents := by
  intro s
  refine ⟨?_, ?_, ?_, ?_, ?_, ?_, ?_, ?_, ?_, ?_⟩
  · intro id l hl hst hc hp
    have hexec := exec_admissionDecision hl hst hc hp
    refine ⟨fun h => hexec.trans (if_pos ?_), fun hb ht => ?_, fun pairs start hmore => State.accept_more pairs start hmore⟩
    · rcases h with h | h
      · simp [h]
      · simp [Option.isSome_iff_ne_none.mpr h]
    · rw [hb, ht] at hexec
      refine ⟨fun q hq => ?_, fun hq hr => ?_⟩
      · rw [hq] at hexec
        exact hexec
      · rw [hq, hr] at hexec
        exact hexec
  · intro gk g l start hp hg hl he hfirst hu hrec hid
    have hcore : (if g.st == .unplaced then s.placeNew gk g l start else s.placeAgain gk g l start).gangCore gk = some ((List.range l.kern.cores).map (start + ·), .resident, s.timebase, g.launch) := by
      split
      · exact s.gangCore_placeNew gk g l start hid
      · exact s.gangCore_placeAgain gk g l start hrec
    obtain ⟨k, hk, hkv⟩ := Option.map_eq_some_iff.mp hcore
    obtain ⟨h1, h2, h3, h4⟩ : k.cores = _ ∧ k.st = _ ∧ k.since = _ ∧ k.launch = _ := by simpa using hkv
    exact ⟨_, k, exec_gangPlace hp hg hl he hfirst hu, hk, h2, h1, h3, h4⟩
  · intro gk k x records u hp hg hst hb hset hr hk hs
    obtain ⟨v, hv⟩ : ∃ v : State, execGangSwapOut gk s = .next (v.setGang gk { k with cores := [], st := .swapped, records := records }) := by
      simp only [execGangSwapOut, hp, hg, hst, hb, hset, hr, hk, hs]
      exact ⟨_, rfl⟩
    exact ⟨_, _, hv, State.gang?_setGang_same .., rfl, rfl, rfl⟩
  · intro id r hr hstop
    show execReservationDeadline id s = _
    rw [execReservationDeadline, hr]
    exact if_pos hstop
  · intro id l hl hst hc ht hw
    have hcond : (l.st == .admitted && l.cause.isNone && l.origin.tile?.isNone && decide (l.record.workbound ≤ l.charge)) = true := by simp [hst, hc, ht, hw]
    show execOverrun id s = _
    rw [execOverrun, hl]
    refine (if_pos hcond).trans (congrArg _ ?_)
    rw [State.requestKill, State.modLaunch, hl]
    simp [hc, hst]
  · intro id l c hp hl hc h1 h2 h3 hi hr
    obtain ⟨t, hexec, hgroups, hlaunches⟩ := exec_launchKill hp hl hc h1 h2 h3
    obtain ⟨hstopped, y, hy, hst, he, hcause⟩ := State.stopLaunch_ends ⟨hi, hr⟩ hl hc
    refine ⟨t, y, hexec, (congrArg (lookup · id) hlaunches).trans hy, hst, he, hcause, fun gid g hg hid => ?_⟩
    obtain ⟨x, hx, hend⟩ := State.ended_stopGroups hg (s.groupsOfLaunch id) (by
      cases h : g.ended with
      | true => exact .inl rfl
      | false => exact .inr (List.mem_map.mpr ⟨(gid, g), List.mem_filter.mpr ⟨lookup_mem hg, by simp [h, hid]⟩, rfl⟩))
    exact ⟨x, (congrArg (lookup · gid) (hgroups.trans hstopped)).trans hx, hend⟩
  · intro id l hl hdone hq hret
    exact ⟨exec_launchComplete hl hdone hq hret, State.completeLaunch_host hl⟩
  · intro id r hr hst hbehind hfirst
    have hexec := exec_replayStart hr hst hbehind hfirst
    refine ⟨fun c ea hg => ?_, fun k hg hidle => ?_, fun bs ws hg hp => ?_⟩
    · rw [hexec, show s.replayStart r = .error (.bad c ea) by rw [State.replayStart, hg]; rfl]
      rfl
    · rw [hexec, show s.replayStart r = .error (.wait k) by rw [State.replayStart, hg]; rfl]
      exact if_pos hidle
    · rw [show s.replayStart r = .ok (_, ws) by rw [State.replayStart, hg]; exact congrArg (Except.map _) hp] at hexec
      have hview := State.playView_feedReplays (State.setReplay (ws.foldl (fun s w => s.writeLocal r.asid w.1 (bytesOfNat 4 w.2)) s) id { r with started := true, table := bs, nnode := fieldAt bs 0 2 })
      have hcore := (congrFun (congrArg (·.2) hview) id).trans (congrArg (Option.map fun x : Replay => (x.started, x.table)) (lookup_put_same ..))
      obtain ⟨x, hx, hv⟩ := Option.map_eq_some_iff.mp hcore
      exact ⟨_, x, hexec, hx, congrArg Prod.fst hv, congrArg Prod.snd hv⟩
  · intro id r hr hst hnodes hready
    have hpost (t : State) (n : Nat) : BytesOnly t (t.postReplay id r n) := by
      unfold State.postReplay
      dsimp only
      split
      · exact .refl t
      · exact (bytesOnly_writeLocal ..).trans (bytesOnly_writeLocal ..)
    have hexec : ∃ u : State, ∃ a b c n, execReplayComplete id s = .next (((({ u with sched := { u.sched with replays := del u.sched.replays id } }).writeLocal r.asid a b).writeLocal r.asid c (bytesOfNat 4 n)).postReplay id r n) := by
      rw [execReplayComplete, show s.replay? id = some r from hr]
      simp only [hst, hnodes, hready]
      exact ⟨_, _, _, _, _, rfl⟩
    obtain ⟨u, a, b, c, n, h⟩ := hexec
    refine ⟨_, h, ?_⟩
    rw [((bytesOnly_writeLocal ..).trans ((bytesOnly_writeLocal ..).trans (hpost _ n))).sched]
    exact lookup_del_same ..
  · intro slot hst hex
    obtain ⟨m, hexec⟩ := exec_claimExpire hst hex
    have hsame : (s.setClaim slot { s.claimAt slot with st := .free, locDev := 0, loc := 0, expiry := 0 }).claimAt slot = _ := congrArg (Option.getD · _) (lookup_put_same ..)
    refine ⟨_, hexec, ?_, ?_, fun k hk => (claimAt_tell ..).trans (congrArg (Option.getD · _) (lookup_put_other _ _ _ _ hk))⟩
    · exact congrArg ClaimSlot.st ((claimAt_tell ..).trans hsame)
    · have hgen := congrArg ClaimSlot.gen hsame
      exact (congrArg ClaimSlot.gen (claimAt_tell ..)).trans hgen

end Sys2Proof.Machine
end

section
/-! SUPPORT. Host requests (O58): what a request comes to once it is taken, and what the changes of the memory and of the fabric leave. -/
namespace Sys2Proof.Machine

/-! ## The order of requests (R465, R466) -/

/-- A session that takes a request's number. -/
def State.taking (s : State) (h : HcpHdr) (x : Session) : State :=
  { s with host := { s.host with sessions := put s.host.sessions h.session { x with lastSeq := h.seq + 1 } } }

theorem State.ordinaryEntry_taking (s : State) (h : HcpHdr) (x : Session) (die : Nat) : (s.taking h x).ordinaryEntry die = s.ordinaryEntry die := by
  have hfree : ∀ n first, (s.taking h x).freeEntry die first n = s.freeEntry die first n := by
    intro n
    induction n with
    | zero => exact fun _ => rfl
    | succ n ih =>
      intro first
      rw [freeEntry, freeEntry, ih]
      rfl
  exact hfree ..

/-- The machine with its decay tables written at a base and in use (R53). -/
def State.withTables (s : State) (base : Nat) (bs : List Byte) : State :=
  let t := (s.change (.decay s.decayWords) [] none).putPhys none false bs base
  { t with dev := { t.dev with decayBase := base, decayStage := none } }

/-- A request that is to be executed: its session is installed, no reply is kept for it, its number is not below those taken, and every type is answered. -/
structure Accepts (s : State) (h : HcpHdr) (x : Session) : Prop where
  installed : lookup s.host.sessions h.session = some x
  running : ∀ type, s.host.boot.answers type = true
  fresh : lookup x.replies h.seq = none
  order : x.lastSeq ≤ h.seq

theorem answers_of_launch {b : Boot} (h : b.answers 0x0A = true) (type : Nat) : b.answers type = true := by
  cases hb : b.st <;> simp_all [Boot.answers]

namespace Accepts
variable {s t : State} {h : HcpHdr} {x : Session} {type : Nat} {act : State → Reply × State}

theorem executes (ha : Accepts s h x) : hcp h type s act = match act (s.taking h x) with
    | (.now status payload, t) => .next (t.sendReply h.session h.seq (replyBytes type status payload))
    | (.later, t) => .next t := by
  simp only [hcp, ha.installed, ha.running, ha.fresh, Nat.not_lt.mpr ha.order] <;> rfl
theorem replies {status : Nat} {payload : List Byte} (ha : Accepts s h x) (hact : act (s.taking h x) = (.now status payload, t)) :
    hcp h type s act = .next (t.sendReply h.session h.seq (replyBytes type status payload)) := by
  rw [ha.executes, hact]
theorem waits (ha : Accepts s h x) (hact : act (s.taking h x) = (.later, t)) : hcp h type s act = .next t := by
  rw [ha.executes, hact]
end Accepts

/-! ## A launch that enters the path (R405) -/

theorem State.launch?_enterLaunch (s : State) (r : LaunchRec) (k : Kernel) (asid die : Nat) (o : Origin) (e : Option Nat) (w : Nat) (root : Option RootAddr) (d : Nat) :
    ∃ l, (s.enterLaunch r k asid die o e w root d).2.launch? s.sched.nextId = some l ∧ l.record = r ∧ l.kern = k ∧ l.asid = asid ∧ l.die = die ∧ l.st = .queued ∧ l.entry = e ∧ l.origin = o :=
  ⟨_, launch?_setLaunch_same .., rfl, rfl, rfl, rfl, rfl, rfl, rfl⟩

/-! ## What a change leaves (R340) -/

theorem bytesOnly_evictFrames (s : State) (ps : List Page) : BytesOnly s (s.evictFrames ps) :=
  .foldl (fun _ _ => (bytesOnly_bringHome ..).trans (.of_mem rfl)) _ s

theorem State.change_quarantine (s : State) (k : ChangeKind) (old : List Page) (r : Option (Nat × Nat × List Byte)) : (s.change k old r).dev.quarantine = s.dev.quarantine :=
  congrArg (·.quarantine) (bytesOnly_evictFrames s old).dev
theorem State.change_pages (s : State) (k : ChangeKind) (old : List Page) (r : Option (Nat × Nat × List Byte)) : (s.change k old r).mem.pages = s.mem.pages :=
  (bytesOnly_evictFrames s old).pages

/-! ## The devices that are lost (R473) -/

section
variable (s : State)

theorem lost_modLaunch (k : Nat) (f : Launch → Launch) : (s.modLaunch k f).fab.lost = s.fab.lost := by
  unfold State.modLaunch
  split <;> rfl
theorem lost_sendMsg (dest tag : Nat) (m : FlitMsg) : (s.sendMsg dest tag m).fab.lost = s.fab.lost := by
  obtain ⟨_, _, _, _, h⟩ := s.sendMsg_eq dest tag m
  rw [h]
theorem lost_request (dest : Nat) (m : FlitMsg) (o : ReqOwner) (l : Nat) : (s.request dest m o l).2.fab.lost = s.fab.lost := by
  unfold State.request
  dsimp only
  split
  · exact lost_modLaunch ..
  · exact lost_sendMsg ..
theorem lost_giveBack (l : Nat) (root : Option RootAddr) (n : Nat) : (s.giveBack l root n).fab.lost = s.fab.lost := by
  unfold State.giveBack
  split
  · rfl
  · split
    · rfl
    · exact lost_request ..
theorem lost_tell (d : Nat) (m : FlitMsg) : (s.tell d m).fab.lost = s.fab.lost := by
  unfold State.tell
  split
  · rfl
  · exact lost_sendMsg ..
theorem lost_refuseInvoke (m : InvokeMsg) (c d : Nat) : (s.refuseInvoke m c d).fab.lost = s.fab.lost := (lost_giveBack ..).trans (lost_tell ..)
theorem lost_actSettled (claim : DWord) (v : ClaimView) (b : ClaimBody) : (s.actSettled claim v b).fab.lost = s.fab.lost := by
  have hweight (a : Nat) (root : RootAddr) (d : Nat) : (s.forwardWeight claim a root d).fab.lost = s.fab.lost := by
    unfold State.forwardWeight
    split
    · exact lost_giveBack ..
    · exact lost_tell ..
  have hinvoke (m : InvokeMsg) (d la : Nat) : (s.forwardInvoke m d la).fab.lost = s.fab.lost := by
    unfold State.forwardInvoke
    split
    · exact lost_refuseInvoke ..
    · exact (lost_tell ..).trans (lost_tell ..)
  cases b with
  | invoke m => cases v with
    | resolved d la => exact hinvoke ..
    | broken c d => exact lost_refuseInvoke ..
    | stale => exact lost_refuseInvoke ..
    | pending n => rfl
  | weight a root => cases v with
    | resolved d la => exact hweight ..
    | broken c d => exact lost_giveBack ..
    | stale => exact lost_giveBack ..
    | pending n => rfl
  | status l dev tag => exact lost_tell ..
theorem lost_breakClaim (claim : DWord) (c d : Nat) : (s.breakClaim claim c d).fab.lost = s.fab.lost := by
  unfold State.breakClaim
  split
  · exact (foldl_keeps (fun t : State => t.fab.lost) (fun t b => lost_actSettled t claim _ b) _ _).trans rfl
  · rfl
  · rfl
  · rfl
theorem lost_dropRequest (tag : Nat) (r : Req) : (s.dropRequest tag r).fab.lost = s.fab.lost := by
  have hkill : ((s.answered tag).requestKill r.launch .deviceLost).fab.lost = s.fab.lost := lost_modLaunch ..
  unfold State.dropRequest
  dsimp only
  split
  · split
    · exact hkill
    · exact hkill
  · split
    · exact hkill
    · exact hkill
  all_goals exact hkill
end

/-! ## The requests (R467) -/

/-- Settles O58: each request by the branch of its definition that its conditions name. -/
theorem hcpRequests : Obligations.HcpRequests := by
  intro s h x hx hrun hnone hle u replies
  have ha : Accepts s h x := ⟨hx, answers_of_launch hrun, hnone, hle⟩
  refine ⟨⟨?_, ?_, ?_, ?_, ?_, ?_, ?_, ?_, ?_⟩, ⟨?_, ?_, ?_, ?_, ?_, ?_, ?_, ?_, ?_, ?_, ⟨u.countDone, ?_, le_max_left ..⟩, ?_⟩, ⟨?_, ?_, ?_, ?_, ?_⟩, ?_, ?_, ?_, fun _ => rfl, ?_, ?_, ?_, ?_⟩
  · show execIdentify h s = _
    exact ha.replies rfl
  · intro nonce hn
    show execAttest h nonce s = _
    refine ha.replies ?_
    exact if_neg (not_not.mpr hn)
  · intro c y hy
    show execFwload h c s = _
    refine ha.replies ?_
    rw [show takeChunk (s.taking h x).host.boot.stage 0 0 c = some y from hy]
    rfl
  · intro asid base c y hasid hbase hy
    have hcond : ¬(!((s.taking h x).dev.asids.any fun a => a.id == asid) || decide (base % 32 ≠ 0)) = true := by
      have hasid' : ∃ a ∈ (s.taking h x).dev.asids, a.id = asid := hasid
      simpa [hbase] using hasid'
    have hchunk : takeChunk (s.taking h x).sched.imageStage asid base c = some y := hy
    refine ⟨fun hlast => ?_, fun hlast hst => ?_, fun hlast hst hin => ?_⟩
    · show execImageload h asid base c s = _
      refine ha.replies ((if_neg hcond).trans ?_)
      rw [hchunk]
      exact if_pos (by simp [hlast])
    · show execImageload h asid base c s = _
      refine ha.replies ((if_neg hcond).trans ?_)
      rw [hchunk]
      exact (if_neg (by simp [hlast])).trans (if_pos hst)
    · show execImageload h asid base c s = _
      refine ha.waits ((if_neg hcond).trans ?_)
      rw [hchunk]
      refine (if_neg (by simp [hlast])).trans ((if_neg (not_not.mpr hst)).trans (if_neg ?_))
      rw [List.any_eq_true]
      rintro ⟨z, hz, hbad⟩
      obtain ⟨h1, h2⟩ := hin z hz
      rw [show (s.taking h x).firstUnmapped (s.taking h x).dev.qepoch asid z.1 z.2.length = none from h2] at hbad
      simp only [Nat.not_lt.mpr h1, decide_false, Option.isSome_none, Bool.or_self, Bool.false_eq_true] at hbad
  · intro handle k hk hbusy
    show execImageunload h handle s = _
    refine ha.replies ?_
    rw [show lookup (s.taking h x).sched.kernels handle.toNat = some k from hk]
    exact if_neg (Bool.eq_false_iff.mp hbusy)
  · intro die asid bs k e hdie hlen hk he
    obtain ⟨l, hl⟩ := (s.taking h x).launch?_enterLaunch (recordOf bs) k asid die .host (some e) ((s.taking h x).openGraph asid (recordOf bs) 0 none).1 ((s.taking h x).openGraph asid (recordOf bs) 0 none).2 0
    refine ⟨_, l, ?_, hl⟩
    show execLaunch h die asid bs s = _
    refine ha.replies ((if_neg (by simp [hdie, hlen])).trans ?_)
    rw [show (s.taking h x).checkRecord asid bs = .ok k from hk]
    dsimp only
    rw [State.ordinaryEntry_taking, he]
    rfl
  · intro die asid bs n hdie hlen hn
    show execLaunch h die asid bs s = _
    refine ha.replies ((if_neg (by simp [hdie, hlen])).trans ?_)
    rw [show (s.taking h x).checkRecord asid bs = .error n from hn]
    rfl
  · intro n l hl h1 h2
    show execKill h n s = _
    refine ha.replies ?_
    rw [show (s.taking h x).launch? n = some l from hl]
    exact if_neg (by simp [h1, h2])
  · intro r gid g hfind hcause hok hret
    show execResume h r s = _
    have hcause' : ((s.taking h x).launchOf g).bind (·.cause) = none := hcause
    refine ha.replies ?_
    dsimp only
    split
    · next hnot => exact absurd (hfind.symm.trans hnot) (by simp)
    · next gid' g' hfound =>
      cases Option.some.inj (hfind.symm.trans hfound)
      exact if_neg (by simp [hcause', hok, hret])
  · intro asid la len pa size attr hok hrcp
    show execMap h asid la len pa size attr s = _
    refine ha.replies ?_
    rw [show (s.taking h x).mapOk asid la len pa size attr = true from hok, hrcp]
    rfl
  · intro asid la len hin
    show execUnmap h asid la len s = _
    refine ha.waits ?_
    have hin' : ∀ q ∈ (s.taking h x).pagesIn asid la len, q.inside la len = true := hin
    exact if_neg (by simpa using hin')
  · intro asid la len attr hok hrcp hin
    show execChange h asid la len attr s = _
    refine ha.waits ?_
    have hin' : ∀ q ∈ (s.taking h x).pagesIn asid la len, q.inside la len = true := hin
    rw [hok, hrcp]
    exact if_neg (by simpa using hin')
  · intro asid la len hin huse hcap
    have hin' : ∀ q ∈ (s.taking h x).pagesIn asid la len, q.inside la len = true := hin
    obtain ⟨t, hexec, hq⟩ : ∃ t : State, execFree h asid la len s = .next (t.sendReply h.session h.seq (replyBytes 0x13 0 [])) ∧ t.dev.quarantine = s.dev.quarantine ++ [(s.dev.qepoch, (s.pagesIn asid la len).map fun q => (q.pa, q.size))] := by
      refine ⟨?free, ha.replies ?_, ?_⟩
      rotate_left
      · refine (if_neg (by simpa using hin')).trans ?_
        refine (if_neg (Bool.eq_false_iff.mp huse)).trans ?_
        exact if_neg (Nat.not_le.mpr hcap)
      · exact congrArg (fun q : List (Nat × List (Nat × Nat)) => q ++ _) (State.change_quarantine ..)
    exact ⟨t, hexec, hq⟩
  · intro asid la pa q hfind hpin hmod hres
    obtain ⟨t, hexec, hpages⟩ : ∃ t : State, execMigrate h asid la pa s = .next (t.sendReply h.session h.seq (replyBytes 0x14 0 [])) ∧ t.mem.pages = s.mem.pages.map fun p => if p = q then { p with pa := pa } else p := by
      refine ⟨?migrated, ha.replies ?_, ?_⟩
      rotate_left
      · rw [show (s.taking h x).mem.pages.find? (fun y => y.asid == asid && y.la == la) = some q from hfind]
        have hcond : ¬(q.pin || decide (pa % q.size ≠ 0) || decide (Config.reservedBase < pa + q.size)) = true := by simp [hpin, hmod, Nat.not_lt.mpr hres]
        exact if_neg hcond
      · exact congrArg (List.map _) (State.change_pages ..)
    exact ⟨t, hexec, hpages ▸ List.mem_map.mpr ⟨q, List.mem_of_find?_eq_some hfind, if_pos rfl⟩⟩
  · intro asid la q hq hrcp hrec
    show execDrop h asid la s = _
    refine ha.replies ?_
    have hrec' : ((s.taking h x).tile (tileKey asid la)).record ≠ none := hrec
    rw [show (s.taking h x).pageAt asid la = some q from hq]
    exact if_neg (by simpa [hrcp] using hrec')
  · intro asid v hasid hv
    obtain ⟨t, hexec, hasids⟩ : ∃ t : State, execAsid h asid v s = .next (t.sendReply h.session h.seq (replyBytes 0x16 0 [])) ∧ t.dev.asids = (s.dev.asids.filter fun a => a.id != asid) ++ [{ id := asid, trapvec := v }] := by
      refine ⟨?asids, ha.replies ?_, ?_⟩
      rotate_left
      · have hcond : ¬(decide (2 ^ 14 ≤ asid) || !(s.taking h x).trapvecOk asid v) = true := by
          rw [show (s.taking h x).trapvecOk asid v = true from hv]
          simpa using hasid
        exact if_neg hcond
      · rfl
    refine ⟨t, hexec, ?_⟩
    have hnone : (s.dev.asids.filter fun a => a.id != asid).find? (·.id == asid) = none := by simp
    rw [State.trapvec, hasids, List.find?_append, hnone]
    simp
  · intro base c y h1 h2 h3 h4 hy h5
    have hcond : ¬(base = 0 || base % 2 ^ 14 ≠ 0 || Config.reservedBase < base + 2 ^ 14 || 8192 < c.data.length) = true := by
      simp only [h1, h2, Nat.not_lt.mpr h3, Nat.not_lt.mpr h4, ne_eq, not_true_eq_false, decide_false, Bool.or_self, Bool.false_eq_true, not_false_eq_true]
    have hchunk : takeChunk (s.taking h x).dev.decayStage 0 base c = some y := hy
    refine ⟨fun hlast => ?_, fun hlast hlen => ?_⟩
    · show execDecaytab h base c s = _
      refine ha.replies ((if_neg hcond).trans ?_)
      rw [hchunk]
      have hsize : ¬(decide (2 ^ 14 < y.data.length) || (c.last && y.data.length != 2 ^ 14)) = true := by simpa [hlast] using h5
      exact (if_neg hsize).trans (if_pos (by simp [hlast]))
    · refine ⟨(s.taking h x).withTables base y.data, ?_, rfl⟩
      show execDecaytab h base c s = _
      refine ha.replies ((if_neg hcond).trans ?_)
      rw [hchunk]
      have hsize : ¬(decide (2 ^ 14 < y.data.length) || (c.last && y.data.length != 2 ^ 14)) = true := by simp [hlen]
      have hend : ¬(!c.last) = true := by simp [hlast]
      exact (if_neg hsize).trans (if_neg hend)
  · intro d
    show execSpan h d s = _
    exact ha.replies rfl
  · intro pa len h1 h2
    show execCtxmem h pa len s = _
    refine ha.replies ?_
    exact if_neg (by simp [h1, h2])
  · show execRead h .epochs s = _
    exact ha.replies rfl
  · show execRead h .telemetry s = _
    exact ha.replies rfl
  · intro es hes
    show execRoute h es none s = _
    refine ha.replies (if_neg ?_)
    rw [List.any_eq_true]
    rintro ⟨e, he, hbad⟩
    obtain ⟨h1, h2, h3⟩ := hes e he
    simp only [Bool.or_eq_true, decide_eq_true_eq, List.any_eq_true] at hbad
    obtain (hbad | hbad) | ⟨p, hp, hbad⟩ := hbad
    · exact Nat.not_lt.mpr hbad h1
    · exact Nat.not_lt.mpr h2 hbad
    · exact Nat.not_lt.mpr hbad (h3 p hp)
  · intro d hd
    obtain ⟨t, hexec, hlost⟩ : ∃ t : State, execLose h d s = .next (t.sendReply h.session h.seq (replyBytes 0x21 0 [])) ∧ t.fab.lost = d :: s.fab.lost.filter (· != d) := by
      refine ⟨?lost, ha.replies ?_, ?_⟩
      rotate_left
      · exact if_neg (Nat.not_le.mpr hd)
      · refine (foldl_keeps (fun t : State => t.fab.lost) (fun t (r : Nat × Req) => lost_dropRequest t r.1 r.2) _ _).trans ?_
        exact foldl_keeps (fun t : State => t.fab.lost) (fun t c => lost_breakClaim t c _ _) _ _
    exact ⟨t, hexec, hlost ▸ List.mem_cons_self ..⟩
  · intro d n hd hn
    show execAssume h d n s = _
    refine ha.replies ?_
    exact if_neg (by simpa [hn] using hd)
  · intro key asid la len h1 h2 h3
    show execRkey h true key asid la len s = _
    have h1' : ∀ r ∈ (s.taking h x).host.regions, ¬r.rkey = key := h1
    refine ha.replies ((if_pos rfl).trans (if_neg ?_))
    simpa using (⟨⟨h1', h2⟩, h3⟩ : (_ ∧ asid < 2 ^ 14) ∧ la + len ≤ 2 ^ 46)
  · intro key asid la len hr
    show execRkey h false key asid la len s = _
    have hr' : ∃ r ∈ (s.taking h x).host.regions, r.rkey = key := hr
    refine ha.replies ((if_neg Bool.false_ne_true).trans (if_neg ?_))
    simpa using hr'
  · intro type h1 h2
    show execHcpUnlistedType h type s = _
    refine (if_neg (by simpa using h1)).trans ?_
    exact ha.replies rfl
  · intro nonce hn
    show execAttest h nonce s = _
    refine ha.replies ?_
    exact if_pos hn
  · intro n hn
    show execKill h n s = _
    refine ha.replies ?_
    rw [show (s.taking h x).launch? n = none from hn]
    rfl
  · intro seq bs hbs
    show execIdentify { h with seq := seq } s = _
    simp only [execIdentify, hcp, hx, ha.running, hbs]
    rfl
  · intro k hk
    show execIdentify { h with session := k } s = _
    simp only [execIdentify, hcp, hk]
  · intro n
    show execHcpEventAck h.session n s = _
    rw [execHcpEventAck, hx]
  · intro h1 h2
    obtain ⟨t, hexec, hout⟩ : ∃ t : State, execHcpEventResend h.session s = .next t ∧ t.outbox = s.outbox ++ x.events.map fun e => Out.event h.session e.1 (fieldAt e.2 0 1) (e.2.drop 1) := by
      rw [execHcpEventResend, hx]
      exact ⟨_, if_neg (by simp [h1, h2]), rfl⟩
    exact ⟨t, hexec, hout⟩

end Sys2Proof.Machine
end

section
/-! SUPPORT. Power-on, boot, the sideband and RoCEv2 (O59): how the sideband port answers, and how a host's write and read are served. -/
namespace Sys2Proof.Machine

/-! ## The sideband port (R478, R479) -/

theorem sideband_answers {s t : State} {act : State → Nat × List Byte × State} {status : Nat} {payload : List Byte} (hs : s.host.boot.resetLow = false) (ha : act s = (status, payload, t)) :
    sideband s act = .next { t with outbox := t.outbox ++ [.sideband status payload] } := by
  rw [sideband, hs, ha]
  rfl

/-! ## Requests of a host (R329, R463) -/

theorem State.unhold_idle {s : State} (hs : s.fab.held = []) (h : FlitHdr) (m : FlitMsg) : s.unhold h m = s := by
  rw [State.unhold, hs]
  exact congrArg (fun l => { s with fab := { s.fab with held := l } }) hs.symm
theorem State.behind_idle {s : State} (hs : s.fab.held = []) (h : FlitHdr) (m : FlitMsg) : s.behind h m = false := by
  rw [State.behind, State.heldBefore, hs]
  rfl

theorem failOf_nil : failOf [] = none := rfl
theorem readFailOf_nil (held : Bool) : readFailOf held [] [] = none := rfl

/-- The bytes that places share out are the bytes as far as the places reach. -/
theorem sharedOver_bytes (ps : List Place) (bs : List Byte) : (sharedOver ps bs).flatMap (·.2) = bs.take (ps.map (·.n)).sum := by
  induction ps generalizing bs with
  | nil => simp [sharedOver]
  | cons p r ih => simp [sharedOver, ih, List.take_add]
theorem State.writePlaces_take (s : State) (c : Ctx) (ps : List Place) (bs : List Byte) : s.writePlaces c ps (bs.take (ps.map (·.n)).sum) = s.writePlaces c ps bs := by
  induction ps generalizing s bs with
  | nil => rfl
  | cons p r ih =>
    rw [writePlaces, writePlaces, List.map_cons, List.sum_cons, List.take_take, Nat.min_eq_left (Nat.le_add_right ..), List.drop_take, Nat.add_sub_cancel_left, ih]

section
variable {s : State} {asid la n : Nat} {ps : List Place}

theorem State.serveWrite_here (h : FlitHdr) (hh : h.badLines = 0) (hheld : s.fab.held = []) (hwait : s.waitTile (s.deviceCtx asid) ps = none) (bs : List Byte)
    (hr : s.range (s.deviceCtx asid) true (localEa la) bs.length = .here ps) :
    s.serveWrite h { asid := asid, parts := [{ la := la, encode := none, words := [], bytes := bs }] }
      = ((s.writePlaces (s.deviceCtx asid) ps bs).makeChecks (filledLines (sharedOver ps bs)).contains).reply h .wrack := by
  have hplace : s.writePlace (s.deviceCtx asid) { la := la, encode := none, words := [], bytes := bs } = .ok ps := by
    simp only [writePlace, partPlaces, hr]
  have hfirst : s.firstTile (s.deviceCtx asid) ps = none := hwait
  have hbytes : s.writePlaces (s.deviceCtx asid) ps ((wrOver { la := la, encode := none, words := [], bytes := bs } ps).flatMap (·.2)) = s.writePlaces (s.deviceCtx asid) ps bs := by
    rw [show wrOver _ ps = sharedOver ps bs from rfl, sharedOver_bytes, writePlaces_take]
  unfold serveWrite
  rw [unhold_idle hheld, behind_idle hheld]
  dsimp only
  rw [show { s.requestCtx asid false [] with passed := false } = s.deviceCtx asid from rfl]
  simp only [List.map_cons, List.map_nil, hplace, List.filterMap_cons, List.filterMap_nil, List.flatMap_cons, List.flatMap_nil, List.append_nil, hfirst, hh, failOf_nil]
  refine (if_neg Bool.false_ne_true).trans (congrArg (State.reply · h .wrack) ?_)
  simp only [writeParts, List.foldl_cons, List.foldl_nil, List.flatMap_cons, List.flatMap_nil, List.append_nil, hbytes, if_pos]
  rfl

theorem State.serveRead_here (h : FlitHdr) (hheld : s.fab.held = []) (hwait : s.waitTile (s.deviceCtx asid) ps = none)
    (hr : s.range (s.deviceCtx asid) false (localEa la) n = .here ps) (hgood : s.failingPlace none ps = none) :
    s.serveRead h { asid := asid, parts := [{ lane := 0, la := la, kind := .bytes n }] } = s.reply h (.rdrsp [] (s.readPlaces (s.deviceCtx asid) ps)) := by
  have hplace : s.partPlaces (s.deviceCtx asid) { lane := 0, la := la, kind := .bytes n } [] = .ok ps := by
    simp only [partPlaces, hr]
  have hvalue : s.partValue (s.deviceCtx asid) { lane := 0, la := la, kind := .bytes n } ps = .bytes (s.readPlaces (s.deviceCtx asid) ps) := by
    simp only [partValue, hgood]
  have hfirst : s.firstTile (s.deviceCtx asid) ps = none := hwait
  unfold serveRead
  rw [unhold_idle hheld, behind_idle hheld]
  dsimp only
  rw [show s.requestCtx asid false [] = s.deviceCtx asid from rfl]
  simp only [List.zipIdx_cons, List.zipIdx_nil, List.map_cons, List.map_nil, List.take_zero, hplace, List.filterMap_cons, List.filterMap_nil, readsData, List.filter_cons, List.filter_nil, if_true, List.flatMap_cons, List.flatMap_nil, hfirst, hvalue, failOf_nil, Bool.false_and, Bool.false_eq_true, if_false, List.findSome?_cons, List.findSome?_nil, readFailOf_nil, List.append_nil]
  rfl
end

theorem rocePackets_one (bs : List Byte) (h : bs.length ≤ 4096) : rocePackets (bs.length / 4096 + 1) bs = [.roceData bs] := by
  rw [rocePackets, if_pos h, List.take_of_length_le h]

/-! ## The statement -/

/-- Settles O59: each request by the branch of its definition that its conditions name. -/
theorem systemRequests : Obligations.SystemRequests := by
  intro s
  refine ⟨⟨_, rfl, rfl, rfl, rfl, rfl, rfl⟩, ?_, ?_, ?_, ?_, ?_, ?_, fun _ => rfl, rfl, rfl, rfl, fun _ => rfl⟩
  · intro hst
    have hon : ¬(s.host.boot.st != .verifying) = true := by simp [hst]
    have hexec : exec .bootVerify s = .next { s with host := { s.host with boot := if s.host.boot.good then s.host.boot.run else { s.host.boot with st := .failed, verified := false } } } := if_neg hon
    refine ⟨fun hgood => ?_, fun hgood => ?_⟩
    · rw [hgood] at hexec
      exact ⟨_, hexec, rfl, rfl⟩
    · rw [hgood] at hexec
      exact ⟨_, hexec, rfl, rfl⟩
  · intro hup
    have hlow : ¬(false = !s.host.boot.resetLow) := by simp [hup]
    have hhigh : true = !s.host.boot.resetLow := by simp [hup]
    exact ⟨⟨_, (if_neg hlow).trans (if_neg Bool.false_ne_true), rfl, rfl, rfl, rfl⟩, if_pos hhigh⟩
  · intro hlow
    have hhigh : ¬(true = !s.host.boot.resetLow) := by simp [hlow]
    exact ⟨_, (if_neg hhigh).trans (if_pos rfl), rfl, rfl⟩
  · intro hup answers
    refine ⟨⟨_, (sideband_answers hup rfl : execHold true s = _), rfl, rfl, rfl, rfl⟩, fun hh hgood => ?_, fun hh hgood => ?_, (sideband_answers hup rfl : execState s = _), fun a l g => (sideband_answers hup rfl : execSetip a l g s = _),
      fun k d hk => ⟨?_, ?_⟩, fun k b d hk => ?_, fun n => (sideband_answers hup rfl : execTelemetry n s = _), fun he => ?_, fun e r he => ?_, (sideband_answers hup rfl : execSbIdentify s = _), fun q => (sideband_answers hup rfl : execSidebandBadRequest q s = _), fun a ha => ?_⟩
    · have hheld : ¬(!s.host.boot.hold) = true := by simp [hh]
      obtain ⟨t, hexec, ht⟩ : ∃ t : State, execHold false s = .next { t with outbox := t.outbox ++ [.sideband 0 []] } ∧ t.host.boot.st = .running ∧ t.host.boot.hold = false :=
        ⟨_, sideband_answers hup ((if_neg Bool.false_ne_true).trans ((if_neg hheld).trans (if_pos hgood))), rfl, rfl⟩
      exact ⟨t, hexec, ht⟩
    · have hheld : ¬(!s.host.boot.hold) = true := by simp [hh]
      show execHold false s = _
      exact sideband_answers hup ((if_neg Bool.false_ne_true).trans ((if_neg hheld).trans (if_neg (Bool.eq_false_iff.mp hgood))))
    · obtain ⟨t, x, hexec, hx⟩ : ∃ (t : State) (x : Session), execSession k true d s = .next { t with outbox := t.outbox ++ [.sideband 0 []] } ∧ lookup t.host.sessions k = some x ∧ x.data = d ∧ x.lastSeq = 0 ∧ x.replies = [] :=
        ⟨_, _, sideband_answers hup ((if_neg (Nat.not_le.mpr hk)).trans (if_pos rfl)), lookup_put_same .., rfl, rfl, rfl⟩
      exact ⟨t, x, hexec, hx⟩
    · obtain ⟨t, hexec, ht⟩ : ∃ t : State, execSession k false d s = .next { t with outbox := t.outbox ++ [.sideband 0 []] } ∧ lookup t.host.sessions k = none :=
        ⟨_, sideband_answers hup ((if_neg (Nat.not_le.mpr hk)).trans (if_neg Bool.false_ne_true)), lookup_del_same ..⟩
      exact ⟨t, hexec, ht⟩
    · show execSession k b d s = _
      exact sideband_answers hup (if_pos hk)
    · show execEvent s = _
      refine sideband_answers hup ?_
      rw [he]
    · show execEvent s = _
      refine sideband_answers hup ?_
      rw [he]
    · exact (if_neg (Bool.eq_false_iff.mp hup)).trans (if_neg (Nat.not_le.mpr ha))
  · intro key la n hr
    have hstore (bs : List Byte) (hbs : bs.length = n) (v : Option Word) : s.rdmaStore key la bs v = s.roce [.roceAccessError] := by
      rw [State.rdmaStore, hbs, hr]
    refine ⟨fun bs hbs => ⟨congrArg _ (hstore bs hbs none), fun v => congrArg _ (hstore bs hbs (some v))⟩, ?_⟩
    show execRdmaRead key la n s = _
    rw [execRdmaRead, hr]
  · intro key la n asid ps hr hheld hwait
    refine ⟨fun bs hbs hrange => ?_, fun hrange hgood => ⟨?_, rocePackets_one _⟩⟩
    · subst hbs
      have hstore (v : Option Word) : s.rdmaStore key la bs v = ((s.writePlaces (s.deviceCtx asid) ps bs).makeChecks (filledLines (sharedOver ps bs)).contains).reply (hostHdr v) .wrack := by
        rw [State.rdmaStore, hr]
        exact State.serveWrite_here (hostHdr v) rfl hheld hwait bs hrange
      refine ⟨congrArg _ (hstore none), fun v => (congrArg _ (hstore (some v))).trans ?_⟩
      simp [State.reply, hostHdr]
    · show execRdmaRead key la n s = _
      rw [execRdmaRead, hr]
      exact congrArg _ (State.serveRead_here (hostHdr none) hheld hwait hrange hgood)

end Sys2Proof.Machine
end

section
/-! SUPPORT. Porters (O60): what a step of a porter leaves, and how its oldest command goes on by a row. -/
namespace Sys2Proof.Machine

/-! ## Registers (R435) -/

theorem Porter.set_zero (p : Porter) (v : Word) : p.set 0 v = p := if_pos rfl
theorem Porter.get_set (p : Porter) {r : XReg} (hr : r.val ≠ 0) (v : Word) : (p.set r v).get r = v := by
  simp [Porter.set, Porter.get, hr, Vector.get_eq_getElem]
theorem Porter.field_put_same (p : Porter) (off : Nat) (v : Word) : ({ p with win := put p.win off v } : Porter).field off = v := by
  simp [Porter.field]
theorem Porter.field_put_other (p : Porter) {off o : Nat} (h : o ≠ off) (v : Word) : ({ p with win := put p.win off v } : Porter).field o = p.field o :=
  congrArg (Option.getD · 0) (lookup_put_other _ _ _ _ h)

theorem lookup_append_new {α : Type} {l : List (Nat × α)} {k : Nat} (h : lookup l k = none) (x : α) : lookup (l ++ [(k, x)]) k = some x := by
  induction l with
  | nil => simp [lookup]
  | cons y l ih =>
    obtain ⟨j, y⟩ := y
    by_cases hj : j = k
    · simp [lookup, hj] at h
    · simp only [lookup, hj, if_false] at h
      simp [lookup, hj, ih h]

theorem bytesOnly_writePlaces (s : State) (c : Ctx) (ps : List Place) (bs : List Byte) : BytesOnly s (s.writePlaces c ps bs) := by
  induction ps generalizing s bs with
  | nil => exact .refl s
  | cons p r ih => exact (bytesOnly_putTagged ..).trans (ih ..)

/-! ## A step of the porter that runs -/

theorem porterStep_acts {core : Nat} {role : Role} {s t : State} {k : Nat} {p : Porter} {f : Nat → Porter → PAct → Option State} (hp : s.runningPorter core role = some (k, p)) (hr : p.readyAt ≤ s.cycle)
    {a : PAct} (ha : s.porterAct k p = a) (hf : f k p a = some t) : porterStep core role s f = .next t := by
  subst ha
  simp only [porterStep, hp, Nat.not_lt.mpr hr, hf, if_false]

/-! ## A row of a command (R438, R439) -/

/-- A state with other copies, another scheduler and other porters. -/
def State.recast (s : State) (cs : List (Nat × Copy)) (d : Sched) (ps : List (Nat × Porter)) : State := { s with eng := { s.eng with copies := cs }, sched := d, porters := ps }
/-- The second state is the first but for its porters, its copies and its numbers. -/
def Alike (s t : State) : Prop := ∃ cs d ps, t = s.recast cs d ps

namespace Alike
variable {s t : State}

theorem refl (s : State) : Alike s s := ⟨_, _, _, rfl⟩
theorem mem (h : Alike s t) : t.mem = s.mem := by
  obtain ⟨_, _, _, rfl⟩ := h
  rfl
theorem teams (h : Alike s t) : t.teams = s.teams := by
  obtain ⟨_, _, _, rfl⟩ := h
  rfl
theorem copyCtx (h : Alike s t) (x : Copy) : t.copyCtx x = s.copyCtx x := by
  obtain ⟨_, _, _, rfl⟩ := h
  rfl
theorem range (h : Alike s t) (c : Ctx) (w : Bool) (ea : DWord) (n : Nat) : t.range c w ea n = s.range c w ea n := by
  obtain ⟨_, _, _, rfl⟩ := h
  rfl
theorem waitTile (h : Alike s t) (c : Ctx) (ps : List Place) : t.waitTile c ps = s.waitTile c ps := by
  obtain ⟨_, _, _, rfl⟩ := h
  rfl
theorem failingPlace (h : Alike s t) (core : Option Nat) (ps : List Place) : t.failingPlace core ps = s.failingPlace core ps := by
  obtain ⟨_, _, _, rfl⟩ := h
  rfl
theorem readPlaces (h : Alike s t) (c : Ctx) (ps : List Place) : t.readPlaces c ps = s.readPlaces c ps := by
  obtain ⟨_, _, _, rfl⟩ := h
  rfl
theorem modTeam (h : Alike s t) (k : Nat) (f : Team → Team) : Alike (s.modTeam k f) (t.modTeam k f) := by
  obtain ⟨cs, d, ps, rfl⟩ := h
  unfold State.modTeam
  rw [show (s.recast cs d ps).team? k = s.team? k from rfl]
  split <;> exact ⟨_, _, _, rfl⟩
theorem putPhys (h : Alike s t) (core : Option Nat) (priv : Bool) (bs : List Byte) (pa : Nat) : Alike (s.putPhys core priv bs pa) (t.putPhys core priv bs pa) := by
  obtain ⟨cs, d, ps, rfl⟩ := h
  unfold State.putPhys
  rw [show (s.recast cs d ps).keeper core priv = s.keeper core priv from rfl]
  split <;> exact ⟨_, _, _, rfl⟩
theorem putTagged (h : Alike s t) (tag : Nat) (core : Option Nat) (priv : Bool) (l : Loc) (bs : List Byte) : Alike (s.putTagged tag core priv l bs) (t.putTagged tag core priv l bs) := by
  cases l with
  | phys pa =>
    have hfold (xs : List Nat) {s t : State} (h : Alike s t) : Alike (xs.foldl (fun s a => s.putPhys core priv bs a) s) (xs.foldl (fun s a => s.putPhys core priv bs a) t) := by
      induction xs generalizing s t with
      | nil => exact h
      | cons a xs ih => exact ih (h.putPhys ..)
    have hdev : t.dev = s.dev := by
      obtain ⟨_, _, _, rfl⟩ := h
      rfl
    unfold State.putTagged
    rw [hdev]
    exact hfold _ h
  | win w o =>
    obtain ⟨cs, d, ps, rfl⟩ := h
    show Alike (s.putWin w o (s.keepTags w o bs)) ((s.recast cs d ps).putWin w o (s.keepTags w o bs))
    refine modTeam ?_ w _
    exact ⟨cs, d, dropReservations ps w o (s.keepTags w o bs).length, rfl⟩
theorem writePlaces (h : Alike s t) (c : Ctx) (ps : List Place) (bs : List Byte) : Alike (s.writePlaces c ps bs) (t.writePlaces c ps bs) := by
  induction ps generalizing s t bs with
  | nil => exact h
  | cons p r ih => exact ih (h.putTagged ..) _
end Alike

/-- A range that is read at once lies in tiles that need no wait and in good lines. -/
theorem State.readRange_bytes {s : State} {c : Ctx} {ps : List Place} {bs : List Byte} (h : s.readRange c ps = .bytes bs) :
    s.waitTile c ps = none ∧ s.failingPlace c.core ps = none ∧ s.readPlaces c ps = bs := by
  unfold readRange at h
  split at h
  · cases h
  · next hw =>
    split at h
    · next hf => exact ⟨hw, hf, ReadOut.bytes.inj h⟩
    · split at h
      · cases h
      · split at h <;> cases h

/-- The end of a command leaves the porter's mode and the copies. -/
theorem State.commandEnds_frame (s : State) (p : Porter) (c : PorterCmd) : (s.commandEnds p c).1.mode = p.mode ∧ (s.commandEnds p c).2.eng = s.eng := by
  unfold commandEnds
  dsimp only
  split
  · exact ⟨rfl, rfl⟩
  · split
    · exact ⟨rfl, rfl⟩
    · split
      · exact ⟨rfl, rfl⟩
      · split
        · exact ⟨rfl, rfl⟩
        · split
          · exact ⟨rfl, rfl⟩
          · next hput =>
            refine ⟨rfl, ?_⟩
            unfold cbufPut at hput
            dsimp only at hput
            split at hput
            · cases hput
            · cases hput
              exact ((bytesOnly_writeBack ..).trans (bytesOnly_cbSet ..)).eng

section
variable {s : State} {k id : Nat} {p : Porter} {c : PorterCmd} {r : List PorterCmd} {x : Copy}

theorem State.performCopy_bad (done : State → Option (Cause × DWord) → State) (hf : x.failed = none) (h0 : x.phase = 0) {cause : Cause} {ea : DWord} (hr : s.range (s.copyCtx x) false x.src x.len = .bad cause ea) :
    s.performCopy id x done = done s (some (cause, ea)) := by
  simp [performCopy, hf, h0, hr]
theorem State.performCopy_here (done : State → Option (Cause × DWord) → State) (hf : x.failed = none) (h0 : x.phase = 0) {core : Nat} {role : Role} (hk : x.kind = .porter core role) {sp dp : List Place} {bs : List Byte}
    (hr : s.range (s.copyCtx x) false x.src x.len = .here sp) (hb : s.readRange (s.copyCtx x) sp = .bytes bs) (hw : s.range (s.copyCtx x) true (x.dsts.headD 0) x.len = .here dp) (hd : s.waitTile (s.copyCtx x) dp = none) :
    s.performCopy id x done = done (s.writePlaces (s.copyCtx x) dp bs) none := by
  have hport : x.kind.porterCore.isSome = true := by rw [hk]; rfl
  have hstage : s.stages x = false := by simp [stages, hk, CopyKind.porterCore]
  have h2 : ¬x.phase = 2 := by omega
  unfold performCopy
  rw [hf]
  dsimp only
  rw [if_neg h2, hr]
  dsimp only
  rw [hb]
  dsimp only
  rw [hport, hw]
  dsimp only
  rw [hd]
  exact congrArg (done · none) (if_neg (Bool.eq_false_iff.mp hstage))

theorem State.settlePorter_running (hm : p.mode = .running) : s.settlePorter k p = s.setPorter k p := by
  simp [settlePorter, hm]

theorem State.rowOver_faulted (hp : lookup s.porters k = some p) (hm : p.mode = .running) (hq : p.queue = c :: r) (cause : Cause) (ea : DWord) :
    s.rowOver k id (some (cause, ea)) = (s.dropCopy id).setPorter k (p.faulted (engCode cause) ea) := by
  unfold rowOver
  dsimp only
  rw [show lookup (s.dropCopy id).porters k = some p from hp]
  dsimp only
  rw [hq]
  exact settlePorter_running hm

theorem State.rowOver_next (hp : lookup s.porters k = some p) (hq : p.queue = c :: r) (hrow : c.row + 1 < c.nrow) :
    s.rowOver k id none = (s.dropCopy id).setPorter k { p with queue := { c with row := c.row + 1, copy := none } :: r } := by
  unfold rowOver
  dsimp only
  rw [show lookup (s.dropCopy id).porters k = some p from hp]
  dsimp only
  rw [hq]
  exact if_pos hrow

theorem State.rowOver_last (hp : lookup s.porters k = some p) (hm : p.mode = .running) (hq : p.queue = c :: r) (hrow : c.nrow ≤ c.row + 1) :
    s.rowOver k id none = ((s.dropCopy id).commandEnds p c).2.setPorter k ((s.dropCopy id).commandEnds p c).1 := by
  have hmode := (commandEnds_frame (s.dropCopy id) p c).1.trans hm
  unfold rowOver
  dsimp only
  rw [show lookup (s.dropCopy id).porters k = some p from hp]
  dsimp only
  rw [hq]
  exact (if_neg (Nat.not_lt.mpr hrow)).trans (settlePorter_running hmode)

end

theorem exec_porterCommandComplete {s : State} {core : Nat} {role : Role} {k id : Nat} {p : Porter} {c : PorterCmd} {r : List PorterCmd} {x : Copy} (hp : s.postingPorter core role = some (k, p)) (hk : lookup s.porters k = some p) (hq : p.queue = c :: r)
    (hx : c.copy = some id ∧ s.copy? id = some x ∧ x.answered = true ∧ x.failed = none ∧ x.phase = 0 ∧ s.stillWaits (s.copyCtx x) x.tile = false ∨ c.copy = none ∧ id = s.sched.nextId ∧ s.copy? id = none ∧ x = { s.rowCopy p c with order := id }) :
    ∃ (u : State) (c' : PorterCmd), exec (.porterCommandComplete core role) s = .next (u.performCopy id x fun s bad => s.rowOver k id bad) ∧ Alike s u
      ∧ lookup u.porters k = some { p with queue := c' :: r } ∧ { c' with copy := none } = { c with copy := none } ∧ x.failed = none ∧ x.phase = 0 := by
  rcases hx with ⟨hc, hcopy, hanswered, hf, h0, hwait⟩ | ⟨hc, rfl, hfree, rfl⟩
  · refine ⟨s, c, ?_, .refl s, hk.trans (congrArg some ?_), rfl, hf, h0⟩
    · show execPorterCommandComplete core role s = _
      rw [execPorterCommandComplete, hp]
      dsimp only
      rw [hq]
      dsimp only
      rw [hc]
      dsimp only
      rw [hcopy]
      exact if_pos (by simp [hanswered, hwait])
    · rw [← hq]
  · refine ⟨(s.addCopy (s.rowCopy p c)).setPorter k { p with queue := { c with copy := some s.sched.nextId } :: r }, { c with copy := some s.sched.nextId }, ?_, ⟨_, _, _, rfl⟩, lookup_put_same .., rfl, rfl, rfl⟩
    have hnew : ((s.addCopy (s.rowCopy p c)).setPorter k { p with queue := { c with copy := some s.sched.nextId } :: r }).copy? s.sched.nextId = some { s.rowCopy p c with order := s.sched.nextId } := lookup_append_new hfree _
    show execPorterCommandComplete core role s = _
    rw [execPorterCommandComplete, hp]
    dsimp only
    rw [hq]
    dsimp only
    rw [hc]
    dsimp only
    rw [hnew]

theorem porters_requestKill (s : State) (l : Nat) (c : Cause) : (s.requestKill l c).porters = s.porters := by
  unfold State.requestKill State.modLaunch
  split <;> rfl
theorem launch?_requestKill {s : State} {id : Nat} {l : Launch} {c : Cause} (hl : s.launch? id = some l) (hc : l.cause = none) (hst : l.st = .admitted) : (s.requestKill id c).launch? id = some { l with cause := some c } := by
  unfold State.requestKill State.modLaunch
  rw [hl]
  refine (State.launch?_setLaunch_same ..).trans (congrArg some (if_neg ?_))
  simp [hc, hst]

/-- Settles O60: the running porter's step by what its next instruction asks for; a command's step by the copy of its row, which starts from a state that differs in porters, copies and numbers alone. -/
theorem porterSteps' : Obligations.PorterSteps := by
  intro s core role k p
  refine ⟨p.set_zero, fun r v hr => p.get_set hr v, fun hp hr a ha => ?_, fun c => ⟨rfl, rfl, rfl⟩, fun c r id x hp hk hm hq hx hkind => ?_⟩
  · refine ⟨fun q t h => (porterStep_acts hp hr (ha.trans h) rfl : execPorterInstruction core role s = _), fun h => (porterStep_acts hp hr (ha.trans h) rfl : execPorterEcall core role s = _),
      fun c v h h1 h2 => ?_, fun c v l h h1 hl hc hst => ?_, fun v n h hfull => ?_, fun v n h hbit => ?_, fun off v n h h1 h2 => ?_, fun r e n len h hready hreg => ?_, fun r e n len h hready hwait => ?_, fun r e n len v t h hput hreg => ?_⟩
    · obtain ⟨t, q, hexec, hq⟩ : ∃ (t : State) (q : Porter), execPorterException core role s = .next t ∧ lookup t.porters k = some q ∧ q.mepc = p.pc ∧ q.mcause = BitVec.ofNat 32 c ∧ q.mtval = v ∧ q.pc = p.mtvec ∧ q.inHandler = true ∧ q.x = p.x :=
        ⟨_, _, porterStep_acts hp hr (ha.trans h) (congrArg some (if_neg (by simpa [h2] using h1))), lookup_put_same .., rfl, rfl, rfl, rfl, rfl, rfl⟩
      exact ⟨t, q, hexec, hq⟩
    · obtain ⟨t, q, hexec, hq⟩ : ∃ (t : State) (q : Porter), execPorterException core role s = .next t ∧ lookup t.porters k = some q ∧ q.mode = .halted ∧ t.launch? (s.porterLaunch p) = some { l with cause := some (porterCause c) } := by
        refine ⟨_, { p with cbWait := false, mode := .halted }, porterStep_acts hp hr (ha.trans h) (congrArg some (if_pos (by simpa using h1))), ?_, rfl, ?_⟩
        · exact (congrArg (lookup · k) (porters_requestKill ..)).trans (lookup_put_same ..)
        · exact launch?_requestKill hl hc hst
      exact ⟨t, q, hexec, hq⟩
    · refine ⟨_, (porterStep_acts hp hr (ha.trans h) (if_neg (Nat.not_le.mpr hfull)) : execGo core role s = _), ?_, fun hf => ?_, fun hf hok => ?_, fun hf hok => ?_⟩
      · split
        · rfl
        · split <;> rfl
      · rw [if_pos hf]
        exact ⟨rfl, rfl⟩
      · rw [if_neg (Bool.eq_false_iff.mp hf), if_neg (by simp [hok])]
        exact ⟨rfl, rfl⟩
      · rw [if_neg (Bool.eq_false_iff.mp hf), if_pos (by simp [hok])]
        exact ⟨rfl, rfl, rfl⟩
    · exact ⟨_, (porterStep_acts hp hr (ha.trans h) (if_pos hbit) : execFaultClear core role s = _), rfl, rfl, rfl⟩
    · have hact : ¬(off = 0x28 || (off = 0x30 && v.getLsbD 31)) = true := by
        rcases h2 with h2 | h2
        · simp [h1, h2]
        · rw [h2]
          simp [h1]
      obtain ⟨q, hexec, hq⟩ : ∃ q, execPorterWindowWrite core role s = .next (s.setPorter k q) ∧ q.pc = p.pc + BitVec.ofNat 32 n ∧ (off ∈ winFields → q.field off = v) ∧ (off ∉ winFields → q.win = p.win) ∧ ∀ o, o ≠ off → q.field o = p.field o := by
        refine ⟨_, porterStep_acts hp hr (ha.trans h) (if_neg hact), ?_⟩
        split
        · next hw => exact ⟨rfl, fun _ => Porter.field_put_same .., fun hn => absurd (by simpa using hw) hn, fun o ho => Porter.field_put_other _ ho v⟩
        · next hw => exact ⟨rfl, fun hin => absurd (by simpa using hin) hw, fun _ => rfl, fun _ _ => rfl⟩
      exact ⟨q, hexec, hq⟩
    · obtain ⟨t, q, hexec, hq⟩ : ∃ (t : State) (q : Porter), execCbget core role s = .next t ∧ lookup t.porters k = some q ∧ q.get r = BitVec.ofNat 32 (s.cbufTake e n).1 ∧ q.pc = p.pc + BitVec.ofNat 32 len :=
        ⟨_, _, porterStep_acts hp hr (ha.trans h) (if_pos hready), lookup_put_same .., Porter.get_set _ hreg _, rfl⟩
      exact ⟨t, q, hexec, hq⟩
    · have hnot : ¬s.cbReady e p.who n = true := Bool.eq_false_iff.mp hready
      obtain ⟨t, hexec, ht⟩ : ∃ t : State, execCbget core role s = .next t ∧ lookup t.porters k = some { p with cbWait := true } ∧ t.eng.cbufq = s.eng.cbufq ++ [(e.key, p.who)] :=
        ⟨_, porterStep_acts hp hr (ha.trans h) ((if_neg hnot).trans (if_neg (Bool.eq_false_iff.mp hwait))), lookup_put_same .., rfl⟩
      exact ⟨t, hexec, ht⟩
    · obtain ⟨u, q, hexec, hq⟩ : ∃ (u : State) (q : Porter), execCbput core role s = .next u ∧ lookup u.porters k = some q ∧ q.get r = BitVec.ofNat 32 v ∧ q.pc = p.pc + BitVec.ofNat 32 len := by
        refine ⟨_, _, porterStep_acts (t := t.setPorter k ((p.set r (BitVec.ofNat 32 v)).retire s (p.pc + BitVec.ofNat 32 len) 4)) hp hr (ha.trans h) ?_, lookup_put_same .., Porter.get_set _ hreg _, rfl⟩
        dsimp only
        rw [show s.porterRelease p true = s.writeBack p.core from rfl, hput]
      exact ⟨u, q, hexec, hq⟩
  · obtain ⟨u, c', hexec, hu, hk', hc', hf, h0⟩ := exec_porterCommandComplete hp hk hq hx
    intro cx
    have hcx : u.copyCtx x = cx := hu.copyCtx x
    refine ⟨fun cause ea hr => ?_, fun sp dp bs hr hb hw hd => ?_⟩
    · rw [State.performCopy_bad _ hf h0 (by rw [hcx, hu.range]; exact hr), State.rowOver_faulted hk' hm rfl] at hexec
      exact ⟨_, _, hexec, lookup_put_same .., rfl, rfl, rfl, rfl, by rw [hq]; rfl, hu.mem, hu.teams⟩
    · obtain ⟨hwait, hgood, hbytes⟩ := State.readRange_bytes hb
      have hread : u.readRange cx sp = .bytes bs := by
        rw [State.readRange, hu.waitTile, hwait]
        dsimp only
        rw [hu.failingPlace, hgood, hu.readPlaces, hbytes]
      rw [State.performCopy_here _ hf h0 hkind (by rw [hcx, hu.range]; exact hr) (by rw [hcx]; exact hread) (by rw [hcx, hu.range]; exact hw) (by rw [hcx, hu.waitTile]; exact hd), hcx] at hexec
      have hsame := hu.writePlaces cx dp bs
      have hframe := (bytesOnly_writePlaces u cx dp bs).porter? k
      generalize u.writePlaces cx dp bs = w at hexec hsame hframe
      rw [hk'] at hframe
      obtain ⟨p', hp', hpf⟩ := Option.map_eq_some_iff.mp hframe
      have hq' : p'.queue = c' :: r := congrArg (·.queue) hpf
      have hm' : p'.mode = .running := (congrArg (·.mode) hpf).trans hm
      have hdone : p'.done = p.done := congrArg (·.done) hpf
      have hflt : p'.flt = p.flt := congrArg (·.flt) hpf
      have hrows : c'.row = c.row := congrArg (·.row) hc'
      have hcount : c'.nrow = c.nrow := congrArg (·.nrow) hc'
      have hend : c'.cbend = c.cbend := congrArg (·.cbend) hc'
      by_cases hrow : c'.row + 1 < c'.nrow
      · rw [State.rowOver_next hp' hq' hrow] at hexec
        refine ⟨_, _, hexec, lookup_del_same .., lookup_put_same .., fun _ => ⟨?_, hdone, hflt⟩, fun h => absurd h (by omega), fun _ => ⟨hsame.mem, hsame.teams⟩⟩
        exact congrArg (fun y : PorterCmd => { y with row := y.row + 1 } :: r) hc'
      · rw [State.rowOver_last hp' hm' hq' (by omega)] at hexec
        have hends (h : c.cbend = 0) : (w.dropCopy id).commandEnds p' c' = ({ p' with done := (p'.done + 1) % 65536, queue := p'.queue.drop 1 }, w.dropCopy id) := if_pos (hend.trans h)
        refine ⟨_, _, hexec, ?_, lookup_put_same .., fun h => absurd h (by omega), fun _ h => ?_, fun h => ?_⟩
        · exact (congrArg (fun e : Engines => lookup e.copies id) (State.commandEnds_frame ..).2).trans (lookup_del_same ..)
        · rw [hends h]
          exact ⟨congrArg (List.drop 1) hq', congrArg (fun n => (n + 1) % 65536) hdone, hflt⟩
        · rw [hends (h.resolve_left (by omega))]
          exact ⟨hsame.mem, hsame.teams⟩

end Sys2Proof.Machine
end

section
/-! SUPPORT. The fabric (O57): how a flit comes in by its link, its end-to-end turn, what a message delivered does, and the ends of links and requests. -/
namespace Sys2Proof.Machine

/-! ## Links (R448, R449) -/

theorem State.link_setLink (s : State) (port : Nat) (l : Link) : (s.setLink port l).link port = l := congrArg (Option.getD · _) (lookup_put_same ..)
theorem State.link_setLink_other (s : State) {port p : Nat} (h : p ≠ port) (l : Link) : (s.setLink port l).link p = s.link p := congrArg (Option.getD · _) (lookup_put_other _ _ _ _ h)

/-- An acknowledgement changes its link and what leaves, and keeps the numbers of the link's flits. -/
theorem State.ackLink_eq (s : State) (port lack : Nat) :
    ∃ l o, s.ackLink port lack = { s.setLink port l with outbox := o } ∧ l.expect = (s.link port).expect ∧ l.nextSeq = (s.link port).nextSeq := by
  unfold ackLink
  dsimp only
  split
  · exact ⟨_, _, rfl, rfl, rfl⟩
  · split
    · exact ⟨_, _, rfl, rfl, rfl⟩
    · exact ⟨_, _, rfl, rfl, rfl⟩

/-- A flit with the expected number, once it is taken and acknowledged (R448). -/
def State.takenIn (s : State) (port lack : Nat) : State :=
  let s := s.ackLink port lack
  let l := { s.link port with expect := ((s.link port).expect + 1) % 512 }
  { s.setLink port l with outbox := s.outbox ++ [.idle port l.nextSeq l.lack] }

section
variable (s : State) (port lack : Nat)

theorem State.link_ackLink : ((s.ackLink port lack).link port).expect = (s.link port).expect ∧ ((s.ackLink port lack).link port).nextSeq = (s.link port).nextSeq := by
  obtain ⟨l, o, h, h1, h2⟩ := s.ackLink_eq port lack
  have hl : (s.ackLink port lack).link port = l := by
    rw [h]
    exact s.link_setLink port l
  rw [hl]
  exact ⟨h1, h2⟩
theorem State.loop_ackLink : (s.ackLink port lack).loop = s.loop := by
  obtain ⟨l, o, h, _⟩ := s.ackLink_eq port lack
  rw [h]
  rfl
theorem State.fab_ackLink : (s.ackLink port lack).fab.ends = s.fab.ends ∧ (s.ackLink port lack).fab.devNum = s.fab.devNum := by
  obtain ⟨l, o, h, _⟩ := s.ackLink_eq port lack
  rw [h]
  exact ⟨rfl, rfl⟩
theorem State.expect_takenIn : ((s.takenIn port lack).link port).expect = ((s.link port).expect + 1) % 512 := by
  rw [← (s.link_ackLink port lack).1]
  exact congrArg Link.expect (link_setLink ..)
theorem State.outbox_takenIn (h : (s.link port).expect < 512) : (s.takenIn port lack).outbox = (s.ackLink port lack).outbox ++ [Out.idle port (s.link port).nextSeq (s.link port).expect] := by
  obtain ⟨h1, h2⟩ := s.link_ackLink port lack
  have hlack : (((s.link port).expect + 1) % 512 + 511) % 512 = (s.link port).expect := by omega
  unfold takenIn Link.lack
  dsimp only
  rw [h1, h2, hlack]
theorem State.loop_takenIn : (s.takenIn port lack).loop = s.loop := s.loop_ackLink port lack
theorem State.devNum_takenIn : (s.takenIn port lack).fab.devNum = s.fab.devNum := (s.fab_ackLink port lack).2
theorem State.host_takenIn : (s.takenIn port lack).host = s.host := by
  obtain ⟨l, o, h, _⟩ := s.ackLink_eq port lack
  unfold takenIn
  rw [h]
  rfl
theorem State.endSeq_takenIn (src vc : Nat) : (s.takenIn port lack).endSeq src vc = s.endSeq src vc := by
  unfold endSeq
  rw [show (s.takenIn port lack).fab.ends = s.fab.ends from (s.fab_ackLink port lack).1]
end

theorem State.flitIn_unexpected (s : State) (h : FlitHdr) (m : FlitMsg) (hl : h.lseq ≠ (s.link h.port).expect) : s.flitIn h m = s.ackLink h.port h.lack := by
  unfold flitIn
  dsimp only
  rw [(s.link_ackLink h.port h.lack).1]
  exact if_pos hl
theorem State.flitIn_expected (s : State) (h : FlitHdr) (m : FlitMsg) (hl : h.lseq = (s.link h.port).expect) :
    s.flitIn h m = if h.dest = s.fab.devNum then (s.takenIn h.port h.lack).deliverFlit h m else if h.hops ≤ 1 then s.takenIn h.port h.lack else (s.takenIn h.port h.lack).forward { h with hops := h.hops - 1 } m := by
  unfold flitIn
  dsimp only
  rw [if_neg (not_not.mpr (hl.trans (s.link_ackLink h.port h.lack).1.symm))]
  show (if h.dest = (s.takenIn h.port h.lack).fab.devNum then (s.takenIn h.port h.lack).deliverFlit h m else if h.hops ≤ 1 then s.takenIn h.port h.lack else (s.takenIn h.port h.lack).forward { h with hops := h.hops - 1 } m) = _
  rw [State.devNum_takenIn]

/-! ## End-to-end order (R449, R451) -/

theorem takeEarly_none {n : Nat} {e : EndSeq} (h : ∀ f ∈ e.early, f.1.eseq ≠ e.expect) : takeEarly n e = (e, []) := by
  cases n with
  | zero => rfl
  | succ n =>
    have hfind : e.early.find? (fun f => f.1.eseq == e.expect) = none := by simpa using h
    rw [takeEarly, hfind]

/-- A delivery changes what the device remembers of the order and what it is to act on. -/
theorem State.deliverFlit_eq (s : State) (h : FlitHdr) (m : FlitMsg) : ∃ es lp, s.deliverFlit h m = { s with fab := { s.fab with ends := es }, loop := lp } := by
  unfold deliverFlit
  dsimp only
  split
  · exact ⟨_, _, rfl⟩
  · split
    · exact ⟨_, _, rfl⟩
    · split
      · exact ⟨_, _, rfl⟩
      · exact ⟨_, _, rfl⟩
theorem State.link_deliverFlit (s : State) (h : FlitHdr) (m : FlitMsg) (port : Nat) : (s.deliverFlit h m).link port = s.link port := by
  obtain ⟨es, lp, he⟩ := s.deliverFlit_eq h m
  rw [he]
  rfl
theorem State.outbox_deliverFlit (s : State) (h : FlitHdr) (m : FlitMsg) : (s.deliverFlit h m).outbox = s.outbox := by
  obtain ⟨es, lp, he⟩ := s.deliverFlit_eq h m
  rw [he]

section
variable {s : State} {h : FlitHdr} {m : FlitMsg}

/-- A flit that has been delivered before, or is held, is dropped. -/
theorem State.deliverFlit_again (hd : 2 ^ 15 ≤ (h.eseq + 2 ^ 16 - (s.endSeq h.src m.vc).expect) % 2 ^ 16 ∨ ∃ f ∈ (s.endSeq h.src m.vc).early, f.1.eseq = h.eseq) : s.deliverFlit h m = s := by
  unfold deliverFlit
  refine if_pos ?_
  simpa using hd

/-- The condition under which a flit is dropped as come before does not hold. -/
theorem notAgain (ha : (h.eseq + 2 ^ 16 - (s.endSeq h.src m.vc).expect) % 2 ^ 16 < 2 ^ 15) (he : ∀ f ∈ (s.endSeq h.src m.vc).early, f.1.eseq ≠ h.eseq) :
    ¬(decide (2 ^ 15 ≤ (h.eseq + 2 ^ 16 - (s.endSeq h.src m.vc).expect) % 2 ^ 16) || (s.endSeq h.src m.vc).early.any fun f => f.1.eseq == h.eseq) = true := by
  simpa using ⟨ha, fun a b hf => he (a, b) hf⟩

theorem State.deliverFlit_vc3 (hv : m.vc = 3) (ha : (h.eseq + 2 ^ 16 - (s.endSeq h.src m.vc).expect) % 2 ^ 16 < 2 ^ 15) (he : ∀ f ∈ (s.endSeq h.src m.vc).early, f.1.eseq ≠ h.eseq) :
    (s.deliverFlit h m).loop = s.loop ++ [({ h with port := 19 }, m)] := by
  unfold deliverFlit
  dsimp only
  rw [if_neg (notAgain ha he), if_pos hv]

theorem State.deliverFlit_inTurn (hx : (s.endSeq h.src m.vc).expect = h.eseq) (he : (s.endSeq h.src m.vc).early = []) :
    (s.deliverFlit h m).loop = s.loop ++ [({ h with port := 19 }, m)] := by
  have ha : (h.eseq + 2 ^ 16 - (s.endSeq h.src m.vc).expect) % 2 ^ 16 = 0 := by omega
  by_cases hv : m.vc = 3
  · exact deliverFlit_vc3 hv (by omega) (by simp [he])
  · unfold deliverFlit
    dsimp only
    rw [if_neg (notAgain (by omega) (by simp [he])), if_neg hv, ha, if_neg (by simp), he]
    simp [takeEarly, hx]

theorem State.deliverFlit_early (hv : m.vc ≠ 3) (ha : 0 < (h.eseq + 2 ^ 16 - (s.endSeq h.src m.vc).expect) % 2 ^ 16) (he : ∀ f ∈ (s.endSeq h.src m.vc).early, f.1.eseq ≠ (s.endSeq h.src m.vc).expect) : (s.deliverFlit h m).loop = s.loop := by
  have hnot : h.eseq ≠ (s.endSeq h.src m.vc).expect := by omega
  unfold deliverFlit
  dsimp only
  split
  · rfl
  · split
    · rfl
    · rw [takeEarly_none]
      · simp
      · intro f hf
        rcases List.mem_append.mp hf with hf | hf
        · exact he f hf
        · cases List.mem_singleton.mp hf
          exact hnot
end

/-! ## A link that goes down (R449) -/

/-- A flit on its way leaves a link that is down as it is. -/
theorem State.link_forward {s : State} {port : Nat} (hd : (s.link port).up = false) (h : FlitHdr) (m : FlitMsg) : (s.forward h m).link port = s.link port := by
  unfold forward
  split
  · rfl
  · next p ps hports =>
    have hmem : (p :: ps).getD (Config.routeHash h.src h.dest % (ps.length + 1)) p ∈ s.livePorts h.dest := by
      have hlt : Config.routeHash h.src h.dest % (ps.length + 1) < (p :: ps).length := Nat.mod_lt _ (Nat.succ_pos _)
      rw [hports, List.getD_eq_getElem _ _ hlt]
      exact List.getElem_mem _
    generalize (p :: ps).getD _ p = q at hmem ⊢
    have hup : (s.link q).up = true := (List.mem_filter.mp hmem).2
    have hne : port ≠ q := by
      rintro rfl
      rw [hd] at hup
      cases hup
    unfold transmit
    dsimp only
    split
    · exact link_setLink_other s hne _
    · exact link_setLink_other s hne _

theorem exec_linkDown {s : State} {port : Nat} (hp : port < 18) (hf : (s.link port).fails s.timebase = true) :
    ∃ t, exec (.linkDown port) s = .next t ∧ (t.link port).up = false ∧ (t.link port).replay = [] := by
  have hon : ¬(decide (18 ≤ port) || !(s.link port).fails s.timebase) = true := by simp [hf, hp]
  refine ⟨_, if_neg hon, ?_⟩
  have hdown (fs : List (FlitHdr × FlitMsg)) (t : State) (ht : (t.link port).up = false) : (fs.foldl (fun s f => s.forward f.1 f.2) t).link port = t.link port := by
    induction fs generalizing t with
    | nil => rfl
    | cons f fs ih =>
      have hone := State.link_forward ht f.1 f.2
      exact (ih _ (hone ▸ ht)).trans hone
  have hlink := hdown (s.link port).replay (s.setLink port { s.link port with replay := [], replays := 0, up := false, resent := 0 }) (congrArg Link.up (State.link_setLink ..))
  have hend := hlink.trans (State.link_setLink ..)
  exact ⟨congrArg Link.up hend, congrArg Link.replay hend⟩

/-! ## Requests open and over (R455) -/

theorem State.openReq_iff (s : State) (tag : Nat) (r : Req) : s.openReq tag = some r ↔ lookup s.fab.reqs tag = some r ∧ (r.owner.answered = true ∨ s.timebase < r.sentAt + Config.requestTimeoutNs) := by
  unfold openReq requestOver
  simp [Option.filter_eq_some_iff]

theorem exec_requestTimeout {s : State} {tag : Nat} {r : Req} {l : Launch} (hr : lookup s.fab.reqs tag = some r) (ht : r.sentAt + Config.requestTimeoutNs ≤ s.timebase) (ho : r.owner.answered = false)
    (hl : s.launch? r.launch = some l) (hc : l.cause = none) (h1 : l.st ≠ .complete) (h2 : l.st ≠ .killed) :
    ∃ t, exec (.requestTimeout tag) s = .next t ∧ lookup t.fab.reqs tag = none ∧ t.launch? r.launch = some { l with cause := some .deviceLost } := by
  have hover : s.requestOver r = true := by simp [State.requestOver, ho, ht]
  have hkill : ((s.answered tag).requestKill r.launch .deviceLost) = (s.answered tag).setLaunch r.launch { l with cause := some .deviceLost } := by
    unfold State.requestKill State.modLaunch
    rw [show (s.answered tag).launch? r.launch = some l from hl]
    have hopen : ¬(l.cause.isSome || l.st == .complete || l.st == .killed) = true := by simp [hc, h1, h2]
    exact congrArg ((s.answered tag).setLaunch r.launch) (if_neg hopen)
  refine ⟨s.dropRequest tag r, ?_, ?_⟩
  · show execRequestTimeout tag s = _
    rw [execRequestTimeout, hr]
    exact if_pos hover
  · have hends : lookup ((s.answered tag).setLaunch r.launch { l with cause := some .deviceLost }).fab.reqs tag = none
        ∧ ((s.answered tag).setLaunch r.launch { l with cause := some .deviceLost }).launch? r.launch = some { l with cause := some .deviceLost } := ⟨lookup_del_same .., lookup_put_same ..⟩
    unfold State.dropRequest
    rw [hkill]
    dsimp only
    split
    · split <;> exact hends
    · split <;> exact hends
    all_goals exact hends

/-! ## What a message delivered does -/

theorem flitInstr_delivered {s : State} {h : FlitHdr} (hp : h.port = 19) (m : FlitMsg) (act : State → State) : flitInstr s h m act = .next (act s) := by
  rw [flitInstr, if_neg (by omega), if_pos hp]
theorem flitInstr_arriving {s : State} {h : FlitHdr} (hp : h.port < 18) (m : FlitMsg) (act : State → State) : flitInstr s h m act = .next (s.flitIn h m) := if_pos hp

theorem exec_instr_arriving {s : State} {h : FlitHdr} (hp : h.port < 18) (m : FlitMsg) : exec (m.instr h) s = .next (s.flitIn h m) := by
  have hnot : ¬h.port = 18 := by omega
  cases m with
  | rdreq q => exact (if_neg hnot).trans (flitInstr_arriving hp ..)
  | wr q => exact (if_neg hnot).trans (flitInstr_arriving hp ..)
  | rdrsp v b => exact (flitInstr_arriving hp .. : execRdrsp h v b s = _)
  | wrack => exact (flitInstr_arriving hp .. : execWrack h s = _)
  | atomreq q => exact (flitInstr_arriving hp .. : execAtomreq h q s = _)
  | atomrsp v => exact (flitInstr_arriving hp .. : execAtomrsp h v s = _)
  | failrsp q => exact (flitInstr_arriving hp .. : execFailrsp h q s = _)
  | invoke q => exact (flitInstr_arriving hp .. : execInvoke h q s = _)
  | claimmsg q => exact (flitInstr_arriving hp .. : execClaimmsg h q s = _)
  | claimres q => exact (flitInstr_arriving hp .. : execClaimres h q s = _)
  | signal q => exact (flitInstr_arriving hp .. : execSignal h q s = _)
  | coll q => exact (flitInstr_arriving hp .. : execColl h q s = _)
  | mgmt b => exact (flitInstr_arriving hp .. : execMgmt h b s = _)

theorem State.serveRead_raw {s : State} {h : FlitHdr} (hp : h.port = 19) (hheld : s.fab.held = []) {asid lane la : Nat} {f : LoadForm} {pl : Place} {ws : List Word}
    (hc : s.check (s.deviceCtx asid) (.raw (loadSize f)) false (localEa la) = .ok pl) (hw : s.mustWait (s.deviceCtx asid) pl.tile = false) (hv : s.rawAt (s.deviceCtx asid) f pl = .words ws) :
    s.serveRead h { asid := asid, parts := [{ lane := lane, la := la, kind := .raw f }] } = s.sendMsg h.src h.tag (.rdrsp [(lane, ws)] []) := by
  have hplace : s.partPlaces (s.deviceCtx asid) { lane := lane, la := la, kind := .raw f } [] = .ok [pl] := by
    simp only [partPlaces, hc]
  have hvalue : s.partValue (s.deviceCtx asid) { lane := lane, la := la, kind := .raw f } [pl] = .words ws := by
    simp only [partValue, hv]
  have hfirst : s.firstTile (s.deviceCtx asid) [pl] = none := by
    simp [firstTile, waitTile, hw]
  have hgood (held : Bool) (vals : List (Nat × List Word)) : readFailOf held [] vals = none := rfl
  unfold serveRead
  rw [unhold_idle hheld, behind_idle hheld]
  dsimp only
  rw [show s.requestCtx asid false [] = s.deviceCtx asid from rfl]
  simp only [List.zipIdx_cons, List.zipIdx_nil, List.map_cons, List.map_nil, List.take_zero, hplace, List.filterMap_cons, List.filterMap_nil, readsData, List.filter_cons, List.filter_nil, if_true, List.flatMap_cons, List.flatMap_nil, List.append_nil, hfirst, hvalue, failOf_nil, Bool.false_and, Bool.false_eq_true, if_false, List.findSome?_cons, List.findSome?_nil, hgood]
  exact (if_neg (show ¬h.port = 18 by omega))

/-- A request after the end of a collective that it posted has been told (R318). -/
def Req.afterAck (r : Req) (s : State) (tag : Nat) : State :=
  match r.owner with
  | .posted n => if n ≤ 1 then s.answered tag else { s with fab := { s.fab with reqs := put s.fab.reqs tag { r with owner := .posted (n - 1) } } }
  | .bucket gid acks => { s with fab := { s.fab with reqs := put s.fab.reqs tag { r with owner := .bucket gid (acks + 1) } } }
  | .group _ | .copy _ | .store _ | .signal _ | .grant _ _ | .command _ | .none => s.answered tag

section
variable {s : State} {h : FlitHdr}

/-- An answer that arrived whole goes to whoever awaits its tag. -/
theorem State.answerChecked_sound (hb : h.badLines = 0) (vals : List (Nat × List Word)) (bytes : List Byte) : s.answerChecked h vals bytes = s.answerFor h.tag (.data vals bytes) := if_pos hb

/-- A signal acts by its fields when it arrived whole. -/
theorem exec_ack {r : Req} {n : Nat} (hp : h.port = 19) (hb : h.badLines = 0) (hr : s.openReq h.tag = some r) : exec (.signal h (.ack n)) s = .next (r.afterAck s h.tag) := by
  show execSignal h (.ack n) s = _
  rw [execSignal, flitInstr_delivered hp, ifSound, if_pos hb]
  dsimp only
  rw [hr]
  rfl
end

/-- Settles O57: a flit by the number its link expects and its end-to-end turn, a message delivered by its kind. -/
theorem fabricArrivals : Obligations.FabricArrivals := by
  intro s h
  refine ⟨fun m hp => ⟨exec_instr_arriving hp m, s.flitIn_unexpected h m, fun hl => ?_, fun hl hd => ?_, fun hl hlt hend => ?_, fun hl hd hh => ?_⟩, fun hp => ?_, fun hp => ⟨fun q hq => ?_, fun q hq => ?_⟩,
    fun port hp => ⟨fun lseq lack => ⟨if_pos hp, fun hl => ?_⟩, if_pos hp, fun lseq hn => ?_, fun lseq i hi => ?_, exec_linkDown hp, fun tag r l hr ht ho hl hc h1 h2 => exec_requestTimeout hr ht ho hl hc h1 h2⟩⟩
  · by_cases hd : h.dest = s.fab.devNum
    · rw [s.flitIn_expected h m hl, if_pos hd, State.link_deliverFlit, State.expect_takenIn]
      exact .inl rfl
    · exact .inr hd
  · rw [s.flitIn_expected h m hl, if_pos hd, ← s.loop_takenIn h.port h.lack, ← s.endSeq_takenIn h.port h.lack]
    exact ⟨fun _ hx he => State.deliverFlit_inTurn hx he, State.deliverFlit_vc3, fun h => congrArg State.loop (State.deliverFlit_again h), fun hv ha he _ => State.deliverFlit_early hv ha he⟩
  · rw [hl, ← s.outbox_takenIn h.port h.lack (hl ▸ hlt), s.flitIn_expected h m hl]
    split
    · exact State.outbox_deliverFlit ..
    · rw [if_pos (hend.resolve_left ‹_›)]
  · rw [s.flitIn_expected h m hl, if_neg hd, if_pos hh]
    exact s.loop_takenIn ..
  · have hnot : ¬h.port = 18 := by omega
    refine ⟨fun q => (if_neg hnot).trans (flitInstr_delivered hp ..), fun q => (if_neg hnot).trans (flitInstr_delivered hp ..), fun q => (flitInstr_delivered hp .. : execAtomreq h q s = _), (flitInstr_delivered hp .. : execWrack h s = _), fun q => (flitInstr_delivered hp .. : execFailrsp h q s = _), fun b => (flitInstr_delivered hp .. : execMgmt h b s = _),
      fun hb => ⟨fun v b => ?_, fun v => ?_, fun q => ?_, fun q => ?_, fun c a d t => ?_, fun r n => ?_, fun q => ?_, fun hr => ⟨fun v b => ?_, fun v => ?_, fun n => ?_⟩, fun n r hr => ⟨fun ho => ?_, fun gid k ho => ?_, fun k ho => ?_⟩⟩,
      fun hb => ⟨fun q => ?_, fun q => ?_, fun q => ?_, fun q => ?_, fun v b r id hr ho => ?_⟩, fun tag => ?_, fun r l hr ho => ?_, fun asid lane la f pl ws hc hw hheld hv => ?_⟩
    · show execRdrsp h v b s = _
      rw [execRdrsp, flitInstr_delivered hp, State.answerChecked_sound hb]
    · show execAtomrsp h v s = _
      rw [execAtomrsp, flitInstr_delivered hp, State.answerChecked_sound hb]
    · show execInvoke h q s = _
      rw [execInvoke, flitInstr_delivered hp, if_pos hb]
    · show execClaimres h _ s = _
      rw [execClaimres, flitInstr_delivered hp, ifSound, if_pos hb]
    · show execClaimmsg h _ s = _
      rw [execClaimmsg, flitInstr_delivered hp, ifSound, if_pos hb]
    · show execSignal h _ s = _
      rw [execSignal, flitInstr_delivered hp, ifSound, if_pos hb]
    · show execColl h q s = _
      rw [execColl, flitInstr_delivered hp, if_pos hb]
    · show execRdrsp h v b s = _
      rw [execRdrsp, flitInstr_delivered hp, State.answerChecked_sound hb, State.answerFor, hr]
    · show execAtomrsp h v s = _
      rw [execAtomrsp, flitInstr_delivered hp, State.answerChecked_sound hb, State.answerFor, hr]
    · show execSignal h _ s = _
      rw [execSignal, flitInstr_delivered hp, ifSound, if_pos hb]
      dsimp only
      rw [hr]
    · rw [exec_ack hp hb hr, Req.afterAck]
      rcases ho with ⟨h1, h2⟩ | ho
      · split
        · next k hk => exact absurd hk (h1 k)
        · next gid k hk => exact absurd hk (h2 gid k)
        all_goals rfl
      · rw [ho]
        rfl
    · rw [exec_ack hp hb hr, Req.afterAck, ho]
    · rw [exec_ack hp hb hr, Req.afterAck, ho]
      exact congrArg _ (if_neg (by omega))
    · show execClaimres h q s = _
      rw [execClaimres, flitInstr_delivered hp, ifSound, if_neg hb]
    · show execClaimmsg h q s = _
      rw [execClaimmsg, flitInstr_delivered hp, ifSound, if_neg hb]
    · show execSignal h q s = _
      rw [execSignal, flitInstr_delivered hp, ifSound, if_neg hb]
    · show execInvoke h q s = _
      rw [execInvoke, flitInstr_delivered hp, if_neg hb]
    · show execRdrsp h v b s = _
      rw [execRdrsp, flitInstr_delivered hp, State.answerChecked]
      dsimp only
      rw [if_neg hb, hr]
      dsimp only [Option.map]
      rw [ho]
    · simp only [State.openReq_iff]
    · rw [State.answerFor, hr]
      dsimp only
      rw [ho]
      exact lookup_del_same ..
    · exact ((if_neg hnot).trans (flitInstr_delivered hp ..)).trans (congrArg _ (State.serveRead_raw hp hheld hc hw hv))
  · exact (if_pos hp).trans (if_pos (by simpa using hq))
  · exact (if_pos hp).trans (if_pos (by simpa using hq))
  · refine ⟨{ s.takenIn port lack with host := { (s.takenIn port lack).host with tele := { (s.takenIn port lack).host.tele with badFlits := (s.takenIn port lack).host.tele.badFlits + 1 } } }, ?_,
      congrArg (·.tele.badFlits + 1) (s.host_takenIn port lack), s.expect_takenIn port lack, s.loop_takenIn port lack⟩
    show execUnknownFlitType port lseq lack s = _
    unfold execUnknownFlitType
    dsimp only
    rw [if_neg (Nat.not_le.mpr hp), if_neg (not_not.mpr (hl.trans (s.link_ackLink port lack).1.symm))]
    rfl
  · show execNack port lseq s = _
    unfold execNack
    dsimp only
    rw [if_neg (Nat.not_le.mpr hp), hn]
  · have hexec : ∃ t : State, execNack port lseq s = .next t ∧ (t.link port).replay = (s.link port).replay.drop i ∧ (t.link port).heard = s.timebase
          ∧ (t.link port).replays = (if (s.link port).resent ≤ i then 0 else if i = 0 then (s.link port).replays + 1 else 1)
          ∧ t.outbox = s.outbox ++ (((s.link port).replay.drop i).take 256).map fun f => Out.flit f.1 f.2 := by
      unfold execNack
      dsimp only
      rw [if_neg (Nat.not_le.mpr hp), hi]
      exact ⟨_, rfl, congrArg Link.replay (State.link_setLink ..), congrArg Link.heard (State.link_setLink ..), congrArg Link.replays (State.link_setLink ..), rfl⟩
    exact hexec

end Sys2Proof.Machine
end

section
/-! SUPPORT. The canonical form of the memory through every operation of the model (R383, R376): what it is for an operation that may have no result, or another one, to keep it, and the operations over the state. -/
namespace Sys2Proof.Machine

/-! ## Results that keep the form -/

/-- An outcome whose next state, if there is one, has the canonical form. -/
def Formed : Host.Outcome State Fault Refusal → Prop
  | .next t => t.cellsOk = true
  | .fault _ => True
  | .refused _ => True

/-- A result that keeps the form, if there is one. -/
def KeptSome {α : Type} (p : α → Prop) : Option α → Prop
  | some x => p x
  | none => True

/-- A result that keeps the form, if there is no error. -/
def KeptOk {ε α : Type} (p : α → Prop) : Except ε α → Prop
  | .ok x => p x
  | .error _ => True

/-- A result or an error, each of which keeps the form. -/
def KeptBoth : Except State State → Prop
  | .ok t => t.cellsOk = true
  | .error t => t.cellsOk = true

/-- An answer of the checks of an access that keeps the form. -/
def KeptCheck : CheckResult → Prop
  | .stop s => s.cellsOk = true
  | .go s _ _ _ => s.cellsOk = true

/-- A read that keeps the form. -/
def KeptRead : ReadOut → Prop
  | .bytes _ => True
  | .wait _ s => s.cellsOk = true
  | .bad _ _ => True

/-- A drain's work that keeps the form. -/
def KeptDrain : DrainOut → Prop
  | .ran _ _ s => s.cellsOk = true
  | .wait _ _ => True

/-- An engine's work that keeps the form. -/
def KeptEng {α : Type} : EngOut α → Prop
  | .done _ s => s.cellsOk = true
  | .fault _ _ _ s => s.cellsOk = true
  | .wait _ _ => True

/-- A turn at the queues that keeps the form. -/
def KeptTurn : QueueTurn → Prop
  | .go _ => True
  | .act s => s.cellsOk = true
  | .stay => True

/-- A try at a queue that keeps the form. -/
def KeptTry : QueueTry → Prop
  | .ok _ s => s.cellsOk = true
  | .none => True
  | .wait _ _ => True
  | .bad _ _ => True

/-- What a porter's instruction asks for, if it has done its own effect, keeps the form. -/
def KeptAct : PAct → Prop
  | .plain _ s => s.cellsOk = true
  | .window _ _ _ => True
  | .get _ _ _ _ => True
  | .put _ _ _ _ => True
  | .ecall => True
  | .trap _ _ => True

/-- The work of an engine that keeps the form, whether it comes to its end or stops. -/
def KeptWork {α : Type} (m : EngM α) : Prop :=
  ∀ s : State, s.cellsOk = true → match m s with
    | .ok _ t => t.cellsOk = true
    | .error _ t => t.cellsOk = true

theorem kept_of_eq {α : Type} {p : α → Prop} {x y : α} (he : x = y) (h : p x) : p y := he ▸ h

theorem State.cellsOk_snd {α : Type} {p : α × State} {a : α} {t : State} (he : p = (a, t))
    (h : p.2.cellsOk = true) : t.cellsOk = true := by
  subst he; exact h

theorem State.cellsOk_snd_snd {α β : Type} {p : α × β × State} {a : α} {b : β} {t : State}
    (he : p = (a, b, t)) (h : p.2.2.cellsOk = true) : t.cellsOk = true := by
  subst he; exact h

theorem State.cellsOk_ite {c : Prop} [Decidable c] {s t : State} (hs : s.cellsOk = true)
    (ht : t.cellsOk = true) : (if c then s else t).cellsOk = true := by
  split
  · exact hs
  · exact ht

theorem State.cellsOk_ite_snd {α : Type} {c : Prop} [Decidable c] {p q : α × State}
    (hp : p.2.cellsOk = true) (hq : q.2.cellsOk = true) :
    (if c then p else q).2.cellsOk = true := by
  split
  · exact hp
  · exact hq

theorem keptDrain_ite {c : Prop} [Decidable c] {x y : DrainOut} (hx : KeptDrain x)
    (hy : KeptDrain y) : KeptDrain (if c then x else y) := by
  split
  · exact hx
  · exact hy

theorem keptSome_findSome? {α β : Type} {p : β → Prop} {l : List α} {f : α → Option β}
    (h : ∀ x, x ∈ l → KeptSome p (f x)) : KeptSome p (l.findSome? f) := by
  cases he : l.findSome? f with
  | none => trivial
  | some y =>
    obtain ⟨x, hx, hy⟩ := List.exists_of_findSome?_eq_some he
    exact kept_of_eq hy (h x hx)

theorem State.cellsOk_getD {o : Option State} {d : State}
    (h : KeptSome (fun t => t.cellsOk = true) o) (hd : d.cellsOk = true) :
    (o.getD d).cellsOk = true := by
  cases o with
  | none => exact hd
  | some t => exact h

theorem keptOk_bind {ε α β : Type} {p : β → Prop} {e : Except ε α} {k : α → Except ε β}
    (h : ∀ x, e = .ok x → KeptOk p (k x)) : KeptOk p (e >>= k) := by
  cases e with
  | error _ => trivial
  | ok x => exact h x rfl

theorem keptOk_pure {ε α : Type} {p : α → Prop} {x : α} (h : p x) : KeptOk (ε := ε) p (pure x) := h

theorem keptOk_foldl {ε α β : Type} {p : β → Prop} {f : Except ε β → α → Except ε β} {l : List α}
    {e : Except ε β} (h : KeptOk p e) (hf : ∀ r x, KeptOk p r → KeptOk p (f r x)) :
    KeptOk p (l.foldl f e) := by
  induction l generalizing e with
  | nil => exact h
  | cons x r ih => exact ih (hf e x h)

theorem keptSome_map {α β : Type} {p : β → Prop} {o : Option α} {k : α → β}
    (h : ∀ x, o = some x → p (k x)) : KeptSome p (o.map k) := by
  cases o with
  | none => trivial
  | some x => exact h x rfl

theorem State.cellsOk_foldl_of {α : Type} {f : State → α → State} {l : List α} {s : State}
    (h : s.cellsOk = true) (hf : ∀ s x, s.cellsOk = true → (f s x).cellsOk = true) :
    (l.foldl f s).cellsOk = true :=
  State.cellsOk_foldl f hf l s h

theorem State.cellsOk_foldl_fst {α β : Type} {f : State × β → α → State × β}
    (hf : ∀ p x, p.1.cellsOk = true → (f p x).1.cellsOk = true) {l : List α} {p : State × β}
    (h : p.1.cellsOk = true) : (l.foldl f p).1.cellsOk = true := by
  induction l generalizing p with
  | nil => exact h
  | cons x r ih => exact ih (hf p x h)

theorem State.cellsOk_foldl_snd {α β : Type} {f : β × State → α → β × State}
    (hf : ∀ p x, p.2.cellsOk = true → (f p x).2.cellsOk = true) {l : List α} {p : β × State}
    (h : p.2.cellsOk = true) : (l.foldl f p).2.cellsOk = true := by
  induction l generalizing p with
  | nil => exact h
  | cons x r ih => exact ih (hf p x h)

/-! ## The work of engines -/

theorem keptWork_bind {α β : Type} {m : EngM α} {k : α → EngM β} (hm : KeptWork m)
    (hk : ∀ a, KeptWork (k a)) : KeptWork (m >>= k) := by
  intro s h
  have h1 := hm s h
  show match EStateM.bind m k s with
    | .ok _ t => t.cellsOk = true
    | .error _ t => t.cellsOk = true
  unfold EStateM.bind
  cases he : m s with
  | ok a t =>
    rw [he] at h1
    exact hk a t h1
  | error e t =>
    rw [he] at h1
    exact h1

theorem keptWork_pure {α : Type} {a : α} : KeptWork (pure a : EngM α) := fun _ h => h

theorem keptWork_get : KeptWork (get : EngM State) := fun _ h => h

theorem keptWork_throw {α : Type} {e : EngStop} : KeptWork (throw e : EngM α) := fun _ h => h

theorem keptWork_modify {f : State → State} (hf : ∀ s, s.cellsOk = true → (f s).cellsOk = true) :
    KeptWork (modify f : EngM Unit) := hf

theorem keptWork_ite {α : Type} {c : Prop} [Decidable c] {m k : EngM α} (hm : KeptWork m)
    (hk : KeptWork k) : KeptWork (if c then m else k) := by
  split
  · exact hm
  · exact hk

theorem State.kept_engineRun {α : Type} {s : State} {m : EngM α} (hm : KeptWork m)
    (h : s.cellsOk = true) : KeptEng (s.engineRun m) := by
  have h1 := hm s h
  unfold State.engineRun EStateM.run
  cases he : m s with
  | ok a t =>
    rw [he] at h1
    exact h1
  | error e t =>
    rw [he] at h1
    cases e with
    | fault _ _ _ => exact h1
    | wait _ _ => trivial

/-! ## The teams -/

theorem State.window_of_mem {s : State} {x : Nat × Team} (hx : x ∈ s.teams) (h : s.cellsOk = true) :
    cellsWf x.2.window = true :=
  (s.cellsOk_iff.1 h).2 x hx

theorem State.window_of_team {s : State} {k : Nat} {t : Team} (ht : s.team? k = some t)
    (h : s.cellsOk = true) : cellsWf t.window = true :=
  State.window_of_mem (lookup_mem ht) h

theorem State.window_of_find {s : State} {f : Nat × Team → Bool} {k : Nat} {t : Team}
    (ht : s.teams.find? f = some (k, t)) (h : s.cellsOk = true) : cellsWf t.window = true :=
  State.window_of_mem (List.mem_of_find?_eq_some ht) h

theorem State.cellsOk_setTeam_window {s : State} {k : Nat} {t : Team} (h : s.cellsOk = true)
    (hw : cellsWf t.window = true) : (s.setTeam k t).cellsOk = true :=
  s.cellsOk_setTeam k t h hw

theorem State.cellsOk_setTeam_of {s : State} {k j : Nat} {t u : Team} (h : s.cellsOk = true)
    (ht : s.team? j = some t) (hw : u.window = t.window) : (s.setTeam k u).cellsOk = true :=
  s.cellsOk_setTeam k u h (hw ▸ State.window_of_team ht h)

theorem State.cellsOk_modTeam {s : State} {k : Nat} {f : Team → Team} (h : s.cellsOk = true)
    (hf : ∀ t, (f t).window = t.window) : (s.modTeam k f).cellsOk = true := by
  unfold State.modTeam
  split
  next t ht => exact State.cellsOk_setTeam_of h ht (hf t)
  next => exact h

/-- Teams changed one by one, each with its window as it stands, keep the form. -/
theorem State.cellsOk_mapTeams {s t : State} {f : Nat × Team → Nat × Team} (h : s.cellsOk = true)
    (hm : t.mem.hbm = s.mem.hbm) (ht : t.teams = s.teams.map f)
    (hf : ∀ x, (f x).2.window = x.2.window) : t.cellsOk = true := by
  obtain ⟨hs, hw⟩ := s.cellsOk_iff.1 h
  refine t.cellsOk_iff.2 ⟨hm ▸ hs, fun x hx => ?_⟩
  rw [ht] at hx
  obtain ⟨y, hy, rfl⟩ := List.mem_map.1 hx
  exact hf y ▸ hw y hy

/-- What changes neither HBM4 nor the teams keeps the form. -/
theorem State.cellsOk_frame {s t : State} (h : s.cellsOk = true) (hm : t.mem.hbm = s.mem.hbm)
    (ht : t.teams = s.teams) : t.cellsOk = true :=
  State.cellsOk_of h (hm ▸ (s.cellsOk_iff.1 h).1) ht

/-! ## The instruction in issue -/

theorem State.formed_issue {s : State} {k : Packet → Group → State}
    (hk : ∀ p g, (k p g).cellsOk = true) : Formed (s.issue k) := by
  unfold State.issue
  split
  · trivial
  · exact hk _ _

end Sys2Proof.Machine
end

section
/-! SUPPORT. The canonical form through the state's own operations: groups and traps, registers, lane and uniform arithmetic, CSRs, and bytes written (R383, R376). -/
namespace Sys2Proof.Machine

/-! ## Ops -/

theorem State.cellsOk_setGroup {s : State} {k : ℕ} {g : Group} (h : s.cellsOk = true) :
    (s.setGroup k g).cellsOk = true :=
  h

theorem State.cellsOk_setLaunch {s : State} {k : ℕ} {l : Launch} (h : s.cellsOk = true) :
    (s.setLaunch k l).cellsOk = true :=
  h

theorem State.cellsOk_modGroup {s : State} {k : ℕ} {f : Group → Group} (h : s.cellsOk = true) :
    (s.modGroup k f).cellsOk = true := by
  unfold State.modGroup
  split <;> exact h

theorem State.cellsOk_modGang {s : State} {k : ℕ} {f : Gang → Gang} (h : s.cellsOk = true) :
    (s.modGang k f).cellsOk = true := by
  unfold State.modGang
  split <;> exact h

theorem State.cellsOk_modLaunch {s : State} {k : ℕ} {f : Launch → Launch} (h : s.cellsOk = true) :
    (s.modLaunch k f).cellsOk = true := by
  unfold State.modLaunch
  split <;> exact h

theorem State.cellsOk_roce {s : State} {o : List Out} (h : s.cellsOk = true) :
    (s.roce o).cellsOk = true := by
  unfold State.roce
  dsimp only
  split <;> exact h

theorem State.cellsOk_requestKill {s : State} {l : ℕ} {c : Cause} (h : s.cellsOk = true) :
    (s.requestKill l c).cellsOk = true :=
  State.cellsOk_modLaunch h

theorem State.cellsOk_doubleTrap {s : State} {gid first second : ℕ} {lanes : LaneMask}
    {addr : DWord} (h : s.cellsOk = true) :
    (s.doubleTrap gid first second lanes addr).cellsOk = true :=
  State.cellsOk_requestKill (State.cellsOk_modGroup h)

theorem State.cellsOk_park {s : State} {gid : ℕ} (h : s.cellsOk = true) :
    (s.park gid).cellsOk = true := by
  unfold State.park
  dsimp only
  split <;> exact h

theorem State.cellsOk_takeTrap {s : State} {gid : ℕ} {r : TrapRec} (h : s.cellsOk = true) :
    (s.takeTrap gid r).cellsOk = true := by
  unfold State.takeTrap
  dsimp only
  split
  · exact h
  · split
    · exact State.cellsOk_doubleTrap h
    · split
      · exact State.cellsOk_requestKill h
      · split
        · exact h
        · exact State.cellsOk_park h

theorem State.cellsOk_settleTrap {s : State} {gid : ℕ} {r : TrapRec} (h : s.cellsOk = true) :
    (s.settleTrap gid r).cellsOk = true := by
  unfold State.settleTrap
  dsimp only
  split
  · exact h
  · split
    · exact State.cellsOk_takeTrap h
    · exact h

theorem State.cellsOk_raise {s : State} {gid : ℕ} {r : TrapRec} (h : s.cellsOk = true) :
    (s.raise gid r).cellsOk = true := by
  unfold State.raise
  dsimp only
  split
  · exact State.cellsOk_takeTrap h
  · split
    · exact State.cellsOk_modGroup h
    · split
      · exact State.cellsOk_settleTrap (State.cellsOk_modGroup h)
      · exact State.cellsOk_modGroup h

theorem State.cellsOk_trapAt {s : State} {gid : ℕ} {sl : Slot} {c : Cause} {lanes : LaneMask}
    {addr : DWord} (h : s.cellsOk = true) : (s.trapAt gid sl c lanes addr).cellsOk = true :=
  State.cellsOk_raise h

theorem State.cellsOk_trapDeferred {s : State} {gid : ℕ} {sl : Slot} {d : Deferred}
    (h : s.cellsOk = true) : (s.trapDeferred gid sl d).cellsOk = true :=
  State.cellsOk_raise h

theorem State.cellsOk_finish {s : State} {p : Packet} {g : Group} (h : s.cellsOk = true) :
    (s.finish p g).cellsOk = true :=
  h

theorem State.cellsOk_fresh {s : State} (h : s.cellsOk = true) : s.fresh.2.cellsOk = true :=
  h

theorem State.cellsOk_post {s : State} {gid : ℕ} {pc : DWord} {lanes : LaneMask} {regs : List Reg}
    {vals : List (ℕ × Reg × Word)} {lat : ℕ} (h : s.cellsOk = true) :
    (s.post gid pc lanes regs vals lat).cellsOk = true :=
  State.cellsOk_modGroup h

theorem State.cellsOk_orDeferred {s : State} {p : Packet} {g : Group} {f : Deferred → Bool}
    {k : State} (h : s.cellsOk = true) (hk : k.cellsOk = true) :
    (s.orDeferred p g f k).cellsOk = true := by
  unfold State.orDeferred
  split
  · exact State.cellsOk_trapDeferred h
  · exact hk

theorem State.cellsOk_blockHere {s : State} {p : Packet} {g : Group} {k : State}
    (h : s.cellsOk = true) (hk : k.cellsOk = true) : (s.blockHere p g k).cellsOk = true :=
  State.cellsOk_orDeferred h hk

theorem State.cellsOk_waitFor {s : State} {p : Packet} {g : Group} {k : WaitKind}
    (h : s.cellsOk = true) : (s.waitFor p g k).cellsOk = true := by
  unfold State.waitFor
  split
  · exact State.cellsOk_blockHere h h
  · exact h

/-! ## Flags -/

theorem State.cellsOk_deliver {s : State} {p : Packet} {g : Group} {lat : Latency}
    {ws : List (ℕ × Reg × Word)} (h : s.cellsOk = true) :
    (s.deliver p g lat ws).cellsOk = true := by
  unfold State.deliver
  split
  · exact h
  · exact State.cellsOk_post h

theorem State.cellsOk_lanewise {s : State} {p : Packet} {g : Group} {lat : Latency}
    {f : ℕ → LaneRes} (h : s.cellsOk = true) : (s.lanewise p g lat f).cellsOk = true := by
  unfold State.lanewise
  dsimp only
  split
  · exact State.cellsOk_deliver h
  · split
    · exact h
    · exact State.cellsOk_trapAt h

theorem formed_laneInstr {s : State} {lat : Latency} {f : Group → ℕ → LaneRes}
    (h : s.cellsOk = true) : Formed (laneInstr s lat f) :=
  State.formed_issue (fun _ _ => State.cellsOk_lanewise h)

theorem State.cellsOk_suspend {s : State} {g : Group} {lat : Latency} (h : s.cellsOk = true) :
    (s.suspend g lat).cellsOk = true := by
  unfold State.suspend
  split <;> exact h

theorem formed_floatInstr {s : State} {lat : Latency} {f : Group → ℕ → LaneRes}
    (h : s.cellsOk = true) : Formed (floatInstr s lat f) :=
  State.formed_issue (fun _ _ => State.cellsOk_lanewise (State.cellsOk_suspend h))

/-! ## LaneInt -/

theorem formed_int1 {s : State} {f : Word → Word} {d a : Reg} {r : Route} (h : s.cellsOk = true) :
    Formed (int1 s f d a r) :=
  formed_laneInstr h

theorem formed_int2 {s : State} {f : Word → Word → Word} {d a : Reg} {r : Route} {b : Reg}
    {q : Route} (h : s.cellsOk = true) : Formed (int2 s f d a r b q) :=
  formed_laneInstr h

theorem formed_int3 {s : State} {f : Word → Word → Word → Word} {d a : Reg} {r : Route} {b : Reg}
    {q : Route} (h : s.cellsOk = true) : Formed (int3 s f d a r b q) :=
  formed_laneInstr h

theorem formed_intPair {s : State} {f : Word → Word → Word × Word} {d a : Reg} {r : Route} {b : Reg}
    {q : Route} (h : s.cellsOk = true) : Formed (intPair s f d a r b q) :=
  formed_laneInstr h

theorem formed_intImm {s : State} {f : Word → Word} {d a : Reg} (h : s.cellsOk = true) :
    Formed (intImm s f d a) :=
  formed_laneInstr h

theorem formed_execMad {d a : Reg} {r : Route} {b : Reg} {q : Route} {s : State}
    (h : s.cellsOk = true) : Formed (execMad d a r b q s) :=
  formed_int3 h

theorem formed_execSel {d a : Reg} {r : Route} {b : Reg} {q : Route} {s : State}
    (h : s.cellsOk = true) : Formed (execSel d a r b q s) :=
  formed_int3 h

theorem formed_execAddc {d a : Reg} {r : Route} {b : Reg} {q : Route} {s : State}
    (h : s.cellsOk = true) : Formed (execAddc d a r b q s) :=
  formed_intPair h

theorem formed_execSubb {d a : Reg} {r : Route} {b : Reg} {q : Route} {s : State}
    (h : s.cellsOk = true) : Formed (execSubb d a r b q s) :=
  formed_intPair h

theorem formed_execAddS {d a : Reg} {r : Route} {b : Reg} {q : Route} {s : State}
    (h : s.cellsOk = true) : Formed (execAddS d a r b q s) :=
  formed_int2 h

theorem formed_execAddUs {d a : Reg} {r : Route} {b : Reg} {q : Route} {s : State}
    (h : s.cellsOk = true) : Formed (execAddUs d a r b q s) :=
  formed_int2 h

theorem formed_execSubS {d a : Reg} {r : Route} {b : Reg} {q : Route} {s : State}
    (h : s.cellsOk = true) : Formed (execSubS d a r b q s) :=
  formed_int2 h

theorem formed_execSubUs {d a : Reg} {r : Route} {b : Reg} {q : Route} {s : State}
    (h : s.cellsOk = true) : Formed (execSubUs d a r b q s) :=
  formed_int2 h

theorem formed_execCmpEq {d a : Reg} {r : Route} {b : Reg} {q : Route} {s : State}
    (h : s.cellsOk = true) : Formed (execCmpEq d a r b q s) :=
  formed_int2 h

theorem formed_execCmpNe {d a : Reg} {r : Route} {b : Reg} {q : Route} {s : State}
    (h : s.cellsOk = true) : Formed (execCmpNe d a r b q s) :=
  formed_int2 h

theorem formed_execCmpLt {d a : Reg} {r : Route} {b : Reg} {q : Route} {s : State}
    (h : s.cellsOk = true) : Formed (execCmpLt d a r b q s) :=
  formed_int2 h

theorem formed_execCmpLe {d a : Reg} {r : Route} {b : Reg} {q : Route} {s : State}
    (h : s.cellsOk = true) : Formed (execCmpLe d a r b q s) :=
  formed_int2 h

theorem formed_execCmpGt {d a : Reg} {r : Route} {b : Reg} {q : Route} {s : State}
    (h : s.cellsOk = true) : Formed (execCmpGt d a r b q s) :=
  formed_int2 h

theorem formed_execCmpGe {d a : Reg} {r : Route} {b : Reg} {q : Route} {s : State}
    (h : s.cellsOk = true) : Formed (execCmpGe d a r b q s) :=
  formed_int2 h

theorem formed_execCmpLtu {d a : Reg} {r : Route} {b : Reg} {q : Route} {s : State}
    (h : s.cellsOk = true) : Formed (execCmpLtu d a r b q s) :=
  formed_int2 h

theorem formed_execCmpLeu {d a : Reg} {r : Route} {b : Reg} {q : Route} {s : State}
    (h : s.cellsOk = true) : Formed (execCmpLeu d a r b q s) :=
  formed_int2 h

theorem formed_execCmpGtu {d a : Reg} {r : Route} {b : Reg} {q : Route} {s : State}
    (h : s.cellsOk = true) : Formed (execCmpGtu d a r b q s) :=
  formed_int2 h

theorem formed_execCmpGeu {d a : Reg} {r : Route} {b : Reg} {q : Route} {s : State}
    (h : s.cellsOk = true) : Formed (execCmpGeu d a r b q s) :=
  formed_int2 h

theorem formed_vote {s : State} {f : List Word → Bool} {d a : Reg} {r : Route}
    (h : s.cellsOk = true) : Formed (vote s f d a r) :=
  State.formed_issue (fun _ _ => State.cellsOk_lanewise h)

theorem formed_execVoteAll {d a : Reg} {r : Route} {s : State} (h : s.cellsOk = true) :
    Formed (execVoteAll d a r s) :=
  formed_vote h

theorem formed_execVoteAny {d a : Reg} {r : Route} {s : State} (h : s.cellsOk = true) :
    Formed (execVoteAny d a r s) :=
  formed_vote h

theorem formed_execVoteUni {d a : Reg} {r : Route} {s : State} (h : s.cellsOk = true) :
    Formed (execVoteUni d a r s) :=
  formed_vote h

theorem formed_execAddImm {d a : Reg} {i : BitVec 13} {s : State} (h : s.cellsOk = true) :
    Formed (execAddImm d a i s) :=
  formed_intImm h

theorem formed_execAndImm {d a : Reg} {i : BitVec 13} {s : State} (h : s.cellsOk = true) :
    Formed (execAndImm d a i s) :=
  formed_intImm h

theorem formed_execOrImm {d a : Reg} {i : BitVec 13} {s : State} (h : s.cellsOk = true) :
    Formed (execOrImm d a i s) :=
  formed_intImm h

theorem formed_execXorImm {d a : Reg} {i : BitVec 13} {s : State} (h : s.cellsOk = true) :
    Formed (execXorImm d a i s) :=
  formed_intImm h

theorem formed_execShlImm {d a : Reg} {n : BitVec 5} {s : State} (h : s.cellsOk = true) :
    Formed (execShlImm d a n s) :=
  formed_intImm h

theorem formed_execShrImm {d a : Reg} {n : BitVec 5} {s : State} (h : s.cellsOk = true) :
    Formed (execShrImm d a n s) :=
  formed_intImm h

theorem formed_execSarImm {d a : Reg} {n : BitVec 5} {s : State} (h : s.cellsOk = true) :
    Formed (execSarImm d a n s) :=
  formed_intImm h

theorem formed_execRotImm {d a : Reg} {n : BitVec 5} {s : State} (h : s.cellsOk = true) :
    Formed (execRotImm d a n s) :=
  formed_intImm h

/-! ## Uniform -/

theorem State.cellsOk_answerAfter {s : State} {n : ℕ} {p : Packet} {g : Group}
    {ws : List (Reg × Word)} (h : s.cellsOk = true) : (s.answerAfter n p g ws).cellsOk = true :=
  State.cellsOk_deliver h

theorem State.cellsOk_answerWord {s : State} {p : Packet} {g : Group} {ws : List (Reg × Word)}
    (h : s.cellsOk = true) : (s.answerWord p g ws).cellsOk = true :=
  State.cellsOk_answerAfter h

theorem formed_uniformData {s : State} {d : Reg} {f : (Reg → Word) → Word} (h : s.cellsOk = true) :
    Formed (uniformData s d f) :=
  State.formed_issue (fun _ _ => State.cellsOk_deliver h)

theorem formed_execGMov {d a : Reg} {s : State} (h : s.cellsOk = true) : Formed (execGMov d a s) :=
  formed_uniformData h

theorem formed_execGAdd {d a b : Reg} {s : State} (h : s.cellsOk = true) :
    Formed (execGAdd d a b s) :=
  formed_uniformData h

theorem formed_execGSub {d a b : Reg} {s : State} (h : s.cellsOk = true) :
    Formed (execGSub d a b s) :=
  formed_uniformData h

theorem formed_execGMul {d a b : Reg} {s : State} (h : s.cellsOk = true) :
    Formed (execGMul d a b s) :=
  formed_uniformData h

theorem formed_execGMulh {d a b : Reg} {s : State} (h : s.cellsOk = true) :
    Formed (execGMulh d a b s) :=
  formed_uniformData h

theorem formed_execGMulhU {d a b : Reg} {s : State} (h : s.cellsOk = true) :
    Formed (execGMulhU d a b s) :=
  formed_uniformData h

theorem formed_execGAnd {d a b : Reg} {s : State} (h : s.cellsOk = true) :
    Formed (execGAnd d a b s) :=
  formed_uniformData h

theorem formed_execGOr {d a b : Reg} {s : State} (h : s.cellsOk = true) :
    Formed (execGOr d a b s) :=
  formed_uniformData h

theorem formed_execGXor {d a b : Reg} {s : State} (h : s.cellsOk = true) :
    Formed (execGXor d a b s) :=
  formed_uniformData h

theorem formed_execGShl {d a b : Reg} {s : State} (h : s.cellsOk = true) :
    Formed (execGShl d a b s) :=
  formed_uniformData h

theorem formed_execGShr {d a b : Reg} {s : State} (h : s.cellsOk = true) :
    Formed (execGShr d a b s) :=
  formed_uniformData h

theorem formed_execGSar {d a b : Reg} {s : State} (h : s.cellsOk = true) :
    Formed (execGSar d a b s) :=
  formed_uniformData h

theorem formed_execGSel {d a b : Reg} {s : State} (h : s.cellsOk = true) :
    Formed (execGSel d a b s) :=
  formed_uniformData h

theorem formed_execGMin {d a b : Reg} {s : State} (h : s.cellsOk = true) :
    Formed (execGMin d a b s) :=
  formed_uniformData h

theorem formed_execGMinU {d a b : Reg} {s : State} (h : s.cellsOk = true) :
    Formed (execGMinU d a b s) :=
  formed_uniformData h

theorem formed_execGMax {d a b : Reg} {s : State} (h : s.cellsOk = true) :
    Formed (execGMax d a b s) :=
  formed_uniformData h

theorem formed_execGMaxU {d a b : Reg} {s : State} (h : s.cellsOk = true) :
    Formed (execGMaxU d a b s) :=
  formed_uniformData h

theorem formed_execGCmp {d a b : Reg} {c : Cond} {s : State} (h : s.cellsOk = true) :
    Formed (execGCmp d a b c s) :=
  formed_uniformData h

theorem formed_execGLi {d : Reg} {i : BitVec 13} {s : State} (h : s.cellsOk = true) :
    Formed (execGLi d i s) :=
  formed_uniformData h

theorem formed_execGLui {d a : Reg} {i : BitVec 13} {s : State} (h : s.cellsOk = true) :
    Formed (execGLui d a i s) :=
  formed_uniformData h

theorem formed_execGAddImm {d a : Reg} {i : BitVec 13} {s : State} (h : s.cellsOk = true) :
    Formed (execGAddImm d a i s) :=
  formed_uniformData h

theorem formed_execGAndImm {d a : Reg} {i : BitVec 13} {s : State} (h : s.cellsOk = true) :
    Formed (execGAndImm d a i s) :=
  formed_uniformData h

theorem formed_execGOrImm {d a : Reg} {i : BitVec 13} {s : State} (h : s.cellsOk = true) :
    Formed (execGOrImm d a i s) :=
  formed_uniformData h

theorem formed_execGXorImm {d a : Reg} {i : BitVec 13} {s : State} (h : s.cellsOk = true) :
    Formed (execGXorImm d a i s) :=
  formed_uniformData h

theorem formed_execGNop {s : State} (h : s.cellsOk = true) : Formed (execGNop s) :=
  State.formed_issue (fun _ _ => h)

theorem State.cellsOk_uniformJump {s : State} {p : Packet} {g : Group} {taken : Bool}
    {target : DWord} {ws : List (Reg × Word)} (h : s.cellsOk = true) :
    (s.uniformJump p g taken target ws).cellsOk = true := by
  unfold State.uniformJump
  split
  · split
    · exact State.cellsOk_trapAt h
    · exact h
  · exact State.cellsOk_deliver h

theorem formed_execGYield {s : State} (h : s.cellsOk = true) : Formed (execGYield s) :=
  State.formed_issue (fun _ _ => h)

theorem formed_execGLanes {a : Reg} {s : State} (h : s.cellsOk = true) : Formed (execGLanes a s) :=
  State.formed_issue (fun _ _ => h)

theorem formed_execGEret {s : State} (h : s.cellsOk = true) : Formed (execGEret s) := by
  unfold execGEret
  refine State.formed_issue fun _ _ => ?_
  split
  · exact State.cellsOk_trapAt h
  · split
    · exact State.cellsOk_trapAt h
    · exact h

theorem formed_execGFeat {d : Reg} {n : BitVec 13} {s : State} (h : s.cellsOk = true) :
    Formed (execGFeat d n s) := by
  unfold execGFeat
  refine State.formed_issue fun _ _ => ?_
  split
  · exact State.cellsOk_trapAt h
  · exact State.cellsOk_answerAfter h

theorem formed_execGSetroute {e : BitVec 2} {k : RouteKind} {q : BitVec 6} {s : State}
    (h : s.cellsOk = true) : Formed (execGSetroute e k q s) := by
  unfold execGSetroute
  refine State.formed_issue fun _ _ => ?_
  split
  · exact State.cellsOk_trapAt h
  · exact h

theorem State.cellsOk_laneJump {s : State} {p : Packet} {g : Group}
    {goals : List (ℕ × DWord × Bool)} {after : State → State} (h : s.cellsOk = true)
    (hafter : ∀ (a : State), a.cellsOk = true → (after a).cellsOk = true) :
    (s.laneJump p g goals after).cellsOk = true := by
  unfold State.laneJump
  dsimp only
  split
  · exact State.cellsOk_trapAt h
  · exact hafter _ h

theorem State.cellsOk_laneBranch {s : State} {p : Packet} {g : Group} {c : Reg} {f : BitVec 19}
    {taken : Word → Bool} (h : s.cellsOk = true) : (s.laneBranch p g c f taken).cellsOk = true :=
  State.cellsOk_laneJump h (fun _ hs => hs)

theorem formed_execRejoin {a : Reg} {s : State} (h : s.cellsOk = true) : Formed (execRejoin a s) :=
  State.formed_issue (fun _ _ => h)

/-! ## Csr -/

theorem formed_execGCsrr {d : Reg} {c : BitVec 13} {s : State} (h : s.cellsOk = true) :
    Formed (execGCsrr d c s) := by
  unfold execGCsrr
  refine State.formed_issue fun _ _ => ?_
  split
  · exact State.cellsOk_trapAt h
  · exact State.cellsOk_deliver h

theorem formed_csrWriteInstr {s : State} {op : CsrOp} {a : Reg} {c : BitVec 13}
    (h : s.cellsOk = true) : Formed (csrWriteInstr s op a c) := by
  unfold csrWriteInstr
  refine State.formed_issue fun _ _ => ?_
  dsimp only
  split
  · exact State.cellsOk_trapAt h
  · exact h

/-! ## Access -/

theorem State.cellsOk_flushRange {s : State} {core : Option ℕ} {pa n : ℕ} (h : s.cellsOk = true) :
    (s.flushRange core pa n).cellsOk = true := by
  unfold State.flushRange
  dsimp only
  split
  · exact h
  · split
    · exact h
    · exact State.cellsOk_frame (State.cellsOk_bringHome _ _ _ h) rfl rfl

/-! ## LaneFloat -/

theorem formed_fp1 {s : State} {w : Bool} {lat : Latency} {f : FFmt → RMode → FVal → FRes}
    {d a : Reg} {r : Route} (h : s.cellsOk = true) : Formed (fp1 s w lat f d a r) :=
  formed_floatInstr h

theorem formed_fp2 {s : State} {w : Bool} {lat : Latency} {f : FFmt → RMode → FVal → FVal → FRes}
    {d a : Reg} {r : Route} {b : Reg} {q : Route} (h : s.cellsOk = true) :
    Formed (fp2 s w lat f d a r b q) :=
  formed_floatInstr h

theorem formed_fp3 {s : State} {w : Bool} {d a : Reg} {r : Route} {b : Reg} {q : Route}
    (h : s.cellsOk = true) : Formed (fp3 s w d a r b q) :=
  formed_floatInstr h

theorem formed_fpMinMax {s : State} {w wantMax : Bool} {d a : Reg} {r : Route} {b : Reg} {q : Route}
    (h : s.cellsOk = true) : Formed (fpMinMax s w wantMax d a r b q) :=
  formed_floatInstr h

theorem formed_fpRound {s : State} {w : Bool} {mode : Rounding} {d a : Reg} {r : Route}
    (h : s.cellsOk = true) : Formed (fpRound s w mode d a r) :=
  formed_floatInstr h

theorem formed_fpCompare {s : State} {w : Bool} {c : FCond} {d a : Reg} {r : Route} {b : Reg}
    {q : Route} (h : s.cellsOk = true) : Formed (fpCompare s w c d a r b q) :=
  formed_floatInstr h

theorem formed_signOp {s : State} {f : Word → Word → Word} {d a : Reg} {r : Route} {b : Reg}
    {q : Route} (h : s.cellsOk = true) : Formed (signOp s f d a r b q) :=
  formed_floatInstr h

theorem formed_execFsub {d a : Reg} {r : Route} {b : Reg} {q : Route} {s : State}
    (h : s.cellsOk = true) : Formed (execFsub d a r b q s) :=
  formed_fp2 h

theorem formed_execFrcp {d a : Reg} {r : Route} {s : State} (h : s.cellsOk = true) :
    Formed (execFrcp d a r s) :=
  formed_fp1 h

theorem formed_execFsgnCpy {d a : Reg} {r : Route} {b : Reg} {q : Route} {s : State}
    (h : s.cellsOk = true) : Formed (execFsgnCpy d a r b q s) :=
  formed_signOp h

theorem formed_execFsgnXor {d a : Reg} {r : Route} {b : Reg} {q : Route} {s : State}
    (h : s.cellsOk = true) : Formed (execFsgnXor d a r b q s) :=
  formed_signOp h

theorem formed_execDsub {d a : Reg} {r : Route} {b : Reg} {q : Route} {s : State}
    (h : s.cellsOk = true) : Formed (execDsub d a r b q s) :=
  formed_fp2 h

theorem formed_packed {s : State} {f : Rounding → ℕ → ℕ → ℕ → FRes} {d a : Reg} {r : Route}
    {b : Reg} {q : Route} (h : s.cellsOk = true) : Formed (packed s f d a r b q) :=
  formed_floatInstr h

theorem formed_convert {s : State} {t u : Fmt} {mode : Option Rounding} {sat : Bool} {d a : Reg}
    {r : Route} (h : s.cellsOk = true) : Formed (convert s t u mode sat d a r) :=
  formed_floatInstr h

theorem formed_packTwo {s : State} {t : Fmt} {n : ℕ} {sat : Bool} {d a : Reg} {r : Route} {b : Reg}
    {q : Route} (h : s.cellsOk = true) : Formed (packTwo s t n sat d a r b q) :=
  formed_floatInstr h

theorem formed_packBytes {s : State} {f : Word → ℕ} {d a : Reg} {r : Route} {b : Reg} {q : Route}
    (h : s.cellsOk = true) : Formed (packBytes s f d a r b q) :=
  formed_floatInstr h

theorem formed_unpackTo {s : State} {n w : ℕ} {f : Bool → ℕ → FRes} {d a : Reg} {r : Route}
    (h : s.cellsOk = true) : Formed (unpackTo s n w f d a r) :=
  formed_floatInstr h

theorem formed_execPkI8 {d a : Reg} {r : Route} {b : Reg} {q : Route} {s : State}
    (h : s.cellsOk = true) : Formed (execPkI8 d a r b q s) :=
  formed_packBytes h

theorem formed_execPkI8S {d a : Reg} {r : Route} {b : Reg} {q : Route} {s : State}
    (h : s.cellsOk = true) : Formed (execPkI8S d a r b q s) :=
  formed_packBytes h

theorem formed_execUnpkF16 {d a : Reg} {r : Route} {s : State} (h : s.cellsOk = true) :
    Formed (execUnpkF16 d a r s) :=
  formed_unpackTo h

theorem formed_execUnpkBf16 {d a : Reg} {r : Route} {s : State} (h : s.cellsOk = true) :
    Formed (execUnpkBf16 d a r s) :=
  formed_unpackTo h

theorem formed_execUnpkE4m3 {d a : Reg} {r : Route} {s : State} (h : s.cellsOk = true) :
    Formed (execUnpkE4m3 d a r s) :=
  formed_unpackTo h

theorem formed_execUnpkE5m2 {d a : Reg} {r : Route} {s : State} (h : s.cellsOk = true) :
    Formed (execUnpkE5m2 d a r s) :=
  formed_unpackTo h

theorem formed_execUnpkI8 {d a : Reg} {r : Route} {s : State} (h : s.cellsOk = true) :
    Formed (execUnpkI8 d a r s) :=
  formed_unpackTo h

theorem formed_packBq4 {s : State} {type : ℕ} {d a : Reg} {r : Route} (h : s.cellsOk = true) :
    Formed (packBq4 s type d a r) := by
  unfold packBq4
  refine State.formed_issue fun _ _ => ?_
  dsimp only
  split
  · exact State.cellsOk_trapAt h
  · exact State.cellsOk_lanewise (State.cellsOk_suspend h)

theorem formed_execUnpkBq4 {d a : Reg} {s : State} (h : s.cellsOk = true) :
    Formed (execUnpkBq4 d a s) := by
  unfold execUnpkBq4
  refine State.formed_issue fun _ _ => ?_
  dsimp only
  split
  · exact State.cellsOk_trapAt h
  · split
    · exact State.cellsOk_trapAt h
    · exact State.cellsOk_lanewise (State.cellsOk_suspend h)

/-! ## LaneStream -/

theorem formed_agedInstr {s : State} {sels : Group → ℕ → List (Fin 16 × ℕ)}
    {f : Group → ℕ → LaneRes} (h : s.cellsOk = true) : Formed (agedInstr s sels f) := by
  unfold agedInstr
  refine State.formed_issue fun _ _ => ?_
  dsimp only
  split
  · exact State.cellsOk_trapAt h
  · exact State.cellsOk_lanewise (State.cellsOk_suspend h)

end Sys2Proof.Machine
end

section
/-! SUPPORT. The canonical form through messages, tiles, the accesses of lanes, issue and fences (R383, R376). -/
namespace Sys2Proof.Machine

/-! ## Messages -/

theorem State.cellsOk_transmit {s : State} {port : ℕ} {hd : FlitHdr} {m : FlitMsg}
    (h : s.cellsOk = true) : (s.transmit port hd m).cellsOk = true := by
  unfold State.transmit
  dsimp only
  split <;> exact h

theorem State.cellsOk_forward {s : State} {hd : FlitHdr} {m : FlitMsg} (h : s.cellsOk = true) :
    (s.forward hd m).cellsOk = true := by
  unfold State.forward
  split
  · exact h
  · exact State.cellsOk_transmit h

theorem State.cellsOk_sendMsg {s : State} {dest tag : ℕ} {m : FlitMsg} (h : s.cellsOk = true) :
    (s.sendMsg dest tag m).cellsOk = true := by
  unfold State.sendMsg
  dsimp only
  split
  · exact h
  · exact State.cellsOk_forward h

theorem State.cellsOk_request {s : State} {dest : ℕ} {m : FlitMsg} {owner : ReqOwner} {launch : ℕ}
    (h : s.cellsOk = true) : (s.request dest m owner launch).2.cellsOk = true := by
  unfold State.request
  dsimp only
  split
  · exact State.cellsOk_requestKill h
  · exact State.cellsOk_sendMsg h

theorem State.cellsOk_answered {s : State} {tag : ℕ} (h : s.cellsOk = true) :
    (s.answered tag).cellsOk = true :=
  h

theorem State.cellsOk_giveBack {s : State} {launch : ℕ} {root : Option RootAddr} {amount : ℕ}
    (h : s.cellsOk = true) : (s.giveBack launch root amount).cellsOk = true := by
  unfold State.giveBack
  split
  · exact h
  · split
    · exact h
    · exact State.cellsOk_request h

theorem State.cellsOk_sendInvoke {s : State} {launch device : ℕ} {target : Option DWord}
    {m : InvokeMsg} (h : s.cellsOk = true) :
    (s.sendInvoke launch device target m).cellsOk = true := by
  unfold State.sendInvoke
  split
  · exact State.cellsOk_giveBack (State.cellsOk_sendMsg h)
  · split <;> exact State.cellsOk_sendMsg h

theorem State.cellsOk_openRecord {s : State} {asid : ℕ} {r : LaunchRec} (h : s.cellsOk = true) :
    (s.openRecord asid r).cellsOk = true := by
  unfold State.openRecord
  split
  · exact h
  · exact State.cellsOk_writeLocal _ _ _ _ h

theorem State.cellsOk_enterLaunch {s : State} {r : LaunchRec} {k : Kernel} {asid die : ℕ}
    {origin : Origin} {entry : Option ℕ} {weight : ℕ} {root : Option RootAddr} {depth : ℕ}
    (h : s.cellsOk = true) :
    (s.enterLaunch r k asid die origin entry weight root depth).2.cellsOk = true := by
  unfold State.enterLaunch
  refine State.cellsOk_setLaunch ?_
  dsimp only
  split
  · exact State.cellsOk_openRecord h
  · exact State.cellsOk_openRecord h
  · exact h
  · exact h
  · exact h

/-! ## Tiles -/

theorem State.cellsOk_dropIfFailing {s : State} {core k : Option ℕ} {l : Loc} {n : ℕ}
    (h : s.cellsOk = true) : (s.dropIfFailing core k l n).cellsOk = true := by
  unfold State.dropIfFailing
  split
  · exact h
  · split
    · exact State.cellsOk_dropTile _ _ h
    · exact h

theorem State.cellsOk_endLater {s : State} {k : ℕ} {c : Cause} (h : s.cellsOk = true) :
    (s.endLater k c).cellsOk = true := by
  unfold State.endLater
  dsimp only
  split <;> exact h

theorem State.cellsOk_startOne {s : State} {k depth : ℕ} {charged : Option ℕ} {die : ℕ}
    (h : s.cellsOk = true) : (s.startOne k depth charged die).cellsOk = true := by
  unfold State.startOne
  dsimp only
  split
  · exact State.cellsOk_endLater h
  · split
    · exact State.cellsOk_endLater h
    · split
      · exact State.cellsOk_endLater h
      · split
        · exact State.cellsOk_endLater h
        · split
          · split <;> exact h
          · refine State.cellsOk_setTile _ _ _ (State.cellsOk_enterLaunch ?_)
            split
            · exact h
            · exact State.cellsOk_buildBlock _ _ _ h

theorem State.cellsOk_startBuilds {s : State} {charged : Option ℕ} {die x x1 : ℕ}
    {x2 : List (ℕ × ℕ)} (h : s.cellsOk = true) :
    (s.startBuilds charged die x x1 x2).cellsOk = true := by
  induction x generalizing s x1 x2 with
  | zero =>
    unfold State.startBuilds
    exact h
  | succ n ih =>
    unfold State.startBuilds
    refine State.cellsOk_ite ?_ ?_
    · refine State.cellsOk_foldl_fst (fun _ _ hs => ?_) h
      dsimp only
      split
      · exact State.cellsOk_startOne hs
      · exact hs
    · refine ih (State.cellsOk_foldl_fst (fun _ _ hs => ?_) h)
      dsimp only
      split
      · exact State.cellsOk_startOne hs
      · exact hs

theorem State.cellsOk_meetTile {s : State} {c : Ctx} {k : ℕ} (h : s.cellsOk = true) :
    (s.meetTile c k).cellsOk = true := by
  unfold State.meetTile
  dsimp only
  split
  · exact h
  · split
    · exact h
    · split
      · exact State.cellsOk_endLater h
      · exact h
  · refine State.cellsOk_ite ?_ ?_
    · split
      · exact State.cellsOk_endLater h
      · exact h
    · split
      · exact State.cellsOk_endLater h
      · exact State.cellsOk_startBuilds h

theorem State.cellsOk_tileWaits {s : State} {p : Packet} {g : Group} {c : Ctx} {k : ℕ} {drop : Bool}
    (h : s.cellsOk = true) : (s.tileWaits p g c k drop).cellsOk = true := by
  unfold State.tileWaits
  refine State.cellsOk_waitFor (State.cellsOk_meetTile ?_)
  split
  · exact State.cellsOk_dropTile _ _ h
  · exact h

/-! ## LaneAccess -/

theorem State.cellsOk_sendAll {s : State} {owner : ReqOwner} {launch : ℕ}
    {f : ℕ → List (ℕ × ℕ) → FlitMsg} {x : List (ℕ × List (ℕ × ℕ))} (h : s.cellsOk = true) :
    (s.sendAll owner launch f x).2.cellsOk = true := by
  induction x generalizing s with
  | nil =>
    unfold State.sendAll
    exact h
  | cons x r ih =>
    unfold State.sendAll
    split
    next he => exact ih (State.cellsOk_snd he (State.cellsOk_request h) :)

theorem State.kept_checkAll {s : State} {p : Packet} {g : Group} {as : List LaneAcc}
    {blocks : List (ℕ × DWord)} {ask : ℕ → List (ℕ × ℕ) → FlitMsg} (h : s.cellsOk = true) :
    KeptCheck (s.checkAll p g as blocks ask) := by
  unfold State.checkAll
  dsimp only
  split
  · exact State.cellsOk_blockHere h (State.cellsOk_sendAll h)
  · split
    · exact State.cellsOk_trapAt h
    · exact h

theorem State.cellsOk_addEntry {s : State} {gid : ℕ} {e : SbEntry} (h : s.cellsOk = true) :
    (s.addEntry gid e).cellsOk = true :=
  State.cellsOk_modGroup h

theorem State.cellsOk_defer {s : State} {gid : ℕ} {d : Deferred} (h : s.cellsOk = true) :
    (s.defer gid d).cellsOk = true :=
  State.cellsOk_modGroup h

theorem State.cellsOk_performStore {s : State} {core : Option ℕ} {st : PendingStore}
    (h : s.cellsOk = true) : (s.performStore core st).cellsOk = true := by
  unfold State.performStore
  dsimp only
  split
  · split
    · refine State.cellsOk_foldl_of (State.cellsOk_putTagged _ _ _ _ _ _ h) fun _ _ hs => ?_
      split <;> exact hs
    · exact State.cellsOk_putTagged _ _ _ _ _ _ h
  · exact State.cellsOk_putTagged _ _ _ _ _ _ h

theorem State.cellsOk_storeNow {s : State} {c : Ctx} {st : PendingStore} (h : s.cellsOk = true) :
    (s.storeNow c st).cellsOk = true := by
  unfold State.storeNow
  dsimp only
  split
  · split
    · exact State.cellsOk_meetTile h
    · exact h
  · split
    · exact h
    · split
      · exact h
      · exact State.cellsOk_performStore h

theorem State.cellsOk_closeSegment {s : State} {gid : ℕ} (h : s.cellsOk = true) :
    (s.closeSegment gid).cellsOk = true := by
  unfold State.closeSegment
  dsimp only
  split <;> exact h

theorem State.cellsOk_atomStep {s : State} {c : Ctx} {op : AtomOp} {l : Loc} {priv : Bool}
    {args : List Word} (h : s.cellsOk = true) : (s.atomStep c op l priv args).2.cellsOk = true := by
  unfold State.atomStep
  dsimp only
  split
  · exact h
  · exact State.cellsOk_putTagged _ _ _ _ _ _ h

theorem State.cellsOk_atomAll {s : State} {c : Ctx} {op : AtomOp} {x : List HeldLane}
    (h : s.cellsOk = true) : (s.atomAll c op x).2.2.2.cellsOk = true := by
  induction x generalizing s with
  | nil =>
    unfold State.atomAll
    exact h
  | cons x r ih =>
    unfold State.atomAll
    dsimp only
    split
    · refine ih ?_
      split
      · exact State.cellsOk_meetTile (State.cellsOk_dropIfFailing h)
      · exact State.cellsOk_dropIfFailing h
    · split <;> exact ih (State.cellsOk_atomStep h)

/-! ## LaneMemory -/

theorem State.cellsOk_loadPass {s : State} {c : Ctx} {raw : Bool} {f : LoadForm} {wait : Bool}
    {x : List (ℕ × Place)} (h : s.cellsOk = true) :
    (s.loadPass c raw f wait x).2.cellsOk = true := by
  induction x generalizing s with
  | nil =>
    unfold State.loadPass
    exact h
  | cons x r ih =>
    unfold State.loadPass
    dsimp only
    split
    · exact ih h
    · refine State.cellsOk_ite_snd ?_ ?_
      · refine ih ?_
        split
        · refine State.cellsOk_meetTile ?_
          split
          · exact State.cellsOk_dropTile _ _ h
          · exact h
        · split <;> exact h
      · split
        · refine ih ?_
          split
          · split
            · exact State.cellsOk_dropTile _ _ h
            · exact h
          · exact h
        · refine ih ?_
          split
          · split
            · exact State.cellsOk_dropTile _ _ h
            · exact h
          · exact h
        · refine ih ?_
          split
          · split
            · exact State.cellsOk_dropTile _ _ h
            · exact h
          · exact h

theorem State.cellsOk_deferAll {s : State} {gid : ℕ} {ds : List Deferred} (h : s.cellsOk = true) :
    (s.deferAll gid ds).cellsOk = true :=
  State.cellsOk_foldl_of h (fun _ _ hs => State.cellsOk_defer hs)

theorem formed_loadInstr {s : State} {raw : Bool} {d a : Reg} {f : LoadForm} {off : BitVec 9}
    (h : s.cellsOk = true) : Formed (loadInstr s raw d a f off) := by
  unfold loadInstr
  refine State.formed_issue fun _ _ => ?_
  dsimp only
  split
  next he => exact (kept_of_eq he (State.kept_checkAll h) :)
  next he =>
    exact State.cellsOk_deferAll (State.cellsOk_addEntry (State.cellsOk_loadPass (kept_of_eq he
      (State.kept_checkAll h) :)))

theorem State.cellsOk_sendStores {s : State} {c : Ctx} {enc : Option StoreForm}
    {data : List (ℕ × List Word)} {n : ℕ} {x : List (ℕ × List (ℕ × ℕ))} (h : s.cellsOk = true) :
    (s.sendStores c enc data n x).cellsOk = true := by
  induction x generalizing s with
  | nil =>
    unfold State.sendStores
    exact h
  | cons x r ih =>
    unfold State.sendStores
    exact ih (State.cellsOk_request h)

theorem State.cellsOk_storeLanes {s : State} {staging : Bool} {inst : ℕ} {c : Ctx} {p : Packet}
    {g : Group} {sh : Shape} {data : List (ℕ × List Word)} {all x : List (ℕ × Place)}
    (h : s.cellsOk = true) : (s.storeLanes staging inst c p g sh data all x).cellsOk = true := by
  induction x generalizing s with
  | nil =>
    unfold State.storeLanes
    exact h
  | cons x r ih =>
    unfold State.storeLanes
    refine ih ?_
    dsimp only
    split
    · exact h
    · exact State.cellsOk_storeNow h

theorem State.cellsOk_sendAsks {s : State} {gid : ℕ} {c : Ctx} {op : AtomOp}
    {asks : List (ℕ × AtomPart)} (h : s.cellsOk = true) :
    (s.sendAsks gid c op asks).2.cellsOk = true :=
  State.cellsOk_sendAll h

theorem State.cellsOk_performAtoms {s : State} {gid id : ℕ} (h : s.cellsOk = true) :
    (s.performAtoms gid id).cellsOk = true := by
  unfold State.performAtoms
  dsimp only
  split
  · exact h
  · split
    · exact h
    · split
      · exact h
      · exact h
      · exact h
      · exact h
      · exact h
      · exact State.cellsOk_deferAll (State.cellsOk_modGroup (State.cellsOk_sendAsks
          (State.cellsOk_atomAll h)))

theorem State.cellsOk_applyStaged {s : State} {x : Staged} (h : s.cellsOk = true) :
    (s.applyStaged x).cellsOk = true := by
  unfold State.applyStaged
  split
  · exact State.cellsOk_performStore h
  · exact State.cellsOk_request h
  · exact State.cellsOk_performAtoms h
  · exact State.cellsOk_sendInvoke h

theorem State.cellsOk_applyWhere {s : State} {f : Staged → Bool} (h : s.cellsOk = true) :
    (s.applyWhere f).cellsOk = true :=
  State.cellsOk_foldl_of h (fun _ _ hs => State.cellsOk_applyStaged hs)

theorem State.cellsOk_stageRemote {s : State} {p : Packet} {g : Group} {c : Ctx}
    {enc : Option StoreForm} {data : List (ℕ × List Word)} {n : ℕ} {rem : List (ℕ × List (ℕ × ℕ))}
    (h : s.cellsOk = true) : (s.stageRemote p g c enc data n rem).cellsOk = true :=
  State.cellsOk_foldl_of h (fun _ _ hs => hs)

theorem State.cellsOk_withRoom {s : State} {p : Packet} {g : Group}
    {k : Bool → Group → State → State} (h : s.cellsOk = true) (hk : ∀ (a : Bool) (a_1 : Group)
    (a_2 : State), a_2.cellsOk = true → (k a a_1 a_2).cellsOk = true) :
    (s.withRoom p g k).cellsOk = true := by
  unfold State.withRoom
  dsimp only
  split
  · exact hk _ _ _ h
  · split
    · exact hk _ _ _ h
    · split
      · exact State.cellsOk_waitFor h
      · split
        · exact State.cellsOk_tileWaits h
        · exact hk _ _ _ (State.cellsOk_applyWhere h)

theorem formed_storeInstr {s : State} {raw : Bool} {d a : Reg} {f : StoreForm} {off : BitVec 9}
    (h : s.cellsOk = true) : Formed (storeInstr s raw d a f off) := by
  unfold storeInstr
  refine State.formed_issue fun _ _ => ?_
  dsimp only
  split
  next he => exact (kept_of_eq he (State.kept_checkAll h) :)
  next he =>
    refine State.cellsOk_withRoom (kept_of_eq he (State.kept_checkAll h) :) fun _ _ _ hs => ?_
    refine State.cellsOk_modGroup ?_
    split
    · exact State.cellsOk_stageRemote (State.cellsOk_storeLanes hs)
    · exact State.cellsOk_sendStores (State.cellsOk_storeLanes hs)

theorem formed_execPrefetchL2 {a : Reg} {f : BitVec 9} {s : State} (h : s.cellsOk = true) :
    Formed (execPrefetchL2 a f s) :=
  State.formed_issue (fun _ _ => h)

theorem formed_execPrefetchL1 {a : Reg} {f : BitVec 9} {s : State} (h : s.cellsOk = true) :
    Formed (execPrefetchL1 a f s) :=
  State.formed_issue (fun _ _ => h)

theorem formed_atomInstr {s : State} {ordered : Bool} {op : AtomOp} {d a : Reg} {off : BitVec 9}
    (h : s.cellsOk = true) : Formed (atomInstr s ordered op d a off) := by
  unfold atomInstr
  refine State.formed_issue fun _ _ => ?_
  dsimp only
  split
  next he => exact (kept_of_eq he (State.kept_checkAll h) :)
  next he =>
    refine State.cellsOk_ite ?_ ?_
    · refine State.cellsOk_withRoom (kept_of_eq he (State.kept_checkAll h) :) fun _ _ _ hs => ?_
      refine State.cellsOk_ite ?_ ?_
      · refine State.cellsOk_modGroup (State.cellsOk_closeSegment ?_)
        split
        · exact State.cellsOk_addEntry hs
        · refine State.cellsOk_deferAll (State.cellsOk_addEntry ?_)
          split
          · exact State.cellsOk_sendAsks hs
          · exact State.cellsOk_atomAll (State.cellsOk_sendAsks hs)
      · split
        · exact State.cellsOk_addEntry hs
        · refine State.cellsOk_deferAll (State.cellsOk_addEntry ?_)
          split
          · exact State.cellsOk_sendAsks hs
          · exact State.cellsOk_atomAll (State.cellsOk_sendAsks hs)
    · refine State.cellsOk_ite ?_ ?_
      · refine State.cellsOk_modGroup (State.cellsOk_closeSegment ?_)
        split
        · exact State.cellsOk_addEntry (kept_of_eq he (State.kept_checkAll h) :)
        · refine State.cellsOk_deferAll (State.cellsOk_addEntry ?_)
          split
          · exact State.cellsOk_sendAsks (kept_of_eq he (State.kept_checkAll h) :)
          · exact State.cellsOk_atomAll (State.cellsOk_sendAsks (kept_of_eq he (State.kept_checkAll
              h) :))
      · split
        · exact State.cellsOk_addEntry (kept_of_eq he (State.kept_checkAll h) :)
        · refine State.cellsOk_deferAll (State.cellsOk_addEntry ?_)
          split
          · exact State.cellsOk_sendAsks (kept_of_eq he (State.kept_checkAll h) :)
          · exact State.cellsOk_atomAll (State.cellsOk_sendAsks (kept_of_eq he (State.kept_checkAll
              h) :))

/-! ## Issue -/

theorem State.cellsOk_fetchWaits {s : State} {gid : ℕ} {g : Group} {k : ℕ} {pc : DWord}
    (h : s.cellsOk = true) : (s.fetchWaits gid g k pc).cellsOk = true :=
  State.cellsOk_modGroup (State.cellsOk_meetTile h)

theorem formed_execIssueCycle {core : ℕ} {s : State} (h : s.cellsOk = true) :
    Formed (execIssueCycle core s) := by
  unfold execIssueCycle
  split
  · split
    · exact State.cellsOk_fetchWaits h
    · split
      · exact h
      · trivial
  · trivial
  · trivial

theorem State.cellsOk_endPacket {s : State} {p : Packet} (h : s.cellsOk = true) :
    (s.endPacket p).cellsOk = true := by
  unfold State.endPacket
  refine State.cellsOk_modGroup ?_
  split
  · exact State.cellsOk_settleTrap h
  · split
    · exact State.cellsOk_settleTrap h
    · exact h

theorem State.cellsOk_afterSlot {s : State} (h : s.cellsOk = true) :
    s.afterSlot.cellsOk = true := by
  unfold State.afterSlot
  split
  · exact h
  · split
    · exact State.cellsOk_endPacket h
    · exact h

theorem State.cellsOk_charge {s : State} {core : ℕ} (h : s.cellsOk = true) :
    (s.charge core).cellsOk = true := by
  unfold State.charge
  split
  · exact h
  · exact State.cellsOk_modLaunch h

theorem State.cellsOk_endCycle {s : State} (h : s.cellsOk = true) : s.endCycle.cellsOk = true := by
  have hc : ((List.range Config.cores).foldl State.charge s).cellsOk = true :=
    State.cellsOk_foldl_of h fun _ _ hs => State.cellsOk_charge hs
  unfold State.endCycle
  generalize (List.range Config.cores).foldl State.charge s = t at hc ⊢
  exact hc

theorem formed_execRejoinStall {gid : ℕ} {s : State} (h : s.cellsOk = true) :
    Formed (execRejoinStall gid s) := by
  unfold execRejoinStall
  split
  · trivial
  · split
    · trivial
    · exact State.cellsOk_takeTrap h

theorem formed_execScoreboardedResult {gid id : ℕ} {s : State} (h : s.cellsOk = true) :
    Formed (execScoreboardedResult gid id s) := by
  unfold execScoreboardedResult
  dsimp only
  split
  · trivial
  · split
    · trivial
    · split
      · trivial
      · split
        · exact h
        · split
          · trivial
          · split
            · split
              · exact State.cellsOk_meetTile (State.cellsOk_dropTile _ _ h)
              · trivial
            · exact State.cellsOk_deferAll h
        · trivial
        · trivial
        · trivial
        · trivial

/-! ## Fences -/

theorem State.cellsOk_closeFor {s : State} {gid : ℕ} {wait : Bool} (h : s.cellsOk = true) :
    (s.closeFor gid wait).cellsOk = true := by
  unfold State.closeFor
  split
  · exact h
  · split
    · exact State.cellsOk_modGroup (State.cellsOk_closeSegment h)
    · exact h

theorem formed_fenceInstr {s : State} {c : Scope} {release acquire : Bool} (h : s.cellsOk = true) :
    Formed (fenceInstr s c release acquire) := by
  unfold fenceInstr
  refine State.formed_issue fun _ _ => ?_
  refine State.cellsOk_orDeferred h (State.cellsOk_ite ?_ h)
  dsimp only
  split
  · refine State.cellsOk_closeFor (State.cellsOk_finish ?_)
    split
    · exact State.cellsOk_publish h _ _
    · exact h
  · refine State.cellsOk_finish ?_
    split
    · exact State.cellsOk_publish h _ _
    · exact h

theorem State.cellsOk_tokenEnded {s : State} {gid : ℕ} {t : Option Token} {bad : Bool}
    (h : s.cellsOk = true) : (s.tokenEnded gid t bad).cellsOk = true := by
  unfold State.tokenEnded
  dsimp only
  split
  · exact h
  · split
    · exact State.cellsOk_modGroup h
    · split
      · exact State.cellsOk_modGroup h
      · exact State.cellsOk_putPhys _ _ _ _ _ (State.cellsOk_modGroup h)

theorem formed_execGWait {k : Token} {s : State} (h : s.cellsOk = true) :
    Formed (execGWait k s) := by
  unfold execGWait
  refine State.formed_issue fun _ _ => ?_
  split <;> exact h

theorem State.cellsOk_settleBatches {s : State} {gid : ℕ} (h : s.cellsOk = true) :
    (s.settleBatches gid).cellsOk = true :=
  State.cellsOk_modGroup h

theorem State.cellsOk_sealBatch {s : State} {gid n : ℕ} (h : s.cellsOk = true) :
    (s.sealBatch gid n).cellsOk = true :=
  State.cellsOk_modGroup h

theorem formed_execGSeal {d : Reg} {s : State} (h : s.cellsOk = true) : Formed (execGSeal d s) := by
  unfold execGSeal
  refine State.formed_issue fun _ _ => ?_
  dsimp only
  split
  · exact h
  · exact State.cellsOk_settleBatches (State.cellsOk_sealBatch (State.cellsOk_answerAfter h))

theorem formed_execGBwait {a : Reg} {s : State} (h : s.cellsOk = true) :
    Formed (execGBwait a s) := by
  unfold execGBwait
  refine State.formed_issue fun _ _ => ?_
  dsimp only
  split
  · exact State.cellsOk_trapAt h
  · refine State.cellsOk_orDeferred h ?_
    split <;> exact h

end Sys2Proof.Machine
end

section
/-! SUPPORT. The canonical form through queues, buffers, the ends of groups, copies, launches and claims (R383, R376). -/
namespace Sys2Proof.Machine

/-! ## Queues -/

theorem State.cellsOk_setField {s : State} {c : Ctx} {p : Place} {off n v : ℕ}
    (h : s.cellsOk = true) : (s.setField c p off n v).cellsOk = true :=
  State.cellsOk_putTagged _ _ _ _ _ _ h

theorem State.cellsOk_flushQueue {s : State} {c : Ctx} {q : Queue} (h : s.cellsOk = true) :
    (s.flushQueue c q).cellsOk = true := by
  unfold State.flushQueue
  refine State.cellsOk_ite ?_ ?_
  · dsimp only
    split
    · split
      · exact State.cellsOk_flushRange h
      · exact h
    · exact h
    · exact h
  · refine State.cellsOk_foldl_of ?_ fun _ _ hs => ?_
    · dsimp only
      split
      · split
        · exact State.cellsOk_flushRange h
        · exact h
      · exact h
      · exact h
    · dsimp only
      split
      · split
        · exact State.cellsOk_flushRange hs
        · exact hs
      · exact hs
      · exact hs

theorem State.cellsOk_writeEntries {s : State} {c : Ctx} {base : DWord} {cap x : ℕ} {x1 : List Word}
    (h : s.cellsOk = true) : (s.writeEntries c base cap x x1).cellsOk = true := by
  induction x1 generalizing s x with
  | nil =>
    unfold State.writeEntries
    exact h
  | cons x1 r ih =>
    unfold State.writeEntries
    refine ih ?_
    split
    · exact State.cellsOk_putTagged _ _ _ _ _ _ h
    · exact h
    · exact h

theorem State.cellsOk_commitRun {s : State} {c : Ctx} {q : Place} {vals : List Word}
    (h : s.cellsOk = true) : (s.commitRun c q vals).cellsOk = true := by
  unfold State.commitRun
  dsimp only
  split
  · exact h
  · exact State.cellsOk_setField (State.cellsOk_writeEntries h)

theorem State.kept_commitOne {s : State} (h : s.cellsOk = true) :
    KeptSome (fun x => x.cellsOk = true) s.commitOne := by
  unfold State.commitOne
  refine keptSome_findSome? fun _ _ => ?_
  dsimp only
  split
  · trivial
  · split
    · trivial
    · split
      · exact State.cellsOk_modTeam (State.cellsOk_commitRun h) (fun _ => rfl)
      · trivial

theorem State.cellsOk_commitRounds {s : State} {x : ℕ} (h : s.cellsOk = true) :
    (s.commitRounds x).cellsOk = true := by
  induction x generalizing s with
  | zero =>
    unfold State.commitRounds
    exact h
  | succ n ih =>
    unfold State.commitRounds
    split
    · exact h
    next he => exact ih (kept_of_eq he (State.kept_commitOne h) :)

theorem State.cellsOk_commitPushes {s : State} (h : s.cellsOk = true) :
    s.commitPushes.cellsOk = true :=
  State.cellsOk_commitRounds h

theorem State.kept_claimOne {s : State} (h : s.cellsOk = true) :
    KeptSome (fun x => x.cellsOk = true) s.claimOne := by
  unfold State.claimOne
  refine keptSome_findSome? fun _ hs => ?_
  refine keptSome_findSome? fun _ _ => ?_
  dsimp only
  split
  · trivial
  · split
    · trivial
    · split
      · trivial
      · exact State.cellsOk_setTeam_window h (State.window_of_mem hs h :)

theorem State.cellsOk_claimRounds {s : State} {x : ℕ} (h : s.cellsOk = true) :
    (s.claimRounds x).cellsOk = true := by
  induction x generalizing s with
  | zero =>
    unfold State.claimRounds
    exact h
  | succ n ih =>
    unfold State.claimRounds
    split
    · exact h
    next he => exact ih (kept_of_eq he (State.kept_claimOne h) :)

theorem State.cellsOk_claimPops {s : State} (h : s.cellsOk = true) : s.claimPops.cellsOk = true :=
  State.cellsOk_claimRounds h

theorem State.cellsOk_settleRounds {s : State} (h : s.cellsOk = true) :
    s.settleRounds.cellsOk = true :=
  State.cellsOk_claimPops (State.cellsOk_commitPushes h)

theorem State.cellsOk_moveQueues {s : State} {old new size : Nat} (h : s.cellsOk = true) :
    (s.moveQueues old new size).cellsOk = true :=
  State.cellsOk_mapTeams h rfl rfl fun _ => rfl

/-! ## LaneQueues -/

theorem State.cellsOk_afterPerformed {s : State} {p : Packet} {g : Group} {c : Scope}
    {release : Bool} {k : State} (h : s.cellsOk = true) (hk : k.cellsOk = true) :
    (s.afterPerformed p g c release k).cellsOk = true :=
  State.cellsOk_ite hk h

theorem State.cellsOk_afterStores {s : State} {p : Packet} {g : Group} {ranges : List (DWord × ℕ)}
    {k : State} (h : s.cellsOk = true) (hk : k.cellsOk = true) :
    (s.afterStores p g ranges k).cellsOk = true := by
  unfold State.afterStores
  split
  · exact State.cellsOk_waitFor h
  · exact hk

theorem State.cellsOk_waitEnds {s : State} {gid : ℕ} {sl : Slot} (h : s.cellsOk = true) :
    (s.waitEnds gid sl).cellsOk = true :=
  State.cellsOk_modGroup h

theorem State.kept_cbufPut {s : State} {e : CbufEnd} {n : ℕ} (h : s.cellsOk = true) :
    KeptOk (fun x => x.2.cellsOk = true) (s.cbufPut e n) := by
  unfold State.cbufPut
  dsimp only
  split
  · trivial
  · exact State.cellsOk_cbSet h _ _ _

theorem State.cellsOk_cbufTake {s : State} {e : CbufEnd} {n : ℕ} (h : s.cellsOk = true) :
    (s.cbufTake e n).2.cellsOk = true :=
  State.cellsOk_cbSet (State.cellsOk_cbSet h _ _ _) _ _ _

theorem State.kept_cbufPuts {s : State} {n : ℕ} {x : List (ℕ × DWord × CbufEnd)}
    (h : s.cellsOk = true) : KeptOk (fun x => x.2.cellsOk = true) (s.cbufPuts n x) := by
  induction x generalizing s with
  | nil =>
    unfold State.cbufPuts
    exact h
  | cons x r ih =>
    unfold State.cbufPuts
    split
    · exact ih h
    · split
      · trivial
      next he =>
        split
        · trivial
        next he1 => exact (kept_of_eq he1 (ih (kept_of_eq he (State.kept_cbufPut h) :)) :)

theorem State.cellsOk_actLater {s : State} {gid : ℕ} {sl : Slot} {regs : List Reg} {act : LateAct}
    (h : s.cellsOk = true) : (s.actLater gid sl regs act).cellsOk = true := by
  unfold State.actLater
  dsimp only
  split
  · exact h
  · exact State.cellsOk_addEntry h

theorem formed_execCbufPut {d a : Reg} {n : BitVec 9} {s : State} (h : s.cellsOk = true) :
    Formed (execCbufPut d a n s) := by
  unfold execCbufPut
  refine State.formed_issue fun _ _ => ?_
  refine State.cellsOk_afterStores h ?_
  dsimp only
  split
  · split
    · exact State.cellsOk_trapAt h
    · exact h
  · refine State.cellsOk_afterPerformed h ?_
    split
    · exact State.cellsOk_trapAt h
    · split
      · exact State.cellsOk_closeFor (State.cellsOk_actLater (State.cellsOk_modGroup
          (State.cellsOk_modGroup (State.cellsOk_publish h _ _))))
      · split
        · exact State.cellsOk_modGroup (State.cellsOk_modGroup (State.cellsOk_publish h _ _))
        next he2 =>
          exact State.cellsOk_closeFor (State.cellsOk_deferAll (State.cellsOk_post (kept_of_eq he2
            (State.kept_cbufPuts (State.cellsOk_modGroup (State.cellsOk_modGroup
            (State.cellsOk_publish h _ _)))) :)))

theorem State.cellsOk_cbufGets {s : State} {gid n : ℕ} {x : List (ℕ × CbufEnd)}
    (h : s.cellsOk = true) : (s.cbufGets gid n x).2.2.2.cellsOk = true := by
  induction x generalizing s with
  | nil =>
    unfold State.cbufGets
    exact h
  | cons x r ih =>
    unfold State.cbufGets
    dsimp only
    split
    · exact ih h
    · split
      · exact ih (State.cellsOk_cbufTake h)
      · dsimp only
        split <;> exact h

theorem State.cellsOk_cbufAct {s : State} {gid : ℕ} {sl : Slot} {d : Reg} {n : ℕ}
    {ls : List (ℕ × CbufEnd)} (h : s.cellsOk = true) :
    (s.cbufAct gid sl d n ls).cellsOk = true := by
  unfold State.cbufAct
  dsimp only
  split
  · refine State.cellsOk_waitEnds (State.cellsOk_deferAll ?_)
    split
    · exact State.cellsOk_cbufGets h
    · exact State.cellsOk_post (State.cellsOk_cbufGets h)
  · refine State.cellsOk_modGroup (State.cellsOk_deferAll ?_)
    split
    · exact State.cellsOk_cbufGets h
    · exact State.cellsOk_post (State.cellsOk_cbufGets h)

theorem formed_execCbufGet {d a : Reg} {n : BitVec 9} {s : State} (h : s.cellsOk = true) :
    Formed (execCbufGet d a n s) := by
  unfold execCbufGet
  refine State.formed_issue fun _ _ => ?_
  refine State.cellsOk_afterStores h ?_
  split
  · split
    · exact State.cellsOk_trapAt h
    · exact h
  · exact State.cellsOk_afterPerformed h (State.cellsOk_cbufAct (State.cellsOk_closeFor h))

theorem formed_execCbufGetGrant {gid : ℕ} {s : State} (h : s.cellsOk = true) :
    Formed (execCbufGetGrant gid s) := by
  unfold execCbufGetGrant
  split
  · trivial
  · split
    · trivial
    · split
      · trivial
      · split
        · exact State.cellsOk_cbufAct h
        · trivial

theorem State.cellsOk_queueWaits {s : State} {p : Packet} {g : Group} {c : Ctx} {k : WaitKind}
    {ls : List (ℕ × Queue)} {t : State} (h : s.cellsOk = true) (ht : t.cellsOk = true) :
    (s.queueWaits p g c k ls t).cellsOk = true := by
  unfold State.queueWaits
  refine State.cellsOk_blockHere h (State.cellsOk_modGroup ?_)
  split
  · exact State.cellsOk_meetTile ht
  · exact ht

theorem State.cellsOk_flushQueues {s : State} {c : Ctx} {ls : List (ℕ × Queue)}
    (h : s.cellsOk = true) : (s.flushQueues c ls).cellsOk = true :=
  State.cellsOk_foldl_of h (fun _ _ hs => State.cellsOk_flushQueue hs)

theorem State.kept_queueTurn {s : State} {gid : ℕ} {g : Group} {w : Wait} {c : Ctx}
    (h : s.cellsOk = true) : KeptTurn (s.queueTurn gid g w c) := by
  unfold State.queueTurn
  dsimp only
  split
  · trivial
  · split
    · split
      · change State.cellsOk _ = true
        refine State.cellsOk_meetTile ?_
        split
        · exact State.cellsOk_dropTile _ _ h
        · exact h
      · trivial
    · split
      · exact State.cellsOk_settleTrap h
      · split <;> trivial

theorem State.cellsOk_pushEntries {s : State} {gid : ℕ} {ordered : Bool} {c : Ctx} {d : Reg}
    {ls : List (ℕ × Queue)} {x : List Queue} (h : s.cellsOk = true) :
    (s.pushEntries gid ordered c d ls x).cellsOk = true := by
  induction x generalizing s with
  | nil =>
    unfold State.pushEntries
    exact h
  | cons x r ih =>
    unfold State.pushEntries
    dsimp only
    split
    · exact h
    · refine ih ?_
      split
      · exact State.cellsOk_setField (State.cellsOk_flushQueue h)
      · exact State.cellsOk_commitRun (State.cellsOk_setField (State.cellsOk_flushQueue h))

theorem State.cellsOk_pushAct {s : State} {gid : ℕ} {sl : Slot} {ordered : Bool} {c : Ctx} {d : Reg}
    {ls : List (ℕ × Queue)} (h : s.cellsOk = true) :
    (s.pushAct gid sl ordered c d ls).cellsOk = true :=
  State.cellsOk_settleRounds (State.cellsOk_waitEnds (State.cellsOk_pushEntries h))

theorem formed_pushInstr {s : State} {ordered : Bool} {d a : Reg} (h : s.cellsOk = true) :
    Formed (pushInstr s ordered d a) := by
  unfold pushInstr
  refine State.formed_issue fun _ _ => ?_
  dsimp only
  split
  · exact State.cellsOk_tileWaits h
  · split
    · exact State.cellsOk_trapAt h
    · exact h
  · split
    · exact State.cellsOk_trapAt h
    · split
      · refine State.cellsOk_pushAct ?_
        split
        · exact State.cellsOk_closeFor (State.cellsOk_flushQueues h)
        · exact State.cellsOk_flushQueues h
      · refine State.cellsOk_queueWaits (State.cellsOk_flushQueues h) ?_
        split
        · exact State.cellsOk_closeFor (State.cellsOk_flushQueues h)
        · exact State.cellsOk_flushQueues h

theorem formed_execQueuePushReserve {gid : ℕ} {s : State} (h : s.cellsOk = true) :
    Formed (execQueuePushReserve gid s) := by
  unfold execQueuePushReserve
  split
  · trivial
  · split
    · trivial
    · split
      · trivial
      next he2 => exact (kept_of_eq he2 (State.kept_queueTurn h) :)
      · split
        · exact State.cellsOk_meetTile h
        · split
          · exact State.cellsOk_pushAct h
          · trivial

theorem State.cellsOk_bindQueue {s : State} {c : Ctx} {team : ℕ} {q : Queue}
    (h : s.cellsOk = true) : (s.bindQueue c team q).cellsOk = true := by
  unfold State.bindQueue
  dsimp only
  split
  · exact h
  · split
    · split
      · exact State.cellsOk_setField (State.cellsOk_flushQueue h)
      · exact State.cellsOk_flushQueue h
    · refine State.cellsOk_modTeam ?_ fun _ => rfl
      split
      · exact State.cellsOk_setField (State.cellsOk_flushQueue h)
      · exact State.cellsOk_flushQueue h

theorem State.cellsOk_claimPop {s : State} {gid : ℕ} {c : Ctx} {ls : List (ℕ × Queue)}
    {x : List Queue} (h : s.cellsOk = true) : (s.claimPop gid c ls x).cellsOk = true := by
  induction x generalizing s with
  | nil =>
    unfold State.claimPop
    exact h
  | cons x r ih =>
    unfold State.claimPop
    dsimp only
    split
    · exact h
    · split
      · exact ih (State.cellsOk_bindQueue h)
      · exact ih (State.cellsOk_modTeam (State.cellsOk_bindQueue h) (fun _ => rfl))

theorem State.cellsOk_advanceQueue {s : State} {c : Ctx} {p : PopClaim} (h : s.cellsOk = true) :
    (s.advanceQueue c p).cellsOk = true :=
  State.cellsOk_setField (State.cellsOk_setField h)

theorem State.cellsOk_deliverPop {s : State} {gid : ℕ} {g : Group} {c : Ctx} {sl : Slot} {d : Reg}
    (h : s.cellsOk = true) : (s.deliverPop gid g c sl d).cellsOk = true :=
  State.cellsOk_deferAll (State.cellsOk_post (State.cellsOk_waitEnds (State.cellsOk_modTeam
    (State.cellsOk_foldl_of h (fun _ _ hs => State.cellsOk_advanceQueue hs)) (fun _ => rfl))))

theorem State.cellsOk_popClaims {s : State} {gid : ℕ} {c : Ctx} {ls : List (ℕ × Queue)}
    (h : s.cellsOk = true) : (s.popClaims gid c ls).cellsOk = true :=
  State.cellsOk_settleRounds (State.cellsOk_claimPop h)

theorem formed_execQpop {d a : Reg} {s : State} (h : s.cellsOk = true) :
    Formed (execQpop d a s) := by
  unfold execQpop
  refine State.formed_issue fun _ _ => ?_
  dsimp only
  split
  · exact State.cellsOk_tileWaits h
  · split
    · exact State.cellsOk_trapAt h
    · exact h
  · split
    · exact State.cellsOk_trapAt h
    · split
      · exact State.cellsOk_queueWaits (State.cellsOk_flushQueues h) (State.cellsOk_closeFor
          (State.cellsOk_modGroup (State.cellsOk_flushQueues h)))
      · split
        · exact State.cellsOk_deliverPop (State.cellsOk_popClaims (State.cellsOk_closeFor
            (State.cellsOk_modGroup (State.cellsOk_flushQueues h))))
        · exact State.cellsOk_queueWaits (State.cellsOk_flushQueues h) (State.cellsOk_popClaims
            (State.cellsOk_closeFor (State.cellsOk_modGroup (State.cellsOk_flushQueues h))))

theorem formed_execQueuePopDeliver {gid : ℕ} {s : State} (h : s.cellsOk = true) :
    Formed (execQueuePopDeliver gid s) := by
  unfold execQueuePopDeliver
  dsimp only
  split
  · trivial
  · split
    · trivial
    · split
      · trivial
      next he2 => exact (kept_of_eq he2 (State.kept_queueTurn h) :)
      · split
        · exact State.cellsOk_deliverPop (State.cellsOk_popClaims h)
        · split
          · exact State.cellsOk_meetTile h
          · split
            · exact State.cellsOk_meetTile (State.cellsOk_dropTile _ _ (State.cellsOk_popClaims h))
            · split
              · exact State.cellsOk_popClaims h
              · trivial
            · split
              · exact State.cellsOk_popClaims h
              · trivial

/-! ## Ends -/

theorem State.cellsOk_unbind {s : State} {c : Ctx} {q : QueueRef} (h : s.cellsOk = true) :
    (s.unbind c q).cellsOk = true :=
  State.cellsOk_setField h

theorem State.cellsOk_endGang {s : State} {k : ℕ} (h : s.cellsOk = true) :
    (s.endGang k).cellsOk = true := by
  unfold State.endGang
  split
  · exact h
  · split <;> exact h

theorem State.cellsOk_endTeam {s : State} {tid : ℕ} (h : s.cellsOk = true) :
    (s.endTeam tid).cellsOk = true := by
  unfold State.endTeam
  dsimp only
  split
  · exact h
  next he =>
    refine State.cellsOk_settleRounds (State.cellsOk_endGang (State.cellsOk_modLaunch
      (State.cellsOk_giveBack ?_)))
    split
    · exact State.cellsOk_setTeam_window (State.cellsOk_foldl_of (State.cellsOk_foldl_of h
        (fun _ _ hs => State.cellsOk_unbind hs)) (fun _ _ hs => State.cellsOk_writeBack _ _ hs))
        (State.window_of_team he h :)
    · exact State.cellsOk_setTeam_window (State.cellsOk_foldl_of (State.cellsOk_foldl_of h
        (fun _ _ hs => State.cellsOk_unbind hs)) (fun _ _ hs => State.cellsOk_writeBack _ _ hs)) rfl

theorem State.cellsOk_endGroup {s : State} {gid : ℕ} (h : s.cellsOk = true) :
    (s.endGroup gid).cellsOk = true := by
  unfold State.endGroup
  dsimp only
  split
  · exact h
  · split
    · exact State.cellsOk_endTeam (State.cellsOk_settleRounds (State.cellsOk_modGroup
        (State.cellsOk_closeSegment h)))
    · exact State.cellsOk_settleRounds (State.cellsOk_modGroup (State.cellsOk_closeSegment h))

theorem State.cellsOk_exitNow {s : State} {gid : ℕ} {g : Group} {sl : Slot} (h : s.cellsOk = true) :
    (s.exitNow gid g sl).cellsOk = true := by
  unfold State.exitNow
  split
  · exact State.cellsOk_trapDeferred h
  · exact State.cellsOk_endGroup h

theorem State.cellsOk_exitGroup {s : State} {p : Packet} {g : Group} (h : s.cellsOk = true) :
    (s.exitGroup p g).cellsOk = true := by
  unfold State.exitGroup
  split
  · exact State.cellsOk_exitNow h
  · exact h

theorem formed_execExitl {s : State} (h : s.cellsOk = true) : Formed (execExitl s) := by
  unfold execExitl
  refine State.formed_issue fun _ _ => ?_
  split
  · exact State.cellsOk_exitGroup h
  · exact h

theorem formed_execExitWaitEnd {gid : ℕ} {s : State} (h : s.cellsOk = true) :
    Formed (execExitWaitEnd gid s) := by
  unfold execExitWaitEnd
  split
  · trivial
  · split
    · split
      · exact State.cellsOk_endGroup h
      · trivial
    · split
      · exact State.cellsOk_exitNow h
      · trivial

theorem State.cellsOk_setWinWord {s : State} {t o : ℕ} {w : Word} (h : s.cellsOk = true) :
    (s.setWinWord t o w).cellsOk = true :=
  State.cellsOk_putWin _ _ _ _ h

theorem State.cellsOk_arrive {s : State} {t o : ℕ} (h : s.cellsOk = true) :
    (s.arrive t o).cellsOk = true := by
  unfold State.arrive
  dsimp only
  split <;> exact State.cellsOk_setWinWord h

theorem State.cellsOk_phaseStep {s : State} {p : Packet} {g : Group} {a : Word} {n : ℕ}
    (h : s.cellsOk = true) : (s.phaseStep p g a n).cellsOk = true := by
  unfold State.phaseStep
  dsimp only
  split
  · split
    · exact h
    · exact State.cellsOk_waitFor h
  · split
    · exact State.cellsOk_trapAt h
    · exact State.cellsOk_trapAt h
    · split
      · exact h
      · exact State.cellsOk_waitFor h

theorem State.cellsOk_arriveAt {s : State} {p : Packet} {g : Group} {a : Word} {wait : Bool}
    (h : s.cellsOk = true) : (s.arriveAt p g a wait).cellsOk = true := by
  unfold State.arriveAt
  dsimp only
  split
  · exact State.cellsOk_trapAt h
  · split
    · exact State.cellsOk_trapAt h
    · refine State.cellsOk_orDeferred h (State.cellsOk_afterPerformed h ?_)
      split
      · split
        · refine State.cellsOk_phaseStep (State.cellsOk_closeFor (State.cellsOk_setGroup ?_))
          split
          · exact State.cellsOk_actLater (State.cellsOk_publish h _ _)
          · exact State.cellsOk_arrive (State.cellsOk_publish h _ _)
        · refine State.cellsOk_closeFor (State.cellsOk_setGroup ?_)
          split
          · exact State.cellsOk_actLater (State.cellsOk_publish h _ _)
          · exact State.cellsOk_arrive (State.cellsOk_publish h _ _)
      · split
        · refine State.cellsOk_closeFor (State.cellsOk_finish ?_)
          split
          · exact State.cellsOk_actLater (State.cellsOk_publish h _ _)
          · exact State.cellsOk_arrive (State.cellsOk_publish h _ _)
        · refine State.cellsOk_finish ?_
          split
          · exact State.cellsOk_actLater (State.cellsOk_publish h _ _)
          · exact State.cellsOk_arrive (State.cellsOk_publish h _ _)

theorem formed_execGBarwait {a : Reg} {s : State} (h : s.cellsOk = true) :
    Formed (execGBarwait a s) := by
  unfold execGBarwait
  refine State.formed_issue fun _ _ => ?_
  dsimp only
  split
  · exact State.cellsOk_phaseStep h
  · split
    · exact State.cellsOk_trapAt h
    · split
      · exact State.cellsOk_trapAt h
      · split
        · exact State.cellsOk_trapAt h
        · refine State.cellsOk_orDeferred h ?_
          split
          · exact State.cellsOk_phaseStep (State.cellsOk_closeFor h)
          · exact State.cellsOk_closeFor h

theorem formed_execGBar {a : Reg} {s : State} (h : s.cellsOk = true) : Formed (execGBar a s) := by
  unfold execGBar
  refine State.formed_issue fun _ _ => ?_
  split
  · exact State.cellsOk_phaseStep h
  · exact State.cellsOk_arriveAt h

theorem State.kept_tagWord {s : State} {t o count : ℕ} (h : s.cellsOk = true) :
    KeptSome (fun x => x.cellsOk = true) (s.tagWord t o count) := by
  unfold State.tagWord
  dsimp only
  split
  · trivial
  · split
    · split
      · trivial
      · exact State.cellsOk_modTeam (State.cellsOk_setWinWord h) (fun _ => rfl)
    · split
      · change State.cellsOk _ = true
        split <;> exact State.cellsOk_setWinWord h
      · exact State.cellsOk_modTeam (State.cellsOk_setWinWord h) (fun _ => rfl)

theorem State.kept_tagLanes {s : State} {x : List (ℕ × DWord × ℕ × ℕ × ℕ)} (h : s.cellsOk = true) :
    KeptOk (fun x => x.cellsOk = true) (s.tagLanes x) := by
  induction x generalizing s with
  | nil =>
    unfold State.tagLanes
    exact h
  | cons x r ih =>
    unfold State.tagLanes
    split
    · trivial
    next he => exact ih (kept_of_eq he (State.kept_tagWord h) :)

theorem formed_execBarTag {d a : Reg} {f : BitVec 9} {s : State} (h : s.cellsOk = true) :
    Formed (execBarTag d a f s) := by
  unfold execBarTag
  refine State.formed_issue fun _ _ => ?_
  dsimp only
  split
  · exact State.cellsOk_trapAt h
  · refine State.cellsOk_afterStores h ?_
    split
    · exact State.cellsOk_trapAt h
    next he1 => exact State.cellsOk_modGroup (kept_of_eq he1 (State.kept_tagLanes h) :)

/-! ## Copies -/

theorem State.cellsOk_setCopy {s : State} {id : ℕ} {c : Copy} (h : s.cellsOk = true) :
    (s.setCopy id c).cellsOk = true :=
  h

theorem State.cellsOk_dropCopy {s : State} {id : ℕ} (h : s.cellsOk = true) :
    (s.dropCopy id).cellsOk = true :=
  h

theorem formed_copyInstr {s : State} {inward : Bool} {d a : Reg} {z : CopySize} {f : BitVec 9}
    (h : s.cellsOk = true) : Formed (copyInstr s inward d a z f) := by
  unfold copyInstr
  refine State.formed_issue fun _ _ => ?_
  dsimp only
  split
  next he => exact (kept_of_eq he (State.kept_checkAll h) :)
  next he =>
    exact State.cellsOk_modGroup (State.cellsOk_foldl_of (kept_of_eq he (State.kept_checkAll h) :)
      (fun _ _ hs => hs))

theorem formed_tokenInstr {s : State} {k : Token}
    {read : Packet → Group → ℕ → Except (Cause × DWord) Copy} (h : s.cellsOk = true) :
    Formed (tokenInstr s k read) := by
  unfold tokenInstr
  refine State.formed_issue fun _ _ => ?_
  dsimp only
  split
  · exact State.cellsOk_trapAt h
  · split
    · exact State.cellsOk_trapAt h
    · exact State.cellsOk_foldl_of h (fun _ _ hs => hs)

theorem formed_mcastInstr {s : State} {ordered : Bool} {d a : Reg} {k : Token}
    (h : s.cellsOk = true) : Formed (mcastInstr s ordered d a k) :=
  formed_tokenInstr h

theorem State.kept_readRange {s : State} {c : Ctx} {ps : List Place} (h : s.cellsOk = true) :
    KeptRead (s.readRange c ps) := by
  unfold State.readRange
  split
  · exact State.cellsOk_meetTile h
  · split
    · trivial
    · split
      · trivial
      · split
        · exact State.cellsOk_meetTile (State.cellsOk_dropTile _ _ h)
        · trivial

theorem State.cellsOk_stageCopy {s : State} {x : Copy} {op : StagedOp} (h : s.cellsOk = true) :
    (s.stageCopy x op).cellsOk = true := by
  unfold State.stageCopy
  dsimp only
  split
  · exact h
  · split
    · exact h
    · exact State.cellsOk_applyStaged (State.cellsOk_applyWhere h)

theorem State.cellsOk_copyWrite {s : State} {x : Copy} {c : Ctx} {ps : List Place} {bs : List Byte}
    (h : s.cellsOk = true) : (s.copyWrite x c ps bs).cellsOk = true := by
  unfold State.copyWrite
  dsimp only
  split
  · refine State.cellsOk_foldl_fst (fun _ _ hs => ?_) h
    split
    · exact State.cellsOk_stageCopy hs
    · exact State.cellsOk_writePlaces _ _ _ _ hs
  · exact State.cellsOk_writePlaces _ _ _ _ h

theorem State.cellsOk_askFor {s : State} {id : ℕ} {x : Copy} {reqs : List (ℕ × FlitMsg)}
    (h : s.cellsOk = true) : (s.askFor id x reqs).cellsOk = true := by
  unfold State.askFor
  refine State.cellsOk_setCopy (State.cellsOk_foldl_snd (fun _ _ hs => ?_) h)
  split
  next he => exact (State.cellsOk_snd he (State.cellsOk_request hs) :)

theorem State.cellsOk_copyOver {s : State} {id : ℕ} {x : Copy} {n : Option ℕ}
    {bad : Option (Cause × DWord)} (h : s.cellsOk = true) :
    (s.copyOver id x n bad).cellsOk = true := by
  unfold State.copyOver
  refine State.cellsOk_settleBatches ?_
  split
  · exact h
  · exact State.cellsOk_defer h

theorem State.cellsOk_performCopy {s : State} {id : ℕ} {x : Copy}
    {done : State → Option (Cause × DWord) → State} (h : s.cellsOk = true) (hdone : ∀ (a : State)
    (a_1 : Option (Cause × DWord)), a.cellsOk = true → (done a a_1).cellsOk = true) :
    (s.performCopy id x done).cellsOk = true := by
  unfold State.performCopy
  dsimp only
  split
  · exact hdone _ _ h
  · split
    · exact hdone _ _ h
    · split
      · exact hdone _ _ h
      · split
        · exact State.cellsOk_askFor h
        · split
          · exact hdone _ _ h
          · exact hdone _ _ (State.cellsOk_copyWrite h)
          · exact State.cellsOk_askFor h
          · exact hdone _ _ h
      · split
        · exact hdone _ _ h
        next he2 => exact (kept_of_eq he2 (State.kept_readRange h) :)
        · split
          · exact hdone _ _ h
          · split
            · exact hdone _ _ (State.cellsOk_stageCopy h)
            · exact State.cellsOk_askFor h
          · split
            · exact State.cellsOk_meetTile h
            · exact hdone _ _ (State.cellsOk_copyWrite h)

theorem formed_execCopyComplete {id : ℕ} {s : State} (h : s.cellsOk = true) :
    Formed (execCopyComplete id s) := by
  unfold execCopyComplete
  split
  · trivial
  · split
    · trivial
    · trivial
    · trivial
    · split
      · exact State.cellsOk_performCopy h (fun _ _ hs => State.cellsOk_copyOver hs)
      · trivial

theorem State.cellsOk_gatherRows {s : State} {x : Copy} {c : Ctx} {x1 : ℕ}
    {x2 : List (DWord × Option Answer)} (h : s.cellsOk = true) :
    (s.gatherRows x c x1 x2).st.cellsOk = true := by
  induction x2 generalizing s x1 with
  | nil =>
    unfold State.gatherRows
    exact h
  | cons x2 r ih =>
    unfold State.gatherRows
    dsimp only
    split
    · exact h
    · exact h
    · split
      · exact h
      · exact h
      · exact ih (State.cellsOk_copyWrite h)
      · split
        · exact h
        · exact h
        · split
          · exact h
          · exact h
          · exact ih (State.cellsOk_copyWrite h)

theorem State.kept_gatherWait {s : State} {x : Copy} {c : Ctx} {x1 : List DWord}
    (h : s.cellsOk = true) : KeptSome (fun x => x.2.cellsOk = true) (s.gatherWait x c x1) := by
  induction x1 generalizing s with
  | nil =>
    unfold State.gatherWait
    trivial
  | cons x1 r ih =>
    unfold State.gatherWait
    split
    · trivial
    · exact ih h
    · split
      · trivial
      next he1 =>
        split
        · trivial
        · exact (kept_of_eq he1 (State.kept_readRange h) :)
      · exact ih h

theorem State.cellsOk_gatherOver {s : State} {id : ℕ} {x : Copy} {rows : ℕ} {bad : Bool}
    (h : s.cellsOk = true) : (s.gatherOver id x rows bad).cellsOk = true := by
  unfold State.gatherOver
  refine State.cellsOk_tokenEnded (State.cellsOk_dropCopy ?_)
  split
  · exact h
  · split
    · exact h
    · exact State.cellsOk_putBytes _ _ _ _ _ h

theorem formed_execRowGatherComplete {id : ℕ} {s : State} (h : s.cellsOk = true) :
    Formed (execRowGatherComplete id s) := by
  unfold execRowGatherComplete
  dsimp only
  split
  · trivial
  · split
    · trivial
    · trivial
    · trivial
    · split
      · trivial
      · split
        · exact State.cellsOk_askFor h
        · split
          next he2 => exact (kept_of_eq he2 (State.kept_gatherWait h) :)
          · exact State.cellsOk_gatherOver (State.cellsOk_gatherRows h)

theorem State.cellsOk_mcastOver {s : State} {id : ℕ} {x : Copy} {mask : Word} {ok : List ℕ}
    (h : s.cellsOk = true) : (s.mcastOver id x mask ok).cellsOk = true := by
  unfold State.mcastOver
  refine State.cellsOk_tokenEnded (State.cellsOk_dropCopy ?_)
  split
  · exact h
  · split
    · exact h
    · exact State.cellsOk_putBytes _ _ _ _ _ h

theorem State.cellsOk_mcastWrite {s : State} {id : ℕ} {x : Copy} {c : Ctx} {ordered : Bool}
    {mask : Word} {bs : List Byte} {passed : List ℕ} (h : s.cellsOk = true) :
    (s.mcastWrite id x c ordered mask bs passed).cellsOk = true := by
  unfold State.mcastWrite
  dsimp only
  split
  · exact State.cellsOk_meetTile h
  · refine State.cellsOk_ite (State.cellsOk_mcastOver (State.cellsOk_foldl_of h (fun _ _ hs =>
      State.cellsOk_copyWrite hs))) ?_
    exact State.cellsOk_ite (State.cellsOk_mcastOver (State.cellsOk_foldl_of (State.cellsOk_foldl_of
      h (fun _ _ hs => State.cellsOk_copyWrite hs)) (fun _ _ hs => State.cellsOk_stageCopy hs)))
      (State.cellsOk_askFor (State.cellsOk_foldl_of h (fun _ _ hs => State.cellsOk_copyWrite hs)))

theorem formed_execMulticastComplete {id : ℕ} {s : State} (h : s.cellsOk = true) :
    Formed (execMulticastComplete id s) := by
  unfold execMulticastComplete
  dsimp only
  split
  · trivial
  · split
    · trivial
    · trivial
    · trivial
    · split
      · trivial
      · split
        · exact State.cellsOk_mcastOver h
        · split
          · exact State.cellsOk_askFor h
          · split
            · exact State.cellsOk_mcastOver h
            · split
              · exact State.cellsOk_mcastWrite h
              · exact State.cellsOk_mcastOver h
              · exact State.cellsOk_mcastOver h
              · exact State.cellsOk_mcastOver h
            · split
              · exact State.cellsOk_mcastOver h
              next he3 =>
                split
                · exact State.cellsOk_mcastOver h
                · exact (kept_of_eq he3 (State.kept_readRange h) :)
              · exact State.cellsOk_mcastWrite h

/-! ## Launches -/

theorem State.cellsOk_stopped {s : State} {p : Packet} {g : Group} {x : Stop}
    (h : s.cellsOk = true) : (s.stopped p g x).cellsOk = true := by
  unfold State.stopped
  split
  · exact State.cellsOk_trapAt h
  · exact State.cellsOk_tileWaits h
  · exact State.cellsOk_tileWaits h

theorem State.cellsOk_launchWith {s : State} {p : Packet} {g : Group} {tryOnly : Bool} {d : Reg}
    {bs : List Byte} (h : s.cellsOk = true) : (s.launchWith p g tryOnly d bs).cellsOk = true := by
  unfold State.launchWith
  dsimp only
  split
  · exact State.cellsOk_answerWord h
  · split
    · exact State.cellsOk_trapAt h
    · split
      · split
        · exact State.cellsOk_answerWord h
        · exact State.cellsOk_waitFor h
      · exact State.cellsOk_closeFor (State.cellsOk_answerWord (State.cellsOk_modTeam
          (State.cellsOk_modLaunch (State.cellsOk_enterLaunch h)) (fun _ => rfl)))

theorem formed_launchInstr {s : State} {tryOnly : Bool} {d a : Reg} (h : s.cellsOk = true) :
    Formed (launchInstr s tryOnly d a) := by
  unfold launchInstr
  refine State.formed_issue fun _ _ => ?_
  refine State.cellsOk_afterPerformed h ?_
  dsimp only
  split
  · exact State.cellsOk_launchWith (State.cellsOk_publish h _ _)
  · split
    · exact State.cellsOk_stopped (State.cellsOk_publish h _ _)
    · exact State.cellsOk_launchWith (State.cellsOk_publish h _ _)

theorem State.cellsOk_acceptReplay {s : State} {gid : ℕ} {g : Group} {asid la buffer : ℕ}
    {hd patch : List Byte} {nnode weight : ℕ} (h : s.cellsOk = true) :
    (s.acceptReplay gid g asid la buffer hd patch nnode weight).cellsOk = true := by
  unfold State.acceptReplay
  dsimp only
  split <;> exact State.cellsOk_modTeam (State.cellsOk_writeLocal _ _ _ _ (State.cellsOk_writeLocal _ _ _ _ h)) (fun _ => rfl)

theorem State.kept_replayWith {s : State} {p : Packet} {g : Group} {d : Reg} {graph patch : DWord}
    (h : s.cellsOk = true) :
    KeptOk (fun x => x.cellsOk = true) (s.replayWith p g d graph patch) := by
  unfold State.replayWith
  refine keptOk_bind fun _ _ => ?_
  dsimp only
  split
  · exact keptOk_pure (State.cellsOk_closeFor (State.cellsOk_answerWord h))
  · refine keptOk_bind fun _ _ => ?_
    split
    · exact keptOk_pure (State.cellsOk_closeFor (State.cellsOk_answerWord h))
    · split
      · exact keptOk_pure (State.cellsOk_closeFor (State.cellsOk_answerWord h))
      · refine keptOk_bind fun _ _ => ?_
        split
        · exact keptOk_pure (State.cellsOk_closeFor (State.cellsOk_answerWord h))
        · split
          · exact keptOk_pure (State.cellsOk_closeFor (State.cellsOk_answerWord h))
          · split
            · exact keptOk_pure (State.cellsOk_trapAt h)
            · exact keptOk_pure (State.cellsOk_closeFor (State.cellsOk_answerWord
                (State.cellsOk_acceptReplay h)))

theorem formed_execGReplay {d a b : Reg} {s : State} (h : s.cellsOk = true) :
    Formed (execGReplay d a b s) := by
  unfold execGReplay
  refine State.formed_issue fun _ _ => ?_
  refine State.cellsOk_afterPerformed h ?_
  dsimp only
  split
  next he => exact (kept_of_eq he (State.kept_replayWith (State.cellsOk_publish h _ _)) :)
  · exact State.cellsOk_stopped (State.cellsOk_publish h _ _)

/-! ## Claims -/

theorem State.cellsOk_invokeWith {s : State} {p : Packet} {g : Group} {d : Reg}
    {target : Option DWord} {hd args : List Byte} {teams : ℕ} (h : s.cellsOk = true) :
    (s.invokeWith p g d target hd args teams).cellsOk = true := by
  unfold State.invokeWith
  dsimp only
  split
  · exact State.cellsOk_trapAt h
  · split
    · exact State.cellsOk_trapAt h
    · refine State.cellsOk_withRoom h fun _ _ _ hs => ?_
      refine State.cellsOk_closeFor ?_
      split
      · exact State.cellsOk_deliver (State.cellsOk_modTeam (State.cellsOk_setClaim _ _ _ hs)
          (fun _ => rfl))
      · exact State.cellsOk_sendInvoke (State.cellsOk_deliver (State.cellsOk_modTeam
          (State.cellsOk_setClaim _ _ _ hs) (fun _ => rfl)))

theorem formed_invokeInstr {s : State} {d rec : Reg} {target : Option Reg} (h : s.cellsOk = true) :
    Formed (invokeInstr s d rec target) := by
  unfold invokeInstr
  refine State.formed_issue fun _ _ => ?_
  refine State.cellsOk_afterPerformed h ?_
  dsimp only
  split
  · exact State.cellsOk_trapAt (State.cellsOk_publish h _ _)
  · split
    · exact State.cellsOk_stopped (State.cellsOk_publish h _ _)
    · split
      · exact State.cellsOk_trapAt (State.cellsOk_publish h _ _)
      · split
        · exact State.cellsOk_stopped (State.cellsOk_publish h _ _)
        · split
          · exact State.cellsOk_stopped (State.cellsOk_publish h _ _)
          · exact State.cellsOk_invokeWith (State.cellsOk_publish h _ _)

theorem State.cellsOk_awaitOver {s : State} {p : Packet} {g : Group} {d : Reg} {trapping : Bool}
    {c : DWord} {w : Word} (h : s.cellsOk = true) :
    (s.awaitOver p g d trapping c w).cellsOk = true := by
  unfold State.awaitOver
  split
  · exact State.cellsOk_trapAt h
  · exact State.cellsOk_answerWord h

theorem formed_awaitInstr {s : State} {trapping : Bool} {d a : Reg} (h : s.cellsOk = true) :
    Formed (awaitInstr s trapping d a) := by
  unfold awaitInstr
  refine State.formed_issue fun _ _ => ?_
  dsimp only
  split
  · split
    · exact State.cellsOk_awaitOver h
    · exact State.cellsOk_waitFor h
  · refine State.cellsOk_afterPerformed h ?_
    split
    · exact State.cellsOk_closeFor h
    · split
      · exact State.cellsOk_awaitOver (State.cellsOk_closeFor h)
      · split
        · exact State.cellsOk_waitFor (State.cellsOk_closeFor h)
        · exact State.cellsOk_blockHere (State.cellsOk_closeFor h) (State.cellsOk_sendMsg
            (State.cellsOk_closeFor h))

theorem State.cellsOk_askStatus {s : State} {p : Packet} {g : Group} {d : Reg} {c : DWord}
    (h : s.cellsOk = true) : (s.askStatus p g d c).cellsOk = true := by
  unfold State.askStatus
  split
  next he => exact State.cellsOk_addEntry (State.cellsOk_snd he (State.cellsOk_request h) :)

theorem formed_execGHstat {d a : Reg} {s : State} (h : s.cellsOk = true) :
    Formed (execGHstat d a s) := by
  unfold execGHstat
  dsimp only
  split
  · trivial
  · split
    · exact formed_awaitInstr h
    · split
      · exact State.cellsOk_answerWord h
      · split
        · exact State.cellsOk_answerWord h
        · exact State.cellsOk_askStatus h

theorem formed_execGWsplit {a b : Reg} {s : State} (h : s.cellsOk = true) :
    Formed (execGWsplit a b s) := by
  unfold execGWsplit
  refine State.formed_issue fun _ _ => ?_
  dsimp only
  split
  · exact State.cellsOk_trapAt h
  · split
    · exact State.cellsOk_trapAt h
    · split
      · exact State.cellsOk_giveBack (State.cellsOk_modTeam h (fun _ => rfl))
      · exact State.cellsOk_request (State.cellsOk_modTeam h (fun _ => rfl))

theorem formed_execGWgive {s : State} (h : s.cellsOk = true) : Formed (execGWgive s) := by
  unfold execGWgive
  refine State.formed_issue fun _ _ => ?_
  dsimp only
  split
  · split
    · exact State.cellsOk_waitFor h
    · split
      · exact State.cellsOk_trapAt h
      · exact State.cellsOk_modTeam h (fun _ => rfl)
  · split
    · exact State.cellsOk_trapAt h
    · split
      · exact State.cellsOk_trapAt h
      · exact State.cellsOk_blockHere h (State.cellsOk_request h)

theorem State.cellsOk_tell {s : State} {device : ℕ} {m : FlitMsg} (h : s.cellsOk = true) :
    (s.tell device m).cellsOk = true := by
  unfold State.tell
  split
  · exact h
  · exact State.cellsOk_sendMsg h

theorem State.cellsOk_refuseInvoke {s : State} {m : InvokeMsg} {cause depth : ℕ}
    (h : s.cellsOk = true) : (s.refuseInvoke m cause depth).cellsOk = true :=
  State.cellsOk_giveBack (State.cellsOk_tell h)

theorem State.cellsOk_forwardInvoke {s : State} {m : InvokeMsg} {device la : ℕ}
    (h : s.cellsOk = true) : (s.forwardInvoke m device la).cellsOk = true := by
  unfold State.forwardInvoke
  split
  · exact State.cellsOk_refuseInvoke h
  · exact State.cellsOk_tell (State.cellsOk_tell h)

theorem State.cellsOk_forwardWeight {s : State} {claim : DWord} {amount : ℕ} {root : RootAddr}
    {device : ℕ} (h : s.cellsOk = true) :
    (s.forwardWeight claim amount root device).cellsOk = true := by
  unfold State.forwardWeight
  split
  · exact State.cellsOk_giveBack h
  · exact State.cellsOk_tell h

theorem State.kept_queueClaim {s : State} {n : ℕ} {b : ClaimBody} (h : s.cellsOk = true) :
    KeptSome (fun x => x.cellsOk = true) (s.queueClaim n b) := by
  unfold State.queueClaim
  dsimp only
  split
  · trivial
  · exact State.cellsOk_frame (State.cellsOk_setClaim _ _ _ h) rfl rfl

theorem State.cellsOk_actSettled {s : State} {claim : DWord} {v : ClaimView} {b : ClaimBody}
    (h : s.cellsOk = true) : (s.actSettled claim v b).cellsOk = true := by
  unfold State.actSettled
  split
  · exact State.cellsOk_forwardInvoke h
  · exact State.cellsOk_refuseInvoke h
  · exact State.cellsOk_refuseInvoke h
  · exact State.cellsOk_forwardWeight h
  · exact State.cellsOk_giveBack h
  · exact State.cellsOk_giveBack h
  · exact State.cellsOk_tell h
  · exact h
  · exact h

theorem State.cellsOk_actPending {s : State} {claim : DWord} {n : ℕ} {b : ClaimBody}
    (h : s.cellsOk = true) : (s.actPending claim n b).cellsOk = true := by
  unfold State.actPending
  split
  · exact State.cellsOk_getD (State.kept_queueClaim h) (State.cellsOk_refuseInvoke h)
  · split
    · exact State.cellsOk_forwardWeight h
    · exact State.cellsOk_getD (State.kept_queueClaim h) (State.cellsOk_giveBack h)
  · split
    · exact State.cellsOk_getD (State.kept_queueClaim h) h
    · exact State.cellsOk_tell h

theorem State.cellsOk_claimArrives {s : State} {claim : DWord} {b : ClaimBody}
    (h : s.cellsOk = true) : (s.claimArrives claim b).cellsOk = true := by
  unfold State.claimArrives
  split
  · exact State.cellsOk_actPending h
  · exact State.cellsOk_actSettled h
  · exact State.cellsOk_actSettled h
  · exact State.cellsOk_actSettled h

theorem State.cellsOk_settleClaim {s : State} {claim : DWord} {n : ℕ} {x : ClaimSlot}
    (h : s.cellsOk = true) : (s.settleClaim claim n x).cellsOk = true :=
  State.cellsOk_foldl_of (State.cellsOk_setClaim _ _ _ (State.cellsOk_frame (State.cellsOk_setClaim
    _ _ _ h) rfl rfl)) (fun _ _ hs => State.cellsOk_actSettled hs)

theorem State.cellsOk_breakClaim {s : State} {claim : DWord} {cause depth : ℕ}
    (h : s.cellsOk = true) : (s.breakClaim claim cause depth).cellsOk = true := by
  unfold State.breakClaim
  dsimp only
  split
  · exact State.cellsOk_settleClaim h
  · exact h
  · exact h
  · exact h

theorem State.cellsOk_resolveClaim {s : State} {claim : DWord} {device la lifetime : ℕ}
    (h : s.cellsOk = true) : (s.resolveClaim claim device la lifetime).cellsOk = true := by
  unfold State.resolveClaim
  dsimp only
  split
  · exact State.cellsOk_settleClaim h
  · exact h
  · exact h
  · exact h

theorem State.cellsOk_sendClaim {s : State} {claim : DWord} {device : ℕ} (h : s.cellsOk = true) :
    (s.sendClaim claim device).cellsOk = true := by
  unfold State.sendClaim
  dsimp only
  split
  · split
    · exact h
    · split
      · exact State.cellsOk_breakClaim h
      · exact State.cellsOk_setClaim _ _ _ h
  · exact h
  · exact h
  · exact h

theorem State.cellsOk_startClaim {s : State} {claim : DWord} {device : ℕ} (h : s.cellsOk = true) :
    (s.startClaim claim device).cellsOk = true := by
  unfold State.startClaim
  dsimp only
  split
  · split
    · exact State.cellsOk_breakClaim h
    · exact State.cellsOk_foldl_of (State.cellsOk_frame (State.cellsOk_setClaim _ _ _ h) rfl rfl)
        (fun _ _ hs => State.cellsOk_forwardWeight hs)
  · exact h
  · exact h
  · exact h

theorem formed_execClaimExpire {slot : ℕ} {s : State} (h : s.cellsOk = true) :
    Formed (execClaimExpire slot s) := by
  unfold execClaimExpire
  dsimp only
  split
  · exact State.cellsOk_tell (State.cellsOk_setClaim _ _ _ h)
  · trivial

theorem State.cellsOk_enterInvoked {s : State} {m : InvokeMsg} {bs : List Byte} {k : Kernel}
    {entry : ℕ} (h : s.cellsOk = true) : (s.enterInvoked m bs k entry).cellsOk = true := by
  unfold State.enterInvoked
  dsimp only
  split
  · exact State.cellsOk_tell (State.cellsOk_enterLaunch (State.cellsOk_openRecord
      (State.cellsOk_giveBack (State.cellsOk_buildBlock _ _ _ h))))
  · exact State.cellsOk_tell (State.cellsOk_enterLaunch (State.cellsOk_buildBlock _ _ _ h))

theorem State.kept_takeInvoke {s : State} {m : InvokeMsg} (h : s.cellsOk = true) :
    KeptBoth (s.takeInvoke m) := by
  unfold State.takeInvoke
  split
  · exact State.cellsOk_refuseInvoke h
  · exact State.cellsOk_meetTile h
  · exact State.cellsOk_meetTile (State.cellsOk_dropTile _ _ h)
  · split
    · exact State.cellsOk_refuseInvoke h
    · split
      · exact State.cellsOk_refuseInvoke h
      · split
        · exact State.cellsOk_refuseInvoke h
        · split
          · exact State.cellsOk_refuseInvoke h
          · split
            · exact h
            · exact State.cellsOk_enterInvoked h

theorem State.cellsOk_invokeArrives {s : State} {m : InvokeMsg} (h : s.cellsOk = true) :
    (s.invokeArrives m).cellsOk = true := by
  unfold State.invokeArrives
  dsimp only
  split
  · split
    next he => exact (kept_of_eq he (State.kept_takeInvoke h) :)
    next he => exact (kept_of_eq he (State.kept_takeInvoke h) :)
  · split
    · exact State.cellsOk_refuseInvoke h
    · exact h

theorem State.cellsOk_drainInvocations {s : State} {x : ℕ} (h : s.cellsOk = true) :
    (s.drainInvocations x).cellsOk = true := by
  induction x generalizing s with
  | zero =>
    unfold State.drainInvocations
    exact h
  | succ n ih =>
    unfold State.drainInvocations
    dsimp only
    split
    · exact h
    · split
      next he1 => exact ih (kept_of_eq he1 (State.kept_takeInvoke h) :)
      next he1 => exact (kept_of_eq he1 (State.kept_takeInvoke h) :)

theorem State.cellsOk_feedInvocations {s : State} (h : s.cellsOk = true) :
    s.feedInvocations.cellsOk = true :=
  State.cellsOk_drainInvocations h

theorem State.cellsOk_weightArrives {s : State} {claim : DWord} {amount : ℕ} {root : RootAddr}
    (h : s.cellsOk = true) : (s.weightArrives claim amount root).cellsOk = true := by
  unfold State.weightArrives
  split
  · exact State.cellsOk_giveBack h
  · split
    · exact State.cellsOk_giveBack h
    · split
      next he1 =>
        split
        · exact State.cellsOk_giveBack h
        · exact State.cellsOk_setTeam_window h (State.window_of_find he1 h :)
      · exact h

theorem State.cellsOk_setRoot {s : State} {r : RootAddr} {held debt : ℕ} (h : s.cellsOk = true) :
    (s.setRoot r held debt).cellsOk = true := by
  unfold State.setRoot
  dsimp only
  split
  · exact State.cellsOk_writeLocal _ _ _ _ (State.cellsOk_writeLocal _ _ _ _
      (State.cellsOk_writeLocal _ _ _ _ h))
  · exact State.cellsOk_writeLocal _ _ _ _ (State.cellsOk_writeLocal _ _ _ _ h)

theorem State.cellsOk_rootTakes {s : State} {r : RootAddr} {amount : ℕ} (h : s.cellsOk = true) :
    (s.rootTakes r amount).cellsOk = true :=
  State.cellsOk_setRoot h

theorem State.cellsOk_of_rootLends {s t : State} {r : RootAddr} (h : s.cellsOk = true)
    (he : s.rootLends r = some t) : t.cellsOk = true := by
  unfold State.rootLends at he
  dsimp only at he
  generalize 2 ^ 62 = n at he
  split at he
  · cases he
  · cases he
    exact State.cellsOk_setRoot h

end Sys2Proof.Machine
end

section
/-! SUPPORT. The canonical form through the posts and the work of engines (R383, R376). -/
namespace Sys2Proof.Machine

/-! ## EnginePosts -/

theorem State.cellsOk_bindFor {s : State} {c : Ctx} {team : ℕ} {k : EngineKind} {b : List Byte}
    (h : s.cellsOk = true) : (s.bindFor c team k b).cellsOk = true := by
  unfold State.bindFor
  split
  · exact h
  · split
    · exact h
    · split
      · exact h
      · exact State.cellsOk_bindQueue h

theorem State.cellsOk_setCmd {s : State} {id : ℕ} {c : Cmd} (h : s.cellsOk = true) :
    (s.setCmd id c).cellsOk = true :=
  h

theorem State.cellsOk_deal {s : State} {id : ℕ} {c : Cmd} (h : s.cellsOk = true) :
    (s.deal id c).cellsOk = true := by
  unfold State.deal
  dsimp only
  split <;> exact h

theorem State.cellsOk_postAllCmds {s : State} {g : Group} {gid : ℕ} {k : EngineKind}
    {t : Option Token} {x : List (ℕ × DWord × List Byte)} (h : s.cellsOk = true) :
    (s.postAllCmds g gid k t x).cellsOk = true := by
  induction x generalizing s with
  | nil =>
    unfold State.postAllCmds
    exact h
  | cons x r ih =>
    unfold State.postAllCmds
    refine ih ?_
    dsimp only
    split
    · exact State.cellsOk_deal (State.cellsOk_bindFor h)
    · exact State.cellsOk_bindFor h

theorem formed_postInstr {s : State} {k : EngineKind} {a : Reg} {t : Token} (h : s.cellsOk = true) :
    Formed (postInstr s k a t) := by
  unfold postInstr
  refine State.formed_issue fun _ _ => ?_
  dsimp only
  split
  · exact State.cellsOk_trapAt h
  · split
    · exact State.cellsOk_tileWaits h
    · split
      · exact State.cellsOk_trapAt h
      · split
        · exact h
        · exact State.cellsOk_postAllCmds h

theorem formed_execBsStat {d a : Reg} {s : State} (h : s.cellsOk = true) :
    Formed (execBsStat d a s) := by
  unfold execBsStat
  refine State.formed_issue fun _ _ => ?_
  dsimp only
  split
  · exact State.cellsOk_trapAt h
  · exact State.cellsOk_addEntry h

/-! ## EngineMemory -/

theorem kept_engFault {α : Type} {code : EngStatus} {faddr : DWord} :
    KeptWork (engFault (α := α) code faddr) :=
  keptWork_throw

theorem kept_engPlace {v : Env} {writes : Bool} {ea : DWord} {n : ℕ} :
    KeptWork (engPlace v writes ea n) := by
  unfold engPlace
  refine keptWork_bind keptWork_get fun _ => ?_
  split
  · exact kept_engFault
  · exact kept_engFault
  · split
    · split
      · exact keptWork_ite kept_engFault keptWork_throw
      · exact keptWork_throw
      · exact keptWork_pure
    · exact keptWork_pure

theorem kept_engPiece {v : Env} {ea : DWord} {n : ℕ} : KeptWork (engPiece v ea n) := by
  unfold engPiece
  refine keptWork_bind kept_engPlace fun _ => ?_
  refine keptWork_bind keptWork_get fun _ => ?_
  split
  · split
    · exact kept_engFault
    · exact keptWork_ite keptWork_throw kept_engFault
  · exact keptWork_pure

theorem kept_engPieces {v : Env} {x : List (DWord × ℕ)} : KeptWork (engPieces v x) := by
  induction x with
  | nil =>
    unfold engPieces
    exact keptWork_pure
  | cons x r ih =>
    unfold engPieces
    exact keptWork_bind kept_engPiece (fun _ => keptWork_bind ih (fun _ => keptWork_pure))

theorem kept_engRead {v : Env} {ea : DWord} {n : ℕ} : KeptWork (engRead v ea n) :=
  kept_engPieces

theorem kept_engNat {v : Env} {ea : DWord} {n : ℕ} : KeptWork (engNat v ea n) :=
  keptWork_bind kept_engRead (fun _ => keptWork_pure)

theorem State.cellsOk_coverStaged {s : State} {c : Ctx} {l : Loc} {bytes : List Byte}
    (h : s.cellsOk = true) : (s.coverStaged c l bytes).cellsOk = true := by
  unfold State.coverStaged
  dsimp only
  split <;> exact h

theorem kept_engWritePiece {v : Env} {e : ℕ} {ea : DWord} {bs : List Byte} :
    KeptWork (engWritePiece v e ea bs) :=
  keptWork_bind keptWork_get (fun _ => keptWork_ite (keptWork_bind kept_engPlace (fun _ =>
    keptWork_pure)) (keptWork_bind kept_engPlace (fun _ => keptWork_bind (keptWork_modify
    (fun _ hs => State.cellsOk_coverStaged (State.cellsOk_putTagged _ _ _ _ _ _ hs))) (fun _ =>
    keptWork_ite keptWork_pure (keptWork_bind kept_engPlace (fun _ => keptWork_pure))))))

theorem kept_engWritePieces {v : Env} {e : ℕ} {x : List (DWord × ℕ)} {x1 : List Byte} :
    KeptWork (engWritePieces v e x x1) := by
  induction x generalizing x1 with
  | nil =>
    unfold engWritePieces
    exact keptWork_pure
  | cons x r ih =>
    unfold engWritePieces
    exact keptWork_bind kept_engWritePiece (fun _ => ih)

theorem kept_engWrite {v : Env} {e : ℕ} {ea : DWord} {bs : List Byte} :
    KeptWork (engWrite v e ea bs) :=
  kept_engWritePieces

theorem kept_engPut {v : Env} {ea : DWord} {n x : ℕ} : KeptWork (engPut v ea n x) :=
  kept_engWrite

theorem kept_engFold {α β : Type} {f : β → α → EngM β} {x : β} {x1 : List α}
    (hf : ∀ (a : β) (a_1 : α), KeptWork (f a a_1)) : KeptWork (engFold f x x1) := by
  induction x1 generalizing x with
  | nil =>
    unfold engFold
    exact keptWork_pure
  | cons x1 r ih =>
    unfold engFold
    exact keptWork_bind (hf _ _) (fun _ => ih)

theorem kept_engMap {α β : Type} {f : α → EngM β} {x : List α} (hf : ∀ (a : α), KeptWork (f a)) :
    KeptWork (engMap f x) := by
  induction x with
  | nil =>
    unfold engMap
    exact keptWork_pure
  | cons x r ih =>
    unfold engMap
    exact keptWork_bind (hf _) (fun _ => keptWork_bind ih (fun _ => keptWork_pure))

theorem State.cellsOk_writeBlock {s : State} {c : Cmd} {off : ℕ} {bs : List Byte}
    (h : s.cellsOk = true) : (s.writeBlock c off bs).cellsOk = true := by
  unfold State.writeBlock
  split
  · split
    · exact State.cellsOk_putBytes _ _ _ _ _ h
    · exact h
  · exact State.cellsOk_writeLocal _ _ _ _ h
  · exact h
  · exact h

theorem State.cellsOk_endCmd {s : State} {id : ℕ} {c : Cmd} {e : CmdEnd} (h : s.cellsOk = true) :
    (s.endCmd id c e).cellsOk = true := by
  unfold State.endCmd
  refine State.cellsOk_tokenEnded ?_
  dsimp only
  split
  · refine State.cellsOk_sendMsg ?_
    split
    next he2 =>
      split
      · exact State.cellsOk_setTeam_of (State.cellsOk_frame (State.cellsOk_foldl_of
          (State.cellsOk_writeBlock h) (fun _ _ hs => State.cellsOk_writeBlock hs)) rfl rfl) he2 rfl
      · exact State.cellsOk_frame (State.cellsOk_foldl_of (State.cellsOk_writeBlock h)
          (fun _ _ hs => State.cellsOk_writeBlock hs)) rfl rfl
    · exact State.cellsOk_frame (State.cellsOk_foldl_of (State.cellsOk_writeBlock h) (fun _ _ hs =>
        State.cellsOk_writeBlock hs)) rfl rfl
  · split
    next he2 =>
      split
      · exact State.cellsOk_setTeam_of (State.cellsOk_frame (State.cellsOk_foldl_of
          (State.cellsOk_writeBlock h) (fun _ _ hs => State.cellsOk_writeBlock hs)) rfl rfl) he2 rfl
      · exact State.cellsOk_frame (State.cellsOk_foldl_of (State.cellsOk_writeBlock h)
          (fun _ _ hs => State.cellsOk_writeBlock hs)) rfl rfl
    · exact State.cellsOk_frame (State.cellsOk_foldl_of (State.cellsOk_writeBlock h) (fun _ _ hs =>
        State.cellsOk_writeBlock hs)) rfl rfl

theorem State.cellsOk_cmdWaits {s : State} {id : ℕ} {c : Cmd} {k : ℕ} {rebuild : Bool}
    (h : s.cellsOk = true) : (s.cmdWaits id c k rebuild).cellsOk = true := by
  unfold State.cmdWaits
  refine State.cellsOk_setCmd (State.cellsOk_meetTile ?_)
  split
  · exact State.cellsOk_dropTile _ _ h
  · exact h

/-! ## Matrix -/

theorem kept_engElem {v : Env} {o : Operand} {isB : Bool} {major minor : ℕ} :
    KeptWork (engElem v o isB major minor) :=
  keptWork_ite (keptWork_bind kept_engNat (fun _ => keptWork_ite kept_engFault (keptWork_ite
    keptWork_pure (keptWork_bind kept_engNat (fun _ => keptWork_pure))))) (keptWork_bind kept_engNat
    (fun _ => keptWork_pure))

theorem kept_engKept {v : Env} {base : DWord} {perCol n g : ℕ} :
    KeptWork (engKept v base perCol n g) :=
  keptWork_bind kept_engNat (fun _ => keptWork_ite kept_engFault keptWork_pure)

theorem kept_engColumn {v : Env} {o : Operand} {kTotal n lo hi : ℕ} :
    KeptWork (engColumn v o kTotal n lo hi) :=
  keptWork_ite (keptWork_bind (kept_engMap (fun _ => keptWork_bind kept_engKept (fun _ =>
    keptWork_bind kept_engElem (fun _ => keptWork_bind kept_engElem (fun _ => keptWork_pure)))))
    (fun _ => keptWork_pure)) (kept_engMap (fun _ => keptWork_bind kept_engElem (fun _ =>
    keptWork_pure)))

theorem kept_runChunks {v : Env} {core slot : ℕ} {a : Operand} {integer : Bool}
    {m0 mn n0 nn k d : ℕ} {column : ℕ → ℕ → ℕ → EngM (List (ℕ × FVal))} {x : List ℕ}
    (hcolumn : ∀ (a a_1 a_2 : ℕ), KeptWork (column a a_1 a_2)) :
    KeptWork (runChunks v core slot a integer m0 mn n0 nn k d column x) := by
  induction x with
  | nil =>
    unfold runChunks
    exact keptWork_pure
  | cons x r ih =>
    unfold runChunks
    exact keptWork_bind (kept_engMap (fun _ => kept_engMap (fun _ => keptWork_bind kept_engElem
      (fun _ => keptWork_pure)))) (fun _ => keptWork_bind (kept_engMap (fun _ => hcolumn _ _ _))
      (fun _ => keptWork_bind keptWork_get (fun _ => keptWork_ite (keptWork_bind kept_engFault
      (fun _ => keptWork_bind (keptWork_modify (fun _ hs => hs)) (fun _ => ih))) (keptWork_bind
      (keptWork_modify (fun _ hs => hs)) (fun _ => ih)))))

theorem kept_runItem {v : Env} {c : Cmd} {plane : Option Plane} {d item : ℕ} :
    KeptWork (runItem v c plane d item) := by
  unfold runItem
  dsimp only
  split
  · refine keptWork_bind (keptWork_modify (fun _ hs => hs)) fun _ => ?_
    refine kept_runChunks fun _ _ _ => ?_
    split
    · exact keptWork_pure
    · exact keptWork_bind kept_engColumn (fun _ => keptWork_pure)
  · refine kept_runChunks fun _ _ _ => ?_
    split
    · exact keptWork_pure
    · exact keptWork_bind kept_engColumn (fun _ => keptWork_pure)

theorem State.cellsOk_itemDone {s : State} {id : ℕ} {r : ItemResult} {until' : ℕ}
    (h : s.cellsOk = true) : (s.itemDone id r until').cellsOk = true := by
  unfold State.itemDone
  split <;> exact h

theorem formed_execBenchTakeItem {cl bench : ℕ} {s : State} (h : s.cellsOk = true) :
    Formed (execBenchTakeItem cl bench s) := by
  unfold execBenchTakeItem
  dsimp only
  split
  · trivial
  · split
    · trivial
    · split
      · trivial
      · split
        · exact State.cellsOk_cmdWaits h
        next he2 =>
          exact State.cellsOk_itemDone (kept_of_eq he2 (State.kept_engineRun kept_runItem h) :)
        next he2 =>
          exact State.cellsOk_itemDone (kept_of_eq he2 (State.kept_engineRun kept_runItem h) :)

theorem State.kept_bindHandle {s : State} {tid hd : ℕ} (h : s.cellsOk = true) :
    KeptSome (fun x => KeptOk (fun x => x.cellsOk = true) x) (s.bindHandle tid hd) := by
  unfold State.bindHandle
  dsimp only
  split
  · trivial
  next he =>
    split
    · exact h
    · split
      · trivial
      · split
        · split
          · trivial
          · exact State.cellsOk_setTeam_of h he rfl
        · split
          · trivial
          · split
            · trivial
            · exact State.cellsOk_setTeam_of h he rfl

theorem kept_loadPlane {v : Env} {b : List Byte} : KeptWork (loadPlane v b) :=
  keptWork_bind (kept_engMap (fun _ => keptWork_bind kept_engColumn (fun _ => keptWork_pure)))
    (fun _ => keptWork_pure)

theorem State.cellsOk_modHandle {s : State} {tid hd : ℕ} {f : BenchHandle → BenchHandle}
    (h : s.cellsOk = true) : (s.modHandle tid hd f).cellsOk = true :=
  State.cellsOk_modTeam h (fun _ => rfl)

theorem kept_accrdSlot {v : Env} {c : Cmd} {q : ℕ} : KeptWork (accrdSlot v c q) :=
  keptWork_bind keptWork_get (fun _ => keptWork_ite (keptWork_bind kept_engFault (fun _ =>
    keptWork_bind (kept_engMap (fun _ => kept_engMap (fun _ => kept_engMap (fun _ =>
    kept_engPlace)))) (fun _ => keptWork_bind (kept_engFold (fun _ _ => keptWork_bind kept_engWrite
    (fun _ => keptWork_pure))) (fun _ => keptWork_ite (keptWork_bind (keptWork_modify (fun _ hs =>
    hs)) (fun _ => keptWork_pure)) keptWork_pure)))) (keptWork_bind (kept_engMap (fun _ =>
    kept_engMap (fun _ => kept_engMap (fun _ => kept_engPlace)))) (fun _ => keptWork_bind
    (kept_engFold (fun _ _ => keptWork_bind kept_engWrite (fun _ => keptWork_pure))) (fun _ =>
    keptWork_ite (keptWork_bind (keptWork_modify (fun _ hs => hs)) (fun _ => keptWork_pure))
    keptWork_pure))))

theorem kept_accwrSlot {v : Env} {c : Cmd} {q : ℕ} : KeptWork (accwrSlot v c q) :=
  keptWork_bind (kept_engMap (fun _ => kept_engRead)) (fun _ => keptWork_bind (keptWork_modify
    (fun _ hs => hs)) (fun _ => keptWork_pure))

theorem State.kept_accSlots {s : State} {c : Cmd} {rd : Bool} {x : List ℕ} {x1 x2 : BitVec 6}
    (h : s.cellsOk = true) : KeptEng (s.accSlots c rd x x1 x2) := by
  induction x generalizing s x1 x2 with
  | nil =>
    unfold State.accSlots
    exact h
  | cons x r ih =>
    unfold State.accSlots
    split
    next he =>
      exact ih (kept_of_eq he (State.kept_engineRun (keptWork_ite kept_accrdSlot kept_accwrSlot) h)
        :)
    · exact h
    · trivial

theorem State.cellsOk_swapSlots {s : State} {core : ℕ} {clear : Bool} {x : List ℕ}
    (h : s.cellsOk = true) : (s.swapSlots core clear x).cellsOk = true := by
  induction x generalizing s with
  | nil =>
    unfold State.swapSlots
    exact h
  | cons x r ih =>
    unfold State.swapSlots
    exact ih h

theorem State.kept_matrixWork {s : State} {c : Cmd} (h : s.cellsOk = true) :
    KeptSome (fun x => KeptEng x) (s.matrixWork c) := by
  unfold State.matrixWork
  dsimp only
  split
  · split
    · exact State.cellsOk_modHandle h
    · split
      · trivial
      · exact h
      next he1 =>
        split
        next he2 =>
          exact State.cellsOk_modHandle (kept_of_eq he2 (State.kept_engineRun kept_loadPlane
            (kept_of_eq he1 (State.kept_bindHandle h) :)) :)
        next he2 =>
          exact (kept_of_eq he2 (State.kept_engineRun kept_loadPlane (kept_of_eq he1
            (State.kept_bindHandle h) :)) :)
        · trivial
  · split
    · exact State.cellsOk_modHandle h
    · exact h
  · exact State.cellsOk_swapSlots h
  · exact State.kept_accSlots h
  · exact State.kept_accSlots h
  · trivial
  · trivial
  · trivial
  · trivial
  · trivial
  · trivial
  · trivial
  · trivial
  · trivial
  · trivial
  · trivial
  · trivial
  · trivial
  · trivial
  · trivial
  · trivial

/-! ## Steps -/

theorem formed_execGStepadv {a : Reg} {n : Domain} {s : State} (h : s.cellsOk = true) :
    Formed (execGStepadv a n s) := by
  unfold execGStepadv
  refine State.formed_issue fun _ _ => ?_
  refine State.cellsOk_afterPerformed h ?_
  dsimp only
  split
  · exact State.cellsOk_trapAt (State.cellsOk_publish h _ _)
  · split
    · exact State.cellsOk_trapAt (State.cellsOk_publish h _ _)
    · exact State.cellsOk_closeFor (State.cellsOk_frame (State.cellsOk_frame (State.cellsOk_publish
        h _ _) rfl rfl) rfl rfl)

theorem formed_execGSweep {n : Domain} {s : State} (h : s.cellsOk = true) :
    Formed (execGSweep n s) := by
  unfold execGSweep
  refine State.formed_issue fun _ _ => ?_
  dsimp only
  split <;> exact h

theorem formed_execGSweepwait {d : Reg} {n : Domain} {s : State} (h : s.cellsOk = true) :
    Formed (execGSweepwait d n s) := by
  unfold execGSweepwait
  refine State.formed_issue fun _ _ => ?_
  split
  · exact h
  · exact State.cellsOk_answerWord h

/-! ## Drains -/

theorem kept_engMoment {v : Env} {ea : DWord} : KeptWork (engMoment v ea) :=
  keptWork_bind kept_engPlace (fun _ => keptWork_ite (keptWork_bind kept_engNat (fun _ =>
    keptWork_pure)) kept_engFault)

theorem kept_engAged {v : Env} {c : Cmd} {ea : DWord} {x : ℕ} : KeptWork (engAged v c ea x) := by
  unfold engAged
  refine keptWork_bind kept_engMoment fun _ => ?_
  refine keptWork_bind keptWork_get fun _ => ?_
  split
  · exact kept_engFault
  · exact keptWork_pure

theorem kept_engNibble {v : Env} {b : List Byte} {t col g : ℕ} : KeptWork (engNibble v b t col g) :=
  keptWork_bind kept_engNat (fun _ => keptWork_ite kept_engFault keptWork_pure)

theorem kept_engStoredRow {v : Env} {b : List Byte} {t r col : ℕ} :
    KeptWork (engStoredRow v b t r col) :=
  keptWork_ite (keptWork_bind kept_engNibble (fun _ => keptWork_pure)) keptWork_pure

theorem kept_engMoments {v : Env} {c : Cmd} {row col g : ℕ} : KeptWork (engMoments v c row col g) :=
  keptWork_ite keptWork_pure (keptWork_bind kept_engAged (fun _ => keptWork_ite keptWork_pure
    (keptWork_bind kept_engAged (fun _ => keptWork_pure))))

theorem kept_drainElem {v : Env} {c : Cmd} {t r col : ℕ} : KeptWork (drainElem v c t r col) := by
  unfold drainElem
  dsimp only
  split
  · refine keptWork_bind kept_engNat fun _ => ?_
    split
    · exact keptWork_pure
    · refine keptWork_bind keptWork_get fun _ => ?_
      split
      · refine keptWork_bind kept_engFault fun _ => ?_
        refine keptWork_bind kept_engStoredRow fun _ => ?_
        split
        · exact keptWork_bind kept_engNat (fun _ => keptWork_bind kept_engPut (fun _ =>
            keptWork_pure))
        · exact keptWork_bind kept_engMoments (fun _ => keptWork_bind kept_engPlace (fun _ =>
            keptWork_bind kept_engNat (fun _ => keptWork_bind (kept_engMap (fun _ => kept_engPut))
            (fun _ => keptWork_bind kept_engPut (fun _ => keptWork_pure)))))
      · refine keptWork_bind kept_engStoredRow fun _ => ?_
        split
        · exact keptWork_bind kept_engNat (fun _ => keptWork_bind kept_engPut (fun _ =>
            keptWork_pure))
        · exact keptWork_bind kept_engMoments (fun _ => keptWork_bind kept_engPlace (fun _ =>
            keptWork_bind kept_engNat (fun _ => keptWork_bind (kept_engMap (fun _ => kept_engPut))
            (fun _ => keptWork_bind kept_engPut (fun _ => keptWork_pure)))))
  · refine keptWork_bind keptWork_pure fun _ => ?_
    split
    · exact keptWork_pure
    · refine keptWork_bind keptWork_get fun _ => ?_
      split
      · refine keptWork_bind kept_engFault fun _ => ?_
        refine keptWork_bind kept_engStoredRow fun _ => ?_
        split
        · exact keptWork_bind kept_engNat (fun _ => keptWork_bind kept_engPut (fun _ =>
            keptWork_pure))
        · exact keptWork_bind kept_engMoments (fun _ => keptWork_bind kept_engPlace (fun _ =>
            keptWork_bind kept_engNat (fun _ => keptWork_bind (kept_engMap (fun _ => kept_engPut))
            (fun _ => keptWork_bind kept_engPut (fun _ => keptWork_pure)))))
      · refine keptWork_bind kept_engStoredRow fun _ => ?_
        split
        · exact keptWork_bind kept_engNat (fun _ => keptWork_bind kept_engPut (fun _ =>
            keptWork_pure))
        · exact keptWork_bind kept_engMoments (fun _ => keptWork_bind kept_engPlace (fun _ =>
            keptWork_bind kept_engNat (fun _ => keptWork_bind (kept_engMap (fun _ => kept_engPut))
            (fun _ => keptWork_bind kept_engPut (fun _ => keptWork_pure)))))

theorem kept_regrowGroup {v : Env} {c : Cmd} {t col g : Nat} :
    KeptWork (regrowGroup v c t col g) := by
  unfold regrowGroup
  refine keptWork_bind kept_engNibble fun i => ?_
  refine keptWork_bind kept_engNat fun s0 => ?_
  refine keptWork_bind kept_engNat fun s1 => ?_
  refine keptWork_bind kept_engNat fun w0 => ?_
  refine keptWork_bind kept_engNat fun w1 => ?_
  refine keptWork_ite keptWork_pure ?_
  split
  split
  refine keptWork_ite keptWork_pure ?_
  extract_lets sh new
  clear_value new
  split
  split
  refine keptWork_bind (kept_engMap fun _ => keptWork_bind kept_engMoment fun _ => keptWork_bind
    kept_engMoment fun _ => keptWork_pure) fun _ => ?_
  refine keptWork_bind (kept_engMap fun _ => kept_engPlace) fun _ => ?_
  refine keptWork_bind kept_engNat fun _ => keptWork_bind kept_engPut fun _ => ?_
  refine keptWork_bind (kept_engMap fun _ => kept_engPut) fun _ => ?_
  refine keptWork_bind kept_engPut fun _ => keptWork_bind kept_engPut fun _ => ?_
  exact keptWork_bind (kept_engMap fun _ => kept_engPut) fun _ => keptWork_pure

theorem State.kept_drainElems {s : State} {c : Cmd} {x : List ℕ} {x1 : DrainAcc}
    (h : s.cellsOk = true) : KeptDrain (s.drainElems c x x1) := by
  induction x generalizing s x1 with
  | nil =>
    unfold State.drainElems
    exact h
  | cons x r ih =>
    unfold State.drainElems
    split
    next he => exact ih (kept_of_eq he (State.kept_engineRun kept_drainElem h) :)
    · exact h
    · trivial

theorem State.kept_regrowGroups {s : State} {c : Cmd} {x : List ℕ} {x1 : DrainAcc}
    (h : s.cellsOk = true) : KeptDrain (s.regrowGroups c x x1) := by
  induction x generalizing s x1 with
  | nil =>
    unfold State.regrowGroups
    exact h
  | cons x r ih =>
    unfold State.regrowGroups
    split
    next he => exact ih (kept_of_eq he (State.kept_engineRun kept_regrowGroup h) :)
    · exact h
    · trivial

theorem kept_publishAmax {v : Env} {ea : DWord} {m : ℕ} : KeptWork (publishAmax v ea m) :=
  keptWork_bind kept_engNat (fun _ => keptWork_ite kept_engPut keptWork_pure)

theorem State.cellsOk_zeroSlots {s : State} {core s0 x : ℕ} (h : s.cellsOk = true) :
    (s.zeroSlots core s0 x).cellsOk = true := by
  induction x generalizing s with
  | zero =>
    unfold State.zeroSlots
    exact h
  | succ n ih =>
    unfold State.zeroSlots
    exact ih h

theorem State.kept_drainRun {s : State} {c : Cmd} (h : s.cellsOk = true) :
    KeptEng (s.drainRun c) := by
  unfold State.drainRun
  dsimp only
  split
  · trivial
  next he =>
    change State.cellsOk _ = true
    split
    · exact State.cellsOk_zeroSlots (kept_of_eq he (keptDrain_ite (State.kept_regrowGroups h)
        (State.kept_drainElems h)) :)
    · exact (kept_of_eq he (keptDrain_ite (State.kept_regrowGroups h) (State.kept_drainElems h)) :)

theorem State.kept_drainWork {s : State} {c : Cmd} (h : s.cellsOk = true) :
    KeptEng (s.drainWork c) := by
  unfold State.drainWork
  dsimp only
  split
  · trivial
  next he => exact (kept_of_eq he (State.kept_drainRun h) :)
  next he =>
    split
    · split
      next he2 =>
        exact (kept_of_eq he2 (State.kept_engineRun kept_publishAmax (State.cellsOk_writeBack _ _
          (kept_of_eq he (State.kept_drainRun h) :))) :)
      next he2 =>
        exact (kept_of_eq he2 (State.kept_engineRun kept_publishAmax (State.cellsOk_writeBack _ _
          (kept_of_eq he (State.kept_drainRun h) :))) :)
      · trivial
    · exact (kept_of_eq he (State.kept_drainRun h) :)

theorem State.cellsOk_askAmax {s : State} {id : ℕ} {c : Cmd} {device : ℕ} {m : FlitMsg}
    (h : s.cellsOk = true) : (s.askAmax id c device m).cellsOk = true := by
  unfold State.askAmax
  split
  next he => exact (State.cellsOk_snd he (State.cellsOk_request h) :)

theorem State.kept_farDrain {s : State} {id : ℕ} {c : Cmd} {device la : ℕ} (h : s.cellsOk = true) :
    KeptSome (fun x => KeptOk (fun x => x.cellsOk = true) x) (s.farDrain id c device la) := by
  unfold State.farDrain
  dsimp only
  split
  · trivial
  · split
    · exact State.cellsOk_askAmax h
    · trivial
    · split
      · trivial
      · split
        · exact State.cellsOk_cmdWaits h
        next he2 => exact State.cellsOk_endCmd (kept_of_eq he2 (State.kept_drainRun h) :)
        next he2 => exact State.cellsOk_endCmd (kept_of_eq he2 (State.kept_drainRun h) :)
        next he2 =>
          exact State.cellsOk_askAmax (State.cellsOk_writeBack _ _ (kept_of_eq he2
            (State.kept_drainRun h) :))
    · trivial

theorem formed_execDrainSweepOrder {n : Domain} {s : State} (h : s.cellsOk = true) :
    Formed (execDrainSweepOrder n s) := by
  unfold execDrainSweepOrder
  dsimp only
  split
  · split
    · trivial
    · exact h
  · split
    · exact h
    · trivial

theorem State.kept_sweepElem {s : State} {tag n start pa : ℕ} (h : s.cellsOk = true) :
    KeptSome (fun x => x.cellsOk = true) (s.sweepElem tag n start pa) := by
  unfold State.sweepElem
  dsimp only
  split
  · exact h
  · split
    · trivial
    · split
      · exact h
      · exact State.cellsOk_putBytes _ _ _ _ _ h

theorem formed_execSweepComplete {n : Domain} {s : State} (h : s.cellsOk = true) :
    Formed (execSweepComplete n s) := by
  unfold execSweepComplete
  dsimp only
  split
  · trivial
  · split
    · trivial
    · split
      · exact h
      · split
        · exact h
        · split
          · exact h
          next he3 => exact (kept_of_eq he3 (State.kept_sweepElem h) :)

/-! ## Solver -/

theorem kept_engMatrix {v : Env} {base : DWord} {e n : ℕ} {need : ℕ → ℕ → Bool} :
    KeptWork (engMatrix v base e n need) :=
  keptWork_bind (kept_engMap (fun _ => kept_engMap (fun _ => keptWork_ite kept_engNat
    keptWork_pure))) (fun _ => keptWork_pure)

theorem kept_engVector {v : Env} {base : DWord} {e n : ℕ} : KeptWork (engVector v base e n) :=
  kept_engMap (fun _ => kept_engNat)

theorem kept_engPutMatrix {v : Env} {base : DWord} {e n : ℕ} {a : List ℕ} {need : ℕ → ℕ → Bool} :
    KeptWork (engPutMatrix v base e n a need) :=
  keptWork_bind (kept_engMap (fun _ => kept_engMap (fun _ => keptWork_ite kept_engPut
    keptWork_pure))) (fun _ => keptWork_pure)

theorem kept_engPutVector {v : Env} {base : DWord} {e : ℕ} {x : List ℕ} :
    KeptWork (engPutVector v base e x) :=
  keptWork_bind (kept_engMap (fun _ => kept_engPut)) (fun _ => keptWork_pure)

theorem kept_engBody {v : Env} {b : List Byte} {x k : ℕ} : KeptWork (engBody v b x k) :=
  kept_engNat

theorem kept_engContactEnv {v : Env} {b r : List Byte} : KeptWork (engContactEnv v b r) := by
  unfold engContactEnv
  split
  · exact keptWork_pure
  · exact keptWork_bind kept_engNat (fun _ => keptWork_pure)

theorem kept_engContacts {v : Env} {b : List Byte} : KeptWork (engContacts v b) :=
  kept_engMap (fun _ => kept_engRead)

theorem kept_asmItem {v : Env} {b : List Byte} {ea : DWord} {r : List Byte} {item : ℕ} :
    KeptWork (asmItem v b ea r item) := by
  unfold asmItem
  refine keptWork_bind kept_engContacts fun _ => ?_
  exact keptWork_bind (kept_engMap (fun _ => keptWork_bind kept_engContactEnv (fun _ =>
    keptWork_pure))) (fun _ => keptWork_bind (kept_engMap (fun _ => keptWork_bind (kept_engMap
    (fun _ => kept_engBody)) (fun _ => keptWork_pure))) (fun _ => keptWork_bind kept_engPutMatrix
    (fun _ => keptWork_bind kept_engPutVector (fun _ => keptWork_bind kept_engPutVector (fun _ =>
    keptWork_bind kept_engPutVector (fun _ => keptWork_bind kept_engPut (fun _ => keptWork_bind
    kept_engPut (fun _ => keptWork_pure))))))))

theorem kept_luItem {v : Env} {b r : List Byte} : KeptWork (luItem v b r) :=
  keptWork_bind kept_engMatrix (fun _ => keptWork_bind kept_engPutMatrix (fun _ => keptWork_bind
    (kept_engMap (fun _ => kept_engPut)) (fun _ => keptWork_pure)))

theorem kept_ldlItem {v : Env} {b r : List Byte} : KeptWork (ldlItem v b r) :=
  keptWork_bind kept_engMatrix (fun _ => keptWork_bind kept_engPutMatrix (fun _ => keptWork_pure))

theorem kept_trsvItem {v : Env} {b r : List Byte} : KeptWork (trsvItem v b r) :=
  keptWork_ite (keptWork_bind kept_engVector (fun _ => keptWork_ite keptWork_pure (keptWork_bind
    kept_engMatrix (fun _ => keptWork_bind kept_engVector (fun _ => keptWork_bind kept_engPutVector
    (fun _ => keptWork_pure)))))) (keptWork_bind keptWork_pure (fun _ => keptWork_ite keptWork_pure
    (keptWork_bind kept_engMatrix (fun _ => keptWork_bind kept_engVector (fun _ => keptWork_bind
    kept_engPutVector (fun _ => keptWork_pure))))))

theorem kept_backItem {v : Env} {b r : List Byte} : KeptWork (backItem v b r) := by
  unfold backItem
  refine keptWork_bind kept_engVector fun _ => ?_
  dsimp only
  split
  · exact keptWork_pure
  · refine keptWork_bind kept_engMatrix fun _ => ?_
    refine keptWork_bind kept_engVector fun _ => ?_
    split
    · split
      · refine keptWork_bind kept_engPutMatrix fun _ => ?_
        split
        · exact keptWork_pure
        · exact keptWork_bind kept_engPutVector (fun _ => keptWork_pure)
      · split
        · exact keptWork_pure
        · exact keptWork_bind kept_engPutVector (fun _ => keptWork_pure)

theorem kept_pgsItem {v : Env} {c : Cmd} {ea : DWord} {r : List Byte} :
    KeptWork (pgsItem v c ea r) := by
  unfold pgsItem
  refine keptWork_bind kept_engWrite fun _ => ?_
  refine keptWork_bind kept_engMatrix fun _ => ?_
  dsimp only
  split
  · exact keptWork_pure
  · refine keptWork_bind kept_engVector fun _ => ?_
    refine keptWork_bind kept_engVector fun _ => ?_
    refine keptWork_bind kept_engVector fun _ => ?_
    split
    · refine keptWork_bind keptWork_pure fun _ => ?_
      exact keptWork_ite (keptWork_bind kept_engVector (fun _ => keptWork_bind keptWork_get
        (fun _ => keptWork_bind kept_engPut (fun _ => keptWork_bind kept_engPut (fun _ =>
        keptWork_bind kept_engPutVector (fun _ => keptWork_ite (keptWork_bind kept_engPut (fun _ =>
        keptWork_bind kept_engPutVector (fun _ => keptWork_pure))) keptWork_pure))))))
        (keptWork_bind keptWork_pure (fun _ => keptWork_bind keptWork_get (fun _ => keptWork_bind
        kept_engPut (fun _ => keptWork_bind kept_engPut (fun _ => keptWork_bind kept_engPutVector
        (fun _ => keptWork_ite (keptWork_bind kept_engPut (fun _ => keptWork_bind kept_engPutVector
        (fun _ => keptWork_pure))) keptWork_pure))))))
    · refine keptWork_bind kept_engNat fun _ => ?_
      refine keptWork_bind keptWork_pure fun _ => ?_
      exact keptWork_ite (keptWork_bind kept_engVector (fun _ => keptWork_bind keptWork_get
        (fun _ => keptWork_bind kept_engPut (fun _ => keptWork_bind kept_engPut (fun _ =>
        keptWork_bind kept_engPutVector (fun _ => keptWork_ite (keptWork_bind kept_engPut (fun _ =>
        keptWork_bind kept_engPutVector (fun _ => keptWork_pure))) keptWork_pure))))))
        (keptWork_bind keptWork_pure (fun _ => keptWork_bind keptWork_get (fun _ => keptWork_bind
        kept_engPut (fun _ => keptWork_bind kept_engPut (fun _ => keptWork_bind kept_engPutVector
        (fun _ => keptWork_ite (keptWork_bind kept_engPut (fun _ => keptWork_bind kept_engPutVector
        (fun _ => keptWork_pure))) keptWork_pure))))))

theorem kept_solveItem {v : Env} {c : Cmd} {item : ℕ} : KeptWork (solveItem v c item) := by
  unfold solveItem
  refine keptWork_bind kept_engRead fun _ => ?_
  dsimp only
  split
  · exact keptWork_bind keptWork_pure (fun _ => keptWork_bind kept_engPut (fun _ => keptWork_pure))
  · split
    · exact keptWork_bind keptWork_pure (fun _ => keptWork_bind kept_engPut (fun _ =>
        keptWork_pure))
    · split
      · exact keptWork_bind kept_asmItem (fun _ => keptWork_bind kept_engPut (fun _ =>
          keptWork_pure))
      · exact keptWork_bind kept_luItem (fun _ => keptWork_bind kept_engPut (fun _ =>
          keptWork_pure))
      · exact keptWork_bind kept_ldlItem (fun _ => keptWork_bind kept_engPut (fun _ =>
          keptWork_pure))
      · exact keptWork_bind kept_trsvItem (fun _ => keptWork_bind kept_engPut (fun _ =>
          keptWork_pure))
      · exact keptWork_bind kept_pgsItem (fun _ => keptWork_bind kept_engPut (fun _ =>
          keptWork_pure))
      · exact keptWork_bind kept_backItem (fun _ => keptWork_bind kept_engPut (fun _ =>
          keptWork_pure))
      · exact keptWork_bind keptWork_pure (fun _ => keptWork_bind kept_engPut (fun _ =>
          keptWork_pure))
      · exact keptWork_bind keptWork_pure (fun _ => keptWork_bind kept_engPut (fun _ =>
          keptWork_pure))
      · exact keptWork_bind keptWork_pure (fun _ => keptWork_bind kept_engPut (fun _ =>
          keptWork_pure))
      · exact keptWork_bind keptWork_pure (fun _ => keptWork_bind kept_engPut (fun _ =>
          keptWork_pure))
      · exact keptWork_bind keptWork_pure (fun _ => keptWork_bind kept_engPut (fun _ =>
          keptWork_pure))
      · exact keptWork_bind keptWork_pure (fun _ => keptWork_bind kept_engPut (fun _ =>
          keptWork_pure))
      · exact keptWork_bind keptWork_pure (fun _ => keptWork_bind kept_engPut (fun _ =>
          keptWork_pure))
      · exact keptWork_bind keptWork_pure (fun _ => keptWork_bind kept_engPut (fun _ =>
          keptWork_pure))
      · exact keptWork_bind keptWork_pure (fun _ => keptWork_bind kept_engPut (fun _ =>
          keptWork_pure))
      · exact keptWork_bind keptWork_pure (fun _ => keptWork_bind kept_engPut (fun _ =>
          keptWork_pure))
      · exact keptWork_bind keptWork_pure (fun _ => keptWork_bind kept_engPut (fun _ =>
          keptWork_pure))
      · exact keptWork_bind keptWork_pure (fun _ => keptWork_bind kept_engPut (fun _ =>
          keptWork_pure))
      · exact keptWork_bind keptWork_pure (fun _ => keptWork_bind kept_engPut (fun _ =>
          keptWork_pure))
      · exact keptWork_bind keptWork_pure (fun _ => keptWork_bind kept_engPut (fun _ =>
          keptWork_pure))
      · exact keptWork_bind keptWork_pure (fun _ => keptWork_bind kept_engPut (fun _ =>
          keptWork_pure))

theorem State.kept_faultItems {s : State} {c : Cmd} {x : List ℕ} (h : s.cellsOk = true) :
    KeptOk (fun x => x.cellsOk = true) (s.faultItems c x) := by
  induction x generalizing s with
  | nil =>
    unfold State.faultItems
    exact h
  | cons x r ih =>
    unfold State.faultItems
    split
    next he => exact ih (kept_of_eq he (State.kept_engineRun kept_engPut h) :)
    · exact ih h
    · trivial

theorem formed_execSolverTakeItem {cl : ℕ} {s : State} (h : s.cellsOk = true) :
    Formed (execSolverTakeItem cl s) := by
  unfold execSolverTakeItem
  dsimp only
  split
  · trivial
  · split
    · trivial
    · split
      · exact State.cellsOk_cmdWaits h
      · split
        · exact State.cellsOk_cmdWaits h
        next he2 => exact State.cellsOk_itemDone (kept_of_eq he2 (State.kept_faultItems h) :)
      · split
        · exact State.cellsOk_cmdWaits h
        next he2 =>
          exact State.cellsOk_foldl_of (kept_of_eq he2 (State.kept_faultItems h) :) (fun _ _ hs =>
            State.cellsOk_itemDone hs)
      · split
        · exact State.cellsOk_cmdWaits h
        next he2 =>
          split
          · exact State.cellsOk_cmdWaits h
          next he3 =>
            exact State.cellsOk_itemDone (kept_of_eq he3 (State.kept_faultItems (kept_of_eq he2
              (State.kept_engineRun kept_solveItem h) :)) :)
        next he2 =>
          exact State.cellsOk_itemDone (kept_of_eq he2 (State.kept_engineRun kept_solveItem h) :)

/-! ## SortTraverse -/

theorem kept_engBox {v : Env} {base : DWord} {i : ℕ} : KeptWork (engBox v base i) :=
  keptWork_bind kept_engRead (fun _ => keptWork_pure)

theorem kept_sortKeys {v : Env} {b : List Byte} : KeptWork (sortKeys v b) :=
  keptWork_bind (kept_engMap (fun _ => kept_engNat)) (fun _ => keptWork_ite (keptWork_bind
    keptWork_pure (fun _ => keptWork_bind (kept_engMap (fun _ => kept_engPut)) (fun _ =>
    keptWork_ite keptWork_pure (keptWork_bind (kept_engMap (fun _ => kept_engPut)) (fun _ =>
    keptWork_pure))))) (keptWork_bind (kept_engMap (fun _ => kept_engNat)) (fun _ => keptWork_bind
    (kept_engMap (fun _ => kept_engPut)) (fun _ => keptWork_ite keptWork_pure (keptWork_bind
    (kept_engMap (fun _ => kept_engPut)) (fun _ => keptWork_pure))))))

theorem State.kept_cmdQueue {s : State} {c : Cmd} {push : Bool} {off : Nat} {e : QueueTry}
    (he : s.cmdQueue c push off = .error e) : KeptTry e := by
  unfold State.cmdQueue at he
  dsimp only at he
  split at he
  · cases he; trivial
  · cases he; trivial
  · split at he
    · cases he
      trivial
    · cases he

theorem State.kept_enginePush {s : State} {c : Cmd} {off : Nat} {w : Word} (h : s.cellsOk = true) :
    KeptTry (s.enginePush c off w) := by
  unfold State.enginePush
  dsimp only
  split
  next he => exact State.kept_cmdQueue he
  · split
    · exact State.cellsOk_commitRun (State.cellsOk_setField h)
    · trivial

theorem State.kept_enginePop {s : State} {c : Cmd} {off : Nat} (h : s.cellsOk = true) :
    KeptTry (s.enginePop c off) := by
  unfold State.enginePop
  dsimp only
  split
  next he => exact State.kept_cmdQueue he
  · have taken : ∀ {f : Team → Team} {x y : Ctx} {l k : Place} {i j n m v w : Nat}, (∀ t, (f
      t).window = t.window) → (((s.modTeam c.team f).setField x l i n v).setField y k j m
      w).cellsOk = true :=
      fun hf => State.cellsOk_setField (State.cellsOk_setField (State.cellsOk_modTeam h hf))
    split
    · trivial
    · split
      · exact taken fun _ => rfl
      · split
        · trivial
        · split
          · trivial
          · exact taken fun _ => rfl

theorem formed_execSortTakeRange {die unit : ℕ} {s : State} (h : s.cellsOk = true) :
    Formed (execSortTakeRange die unit s) := by
  unfold execSortTakeRange
  dsimp only
  split
  · trivial
  · split
    · trivial
    · split
      · exact State.cellsOk_itemDone h
      · split
        · exact State.cellsOk_cmdWaits h
        · exact State.cellsOk_itemDone h
        · exact State.cellsOk_itemDone h

theorem kept_buildWork {v : Env} {b : List Byte} : KeptWork (buildWork v b) :=
  keptWork_bind (kept_engMap (fun _ => keptWork_bind kept_engBox (fun _ => keptWork_pure)))
    (fun _ => keptWork_bind keptWork_get (fun _ => keptWork_bind (kept_engMap (fun _ =>
    kept_engWrite)) (fun _ => keptWork_pure)))

theorem kept_engSide {v : Env} {boxes : DWord} {x : Side} : KeptWork (engSide v boxes x) := by
  unfold engSide
  split
  · exact keptWork_bind kept_engBox (fun _ => keptWork_pure)
  · exact keptWork_bind kept_engRead (fun _ => keptWork_pure)

theorem State.cellsOk_gather {s : State} {id n : ℕ} {f : BitVec 6} (h : s.cellsOk = true) :
    (s.gather id n f).cellsOk = true := by
  unfold State.gather
  split <;> exact h

theorem kept_engFlags {id : ℕ} {f : BitVec 6} : KeptWork (engFlags id f) :=
  keptWork_modify (fun _ hs => State.cellsOk_gather hs)

theorem kept_engContact {v : Env} {id : ℕ} {c : Cmd} {r : List Byte} :
    KeptWork (engContact v id c r) :=
  keptWork_bind keptWork_get (fun _ => keptWork_ite (keptWork_bind kept_engWrite (fun _ =>
    keptWork_modify (fun _ hs => State.cellsOk_gather hs))) (keptWork_modify (fun _ hs =>
    State.cellsOk_gather hs)))

theorem kept_visit {v : Env} {id : ℕ} {c : Cmd} {x : ℕ} {x1 x2 : Side} :
    KeptWork (visit v id c x x1 x2) := by
  induction x generalizing x1 x2 with
  | zero =>
    unfold visit
    exact keptWork_pure
  | succ n ih =>
    unfold visit
    refine keptWork_bind kept_engSide fun _ => ?_
    refine keptWork_bind kept_engSide fun _ => ?_
    split
    · exact keptWork_pure
    · split
      · exact keptWork_bind ih (fun _ => keptWork_ite ih keptWork_pure)
      · exact keptWork_bind ih (fun _ => keptWork_ite ih keptWork_pure)
      · refine keptWork_bind kept_engBox fun _ => ?_
        refine keptWork_bind kept_engBox fun _ => ?_
        refine keptWork_bind kept_engFlags fun _ => ?_
        dsimp only
        split
        · exact keptWork_pure
        · exact keptWork_bind kept_engContact (fun _ => keptWork_pure)

theorem kept_engRoot {v : Env} {c : Cmd} {i : ℕ} : KeptWork (engRoot v c i) :=
  keptWork_ite keptWork_pure (keptWork_bind kept_engNat (fun _ => keptWork_pure))

theorem kept_queryEntry {v : Env} {id : ℕ} {c : Cmd} {w : Word} : KeptWork (queryEntry v id c w) :=
  keptWork_bind kept_engBox (fun _ => keptWork_bind kept_engBox (fun _ => keptWork_ite
    (keptWork_bind kept_engFlags (fun _ => keptWork_pure)) (keptWork_bind kept_engRoot (fun _ =>
    keptWork_bind kept_engRoot (fun _ => kept_visit)))))

theorem State.kept_queryStep {s : State} {id : ℕ} {c : Cmd} (h : s.cellsOk = true) :
    KeptSome (fun x => x.cellsOk = true) (s.queryStep id c) := by
  unfold State.queryStep
  dsimp only
  split
  · exact State.cellsOk_endCmd h
  · split
    · trivial
    · exact State.cellsOk_cmdWaits h
    · exact State.cellsOk_endCmd h
    next he =>
      split
      · exact State.cellsOk_cmdWaits h
      next he1 =>
        exact State.cellsOk_endCmd (kept_of_eq he1 (State.kept_engineRun kept_queryEntry (kept_of_eq
          he (State.kept_enginePop h) :)) :)
      · trivial
      next he1 =>
        exact (kept_of_eq he1 (State.kept_engineRun kept_queryEntry (kept_of_eq he
          (State.kept_enginePop h) :)) :)

theorem State.kept_pairsStep {s : State} {id : ℕ} {c : Cmd} (h : s.cellsOk = true) :
    KeptSome (fun x => x.cellsOk = true) (s.pairsStep id c) := by
  unfold State.pairsStep
  dsimp only
  split
  · trivial
  · split
    · exact State.cellsOk_endCmd h
    · split
      · exact State.cellsOk_endCmd h
      · split
        · trivial
        · exact State.cellsOk_cmdWaits h
        · exact State.cellsOk_endCmd h
        next he2 => exact (kept_of_eq he2 (State.kept_enginePush h) :)

end Sys2Proof.Machine
end

section
/-! SUPPORT. The canonical form through phases, collectives, recipes, the ends of commands and launches, and placement (R383, R376). -/
namespace Sys2Proof.Machine

/-! ## Phase -/

theorem formed_phaseInstr {s : State} {a : Reg} {k : Token} (h : s.cellsOk = true) :
    Formed (phaseInstr s a k) := by
  unfold phaseInstr
  refine State.formed_issue fun _ _ => ?_
  dsimp only
  split
  · exact h
  · split
    · exact State.cellsOk_trapAt h
    · split
      · exact State.cellsOk_trapAt h
      · split
        · exact State.cellsOk_trapAt h
        · split
          · exact State.cellsOk_trapAt h
          · split
            · exact h
            · exact State.cellsOk_orDeferred h (State.cellsOk_afterPerformed h
                (State.cellsOk_modTeam (State.cellsOk_publish h _ _) (fun _ => rfl)))

theorem State.cellsOk_moveLanes {s : State} {t : Team} {takesPart : Group → Bool} {src : ℕ → ℕ}
    (h : s.cellsOk = true) : (s.moveLanes t takesPart src).cellsOk = true := by
  unfold State.moveLanes
  refine State.cellsOk_foldl_of h fun _ _ hs => ?_
  dsimp only
  split <;> exact hs

theorem State.cellsOk_phaseEnd {s : State} {tid : ℕ} {block : ℕ × ℕ} {nlive : ℕ} {code : EngStatus}
    {faddr : DWord} {arrived : List ℕ} {restore : Bool} (h : s.cellsOk = true) :
    (s.phaseEnd tid block nlive code faddr arrived restore).cellsOk = true := by
  unfold State.phaseEnd
  dsimp only
  split
  · refine State.cellsOk_modTeam (State.cellsOk_foldl_of (State.cellsOk_putBytes _ _ _ _ _
      (State.cellsOk_putBytes _ _ _ _ _ h)) fun _ _ hs => ?_) fun _ => rfl
    split
    · exact State.cellsOk_tokenEnded (State.cellsOk_modGroup hs)
    · exact hs
  · split
    · refine State.cellsOk_foldl_of ?_ fun _ _ hs => ?_
      · refine State.cellsOk_settleRounds (State.cellsOk_foldl_of ?_ fun _ _ hs => ?_)
        · refine State.cellsOk_modTeam (State.cellsOk_foldl_of (State.cellsOk_putBytes _ _ _ _ _
            (State.cellsOk_putBytes _ _ _ _ _ h)) fun _ _ hs => ?_) fun _ => rfl
          split
          · exact State.cellsOk_tokenEnded (State.cellsOk_modGroup hs)
          · exact hs
        · split <;> exact hs
      · split
        · exact State.cellsOk_endGroup hs
        · exact hs
    · refine State.cellsOk_settleRounds (State.cellsOk_foldl_of ?_ fun _ _ hs => ?_)
      · refine State.cellsOk_modTeam (State.cellsOk_foldl_of (State.cellsOk_putBytes _ _ _ _ _
          (State.cellsOk_putBytes _ _ _ _ _ h)) fun _ _ hs => ?_) fun _ => rfl
        split
        · exact State.cellsOk_tokenEnded (State.cellsOk_modGroup hs)
        · exact hs
      · split <;> exact hs

theorem State.cellsOk_regroup {s : State} {tid : ℕ} {block : ℕ × ℕ} {b : List Byte} {t : Team}
    {arrived : List ℕ} (h : s.cellsOk = true) :
    (s.regroup tid block b t arrived).cellsOk = true := by
  unfold State.regroup
  dsimp only
  split
  · exact State.cellsOk_phaseEnd h
  · exact State.cellsOk_phaseEnd (State.cellsOk_modTeam (State.cellsOk_putBytes _ _ _ _ _
      (State.cellsOk_foldl_of (State.cellsOk_moveLanes h) (fun _ _ hs => State.cellsOk_modGroup
      hs))) (fun _ => rfl))

theorem State.cellsOk_restore {s : State} {tid : ℕ} {block : ℕ × ℕ} {b : List Byte} {t : Team}
    {arrived : List ℕ} (h : s.cellsOk = true) :
    (s.restore tid block b t arrived).cellsOk = true := by
  unfold State.restore
  dsimp only
  split
  · exact State.cellsOk_phaseEnd (State.cellsOk_moveLanes h)
  · split
    · exact State.cellsOk_phaseEnd h
    · exact State.cellsOk_phaseEnd (State.cellsOk_modTeam (State.cellsOk_moveLanes h) (fun _ =>
        rfl))

theorem formed_execPhaseCompactorRun {tid : ℕ} {s : State} (h : s.cellsOk = true) :
    Formed (execPhaseCompactorRun tid s) := by
  unfold execPhaseCompactorRun
  dsimp only
  split
  · trivial
  · split
    · trivial
    · split
      · split
        · trivial
        · change State.cellsOk _ = true
          split
          · exact State.cellsOk_regroup h
          · exact State.cellsOk_restore h
      · trivial

/-! ## Collectives -/

theorem State.cellsOk_setColl {s : State} {k : DWord} {x : Collective} (h : s.cellsOk = true) :
    (s.setColl k x).cellsOk = true :=
  h

theorem State.cellsOk_dropColl {s : State} {k : DWord} (h : s.cellsOk = true) :
    (s.dropColl k).cellsOk = true :=
  h

theorem State.cellsOk_tellAll {s : State} {ds : List ℕ} {m : CollData} (h : s.cellsOk = true) :
    (s.tellAll ds m).cellsOk = true := by
  unfold State.tellAll
  refine State.cellsOk_foldl_of h fun _ _ hs => ?_
  split
  · exact hs
  · exact State.cellsOk_tell hs

theorem State.cellsOk_settleGate {s : State} {id : ℕ} {c : Cmd} {cause : ℕ} (h : s.cellsOk = true) :
    (s.settleGate id c cause).cellsOk = true := by
  unfold State.settleGate
  dsimp only
  split
  · exact h
  · exact State.cellsOk_tellAll h

theorem State.cellsOk_openGate {s : State} {id : ℕ} {c : Cmd} (h : s.cellsOk = true) :
    (s.openGate id c).cellsOk = true := by
  unfold State.openGate
  dsimp only
  split
  · exact State.cellsOk_settleGate h
  · split
    · split
      · exact h
      · exact State.cellsOk_settleGate h
    · split
      · exact State.cellsOk_settleGate h
      · exact State.cellsOk_sendMsg h

theorem State.cellsOk_registerColl {s : State} {id : ℕ} {c : Cmd} (h : s.cellsOk = true) :
    (s.registerColl id c).cellsOk = true := by
  unfold State.registerColl
  dsimp only
  split
  · exact h
  · exact State.cellsOk_openGate (State.cellsOk_tellAll h)

theorem State.cellsOk_postColls {s : State} {g : Group} {gid : ℕ} {t : Token}
    {x : List (DWord × List Byte)} (h : s.cellsOk = true) :
    (s.postColls g gid t x).cellsOk = true := by
  induction x generalizing s with
  | nil =>
    unfold State.postColls
    exact h
  | cons x r ih =>
    unfold State.postColls
    refine ih ?_
    dsimp only
    split
    · exact State.cellsOk_registerColl h
    · exact h

theorem formed_execCollPost {a : Reg} {k : Token} {s : State} (h : s.cellsOk = true) :
    Formed (execCollPost a k s) := by
  unfold execCollPost
  refine State.formed_issue fun _ _ => ?_
  dsimp only
  split
  · exact State.cellsOk_trapAt h
  · split
    · exact State.cellsOk_trapAt h
    · refine State.cellsOk_orDeferred h ?_
      split
      · exact h
      · exact State.cellsOk_afterPerformed h (State.cellsOk_postColls (State.cellsOk_closeFor
          (State.cellsOk_frame (State.cellsOk_publish h _ _) rfl rfl)))

theorem State.cellsOk_sendDown {s : State} {b : List Byte} {flags : ℕ} {data : List Byte}
    (h : s.cellsOk = true) : (s.sendDown b flags data).cellsOk = true :=
  State.cellsOk_tellAll h

theorem State.cellsOk_climb {s : State} {b : List Byte} {x : Collective} {x1 x2 x3 : ℕ}
    {x4 : List Byte} (h : s.cellsOk = true) : (s.climb b x x1 x2 x3 x4).cellsOk = true := by
  induction x1 generalizing s x x2 x3 x4 with
  | zero =>
    unfold State.climb
    exact h
  | succ n ih =>
    unfold State.climb
    dsimp only
    split
    · exact State.cellsOk_sendDown h
    · split
      · exact State.cellsOk_tell h
      · split
        · split
          · exact h
          · exact ih h
        · exact ih h

theorem State.cellsOk_climbOn {s : State} {b : List Byte} (h : s.cellsOk = true) :
    (s.climbOn b).cellsOk = true := by
  unfold State.climbOn
  split
  · exact h
  · split
    · exact h
    · exact State.cellsOk_climb h

theorem formed_execCollStart {k : DWord} {s : State} (h : s.cellsOk = true) :
    Formed (execCollStart k s) := by
  unfold execCollStart
  dsimp only
  split
  · trivial
  · split
    · trivial
    · split
      · trivial
      · split
        · exact State.cellsOk_tellAll h
        · split
          · trivial
          · split
            · exact h
            · split
              · exact State.cellsOk_tellAll h
              · split
                · trivial
                · split
                  · exact State.cellsOk_cmdWaits h
                  next he2 =>
                    exact State.cellsOk_tellAll (kept_of_eq he2 (State.kept_engineRun kept_engRead
                      h) :)
                  next he2 =>
                    exact State.cellsOk_climb (kept_of_eq he2 (State.kept_engineRun kept_engRead h)
                      :)

theorem formed_execCollGate {id : ℕ} {s : State} (h : s.cellsOk = true) :
    Formed (execCollGate id s) := by
  unfold execCollGate
  dsimp only
  split
  · trivial
  · split
    · trivial
    · trivial
    · split
      · trivial
      · exact State.cellsOk_settleGate h
    · split
      · exact State.cellsOk_settleGate h
      · split
        · exact State.cellsOk_settleGate h
        · trivial

theorem State.cellsOk_withdrawColl {s : State} {k : DWord} (h : s.cellsOk = true) :
    (s.withdrawColl k).cellsOk = true := by
  unfold State.withdrawColl
  dsimp only
  split
  · split <;> exact h
  · split
    · refine State.cellsOk_setColl ?_
      split <;> exact h
    · refine State.cellsOk_dropColl ?_
      split <;> exact h

theorem formed_execCollTimeout {id : ℕ} {s : State} (h : s.cellsOk = true) :
    Formed (execCollTimeout id s) := by
  unfold execCollTimeout
  dsimp only
  split
  · trivial
  · split
    · trivial
    · exact State.cellsOk_tellAll (State.cellsOk_withdrawColl h)

theorem State.cellsOk_collArrives {s : State} {m : CollData} (h : s.cellsOk = true) :
    (s.collArrives m).cellsOk = true := by
  unfold State.collArrives
  dsimp only
  split
  · split
    · exact h
    · split <;> exact h
  · split <;> exact h
  · split
    · exact State.cellsOk_climbOn h
    · exact h
  · split
    · exact State.cellsOk_sendDown h
    · exact h
  · split
    · exact h
    · split
      · exact h
      · split <;> exact h
  · exact State.cellsOk_withdrawColl h

theorem State.kept_collWork {s : State} {id : ℕ} {c : Cmd} (h : s.cellsOk = true) :
    KeptSome (fun x => KeptEng x) (s.collWork id c) := by
  unfold State.collWork
  dsimp only
  split
  · split
    · exact h
    · trivial
  · split
    · exact h
    · split
      · trivial
      · split
        · refine keptSome_map fun _ _ => ?_
          split <;> exact h
        · split
          · trivial
          · split
            · trivial
            next he3 => exact (kept_of_eq he3 (State.kept_engineRun kept_engWrite h) :)
            next he3 => exact (kept_of_eq he3 (State.kept_engineRun kept_engWrite h) :)

theorem State.cellsOk_collOver {s : State} {k : DWord} (h : s.cellsOk = true) :
    (s.collOver k).cellsOk = true := by
  unfold State.collOver
  dsimp only
  split
  · exact State.cellsOk_registerColl h
  · exact h

theorem State.cellsOk_postBucket {s : State} {asid launch : ℕ} {asker : Option (ℕ × ℕ)} {post : ℕ}
    (h : s.cellsOk = true) : (s.postBucket asid launch asker post).cellsOk = true := by
  unfold State.postBucket
  dsimp only
  split
  · exact State.cellsOk_registerColl h
  · exact h
  · exact h
  · exact h

theorem State.cellsOk_bucketStep {s : State} {tag asid launch : ℕ} {asker : Option (ℕ × ℕ)}
    {l : Loc} (h : s.cellsOk = true) :
    (s.bucketStep tag asid launch asker l).2.2.cellsOk = true := by
  unfold State.bucketStep
  dsimp only
  split
  · split
    · exact State.cellsOk_putTagged _ _ _ _ _ _ (State.cellsOk_putTagged _ _ _ _ _ _ h)
    · exact State.cellsOk_postBucket (State.cellsOk_putTagged _ _ _ _ _ _ (State.cellsOk_putTagged _
        _ _ _ _ _ h))
  · exact State.cellsOk_putTagged _ _ _ _ _ _ h

theorem State.cellsOk_bucketSteps {s : State} {tag asid launch : ℕ} {asker : Option (ℕ × ℕ)}
    {x : List (ℕ × Loc)} (h : s.cellsOk = true) :
    (s.bucketSteps tag asid launch asker x).2.2.cellsOk = true := by
  induction x generalizing s with
  | nil =>
    unfold State.bucketSteps
    exact h
  | cons x r ih =>
    unfold State.bucketSteps
    split
    next he => exact ih (State.cellsOk_snd_snd he (State.cellsOk_bucketStep h) :)

theorem State.cellsOk_bucketSends {s : State} {gid : ℕ} {c : Ctx} {rem : List (ℕ × ℕ × ℕ)}
    (h : s.cellsOk = true) : (s.bucketSends gid c rem).2.cellsOk = true :=
  State.cellsOk_sendAll h

theorem formed_execBucketArrive {d a : Reg} {s : State} (h : s.cellsOk = true) :
    Formed (execBucketArrive d a s) := by
  unfold execBucketArrive
  refine State.formed_issue fun _ _ => ?_
  refine State.cellsOk_orDeferred h ?_
  dsimp only
  split
  · exact h
  · split
    next he => exact (kept_of_eq he (State.kept_checkAll h) :)
    next he =>
      split
      · exact State.cellsOk_tileWaits (kept_of_eq he (State.kept_checkAll h) :)
      · split
        · exact State.cellsOk_closeFor (State.cellsOk_actLater (State.cellsOk_frame
            (State.cellsOk_publish (kept_of_eq he (State.kept_checkAll h) :) _ _) rfl rfl))
        · exact State.cellsOk_addEntry (State.cellsOk_closeFor (State.cellsOk_bucketSends
            (State.cellsOk_bucketSteps (State.cellsOk_publish (kept_of_eq he (State.kept_checkAll h)
            :) _ _))))

theorem State.cellsOk_deliverLate {s : State} {x : Late} {d : Reg} {vals : List (ℕ × List Word)}
    {tags : List ℕ} (h : s.cellsOk = true) : (s.deliverLate x d vals tags).cellsOk = true :=
  State.cellsOk_modGroup h

theorem State.cellsOk_actNow {s : State} {x : Late} (h : s.cellsOk = true) :
    (s.actNow x).cellsOk = true := by
  unfold State.actNow
  dsimp only
  split
  · exact State.cellsOk_arrive h
  · split
    · exact State.cellsOk_deliverLate h
    next he1 =>
      exact State.cellsOk_deferAll (State.cellsOk_deliverLate (kept_of_eq he1 (State.kept_cbufPuts
        h) :))
  · exact State.cellsOk_deliverLate (State.cellsOk_bucketSends (State.cellsOk_bucketSteps h))
  · exact h

theorem State.cellsOk_settleLates {s : State} {l : ℕ} (h : s.cellsOk = true) :
    (s.settleLates l).cellsOk = true := by
  unfold State.settleLates
  refine State.cellsOk_foldl_of h fun _ _ hs => ?_
  dsimp only
  split
  · exact hs
  · split
    · exact State.cellsOk_meetTile hs
    · exact hs
    · exact State.cellsOk_actNow hs

/-! ## EngineEnds -/

theorem State.cellsOk_endWith {s : State} {id : Nat} {c : Cmd} {o : EngOut CmdEnd}
    (h : s.cellsOk = true) (ho : KeptEng o) : (s.endWith id c o).cellsOk = true := by
  unfold State.endWith
  split
  · exact State.cellsOk_endCmd ho
  · exact State.cellsOk_endCmd ho
  · exact State.cellsOk_cmdWaits h

theorem State.kept_drainEnd {s : State} {id : ℕ} {c : Cmd} (h : s.cellsOk = true) :
    KeptSome (fun x => x.cellsOk = true) (s.drainEnd id c) := by
  unfold State.drainEnd
  dsimp only
  split
  · split
    · split
      · exact State.cellsOk_endWith h (State.kept_drainWork h)
      · split
        · exact State.cellsOk_endWith h (State.kept_drainWork h)
        · exact State.cellsOk_endCmd h
        · refine keptSome_map fun _ hs => ?_
          split
          · exact State.cellsOk_endCmd h
          · exact (kept_of_eq hs (State.kept_farDrain h) :)
    · trivial
  · split
    · split
      · exact State.cellsOk_endWith h (State.kept_drainWork h)
      · split
        · exact State.cellsOk_endWith h (State.kept_drainWork h)
        · exact State.cellsOk_endCmd h
        · refine keptSome_map fun _ hs => ?_
          split
          · exact State.cellsOk_endCmd h
          · exact (kept_of_eq hs (State.kept_farDrain h) :)
    · trivial

theorem State.cellsOk_sortEnd {s : State} {id : ℕ} {c : Cmd} (h : s.cellsOk = true) :
    (s.sortEnd id c).cellsOk = true := by
  unfold State.sortEnd
  split
  next he => exact State.cellsOk_endCmd (kept_of_eq he (State.kept_engineRun kept_sortKeys h) :)
  next he => exact State.cellsOk_endCmd (kept_of_eq he (State.kept_engineRun kept_sortKeys h) :)
  · exact State.cellsOk_cmdWaits h

theorem State.cellsOk_buildEnd {s : State} {id : ℕ} {c : Cmd} (h : s.cellsOk = true) :
    (s.buildEnd id c).cellsOk = true := by
  unfold State.buildEnd
  split
  next he => exact State.cellsOk_endCmd (kept_of_eq he (State.kept_engineRun kept_buildWork h) :)
  next he => exact State.cellsOk_endCmd (kept_of_eq he (State.kept_engineRun kept_buildWork h) :)
  · exact State.cellsOk_cmdWaits h

theorem State.kept_collEnd {s : State} {id : ℕ} {c : Cmd} (h : s.cellsOk = true) :
    KeptSome (fun x => x.cellsOk = true) (s.collEnd id c) := by
  unfold State.collEnd
  refine keptSome_map fun _ hs => ?_
  split
  · exact State.cellsOk_cmdWaits h
  · exact State.cellsOk_collOver (State.cellsOk_endCmd (kept_of_eq hs (State.kept_collWork h) :))
  · exact State.cellsOk_collOver (State.cellsOk_endCmd (kept_of_eq hs (State.kept_collWork h) :))

theorem State.kept_cmdEnds {s : State} {id : ℕ} {c : Cmd} (h : s.cellsOk = true) :
    KeptSome (fun x => x.cellsOk = true) (s.cmdEnds id c) := by
  unfold State.cmdEnds
  split
  · split
    · exact State.cellsOk_endCmd h
    · trivial
  · split
    · exact keptSome_map (fun _ hs => State.cellsOk_endWith h (kept_of_eq hs (State.kept_matrixWork
        h) :))
    · trivial
  · split
    · exact keptSome_map (fun _ hs => State.cellsOk_endWith h (kept_of_eq hs (State.kept_matrixWork
        h) :))
    · trivial
  · split
    · exact keptSome_map (fun _ hs => State.cellsOk_endWith h (kept_of_eq hs (State.kept_matrixWork
        h) :))
    · trivial
  · split
    · exact keptSome_map (fun _ hs => State.cellsOk_endWith h (kept_of_eq hs (State.kept_matrixWork
        h) :))
    · trivial
  · split
    · exact keptSome_map (fun _ hs => State.cellsOk_endWith h (kept_of_eq hs (State.kept_matrixWork
        h) :))
    · trivial
  · exact State.kept_drainEnd h
  · exact State.kept_drainEnd h
  · split
    · exact State.cellsOk_endCmd h
    · trivial
  · split
    · exact State.cellsOk_endCmd h
    · trivial
  · split
    · exact State.cellsOk_endCmd h
    · trivial
  · split
    · exact State.cellsOk_endCmd h
    · trivial
  · split
    · exact State.cellsOk_endCmd h
    · trivial
  · split
    · exact State.cellsOk_endCmd h
    · trivial
  · split
    · exact State.cellsOk_sortEnd h
    · trivial
  · exact State.kept_pairsStep h
  · split
    · exact State.cellsOk_buildEnd h
    · trivial
  · split
    · exact State.kept_queryStep h
    · trivial
  · exact State.kept_collEnd h
  · trivial
  · trivial

theorem formed_execEngineCommandComplete {id : ℕ} {s : State} (h : s.cellsOk = true) :
    Formed (execEngineCommandComplete id s) := by
  unfold execEngineCommandComplete
  split
  · trivial
  · split
    · trivial
    · split
      · trivial
      next he1 => exact (kept_of_eq he1 (State.kept_cmdEnds h) :)

/-! ## LaneRecipes -/

theorem State.cellsOk_countSources {s : State} {asid : ℕ} {up : Bool} {ns : List ℕ}
    (h : s.cellsOk = true) : (s.countSources asid up ns).cellsOk = true :=
  State.cellsOk_foldl_of h (fun _ _ hs => hs)

theorem State.kept_register {s : State} {asid k : ℕ} {ea : DWord} {r : List Byte}
    (h : s.cellsOk = true) : KeptOk (fun x => x.cellsOk = true) (s.register asid k ea r) := by
  unfold State.register
  dsimp only
  split
  · trivial
  · split
    · trivial
    · split
      · split
        · trivial
        · exact State.cellsOk_countSources (State.cellsOk_countSources h)
      · split
        · trivial
        · exact State.cellsOk_countSources (State.cellsOk_countSources h)

theorem formed_execMmAmax {d a : Reg} {s : State} (h : s.cellsOk = true) :
    Formed (execMmAmax d a s) := by
  unfold execMmAmax
  refine State.formed_issue fun _ _ => ?_
  dsimp only
  split
  next he => exact (kept_of_eq he (State.kept_checkAll h) :)
  next he =>
    exact State.cellsOk_deferAll (State.cellsOk_addEntry (State.cellsOk_loadPass (kept_of_eq he
      (State.kept_checkAll h) :)))

theorem State.cellsOk_resumeLoad {s : State} {gid : ℕ} {g : Group} {e : SbEntry} {raw : Bool}
    {f : LoadForm} (h : s.cellsOk = true) : (s.resumeLoad gid g e raw f).cellsOk = true :=
  State.cellsOk_deferAll (State.cellsOk_modGroup (State.cellsOk_loadPass h))

theorem formed_execHeldAccessResume {gid id : ℕ} {s : State} (h : s.cellsOk = true) :
    Formed (execHeldAccessResume gid id s) := by
  unfold execHeldAccessResume
  split
  · trivial
  · split
    · trivial
    · split
      · trivial
      · split
        · split
          · exact State.cellsOk_meetTile h
          · trivial
        · split
          · exact State.cellsOk_resumeLoad h
          · exact State.cellsOk_performAtoms h

theorem State.cellsOk_applyStore {s : State} {st : PendingStore} (h : s.cellsOk = true) :
    (s.applyStore st).cellsOk = true :=
  State.cellsOk_performStore h

theorem formed_execHeldStoreApply {core : ℕ} {s : State} (h : s.cellsOk = true) :
    Formed (execHeldStoreApply core s) := by
  unfold execHeldStoreApply
  split
  · trivial
  · split
    · exact State.cellsOk_applyStore h
    · split
      · exact State.cellsOk_applyStore h
      · split
        · trivial
        · split
          · exact State.cellsOk_meetTile h
          · trivial

theorem formed_recipeInstr {s : State} {a : Reg}
    {pre : Ctx → Group → Nat → DWord → Option Word → Option (Cause × DWord)}
    {act : State → Packet → Group → Nat → DWord → Nat → Except (Cause × DWord) State}
    (h : s.cellsOk = true) (hact : ∀ t p g i ea k, t.cellsOk = true → KeptOk (fun x => x.cellsOk =
    true) (act t p g i ea k)) : Formed (recipeInstr s a pre act) := by
  unfold recipeInstr
  refine State.formed_issue fun p g => ?_
  dsimp only
  split
  · exact State.cellsOk_trapAt h
  · split
    next e he => exact State.cellsOk_trapAt h
    next t he =>
      refine State.cellsOk_modGroup (kept_of_eq (p := KeptOk fun (x : State) => x.cellsOk = true) he
        (keptOk_foldl (show KeptOk (fun (x : State) => x.cellsOk = true) (.ok s) from h)
        fun r x hr => ?_))
      split
      · split
        next hb => exact (kept_of_eq hb (hact _ _ _ _ _ _ hr) :)
        · trivial
      · exact hr
      · trivial

theorem formed_execRcpReg {d a : Reg} {s : State} (h : s.cellsOk = true) :
    Formed (execRcpReg d a s) := by
  unfold execRcpReg
  refine formed_recipeInstr h fun _ _ _ _ _ _ hs => ?_
  dsimp only
  split
  · trivial
  · exact State.kept_register hs

theorem formed_execRcpDrop {a : Reg} {s : State} (h : s.cellsOk = true) :
    Formed (execRcpDrop a s) := by
  unfold execRcpDrop
  refine formed_recipeInstr h fun _ _ _ _ _ _ hs => ?_
  split
  · trivial
  · split
    · exact State.cellsOk_dropTile _ _ hs
    · exact hs

theorem formed_execRcpPin {a : Reg} {s : State} (h : s.cellsOk = true) :
    Formed (execRcpPin a s) := by
  unfold execRcpPin
  refine formed_recipeInstr h fun _ _ _ _ _ _ hs => ?_
  dsimp only
  split
  · trivial
  · exact hs

theorem formed_execRcpUnpin {a : Reg} {s : State} (h : s.cellsOk = true) :
    Formed (execRcpUnpin a s) := by
  unfold execRcpUnpin
  refine formed_recipeInstr h fun _ _ _ _ _ _ hs => ?_
  dsimp only
  split
  · trivial
  · exact hs

theorem formed_execTileState {d a : Reg} {s : State} (h : s.cellsOk = true) :
    Formed (execTileState d a s) :=
  formed_recipeInstr h (fun _ _ _ _ _ _ hs => State.cellsOk_post hs)

/-! ## LaunchEnds -/

theorem State.cellsOk_deviceMeets {s : State} {asid k : ℕ} {rebuild : Bool} (h : s.cellsOk = true) :
    (s.deviceMeets asid k rebuild).cellsOk = true := by
  unfold State.deviceMeets
  refine State.cellsOk_ite ?_ ?_
  · refine State.cellsOk_meetTile ?_
    split
    · exact State.cellsOk_dropTile _ _ h
    · exact h
  · split
    · exact State.cellsOk_dropTile _ _ h
    · exact h

theorem State.cellsOk_startNode {s : State} {rid i : ℕ} (h : s.cellsOk = true) :
    (s.startNode rid i).cellsOk = true := by
  unfold State.startNode
  split
  · exact h
  · split
    · exact h
    · split
      · exact h
      · split
        · exact h
        · exact State.cellsOk_deviceMeets h
        · exact State.cellsOk_deviceMeets h
        · split
          · exact h
          · split <;> exact h

theorem State.cellsOk_feedReplays {s : State} (h : s.cellsOk = true) :
    s.feedReplays.cellsOk = true := by
  unfold State.feedReplays
  refine State.cellsOk_foldl_of h fun _ _ hs => ?_
  split
  · exact State.cellsOk_foldl_of hs (fun _ _ hs1 => State.cellsOk_startNode hs1)
  · exact hs

theorem State.cellsOk_entriesFreed {s : State} (h : s.cellsOk = true) :
    s.entriesFreed.cellsOk = true :=
  State.cellsOk_feedReplays (State.cellsOk_feedInvocations h)

theorem State.cellsOk_stopGroup {s : State} {gid : ℕ} (h : s.cellsOk = true) :
    (s.stopGroup gid).cellsOk = true := by
  unfold State.stopGroup
  dsimp only
  split
  · split
    · exact State.cellsOk_modGroup (State.cellsOk_giveBack h)
    · exact State.cellsOk_modGroup h
  · exact State.cellsOk_modGroup h

theorem State.cellsOk_stopLaunch {s : State} {l : ℕ} (h : s.cellsOk = true) :
    (s.stopLaunch l).cellsOk = true := by
  unfold State.stopLaunch
  dsimp only
  split
  · exact h
  · exact State.cellsOk_entriesFreed (State.cellsOk_modLaunch (State.cellsOk_giveBack
      (State.cellsOk_foldl_of (State.cellsOk_settleRounds (State.cellsOk_frame
      (State.cellsOk_foldl_of h (fun _ _ hs => State.cellsOk_stopGroup hs)) rfl rfl)) (fun _ _ hs =>
      State.cellsOk_endTeam (State.cellsOk_modTeam hs (fun _ => rfl))))))

theorem formed_execLaunchKill {l : ℕ} {s : State} (h : s.cellsOk = true) :
    Formed (execLaunchKill l s) := by
  unfold execLaunchKill
  dsimp only
  split
  · split
    · trivial
    · change State.cellsOk _ = true
      split
      · exact State.cellsOk_stopLaunch h
      · exact State.cellsOk_endLater (State.cellsOk_stopLaunch h)
  · trivial
  · trivial

theorem formed_execOverrun {l : ℕ} {s : State} (h : s.cellsOk = true) :
    Formed (execOverrun l s) := by
  unfold execOverrun
  split
  · trivial
  · split
    · exact State.cellsOk_requestKill h
    · trivial

theorem State.cellsOk_postStatus {s : State} {asid la kind cause : ℕ} (h : s.cellsOk = true) :
    (s.postStatus asid la kind cause).cellsOk = true :=
  State.cellsOk_writeLocal _ _ _ _ h

theorem State.cellsOk_postRecord {s : State} {l : Launch} {kind cause : ℕ} (h : s.cellsOk = true) :
    (s.postRecord l kind cause).cellsOk = true := by
  unfold State.postRecord
  dsimp only
  split
  · exact h
  · exact State.cellsOk_postStatus (State.cellsOk_writeLocal _ _ _ _ (State.cellsOk_writeLocal _ _ _
      _ h))

theorem State.cellsOk_nodeEnds {s : State} {rid i kind cause : ℕ} (h : s.cellsOk = true) :
    (s.nodeEnds rid i kind cause).cellsOk = true := by
  unfold State.nodeEnds
  dsimp only
  split
  · exact h
  · exact State.cellsOk_feedReplays h

theorem State.cellsOk_claimEnds {s : State} {l : Launch} {claim : DWord} {block lifetime : ℕ}
    {bad : Option ℕ} (h : s.cellsOk = true) :
    (s.claimEnds l claim block lifetime bad).cellsOk = true := by
  unfold State.claimEnds
  split <;> exact State.cellsOk_tell h

theorem State.cellsOk_reportEnd {s : State} {l : Launch} {badRet : Option ℕ}
    (h : s.cellsOk = true) : (s.reportEnd l badRet).cellsOk = true := by
  unfold State.reportEnd
  split
  · split
    · exact State.cellsOk_postRecord h
    · exact State.cellsOk_postRecord h
    · exact State.cellsOk_nodeEnds h
    · exact State.cellsOk_claimEnds h
    · split <;> exact h

theorem State.cellsOk_completeLaunch {s : State} {id : ℕ} {l : Launch} {badRet : Option ℕ}
    (h : s.cellsOk = true) : (s.completeLaunch id l badRet).cellsOk = true :=
  State.cellsOk_reportEnd (State.cellsOk_modLaunch h)

theorem State.kept_returnBytes {s : State} {id : ℕ} {l : Launch} (h : s.cellsOk = true) :
    KeptSome (fun x => KeptOk (fun x => x.cellsOk = true) x) (s.returnBytes id l) := by
  unfold State.returnBytes
  dsimp only
  split
  · split
    · trivial
    · split
      · trivial
      · split
        · trivial
        · exact State.cellsOk_writePlaces _ _ _ _ h
        · exact State.cellsOk_request h
  · trivial
  · trivial
  · trivial
  · trivial

theorem formed_execLaunchComplete {id : ℕ} {s : State} (h : s.cellsOk = true) :
    Formed (execLaunchComplete id s) := by
  unfold execLaunchComplete
  dsimp only
  split
  · trivial
  · split
    · trivial
    · split
      next he1 => exact (kept_of_eq he1 (State.kept_returnBytes h) :)
      · exact State.cellsOk_completeLaunch h
      · exact State.cellsOk_completeLaunch h

theorem formed_execRecomputeEntryWaitEnd {k : ℕ} {s : State} (h : s.cellsOk = true) :
    Formed (execRecomputeEntryWaitEnd k s) := by
  unfold execRecomputeEntryWaitEnd
  split
  · trivial
  · split
    · trivial
    · exact State.cellsOk_startOne h

theorem formed_execRecomputeComplete {id : ℕ} {s : State} (h : s.cellsOk = true) :
    Formed (execRecomputeComplete id s) := by
  unfold execRecomputeComplete
  dsimp only
  split
  · trivial
  · split
    · trivial
    · split
      · trivial
      · change State.cellsOk _ = true
        refine State.cellsOk_entriesFreed ?_
        split <;> exact State.cellsOk_completeLaunch h

theorem State.cellsOk_failGroup {s : State} {ts : List ℕ} {cause : Cause} {gid : ℕ} {g : Group}
    (h : s.cellsOk = true) : (s.failGroup ts cause gid g).cellsOk = true := by
  unfold State.failGroup
  dsimp only
  split
  · exact State.cellsOk_deferAll h
  · exact State.cellsOk_settleTrap (State.cellsOk_modGroup (State.cellsOk_deferAll h))

theorem State.cellsOk_failStores {s : State} {ts : List ℕ} {cause : Cause} (h : s.cellsOk = true) :
    (s.failStores ts cause).cellsOk = true :=
  State.cellsOk_foldl_of h (fun _ _ hs => State.cellsOk_defer hs)

theorem State.cellsOk_failHeld {s : State} {ts : List ℕ} {cause : Cause}
    {tilesOf : FlitMsg → List ℕ} (h : s.cellsOk = true) :
    (s.failHeld ts cause tilesOf).cellsOk = true := by
  unfold State.failHeld
  refine State.cellsOk_foldl_of h fun _ _ hs => ?_
  split
  · exact State.cellsOk_roce hs
  · exact State.cellsOk_sendMsg hs

theorem State.cellsOk_failInvoke {s : State} {ts : List ℕ} (h : s.cellsOk = true) :
    (s.failInvoke ts).cellsOk = true := by
  unfold State.failInvoke
  dsimp only
  split
  · exact h
  · split
    · exact State.cellsOk_refuseInvoke h
    · exact h

theorem State.cellsOk_failReplays {s before : State} {ts : List ℕ} (h : s.cellsOk = true) :
    (s.failReplays before ts).cellsOk = true := by
  unfold State.failReplays
  refine State.cellsOk_foldl_of h fun _ _ hs => ?_
  dsimp only
  split
  · exact hs
  · split
    · exact hs
    · refine State.cellsOk_foldl_of hs fun _ _ hs1 => ?_
      split <;> exact hs1

theorem State.cellsOk_endBuild {s : State} {cause : Cause} {k : ℕ} (h : s.cellsOk = true) :
    (s.endBuild cause k).cellsOk = true := by
  unfold State.endBuild
  refine State.cellsOk_setTile _ _ _ (State.cellsOk_ite ?_ ?_)
  · refine State.cellsOk_discardTile _ _ ?_
    split
    · exact h
    · split
      · exact h
      · exact State.cellsOk_stopLaunch (State.cellsOk_requestKill h)
  · split
    · exact h
    · split
      · exact h
      · exact State.cellsOk_stopLaunch (State.cellsOk_requestKill h)

theorem formed_execRecipeChainEnd {k : ℕ} {s : State} (h : s.cellsOk = true) :
    Formed (execRecipeChainEnd k s) := by
  unfold execRecipeChainEnd
  dsimp only
  split
  · change State.cellsOk _ = true
    refine State.cellsOk_entriesFreed (State.cellsOk_failInvoke (State.cellsOk_failReplays
      (State.cellsOk_foldl_of (State.cellsOk_failHeld (State.cellsOk_failStores (State.cellsOk_frame
      (State.cellsOk_foldl_of h (fun _ _ hs => State.cellsOk_endBuild hs)) rfl rfl))) fun _ _ hs =>
      ?_)))
    split
    · exact hs
    · exact State.cellsOk_failGroup hs
  · trivial
  · trivial

theorem formed_execTileEvictDrop {k : ℕ} {s : State} (h : s.cellsOk = true) :
    Formed (execTileEvictDrop k s) := by
  unfold execTileEvictDrop
  split
  · exact State.cellsOk_dropTile _ _ h
  · trivial

theorem formed_execPatrolScrub {line : ℕ} {s : State} (h : s.cellsOk = true) :
    Formed (execPatrolScrub line s) := by
  unfold execPatrolScrub
  split
  · trivial
  · split
    · exact h
    · split
      · exact State.cellsOk_dropTile _ _ h
      · exact h

theorem formed_execTicketSegmentApply {l : ℕ} {s : State} (h : s.cellsOk = true) :
    Formed (execTicketSegmentApply l s) := by
  unfold execTicketSegmentApply
  dsimp only
  split
  · trivial
  · split
    · trivial
    · split
      · trivial
      · split
        · exact State.cellsOk_settleLates h
        · split
          · trivial
          · split
            · split
              · change State.cellsOk _ = true
                refine State.cellsOk_meetTile ?_
                split
                · exact State.cellsOk_dropTile _ _ h
                · exact h
              · trivial
            · exact State.cellsOk_settleLates (State.cellsOk_frame (State.cellsOk_writeBack _ _
                (State.cellsOk_applyWhere h)) rfl rfl)

theorem formed_execReplayStart {id : ℕ} {s : State} (h : s.cellsOk = true) :
    Formed (execReplayStart id s) := by
  unfold execReplayStart
  split
  · trivial
  · split
    · trivial
    · split
      · split
        · exact State.cellsOk_deviceMeets h
        · trivial
      · exact State.cellsOk_deviceMeets h
      · exact h
      · exact State.cellsOk_feedReplays (State.cellsOk_frame (State.cellsOk_foldl_of h
          (fun _ _ hs => State.cellsOk_writeLocal _ _ _ _ hs)) rfl rfl)

theorem State.cellsOk_postReplay {s : State} {id : ℕ} {r : Replay} {sequence : ℕ}
    (h : s.cellsOk = true) : (s.postReplay id r sequence).cellsOk = true := by
  unfold State.postReplay
  dsimp only
  split
  · exact h
  · exact State.cellsOk_writeLocal _ _ _ _ (State.cellsOk_writeLocal _ _ _ _ h)

theorem formed_execReplayComplete {id : ℕ} {s : State} (h : s.cellsOk = true) :
    Formed (execReplayComplete id s) := by
  unfold execReplayComplete
  dsimp only
  split
  · trivial
  · split
    · trivial
    · exact State.cellsOk_postReplay (State.cellsOk_writeLocal _ _ _ _ (State.cellsOk_writeLocal _ _
        _ _ (State.cellsOk_giveBack h)))

/-! ## Placement -/

theorem State.cellsOk_bindGroups {s : State} {k : Kernel} {params start rank team x x1 : ℕ}
    (h : s.cellsOk = true) : (s.bindGroups k params start rank team x x1).cellsOk = true := by
  induction x1 generalizing s x with
  | zero =>
    unfold State.bindGroups
    exact h
  | succ n ih =>
    unfold State.bindGroups
    exact ih (State.cellsOk_modTeam h (fun _ => rfl))

theorem State.cellsOk_bindTeams {s : State} {gk : ℕ} {g : Gang} {l : Launch} {start x x1 : ℕ}
    (h : s.cellsOk = true) : (s.bindTeams gk g l start x x1).cellsOk = true := by
  induction x1 generalizing s x with
  | zero =>
    unfold State.bindTeams
    exact h
  | succ n ih =>
    unfold State.bindTeams
    exact ih (State.cellsOk_bindGroups (State.cellsOk_modGang (State.cellsOk_setTeam_window h rfl)))

theorem State.cellsOk_handRows {s : State} {old : ℕ × ℕ} (h : s.cellsOk = true) :
    (s.handRows old).cellsOk = true := by
  unfold State.handRows
  dsimp only
  split
  · exact h
  · exact State.cellsOk_foldl_of h (fun _ _ hs => State.cellsOk_evictLine _ _ _ hs)

theorem State.cellsOk_takeAcc {s : State} {gk : ℕ} {x : Kernel} {cores : List ℕ}
    (h : s.cellsOk = true) : (s.takeAcc gk x cores).cellsOk = true := by
  unfold State.takeAcc
  refine State.cellsOk_foldl_of h fun _ _ hs => ?_
  dsimp only
  split
  · split
    · exact hs
    · split <;> exact hs
  · split
    · exact hs
    · split <;> exact hs

theorem State.cellsOk_startPorters {s : State} {gk : ℕ} {x : Kernel} {cores : List ℕ}
    (h : s.cellsOk = true) : (s.startPorters gk x cores).cellsOk = true := by
  unfold State.startPorters
  refine State.cellsOk_foldl_of h fun _ _ hs => ?_
  dsimp only
  split <;> split <;> exact hs

theorem State.cellsOk_nextGangOf {s : State} {l : ℕ} (h : s.cellsOk = true) :
    (s.nextGangOf l).cellsOk = true := by
  unfold State.nextGangOf
  split
  · exact h
  · split
    · exact h
    · exact State.cellsOk_entriesFreed h

theorem State.cellsOk_placeNew {s : State} {gk : ℕ} {g : Gang} {l : Launch} {start : ℕ}
    (h : s.cellsOk = true) : (s.placeNew gk g l start).cellsOk = true :=
  State.cellsOk_nextGangOf (State.cellsOk_modLaunch (State.cellsOk_startPorters
    (State.cellsOk_foldl_of (State.cellsOk_bindTeams (State.cellsOk_frame (State.cellsOk_takeAcc h)
    rfl rfl)) (fun _ _ hs => State.cellsOk_handRows hs))))

theorem State.cellsOk_recheckQueue {s : State} {gid : ℕ} {w : Wait} (h : s.cellsOk = true) :
    (s.recheckQueue gid w).cellsOk = true := by
  unfold State.recheckQueue
  dsimp only
  split
  · exact h
  · split
    · split
      · exact h
      · exact h
      · split
        · exact h
        · exact State.cellsOk_settleTrap h
    · split
      · split
        · exact h
        · exact h
        · split
          · exact h
          · exact State.cellsOk_settleTrap h
      · split <;> exact h

theorem State.cellsOk_recheckGroup {s : State} {gid : ℕ} (h : s.cellsOk = true) :
    (s.recheckGroup gid).cellsOk = true := by
  unfold State.recheckGroup
  dsimp only
  split
  · exact h
  · exact State.cellsOk_foldl_of (State.cellsOk_deferAll h) (fun _ _ hs =>
      State.cellsOk_recheckQueue hs)

theorem State.cellsOk_resumeGroups {s : State} {x : Kernel} {start rank : ℕ} {x1 : List ℕ}
    (h : s.cellsOk = true) : (s.resumeGroups x start rank x1).cellsOk = true := by
  induction x1 generalizing s with
  | nil =>
    unfold State.resumeGroups
    exact h
  | cons x1 r ih =>
    unfold State.resumeGroups
    refine ih ?_
    dsimp only
    split
    · exact h
    · split <;> exact h

theorem State.cellsOk_resumeTeams {s : State} {x : Kernel} {start : ℕ} {x1 : List ℕ}
    (h : s.cellsOk = true) : (s.resumeTeams x start x1).cellsOk = true := by
  induction x1 generalizing s with
  | nil =>
    unfold State.resumeTeams
    exact h
  | cons x1 r ih =>
    unfold State.resumeTeams
    refine ih ?_
    dsimp only
    split
    · exact h
    next he =>
      split
      · exact h
      · exact State.cellsOk_resumeGroups (State.cellsOk_setTeam_of h he rfl)

theorem State.cellsOk_saveAcc {s : State} {gk : ℕ} {k : Gang} {x : Kernel} (h : s.cellsOk = true) :
    (s.saveAcc gk k x).cellsOk = true := by
  unfold State.saveAcc
  split
  · exact State.cellsOk_foldl_of h (fun _ _ hs => hs)
  · exact h

theorem State.cellsOk_restoreAcc {s : State} {gk : ℕ} {g : Gang} {start : ℕ} {x : Kernel}
    (h : s.cellsOk = true) : (s.restoreAcc gk g start x).cellsOk = true := by
  unfold State.restoreAcc
  dsimp only
  split
  · exact h
  · exact State.cellsOk_foldl_of h (fun _ _ hs => hs)

theorem State.cellsOk_placeAgain {s : State} {gk : ℕ} {g : Gang} {l : Launch} {start : ℕ}
    (h : s.cellsOk = true) : (s.placeAgain gk g l start).cellsOk = true := by
  unfold State.placeAgain
  dsimp only
  split
  · exact State.cellsOk_requestKill h
  · exact State.cellsOk_foldl_of (State.cellsOk_restoreAcc (State.cellsOk_foldl_of
      (State.cellsOk_resumeTeams h) (fun _ _ hs => State.cellsOk_handRows hs))) (fun _ _ hs =>
      State.cellsOk_recheckGroup hs)

theorem formed_execGangPlace {gk : ℕ} {s : State} (h : s.cellsOk = true) :
    Formed (execGangPlace gk s) := by
  unfold execGangPlace
  split
  · split
    · trivial
    · split
      · trivial
      · split
        · trivial
        · change State.cellsOk _ = true
          split
          · exact State.cellsOk_placeNew h
          · exact State.cellsOk_placeAgain h
  · trivial
  · trivial

theorem State.kept_saveRecords {s : State} {used : List (ℕ × ℕ)} {x : List (List Byte)}
    (h : s.cellsOk = true) : KeptSome (fun x => x.2.cellsOk = true) (s.saveRecords used x) := by
  induction x generalizing s used with
  | nil =>
    unfold State.saveRecords
    exact h
  | cons x r ih =>
    unfold State.saveRecords
    dsimp only
    split
    · trivial
    · split
      · trivial
      next he1 => exact (kept_of_eq he1 (ih (State.cellsOk_putPhys _ _ _ _ _ h)) :)

theorem formed_execGangSwapOut {gk : ℕ} {s : State} (h : s.cellsOk = true) :
    Formed (execGangSwapOut gk s) := by
  unfold execGangSwapOut
  dsimp only
  split
  · split
    · trivial
    · split
      · trivial
      · split
        · trivial
        next he3 =>
          exact State.cellsOk_foldl_of (State.cellsOk_foldl_of (State.cellsOk_saveAcc (kept_of_eq
            he3 (State.kept_saveRecords h) :)) (fun _ _ hs => State.cellsOk_writeBack _ _ hs))
            (fun _ _ hs => State.cellsOk_modTeam hs (fun _ => rfl))
  · trivial
  · trivial

theorem State.cellsOk_accept {s : State} {id : ℕ} {l : Launch} {pairs : Option (List ℕ)} {start : ℕ}
    (h : s.cellsOk = true) : (s.accept id l pairs start).cellsOk = true := by
  unfold State.accept
  refine State.cellsOk_nextGangOf ?_
  dsimp only
  split
  · refine State.cellsOk_writeLocal _ _ _ _ (State.cellsOk_setLaunch ?_)
    split <;> exact h
  · refine State.cellsOk_setLaunch ?_
    split <;> exact h

theorem State.cellsOk_refuseLaunch {s : State} {id : ℕ} {l : Launch} (h : s.cellsOk = true) :
    (s.refuseLaunch id l).cellsOk = true :=
  State.cellsOk_entriesFreed (State.cellsOk_giveBack (State.cellsOk_postRecord
    (State.cellsOk_writeLocal _ _ _ _ h)))

theorem formed_execAdmissionDecision {id : ℕ} {s : State} (h : s.cellsOk = true) :
    Formed (execAdmissionDecision id s) := by
  unfold execAdmissionDecision
  dsimp only
  split
  · trivial
  · split
    · trivial
    · split
      · exact State.cellsOk_accept h
      · split
        · exact State.cellsOk_accept h
        · split
          · exact State.cellsOk_refuseLaunch h
          · exact State.cellsOk_accept h

theorem formed_execReservationDeadline {id : ℕ} {s : State} (h : s.cellsOk = true) :
    Formed (execReservationDeadline id s) := by
  unfold execReservationDeadline
  dsimp only
  split
  · trivial
  · split
    · exact h
    · trivial

end Sys2Proof.Machine
end

section
/-! SUPPORT. The canonical form through the fabric, the host's requests, the sideband and the porters (R383, R376). -/
namespace Sys2Proof.Machine

/-! ## FabricIn -/

theorem State.cellsOk_ackLink {s : State} {port lack : ℕ} (h : s.cellsOk = true) :
    (s.ackLink port lack).cellsOk = true := by
  unfold State.ackLink
  dsimp only
  split
  · exact h
  · split <;> exact h

theorem State.cellsOk_deliverFlit {s : State} {hd : FlitHdr} {m : FlitMsg} (h : s.cellsOk = true) :
    (s.deliverFlit hd m).cellsOk = true := by
  unfold State.deliverFlit
  dsimp only
  split
  · exact h
  · split
    · exact h
    · split <;> exact h

theorem State.cellsOk_flitIn {s : State} {hd : FlitHdr} {m : FlitMsg} (h : s.cellsOk = true) :
    (s.flitIn hd m).cellsOk = true := by
  unfold State.flitIn
  dsimp only
  split
  · exact State.cellsOk_ackLink h
  · split
    · exact State.cellsOk_deliverFlit (State.cellsOk_ackLink h)
    · split
      · exact State.cellsOk_ackLink h
      · exact State.cellsOk_forward (State.cellsOk_ackLink h)

theorem formed_flitInstr {s : State} {hd : FlitHdr} {m : FlitMsg} {act : State → State}
    (h : s.cellsOk = true) (hact : ∀ (a : State), a.cellsOk = true → (act a).cellsOk = true) :
    Formed (flitInstr s hd m act) := by
  unfold flitInstr
  split
  · exact State.cellsOk_flitIn h
  · split
    · exact hact _ h
    · trivial

theorem formed_execIdle {port lseq lack : ℕ} {s : State} (h : s.cellsOk = true) :
    Formed (execIdle port lseq lack s) := by
  unfold execIdle
  split
  · exact State.cellsOk_ackLink h
  · trivial

theorem formed_execNack {port lseq : ℕ} {s : State} (h : s.cellsOk = true) :
    Formed (execNack port lseq s) := by
  unfold execNack
  dsimp only
  split
  · trivial
  · split <;> exact h

theorem formed_execLinkDown {port : ℕ} {s : State} (h : s.cellsOk = true) :
    Formed (execLinkDown port s) := by
  unfold execLinkDown
  dsimp only
  split
  · trivial
  · exact State.cellsOk_foldl_of h (fun _ _ hs => State.cellsOk_forward hs)

theorem formed_execFlitCrcFailure {port : ℕ} {s : State} (h : s.cellsOk = true) :
    Formed (execFlitCrcFailure port s) := by
  unfold execFlitCrcFailure
  split
  · exact h
  · trivial

theorem formed_execUnknownFlitType {port lseq lack : ℕ} {s : State} (h : s.cellsOk = true) :
    Formed (execUnknownFlitType port lseq lack s) := by
  unfold execUnknownFlitType
  dsimp only
  split
  · trivial
  · split <;> exact State.cellsOk_ackLink h

theorem State.cellsOk_reply {s : State} {hd : FlitHdr} {m : FlitMsg} (h : s.cellsOk = true) :
    (s.reply hd m).cellsOk = true := by
  unfold State.reply
  split
  · exact State.cellsOk_roce h
  · exact State.cellsOk_sendMsg h

theorem State.cellsOk_serveRead {s : State} {hd : FlitHdr} {m : RdReq} (h : s.cellsOk = true) :
    (s.serveRead hd m).cellsOk = true := by
  unfold State.serveRead
  dsimp only
  split
  · exact State.cellsOk_reply h
  · split
    · exact State.cellsOk_meetTile h
    · refine State.cellsOk_ite h ?_
      split
      · exact State.cellsOk_meetTile (State.cellsOk_dropTile _ _ h)
      · split
        · split <;> exact State.cellsOk_reply h
        · exact State.cellsOk_ite (State.cellsOk_reply (State.cellsOk_bucketSteps h))
            (State.cellsOk_reply (State.cellsOk_bucketSteps h))

theorem State.cellsOk_markBad {s : State} {ls : List ℕ} (h : s.cellsOk = true) :
    (s.markBad ls).cellsOk = true :=
  State.cellsOk_setDiffs _ _ h

theorem State.cellsOk_writeParts {s : State} {c : Ctx} {badLines : ℕ}
    {ps : List (WrPart × List Place)} (h : s.cellsOk = true) :
    (s.writeParts c badLines ps).cellsOk = true := by
  unfold State.writeParts
  dsimp only
  split
  · exact State.cellsOk_frame (State.cellsOk_foldl_of h (fun _ _ hs => State.cellsOk_writePlaces _ _
      _ _ hs)) rfl rfl
  · exact State.cellsOk_markBad (State.cellsOk_frame (State.cellsOk_foldl_of h (fun _ _ hs =>
      State.cellsOk_writePlaces _ _ _ _ hs)) rfl rfl)

theorem State.cellsOk_serveWrite {s : State} {hd : FlitHdr} {m : WrReq} (h : s.cellsOk = true) :
    (s.serveWrite hd m).cellsOk = true := by
  unfold State.serveWrite
  dsimp only
  split
  · exact State.cellsOk_reply h
  · split
    · exact State.cellsOk_meetTile h
    · split
      · exact h
      · exact State.cellsOk_reply (State.cellsOk_writeParts h)

theorem State.cellsOk_atomParts {s : State} {c : Ctx} {op : AtomOp} {x : List (AtomPart × Place)}
    (h : s.cellsOk = true) : (s.atomParts c op x).2.cellsOk = true := by
  induction x generalizing s with
  | nil =>
    unfold State.atomParts
    exact h
  | cons x r ih =>
    unfold State.atomParts
    split
    next he => exact ih (State.cellsOk_snd he (State.cellsOk_atomStep h) :)

theorem State.cellsOk_serveAtomic {s : State} {hd : FlitHdr} {m : AtomReqMsg}
    (h : s.cellsOk = true) : (s.serveAtomic hd m).cellsOk = true := by
  unfold State.serveAtomic
  dsimp only
  split
  · exact State.cellsOk_reply h
  · split
    · exact State.cellsOk_meetTile h
    · split
      · exact h
      · split
        · split
          · exact State.cellsOk_meetTile (State.cellsOk_dropTile _ _ h)
          · exact State.cellsOk_reply h
          · exact State.cellsOk_reply h
          · exact State.cellsOk_reply h
        · exact State.cellsOk_reply (State.cellsOk_atomParts h)

theorem formed_execRdreq {hd : FlitHdr} {m : RdReq} {s : State} (h : s.cellsOk = true) :
    Formed (execRdreq hd m s) := by
  unfold execRdreq
  split
  · split
    · exact State.cellsOk_serveRead h
    · trivial
  · exact formed_flitInstr h (fun _ hs => State.cellsOk_serveRead hs)

theorem formed_execWr {hd : FlitHdr} {m : WrReq} {s : State} (h : s.cellsOk = true) :
    Formed (execWr hd m s) := by
  unfold execWr
  split
  · split
    · exact State.cellsOk_serveWrite h
    · trivial
  · exact formed_flitInstr h (fun _ hs => State.cellsOk_serveWrite hs)

theorem State.cellsOk_groupAnswer {s : State} {gid tag : ℕ} {a : Answer} (h : s.cellsOk = true) :
    (s.groupAnswer gid tag a).cellsOk = true := by
  unfold State.groupAnswer
  dsimp only
  split
  · exact h
  · split
    · exact h
    · split
      · exact h
      · exact State.cellsOk_deferAll h

theorem State.cellsOk_keepPosted {s : State} {tag : ℕ} {r : Req} {acks : ℕ} {a : Answer}
    (h : s.cellsOk = true) : (s.keepPosted tag r acks a).cellsOk = true := by
  unfold State.keepPosted
  dsimp only
  split
  · split <;> exact h
  · exact h
  · exact h
  · exact h

theorem State.cellsOk_answerFor {s : State} {tag : ℕ} {a : Answer} (h : s.cellsOk = true) :
    (s.answerFor tag a).cellsOk = true := by
  unfold State.answerFor
  dsimp only
  split
  · exact h
  · split
    · exact State.cellsOk_groupAnswer h
    · exact State.cellsOk_keepPosted (State.cellsOk_groupAnswer h)
    · split <;> exact h
    · exact h
    · split <;> exact h
    · split
      · split
        · split
          · exact h
          · exact State.cellsOk_giveBack h
        · exact h
        · exact h
      · exact State.cellsOk_groupAnswer h
    · exact h
    · exact h
    · exact h

theorem State.cellsOk_answerChecked {s : State} {hd : FlitHdr} {vals : List (ℕ × List Word)}
    {bytes : List Byte} (h : s.cellsOk = true) :
    (s.answerChecked hd vals bytes).cellsOk = true := by
  unfold State.answerChecked
  dsimp only
  split
  · exact State.cellsOk_answerFor h
  · split
    · split
      · exact State.cellsOk_answerFor h
      · refine State.cellsOk_answerFor ?_
        split
        · exact State.cellsOk_deferAll h
        · exact State.cellsOk_groupAnswer h
    · split
      · exact State.cellsOk_answerFor h
      · refine State.cellsOk_answerFor ?_
        split
        · exact State.cellsOk_deferAll h
        · exact State.cellsOk_groupAnswer h
    · exact State.cellsOk_answerFor h
    · exact State.cellsOk_answerFor h
    · exact State.cellsOk_answerFor h
    · exact State.cellsOk_answerFor h
    · exact State.cellsOk_answerFor h
    · exact State.cellsOk_answerFor h
    · exact State.cellsOk_answerFor h
    · exact h

theorem State.cellsOk_dropRequest {s : State} {tag : ℕ} {r : Req} (h : s.cellsOk = true) :
    (s.dropRequest tag r).cellsOk = true := by
  unfold State.dropRequest
  dsimp only
  split
  · split <;> exact State.cellsOk_requestKill h
  · split <;> exact State.cellsOk_requestKill h
  · exact State.cellsOk_requestKill h
  · exact State.cellsOk_requestKill h
  · exact State.cellsOk_requestKill h
  · exact State.cellsOk_requestKill h
  · exact State.cellsOk_requestKill h
  · exact State.cellsOk_requestKill h
  · exact State.cellsOk_requestKill h

theorem formed_execRequestTimeout {tag : ℕ} {s : State} (h : s.cellsOk = true) :
    Formed (execRequestTimeout tag s) := by
  unfold execRequestTimeout
  split
  · trivial
  · split
    · exact State.cellsOk_dropRequest h
    · trivial

theorem formed_execInvoke {hd : FlitHdr} {m : InvokeMsg} {s : State} (h : s.cellsOk = true) :
    Formed (execInvoke hd m s) := by
  unfold execInvoke
  refine formed_flitInstr h fun _ hs => ?_
  split
  · exact State.cellsOk_invokeArrives hs
  · exact State.cellsOk_refuseInvoke hs

theorem kept_ifSound {hd : FlitHdr} {act : State → State} {s : State}
    (hact : ∀ (a : State), a.cellsOk = true → (act a).cellsOk = true) (h : s.cellsOk = true) :
    (ifSound hd act s).cellsOk = true := by
  unfold ifSound
  split
  · exact hact _ h
  · exact h

theorem State.cellsOk_ackSignal {s : State} {hd : FlitHdr} (h : s.cellsOk = true) :
    (s.ackSignal hd).cellsOk = true :=
  State.cellsOk_sendMsg h

theorem formed_execClaimmsg {hd : FlitHdr} {m : ClaimMsgData} {s : State} (h : s.cellsOk = true) :
    Formed (execClaimmsg hd m s) := by
  unfold execClaimmsg
  refine formed_flitInstr h fun _ hs => ?_
  refine kept_ifSound (fun _ hs1 => ?_) hs
  refine State.cellsOk_claimArrives ?_
  split
  · exact State.cellsOk_ackSignal hs1
  · exact hs1
  · exact hs1

theorem State.cellsOk_statusAnswer {s : State} {tag : ℕ} {w : Word} (h : s.cellsOk = true) :
    (s.statusAnswer tag w).cellsOk = true := by
  unfold State.statusAnswer
  split
  · exact h
  · split
    · exact h
    · exact State.cellsOk_answerFor h

theorem formed_execClaimres {hd : FlitHdr} {m : ClaimResData} {s : State} (h : s.cellsOk = true) :
    Formed (execClaimres hd m s) := by
  unfold execClaimres
  refine formed_flitInstr h fun _ hs => ?_
  refine kept_ifSound (fun _ hs1 => ?_) hs
  split
  · exact State.cellsOk_sendClaim hs1
  · exact State.cellsOk_startClaim hs1
  · exact hs1
  · exact State.cellsOk_resolveClaim hs1
  · exact State.cellsOk_breakClaim hs1
  · exact State.cellsOk_statusAnswer hs1

theorem formed_execSignal {hd : FlitHdr} {m : SignalData} {s : State} (h : s.cellsOk = true) :
    Formed (execSignal hd m s) := by
  have hl : ∀ (v w : State) (r : RootAddr), v.cellsOk = true → v.rootLends r = some w → w.cellsOk =
    true := fun _ _ _ => State.cellsOk_of_rootLends
  unfold execSignal
  obtain ⟨lend, hlend⟩ : ∃ f, f = State.rootLends := ⟨_, rfl⟩
  rw [← hlend] at hl ⊢
  refine formed_flitInstr h fun t ht => kept_ifSound (fun u hu => ?_) ht
  split
  · exact State.cellsOk_ackSignal (State.cellsOk_rootTakes hu)
  · split
    next w hw => exact State.cellsOk_sendMsg (hl _ _ _ hu hw)
    · exact State.cellsOk_sendMsg hu
  · exact State.cellsOk_answerFor hu
  · exact State.cellsOk_weightArrives hu
  · split
    · split
      · exact State.cellsOk_ite (State.cellsOk_answered hu) hu
      · exact hu
      all_goals exact State.cellsOk_answered hu
    · exact hu

theorem formed_execColl {hd : FlitHdr} {m : CollData} {s : State} (h : s.cellsOk = true) :
    Formed (execColl hd m s) := by
  unfold execColl
  refine formed_flitInstr h fun _ hs => ?_
  split
  · exact State.cellsOk_collArrives hs
  · split
    · exact hs
    · exact State.cellsOk_tellAll (State.cellsOk_collArrives hs)

/-! ## Changes -/

theorem State.cellsOk_sendReply {s : State} {session seq : ℕ} {bs : List Byte}
    (h : s.cellsOk = true) : (s.sendReply session seq bs).cellsOk = true := by
  unfold State.sendReply
  dsimp only
  split <;> exact h

theorem formed_hcp {hd : HcpHdr} {type : ℕ} {s : State} {act : State → Reply × State}
    (h : s.cellsOk = true) (hact : ∀ (a : State), a.cellsOk = true → (act a).2.cellsOk = true) :
    Formed (hcp hd type s act) := by
  unfold hcp
  dsimp only
  split
  · exact h
  · split
    · exact h
    · split
      · exact h
      · split
        · exact h
        · split
          next he2 => exact State.cellsOk_sendReply (State.cellsOk_snd he2 (hact _ h) :)
          next he2 => exact (State.cellsOk_snd he2 (hact _ h) :)

theorem kept_refuse {status : ℕ} {s : State} (h : s.cellsOk = true) :
    (refuse status s).2.cellsOk = true :=
  h

theorem kept_done {s : State} (h : s.cellsOk = true) : (done s).2.cellsOk = true :=
  h

theorem State.cellsOk_countDone {s : State} (h : s.cellsOk = true) : s.countDone.cellsOk = true :=
  h

theorem State.cellsOk_change {s : State} {kind : ChangeKind} {old : List Page}
    {reply : Option (ℕ × ℕ × List Byte)} (h : s.cellsOk = true) :
    (s.change kind old reply).cellsOk = true :=
  State.cellsOk_frame (State.cellsOk_evictFrames _ _ h) rfl rfl

theorem formed_execChangeDependentAction {s : State} (h : s.cellsOk = true) :
    Formed (execChangeDependentAction s) := by
  unfold execChangeDependentAction
  dsimp only
  split
  · trivial
  · split
    · trivial
    · change State.cellsOk _ = true
      split
      · refine State.cellsOk_countDone ?_
        split <;> exact h
      · refine State.cellsOk_sendReply (State.cellsOk_countDone ?_)
        split <;> exact h

theorem formed_execMap {hd : HcpHdr} {asid la len pa size : ℕ} {attr : Word} {s : State}
    (h : s.cellsOk = true) : Formed (execMap hd asid la len pa size attr s) := by
  unfold execMap
  refine formed_hcp h fun _ hs => ?_
  dsimp only
  split
  · exact kept_refuse hs
  · refine kept_done ?_
    split <;> exact hs

theorem formed_execUnmap {hd : HcpHdr} {asid la len : ℕ} {s : State} (h : s.cellsOk = true) :
    Formed (execUnmap hd asid la len s) := by
  unfold execUnmap
  refine formed_hcp h fun _ hs => ?_
  dsimp only
  split
  · exact kept_refuse hs
  · exact State.cellsOk_change hs

theorem formed_execChange {hd : HcpHdr} {asid la len : ℕ} {attr : Word} {s : State}
    (h : s.cellsOk = true) : Formed (execChange hd asid la len attr s) := by
  unfold execChange
  refine formed_hcp h fun _ hs => ?_
  dsimp only
  split
  · exact kept_refuse hs
  · refine State.cellsOk_change ?_
    split
    · exact State.cellsOk_foldl_of hs (fun _ _ hs1 => hs1)
    · exact hs

theorem formed_execFree {hd : HcpHdr} {asid la len : Nat} {s : State} (h : s.cellsOk = true) :
    Formed (execFree hd asid la len s) := by
  unfold execFree
  refine formed_hcp h fun t ht => ?_
  dsimp only
  split
  · exact kept_refuse ht
  · split
    · exact kept_refuse ht
    · split
      · exact kept_refuse ht
      · exact State.cellsOk_frame (s := (t.unmapIn asid la len).change (.unmap asid la len)
          (t.pagesIn asid la len) none) (State.cellsOk_change ht) rfl rfl

theorem State.cellsOk_copyFrame {s : State} {old new size : Nat} (h : s.cellsOk = true) :
    (s.copyFrame old new size).cellsOk = true :=
  State.cellsOk_of h (foldl_cells_wf _ (fun l c hl => cellsWf_cellPut l c.1 c.2 hl) _ _
    (cellsWf_cellsClear _ _ _ (s.cellsOk_iff.1 h).1)) rfl

theorem formed_execMigrate {hd : HcpHdr} {asid la pa : ℕ} {s : State} (h : s.cellsOk = true) :
    Formed (execMigrate hd asid la pa s) := by
  unfold execMigrate
  refine formed_hcp h fun _ hs => ?_
  dsimp only
  split
  · exact kept_refuse hs
  · split
    · exact kept_refuse hs
    · exact kept_done (State.cellsOk_moveQueues (State.cellsOk_frame (State.cellsOk_copyFrame
        (State.cellsOk_change hs)) rfl rfl))

theorem formed_execDrop {hd : HcpHdr} {asid la : ℕ} {s : State} (h : s.cellsOk = true) :
    Formed (execDrop hd asid la s) := by
  unfold execDrop
  refine formed_hcp h fun _ hs => ?_
  dsimp only
  split
  · exact kept_refuse hs
  · exact kept_done (State.cellsOk_dropTile _ _ hs)

theorem formed_execAsid {hd : HcpHdr} {asid : ℕ} {trapvec : DWord} {s : State}
    (h : s.cellsOk = true) : Formed (execAsid hd asid trapvec s) := by
  unfold execAsid
  refine formed_hcp h fun _ hs => ?_
  dsimp only
  split
  · exact kept_refuse hs
  · exact hs

theorem formed_execDecaytab {hd : HcpHdr} {base : ℕ} {c : Chunk} {s : State}
    (h : s.cellsOk = true) : Formed (execDecaytab hd base c s) := by
  unfold execDecaytab
  refine formed_hcp h fun _ hs => ?_
  dsimp only
  split
  · exact kept_refuse hs
  · split
    · exact kept_refuse hs
    · split
      · exact kept_refuse hs
      · split
        · exact hs
        · exact State.cellsOk_frame (State.cellsOk_putPhys _ _ _ _ _ (State.cellsOk_change hs)) rfl
            rfl

/-! ## Images -/

theorem State.cellsOk_loadImage {s : State} {hd : HcpHdr} {asid base : Nat} {bs : List Byte}
    (h : s.cellsOk = true) : (s.loadImage hd asid base bs).cellsOk = true := by
  unfold State.loadImage
  split
  next img t he =>
    have ht : t.cellsOk = true := State.cellsOk_snd he (State.cellsOk_fresh h)
    extract_lets old u v
    have hv : v.cellsOk = true := State.cellsOk_foldl_of (State.cellsOk_change ht) fun _ _ hs =>
      State.cellsOk_writeLocal _ _ _ _ hs
    clear_value v
    exact hv

theorem formed_execImageload {hd : HcpHdr} {asid base : ℕ} {c : Chunk} {s : State}
    (h : s.cellsOk = true) : Formed (execImageload hd asid base c s) := by
  unfold execImageload
  refine formed_hcp h fun _ hs => ?_
  dsimp only
  split
  · exact kept_refuse hs
  · split
    · exact kept_refuse hs
    · split
      · exact hs
      · split
        · exact hs
        · split
          · exact hs
          · exact State.cellsOk_loadImage hs

theorem formed_execImageunload {hd : HcpHdr} {handle : Word} {s : State} (h : s.cellsOk = true) :
    Formed (execImageunload hd handle s) := by
  unfold execImageunload
  refine formed_hcp h fun _ hs => ?_
  dsimp only
  split
  · exact kept_refuse hs
  · split
    · exact kept_refuse hs
    · exact hs

/-! ## Hcp -/

theorem formed_execIdentify {hd : HcpHdr} {s : State} (h : s.cellsOk = true) :
    Formed (execIdentify hd s) :=
  formed_hcp h (fun _ hs => hs)

theorem formed_execAttest {hd : HcpHdr} {nonce : List Byte} {s : State} (h : s.cellsOk = true) :
    Formed (execAttest hd nonce s) := by
  unfold execAttest
  refine formed_hcp h fun _ hs => ?_
  split
  · exact kept_refuse hs
  · exact hs

theorem formed_execFwload {hd : HcpHdr} {c : Chunk} {s : State} (h : s.cellsOk = true) :
    Formed (execFwload hd c s) := by
  unfold execFwload
  refine formed_hcp h fun _ hs => ?_
  dsimp only
  split
  · exact kept_refuse hs
  · exact hs

theorem formed_execLaunch {hd : HcpHdr} {die asid : ℕ} {record : List Byte} {s : State}
    (h : s.cellsOk = true) : Formed (execLaunch hd die asid record s) := by
  unfold execLaunch
  refine formed_hcp h fun _ hs => ?_
  split
  · exact kept_refuse hs
  · split
    · exact kept_refuse hs
    · split
      · exact kept_refuse hs
      · exact State.cellsOk_openRecord hs

theorem formed_execKill {hd : HcpHdr} {launch : ℕ} {s : State} (h : s.cellsOk = true) :
    Formed (execKill hd launch s) := by
  unfold execKill
  refine formed_hcp h fun _ hs => ?_
  split
  · exact kept_refuse hs
  · split
    · exact kept_refuse hs
    · exact kept_done (State.cellsOk_requestKill hs)

theorem formed_execResume {hd : HcpHdr} {r : ResumeData} {s : State} (h : s.cellsOk = true) :
    Formed (execResume hd r s) := by
  unfold execResume
  refine formed_hcp h fun _ hs => ?_
  dsimp only
  split
  · exact kept_refuse hs
  · split
    · exact kept_refuse hs
    · exact hs

theorem formed_execSpan {hd : HcpHdr} {domains : BitVec 16} {s : State} (h : s.cellsOk = true) :
    Formed (execSpan hd domains s) :=
  formed_hcp h (fun _ hs => hs)

theorem formed_execCtxmem {hd : HcpHdr} {pa len : ℕ} {s : State} (h : s.cellsOk = true) :
    Formed (execCtxmem hd pa len s) := by
  unfold execCtxmem
  refine formed_hcp h fun _ hs => ?_
  dsimp only
  split
  · exact kept_refuse hs
  · exact hs

theorem formed_execRead {hd : HcpHdr} {what : ReadWhat} {s : State} (h : s.cellsOk = true) :
    Formed (execRead hd what s) := by
  unfold execRead
  refine formed_hcp h fun _ hs => ?_
  dsimp only
  split
  · exact hs
  · split
    · exact hs
    · exact kept_refuse hs
  · split
    · exact hs
    · exact kept_refuse hs
  · exact hs

theorem formed_execRoute {hd : HcpHdr} {entries : List (ℕ × List ℕ)} {announce : Option ℕ}
    {s : State} (h : s.cellsOk = true) : Formed (execRoute hd entries announce s) := by
  unfold execRoute
  refine formed_hcp h fun _ hs => ?_
  dsimp only
  split
  · exact kept_refuse hs
  · refine kept_done ?_
    split <;> exact hs

theorem formed_execLose {hd : HcpHdr} {device : ℕ} {s : State} (h : s.cellsOk = true) :
    Formed (execLose hd device s) := by
  unfold execLose
  refine formed_hcp h fun _ hs => ?_
  dsimp only
  split
  · exact kept_refuse hs
  · exact State.cellsOk_foldl_of (State.cellsOk_foldl_of hs (fun _ _ hs1 => State.cellsOk_breakClaim
      hs1)) (fun _ _ hs1 => State.cellsOk_dropRequest hs1)

theorem formed_execAssume {hd : HcpHdr} {device incarnation : ℕ} {s : State}
    (h : s.cellsOk = true) : Formed (execAssume hd device incarnation s) := by
  unfold execAssume
  refine formed_hcp h fun _ hs => ?_
  dsimp only
  split
  · exact kept_refuse hs
  · exact hs

theorem formed_execRkey {hd : HcpHdr} {create : Bool} {rkey asid la len : ℕ} {s : State}
    (h : s.cellsOk = true) : Formed (execRkey hd create rkey asid la len s) := by
  unfold execRkey
  refine formed_hcp h fun _ hs => ?_
  dsimp only
  split
  · split
    · exact kept_refuse hs
    · exact hs
  · split
    · exact kept_refuse hs
    · exact hs

theorem State.cellsOk_rdmaStore {s : State} {rkey la : ℕ} {data : List Byte} {imm : Option Word}
    (h : s.cellsOk = true) : (s.rdmaStore rkey la data imm).cellsOk = true := by
  unfold State.rdmaStore
  split
  · exact State.cellsOk_roce h
  · exact State.cellsOk_serveWrite h

theorem formed_execRdmaRead {rkey la len : ℕ} {s : State} (h : s.cellsOk = true) :
    Formed (execRdmaRead rkey la len s) := by
  unfold execRdmaRead
  change State.cellsOk _ = true
  split
  · exact State.cellsOk_roce h
  · exact State.cellsOk_serveRead h

theorem formed_execPriorityFlowControl {pause : Bool} {s : State} (h : s.cellsOk = true) :
    Formed (execPriorityFlowControl pause s) := by
  unfold execPriorityFlowControl
  change State.cellsOk _ = true
  dsimp only
  split <;> exact h

theorem formed_execHcpEventAck {session count : ℕ} {s : State} (h : s.cellsOk = true) :
    Formed (execHcpEventAck session count s) := by
  unfold execHcpEventAck
  change State.cellsOk _ = true
  dsimp only
  split <;> exact h

theorem formed_execHcpEventResend {session : ℕ} {s : State} (h : s.cellsOk = true) :
    Formed (execHcpEventResend session s) := by
  unfold execHcpEventResend
  dsimp only
  split
  · trivial
  · split
    · trivial
    · exact h

theorem formed_execHcpUnlistedType {hd : HcpHdr} {type : ℕ} {s : State} (h : s.cellsOk = true) :
    Formed (execHcpUnlistedType hd type s) := by
  unfold execHcpUnlistedType
  split
  · trivial
  · exact formed_hcp h (fun _ hs => kept_refuse hs)

/-! ## Sideband -/

theorem formed_execBootVerify {s : State} (h : s.cellsOk = true) : Formed (execBootVerify s) := by
  unfold execBootVerify
  dsimp only
  split
  · trivial
  · exact h

theorem State.cellsOk_reset' {s : State} {st : BootState} : (s.reset' st).cellsOk = true := rfl

theorem formed_execPowerOnReset {s : State} : Formed (execPowerOnReset s) := rfl

theorem formed_execSbrstn {high : Bool} {s : State} (h : s.cellsOk = true) :
    Formed (execSbrstn high s) := by
  unfold execSbrstn
  dsimp only
  split
  · exact h
  · split
    · exact h
    · exact s.cellsOk_reset' (st := .held)

theorem formed_sideband {s : State} {act : State → ℕ × List Byte × State} (h : s.cellsOk = true)
    (hact : ∀ (a : State), a.cellsOk = true → (act a).2.2.cellsOk = true) :
    Formed (sideband s act) := by
  unfold sideband
  split
  · exact h
  · exact hact _ h

theorem formed_execHold {hold : Bool} {s : State} (h : s.cellsOk = true) :
    Formed (execHold hold s) := by
  unfold execHold
  refine formed_sideband h fun t ht => ?_
  dsimp only
  split
  · exact t.cellsOk_reset' (st := .held)
  · split
    · exact ht
    · split <;> exact ht

theorem formed_execState {s : State} (h : s.cellsOk = true) : Formed (execState s) :=
  formed_sideband h (fun _ hs => hs)

theorem formed_execSetip {addr plen gateway : ℕ} {s : State} (h : s.cellsOk = true) :
    Formed (execSetip addr plen gateway s) :=
  formed_sideband h (fun _ hs => hs)

theorem formed_execSession {index : ℕ} {install : Bool} {d : SessionData} {s : State}
    (h : s.cellsOk = true) : Formed (execSession index install d s) := by
  unfold execSession
  refine formed_sideband h fun _ hs => ?_
  dsimp only
  split
  · exact hs
  · split <;> exact hs

theorem formed_execTelemetry {page : ℕ} {s : State} (h : s.cellsOk = true) :
    Formed (execTelemetry page s) :=
  formed_sideband h (fun _ hs => hs)

theorem formed_execEvent {s : State} (h : s.cellsOk = true) : Formed (execEvent s) := by
  unfold execEvent
  refine formed_sideband h fun _ hs => ?_
  dsimp only
  split <;> exact hs

theorem formed_execSbIdentify {s : State} (h : s.cellsOk = true) : Formed (execSbIdentify s) :=
  formed_sideband h (fun _ hs => hs)

theorem formed_execSidebandBadRequest {request : List Byte} {s : State} (h : s.cellsOk = true) :
    Formed (execSidebandBadRequest request s) :=
  formed_sideband h (fun _ hs => hs)

theorem formed_execDynamicAddressAssign {addr : ℕ} {s : State} (h : s.cellsOk = true) :
    Formed (execDynamicAddressAssign addr s) := by
  unfold execDynamicAddressAssign
  dsimp only
  split
  · exact h
  · split
    · trivial
    · exact h

/-! ## Porters -/

theorem State.cellsOk_pwrite {s : State} {k : ℕ} {p : Porter} {l : PLoc} {n v : ℕ}
    (h : s.cellsOk = true) : (s.pwrite k p l n v).2.cellsOk = true := by
  unfold State.pwrite
  dsimp only
  split
  · exact h
  · exact h
  · exact h
  · exact State.cellsOk_putBytes _ _ _ _ _ h

theorem State.cellsOk_porterRelease {s : State} {p : Porter} {on : Bool} (h : s.cellsOk = true) :
    (s.porterRelease p on).cellsOk = true := by
  unfold State.porterRelease
  split
  · exact State.cellsOk_writeBack _ _ h
  · exact h

theorem State.kept_pload {s : State} {p : Porter} {len n : ℕ} {sgn : Bool} {rd : XReg} {a : ℕ}
    (h : s.cellsOk = true) : KeptAct (s.pload p len n sgn rd a) := by
  unfold State.pload
  dsimp only
  split
  · trivial
  · split
    · trivial
    · split
      · split <;> trivial
      · split
        · trivial
        · split <;> trivial
      · exact h
      · exact h
      · exact h
      · split
        · trivial
        · exact h

theorem State.kept_pstore {s : State} {k : ℕ} {p : Porter} {len n : ℕ} {v : Word} {a : ℕ}
    (h : s.cellsOk = true) : KeptAct (s.pstore k p len n v a) := by
  unfold State.pstore
  split
  · trivial
  · split
    · trivial
    · trivial
    · split
      · trivial
      · change State.cellsOk _ = true
        dsimp only
        split
        · exact h
        · exact h
        · exact h
        · exact State.cellsOk_putBytes _ _ _ _ _ h

theorem State.kept_pcsrAct {s : State} {p : Porter} {len : ℕ} {w : Word} {op : RvCsrOp} {rd : XReg}
    {num : ℕ} {v : Word} {writes : Bool} (h : s.cellsOk = true) :
    KeptAct (s.pcsrAct p len w op rd num v writes) := by
  unfold State.pcsrAct
  dsimp only
  split
  · trivial
  · split
    · trivial
    · exact h

theorem State.kept_pexec {s : State} {k : ℕ} {p : Porter} {len : ℕ} {w : Word} {i : Rv}
    (h : s.cellsOk = true) : KeptAct (s.pexec k p len w i) := by
  unfold State.pexec
  dsimp only
  split
  · exact h
  · exact h
  · exact h
  · exact h
  · exact h
  · exact State.kept_pload h
  · exact State.kept_pstore h
  · exact h
  · exact h
  · exact h
  · exact State.cellsOk_porterRelease h
  · exact h
  · trivial
  · trivial
  · exact h
  · exact h
  · exact State.kept_pcsrAct h
  · exact State.kept_pcsrAct h
  · split
    · trivial
    · split
      · trivial
      · exact State.cellsOk_porterRelease h
  · split
    · trivial
    · split
      · split
        · exact State.cellsOk_pwrite (State.cellsOk_porterRelease h)
        · exact h
      · split
        · exact State.cellsOk_pwrite (State.cellsOk_porterRelease h)
        · exact h
  · split
    · trivial
    · split
      · trivial
      · exact State.cellsOk_pwrite (State.cellsOk_porterRelease h)

theorem State.kept_porterAct {s : State} {k : ℕ} {p : Porter} (h : s.cellsOk = true) :
    KeptAct (s.porterAct k p) := by
  unfold State.porterAct
  dsimp only
  split
  · trivial
  · split
    · trivial
    · split
      · split
        · trivial
        · exact State.kept_pexec h
      · split
        · trivial
        · split
          · trivial
          · exact State.kept_pexec h

theorem formed_porterStep {core : Nat} {role : Role} {s : State}
    {f : Nat → Porter → PAct → Option State} (h : s.cellsOk = true)
    (hf : ∀ k p a, KeptAct a → KeptSome (fun x => x.cellsOk = true) (f k p a)) :
    Formed (porterStep core role s f) := by
  unfold porterStep
  split
  · trivial
  · split
    · trivial
    · split
      · trivial
      next t he => exact (kept_of_eq he (hf _ _ _ (State.kept_porterAct h)) :)

theorem formed_execPorterInstruction {core : Nat} {role : Role} {s : State} (h : s.cellsOk = true) :
    Formed (execPorterInstruction core role s) := by
  refine formed_porterStep h fun k p a ha => ?_
  cases a with
  | plain q t => exact ha
  | window _ _ _ => trivial
  | get _ _ _ _ => trivial
  | put _ _ _ _ => trivial
  | ecall => trivial
  | trap _ _ => trivial

theorem formed_execPorterEcall {core : ℕ} {role : Role} {s : State} (h : s.cellsOk = true) :
    Formed (execPorterEcall core role s) := by
  unfold execPorterEcall
  refine formed_porterStep h fun _ _ _ _ => ?_
  split
  · exact h
  · trivial
  · trivial
  · trivial
  · trivial
  · trivial

theorem formed_execPorterException {core : ℕ} {role : Role} {s : State} (h : s.cellsOk = true) :
    Formed (execPorterException core role s) := by
  unfold execPorterException
  refine formed_porterStep h fun _ _ _ _ => ?_
  dsimp only
  split
  · change State.cellsOk _ = true
    split
    · exact State.cellsOk_requestKill h
    · exact h
  · trivial
  · trivial
  · trivial
  · trivial
  · trivial

theorem formed_execGo {core : ℕ} {role : Role} {s : State} (h : s.cellsOk = true) :
    Formed (execGo core role s) := by
  unfold execGo
  refine formed_porterStep h fun _ _ _ _ => ?_
  dsimp only
  split
  · split
    · trivial
    · exact h
  · trivial
  · trivial
  · trivial
  · trivial
  · trivial
  · trivial

theorem formed_execFaultClear {core : ℕ} {role : Role} {s : State} (h : s.cellsOk = true) :
    Formed (execFaultClear core role s) := by
  unfold execFaultClear
  refine formed_porterStep h fun _ _ _ _ => ?_
  dsimp only
  split
  · split
    · exact h
    · trivial
  · trivial
  · trivial
  · trivial
  · trivial
  · trivial
  · trivial

theorem formed_execPorterWindowWrite {core : ℕ} {role : Role} {s : State} (h : s.cellsOk = true) :
    Formed (execPorterWindowWrite core role s) := by
  unfold execPorterWindowWrite
  refine formed_porterStep h fun _ _ _ _ => ?_
  dsimp only
  split
  · split
    · trivial
    · exact h
  · trivial
  · trivial
  · trivial
  · trivial
  · trivial

theorem formed_execCbget {core : ℕ} {role : Role} {s : State} (h : s.cellsOk = true) :
    Formed (execCbget core role s) := by
  unfold execCbget
  refine formed_porterStep h fun _ _ _ _ => ?_
  dsimp only
  split
  · split
    · exact State.cellsOk_cbufTake h
    · split
      · trivial
      · exact h
  · trivial
  · trivial
  · trivial
  · trivial
  · trivial

theorem formed_execCbput {core : ℕ} {role : Role} {s : State} (h : s.cellsOk = true) :
    Formed (execCbput core role s) := by
  unfold execCbput
  refine formed_porterStep h fun _ _ _ _ => ?_
  split
  · split
    · trivial
    next he => exact (kept_of_eq he (State.kept_cbufPut (State.cellsOk_porterRelease h)) :)
  · trivial
  · trivial
  · trivial
  · trivial
  · trivial

theorem State.cellsOk_settlePorter {s : State} {k : ℕ} {p : Porter} (h : s.cellsOk = true) :
    (s.settlePorter k p).cellsOk = true := by
  unfold State.settlePorter
  split <;> exact h

theorem State.cellsOk_commandEnds {s : State} {p : Porter} {c : PorterCmd} (h : s.cellsOk = true) :
    (s.commandEnds p c).2.cellsOk = true := by
  unfold State.commandEnds
  dsimp only
  split
  · exact h
  · split
    · exact h
    · split
      · exact h
      · split
        · exact h
        · split
          · exact h
          next he1 => exact (kept_of_eq he1 (State.kept_cbufPut (State.cellsOk_porterRelease h)) :)

theorem State.cellsOk_rowOver {s : State} {k id : ℕ} {bad : Option (Cause × DWord)}
    (h : s.cellsOk = true) : (s.rowOver k id bad).cellsOk = true := by
  unfold State.rowOver
  dsimp only
  split
  · exact h
  · split
    · exact h
    · exact State.cellsOk_settlePorter h
    · split
      · exact h
      · exact State.cellsOk_settlePorter (State.cellsOk_commandEnds h)

theorem formed_execPorterCommandComplete {core : ℕ} {role : Role} {s : State}
    (h : s.cellsOk = true) : Formed (execPorterCommandComplete core role s) := by
  unfold execPorterCommandComplete
  dsimp only
  split
  · trivial
  · split
    · trivial
    · split
      · split
        · trivial
        · split
          · exact State.cellsOk_performCopy h (fun _ _ hs => State.cellsOk_rowOver hs)
          · trivial
      · split
        · trivial
        · exact State.cellsOk_performCopy h (fun _ _ hs => State.cellsOk_rowOver hs)

end Sys2Proof.Machine
end

section
/-! SUPPORT. The canonical form through every instruction and every step (R383, R376). -/
namespace Sys2Proof.Machine

/-! ## Dispatch -/

theorem formed_exec {i : Instr} {s : State} (h : s.cellsOk = true) : Formed (exec i s) := by
  cases i with
  | add | sub | mul | mulh | mulhu | and | or | xor | shl | shr | sar | rot | min | max | minu | maxu | bfx | bfxu =>
    exact formed_int2 h
  | mad => exact formed_execMad h
  | abs | clz | popc | brev | mov => exact formed_int1 h
  | sel => exact formed_execSel h
  | bfi => exact formed_int3 h
  | addc => exact formed_execAddc h
  | subb => exact formed_execSubb h
  | addS => exact formed_execAddS h
  | addUs => exact formed_execAddUs h
  | subS => exact formed_execSubS h
  | subUs => exact formed_execSubUs h
  | cmpEq => exact formed_execCmpEq h
  | cmpNe => exact formed_execCmpNe h
  | cmpLt => exact formed_execCmpLt h
  | cmpLe => exact formed_execCmpLe h
  | cmpGt => exact formed_execCmpGt h
  | cmpGe => exact formed_execCmpGe h
  | cmpLtu => exact formed_execCmpLtu h
  | cmpLeu => exact formed_execCmpLeu h
  | cmpGtu => exact formed_execCmpGtu h
  | cmpGeu => exact formed_execCmpGeu h
  | ballot => exact State.formed_issue (fun _ _ => State.cellsOk_lanewise h)
  | voteAll => exact formed_execVoteAll h
  | voteAny => exact formed_execVoteAny h
  | voteUni => exact formed_execVoteUni h
  | perm | rngKey | rngDraw | rngDrawF32 | rngDrawF64 | rngSkip | aset | movImm | lop3 | lop3Not =>
    exact formed_laneInstr h
  | callv =>
    exact State.formed_issue (fun _ _ => State.cellsOk_laneJump h (fun _ hs => State.cellsOk_post
      hs))
  | retv => exact State.formed_issue (fun _ _ => State.cellsOk_laneJump h (fun _ hs => hs))
  | rejoin => exact formed_execRejoin h
  | exitl => exact formed_execExitl h
  | fadd | fmul | fdiv | dadd | dmul | ddiv => exact formed_fp2 h
  | fsub => exact formed_execFsub h
  | ffma | dfma => exact formed_fp3 h
  | fmin | fmax | dmin | dmax => exact formed_fpMinMax h
  | fcls | fsgnNeg | fsgnAbs => exact formed_floatInstr h
  | fsqrt | frsq | fex2 | flg2 | dsqrt => exact formed_fp1 h
  | frcp => exact formed_execFrcp h
  | fsgnCpy => exact formed_execFsgnCpy h
  | fsgnXor => exact formed_execFsgnXor h
  | frndRn | frndRz | frndRm | frndRp | drndRn | drndRz | drndRm | drndRp => exact formed_fpRound h
  | fcmpEq | fcmpNe | fcmpLt | fcmpLe | fcmpGt | fcmpGe | fcmpUn | fcmpOrd | dcmpEq | dcmpNe | dcmpLt | dcmpLe | dcmpGt | dcmpGe | dcmpUn | dcmpOrd =>
    exact formed_fpCompare h
  | dsub => exact formed_execDsub h
  | hadd2 | hmul2 | hfma2 | hmax2 | badd2 | bmul2 | bfma2 | bmax2 => exact formed_packed h
  | cvt | cvtSat | cvtRn | cvtRz | cvtRm | cvtRp => exact formed_convert h
  | pkF16 | pkBf16 | pkE4m3 | pkE5m2 | pkE4m3Sat | pkE5m2Sat => exact formed_packTwo h
  | pkI8 => exact formed_execPkI8 h
  | pkI8S => exact formed_execPkI8S h
  | pkBq4T0 | pkBq4T1 | pkBq4T2 | pkBq4T3 => exact formed_packBq4 h
  | unpkF16 => exact formed_execUnpkF16 h
  | unpkBf16 => exact formed_execUnpkBf16 h
  | unpkE4m3 => exact formed_execUnpkE4m3 h
  | unpkE5m2 => exact formed_execUnpkE5m2 h
  | unpkI8 => exact formed_execUnpkI8 h
  | unpkBq4 => exact formed_execUnpkBq4 h
  | aget | aadd | amerge => exact formed_agedInstr h
  | addImm => exact formed_execAddImm h
  | andImm => exact formed_execAndImm h
  | orImm => exact formed_execOrImm h
  | xorImm => exact formed_execXorImm h
  | shlImm => exact formed_execShlImm h
  | shrImm => exact formed_execShrImm h
  | sarImm => exact formed_execSarImm h
  | rotImm => exact formed_execRotImm h
  | brcNz | brcZ => exact State.formed_issue (fun _ _ => State.cellsOk_laneBranch h)
  | ld | ldRaw => exact formed_loadInstr h
  | st | stRaw => exact formed_storeInstr h
  | prefetchL2 a f => exact formed_execPrefetchL2 (a := a) (f := f) h
  | prefetchL1 a f => exact formed_execPrefetchL1 (a := a) (f := f) h
  | atomOAdd | atomOAnd | atomOOr | atomOXor | atomOMin | atomOMax | atomOMinu | atomOMaxu
    | atomUAdd | atomUAnd | atomUOr | atomUXor | atomUMin
  | atomUMax | atomUMinu | atomUMaxu | atomOExch | atomOCas | atomOAdd64 | atomOExch64 | atomOCas64
    | atomUExch | atomUCas | atomUAdd64 | atomUExch64
  | atomUCas64 | fatomOFadd | fatomOFmin | fatomOFmax | fatomODadd | fatomOHadd2 | fatomOBadd2
    | fatomUFadd | fatomUFmin | fatomUFmax | fatomUDadd
  | fatomUHadd2 | fatomUBadd2 => exact formed_atomInstr h
  | cpAsyncIn | cpAsyncOut => exact formed_copyInstr h
  | cpRows => exact formed_tokenInstr h
  | cpMcastO | cpMcastU => exact formed_mcastInstr h
  | cbufGet => exact formed_execCbufGet h
  | cbufPut => exact formed_execCbufPut h
  | qpushO | qpushU => exact formed_pushInstr h
  | qpop => exact formed_execQpop h
  | bucketArrive => exact formed_execBucketArrive h
  | barTag => exact formed_execBarTag h
  | rcpReg => exact formed_execRcpReg h
  | rcpDrop => exact formed_execRcpDrop h
  | rcpPin => exact formed_execRcpPin h
  | rcpUnpin => exact formed_execRcpUnpin h
  | tileState => exact formed_execTileState h
  | mmLdw | mmSwapw | mmRun | mmSwapacc | mmAccrd | mmAccwr | mmDrain | mmRegrow | bsAsm | bsLu
    | bsLdl | bsTrsv | bsPgs | bsBack | srtKeys
  | srtPairs | trvBuild | trvQuery => exact formed_postInstr h
  | mmAmax => exact formed_execMmAmax h
  | bsStat => exact formed_execBsStat h
  | phaseRegroup | phaseRestore => exact formed_phaseInstr h
  | collPost => exact formed_execCollPost h
  | gNop => exact formed_execGNop h
  | gMov => exact formed_execGMov h
  | gAdd => exact formed_execGAdd h
  | gSub => exact formed_execGSub h
  | gMul => exact formed_execGMul h
  | gMulh => exact formed_execGMulh h
  | gMulhU => exact formed_execGMulhU h
  | gAnd => exact formed_execGAnd h
  | gOr => exact formed_execGOr h
  | gXor => exact formed_execGXor h
  | gShl => exact formed_execGShl h
  | gShr => exact formed_execGShr h
  | gSar => exact formed_execGSar h
  | gCmp => exact formed_execGCmp h
  | gSel => exact formed_execGSel h
  | gMin => exact formed_execGMin h
  | gMinU => exact formed_execGMinU h
  | gMax => exact formed_execGMax h
  | gMaxU => exact formed_execGMaxU h
  | gRet | gJmp | gBrNz | gBrZ | gCall | gLoop =>
    exact State.formed_issue (fun _ _ => State.cellsOk_uniformJump h)
  | gYield => exact formed_execGYield h
  | gExit => exact State.formed_issue (fun _ _ => State.cellsOk_exitGroup h)
  | gLanes => exact formed_execGLanes h
  | gElect => exact State.formed_issue (fun _ _ => State.cellsOk_deliver h)
  | gEret => exact formed_execGEret h
  | gClockO | gClockU | gStepget =>
    exact State.formed_issue (fun _ _ => State.cellsOk_answerAfter h)
  | gLaunch | gTrylaunch => exact formed_launchInstr h
  | gReplay => exact formed_execGReplay h
  | gInvoke | gInvokeh => exact formed_invokeInstr h
  | gAwait | gAwaitT => exact formed_awaitInstr h
  | gHstat => exact formed_execGHstat h
  | gWsplit => exact formed_execGWsplit h
  | gWgive => exact formed_execGWgive h
  | gBar => exact formed_execGBar h
  | gBarrive => exact State.formed_issue (fun _ _ => State.cellsOk_arriveAt h)
  | gBarwait => exact formed_execGBarwait h
  | gWait => exact formed_execGWait h
  | gSeal => exact formed_execGSeal h
  | gBwait => exact formed_execGBwait h
  | gFenceRel | gFenceAcq | gFenceFull => exact formed_fenceInstr h
  | gStepadv => exact formed_execGStepadv h
  | gSweep => exact formed_execGSweep h
  | gSweepwait => exact formed_execGSweepwait h
  | gLi => exact formed_execGLi h
  | gLui => exact formed_execGLui h
  | gAddImm => exact formed_execGAddImm h
  | gAndImm => exact formed_execGAndImm h
  | gOrImm => exact formed_execGOrImm h
  | gXorImm => exact formed_execGXorImm h
  | gCsrr => exact formed_execGCsrr h
  | gCsrw | gCsrs | gCsrc => exact formed_csrWriteInstr h
  | gTrap => exact State.formed_issue (fun _ _ => State.cellsOk_raise h)
  | gFeat => exact formed_execGFeat h
  | gSetroute => exact formed_execGSetroute h
  | issueCycle => exact formed_execIssueCycle h
  | rejoinStall => exact formed_execRejoinStall h
  | scoreboardedResult => exact formed_execScoreboardedResult h
  | exitWaitEnd => exact formed_execExitWaitEnd h
  | heldAccessResume => exact formed_execHeldAccessResume h
  | heldStoreApply => exact formed_execHeldStoreApply h
  | copyComplete => exact formed_execCopyComplete h
  | rowGatherComplete => exact formed_execRowGatherComplete h
  | multicastComplete => exact formed_execMulticastComplete h
  | cbufGetGrant => exact formed_execCbufGetGrant h
  | queuePushReserve => exact formed_execQueuePushReserve h
  | queuePopDeliver => exact formed_execQueuePopDeliver h
  | benchTakeItem => exact formed_execBenchTakeItem h
  | solverTakeItem => exact formed_execSolverTakeItem h
  | sortTakeRange => exact formed_execSortTakeRange h
  | engineCommandComplete => exact formed_execEngineCommandComplete h
  | drainSweepOrder => exact formed_execDrainSweepOrder h
  | sweepComplete => exact formed_execSweepComplete h
  | phaseCompactorRun => exact formed_execPhaseCompactorRun h
  | collStart => exact formed_execCollStart h
  | collGate => exact formed_execCollGate h
  | collTimeout => exact formed_execCollTimeout h
  | recomputeEntryWaitEnd => exact formed_execRecomputeEntryWaitEnd h
  | recomputeComplete => exact formed_execRecomputeComplete h
  | recipeChainEnd => exact formed_execRecipeChainEnd h
  | tileEvictDrop => exact formed_execTileEvictDrop h
  | patrolScrub => exact formed_execPatrolScrub h
  | ticketSegmentApply => exact formed_execTicketSegmentApply h
  | admissionDecision => exact formed_execAdmissionDecision h
  | gangPlace => exact formed_execGangPlace h
  | gangSwapOut => exact formed_execGangSwapOut h
  | reservationDeadline => exact formed_execReservationDeadline h
  | overrun => exact formed_execOverrun h
  | launchKill => exact formed_execLaunchKill h
  | launchComplete => exact formed_execLaunchComplete h
  | replayStart => exact formed_execReplayStart h
  | replayComplete => exact formed_execReplayComplete h
  | claimExpire => exact formed_execClaimExpire h
  | changeDependentAction => exact formed_execChangeDependentAction h
  | rdreq => exact formed_execRdreq h
  | rdrsp | atomrsp => exact formed_flitInstr h (fun _ hs => State.cellsOk_answerChecked hs)
  | wr => exact formed_execWr h
  | wrack | failrsp => exact formed_flitInstr h (fun _ hs => State.cellsOk_answerFor hs)
  | atomreq => exact formed_flitInstr h (fun _ hs => State.cellsOk_serveAtomic hs)
  | invoke => exact formed_execInvoke h
  | claimmsg => exact formed_execClaimmsg h
  | claimres => exact formed_execClaimres h
  | signal => exact formed_execSignal h
  | coll => exact formed_execColl h
  | idle port lseq lack => exact formed_execIdle (lseq := lseq) h
  | nack => exact formed_execNack h
  | mgmt => exact formed_flitInstr h (fun _ hs => hs)
  | linkDown => exact formed_execLinkDown h
  | requestTimeout => exact formed_execRequestTimeout h
  | rdmaWrite | rdmaWriteWithImmediate => exact State.cellsOk_rdmaStore h
  | rdmaRead => exact formed_execRdmaRead h
  | roceInvalidRequest => exact State.cellsOk_roce h
  | identify => exact formed_execIdentify h
  | attest => exact formed_execAttest h
  | fwload => exact formed_execFwload h
  | imageload => exact formed_execImageload h
  | imageunload => exact formed_execImageunload h
  | launch => exact formed_execLaunch h
  | kill => exact formed_execKill h
  | resume => exact formed_execResume h
  | map => exact formed_execMap h
  | unmap => exact formed_execUnmap h
  | change => exact formed_execChange h
  | free => exact formed_execFree h
  | migrate => exact formed_execMigrate h
  | drop => exact formed_execDrop h
  | asid => exact formed_execAsid h
  | decaytab => exact formed_execDecaytab h
  | span => exact formed_execSpan h
  | ctxmem => exact formed_execCtxmem h
  | read => exact formed_execRead h
  | route => exact formed_execRoute h
  | lose => exact formed_execLose h
  | assume => exact formed_execAssume h
  | rkey => exact formed_execRkey h
  | hcpEventAck => exact formed_execHcpEventAck h
  | hcpEventResend => exact formed_execHcpEventResend h
  | hold => exact formed_execHold h
  | state => exact formed_execState h
  | setip => exact formed_execSetip h
  | session => exact formed_execSession h
  | telemetry => exact formed_execTelemetry h
  | event => exact formed_execEvent h
  | sbIdentify => exact formed_execSbIdentify h
  | dynamicAddressAssign => exact formed_execDynamicAddressAssign h
  | sbrstn => exact formed_execSbrstn h
  | powerOnReset => exact formed_execPowerOnReset
  | bootVerify => exact formed_execBootVerify h
  | go => exact formed_execGo h
  | cbget => exact formed_execCbget h
  | cbput => exact formed_execCbput h
  | faultClear => exact formed_execFaultClear h
  | porterWindowWrite => exact formed_execPorterWindowWrite h
  | porterCommandComplete => exact formed_execPorterCommandComplete h
  | porterEcall => exact formed_execPorterEcall h
  | porterException => exact formed_execPorterException h
  | porterInstruction => exact formed_execPorterInstruction h
  | flitCrcFailure => exact formed_execFlitCrcFailure h
  | unknownFlitType => exact formed_execUnknownFlitType h
  | hcpUnlistedType => exact formed_execHcpUnlistedType h
  | hcpFrameDiscard | congestionNotificationPacket | ethernetLink => exact h
  | sidebandBadRequest request => exact formed_execSidebandBadRequest (request := request) h
  | priorityFlowControl => exact formed_execPriorityFlowControl h

/-! ## Frames -/

theorem State.cellsOk_request' {s : State} {type : ℕ} {hd : HcpHdr} {payload : List Byte}
    (h : s.cellsOk = true) : (s.request' type hd payload).cellsOk = true := by
  unfold State.request'
  split
  · exact h
  · split
    next he1 => exact (kept_of_eq he1 (formed_hcp h (fun _ hs => kept_refuse hs)) :)
    · exact h
    · exact h

theorem State.cellsOk_takeUdp {s : State} {source port : ℕ} {bs : List Byte}
    (h : s.cellsOk = true) : (s.takeUdp source port bs).cellsOk = true := by
  unfold State.takeUdp
  dsimp only
  split
  · exact h
  · split
    · exact h
    · split
      · exact h
      · split
        · exact State.cellsOk_request' h
        · exact h

theorem State.cellsOk_takeSideband {s : State} {bs : List Byte} (h : s.cellsOk = true) :
    (s.takeSideband bs).cellsOk = true := by
  unfold State.takeSideband
  dsimp only
  split
  · exact h
  · split <;> exact h

theorem State.cellsOk_readSideband {s : State} (h : s.cellsOk = true) :
    s.readSideband.cellsOk = true := by
  unfold State.readSideband
  dsimp only
  split
  · exact h
  · split <;> exact h

theorem State.cellsOk_takeRoce {s : State} {qp : ℕ} {marked : Bool} {op : Instr}
    (h : s.cellsOk = true) : (s.takeRoce qp marked op).cellsOk = true := by
  unfold State.takeRoce
  dsimp only
  split
  · exact h
  · split
    · split <;> exact State.cellsOk_roce h
    · split <;> exact h

theorem State.cellsOk_takeFrame {s : State} {f : Frame} (h : s.cellsOk = true) :
    (s.takeFrame f).cellsOk = true := by
  unfold State.takeFrame
  split
  · exact h
  · exact State.cellsOk_takeUdp h
  · split
    · exact State.cellsOk_takeRoce h
    · exact h
  · exact State.cellsOk_takeSideband h
  · exact State.cellsOk_readSideband h

theorem State.cellsOk_emit {s : State} {o : Out} (h : s.cellsOk = true) :
    (s.emit o).cellsOk = true := by
  unfold State.emit
  dsimp only
  split <;> exact h

/-! ## Agents -/

theorem State.formed_runInstr {s : State} {i : Instr} (h : s.cellsOk = true) :
    Formed (s.runInstr i) := by
  unfold State.runInstr
  split
  next he => exact State.cellsOk_afterSlot (kept_of_eq he (formed_exec h) :)
  · trivial
  · trivial

theorem State.formed_runWord {s : State} {p : Packet} {g : Group} (h : s.cellsOk = true) :
    Formed (s.runWord p g) := by
  unfold State.runWord
  dsimp only
  split
  · exact State.cellsOk_afterSlot (State.cellsOk_trapAt h)
  · exact State.cellsOk_afterSlot (State.cellsOk_trapAt h)
  · exact State.cellsOk_afterSlot (State.cellsOk_trapAt h)
  · exact State.cellsOk_afterSlot (State.cellsOk_trapAt h)
  · exact State.cellsOk_afterSlot (State.cellsOk_trapAt h)
  · split
    · exact State.formed_runInstr h
    · split
      · exact State.cellsOk_afterSlot (State.cellsOk_trapAt h)
      · split
        · exact State.cellsOk_afterSlot (State.cellsOk_trapDeferred h)
        · split
          · exact State.cellsOk_afterSlot (State.cellsOk_blockHere h h)
          · exact State.formed_runInstr h

theorem State.formed_runSlot {s : State} {p : Packet} (h : s.cellsOk = true) :
    Formed (s.runSlot p) := by
  unfold State.runSlot
  dsimp only
  split
  · exact h
  · split
    · exact h
    · split
      · exact State.formed_runWord h
      · split
        · exact State.cellsOk_afterSlot (State.cellsOk_trapAt h)
        · exact State.formed_runWord h
        · trivial
        · split
          · exact State.cellsOk_afterSlot (State.cellsOk_trapAt h)
          · exact State.formed_runWord h

theorem State.cellsOk_noteStalls {s : State} (h : s.cellsOk = true) : s.noteStalls.cellsOk = true :=
  h

theorem State.cellsOk_resume {s : State} {gid : ℕ} {w : Wait} (h : s.cellsOk = true) :
    (s.resume gid w).cellsOk = true := by
  unfold State.resume
  split
  · exact h
  · split <;> exact h

theorem State.formed_takeIn {s : State} {i : Instr} (h : s.cellsOk = true) :
    Formed (s.takeIn i) := by
  unfold State.takeIn
  split
  next he => exact (kept_of_eq he (formed_exec h) :)
  · trivial
  · exact h

theorem State.cellsOk_upset {s : State} (h : s.cellsOk = true) : s.upset.cellsOk = true := by
  unfold State.upset
  dsimp only
  split
  · exact h
  · exact h
  · split <;> exact h
  · split <;> exact h
  · exact h
  · split
    · exact h
    · split
      · exact h
      · exact State.cellsOk_requestKill h
  · split <;> exact h
  · exact h

theorem State.formed_act {s : State} {c : Choice} (h : s.cellsOk = true) : Formed (s.act c) := by
  unfold State.act
  split
  · exact formed_exec h
  · exact State.cellsOk_resume h
  · split
    · exact h
    · split
      · exact State.formed_takeIn h
      · exact h
  · split
    · exact h
    · exact State.cellsOk_takeFrame h
  · split
    · exact h
    · exact State.cellsOk_emit h
  · exact h
  · split
    · exact h
    · exact State.formed_takeIn h
  · exact State.cellsOk_evictLine _ _ _ h
  · exact State.cellsOk_upset (State.cellsOk_endCycle h)

theorem State.formed_advance {s : State} (h : s.cellsOk = true) : Formed s.advance := by
  have hn : s.noteStalls.cellsOk = true := State.cellsOk_noteStalls h
  unfold State.advance
  split
  · exact State.formed_runSlot h
  · split
    · exact State.cellsOk_settleTrap h
    · generalize s.noteStalls = t at hn ⊢
      dsimp only
      split
      · exact formed_exec hn
      · exact State.formed_act hn

/-! ## Step -/

theorem formed_step {s : State} (h : s.cellsOk = true) : Formed (step s) := by
  unfold step
  split
  next t he => exact State.cellsOk_frame (kept_of_eq he (State.formed_advance h) :) rfl rfl
  · trivial
  · trivial

/-- Settles O35: every operation of the model keeps the canonical form of the cells, so each instruction, each step of an agent and each input does (`formed_exec`, `State.formed_act`). -/
theorem stepKeepsMemory : Obligations.StepKeepsMemory := by
  unfold Obligations.StepKeepsMemory
  intro s t h hs
  exact (kept_of_eq hs (formed_step h) :)

end Sys2Proof.Machine
end
